-- ==== Sys2Proof/Word.lean ====
section
/-! DEFINITION. The plainest words of the model: a byte, and a string of bytes as it stands in a packet, a frame or a memory. -/

namespace Sys2Proof

/-- One byte. -/
abbrev Byte := BitVec 8

/-- A string of bytes, the first byte sent or stored first. -/
abbrev Bytes := List Byte

end Sys2Proof
end

