-- ==== Sys2Proof/Syntax.lean ====
section
/-! DEFINITION. The commands the block takes: one constructor of `Instr` per row of spec/opcode_table.json, with the row's operands
(chapters 2 to 21 of spec/; the TLVs of R396 for the packet commands). Quantities of the outside world that an event
senses (a level, a measured edge, the bytes of a frame or of host memory) are operands. -/

namespace Sys2Proof

/-- The roles of R350. -/
inductive Role where
  | observer | operator | engineer | owner | twin | referee
  deriving DecidableEq, Repr, Inhabited

/-- The ROLE codes 1 to 6 of R350. -/
def Role.code : Role → Nat
  | .observer => 1 | .operator => 2 | .engineer => 3 | .owner => 4 | .twin => 5 | .referee => 6

/-- The role of a ROLE code. -/
def Role.ofCode : Nat → Option Role
  | 1 => some .observer | 2 => some .operator | 3 => some .engineer | 4 => some .owner | 5 => some .twin
  | 6 => some .referee | _ => none

/-- The path a request arrived on, with what a reply needs (R361 to R363, R372, R373): ingress port, sender MAC, outer tag,
sender IP address and UDP port. `over` is such a path inside a TYPE 0 Zidom frame from a device of the fabric (R317). -/
inductive Via where
  | eth (port : Fin 513) (sa : Nat) (tag : Option Nat)
  | udp4 (port : Fin 513) (sa : Nat) (tag : Option Nat) (ip sport : Nat)
  | udp6 (port : Fin 513) (sa : Nat) (tag : Option Nat) (ip sport : Nat)
  | ring
  | twinLink
  | mbx (n : Fin 16)
  | door (b : Fin 32)
  | over (dev : Fin 64) (v : Via)
  deriving DecidableEq, Repr, Inhabited

/-- The header of a request whose checks 1 to 5 have passed (R354): key slot, role, path, TXN_ID, SEQUENCE and the sender time in
2^-16 ns (seconds modulo 2^32). `era` is the number of host resets before the request was taken (R368). -/
structure Req where
  slot : Nat
  role : Role
  via : Via
  txn : Nat
  seq : Nat
  sent : Nat
  era : Nat := 0
  deriving DecidableEq, Repr, Inhabited

/-- An object with the elements named (R396: OBJ, ELEM). -/
structure ObjSel where
  obj : Nat
  elem : Option (Nat × Nat)
  deriving DecidableEq, Repr, Inhabited

/-- One write of an OBJ_WRITE (R400): VALUE and MASK as sent. -/
structure ObjWrite where
  obj : Nat
  elem : Option (Nat × Nat)
  value : Bytes
  mask : Option Bytes
  deriving DecidableEq, Repr, Inhabited

/-- The argument of a TIME_STEP (R169). -/
inductive StepArg where
  | offset (o : Int)
  | time (t : Nat)
  deriving DecidableEq, Repr, Inhabited

/-- INDEX or KEY (R402). -/
inductive TblSel where
  | index (i : Nat)
  | key (k : Bytes)
  deriving DecidableEq, Repr, Inhabited

/-- CHUNK or HOST_BUF (R403). -/
inductive ImgSrc where
  | chunk (off total : Nat) (data : Bytes)
  | host (addr len : Nat)
  deriving DecidableEq, Repr, Inhabited

/-- What waits for a scope (R380): the commit of a transaction, or the n-th parked request. -/
inductive Waiter where
  | commit (id : Nat)
  | parked (n : Nat)
  deriving DecidableEq, Repr, Inhabited

/-- The two measurements of one item of a calibration run (R428), in units of 2^-10 ns: PROC 0 S_n − S_PPS0; PROC 1 S − T; PROC 2
S − tx_ball and rx_ball − tx_ball; PROC 3 d_ab and d_ba. `signal` is false when an edge or frame did not arrive. -/
structure CalMeas where
  signal : Bool
  a1 : Int
  b1 : Int
  a2 : Int
  b2 : Int
  sd : Nat
  deriving DecidableEq, Repr, Inhabited

/-- What the scrubber found in a table word (R433). -/
inductive Ecc where
  | clean | corrected | uncorrectable
  deriving DecidableEq, Repr, Inhabited

/-- What a receive MAC delivers (R125): an express frame, a preemptable frame reassembled from fragments, or a verify or respond
packet of the preemption protocol. -/
inductive RxKind where
  | express
  | preemptable (frags : Nat)
  | verify
  | respond
  deriving DecidableEq, Repr, Inhabited

/-- Whether what a receive MAC delivers is a frame. -/
def RxKind.isFrame : RxKind → Bool
  | .verify => false
  | .respond => false
  | _ => true

/-- Where an edge lies at a TDC channel (R185): whole ticks beyond the present one before the tick it falls in, the tap, the vernier stage. -/
structure Fine where
  ahead : Nat := 0
  tap : Fin 64 := 0
  stage : Fin 64 := 0
  deriving DecidableEq, Repr, Inhabited

/-- Where the clock edge lies at which the word with a stamp point is delivered, taken or latched (R174, R175, R177), and which lane of the port carried
the start block. -/
structure Edge where
  at_ : Fine := {}
  lane : Fin 4 := 0
  deriving DecidableEq, Repr, Inhabited

/-- What one lane's FEC decoder has found since the port's last tail check (R58): symbols and codewords corrected, codewords uncorrectable. -/
structure FecLane where
  symCorr : Nat := 0
  cwCorr : Nat := 0
  cwUncorr : Nat := 0
  deriving DecidableEq, Repr, Inhabited

/-- What FEC has found (R21, R58): whether the frame touches an uncorrectable codeword, and the counts of the port's lanes in order. -/
structure FecCount where
  err : Bool := false
  lanes : List FecLane := []
  deriving DecidableEq, Repr, Inhabited

/-- What an access to an optical module met (R71, R72): the bytes read or the write taken, no acknowledge, or clock stretch beyond
10 ms. -/
inductive OptResp where
  | done (data : Bytes)
  | nack
  | stretch
  deriving DecidableEq, Repr, Inhabited
/-- The operand fields of an operation descriptor (R279); the operation itself is the command's row. -/
structure Desc where
  typ : Fin 4 := 0
  pred : Fin 8 := 0
  pneg : Bool := false
  dst : Fin 32 := 0
  a : Fin 32 := 0
  b : Fin 32 := 0
  c : Fin 32 := 0
  flags : Fin 64 := 0
  imm : Nat := 0
  addr : Nat := 0
  aux : Nat := 0
  deriving DecidableEq, Repr, Inhabited


/-- The commands, in the order of spec/opcode_table.json. -/
inductive Instr where
  -- Command packets (18_command_reference.md)
  | nop (r : Req)
  | identify (r : Req)
  | objRead (r : Req) (objs : List ObjSel)
  | objWrite (r : Req) (ws : List ObjWrite)
  | objReadBulk (r : Req) (obj : Nat) (last : Option Nat)
  | txnBegin (r : Req)
  | txnCommit (r : Req) (mode : Nat) (allowLate : Bool) (domain : Fin 4) (time : Option Nat)
  | txnRollback (r : Req)
  | txnStatus (r : Req)
  | tblInsert (r : Req) (tbl : Nat) (entry : Nat) (index : Option Nat)
  | tblDelete (r : Req) (tbl : Nat) (sel : TblSel)
  | tblLookup (r : Req) (tbl : Nat) (sel : TblSel)
  | tblDma (r : Req) (tbl : Nat) (host first count : Nat) (write stamps : Bool) (data : Option Bytes)
  | tblBarrier (r : Req) (timeout : Option Nat)
  | queueFlush (r : Req) (all : Bool) (n : Nat)
  | timeGet (r : Req)
  | timeStep (r : Req) (a : StepArg)
  | timeIncr (r : Req) (adjNew : Int) (duration : Nat) (adjAfter : Int)
  | refForce (r : Req) (time : Bool) (action ref : Nat)
  | jumpAccept (r : Req) (id action : Nat)
  | cycLoad (r : Req) (engines : Nat) (src : ImgSrc)
  | cycStart (r : Req) (d : Fin 4)
  | cycStop (r : Req) (d : Fin 4)
  | cycSwap (r : Req) (engines : Nat)
  | cntSnapshot (r : Req)
  | cntRead (r : Req) (sels : List Nat)
  | jrnRead (r : Req) (fromSeq count : Nat)
  | jrnMark (r : Req) (value : Nat) (blob : Bytes)
  | twinStatus (r : Req)
  | twinPromote (r : Req) (lastHb : Nat) (twin : Option (Bool × Fin 2))
  | twinDemote (r : Req)
  | twinCheckpoint (r : Req) (cls seq : Nat) (data : Bytes)
  | twinHeartbeat (r : Req) (unit : Fin 2)
  | fabStatus (r : Req)
  | fabAssign (r : Req) (dev : Fin 64)
  | fabRoute (r : Req) (inPort : Option Nat) (dev : Fin 64) (cls : Fin 8)
  | fwStage (r : Req) (target : Nat) (src : ImgSrc)
  | fwWrite (r : Req) (target : Nat)
  | fwActivate (r : Req) (target : Nat)
  | fwStatus (r : Req)
  | calRun (r : Req) (cal : Nat)
  | calCommit (r : Req) (cal : Nat)
  | lullCtrl (r : Req) (word : Nat)
  | loopback (r : Req) (word : Nat)
  | diagCapture (r : Req) (word : Nat) (host : Option (Nat × Nat))
  | keyInstall (r : Req) (slot role transports : Nat) (key : Bytes)
  | keyRetire (r : Req) (slot role transports : Nat)
  | roleMap (r : Req) (slot role transports : Nat)
  -- Command path and host interface (16_command_interface.md)
  | cmdPacketRx (via : Via) (idle : Bool) (bytes : Bytes)
  | hifRegWrite (off width : Nat) (value : Option Nat)
  | hifCmdTailWrite (tail : Nat) (idle : Bool) (reqs : List (Option Bytes))
  | hifInjTailWrite (tail : Nat) (frames : List (Option (Nat × Bytes)))
  | injectFrame
  | hifRspTailWrite (delivery : Bool) (tail : Nat) (rooms : List Nat)
  | rspRingTimeout
  | hostReset
  | hifMbxPost (n : Fin 16)
  | mbxCommandTake (n : Fin 16)
  | hifMbxAck (mask : Nat)
  | hifEmbxPost (e : Fin 64)
  | hifDbSet (bits : Nat)
  | doorbellCommandStart (b : Fin 32)
  -- Register commands with an effect of their own
  | evoSetLow (r : Req) (n : Fin 32) (time : Nat)
  | evoSetHigh (r : Req) (n : Fin 32) (time : Nat)
  | evoToggle (r : Req) (n : Fin 32) (time : Nat)
  | evoPulse (r : Req) (n : Fin 32) (time width : Nat)
  | synVreq (r : Req) (d : Fin 5) (v : Nat)
  | hpiOffset (r : Req) (theta : Int)
  | optRaw (r : Req) (port : Fin 513) (write : Bool) (dev page off len : Nat) (data : Bytes) (resp : OptResp) (flat : Bool)
  | eviFifo (r : Req) (n : Fin 32)
  | ivlSamples (r : Req) (n : Fin 32)
  | arbFreezeSet (r : Req) (a : Fin 142)
  | arbFreezeClear (r : Req) (a : Fin 142) (reqs : List (Nat × Nat))
  | tblLockSet (r : Req) (t : Fin 7) (seg : Fin 64)
  | tblLockDrained (t : Fin 7) (seg : Fin 64)
  | tblLockRelease (r : Req) (t : Fin 7) (seg : Fin 64)
  | lockExpired (t : Fin 7) (seg : Fin 64)
  -- The frame path
  | rxFrameStart (port : Fin 513) (kind : RxKind) (bytes : Bytes) (edge : Edge) (deskew : Int)
  | keyPoint (f : Nat)
  | lookupPoint (f taken : Nat) (retry : Bool)
  | gatherTap (f : Nat)
  | rxOversizeCut (f : Nat)
  | confirmation (f : Nat) (codeErr : Bool) (fec : FecCount) (fragErr : Bool)
  | pauseExpire (port : Fin 513)
  | pfcRepeat (port : Fin 512)
  | errorMarkerLateConfirm (port : Fin 513)
  | egressStartOpportunity (port : Fin 513) (unit : Nat) (edge : Edge)
  | releaseStageArrival (q : Fin 4104)
  | launchSent (port : Fin 513) (b : Nat) (edge : Edge)
  | txFrameEnd (port : Fin 513)
  | shaperWake (q : Fin 4104)
  | redAvgUpdate
  | gateEntryChange (port : Fin 512)
  | gateChangeTime (list : Nat)
  | streamGateEntryChange (g : Fin 512)
  | verifyTimer (port : Fin 512)
  | lpiSleepDelay (port : Fin 512)
  | eidleHoldoffExpire (port : Fin 512)
  | eidleWakeDone (port : Fin 512)
  | eidleWakeFail (port : Fin 512)
  | eidleLldpSend (port : Fin 512)
  | eidleReportExpire (port : Fin 512)
  | linkStateChange (port : Fin 513) (up an : Bool) (speed : Nat)
  -- Optical modules
  | optPoll (port : Fin 513) (flags : Nat) (resp : OptResp)
  | optStretchTimeout (port : Fin 513)
  -- Core speed and arbiters
  | baroSample (counts : List Nat)
  | arbPhase (a : Fin 142) (reqs : List (Nat × Nat))
  | arbDataPhaseEnd (a : Fin 142)
  | arbWdExpired (a : Fin 142)
  -- Tables
  | learnRequestApply
  | ageVisit (bucket : Fin 65536)
  | seqHistoryReset (stream : Fin 4096)
  | tblCleanup (t : Fin 7)
  | tblBarrierDone
  | tblBarrierTimeout (n : Nat)
  -- Timebase, phase and events
  | timeIncrDurationEnd
  | tdcLockChange (ch : Fin 1104) (loops : Int × Int)
  | phmLos (m : Fin 520)
  | phmRestart (m : Fin 520) (edge : Fine)
  | evtInEdge (n : Fin 32) (rising : Bool) (hold : Nat) (edge : Fine)
  | ivlPairDecide (u : Fin 32)
  | evoEdgePlace (n : Fin 32) (pad : Option Fine)
  | evoPeriodicPulse (n : Fin 32) (pad : Option Fine)
  | ppsOutPulse (m : Fin 8) (pads : Option Fine × Option Fine)
  -- Synthesisers and clock outputs
  | dpllUpdate (d : Fin 5) (e : Int) (phases : List (Nat × Int))
  | dpllFreqCheck (d : Fin 5) (off e : Int)
  | dpllHopDone (d : Fin 5)
  | rampProfileStart (d : Fin 5)
  | rampHoldExpire (d : Fin 5)
  | synTargetStart (d : Fin 5)
  | encQuarterEdge (d : Fin 5)
  | ckoAlignRestart (o : Fin 8) (edge : Int)
  -- Carillon
  | selEvaluate
  | suppressWindowEnd
  | refQualify (n : Fin 24)
  | refDisqualified (n : Fin 24)
  | refMeasWindow (n : Fin 24)
  | selAcqTimeout (time : Bool)
  | hoMaxExpire (time : Bool)
  | hoHistoryRecord (time : Bool)
  | ptpMsgProcess (cls : Fin 8)
  | ptpSyncSend (port : Fin 512)
  | ptpAnnounceSend (port : Fin 512)
  | ptpDelayReqSend (port : Fin 512)
  | annTimeout (port : Fin 512)
  | esmcPduRx (cls : Fin 8)
  | qlTimeout (port : Fin 512)
  | esmcInfoSend (port : Fin 512)
  -- Cycle domains
  | cycTrigger (d : Fin 4)
  | gatherDeadline (d : Fin 4)
  | engineWaitseqResume (e : Fin 64)
  | engineProgramEnd (e : Fin 64)
  | fenceOpen (d : Fin 4)
  | scatterEnqueue (sec : Fin 8)
  -- Drumline operations
  | opNop (e : Fin 64) (d : Desc)
  | opLoad (e : Fin 64) (d : Desc)
  | opStore (e : Fin 64) (d : Desc)
  | opMovi (e : Fin 64) (d : Desc)
  | opShuf (e : Fin 64) (d : Desc)
  | opGather (e : Fin 64) (d : Desc)
  | opWaitseq (e : Fin 64) (d : Desc)
  | opTsub (e : Fin 64) (d : Desc)
  | opRecv (e : Fin 64) (d : Desc)
  | opCntrd (e : Fin 64) (d : Desc)
  | opAxflt (e : Fin 64) (d : Desc)
  | opAdd (e : Fin 64) (d : Desc)
  | opSub (e : Fin 64) (d : Desc)
  | opMul (e : Fin 64) (d : Desc)
  | opMac (e : Fin 64) (d : Desc)
  | opDiv (e : Fin 64) (d : Desc)
  | opNeg (e : Fin 64) (d : Desc)
  | opAbs (e : Fin 64) (d : Desc)
  | opMin (e : Fin 64) (d : Desc)
  | opMax (e : Fin 64) (d : Desc)
  | opClamp (e : Fin 64) (d : Desc)
  | opShift (e : Fin 64) (d : Desc)
  | opCvt (e : Fin 64) (d : Desc)
  | opSqrt (e : Fin 64) (d : Desc)
  | opCmp (e : Fin 64) (d : Desc)
  | opPlog (e : Fin 64) (d : Desc)
  | opVmaster (e : Fin 64) (d : Desc)
  | opGear (e : Fin 64) (d : Desc)
  | opCam (e : Fin 64) (d : Desc)
  | opRegist (e : Fin 64) (d : Desc)
  | opFilt (e : Fin 64) (d : Desc)
  | opPid (e : Fin 64) (d : Desc)
  | opField (e : Fin 64) (d : Desc)
  | opScatter (e : Fin 64) (d : Desc)
  | opEvtreq (e : Fin 64) (d : Desc)
  | opVreq (e : Fin 64) (d : Desc)
  | opPost (e : Fin 64) (d : Desc)
  | opSkip (e : Fin 64) (d : Desc)
  | opEnd (e : Fin 64) (d : Desc)
  -- Fabric and coalescer
  | fabHelloSend (port : Fin 512)
  | fabHelloRx (port : Fin 512) (payload : Bytes)
  | fabHelloTimeout (port : Fin 512)
  | fabRecordSend
  | fabRecordRx (port : Fin 512) (payload : Bytes)
  | fabRecordExpire
  | fabRouteRecompute
  | fabCreditSend (port : Fin 512)
  | fabCreditRx (port : Fin 512) (payload : Bytes)
  | fabCreditWdDrop (q : Fin 4096)
  | coalWindowEnd (event cls : Nat)
  -- Twins
  | twinPresentProbe (low : Bool)
  | twinHoldInEdge
  | twinHoldReleased
  | twinClaimCheck
  | holdWdExp
  | tFenceExpire
  | thawEgressOpen
  | twinStateSave
  | takebackStart
  | preThawStart
  -- Transactions and journal
  | txnIdleTimeout (id : Nat)
  | txnScopeAcquired (w : Waiter)
  | txnLockWaitTimeout (w : Waiter)
  | txnPrepareDone (id : Nat)
  | txnCommitPoint (id : Nat)
  | jrnSpill (ok : Bool)
  -- Start-up, power, firmware
  | fwSwitchover
  | fwHandoverConfirm
  | fwHandoverRevert
  | fwRestart
  | mgmtWatchdogExpire
  | resetRelease (ka : Nat) (ok : Bool)
  | resetAssert
  | powerFail
  | vbakLost
  | xtalFail
  | kaTimeSet
  -- Thermal, calibration, Lull test
  | thermSample (n : Fin 8) (t : Int)
  | calRunDone (ms : List CalMeas)
  | lullCellTest (cell : Nat) (pass : Bool)
  | lullScrub (t : Fin 7) (index : Nat) (e : Ecc)
  | lullTdcPulse (ch : Nat) (dev : Int)
  | lullEngineTest (e : Fin 64) (pass : Bool)
  -- Ticks and remaining events
  | timebaseTick (n : Nat)
  | phmSample (m : Fin 520) (seen : Nat × Fine)
  | lpiRx (port : Fin 512) (low : Bool)
  | eidleRxEntry (port : Fin 512)
  | eidleRxWake (port : Fin 512)
  | trappedFrameHandle (cls : Fin 8) (idle : Bool)
  | fwWriteDone (target : Fin 4) (ok : Bool)
  | tblDmaDone (n : Nat) (data : Bytes)
  | diagCaptureDone (sensed : Bytes)
  | imageFetchDone (n : Nat) (data : Bytes)
  | ckptLagExceeded
  | checkpointSend
  | factoryTestAccessOpen
  deriving DecidableEq, Repr

end Sys2Proof
end

