-- ==== Sys2Proof/Decode.lean ====
section
/-! DEFINITION. Commands from the bits of the opcode table. Every row of the table gives no bits: commands reach the block as packets, register
accesses and events, and none is spelled by a word. -/

namespace Sys2Proof

/-- The command that a word spells by the table's bits: no row has any. -/
def decodeTableWord (_nbits _w : Nat) : Option Instr := none

end Sys2Proof
end

