-- ==== Sys2Proof/Machine/Operands.lean ====
section
/-! DEFINITION. Operand forms: bit fields of numbers, big-endian byte strings, two's complement, and the number formats of
R12 (00_scope.md), all over plain numbers. -/

namespace Sys2Proof.Machine

/-- Bits lo+w-1 to lo of v. -/
def bitsOf (v lo w : Nat) : Nat := (v >>> lo) % 2 ^ w

/-- v with bits lo+w-1 to lo replaced by the low w bits of x. -/
def withBits (v lo w x : Nat) : Nat := v - (bitsOf v lo w <<< lo) + ((x % 2 ^ w) <<< lo)

/-- Bit b of v. -/
def bitOf (v b : Nat) : Bool := v.testBit b

/-- v with bit b set. -/
def setBit (v b : Nat) : Nat := v ||| (1 <<< b)

/-- v with bit b clear. -/
def clrBit (v b : Nat) : Nat := if v.testBit b then v - (1 <<< b) else v

/-- The two's complement reading of a w-bit number. -/
def signed (w v : Nat) : Int := if v < 2 ^ (w - 1) then (v : Int) else (v : Int) - (2 ^ w : Nat)

/-- The w-bit two's complement code of z (modulo 2^w). -/
def encS (w : Nat) (z : Int) : Nat := (z % ((2 ^ w : Nat) : Int)).toNat

/-- z clamped to the signed w-bit range. -/
def satS (w : Nat) (z : Int) : Int := max (-((2 ^ (w - 1) : Nat) : Int)) (min (((2 ^ (w - 1) : Nat) : Int) - 1) z)

/-- v clamped to the unsigned w-bit range (a saturating counter or a field that stops at its largest value). -/
def satU (w v : Nat) : Nat := min (2 ^ w - 1) v

/-- 1 for true, 0 for false. -/
def b2n (b : Bool) : Nat := if b then 1 else 0

/-- Quotient rounded to nearest, ties away from zero on the magnitude. -/
def divRound (a : Nat) (b : Nat) : Nat := (2 * a + b) / (2 * b)

/-- Ceiling division. -/
def ceilDiv (a b : Nat) : Nat := (a + b - 1) / b

/-- Ceiling division of a signed by a positive number. -/
def ceilDivI (a : Int) (b : Nat) : Int := (a + b - 1) / b

/-- Quotient of a signed by a positive number, rounded to nearest, ties away from zero. -/
def divRoundS (a : Int) (b : Nat) : Int := if 0 ≤ a then (divRound a.natAbs b : Int) else -(divRound a.natAbs b : Int)

/-- Bits of the integer square root from bit k down. -/
def isqrtFrom (n : Nat) : Nat → Nat → Nat
  | 0, r => r
  | k + 1, r =>
    let r' := r + 2 ^ k
    isqrtFrom n k (if r' * r' ≤ n then r' else r)

/-- The integer square root, rounded down (for n below 2^512). -/
def isqrt (n : Nat) : Nat := isqrtFrom n 256 0

/-- The value of a big-endian byte string. -/
def natOfBytes (b : Bytes) : Nat := b.foldl (fun a x => a * 256 + x.toNat) 0

/-- The n-byte big-endian code of v (its low 8n bits). -/
def bytesOfNat : Nat → Nat → Bytes
  | 0, _ => []
  | n + 1, v => BitVec.ofNat 8 (v >>> (8 * n)) :: bytesOfNat n v

/-- The n-byte little-endian code of v. -/
def bytesOfNatLE (n v : Nat) : Bytes := (bytesOfNat n v).reverse

/-- The value of a little-endian byte string. -/
def natOfBytesLE (b : Bytes) : Nat := natOfBytes b.reverse

/-- n bytes of b from offset off, zeros past its end. -/
def sliceBytes (b : Bytes) (off n : Nat) : Bytes :=
  let t := (b.drop off).take n
  t ++ List.replicate (n - t.length) 0#8

/-- The big-endian number in n bytes of b from offset off. -/
def natAt (b : Bytes) (off n : Nat) : Nat := natOfBytes (sliceBytes b off n)

/-- ASCII text as bytes. -/
def asciiBytes (t : List Char) : Bytes := t.map fun c => BitVec.ofNat 8 c.toNat

end Sys2Proof.Machine
end

