-- ==== Sys2Proof/Machine/Crypto.lean ====
section
/-! DEFINITION. The named algorithms the spec calls by their standards: SHA-256 and HMAC-SHA-256 (R353, R392), the CRC-32 of the
IEEE 802.3 FCS (R390), and AES key unwrap of RFC 3394 (R358). PRESUMED: their text is that of the standards, not of spec/. -/

namespace Sys2Proof.Machine

/-- A 32-bit word. -/
def w32 (x : Nat) : Nat := x % 2 ^ 32

/-- The exclusive or of a word rotated right by each of `rs`. -/
def rotXor (rs : List Nat) (x : Nat) : Nat := rs.foldl (fun s r => s ^^^ w32 ((x * (2 ^ 32 + 1)) >>> r)) 0

/-- The largest r of k bits above those of r₀ whose e-th power does not exceed n. -/
def rootFrom (e n : Nat) : Nat → Nat → Nat
  | 0, r => r
  | k + 1, r => rootFrom e n k (if (r + 2 ^ k) ^ e ≤ n then r + 2 ^ k else r)

/-- The first 32 bits of the fractional part of the e-th root of p: what FIPS 180-4 takes its constants from. -/
def rootFraction (e p : Nat) : Nat := w32 (rootFrom e (p * 2 ^ (32 * e)) 38 0)

/-- The first 64 primes, those up to 311. -/
def shaPrimes : List Nat := (List.range 312).filter fun n => decide (2 ≤ n) && [2, 3, 5, 7, 11, 13, 17].all fun d => n == d || n % d != 0

/-- The round constants: from the cube roots of the first 64 primes. -/
def shaRoundConsts : List Nat := shaPrimes.map (rootFraction 3)

/-- The chaining words, as the last four values of a and of e, latest first: at the start from the square roots of the first 8 primes. -/
def shaStart : List Nat × List Nat :=
  let h := (shaPrimes.take 8).map (rootFraction 2)
  (h.take 4, h.drop 4)

/-- The first n words of a byte string, the last one first. -/
def wordsBack (n : Nat) (b : Bytes) : List Nat := (List.range n).foldl (fun l k => natAt b (4 * k) 4 :: l) []

/-- The message schedule as far as n words more, latest first. -/
def shaSchedule : Nat → List Nat → List Nat
  | 0, w => w
  | n + 1, w =>
    let near := w.getD 1 0
    let far := w.getD 14 0
    shaSchedule n
      (w32 (w.getD 15 0 + w.getD 6 0 + (rotXor [7, 18] far ^^^ far / 2 ^ 3) + (rotXor [17, 19] near ^^^ near / 2 ^ 10)) :: w)

/-- One round with its constant plus its word: the next value of a and of e joins the last three. -/
def shaRound (v : List Nat × List Nat) (kw : Nat) : List Nat × List Nat :=
  match v with
  | ([a, b, c, d], [e, f, g, h]) =>
    let t := h + rotXor [6, 11, 25] e + (g ^^^ (e &&& (f ^^^ g))) + kw
    ([w32 (t + rotXor [2, 13, 22] a + ((a &&& b) ||| (c &&& (a ||| b)))), a, b, c], [w32 (d + t), e, f, g])
  | v => v

/-- Two lists of words added word by word. -/
def addWords (u v : List Nat) : List Nat := List.zipWith (fun x y => w32 (x + y)) u v

/-- One 64-byte block taken in. -/
def shaBlock (v : List Nat × List Nat) (blk : Bytes) : List Nat × List Nat :=
  let r := (List.zipWith (· + ·) shaRoundConsts (shaSchedule 48 (wordsBack 16 blk)).reverse).foldl shaRound v
  (addWords v.1 r.1, addWords v.2 r.2)

/-- n blocks in turn. -/
def shaBlocks : Nat → List Nat × List Nat → Bytes → List Nat × List Nat
  | 0, v, _ => v
  | n + 1, v, b => shaBlocks n (shaBlock v (b.take 64)) (b.drop 64)

/-- The padding of FIPS 180-4 for a message of n bytes. -/
def shaPad (n : Nat) : Bytes :=
  0x80#8 :: List.replicate ((119 - n % 64) % 64) 0#8 ++ bytesOfNat 8 (8 * n)

/-- SHA-256 of a byte string, as a 256-bit number. -/
def sha256 (m : Bytes) : Nat :=
  let p := m ++ shaPad m.length
  let v := shaBlocks (p.length / 64) shaStart p
  (v.1 ++ v.2).foldl (fun n x => n * 2 ^ 32 + x) 0

/-- HMAC-SHA-256 (RFC 2104) under a 32-byte key given as a 256-bit number. -/
def hmac256 (key : Nat) (m : Bytes) : Nat :=
  let k := bytesOfNat 32 key ++ List.replicate 32 0#8
  sha256 (k.map (· ^^^ 0x5c#8) ++ bytesOfNat 32 (sha256 (k.map (· ^^^ 0x36#8) ++ m)))

/-- One bit of the reflected CRC-32. -/
def crcBit (x : Nat) : Nat := if x % 2 = 1 then (x >>> 1) ^^^ 0xEDB88320 else x >>> 1

/-- One byte of the CRC-32. -/
def crcByte (x : Nat) (b : Byte) : Nat :=
  crcBit (crcBit (crcBit (crcBit (crcBit (crcBit (crcBit (crcBit (x ^^^ b.toNat))))))))

/-- The CRC-32 of the IEEE 802.3 FCS: initial value 0xFFFF_FFFF, final complement. -/
def crc32 (m : Bytes) : Nat := (m.foldl crcByte 0xFFFFFFFF) ^^^ 0xFFFFFFFF

/-- The four FCS bytes of a frame, least significant byte first on the wire. -/
def fcsBytes (m : Bytes) : Bytes := bytesOfNatLE 4 (crc32 m)

/-- Multiplication by x in the AES field. -/
def gfX (a : Nat) : Nat := if a < 128 then 2 * a else ((2 * a) ^^^ 0x11B) % 256

/-- Multiplication in the AES field, n bits of b. -/
def gfMulN : Nat → Nat → Nat → Nat
  | 0, _, _ => 0
  | n + 1, a, b => (if b % 2 = 1 then a else 0) ^^^ gfMulN n (gfX a) (b / 2)

def gfMul (a b : Nat) : Nat := gfMulN 8 a b

/-- The field inverse, a to the power 254. -/
def gfInv (a : Nat) : Nat :=
  let a2 := gfMul a a
  let a4 := gfMul a2 a2
  let a8 := gfMul a4 a4
  let a16 := gfMul a8 a8
  let a32 := gfMul a16 a16
  let a64 := gfMul a32 a32
  let a128 := gfMul a64 a64
  gfMul a2 (gfMul a4 (gfMul a8 (gfMul a16 (gfMul a32 (gfMul a64 a128)))))

def rotl8 (n x : Nat) : Nat := ((x <<< n) ||| (x >>> (8 - n))) % 256

/-- The AES substitution box. -/
def aesS (a : Nat) : Nat :=
  let b := gfInv a
  b ^^^ rotl8 1 b ^^^ rotl8 2 b ^^^ rotl8 3 b ^^^ rotl8 4 b ^^^ 0x63

/-- Its inverse. -/
def aesInvS (a : Nat) : Nat := gfInv (rotl8 1 a ^^^ rotl8 3 a ^^^ rotl8 6 a ^^^ 0x05)

/-- The substitution box on the four bytes of a word. -/
def subWord (w : Nat) : Nat :=
  ((aesS ((w >>> 24) % 256) * 256 + aesS ((w >>> 16) % 256)) * 256 + aesS ((w >>> 8) % 256)) * 256 + aesS (w % 256)

/-- n further words of the AES-256 key schedule from word number i, the latest first. -/
def aesExpand : Nat → Nat → Nat → List Nat → List Nat
  | 0, _, _, w => w
  | n + 1, i, rcon, w =>
    let t := w.headD 0
    let t' :=
      if i % 8 = 0 then subWord (w32 ((t <<< 8) ||| (t >>> 24))) ^^^ (rcon <<< 24)
      else if i % 8 = 4 then subWord t else t
    aesExpand n (i + 1) (if i % 8 = 0 then gfX rcon else rcon) ((w.getD 7 0 ^^^ t') :: w)

/-- The 15 round keys of AES-256, last first, 16 bytes each. -/
def aesKeys (key : Nat) : List (List Nat) :=
  let w := aesExpand 52 8 1 (wordsBack 8 (bytesOfNat 32 key))
  let rec groups : Nat → List Nat → List (List Nat)
    | 0, _ => []
    | n + 1, l => ((l.take 4).reverse.flatMap fun x => [x >>> 24, (x >>> 16) % 256, (x >>> 8) % 256, x % 256]) :: groups n (l.drop 4)
  groups 15 w

def xorL (a b : List Nat) : List Nat := (a.zip b).map fun p => p.1 ^^^ p.2

/-- Inverse row shift of the column-major state. -/
def invShiftRows (s : List Nat) : List Nat :=
  (List.range 16).map fun i => s.getD ((i + 16 - 4 * (i % 4)) % 16) 0

/-- Inverse column mix. -/
def invMixColumns (s : List Nat) : List Nat :=
  (List.range 16).map fun i =>
    let c := i / 4 * 4
    let r := i % 4
    gfMul (s.getD (c + r) 0) 14 ^^^ gfMul (s.getD (c + (r + 1) % 4) 0) 11 ^^^
    gfMul (s.getD (c + (r + 2) % 4) 0) 13 ^^^ gfMul (s.getD (c + (r + 3) % 4) 0) 9

/-- AES-256 decryption of one block with the round keys, last first. -/
def aesDecrypt (keys : List (List Nat)) (blk : List Nat) : List Nat :=
  match keys with
  | [] => blk
  | k0 :: ks =>
    let s := xorL blk k0
    let mid := ks.dropLast.foldl (fun s k => invMixColumns (xorL ((invShiftRows s).map aesInvS) k)) s
    xorL ((invShiftRows mid).map aesInvS) (ks.getLastD [])

/-- One step of the RFC 3394 unwrap: t counts down; a is the check block, r the key blocks. -/
def unwrapSteps (keys : List (List Nat)) : Nat → Nat → List Nat → Nat × List Nat
  | 0, a, r => (a, r)
  | t + 1, a, r =>
    let i := t % 4
    let blk := (a ^^^ (t + 1)) * 2 ^ 64 + r.getD i 0
    let o := (aesDecrypt keys ((bytesOfNat 16 blk).map BitVec.toNat)).foldl (fun x b => x * 256 + b) 0
    unwrapSteps keys t (o >>> 64) (r.set i (o % 2 ^ 64))

/-- RFC 3394 unwrap of a 320-bit wrapped 256-bit key; none when its integrity check fails. -/
def aesUnwrap (kek wrapped : Nat) : Option Nat :=
  let r := [(wrapped >>> 192) % 2 ^ 64, (wrapped >>> 128) % 2 ^ 64, (wrapped >>> 64) % 2 ^ 64, wrapped % 2 ^ 64]
  let o := unwrapSteps (aesKeys kek) 24 (wrapped >>> 256) r
  if o.1 = 0xA6A6A6A6A6A6A6A6 then some (o.2.foldl (fun x b => x * 2 ^ 64 + b) 0) else none

end Sys2Proof.Machine
end

