-- ==== Sys2Proof/Config.lean ====
section
/-! DEFINITION. What an implementation fixes and the spec leaves open: constants without a body, so no proof can see a value. -/

namespace Sys2Proof

/-- The random number r of R104, drawn for the n-th time (log entry 2). -/
opaque Config.redRandom : Nat → BitVec 16

/-- The wake time the device offers in its LLDP EEE TLV on a port of a mode (R64), in the TLV's units (log entry 20). -/
opaque Config.wakeTime : Nat → BitVec 16

/-- Factory trims D_IN of an event input and D_OUT of an event or pulse output, in 2^-10 ns (R193, R200; log entry 25). -/
opaque Config.trimIn : Nat → BitVec 16
opaque Config.trimOut : Nat → BitVec 16

/-- The factory trim of a lane's decode (`false`) or encode latency, from which `laneTrim` takes at most 0.200 ns either way (R176; log entry 148). -/
opaque Config.latencyTrim : Bool → Nat → BitVec 16

/-- The Clause 78 sleep delay of a mode's PCS in units of 10 ps (R64; log entry 149). -/
opaque Config.lpiSleep : Nat → BitVec 32

/-- The factory linearity trim of a tap of a TDC channel, from which `linTrim` takes at most 4 raw steps either way (R185; log entry 164). -/
opaque Config.linTrim : Nat → Nat → BitVec 8

/-- The band code and tuning word a band search finds, for the n-th draw (R214; log entry 165). -/
opaque Config.bandWord : Nat → BitVec 40

/-- The stamp an event input gives while its channel is unlocked, for the n-th draw, in 2^-10 ns (R187; log entry 26). -/
opaque Config.freeStamp : Nat → BitVec 64

/-- What the device's Announce messages say of its clock beyond R232: accuracy (8 bits), variance (16), UTC offset (16), time source (8)
(log entry 30). -/
opaque Config.announceOpen : Nat → BitVec 48

/-- The error e of REGIST where REPEAT is not greater than 0, for the n-th draw (R305; log entry 34). -/
opaque Config.registZero : Nat → BitVec 64

/-- Bytes of the configuration in a full checkpoint, and the peak in bytes of the classes other than Drumline within CKPT_MS (R341; log
entry 36). -/
opaque Config.configBytes : Nat
opaque Config.ckptPeak : Nat

/-- The asymmetry coefficient in 10^-12 of a calibration run whose two delays add up to 0, from their difference (R428; log entry 38). -/
opaque Config.zeroDelay : Int → BitVec 32

/-- The device state key drawn from the entropy source, for the n-th draw (R413; log entry 2). -/
opaque Config.entropy : Nat → BitVec 256

end Sys2Proof
end

