-- ==== Sys2Proof/Machine/Events.lean ====
section
/-! DEFINITION. The codes of the counter events (R435, 20_calibration_diagnostics.md), of the notification events (R405,
18_command_reference.md), and of the object classes (R9, 00_scope.md). -/

namespace Sys2Proof.Machine

def Ev.RX_FRAMES : Nat := 0x1
def Ev.TX_FRAMES : Nat := 0x2
def Ev.ENQ_FRAMES : Nat := 0x3
def Ev.TX_Q_FRAMES : Nat := 0x4
def Ev.RX_FCS_ERR : Nat := 0x10
def Ev.RX_LEN_ERR : Nat := 0x11
def Ev.RX_CODE_ERR : Nat := 0x12
def Ev.RX_FEC_UNCORR : Nat := 0x13
def Ev.RX_SDU_OVERSIZE : Nat := 0x14
def Ev.RX_ADMIT_FAIL : Nat := 0x15
def Ev.RX_XOVF : Nat := 0x16
def Ev.FEC_SYM_CORR : Nat := 0x20
def Ev.FEC_CW_CORR : Nat := 0x21
def Ev.FEC_CW_UNCORR : Nat := 0x22
def Ev.RX_LPI_UNEXPECTED : Nat := 0x23
def Ev.EIDLE_WAKE_FAIL : Nat := 0x24
def Ev.SPEC_ABORT_FRAMES : Nat := 0x30
def Ev.LATE_DROP : Nat := 0x40
def Ev.LAUNCH_FAR : Nat := 0x41
def Ev.LAUNCH_SENT : Nat := 0x42
def Ev.GUARD_HOLD : Nat := 0x43
def Ev.PAUSE_RX : Nat := 0x50
def Ev.PAUSE_IGNORED : Nat := 0x51
def Ev.PREEMPT_FRAG_TX : Nat := 0x52
def Ev.PREEMPT_FRAG_RX : Nat := 0x53
def Ev.VERIFY_FAIL : Nat := 0x54
def Ev.DROP_LINK : Nat := 0x60
def Ev.DROP_QMAX : Nat := 0x61
def Ev.DROP_DT : Nat := 0x62
def Ev.DROP_RED_GREEN : Nat := 0x63
def Ev.DROP_RED_YELLOW : Nat := 0x64
def Ev.DROP_RED_RED : Nat := 0x65
def Ev.FLUSH_DROP : Nat := 0x66
def Ev.HEADROOM_EXHAUST : Nat := 0x67
def Ev.CMD_PORT_OFF : Nat := 0x70
def Ev.FAB_NONZIDOM : Nat := 0x80
def Ev.FAB_BAD_HDR : Nat := 0x81
def Ev.FAB_TTL_DROP : Nat := 0x82
def Ev.FAB_OVERSIZE : Nat := 0x83
def Ev.FAB_UPDOWN_DROP : Nat := 0x84
def Ev.FAB_NOROUTE : Nat := 0x85
def Ev.FAB_MCAST_NONTREE : Nat := 0x86
def Ev.FAB_CREDIT_WD_DROP : Nat := 0x87
def Ev.ARB_GRANT : Nat := 0x100
def Ev.ARB_FORCED : Nat := 0x101
def Ev.LEARN_NEW : Nat := 0x110
def Ev.LEARN_MOVE : Nat := 0x111
def Ev.LEARN_MOVE_FROZEN : Nat := 0x112
def Ev.LEARN_FULL : Nat := 0x113
def Ev.LEARN_OVF : Nat := 0x114
def Ev.SA_STATIC_MISMATCH : Nat := 0x115
def Ev.AGE_DEL : Nat := 0x116
def Ev.LOOKUP_RETRY : Nat := 0x117
def Ev.STREAM_NOMATCH : Nat := 0x118
def Ev.SEQ_NOTAG : Nat := 0x119
def Ev.SEQ_PASSED : Nat := 0x11a
def Ev.SEQ_DISCARDED : Nat := 0x11b
def Ev.SEQ_OUT_OF_ORDER : Nat := 0x11c
def Ev.SEQ_RESET : Nat := 0x11d
def Ev.TRAP_RATE_DROP : Nat := 0x120
def Ev.MIRROR_DROP : Nat := 0x121
def Ev.EVI_GLITCH : Nat := 0x130
def Ev.EVI_DEAD : Nat := 0x131
def Ev.EVI_LOST : Nat := 0x132
def Ev.IVL_MISSING : Nat := 0x133
def Ev.IVL_UNPAIRED : Nat := 0x134
def Ev.EVO_LATE : Nat := 0x135
def Ev.EVO_FAR : Nat := 0x136
def Ev.EVO_QFULL : Nat := 0x137
def Ev.EVO_CONFLICT : Nat := 0x138
def Ev.EVO_STEP_SKIP : Nat := 0x139
def Ev.VEL_LATE : Nat := 0x13a
def Ev.VEL_QFULL : Nat := 0x13b
def Ev.SERVO_OUTLIER : Nat := 0x13c
def Ev.CYC_STEP_SKIP : Nat := 0x140
def Ev.CYC_STRETCH : Nat := 0x141
def Ev.CYC_OVERRUN : Nat := 0x142
def Ev.GATHER_DUP : Nat := 0x143
def Ev.GATHER_REPLACE : Nat := 0x144
def Ev.GATHER_SHORT : Nat := 0x145
def Ev.GATHER_STALE : Nat := 0x146
def Ev.SCATTER_NOCELL : Nat := 0x147
def Ev.MBX_FULL_DROP : Nat := 0x148
def Ev.MBX_LOST : Nat := 0x149
def Ev.FAB_REROUTE : Nat := 0x150
def Ev.FAB_UNREACH : Nat := 0x151
def Ev.COAL_FULL : Nat := 0x152
def Ev.SUPPRESSED : Nat := 0x153
def Ev.HB_STALE : Nat := 0x154
def Ev.CMD_MALFORMED : Nat := 0x160
def Ev.CMD_AUTH_FAIL : Nat := 0x161
def Ev.CMD_QFULL : Nat := 0x162
def Ev.CMD_RSP_DROP : Nat := 0x163
def Ev.CMD_INTERNAL : Nat := 0x164
def Ev.NOTIFY_DROP : Nat := 0x165
def Ev.DLV_DROP : Nat := 0x166
def Ev.MGT_Q_DROP : Nat := 0x167
def Ev.LULL_CELL_BAD : Nat := 0x170
def Ev.LULL_ECC_CORR : Nat := 0x171
def Ev.LULL_ECC_UNCORR : Nat := 0x172
def Ev.LULL_TDC_DEVIATE : Nat := 0x173
def Ev.LULL_ENG_FAIL : Nat := 0x174

def Nt.CORE_SLOW : Nat := 1
def Nt.MARGIN_WARN : Nat := 2
def Nt.ARB_WD_EXPIRED : Nat := 3
def Nt.SPEC_ABORT : Nat := 4
def Nt.LATE_START : Nat := 5
def Nt.OPT_FLAG : Nat := 6
def Nt.OPT_INVALID : Nat := 7
def Nt.STATION_FLAP : Nat := 8
def Nt.LOCK_EXPIRED : Nat := 9
def Nt.TIME_JUMP_REFUSED : Nat := 10
def Nt.TDC_UNLOCK : Nat := 11
def Nt.EVI_HALF_FULL : Nat := 12
def Nt.IVL_BLOCK : Nat := 13
def Nt.PLACE_ERR : Nat := 14
def Nt.LOCK_LOST : Nat := 15
def Nt.SOFT_ALARM : Nat := 16
def Nt.REF_DISQUALIFIED : Nat := 17
def Nt.REF_DISAGREE : Nat := 18
def Nt.UPSTREAM_LOST : Nat := 19
def Nt.SELECTOR_STATE : Nat := 20
def Nt.QL_CHANGE : Nat := 21
def Nt.PTP_PORT_STATE : Nat := 22
def Nt.ANN_TIMEOUT : Nat := 23
def Nt.CYC_OVERRUN : Nat := 24
def Nt.ENG_FAULT : Nat := 25
def Nt.ID_CONFLICT : Nat := 26
def Nt.TOO_DEEP : Nat := 27
def Nt.FAB_LINK_DOWN : Nat := 28
def Nt.FAB_DEVICE_LOST : Nat := 29
def Nt.COAL_FULL : Nat := 30
def Nt.DUAL_CLAIM : Nat := 31
def Nt.TWIN_UNPAIRED : Nat := 32
def Nt.AUTH_FAIL : Nat := 33
def Nt.TXN_ROLLED_BACK : Nat := 34
def Nt.JRN_LOST : Nat := 35
def Nt.TIME_CHANGE_SKIPPED : Nat := 36

def Cls.DEV : Nat := 1
def Cls.PORT : Nat := 2
def Cls.LANE : Nat := 3
def Cls.QUEUE : Nat := 4
def Cls.SHAPER : Nat := 5
def Cls.GATE : Nat := 6
def Cls.TBL : Nat := 7
def Cls.TIME : Nat := 8
def Cls.SYN : Nat := 9
def Cls.REF : Nat := 10
def Cls.EVT : Nat := 11
def Cls.CYC : Nat := 12
def Cls.FAB : Nat := 13
def Cls.TWIN : Nat := 14
def Cls.JRN : Nat := 15
def Cls.CNT : Nat := 16
def Cls.CAL : Nat := 17
def Cls.TEST : Nat := 18
def Cls.SEC : Nat := 19
def Cls.MBX : Nat := 20

end Sys2Proof.Machine
end

