-- ==== Sys2Proof/Machine/Store.lean ====
section
/-! DEFINITION. Sparse maps in one canonical form: keys strictly rising, and no entry equal to the default an unlisted key
reads as. Every register file, memory and per-object record of the machine is held in one, so equal contents are equal data. -/

namespace Sys2Proof.Machine

/-- A sparse map from numbers; an unlisted key reads as the default of α (0, false, empty or an idle record). -/
abbrev SMap (α : Type) := List (Nat × α)

/-- The value at key k. -/
def SMap.get {α : Type} [Inhabited α] : SMap α → Nat → α
  | [], _ => default
  | (j, v) :: m, k => if k = j then v else SMap.get m k

/-- The map without key k. -/
def SMap.del {α : Type} : SMap α → Nat → SMap α
  | [], _ => []
  | (j, v) :: m, k => if k = j then SMap.del m k else (j, v) :: SMap.del m k

/-- The map with an entry put before the first larger key. -/
def SMap.ins {α : Type} : SMap α → Nat → α → SMap α
  | [], k, v => [(k, v)]
  | (j, w) :: m, k, v => if k < j then (k, v) :: (j, w) :: m else (j, w) :: SMap.ins m k v

/-- The map with v at key k, in canonical form. -/
def SMap.set {α : Type} [Inhabited α] [DecidableEq α] (m : SMap α) (k : Nat) (v : α) : SMap α :=
  if v = default then SMap.del m k else SMap.ins (SMap.del m k) k v

/-- The map with f applied to the value at key k. -/
def SMap.upd {α : Type} [Inhabited α] [DecidableEq α] (m : SMap α) (k : Nat) (f : α → α) : SMap α :=
  SMap.set m k (f (SMap.get m k))

/-- The canonical form: keys strictly rising and above lo, no entry at the default. -/
def SMap.wfFrom {α : Type} [Inhabited α] [DecidableEq α] : Nat → SMap α → Bool
  | _, [] => true
  | lo, (j, v) :: m => decide (lo ≤ j) && decide (v ≠ default) && SMap.wfFrom (j + 1) m

/-- The canonical form of a sparse map. -/
def SMap.wf {α : Type} [Inhabited α] [DecidableEq α] (m : SMap α) : Bool := SMap.wfFrom 0 m

/-- The listed keys. -/
def SMap.keys {α : Type} (m : SMap α) : List Nat := m.map Prod.fst

end Sys2Proof.Machine
end

