-- ==== Sys2Proof/Machine/Fields.lean ====
section
/-! DEFINITION. What an attribute field is: its place, its access kind (R5), its reset value and the values a write may give it;
and the one store all attribute fields live in (R8 to R10, 00_scope.md). -/

namespace Sys2Proof.Machine

/-- Access kinds of R5. `wo` is a field written only, that reads as 0; `raw` is OPT_RAW's window (R71). -/
inductive Acc where
  | ro | rw | tx | w1c | rc | wo | raw
  deriving DecidableEq, Repr, Inhabited

/-- The values an attribute field accepts. -/
inductive Chk where
  | any
  | range (lo hi : Nat)
  | srange (lo hi : Int)
  | oneOf (vs : List Nat)
  | zeroOr (lo hi : Nat)
  | time
  deriving DecidableEq, Repr, Inhabited

/-- One field of one attribute. `rst` is its reset value, `exc` the objects (or, with byElem, elements) that reset to another. -/
structure Fld where
  cls : Nat
  attr : Nat
  lo : Nat
  width : Nat
  acc : Acc
  rst : Nat
  byElem : Bool := false
  exc : List (Nat × Nat) := []
  chk : Chk := .any
  deriving DecidableEq, Repr, Inhabited

/-- One attribute of a range of objects. -/
structure AttrDef where
  cls : Nat
  attr : Nat
  instLo : Nat
  instHi : Nat
  instStep : Nat
  elems : Nat
  width : Nat
  flds : List Fld
  deriving DecidableEq, Repr, Inhabited

/-- A bit range of a table entry or a record. -/
structure Bf where
  lo : Nat
  width : Nat
  deriving DecidableEq, Repr, Inhabited

/-- The number of a field: distinct fields of distinct attributes have distinct numbers. -/
def Fld.id (F : Fld) : Nat := (F.cls * 256 + F.attr) * 2048 + F.lo

/-- Where element e of the field of object i is kept. -/
def Fld.key (F : Fld) (i e : Nat) : Nat := (F.id * 2 ^ 20 + i % 2 ^ 20) * 2 ^ 20 + e % 2 ^ 20

/-- The value in l listed for n. -/
def lookupNat : List (Nat × Nat) → Nat → Option Nat
  | [], _ => none
  | (j, v) :: l, n => if n = j then some v else lookupNat l n

/-- The reset value of element e of the field of object i. -/
def Fld.reset (F : Fld) (i e : Nat) : Nat := (lookupNat F.exc (if F.byElem then e else i)).getD F.rst

/-- A field in the attribute store. What is kept is the difference (exclusive or) from the reset value, so the store after
reset lists nothing and an unlisted field reads as its reset value; a read has the field's width. -/
def regGet (m : SMap Nat) (F : Fld) (i e : Nat) : Nat := (SMap.get m (F.key i e) ^^^ F.reset i e) % 2 ^ F.width

/-- The store with a field written; a value is cut to the field's width. -/
def regSet (m : SMap Nat) (F : Fld) (i e v : Nat) : SMap Nat :=
  SMap.set m (F.key i e) ((v % 2 ^ F.width) ^^^ F.reset i e)

/-- A bit range read from a number. -/
def Bf.get (b : Bf) (v : Nat) : Nat := bitsOf v b.lo b.width

/-- A bit range of a number replaced. -/
def Bf.set (b : Bf) (v x : Nat) : Nat := withBits v b.lo b.width x

/-- A bit range placed: the number that holds x there and 0 elsewhere. -/
def Bf.put (b : Bf) (x : Nat) : Nat := (x % 2 ^ b.width) <<< b.lo

/-- Whether a value is one the field accepts (R400: a value outside its range is refused). -/
def Chk.ok (c : Chk) (width v : Nat) : Bool :=
  match c with
  | .any => true
  | .range a b => decide (a ≤ v) && decide (v ≤ b)
  | .srange a b => decide (a ≤ signed width v) && decide (signed width v ≤ b)
  | .oneOf vs => vs.contains v
  | .zeroOr a b => v == 0 || (decide (a ≤ v) && decide (v ≤ b))
  | .time => decide (bitsOf v 16 32 < 1000000000)

end Sys2Proof.Machine
end

