-- ==== Sys2Proof/Machine/Layouts.lean ====
section
/-! DEFINITION. The bit layouts of table entries, descriptors, headers and records, from the layout tables of chapters 4 to 20
of spec/ (each group names its rule and file). -/

namespace Sys2Proof.Machine

/-! Mirror session entry (64 bits): R90, 04_frame_path.md. -/
def Lay.MIR_VALID : Bf := { lo := 63, width := 1 }
def Lay.MIR_TRUNC_EN : Bf := { lo := 62, width := 1 }
def Lay.MIR_CLASS : Bf := { lo := 59, width := 3 }
def Lay.MIR_TAG_EN : Bf := { lo := 58, width := 1 }
def Lay.MIR_DEST_PORT : Bf := { lo := 48, width := 10 }
def Lay.MIR_TAG_VID : Bf := { lo := 36, width := 12 }
def Lay.MIR_TAG_PCP : Bf := { lo := 33, width := 3 }
def Lay.MIR_TRUNC_LEN : Bf := { lo := 16, width := 16 }

/-! Exact-match entry (128 bits): R138, 07_tables.md. -/
def Lay.EM_VIS : Bf := { lo := 126, width := 2 }
def Lay.EM_TYPE : Bf := { lo := 123, width := 3 }
def Lay.EM_FROZEN : Bf := { lo := 122, width := 1 }
def Lay.EM_MAC : Bf := { lo := 72, width := 48 }
def Lay.EM_VID : Bf := { lo := 60, width := 12 }
def Lay.EM_RESULT : Bf := { lo := 16, width := 44 }
def Lay.EM_LAST_HIT : Bf := { lo := 0, width := 16 }

/-! Longest-prefix entry (256 bits): R144, 07_tables.md. -/
def Lay.LPM_VIS : Bf := { lo := 254, width := 2 }
def Lay.LPM_KIND : Bf := { lo := 252, width := 2 }
def Lay.LPM_PLEN : Bf := { lo := 245, width := 7 }
def Lay.LPM_KEY : Bf := { lo := 213, width := 32 }
def Lay.LPM_ACTION : Bf := { lo := 211, width := 2 }
def Lay.LPM_DEST : Bf := { lo := 201, width := 10 }
def Lay.LPM_NH_VID : Bf := { lo := 189, width := 12 }
def Lay.LPM_NH_MAC : Bf := { lo := 141, width := 48 }
def Lay.LPM_LAST_HIT : Bf := { lo := 125, width := 16 }

/-! Classifier entry (512 bits): R146, 07_tables.md. -/
def Lay.CLS_VIS : Bf := { lo := 510, width := 2 }
def Lay.CLS_LAST_HIT : Bf := { lo := 480, width := 16 }
def Lay.CLS_ACTION : Bf := { lo := 384, width := 64 }
def Lay.CLS_MASK : Bf := { lo := 192, width := 192 }
def Lay.CLS_KEY : Bf := { lo := 0, width := 192 }

/-! Classifier key fields (offsets within KEY and MASK): R146, 07_tables.md. -/
def Lay.CK_DA : Bf := { lo := 123, width := 48 }
def Lay.CK_IP_ADDR : Bf := { lo := 91, width := 32 }
def Lay.CK_L4_DST : Bf := { lo := 75, width := 16 }
def Lay.CK_L4_SRC : Bf := { lo := 59, width := 16 }
def Lay.CK_DSCP : Bf := { lo := 53, width := 6 }
def Lay.CK_IP_PROTO : Bf := { lo := 45, width := 8 }
def Lay.CK_ETYPE : Bf := { lo := 29, width := 16 }
def Lay.CK_PCP : Bf := { lo := 26, width := 3 }
def Lay.CK_VID : Bf := { lo := 14, width := 12 }
def Lay.CK_FLAGS : Bf := { lo := 10, width := 4 }
def Lay.CK_IN_PORT : Bf := { lo := 0, width := 10 }

/-! Classifier action fields (offsets within ACTION): R146, 07_tables.md. -/
def Lay.CA_DROP : Bf := { lo := 63, width := 1 }
def Lay.CA_SET_CLASS : Bf := { lo := 62, width := 1 }
def Lay.CA_CLASS : Bf := { lo := 59, width := 3 }
def Lay.CA_SET_COLOUR : Bf := { lo := 58, width := 1 }
def Lay.CA_COLOUR : Bf := { lo := 56, width := 2 }
def Lay.CA_SET_VID : Bf := { lo := 55, width := 1 }
def Lay.CA_VID : Bf := { lo := 43, width := 12 }
def Lay.CA_MIRROR : Bf := { lo := 42, width := 1 }
def Lay.CA_MIR_SES : Bf := { lo := 38, width := 4 }
def Lay.CA_TRAP : Bf := { lo := 37, width := 1 }
def Lay.CA_COPY : Bf := { lo := 36, width := 1 }
def Lay.CA_SET_STREAM : Bf := { lo := 35, width := 1 }
def Lay.CA_STREAM_HANDLE : Bf := { lo := 23, width := 12 }
def Lay.CA_METER_EN : Bf := { lo := 22, width := 1 }
def Lay.CA_METER : Bf := { lo := 10, width := 12 }

/-! Stream filter entry (128 bits, indices 0 to 4,095): R147, 07_tables.md. -/
def Lay.SF_VIS : Bf := { lo := 126, width := 2 }
def Lay.SF_PRIO_ANY : Bf := { lo := 125, width := 1 }
def Lay.SF_PRIO : Bf := { lo := 122, width := 3 }
def Lay.SF_GATE_EN : Bf := { lo := 121, width := 1 }
def Lay.SF_GATE_ID : Bf := { lo := 112, width := 9 }
def Lay.SF_METER_EN : Bf := { lo := 111, width := 1 }
def Lay.SF_METER : Bf := { lo := 99, width := 12 }
def Lay.SF_MAX_SDU : Bf := { lo := 85, width := 14 }
def Lay.SF_BLOCK_EN : Bf := { lo := 84, width := 1 }
def Lay.SF_BLOCKED : Bf := { lo := 83, width := 1 }
def Lay.SF_SEQ_EN : Bf := { lo := 82, width := 1 }
def Lay.SF_SEQ_ID : Bf := { lo := 70, width := 12 }
def Lay.SF_LAST_HIT : Bf := { lo := 54, width := 16 }

/-! Meter entry (128 bits, indices 4,096 to 8,191): R148, 07_tables.md. -/
def Lay.MTR_VIS : Bf := { lo := 126, width := 2 }
def Lay.MTR_CF : Bf := { lo := 125, width := 1 }
def Lay.MTR_CM : Bf := { lo := 124, width := 1 }
def Lay.MTR_DROP_ON_RED : Bf := { lo := 123, width := 1 }
def Lay.MTR_CIR : Bf := { lo := 99, width := 24 }
def Lay.MTR_CBS : Bf := { lo := 79, width := 20 }
def Lay.MTR_EIR : Bf := { lo := 55, width := 24 }
def Lay.MTR_EBS : Bf := { lo := 35, width := 20 }

/-! Sequence recovery entry (128 bits): R150, 07_tables.md. -/
def Lay.SEQR_VIS : Bf := { lo := 126, width := 2 }
def Lay.SEQR_ALG : Bf := { lo := 125, width := 1 }
def Lay.SEQR_HIST_LEN : Bf := { lo := 119, width := 6 }
def Lay.SEQR_POP_RTAG : Bf := { lo := 118, width := 1 }
def Lay.SEQR_RESET_MS : Bf := { lo := 102, width := 16 }
def Lay.SEQR_LAST_HIT : Bf := { lo := 86, width := 16 }

/-! Stamp report record (384 bits): R182, 08_timebase.md. -/
def Lay.SREP_STAMP : Bf := { lo := 288, width := 96 }
def Lay.SREP_LAUNCH : Bf := { lo := 192, width := 96 }
def Lay.SREP_E : Bf := { lo := 176, width := 16 }
def Lay.SREP_TAG : Bf := { lo := 160, width := 16 }
def Lay.SREP_SEQ_ID : Bf := { lo := 144, width := 16 }
def Lay.SREP_DOMAIN : Bf := { lo := 136, width := 8 }
def Lay.SREP_MSG_TYPE : Bf := { lo := 132, width := 4 }
def Lay.SREP_DIR : Bf := { lo := 131, width := 1 }
def Lay.SREP_PMA : Bf := { lo := 130, width := 1 }
def Lay.SREP_TIMED : Bf := { lo := 129, width := 1 }
def Lay.SREP_STEPPED : Bf := { lo := 128, width := 1 }
def Lay.SREP_PORT : Bf := { lo := 118, width := 10 }
def Lay.SREP_STEP_COUNT : Bf := { lo := 96, width := 16 }
def Lay.SREP_RES : Bf := { lo := 32, width := 64 }

/-! Event record (128 bits), read through EVT attribute 0x03, EVI_FIFO (RC): R195, 09_phase_and_events.md. -/
def Lay.EVREC_TIME : Bf := { lo := 32, width := 96 }
def Lay.EVREC_EDGE : Bf := { lo := 31, width := 1 }
def Lay.EVREC_INVALID : Bf := { lo := 30, width := 1 }
def Lay.EVREC_OVF_BEFORE : Bf := { lo := 29, width := 1 }
def Lay.EVREC_INPUT : Bf := { lo := 24, width := 5 }
def Lay.EVREC_STEP_COUNT : Bf := { lo := 8, width := 16 }
def Lay.EVREC_SEQ : Bf := { lo := 0, width := 8 }

/-! Interval sample record (128 bits), EVT attribute 0x12, IVL_SAMPLES (RC): R198, 09_phase_and_events.md. -/
def Lay.IVREC_VALUE : Bf := { lo := 64, width := 64 }
def Lay.IVREC_START_NS : Bf := { lo := 32, width := 32 }
def Lay.IVREC_COINCIDENT : Bf := { lo := 31, width := 1 }
def Lay.IVREC_ORDER : Bf := { lo := 30, width := 1 }
def Lay.IVREC_SEQ : Bf := { lo := 0, width := 16 }

/-! Program image header (128 bits): R271, 12_drumline.md. -/
def Lay.IMG_MAGIC : Bf := { lo := 112, width := 16 }
def Lay.IMG_VERSION : Bf := { lo := 104, width := 8 }
def Lay.IMG_DESC_COUNT : Bf := { lo := 80, width := 16 }
def Lay.IMG_INIT_COUNT : Bf := { lo := 64, width := 16 }
def Lay.IMG_IMAGE_ID : Bf := { lo := 32, width := 32 }
def Lay.IMG_CRC : Bf := { lo := 0, width := 32 }

/-! Operation descriptor (128 bits): R279, 13_cycle_operations.md. -/
def Lay.DESC_OP : Bf := { lo := 120, width := 8 }
def Lay.DESC_TYPE : Bf := { lo := 118, width := 2 }
def Lay.DESC_PRED : Bf := { lo := 115, width := 3 }
def Lay.DESC_PNEG : Bf := { lo := 114, width := 1 }
def Lay.DESC_DST : Bf := { lo := 109, width := 5 }
def Lay.DESC_SRCA : Bf := { lo := 104, width := 5 }
def Lay.DESC_SRCB : Bf := { lo := 99, width := 5 }
def Lay.DESC_SRCC : Bf := { lo := 94, width := 5 }
def Lay.DESC_FLAGS : Bf := { lo := 88, width := 6 }
def Lay.DESC_IMM : Bf := { lo := 64, width := 24 }
def Lay.DESC_ADDR : Bf := { lo := 32, width := 32 }
def Lay.DESC_AUX : Bf := { lo := 0, width := 32 }

/-! Cam table header (256 bits): R304, 13_cycle_operations.md. -/
def Lay.CAMH_ORIGIN : Bf := { lo := 128, width := 64 }
def Lay.CAMH_SPAN : Bf := { lo := 64, width := 64 }
def Lay.CAMH_MODE : Bf := { lo := 32, width := 32 }
def Lay.CAMH_COUNT : Bf := { lo := 0, width := 32 }

/-! Zidom header (128 bits): R316, 14_fabric.md. -/
def Lay.ZID_VER : Bf := { lo := 124, width := 4 }
def Lay.ZID_TYPE : Bf := { lo := 120, width := 4 }
def Lay.ZID_TIMED : Bf := { lo := 119, width := 1 }
def Lay.ZID_STAMP : Bf := { lo := 118, width := 1 }
def Lay.ZID_DOWN : Bf := { lo := 117, width := 1 }
def Lay.ZID_MCAST : Bf := { lo := 116, width := 1 }
def Lay.ZID_TGT : Bf := { lo := 115, width := 1 }
def Lay.ZID_TTL : Bf := { lo := 111, width := 4 }
def Lay.ZID_SRC_DEV : Bf := { lo := 105, width := 6 }
def Lay.ZID_DST_DEV : Bf := { lo := 99, width := 6 }
def Lay.ZID_CLASS : Bf := { lo := 96, width := 3 }
def Lay.ZID_COLOUR : Bf := { lo := 94, width := 2 }
def Lay.ZID_TARGET : Bf := { lo := 80, width := 14 }
def Lay.ZID_TAG : Bf := { lo := 64, width := 16 }
def Lay.ZID_LAUNCH_or_FLOW : Bf := { lo := 0, width := 64 }

/-! Hello payload (256 bits): R319, 14_fabric.md. -/
def Lay.HEL_FABRIC_ID : Bf := { lo := 224, width := 32 }
def Lay.HEL_SERIAL : Bf := { lo := 160, width := 64 }
def Lay.HEL_SUBTYPE : Bf := { lo := 156, width := 4 }
def Lay.HEL_ID_VALID : Bf := { lo := 155, width := 1 }
def Lay.HEL_HEARD : Bf := { lo := 154, width := 1 }
def Lay.HEL_EIDLE_EN : Bf := { lo := 153, width := 1 }
def Lay.HEL_CREDIT : Bf := { lo := 152, width := 1 }
def Lay.HEL_DEV_ID : Bf := { lo := 146, width := 6 }
def Lay.HEL_SEND_PORT : Bf := { lo := 136, width := 10 }
def Lay.HEL_LINK_EPOCH : Bf := { lo := 128, width := 8 }
def Lay.HEL_HEARD_SERIAL : Bf := { lo := 64, width := 64 }
def Lay.HEL_HELLO_MS : Bf := { lo := 56, width := 8 }

/-! Record payload (256 bits, then LINK_COUNT entries of 32 bits): R320, 14_fabric.md. -/
def Lay.REC_FABRIC_ID : Bf := { lo := 224, width := 32 }
def Lay.REC_SERIAL : Bf := { lo := 160, width := 64 }
def Lay.REC_SUBTYPE : Bf := { lo := 156, width := 4 }
def Lay.REC_ID_VALID : Bf := { lo := 155, width := 1 }
def Lay.REC_TWIN : Bf := { lo := 153, width := 2 }
def Lay.REC_DEV_ID : Bf := { lo := 146, width := 6 }
def Lay.REC_ROOT_PRIO : Bf := { lo := 138, width := 8 }
def Lay.REC_TSTATE : Bf := { lo := 135, width := 3 }
def Lay.REC_FSTATE : Bf := { lo := 132, width := 3 }
def Lay.REC_SEQ : Bf := { lo := 96, width := 32 }
def Lay.REC_LINK_COUNT : Bf := { lo := 86, width := 10 }

/-! Coalescing fields of a notification (128 bits): R329, 14_fabric.md. -/
def Lay.COAL_FIRST_OBJ : Bf := { lo := 96, width := 32 }
def Lay.COAL_COUNT : Bf := { lo := 80, width := 16 }
def Lay.COAL_INSTANCES : Bf := { lo := 64, width := 16 }
def Lay.COAL_LAST_NS : Bf := { lo := 32, width := 32 }
def Lay.COAL_WINDOW : Bf := { lo := 0, width := 32 }

/-! Command packet header (256 bits): R350, 16_command_interface.md. -/
def Lay.PKT_MAGIC : Bf := { lo := 240, width := 16 }
def Lay.PKT_VERSION : Bf := { lo := 232, width := 8 }
def Lay.PKT_FLAGS : Bf := { lo := 224, width := 8 }
def Lay.PKT_OPCODE : Bf := { lo := 208, width := 16 }
def Lay.PKT_STATUS : Bf := { lo := 192, width := 16 }
def Lay.PKT_SEQUENCE : Bf := { lo := 160, width := 32 }
def Lay.PKT_ROLE : Bf := { lo := 152, width := 8 }
def Lay.PKT_KEY_SLOT : Bf := { lo := 144, width := 8 }
def Lay.PKT_SEND_SEC : Bf := { lo := 96, width := 32 }
def Lay.PKT_SEND_NS : Bf := { lo := 64, width := 32 }
def Lay.PKT_TXN_ID : Bf := { lo := 32, width := 32 }
def Lay.PKT_PAYLOAD_LEN : Bf := { lo := 0, width := 32 }

/-! Command, reply and delivery descriptor (128 bits): R368, 16_command_interface.md. -/
def Lay.RDESC_ADDR : Bf := { lo := 64, width := 64 }
def Lay.RDESC_DONE : Bf := { lo := 63, width := 1 }
def Lay.RDESC_KIND : Bf := { lo := 61, width := 2 }
def Lay.RDESC_LEN : Bf := { lo := 0, width := 32 }

/-! Injection descriptor (256 bits): R368, 16_command_interface.md. -/
def Lay.IDESC_ADDR : Bf := { lo := 192, width := 64 }
def Lay.IDESC_LAUNCH : Bf := { lo := 96, width := 96 }
def Lay.IDESC_TAG : Bf := { lo := 80, width := 16 }
def Lay.IDESC_PORT : Bf := { lo := 70, width := 10 }
def Lay.IDESC_CLASS : Bf := { lo := 67, width := 3 }
def Lay.IDESC_TIMED : Bf := { lo := 66, width := 1 }
def Lay.IDESC_STAMP : Bf := { lo := 65, width := 1 }
def Lay.IDESC_DONE : Bf := { lo := 64, width := 1 }
def Lay.IDESC_LEN : Bf := { lo := 0, width := 14 }

/-! Journal record (512 bits): R390, 17_transactions_journal.md. -/
def Lay.JREC_SEQ : Bf := { lo := 448, width := 64 }
def Lay.JREC_TIME : Bf := { lo := 352, width := 96 }
def Lay.JREC_ROLE : Bf := { lo := 344, width := 8 }
def Lay.JREC_KEY_SLOT : Bf := { lo := 336, width := 8 }
def Lay.JREC_TRANSPORT : Bf := { lo := 332, width := 4 }
def Lay.JREC_KIND : Bf := { lo := 328, width := 4 }
def Lay.JREC_SRC_DIGEST : Bf := { lo := 264, width := 64 }
def Lay.JREC_TXN_ID : Bf := { lo := 232, width := 32 }
def Lay.JREC_OPCODE : Bf := { lo := 216, width := 16 }
def Lay.JREC_OBJ_COUNT : Bf := { lo := 200, width := 16 }
def Lay.JREC_LATE : Bf := { lo := 199, width := 1 }
def Lay.JREC_FORCE : Bf := { lo := 198, width := 1 }
def Lay.JREC_TB_INVALID : Bf := { lo := 197, width := 1 }
def Lay.JREC_VBAK_LOST : Bf := { lo := 196, width := 1 }
def Lay.JREC_INFO : Bf := { lo := 160, width := 32 }
def Lay.JREC_DIGEST : Bf := { lo := 32, width := 128 }
def Lay.JREC_CRC : Bf := { lo := 0, width := 32 }

/-! Identity block (IDENT, 384 bits): R397, 18_command_reference.md. -/
def Lay.IDENT_ORDER_CODE : Bf := { lo := 288, width := 96 }
def Lay.IDENT_STEPPING : Bf := { lo := 280, width := 8 }
def Lay.IDENT_TWIN_STATE : Bf := { lo := 276, width := 4 }
def Lay.IDENT_UNIT : Bf := { lo := 275, width := 1 }
def Lay.IDENT_ID_VALID : Bf := { lo := 274, width := 1 }
def Lay.IDENT_DEV_ID : Bf := { lo := 268, width := 6 }
def Lay.IDENT_TB_VALID : Bf := { lo := 267, width := 1 }
def Lay.IDENT_SERIAL : Bf := { lo := 192, width := 64 }
def Lay.IDENT_DEV_MAC : Bf := { lo := 144, width := 48 }
def Lay.IDENT_FW_MGMT : Bf := { lo := 96, width := 32 }
def Lay.IDENT_FW_SERDES : Bf := { lo := 64, width := 32 }
def Lay.IDENT_FW_CARILLON : Bf := { lo := 32, width := 32 }
def Lay.IDENT_FW_DRUMLINE : Bf := { lo := 0, width := 32 }

/-! Felgal header (1,024 bits): R413, 19_startup_firmware.md. -/
def Lay.FELG_MAGIC : Bf := { lo := 992, width := 32 }
def Lay.FELG_FORMAT : Bf := { lo := 984, width := 8 }
def Lay.FELG_TYPE : Bf := { lo := 976, width := 8 }
def Lay.FELG_AUTH : Bf := { lo := 968, width := 8 }
def Lay.FELG_KEY_INDEX : Bf := { lo := 960, width := 8 }
def Lay.FELG_VERSION : Bf := { lo := 928, width := 32 }
def Lay.FELG_SEC_VERSION : Bf := { lo := 912, width := 16 }
def Lay.FELG_STEPPING : Bf := { lo := 904, width := 8 }
def Lay.FELG_PAYLOAD_LEN : Bf := { lo := 864, width := 32 }
def Lay.FELG_DIGEST : Bf := { lo := 576, width := 256 }
def Lay.FELG_AUTH_CODE : Bf := { lo := 64, width := 512 }
def Lay.FELG_HDR_CRC : Bf := { lo := 0, width := 32 }

/-! FW_INFO entry (128 bits): R414, 19_startup_firmware.md. -/
def Lay.FWI_TARGET : Bf := { lo := 120, width := 8 }
def Lay.FWI_STATE : Bf := { lo := 112, width := 8 }
def Lay.FWI_ERROR : Bf := { lo := 104, width := 8 }
def Lay.FWI_RUN_VERSION : Bf := { lo := 64, width := 32 }
def Lay.FWI_IMAGE_VERSION : Bf := { lo := 32, width := 32 }
def Lay.FWI_IMAGE_CRC : Bf := { lo := 0, width := 32 }

/-! Calibration result record (256 bits): R429, 20_calibration_diagnostics.md. -/
def Lay.CALREC_OBJ : Bf := { lo := 224, width := 32 }
def Lay.CALREC_STATUS : Bf := { lo := 216, width := 8 }
def Lay.CALREC_PROC : Bf := { lo := 208, width := 8 }
def Lay.CALREC_VALUE : Bf := { lo := 128, width := 64 }
def Lay.CALREC_M1 : Bf := { lo := 96, width := 32 }
def Lay.CALREC_M2 : Bf := { lo := 64, width := 32 }
def Lay.CALREC_SD : Bf := { lo := 32, width := 32 }

/-! Calibration set header (256 bits): R431, 20_calibration_diagnostics.md. -/
def Lay.CALHDR_MAGIC : Bf := { lo := 224, width := 32 }
def Lay.CALHDR_CAL_COUNT : Bf := { lo := 192, width := 32 }
def Lay.CALHDR_LAST_TIME : Bf := { lo := 96, width := 96 }
def Lay.CALHDR_RECORDS : Bf := { lo := 64, width := 32 }
def Lay.CALHDR_CRC : Bf := { lo := 0, width := 32 }

end Sys2Proof.Machine
end

