-- ==== Sys2Proof/Machine/Registers.lean ====
section
/-! DEFINITION. The attributes of every object class, field by field, with width, access and reset value: the attribute
tables of chapters 2 to 21 of spec/ (each group names its rule and file). `attrTable` lists the attributes for the
object commands (R8 to R10, R400).
-/
namespace Sys2Proof.Machine

/-! BARO_MARGIN: class 1 (DEV), attribute 0x20, objects 0 to 0, 32 element(s), 16 bits: R42, 02_self_timed_core.md. -/
def Reg.BARO_MARGIN : Fld :=
  { cls := 1, attr := 32, lo := 0, width := 16, acc := .ro, rst := 0 }

/-- R42, 02_self_timed_core.md. -/
def Attr.BARO_MARGIN : AttrDef :=
  { cls := 1, attr := 32, instLo := 0, instHi := 0, instStep := 1, elems := 32, width := 16,
    flds := [Reg.BARO_MARGIN] }

/-! BARO_MIN: class 1 (DEV), attribute 0x21, objects 0 to 0, 32 element(s), 16 bits: R42, 02_self_timed_core.md. -/
def Reg.BARO_MIN : Fld :=
  { cls := 1, attr := 33, lo := 0, width := 16, acc := .rc, rst := 32767 }

/-- R42, 02_self_timed_core.md. -/
def Attr.BARO_MIN : AttrDef :=
  { cls := 1, attr := 33, instLo := 0, instHi := 0, instStep := 1, elems := 32, width := 16,
    flds := [Reg.BARO_MIN] }

/-! BARO_CFG: class 1 (DEV), attribute 0x22, objects 0 to 0, 1 element(s), 32 bits: R42, 02_self_timed_core.md. -/
def Reg.BARO_CFG_WARN_THRESHOLD : Fld :=
  { cls := 1, attr := 34, lo := 16, width := 16, acc := .rw, rst := 500 }
def Reg.BARO_CFG_CLEAR_HYST : Fld :=
  { cls := 1, attr := 34, lo := 8, width := 8, acc := .rw, rst := 100 }
def Reg.BARO_CFG_SAMPLE_US : Fld :=
  { cls := 1, attr := 34, lo := 0, width := 8, acc := .rw, rst := 10, chk := .range 1 255 }

/-- R42, 02_self_timed_core.md. -/
def Attr.BARO_CFG : AttrDef :=
  { cls := 1, attr := 34, instLo := 0, instHi := 0, instStep := 1, elems := 1, width := 32,
    flds := [Reg.BARO_CFG_WARN_THRESHOLD, Reg.BARO_CFG_CLEAR_HYST, Reg.BARO_CFG_SAMPLE_US] }

/-! BARO_STATUS: class 1 (DEV), attribute 0x23, objects 0 to 0, 1 element(s), 32 bits: R42, 02_self_timed_core.md. -/
def Reg.BARO_STATUS_CORE_SLOW : Fld :=
  { cls := 1, attr := 35, lo := 31, width := 1, acc := .w1c, rst := 0 }
def Reg.BARO_STATUS_CORE_SLOW_NOW : Fld :=
  { cls := 1, attr := 35, lo := 30, width := 1, acc := .ro, rst := 0 }
def Reg.BARO_STATUS_MARGIN_WARN : Fld :=
  { cls := 1, attr := 35, lo := 29, width := 1, acc := .w1c, rst := 0 }
def Reg.BARO_STATUS_WORST_CELL : Fld :=
  { cls := 1, attr := 35, lo := 0, width := 5, acc := .ro, rst := 0 }

/-- R42, 02_self_timed_core.md. -/
def Attr.BARO_STATUS : AttrDef :=
  { cls := 1, attr := 35, instLo := 0, instHi := 0, instStep := 1, elems := 1, width := 32,
    flds := [Reg.BARO_STATUS_CORE_SLOW, Reg.BARO_STATUS_CORE_SLOW_NOW, Reg.BARO_STATUS_MARGIN_WARN, Reg.BARO_STATUS_WORST_CELL] }

/-! ARB_CFG: class 1 (DEV), attribute 0x28, objects 0 to 0, 142 element(s), 32 bits: R50, 02_self_timed_core.md. -/
def Reg.ARB_CFG_FREEZE : Fld :=
  { cls := 1, attr := 40, lo := 31, width := 1, acc := .rw, rst := 0 }
def Reg.ARB_CFG_WAIT_LIMIT : Fld :=
  { cls := 1, attr := 40, lo := 16, width := 8, acc := .rw, rst := 16, chk := .range 1 255 }
def Reg.ARB_CFG_FREEZE_WD : Fld :=
  { cls := 1, attr := 40, lo := 0, width := 16, acc := .rw, rst := 100 }

/-- R50, 02_self_timed_core.md. -/
def Attr.ARB_CFG : AttrDef :=
  { cls := 1, attr := 40, instLo := 0, instHi := 0, instStep := 1, elems := 142, width := 32,
    flds := [Reg.ARB_CFG_FREEZE, Reg.ARB_CFG_WAIT_LIMIT, Reg.ARB_CFG_FREEZE_WD] }

/-! ARB_STATUS: class 1 (DEV), attribute 0x29, objects 0 to 0, 142 element(s), 32 bits: R50, 02_self_timed_core.md. -/
def Reg.ARB_STATUS_DRAINED : Fld :=
  { cls := 1, attr := 41, lo := 31, width := 1, acc := .ro, rst := 0 }
def Reg.ARB_STATUS_FROZEN : Fld :=
  { cls := 1, attr := 41, lo := 30, width := 1, acc := .ro, rst := 0 }
def Reg.ARB_STATUS_WD_EXPIRED : Fld :=
  { cls := 1, attr := 41, lo := 29, width := 1, acc := .w1c, rst := 0 }
def Reg.ARB_STATUS_INTERNAL : Fld :=
  { cls := 1, attr := 41, lo := 28, width := 1, acc := .ro, rst := 0 }
def Reg.ARB_STATUS_MAX_WAIT : Fld :=
  { cls := 1, attr := 41, lo := 16, width := 8, acc := .rc, rst := 0 }
def Reg.ARB_STATUS_OWNER : Fld :=
  { cls := 1, attr := 41, lo := 0, width := 8, acc := .ro, rst := 0 }

/-- R50, 02_self_timed_core.md. -/
def Attr.ARB_STATUS : AttrDef :=
  { cls := 1, attr := 41, instLo := 0, instHi := 0, instStep := 1, elems := 142, width := 32,
    flds := [Reg.ARB_STATUS_DRAINED, Reg.ARB_STATUS_FROZEN, Reg.ARB_STATUS_WD_EXPIRED, Reg.ARB_STATUS_INTERNAL, Reg.ARB_STATUS_MAX_WAIT, Reg.ARB_STATUS_OWNER] }

/-! OCT_CLK: class 3 (LANE), attribute 0x3, objects 0 to 504, every 8th, 1 element(s), 32 bits: R53, 03_lanes_and_ports.md. -/
def Reg.OCT_CLK_PLLB_SRC : Fld :=
  { cls := 3, attr := 3, lo := 31, width := 1, acc := .tx, rst := 0 }
def Reg.OCT_CLK_PLLB_RATE : Fld :=
  { cls := 3, attr := 3, lo := 28, width := 3, acc := .tx, rst := 0, chk := .range 0 4 }
def Reg.OCT_CLK_PLLA_SRC : Fld :=
  { cls := 3, attr := 3, lo := 15, width := 1, acc := .tx, rst := 0 }
def Reg.OCT_CLK_PLLA_RATE : Fld :=
  { cls := 3, attr := 3, lo := 12, width := 3, acc := .tx, rst := 0, chk := .range 0 4 }

/-- R53, 03_lanes_and_ports.md. -/
def Attr.OCT_CLK : AttrDef :=
  { cls := 3, attr := 3, instLo := 0, instHi := 504, instStep := 8, elems := 1, width := 32,
    flds := [Reg.OCT_CLK_PLLB_SRC, Reg.OCT_CLK_PLLB_RATE, Reg.OCT_CLK_PLLA_SRC, Reg.OCT_CLK_PLLA_RATE] }

/-! PORT_CFG: class 2 (PORT), attribute 0x1, objects 0 to 511, 1 element(s), 32 bits: R56, 03_lanes_and_ports.md. -/
def Reg.PORT_CFG_MODE : Fld :=
  { cls := 2, attr := 1, lo := 28, width := 4, acc := .tx, rst := 0, chk := .range 0 6 }
def Reg.PORT_CFG_FEC : Fld :=
  { cls := 2, attr := 1, lo := 26, width := 2, acc := .tx, rst := 0, chk := .range 0 2 }
def Reg.PORT_CFG_AN37 : Fld :=
  { cls := 2, attr := 1, lo := 25, width := 1, acc := .tx, rst := 1 }
def Reg.PORT_CFG_PLL_SEL : Fld :=
  { cls := 2, attr := 1, lo := 24, width := 1, acc := .tx, rst := 0 }
def Reg.PORT_CFG_SYNCE_TX : Fld :=
  { cls := 2, attr := 1, lo := 23, width := 1, acc := .tx, rst := 0 }
def Reg.PORT_CFG_PMA_STAMP : Fld :=
  { cls := 2, attr := 1, lo := 22, width := 1, acc := .tx, rst := 0 }
def Reg.PORT_CFG_LPI_EN : Fld :=
  { cls := 2, attr := 1, lo := 21, width := 1, acc := .tx, rst := 0 }
def Reg.PORT_CFG_EIDLE_EN : Fld :=
  { cls := 2, attr := 1, lo := 20, width := 1, acc := .tx, rst := 0 }
def Reg.PORT_CFG_MAX_FRAME : Fld :=
  { cls := 2, attr := 1, lo := 0, width := 16, acc := .tx, rst := 1522, chk := .range 64 9728 }

/-- R56, 03_lanes_and_ports.md. -/
def Attr.PORT_CFG : AttrDef :=
  { cls := 2, attr := 1, instLo := 0, instHi := 511, instStep := 1, elems := 1, width := 32,
    flds := [Reg.PORT_CFG_MODE, Reg.PORT_CFG_FEC, Reg.PORT_CFG_AN37, Reg.PORT_CFG_PLL_SEL, Reg.PORT_CFG_SYNCE_TX, Reg.PORT_CFG_PMA_STAMP, Reg.PORT_CFG_LPI_EN, Reg.PORT_CFG_EIDLE_EN, Reg.PORT_CFG_MAX_FRAME] }

/-! MGT_CFG: class 2 (PORT), attribute 0x1, objects 512 to 512, 1 element(s), 32 bits: R73, 03_lanes_and_ports.md. -/
def Reg.MGT_CFG_MODE : Fld :=
  { cls := 2, attr := 1, lo := 28, width := 4, acc := .tx, rst := 1, chk := .oneOf [0, 1, 7] }
def Reg.MGT_CFG_FEC : Fld :=
  { cls := 2, attr := 1, lo := 26, width := 2, acc := .tx, rst := 0, chk := .range 0 0 }
def Reg.MGT_CFG_AN37 : Fld :=
  { cls := 2, attr := 1, lo := 25, width := 1, acc := .tx, rst := 1 }
def Reg.MGT_CFG_PLL_SEL : Fld :=
  { cls := 2, attr := 1, lo := 24, width := 1, acc := .tx, rst := 0, chk := .range 0 0 }
def Reg.MGT_CFG_SYNCE_TX : Fld :=
  { cls := 2, attr := 1, lo := 23, width := 1, acc := .tx, rst := 0, chk := .range 0 0 }
def Reg.MGT_CFG_PMA_STAMP : Fld :=
  { cls := 2, attr := 1, lo := 22, width := 1, acc := .tx, rst := 0, chk := .range 0 0 }
def Reg.MGT_CFG_LPI_EN : Fld :=
  { cls := 2, attr := 1, lo := 21, width := 1, acc := .tx, rst := 0, chk := .range 0 0 }
def Reg.MGT_CFG_EIDLE_EN : Fld :=
  { cls := 2, attr := 1, lo := 20, width := 1, acc := .tx, rst := 0, chk := .range 0 0 }
def Reg.MGT_CFG_MAX_FRAME : Fld :=
  { cls := 2, attr := 1, lo := 0, width := 16, acc := .tx, rst := 1522, chk := .range 64 9728 }

/-- R73, 03_lanes_and_ports.md. -/
def Attr.MGT_CFG : AttrDef :=
  { cls := 2, attr := 1, instLo := 512, instHi := 512, instStep := 1, elems := 1, width := 32,
    flds := [Reg.MGT_CFG_MODE, Reg.MGT_CFG_FEC, Reg.MGT_CFG_AN37, Reg.MGT_CFG_PLL_SEL, Reg.MGT_CFG_SYNCE_TX, Reg.MGT_CFG_PMA_STAMP, Reg.MGT_CFG_LPI_EN, Reg.MGT_CFG_EIDLE_EN, Reg.MGT_CFG_MAX_FRAME] }

/-! PORT_STATUS: class 2 (PORT), attribute 0x2, objects 0 to 512, 1 element(s), 32 bits: R56, 03_lanes_and_ports.md. -/
def Reg.PORT_STATUS_LINK_UP : Fld :=
  { cls := 2, attr := 2, lo := 31, width := 1, acc := .ro, rst := 0 }
def Reg.PORT_STATUS_FEC_LOCK : Fld :=
  { cls := 2, attr := 2, lo := 30, width := 1, acc := .ro, rst := 0 }
def Reg.PORT_STATUS_AN_DONE : Fld :=
  { cls := 2, attr := 2, lo := 29, width := 1, acc := .ro, rst := 0 }
def Reg.PORT_STATUS_TIMING : Fld :=
  { cls := 2, attr := 2, lo := 28, width := 1, acc := .ro, rst := 0 }
def Reg.PORT_STATUS_EIDLE_NOPEER : Fld :=
  { cls := 2, attr := 2, lo := 27, width := 1, acc := .ro, rst := 0 }
def Reg.PORT_STATUS_LP_STATE : Fld :=
  { cls := 2, attr := 2, lo := 24, width := 3, acc := .ro, rst := 0 }

/-- R56, 03_lanes_and_ports.md. -/
def Attr.PORT_STATUS : AttrDef :=
  { cls := 2, attr := 2, instLo := 0, instHi := 512, instStep := 1, elems := 1, width := 32,
    flds := [Reg.PORT_STATUS_LINK_UP, Reg.PORT_STATUS_FEC_LOCK, Reg.PORT_STATUS_AN_DONE, Reg.PORT_STATUS_TIMING, Reg.PORT_STATUS_EIDLE_NOPEER, Reg.PORT_STATUS_LP_STATE] }

/-! EIDLE_CFG: class 2 (PORT), attribute 0x3, objects 0 to 511, 1 element(s), 32 bits: R67, 03_lanes_and_ports.md. -/
def Reg.EIDLE_CFG_HOLDOFF_US : Fld :=
  { cls := 2, attr := 3, lo := 0, width := 16, acc := .tx, rst := 10, chk := .range 1 65535 }

/-- R67, 03_lanes_and_ports.md. -/
def Attr.EIDLE_CFG : AttrDef :=
  { cls := 2, attr := 3, instLo := 0, instHi := 511, instStep := 1, elems := 1, width := 32,
    flds := [Reg.EIDLE_CFG_HOLDOFF_US] }

/-! OPT_MAP: class 2 (PORT), attribute 0x8, objects 0 to 512, 1 element(s), 32 bits: R69, 03_lanes_and_ports.md. -/
def Reg.OPT_MAP_MASTER : Fld :=
  { cls := 2, attr := 8, lo := 28, width := 4, acc := .tx, rst := 0 }
def Reg.OPT_MAP_SPEED : Fld :=
  { cls := 2, attr := 8, lo := 27, width := 1, acc := .tx, rst := 0 }
def Reg.OPT_MAP_TYPE : Fld :=
  { cls := 2, attr := 8, lo := 25, width := 2, acc := .tx, rst := 0, chk := .range 0 2 }
def Reg.OPT_MAP_MUX_ADDR : Fld :=
  { cls := 2, attr := 8, lo := 17, width := 7, acc := .tx, rst := 0 }
def Reg.OPT_MAP_MUX_CHAN : Fld :=
  { cls := 2, attr := 8, lo := 14, width := 3, acc := .tx, rst := 0 }
def Reg.OPT_MAP_POLL : Fld :=
  { cls := 2, attr := 8, lo := 0, width := 8, acc := .tx, rst := 10, chk := .range 1 255 }

/-- R69, 03_lanes_and_ports.md. -/
def Attr.OPT_MAP : AttrDef :=
  { cls := 2, attr := 8, instLo := 0, instHi := 512, instStep := 1, elems := 1, width := 32,
    flds := [Reg.OPT_MAP_MASTER, Reg.OPT_MAP_SPEED, Reg.OPT_MAP_TYPE, Reg.OPT_MAP_MUX_ADDR, Reg.OPT_MAP_MUX_CHAN, Reg.OPT_MAP_POLL] }

/-! OPT_RAW: class 2 (PORT), attribute 0x9, objects 0 to 512, 1 element(s), 1088 bits: R71, 03_lanes_and_ports.md. -/
def Reg.OPT_RAW : Fld :=
  { cls := 2, attr := 9, lo := 0, width := 1088, acc := .raw, rst := 0 }

/-- R71, 03_lanes_and_ports.md. -/
def Attr.OPT_RAW : AttrDef :=
  { cls := 2, attr := 9, instLo := 0, instHi := 512, instStep := 1, elems := 1, width := 1088,
    flds := [Reg.OPT_RAW] }

/-! OPT_DIAG: class 2 (PORT), attribute 0xa, objects 0 to 512, 1 element(s), 1024 bits: R70, 03_lanes_and_ports.md. -/
def Reg.OPT_DIAG : Fld :=
  { cls := 2, attr := 10, lo := 0, width := 1024, acc := .ro, rst := 0 }

/-- R70, 03_lanes_and_ports.md. -/
def Attr.OPT_DIAG : AttrDef :=
  { cls := 2, attr := 10, instLo := 0, instHi := 512, instStep := 1, elems := 1, width := 1024,
    flds := [Reg.OPT_DIAG] }

/-! LANE_CFG: class 3 (LANE), attribute 0x1, objects 0 to 511, 1 element(s), 32 bits: R56, 03_lanes_and_ports.md. -/
def Reg.LANE_CFG_TX_INV : Fld :=
  { cls := 3, attr := 1, lo := 31, width := 1, acc := .tx, rst := 0 }
def Reg.LANE_CFG_RX_INV : Fld :=
  { cls := 3, attr := 1, lo := 30, width := 1, acc := .tx, rst := 0 }
def Reg.LANE_CFG_TX_SQUELCH : Fld :=
  { cls := 3, attr := 1, lo := 29, width := 1, acc := .tx, rst := 0 }
def Reg.LANE_CFG_TX_PRE : Fld :=
  { cls := 3, attr := 1, lo := 16, width := 8, acc := .tx, rst := 4 }
def Reg.LANE_CFG_TX_MAIN : Fld :=
  { cls := 3, attr := 1, lo := 8, width := 8, acc := .tx, rst := 48 }
def Reg.LANE_CFG_TX_POST : Fld :=
  { cls := 3, attr := 1, lo := 0, width := 8, acc := .tx, rst := 11 }

/-- R56, 03_lanes_and_ports.md. -/
def Attr.LANE_CFG : AttrDef :=
  { cls := 3, attr := 1, instLo := 0, instHi := 511, instStep := 1, elems := 1, width := 32,
    flds := [Reg.LANE_CFG_TX_INV, Reg.LANE_CFG_RX_INV, Reg.LANE_CFG_TX_SQUELCH, Reg.LANE_CFG_TX_PRE, Reg.LANE_CFG_TX_MAIN, Reg.LANE_CFG_TX_POST] }

/-! LANE_STATUS: class 3 (LANE), attribute 0x2, objects 0 to 511, 1 element(s), 32 bits: R56, 03_lanes_and_ports.md. -/
def Reg.LANE_STATUS_SIG_DET : Fld :=
  { cls := 3, attr := 2, lo := 31, width := 1, acc := .ro, rst := 0 }
def Reg.LANE_STATUS_CDR_LOCK : Fld :=
  { cls := 3, attr := 2, lo := 30, width := 1, acc := .ro, rst := 0 }
def Reg.LANE_STATUS_SYNC : Fld :=
  { cls := 3, attr := 2, lo := 29, width := 1, acc := .ro, rst := 0 }
def Reg.LANE_STATUS_PLL_LOCK : Fld :=
  { cls := 3, attr := 2, lo := 28, width := 1, acc := .ro, rst := 0 }
def Reg.LANE_STATUS_LOOPBACK : Fld :=
  { cls := 3, attr := 2, lo := 27, width := 1, acc := .ro, rst := 0 }

/-- R56, 03_lanes_and_ports.md. -/
def Attr.LANE_STATUS : AttrDef :=
  { cls := 3, attr := 2, instLo := 0, instHi := 511, instStep := 1, elems := 1, width := 32,
    flds := [Reg.LANE_STATUS_SIG_DET, Reg.LANE_STATUS_CDR_LOCK, Reg.LANE_STATUS_SYNC, Reg.LANE_STATUS_PLL_LOCK, Reg.LANE_STATUS_LOOPBACK] }

/-! FP_CFG: class 2 (PORT), attribute 0x10, objects 0 to 511, 1 element(s), 32 bits: R76, 04_frame_path.md. -/
def Reg.FP_CFG_CT_RX : Fld :=
  { cls := 2, attr := 16, lo := 31, width := 1, acc := .tx, rst := 1 }
def Reg.FP_CFG_CT_TX : Fld :=
  { cls := 2, attr := 16, lo := 30, width := 1, acc := .tx, rst := 1 }
def Reg.FP_CFG_TRUST_PCP : Fld :=
  { cls := 2, attr := 16, lo := 29, width := 1, acc := .tx, rst := 1 }
def Reg.FP_CFG_TRUST_DEI : Fld :=
  { cls := 2, attr := 16, lo := 28, width := 1, acc := .tx, rst := 0 }
def Reg.FP_CFG_DEF_PCP : Fld :=
  { cls := 2, attr := 16, lo := 25, width := 3, acc := .tx, rst := 0 }
def Reg.FP_CFG_PVID : Fld :=
  { cls := 2, attr := 16, lo := 12, width := 12, acc := .tx, rst := 1, chk := .range 1 4094 }
def Reg.FP_CFG_MIR_IN_EN : Fld :=
  { cls := 2, attr := 16, lo := 11, width := 1, acc := .tx, rst := 0 }
def Reg.FP_CFG_MIR_IN_SES : Fld :=
  { cls := 2, attr := 16, lo := 7, width := 4, acc := .tx, rst := 0 }
def Reg.FP_CFG_MIR_OUT_EN : Fld :=
  { cls := 2, attr := 16, lo := 6, width := 1, acc := .tx, rst := 0 }
def Reg.FP_CFG_MIR_OUT_SES : Fld :=
  { cls := 2, attr := 16, lo := 2, width := 4, acc := .tx, rst := 0 }

/-- R76, 04_frame_path.md. -/
def Attr.FP_CFG : AttrDef :=
  { cls := 2, attr := 16, instLo := 0, instHi := 511, instStep := 1, elems := 1, width := 32,
    flds := [Reg.FP_CFG_CT_RX, Reg.FP_CFG_CT_TX, Reg.FP_CFG_TRUST_PCP, Reg.FP_CFG_TRUST_DEI, Reg.FP_CFG_DEF_PCP, Reg.FP_CFG_PVID, Reg.FP_CFG_MIR_IN_EN, Reg.FP_CFG_MIR_IN_SES, Reg.FP_CFG_MIR_OUT_EN, Reg.FP_CFG_MIR_OUT_SES] }

/-! PCP_MAP: class 2 (PORT), attribute 0x11, objects 0 to 511, 1 element(s), 32 bits: R76, 04_frame_path.md. -/
def Reg.PCP_MAP_PCP7 : Fld :=
  { cls := 2, attr := 17, lo := 21, width := 3, acc := .tx, rst := 7 }
def Reg.PCP_MAP_PCP6 : Fld :=
  { cls := 2, attr := 17, lo := 18, width := 3, acc := .tx, rst := 6 }
def Reg.PCP_MAP_PCP5 : Fld :=
  { cls := 2, attr := 17, lo := 15, width := 3, acc := .tx, rst := 5 }
def Reg.PCP_MAP_PCP4 : Fld :=
  { cls := 2, attr := 17, lo := 12, width := 3, acc := .tx, rst := 4 }
def Reg.PCP_MAP_PCP3 : Fld :=
  { cls := 2, attr := 17, lo := 9, width := 3, acc := .tx, rst := 3 }
def Reg.PCP_MAP_PCP2 : Fld :=
  { cls := 2, attr := 17, lo := 6, width := 3, acc := .tx, rst := 2 }
def Reg.PCP_MAP_PCP1 : Fld :=
  { cls := 2, attr := 17, lo := 3, width := 3, acc := .tx, rst := 1 }
def Reg.PCP_MAP_PCP0 : Fld :=
  { cls := 2, attr := 17, lo := 0, width := 3, acc := .tx, rst := 0 }

/-- R76, 04_frame_path.md. -/
def Attr.PCP_MAP : AttrDef :=
  { cls := 2, attr := 17, instLo := 0, instHi := 511, instStep := 1, elems := 1, width := 32,
    flds := [Reg.PCP_MAP_PCP7, Reg.PCP_MAP_PCP6, Reg.PCP_MAP_PCP5, Reg.PCP_MAP_PCP4, Reg.PCP_MAP_PCP3, Reg.PCP_MAP_PCP2, Reg.PCP_MAP_PCP1, Reg.PCP_MAP_PCP0] }

/-! ABORT_STAT: class 2 (PORT), attribute 0x12, objects 0 to 511, 1 element(s), 32 bits: R87, 04_frame_path.md. -/
def Reg.ABORT_STAT_SPEC_ABORT : Fld :=
  { cls := 2, attr := 18, lo := 31, width := 1, acc := .w1c, rst := 0 }
def Reg.ABORT_STAT_LAST_CAUSE : Fld :=
  { cls := 2, attr := 18, lo := 24, width := 4, acc := .ro, rst := 0 }
def Reg.ABORT_STAT_ABORT_COUNT : Fld :=
  { cls := 2, attr := 18, lo := 0, width := 24, acc := .rc, rst := 0 }

/-- R87, 04_frame_path.md. -/
def Attr.ABORT_STAT : AttrDef :=
  { cls := 2, attr := 18, instLo := 0, instHi := 511, instStep := 1, elems := 1, width := 32,
    flds := [Reg.ABORT_STAT_SPEC_ABORT, Reg.ABORT_STAT_LAST_CAUSE, Reg.ABORT_STAT_ABORT_COUNT] }

/-! TRAP_CFG: class 1 (DEV), attribute 0x30, objects 0 to 0, 1 element(s), 32 bits: R92, 04_frame_path.md. -/
def Reg.TRAP_CFG_PTP_ACT : Fld :=
  { cls := 1, attr := 48, lo := 30, width := 2, acc := .tx, rst := 1 }
def Reg.TRAP_CFG_LLDP_ACT : Fld :=
  { cls := 1, attr := 48, lo := 28, width := 2, acc := .tx, rst := 1 }
def Reg.TRAP_CFG_ESMC_ACT : Fld :=
  { cls := 1, attr := 48, lo := 26, width := 2, acc := .tx, rst := 1 }
def Reg.TRAP_CFG_RSVD_ACT : Fld :=
  { cls := 1, attr := 48, lo := 24, width := 2, acc := .tx, rst := 3 }

/-- R92, 04_frame_path.md. -/
def Attr.TRAP_CFG : AttrDef :=
  { cls := 1, attr := 48, instLo := 0, instHi := 0, instStep := 1, elems := 1, width := 32,
    flds := [Reg.TRAP_CFG_PTP_ACT, Reg.TRAP_CFG_LLDP_ACT, Reg.TRAP_CFG_ESMC_ACT, Reg.TRAP_CFG_RSVD_ACT] }

/-! TRAP_RATE: class 1 (DEV), attribute 0x31, objects 0 to 0, 8 element(s), 32 bits: R92, 04_frame_path.md. -/
def Reg.TRAP_RATE_RATE : Fld :=
  { cls := 1, attr := 49, lo := 0, width := 24, acc := .tx, rst := 10000, byElem := true, exc := [(7, 50000)] }

/-- R92, 04_frame_path.md. -/
def Attr.TRAP_RATE : AttrDef :=
  { cls := 1, attr := 49, instLo := 0, instHi := 0, instStep := 1, elems := 8, width := 32,
    flds := [Reg.TRAP_RATE_RATE] }

/-! POOL_CFG: class 1 (DEV), attribute 0x38, objects 0 to 0, 1 element(s), 32 bits: R108, 05_buffer_pool.md. -/
def Reg.POOL_CFG_SCATTER_RSV : Fld :=
  { cls := 1, attr := 56, lo := 14, width := 18, acc := .tx, rst := 4096 }
def Reg.POOL_CFG_TRAP_RSV : Fld :=
  { cls := 1, attr := 56, lo := 0, width := 14, acc := .tx, rst := 512, chk := .range 128 16383 }

/-- R108, 05_buffer_pool.md. -/
def Attr.POOL_CFG : AttrDef :=
  { cls := 1, attr := 56, instLo := 0, instHi := 0, instStep := 1, elems := 1, width := 32,
    flds := [Reg.POOL_CFG_SCATTER_RSV, Reg.POOL_CFG_TRAP_RSV] }

/-! POOL_USED: class 1 (DEV), attribute 0x39, objects 0 to 0, 1 element(s), 32 bits: R108, 05_buffer_pool.md. -/
def Reg.POOL_USED : Fld :=
  { cls := 1, attr := 57, lo := 0, width := 19, acc := .ro, rst := 0 }

/-- R108, 05_buffer_pool.md. -/
def Attr.POOL_USED : AttrDef :=
  { cls := 1, attr := 57, instLo := 0, instHi := 0, instStep := 1, elems := 1, width := 32,
    flds := [Reg.POOL_USED] }

/-! POOL_WMARK: class 1 (DEV), attribute 0x3a, objects 0 to 0, 1 element(s), 32 bits: R108, 05_buffer_pool.md. -/
def Reg.POOL_WMARK : Fld :=
  { cls := 1, attr := 58, lo := 0, width := 19, acc := .rc, rst := 0 }

/-- R108, 05_buffer_pool.md. -/
def Attr.POOL_WMARK : AttrDef :=
  { cls := 1, attr := 58, instLo := 0, instHi := 0, instStep := 1, elems := 1, width := 32,
    flds := [Reg.POOL_WMARK] }

/-! SHARED_SIZE: class 1 (DEV), attribute 0x3b, objects 0 to 0, 1 element(s), 32 bits: R96, 05_buffer_pool.md. -/
def Reg.SHARED_SIZE : Fld :=
  { cls := 1, attr := 59, lo := 0, width := 19, acc := .ro, rst := 0 }

/-- R96, 05_buffer_pool.md. -/
def Attr.SHARED_SIZE : AttrDef :=
  { cls := 1, attr := 59, instLo := 0, instHi := 0, instStep := 1, elems := 1, width := 32,
    flds := [Reg.SHARED_SIZE] }

/-! SHARED_USED: class 1 (DEV), attribute 0x3c, objects 0 to 0, 1 element(s), 32 bits: R108, 05_buffer_pool.md. -/
def Reg.SHARED_USED : Fld :=
  { cls := 1, attr := 60, lo := 0, width := 19, acc := .ro, rst := 0 }

/-- R108, 05_buffer_pool.md. -/
def Attr.SHARED_USED : AttrDef :=
  { cls := 1, attr := 60, instLo := 0, instHi := 0, instStep := 1, elems := 1, width := 32,
    flds := [Reg.SHARED_USED] }

/-! RED_PROF: class 1 (DEV), attribute 0x3d, objects 0 to 0, 48 element(s), 32 bits: R109, 05_buffer_pool.md. -/
def Reg.RED_PROF_MIN_TH : Fld :=
  { cls := 1, attr := 61, lo := 20, width := 12, acc := .tx, rst := 0 }
def Reg.RED_PROF_MAX_TH : Fld :=
  { cls := 1, attr := 61, lo := 8, width := 12, acc := .tx, rst := 0 }
def Reg.RED_PROF_MAX_P : Fld :=
  { cls := 1, attr := 61, lo := 4, width := 4, acc := .tx, rst := 0 }
def Reg.RED_PROF_W : Fld :=
  { cls := 1, attr := 61, lo := 0, width := 4, acc := .tx, rst := 0 }

/-- R109, 05_buffer_pool.md. -/
def Attr.RED_PROF : AttrDef :=
  { cls := 1, attr := 61, instLo := 0, instHi := 0, instStep := 1, elems := 48, width := 32,
    flds := [Reg.RED_PROF_MIN_TH, Reg.RED_PROF_MAX_TH, Reg.RED_PROF_MAX_P, Reg.RED_PROF_W] }

/-! Q_BUF: class 4 (QUEUE), attribute 0x1, objects 0 to 4095, 1 element(s), 32 bits: R109, 05_buffer_pool.md. -/
def Reg.Q_BUF_Q_MAX : Fld :=
  { cls := 4, attr := 1, lo := 16, width := 16, acc := .tx, rst := 65535, chk := .range 1 65535 }
def Reg.Q_BUF_RSV_Q : Fld :=
  { cls := 4, attr := 1, lo := 8, width := 8, acc := .tx, rst := 4 }
def Reg.Q_BUF_ALPHA : Fld :=
  { cls := 4, attr := 1, lo := 4, width := 4, acc := .tx, rst := 7, chk := .range 0 10 }
def Reg.Q_BUF_RED_PROF : Fld :=
  { cls := 4, attr := 1, lo := 0, width := 4, acc := .tx, rst := 0 }

/-- R109, 05_buffer_pool.md. -/
def Attr.Q_BUF : AttrDef :=
  { cls := 4, attr := 1, instLo := 0, instHi := 4095, instStep := 1, elems := 1, width := 32,
    flds := [Reg.Q_BUF_Q_MAX, Reg.Q_BUF_RSV_Q, Reg.Q_BUF_ALPHA, Reg.Q_BUF_RED_PROF] }

/-! MGT_Q_BUF: class 4 (QUEUE), attribute 0x1, objects 4096 to 4103, 1 element(s), 32 bits: R108, 05_buffer_pool.md. -/
def Reg.MGT_Q_BUF_Q_MAX : Fld :=
  { cls := 4, attr := 1, lo := 16, width := 16, acc := .tx, rst := 65535, chk := .range 1 65535 }
def Reg.MGT_Q_BUF_RSV_Q : Fld :=
  { cls := 4, attr := 1, lo := 8, width := 8, acc := .tx, rst := 0, chk := .range 0 0 }
def Reg.MGT_Q_BUF_ALPHA : Fld :=
  { cls := 4, attr := 1, lo := 4, width := 4, acc := .tx, rst := 0, chk := .range 0 0 }
def Reg.MGT_Q_BUF_RED_PROF : Fld :=
  { cls := 4, attr := 1, lo := 0, width := 4, acc := .tx, rst := 0, chk := .range 0 0 }

/-- R108, 05_buffer_pool.md. -/
def Attr.MGT_Q_BUF : AttrDef :=
  { cls := 4, attr := 1, instLo := 4096, instHi := 4103, instStep := 1, elems := 1, width := 32,
    flds := [Reg.MGT_Q_BUF_Q_MAX, Reg.MGT_Q_BUF_RSV_Q, Reg.MGT_Q_BUF_ALPHA, Reg.MGT_Q_BUF_RED_PROF] }

/-! Q_DEPTH: class 4 (QUEUE), attribute 0x2, objects 0 to 4103, 1 element(s), 32 bits: R109, 05_buffer_pool.md. -/
def Reg.Q_DEPTH_DEPTH : Fld :=
  { cls := 4, attr := 2, lo := 0, width := 18, acc := .ro, rst := 0 }

/-- R109, 05_buffer_pool.md. -/
def Attr.Q_DEPTH : AttrDef :=
  { cls := 4, attr := 2, instLo := 0, instHi := 4103, instStep := 1, elems := 1, width := 32,
    flds := [Reg.Q_DEPTH_DEPTH] }

/-! Q_WMARK: class 4 (QUEUE), attribute 0x3, objects 0 to 4103, 1 element(s), 32 bits: R109, 05_buffer_pool.md. -/
def Reg.Q_WMARK_DEPTH : Fld :=
  { cls := 4, attr := 3, lo := 0, width := 18, acc := .rc, rst := 0 }

/-- R109, 05_buffer_pool.md. -/
def Attr.Q_WMARK : AttrDef :=
  { cls := 4, attr := 3, instLo := 0, instHi := 4103, instStep := 1, elems := 1, width := 32,
    flds := [Reg.Q_WMARK_DEPTH] }

/-! IN_BUF: class 2 (PORT), attribute 0x20, objects 0 to 511, 1 element(s), 32 bits: R109, 05_buffer_pool.md. -/
def Reg.IN_BUF_HEADROOM : Fld :=
  { cls := 2, attr := 32, lo := 16, width := 16, acc := .tx, rst := 0 }
def Reg.IN_BUF_RSV_IN : Fld :=
  { cls := 2, attr := 32, lo := 0, width := 16, acc := .tx, rst := 0 }

/-- R109, 05_buffer_pool.md. -/
def Attr.IN_BUF : AttrDef :=
  { cls := 2, attr := 32, instLo := 0, instHi := 511, instStep := 1, elems := 1, width := 32,
    flds := [Reg.IN_BUF_HEADROOM, Reg.IN_BUF_RSV_IN] }

/-! FC_CFG: class 2 (PORT), attribute 0x21, objects 0 to 511, 1 element(s), 32 bits: R109, 05_buffer_pool.md. -/
def Reg.FC_CFG_LOSSLESS : Fld :=
  { cls := 2, attr := 33, lo := 24, width := 8, acc := .tx, rst := 0 }
def Reg.FC_CFG_FC_MODE : Fld :=
  { cls := 2, attr := 33, lo := 22, width := 2, acc := .tx, rst := 0 }
def Reg.FC_CFG_XOFF_TH : Fld :=
  { cls := 2, attr := 33, lo := 0, width := 16, acc := .tx, rst := 1024, chk := .range 1 65535 }

/-- R109, 05_buffer_pool.md. -/
def Attr.FC_CFG : AttrDef :=
  { cls := 2, attr := 33, instLo := 0, instHi := 511, instStep := 1, elems := 1, width := 32,
    flds := [Reg.FC_CFG_LOSSLESS, Reg.FC_CFG_FC_MODE, Reg.FC_CFG_XOFF_TH] }

/-! IN_STAT: class 2 (PORT), attribute 0x22, objects 0 to 511, 1 element(s), 32 bits: R109, 05_buffer_pool.md. -/
def Reg.IN_STAT_XOFF : Fld :=
  { cls := 2, attr := 34, lo := 24, width := 8, acc := .ro, rst := 0 }
def Reg.IN_STAT_HEADROOM_USED : Fld :=
  { cls := 2, attr := 34, lo := 0, width := 16, acc := .ro, rst := 0 }

/-- R109, 05_buffer_pool.md. -/
def Attr.IN_STAT : AttrDef :=
  { cls := 2, attr := 34, instLo := 0, instHi := 511, instStep := 1, elems := 1, width := 32,
    flds := [Reg.IN_STAT_XOFF, Reg.IN_STAT_HEADROOM_USED] }

/-! SHP_RATE: class 5 (SHAPER), attribute 0x1, objects 0 to 4103, 1 element(s), 32 bits: R116, 06_egress_scheduling.md. -/
def Reg.SHP_RATE_RATE : Fld :=
  { cls := 5, attr := 1, lo := 0, width := 32, acc := .tx, rst := 0, chk := .zeroOr 8 100000000 }

/-- R116, 06_egress_scheduling.md. -/
def Attr.SHP_RATE : AttrDef :=
  { cls := 5, attr := 1, instLo := 0, instHi := 4103, instStep := 1, elems := 1, width := 32,
    flds := [Reg.SHP_RATE_RATE] }

/-! SHP_BURST: class 5 (SHAPER), attribute 0x2, objects 0 to 4103, 1 element(s), 32 bits: R116, 06_egress_scheduling.md. -/
def Reg.SHP_BURST_OVERHEAD : Fld :=
  { cls := 5, attr := 2, lo := 24, width := 8, acc := .tx, rst := 20 }
def Reg.SHP_BURST_BURST : Fld :=
  { cls := 5, attr := 2, lo := 0, width := 24, acc := .tx, rst := 0 }

/-- R116, 06_egress_scheduling.md. -/
def Attr.SHP_BURST : AttrDef :=
  { cls := 5, attr := 2, instLo := 0, instHi := 4103, instStep := 1, elems := 1, width := 32,
    flds := [Reg.SHP_BURST_OVERHEAD, Reg.SHP_BURST_BURST] }

/-! SHP_STAT: class 5 (SHAPER), attribute 0x3, objects 0 to 4103, 1 element(s), 32 bits: R116, 06_egress_scheduling.md. -/
def Reg.SHP_STAT_ELIGIBLE : Fld :=
  { cls := 5, attr := 3, lo := 31, width := 1, acc := .ro, rst := 1 }
def Reg.SHP_STAT_BACKLOG : Fld :=
  { cls := 5, attr := 3, lo := 30, width := 1, acc := .ro, rst := 0 }
def Reg.SHP_STAT_AHEAD : Fld :=
  { cls := 5, attr := 3, lo := 0, width := 30, acc := .ro, rst := 0 }

/-- R116, 06_egress_scheduling.md. -/
def Attr.SHP_STAT : AttrDef :=
  { cls := 5, attr := 3, instLo := 0, instHi := 4103, instStep := 1, elems := 1, width := 32,
    flds := [Reg.SHP_STAT_ELIGIBLE, Reg.SHP_STAT_BACKLOG, Reg.SHP_STAT_AHEAD] }

/-! ADMIN_LIST: class 6 (GATE), attribute 0x1, objects 0 to 511, 256 element(s), 64 bits: R117, 06_egress_scheduling.md. -/
def Reg.ADMIN_LIST_OP : Fld :=
  { cls := 6, attr := 1, lo := 61, width := 3, acc := .tx, rst := 0, chk := .range 0 2 }
def Reg.ADMIN_LIST_GATES : Fld :=
  { cls := 6, attr := 1, lo := 32, width := 8, acc := .tx, rst := 0 }
def Reg.ADMIN_LIST_INTERVAL : Fld :=
  { cls := 6, attr := 1, lo := 0, width := 32, acc := .tx, rst := 0, chk := .range 32 4294967295 }

/-- R117, 06_egress_scheduling.md. -/
def Attr.ADMIN_LIST : AttrDef :=
  { cls := 6, attr := 1, instLo := 0, instHi := 511, instStep := 1, elems := 256, width := 64,
    flds := [Reg.ADMIN_LIST_OP, Reg.ADMIN_LIST_GATES, Reg.ADMIN_LIST_INTERVAL] }

/-! ADMIN_LEN: class 6 (GATE), attribute 0x2, objects 0 to 511, 1 element(s), 32 bits: R122, 06_egress_scheduling.md. -/
def Reg.ADMIN_LEN : Fld :=
  { cls := 6, attr := 2, lo := 0, width := 32, acc := .tx, rst := 1, chk := .range 1 256 }

/-- R122, 06_egress_scheduling.md. -/
def Attr.ADMIN_LEN : AttrDef :=
  { cls := 6, attr := 2, instLo := 0, instHi := 511, instStep := 1, elems := 1, width := 32,
    flds := [Reg.ADMIN_LEN] }

/-! ADMIN_BASE: class 6 (GATE), attribute 0x3, objects 0 to 511, 1 element(s), 96 bits: R122, 06_egress_scheduling.md. -/
def Reg.ADMIN_BASE : Fld :=
  { cls := 6, attr := 3, lo := 0, width := 96, acc := .tx, rst := 0, chk := .time }

/-- R122, 06_egress_scheduling.md. -/
def Attr.ADMIN_BASE : AttrDef :=
  { cls := 6, attr := 3, instLo := 0, instHi := 511, instStep := 1, elems := 1, width := 96,
    flds := [Reg.ADMIN_BASE] }

/-! ADMIN_CYCLE: class 6 (GATE), attribute 0x4, objects 0 to 511, 1 element(s), 32 bits: R122, 06_egress_scheduling.md. -/
def Reg.ADMIN_CYCLE : Fld :=
  { cls := 6, attr := 4, lo := 0, width := 32, acc := .tx, rst := 1000000, chk := .range 1000 1000000000 }

/-- R122, 06_egress_scheduling.md. -/
def Attr.ADMIN_CYCLE : AttrDef :=
  { cls := 6, attr := 4, instLo := 0, instHi := 511, instStep := 1, elems := 1, width := 32,
    flds := [Reg.ADMIN_CYCLE] }

/-! ADMIN_EXT: class 6 (GATE), attribute 0x5, objects 0 to 511, 1 element(s), 32 bits: R122, 06_egress_scheduling.md. -/
def Reg.ADMIN_EXT : Fld :=
  { cls := 6, attr := 5, lo := 0, width := 32, acc := .tx, rst := 0, chk := .range 0 1000000 }

/-- R122, 06_egress_scheduling.md. -/
def Attr.ADMIN_EXT : AttrDef :=
  { cls := 6, attr := 5, instLo := 0, instHi := 511, instStep := 1, elems := 1, width := 32,
    flds := [Reg.ADMIN_EXT] }

/-! GATE_CTRL: class 6 (GATE), attribute 0x6, objects 0 to 511, 1 element(s), 32 bits: R122, 06_egress_scheduling.md. -/
def Reg.GATE_CTRL_GATE_EN : Fld :=
  { cls := 6, attr := 6, lo := 31, width := 1, acc := .tx, rst := 0 }
def Reg.GATE_CTRL_ADMIN_STATES : Fld :=
  { cls := 6, attr := 6, lo := 16, width := 8, acc := .tx, rst := 255 }
def Reg.GATE_CTRL_GATE_CHECK : Fld :=
  { cls := 6, attr := 6, lo := 8, width := 8, acc := .tx, rst := 0 }
def Reg.GATE_CTRL_SETUP_MARGIN : Fld :=
  { cls := 6, attr := 6, lo := 0, width := 8, acc := .tx, rst := 10, chk := .range 1 255 }

/-- R122, 06_egress_scheduling.md. -/
def Attr.GATE_CTRL : AttrDef :=
  { cls := 6, attr := 6, instLo := 0, instHi := 511, instStep := 1, elems := 1, width := 32,
    flds := [Reg.GATE_CTRL_GATE_EN, Reg.GATE_CTRL_ADMIN_STATES, Reg.GATE_CTRL_GATE_CHECK, Reg.GATE_CTRL_SETUP_MARGIN] }

/-! OPER_LIST: class 6 (GATE), attribute 0x11, objects 0 to 511, 256 element(s), 64 bits: R122, 06_egress_scheduling.md. -/
def Reg.OPER_LIST_OP : Fld :=
  { cls := 6, attr := 17, lo := 61, width := 3, acc := .ro, rst := 0 }
def Reg.OPER_LIST_GATES : Fld :=
  { cls := 6, attr := 17, lo := 32, width := 8, acc := .ro, rst := 0 }
def Reg.OPER_LIST_INTERVAL : Fld :=
  { cls := 6, attr := 17, lo := 0, width := 32, acc := .ro, rst := 0 }

/-- R122, 06_egress_scheduling.md. -/
def Attr.OPER_LIST : AttrDef :=
  { cls := 6, attr := 17, instLo := 0, instHi := 511, instStep := 1, elems := 256, width := 64,
    flds := [Reg.OPER_LIST_OP, Reg.OPER_LIST_GATES, Reg.OPER_LIST_INTERVAL] }

/-! OPER_LEN: class 6 (GATE), attribute 0x12, objects 0 to 511, 1 element(s), 32 bits: R122, 06_egress_scheduling.md. -/
def Reg.OPER_LEN : Fld :=
  { cls := 6, attr := 18, lo := 0, width := 32, acc := .ro, rst := 1 }

/-- R122, 06_egress_scheduling.md. -/
def Attr.OPER_LEN : AttrDef :=
  { cls := 6, attr := 18, instLo := 0, instHi := 511, instStep := 1, elems := 1, width := 32,
    flds := [Reg.OPER_LEN] }

/-! OPER_BASE: class 6 (GATE), attribute 0x13, objects 0 to 511, 1 element(s), 96 bits: R122, 06_egress_scheduling.md. -/
def Reg.OPER_BASE : Fld :=
  { cls := 6, attr := 19, lo := 0, width := 96, acc := .ro, rst := 0 }

/-- R122, 06_egress_scheduling.md. -/
def Attr.OPER_BASE : AttrDef :=
  { cls := 6, attr := 19, instLo := 0, instHi := 511, instStep := 1, elems := 1, width := 96,
    flds := [Reg.OPER_BASE] }

/-! OPER_CYCLE: class 6 (GATE), attribute 0x14, objects 0 to 511, 1 element(s), 32 bits: R122, 06_egress_scheduling.md. -/
def Reg.OPER_CYCLE : Fld :=
  { cls := 6, attr := 20, lo := 0, width := 32, acc := .ro, rst := 1000000 }

/-- R122, 06_egress_scheduling.md. -/
def Attr.OPER_CYCLE : AttrDef :=
  { cls := 6, attr := 20, instLo := 0, instHi := 511, instStep := 1, elems := 1, width := 32,
    flds := [Reg.OPER_CYCLE] }

/-! OPER_EXT: class 6 (GATE), attribute 0x15, objects 0 to 511, 1 element(s), 32 bits: R122, 06_egress_scheduling.md. -/
def Reg.OPER_EXT : Fld :=
  { cls := 6, attr := 21, lo := 0, width := 32, acc := .ro, rst := 0 }

/-- R122, 06_egress_scheduling.md. -/
def Attr.OPER_EXT : AttrDef :=
  { cls := 6, attr := 21, instLo := 0, instHi := 511, instStep := 1, elems := 1, width := 32,
    flds := [Reg.OPER_EXT] }

/-! CHANGE_TIME: class 6 (GATE), attribute 0x16, objects 0 to 511, 1 element(s), 96 bits: R122, 06_egress_scheduling.md. -/
def Reg.CHANGE_TIME : Fld :=
  { cls := 6, attr := 22, lo := 0, width := 96, acc := .ro, rst := 0 }

/-- R122, 06_egress_scheduling.md. -/
def Attr.CHANGE_TIME : AttrDef :=
  { cls := 6, attr := 22, instLo := 0, instHi := 511, instStep := 1, elems := 1, width := 96,
    flds := [Reg.CHANGE_TIME] }

/-! GATE_STATUS: class 6 (GATE), attribute 0x17, objects 0 to 511, 1 element(s), 32 bits: R122, 06_egress_scheduling.md. -/
def Reg.GATE_STATUS_LATE_START : Fld :=
  { cls := 6, attr := 23, lo := 31, width := 1, acc := .w1c, rst := 0 }
def Reg.GATE_STATUS_PENDING : Fld :=
  { cls := 6, attr := 23, lo := 30, width := 1, acc := .ro, rst := 0 }
def Reg.GATE_STATUS_RUNNING : Fld :=
  { cls := 6, attr := 23, lo := 29, width := 1, acc := .ro, rst := 0 }
def Reg.GATE_STATUS_OPER_STATES : Fld :=
  { cls := 6, attr := 23, lo := 16, width := 8, acc := .ro, rst := 255 }
def Reg.GATE_STATUS_ENTRY : Fld :=
  { cls := 6, attr := 23, lo := 0, width := 8, acc := .ro, rst := 0 }

/-- R122, 06_egress_scheduling.md. -/
def Attr.GATE_STATUS : AttrDef :=
  { cls := 6, attr := 23, instLo := 0, instHi := 511, instStep := 1, elems := 1, width := 32,
    flds := [Reg.GATE_STATUS_LATE_START, Reg.GATE_STATUS_PENDING, Reg.GATE_STATUS_RUNNING, Reg.GATE_STATUS_OPER_STATES, Reg.GATE_STATUS_ENTRY] }

/-! SCHED_CFG: class 2 (PORT), attribute 0x30, objects 0 to 511, 1 element(s), 32 bits: R125, 06_egress_scheduling.md. -/
def Reg.SCHED_CFG_PREEMPT_EN : Fld :=
  { cls := 2, attr := 48, lo := 31, width := 1, acc := .tx, rst := 0 }
def Reg.SCHED_CFG_VERIFY_DIS : Fld :=
  { cls := 2, attr := 48, lo := 30, width := 1, acc := .tx, rst := 0 }
def Reg.SCHED_CFG_ADD_FRAG : Fld :=
  { cls := 2, attr := 48, lo := 28, width := 2, acc := .tx, rst := 0 }
def Reg.SCHED_CFG_VERIFY_MS : Fld :=
  { cls := 2, attr := 48, lo := 24, width := 4, acc := .tx, rst := 10, chk := .range 1 15 }
def Reg.SCHED_CFG_EXPRESS : Fld :=
  { cls := 2, attr := 48, lo := 16, width := 8, acc := .tx, rst := 255 }

/-- R125, 06_egress_scheduling.md. -/
def Attr.SCHED_CFG : AttrDef :=
  { cls := 2, attr := 48, instLo := 0, instHi := 511, instStep := 1, elems := 1, width := 32,
    flds := [Reg.SCHED_CFG_PREEMPT_EN, Reg.SCHED_CFG_VERIFY_DIS, Reg.SCHED_CFG_ADD_FRAG, Reg.SCHED_CFG_VERIFY_MS, Reg.SCHED_CFG_EXPRESS] }

/-! SCHED_STAT: class 2 (PORT), attribute 0x31, objects 0 to 511, 1 element(s), 32 bits: R125, 06_egress_scheduling.md. -/
def Reg.SCHED_STAT_PREEMPT_ACTIVE : Fld :=
  { cls := 2, attr := 49, lo := 31, width := 1, acc := .ro, rst := 0 }
def Reg.SCHED_STAT_VERIFY_STATE : Fld :=
  { cls := 2, attr := 49, lo := 28, width := 3, acc := .ro, rst := 0 }
def Reg.SCHED_STAT_PAUSED : Fld :=
  { cls := 2, attr := 49, lo := 16, width := 8, acc := .ro, rst := 0 }
def Reg.SCHED_STAT_SLOTS_USED : Fld :=
  { cls := 2, attr := 49, lo := 0, width := 5, acc := .ro, rst := 0 }

/-- R125, 06_egress_scheduling.md. -/
def Attr.SCHED_STAT : AttrDef :=
  { cls := 2, attr := 49, instLo := 0, instHi := 511, instStep := 1, elems := 1, width := 32,
    flds := [Reg.SCHED_STAT_PREEMPT_ACTIVE, Reg.SCHED_STAT_VERIFY_STATE, Reg.SCHED_STAT_PAUSED, Reg.SCHED_STAT_SLOTS_USED] }

/-! TBL_USED: class 7 (TBL), attribute 0x1, objects 0 to 6, 1 element(s), 32 bits: R160, 07_tables.md. -/
def Reg.TBL_USED : Fld :=
  { cls := 7, attr := 1, lo := 0, width := 19, acc := .ro, rst := 0 }

/-- R160, 07_tables.md. -/
def Attr.TBL_USED : AttrDef :=
  { cls := 7, attr := 1, instLo := 0, instHi := 6, instStep := 1, elems := 1, width := 32,
    flds := [Reg.TBL_USED] }

/-! TBL_LOCK: class 7 (TBL), attribute 0x2, objects 0 to 6, 1 element(s), 64 bits: R152, 07_tables.md. -/
def Reg.TBL_LOCK : Fld :=
  { cls := 7, attr := 2, lo := 0, width := 64, acc := .rw, rst := 0 }

/-- R152, 07_tables.md. -/
def Attr.TBL_LOCK : AttrDef :=
  { cls := 7, attr := 2, instLo := 0, instHi := 6, instStep := 1, elems := 1, width := 64,
    flds := [Reg.TBL_LOCK] }

/-! TBL_GEN: class 7 (TBL), attribute 0x3, objects 0 to 6, 1 element(s), 32 bits: R160, 07_tables.md. -/
def Reg.TBL_GEN_G : Fld :=
  { cls := 7, attr := 3, lo := 31, width := 1, acc := .ro, rst := 0 }
def Reg.TBL_GEN_PENDING : Fld :=
  { cls := 7, attr := 3, lo := 30, width := 1, acc := .ro, rst := 0 }

/-- R160, 07_tables.md. -/
def Attr.TBL_GEN : AttrDef :=
  { cls := 7, attr := 3, instLo := 0, instHi := 6, instStep := 1, elems := 1, width := 32,
    flds := [Reg.TBL_GEN_G, Reg.TBL_GEN_PENDING] }

/-! LOCK_MS: class 7 (TBL), attribute 0x4, objects 0 to 6, 1 element(s), 32 bits: R160, 07_tables.md. -/
def Reg.LOCK_MS : Fld :=
  { cls := 7, attr := 4, lo := 0, width := 32, acc := .tx, rst := 200, chk := .range 1 65535 }

/-- R160, 07_tables.md. -/
def Attr.LOCK_MS : AttrDef :=
  { cls := 7, attr := 4, instLo := 0, instHi := 6, instStep := 1, elems := 1, width := 32,
    flds := [Reg.LOCK_MS] }

/-! EM_SEED0: class 7 (TBL), attribute 0x10, objects 0 to 0, 1 element(s), 32 bits: R160, 07_tables.md. -/
def Reg.EM_SEED0 : Fld :=
  { cls := 7, attr := 16, lo := 0, width := 32, acc := .tx, rst := 4294967295 }

/-- R160, 07_tables.md. -/
def Attr.EM_SEED0 : AttrDef :=
  { cls := 7, attr := 16, instLo := 0, instHi := 0, instStep := 1, elems := 1, width := 32,
    flds := [Reg.EM_SEED0] }

/-! EM_SEED1: class 7 (TBL), attribute 0x11, objects 0 to 0, 1 element(s), 32 bits: R160, 07_tables.md. -/
def Reg.EM_SEED1 : Fld :=
  { cls := 7, attr := 17, lo := 0, width := 32, acc := .tx, rst := 979146465 }

/-- R160, 07_tables.md. -/
def Attr.EM_SEED1 : AttrDef :=
  { cls := 7, attr := 17, instLo := 0, instHi := 0, instStep := 1, elems := 1, width := 32,
    flds := [Reg.EM_SEED1] }

/-! EM_CTRL: class 7 (TBL), attribute 0x12, objects 0 to 0, 1 element(s), 32 bits: R160, 07_tables.md. -/
def Reg.EM_CTRL_AGE_EN : Fld :=
  { cls := 7, attr := 18, lo := 31, width := 1, acc := .tx, rst := 1 }
def Reg.EM_CTRL_MOVE_LIMIT : Fld :=
  { cls := 7, attr := 18, lo := 24, width := 4, acc := .tx, rst := 8, chk := .range 1 15 }
def Reg.EM_CTRL_MAX_KICKS : Fld :=
  { cls := 7, attr := 18, lo := 20, width := 4, acc := .tx, rst := 4, chk := .range 1 15 }
def Reg.EM_CTRL_AGE_TIME : Fld :=
  { cls := 7, attr := 18, lo := 0, width := 15, acc := .tx, rst := 300, chk := .range 1 32767 }

/-- R160, 07_tables.md. -/
def Attr.EM_CTRL : AttrDef :=
  { cls := 7, attr := 18, instLo := 0, instHi := 0, instStep := 1, elems := 1, width := 32,
    flds := [Reg.EM_CTRL_AGE_EN, Reg.EM_CTRL_MOVE_LIMIT, Reg.EM_CTRL_MAX_KICKS, Reg.EM_CTRL_AGE_TIME] }

/-! EM_STATUS: class 7 (TBL), attribute 0x13, objects 0 to 0, 1 element(s), 32 bits: R160, 07_tables.md. -/
def Reg.EM_STATUS_STATION_FLAP : Fld :=
  { cls := 7, attr := 19, lo := 31, width := 1, acc := .w1c, rst := 0 }
def Reg.EM_STATUS_FROZEN_COUNT : Fld :=
  { cls := 7, attr := 19, lo := 0, width := 19, acc := .ro, rst := 0 }

/-- R160, 07_tables.md. -/
def Attr.EM_STATUS : AttrDef :=
  { cls := 7, attr := 19, instLo := 0, instHi := 0, instStep := 1, elems := 1, width := 32,
    flds := [Reg.EM_STATUS_STATION_FLAP, Reg.EM_STATUS_FROZEN_COUNT] }

/-! AGE_UNIT: class 7 (TBL), attribute 0x14, objects 0 to 0, 1 element(s), 32 bits: R160, 07_tables.md. -/
def Reg.AGE_UNIT : Fld :=
  { cls := 7, attr := 20, lo := 0, width := 16, acc := .tx, rst := 1000, chk := .range 1 65535 }

/-- R160, 07_tables.md. -/
def Attr.AGE_UNIT : AttrDef :=
  { cls := 7, attr := 20, instLo := 0, instHi := 0, instStep := 1, elems := 1, width := 32,
    flds := [Reg.AGE_UNIT] }

/-! ROUTER_MAC: class 7 (TBL), attribute 0x10, objects 1 to 1, 1 element(s), 48 bits: R160, 07_tables.md. -/
def Reg.ROUTER_MAC : Fld :=
  { cls := 7, attr := 16, lo := 0, width := 48, acc := .tx, rst := 0 }

/-- R160, 07_tables.md. -/
def Attr.ROUTER_MAC : AttrDef :=
  { cls := 7, attr := 16, instLo := 1, instHi := 1, instStep := 1, elems := 1, width := 48,
    flds := [Reg.ROUTER_MAC] }

/-! SG_ADMIN_LIST: class 7 (TBL), attribute 0x20, objects 3 to 3, 32768 element(s), 64 bits: R149, 07_tables.md. -/
def Reg.SG_ADMIN_LIST_OP : Fld :=
  { cls := 7, attr := 32, lo := 61, width := 3, acc := .tx, rst := 0, chk := .range 0 0 }
def Reg.SG_ADMIN_LIST_GATES : Fld :=
  { cls := 7, attr := 32, lo := 32, width := 8, acc := .tx, rst := 0 }
def Reg.SG_ADMIN_LIST_INTERVAL : Fld :=
  { cls := 7, attr := 32, lo := 0, width := 32, acc := .tx, rst := 0, chk := .range 32 4294967295 }

/-- R149, 07_tables.md. -/
def Attr.SG_ADMIN_LIST : AttrDef :=
  { cls := 7, attr := 32, instLo := 3, instHi := 3, instStep := 1, elems := 32768, width := 64,
    flds := [Reg.SG_ADMIN_LIST_OP, Reg.SG_ADMIN_LIST_GATES, Reg.SG_ADMIN_LIST_INTERVAL] }

/-! SG_ADMIN_LEN: class 7 (TBL), attribute 0x21, objects 3 to 3, 512 element(s), 32 bits: R149, 07_tables.md. -/
def Reg.SG_ADMIN_LEN : Fld :=
  { cls := 7, attr := 33, lo := 0, width := 32, acc := .tx, rst := 1, chk := .range 1 64 }

/-- R149, 07_tables.md. -/
def Attr.SG_ADMIN_LEN : AttrDef :=
  { cls := 7, attr := 33, instLo := 3, instHi := 3, instStep := 1, elems := 512, width := 32,
    flds := [Reg.SG_ADMIN_LEN] }

/-! SG_ADMIN_BASE: class 7 (TBL), attribute 0x22, objects 3 to 3, 512 element(s), 96 bits: R149, 07_tables.md. -/
def Reg.SG_ADMIN_BASE : Fld :=
  { cls := 7, attr := 34, lo := 0, width := 96, acc := .tx, rst := 0, chk := .time }

/-- R149, 07_tables.md. -/
def Attr.SG_ADMIN_BASE : AttrDef :=
  { cls := 7, attr := 34, instLo := 3, instHi := 3, instStep := 1, elems := 512, width := 96,
    flds := [Reg.SG_ADMIN_BASE] }

/-! SG_ADMIN_CYCLE: class 7 (TBL), attribute 0x23, objects 3 to 3, 512 element(s), 32 bits: R149, 07_tables.md. -/
def Reg.SG_ADMIN_CYCLE : Fld :=
  { cls := 7, attr := 35, lo := 0, width := 32, acc := .tx, rst := 1000000, chk := .range 1000 1000000000 }

/-- R149, 07_tables.md. -/
def Attr.SG_ADMIN_CYCLE : AttrDef :=
  { cls := 7, attr := 35, instLo := 3, instHi := 3, instStep := 1, elems := 512, width := 32,
    flds := [Reg.SG_ADMIN_CYCLE] }

/-! SG_CTRL: class 7 (TBL), attribute 0x24, objects 3 to 3, 512 element(s), 32 bits: R149, 07_tables.md. -/
def Reg.SG_CTRL_SG_EN : Fld :=
  { cls := 7, attr := 36, lo := 31, width := 1, acc := .tx, rst := 0 }
def Reg.SG_CTRL_IPV_EN : Fld :=
  { cls := 7, attr := 36, lo := 26, width := 1, acc := .tx, rst := 0 }
def Reg.SG_CTRL_IPV : Fld :=
  { cls := 7, attr := 36, lo := 23, width := 3, acc := .tx, rst := 0 }
def Reg.SG_CTRL_SETUP_MARGIN : Fld :=
  { cls := 7, attr := 36, lo := 0, width := 8, acc := .tx, rst := 10, chk := .range 1 255 }

/-- R149, 07_tables.md. -/
def Attr.SG_CTRL : AttrDef :=
  { cls := 7, attr := 36, instLo := 3, instHi := 3, instStep := 1, elems := 512, width := 32,
    flds := [Reg.SG_CTRL_SG_EN, Reg.SG_CTRL_IPV_EN, Reg.SG_CTRL_IPV, Reg.SG_CTRL_SETUP_MARGIN] }

/-! SG_OPER_LIST: class 7 (TBL), attribute 0x30, objects 3 to 3, 32768 element(s), 64 bits: R149, 07_tables.md. -/
def Reg.SG_OPER_LIST_OP : Fld :=
  { cls := 7, attr := 48, lo := 61, width := 3, acc := .ro, rst := 0 }
def Reg.SG_OPER_LIST_GATES : Fld :=
  { cls := 7, attr := 48, lo := 32, width := 8, acc := .ro, rst := 0 }
def Reg.SG_OPER_LIST_INTERVAL : Fld :=
  { cls := 7, attr := 48, lo := 0, width := 32, acc := .ro, rst := 0 }

/-- R149, 07_tables.md. -/
def Attr.SG_OPER_LIST : AttrDef :=
  { cls := 7, attr := 48, instLo := 3, instHi := 3, instStep := 1, elems := 32768, width := 64,
    flds := [Reg.SG_OPER_LIST_OP, Reg.SG_OPER_LIST_GATES, Reg.SG_OPER_LIST_INTERVAL] }

/-! SG_OPER_LEN: class 7 (TBL), attribute 0x31, objects 3 to 3, 512 element(s), 32 bits: R149, 07_tables.md. -/
def Reg.SG_OPER_LEN : Fld :=
  { cls := 7, attr := 49, lo := 0, width := 32, acc := .ro, rst := 1 }

/-- R149, 07_tables.md. -/
def Attr.SG_OPER_LEN : AttrDef :=
  { cls := 7, attr := 49, instLo := 3, instHi := 3, instStep := 1, elems := 512, width := 32,
    flds := [Reg.SG_OPER_LEN] }

/-! SG_OPER_BASE: class 7 (TBL), attribute 0x32, objects 3 to 3, 512 element(s), 96 bits: R149, 07_tables.md. -/
def Reg.SG_OPER_BASE : Fld :=
  { cls := 7, attr := 50, lo := 0, width := 96, acc := .ro, rst := 0 }

/-- R149, 07_tables.md. -/
def Attr.SG_OPER_BASE : AttrDef :=
  { cls := 7, attr := 50, instLo := 3, instHi := 3, instStep := 1, elems := 512, width := 96,
    flds := [Reg.SG_OPER_BASE] }

/-! SG_OPER_CYCLE: class 7 (TBL), attribute 0x33, objects 3 to 3, 512 element(s), 32 bits: R149, 07_tables.md. -/
def Reg.SG_OPER_CYCLE : Fld :=
  { cls := 7, attr := 51, lo := 0, width := 32, acc := .ro, rst := 1000000 }

/-- R149, 07_tables.md. -/
def Attr.SG_OPER_CYCLE : AttrDef :=
  { cls := 7, attr := 51, instLo := 3, instHi := 3, instStep := 1, elems := 512, width := 32,
    flds := [Reg.SG_OPER_CYCLE] }

/-! SG_STATUS: class 7 (TBL), attribute 0x34, objects 3 to 3, 512 element(s), 32 bits: R149, 07_tables.md. -/
def Reg.SG_STATUS_LATE_START : Fld :=
  { cls := 7, attr := 52, lo := 31, width := 1, acc := .w1c, rst := 0 }
def Reg.SG_STATUS_PENDING : Fld :=
  { cls := 7, attr := 52, lo := 30, width := 1, acc := .ro, rst := 0 }
def Reg.SG_STATUS_RUNNING : Fld :=
  { cls := 7, attr := 52, lo := 29, width := 1, acc := .ro, rst := 0 }
def Reg.SG_STATUS_OPEN : Fld :=
  { cls := 7, attr := 52, lo := 7, width := 1, acc := .ro, rst := 1 }
def Reg.SG_STATUS_ENTRY : Fld :=
  { cls := 7, attr := 52, lo := 0, width := 6, acc := .ro, rst := 0 }

/-- R149, 07_tables.md. -/
def Attr.SG_STATUS : AttrDef :=
  { cls := 7, attr := 52, instLo := 3, instHi := 3, instStep := 1, elems := 512, width := 32,
    flds := [Reg.SG_STATUS_LATE_START, Reg.SG_STATUS_PENDING, Reg.SG_STATUS_RUNNING, Reg.SG_STATUS_OPEN, Reg.SG_STATUS_ENTRY] }

/-! L2_CFG: class 2 (PORT), attribute 0x40, objects 0 to 511, 1 element(s), 32 bits: R160, 07_tables.md. -/
def Reg.L2_CFG_LEARN_EN : Fld :=
  { cls := 2, attr := 64, lo := 31, width := 1, acc := .tx, rst := 1 }

/-- R160, 07_tables.md. -/
def Attr.L2_CFG : AttrDef :=
  { cls := 2, attr := 64, instLo := 0, instHi := 511, instStep := 1, elems := 1, width := 32,
    flds := [Reg.L2_CFG_LEARN_EN] }

/-! TB_INCR: class 8 (TIME), attribute 0x1, objects 0 to 0, 1 element(s), 48 bits: R183, 08_timebase.md. -/
def Reg.TB_INCR : Fld :=
  { cls := 8, attr := 1, lo := 0, width := 48, acc := .ro, rst := 2814749767107 }

/-- R183, 08_timebase.md. -/
def Attr.TB_INCR : AttrDef :=
  { cls := 8, attr := 1, instLo := 0, instHi := 0, instStep := 1, elems := 1, width := 48,
    flds := [Reg.TB_INCR] }

/-! BASE_INCR: class 8 (TIME), attribute 0x2, objects 0 to 0, 1 element(s), 48 bits: R162, 08_timebase.md. -/
def Reg.BASE_INCR : Fld :=
  { cls := 8, attr := 2, lo := 0, width := 48, acc := .tx, rst := 2814749767107, chk := .range 2813342392224 2816157141990 }

/-- R162, 08_timebase.md. -/
def Attr.BASE_INCR : AttrDef :=
  { cls := 8, attr := 2, instLo := 0, instHi := 0, instStep := 1, elems := 1, width := 48,
    flds := [Reg.BASE_INCR] }

/-! ADJ: class 8 (TIME), attribute 0x3, objects 0 to 0, 1 element(s), 32 bits: R162, 08_timebase.md. -/
def Reg.ADJ : Fld :=
  { cls := 8, attr := 3, lo := 0, width := 32, acc := .ro, rst := 0 }

/-- R162, 08_timebase.md. -/
def Attr.ADJ : AttrDef :=
  { cls := 8, attr := 3, instLo := 0, instHi := 0, instStep := 1, elems := 1, width := 32,
    flds := [Reg.ADJ] }

/-! SERVO_CTRL: class 8 (TIME), attribute 0x4, objects 0 to 0, 1 element(s), 32 bits: R183, 08_timebase.md. -/
def Reg.SERVO_CTRL_SERVO_MODE : Fld :=
  { cls := 8, attr := 4, lo := 30, width := 2, acc := .tx, rst := 0, chk := .range 0 2 }
def Reg.SERVO_CTRL_MAX_ADJ : Fld :=
  { cls := 8, attr := 4, lo := 0, width := 19, acc := .tx, rst := 200000, chk := .range 1 500000 }

/-- R183, 08_timebase.md. -/
def Attr.SERVO_CTRL : AttrDef :=
  { cls := 8, attr := 4, instLo := 0, instHi := 0, instStep := 1, elems := 1, width := 32,
    flds := [Reg.SERVO_CTRL_SERVO_MODE, Reg.SERVO_CTRL_MAX_ADJ] }

/-! JUMP_TH: class 8 (TIME), attribute 0x5, objects 0 to 0, 1 element(s), 32 bits: R183, 08_timebase.md. -/
def Reg.JUMP_TH : Fld :=
  { cls := 8, attr := 5, lo := 0, width := 20, acc := .tx, rst := 100, chk := .range 1 1000000 }

/-- R183, 08_timebase.md. -/
def Attr.JUMP_TH : AttrDef :=
  { cls := 8, attr := 5, instLo := 0, instHi := 0, instStep := 1, elems := 1, width := 32,
    flds := [Reg.JUMP_TH] }

/-! TIME_STATUS: class 8 (TIME), attribute 0x6, objects 0 to 0, 1 element(s), 32 bits: R183, 08_timebase.md. -/
def Reg.TIME_STATUS_TIME_JUMP_REFUSED : Fld :=
  { cls := 8, attr := 6, lo := 31, width := 1, acc := .ro, rst := 0 }
def Reg.TIME_STATUS_TB_VALID : Fld :=
  { cls := 8, attr := 6, lo := 30, width := 1, acc := .ro, rst := 0 }
def Reg.TIME_STATUS_ADJ_CLIP : Fld :=
  { cls := 8, attr := 6, lo := 29, width := 1, acc := .w1c, rst := 0 }
def Reg.TIME_STATUS_STEPPED : Fld :=
  { cls := 8, attr := 6, lo := 28, width := 1, acc := .w1c, rst := 0 }
def Reg.TIME_STATUS_STEP_COUNT : Fld :=
  { cls := 8, attr := 6, lo := 0, width := 16, acc := .ro, rst := 0 }

/-- R183, 08_timebase.md. -/
def Attr.TIME_STATUS : AttrDef :=
  { cls := 8, attr := 6, instLo := 0, instHi := 0, instStep := 1, elems := 1, width := 32,
    flds := [Reg.TIME_STATUS_TIME_JUMP_REFUSED, Reg.TIME_STATUS_TB_VALID, Reg.TIME_STATUS_ADJ_CLIP, Reg.TIME_STATUS_STEPPED, Reg.TIME_STATUS_STEP_COUNT] }

/-! PENDING_JUMP: class 8 (TIME), attribute 0x7, objects 0 to 0, 1 element(s), 128 bits: R183, 08_timebase.md. -/
def Reg.PENDING_JUMP_JUMP_ID : Fld :=
  { cls := 8, attr := 7, lo := 112, width := 16, acc := .ro, rst := 0 }
def Reg.PENDING_JUMP_SOURCE : Fld :=
  { cls := 8, attr := 7, lo := 108, width := 4, acc := .ro, rst := 0 }
def Reg.PENDING_JUMP_REF : Fld :=
  { cls := 8, attr := 7, lo := 103, width := 5, acc := .ro, rst := 0 }
def Reg.PENDING_JUMP_OFFSET : Fld :=
  { cls := 8, attr := 7, lo := 32, width := 64, acc := .ro, rst := 0 }
def Reg.PENDING_JUMP_REFUSED_NS : Fld :=
  { cls := 8, attr := 7, lo := 0, width := 32, acc := .ro, rst := 0 }

/-- R183, 08_timebase.md. -/
def Attr.PENDING_JUMP : AttrDef :=
  { cls := 8, attr := 7, instLo := 0, instHi := 0, instStep := 1, elems := 1, width := 128,
    flds := [Reg.PENDING_JUMP_JUMP_ID, Reg.PENDING_JUMP_SOURCE, Reg.PENDING_JUMP_REF, Reg.PENDING_JUMP_OFFSET, Reg.PENDING_JUMP_REFUSED_NS] }

/-! STEP_SUM: class 8 (TIME), attribute 0x8, objects 0 to 0, 1 element(s), 64 bits: R163, 08_timebase.md. -/
def Reg.STEP_SUM : Fld :=
  { cls := 8, attr := 8, lo := 0, width := 64, acc := .ro, rst := 0 }

/-- R163, 08_timebase.md. -/
def Attr.STEP_SUM : AttrDef :=
  { cls := 8, attr := 8, instLo := 0, instHi := 0, instStep := 1, elems := 1, width := 64,
    flds := [Reg.STEP_SUM] }

/-! TICKS: class 8 (TIME), attribute 0x9, objects 0 to 0, 1 element(s), 64 bits: R163, 08_timebase.md. -/
def Reg.TICKS : Fld :=
  { cls := 8, attr := 9, lo := 0, width := 64, acc := .ro, rst := 0 }

/-- R163, 08_timebase.md. -/
def Attr.TICKS : AttrDef :=
  { cls := 8, attr := 9, instLo := 0, instHi := 0, instStep := 1, elems := 1, width := 64,
    flds := [Reg.TICKS] }

/-! HPI_GAIN: class 8 (TIME), attribute 0xa, objects 0 to 0, 1 element(s), 64 bits: R168, 08_timebase.md. -/
def Reg.HPI_GAIN_KP : Fld :=
  { cls := 8, attr := 10, lo := 32, width := 32, acc := .tx, rst := 0 }
def Reg.HPI_GAIN_KI : Fld :=
  { cls := 8, attr := 10, lo := 0, width := 32, acc := .tx, rst := 0 }

/-- R168, 08_timebase.md. -/
def Attr.HPI_GAIN : AttrDef :=
  { cls := 8, attr := 10, instLo := 0, instHi := 0, instStep := 1, elems := 1, width := 64,
    flds := [Reg.HPI_GAIN_KP, Reg.HPI_GAIN_KI] }

/-! HPI_OFFSET: class 8 (TIME), attribute 0xb, objects 0 to 0, 1 element(s), 64 bits: R168, 08_timebase.md. -/
def Reg.HPI_OFFSET : Fld :=
  { cls := 8, attr := 11, lo := 0, width := 64, acc := .wo, rst := 0 }

/-- R168, 08_timebase.md. -/
def Attr.HPI_OFFSET : AttrDef :=
  { cls := 8, attr := 11, instLo := 0, instHi := 0, instStep := 1, elems := 1, width := 64,
    flds := [Reg.HPI_OFFSET] }

/-! HPI_INTEG: class 8 (TIME), attribute 0xc, objects 0 to 0, 1 element(s), 32 bits: R168, 08_timebase.md. -/
def Reg.HPI_INTEG : Fld :=
  { cls := 8, attr := 12, lo := 0, width := 32, acc := .ro, rst := 0 }

/-- R168, 08_timebase.md. -/
def Attr.HPI_INTEG : AttrDef :=
  { cls := 8, attr := 12, instLo := 0, instHi := 0, instStep := 1, elems := 1, width := 32,
    flds := [Reg.HPI_INTEG] }

/-! STAMP_OVF: class 8 (TIME), attribute 0xd, objects 0 to 0, 1 element(s), 32 bits: R182, 08_timebase.md. -/
def Reg.STAMP_OVF : Fld :=
  { cls := 8, attr := 13, lo := 0, width := 32, acc := .rc, rst := 0 }

/-- R182, 08_timebase.md. -/
def Attr.STAMP_OVF : AttrDef :=
  { cls := 8, attr := 13, instLo := 0, instHi := 0, instStep := 1, elems := 1, width := 32,
    flds := [Reg.STAMP_OVF] }

/-! TS_DELAY: class 2 (PORT), attribute 0x50, objects 0 to 512, 1 element(s), 64 bits: R183, 08_timebase.md. -/
def Reg.TS_DELAY_TX_DELAY : Fld :=
  { cls := 2, attr := 80, lo := 32, width := 32, acc := .tx, rst := 0 }
def Reg.TS_DELAY_RX_DELAY : Fld :=
  { cls := 2, attr := 80, lo := 0, width := 32, acc := .tx, rst := 0 }

/-- R183, 08_timebase.md. -/
def Attr.TS_DELAY : AttrDef :=
  { cls := 2, attr := 80, instLo := 0, instHi := 512, instStep := 1, elems := 1, width := 64,
    flds := [Reg.TS_DELAY_TX_DELAY, Reg.TS_DELAY_RX_DELAY] }

/-! ASYM_CFG: class 2 (PORT), attribute 0x51, objects 0 to 511, 1 element(s), 64 bits: R183, 08_timebase.md. -/
def Reg.ASYM_CFG_ASYM_COEF : Fld :=
  { cls := 2, attr := 81, lo := 32, width := 32, acc := .tx, rst := 0 }
def Reg.ASYM_CFG_ASYM_FIXED : Fld :=
  { cls := 2, attr := 81, lo := 0, width := 32, acc := .tx, rst := 0 }

/-- R183, 08_timebase.md. -/
def Attr.ASYM_CFG : AttrDef :=
  { cls := 2, attr := 81, instLo := 0, instHi := 511, instStep := 1, elems := 1, width := 64,
    flds := [Reg.ASYM_CFG_ASYM_COEF, Reg.ASYM_CFG_ASYM_FIXED] }

/-! LINK_DELAY: class 2 (PORT), attribute 0x52, objects 0 to 511, 1 element(s), 64 bits: R183, 08_timebase.md. -/
def Reg.LINK_DELAY_MPD : Fld :=
  { cls := 2, attr := 82, lo := 32, width := 32, acc := .rw, rst := 0, chk := .range 0 4294966272 }
def Reg.LINK_DELAY_ASYM_A : Fld :=
  { cls := 2, attr := 82, lo := 0, width := 32, acc := .ro, rst := 0 }

/-- R183, 08_timebase.md. -/
def Attr.LINK_DELAY : AttrDef :=
  { cls := 2, attr := 82, instLo := 0, instHi := 511, instStep := 1, elems := 1, width := 64,
    flds := [Reg.LINK_DELAY_MPD, Reg.LINK_DELAY_ASYM_A] }

/-! TS_CFG: class 2 (PORT), attribute 0x53, objects 0 to 511, 1 element(s), 32 bits: R183, 08_timebase.md. -/
def Reg.TS_CFG_TC_MODE : Fld :=
  { cls := 2, attr := 83, lo := 30, width := 2, acc := .tx, rst := 0 }

/-- R183, 08_timebase.md. -/
def Attr.TS_CFG : AttrDef :=
  { cls := 2, attr := 83, instLo := 0, instHi := 511, instStep := 1, elems := 1, width := 32,
    flds := [Reg.TS_CFG_TC_MODE] }

/-! TDC_STATUS: class 1 (DEV), attribute 0x40, objects 0 to 0, 1 element(s), 32 bits: R187, 09_phase_and_events.md. -/
def Reg.TDC_STATUS_ANY_UNLOCKED : Fld :=
  { cls := 1, attr := 64, lo := 31, width := 1, acc := .ro, rst := 1 }
def Reg.TDC_STATUS_UNLOCK_SEEN : Fld :=
  { cls := 1, attr := 64, lo := 30, width := 1, acc := .w1c, rst := 0 }
def Reg.TDC_STATUS_UNLOCKED_COUNT : Fld :=
  { cls := 1, attr := 64, lo := 16, width := 11, acc := .ro, rst := 1104 }
def Reg.TDC_STATUS_FIRST_UNLOCKED : Fld :=
  { cls := 1, attr := 64, lo := 0, width := 11, acc := .ro, rst := 0 }

/-- R187, 09_phase_and_events.md. -/
def Attr.TDC_STATUS : AttrDef :=
  { cls := 1, attr := 64, instLo := 0, instHi := 0, instStep := 1, elems := 1, width := 32,
    flds := [Reg.TDC_STATUS_ANY_UNLOCKED, Reg.TDC_STATUS_UNLOCK_SEEN, Reg.TDC_STATUS_UNLOCKED_COUNT, Reg.TDC_STATUS_FIRST_UNLOCKED] }

/-! REF_IN_CFG: class 10 (REF), attribute 0x14, objects 0 to 7, 1 element(s), 64 bits: R189, 09_phase_and_events.md. -/
def Reg.REF_IN_CFG_NOM_HZ : Fld :=
  { cls := 10, attr := 20, lo := 32, width := 32, acc := .tx, rst := 10000000, byElem := false, exc := [(4, 1), (5, 1), (6, 1), (7, 1)], chk := .range 1 800000000 }
def Reg.REF_IN_CFG_DIV : Fld :=
  { cls := 10, attr := 20, lo := 8, width := 24, acc := .tx, rst := 1, chk := .range 1 16777215 }
def Reg.REF_IN_CFG_EDGE : Fld :=
  { cls := 10, attr := 20, lo := 0, width := 2, acc := .tx, rst := 0, chk := .range 0 1 }

/-- R189, 09_phase_and_events.md. -/
def Attr.REF_IN_CFG : AttrDef :=
  { cls := 10, attr := 20, instLo := 0, instHi := 7, instStep := 1, elems := 1, width := 64,
    flds := [Reg.REF_IN_CFG_NOM_HZ, Reg.REF_IN_CFG_DIV, Reg.REF_IN_CFG_EDGE] }

/-! PHM_CFG: class 3 (LANE), attribute 0x10, objects 0 to 511, 1 element(s), 32 bits: R191, 09_phase_and_events.md. -/
def Reg.PHM_CFG_EN : Fld :=
  { cls := 3, attr := 16, lo := 31, width := 1, acc := .tx, rst := 1 }
def Reg.PHM_CFG_DECIM_LOG2 : Fld :=
  { cls := 3, attr := 16, lo := 26, width := 5, acc := .tx, rst := 10, chk := .range 4 20 }
def Reg.PHM_CFG_WIN_LOG2 : Fld :=
  { cls := 3, attr := 16, lo := 22, width := 4, acc := .tx, rst := 8 }

/-- R191, 09_phase_and_events.md. -/
def Attr.PHM_CFG : AttrDef :=
  { cls := 3, attr := 16, instLo := 0, instHi := 511, instStep := 1, elems := 1, width := 32,
    flds := [Reg.PHM_CFG_EN, Reg.PHM_CFG_DECIM_LOG2, Reg.PHM_CFG_WIN_LOG2] }

/-! PHM_PHASE: class 3 (LANE), attribute 0x11, objects 0 to 511, 1 element(s), 64 bits: R191, 09_phase_and_events.md. -/
def Reg.PHM_PHASE : Fld :=
  { cls := 3, attr := 17, lo := 0, width := 64, acc := .ro, rst := 0 }

/-- R191, 09_phase_and_events.md. -/
def Attr.PHM_PHASE : AttrDef :=
  { cls := 3, attr := 17, instLo := 0, instHi := 511, instStep := 1, elems := 1, width := 64,
    flds := [Reg.PHM_PHASE] }

/-! PHM_FREQ: class 3 (LANE), attribute 0x12, objects 0 to 511, 1 element(s), 32 bits: R191, 09_phase_and_events.md. -/
def Reg.PHM_FREQ : Fld :=
  { cls := 3, attr := 18, lo := 0, width := 32, acc := .ro, rst := 0 }

/-- R191, 09_phase_and_events.md. -/
def Attr.PHM_FREQ : AttrDef :=
  { cls := 3, attr := 18, instLo := 0, instHi := 511, instStep := 1, elems := 1, width := 32,
    flds := [Reg.PHM_FREQ] }

/-! PHM_STATUS: class 3 (LANE), attribute 0x13, objects 0 to 511, 1 element(s), 32 bits: R191, 09_phase_and_events.md. -/
def Reg.PHM_STATUS_LOS : Fld :=
  { cls := 3, attr := 19, lo := 31, width := 1, acc := .ro, rst := 1 }
def Reg.PHM_STATUS_LOS_SEEN : Fld :=
  { cls := 3, attr := 19, lo := 30, width := 1, acc := .w1c, rst := 0 }
def Reg.PHM_STATUS_TDC_LOCK : Fld :=
  { cls := 3, attr := 19, lo := 29, width := 1, acc := .ro, rst := 0 }
def Reg.PHM_STATUS_GRID_VALID : Fld :=
  { cls := 3, attr := 19, lo := 28, width := 1, acc := .ro, rst := 0 }
def Reg.PHM_STATUS_FREQ_VALID : Fld :=
  { cls := 3, attr := 19, lo := 27, width := 1, acc := .ro, rst := 0 }
def Reg.PHM_STATUS_RESTARTS : Fld :=
  { cls := 3, attr := 19, lo := 0, width := 16, acc := .rc, rst := 0 }

/-- R191, 09_phase_and_events.md. -/
def Attr.PHM_STATUS : AttrDef :=
  { cls := 3, attr := 19, instLo := 0, instHi := 511, instStep := 1, elems := 1, width := 32,
    flds := [Reg.PHM_STATUS_LOS, Reg.PHM_STATUS_LOS_SEEN, Reg.PHM_STATUS_TDC_LOCK, Reg.PHM_STATUS_GRID_VALID, Reg.PHM_STATUS_FREQ_VALID, Reg.PHM_STATUS_RESTARTS] }

/-! PHM_GRID: class 3 (LANE), attribute 0x15, objects 0 to 511, 1 element(s), 64 bits: R191, 09_phase_and_events.md. -/
def Reg.PHM_GRID : Fld :=
  { cls := 3, attr := 21, lo := 0, width := 64, acc := .ro, rst := 0 }

/-- R191, 09_phase_and_events.md. -/
def Attr.PHM_GRID : AttrDef :=
  { cls := 3, attr := 21, instLo := 0, instHi := 511, instStep := 1, elems := 1, width := 64,
    flds := [Reg.PHM_GRID] }

/-! RPHM_CFG: class 10 (REF), attribute 0x10, objects 0 to 7, 1 element(s), 32 bits: R191, 09_phase_and_events.md. -/
def Reg.RPHM_CFG_EN : Fld :=
  { cls := 10, attr := 16, lo := 31, width := 1, acc := .tx, rst := 1 }
def Reg.RPHM_CFG_DECIM_LOG2 : Fld :=
  { cls := 10, attr := 16, lo := 26, width := 5, acc := .tx, rst := 0, chk := .range 0 20 }
def Reg.RPHM_CFG_WIN_LOG2 : Fld :=
  { cls := 10, attr := 16, lo := 22, width := 4, acc := .tx, rst := 8 }

/-- R191, 09_phase_and_events.md. -/
def Attr.RPHM_CFG : AttrDef :=
  { cls := 10, attr := 16, instLo := 0, instHi := 7, instStep := 1, elems := 1, width := 32,
    flds := [Reg.RPHM_CFG_EN, Reg.RPHM_CFG_DECIM_LOG2, Reg.RPHM_CFG_WIN_LOG2] }

/-! RPHM_PHASE: class 10 (REF), attribute 0x11, objects 0 to 7, 1 element(s), 64 bits: R191, 09_phase_and_events.md. -/
def Reg.RPHM_PHASE_PHM_PHASE : Fld :=
  { cls := 10, attr := 17, lo := 0, width := 64, acc := .ro, rst := 0 }

/-- R191, 09_phase_and_events.md. -/
def Attr.RPHM_PHASE : AttrDef :=
  { cls := 10, attr := 17, instLo := 0, instHi := 7, instStep := 1, elems := 1, width := 64,
    flds := [Reg.RPHM_PHASE_PHM_PHASE] }

/-! RPHM_FREQ: class 10 (REF), attribute 0x12, objects 0 to 7, 1 element(s), 32 bits: R191, 09_phase_and_events.md. -/
def Reg.RPHM_FREQ_PHM_FREQ : Fld :=
  { cls := 10, attr := 18, lo := 0, width := 32, acc := .ro, rst := 0 }

/-- R191, 09_phase_and_events.md. -/
def Attr.RPHM_FREQ : AttrDef :=
  { cls := 10, attr := 18, instLo := 0, instHi := 7, instStep := 1, elems := 1, width := 32,
    flds := [Reg.RPHM_FREQ_PHM_FREQ] }

/-! RPHM_STATUS: class 10 (REF), attribute 0x13, objects 0 to 7, 1 element(s), 32 bits: R191, 09_phase_and_events.md. -/
def Reg.RPHM_STATUS_LOS : Fld :=
  { cls := 10, attr := 19, lo := 31, width := 1, acc := .ro, rst := 1 }
def Reg.RPHM_STATUS_LOS_SEEN : Fld :=
  { cls := 10, attr := 19, lo := 30, width := 1, acc := .w1c, rst := 0 }
def Reg.RPHM_STATUS_TDC_LOCK : Fld :=
  { cls := 10, attr := 19, lo := 29, width := 1, acc := .ro, rst := 0 }
def Reg.RPHM_STATUS_GRID_VALID : Fld :=
  { cls := 10, attr := 19, lo := 28, width := 1, acc := .ro, rst := 0 }
def Reg.RPHM_STATUS_FREQ_VALID : Fld :=
  { cls := 10, attr := 19, lo := 27, width := 1, acc := .ro, rst := 0 }
def Reg.RPHM_STATUS_RESTARTS : Fld :=
  { cls := 10, attr := 19, lo := 0, width := 16, acc := .rc, rst := 0 }

/-- R191, 09_phase_and_events.md. -/
def Attr.RPHM_STATUS : AttrDef :=
  { cls := 10, attr := 19, instLo := 0, instHi := 7, instStep := 1, elems := 1, width := 32,
    flds := [Reg.RPHM_STATUS_LOS, Reg.RPHM_STATUS_LOS_SEEN, Reg.RPHM_STATUS_TDC_LOCK, Reg.RPHM_STATUS_GRID_VALID, Reg.RPHM_STATUS_FREQ_VALID, Reg.RPHM_STATUS_RESTARTS] }

/-! RPHM_GRID: class 10 (REF), attribute 0x15, objects 0 to 7, 1 element(s), 64 bits: R191, 09_phase_and_events.md. -/
def Reg.RPHM_GRID_PHM_GRID : Fld :=
  { cls := 10, attr := 21, lo := 0, width := 64, acc := .ro, rst := 0 }

/-- R191, 09_phase_and_events.md. -/
def Attr.RPHM_GRID : AttrDef :=
  { cls := 10, attr := 21, instLo := 0, instHi := 7, instStep := 1, elems := 1, width := 64,
    flds := [Reg.RPHM_GRID_PHM_GRID] }

/-! EVI_CFG: class 11 (EVT), attribute 0x1, objects 0 to 31, 1 element(s), 32 bits: R195, 09_phase_and_events.md. -/
def Reg.EVI_CFG_EDGE : Fld :=
  { cls := 11, attr := 1, lo := 30, width := 2, acc := .tx, rst := 0 }
def Reg.EVI_CFG_OWNER : Fld :=
  { cls := 11, attr := 1, lo := 28, width := 2, acc := .tx, rst := 0, chk := .range 0 2 }
def Reg.EVI_CFG_OWNER_ID : Fld :=
  { cls := 11, attr := 1, lo := 22, width := 6, acc := .tx, rst := 0 }
def Reg.EVI_CFG_NOTIFY : Fld :=
  { cls := 11, attr := 1, lo := 16, width := 1, acc := .tx, rst := 0 }
def Reg.EVI_CFG_MIN_PULSE : Fld :=
  { cls := 11, attr := 1, lo := 8, width := 8, acc := .tx, rst := 0 }
def Reg.EVI_CFG_DEADTIME : Fld :=
  { cls := 11, attr := 1, lo := 0, width := 8, acc := .tx, rst := 0 }

/-- R195, 09_phase_and_events.md. -/
def Attr.EVI_CFG : AttrDef :=
  { cls := 11, attr := 1, instLo := 0, instHi := 31, instStep := 1, elems := 1, width := 32,
    flds := [Reg.EVI_CFG_EDGE, Reg.EVI_CFG_OWNER, Reg.EVI_CFG_OWNER_ID, Reg.EVI_CFG_NOTIFY, Reg.EVI_CFG_MIN_PULSE, Reg.EVI_CFG_DEADTIME] }

/-! EVI_DELAY: class 11 (EVT), attribute 0x2, objects 0 to 31, 1 element(s), 32 bits: R195, 09_phase_and_events.md. -/
def Reg.EVI_DELAY : Fld :=
  { cls := 11, attr := 2, lo := 0, width := 32, acc := .tx, rst := 0 }

/-- R195, 09_phase_and_events.md. -/
def Attr.EVI_DELAY : AttrDef :=
  { cls := 11, attr := 2, instLo := 0, instHi := 31, instStep := 1, elems := 1, width := 32,
    flds := [Reg.EVI_DELAY] }

/-! EVI_FIFO: class 11 (EVT), attribute 0x3, objects 0 to 31, 1 element(s), 128 bits: R195, 09_phase_and_events.md. -/
def Reg.EVI_FIFO : Fld :=
  { cls := 11, attr := 3, lo := 0, width := 128, acc := .rc, rst := 0 }

/-- R195, 09_phase_and_events.md. -/
def Attr.EVI_FIFO : AttrDef :=
  { cls := 11, attr := 3, instLo := 0, instHi := 31, instStep := 1, elems := 1, width := 128,
    flds := [Reg.EVI_FIFO] }

/-! EVI_STATUS: class 11 (EVT), attribute 0x4, objects 0 to 31, 1 element(s), 32 bits: R195, 09_phase_and_events.md. -/
def Reg.EVI_STATUS_TDC_LOCK : Fld :=
  { cls := 11, attr := 4, lo := 31, width := 1, acc := .ro, rst := 0 }
def Reg.EVI_STATUS_LEVEL : Fld :=
  { cls := 11, attr := 4, lo := 30, width := 1, acc := .ro, rst := 0 }
def Reg.EVI_STATUS_FILL : Fld :=
  { cls := 11, attr := 4, lo := 0, width := 9, acc := .ro, rst := 0 }

/-- R195, 09_phase_and_events.md. -/
def Attr.EVI_STATUS : AttrDef :=
  { cls := 11, attr := 4, instLo := 0, instHi := 31, instStep := 1, elems := 1, width := 32,
    flds := [Reg.EVI_STATUS_TDC_LOCK, Reg.EVI_STATUS_LEVEL, Reg.EVI_STATUS_FILL] }

/-! IVL_CFG: class 11 (EVT), attribute 0x10, objects 0 to 31, 1 element(s), 32 bits: R198, 09_phase_and_events.md. -/
def Reg.IVL_CFG_EN : Fld :=
  { cls := 11, attr := 16, lo := 31, width := 1, acc := .tx, rst := 0 }
def Reg.IVL_CFG_MODE : Fld :=
  { cls := 11, attr := 16, lo := 30, width := 1, acc := .tx, rst := 0 }
def Reg.IVL_CFG_STOP : Fld :=
  { cls := 11, attr := 16, lo := 25, width := 5, acc := .tx, rst := 0 }
def Reg.IVL_CFG_START_EDGE : Fld :=
  { cls := 11, attr := 16, lo := 24, width := 1, acc := .tx, rst := 0 }
def Reg.IVL_CFG_STOP_EDGE : Fld :=
  { cls := 11, attr := 16, lo := 23, width := 1, acc := .tx, rst := 0 }
def Reg.IVL_CFG_N : Fld :=
  { cls := 11, attr := 16, lo := 0, width := 16, acc := .tx, rst := 1024, chk := .range 1 65535 }

/-- R198, 09_phase_and_events.md. -/
def Attr.IVL_CFG : AttrDef :=
  { cls := 11, attr := 16, instLo := 0, instHi := 31, instStep := 1, elems := 1, width := 32,
    flds := [Reg.IVL_CFG_EN, Reg.IVL_CFG_MODE, Reg.IVL_CFG_STOP, Reg.IVL_CFG_START_EDGE, Reg.IVL_CFG_STOP_EDGE, Reg.IVL_CFG_N] }

/-! IVL_WIN: class 11 (EVT), attribute 0x11, objects 0 to 31, 1 element(s), 32 bits: R198, 09_phase_and_events.md. -/
def Reg.IVL_WIN : Fld :=
  { cls := 11, attr := 17, lo := 0, width := 32, acc := .tx, rst := 1000, chk := .range 1 1000000000 }

/-- R198, 09_phase_and_events.md. -/
def Attr.IVL_WIN : AttrDef :=
  { cls := 11, attr := 17, instLo := 0, instHi := 31, instStep := 1, elems := 1, width := 32,
    flds := [Reg.IVL_WIN] }

/-! IVL_SAMPLES: class 11 (EVT), attribute 0x12, objects 0 to 31, 1 element(s), 128 bits: R197, 09_phase_and_events.md. -/
def Reg.IVL_SAMPLES : Fld :=
  { cls := 11, attr := 18, lo := 0, width := 128, acc := .rc, rst := 0 }

/-- R197, 09_phase_and_events.md. -/
def Attr.IVL_SAMPLES : AttrDef :=
  { cls := 11, attr := 18, instLo := 0, instHi := 31, instStep := 1, elems := 1, width := 128,
    flds := [Reg.IVL_SAMPLES] }

/-! IVL_STATS: class 11 (EVT), attribute 0x13, objects 0 to 31, 1 element(s), 384 bits: R198, 09_phase_and_events.md. -/
def Reg.IVL_STATS_N : Fld :=
  { cls := 11, attr := 19, lo := 368, width := 16, acc := .ro, rst := 0 }
def Reg.IVL_STATS_COINCIDENT_CNT : Fld :=
  { cls := 11, attr := 19, lo := 352, width := 16, acc := .ro, rst := 0 }
def Reg.IVL_STATS_ORDER_CNT : Fld :=
  { cls := 11, attr := 19, lo := 336, width := 16, acc := .ro, rst := 0 }
def Reg.IVL_STATS_MISSING_CNT : Fld :=
  { cls := 11, attr := 19, lo := 320, width := 16, acc := .ro, rst := 0 }
def Reg.IVL_STATS_MEAN : Fld :=
  { cls := 11, attr := 19, lo := 256, width := 64, acc := .ro, rst := 0 }
def Reg.IVL_STATS_SD : Fld :=
  { cls := 11, attr := 19, lo := 192, width := 64, acc := .ro, rst := 0 }
def Reg.IVL_STATS_MIN : Fld :=
  { cls := 11, attr := 19, lo := 128, width := 64, acc := .ro, rst := 0 }
def Reg.IVL_STATS_MAX : Fld :=
  { cls := 11, attr := 19, lo := 64, width := 64, acc := .ro, rst := 0 }
def Reg.IVL_STATS_END_SEC : Fld :=
  { cls := 11, attr := 19, lo := 32, width := 32, acc := .ro, rst := 0 }
def Reg.IVL_STATS_END_NS : Fld :=
  { cls := 11, attr := 19, lo := 0, width := 32, acc := .ro, rst := 0 }

/-- R198, 09_phase_and_events.md. -/
def Attr.IVL_STATS : AttrDef :=
  { cls := 11, attr := 19, instLo := 0, instHi := 31, instStep := 1, elems := 1, width := 384,
    flds := [Reg.IVL_STATS_N, Reg.IVL_STATS_COINCIDENT_CNT, Reg.IVL_STATS_ORDER_CNT, Reg.IVL_STATS_MISSING_CNT, Reg.IVL_STATS_MEAN, Reg.IVL_STATS_SD, Reg.IVL_STATS_MIN, Reg.IVL_STATS_MAX, Reg.IVL_STATS_END_SEC, Reg.IVL_STATS_END_NS] }

/-! EVO_CFG: class 11 (EVT), attribute 0x31, objects 32 to 63, 1 element(s), 32 bits: R204, 09_phase_and_events.md. -/
def Reg.EVO_CFG_OWNER : Fld :=
  { cls := 11, attr := 49, lo := 30, width := 2, acc := .tx, rst := 0 }
def Reg.EVO_CFG_OWNER_ID : Fld :=
  { cls := 11, attr := 49, lo := 24, width := 6, acc := .tx, rst := 0 }
def Reg.EVO_CFG_IDLE_LEVEL : Fld :=
  { cls := 11, attr := 49, lo := 23, width := 1, acc := .tx, rst := 0 }
def Reg.EVO_CFG_READBACK_EN : Fld :=
  { cls := 11, attr := 49, lo := 22, width := 1, acc := .tx, rst := 1 }

/-- R204, 09_phase_and_events.md. -/
def Attr.EVO_CFG : AttrDef :=
  { cls := 11, attr := 49, instLo := 32, instHi := 63, instStep := 1, elems := 1, width := 32,
    flds := [Reg.EVO_CFG_OWNER, Reg.EVO_CFG_OWNER_ID, Reg.EVO_CFG_IDLE_LEVEL, Reg.EVO_CFG_READBACK_EN] }

/-! EVO_DELAY: class 11 (EVT), attribute 0x32, objects 32 to 63, 1 element(s), 32 bits: R204, 09_phase_and_events.md. -/
def Reg.EVO_DELAY : Fld :=
  { cls := 11, attr := 50, lo := 0, width := 32, acc := .tx, rst := 0 }

/-- R204, 09_phase_and_events.md. -/
def Attr.EVO_DELAY : AttrDef :=
  { cls := 11, attr := 50, instLo := 32, instHi := 63, instStep := 1, elems := 1, width := 32,
    flds := [Reg.EVO_DELAY] }

/-! EVO_REQ: class 11 (EVT), attribute 0x33, objects 32 to 63, 1 element(s), 128 bits: R204, 09_phase_and_events.md. -/
def Reg.EVO_REQ_TIME : Fld :=
  { cls := 11, attr := 51, lo := 32, width := 96, acc := .wo, rst := 0 }
def Reg.EVO_REQ_ACTION : Fld :=
  { cls := 11, attr := 51, lo := 30, width := 2, acc := .wo, rst := 0 }
def Reg.EVO_REQ_WIDTH : Fld :=
  { cls := 11, attr := 51, lo := 0, width := 30, acc := .wo, rst := 0 }

/-- R204, 09_phase_and_events.md. -/
def Attr.EVO_REQ : AttrDef :=
  { cls := 11, attr := 51, instLo := 32, instHi := 63, instStep := 1, elems := 1, width := 128,
    flds := [Reg.EVO_REQ_TIME, Reg.EVO_REQ_ACTION, Reg.EVO_REQ_WIDTH] }

/-! EVO_PER_START: class 11 (EVT), attribute 0x34, objects 32 to 63, 1 element(s), 96 bits: R204, 09_phase_and_events.md. -/
def Reg.EVO_PER_START : Fld :=
  { cls := 11, attr := 52, lo := 0, width := 96, acc := .tx, rst := 0, chk := .time }

/-- R204, 09_phase_and_events.md. -/
def Attr.EVO_PER_START : AttrDef :=
  { cls := 11, attr := 52, instLo := 32, instHi := 63, instStep := 1, elems := 1, width := 96,
    flds := [Reg.EVO_PER_START] }

/-! EVO_PER_CFG: class 11 (EVT), attribute 0x35, objects 32 to 63, 1 element(s), 64 bits: R204, 09_phase_and_events.md. -/
def Reg.EVO_PER_CFG_PERIOD_NS : Fld :=
  { cls := 11, attr := 53, lo := 32, width := 32, acc := .tx, rst := 0 }
def Reg.EVO_PER_CFG_WIDTH_NS : Fld :=
  { cls := 11, attr := 53, lo := 0, width := 32, acc := .tx, rst := 0 }

/-- R204, 09_phase_and_events.md. -/
def Attr.EVO_PER_CFG : AttrDef :=
  { cls := 11, attr := 53, instLo := 32, instHi := 63, instStep := 1, elems := 1, width := 64,
    flds := [Reg.EVO_PER_CFG_PERIOD_NS, Reg.EVO_PER_CFG_WIDTH_NS] }

/-! EVO_STATUS: class 11 (EVT), attribute 0x36, objects 32 to 63, 1 element(s), 32 bits: R204, 09_phase_and_events.md. -/
def Reg.EVO_STATUS_LEVEL : Fld :=
  { cls := 11, attr := 54, lo := 31, width := 1, acc := .ro, rst := 0 }
def Reg.EVO_STATUS_TDC_LOCK : Fld :=
  { cls := 11, attr := 54, lo := 30, width := 1, acc := .ro, rst := 0 }
def Reg.EVO_STATUS_PLACE_ERR : Fld :=
  { cls := 11, attr := 54, lo := 29, width := 1, acc := .w1c, rst := 0 }
def Reg.EVO_STATUS_QUEUED : Fld :=
  { cls := 11, attr := 54, lo := 16, width := 5, acc := .ro, rst := 0 }

/-- R204, 09_phase_and_events.md. -/
def Attr.EVO_STATUS : AttrDef :=
  { cls := 11, attr := 54, instLo := 32, instHi := 63, instStep := 1, elems := 1, width := 32,
    flds := [Reg.EVO_STATUS_LEVEL, Reg.EVO_STATUS_TDC_LOCK, Reg.EVO_STATUS_PLACE_ERR, Reg.EVO_STATUS_QUEUED] }

/-! EVO_READBACK: class 11 (EVT), attribute 0x37, objects 32 to 71, 1 element(s), 64 bits: R204, 09_phase_and_events.md. -/
def Reg.EVO_READBACK_ERROR : Fld :=
  { cls := 11, attr := 55, lo := 32, width := 32, acc := .ro, rst := 0 }
def Reg.EVO_READBACK_REQ_NS : Fld :=
  { cls := 11, attr := 55, lo := 0, width := 32, acc := .ro, rst := 0 }

/-- R204, 09_phase_and_events.md. -/
def Attr.EVO_READBACK : AttrDef :=
  { cls := 11, attr := 55, instLo := 32, instHi := 71, instStep := 1, elems := 1, width := 64,
    flds := [Reg.EVO_READBACK_ERROR, Reg.EVO_READBACK_REQ_NS] }

/-! SYN_CFG: class 9 (SYN), attribute 0x1, objects 0 to 4, 1 element(s), 32 bits: R213, 10_synthesizers.md. -/
def Reg.SYN_CFG_MODE : Fld :=
  { cls := 9, attr := 1, lo := 30, width := 2, acc := .tx, rst := 0, byElem := false, exc := [(0, 1)], chk := .range 0 2 }
def Reg.SYN_CFG_FOLLOW_ADJ : Fld :=
  { cls := 9, attr := 1, lo := 29, width := 1, acc := .tx, rst := 1 }
def Reg.SYN_CFG_FREQ_FIRST : Fld :=
  { cls := 9, attr := 1, lo := 28, width := 1, acc := .tx, rst := 1 }
def Reg.SYN_CFG_REF_MULT : Fld :=
  { cls := 9, attr := 1, lo := 26, width := 2, acc := .tx, rst := 0, chk := .range 0 2 }
def Reg.SYN_CFG_DAMP : Fld :=
  { cls := 9, attr := 1, lo := 22, width := 4, acc := .tx, rst := 1, byElem := false, exc := [(0, 3)], chk := .range 0 4 }
def Reg.SYN_CFG_BW : Fld :=
  { cls := 9, attr := 1, lo := 0, width := 22, acc := .tx, rst := 100000, byElem := false, exc := [(0, 3000)], chk := .range 1 4000000 }

/-- R213, 10_synthesizers.md. -/
def Attr.SYN_CFG : AttrDef :=
  { cls := 9, attr := 1, instLo := 1, instHi := 4, instStep := 1, elems := 1, width := 32,
    flds := [Reg.SYN_CFG_MODE, Reg.SYN_CFG_FOLLOW_ADJ, Reg.SYN_CFG_FREQ_FIRST, Reg.SYN_CFG_REF_MULT, Reg.SYN_CFG_DAMP, Reg.SYN_CFG_BW] }

/-! SYN_CFG of DPLL0, whose MODE is RO and FOLLOW_ADJ reserved: R213, 10_synthesizers.md. -/
def Reg.SYN_CFG0_MODE : Fld := { Reg.SYN_CFG_MODE with acc := .ro }

def Attr.SYN_CFG0 : AttrDef :=
  { Attr.SYN_CFG with
    instLo := 0, instHi := 0
    flds := [Reg.SYN_CFG0_MODE, Reg.SYN_CFG_FREQ_FIRST, Reg.SYN_CFG_REF_MULT, Reg.SYN_CFG_DAMP, Reg.SYN_CFG_BW] }

/-! SYN_NOM: class 9 (SYN), attribute 0x2, objects 1 to 4, 1 element(s), 64 bits: R213, 10_synthesizers.md. -/
def Reg.SYN_NOM : Fld :=
  { cls := 9, attr := 2, lo := 0, width := 64, acc := .tx, rst := 10737418240000000000, chk := .range 10307921510400000000 13743895347200000000 }

/-- R213, 10_synthesizers.md. -/
def Attr.SYN_NOM : AttrDef :=
  { cls := 9, attr := 2, instLo := 1, instHi := 4, instStep := 1, elems := 1, width := 64,
    flds := [Reg.SYN_NOM] }

/-! SYN_NOM0: class 9 (SYN), attribute 0x2, objects 0 to 0, 1 element(s), 64 bits: R213, 10_synthesizers.md. -/
def Reg.SYN_NOM0_SYN_NOM : Fld :=
  { cls := 9, attr := 2, lo := 0, width := 64, acc := .ro, rst := 13421772800000000000 }

/-- R213, 10_synthesizers.md. -/
def Attr.SYN_NOM0 : AttrDef :=
  { cls := 9, attr := 2, instLo := 0, instHi := 0, instStep := 1, elems := 1, width := 64,
    flds := [Reg.SYN_NOM0_SYN_NOM] }

/-! SYN_LIMITS: class 9 (SYN), attribute 0x3, objects 0 to 4, 1 element(s), 128 bits: R211, 10_synthesizers.md. -/
def Reg.SYN_LIMITS_CEIL : Fld :=
  { cls := 9, attr := 3, lo := 96, width := 32, acc := .tx, rst := 100000, byElem := false, exc := [(0, 50000)] }
def Reg.SYN_LIMITS_FLOOR : Fld :=
  { cls := 9, attr := 3, lo := 64, width := 32, acc := .tx, rst := 4294867296, byElem := false, exc := [(0, 4294917296)] }
def Reg.SYN_LIMITS_SLEW : Fld :=
  { cls := 9, attr := 3, lo := 32, width := 32, acc := .tx, rst := 1000000, byElem := false, exc := [(0, 100000)], chk := .range 1 4294967295 }

/-- R211, 10_synthesizers.md. -/
def Attr.SYN_LIMITS : AttrDef :=
  { cls := 9, attr := 3, instLo := 0, instHi := 4, instStep := 1, elems := 1, width := 128,
    flds := [Reg.SYN_LIMITS_CEIL, Reg.SYN_LIMITS_FLOOR, Reg.SYN_LIMITS_SLEW] }

/-! SYN_LOCK: class 9 (SYN), attribute 0x4, objects 0 to 4, 1 element(s), 64 bits: R213, 10_synthesizers.md. -/
def Reg.SYN_LOCK_LOCK_WIN : Fld :=
  { cls := 9, attr := 4, lo := 48, width := 16, acc := .tx, rst := 100, chk := .range 1 65535 }
def Reg.SYN_LOCK_LOCK_N : Fld :=
  { cls := 9, attr := 4, lo := 32, width := 16, acc := .tx, rst := 256, chk := .range 1 65535 }
def Reg.SYN_LOCK_FCHK_TOL : Fld :=
  { cls := 9, attr := 4, lo := 16, width := 16, acc := .tx, rst := 1000, chk := .range 1 65535 }
def Reg.SYN_LOCK_FCHK_MS : Fld :=
  { cls := 9, attr := 4, lo := 0, width := 16, acc := .tx, rst := 10, chk := .range 1 65535 }

/-- R213, 10_synthesizers.md. -/
def Attr.SYN_LOCK : AttrDef :=
  { cls := 9, attr := 4, instLo := 0, instHi := 4, instStep := 1, elems := 1, width := 64,
    flds := [Reg.SYN_LOCK_LOCK_WIN, Reg.SYN_LOCK_LOCK_N, Reg.SYN_LOCK_FCHK_TOL, Reg.SYN_LOCK_FCHK_MS] }

/-! SYN_STATUS: class 9 (SYN), attribute 0x6, objects 0 to 4, 1 element(s), 32 bits: R213, 10_synthesizers.md. -/
def Reg.SYN_STATUS_STATE : Fld :=
  { cls := 9, attr := 6, lo := 29, width := 3, acc := .ro, rst := 1 }
def Reg.SYN_STATUS_LOCK_LOST : Fld :=
  { cls := 9, attr := 6, lo := 28, width := 1, acc := .w1c, rst := 0 }
def Reg.SYN_STATUS_CEIL_HIT : Fld :=
  { cls := 9, attr := 6, lo := 27, width := 1, acc := .w1c, rst := 0 }
def Reg.SYN_STATUS_BAND_ENTRY : Fld :=
  { cls := 9, attr := 6, lo := 26, width := 1, acc := .ro, rst := 0 }
def Reg.SYN_STATUS_CACHE_MISS : Fld :=
  { cls := 9, attr := 6, lo := 25, width := 1, acc := .w1c, rst := 0 }
def Reg.SYN_STATUS_LOSS_COUNT : Fld :=
  { cls := 9, attr := 6, lo := 0, width := 16, acc := .rc, rst := 0 }

/-- R213, 10_synthesizers.md. -/
def Attr.SYN_STATUS : AttrDef :=
  { cls := 9, attr := 6, instLo := 0, instHi := 4, instStep := 1, elems := 1, width := 32,
    flds := [Reg.SYN_STATUS_STATE, Reg.SYN_STATUS_LOCK_LOST, Reg.SYN_STATUS_CEIL_HIT, Reg.SYN_STATUS_BAND_ENTRY, Reg.SYN_STATUS_CACHE_MISS, Reg.SYN_STATUS_LOSS_COUNT] }

/-! SYN_FREQ: class 9 (SYN), attribute 0x7, objects 0 to 4, 1 element(s), 64 bits: R213, 10_synthesizers.md. -/
def Reg.SYN_FREQ : Fld :=
  { cls := 9, attr := 7, lo := 0, width := 64, acc := .ro, rst := 0 }

/-- R213, 10_synthesizers.md. -/
def Attr.SYN_FREQ : AttrDef :=
  { cls := 9, attr := 7, instLo := 0, instHi := 4, instStep := 1, elems := 1, width := 64,
    flds := [Reg.SYN_FREQ] }

/-! SYN_PHERR: class 9 (SYN), attribute 0x8, objects 0 to 4, 1 element(s), 64 bits: R213, 10_synthesizers.md. -/
def Reg.SYN_PHERR : Fld :=
  { cls := 9, attr := 8, lo := 0, width := 64, acc := .ro, rst := 0 }

/-- R213, 10_synthesizers.md. -/
def Attr.SYN_PHERR : AttrDef :=
  { cls := 9, attr := 8, instLo := 0, instHi := 4, instStep := 1, elems := 1, width := 64,
    flds := [Reg.SYN_PHERR] }

/-! SYN_BUILDOUT: class 9 (SYN), attribute 0x9, objects 0 to 4, 1 element(s), 64 bits: R213, 10_synthesizers.md. -/
def Reg.SYN_BUILDOUT : Fld :=
  { cls := 9, attr := 9, lo := 0, width := 64, acc := .ro, rst := 0 }

/-- R213, 10_synthesizers.md. -/
def Attr.SYN_BUILDOUT : AttrDef :=
  { cls := 9, attr := 9, instLo := 0, instHi := 4, instStep := 1, elems := 1, width := 64,
    flds := [Reg.SYN_BUILDOUT] }

/-! SYN_SPUR: class 9 (SYN), attribute 0xa, objects 0 to 4, 1 element(s), 64 bits: R213, 10_synthesizers.md. -/
def Reg.SYN_SPUR : Fld :=
  { cls := 9, attr := 10, lo := 0, width := 64, acc := .ro, rst := 0 }

/-- R213, 10_synthesizers.md. -/
def Attr.SYN_SPUR : AttrDef :=
  { cls := 9, attr := 10, instLo := 0, instHi := 4, instStep := 1, elems := 1, width := 64,
    flds := [Reg.SYN_SPUR] }

/-! SYN_BW_EFF: class 9 (SYN), attribute 0xb, objects 0 to 4, 1 element(s), 32 bits: R213, 10_synthesizers.md. -/
def Reg.SYN_BW_EFF : Fld :=
  { cls := 9, attr := 11, lo := 0, width := 32, acc := .ro, rst := 100000, byElem := false, exc := [(0, 3000)] }

/-- R213, 10_synthesizers.md. -/
def Attr.SYN_BW_EFF : AttrDef :=
  { cls := 9, attr := 11, instLo := 0, instHi := 4, instStep := 1, elems := 1, width := 32,
    flds := [Reg.SYN_BW_EFF] }

/-! SYN_OWNER: class 9 (SYN), attribute 0xc, objects 1 to 4, 1 element(s), 32 bits: R217, 10_synthesizers.md. -/
def Reg.SYN_OWNER_OWNER : Fld :=
  { cls := 9, attr := 12, lo := 30, width := 2, acc := .tx, rst := 0, chk := .range 0 1 }
def Reg.SYN_OWNER_OWNER_ID : Fld :=
  { cls := 9, attr := 12, lo := 24, width := 6, acc := .tx, rst := 0 }

/-- R217, 10_synthesizers.md. -/
def Attr.SYN_OWNER : AttrDef :=
  { cls := 9, attr := 12, instLo := 1, instHi := 4, instStep := 1, elems := 1, width := 32,
    flds := [Reg.SYN_OWNER_OWNER, Reg.SYN_OWNER_OWNER_ID] }

/-! SYN_RAMP_CTRL: class 9 (SYN), attribute 0xd, objects 1 to 4, 1 element(s), 32 bits: R216, 10_synthesizers.md. -/
def Reg.SYN_RAMP_CTRL_RUN : Fld :=
  { cls := 9, attr := 13, lo := 31, width := 1, acc := .tx, rst := 0 }
def Reg.SYN_RAMP_CTRL_LOOP : Fld :=
  { cls := 9, attr := 13, lo := 30, width := 1, acc := .tx, rst := 0 }
def Reg.SYN_RAMP_CTRL_LEN : Fld :=
  { cls := 9, attr := 13, lo := 0, width := 6, acc := .tx, rst := 1, chk := .range 1 32 }

/-- R216, 10_synthesizers.md. -/
def Attr.SYN_RAMP_CTRL : AttrDef :=
  { cls := 9, attr := 13, instLo := 1, instHi := 4, instStep := 1, elems := 1, width := 32,
    flds := [Reg.SYN_RAMP_CTRL_RUN, Reg.SYN_RAMP_CTRL_LOOP, Reg.SYN_RAMP_CTRL_LEN] }

/-! RAMP_START: class 9 (SYN), attribute 0xe, objects 1 to 4, 1 element(s), 96 bits: R216, 10_synthesizers.md. -/
def Reg.RAMP_START : Fld :=
  { cls := 9, attr := 14, lo := 0, width := 96, acc := .tx, rst := 0, chk := .time }

/-- R216, 10_synthesizers.md. -/
def Attr.RAMP_START : AttrDef :=
  { cls := 9, attr := 14, instLo := 1, instHi := 4, instStep := 1, elems := 1, width := 96,
    flds := [Reg.RAMP_START] }

/-! SYN_RAMP_PROF: class 9 (SYN), attribute 0xf, objects 1 to 4, 32 element(s), 128 bits: R216, 10_synthesizers.md. -/
def Reg.SYN_RAMP_PROF_TARGET : Fld :=
  { cls := 9, attr := 15, lo := 64, width := 64, acc := .tx, rst := 0 }
def Reg.SYN_RAMP_PROF_SLEW : Fld :=
  { cls := 9, attr := 15, lo := 32, width := 32, acc := .tx, rst := 0 }
def Reg.SYN_RAMP_PROF_HOLD : Fld :=
  { cls := 9, attr := 15, lo := 0, width := 32, acc := .tx, rst := 0 }

/-- R216, 10_synthesizers.md. -/
def Attr.SYN_RAMP_PROF : AttrDef :=
  { cls := 9, attr := 15, instLo := 1, instHi := 4, instStep := 1, elems := 32, width := 128,
    flds := [Reg.SYN_RAMP_PROF_TARGET, Reg.SYN_RAMP_PROF_SLEW, Reg.SYN_RAMP_PROF_HOLD] }

/-! SYN_VREQ: class 9 (SYN), attribute 0x10, objects 1 to 4, 1 element(s), 128 bits: R217, 10_synthesizers.md. -/
def Reg.SYN_VREQ_TARGET : Fld :=
  { cls := 9, attr := 16, lo := 64, width := 64, acc := .wo, rst := 0 }
def Reg.SYN_VREQ_SLEW : Fld :=
  { cls := 9, attr := 16, lo := 32, width := 32, acc := .wo, rst := 0 }
def Reg.SYN_VREQ_START_NS : Fld :=
  { cls := 9, attr := 16, lo := 0, width := 32, acc := .wo, rst := 0 }

/-- R217, 10_synthesizers.md. -/
def Attr.SYN_VREQ : AttrDef :=
  { cls := 9, attr := 16, instLo := 1, instHi := 4, instStep := 1, elems := 1, width := 128,
    flds := [Reg.SYN_VREQ_TARGET, Reg.SYN_VREQ_SLEW, Reg.SYN_VREQ_START_NS] }

/-! ENC_POS: class 9 (SYN), attribute 0x11, objects 1 to 4, 1 element(s), 64 bits: R223, 10_synthesizers.md. -/
def Reg.ENC_POS : Fld :=
  { cls := 9, attr := 17, lo := 0, width := 64, acc := .ro, rst := 0 }

/-- R223, 10_synthesizers.md. -/
def Attr.ENC_POS : AttrDef :=
  { cls := 9, attr := 17, instLo := 1, instHi := 4, instStep := 1, elems := 1, width := 64,
    flds := [Reg.ENC_POS] }

/-! CKO_CFG: class 9 (SYN), attribute 0x1, objects 16 to 23, 1 element(s), 32 bits: R219, 10_synthesizers.md. -/
def Reg.CKO_CFG_EN : Fld :=
  { cls := 9, attr := 1, lo := 31, width := 1, acc := .tx, rst := 0 }
def Reg.CKO_CFG_SRC : Fld :=
  { cls := 9, attr := 1, lo := 28, width := 3, acc := .tx, rst := 1, chk := .range 1 4 }
def Reg.CKO_CFG_FORMAT : Fld :=
  { cls := 9, attr := 1, lo := 26, width := 2, acc := .tx, rst := 0 }
def Reg.CKO_CFG_DRIVE : Fld :=
  { cls := 9, attr := 1, lo := 24, width := 2, acc := .tx, rst := 0, chk := .range 0 2 }
def Reg.CKO_CFG_IDLE_LEVEL : Fld :=
  { cls := 9, attr := 1, lo := 23, width := 1, acc := .tx, rst := 0 }
def Reg.CKO_CFG_MUTE_UNTIL_LOCK : Fld :=
  { cls := 9, attr := 1, lo := 22, width := 1, acc := .tx, rst := 1 }

/-- R219, 10_synthesizers.md. -/
def Attr.CKO_CFG : AttrDef :=
  { cls := 9, attr := 1, instLo := 16, instHi := 23, instStep := 1, elems := 1, width := 32,
    flds := [Reg.CKO_CFG_EN, Reg.CKO_CFG_SRC, Reg.CKO_CFG_FORMAT, Reg.CKO_CFG_DRIVE, Reg.CKO_CFG_IDLE_LEVEL, Reg.CKO_CFG_MUTE_UNTIL_LOCK] }

/-! CKO_DIV: class 9 (SYN), attribute 0x2, objects 16 to 23, 1 element(s), 32 bits: R219, 10_synthesizers.md. -/
def Reg.CKO_DIV : Fld :=
  { cls := 9, attr := 2, lo := 0, width := 32, acc := .tx, rst := 250, chk := .range 4 4294967295 }

/-- R219, 10_synthesizers.md. -/
def Attr.CKO_DIV : AttrDef :=
  { cls := 9, attr := 2, instLo := 16, instHi := 23, instStep := 1, elems := 1, width := 32,
    flds := [Reg.CKO_DIV] }

/-! CKO_ALIGN: class 9 (SYN), attribute 0x3, objects 16 to 23, 1 element(s), 96 bits: R221, 10_synthesizers.md. -/
def Reg.CKO_ALIGN_ALIGN : Fld :=
  { cls := 9, attr := 3, lo := 94, width := 2, acc := .tx, rst := 0, chk := .range 0 2 }
def Reg.CKO_ALIGN_OFFSET : Fld :=
  { cls := 9, attr := 3, lo := 0, width := 64, acc := .tx, rst := 0 }

/-- R221, 10_synthesizers.md. -/
def Attr.CKO_ALIGN : AttrDef :=
  { cls := 9, attr := 3, instLo := 16, instHi := 23, instStep := 1, elems := 1, width := 96,
    flds := [Reg.CKO_ALIGN_ALIGN, Reg.CKO_ALIGN_OFFSET] }

/-! CKO_DELAY: class 9 (SYN), attribute 0x4, objects 16 to 23, 1 element(s), 32 bits: R219, 10_synthesizers.md. -/
def Reg.CKO_DELAY : Fld :=
  { cls := 9, attr := 4, lo := 0, width := 32, acc := .tx, rst := 0 }

/-- R219, 10_synthesizers.md. -/
def Attr.CKO_DELAY : AttrDef :=
  { cls := 9, attr := 4, instLo := 16, instHi := 23, instStep := 1, elems := 1, width := 32,
    flds := [Reg.CKO_DELAY] }

/-! CKO_STATUS: class 9 (SYN), attribute 0x5, objects 16 to 23, 1 element(s), 32 bits: R221, 10_synthesizers.md. -/
def Reg.CKO_STATUS_RUNNING : Fld :=
  { cls := 9, attr := 5, lo := 31, width := 1, acc := .ro, rst := 0 }
def Reg.CKO_STATUS_MUTED : Fld :=
  { cls := 9, attr := 5, lo := 30, width := 1, acc := .ro, rst := 0 }
def Reg.CKO_STATUS_ALIGNED : Fld :=
  { cls := 9, attr := 5, lo := 29, width := 1, acc := .ro, rst := 0 }
def Reg.CKO_STATUS_REALIGN : Fld :=
  { cls := 9, attr := 5, lo := 28, width := 1, acc := .w1c, rst := 0 }

/-- R221, 10_synthesizers.md. -/
def Attr.CKO_STATUS : AttrDef :=
  { cls := 9, attr := 5, instLo := 16, instHi := 23, instStep := 1, elems := 1, width := 32,
    flds := [Reg.CKO_STATUS_RUNNING, Reg.CKO_STATUS_MUTED, Reg.CKO_STATUS_ALIGNED, Reg.CKO_STATUS_REALIGN] }

/-! CKO_PHASE: class 9 (SYN), attribute 0x6, objects 16 to 23, 1 element(s), 64 bits: R219, 10_synthesizers.md. -/
def Reg.CKO_PHASE : Fld :=
  { cls := 9, attr := 6, lo := 0, width := 64, acc := .ro, rst := 0 }

/-- R219, 10_synthesizers.md. -/
def Attr.CKO_PHASE : AttrDef :=
  { cls := 9, attr := 6, instLo := 16, instHi := 23, instStep := 1, elems := 1, width := 64,
    flds := [Reg.CKO_PHASE] }

/-! PPO_CFG: class 11 (EVT), attribute 0x40, objects 64 to 71, 1 element(s), 32 bits: R225, 10_synthesizers.md. -/
def Reg.PPO_CFG_EN : Fld :=
  { cls := 11, attr := 64, lo := 31, width := 1, acc := .tx, rst := 0 }
def Reg.PPO_CFG_POLARITY : Fld :=
  { cls := 11, attr := 64, lo := 30, width := 1, acc := .tx, rst := 0 }
def Reg.PPO_CFG_VALID_ONLY : Fld :=
  { cls := 11, attr := 64, lo := 29, width := 1, acc := .tx, rst := 1 }

/-- R225, 10_synthesizers.md. -/
def Attr.PPO_CFG : AttrDef :=
  { cls := 11, attr := 64, instLo := 64, instHi := 71, instStep := 1, elems := 1, width := 32,
    flds := [Reg.PPO_CFG_EN, Reg.PPO_CFG_POLARITY, Reg.PPO_CFG_VALID_ONLY] }

/-! PPO_PULSE: class 11 (EVT), attribute 0x41, objects 64 to 71, 1 element(s), 64 bits: R225, 10_synthesizers.md. -/
def Reg.PPO_PULSE_PERIOD_NS : Fld :=
  { cls := 11, attr := 65, lo := 32, width := 32, acc := .tx, rst := 1000000000 }
def Reg.PPO_PULSE_WIDTH_NS : Fld :=
  { cls := 11, attr := 65, lo := 0, width := 32, acc := .tx, rst := 100000000 }

/-- R225, 10_synthesizers.md. -/
def Attr.PPO_PULSE : AttrDef :=
  { cls := 11, attr := 65, instLo := 64, instHi := 71, instStep := 1, elems := 1, width := 64,
    flds := [Reg.PPO_PULSE_PERIOD_NS, Reg.PPO_PULSE_WIDTH_NS] }

/-! PPO_OFFSET: class 11 (EVT), attribute 0x42, objects 64 to 71, 1 element(s), 64 bits: R225, 10_synthesizers.md. -/
def Reg.PPO_OFFSET : Fld :=
  { cls := 11, attr := 66, lo := 0, width := 64, acc := .tx, rst := 0 }

/-- R225, 10_synthesizers.md. -/
def Attr.PPO_OFFSET : AttrDef :=
  { cls := 11, attr := 66, instLo := 64, instHi := 71, instStep := 1, elems := 1, width := 64,
    flds := [Reg.PPO_OFFSET] }

/-! PPO_DELAY: class 11 (EVT), attribute 0x43, objects 64 to 71, 1 element(s), 32 bits: R225, 10_synthesizers.md. -/
def Reg.PPO_DELAY : Fld :=
  { cls := 11, attr := 67, lo := 0, width := 32, acc := .tx, rst := 0 }

/-- R225, 10_synthesizers.md. -/
def Attr.PPO_DELAY : AttrDef :=
  { cls := 11, attr := 67, instLo := 64, instHi := 71, instStep := 1, elems := 1, width := 32,
    flds := [Reg.PPO_DELAY] }

/-! PTP_PORT_CFG: class 2 (PORT), attribute 0x54, objects 0 to 511, 1 element(s), 32 bits: R232, 11_carillon.md. -/
def Reg.PTP_PORT_CFG_INST : Fld :=
  { cls := 2, attr := 84, lo := 30, width := 2, acc := .tx, rst := 0 }
def Reg.PTP_PORT_CFG_ROLE : Fld :=
  { cls := 2, attr := 84, lo := 27, width := 3, acc := .tx, rst := 0, chk := .range 0 4 }
def Reg.PTP_PORT_CFG_DELAY : Fld :=
  { cls := 2, attr := 84, lo := 25, width := 2, acc := .tx, rst := 0, chk := .range 0 2 }
def Reg.PTP_PORT_CFG_TRANSPORT : Fld :=
  { cls := 2, attr := 84, lo := 23, width := 2, acc := .tx, rst := 0, chk := .range 0 2 }
def Reg.PTP_PORT_CFG_TWO_STEP : Fld :=
  { cls := 2, attr := 84, lo := 22, width := 1, acc := .tx, rst := 0 }
def Reg.PTP_PORT_CFG_LOG_SYNC : Fld :=
  { cls := 2, attr := 84, lo := 18, width := 4, acc := .tx, rst := 12, chk := .srange (-7) 4 }
def Reg.PTP_PORT_CFG_LOG_ANNOUNCE : Fld :=
  { cls := 2, attr := 84, lo := 14, width := 4, acc := .tx, rst := 0, chk := .srange (-3) 4 }
def Reg.PTP_PORT_CFG_LOG_DELAY : Fld :=
  { cls := 2, attr := 84, lo := 10, width := 4, acc := .tx, rst := 12, chk := .srange (-7) 4 }
def Reg.PTP_PORT_CFG_ANN_TIMEOUT : Fld :=
  { cls := 2, attr := 84, lo := 6, width := 4, acc := .tx, rst := 3, chk := .range 2 15 }

/-- R232, 11_carillon.md. -/
def Attr.PTP_PORT_CFG : AttrDef :=
  { cls := 2, attr := 84, instLo := 0, instHi := 511, instStep := 1, elems := 1, width := 32,
    flds := [Reg.PTP_PORT_CFG_INST, Reg.PTP_PORT_CFG_ROLE, Reg.PTP_PORT_CFG_DELAY, Reg.PTP_PORT_CFG_TRANSPORT, Reg.PTP_PORT_CFG_TWO_STEP, Reg.PTP_PORT_CFG_LOG_SYNC, Reg.PTP_PORT_CFG_LOG_ANNOUNCE, Reg.PTP_PORT_CFG_LOG_DELAY, Reg.PTP_PORT_CFG_ANN_TIMEOUT] }

/-! PTP_PORT_STATUS: class 2 (PORT), attribute 0x55, objects 0 to 511, 1 element(s), 32 bits: R232, 11_carillon.md. -/
def Reg.PTP_PORT_STATUS_PORT_STATE : Fld :=
  { cls := 2, attr := 85, lo := 28, width := 4, acc := .ro, rst := 3 }
def Reg.PTP_PORT_STATUS_AS_CAPABLE : Fld :=
  { cls := 2, attr := 85, lo := 27, width := 1, acc := .ro, rst := 0 }
def Reg.PTP_PORT_STATUS_L1_SYNC : Fld :=
  { cls := 2, attr := 85, lo := 26, width := 1, acc := .ro, rst := 0 }
def Reg.PTP_PORT_STATUS_ANN_TIMEOUT : Fld :=
  { cls := 2, attr := 85, lo := 25, width := 1, acc := .w1c, rst := 0 }
def Reg.PTP_PORT_STATUS_FOREIGN : Fld :=
  { cls := 2, attr := 85, lo := 0, width := 16, acc := .rc, rst := 0 }

/-- R232, 11_carillon.md. -/
def Attr.PTP_PORT_STATUS : AttrDef :=
  { cls := 2, attr := 85, instLo := 0, instHi := 511, instStep := 1, elems := 1, width := 32,
    flds := [Reg.PTP_PORT_STATUS_PORT_STATE, Reg.PTP_PORT_STATUS_AS_CAPABLE, Reg.PTP_PORT_STATUS_L1_SYNC, Reg.PTP_PORT_STATUS_ANN_TIMEOUT, Reg.PTP_PORT_STATUS_FOREIGN] }

/-! PTP_INST: class 8 (TIME), attribute 0x25, objects 0 to 0, 4 element(s), 64 bits: R232, 11_carillon.md. -/
def Reg.PTP_INST_EN : Fld :=
  { cls := 8, attr := 37, lo := 63, width := 1, acc := .tx, rst := 0 }
def Reg.PTP_INST_PROFILE : Fld :=
  { cls := 8, attr := 37, lo := 60, width := 3, acc := .tx, rst := 0, chk := .range 0 3 }
def Reg.PTP_INST_DOMAIN : Fld :=
  { cls := 8, attr := 37, lo := 52, width := 8, acc := .tx, rst := 0 }
def Reg.PTP_INST_PRIORITY1 : Fld :=
  { cls := 8, attr := 37, lo := 44, width := 8, acc := .tx, rst := 128 }
def Reg.PTP_INST_PRIORITY2 : Fld :=
  { cls := 8, attr := 37, lo := 36, width := 8, acc := .tx, rst := 128 }
def Reg.PTP_INST_EXT_CFG : Fld :=
  { cls := 8, attr := 37, lo := 35, width := 1, acc := .tx, rst := 0 }
def Reg.PTP_INST_SLAVE_ONLY : Fld :=
  { cls := 8, attr := 37, lo := 34, width := 1, acc := .tx, rst := 0 }

/-- R232, 11_carillon.md. -/
def Attr.PTP_INST : AttrDef :=
  { cls := 8, attr := 37, instLo := 0, instHi := 0, instStep := 1, elems := 4, width := 64,
    flds := [Reg.PTP_INST_EN, Reg.PTP_INST_PROFILE, Reg.PTP_INST_DOMAIN, Reg.PTP_INST_PRIORITY1, Reg.PTP_INST_PRIORITY2, Reg.PTP_INST_EXT_CFG, Reg.PTP_INST_SLAVE_ONLY] }

/-! PTP_CLASS: class 8 (TIME), attribute 0x26, objects 0 to 0, 4 element(s), 32 bits: R232, 11_carillon.md. -/
def Reg.PTP_CLASS_CLASS_LOCKED : Fld :=
  { cls := 8, attr := 38, lo := 24, width := 8, acc := .tx, rst := 6 }
def Reg.PTP_CLASS_CLASS_HO : Fld :=
  { cls := 8, attr := 38, lo := 16, width := 8, acc := .tx, rst := 7 }
def Reg.PTP_CLASS_CLASS_LOST : Fld :=
  { cls := 8, attr := 38, lo := 8, width := 8, acc := .tx, rst := 52 }
def Reg.PTP_CLASS_CLASS_FREE : Fld :=
  { cls := 8, attr := 38, lo := 0, width := 8, acc := .tx, rst := 248 }

/-- R232, 11_carillon.md. -/
def Attr.PTP_CLASS : AttrDef :=
  { cls := 8, attr := 38, instLo := 0, instHi := 0, instStep := 1, elems := 4, width := 32,
    flds := [Reg.PTP_CLASS_CLASS_LOCKED, Reg.PTP_CLASS_CLASS_HO, Reg.PTP_CLASS_CLASS_LOST, Reg.PTP_CLASS_CLASS_FREE] }

/-! PTP_PARENT: class 8 (TIME), attribute 0x27, objects 0 to 0, 4 element(s), 128 bits: R232, 11_carillon.md. -/
def Reg.PTP_PARENT_PARENT_ID : Fld :=
  { cls := 8, attr := 39, lo := 48, width := 80, acc := .ro, rst := 0 }
def Reg.PTP_PARENT_GM_CLASS : Fld :=
  { cls := 8, attr := 39, lo := 40, width := 8, acc := .ro, rst := 248 }
def Reg.PTP_PARENT_STEPS_REMOVED : Fld :=
  { cls := 8, attr := 39, lo := 24, width := 16, acc := .ro, rst := 0 }
def Reg.PTP_PARENT_SLAVE_PORT : Fld :=
  { cls := 8, attr := 39, lo := 14, width := 10, acc := .ro, rst := 0 }

/-- R232, 11_carillon.md. -/
def Attr.PTP_PARENT : AttrDef :=
  { cls := 8, attr := 39, instLo := 0, instHi := 0, instStep := 1, elems := 4, width := 128,
    flds := [Reg.PTP_PARENT_PARENT_ID, Reg.PTP_PARENT_GM_CLASS, Reg.PTP_PARENT_STEPS_REMOVED, Reg.PTP_PARENT_SLAVE_PORT] }

/-! REF_CFG: class 10 (REF), attribute 0x1, objects 0 to 23, 1 element(s), 64 bits: R236, 11_carillon.md. -/
def Reg.REF_CFG_RANK : Fld :=
  { cls := 10, attr := 1, lo := 60, width := 4, acc := .tx, rst := 0 }
def Reg.REF_CFG_FREQ : Fld :=
  { cls := 10, attr := 1, lo := 59, width := 1, acc := .tx, rst := 1 }
def Reg.REF_CFG_TIME : Fld :=
  { cls := 10, attr := 1, lo := 58, width := 1, acc := .tx, rst := 0, byElem := false, exc := [(4, 1), (5, 1), (6, 1), (7, 1)] }
def Reg.REF_CFG_PH_POLICY : Fld :=
  { cls := 10, attr := 1, lo := 56, width := 2, acc := .tx, rst := 0, chk := .range 0 1 }
def Reg.REF_CFG_WTR_S : Fld :=
  { cls := 10, attr := 1, lo := 44, width := 12, acc := .tx, rst := 300, chk := .range 0 3600 }
def Reg.REF_CFG_QL_FIX : Fld :=
  { cls := 10, attr := 1, lo := 40, width := 4, acc := .tx, rst := 2 }
def Reg.REF_CFG_LANE : Fld :=
  { cls := 10, attr := 1, lo := 0, width := 9, acc := .tx, rst := 0 }

/-- R236, 11_carillon.md. -/
def Attr.REF_CFG : AttrDef :=
  { cls := 10, attr := 1, instLo := 8, instHi := 23, instStep := 1, elems := 1, width := 64,
    flds := [Reg.REF_CFG_RANK, Reg.REF_CFG_FREQ, Reg.REF_CFG_TIME, Reg.REF_CFG_PH_POLICY, Reg.REF_CFG_WTR_S, Reg.REF_CFG_QL_FIX, Reg.REF_CFG_LANE] }

/-! REF_CFG of the reference inputs, where LANE is reserved: R236, 11_carillon.md. -/
def Attr.REF_CFG_IN : AttrDef :=
  { Attr.REF_CFG with
    instLo := 0, instHi := 7
    flds := [Reg.REF_CFG_RANK, Reg.REF_CFG_FREQ, Reg.REF_CFG_TIME, Reg.REF_CFG_PH_POLICY, Reg.REF_CFG_WTR_S, Reg.REF_CFG_QL_FIX] }

/-! REF_LIMITS: class 10 (REF), attribute 0x2, objects 0 to 23, 1 element(s), 64 bits: R236, 11_carillon.md. -/
def Reg.REF_LIMITS_SOFT_OSC : Fld :=
  { cls := 10, attr := 2, lo := 48, width := 16, acc := .tx, rst := 4600 }
def Reg.REF_LIMITS_HARD_OSC : Fld :=
  { cls := 10, attr := 2, lo := 32, width := 16, acc := .tx, rst := 9200 }
def Reg.REF_LIMITS_SOFT_REL : Fld :=
  { cls := 10, attr := 2, lo := 16, width := 16, acc := .tx, rst := 1000 }
def Reg.REF_LIMITS_HARD_REL : Fld :=
  { cls := 10, attr := 2, lo := 0, width := 16, acc := .tx, rst := 5000 }

/-- R236, 11_carillon.md. -/
def Attr.REF_LIMITS : AttrDef :=
  { cls := 10, attr := 2, instLo := 0, instHi := 23, instStep := 1, elems := 1, width := 64,
    flds := [Reg.REF_LIMITS_SOFT_OSC, Reg.REF_LIMITS_HARD_OSC, Reg.REF_LIMITS_SOFT_REL, Reg.REF_LIMITS_HARD_REL] }

/-! REF_STATUS: class 10 (REF), attribute 0x3, objects 0 to 23, 1 element(s), 32 bits: R236, 11_carillon.md. -/
def Reg.REF_STATUS_QSTATE : Fld :=
  { cls := 10, attr := 3, lo := 29, width := 3, acc := .ro, rst := 0 }
def Reg.REF_STATUS_SEL_F : Fld :=
  { cls := 10, attr := 3, lo := 28, width := 1, acc := .ro, rst := 0 }
def Reg.REF_STATUS_SEL_T : Fld :=
  { cls := 10, attr := 3, lo := 27, width := 1, acc := .ro, rst := 0 }
def Reg.REF_STATUS_SOFT_ALARM : Fld :=
  { cls := 10, attr := 3, lo := 26, width := 1, acc := .w1c, rst := 0 }
def Reg.REF_STATUS_DISQ_SEEN : Fld :=
  { cls := 10, attr := 3, lo := 25, width := 1, acc := .w1c, rst := 0 }
def Reg.REF_STATUS_DISAGREE : Fld :=
  { cls := 10, attr := 3, lo := 24, width := 1, acc := .ro, rst := 0 }
def Reg.REF_STATUS_QL : Fld :=
  { cls := 10, attr := 3, lo := 20, width := 4, acc := .ro, rst := 0 }
def Reg.REF_STATUS_WTR_LEFT : Fld :=
  { cls := 10, attr := 3, lo := 0, width := 12, acc := .ro, rst := 0 }

/-- R236, 11_carillon.md. -/
def Attr.REF_STATUS : AttrDef :=
  { cls := 10, attr := 3, instLo := 0, instHi := 23, instStep := 1, elems := 1, width := 32,
    flds := [Reg.REF_STATUS_QSTATE, Reg.REF_STATUS_SEL_F, Reg.REF_STATUS_SEL_T, Reg.REF_STATUS_SOFT_ALARM, Reg.REF_STATUS_DISQ_SEEN, Reg.REF_STATUS_DISAGREE, Reg.REF_STATUS_QL, Reg.REF_STATUS_WTR_LEFT] }

/-! REF_MEAS: class 10 (REF), attribute 0x4, objects 0 to 23, 1 element(s), 64 bits: R236, 11_carillon.md. -/
def Reg.REF_MEAS_Y_OSC : Fld :=
  { cls := 10, attr := 4, lo := 32, width := 32, acc := .ro, rst := 0 }
def Reg.REF_MEAS_Y_REL : Fld :=
  { cls := 10, attr := 4, lo := 0, width := 32, acc := .ro, rst := 0 }

/-- R236, 11_carillon.md. -/
def Attr.REF_MEAS : AttrDef :=
  { cls := 10, attr := 4, instLo := 0, instHi := 23, instStep := 1, elems := 1, width := 64,
    flds := [Reg.REF_MEAS_Y_OSC, Reg.REF_MEAS_Y_REL] }

/-! REF_OFFSET: class 10 (REF), attribute 0x5, objects 0 to 23, 1 element(s), 64 bits: R236, 11_carillon.md. -/
def Reg.REF_OFFSET : Fld :=
  { cls := 10, attr := 5, lo := 0, width := 64, acc := .ro, rst := 0 }

/-- R236, 11_carillon.md. -/
def Attr.REF_OFFSET : AttrDef :=
  { cls := 10, attr := 5, instLo := 0, instHi := 23, instStep := 1, elems := 1, width := 64,
    flds := [Reg.REF_OFFSET] }

/-! REF_TOFF: class 10 (REF), attribute 0x6, objects 0 to 23, 1 element(s), 64 bits: R236, 11_carillon.md. -/
def Reg.REF_TOFF : Fld :=
  { cls := 10, attr := 6, lo := 0, width := 64, acc := .ro, rst := 0 }

/-- R236, 11_carillon.md. -/
def Attr.REF_TOFF : AttrDef :=
  { cls := 10, attr := 6, instLo := 0, instHi := 23, instStep := 1, elems := 1, width := 64,
    flds := [Reg.REF_TOFF] }

/-! HO_CFG: class 8 (TIME), attribute 0x21, objects 0 to 0, 1 element(s), 64 bits: R240, 11_carillon.md. -/
def Reg.HO_CFG_GUARD_S : Fld :=
  { cls := 8, attr := 33, lo := 48, width := 16, acc := .tx, rst := 60, chk := .range 0 3600 }
def Reg.HO_CFG_HO_AVG_S : Fld :=
  { cls := 8, attr := 33, lo := 32, width := 16, acc := .tx, rst := 600, chk := .range 10 4000 }
def Reg.HO_CFG_HO_MAX_S : Fld :=
  { cls := 8, attr := 33, lo := 0, width := 32, acc := .tx, rst := 86400 }

/-- R240, 11_carillon.md. -/
def Attr.HO_CFG : AttrDef :=
  { cls := 8, attr := 33, instLo := 0, instHi := 0, instStep := 1, elems := 1, width := 64,
    flds := [Reg.HO_CFG_GUARD_S, Reg.HO_CFG_HO_AVG_S, Reg.HO_CFG_HO_MAX_S] }

/-! SEL_CFG: class 8 (TIME), attribute 0x20, objects 0 to 0, 1 element(s), 64 bits: R244, 11_carillon.md. -/
def Reg.SEL_CFG_REVERTIVE : Fld :=
  { cls := 8, attr := 32, lo := 63, width := 1, acc := .tx, rst := 1 }
def Reg.SEL_CFG_QL_EN : Fld :=
  { cls := 8, attr := 32, lo := 62, width := 1, acc := .tx, rst := 0 }
def Reg.SEL_CFG_SSM_OPT : Fld :=
  { cls := 8, attr := 32, lo := 61, width := 1, acc := .tx, rst := 0 }
def Reg.SEL_CFG_QUAL_S : Fld :=
  { cls := 8, attr := 32, lo := 48, width := 8, acc := .tx, rst := 10, chk := .range 1 255 }
def Reg.SEL_CFG_DIS_PPB : Fld :=
  { cls := 8, attr := 32, lo := 32, width := 16, acc := .tx, rst := 2000, chk := .range 1 65535 }
def Reg.SEL_CFG_DIS_NS : Fld :=
  { cls := 8, attr := 32, lo := 16, width := 16, acc := .tx, rst := 50, chk := .range 1 65535 }
def Reg.SEL_CFG_PH_SLEW : Fld :=
  { cls := 8, attr := 32, lo := 0, width := 16, acc := .tx, rst := 1000, chk := .range 1 65535 }

/-- R244, 11_carillon.md. -/
def Attr.SEL_CFG : AttrDef :=
  { cls := 8, attr := 32, instLo := 0, instHi := 0, instStep := 1, elems := 1, width := 64,
    flds := [Reg.SEL_CFG_REVERTIVE, Reg.SEL_CFG_QL_EN, Reg.SEL_CFG_SSM_OPT, Reg.SEL_CFG_QUAL_S, Reg.SEL_CFG_DIS_PPB, Reg.SEL_CFG_DIS_NS, Reg.SEL_CFG_PH_SLEW] }

/-! SEL_STATUS: class 8 (TIME), attribute 0x22, objects 0 to 0, 1 element(s), 32 bits: R244, 11_carillon.md. -/
def Reg.SEL_STATUS_FSTATE : Fld :=
  { cls := 8, attr := 34, lo := 29, width := 3, acc := .ro, rst := 0 }
def Reg.SEL_STATUS_TSTATE : Fld :=
  { cls := 8, attr := 34, lo := 26, width := 3, acc := .ro, rst := 0 }
def Reg.SEL_STATUS_FREF : Fld :=
  { cls := 8, attr := 34, lo := 21, width := 5, acc := .ro, rst := 31 }
def Reg.SEL_STATUS_TREF : Fld :=
  { cls := 8, attr := 34, lo := 16, width := 5, acc := .ro, rst := 31 }
def Reg.SEL_STATUS_HO_READY_F : Fld :=
  { cls := 8, attr := 34, lo := 15, width := 1, acc := .ro, rst := 0 }
def Reg.SEL_STATUS_HO_READY_T : Fld :=
  { cls := 8, attr := 34, lo := 14, width := 1, acc := .ro, rst := 0 }
def Reg.SEL_STATUS_REF_DISAGREE : Fld :=
  { cls := 8, attr := 34, lo := 13, width := 1, acc := .w1c, rst := 0 }
def Reg.SEL_STATUS_UPSTREAM_LOST : Fld :=
  { cls := 8, attr := 34, lo := 12, width := 1, acc := .w1c, rst := 0 }
def Reg.SEL_STATUS_UPSTREAM_NOW : Fld :=
  { cls := 8, attr := 34, lo := 11, width := 1, acc := .ro, rst := 0 }
def Reg.SEL_STATUS_FORCED_F : Fld :=
  { cls := 8, attr := 34, lo := 10, width := 1, acc := .ro, rst := 0 }
def Reg.SEL_STATUS_FORCED_T : Fld :=
  { cls := 8, attr := 34, lo := 9, width := 1, acc := .ro, rst := 0 }

/-- R244, 11_carillon.md. -/
def Attr.SEL_STATUS : AttrDef :=
  { cls := 8, attr := 34, instLo := 0, instHi := 0, instStep := 1, elems := 1, width := 32,
    flds := [Reg.SEL_STATUS_FSTATE, Reg.SEL_STATUS_TSTATE, Reg.SEL_STATUS_FREF, Reg.SEL_STATUS_TREF, Reg.SEL_STATUS_HO_READY_F, Reg.SEL_STATUS_HO_READY_T, Reg.SEL_STATUS_REF_DISAGREE, Reg.SEL_STATUS_UPSTREAM_LOST, Reg.SEL_STATUS_UPSTREAM_NOW, Reg.SEL_STATUS_FORCED_F, Reg.SEL_STATUS_FORCED_T] }

/-! HO_STATUS: class 8 (TIME), attribute 0x23, objects 0 to 0, 1 element(s), 128 bits: R244, 11_carillon.md. -/
def Reg.HO_STATUS_HO_FREQ : Fld :=
  { cls := 8, attr := 35, lo := 96, width := 32, acc := .ro, rst := 0 }
def Reg.HO_STATUS_HO_ADJ : Fld :=
  { cls := 8, attr := 35, lo := 64, width := 32, acc := .ro, rst := 0 }
def Reg.HO_STATUS_HO_ELAPSED_F : Fld :=
  { cls := 8, attr := 35, lo := 32, width := 32, acc := .ro, rst := 0 }
def Reg.HO_STATUS_HO_ELAPSED_T : Fld :=
  { cls := 8, attr := 35, lo := 0, width := 32, acc := .ro, rst := 0 }

/-- R244, 11_carillon.md. -/
def Attr.HO_STATUS : AttrDef :=
  { cls := 8, attr := 35, instLo := 0, instHi := 0, instStep := 1, elems := 1, width := 128,
    flds := [Reg.HO_STATUS_HO_FREQ, Reg.HO_STATUS_HO_ADJ, Reg.HO_STATUS_HO_ELAPSED_F, Reg.HO_STATUS_HO_ELAPSED_T] }

/-! SERVO_PARAM: class 8 (TIME), attribute 0x24, objects 0 to 0, 1 element(s), 64 bits: R246, 11_carillon.md. -/
def Reg.SERVO_PARAM_TLOCK_N : Fld :=
  { cls := 8, attr := 36, lo := 48, width := 16, acc := .tx, rst := 64, chk := .range 1 65535 }
def Reg.SERVO_PARAM_TLOCK_WIN : Fld :=
  { cls := 8, attr := 36, lo := 32, width := 16, acc := .tx, rst := 1000, chk := .range 1 65535 }
def Reg.SERVO_PARAM_SERVO_BW : Fld :=
  { cls := 8, attr := 36, lo := 0, width := 32, acc := .tx, rst := 100, chk := .range 1 10000 }

/-- R246, 11_carillon.md. -/
def Attr.SERVO_PARAM : AttrDef :=
  { cls := 8, attr := 36, instLo := 0, instHi := 0, instStep := 1, elems := 1, width := 64,
    flds := [Reg.SERVO_PARAM_TLOCK_N, Reg.SERVO_PARAM_TLOCK_WIN, Reg.SERVO_PARAM_SERVO_BW] }

/-! ESMC_STATUS: class 2 (PORT), attribute 0x56, objects 0 to 511, 1 element(s), 32 bits: R247, 11_carillon.md. -/
def Reg.ESMC_STATUS_QL_RX : Fld :=
  { cls := 2, attr := 86, lo := 28, width := 4, acc := .ro, rst := 15 }
def Reg.ESMC_STATUS_QL_TX : Fld :=
  { cls := 2, attr := 86, lo := 24, width := 4, acc := .ro, rst := 15 }
def Reg.ESMC_STATUS_QL_TIMEOUT : Fld :=
  { cls := 2, attr := 86, lo := 23, width := 1, acc := .w1c, rst := 0 }
def Reg.ESMC_STATUS_ESMC_SEEN : Fld :=
  { cls := 2, attr := 86, lo := 22, width := 1, acc := .ro, rst := 0 }

/-- R247, 11_carillon.md. -/
def Attr.ESMC_STATUS : AttrDef :=
  { cls := 2, attr := 86, instLo := 0, instHi := 511, instStep := 1, elems := 1, width := 32,
    flds := [Reg.ESMC_STATUS_QL_RX, Reg.ESMC_STATUS_QL_TX, Reg.ESMC_STATUS_QL_TIMEOUT, Reg.ESMC_STATUS_ESMC_SEEN] }

/-! CD_CFG: class 12 (CYC), attribute 0x1, objects 0 to 3, 1 element(s), 64 bits: R274, 12_drumline.md. -/
def Reg.CD_CFG_PERIOD : Fld :=
  { cls := 12, attr := 1, lo := 32, width := 32, acc := .tx, rst := 1000000, chk := .range 4000 65535000 }
def Reg.CD_CFG_D_IN : Fld :=
  { cls := 12, attr := 1, lo := 0, width := 32, acc := .tx, rst := 500000 }

/-- R274, 12_drumline.md. -/
def Attr.CD_CFG : AttrDef :=
  { cls := 12, attr := 1, instLo := 0, instHi := 3, instStep := 1, elems := 1, width := 64,
    flds := [Reg.CD_CFG_PERIOD, Reg.CD_CFG_D_IN] }

/-! CD_START: class 12 (CYC), attribute 0x2, objects 0 to 3, 1 element(s), 96 bits: R274, 12_drumline.md. -/
def Reg.CD_START : Fld :=
  { cls := 12, attr := 2, lo := 0, width := 96, acc := .tx, rst := 0, chk := .time }

/-- R274, 12_drumline.md. -/
def Attr.CD_START : AttrDef :=
  { cls := 12, attr := 2, instLo := 0, instHi := 3, instStep := 1, elems := 1, width := 96,
    flds := [Reg.CD_START] }

/-! CD_STATUS: class 12 (CYC), attribute 0x3, objects 0 to 3, 1 element(s), 32 bits: R274, 12_drumline.md. -/
def Reg.CD_STATUS_STATE : Fld :=
  { cls := 12, attr := 3, lo := 29, width := 3, acc := .ro, rst := 0 }
def Reg.CD_STATUS_OVERRUN : Fld :=
  { cls := 12, attr := 3, lo := 28, width := 1, acc := .w1c, rst := 0 }
def Reg.CD_STATUS_STEP_SKIP : Fld :=
  { cls := 12, attr := 3, lo := 27, width := 1, acc := .w1c, rst := 0 }
def Reg.CD_STATUS_AXIS_FAULT_SEEN : Fld :=
  { cls := 12, attr := 3, lo := 26, width := 1, acc := .w1c, rst := 0 }
def Reg.CD_STATUS_LATE_START : Fld :=
  { cls := 12, attr := 3, lo := 25, width := 1, acc := .w1c, rst := 0 }
def Reg.CD_STATUS_SWAP_PENDING : Fld :=
  { cls := 12, attr := 3, lo := 24, width := 1, acc := .ro, rst := 0 }

/-- R274, 12_drumline.md. -/
def Attr.CD_STATUS : AttrDef :=
  { cls := 12, attr := 3, instLo := 0, instHi := 3, instStep := 1, elems := 1, width := 32,
    flds := [Reg.CD_STATUS_STATE, Reg.CD_STATUS_OVERRUN, Reg.CD_STATUS_STEP_SKIP, Reg.CD_STATUS_AXIS_FAULT_SEEN, Reg.CD_STATUS_LATE_START, Reg.CD_STATUS_SWAP_PENDING] }

/-! CD_FENCE: class 12 (CYC), attribute 0x4, objects 0 to 3, 1 element(s), 64 bits: R274, 12_drumline.md. -/
def Reg.CD_FENCE_LAST : Fld :=
  { cls := 12, attr := 4, lo := 32, width := 32, acc := .ro, rst := 0 }
def Reg.CD_FENCE_MAX : Fld :=
  { cls := 12, attr := 4, lo := 0, width := 32, acc := .rc, rst := 0 }

/-- R274, 12_drumline.md. -/
def Attr.CD_FENCE : AttrDef :=
  { cls := 12, attr := 4, instLo := 0, instHi := 3, instStep := 1, elems := 1, width := 64,
    flds := [Reg.CD_FENCE_LAST, Reg.CD_FENCE_MAX] }

/-! CD_CYCLE: class 12 (CYC), attribute 0x5, objects 0 to 3, 1 element(s), 64 bits: R274, 12_drumline.md. -/
def Reg.CD_CYCLE : Fld :=
  { cls := 12, attr := 5, lo := 0, width := 64, acc := .ro, rst := 0 }

/-- R274, 12_drumline.md. -/
def Attr.CD_CYCLE : AttrDef :=
  { cls := 12, attr := 5, instLo := 0, instHi := 3, instStep := 1, elems := 1, width := 64,
    flds := [Reg.CD_CYCLE] }

/-! GATHER_LIST: class 12 (CYC), attribute 0x10, objects 0 to 3, 1024 element(s), 128 bits: R274, 12_drumline.md. -/
def Reg.GATHER_LIST_VALID : Fld :=
  { cls := 12, attr := 16, lo := 127, width := 1, acc := .tx, rst := 0 }
def Reg.GATHER_LIST_SRC : Fld :=
  { cls := 12, attr := 16, lo := 125, width := 2, acc := .tx, rst := 0, chk := .range 0 2 }
def Reg.GATHER_LIST_STALE : Fld :=
  { cls := 12, attr := 16, lo := 124, width := 1, acc := .tx, rst := 0 }
def Reg.GATHER_LIST_HOLD_MAX : Fld :=
  { cls := 12, attr := 16, lo := 116, width := 8, acc := .tx, rst := 0 }
def Reg.GATHER_LIST_PORT : Fld :=
  { cls := 12, attr := 16, lo := 106, width := 10, acc := .tx, rst := 0 }
def Reg.GATHER_LIST_SH_EN : Fld :=
  { cls := 12, attr := 16, lo := 105, width := 1, acc := .tx, rst := 0 }
def Reg.GATHER_LIST_SH : Fld :=
  { cls := 12, attr := 16, lo := 93, width := 12, acc := .tx, rst := 0 }
def Reg.GATHER_LIST_OFFSET : Fld :=
  { cls := 12, attr := 16, lo := 82, width := 11, acc := .tx, rst := 0 }
def Reg.GATHER_LIST_LEN : Fld :=
  { cls := 12, attr := 16, lo := 79, width := 3, acc := .tx, rst := 0 }
def Reg.GATHER_LIST_ELEM : Fld :=
  { cls := 12, attr := 16, lo := 77, width := 2, acc := .tx, rst := 0, chk := .range 0 2 }
def Reg.GATHER_LIST_AXIS : Fld :=
  { cls := 12, attr := 16, lo := 67, width := 10, acc := .tx, rst := 0 }
def Reg.GATHER_LIST_ADDR : Fld :=
  { cls := 12, attr := 16, lo := 47, width := 19, acc := .tx, rst := 0 }

/-- R274, 12_drumline.md. -/
def Attr.GATHER_LIST : AttrDef :=
  { cls := 12, attr := 16, instLo := 0, instHi := 3, instStep := 1, elems := 1024, width := 128,
    flds := [Reg.GATHER_LIST_VALID, Reg.GATHER_LIST_SRC, Reg.GATHER_LIST_STALE, Reg.GATHER_LIST_HOLD_MAX, Reg.GATHER_LIST_PORT, Reg.GATHER_LIST_SH_EN, Reg.GATHER_LIST_SH, Reg.GATHER_LIST_OFFSET, Reg.GATHER_LIST_LEN, Reg.GATHER_LIST_ELEM, Reg.GATHER_LIST_AXIS, Reg.GATHER_LIST_ADDR] }

/-! AXIS_FAULT: class 12 (CYC), attribute 0x11, objects 0 to 3, 1 element(s), 1024 bits: R274, 12_drumline.md. -/
def Reg.AXIS_FAULT : Fld :=
  { cls := 12, attr := 17, lo := 0, width := 1024, acc := .w1c, rst := 0 }

/-- R274, 12_drumline.md. -/
def Attr.AXIS_FAULT : AttrDef :=
  { cls := 12, attr := 17, instLo := 0, instHi := 3, instStep := 1, elems := 1, width := 1024,
    flds := [Reg.AXIS_FAULT] }

/-! ENG_CFG: class 12 (CYC), attribute 0x1, objects 256 to 319, 1 element(s), 32 bits: R274, 12_drumline.md. -/
def Reg.ENG_CFG_EN : Fld :=
  { cls := 12, attr := 1, lo := 31, width := 1, acc := .tx, rst := 0 }
def Reg.ENG_CFG_DOMAIN : Fld :=
  { cls := 12, attr := 1, lo := 29, width := 2, acc := .tx, rst := 0 }

/-- R274, 12_drumline.md. -/
def Attr.ENG_CFG : AttrDef :=
  { cls := 12, attr := 1, instLo := 256, instHi := 319, instStep := 1, elems := 1, width := 32,
    flds := [Reg.ENG_CFG_EN, Reg.ENG_CFG_DOMAIN] }

/-! ENG_STATUS: class 12 (CYC), attribute 0x2, objects 256 to 319, 1 element(s), 32 bits: R274, 12_drumline.md. -/
def Reg.ENG_STATUS_STATE : Fld :=
  { cls := 12, attr := 2, lo := 29, width := 3, acc := .ro, rst := 0 }
def Reg.ENG_STATUS_ENG_FAULT : Fld :=
  { cls := 12, attr := 2, lo := 28, width := 1, acc := .w1c, rst := 0 }
def Reg.ENG_STATUS_CAUSE : Fld :=
  { cls := 12, attr := 2, lo := 24, width := 4, acc := .ro, rst := 0 }
def Reg.ENG_STATUS_DESC : Fld :=
  { cls := 12, attr := 2, lo := 0, width := 10, acc := .ro, rst := 0 }

/-- R274, 12_drumline.md. -/
def Attr.ENG_STATUS : AttrDef :=
  { cls := 12, attr := 2, instLo := 256, instHi := 319, instStep := 1, elems := 1, width := 32,
    flds := [Reg.ENG_STATUS_STATE, Reg.ENG_STATUS_ENG_FAULT, Reg.ENG_STATUS_CAUSE, Reg.ENG_STATUS_DESC] }

/-! CNT_RIGHTS: class 12 (CYC), attribute 0x3, objects 256 to 319, 1 element(s), 128 bits: R274, 12_drumline.md. -/
def Reg.CNT_RIGHTS : Fld :=
  { cls := 12, attr := 3, lo := 0, width := 72, acc := .tx, rst := 0 }

/-- R274, 12_drumline.md. -/
def Attr.CNT_RIGHTS : AttrDef :=
  { cls := 12, attr := 3, instLo := 256, instHi := 319, instStep := 1, elems := 1, width := 128,
    flds := [Reg.CNT_RIGHTS] }

/-! PROG_INFO: class 12 (CYC), attribute 0x4, objects 256 to 319, 1 element(s), 128 bits: R274, 12_drumline.md. -/
def Reg.PROG_INFO_C_PROG : Fld :=
  { cls := 12, attr := 4, lo := 96, width := 32, acc := .ro, rst := 0 }
def Reg.PROG_INFO_C_RE : Fld :=
  { cls := 12, attr := 4, lo := 64, width := 32, acc := .ro, rst := 0 }
def Reg.PROG_INFO_DESC_COUNT : Fld :=
  { cls := 12, attr := 4, lo := 48, width := 16, acc := .ro, rst := 0 }
def Reg.PROG_INFO_IMAGE_ID : Fld :=
  { cls := 12, attr := 4, lo := 0, width := 32, acc := .ro, rst := 0 }

/-- R274, 12_drumline.md. -/
def Attr.PROG_INFO : AttrDef :=
  { cls := 12, attr := 4, instLo := 256, instHi := 319, instStep := 1, elems := 1, width := 128,
    flds := [Reg.PROG_INFO_C_PROG, Reg.PROG_INFO_C_RE, Reg.PROG_INFO_DESC_COUNT, Reg.PROG_INFO_IMAGE_ID] }

/-! PROG_STANDBY: class 12 (CYC), attribute 0x5, objects 256 to 319, 1 element(s), 128 bits: R274, 12_drumline.md. -/
def Reg.PROG_STANDBY_C_PROG : Fld :=
  { cls := 12, attr := 5, lo := 96, width := 32, acc := .ro, rst := 0 }
def Reg.PROG_STANDBY_C_RE : Fld :=
  { cls := 12, attr := 5, lo := 64, width := 32, acc := .ro, rst := 0 }
def Reg.PROG_STANDBY_DESC_COUNT : Fld :=
  { cls := 12, attr := 5, lo := 48, width := 16, acc := .ro, rst := 0 }
def Reg.PROG_STANDBY_IMAGE_ID : Fld :=
  { cls := 12, attr := 5, lo := 0, width := 32, acc := .ro, rst := 0 }

/-- R274, 12_drumline.md. -/
def Attr.PROG_STANDBY : AttrDef :=
  { cls := 12, attr := 5, instLo := 256, instHi := 319, instStep := 1, elems := 1, width := 128,
    flds := [Reg.PROG_STANDBY_C_PROG, Reg.PROG_STANDBY_C_RE, Reg.PROG_STANDBY_DESC_COUNT, Reg.PROG_STANDBY_IMAGE_ID] }

/-! FAB_CFG: class 1 (DEV), attribute 0x48, objects 0 to 0, 1 element(s), 64 bits: R330, 14_fabric.md. -/
def Reg.FAB_CFG_FABRIC_ID : Fld :=
  { cls := 1, attr := 72, lo := 32, width := 32, acc := .tx, rst := 0 }
def Reg.FAB_CFG_FAB_EN : Fld :=
  { cls := 1, attr := 72, lo := 31, width := 1, acc := .tx, rst := 0 }
def Reg.FAB_CFG_ROOT_PRIO : Fld :=
  { cls := 1, attr := 72, lo := 16, width := 8, acc := .tx, rst := 128 }
def Reg.FAB_CFG_HELLO_MS : Fld :=
  { cls := 1, attr := 72, lo := 8, width := 8, acc := .tx, rst := 10, chk := .range 1 255 }

/-- R330, 14_fabric.md. -/
def Attr.FAB_CFG : AttrDef :=
  { cls := 1, attr := 72, instLo := 0, instHi := 0, instStep := 1, elems := 1, width := 64,
    flds := [Reg.FAB_CFG_FABRIC_ID, Reg.FAB_CFG_FAB_EN, Reg.FAB_CFG_ROOT_PRIO, Reg.FAB_CFG_HELLO_MS] }

/-! FAB_STATUS: class 1 (DEV), attribute 0x49, objects 0 to 0, 1 element(s), 32 bits: R330, 14_fabric.md. -/
def Reg.FAB_STATUS_ID_VALID : Fld :=
  { cls := 1, attr := 73, lo := 31, width := 1, acc := .ro, rst := 0 }
def Reg.FAB_STATUS_ID_CONFLICT : Fld :=
  { cls := 1, attr := 73, lo := 30, width := 1, acc := .w1c, rst := 0 }
def Reg.FAB_STATUS_TOO_DEEP : Fld :=
  { cls := 1, attr := 73, lo := 29, width := 1, acc := .w1c, rst := 0 }
def Reg.FAB_STATUS_PIN_IDLE : Fld :=
  { cls := 1, attr := 73, lo := 28, width := 1, acc := .w1c, rst := 0 }
def Reg.FAB_STATUS_DEV_ID : Fld :=
  { cls := 1, attr := 73, lo := 22, width := 6, acc := .ro, rst := 0 }
def Reg.FAB_STATUS_ROOT_ID : Fld :=
  { cls := 1, attr := 73, lo := 16, width := 6, acc := .ro, rst := 0 }
def Reg.FAB_STATUS_DEVICES : Fld :=
  { cls := 1, attr := 73, lo := 8, width := 8, acc := .ro, rst := 0 }

/-- R330, 14_fabric.md. -/
def Attr.FAB_STATUS : AttrDef :=
  { cls := 1, attr := 73, instLo := 0, instHi := 0, instStep := 1, elems := 1, width := 32,
    flds := [Reg.FAB_STATUS_ID_VALID, Reg.FAB_STATUS_ID_CONFLICT, Reg.FAB_STATUS_TOO_DEEP, Reg.FAB_STATUS_PIN_IDLE, Reg.FAB_STATUS_DEV_ID, Reg.FAB_STATUS_ROOT_ID, Reg.FAB_STATUS_DEVICES] }

/-! COAL_CFG: class 1 (DEV), attribute 0x4a, objects 0 to 0, 1 element(s), 32 bits: R330, 14_fabric.md. -/
def Reg.COAL_CFG_COAL_MS : Fld :=
  { cls := 1, attr := 74, lo := 0, width := 16, acc := .tx, rst := 10, chk := .range 1 1000 }

/-- R330, 14_fabric.md. -/
def Attr.COAL_CFG : AttrDef :=
  { cls := 1, attr := 74, instLo := 0, instHi := 0, instStep := 1, elems := 1, width := 32,
    flds := [Reg.COAL_CFG_COAL_MS] }

/-! FAB_NODE: class 13 (FAB), attribute 0x1, objects 0 to 63, 1 element(s), 128 bits: R330, 14_fabric.md. -/
def Reg.FAB_NODE_SERIAL : Fld :=
  { cls := 13, attr := 1, lo := 64, width := 64, acc := .ro, rst := 0 }
def Reg.FAB_NODE_PRESENT : Fld :=
  { cls := 13, attr := 1, lo := 63, width := 1, acc := .ro, rst := 0 }
def Reg.FAB_NODE_REACHABLE : Fld :=
  { cls := 13, attr := 1, lo := 62, width := 1, acc := .ro, rst := 0 }
def Reg.FAB_NODE_ROOT : Fld :=
  { cls := 13, attr := 1, lo := 61, width := 1, acc := .ro, rst := 0 }
def Reg.FAB_NODE_ISOLATED : Fld :=
  { cls := 13, attr := 1, lo := 60, width := 1, acc := .ro, rst := 0 }
def Reg.FAB_NODE_LEVEL : Fld :=
  { cls := 13, attr := 1, lo := 54, width := 6, acc := .ro, rst := 0 }
def Reg.FAB_NODE_HOPS : Fld :=
  { cls := 13, attr := 1, lo := 50, width := 4, acc := .ro, rst := 0 }
def Reg.FAB_NODE_TSTATE : Fld :=
  { cls := 13, attr := 1, lo := 47, width := 3, acc := .ro, rst := 0 }
def Reg.FAB_NODE_FSTATE : Fld :=
  { cls := 13, attr := 1, lo := 44, width := 3, acc := .ro, rst := 0 }
def Reg.FAB_NODE_TWIN : Fld :=
  { cls := 13, attr := 1, lo := 42, width := 2, acc := .ro, rst := 0 }
def Reg.FAB_NODE_NEXT_PORT : Fld :=
  { cls := 13, attr := 1, lo := 32, width := 10, acc := .ro, rst := 0 }
def Reg.FAB_NODE_ROOT_PRIO : Fld :=
  { cls := 13, attr := 1, lo := 24, width := 8, acc := .ro, rst := 0 }

/-- R330, 14_fabric.md. -/
def Attr.FAB_NODE : AttrDef :=
  { cls := 13, attr := 1, instLo := 0, instHi := 63, instStep := 1, elems := 1, width := 128,
    flds := [Reg.FAB_NODE_SERIAL, Reg.FAB_NODE_PRESENT, Reg.FAB_NODE_REACHABLE, Reg.FAB_NODE_ROOT, Reg.FAB_NODE_ISOLATED, Reg.FAB_NODE_LEVEL, Reg.FAB_NODE_HOPS, Reg.FAB_NODE_TSTATE, Reg.FAB_NODE_FSTATE, Reg.FAB_NODE_TWIN, Reg.FAB_NODE_NEXT_PORT, Reg.FAB_NODE_ROOT_PRIO] }

/-! FAB_PIN: class 13 (FAB), attribute 0x2, objects 0 to 63, 1 element(s), 32 bits: R330, 14_fabric.md. -/
def Reg.FAB_PIN_PIN_EN : Fld :=
  { cls := 13, attr := 2, lo := 31, width := 1, acc := .tx, rst := 0 }
def Reg.FAB_PIN_PORT : Fld :=
  { cls := 13, attr := 2, lo := 21, width := 10, acc := .tx, rst := 0 }

/-- R330, 14_fabric.md. -/
def Attr.FAB_PIN : AttrDef :=
  { cls := 13, attr := 2, instLo := 0, instHi := 63, instStep := 1, elems := 1, width := 32,
    flds := [Reg.FAB_PIN_PIN_EN, Reg.FAB_PIN_PORT] }

/-! FAB_PORT_CFG: class 2 (PORT), attribute 0x60, objects 0 to 511, 1 element(s), 32 bits: R330, 14_fabric.md. -/
def Reg.FAB_PORT_CFG_FAB_EN : Fld :=
  { cls := 2, attr := 96, lo := 31, width := 1, acc := .tx, rst := 0 }
def Reg.FAB_PORT_CFG_CREDIT_WD : Fld :=
  { cls := 2, attr := 96, lo := 16, width := 8, acc := .tx, rst := 10, chk := .range 1 255 }

/-- R330, 14_fabric.md. -/
def Attr.FAB_PORT_CFG : AttrDef :=
  { cls := 2, attr := 96, instLo := 0, instHi := 511, instStep := 1, elems := 1, width := 32,
    flds := [Reg.FAB_PORT_CFG_FAB_EN, Reg.FAB_PORT_CFG_CREDIT_WD] }

/-! FAB_PORT_STATUS: class 2 (PORT), attribute 0x61, objects 0 to 511, 1 element(s), 32 bits: R330, 14_fabric.md. -/
def Reg.FAB_PORT_STATUS_LINK : Fld :=
  { cls := 2, attr := 97, lo := 30, width := 2, acc := .ro, rst := 0 }
def Reg.FAB_PORT_STATUS_UPLINK : Fld :=
  { cls := 2, attr := 97, lo := 29, width := 1, acc := .ro, rst := 0 }
def Reg.FAB_PORT_STATUS_TREE : Fld :=
  { cls := 2, attr := 97, lo := 28, width := 1, acc := .ro, rst := 0 }
def Reg.FAB_PORT_STATUS_PEER_ID : Fld :=
  { cls := 2, attr := 97, lo := 22, width := 6, acc := .ro, rst := 0 }
def Reg.FAB_PORT_STATUS_PEER_PORT : Fld :=
  { cls := 2, attr := 97, lo := 12, width := 10, acc := .ro, rst := 0 }
def Reg.FAB_PORT_STATUS_LINK_EPOCH : Fld :=
  { cls := 2, attr := 97, lo := 4, width := 8, acc := .ro, rst := 0 }
def Reg.FAB_PORT_STATUS_ISO_CAUSE : Fld :=
  { cls := 2, attr := 97, lo := 0, width := 4, acc := .ro, rst := 0 }

/-- R330, 14_fabric.md. -/
def Attr.FAB_PORT_STATUS : AttrDef :=
  { cls := 2, attr := 97, instLo := 0, instHi := 511, instStep := 1, elems := 1, width := 32,
    flds := [Reg.FAB_PORT_STATUS_LINK, Reg.FAB_PORT_STATUS_UPLINK, Reg.FAB_PORT_STATUS_TREE, Reg.FAB_PORT_STATUS_PEER_ID, Reg.FAB_PORT_STATUS_PEER_PORT, Reg.FAB_PORT_STATUS_LINK_EPOCH, Reg.FAB_PORT_STATUS_ISO_CAUSE] }

/-! FAB_CREDIT: class 2 (PORT), attribute 0x62, objects 0 to 511, 8 element(s), 32 bits: R330, 14_fabric.md. -/
def Reg.FAB_CREDIT_G : Fld :=
  { cls := 2, attr := 98, lo := 16, width := 16, acc := .ro, rst := 0 }
def Reg.FAB_CREDIT_AVAIL : Fld :=
  { cls := 2, attr := 98, lo := 0, width := 16, acc := .ro, rst := 0 }

/-- R330, 14_fabric.md. -/
def Attr.FAB_CREDIT : AttrDef :=
  { cls := 2, attr := 98, instLo := 0, instHi := 511, instStep := 1, elems := 8, width := 32,
    flds := [Reg.FAB_CREDIT_G, Reg.FAB_CREDIT_AVAIL] }

/-! TWIN_CFG: class 14 (TWIN), attribute 0x1, objects 0 to 0, 1 element(s), 64 bits: R349, 15_twins.md. -/
def Reg.TWIN_CFG_PAIR_EN : Fld :=
  { cls := 14, attr := 1, lo := 63, width := 1, acc := .tx, rst := 0 }
def Reg.TWIN_CFG_INTERLOCK : Fld :=
  { cls := 14, attr := 1, lo := 62, width := 1, acc := .tx, rst := 0 }
def Reg.TWIN_CFG_FENCE_ON_HB : Fld :=
  { cls := 14, attr := 1, lo := 61, width := 1, acc := .tx, rst := 1 }
def Reg.TWIN_CFG_HOME : Fld :=
  { cls := 14, attr := 1, lo := 60, width := 1, acc := .tx, rst := 0 }
def Reg.TWIN_CFG_UNIT : Fld :=
  { cls := 14, attr := 1, lo := 59, width := 1, acc := .tx, rst := 0 }
def Reg.TWIN_CFG_LINK_PORT : Fld :=
  { cls := 14, attr := 1, lo := 49, width := 10, acc := .tx, rst := 0, chk := .range 0 511 }
def Reg.TWIN_CFG_T_FENCE : Fld :=
  { cls := 14, attr := 1, lo := 16, width := 16, acc := .tx, rst := 30, chk := .range 10 10000 }
def Reg.TWIN_CFG_PROMOTE_MARGIN : Fld :=
  { cls := 14, attr := 1, lo := 8, width := 8, acc := .tx, rst := 5, chk := .range 1 100 }
def Reg.TWIN_CFG_HOLD_WD : Fld :=
  { cls := 14, attr := 1, lo := 0, width := 8, acc := .tx, rst := 5, chk := .range 2 255 }

/-- R349, 15_twins.md. -/
def Attr.TWIN_CFG : AttrDef :=
  { cls := 14, attr := 1, instLo := 0, instHi := 0, instStep := 1, elems := 1, width := 64,
    flds := [Reg.TWIN_CFG_PAIR_EN, Reg.TWIN_CFG_INTERLOCK, Reg.TWIN_CFG_FENCE_ON_HB, Reg.TWIN_CFG_HOME, Reg.TWIN_CFG_UNIT, Reg.TWIN_CFG_LINK_PORT, Reg.TWIN_CFG_T_FENCE, Reg.TWIN_CFG_PROMOTE_MARGIN, Reg.TWIN_CFG_HOLD_WD] }

/-! TWIN_STATUS: class 14 (TWIN), attribute 0x2, objects 0 to 0, 1 element(s), 32 bits: R349, 15_twins.md. -/
def Reg.TWIN_STATUS_STATE : Fld :=
  { cls := 14, attr := 2, lo := 28, width := 4, acc := .ro, rst := 0 }
def Reg.TWIN_STATUS_HOLD_IN : Fld :=
  { cls := 14, attr := 2, lo := 27, width := 1, acc := .ro, rst := 0 }
def Reg.TWIN_STATUS_HOLD_OUT : Fld :=
  { cls := 14, attr := 2, lo := 26, width := 1, acc := .ro, rst := 0 }
def Reg.TWIN_STATUS_PRESENT : Fld :=
  { cls := 14, attr := 2, lo := 25, width := 1, acc := .ro, rst := 0 }
def Reg.TWIN_STATUS_LINK_UP : Fld :=
  { cls := 14, attr := 2, lo := 24, width := 1, acc := .ro, rst := 0 }
def Reg.TWIN_STATUS_HB_OK : Fld :=
  { cls := 14, attr := 2, lo := 23, width := 1, acc := .ro, rst := 0 }
def Reg.TWIN_STATUS_FENCE_SEEN : Fld :=
  { cls := 14, attr := 2, lo := 22, width := 1, acc := .w1c, rst := 0 }
def Reg.TWIN_STATUS_DUAL_CLAIM : Fld :=
  { cls := 14, attr := 2, lo := 21, width := 1, acc := .w1c, rst := 0 }
def Reg.TWIN_STATUS_HOLD_WD_EXP : Fld :=
  { cls := 14, attr := 2, lo := 20, width := 1, acc := .w1c, rst := 0 }
def Reg.TWIN_STATUS_CKPT_LAG : Fld :=
  { cls := 14, attr := 2, lo := 0, width := 16, acc := .ro, rst := 0 }

/-- R349, 15_twins.md. -/
def Attr.TWIN_STATUS : AttrDef :=
  { cls := 14, attr := 2, instLo := 0, instHi := 0, instStep := 1, elems := 1, width := 32,
    flds := [Reg.TWIN_STATUS_STATE, Reg.TWIN_STATUS_HOLD_IN, Reg.TWIN_STATUS_HOLD_OUT, Reg.TWIN_STATUS_PRESENT, Reg.TWIN_STATUS_LINK_UP, Reg.TWIN_STATUS_HB_OK, Reg.TWIN_STATUS_FENCE_SEEN, Reg.TWIN_STATUS_DUAL_CLAIM, Reg.TWIN_STATUS_HOLD_WD_EXP, Reg.TWIN_STATUS_CKPT_LAG] }

/-! CKPT_CFG: class 14 (TWIN), attribute 0x3, objects 0 to 0, 1 element(s), 64 bits: R349, 15_twins.md. -/
def Reg.CKPT_CFG_CKPT_MS : Fld :=
  { cls := 14, attr := 3, lo := 48, width := 16, acc := .tx, rst := 10, chk := .range 1 1000 }
def Reg.CKPT_CFG_SAVE_S : Fld :=
  { cls := 14, attr := 3, lo := 32, width := 16, acc := .tx, rst := 60 }
def Reg.CKPT_CFG_GAP_EN : Fld :=
  { cls := 14, attr := 3, lo := 31, width := 1, acc := .tx, rst := 0 }
def Reg.CKPT_CFG_GAP_ADDR : Fld :=
  { cls := 14, attr := 3, lo := 6, width := 20, acc := .tx, rst := 0 }

/-- R349, 15_twins.md. -/
def Attr.CKPT_CFG : AttrDef :=
  { cls := 14, attr := 3, instLo := 0, instHi := 0, instStep := 1, elems := 1, width := 64,
    flds := [Reg.CKPT_CFG_CKPT_MS, Reg.CKPT_CFG_SAVE_S, Reg.CKPT_CFG_GAP_EN, Reg.CKPT_CFG_GAP_ADDR] }

/-! CKPT_LIST: class 14 (TWIN), attribute 0x4, objects 0 to 0, 64 element(s), 64 bits: R349, 15_twins.md. -/
def Reg.CKPT_LIST_VALID : Fld :=
  { cls := 14, attr := 4, lo := 63, width := 1, acc := .tx, rst := 0 }
def Reg.CKPT_LIST_SPACE : Fld :=
  { cls := 14, attr := 4, lo := 62, width := 1, acc := .tx, rst := 0 }
def Reg.CKPT_LIST_ENGINE : Fld :=
  { cls := 14, attr := 4, lo := 56, width := 6, acc := .tx, rst := 0 }
def Reg.CKPT_LIST_ADDR : Fld :=
  { cls := 14, attr := 4, lo := 31, width := 25, acc := .tx, rst := 0 }
def Reg.CKPT_LIST_LEN : Fld :=
  { cls := 14, attr := 4, lo := 14, width := 17, acc := .tx, rst := 0 }

/-- R349, 15_twins.md. -/
def Attr.CKPT_LIST : AttrDef :=
  { cls := 14, attr := 4, instLo := 0, instHi := 0, instStep := 1, elems := 64, width := 64,
    flds := [Reg.CKPT_LIST_VALID, Reg.CKPT_LIST_SPACE, Reg.CKPT_LIST_ENGINE, Reg.CKPT_LIST_ADDR, Reg.CKPT_LIST_LEN] }

/-! HANDOVER_BASE: class 14 (TWIN), attribute 0x5, objects 0 to 0, 1 element(s), 96 bits: R349, 15_twins.md. -/
def Reg.HANDOVER_BASE : Fld :=
  { cls := 14, attr := 5, lo := 0, width := 96, acc := .tx, rst := 0, chk := .time }

/-- R349, 15_twins.md. -/
def Attr.HANDOVER_BASE : AttrDef :=
  { cls := 14, attr := 5, instLo := 0, instHi := 0, instStep := 1, elems := 1, width := 96,
    flds := [Reg.HANDOVER_BASE] }

/-! HANDOVER_CTRL: class 14 (TWIN), attribute 0x6, objects 0 to 0, 1 element(s), 64 bits: R349, 15_twins.md. -/
def Reg.HANDOVER_CTRL_HANDOVER_PERIOD : Fld :=
  { cls := 14, attr := 6, lo := 32, width := 32, acc := .tx, rst := 0 }
def Reg.HANDOVER_CTRL_DOMAIN : Fld :=
  { cls := 14, attr := 6, lo := 30, width := 2, acc := .tx, rst := 0 }
def Reg.HANDOVER_CTRL_READY_HOLD_S : Fld :=
  { cls := 14, attr := 6, lo := 0, width := 16, acc := .tx, rst := 600 }

/-- R349, 15_twins.md. -/
def Attr.HANDOVER_CTRL : AttrDef :=
  { cls := 14, attr := 6, instLo := 0, instHi := 0, instStep := 1, elems := 1, width := 64,
    flds := [Reg.HANDOVER_CTRL_HANDOVER_PERIOD, Reg.HANDOVER_CTRL_DOMAIN, Reg.HANDOVER_CTRL_READY_HOLD_S] }

/-! KEY_STATE: class 19 (SEC), attribute 0x1, objects 0 to 31, 1 element(s), 64 bits: R359, 16_command_interface.md. -/
def Reg.KEY_STATE_LAST_SEQ : Fld :=
  { cls := 19, attr := 1, lo := 32, width := 32, acc := .ro, rst := 0 }
def Reg.KEY_STATE_VALID : Fld :=
  { cls := 19, attr := 1, lo := 31, width := 1, acc := .ro, rst := 0 }
def Reg.KEY_STATE_ROLE : Fld :=
  { cls := 19, attr := 1, lo := 28, width := 3, acc := .ro, rst := 0 }
def Reg.KEY_STATE_TRANSPORTS : Fld :=
  { cls := 19, attr := 1, lo := 23, width := 5, acc := .ro, rst := 0 }

/-- R359, 16_command_interface.md. -/
def Attr.KEY_STATE : AttrDef :=
  { cls := 19, attr := 1, instLo := 0, instHi := 31, instStep := 1, elems := 1, width := 64,
    flds := [Reg.KEY_STATE_LAST_SEQ, Reg.KEY_STATE_VALID, Reg.KEY_STATE_ROLE, Reg.KEY_STATE_TRANSPORTS] }

/-! CMD_CFG: class 1 (DEV), attribute 0x50, objects 0 to 0, 1 element(s), 64 bits: R363, 16_command_interface.md. -/
def Reg.CMD_CFG_UDP_PORT : Fld :=
  { cls := 1, attr := 80, lo := 48, width := 16, acc := .tx, rst := 7150, chk := .range 1 65535 }
def Reg.CMD_CFG_ETYPE : Fld :=
  { cls := 1, attr := 80, lo := 32, width := 16, acc := .tx, rst := 34998, chk := .range 1536 65535 }
def Reg.CMD_CFG_UDP_EN : Fld :=
  { cls := 1, attr := 80, lo := 31, width := 1, acc := .tx, rst := 1 }
def Reg.CMD_CFG_ETH_EN : Fld :=
  { cls := 1, attr := 80, lo := 30, width := 1, acc := .tx, rst := 1 }

/-- R363, 16_command_interface.md. -/
def Attr.CMD_CFG : AttrDef :=
  { cls := 1, attr := 80, instLo := 0, instHi := 0, instStep := 1, elems := 1, width := 64,
    flds := [Reg.CMD_CFG_UDP_PORT, Reg.CMD_CFG_ETYPE, Reg.CMD_CFG_UDP_EN, Reg.CMD_CFG_ETH_EN] }

/-! CMD_IP4: class 1 (DEV), attribute 0x51, objects 0 to 0, 1 element(s), 32 bits: R363, 16_command_interface.md. -/
def Reg.CMD_IP4 : Fld :=
  { cls := 1, attr := 81, lo := 0, width := 32, acc := .tx, rst := 0 }

/-- R363, 16_command_interface.md. -/
def Attr.CMD_IP4 : AttrDef :=
  { cls := 1, attr := 81, instLo := 0, instHi := 0, instStep := 1, elems := 1, width := 32,
    flds := [Reg.CMD_IP4] }

/-! CMD_IP6: class 1 (DEV), attribute 0x52, objects 0 to 0, 1 element(s), 128 bits: R363, 16_command_interface.md. -/
def Reg.CMD_IP6 : Fld :=
  { cls := 1, attr := 82, lo := 0, width := 128, acc := .tx, rst := 0 }

/-- R363, 16_command_interface.md. -/
def Attr.CMD_IP6 : AttrDef :=
  { cls := 1, attr := 82, instLo := 0, instHi := 0, instStep := 1, elems := 1, width := 128,
    flds := [Reg.CMD_IP6] }

/-! DEV_MAC: class 1 (DEV), attribute 0x53, objects 0 to 0, 1 element(s), 48 bits: R363, 16_command_interface.md. -/
def Reg.DEV_MAC : Fld :=
  { cls := 1, attr := 83, lo := 0, width := 48, acc := .ro, rst := 0 }

/-- R363, 16_command_interface.md. -/
def Attr.DEV_MAC : AttrDef :=
  { cls := 1, attr := 83, instLo := 0, instHi := 0, instStep := 1, elems := 1, width := 48,
    flds := [Reg.DEV_MAC] }

/-! NOTIFY_DEST: class 1 (DEV), attribute 0x54, objects 0 to 0, 8 element(s), 256 bits: R365, 16_command_interface.md. -/
def Reg.NOTIFY_DEST_EN : Fld :=
  { cls := 1, attr := 84, lo := 255, width := 1, acc := .tx, rst := 0 }
def Reg.NOTIFY_DEST_TRANSPORT : Fld :=
  { cls := 1, attr := 84, lo := 252, width := 3, acc := .tx, rst := 0, chk := .range 0 3 }
def Reg.NOTIFY_DEST_KEY_SLOT : Fld :=
  { cls := 1, attr := 84, lo := 247, width := 5, acc := .tx, rst := 0 }
def Reg.NOTIFY_DEST_PORT : Fld :=
  { cls := 1, attr := 84, lo := 237, width := 10, acc := .tx, rst := 512, chk := .range 0 512 }
def Reg.NOTIFY_DEST_VID : Fld :=
  { cls := 1, attr := 84, lo := 225, width := 12, acc := .tx, rst := 0 }
def Reg.NOTIFY_DEST_UDP_PORT : Fld :=
  { cls := 1, attr := 84, lo := 209, width := 16, acc := .tx, rst := 7150 }
def Reg.NOTIFY_DEST_MAC : Fld :=
  { cls := 1, attr := 84, lo := 161, width := 48, acc := .tx, rst := 0 }
def Reg.NOTIFY_DEST_IP : Fld :=
  { cls := 1, attr := 84, lo := 0, width := 128, acc := .tx, rst := 0 }

/-- R365, 16_command_interface.md. -/
def Attr.NOTIFY_DEST : AttrDef :=
  { cls := 1, attr := 84, instLo := 0, instHi := 0, instStep := 1, elems := 8, width := 256,
    flds := [Reg.NOTIFY_DEST_EN, Reg.NOTIFY_DEST_TRANSPORT, Reg.NOTIFY_DEST_KEY_SLOT, Reg.NOTIFY_DEST_PORT, Reg.NOTIFY_DEST_VID, Reg.NOTIFY_DEST_UDP_PORT, Reg.NOTIFY_DEST_MAC, Reg.NOTIFY_DEST_IP] }

/-! HOST_TRAP: class 1 (DEV), attribute 0x55, objects 0 to 0, 1 element(s), 8 bits: R368, 16_command_interface.md. -/
def Reg.HOST_TRAP : Fld :=
  { cls := 1, attr := 85, lo := 0, width := 8, acc := .tx, rst := 0 }

/-- R368, 16_command_interface.md. -/
def Attr.HOST_TRAP : AttrDef :=
  { cls := 1, attr := 85, instLo := 0, instHi := 0, instStep := 1, elems := 1, width := 8,
    flds := [Reg.HOST_TRAP] }

/-! CMD_PORT: class 2 (PORT), attribute 0x70, objects 0 to 511, 1 element(s), 32 bits: R363, 16_command_interface.md. -/
def Reg.CMD_PORT_CMD_EN : Fld :=
  { cls := 2, attr := 112, lo := 31, width := 1, acc := .tx, rst := 0 }

/-- R363, 16_command_interface.md. -/
def Attr.CMD_PORT : AttrDef :=
  { cls := 2, attr := 112, instLo := 0, instHi := 511, instStep := 1, elems := 1, width := 32,
    flds := [Reg.CMD_PORT_CMD_EN] }

/-! MGT_CMD_PORT: class 2 (PORT), attribute 0x70, objects 512 to 512, 1 element(s), 32 bits: R363, 16_command_interface.md. -/
def Reg.MGT_CMD_PORT_CMD_EN : Fld :=
  { cls := 2, attr := 112, lo := 31, width := 1, acc := .ro, rst := 1 }

/-- R363, 16_command_interface.md. -/
def Attr.MGT_CMD_PORT : AttrDef :=
  { cls := 2, attr := 112, instLo := 512, instHi := 512, instStep := 1, elems := 1, width := 32,
    flds := [Reg.MGT_CMD_PORT_CMD_EN] }

/-! MBX_CFG: class 20 (MBX), attribute 0x1, objects 0 to 15, 1 element(s), 32 bits: R372, 16_command_interface.md. -/
def Reg.MBX_CFG_ROLE : Fld :=
  { cls := 20, attr := 1, lo := 30, width := 2, acc := .tx, rst := 0, chk := .range 0 2 }

/-- R372, 16_command_interface.md. -/
def Attr.MBX_CFG : AttrDef :=
  { cls := 20, attr := 1, instLo := 0, instHi := 15, instStep := 1, elems := 1, width := 32,
    flds := [Reg.MBX_CFG_ROLE] }

/-! MBX_STAT: class 20 (MBX), attribute 0x2, objects 0 to 15, 1 element(s), 32 bits: R372, 16_command_interface.md. -/
def Reg.MBX_STAT_H2F_FULL : Fld :=
  { cls := 20, attr := 2, lo := 31, width := 1, acc := .ro, rst := 0 }
def Reg.MBX_STAT_F2H_FULL : Fld :=
  { cls := 20, attr := 2, lo := 30, width := 1, acc := .ro, rst := 0 }
def Reg.MBX_STAT_LOST : Fld :=
  { cls := 20, attr := 2, lo := 8, width := 8, acc := .rc, rst := 0 }
def Reg.MBX_STAT_DROP : Fld :=
  { cls := 20, attr := 2, lo := 0, width := 8, acc := .rc, rst := 0 }

/-- R372, 16_command_interface.md. -/
def Attr.MBX_STAT : AttrDef :=
  { cls := 20, attr := 2, instLo := 0, instHi := 15, instStep := 1, elems := 1, width := 32,
    flds := [Reg.MBX_STAT_H2F_FULL, Reg.MBX_STAT_F2H_FULL, Reg.MBX_STAT_LOST, Reg.MBX_STAT_DROP] }

/-! DB_CMD: class 20 (MBX), attribute 0x10, objects 16 to 16, 32 element(s), 640 bits: R373, 16_command_interface.md. -/
def Reg.DB_CMD : Fld :=
  { cls := 20, attr := 16, lo := 0, width := 640, acc := .tx, rst := 0 }

/-- R373, 16_command_interface.md. -/
def Attr.DB_CMD : AttrDef :=
  { cls := 20, attr := 16, instLo := 16, instHi := 16, instStep := 1, elems := 32, width := 640,
    flds := [Reg.DB_CMD] }

/-! DB_MAP: class 20 (MBX), attribute 0x11, objects 16 to 16, 32 element(s), 32 bits: R373, 16_command_interface.md. -/
def Reg.DB_MAP_EN : Fld :=
  { cls := 20, attr := 17, lo := 31, width := 1, acc := .tx, rst := 0 }
def Reg.DB_MAP_CLASS : Fld :=
  { cls := 20, attr := 17, lo := 16, width := 8, acc := .tx, rst := 0 }
def Reg.DB_MAP_EVENT : Fld :=
  { cls := 20, attr := 17, lo := 0, width := 16, acc := .tx, rst := 0 }

/-- R373, 16_command_interface.md. -/
def Attr.DB_MAP : AttrDef :=
  { cls := 20, attr := 17, instLo := 16, instHi := 16, instStep := 1, elems := 32, width := 32,
    flds := [Reg.DB_MAP_EN, Reg.DB_MAP_CLASS, Reg.DB_MAP_EVENT] }

/-! DB_RESULT: class 20 (MBX), attribute 0x12, objects 16 to 16, 32 element(s), 16 bits: R373, 16_command_interface.md. -/
def Reg.DB_RESULT : Fld :=
  { cls := 20, attr := 18, lo := 0, width := 16, acc := .ro, rst := 0 }

/-- R373, 16_command_interface.md. -/
def Attr.DB_RESULT : AttrDef :=
  { cls := 20, attr := 18, instLo := 16, instHi := 16, instStep := 1, elems := 32, width := 16,
    flds := [Reg.DB_RESULT] }

/-! TXN_CFG: class 1 (DEV), attribute 0x58, objects 0 to 0, 1 element(s), 32 bits: R395, 17_transactions_journal.md. -/
def Reg.TXN_CFG_LOCK_WAIT_MS : Fld :=
  { cls := 1, attr := 88, lo := 16, width := 16, acc := .tx, rst := 200, chk := .range 1 10000 }
def Reg.TXN_CFG_IDLE_S : Fld :=
  { cls := 1, attr := 88, lo := 0, width := 16, acc := .tx, rst := 60, chk := .range 1 3600 }

/-- R395, 17_transactions_journal.md. -/
def Attr.TXN_CFG : AttrDef :=
  { cls := 1, attr := 88, instLo := 0, instHi := 0, instStep := 1, elems := 1, width := 32,
    flds := [Reg.TXN_CFG_LOCK_WAIT_MS, Reg.TXN_CFG_IDLE_S] }

/-! JRN_STATUS: class 15 (JRN), attribute 0x1, objects 0 to 0, 1 element(s), 256 bits: R395, 17_transactions_journal.md. -/
def Reg.JRN_STATUS_NEXT_SEQ : Fld :=
  { cls := 15, attr := 1, lo := 192, width := 64, acc := .ro, rst := 0 }
def Reg.JRN_STATUS_OLDEST_ONCHIP : Fld :=
  { cls := 15, attr := 1, lo := 128, width := 64, acc := .ro, rst := 0 }
def Reg.JRN_STATUS_OLDEST_FLASH : Fld :=
  { cls := 15, attr := 1, lo := 64, width := 64, acc := .ro, rst := 0 }
def Reg.JRN_STATUS_JRN_LOST : Fld :=
  { cls := 15, attr := 1, lo := 63, width := 1, acc := .w1c, rst := 0 }
def Reg.JRN_STATUS_SPILL_FAIL : Fld :=
  { cls := 15, attr := 1, lo := 62, width := 1, acc := .w1c, rst := 0 }
def Reg.JRN_STATUS_COMMIT_HOLD : Fld :=
  { cls := 15, attr := 1, lo := 61, width := 1, acc := .ro, rst := 0 }
def Reg.JRN_STATUS_UNSPILLED : Fld :=
  { cls := 15, attr := 1, lo := 0, width := 17, acc := .ro, rst := 0 }

/-- R395, 17_transactions_journal.md. -/
def Attr.JRN_STATUS : AttrDef :=
  { cls := 15, attr := 1, instLo := 0, instHi := 0, instStep := 1, elems := 1, width := 256,
    flds := [Reg.JRN_STATUS_NEXT_SEQ, Reg.JRN_STATUS_OLDEST_ONCHIP, Reg.JRN_STATUS_OLDEST_FLASH, Reg.JRN_STATUS_JRN_LOST, Reg.JRN_STATUS_SPILL_FAIL, Reg.JRN_STATUS_COMMIT_HOLD, Reg.JRN_STATUS_UNSPILLED] }

/-! JRN_SEAL: class 15 (JRN), attribute 0x2, objects 0 to 0, 1 element(s), 256 bits: R395, 17_transactions_journal.md. -/
def Reg.JRN_SEAL_SEQ : Fld :=
  { cls := 15, attr := 2, lo := 192, width := 64, acc := .ro, rst := 0 }
def Reg.JRN_SEAL_DIGEST : Fld :=
  { cls := 15, attr := 2, lo := 64, width := 128, acc := .ro, rst := 0 }
def Reg.JRN_SEAL_FLASH_INDEX : Fld :=
  { cls := 15, attr := 2, lo := 32, width := 32, acc := .ro, rst := 0 }
def Reg.JRN_SEAL_CRC : Fld :=
  { cls := 15, attr := 2, lo := 0, width := 32, acc := .ro, rst := 0 }

/-- R395, 17_transactions_journal.md. -/
def Attr.JRN_SEAL : AttrDef :=
  { cls := 15, attr := 2, instLo := 0, instHi := 0, instStep := 1, elems := 1, width := 256,
    flds := [Reg.JRN_SEAL_SEQ, Reg.JRN_SEAL_DIGEST, Reg.JRN_SEAL_FLASH_INDEX, Reg.JRN_SEAL_CRC] }

/-! JRN_CFG: class 15 (JRN), attribute 0x3, objects 0 to 0, 1 element(s), 32 bits: R395, 17_transactions_journal.md. -/
def Reg.JRN_CFG_SPILL_SEC : Fld :=
  { cls := 15, attr := 3, lo := 0, width := 8, acc := .tx, rst := 10, chk := .range 1 255 }

/-- R395, 17_transactions_journal.md. -/
def Attr.JRN_CFG : AttrDef :=
  { cls := 15, attr := 3, instLo := 0, instHi := 0, instStep := 1, elems := 1, width := 32,
    flds := [Reg.JRN_CFG_SPILL_SEC] }

/-! PWR_CFG: class 1 (DEV), attribute 0x60, objects 0 to 0, 1 element(s), 32 bits: R418, 19_startup_firmware.md. -/
def Reg.PWR_CFG_TARGET : Fld :=
  { cls := 1, attr := 96, lo := 30, width := 2, acc := .tx, rst := 0, chk := .range 0 1 }

/-- R418, 19_startup_firmware.md. -/
def Attr.PWR_CFG : AttrDef :=
  { cls := 1, attr := 96, instLo := 0, instHi := 0, instStep := 1, elems := 1, width := 32,
    flds := [Reg.PWR_CFG_TARGET] }

/-! PWR_STATUS: class 1 (DEV), attribute 0x61, objects 0 to 0, 1 element(s), 32 bits: R418, 19_startup_firmware.md. -/
def Reg.PWR_STATUS_STATE : Fld :=
  { cls := 1, attr := 97, lo := 30, width := 2, acc := .ro, rst := 0 }
def Reg.PWR_STATUS_BOOT_LIST_FAIL : Fld :=
  { cls := 1, attr := 97, lo := 29, width := 1, acc := .w1c, rst := 0 }
def Reg.PWR_STATUS_LAST_RESET : Fld :=
  { cls := 1, attr := 97, lo := 26, width := 3, acc := .ro, rst := 0 }

/-- R418, 19_startup_firmware.md. -/
def Attr.PWR_STATUS : AttrDef :=
  { cls := 1, attr := 97, instLo := 0, instHi := 0, instStep := 1, elems := 1, width := 32,
    flds := [Reg.PWR_STATUS_STATE, Reg.PWR_STATUS_BOOT_LIST_FAIL, Reg.PWR_STATUS_LAST_RESET] }

/-! BOOT_CFG: class 1 (DEV), attribute 0x62, objects 0 to 0, 1 element(s), 32 bits: R419, 19_startup_firmware.md. -/
def Reg.BOOT_CFG_BOOT_RUN : Fld :=
  { cls := 1, attr := 98, lo := 31, width := 1, acc := .tx, rst := 0 }
def Reg.BOOT_CFG_LIST_VALID : Fld :=
  { cls := 1, attr := 98, lo := 30, width := 1, acc := .ro, rst := 0 }
def Reg.BOOT_CFG_WDG_MS : Fld :=
  { cls := 1, attr := 98, lo := 0, width := 16, acc := .tx, rst := 500, chk := .range 50 10000 }

/-- R419, 19_startup_firmware.md. -/
def Attr.BOOT_CFG : AttrDef :=
  { cls := 1, attr := 98, instLo := 0, instHi := 0, instStep := 1, elems := 1, width := 32,
    flds := [Reg.BOOT_CFG_BOOT_RUN, Reg.BOOT_CFG_LIST_VALID, Reg.BOOT_CFG_WDG_MS] }

/-! BOOT_LIST: class 1 (DEV), attribute 0x63, objects 0 to 0, 61440 element(s), 8 bits: R419, 19_startup_firmware.md. -/
def Reg.BOOT_LIST : Fld :=
  { cls := 1, attr := 99, lo := 0, width := 8, acc := .tx, rst := 0 }

/-- R419, 19_startup_firmware.md. -/
def Attr.BOOT_LIST : AttrDef :=
  { cls := 1, attr := 99, instLo := 0, instHi := 0, instStep := 1, elems := 61440, width := 8,
    flds := [Reg.BOOT_LIST] }

/-! KA_TIME: class 1 (DEV), attribute 0x68, objects 0 to 0, 1 element(s), 128 bits: R423, 19_startup_firmware.md. -/
def Reg.KA_TIME_KA_SEC : Fld :=
  { cls := 1, attr := 104, lo := 80, width := 48, acc := .ro, rst := 0 }
def Reg.KA_TIME_KA_TICK : Fld :=
  { cls := 1, attr := 104, lo := 64, width := 16, acc := .ro, rst := 0 }
def Reg.KA_TIME_PF_SEC : Fld :=
  { cls := 1, attr := 104, lo := 16, width := 48, acc := .ro, rst := 0 }
def Reg.KA_TIME_PF_TICK : Fld :=
  { cls := 1, attr := 104, lo := 0, width := 16, acc := .ro, rst := 0 }

/-- R423, 19_startup_firmware.md. -/
def Attr.KA_TIME : AttrDef :=
  { cls := 1, attr := 104, instLo := 0, instHi := 0, instStep := 1, elems := 1, width := 128,
    flds := [Reg.KA_TIME_KA_SEC, Reg.KA_TIME_KA_TICK, Reg.KA_TIME_PF_SEC, Reg.KA_TIME_PF_TICK] }

/-! KA_FLAGS: class 1 (DEV), attribute 0x69, objects 0 to 0, 1 element(s), 32 bits: R423, 19_startup_firmware.md. -/
def Reg.KA_FLAGS_KA_VALID : Fld :=
  { cls := 1, attr := 105, lo := 31, width := 1, acc := .ro, rst := 0 }
def Reg.KA_FLAGS_VBAK_LOST : Fld :=
  { cls := 1, attr := 105, lo := 30, width := 1, acc := .w1c, rst := 0 }
def Reg.KA_FLAGS_XTAL_FAIL : Fld :=
  { cls := 1, attr := 105, lo := 29, width := 1, acc := .w1c, rst := 0 }

/-- R423, 19_startup_firmware.md. -/
def Attr.KA_FLAGS : AttrDef :=
  { cls := 1, attr := 105, instLo := 0, instHi := 0, instStep := 1, elems := 1, width := 32,
    flds := [Reg.KA_FLAGS_KA_VALID, Reg.KA_FLAGS_VBAK_LOST, Reg.KA_FLAGS_XTAL_FAIL] }

/-! CAL_CFG: class 17 (CAL), attribute 0x1, objects 0 to 0, 1 element(s), 32 bits: R432, 20_calibration_diagnostics.md. -/
def Reg.CAL_CFG_REPEAT_TOL : Fld :=
  { cls := 17, attr := 1, lo := 24, width := 8, acc := .tx, rst := 3, chk := .range 1 255 }
def Reg.CAL_CFG_N_LOG2 : Fld :=
  { cls := 17, attr := 1, lo := 20, width := 4, acc := .tx, rst := 12, chk := .range 8 15 }

/-- R432, 20_calibration_diagnostics.md. -/
def Attr.CAL_CFG : AttrDef :=
  { cls := 17, attr := 1, instLo := 0, instHi := 0, instStep := 1, elems := 1, width := 32,
    flds := [Reg.CAL_CFG_REPEAT_TOL, Reg.CAL_CFG_N_LOG2] }

/-! CAL_REF: class 17 (CAL), attribute 0x2, objects 0 to 0, 1 element(s), 32 bits: R432, 20_calibration_diagnostics.md. -/
def Reg.CAL_REF_CAB_PPS : Fld :=
  { cls := 17, attr := 2, lo := 0, width := 32, acc := .tx, rst := 0 }

/-- R432, 20_calibration_diagnostics.md. -/
def Attr.CAL_REF : AttrDef :=
  { cls := 17, attr := 2, instLo := 0, instHi := 0, instStep := 1, elems := 1, width := 32,
    flds := [Reg.CAL_REF_CAB_PPS] }

/-! CAL_KIT: class 17 (CAL), attribute 0x3, objects 0 to 0, 1 element(s), 128 bits: R432, 20_calibration_diagnostics.md. -/
def Reg.CAL_KIT_D_LOOP : Fld :=
  { cls := 17, attr := 3, lo := 96, width := 32, acc := .tx, rst := 0 }
def Reg.CAL_KIT_D_OE : Fld :=
  { cls := 17, attr := 3, lo := 64, width := 32, acc := .tx, rst := 0 }
def Reg.CAL_KIT_CAB_IN : Fld :=
  { cls := 17, attr := 3, lo := 32, width := 32, acc := .tx, rst := 0 }
def Reg.CAL_KIT_CAB_OUT : Fld :=
  { cls := 17, attr := 3, lo := 0, width := 32, acc := .tx, rst := 0 }

/-- R432, 20_calibration_diagnostics.md. -/
def Attr.CAL_KIT : AttrDef :=
  { cls := 17, attr := 3, instLo := 0, instHi := 0, instStep := 1, elems := 1, width := 128,
    flds := [Reg.CAL_KIT_D_LOOP, Reg.CAL_KIT_D_OE, Reg.CAL_KIT_CAB_IN, Reg.CAL_KIT_CAB_OUT] }

/-! CAL_STATUS: class 17 (CAL), attribute 0x4, objects 0 to 0, 1 element(s), 32 bits: R432, 20_calibration_diagnostics.md. -/
def Reg.CAL_STATUS_CAL_VALID : Fld :=
  { cls := 17, attr := 4, lo := 31, width := 1, acc := .ro, rst := 0 }
def Reg.CAL_STATUS_RUNNING : Fld :=
  { cls := 17, attr := 4, lo := 30, width := 1, acc := .ro, rst := 0 }
def Reg.CAL_STATUS_CANDIDATES : Fld :=
  { cls := 17, attr := 4, lo := 29, width := 1, acc := .ro, rst := 0 }
def Reg.CAL_STATUS_OVERRIDE : Fld :=
  { cls := 17, attr := 4, lo := 28, width := 1, acc := .w1c, rst := 0 }
def Reg.CAL_STATUS_CAL_COUNT : Fld :=
  { cls := 17, attr := 4, lo := 0, width := 16, acc := .ro, rst := 0 }

/-- R432, 20_calibration_diagnostics.md. -/
def Attr.CAL_STATUS : AttrDef :=
  { cls := 17, attr := 4, instLo := 0, instHi := 0, instStep := 1, elems := 1, width := 32,
    flds := [Reg.CAL_STATUS_CAL_VALID, Reg.CAL_STATUS_RUNNING, Reg.CAL_STATUS_CANDIDATES, Reg.CAL_STATUS_OVERRIDE, Reg.CAL_STATUS_CAL_COUNT] }

/-! CAL_LAST: class 17 (CAL), attribute 0x5, objects 0 to 0, 1 element(s), 96 bits: R432, 20_calibration_diagnostics.md. -/
def Reg.CAL_LAST : Fld :=
  { cls := 17, attr := 5, lo := 0, width := 96, acc := .ro, rst := 0 }

/-- R432, 20_calibration_diagnostics.md. -/
def Attr.CAL_LAST : AttrDef :=
  { cls := 17, attr := 5, instLo := 0, instHi := 0, instStep := 1, elems := 1, width := 96,
    flds := [Reg.CAL_LAST] }

/-! LULL_CFG: class 18 (TEST), attribute 0x1, objects 0 to 0, 1 element(s), 32 bits: R434, 20_calibration_diagnostics.md. -/
def Reg.LULL_CFG_EN : Fld :=
  { cls := 18, attr := 1, lo := 31, width := 1, acc := .ro, rst := 1 }
def Reg.LULL_CFG_CELLS : Fld :=
  { cls := 18, attr := 1, lo := 27, width := 1, acc := .ro, rst := 1 }
def Reg.LULL_CFG_SCRUB : Fld :=
  { cls := 18, attr := 1, lo := 26, width := 1, acc := .ro, rst := 1 }
def Reg.LULL_CFG_TDC : Fld :=
  { cls := 18, attr := 1, lo := 25, width := 1, acc := .ro, rst := 1 }
def Reg.LULL_CFG_ENGINES : Fld :=
  { cls := 18, attr := 1, lo := 24, width := 1, acc := .ro, rst := 1 }
def Reg.LULL_CFG_PERIOD_S : Fld :=
  { cls := 18, attr := 1, lo := 0, width := 16, acc := .ro, rst := 3600 }

/-- R434, 20_calibration_diagnostics.md. -/
def Attr.LULL_CFG : AttrDef :=
  { cls := 18, attr := 1, instLo := 0, instHi := 0, instStep := 1, elems := 1, width := 32,
    flds := [Reg.LULL_CFG_EN, Reg.LULL_CFG_CELLS, Reg.LULL_CFG_SCRUB, Reg.LULL_CFG_TDC, Reg.LULL_CFG_ENGINES, Reg.LULL_CFG_PERIOD_S] }

/-! LULL_STATUS: class 18 (TEST), attribute 0x2, objects 0 to 0, 1 element(s), 32 bits: R434, 20_calibration_diagnostics.md. -/
def Reg.LULL_STATUS_RUNNING : Fld :=
  { cls := 18, attr := 2, lo := 31, width := 1, acc := .ro, rst := 1 }
def Reg.LULL_STATUS_CELL_FAULT : Fld :=
  { cls := 18, attr := 2, lo := 30, width := 1, acc := .w1c, rst := 0 }
def Reg.LULL_STATUS_ECC_UNCORR : Fld :=
  { cls := 18, attr := 2, lo := 29, width := 1, acc := .w1c, rst := 0 }
def Reg.LULL_STATUS_TDC_DEVIATE : Fld :=
  { cls := 18, attr := 2, lo := 28, width := 1, acc := .w1c, rst := 0 }
def Reg.LULL_STATUS_ENGINE_FAULT : Fld :=
  { cls := 18, attr := 2, lo := 27, width := 1, acc := .w1c, rst := 0 }
def Reg.LULL_STATUS_RETIRE_FULL : Fld :=
  { cls := 18, attr := 2, lo := 26, width := 1, acc := .ro, rst := 0 }
def Reg.LULL_STATUS_RETIRED : Fld :=
  { cls := 18, attr := 2, lo := 13, width := 13, acc := .ro, rst := 0 }

/-- R434, 20_calibration_diagnostics.md. -/
def Attr.LULL_STATUS : AttrDef :=
  { cls := 18, attr := 2, instLo := 0, instHi := 0, instStep := 1, elems := 1, width := 32,
    flds := [Reg.LULL_STATUS_RUNNING, Reg.LULL_STATUS_CELL_FAULT, Reg.LULL_STATUS_ECC_UNCORR, Reg.LULL_STATUS_TDC_DEVIATE, Reg.LULL_STATUS_ENGINE_FAULT, Reg.LULL_STATUS_RETIRE_FULL, Reg.LULL_STATUS_RETIRED] }

/-! LULL_FAULT: class 18 (TEST), attribute 0x3, objects 0 to 0, 1 element(s), 128 bits: R434, 20_calibration_diagnostics.md. -/
def Reg.LULL_FAULT_KIND : Fld :=
  { cls := 18, attr := 3, lo := 124, width := 4, acc := .ro, rst := 0 }
def Reg.LULL_FAULT_TABLE : Fld :=
  { cls := 18, attr := 3, lo := 120, width := 4, acc := .ro, rst := 0 }
def Reg.LULL_FAULT_INDEX : Fld :=
  { cls := 18, attr := 3, lo := 64, width := 32, acc := .ro, rst := 0 }
def Reg.LULL_FAULT_DETAIL : Fld :=
  { cls := 18, attr := 3, lo := 32, width := 32, acc := .ro, rst := 0 }
def Reg.LULL_FAULT_SEC : Fld :=
  { cls := 18, attr := 3, lo := 0, width := 32, acc := .ro, rst := 0 }

/-- R434, 20_calibration_diagnostics.md. -/
def Attr.LULL_FAULT : AttrDef :=
  { cls := 18, attr := 3, instLo := 0, instHi := 0, instStep := 1, elems := 1, width := 128,
    flds := [Reg.LULL_FAULT_KIND, Reg.LULL_FAULT_TABLE, Reg.LULL_FAULT_INDEX, Reg.LULL_FAULT_DETAIL, Reg.LULL_FAULT_SEC] }

/-! CNT_CFG: class 16 (CNT), attribute 0x1, objects 0 to 71, 8 element(s), 32 bits: R438, 20_calibration_diagnostics.md. -/
def Reg.CNT_CFG_EN : Fld :=
  { cls := 16, attr := 1, lo := 31, width := 1, acc := .tx, rst := 0 }
def Reg.CNT_CFG_BYTES : Fld :=
  { cls := 16, attr := 1, lo := 30, width := 1, acc := .tx, rst := 0 }
def Reg.CNT_CFG_EVENT : Fld :=
  { cls := 16, attr := 1, lo := 16, width := 12, acc := .tx, rst := 0 }
def Reg.CNT_CFG_SEL : Fld :=
  { cls := 16, attr := 1, lo := 0, width := 16, acc := .tx, rst := 65535 }

/-- R438, 20_calibration_diagnostics.md. -/
def Attr.CNT_CFG : AttrDef :=
  { cls := 16, attr := 1, instLo := 0, instHi := 71, instStep := 1, elems := 8, width := 32,
    flds := [Reg.CNT_CFG_EN, Reg.CNT_CFG_BYTES, Reg.CNT_CFG_EVENT, Reg.CNT_CFG_SEL] }

/-! CNT_VALUE: class 16 (CNT), attribute 0x2, objects 0 to 71, 8 element(s), 64 bits: R438, 20_calibration_diagnostics.md. -/
def Reg.CNT_VALUE_WRAPPED : Fld :=
  { cls := 16, attr := 2, lo := 48, width := 1, acc := .w1c, rst := 0 }
def Reg.CNT_VALUE_VALUE : Fld :=
  { cls := 16, attr := 2, lo := 0, width := 48, acc := .ro, rst := 0 }

/-- R438, 20_calibration_diagnostics.md. -/
def Attr.CNT_VALUE : AttrDef :=
  { cls := 16, attr := 2, instLo := 0, instHi := 71, instStep := 1, elems := 8, width := 64,
    flds := [Reg.CNT_VALUE_WRAPPED, Reg.CNT_VALUE_VALUE] }

/-! CNT_SNAP: class 16 (CNT), attribute 0x3, objects 0 to 71, 8 element(s), 64 bits: R438, 20_calibration_diagnostics.md. -/
def Reg.CNT_SNAP_WRAPPED : Fld :=
  { cls := 16, attr := 3, lo := 48, width := 1, acc := .ro, rst := 0 }
def Reg.CNT_SNAP_VALUE : Fld :=
  { cls := 16, attr := 3, lo := 0, width := 48, acc := .ro, rst := 0 }

/-- R438, 20_calibration_diagnostics.md. -/
def Attr.CNT_SNAP : AttrDef :=
  { cls := 16, attr := 3, instLo := 0, instHi := 71, instStep := 1, elems := 8, width := 64,
    flds := [Reg.CNT_SNAP_WRAPPED, Reg.CNT_SNAP_VALUE] }

/-! CNT_GLOBAL: class 1 (DEV), attribute 0x70, objects 0 to 0, 1 element(s), 32 bits: R438, 20_calibration_diagnostics.md. -/
def Reg.CNT_GLOBAL_FREEZE : Fld :=
  { cls := 1, attr := 112, lo := 31, width := 1, acc := .rw, rst := 0 }
def Reg.CNT_GLOBAL_AUTO : Fld :=
  { cls := 1, attr := 112, lo := 30, width := 1, acc := .rw, rst := 0 }
def Reg.CNT_GLOBAL_AUTO_DOMAIN : Fld :=
  { cls := 1, attr := 112, lo := 28, width := 2, acc := .rw, rst := 0 }

/-- R438, 20_calibration_diagnostics.md. -/
def Attr.CNT_GLOBAL : AttrDef :=
  { cls := 1, attr := 112, instLo := 0, instHi := 0, instStep := 1, elems := 1, width := 32,
    flds := [Reg.CNT_GLOBAL_FREEZE, Reg.CNT_GLOBAL_AUTO, Reg.CNT_GLOBAL_AUTO_DOMAIN] }

/-! CNT_SNAP_INFO: class 1 (DEV), attribute 0x71, objects 0 to 0, 1 element(s), 128 bits: R438, 20_calibration_diagnostics.md. -/
def Reg.CNT_SNAP_INFO_TIME : Fld :=
  { cls := 1, attr := 113, lo := 32, width := 96, acc := .ro, rst := 0 }
def Reg.CNT_SNAP_INFO_SNAP_SEQ : Fld :=
  { cls := 1, attr := 113, lo := 0, width := 32, acc := .ro, rst := 0 }

/-- R438, 20_calibration_diagnostics.md. -/
def Attr.CNT_SNAP_INFO : AttrDef :=
  { cls := 1, attr := 113, instLo := 0, instHi := 0, instStep := 1, elems := 1, width := 128,
    flds := [Reg.CNT_SNAP_INFO_TIME, Reg.CNT_SNAP_INFO_SNAP_SEQ] }

/-! THERM_TEMP: class 1 (DEV), attribute 0x78, objects 0 to 0, 8 element(s), 16 bits: R455, 21_electrical_package.md. -/
def Reg.THERM_TEMP : Fld :=
  { cls := 1, attr := 120, lo := 0, width := 16, acc := .ro, rst := 0 }

/-- R455, 21_electrical_package.md. -/
def Attr.THERM_TEMP : AttrDef :=
  { cls := 1, attr := 120, instLo := 0, instHi := 0, instStep := 1, elems := 8, width := 16,
    flds := [Reg.THERM_TEMP] }

/-! THERM_CFG: class 1 (DEV), attribute 0x79, objects 0 to 0, 1 element(s), 32 bits: R455, 21_electrical_package.md. -/
def Reg.THERM_CFG_WARN_C : Fld :=
  { cls := 1, attr := 121, lo := 8, width := 8, acc := .tx, rst := 110, chk := .range 60 120 }
def Reg.THERM_CFG_HYST : Fld :=
  { cls := 1, attr := 121, lo := 0, width := 8, acc := .tx, rst := 5, chk := .range 1 20 }

/-- R455, 21_electrical_package.md. -/
def Attr.THERM_CFG : AttrDef :=
  { cls := 1, attr := 121, instLo := 0, instHi := 0, instStep := 1, elems := 1, width := 32,
    flds := [Reg.THERM_CFG_WARN_C, Reg.THERM_CFG_HYST] }

/-! THERM_STATUS: class 1 (DEV), attribute 0x7a, objects 0 to 0, 1 element(s), 32 bits: R455, 21_electrical_package.md. -/
def Reg.THERM_STATUS_WARN_NOW : Fld :=
  { cls := 1, attr := 122, lo := 31, width := 1, acc := .ro, rst := 0 }
def Reg.THERM_STATUS_WARN_SEEN : Fld :=
  { cls := 1, attr := 122, lo := 30, width := 1, acc := .w1c, rst := 0 }
def Reg.THERM_STATUS_TRIP : Fld :=
  { cls := 1, attr := 122, lo := 29, width := 1, acc := .w1c, rst := 0 }
def Reg.THERM_STATUS_HOTTEST : Fld :=
  { cls := 1, attr := 122, lo := 16, width := 3, acc := .ro, rst := 0 }
def Reg.THERM_STATUS_MAX_TEMP : Fld :=
  { cls := 1, attr := 122, lo := 0, width := 16, acc := .ro, rst := 0 }

/-- R455, 21_electrical_package.md. -/
def Attr.THERM_STATUS : AttrDef :=
  { cls := 1, attr := 122, instLo := 0, instHi := 0, instStep := 1, elems := 1, width := 32,
    flds := [Reg.THERM_STATUS_WARN_NOW, Reg.THERM_STATUS_WARN_SEEN, Reg.THERM_STATUS_TRIP, Reg.THERM_STATUS_HOTTEST, Reg.THERM_STATUS_MAX_TEMP] }

/-! OSC_CFG: class 1 (DEV), attribute 0x7b, objects 0 to 0, 1 element(s), 32 bits: R449, 21_electrical_package.md. -/
def Reg.OSC_CFG_OSC_KHZ : Fld :=
  { cls := 1, attr := 123, lo := 0, width := 17, acc := .tx, rst := 25000, chk := .range 10000 100000 }

/-- R449, 21_electrical_package.md. -/
def Attr.OSC_CFG : AttrDef :=
  { cls := 1, attr := 123, instLo := 0, instHi := 0, instStep := 1, elems := 1, width := 32,
    flds := [Reg.OSC_CFG_OSC_KHZ] }

/-- The attributes of class DEV. -/
def attrsOfDev : List AttrDef :=
  [Attr.BARO_MARGIN, Attr.BARO_MIN, Attr.BARO_CFG, Attr.BARO_STATUS, Attr.ARB_CFG, Attr.ARB_STATUS, Attr.TRAP_CFG, Attr.TRAP_RATE, Attr.POOL_CFG, Attr.POOL_USED, Attr.POOL_WMARK, Attr.SHARED_SIZE, Attr.SHARED_USED, Attr.RED_PROF, Attr.TDC_STATUS, Attr.FAB_CFG, Attr.FAB_STATUS, Attr.COAL_CFG, Attr.CMD_CFG, Attr.CMD_IP4, Attr.CMD_IP6, Attr.DEV_MAC, Attr.NOTIFY_DEST, Attr.HOST_TRAP, Attr.TXN_CFG, Attr.PWR_CFG, Attr.PWR_STATUS, Attr.BOOT_CFG, Attr.BOOT_LIST, Attr.KA_TIME, Attr.KA_FLAGS, Attr.CNT_GLOBAL, Attr.CNT_SNAP_INFO, Attr.THERM_TEMP, Attr.THERM_CFG, Attr.THERM_STATUS, Attr.OSC_CFG]

/-- The attributes of class PORT. -/
def attrsOfPort : List AttrDef :=
  [Attr.PORT_CFG, Attr.MGT_CFG, Attr.PORT_STATUS, Attr.EIDLE_CFG, Attr.OPT_MAP, Attr.OPT_RAW, Attr.OPT_DIAG, Attr.FP_CFG, Attr.PCP_MAP, Attr.ABORT_STAT, Attr.IN_BUF, Attr.FC_CFG, Attr.IN_STAT, Attr.SCHED_CFG, Attr.SCHED_STAT, Attr.L2_CFG, Attr.TS_DELAY, Attr.ASYM_CFG, Attr.LINK_DELAY, Attr.TS_CFG, Attr.PTP_PORT_CFG, Attr.PTP_PORT_STATUS, Attr.ESMC_STATUS, Attr.FAB_PORT_CFG, Attr.FAB_PORT_STATUS, Attr.FAB_CREDIT, Attr.CMD_PORT, Attr.MGT_CMD_PORT]

/-- The attributes of class LANE. -/
def attrsOfLane : List AttrDef :=
  [Attr.OCT_CLK, Attr.LANE_CFG, Attr.LANE_STATUS, Attr.PHM_CFG, Attr.PHM_PHASE, Attr.PHM_FREQ, Attr.PHM_STATUS, Attr.PHM_GRID]

/-- The attributes of class QUEUE. -/
def attrsOfQueue : List AttrDef :=
  [Attr.Q_BUF, Attr.MGT_Q_BUF, Attr.Q_DEPTH, Attr.Q_WMARK]

/-- The attributes of class SHAPER. -/
def attrsOfShaper : List AttrDef :=
  [Attr.SHP_RATE, Attr.SHP_BURST, Attr.SHP_STAT]

/-- The attributes of class GATE. -/
def attrsOfGate : List AttrDef :=
  [Attr.ADMIN_LIST, Attr.ADMIN_LEN, Attr.ADMIN_BASE, Attr.ADMIN_CYCLE, Attr.ADMIN_EXT, Attr.GATE_CTRL, Attr.OPER_LIST, Attr.OPER_LEN, Attr.OPER_BASE, Attr.OPER_CYCLE, Attr.OPER_EXT, Attr.CHANGE_TIME, Attr.GATE_STATUS]

/-- The attributes of class TBL. -/
def attrsOfTbl : List AttrDef :=
  [Attr.TBL_USED, Attr.TBL_LOCK, Attr.TBL_GEN, Attr.LOCK_MS, Attr.EM_SEED0, Attr.EM_SEED1, Attr.EM_CTRL, Attr.EM_STATUS, Attr.AGE_UNIT, Attr.ROUTER_MAC, Attr.SG_ADMIN_LIST, Attr.SG_ADMIN_LEN, Attr.SG_ADMIN_BASE, Attr.SG_ADMIN_CYCLE, Attr.SG_CTRL, Attr.SG_OPER_LIST, Attr.SG_OPER_LEN, Attr.SG_OPER_BASE, Attr.SG_OPER_CYCLE, Attr.SG_STATUS]

/-- The attributes of class TIME. -/
def attrsOfTime : List AttrDef :=
  [Attr.TB_INCR, Attr.BASE_INCR, Attr.ADJ, Attr.SERVO_CTRL, Attr.JUMP_TH, Attr.TIME_STATUS, Attr.PENDING_JUMP, Attr.STEP_SUM, Attr.TICKS, Attr.HPI_GAIN, Attr.HPI_OFFSET, Attr.HPI_INTEG, Attr.STAMP_OVF, Attr.PTP_INST, Attr.PTP_CLASS, Attr.PTP_PARENT, Attr.HO_CFG, Attr.SEL_CFG, Attr.SEL_STATUS, Attr.HO_STATUS, Attr.SERVO_PARAM]

/-- The attributes of class SYN. -/
def attrsOfSyn : List AttrDef :=
  [Attr.SYN_CFG, Attr.SYN_CFG0, Attr.SYN_NOM, Attr.SYN_NOM0, Attr.SYN_LIMITS, Attr.SYN_LOCK, Attr.SYN_STATUS, Attr.SYN_FREQ, Attr.SYN_PHERR, Attr.SYN_BUILDOUT, Attr.SYN_SPUR, Attr.SYN_BW_EFF, Attr.SYN_OWNER, Attr.SYN_RAMP_CTRL, Attr.RAMP_START, Attr.SYN_RAMP_PROF, Attr.SYN_VREQ, Attr.ENC_POS, Attr.CKO_CFG, Attr.CKO_DIV, Attr.CKO_ALIGN, Attr.CKO_DELAY, Attr.CKO_STATUS, Attr.CKO_PHASE]

/-- The attributes of class REF. -/
def attrsOfRef : List AttrDef :=
  [Attr.REF_IN_CFG, Attr.RPHM_CFG, Attr.RPHM_PHASE, Attr.RPHM_FREQ, Attr.RPHM_STATUS, Attr.RPHM_GRID, Attr.REF_CFG, Attr.REF_CFG_IN, Attr.REF_LIMITS, Attr.REF_STATUS, Attr.REF_MEAS, Attr.REF_OFFSET, Attr.REF_TOFF]

/-- The attributes of class EVT. -/
def attrsOfEvt : List AttrDef :=
  [Attr.EVI_CFG, Attr.EVI_DELAY, Attr.EVI_FIFO, Attr.EVI_STATUS, Attr.IVL_CFG, Attr.IVL_WIN, Attr.IVL_SAMPLES, Attr.IVL_STATS, Attr.EVO_CFG, Attr.EVO_DELAY, Attr.EVO_REQ, Attr.EVO_PER_START, Attr.EVO_PER_CFG, Attr.EVO_STATUS, Attr.EVO_READBACK, Attr.PPO_CFG, Attr.PPO_PULSE, Attr.PPO_OFFSET, Attr.PPO_DELAY]

/-- The attributes of class CYC. -/
def attrsOfCyc : List AttrDef :=
  [Attr.CD_CFG, Attr.CD_START, Attr.CD_STATUS, Attr.CD_FENCE, Attr.CD_CYCLE, Attr.GATHER_LIST, Attr.AXIS_FAULT, Attr.ENG_CFG, Attr.ENG_STATUS, Attr.CNT_RIGHTS, Attr.PROG_INFO, Attr.PROG_STANDBY]

/-- The attributes of class FAB. -/
def attrsOfFab : List AttrDef :=
  [Attr.FAB_NODE, Attr.FAB_PIN]

/-- The attributes of class TWIN. -/
def attrsOfTwin : List AttrDef :=
  [Attr.TWIN_CFG, Attr.TWIN_STATUS, Attr.CKPT_CFG, Attr.CKPT_LIST, Attr.HANDOVER_BASE, Attr.HANDOVER_CTRL]

/-- The attributes of class JRN. -/
def attrsOfJrn : List AttrDef :=
  [Attr.JRN_STATUS, Attr.JRN_SEAL, Attr.JRN_CFG]

/-- The attributes of class CNT. -/
def attrsOfCnt : List AttrDef :=
  [Attr.CNT_CFG, Attr.CNT_VALUE, Attr.CNT_SNAP]

/-- The attributes of class CAL. -/
def attrsOfCal : List AttrDef :=
  [Attr.CAL_CFG, Attr.CAL_REF, Attr.CAL_KIT, Attr.CAL_STATUS, Attr.CAL_LAST]

/-- The attributes of class TEST. -/
def attrsOfTest : List AttrDef :=
  [Attr.LULL_CFG, Attr.LULL_STATUS, Attr.LULL_FAULT]

/-- The attributes of class SEC. -/
def attrsOfSec : List AttrDef :=
  [Attr.KEY_STATE]

/-- The attributes of class MBX. -/
def attrsOfMbx : List AttrDef :=
  [Attr.MBX_CFG, Attr.MBX_STAT, Attr.DB_CMD, Attr.DB_MAP, Attr.DB_RESULT]

/-- Every attribute the spec describes, class by class (R9). -/
def attrTable : List AttrDef :=
  attrsOfDev ++ attrsOfPort ++ attrsOfLane ++ attrsOfQueue ++ attrsOfShaper ++ attrsOfGate ++ attrsOfTbl ++ attrsOfTime ++ attrsOfSyn ++ attrsOfRef ++ attrsOfEvt ++ attrsOfCyc ++ attrsOfFab ++ attrsOfTwin ++ attrsOfJrn ++ attrsOfCnt ++ attrsOfCal ++ attrsOfTest ++ attrsOfSec ++ attrsOfMbx

end Sys2Proof.Machine
end

