-- ==== Sys2Proof/Machine/State.lean ====
section
/-! DEFINITION. The state of the block: every register, table, queue, counter, pin and memory the spec gives it, as plain data, and
the queue of commands that wait. Each part names the rules it holds. -/

namespace Sys2Proof.Machine

/-! ### Replies, notifications and what else leaves the block -/

/-- Status codes of R463. -/
inductive Status where
  | ok | badOpcode | authFail | noAccess | replay | badParam | busy | domainOff | txnNone | txnConflict | locked
  | resourceConflict | tableFull | timePast | roleState | internal
  deriving DecidableEq, Repr, Inhabited

/-- The codes of R463, in the table's order. -/
def Status.code : Status → Nat
  | .ok => 0 | .badOpcode => 1 | .authFail => 2 | .noAccess => 3 | .replay => 4 | .badParam => 5 | .busy => 6
  | .domainOff => 7 | .txnNone => 8 | .txnConflict => 9 | .locked => 10 | .resourceConflict => 11 | .tableFull => 12
  | .timePast => 13 | .roleState => 14 | .internal => 15

/-- A TLV of a payload (R351): type, value length in bytes, value as a big-endian number; `unit` is the bytes of one indivisible
unit of its content where R352 lets a reply divide it (0: indivisible). -/
structure Tlv where
  typ : Nat
  len : Nat
  val : Nat
  unit : Nat := 0
  deriving DecidableEq, Repr, Inhabited

/-- The error marker of R57: a 64b/66b block as its sync header and payload (block type in the low byte, then eight 7-bit characters), or an
8b/10b code group with whether running disparity is positive after it. -/
inductive Marker where
  | block (sync : BitVec 2) (payload : BitVec 64)
  | group (code : BitVec 10) (after : Bool)
  deriving DecidableEq, Repr, Inhabited

/-- What a clock output toggles at (R218): NTO cycles of a period and of its high level, inverted for FORMAT 1, and its DRIVE code. -/
structure Wave where
  div : Nat
  high : Nat
  inverted : Bool
  drive : Nat
  deriving DecidableEq, Repr, Inhabited

/-- What a transmitter sends or does outside frames: n signal ordered-set blocks (type, O code, D1 to D3), a PRBS7 burst of a length in units of
10 ps, n idle blocks, idle until the next frame (R66, R67), or its driver squelched in a near-end loopback (R69). -/
inductive LineSig where
  | orderedSets (n typ o d : Nat)
  | prbs7 (len : Nat)
  | idleBlocks (n : Nat)
  | idle
  | squelch (on : Bool)
  deriving DecidableEq, Repr, Inhabited

/-- What an observer at the package boundary sees, newest first in `Chip.outs` (the model's own record, log entry 5). -/
inductive Out where
  /-- A clock output changes what it drives (R218): a waveform from a rising edge on (at an instant of the grid where an ALIGN 2 restart gives one, in
  2^-16 ns), or, from the end of a high level on, a level. -/
  | clock (out : Nat) (wave : Option Wave) (idle : Nat) (start : Option Nat)
  /-- A reply (R352): the request, its opcode, the status, the TXN_ID in its header, its send time (2^-16 ns), its TLVs. -/
  | reply (req : Req) (op : Nat) (status : Status) (txn sent : Nat) (tlvs : List Tlv)
  /-- A notification to NOTIFY_DEST element `elem` with its SEQUENCE, EVENT, coalescing fields and CAUSE (R365, R405). -/
  | notify (elem seq event cls firstObj count instances lastNs window : Nat) (cause : Option (Nat × Nat))
  /-- The value a host register read returns (R366, R369, R370). -/
  | hostRead (v : Nat)
  /-- A PCIe completer abort (R370). -/
  | abort
  /-- An MSI-X vector raised (R367). -/
  | msix (vector : Nat)
  /-- Bytes the device wrote to a host buffer: ring (1 reply, 2 delivery), descriptor index, bytes. -/
  | ringWrite (ring idx : Nat) (bytes : Bytes)
  /-- DONE written to a descriptor (R368): ring (0 command, 3 injection), descriptor index. -/
  | ringDone (ring idx : Nat)
  /-- Bytes the device wrote to host memory (TBL_DMA, DIAG_CAPTURE): address, bytes. -/
  | hostWrite (addr : Nat) (bytes : Bytes)
  /-- A frame's first bit leaves a port: port, class, bytes from DA, whether a fragment follows, stamp (2^-16 ns). -/
  | txStart (port cls : Nat) (bytes : Bytes) (stamp : Int)
  /-- A frame's last bit leaves a port. -/
  | txEnd (port : Nat)
  /-- A cut-through egress ends a frame with an error marker of its coding (R26, R57). -/
  | marker (port : Nat) (form : Marker)
  /-- A verify (`respond` false) or respond packet of the preemption protocol leaves a port (R123). -/
  | verify (port : Nat) (respond : Bool)
  /-- What a port's transmitter sends or does outside frames (R66, R69). -/
  | line (port : Nat) (what : LineSig)
  /-- A signal on a lane or pin: kind, object, value (LPI, electrical idle, TWIN_HOLD_OUT, an edge at an instant). -/
  | pin (kind obj : Nat) (v : Int)
  deriving DecidableEq, Repr, Inhabited

/-! ### Commands, transactions, journal, host interface -/

/-- A request packet waiting in the command queue (R364), with the number of host resets before it was taken. -/
structure Packet where
  via : Via
  bytes : Bytes
  era : Nat := 0
  deriving DecidableEq, Repr

/-- A parked request (R364): what it waits for is told by its command. -/
structure Parked where
  cmd : Instr
  deadline : Nat
  tag : Nat
  deriving DecidableEq, Repr

/-- A scope (R380): class, instance, unit. -/
structure Scope where
  cls : Nat
  inst : Nat
  unit : Nat
  deriving DecidableEq, Repr, Inhabited

/-- The states of R387. -/
inductive TxnState where
  | opened | waiting | scheduled | committed | rolledBack | rolledBackByDevice
  deriving DecidableEq, Repr, Inhabited

def TxnState.code : TxnState → Nat
  | .opened => 0 | .waiting => 1 | .scheduled => 2 | .committed => 3 | .rolledBack => 4 | .rolledBackByDevice => 5

/-- An open transaction (R375 to R387). `staged` is in staging order; `held` the scopes it holds; `wants` those still to take. -/
structure Txn where
  id : Nat
  req : Req
  state : TxnState := .opened
  staged : List Instr := []
  bytes : Nat := 0
  lastNamed : Nat := 0
  held : List Scope := []
  wants : List Scope := []
  waitFrom : Nat := 0
  mode : Nat := 0
  allowLate : Bool := false
  domain : Nat := 0
  time : Nat := 0
  checked : Bool := false
  readyAt : Nat := 0
  p : Nat := 0
  atTrigger : Bool := false
  lateBy : Nat := 0
  late : Bool := false
  order : Nat := 0
  lastStatus : Status := .ok
  deriving DecidableEq, Repr

/-- The outcome kept of a transaction that ended (R387). -/
structure TxnEnd where
  id : Nat
  slot : Nat
  state : TxnState
  status : Status
  bytes : Nat
  p : Nat
  deriving DecidableEq, Repr, Inhabited

/-- A journal record (R390), its fields in the record's order; TIME as 96 bits. -/
structure JRec where
  seq : Nat
  time : Nat
  role : Nat
  slot : Nat
  transport : Nat
  kind : Nat
  src : Nat
  txn : Nat
  op : Nat
  objs : Nat
  late : Bool
  force : Bool
  tbInvalid : Bool
  vbakLost : Bool
  info : Nat
  digest : Nat
  deriving DecidableEq, Repr, Inhabited

/-- The change journal (R389 to R394): ring and flash region, newest first. The sealed position stands in JRN_SEAL. -/
structure Jrn where
  ring : List JRec := []
  flash : List JRec := []
  digest : Nat := 0
  lastSpill : Nat := 0
  keepSeq : Nat := 0
  deriving DecidableEq, Repr, Inhabited

/-- One ring of R368. -/
structure Ring where
  base : Nat := 0
  size : Nat := 0
  en : Bool := false
  tail : Nat := 0
  head : Nat := 0
  deriving DecidableEq, Repr, Inhabited

/-- The PCIe endpoint's registers, windows and queues (R366 to R373). `rspRoom` and `dlvRoom` are the empty buffers offered, `era` counts host
resets. -/
structure Hif where
  err : Nat := 0
  cmd : Ring := {}
  rsp : Ring := {}
  inj : Ring := {}
  dlv : Ring := {}
  rspRoom : List Nat := []
  dlvRoom : List Nat := []
  rspWait : List (Nat × Bytes) := []
  injWait : List (Option (Nat × Bytes)) := []
  h2fStage : SMap Nat := []
  h2f : SMap Nat := []
  f2h : SMap Nat := []
  db : Nat := 0
  dbMask : Nat := 0
  embx : Nat := 0
  era : Nat := 0
  deriving DecidableEq, Repr

/-- One signature of the coalescer with its open window (R329). -/
structure CoalSig where
  event : Nat
  cls : Nat
  window : Nat
  endsAt : Nat
  count : Nat := 0
  firstObj : Nat := 0
  insts : List Nat := []
  lastNs : Nat := 0
  cause : Option (Nat × Nat) := none
  deriving DecidableEq, Repr, Inhabited

/-- The coalescer: open windows, the next window number of each signature, and the reserved entry's merged signatures;
the notification count of each NOTIFY_DEST element (R365); the port link-down holds of R330 and the upstream hold of R248. -/
structure Coal where
  sigs : List CoalSig := []
  winNo : SMap Nat := []
  merged : List Nat := []
  seqs : SMap Nat := []
  downUntil : SMap Nat := []
  supOn : Bool := false
  supUntil : Nat := 0
  deriving DecidableEq, Repr

/-! ### Timebase -/

/-- A step waiting for its tick (R169, R171): offset (2^-16 ns), source as PENDING_JUMP has it, the request it came from (none: the device), and
whether it is a jump that the request accepted. -/
structure PendStep where
  offset : Int
  source : Nat
  req : Option Req
  jump : Bool := false
  deriving DecidableEq, Repr

/-- The timebase (R161): the count in units of 2^-40 ns, steps not yet applied, a running DURATION (R166), and from which count of TICKS,
plus 1, both loop errors of a TDC channel have stayed within a raw step (0: they have not; R186). -/
structure Time where
  tb : Nat := 0
  steps : List PendStep := []
  durLeft : Nat := 0
  durOn : Bool := false
  durAfter : Int := 0
  lastJump : Nat := 0
  tdcFrom : SMap Nat := []
  deriving DecidableEq, Repr

/-! ### Calibration, Lull test, capture -/

/-- A stored calibrated value or a candidate: object ID and value (R431). -/
structure CalVal where
  obj : Nat
  val : Nat
  proc : Nat
  deriving DecidableEq, Repr, Inhabited

/-- One copy of the calibration set in MRAM (R431). -/
structure CalSet where
  valid : Bool := false
  count : Nat := 0
  lastTime : Nat := 0
  recs : List CalVal := []
  deriving DecidableEq, Repr, Inhabited

/-- The run in progress, the candidates, the two stored sets (R425 to R432), and the worst-corner counts of the Barometer cells (R36, R38): the
factory's references in MRAM, which no access changes (log entry 163). -/
structure Cal where
  run : Option (Req × Nat) := none
  cands : List CalVal := []
  setA : CalSet := {}
  setB : CalSet := {}
  baroRef : List Nat := List.replicate 32 1000
  deriving DecidableEq, Repr

/-- The Lull test: retired cells in MRAM, uncorrectable table words (table, index), engines under test. -/
structure Lull where
  retired : List Nat := []
  badWords : List (Nat × Nat) := []
  tdcMark : SMap Nat := []
  deriving DecidableEq, Repr

/-! ### Arbiters -/

/-- One arbiter (R43 to R49): internal freeze sources, the grant waiting for the next data phase, whether a data phase runs, the
wait counters by requester, requesters at the limit in the order they reached it, the last winner of each class plus 1, and when
FREEZE was set. -/
structure Arb where
  internal : Nat := 0
  granted : Option Nat := none
  busy : Bool := false
  waits : SMap Nat := []
  atLimit : List Nat := []
  lastWin : SMap Nat := []
  frozenAt : Nat := 0
  deriving DecidableEq, Repr, Inhabited

/-! ### The frame path, the pool and egress -/

/-- Charge sources of a cell (05_buffer_pool.md). -/
inductive Src where
  | shared | scatter | trap
  | queue (q : Nat)
  | ingress (p : Nat)
  | headroom (p : Nat)
  deriving DecidableEq, Repr, Inhabited

/-- The free list of a bank (R94): cells never taken yet come first, in ascending order, then the returned ones, oldest first. -/
structure Bank where
  fresh : Nat := 0
  back : List Nat := []
  deriving DecidableEq, Repr, Inhabited

/-- Where a target of a frame stands: waiting for confirmation, held behind an older stored frame (R88), in its queue, in a launch
slot, on the lane, or released. -/
inductive TSt where
  | pending | behind | queued | slot | sending | gone
  deriving DecidableEq, Repr, Inhabited

/-- One target of a frame (R80 to R91, R102): egress port (or trap queue), queue, the bytes that leave without FCS, the header
offset of a PTP message within them, launch time and stamp request tag. `choice` is R83's (0 not made, 1 cut-through, 2 stored);
`short` is how many bytes a rewrite removed, `trunc` marks a truncated mirror copy, `orig` the target an egress mirror copy was made of,
`te0` its queue's eligible time before it was selected unconfirmed (R24). -/
structure Tgt where
  port : Nat := 0
  queue : Nat := 0
  st : TSt := .pending
  cut : Bool := false
  choice : Nat := 0
  ses : Option Nat := none
  body : Bytes := []
  short : Nat := 0
  trunc : Bool := false
  orig : Option Nat := none
  te0 : Option Nat := none
  ptpAt : Nat := 0
  launch : Option Nat := none
  tag : Option Nat := none
  ord : Nat := 0
  flush : Bool := false
  headAt : Nat := 0
  held : Bool := false
  lossless : Bool := false
  deriving DecidableEq, Repr, Inhabited

/-- Where a frame came from. -/
inductive Origin where
  | received | device | injected | scatter | checkpoint | control
  deriving DecidableEq, Repr, Inhabited

/-- What lookup returned for a frame (R80), kept until its lookup point: the target ports as a mask; toward the fabric 1 a device
`dev` or 2 the group `grp` with the fabric ports `gmask` on the tree links; the VID in force and the untagged ports; the route entry of a routed frame; the
stream handle; launch time and stamp tag of the header. `raw` frames leave their inner frame as it is; `many` marks a
group's targets. -/
structure Look where
  mask : Nat := 0
  fab : Nat := 0
  dev : Nat := 0
  grp : Nat := 0
  gmask : Nat := 0
  vid : Nat := 0
  untag : Nat := 0
  route : Option Nat := none
  handle : Option Nat := none
  launch : Option Nat := none
  tag : Option Nat := none
  raw : Bool := false
  many : Bool := false
  deriving DecidableEq, Repr, Inhabited

/-- A meter's reservation of a frame (R30, R77): meter, 1 committed or 2 excess, bytes. -/
structure MtrUse where
  meter : Nat := 0
  bucket : Nat := 0
  bytes : Nat := 0
  deriving DecidableEq, Repr, Inhabited

/-- A frame in the device (R74 to R92). `zid` is the Zidom header it came
under. `mirs` are its mirror sessions with their entries, `seqEnt` its recovery stream's entry, both of its key point's generation (R80);
`metered` tells that a meter has coloured it; `tapped` that it has passed the gather taps (R259); `steps` and `pma` are STEP_COUNT and the class of its receive stamp then. `stage`: 0 arriving, 1 key point passed, 2 lookup point passed; `res`: 0 unresolved,
1 confirmed, 2 failed; `drop` is the head drop (0 none, 1 without a counter of its own, else the event code with `dropUnit`). -/
structure Frame where
  id : Nat := 0
  origin : Origin := .received
  port : Nat := 0
  kind : RxKind := .express
  bytes : Bytes := []
  stamp : Int := 0
  steps : Nat := 0
  pma : Bool := false
  cont : Int := 0
  startAt : Nat := 0
  zid : Option Nat := none
  stage : Nat := 0
  res : Nat := 0
  cutAt : Option Nat := none
  keyNo : Nat := 0
  keyTime : Nat := 0
  defPcp : Nat := 0
  cls : Nat := 0
  colour : Nat := 0
  vid : Nat := 0
  look : Look := {}
  drop : Nat := 0
  dropUnit : Nat := 0
  traps : List Nat := []
  sess : List Nat := []
  mirs : List (Nat × Nat) := []
  metered : Bool := false
  meters : List MtrUse := []
  sdu : Nat := 0
  sduFilter : Option Nat := none
  seqId : Option Nat := none
  seqNum : Nat := 0
  seqEnt : Nat := 0
  seqState : Nat := 0
  learn : Bool := false
  hits : List Nat := []
  counts : List (Nat × Nat) := []
  refused : List (Nat × Nat) := []
  retry : Bool := false
  lossless : Bool := false
  noCells : Bool := false
  tapped : Bool := false
  cells : List (Nat × Src) := []
  tgts : List Tgt := []
  deriving DecidableEq, Repr, Inhabited

/-- What is known of a frame from its transmit stamp on (R130, R182): stamp, STEP_COUNT and class of the stamp then, E, C_tx − C_rx, whether a
step fell between; since when it is on the lane, and the bytes that earlier fragments have sent. -/
structure TxMark where
  stamp : Int := 0
  steps : Nat := 0
  pma : Bool := false
  e : Nat := 0
  res : Int := 0
  stepped : Bool := false
  from_ : Nat := 0
  done : Nat := 0
  deriving DecidableEq, Repr, Inhabited

/-- One port's egress and link machinery: the frame on the lane and a suspended one (frame, target) with their stamps, a control frame on the
lane, when the last frame and its gap end (R129), pause ends by class (R112), launch slots (R126), flow-control frames due and last sent (R101),
the verify protocol (R123), a hold left by an earlier gate list (R124), and the low-power timers (R64 to R67) with the partner's reported state.
`lpTx` is 0 active, 1 LPI, 4 electrical idle, 5 waking from it, 6 waking from LPI, 7 sending the ordered sets, and `lpAt` when it began to
send or to wake, `lpSent` how many parts of the wake sequence have begun. `gridAt` is the instant its block grid is laid from (R128), `loopQ` what a
near-end loopback has sent and not yet received (R69). -/
structure PortSt where
  tx : Option (Nat × Nat) := none
  ctl : Bool := false
  susp : Option (Nat × Nat) := none
  out : TxMark := {}
  rest : TxMark := {}
  freeAt : Nat := 0
  pausedTo : SMap Nat := []
  slots : List (Nat × Nat) := []
  fcDue : Option Nat := none
  fcOn : Nat := 0
  fcLast : Nat := 0
  verTries : Nat := 0
  verAt : Nat := 0
  hold : Bool := false
  respDue : Bool := false
  credDue : Bool := false
  verDue : Bool := false
  emptySince : Nat := 0
  idleArm : Bool := false
  lpTx : Nat := 0
  lpRx : Nat := 0
  lpAt : Nat := 0
  peerEidle : Bool := false
  peerAt : Nat := 0
  peerWake : Nat := 0
  lldpAt : Nat := 0
  lldpDue : Bool := false
  retrain : Bool := false
  far : Bool := false
  lpSent : Nat := 0
  gridAt : Nat := 0
  loopQ : List (RxKind × Bytes) := []
  deriving DecidableEq, Repr, Inhabited

/-- A meter's buckets in units of 10^-8 byte, when last filled, and the bytes reserved in each (R30, R77). -/
structure MtrSt where
  c : Nat := 0
  e : Nat := 0
  at_ : Nat := 0
  resC : Nat := 0
  resE : Nat := 0
  deriving DecidableEq, Repr, Inhabited

/-- A recovery stream's history (R29, R150): whether a number is held, the number, the history vector (bit 0 the number itself),
when a frame last passed, and numbers pending with the frame that carries each. -/
structure Rcov where
  live : Bool := false
  seq : Nat := 0
  hist : Nat := 0
  lastAt : Nat := 0
  pend : List (Nat × Nat) := []
  deriving DecidableEq, Repr, Inhabited

/-- A learning request (R155): address, VID, DEST value (port, or 2^14 + group of a device target), in confirmation order. -/
structure LearnReq where
  sa : Nat := 0
  vid : Nat := 0
  grp : Bool := false
  dest : Nat := 0
  deriving DecidableEq, Repr, Inhabited

/-- A segment lock (R152): 0 none, 1 draining, 2 held; the key slot and when it was set. -/
structure SegLock where
  state : Nat := 0
  slot : Nat := 0
  since : Nat := 0
  deriving DecidableEq, Repr, Inhabited

/-- A table change prepared for a transaction (R136): its ID, table and index, whether an entry is written there (else one goes), the stamp
a staged STAMP write gives the index (R137), and whether and when it has flipped. -/
structure Prep where
  txn : Nat := 0
  tbl : Nat := 0
  index : Nat := 0
  isNew : Bool := false
  stamp : Option Nat := none
  done : Bool := false
  flippedAt : Nat := 0
  deriving DecidableEq, Repr, Inhabited

/-- A barrier (R160): its request, the key number below which frames count, and its deadline. -/
structure Barrier where
  req : Req
  keyNo : Nat
  deadline : Nat
  deriving DecidableEq, Repr

/-- Table 6 at reset (R90): TRUNC_LEN is 128 in every session, the rest 0, in both copies (R137; log entry 177). -/
def sessionsAtReset : SMap Nat := (List.range 2).flatMap fun k => (List.range 16).map fun i => ((12 + k) * 2 ^ 20 + i, 128 * 2 ^ 16)

/-- The tables' entries (R133; key tbl × 2^20 + copy × 2^19 + index), stamps of tables 5 and 6, selectors of their copies (R137),
bucket versions (R140), and the machinery about them: `hitHeld` are the stamp refreshes, as (table, index), that a freeze holds (R47). -/
structure Tables where
  ent : SMap Nat := sessionsAtReset
  stamps : SMap Nat := []
  sel : SMap Nat := []
  ver : SMap Nat := []
  locks : SMap SegLock := []
  preps : List Prep := []
  learnQ : List LearnReq := []
  learnParked : List LearnReq := []
  learnHeld : List LearnReq := []
  hitHeld : List (Nat × Nat) := []
  meters : SMap MtrSt := []
  rcov : SMap Rcov := []
  barriers : List Barrier := []
  deriving DecidableEq, Repr

/-- The frame path: frames present, banks, rotation of each writer (R94), queues as (frame, target) in enqueue order, counters of
frames, keys and enqueues, when a tail was last checked and of which port (R23), ports, shaper eligible times in 2^-16 ns and queues that wait in the
calendar for theirs (R114), random early drop averages in 2^-16 cells and the period of 256 ticks of their last update (R103), the
trap rate buckets, the stamp report queue (R182), and the credit counts SENT, RET, the partner's RET, the RET last reported and when (R325), by port × 8
+ class (and by port). -/
structure Path where
  frames : List Frame := []
  banks : SMap Bank := []
  rot : SMap Nat := []
  queues : SMap (List (Nat × Nat)) := []
  frameCtr : Nat := 0
  tailAt : Nat := 0
  tailPort : Nat := 0
  keyCtr : Nat := 0
  ordCtr : Nat := 0
  ports : SMap PortSt := []
  te : SMap Nat := []
  cal : SMap Bool := []
  redAvg : SMap Nat := []
  redN : Nat := 0
  trapTok : SMap Nat := []
  trapAt : SMap Nat := []
  reports : List Nat := []
  credSent : SMap Nat := []
  credRet : SMap Nat := []
  credGot : SMap Nat := []
  credRep : SMap Nat := []
  credAt : SMap Nat := []
  deriving DecidableEq, Repr

/-! ### The fabric -/

/-- A record of the topology database (R320): its links as (PEER_ID, LOCAL_PORT, PEER_PORT), and when it was last refreshed. -/
structure FabRec where
  serial : Nat := 0
  idValid : Bool := false
  twin : Nat := 0
  dev : Nat := 0
  prio : Nat := 0
  tstate : Nat := 0
  fstate : Nat := 0
  seq : Nat := 0
  links : List (Nat × Nat × Nat) := []
  seenAt : Nat := 0
  deriving DecidableEq, Repr, Inhabited

/-- What a fabric port knows of its partner (R319): whether a hello has come within 3 HELLO_MS and when, how many qualified in a
row, the SERIAL, EIDLE_EN and CREDIT of the last one, and when the port last sent its own. -/
structure Hello where
  heard : Bool := false
  heardAt : Nat := 0
  good : Nat := 0
  serial : Nat := 0
  credit : Bool := false
  sent : Bool := false
  sentAt : Nat := 0
  deriving DecidableEq, Repr, Inhabited

/-- The fabric (R314 to R327): the ID kept in MRAM, stored records by rising SERIAL, the device's SEQ, its record as last sent and
when, the database the routes in force were computed from, those routes, and the ports' hellos. -/
structure Fab where
  storedId : Option Nat := none
  recs : List FabRec := []
  seq : Nat := 0
  sent : Option FabRec := none
  sentAt : Nat := 0
  graph : List FabRec := []
  routes : List (Option (Nat × List Nat)) := []
  hello : SMap Hello := []
  deriving DecidableEq, Repr


/-! ### Loopbacks and optical modules -/

/-- A module as its polls have found it (R70, R72): failed polls in a row, the flag bytes last read, when last polled. -/
structure Opt where
  fails : Nat := 0
  flags : Nat := 0
  polledAt : Nat := 0
  deriving DecidableEq, Repr, Inhabited



/-! ### Phase measurement and events -/

/-- A phase monitor (R188 to R191): whether it has a first sample since its last restart, its continuous time C_0 and index n of the last
sample in half periods, PHASE (2^-16 ns), the block's start and samples so far, and when an edge was last seen; edges observed since the last
sample, the continuous time of the last PMA frame stamp on its lane; for DPLL0 (R206): where the first sample lay on the tick grid (2^-16 ns / 25),
the phase error of the last sample against that grid (2^-16 ns), and samples DPLL0 has not used yet. -/
structure Phm where
  live : Bool := false
  c0 : Int := 0
  n : Int := 0
  phase : Int := 0
  blkPhase : Int := 0
  blkN : Int := 0
  cnt : Nat := 0
  seenAt : Nat := 0
  obs : Nat := 0
  stampC : Option Int := none
  g0 : Int := 0
  gridErr : Int := 0
  got : Nat := 0
  deriving DecidableEq, Repr, Inhabited

/-- An event input (R192 to R195): accepted edges, whether there has been one and its continuous time, that of
its stamp, that of the last edge its channel took (R185), its FIFO (oldest first), and
whether records were lost since the last one stored. -/
structure Evi where
  seq : Nat := 0
  seen : Bool := false
  lastC : Int := 0
  stampC : Int := 0
  edgeC : Option Int := none
  fifo : List Nat := []
  ovf : Bool := false
  deriving DecidableEq, Repr, Inhabited

/-- What the last sample of a lane's monitor replaced (R188): whether one is kept, the sample's continuous time, the monitor and its registers before it. -/
structure PhmOld where
  held : Bool := false
  cont : Int := 0
  phm : Phm := {}
  phase : Nat := 0
  freq : Nat := 0
  grid : Nat := 0
  gridValid : Bool := false
  freqValid : Bool := false
  deriving DecidableEq, Repr, Inhabited

/-- A start or stop edge at an interval unit: continuous time (an INVALID edge's by its tick, log entry 202), stamp (2^-16 ns), INVALID. -/
structure IvlEdge where
  c : Int := 0
  t : Nat := 0
  bad : Bool := false
  deriving DecidableEq, Repr, Inhabited

/-- An interval unit (R196 to R198): undecided starts and stops in time order, MODE 1's last start, the running block, samples and
the sample FIFO. -/
structure Ivl where
  starts : List IvlEdge := []
  stops : List IvlEdge := []
  last : Option IvlEdge := none
  n : Nat := 0
  coin : Nat := 0
  ord : Nat := 0
  miss : Nat := 0
  sum : Int := 0
  sq : Nat := 0
  mn : Int := 0
  mx : Int := 0
  seq : Nat := 0
  fifo : List Nat := []
  deriving DecidableEq, Repr, Inhabited

/-- A queued edge of an event output: T_adj and T (2^-16 ns), and the code of EVO_REQ ACTION for one edge (0, 1, 2). -/
structure EvoEdge where
  adj : Int := 0
  t : Nat := 0
  act : Nat := 0
  deriving DecidableEq, Repr, Inhabited

/-- An event output or pulse output (R199 to R204, R224, R225): queued requests in time order, each with its edges, and the first instant the
periodic generator may still place; of a pulse output its inactive level and when its pulse ends. -/
structure Evo where
  queue : List (List EvoEdge) := []
  perFrom : Nat := 0
  rest : Nat := 0
  ends : Int := 0
  deriving DecidableEq, Repr, Inhabited



/-! ### Synthesisers -/

/-- The ramp generator and encoder of a loop (R215 to R217, R222). `out` is its output in units of 2^-32 · 5^-11 ppb or Hz, `target` signed
32.32, `slew` that of the target (0: SYN_LIMITS); the running profile entry, the end of its HOLD, queued requests (start, target,
slew); the position X with 48 fraction bits, and quarter edges to be placed (twice the new quarter, plus 1 where X rises; instant). -/
structure Gen where
  out : Int := 0
  target : Int := 0
  slew : Nat := 0
  prof : Option Nat := none
  reached : Bool := false
  holdTo : Option Nat := none
  reqs : List (Nat × Int × Nat) := []
  x : Int := 0
  latched : Int := 0
  edges : List (Int × Int) := []
  deriving DecidableEq, Repr, Inhabited

/-- An entry of the band-search cache (R214): NOM, the Tj at which it was found, its band code (bits 39 to 32) and tuning word. -/
structure HopBand where
  nom : Nat := 0
  tj : Int := 0
  word : Nat := 0
  deriving DecidableEq, Repr, Inhabited

/-- A loop (R207 to R214): y_k and i_k in units of 2^-32 · 5^-11 ppb, the offset the frequency stage or holdover moves to, the build-out in
2^-16 · 10^-11 ns, consecutive updates inside LOCK_WIN and beyond 4 × LOCK_WIN, whether the frequency check has passed and failures in
a row, when it last ran and when the loop last updated; how far FOLLOW_ADJ, the ramp and ALIGN have moved its phase target (in one tick of a unit of
y), how far ALIGN has still to move it and at which rate (R206, R215, R220); the band and tuning word in force, and the band-search cache, latest use
first. -/
structure Dpll where
  y : Int := 0
  i : Int := 0
  goal : Int := 0
  build : Int := 0
  inWin : Nat := 0
  outWin : Nat := 0
  fchkOk : Bool := false
  fchkBad : Nat := 0
  chkAt : Nat := 0
  updAt : Nat := 0
  tgt : Int := 0
  rem : Int := 0
  vel : Int := 0
  word : Nat := 0
  cache : List HopBand := []
  gen : Gen := {}
  deriving DecidableEq, Repr, Inhabited

/-- A clock output (R218 to R221): whether an ALIGN 2 restart is awaited, since when it is muted, the grid instant at which it restarts
(2^-16 ns), whether ALIGN 1 has yet to bring it to the grid, and what it drives: a waveform, or a level; whether an encoder output waits for the end of
a high level to stop. -/
structure Cko where
  wait : Bool := false
  mutedAt : Nat := 0
  startAt : Nat := 0
  realign : Bool := false
  wave : Option Wave := none
  level : Nat := 0
  stopping : Bool := false
  deriving DecidableEq, Repr, Inhabited


/-! ### Carillon -/

/-- A reference (R235 to R244): healthy and since when, qualified, ever qualified since reset or since R242 restarted it, outvoted (bit 0 frequency, bit 1 time), reported qualified
by the last checkpoint (R346), held by the jump guard (and its jump discarded, or accepted so that the next switch finds phase 0), beyond a hard limit; its 10 s window: running,
start, RESTARTS, phase and sample index then, and the integrals of DPLL0's offset and of ADJ then; whether a window has completed, and TOFF at its end. -/
structure Ref where
  healthy : Bool := false
  since : Nat := 0
  qual : Bool := false
  ever : Bool := false
  out : Nat := 0
  pre : Bool := false
  jump : Bool := false
  dropped : Bool := false
  zero : Bool := false
  hard : Bool := false
  winOn : Bool := false
  winAt : Nat := 0
  winR : Nat := 0
  winPhase : Int := 0
  winN : Int := 0
  winY : Int := 0
  winA : Int := 0
  measured : Bool := false
  toffWin : Int := 0
  deriving DecidableEq, Repr, Inhabited

/-- A selector (R237 to R240): whether it has been LOCKED since reset and its value when it last declared lock, the ring of one entry per
second (time, value), newest first, when it last switched, when it entered HOLDOVER, its holdover value, consecutive offsets within
TLOCK_WIN, the running second (start and integral then), the phase taken under its reference's policy (2^-16 · 10^-11 ns) with when it was last worked off, whether that policy is slew,
and the references of the best rank that disagree, as a mask. Values in 2^-32 · 5^-11 ppb. -/
structure Sel where
  locked : Bool := false
  lockVal : Int := 0
  ring : List (Nat × Int) := []
  switchAt : Nat := 0
  hoAt : Nat := 0
  hoVal : Int := 0
  hits : Nat := 0
  secAt : Nat := 0
  secInt : Int := 0
  off : Int := 0
  offAt : Nat := 0
  slew : Bool := false
  disagree : Nat := 0
  deriving DecidableEq, Repr, Inhabited

/-- An Announce message kept (R231): the grandmaster's priority1, class, accuracy, variance, priority2 and identity as one number, its
stepsRemoved, the sender's portIdentity, when it came, how many of this sender came in a row, the clocks of its path trace, and its flags (the low octet),
currentUtcOffset and timeSource as one number. -/
structure Ann where
  gm : Nat := 0
  steps : Nat := 0
  sender : Nat := 0
  at_ : Nat := 0
  n : Nat := 0
  path : List Nat := []
  props : Nat := 0
  deriving DecidableEq, Repr, Inhabited

/-- A Sync exchange's first half: sequenceId, t1 and t2 in 2^-16 ns, correction, whether t1 is still to come, whether its offset has been formed. -/
structure SyncRec where
  seq : Nat := 0
  t1 : Int := 0
  t2 : Int := 0
  cs : Int := 0
  wait : Bool := false
  used : Bool := false
  deriving DecidableEq, Repr, Inhabited

/-- A peer delay exchange: sequenceId, t2 and t4 in 2^-16 ns, correction, its state (0 none, 1 response awaited, 2 its Follow_Up awaited),
requests unanswered in a row, t3 and t4 of the one before, and the neighbour's rate less 1 in 2^-41. -/
structure PeerRec where
  seq : Nat := 0
  t2 : Int := 0
  t4 : Int := 0
  cor : Int := 0
  state : Nat := 0
  lost : Nat := 0
  last3 : Int := 0
  last4 : Int := 0
  rate : Int := 0
  deriving DecidableEq, Repr, Inhabited

/-- A port's part in its PTP instance (R227 to R232, R245): senders heard, when Announce last came from the parent and whether it is lost,
whether a slave port has reported the loss (R248), the Follow_Up information TLV last heard from the parent (its last 22 bytes), the Sync, delay and peer delay exchanges, the last 16 sums of R245, sequenceIds and send times, when PRE_MASTER ends, and intervals asked
for by Signaling. -/
structure PtpPort where
  anns : List Ann := []
  annAt : Nat := 0
  annLost : Bool := false
  annOut : Bool := false
  info : Nat := 0
  sync : Option SyncRec := none
  dseq : Option Nat := none
  peer : PeerRec := {}
  sums : List Int := []
  seqS : Nat := 0
  seqA : Nat := 0
  seqD : Nat := 0
  syncAt : Nat := 0
  annSendAt : Nat := 0
  delayAt : Nat := 0
  preTo : Nat := 0
  askSync : Option Int := none
  askAnn : Option Int := none
  askDelay : Option Int := none
  deriving DecidableEq, Repr, Inhabited

/-- ESMC of a port (R247): when a PDU last came, whether that timed out, when one was last sent and whether an event PDU is due. -/
structure Esmc where
  rxAt : Nat := 0
  late : Bool := false
  txAt : Nat := 0
  evDue : Bool := false
  deriving DecidableEq, Repr, Inhabited

/-- Carillon (R226 to R249): references, selectors (0 frequency, 1 time), the integrals over ticks of DPLL0's offset and of ADJ, the servo's
integral, last offset used, outliers in a row and exact ADJ with when it was set (R245, R246), whether GM_CLASS of an instance's parent rose
above 127, until when the servo runs at 2 Hz after Thaw (R346), the frequency reference selected as an evaluation begins (31 outside one), PTP ports and ESMC
by port. -/
structure Car where
  refs : SMap Ref := []
  sels : SMap Sel := []
  yInt : Int := 0
  adjInt : Int := 0
  servoI : Int := 0
  servoPrev : Option Int := none
  servoOuts : Nat := 0
  adjX : Int := 0
  adjAt : Nat := 0
  gmBad : Bool := false
  fastTo : Nat := 0
  evalF : Nat := 31
  ports : SMap PtpPort := []
  esmc : SMap Esmc := []
  deriving DecidableEq, Repr

/-! ### Drumline -/

/-- A memory of bytes in canonical form: addresses strictly rising, no entry equal to 0, which an unlisted address reads as (log entry
33). -/
abbrev Mem := SMap Byte

/-- A program image as loaded (R271): its descriptors, its init records as (cycle memory, address, bytes), and IMAGE_ID. -/
structure Img where
  descs : List Nat := []
  inits : List (Bool × Nat × Bytes) := []
  id : Nat := 0
  deriving DecidableEq, Repr, Inhabited

/-- A save point (R284): the descriptor, the registers then, and what it read: an input's entry or a waited word. -/
structure Save where
  pc : Nat := 0
  v : SMap Nat := []
  p : SMap Nat := []
  input : Option Nat := none
  word : Option Nat := none
  deriving DecidableEq, Repr, Inhabited

/-- An output an engine holds for the fence (R264, R288). Times in 2^-16 ns of the timebase. `bad` is a frame that fails the check of
R309. -/
inductive EOut where
  | scatter (port cls : Nat) (body : Bytes) (launch tag : Option Nat)
  | bad
  | edge (n act : Nat) (at_ : Int) (width : Nat)
  | target (d : Nat) (target : Int) (slew start : Nat)
  | post (e msg : Nat)
  deriving DecidableEq, Repr

/-- An engine (R250, R275 to R288): vector registers as 256-bit numbers, predicates P1 to P7 (stored 8 bits each), data memory, active image
(program region), loaded image, whether the loaded one is to swap in, the domain it belongs to, whether its registers are to read 0, whether
region B is the active one, the next descriptor, the operation it waits in (its code and fields), save points, replayed values, outputs and sequence stores of this cycle by
descriptor, and its mailbox. -/
structure Eng where
  v : SMap Nat := []
  p : SMap Nat := []
  mem : Mem := []
  prog : Img := {}
  next : Img := {}
  loaded : Bool := false
  swap : Bool := false
  dom : Option Nat := none
  fresh : Bool := false
  regionB : Bool := false
  pc : Nat := 0
  wait : Option (Nat × Desc) := none
  saves : List Save := []
  replay : List (Nat × Option Nat) := []
  outs : List (Nat × EOut) := []
  wrote : List (Nat × Nat) := []
  mbx : List Nat := []
  deriving DecidableEq, Repr, Inhabited

/-- The states of an input (R262); `none` is also an input not yet taken. -/
inductive InSt where
  | none | pending | confirmed | stale | faulted
  deriving DecidableEq, Repr, Inhabited

/-- An input of the running cycle (R259 to R262): its state, the frame taken, whether that frame has failed, whether it is used up by a
frame too short, later frames in the window, whether GATHER_STALE has been counted, consecutive stale cycles, for source 1 the edge kept for the next cycle (a record), and whether
its frame is confirmed while word 1 still waits to be copied; `held` are frames whose tap waits, with their outcome once known, and `store` a word 1 that
waits to be written, the bank being frozen (R47). -/
structure GIn where
  st : InSt := .none
  frame : Option Nat := none
  failed : Bool := false
  short : Bool := false
  more : List Nat := []
  counted : Bool := false
  run : Nat := 0
  edge : Option Nat := none
  okay : Bool := false
  held : List (Frame × Option Bool) := []
  store : Option Nat := none
  deriving DecidableEq, Repr, Inhabited

/-- A cycle domain (R254 to R258): the values in force (PERIOD, D_IN in ns, CD_START in 2^-16 ns), the next boundary, before which no first trigger may come, whether a cycle is
between its trigger and its fence, T_k, the continuous time of the last trigger, whether the deadline has passed, AXIS_FAULT as its programs
see it, its inputs, whether a cycle has been and whether CYC_START came after it, whether a step made the cycle longer, when a snapshot was last sent,
and after Thaw the snapshot's cycle and boundary (R347). -/
structure Dom where
  period : Nat := 0
  dIn : Nat := 0
  start : Nat := 0
  next : Int := 0
  floor : Int := 0
  busy : Bool := false
  tk : Int := 0
  lastC : Int := 0
  late : Bool := false
  axes : Nat := 0
  ins : SMap GIn := []
  ran : Bool := false
  armed : Bool := false
  back : Bool := false
  snapAt : Nat := 0
  thaw : Option (Nat × Int) := none
  deriving DecidableEq, Repr, Inhabited

/-- A scatter frame released by a fence, waiting for its section writer (R266): domain, port, class, body, launch time, tag. -/
structure Scat where
  dom : Nat := 0
  port : Nat := 0
  cls : Nat := 0
  body : Bytes := []
  launch : Option Nat := none
  tag : Option Nat := none
  deriving DecidableEq, Repr, Inhabited

/-- A partial image of CYC_LOAD or FW_STAGE (R403): the key slot, the total, the bytes so far. -/
structure Partial where
  slot : Nat := 0
  total : Nat := 0
  data : Bytes := []
  deriving DecidableEq, Repr, Inhabited

/-- Drumline (R250 to R313): engines, cycle memory, the tags of its words as their difference from 0xFFFF, domains, section writers'
queues, and partial images by engine. -/
structure Drum where
  eng : SMap Eng := []
  cyc : Mem := []
  tags : SMap Nat := []
  dom : SMap Dom := []
  scat : SMap (List Scat) := []
  part : SMap (Option Partial) := []
  deriving DecidableEq, Repr

/-! ### Twins, firmware, power -/

/-- One record of checkpoint data (R340): a kind, two object numbers and values (log entry 35). -/
structure CkRec where
  kind : Nat := 0
  a : Nat := 0
  b : Nat := 0
  nums : List Int := []
  deriving DecidableEq, Repr, Inhabited

/-- A saved twin state in one slot of the flash (R341, R414): its save count, the device state key it was authenticated under, its content. -/
structure Saved where
  count : Nat := 0
  key : Nat := 0
  recs : List CkRec := []
  deriving DecidableEq, Repr, Inhabited

/-- What waits for the standby to have received a configuration checkpoint (R382, R388): the prepare of a transaction, the reply to its
scheduled commit, or the reply to a rollback. -/
inductive TwinWait where
  | prepare (txn : Nat)
  | answer (txn : Nat) (l : List Tlv)
  | rollback (r : Req)
  deriving DecidableEq, Repr, Inhabited

/-- The twin machinery (R331 to R349): whether Thaw has opened the egress; the claim of R335 (0 none, 1 waits for release, 2 hold started, 3
waits for release as unit 0) and its instant; since when TWIN_HOLD_IN reads released; probes in a row that read high and whether the
unit has been found without a partner since its start; the last accepted heartbeat; since when the unit is STANDBY_READY; the instant of
promotion; whether a full checkpoint has come or is coming, whether the configuration matches, whether the partner has the same unit number; the
partner's SERIAL and state; SEQUENCE of own requests and of checkpoints; what the active has still to send (a full
checkpoint, packets as class, sequence and bytes), what it has sent last by record,
and the age of the hit stamps it sent; checkpoints in transit; snapshots by domain as applied and as arriving, since when one has been arriving, the
states of the active's domains, a program image that arrives;
transactions announced by the active whose commit point is not known; the handover (its instant, 0 none, and its step: 1 begun, 2 commit sent, 3
accepted); when the state was last saved, and the two slots of the flash. -/
structure Twin where
  egress : Bool := false
  claim : Nat := 0
  claimAt : Nat := 0
  relAt : Nat := 0
  highs : Nat := 0
  alone : Bool := false
  hbAt : Option Nat := none
  readyAt : Nat := 0
  thawAt : Nat := 0
  full : Bool := false
  fullOn : Bool := false
  cfgOk : Bool := true
  same : Bool := false
  serial : Nat := 0
  peer : Nat := 0
  seq : Nat := 0
  ckSeq : Nat := 0
  fullDue : Bool := false
  outq : List (Nat × Nat × Bytes) := []
  sent : SMap (List Int) := []
  hitAge : Nat := 0
  waits : List (Nat × TwinWait) := []
  snaps : SMap (List CkRec) := []
  part : SMap (List CkRec) := []
  partAt : Nat := 0
  doms : SMap Nat := []
  imgPart : List Int := []
  coming : List (Nat × List CkRec) := []
  takeH : Nat := 0
  take : Nat := 0
  savedAt : Nat := 0
  slotA : Option Saved := none
  slotB : Option Saved := none
  deriving DecidableEq, Repr

/-- A firmware image as its container tells it (R411, R413): VERSION, SEC_VERSION, the CRC-32 of its payload, and the first check of R411 it
fails (0: none). -/
structure FwImg where
  ver : Nat := 0
  sec : Nat := 0
  crc : Nat := 0
  err : Nat := 0
  deriving DecidableEq, Repr, Inhabited

/-- Firmware (R409 to R422), by target: the flash regions, the running images, staged images, STATE and ERROR of FW_INFO, MIN_SEC_VERSION; the
fused digests of the root keys; starts in a row the management firmware has not confirmed; recovery; the handover of R416 (0 none, 1
accepted at handA, 2 switched over at handS) with the image it leaves; the restart of R417. -/
structure Fw where
  flash : SMap FwImg := []
  run : SMap FwImg := []
  staged : SMap (Option FwImg) := []
  state : SMap Nat := []
  err : SMap Nat := []
  minSec : SMap Nat := []
  roots : SMap Nat := []
  fails : Nat := 0
  recovery : Bool := false
  hand : Nat := 0
  prev : FwImg := {}
  handA : Nat := 0
  handS : Nat := 0
  restartAt : Option Nat := none
  deriving DecidableEq, Repr

/-- Power and the keep-alive domain (R407, R408, R418, R423): the end of a change to SHELF in progress; whether RST_N is low; whether main power
failed since the last start; the block's time at which the keep-alive time was last set; whether the next SEQ was lost with VBAK; whether
the time of power loss is valid (R391). -/
structure Pwr where
  offAt : Nat := 0
  low : Bool := false
  failed : Bool := false
  kaAt : Nat := 0
  seqLost : Bool := false
  pfOk : Bool := false
  deriving DecidableEq, Repr

/-! ### The whole -/

/-- The block: attribute store, memories, queues and the working state of each unit. -/
structure Chip where
  /-- Every attribute field of every object, as its difference from its reset value (R5, R8 to R10). -/
  regs : SMap Nat := []
  /-- What has left the package, newest first (the model's own record). -/
  outs : List Out := []
  /-- Drawn free values so far (the model's own counter: log entry 2). -/
  free : Nat := 0
  /-- SERIAL and the ordering code (false: TK5120-IG, true: TK5120-CG) of R1 and the identity block of R397. -/
  serial : Nat := 0
  orderCG : Bool := false
  /-- The 256-bit keys of the key slots (R358). -/
  keys : SMap Nat := []
  /-- The command queue (R364). -/
  cmdq : List Packet := []
  /-- Parked requests (R364). -/
  parked : List Parked := []
  /-- Open transactions (R375), the last 16 that ended (R387), the ID counter (R375) and the scheduling order counter. -/
  txns : List Txn := []
  ended : List TxnEnd := []
  txnCtr : Nat := 0
  schedCtr : Nat := 0
  /-- The change journal (R389 to R394). -/
  jrn : Jrn := {}
  /-- The PCIe endpoint (R366 to R373). -/
  hif : Hif := {}
  /-- The coalescer (R329). -/
  coal : Coal := {}
  /-- The timebase (R161 to R172). -/
  time : Time := {}
  /-- Calibration (R425 to R432). -/
  cal : Cal := {}
  /-- The Lull test (R433, R434). -/
  lull : Lull := {}
  /-- A diagnostic capture in progress: its request and scope word (R439). -/
  diag : Option (Req × Nat × Option (Nat × Nat)) := none
  /-- The device state key (R413, R441). -/
  stateKey : Nat := 0
  /-- The arbiters' inner state (R43 to R49), by arbiter number. -/
  arbs : SMap Arb := []
  /-- Consecutive Barometer samples at or above the clear level (R39), and whether the last sample was below the warning
  threshold (R40). -/
  baroClear : Nat := 0
  baroLow : Bool := false
  /-- The next instant of the Barometer sample grid (R38), in units of 10 ps. -/
  baroAt : Nat := 0
  /-- The frame path (R74 to R132). -/
  path : Path := {}
  /-- The tables (R133 to R160). -/
  tbl : Tables := {}
  /-- The speed of the MGT link in Mb/s (R73, R177). -/
  mgtSpeed : Nat := 0
  /-- The commit point behind a pending gate list change, in 2^-16 ns (R120, R121), by list: ports, then 1,024 + stream gate. -/
  gateP : SMap Nat := []
  /-- The fabric (R314 to R327). -/
  fab : Fab := {}
  /-- The loopback of each lane (TEST instance 1): 0 none, 1 near-end serial, 2 near-end parallel, 3 far-end; 512 is MGT. -/
  loops : SMap Nat := []
  /-- The optical modules, by port (R70 to R72). -/
  opts : SMap Opt := []
  /-- TDC channels that are locked (R184, R187). -/
  tdc : SMap Bool := []
  /-- Phase monitors: lanes 0 to 511, reference inputs 512 to 519 (R188). -/
  phms : SMap Phm := []
  phmOld : SMap PhmOld := []
  /-- Event inputs, interval units, and outputs 0 to 31 (EVT_OUT) and 32 to 39 (PPS_OUT). -/
  evis : SMap Evi := []
  ivls : SMap Ivl := []
  evos : SMap Evo := []
  /-- DPLL0 to DPLL4 and CLK_OUT0 to CLK_OUT7 (R205, R218). -/
  dplls : SMap Dpll := []
  ckos : SMap Cko := []
  /-- Carillon (R226 to R249). -/
  car : Car := {}
  /-- Drumline (R250 to R313). -/
  drum : Drum := {}
  /-- The twin pair (R331 to R349), firmware (R409 to R422), power and keep-alive (R406 to R424). -/
  twin : Twin := {}
  fw : Fw := {}
  pwr : Pwr := {}
  deriving DecidableEq, Repr

/-- The machine: the block, and the commands that wait, first in, first out. -/
structure State where
  chip : Chip
  pending : List Instr
  deriving DecidableEq, Repr

/-- Faults of a step. No command of the table ends in one. -/
inductive Fault where
  /-- Raised by no meaning: the spec gives every command an effect. Safe. -/
  | none
  deriving DecidableEq, Repr

/-- Refusals of a step. -/
inductive Refusal where
  /-- Raised only by an arm of exec whose command has no meaning yet, by its mnemonic. Safe: the machine stops. -/
  | notModelled (mnemonic : String)
  deriving DecidableEq, Repr

/-- The block right after reset (R407): every attribute at its reset value, memories and queues empty. -/
def Chip.reset : Chip := {}

/-- The machine right after reset: nothing waits. -/
def State.reset : State := { chip := Chip.reset, pending := [] }

end Sys2Proof.Machine
end

