-- ==== Sys2Proof/Machine/Ops.lean ====
section
/-! DEFINITION. The named operations over the block's state that every family shares: attribute fields, the observer's record, time,
counting (R435, R436), and running a meaning on the block alone. -/

namespace Sys2Proof.Machine

/-- A field of an attribute of object i, element e. -/
def Chip.rd (c : Chip) (F : Fld) (i : Nat := 0) (e : Nat := 0) : Nat := regGet c.regs F i e

/-- The field written. -/
def Chip.wr (c : Chip) (F : Fld) (v : Nat) (i : Nat := 0) (e : Nat := 0) : Chip :=
  { c with regs := regSet c.regs F i e v }

/-- The field read as two's complement. -/
def Chip.rdS (c : Chip) (F : Fld) (i : Nat := 0) (e : Nat := 0) : Int := signed F.width (c.rd F i e)

/-- The field written from a signed number (modulo its width). -/
def Chip.wrS (c : Chip) (F : Fld) (z : Int) (i : Nat := 0) (e : Nat := 0) : Chip := c.wr F (encS F.width z) i e

/-- Whether a one-bit field is set. -/
def Chip.on (c : Chip) (F : Fld) (i : Nat := 0) (e : Nat := 0) : Bool := c.rd F i e == 1

/-- A one-bit field written. -/
def Chip.flag (c : Chip) (F : Fld) (b : Bool) (i : Nat := 0) (e : Nat := 0) : Chip := c.wr F (b2n b) i e

/-- A counting field advanced by n, stopping at its largest value. -/
def Chip.incSat (c : Chip) (F : Fld) (n : Nat := 1) (i : Nat := 0) (e : Nat := 0) : Chip :=
  c.wr F (satU F.width (c.rd F i e + n)) i e

/-- A counting field advanced by n, modulo its width. -/
def Chip.incMod (c : Chip) (F : Fld) (n : Nat := 1) (i : Nat := 0) (e : Nat := 0) : Chip :=
  c.wr F (c.rd F i e + n) i e

/-- A high-water field raised to v. -/
def Chip.peak (c : Chip) (F : Fld) (v : Nat) (i : Nat := 0) (e : Nat := 0) : Chip :=
  c.wr F (max (c.rd F i e) (satU F.width v)) i e

/-- A read that clears (R5, R6): the value, and the block with the field cleared. -/
def Chip.rdClear (c : Chip) (F : Fld) (i : Nat := 0) (e : Nat := 0) : Nat × Chip :=
  (c.rd F i e, c.wr F (F.reset i e) i e)

/-- The objects and elements of a field that are not at its reset value, in rising order. -/
def Chip.touched (c : Chip) (F : Fld) : List (Nat × Nat) :=
  c.regs.filterMap fun x => if x.1 / 2 ^ 40 = F.id then some (x.1 / 2 ^ 20 % 2 ^ 20, x.1 % 2 ^ 20) else none

/-- What leaves the package is recorded. -/
def Chip.emit (c : Chip) (o : Out) : Chip := { c with outs := o :: c.outs }

/-- A list of effects in turn. -/
def Chip.each {α : Type} (c : Chip) (l : List α) (f : α → Chip → Chip) : Chip := l.foldl (fun c a => f a c) c

/-! ### Time -/

/-- Nanoseconds per second. -/
def nsPerS : Nat := 1000000000

/-- The free-running time of the block since reset in units of 10 ps: a tick is 2.56 ns (R161, R163). -/
def Chip.now (c : Chip) : Nat := c.rd Reg.TICKS * 256

/-- Intervals in units of 10 ps. -/
def unitsNs (n : Nat) : Nat := n * 100
def unitsUs (n : Nat) : Nat := n * 100000
def unitsMs (n : Nat) : Nat := n * 100000000
def unitsS (n : Nat) : Nat := n * 100000000000

/-- The timebase in units of 2^-16 ns, as every reported time has it (R161). -/
def Chip.tb16 (c : Chip) : Nat := c.time.tb / 2 ^ 24

/-- The 96-bit code of a time in units of 2^-16 ns (R11). -/
def time96 (t : Nat) : Nat :=
  ((t / 2 ^ 16 / nsPerS) % 2 ^ 48) * 2 ^ 48 + (t / 2 ^ 16 % nsPerS) * 2 ^ 16 + t % 2 ^ 16

/-- The time in units of 2^-16 ns of a 96-bit code (R11). -/
def timeOf96 (v : Nat) : Nat := (bitsOf v 48 48 * nsPerS + bitsOf v 16 32) * 2 ^ 16 + bitsOf v 0 16

/-- The timebase as a 96-bit time. -/
def Chip.tb96 (c : Chip) : Nat := time96 c.tb16

/-- The nanoseconds within the second, and the seconds. -/
def Chip.tbNs (c : Chip) : Nat := c.time.tb / 2 ^ 40 % nsPerS
def Chip.tbSec (c : Chip) : Nat := c.time.tb / 2 ^ 40 / nsPerS

/-- The continuous time C in units of 2^-16 ns: the timebase less STEP_SUM (R163). -/
def Chip.cont16 (c : Chip) : Int := (c.tb16 : Int) - c.rdS Reg.STEP_SUM

/-- TB_INCR, the increment in force: BASE_INCR + ADJ (R162). -/
def Chip.tbIncr (c : Chip) : Nat := ((c.rd Reg.BASE_INCR : Int) + c.rdS Reg.ADJ).toNat

/-- One ppb in units of 2^-40 ns per tick, rounded to nearest: n ppb (R162). -/
def ppbUnits (n : Nat) : Nat := divRound (n * 256 * 2 ^ 40) 100000000000

/-- ADJ written within ±MAX_ADJ; ADJ_CLIP is set when the value is clipped (R162). -/
def Chip.setAdj (c : Chip) (z : Int) : Chip :=
  let m : Int := ppbUnits (c.rd Reg.SERVO_CTRL_MAX_ADJ)
  let y := max (-m) (min m z)
  let c' := c.wrS Reg.ADJ y
  if y = z then c' else c'.flag Reg.TIME_STATUS_ADJ_CLIP true

/-! ### What holds after every command -/

/-- Unspilled records at which commits are held (R393). -/
def jrnHoldAt : Nat := 65280

/-- What the device keeps true at every instant: ADJ within ±MAX_ADJ (R162), and COMMIT_HOLD while unspilled records reach 65,280 (R393). -/
def Chip.steady (c : Chip) : Chip :=
  let c1 := c.setAdj (c.rdS Reg.ADJ)
  c1.flag Reg.JRN_STATUS_COMMIT_HOLD (decide (jrnHoldAt ≤ c1.rd Reg.JRN_STATUS_UNSPILLED))

/-- The meaning that changes the block by f and leaves the queue of waiting commands alone. -/
def onChip (f : Chip → Chip) (s : State) : Host.Outcome State Fault Refusal := .next { s with chip := (f s.chip).steady }

/-! ### Counting -/

/-- The group an event counts in, with its unit (R435): octet events by port, lane or queue, block events by code. -/
def eventGroup (ev unit : Nat) : Option Nat :=
  if ev < 0x100 then
    let oct :=
      if ev = 3 || ev = 4 || (0x40 ≤ ev && ev ≤ 0x43) || (0x60 ≤ ev && ev ≤ 0x66) then unit / 64 else unit / 8
    if oct < 64 then some oct else none
  else if ev < 0x180 then some (64 + (ev / 16 - 16)) else none

/-- Whether the events of a code are counted per queue. -/
def queueEvent (ev : Nat) : Bool := ev == 3 || ev == 4 || (0x40 ≤ ev && ev ≤ 0x43) || (0x60 ≤ ev && ev ≤ 0x66)

/-- Whether SEL of a counter covers a unit (R435). -/
def selCovers (ev sel unit : Nat) : Bool :=
  sel == unit || sel == 0xFFFF || (queueEvent ev && sel == 0x8000 + unit / 8)

/-- Counter e of group g advanced by n modulo 2^48; a wrap sets WRAPPED (R436). -/
def Chip.countUp (c : Chip) (g e n : Nat) : Chip :=
  let v := c.rd Reg.CNT_VALUE_VALUE g e + n
  let c' := c.wr Reg.CNT_VALUE_VALUE v g e
  if v < 2 ^ 48 then c' else c'.flag Reg.CNT_VALUE_WRAPPED true g e

/-- Counter e of group g sees one occurrence of an event (R435). -/
def Chip.countOne (c : Chip) (ev unit bytes g e : Nat) : Chip :=
  if c.on Reg.CNT_CFG_EN g e && c.rd Reg.CNT_CFG_EVENT g e == ev && selCovers ev (c.rd Reg.CNT_CFG_SEL g e) unit then
    c.countUp g e (if c.on Reg.CNT_CFG_BYTES g e then bytes else 1)
  else c

/-- An event counted for a unit; `bytes` is the frame's length, used where BYTES is set. FREEZE stops all counting (R436). -/
def Chip.count (c : Chip) (ev : Nat) (unit : Nat := 0xFFFF) (bytes : Nat := 1) : Chip :=
  if c.on Reg.CNT_GLOBAL_FREEZE then c
  else match eventGroup ev unit with
    | none => c
    | some g => c.each (List.range 8) fun e c => c.countOne ev unit bytes g e

/-- A draw of a free value: the number of the draw. -/
def Chip.draw (c : Chip) : Nat × Chip := (c.free, { c with free := c.free + 1 })

/-- An object ID (R8). -/
def objId (cls inst attr : Nat) : Nat := cls * 2 ^ 24 + inst * 2 ^ 8 + attr

def objCls (o : Nat) : Nat := o / 2 ^ 24 % 256
def objInst (o : Nat) : Nat := o / 2 ^ 8 % 65536
def objAttr (o : Nat) : Nat := o % 256

end Sys2Proof.Machine
end

