-- ==== Sys2Proof/Machine/Packet.lean ====
section
/-! DEFINITION. The coding of command packets and of the frames that carry them (R350 to R353, R361, R362, R372): what the device
sends, byte for byte. -/

namespace Sys2Proof.Machine

/-! ### TLVs of R396 -/

def tlvObj (o : Nat) : Tlv := { typ := 0x01, len := 4, val := o }
def tlvElem (first n : Nat) : Tlv := { typ := 0x02, len := 8, val := first * 2 ^ 32 + n }
def tlvValue (len v unit : Nat) : Tlv := { typ := 0x03, len := len, val := v, unit := unit }
def tlvTime (t96 : Nat) : Tlv := { typ := 0x06, len := 12, val := t96 }
def tlvOffset (z : Int) : Tlv := { typ := 0x07, len := 8, val := encS 64 z }
def tlvTicks (n : Nat) : Tlv := { typ := 0x08, len := 8, val := n }
def tlvIndex (i : Nat) : Tlv := { typ := 0x0D, len := 4, val := i }
def tlvEntry (bytes v : Nat) : Tlv := { typ := 0x0E, len := bytes, val := v }
def tlvData (len v unit : Nat) : Tlv := { typ := 0x11, len := len, val := v, unit := unit }
def tlvCounts (frames cells : Nat) : Tlv := { typ := 0x13, len := 8, val := frames * 2 ^ 32 + cells }
def tlvJump (id : Nat) : Tlv := { typ := 0x14, len := 4, val := id * 2 ^ 16 }
def tlvCntSel (v : Nat) : Tlv := { typ := 0x1A, len := 4, val := v }
def tlvCntVal (len v : Nat) : Tlv := { typ := 0x1B, len := len, val := v }
def tlvJseq (n : Nat) : Tlv := { typ := 0x1C, len := 8, val := n }
def tlvRecords (n v : Nat) : Tlv := { typ := 0x1E, len := 64 * n, val := v, unit := 64 }
def tlvCkpt (cls seq : Nat) : Tlv := { typ := 0x21, len := 8, val := cls * 2 ^ 56 + seq % 2 ^ 32 }
def tlvPorts (ps : List Nat) : Tlv := { typ := 0x23, len := 2 * ps.length, val := ps.foldl (fun a p => a * 2 ^ 16 + p) 0 }
def tlvIdent (v : Nat) : Tlv := { typ := 0x24, len := 48, val := v }
def tlvFwInfo (n v : Nat) : Tlv := { typ := 0x26, len := 16 * n, val := v }
def tlvClaimant (o idx : Nat) : Tlv := { typ := 0x40, len := 8, val := o * 2 ^ 32 + idx }
def tlvShortfall (unit amount : Nat) : Tlv := { typ := 0x41, len := 8, val := unit * 2 ^ 56 + amount % 2 ^ 56 }
def tlvFailObj (o : Nat) : Tlv := { typ := 0x42, len := 4, val := o }
def tlvScope (s : Scope) (txn : Nat) : Tlv :=
  { typ := 0x43, len := 12, val := ((s.cls * 2 ^ 16 + s.inst) * 2 ^ 8 + s.unit) * 2 ^ 64 + txn * 2 ^ 32 }
def tlvDesc (i : Nat) : Tlv := { typ := 0x44, len := 4, val := i }
def tlvLastSeq (n : Nat) : Tlv := { typ := 0x45, len := 4, val := n }
def tlvStaged (n : Nat) : Tlv := { typ := 0x46, len := 4, val := n }
def tlvHeld (n : Nat) : Tlv := { typ := 0x47, len := 4, val := n }
def tlvTbState (a b : Nat) : Tlv := { typ := 0x48, len := 8, val := a * 2 ^ 32 + b }
def tlvCause (q code : Nat) : Tlv := { typ := 0x49, len := 8, val := q * 2 ^ 32 + code }
def tlvEvent (cls ev : Nat) : Tlv := { typ := 0x60, len := 4, val := cls * 2 ^ 24 + ev }
def tlvTxnInfo (st status bytes p96 : Nat) : Tlv :=
  { typ := 0x0B, len := 24, val := st * 2 ^ 184 + status * 2 ^ 168 + bytes * 2 ^ 128 + p96 }

/-! ### Payloads and packets -/

/-- The bytes that pad n bytes to a multiple of 4. -/
def padTo4 (n : Nat) : Nat := (4 - n % 4) % 4

/-- A TLV as sent (R351). -/
def Tlv.bytes (t : Tlv) : Bytes :=
  bytesOfNat 2 t.typ ++ bytesOfNat 2 t.len ++ bytesOfNat t.len t.val ++ List.replicate (padTo4 t.len) 0#8

/-- The payload bytes a TLV takes. -/
def Tlv.size (t : Tlv) : Nat := 4 + t.len + padTo4 t.len

def payloadBytes (l : List Tlv) : Bytes := l.flatMap Tlv.bytes

def payloadSize (l : List Tlv) : Nat := (l.map Tlv.size).sum

/-- The 32-byte header of R350. `sent` is in units of 2^-16 ns. -/
def headerBytes (flags op status seq role slot sent txn len : Nat) : Bytes :=
  bytesOfNat 2 0xC7A1 ++ bytesOfNat 1 1 ++ bytesOfNat 1 flags ++ bytesOfNat 2 op ++ bytesOfNat 2 status ++ bytesOfNat 4 seq ++
  bytesOfNat 1 role ++ bytesOfNat 1 slot ++ bytesOfNat 2 0 ++ bytesOfNat 4 (sent / 2 ^ 16 / nsPerS) ++
  bytesOfNat 4 (sent / 2 ^ 16 % nsPerS) ++ bytesOfNat 4 txn ++ bytesOfNat 4 len

/-- The authentication code of R353: the first 16 bytes of HMAC-SHA-256. -/
def authCode (key : Nat) (m : Bytes) : Nat := hmac256 key m >>> 128

/-- A whole packet under a key; without one the code is 16 zero bytes (R355, R359). -/
def packetBytes (key : Option Nat) (hdr payload : Bytes) : Bytes :=
  let m := hdr ++ payload
  m ++ match key with
    | some k => bytesOfNat 16 (authCode k m)
    | none => List.replicate 16 0#8

/-! ### Division of a reply into packets (R352) -/

/-- A divisible TLV cut into parts of at most n units, in order. `first` is the number of its first unit. -/
def Tlv.parts : Nat → Nat → Nat → Tlv → List (Nat × Tlv)
  | 0, _, _, _ => []
  | fuel + 1, n, first, t =>
    if t.len ≤ n * t.unit then [(first, t)]
    else
      let h := n * t.unit
      let rest := t.len - h
      (first, { t with len := h, val := t.val >>> (8 * rest) }) ::
        Tlv.parts fuel n (first + n) { t with len := rest, val := t.val % 2 ^ (8 * rest) }

/-- TLVs with every divisible one cut to fit `room` payload bytes: an array VALUE becomes (OBJ ELEM VALUE) groups, DATA and
RECORDS several TLVs. -/
def divideTlvs (room : Nat) : List Tlv → List (List Tlv)
  | [] => []
  | o :: e :: v :: l =>
    if o.typ = 1 ∧ e.typ = 2 ∧ v.typ = 3 then
      if v.unit = 0 ∨ o.size + e.size + v.size ≤ room then [o, e, v] :: divideTlvs room l
      else
        (Tlv.parts v.len (max 1 ((room - 24) / v.unit)) (e.val / 2 ^ 32) v).map
          (fun p => [o, tlvElem p.1 (p.2.len / v.unit), p.2]) ++ divideTlvs room l
    else if o.typ = 1 ∧ e.typ = 3 then [o, e] :: divideTlvs room (v :: l)
    else if o.unit = 0 ∨ o.size ≤ room then [o] :: divideTlvs room (e :: v :: l)
    else (Tlv.parts o.len (max 1 ((room - 4) / o.unit)) 0 o).map (fun p => [p.2]) ++ divideTlvs room (e :: v :: l)
  | [o, e] =>
    if o.typ = 1 ∧ e.typ = 3 then [[o, e]]
    else if e.unit = 0 ∨ e.size ≤ room then [[o], [e]]
    else [o] :: (Tlv.parts e.len (max 1 ((room - 4) / e.unit)) 0 e).map (fun p => [p.2])
  | [o] =>
    if o.unit = 0 ∨ o.size ≤ room then [[o]]
    else (Tlv.parts o.len (max 1 ((room - 4) / o.unit)) 0 o).map (fun p => [p.2])

/-- Groups gathered into packets of at most `room` payload bytes, in order. -/
def packGroups (room : Nat) : List (List Tlv) → List Tlv → List (List Tlv)
  | [], cur => [cur]
  | g :: gs, cur =>
    if cur.isEmpty || payloadSize (cur ++ g) ≤ room then packGroups room gs (cur ++ g)
    else cur :: packGroups room gs g

/-- Whether every group fits a packet (R352: otherwise the request is answered BAD_PARAM). -/
def fitsRoom (room : Nat) (l : List Tlv) : Bool := (divideTlvs room l).all fun g => payloadSize g ≤ room

/-! ### Frames -/

/-- An Ethernet frame without FCS: addresses, optional outer tag (TPID and TCI), EtherType, payload padded to 60 bytes. -/
def ethFrame (da sa : Nat) (tag : Option Nat) (etype : Nat) (payload : Bytes) : Bytes :=
  let b := bytesOfNat 6 da ++ bytesOfNat 6 sa ++
    (match tag with | some t => bytesOfNat 4 t | none => []) ++ bytesOfNat 2 etype ++ payload
  b ++ List.replicate (60 - b.length) 0#8

/-- The ones' complement sum of 16-bit words. -/
def onesSum : Bytes → Nat
  | [] => 0
  | [a] => a.toNat * 256
  | a :: b :: l => a.toNat * 256 + b.toNat + onesSum l

/-- The Internet checksum. -/
def inetSum (b : Bytes) : Nat :=
  let s := onesSum b
  let f := fun x => x % 65536 + x / 65536
  65535 - f (f (f s))

/-- UDP over IPv4, TTL 64 (R362). -/
def udp4Packet (src dst sport dport : Nat) (data : Bytes) : Bytes :=
  let ulen := 8 + data.length
  let pseudo := bytesOfNat 4 src ++ bytesOfNat 4 dst ++ bytesOfNat 2 17 ++ bytesOfNat 2 ulen
  let u0 := bytesOfNat 2 sport ++ bytesOfNat 2 dport ++ bytesOfNat 2 ulen
  let ck := inetSum (pseudo ++ u0 ++ bytesOfNat 2 0 ++ data)
  let h0 := bytesOfNat 2 0x4500 ++ bytesOfNat 2 (20 + ulen) ++ bytesOfNat 4 0 ++ bytesOfNat 1 64 ++ bytesOfNat 1 17
  let a := bytesOfNat 4 src ++ bytesOfNat 4 dst
  h0 ++ bytesOfNat 2 (inetSum (h0 ++ bytesOfNat 2 0 ++ a)) ++ a ++ u0 ++ bytesOfNat 2 (if ck = 0 then 65535 else ck) ++ data

/-- UDP over IPv6, hop limit 64 (R362). -/
def udp6Packet (src dst sport dport : Nat) (data : Bytes) : Bytes :=
  let ulen := 8 + data.length
  let pseudo := bytesOfNat 16 src ++ bytesOfNat 16 dst ++ bytesOfNat 4 ulen ++ bytesOfNat 4 17
  let u0 := bytesOfNat 2 sport ++ bytesOfNat 2 dport ++ bytesOfNat 2 ulen
  let ck := inetSum (pseudo ++ u0 ++ bytesOfNat 2 0 ++ data)
  bytesOfNat 4 0x60000000 ++ bytesOfNat 2 ulen ++ bytesOfNat 1 17 ++ bytesOfNat 1 64 ++ bytesOfNat 16 src ++
    bytesOfNat 16 dst ++ u0 ++ bytesOfNat 2 (if ck = 0 then 65535 else ck) ++ data

/-- The outer tag of a reply: that of the request with PCP 7 (R362). -/
def replyTag (t : Option Nat) : Option Nat := t.map fun x => withBits x 13 3 7

/-- A Zidom header of the device's own (R316): type, TTL and class. -/
def zidOwn (typ ttl cls : Nat) : Nat := Lay.ZID_VER.put 1 + Lay.ZID_TYPE.put typ + Lay.ZID_TTL.put ttl + Lay.ZID_CLASS.put cls

/-- A Zidom frame without FCS whose payload follows the header directly (R316, R319, R325, R333; log entry 15). -/
def zidFrame (hdr : Nat) (payload : Bytes) : Bytes :=
  let b := bytesOfNat 16 hdr ++ payload
  b ++ List.replicate (60 - b.length) 0#8

end Sys2Proof.Machine
end

