-- ==== Sys2Proof/Machine/Tables.lean ====
section
/-! DEFINITION. The seven tables: their geometry, entries and visibility, the exact-match buckets, the longest-prefix order, the
classifier and stream lookups, and the writes that keep them (R133 to R151, 07_tables.md). -/

namespace Sys2Proof.Machine

/-! ### Geometry (R133) -/

/-- Entries of the tables 0 to 6. -/
def tblSize : Nat → Nat
  | 0 => 262144 | 1 => 16384 | 2 => 8192 | 3 => 8192 | 4 => 4096 | 5 => 16384 | 6 => 16 | _ => 0

/-- Bytes of an entry. -/
def tblEntryBytes : Nat → Nat
  | 0 => 16 | 1 => 32 | 2 => 64 | 3 => 16 | 4 => 16 | 5 => 64 | 6 => 8 | _ => 0

/-- The segment of an entry: 64 equal segments, of the mirror sessions one session each. -/
def segOf (t i : Nat) : Nat := if tblSize t < 64 then i else i / (tblSize t / 64)

/-- The arbiters of a table. -/
def tblArbs (t : Nat) : List Nat := if t = 0 then [128, 129, 130, 131, 132, 133, 134, 135] else [135 + t]

/-- The arbiter that serves an index of a table (R43, R139). -/
def tblArb (t i : Nat) : Nat := if t = 0 then 128 + i / 4 % 8 else 135 + t

/-- Whether an arbiter is frozen (R47). -/
def Chip.arbFrozen (c : Chip) (a : Nat) : Bool := c.on Reg.ARB_CFG_FREEZE 0 a || decide (0 < (SMap.get c.arbs a).internal)

/-- The lowest bit of VIS in tables 0 to 4. -/
def visLo (t : Nat) : Nat := 8 * tblEntryBytes t - 2

/-- VIS of an entry (R134). -/
def visOf (t e : Nat) : Nat := bitsOf e (visLo t) 2

/-- The entry with another VIS. -/
def setVis (t e v : Nat) : Nat := withBits e (visLo t) 2 v

/-- Where LAST_HIT stands in an entry of tables 0 to 4; meters have none. -/
def hitField (t i : Nat) : Option Bf :=
  match t with
  | 0 => some Lay.EM_LAST_HIT | 1 => some Lay.LPM_LAST_HIT | 2 => some Lay.CLS_LAST_HIT
  | 3 => if i < 4096 then some Lay.SF_LAST_HIT else none
  | 4 => some Lay.SEQR_LAST_HIT
  | _ => none

/-! ### Contents -/

/-- Where an entry is kept; copy 1 is the second physical copy of R137, and in tables 2 to 4 the free slot beside an index in which
a transaction prepares its new entry (log entry 12). -/
def entKey (t copy i : Nat) : Nat := (t * 2 + copy) * 2 ^ 20 + i

def Chip.ent (c : Chip) (t copy i : Nat) : Nat := SMap.get c.tbl.ent (entKey t copy i)

/-- An entry written; a word found uncorrectable is good again when rewritten (R433). -/
def Chip.setEnt (c : Chip) (t copy i v : Nat) : Chip :=
  { c with tbl := { c.tbl with ent := SMap.set c.tbl.ent (entKey t copy i) v }
           lull := { c.lull with badWords := c.lull.badWords.filter fun x => x != (t, i) } }

/-- Whether a table word at an index is uncorrectable: lookups treat its entries as absent (R433). -/
def Chip.eccBad (c : Chip) (t i : Nat) : Bool := c.lull.badWords.contains (t, i)

/-- The generation bit of a table (R134). -/
def Chip.gen (c : Chip) (t : Nat) : Nat := c.rd Reg.TBL_GEN_G t

/-- Whether a VIS value is visible to generation g. -/
def visTo (v g : Nat) : Bool := bitOf v g

/-- The entry at an index that generation g sees; 0 where it sees none (R134, R137). -/
def Chip.entAt (c : Chip) (g t i : Nat) : Nat :=
  if t ≤ 4 then
    let a := c.ent t 0 i
    if visTo (visOf t a) g then a
    else
      let b := c.ent t 1 i
      if visTo (visOf t b) g then b else 0
  else c.ent t (bitsOf (SMap.get c.tbl.sel (entKey t 0 i)) g 1) i

/-- The entry a lookup of generation g meets at an index. -/
def Chip.entLook (c : Chip) (g t i : Nat) : Nat := if c.eccBad t i then 0 else c.entAt g t i

/-- The entry the current generation sees. -/
def Chip.entNow (c : Chip) (t i : Nat) : Nat := c.entAt (c.gen t) t i

/-- The indices with an entry in a copy, and the entry. -/
def Chip.entries (c : Chip) (t copy : Nat) : List (Nat × Nat) :=
  c.tbl.ent.filterMap fun x => if x.1 / 2 ^ 20 = t * 2 + copy then some (x.1 % 2 ^ 20, x.2) else none

/-- The entries generation g sees, by rising index (tables 0 to 4). -/
def Chip.visible (c : Chip) (g t : Nat) : List (Nat × Nat) :=
  let a := (c.entries t 0).filter fun x => visTo (visOf t x.2) g
  let b := (c.entries t 1).filter fun x => visTo (visOf t x.2) g
  if b = [] then a
  else b.foldl (fun l x => (l.filter fun y => y.1 < x.1) ++ x :: (l.filter fun y => x.1 < y.1)) a

/-- TBL_USED: valid entries (R137). -/
def Chip.tblUsed (c : Chip) (t : Nat) : Nat :=
  if t ≤ 4 then (c.visible (c.gen t) t).length
  else ((c.entries t 0 ++ (c.entries t 1)).map Prod.fst).eraseDups.filter (fun i => c.entNow t i != 0) |>.length

/-- The current stamp (R159): floor(V ÷ AGE_UNIT) mod 65,536. -/
def Chip.stampNow (c : Chip) : Nat := c.now / unitsMs (max 1 (c.rd Reg.AGE_UNIT 0)) % 65536

/-- A last-hit stamp written (R133, R159). Of an IPv6 pair the first entry alone has its stamp refreshed (DESIGN CHOICE, log entry 174: R144 gives
both a LAST_HIT, "stamp of the pair or entry"). -/
def Chip.hitNow (c : Chip) (t i : Nat) : Chip :=
  if t ≤ 4 then
    let e := c.ent t 0 i
    let c1 := match hitField t i with
      | some F => if visOf t e = 0 then c else c.setEnt t 0 i (F.set e c.stampNow)
      | none => c
    let b := c1.ent t 1 i
    match hitField t i with
    | some F => if visOf t b = 0 then c1 else c1.setEnt t 1 i (F.set b c.stampNow)
    | none => c1
  else { c with tbl := { c.tbl with stamps := SMap.set c.tbl.stamps (entKey t 0 i) c.stampNow } }

/-- A last-hit stamp refreshed, or held while the arbiter of its bucket is frozen (R47). -/
def Chip.hit (c : Chip) (t i : Nat) : Chip :=
  if c.arbFrozen (tblArb t i) then
    (if c.tbl.hitHeld.contains (t, i) then c else { c with tbl := { c.tbl with hitHeld := c.tbl.hitHeld ++ [(t, i)] } })
  else c.hitNow t i

/-- Refreshes that a freeze has held, done once it is lifted (R47). -/
def Chip.lateHits (c : Chip) : Chip :=
  let (stay, go) := c.tbl.hitHeld.partition fun x => c.arbFrozen (tblArb x.1 x.2)
  if go = [] then c else ({ c with tbl := { c.tbl with hitHeld := stay } }).each go fun x c => c.hitNow x.1 x.2

/-! ### Locks -/

def lockKey (t s : Nat) : Nat := t * 64 + s

def Chip.lock (c : Chip) (t s : Nat) : SegLock := SMap.get c.tbl.locks (lockKey t s)

/-- Whether the segment of an entry is locked (R152). -/
def Chip.locked (c : Chip) (t i : Nat) : Bool := (c.lock t (segOf t i)).state == 2

/-! ### Exact match (R138 to R142) -/

/-- The kind of a TYPE (R139). -/
def emKind (ty : Nat) : Nat := if ty = 3 then 1 else if ty = 4 then 2 else 0

/-- The 8 key bytes of R139. -/
def emKeyBytes (kind mac vid : Nat) : Bytes := bytesOfNat 6 mac ++ bytesOfNat 1 (kind * 16 + vid / 256 % 16) ++ bytesOfNat 1 vid

/-- The CRC-32 register after some bytes, from a seed and without final complement (R139). -/
def crcReg (seed : Nat) (b : Bytes) : Nat := b.foldl crcByte seed

/-- Candidate bucket i of a key. -/
def Chip.emBucket (c : Chip) (i kind mac vid : Nat) : Nat :=
  i * 32768 + crcReg (if i = 0 then c.rd Reg.EM_SEED0 0 else c.rd Reg.EM_SEED1 0) (emKeyBytes kind mac vid) % 32768

/-- The key of an entry: kind, MAC, VID. -/
def emKeyOf (e : Nat) : Nat × Nat × Nat := (emKind (Lay.EM_TYPE.get e), Lay.EM_MAC.get e, Lay.EM_VID.get e)

/-- The candidate buckets of an entry's key. -/
def Chip.emBuckets (c : Chip) (k : Nat × Nat × Nat) : List Nat := [c.emBucket 0 k.1 k.2.1 k.2.2, c.emBucket 1 k.1 k.2.1 k.2.2]

/-- The indices of a bucket, slots 0 to 3. -/
def emSlots (b : Nat) : List Nat := [b * 4, b * 4 + 1, b * 4 + 2, b * 4 + 3]

/-- The index at which generation g finds a key. -/
def Chip.emFind (c : Chip) (g : Nat) (k : Nat × Nat × Nat) : Option Nat :=
  (c.emBuckets k).flatMap emSlots |>.find? fun i =>
    let e := c.ent 0 0 i
    visTo (visOf 0 e) g && emKeyOf e == k

/-- The index at which a lookup of generation g meets a key. -/
def Chip.emLook (c : Chip) (g : Nat) (k : Nat × Nat × Nat) : Option Nat :=
  (c.emFind g k).bind fun i => if c.eccBad 0 i then none else some i

/-- Whether a lookup of a key reads an uncorrectable word. -/
def Chip.emEcc (c : Chip) (k : Nat × Nat × Nat) : Bool :=
  c.lull.badWords != [] && ((c.emBuckets k).flatMap emSlots).any (c.eccBad 0)

/-- A slot of the exact-match table written; its bucket's version increments (R140). -/
def Chip.emWrite (c : Chip) (i e : Nat) : Chip :=
  let c1 := c.setEnt 0 0 i e
  { c1 with tbl := { c1.tbl with ver := SMap.upd c1.tbl.ver (i / 4) fun v => (v + 1) % 256 } }

/-- Whether a slot is free. -/
def Chip.emFree (c : Chip) (i : Nat) : Bool := visOf 0 (c.ent 0 0 i) == 0

/-- The first free slot of a bucket outside the locked segments. -/
def Chip.emFreeSlot (c : Chip) (b : Nat) : Option Nat := (emSlots b).find? fun i => c.emFree i && !c.locked 0 i

/-- The other bucket of the entry at an index. -/
def Chip.emOther (c : Chip) (i : Nat) : Nat :=
  match c.emBuckets (emKeyOf (c.ent 0 0 i)) with
  | [a, b] => if i / 4 = a then b else a
  | _ => i / 4

/-- What a transaction has prepared at an index goes with the entry that moves (R136). -/
def Chip.prepMoved (c : Chip) (t src dst : Nat) : Chip :=
  { c with tbl := { c.tbl with preps := c.tbl.preps.map fun (p : Prep) => if p.tbl = t ∧ p.index = src then { p with index := dst } else p } }

/-- One relocation, copy then invalidate (R141). DESIGN CHOICE (log entry 175): the freed slot holds 0 in every bit, where R141 gives only its
VIS. -/
def Chip.emMove (c : Chip) (src dst : Nat) : Chip := ((c.emWrite dst (c.ent 0 0 src)).emWrite src 0).prepMoved 0 src dst

/-- Breadth-first search for a chain of moves (R142). A path lists the slots to vacate, the last first; `seen` are the buckets
reached; k levels are left. -/
def Chip.emSearch (c : Chip) : Nat → List (List Nat) → List Nat → Option (List Nat × Nat)
  | 0, _, _ => none
  | k + 1, paths, seen =>
    match paths.findSome? (fun p => match p with
      | [] => none
      | i :: _ => (c.emFreeSlot (c.emOther i)).map fun d => (p, d)) with
    | some r => some r
    | none =>
      let next := paths.foldl (fun (a : List (List Nat) × List Nat) p => match p with
        | [] => a
        | i :: _ =>
          let b := c.emOther i
          if a.2.contains b || c.locked 0 (b * 4) then a
          else (a.1 ++ (emSlots b).map fun j => j :: p, b :: a.2)) ([], seen)
      c.emSearch k next.1 next.2

/-- A chain carried out from its far end: each slot of the path moves into the slot freed before it (R142). -/
def Chip.emRunChain (c : Chip) : List Nat → Nat → Chip × Nat
  | [], d => (c, d)
  | i :: p, d => (c.emMove i d).emRunChain p i

/-- A slot for a key: free in bucket 0, then bucket 1, then by at most `kicks` moves (R142). Learning tries one move. -/
def Chip.emPlace (c : Chip) (k : Nat × Nat × Nat) (kicks : Nat) : Option (Nat × Chip) :=
  let bs := c.emBuckets k
  match bs.findSome? c.emFreeSlot with
  | some i => some (i, c)
  | none =>
    let first := (bs.filter fun b => !c.locked 0 (b * 4)).flatMap fun b => (emSlots b).map fun i => [i]
    match c.emSearch kicks first bs with
    | some (p, d) => let (c1, i) := c.emRunChain p d; some (i, c1)
    | none => none

/-! ### Longest prefix (R144, R145) -/

/-- Kind class of an entry: 0 IPv4, 1 IPv6. -/
def lpmClass (e : Nat) : Nat := if Lay.LPM_KIND.get e = 0 then 0 else 1

/-- Slots one prefix takes. -/
def lpmWidth (cls : Nat) : Nat := if cls = 0 then 1 else 2

/-- First entries of the prefixes of a class visible to anyone, by rising index, with their lengths. -/
def Chip.lpmList (c : Chip) (cls : Nat) : List (Nat × Nat) :=
  ((c.entries 1 0).filter fun x => visOf 1 x.2 != 0 && Lay.LPM_KIND.get x.2 == cls).map fun x => (x.1, Lay.LPM_PLEN.get x.2)

/-- Whether the slots of a prefix at an index are free. -/
def Chip.lpmFree (c : Chip) (cls i : Nat) : Bool :=
  (List.range (lpmWidth cls)).all fun d => decide (i + d < tblSize 1) && visOf 1 (c.ent 1 0 (i + d)) == 0

/-- The first free place that may be taken at or after a and before b. DESIGN CHOICE (log entry 174): an insert places a pair at an even index. -/
def Chip.lpmGap (c : Chip) (cls : Nat) (may : Nat → Bool) : Nat → Nat → Nat → Option Nat
  | 0, _, _ => none
  | n + 1, a, b =>
    if b ≤ a then none
    else if (cls = 0 ∨ a % 2 = 0) ∧ may a ∧ c.lpmFree cls a then some a
    else c.lpmGap cls may n (a + 1) b

/-- A prefix moved, copy then invalidate: a pair's second entry first in, first entry first out (R144, R145). -/
def Chip.lpmMove (c : Chip) (cls src dst : Nat) : Chip :=
  if cls = 0 then ((c.setEnt 1 0 dst (c.ent 1 0 src)).setEnt 1 0 src 0).prepMoved 1 src dst
  else (((((c.setEnt 1 0 (dst + 1) (c.ent 1 0 (src + 1))).setEnt 1 0 dst (c.ent 1 0 src)).setEnt 1 0 src 0).setEnt 1 0 (src + 1) 0).prepMoved 1 src
    dst).prepMoved 1 (src + 1) (dst + 1)

/-- The bounds of a length group: behind the last longer prefix, behind the group's own last, and the first shorter one. -/
def Chip.lpmBounds (c : Chip) (cls plen : Nat) : Nat × Nat × Nat :=
  let l := c.lpmList cls
  let past := fun (l : List (Nat × Nat)) => (l.map fun x => x.1 + lpmWidth cls).foldl max 0
  (past (l.filter fun x => plen < x.2), past (l.filter fun x => plen ≤ x.2), ((l.filter fun x => x.2 < plen).map Prod.fst).foldl min (tblSize 1))

/-- A place opened in a length group: a free one behind the group, or else before or inside it; failing both, the place of the next shorter
group's first prefix, which moves to its own group's end (R145). Only what is not locked, or `own`, is taken; the error tells
whether a lock stands in the way (R153). The fuel is the number of lengths. -/
def Chip.lpmOpen (own : Nat → Bool) : Nat → Chip → Nat → Nat → Except Bool (Nat × Chip)
  | 0, _, _, _ => .error false
  | n + 1, c, cls, plen =>
    let (low, a, b) := c.lpmBounds cls plen
    let gap := c.lpmGap cls (fun i => !c.locked 1 i || own i) (tblSize 1)
    match (gap a b).orElse fun _ => gap low a with
    | some i => .ok (i, c)
    | none =>
      match (c.lpmList cls).find? fun x => x.2 < plen with
      | none => .error (c.lpmGap cls (fun _ => true) (tblSize 1) low b).isSome
      | some (i, m) =>
        if c.locked 1 i then .error true
        else match lpmOpen own n c cls m with
          | .error e => .error e
          | .ok (j, c1) => .ok (i, c1.lpmMove cls i j)

/-- The key of a prefix: class, length, address bits (32 or 64). -/
def lpmKeyOf (first second : Nat) : Nat × Nat × Nat :=
  if Lay.LPM_KIND.get first = 0 then (0, Lay.LPM_PLEN.get first, Lay.LPM_KEY.get first)
  else (1, Lay.LPM_PLEN.get first, Lay.LPM_KEY.get first * 2 ^ 32 + Lay.LPM_KEY.get second)

/-- The index generation g sees a prefix at. -/
def Chip.lpmFind (c : Chip) (g : Nat) (k : Nat × Nat × Nat) : Option Nat :=
  ((c.visible g 1).find? fun x => Lay.LPM_KIND.get x.2 == k.1 && lpmKeyOf x.2 (c.ent 1 0 (x.1 + 1)) == k).map Prod.fst

/-- Whether an address (32 bits, or the upper 64) matches a prefix. -/
def lpmHit (cls : Nat) (k : Nat × Nat × Nat) (addr : Nat) : Bool :=
  let w := if cls = 0 then 32 else 64
  k.1 == cls && addr / 2 ^ (w - k.2.1) == k.2.2 / 2 ^ (w - k.2.1)

/-- The lowest-index match of an address: the index and the entry with the result (R145). A pair matches only as a whole. -/
def Chip.lpmLookup (c : Chip) (g cls addr : Nat) : Option (Nat × Nat) :=
  (c.visible g 1).findSome? fun x =>
    if Lay.LPM_KIND.get x.2 = cls ∧ cls ≤ 1 ∧ !c.eccBad 1 x.1 then
      let second := c.entLook g 1 (x.1 + 1)
      if lpmHit cls (lpmKeyOf x.2 second) addr && (cls == 0 || Lay.LPM_KIND.get second == 2) then
        some (x.1, if cls = 0 then x.2 else second)
      else none
    else none

/-! ### Classifier (R146) -/

/-- Whether a key with its absent bits matches a rule. `present` has the key bits of the fields the frame has. -/
def clsHit (e key present : Nat) : Bool :=
  let m := Lay.CLS_MASK.get e
  (m &&& ((Lay.CLS_KEY.get e) ^^^ key)) == 0 && (m &&& present) == m

/-- The lowest-index rule that matches (R146). -/
def Chip.clsLookup (c : Chip) (g key present : Nat) : Option (Nat × Nat) := (c.visible g 2).find? fun x => clsHit x.2 key present && !c.eccBad 2 x.1

/-! ### Checks of an entry to be written -/

/-- Whether every bit of v outside the fields is 0. -/
def onlyBits (v : Nat) (fs : List Bf) : Bool := fs.foldl (fun v f => f.set v 0) v == 0

/-- The result field of an exact-match entry by TYPE (R138), bits relative to the entry. -/
def emResultOk (ty e : Nat) : Bool :=
  let port := bitsOf e 59 1 == 0
  let dest := bitsOf e 45 14
  let bit := fun (l : Nat) (w : Nat) => ({ lo := l, width := w } : Bf)
  let body := bitsOf e 16 44 * 65536
  match ty with
  | 1 => (!port || decide (dest ≤ 511)) && onlyBits body [bit 59 1, bit 45 14, bit 44 1, bit 32 12, bit 31 1, bit 21 4, bit 19 2]
  | 2 => (!port || decide (dest ≤ 511)) && onlyBits body [bit 59 1, bit 45 14, bit 44 1, bit 32 12, bit 31 1]
  | 3 => bitsOf e 44 1 == 1 && onlyBits body [bit 44 1, bit 32 12]
  | 4 => onlyBits body [bit 46 14, bit 32 14, bit 31 1, bit 30 1]
  | _ => false

def emOk (e : Nat) : Bool :=
  let ty := Lay.EM_TYPE.get e
  let vid := Lay.EM_VID.get e
  decide (1 ≤ ty) && decide (ty ≤ 4) && bitsOf e 120 2 == 0 && decide (1 ≤ vid) && decide (vid ≤ 4094) &&
  (ty != 4 || Lay.EM_MAC.get e == 0) && emResultOk ty e

def lpmOk (e : Nat) : Bool :=
  let k := Lay.LPM_KIND.get e
  let p := Lay.LPM_PLEN.get e
  let bits := if k = 2 then p - 32 else min p 32
  decide (k ≤ 2) && decide (p ≤ (if k = 0 then 32 else 64)) && Lay.LPM_KEY.get e % 2 ^ (32 - bits) == 0 &&
  decide (Lay.LPM_ACTION.get e ≤ 2) && (k != 1 || Lay.LPM_ACTION.get e == 0) && decide (Lay.LPM_DEST.get e ≤ 511) && bitsOf e 0 125 == 0

def clsOk (e : Nat) : Bool :=
  let a := Lay.CLS_ACTION.get e
  bitsOf e 496 14 == 0 && bitsOf e 448 32 == 0 && bitsOf (Lay.CLS_MASK.get e) 171 21 == 0 && bitsOf (Lay.CLS_KEY.get e) 171 21 == 0 &&
  bitsOf a 0 10 == 0 && Lay.CA_COLOUR.get a != 3 &&
  (Lay.CA_SET_VID.get a == 0 || (decide (1 ≤ Lay.CA_VID.get a) && decide (Lay.CA_VID.get a ≤ 4094)))

def sfOk (e : Nat) : Bool :=
  let s := Lay.SF_MAX_SDU.get e
  bitsOf e 0 54 == 0 && (s == 0 || (decide (64 ≤ s) && decide (s ≤ 9728)))

def mtrOk (e : Nat) : Bool := bitsOf e 0 35 == 0

def seqrOk (e : Nat) : Bool := bitsOf e 0 86 == 0 && Lay.SEQR_RESET_MS.get e != 0

def mirOk (e : Nat) : Bool :=
  bitsOf e 32 1 == 0 && bitsOf e 0 16 == 0 && decide (Lay.MIR_DEST_PORT.get e ≤ 511) &&
  (e == 0 || (decide (64 ≤ Lay.MIR_TRUNC_LEN.get e) && decide (Lay.MIR_TRUNC_LEN.get e ≤ 9728)))

/-- Whether an entry may be written at an index (R90, R138 to R151, R315). -/
def Chip.entryOk (c : Chip) (t i e : Nat) : Bool :=
  match t with
  | 0 => emOk e | 1 => lpmOk e | 2 => clsOk e
  | 3 => if i < 4096 then sfOk e else mtrOk e
  | 4 => seqrOk e
  | 5 => !(c.on Reg.FAB_CFG_FAB_EN && decide (16320 ≤ i))
  | 6 => mirOk e
  | _ => false

/-! ### Writes that take effect at once (R135) -/

/-- What a written meter or recovery entry starts from (R148, R150). -/
def Chip.entryHook (c : Chip) (t i e : Nat) : Chip :=
  if t = 3 ∧ 4096 ≤ i then
    let old := SMap.get c.tbl.meters (i - 4096)
    let full : MtrSt := { old with c := Lay.MTR_CBS.get e * 10 ^ 8, e := Lay.MTR_EBS.get e * 10 ^ 8, at_ := c.now }
    { c with tbl := { c.tbl with meters := SMap.set c.tbl.meters (i - 4096) full } }
  else if t = 4 then
    { c with tbl := { c.tbl with rcov := SMap.upd c.tbl.rcov i fun r => { r with live := false, seq := 0, hist := 0 } } }
  else c

/-- The entry as stored by a write: VIS by the device, LAST_HIT the current stamp (R402). -/
def Chip.stored (c : Chip) (t i e vis : Nat) : Nat :=
  if t ≤ 4 then
    let e1 := setVis t e vis
    match hitField t i with | some F => F.set e1 c.stampNow | none => e1
  else e

/-- An entry of tables 2 to 6 written outside a transaction, both copies (R135, R137). -/
def Chip.putEntry (c : Chip) (t i e : Nat) : Chip :=
  if t ≤ 4 then (c.setEnt t 0 i (if e = 0 then 0 else c.stored t i e 3)).entryHook t i e
  else
    let c1 := (c.setEnt t 0 i e).setEnt t 1 i e
    if e = 0 then c1 else { c1 with tbl := { c1.tbl with stamps := SMap.set c1.tbl.stamps (entKey t 0 i) c.stampNow } }

/-- An insert outside a transaction: the index taken, or why not (true: locked). Tables 0 and 1 choose the index. DESIGN CHOICE (log entry 176): an
insert into table 0 is LOCKED when either candidate bucket's segment is, whatever the other holds. -/
def Chip.insertNow (c : Chip) (t e : Nat) (idx : Nat) : Except Bool (Nat × Chip) :=
  match t with
  | 0 =>
    let k := emKeyOf e
    if (c.emBuckets k).any fun b => c.locked 0 (b * 4) then .error true
    else match c.emFind (c.gen 0) k with
      | some i => .ok (i, c.emWrite i (c.stored 0 i e 3))
      | none => match c.emPlace k (c.rd Reg.EM_CTRL_MAX_KICKS 0) with
        | some (i, c1) => .ok (i, c1.emWrite i (c.stored 0 i e 3))
        | none => .error false
  | 1 =>
    let first := if e < 2 ^ 256 then e else e / 2 ^ 256
    let second := e % 2 ^ 256
    let cls := lpmClass first
    let put := fun (c : Chip) (i : Nat) =>
      if cls = 0 then c.setEnt 1 0 i (c.stored 1 i first 3)
      else (c.setEnt 1 0 (i + 1) (c.stored 1 i second 3)).setEnt 1 0 i (c.stored 1 i first 3)
    match c.lpmFind (c.gen 1) (lpmKeyOf first second) with
    | some i => if c.locked 1 i then .error true else .ok (i, put c i)
    | none => match Chip.lpmOpen (fun _ => false) 66 c cls (Lay.LPM_PLEN.get first) with
      | .error x => .error x
      | .ok (i, c1) => .ok (i, put c1 i)
  | _ => if c.locked t idx then .error true else .ok (idx, c.putEntry t idx e)

/-- An entry deleted outside a transaction (R135, R144). -/
def Chip.deleteNow (c : Chip) (t i : Nat) : Chip :=
  match t with
  | 0 => c.emWrite i 0
  | 1 =>
    if Lay.LPM_KIND.get (c.ent 1 0 i) = 0 then c.setEnt 1 0 i 0
    else
      let f := if Lay.LPM_KIND.get (c.ent 1 0 i) = 2 then i - 1 else i
      (c.setEnt 1 0 f 0).setEnt 1 0 (f + 1) 0
  | _ => c.putEntry t i 0

/-! ### Meters (R77, R148) -/

/-- A meter's buckets filled up to now (R77): rates in units of 8 kb/s are 10^-8 byte per 10 ps; with CF = 1 what the committed
bucket cannot hold flows into the excess bucket. -/
def Chip.mtrFill (c : Chip) (m e : Nat) : MtrSt :=
  let s := SMap.get c.tbl.meters m
  let dt := c.now - s.at_
  let raw := s.c + Lay.MTR_CIR.get e * dt
  let cap := Lay.MTR_CBS.get e * 10 ^ 8
  let excess := if Lay.MTR_CF.get e = 1 then raw - cap else 0
  { s with c := min cap raw, e := min (Lay.MTR_EBS.get e * 10 ^ 8) (s.e + Lay.MTR_EIR.get e * dt + excess), at_ := c.now }

/-- The colour a meter gives (0 green, 1 yellow, 2 red) and the bucket it takes tokens of (R77), for a frame of `len` bytes. -/
def mtrColour (s : MtrSt) (e entry len : Nat) : Nat × Nat :=
  let blind := Lay.MTR_CM.get e == 0
  if (blind || entry == 0) && decide ((len + s.resC) * 10 ^ 8 ≤ s.c) then (0, 1)
  else if (blind || entry != 2) && decide ((len + s.resE) * 10 ^ 8 ≤ s.e) then (1, 2)
  else (2, 0)

/-- A meter applied to a frame: its colour, its reservation and the block with the tokens reserved (R30, R77). An entry that is not
visible meters nothing. -/
def Chip.meter (c : Chip) (g m entry len : Nat) : Nat × Bool × List MtrUse × Chip :=
  let e := c.entLook g 3 (4096 + m)
  if e = 0 then (entry, false, [], c)
  else
    let s := c.mtrFill m e
    let (col, b) := mtrColour s e entry len
    let s1 := if b = 1 then { s with resC := s.resC + len } else if b = 2 then { s with resE := s.resE + len } else s
    (col, Lay.MTR_DROP_ON_RED.get e == 1 && col == 2, if b = 0 then [] else [{ meter := m, bucket := b, bytes := len }],
      { c with tbl := { c.tbl with meters := SMap.set c.tbl.meters m s1 } })

/-- A reservation settled: released, and with `debit` the true length taken from its bucket (R30, R77). -/
def Chip.mtrSettle (c : Chip) (u : MtrUse) (debit : Option Nat) : Chip :=
  let e := c.entNow 3 (4096 + u.meter)
  let s := if e = 0 then SMap.get c.tbl.meters u.meter else c.mtrFill u.meter e
  let d := (debit.getD 0) * 10 ^ 8
  let s1 := if u.bucket = 1 then { s with resC := s.resC - u.bytes, c := s.c - d }
    else { s with resE := s.resE - u.bytes, e := s.e - d }
  { c with tbl := { c.tbl with meters := SMap.set c.tbl.meters u.meter s1 } }

/-! ### Sequence recovery (R29, R150, IEEE 802.1CB) -/

/-- What a number is against a history: passes, is a duplicate, or lies outside the history; and whether it is out of order. -/
def rcovJudge (r : Rcov) (e n : Nat) : Nat × Bool :=
  if !r.live then (0, false)
  else
    let d := signed 16 ((n + 65536 - r.seq % 65536) % 65536)
    if Lay.SEQR_ALG.get e = 1 then (if d = 0 then (1, false) else (0, decide (d ≠ 1)))
    else
      let len : Int := Lay.SEQR_HIST_LEN.get e + 1
      if len ≤ d ∨ d ≤ -len then (2, false)
      else if d ≤ 0 then (if bitOf r.hist d.natAbs then (1, false) else (0, true))
      else (0, decide (d ≠ 1))

/-- A number recorded as passed. -/
def rcovRecord (r : Rcov) (e n now : Nat) : Rcov :=
  let d := signed 16 ((n + 65536 - r.seq % 65536) % 65536)
  if !r.live then { r with live := true, seq := n, hist := 1, lastAt := now }
  else if Lay.SEQR_ALG.get e = 1 then { r with seq := n, hist := 1, lastAt := now }
  else if d ≤ 0 then { r with hist := setBit r.hist d.natAbs, lastAt := now }
  else { r with seq := n, hist := (r.hist * 2 ^ d.natAbs + 1) % 2 ^ (Lay.SEQR_HIST_LEN.get e + 1), lastAt := now }

end Sys2Proof.Machine
end

