-- ==== Sys2Proof/Machine/Pool.lean ====
section
/-! DEFINITION. The shared pool: cells, banks and charge sources, reference counts, occupancy and flow control, enqueueing, and the
frames the device itself sends (R93 to R108, 05_buffer_pool.md; R48, R64 to R67, R115). -/

namespace Sys2Proof.Machine

/-! ### Frames and ports -/

def Chip.frameOf (c : Chip) (id : Nat) : Option Frame := c.path.frames.find? fun f => f.id == id

def Chip.updFrame (c : Chip) (id : Nat) (f : Frame → Frame) : Chip :=
  { c with path := { c.path with frames := c.path.frames.map fun x => if x.id = id then f x else x } }

def Chip.portSt (c : Chip) (p : Nat) : PortSt := SMap.get c.path.ports p

def Chip.updPort (c : Chip) (p : Nat) (f : PortSt → PortSt) : Chip :=
  { c with path := { c.path with ports := SMap.upd c.path.ports p f } }

/-- One target of a frame rewritten. -/
def Frame.updTgt (f : Frame) (k : Nat) (g : Tgt → Tgt) : Frame :=
  { f with tgts := f.tgts.mapIdx fun i t => if i = k then g t else t }

def Chip.updTgt (c : Chip) (id k : Nat) (g : Tgt → Tgt) : Chip := c.updFrame id fun f => f.updTgt k g

def Chip.tgtOf (c : Chip) (id k : Nat) : Option Tgt := (c.frameOf id).bind fun f => f.tgts[k]?

/-- The length from the DA up to and including the FCS. -/
def Frame.len (f : Frame) : Nat := f.bytes.length

/-- Cells a length takes (R93). -/
def cellsOf (len : Nat) : Nat := ceilDiv len 256

/-- The queue of a port and class (R76, R108). -/
def queueOf (port cls : Nat) : Nat := if port = 512 then 4096 + cls else port * 8 + cls

/-- The port of a queue. -/
def queuePort (q : Nat) : Nat := if 4096 ≤ q then 512 else q / 8

/-- The trap queue of a class, numbered beside the egress queues (R92). -/
def trapQueue (cls : Nat) : Nat := 8000 + cls

/-- MODE of a port. -/
def Chip.mode (c : Chip) (p : Nat) : Nat := if p = 512 then c.rd Reg.MGT_CFG_MODE 512 else c.rd Reg.PORT_CFG_MODE p

/-- MAX_FRAME of a port or of MGT. -/
def Chip.maxFrame (c : Chip) (port : Nat) : Nat :=
  if port = 512 then c.rd Reg.MGT_CFG_MAX_FRAME 512 else c.rd Reg.PORT_CFG_MAX_FRAME port

/-- The rate of a port in Mb/s by MODE (R81). -/
def Chip.rate (c : Chip) (p : Nat) : Nat :=
  if p = 512 then (if c.mode 512 = 7 then c.mgtSpeed else 1000)
  else match c.mode p with
    | 1 => 1000 | 2 => 2500 | 3 => 10000 | 4 => 25000 | 5 => 40000 | 6 => 100000 | _ => 0

/-- Whether the link of a port is up. -/
def Chip.linkUp (c : Chip) (port : Nat) : Bool := c.on Reg.PORT_STATUS_LINK_UP port

/-- Whether the device takes part in a fabric. -/
def Chip.fabOn (c : Chip) : Bool := c.on Reg.FAB_CFG_FAB_EN

/-- Whether a port is a fabric port (R314). -/
def Chip.fabPort (c : Chip) (p : Nat) : Bool := decide (p < 512) && c.fabOn && c.on Reg.FAB_PORT_CFG_FAB_EN p

/-- Whether a frame without FCS is a hello: a Zidom frame of TYPE 1 whose payload has SUBTYPE 0 (R316, R319). -/
def isHello (b : Bytes) : Bool := Lay.ZID_TYPE.get (natAt b 0 16) == 1 && Lay.HEL_SUBTYPE.get (natAt b 16 32) == 0

/-- Whether a frame may not leave a port because it is ISOLATED, where hellos alone do (R319). -/
def Chip.silent (c : Chip) (p : Nat) (b : Bytes) : Bool := c.fabPort p && c.rd Reg.FAB_PORT_STATUS_LINK p == 3 && !isHello b

/-! ### Banks and cells (R93, R94) -/

/-- Whether no cell of a frame lies in a frozen bank (R48). -/
def Chip.cellsOpen (c : Chip) (f : Frame) : Bool := f.cells.all fun x => !c.arbFrozen (x.1 / 4096)

/-- Free cells of a bank; retired cells are never used (R96). -/
def Chip.bankFree (c : Chip) (b : Nat) : Nat :=
  let s := SMap.get c.path.banks b
  4096 - s.fresh - (c.lull.retired.filter fun x => decide (x / 4096 = b) && decide (s.fresh ≤ x % 4096)).length + s.back.length

/-- Whether a cell is on its bank's free list. -/
def Chip.cellFree (c : Chip) (x : Nat) : Bool :=
  let s := SMap.get c.path.banks (x / 4096)
  !c.lull.retired.contains x && (decide (s.fresh ≤ x % 4096) || s.back.contains x)

/-- The next cell of a bank never yet taken and not retired. -/
def Chip.nextFresh (c : Chip) (b : Nat) : Nat → Nat → Nat
  | 0, k => k
  | n + 1, k => if c.lull.retired.contains (b * 4096 + k) then c.nextFresh b n (k + 1) else k

/-- The first cell of a bank's free list, taken. DESIGN CHOICE (log entry 192): at reset the list holds the bank's cells in ascending order. -/
def Chip.bankPop (c : Chip) (b : Nat) : Option (Nat × Chip) :=
  let s := SMap.get c.path.banks b
  let k := c.nextFresh b c.lull.retired.length s.fresh
  let put := fun (y : Bank) => { c with path := { c.path with banks := SMap.set c.path.banks b y } }
  if k < 4096 then some (b * 4096 + k, put { s with fresh := k + 1 })
  else match s.back with
    | x :: l => some (x, put { fresh := 4096, back := l })
    | [] => none

/-- A cell taken by a writer from the banks in rotation, frozen banks skipped (R48, R94). -/
def Chip.takeCell (c : Chip) (writer : Nat) : Option (Nat × Chip) :=
  let at0 := SMap.get c.path.rot writer
  (List.range 64).findSome? fun d =>
    let b := (at0 + d) % 64
    if c.arbFrozen b then none
    else (c.bankPop b).map fun x =>
      (x.1, { x.2 with path := { x.2.path with rot := SMap.set x.2.path.rot writer ((b + 1) % 64) } })

/-- Cells returned to their banks. -/
def Chip.returnCells (c : Chip) (l : List Nat) : Chip :=
  c.each l fun x c =>
    { c with path := { c.path with banks := SMap.upd c.path.banks (x / 4096) fun s => { s with back := s.back ++ [x] } } }

/-! ### Charge sources (R95, R96) -/

/-- Ports with MODE ≠ 0. -/
def Chip.activePorts (c : Chip) : List Nat := (List.range 512).filter fun p => c.rd Reg.PORT_CFG_MODE p != 0

/-- What R96 takes off the pool: retired cells and every reserve. -/
def Chip.reserved (c : Chip) : Nat :=
  c.lull.retired.length + c.rd Reg.POOL_CFG_SCATTER_RSV + c.rd Reg.POOL_CFG_TRAP_RSV +
  (c.activePorts.map fun p => c.rd Reg.IN_BUF_RSV_IN p + c.rd Reg.IN_BUF_HEADROOM p +
    ((List.range 8).map fun k => c.rd Reg.Q_BUF_RSV_Q (p * 8 + k)).sum).sum

/-- S, the size of the shared region (R96). -/
def Chip.sharedSize (c : Chip) : Nat := 262144 - c.reserved

/-- The size of a charge source. -/
def Chip.srcSize (c : Chip) : Src → Nat
  | .shared => c.sharedSize
  | .scatter => c.rd Reg.POOL_CFG_SCATTER_RSV
  | .trap => c.rd Reg.POOL_CFG_TRAP_RSV
  | .queue q => if q < 4096 then c.rd Reg.Q_BUF_RSV_Q q else 0
  | .ingress p => if p < 512 then c.rd Reg.IN_BUF_RSV_IN p else 0
  | .headroom p => if p < 512 then c.rd Reg.IN_BUF_HEADROOM p else 0

/-- Cells of a frame charged to a source. -/
def Frame.charged (f : Frame) (s : Src) : Nat := (f.cells.filter fun x => x.2 == s).length

/-- Cells charged to a source, of unconfirmed frames too (R28). -/
def Chip.srcUsed (c : Chip) (s : Src) : Nat := (c.path.frames.map fun f => f.charged s).sum

/-- Confirmed frames. -/
def Chip.confirmed (c : Chip) : List Frame := c.path.frames.filter fun f => f.res == 1

/-- Confirmed cells charged to a source (R28). -/
def Chip.srcShown (c : Chip) (s : Src) : Nat := (c.confirmed.map fun f => f.charged s).sum

/-- POOL_USED (R28). -/
def Chip.poolUsed (c : Chip) : Nat := (c.confirmed.map fun f => f.cells.length).sum

/-- Whether a target holds a reference (R102). -/
def Tgt.live (t : Tgt) : Bool := t.st != .gone

/-- The depth D of a queue in cells, of unconfirmed frames too (R97, R102). -/
def Chip.depth (c : Chip) (q : Nat) : Nat :=
  (c.path.frames.map fun f => if f.tgts.any fun t => t.live && t.queue == q then f.cells.length else 0).sum

/-- The depth shown: cells of confirmed frames (R28). -/
def Chip.depthShown (c : Chip) (q : Nat) : Nat :=
  (c.confirmed.map fun f => if f.tgts.any fun t => t.live && t.queue == q then f.cells.length else 0).sum

/-- One cell charged to the first source of the order with a free cell (R95). -/
def Chip.chargeOne (c : Chip) (id writer : Nat) (order : List Src) : Option Chip :=
  match order.find? (fun s => decide (c.srcUsed s < c.srcSize s)) with
  | none => none
  | some s => (c.takeCell writer).map fun x => x.2.updFrame id fun f => { f with cells := f.cells ++ [(x.1, s)] }

/-- Cells taken up to a number; a frame that finds none is marked. -/
def Chip.chargeTo : Nat → Nat → Nat → List Src → Chip → Chip
  | 0, _, _, _, c => c
  | n + 1, id, writer, order, c =>
    match c.chargeOne id writer order with
    | some c1 => chargeTo n id writer order c1
    | none => c.updFrame id fun f => { f with noCells := true }

/-- The order of sources of a received frame (R95, R100, R107). In XOFF a lossless frame draws from the headroom only (log entry
13); a lossless frame with trap targets alone takes the trap reserve and then its headroom, without which it does not fail (log entry 146). -/
def Chip.sourceOrder (c : Chip) (f : Frame) : List Src :=
  let live := f.tgts.filter Tgt.live
  if live.all fun t => 8000 ≤ t.queue then .trap :: if f.lossless then [.headroom f.port] else []
  else if f.lossless then
    if bitOf (c.rd Reg.IN_STAT_XOFF f.port) f.cls then [.headroom f.port] else [.ingress f.port, .shared, .headroom f.port]
  else match live with
    | [t] => [.queue t.queue, .ingress f.port, .shared]
    | _ => [.ingress f.port, .shared]

/-- The writer a frame's cells are taken by: its ingress octet (R94). -/
def Frame.writer (f : Frame) : Nat := f.port / 8

/-- Cells a frame has come to need by now: one for each 256 bytes begun, at its port's rate from its first byte on. -/
def Chip.cellsHere (c : Chip) (f : Frame) : Nat := min (cellsOf f.len) ((c.now - f.startAt) * c.rate f.port / 800000 / 256 + 1)

/-- Cells taken by a frame up to a number, as long as a target refers to it. -/
def Chip.takeCells (c : Chip) (id n : Nat) : Chip :=
  match c.frameOf id with
  | none => c
  | some f =>
    if f.tgts.all (fun t => !t.live) ∨ f.noCells then c else Chip.chargeTo (n - f.cells.length) id f.writer (c.sourceOrder f) c

/-- The cells that frames still arriving have taken by now, each charged as it was taken: before anything that frees cells, ends XOFF or sizes a
source anew (R95, R97). -/
def Chip.takeArrived (c : Chip) : Chip :=
  c.each (c.path.frames.filter fun f => f.origin == .received && f.res == 0 && f.stage == 2) fun f c => c.takeCells f.id (c.cellsHere f)

/-! ### Low power (R64 to R67) -/

/-- LP_STATE from the transmit and receive directions (R56): a lane waking from LPI shows 5 too, and the ordered sets before electrical idle
still show 0. -/
def Chip.lpShow (c : Chip) (p : Nat) : Chip :=
  let s := c.portSt p
  let v := if s.lpTx = 4 then 4 else if s.lpTx = 5 ∨ s.lpTx = 6 then 5 else if s.lpTx = 1 then (if s.lpRx = 2 then 3 else 1)
    else if s.lpRx = 2 then 2 else 0
  if p < 512 then c.wr Reg.PORT_STATUS_LP_STATE v p else c

/-- The block period of a port's lane rate in units of 10 ps (R66). -/
def Chip.blockPeriod (c : Chip) (p : Nat) : Nat := if c.mode p = 3 ∨ c.mode p = 5 then 640 else 256

/-- A frame for a port is enqueued, or one of its own becomes due (log entry 152): electrical idle starts its wake burst at the next block
boundary, one block period on (log entry 153), transmit LPI begins to wake, ordered sets and a running holdoff are cancelled (R64, R66, R67). -/
def Chip.wakePort (c : Chip) (p : Nat) : Chip :=
  let s := c.portSt p
  match s.lpTx with
  | 1 => (((c.updPort p fun s => { s with idleArm := false, lpTx := 6, lpAt := c.now }).lpShow p).emit (.pin 0 p 0))
  | 4 => (((c.updPort p fun s => { s with idleArm := false, lpTx := 5, lpSent := 0, lpAt := c.now + c.blockPeriod p }).lpShow p).emit (.pin 1 p 1))
  | 7 => (c.updPort p fun s => { s with idleArm := false, lpTx := 0 }).emit (.line p .idle)
  | _ => c.updPort p fun s => { s with idleArm := false }

/-- Whether every queue and slot of a port is empty. -/
def Chip.portEmpty (c : Chip) (p : Nat) : Bool :=
  ((List.range 8).all fun k => (SMap.get c.path.queues (queueOf p k)).isEmpty) && (c.portSt p).slots.isEmpty

/-- The port's queues having run empty starts its idle timer (R64, R66). -/
def Chip.idleCheck (c : Chip) (p : Nat) : Chip :=
  if c.portEmpty p && !(c.portSt p).idleArm then c.updPort p fun s => { s with idleArm := true, emptySince := c.now } else c

/-! ### Occupancy marks and flow control (R28, R101) -/

/-- POOL_WMARK and Q_WMARK raised to what is shown now. -/
def Chip.marks (c : Chip) (qs : List Nat) : Chip :=
  (c.peak Reg.POOL_WMARK c.poolUsed).each qs fun q c => if q < 4104 then c.peak Reg.Q_WMARK_DEPTH (c.depthShown q) q else c

/-- A(p, c): confirmed cells of a class from a port charged to the shared region (R101). -/
def Chip.sharedOf (c : Chip) (p cls : Nat) : Nat :=
  (c.confirmed.map fun f => if f.origin = .received ∧ f.port = p ∧ f.cls = cls then f.charged .shared else 0).sum

/-- The lossless classes of a port. -/
def Chip.losslessMask (c : Chip) (p : Nat) : Nat := c.rd Reg.FC_CFG_LOSSLESS p

/-- XOFF of a set of cells against the threshold, with the hysteresis of R101. -/
def Chip.xoffNext (c : Chip) (p a : Nat) (now : Bool) : Bool :=
  let th := c.rd Reg.FC_CFG_XOFF_TH p
  if now then !decide (a < th - cellsOf (c.maxFrame p)) else decide (th ≤ a)

/-- Flow control of a port brought up to date (R101): XOFF, and the PAUSE or PFC frame that becomes due for changed classes. A fabric port sends none
(R314). -/
def Chip.flowUpdate (c : Chip) (p : Nat) : Chip :=
  let m := c.rd Reg.FC_CFG_FC_MODE p
  let old := c.rd Reg.IN_STAT_XOFF p
  let ll := c.losslessMask p
  if 512 ≤ p ∨ (m ≠ 1 ∧ m ≠ 2) then (if old = 0 ∨ 512 ≤ p then c else c.wr Reg.IN_STAT_XOFF 0 p)
  else
    let new :=
      if m = 2 then ((List.range 8).filter fun k => bitOf ll k && c.xoffNext p (c.sharedOf p k) (bitOf old k)).foldl setBit 0
      else
        let sum := (((List.range 8).filter fun k => bitOf ll k).map fun k => c.sharedOf p k).sum
        if ll ≠ 0 ∧ c.xoffNext p sum (decide (old ≠ 0)) then ll else 0
    if new = old then c
    else if c.fabPort p then c.wr Reg.IN_STAT_XOFF new p
    else ((c.wr Reg.IN_STAT_XOFF new p).updPort p fun s =>
      { s with fcOn := new, fcDue := some ((s.fcDue.getD 0) ||| (new ^^^ old)) }).wakePort p

/-! ### References and release (R28, R102) -/

/-- A frame whose references are all released gives its cells back together, resolved or not, after what has arrived by then has taken its own (R95); those of a lossless class count in RET of its
port (R325). Once its tail is resolved too it leaves. -/
def Chip.settle (c : Chip) (id : Nat) : Chip :=
  match c.frameOf id with
  | none => c
  | some f =>
    if f.stage = 2 ∧ f.tgts.all (fun t => !t.live) then
      let c := c.takeArrived
      let c1 := if f.res ≠ 0 then { c with path := { c.path with frames := c.path.frames.filter fun x => x.id != id } }
        else c.updFrame id fun f => { f with cells := [] }
      let c2 := c1.returnCells (f.cells.map Prod.fst)
      let c3 := if f.lossless then
          { c2 with path := { c2.path with credRet := SMap.upd c2.path.credRet (f.port * 8 + f.cls) fun n => (n + f.cells.length) % 2 ^ 32 } }
        else c2
      if f.origin = .received then c3.flowUpdate f.port else c3
    else c

/-- A target that has come to the head of its queue, marked with the time (R326). -/
def Chip.newHead (c : Chip) (q : Nat) (old : Option (Nat × Nat)) : Chip :=
  match (SMap.get c.path.queues q).head? with
  | none => c
  | some x => if old = some x then c else c.updTgt x.1 x.2 fun t => { t with headAt := c.now }

/-- A target taken out of its queue. -/
def Chip.unqueue (c : Chip) (q : Nat) (x : Nat × Nat) : Chip :=
  let old := (SMap.get c.path.queues q).head?
  { c with path := { c.path with queues := SMap.upd c.path.queues q fun l => l.filter fun y => y != x } }.newHead q old

/-- A target taken out of wherever it waits and its reference released (R102). -/
def Chip.dropTgt (c : Chip) (id k : Nat) : Chip :=
  match c.tgtOf id k with
  | none => c
  | some t =>
    let c1 := c.unqueue t.queue (id, k)
    let c2 := if t.port ≤ 512 then
        c1.updPort t.port fun s => if s.slots.contains (id, k) then { s with slots := s.slots.filter fun x => x != (id, k) } else s
      else c1
    (c2.updTgt id k fun t => { t with st := .gone }).settle id

/-! ### The lane -/

/-- The bytes of the frame on a lane that have left by now, from its DA on. -/
def Chip.bytesOut (c : Chip) (p : Nat) : Nat := (c.portSt p).out.done + ((c.now - (c.portSt p).out.from_) * c.rate p / 800000 - 8)

/-- The lane is free once the minimum gap of 12 bytes after the frame that ends now has passed (R129). -/
def Chip.gapAfter (c : Chip) (p : Nat) : Chip := c.updPort p fun s => { s with freeAt := c.now + ceilDiv (12 * 800000) (max 1 (c.rate p)) }

/-! ### Enqueueing -/

/-- The queue's entries. -/
def Chip.queue (c : Chip) (q : Nat) : List (Nat × Nat) := SMap.get c.path.queues q

/-- The virtual time V in units of 2^-16 ns, rounded down (R113). -/
def Chip.vTime (c : Chip) : Nat := c.now * 65536 / 100

/-- The eligible time TE of a queue (R114). -/
def Chip.shTe (c : Chip) (q : Nat) : Nat := SMap.get c.path.te q

/-- The calendar takes a queue in whose TE lies ahead, and lets go one whose TE is reached (R114). -/
def Chip.calEnter (c : Chip) (q : Nat) : Chip :=
  { c with path := { c.path with cal := SMap.set c.path.cal q (c.rd Reg.SHP_RATE_RATE q != 0 && decide (c.vTime < c.shTe q)) } }

/-- A slot of the calendar, 40.96 ns, in 2^-16 ns rounded up: within it of V reaching TE the calendar finds a queue (R114). -/
def calSlot : Nat := 2684355

/-- A target's pointer enqueued: before an untimed frame in an empty queue the shaper takes TE := max(TE, V) (R115, R116), and the port
wakes. -/
def Chip.enqueue (c : Chip) (id k : Nat) : Chip :=
  match c.tgtOf id k with
  | none => c
  | some t =>
    let q := t.queue
    let c1 := if (c.queue q).isEmpty ∧ q < 4104 ∧ t.launch = none then
        Chip.calEnter { c with path := { c.path with te := SMap.upd c.path.te q fun x => max x c.vTime } } q else c
    let n := c1.path.ordCtr
    let c2 := { c1 with path := { c1.path with ordCtr := n + 1, queues := SMap.set c1.path.queues q (c1.queue q ++ [(id, k)]) } }
    let c3 := c2.updTgt id k fun t => { t with st := .queued, ord := n, headAt := c.now }
    if t.port ≤ 512 then c3.wakePort t.port else c3

/-- A new frame record with the next number. -/
def Chip.newFrame (c : Chip) (f : Frame) : Nat × Chip :=
  let id := c.path.frameCtr
  (id, { c with path := { c.path with frameCtr := id + 1, frames := c.path.frames ++ [{ f with id := id }] } })

/-- A frame of the device's own: confirmed, store-and-forward, its cells of the trap reserve; one that finds no cells is
discarded (log entry 14). -/
def Chip.sendOwn (c : Chip) (o : Origin) (src : Src) (writer port cls : Nat) (b : Bytes) (launch tag : Option Nat) : Option Chip :=
  let c := c.takeArrived
  let t : Tgt := { port := port, queue := queueOf port cls, body := b, launch := launch, tag := tag }
  let len := b.length + 4
  if c.srcSize src < c.srcUsed src + cellsOf len then none
  else
    let f : Frame := { origin := o, port := 1000, bytes := b ++ bytesOfNatLE 4 (crc32 b), stage := 2, res := 1, cls := cls, tgts := [t] }
    let (id, c1) := c.newFrame f
    let c2 := Chip.chargeTo (cellsOf len) id writer [src] c1
    some (((c2.enqueue id 0).count Ev.ENQ_FRAMES (queueOf port cls) len).marks [queueOf port cls])

/-- Whether Q_MAX refuses a frame for a queue of MGT (R108). -/
def Chip.mgtFull (c : Chip) (cls : Nat) : Bool := decide (c.rd Reg.MGT_Q_BUF_Q_MAX (4096 + cls) ≤ c.depth (4096 + cls))

/-- A frame of the management processor is queued: on MGT Q_MAX is tested (R108); a port that is down takes none (R56). -/
def Chip.ownFrame (c : Chip) (port cls : Nat) (b : Bytes) : Chip :=
  let b := b ++ List.replicate (60 - b.length) 0#8
  if port = 512 then
    if c.mgtFull cls then c.count Ev.MGT_Q_DROP (4096 + cls)
    else (c.sendOwn .device .trap 64 512 cls b none none).getD c
  else if !c.linkUp port ∨ c.silent port b then c
  else (c.sendOwn .device .trap 64 port cls b none none).getD c

/-- Cells of injected and checkpoint frames (R95). -/
def Chip.injectCells (c : Chip) : Nat :=
  (c.path.frames.map fun f => if f.origin = .injected ∨ f.origin = .checkpoint then f.cells.length else 0).sum

/-- Whether a frame of `len` bytes may be charged within TRAP_RSV − 64 (R95). -/
def Chip.injectRoom (c : Chip) (len : Nat) : Bool :=
  decide (c.injectCells + cellsOf len + 64 ≤ c.rd Reg.POOL_CFG_TRAP_RSV) && decide (c.srcUsed .trap + cellsOf len ≤ c.rd Reg.POOL_CFG_TRAP_RSV)

end Sys2Proof.Machine
end

