-- ==== Sys2Proof/Machine/Routes.lean ====
section
/-! DEFINITION. The fabric's ports and topology database, and up/down routing over it (R314, R319 to R324, 14_fabric.md). -/

namespace Sys2Proof.Machine

/-! ### The device and its ports -/

/-- Whether a port is the twin link. -/
def Chip.twinPort (c : Chip) (p : Nat) : Bool := c.on Reg.TWIN_CFG_PAIR_EN && decide (p < 512) && c.rd Reg.TWIN_CFG_LINK_PORT == p

/-- Whether a port is powered and may start frames: MGT always, the twin link in cold standby, every port in RUN (R337, R418). -/
def Chip.portPowered (c : Chip) (p : Nat) : Bool :=
  p == 512 || c.rd Reg.PWR_STATUS_STATE == 2 || (c.rd Reg.PWR_STATUS_STATE == 1 && c.twinPort p)

/-- The device ID in force (R321). -/
def Chip.fabId (c : Chip) : Option Nat := if c.on Reg.FAB_STATUS_ID_VALID then some (c.rd Reg.FAB_STATUS_DEV_ID) else none

/-- The stored device ID takes effect, at a start or when FAB_EN changes from 0 to 1 (R321). -/
def Chip.takeId (c : Chip) : Chip :=
  match c.fab.storedId with
  | some d => (c.flag Reg.FAB_STATUS_ID_VALID true).wr Reg.FAB_STATUS_DEV_ID d
  | none => (c.flag Reg.FAB_STATUS_ID_VALID false).wr Reg.FAB_STATUS_DEV_ID 0

/-- Whether a fabric port's link is UP (R319). -/
def Chip.fabUp (c : Chip) (p : Nat) : Bool := c.fabPort p && c.rd Reg.FAB_PORT_STATUS_LINK p == 2

def Chip.hello (c : Chip) (p : Nat) : Hello := SMap.get c.fab.hello p

def Chip.updHello (c : Chip) (p : Nat) (f : Hello → Hello) : Chip :=
  { c with fab := { c.fab with hello := SMap.upd c.fab.hello p f } }

/-- HELLO_MS as an interval. -/
def Chip.helloTime (c : Chip) : Nat := unitsMs (c.rd Reg.FAB_CFG_HELLO_MS)

/-- The fabric ports. -/
def Chip.fabPorts (c : Chip) : List Nat := if c.fabOn then (List.range 512).filter c.fabPort else []

/-- TWIN of the device's record (R320): 0 not a twin, 1 active, 2 standby. -/
def Chip.twinMark (c : Chip) : Nat :=
  match c.rd Reg.TWIN_STATUS_STATE with
  | 0 => 0 | 5 => 1 | _ => 2

/-- The device's own record (R320). -/
def Chip.ownRec (c : Chip) : FabRec :=
  { serial := c.serial, idValid := c.fabId.isSome, twin := c.twinMark, dev := c.fabId.getD 0, prio := c.rd Reg.FAB_CFG_ROOT_PRIO
    tstate := c.rd Reg.SEL_STATUS_TSTATE, fstate := c.rd Reg.SEL_STATUS_FSTATE, seq := c.fab.seq
    links := (c.fabPorts.filter c.fabUp).map fun p => (c.rd Reg.FAB_PORT_STATUS_PEER_ID p, p, c.rd Reg.FAB_PORT_STATUS_PEER_PORT p) }

/-- The topology database (R320). -/
def Chip.database (c : Chip) : List FabRec := c.ownRec :: c.fab.recs

/-! ### Graph and routes (R321 to R324) -/

/-- Whether two records are the members of a twin pair. -/
def twinPair (a b : FabRec) : Bool := (a.twin == 1 && b.twin == 2) || (a.twin == 2 && b.twin == 1)

/-- Whether a record is isolated: another, not its twin, claims its ID under a lower SERIAL (R321). -/
def isolated (l : List FabRec) (r : FabRec) : Bool :=
  r.idValid && l.any fun x => x.idValid && x.dev == r.dev && decide (x.serial < r.serial) && !twinPair x r

/-- The records that take part in routing. -/
def liveRecs (l : List FabRec) : List FabRec := l.filter fun r => r.idValid && !isolated l r

/-- A hop of the graph, in one direction. -/
structure Hop where
  src : Nat
  lport : Nat
  dst : Nat
  pport : Nat
  deriving DecidableEq, Repr, Inhabited

/-- The links both ends list with matching ports, in both directions. -/
def hops (l : List FabRec) : List Hop :=
  let live := liveRecs l
  live.flatMap fun a => a.links.filterMap fun (peer, lp, pp) =>
    if live.any fun b => b.dev == peer && b.links.contains (a.dev, pp, lp) then some { src := a.dev, lport := lp, dst := peer, pport := pp }
    else none

/-- The root: the lowest (ROOT_PRIO, SERIAL) (R322). -/
def rootOf (l : List FabRec) : Option FabRec :=
  (liveRecs l).foldl (fun a r => match a with
    | none => some r
    | some x => if r.prio < x.prio ∨ (r.prio = x.prio ∧ r.serial < x.serial) then some r else some x) none

/-- Distances by breadth-first search: `next` of the frontier at distance k, for n rounds. -/
def spread (next : Nat → List Nat) : Nat → Nat → List Nat → List (Nat × Nat) → List (Nat × Nat)
  | 0, _, _, seen => seen
  | n + 1, k, front, seen =>
    let new := ((front.flatMap next).eraseDups).filter fun d => !(seen.any fun x => x.1 == d)
    if new = [] then seen else spread next n (k + 1) new (seen ++ new.map fun d => (d, k + 1))

/-- Levels: hop distances from the root (R322). -/
def levels (l : List FabRec) : List (Nat × Nat) :=
  match rootOf l with
  | none => []
  | some r => spread (fun d => ((hops l).filter fun h => h.src == d).map Hop.dst) 64 0 [r.dev] [(r.dev, 0)]

/-- Whether a hop goes to the up end (R322). -/
def upHop (lv : List (Nat × Nat)) (h : Hop) : Bool :=
  let a := (lookupNat lv h.src).getD 1000
  let b := (lookupNat lv h.dst).getD 1000
  decide (b < a) || (a == b && decide (h.dst < h.src))

/-- The lengths of the all-down routes to a device. -/
def downDist (hs : List Hop) (lv : List (Nat × Nat)) (d : Nat) : List (Nat × Nat) :=
  spread (fun v => (hs.filter fun h => h.dst == v && !upHop lv h).map Hop.src) 64 0 [d] [(d, 0)]

/-- The lengths of the shortest legal routes to a device: all-down ones lengthened by up hops, n rounds. -/
def legalDist (hs : List Hop) (lv : List (Nat × Nat)) : Nat → List (Nat × Nat) → List (Nat × Nat)
  | 0, m => m
  | n + 1, m =>
    let m1 := hs.foldl (fun (m : List (Nat × Nat)) h =>
      if upHop lv h then
        match lookupNat m h.dst with
        | none => m
        | some x => match lookupNat m h.src with
          | none => m ++ [(h.src, x + 1)]
          | some y => if x + 1 < y then m.map fun p => if p.1 = h.src then (p.1, x + 1) else p else m
      else m) m
    if m1 = m then m else legalDist hs lv n m1

/-- The first hops of the shortest legal routes from a device, and their length; `down` allows all-down routes only. -/
def firstHops (l : List FabRec) (self d : Nat) (down : Bool) (not_ : Nat → Bool) : Option (Nat × List Hop) :=
  let hs := hops l
  let lv := levels l
  let dd := downDist hs lv d
  let ld := legalDist hs lv 64 dd
  let cost := fun (h : Hop) =>
    if h.src ≠ self ∨ not_ h.lport then none
    else if upHop lv h then (if down then none else (lookupNat ld h.dst).map (· + 1))
    else (lookupNat dd h.dst).map (· + 1)
  match (hs.filterMap cost) with
  | [] => none
  | x :: xs =>
    let best := xs.foldl min x
    some (best, hs.filter fun h => cost h == some best)

/-- Ports in rising order, each once. -/
def sortPorts (l : List Nat) : List Nat := l.foldl (fun a p => if a.contains p then a else (a.filter (· < p)) ++ p :: a.filter (p < ·)) []

/-- The candidate links toward a device (R322, R323), in port order: the length and the hops' local ports; none without a legal
route of at most 15 hops. -/
def Chip.candidates (c : Chip) (d : Nat) (down : Bool) (from_ : Option Nat) : Option (Nat × List Nat) :=
  match c.fabId with
  | none => none
  | some self =>
    match firstHops c.fab.graph self d down (fun p => some p == from_ || !c.fabUp p) with
    | some (n, hs) => if n ≤ 15 then some (n, sortPorts (hs.map Hop.lport)) else none
    | none => none

/-- The chooser of R323 among equal links; the place of CLASS beside IN_PORT[9:8] is the model's (log entry 17). -/
def linkHash (src dst cls inPort n : Nat) : Nat :=
  let b := bytesOfNat 1 src ++ bytesOfNat 1 dst ++ bytesOfNat 1 (cls * 4 + inPort / 256 % 4) ++ bytesOfNat 1 inPort
  crcReg 0xFFFFFFFF b % max 1 n

/-- The link a frame takes (R323): the pin of its destination where that is a candidate, else by the hash. -/
def Chip.chooseLink (c : Chip) (src d cls inPort : Nat) (down : Bool) (from_ : Option Nat) : Option Nat :=
  match c.candidates d down from_ with
  | none => none
  | some (_, ps) =>
    let pin := c.rd Reg.FAB_PIN_PORT d
    if c.on Reg.FAB_PIN_PIN_EN d ∧ ps.contains pin then some pin else ps[linkHash src d cls inPort ps.length]?

/-- Whether a hop out of a port goes down (R322). -/
def Chip.downPort (c : Chip) (p : Nat) : Bool :=
  match c.fabId with
  | none => false
  | some self =>
    match (hops c.fab.graph).find? fun h => h.src == self && h.lport == p with
    | some h => !upHop (levels c.fab.graph) h
    | none => false

/-- The hop each device but the root takes to its parent (R324): lowest DEV_ID, then lowest local port. -/
def parentHop (hs : List Hop) (lv : List (Nat × Nat)) (d : Nat) : Option Hop :=
  match lookupNat lv d with
  | none => none
  | some 0 => none
  | some (n + 1) =>
    (hs.filter fun h => h.src == d && lookupNat lv h.dst == some n).foldl (fun a h => match a with
      | none => some h
      | some x => if h.dst < x.dst ∨ (h.dst = x.dst ∧ h.lport < x.lport) then some h else some x) none

/-- The local ports that carry tree links (R324). -/
def Chip.treePorts (c : Chip) : List Nat :=
  match c.fabId with
  | none => []
  | some self =>
    let hs := hops c.fab.graph
    let lv := levels c.fab.graph
    let parents := lv.filterMap fun x => parentHop hs lv x.1
    sortPorts (parents.filterMap fun h => if h.src = self then some h.lport else if h.dst = self then some h.pport else none)

end Sys2Proof.Machine
end

