-- ==== Sys2Proof/Machine/Notify.lean ====
section
/-! DEFINITION. Replies and their delivery (R352, R362, R368, R372), the change journal's records (R389 to R393), and notifications with
the coalescer and its suppression rules (R248, R329, R330, R365, R373). -/

namespace Sys2Proof

/-- The path itself, also inside a fabric frame. -/
def Via.base : Via → Via
  | .over _ v => v
  | v => v

/-- The device of the fabric a request came from, in a TYPE 0 Zidom frame (R317). -/
def Via.dev : Via → Option Nat
  | .over d _ => some d.val
  | _ => none

end Sys2Proof

namespace Sys2Proof.Machine

/-! ### Delivery of packets -/

/-- Whether a key slot is valid, and its key. -/
def Chip.slotKey (c : Chip) (slot : Nat) : Option Nat :=
  if c.on Reg.KEY_STATE_VALID slot then some (SMap.get c.keys slot) else none

/-- The port a reply leaves on, and the bytes of its frame around the payload (R350, R362): addresses, tag, EtherType, IP and UDP, the packet's
header and code, FCS, and the Zidom header that it came under. -/
def Chip.replyPath (c : Chip) (v : Via) : Option (Nat × Nat) :=
  let of := fun (port : Fin 513) (tag : Option Nat) (excess : Nat) =>
    some (port.val, 66 + (if tag.isSome then 4 else 0) + excess + (if v.dev.isSome then 16 else 0))
  match v.base with
  | .eth p _ t => of p t 0
  | .udp4 p _ t _ _ => of p t 28
  | .udp6 p _ t _ _ => of p t 48
  | .twinLink => some (c.rd Reg.TWIN_CFG_LINK_PORT, 68)
  | _ => none

/-- The payload bytes one reply packet can hold on its path (R352): 8,960, or what MAX_FRAME of its port leaves. -/
def Chip.replyRoom (c : Chip) (v : Via) : Nat :=
  match c.replyPath v with
  | some (p, n) => min 8960 ((c.maxFrame p - n) / 4 * 4)
  | none => match v.base with
    | .ring => 8960
    | _ => 56

/-- Whether a reply can be sent on its path (R352): a packet fits its port at all, and each unit of the TLVs fits one. -/
def Chip.replyFits (c : Chip) (v : Via) (l : List Tlv) : Bool :=
  fitsRoom (c.replyRoom v) l && match c.replyPath v with
    | some (p, n) => decide (n ≤ c.maxFrame p)
    | none => true

/-- A bit of HIF_ERR set, with its vector (R366, R367). -/
def Chip.hifErr (c : Chip) (b : Nat) : Chip := ({ c with hif := { c.hif with err := setBit c.hif.err b } }).emit (.msix 3)

/-- A packet placed in the reply ring: written to the oldest empty buffer, or waiting for one for 10 ms; with the ring
disabled it is discarded (R368). DESIGN CHOICE (log entry 184): one that is longer than its buffer is lost with HIF_ERR [1]. -/
def Chip.toRing (c : Chip) (b : Bytes) : Chip :=
  if !c.hif.rsp.en then c
  else match c.hif.rspRoom with
  | room :: rooms =>
    let c1 := { c with hif := { c.hif with rspRoom := rooms, rsp := { c.hif.rsp with head := (c.hif.rsp.head + 1) % max 1 c.hif.rsp.size } } }
    if room < b.length then c1.hifErr 1 else (c1.emit (.ringWrite 1 c.hif.rsp.head b)).emit (.msix 0)
  | [] => { c with hif := { c.hif with rspWait := c.hif.rspWait ++ [(c.now + unitsMs 10, b)] } }

/-- The Zidom header of a data frame of the device's own that enters the fabric on a port (R316, R317, R322): no target, no stream handle. DESIGN
CHOICE (log entry 185): IN_PORT is 0. -/
def Chip.zidHead (c : Chip) (p dev cls : Nat) : Nat :=
  Lay.ZID_VER.put 1 + Lay.ZID_DOWN.put (b2n (c.downPort p)) + Lay.ZID_TTL.put 15 + Lay.ZID_SRC_DEV.put (c.fabId.getD 0) + Lay.ZID_DST_DEV.put dev +
    Lay.ZID_CLASS.put cls

/-- A data frame of the management processor on a port. A fabric port sends only Zidom frames (R314): there it goes to device `dev`, or to the device
behind the port (log entry 185), and only while the link is UP. -/
def Chip.ownData (c : Chip) (p cls : Nat) (dev : Option Nat) (b : Bytes) : Chip :=
  if !c.fabPort p then c.ownFrame p cls b
  else if c.fabUp p then
    c.ownFrame p cls (bytesOfNat 16 (c.zidHead p (dev.getD (c.rd Reg.FAB_PORT_STATUS_PEER_ID p)) cls) ++ b ++ List.replicate (60 - b.length) 0#8)
  else c

/-- One reply packet sent back the way its request came (R362, R363, R368), under the addresses of `cfg`. -/
def Chip.sendPacket (c : Chip) (v : Via) (pkt : Bytes) (cfg : Chip := c) : Chip :=
  let mac := cfg.rd Reg.DEV_MAC
  let port := cfg.rd Reg.CMD_CFG_UDP_PORT
  match v.base with
  | .eth p sa t => c.ownData p 7 v.dev (ethFrame sa mac (replyTag t) (cfg.rd Reg.CMD_CFG_ETYPE) pkt)
  | .udp4 p sa t ip sport => c.ownData p 7 v.dev (ethFrame sa mac (replyTag t) 0x0800 (udp4Packet (cfg.rd Reg.CMD_IP4) ip port sport pkt))
  | .udp6 p sa t ip sport => c.ownData p 7 v.dev (ethFrame sa mac (replyTag t) 0x86DD (udp6Packet (cfg.rd Reg.CMD_IP6) ip port sport pkt))
  | .ring => c.toRing pkt
  | .twinLink => c.ownFrame (c.rd Reg.TWIN_CFG_LINK_PORT) 7 (zidFrame (zidOwn 4 1 7) pkt)
  | _ => c

/-- The packets of a reply (R352) under the request's ROLE: its TLVs divided and gathered, MORE set on all but the last. -/
def Chip.replyPackets (c : Chip) (key : Option Nat) (r : Req) (op : Nat) (st : Status) (txn sent : Nat) (l : List Tlv) (role : Nat) : List Bytes :=
  let groups := packGroups (c.replyRoom r.via) (divideTlvs (c.replyRoom r.via) l) []
  groups.mapIdx fun i g =>
    let flags := if i + 1 = groups.length then 0x80 else 0xA0
    packetBytes key (headerBytes flags op st.code r.seq role r.slot sent txn (payloadSize g)) (payloadBytes g)

/-- A mailbox message: OPCODE, STATUS, TAG and TLVs in 64 bytes (R372). -/
def mbxMessage (op st tag : Nat) (l : List Tlv) : Nat :=
  natOfBytes (sliceBytes (bytesOfNat 2 op ++ bytesOfNat 2 st ++ bytesOfNat 4 tag ++ payloadBytes l) 0 64)

/-- A message posted to F2H_n: FULL and the vector, or DROP when the mailbox is full (R369, R372). -/
def Chip.postF2h (c : Chip) (n : Nat) (msg : Nat) : Chip :=
  if c.on Reg.MBX_STAT_F2H_FULL n then c.incSat Reg.MBX_STAT_DROP 1 n
  else ({ c with hif := { c.hif with f2h := SMap.set c.hif.f2h n msg } }.flag Reg.MBX_STAT_F2H_FULL true n).emit (.msix (4 + n))

/-- A reply leaves (R352): its outcome recorded, and its packets delivered on the path of the request under the given key, the request's ROLE and the
addresses of `cfg`, or the present ones. One that no packet can hold is answered BAD_PARAM, and where that does not fit either CMD_RSP_DROP is counted. The reply to a request
taken from the ring before a host reset is discarded. -/
def Chip.replyWith (c : Chip) (key : Option Nat) (r : Req) (op : Nat) (st : Status) (txn : Nat) (l : List Tlv) (role : Nat := r.role.code)
    (cfg : Option Chip := none) : Chip :=
  let c' := c.emit (.reply r op st txn c.tb16 l)
  match r.via with
  | .mbx n => c'.postF2h n (mbxMessage op st.code r.seq l)
  | .door b => c'.wr Reg.DB_RESULT st.code 16 b
  | v =>
    let send := fun (c' : Chip) (st : Status) (l : List Tlv) =>
      c'.each (c.replyPackets key r op st txn c.tb16 l role) fun p c => c.sendPacket v p (cfg.getD c)
    if v = .ring ∧ r.era ≠ c.hif.era then c'
    else if c.replyFits v l then send c' st l
    else if st ≠ .badParam && c.replyFits v [] then send (c'.emit (.reply r op .badParam txn c.tb16 [])) .badParam []
    else c'.count Ev.CMD_RSP_DROP

/-- A reply under the key of the request's slot. -/
def Chip.reply (c : Chip) (r : Req) (op : Nat) (st : Status) (l : List Tlv := []) (role : Nat := r.role.code) (cfg : Option Chip := none) : Chip :=
  c.replyWith (c.slotKey r.slot) r op st r.txn l role cfg

/-! ### Packets of the unit's own over the twin link (R333, R340; log entry 35) -/

/-- The key slot the unit's own requests to its partner use: the first valid twin slot. -/
def Chip.twinSlot (c : Chip) : Option Nat := (List.range 32).find? fun s => c.on Reg.KEY_STATE_VALID s && c.rd Reg.KEY_STATE_ROLE s == 5

/-- A pair is formed and this unit is its active. -/
def Chip.pairOn (c : Chip) : Bool :=
  c.on Reg.TWIN_CFG_PAIR_EN && c.rd Reg.TWIN_STATUS_STATE == 5 && c.on Reg.TWIN_STATUS_LINK_UP && c.twinSlot.isSome

/-- A request (or, with `flags` 0x40, a notification) of role twin to the partner, in cells of the trap reserve (R341); `none` while it
cannot leave. -/
def Chip.twinTry (c : Chip) (flags op txn : Nat) (l : List Tlv) : Option Chip :=
  match c.twinSlot with
  | none => none
  | some s =>
    let n := c.twin.seq + 1
    let pkt := packetBytes (c.slotKey s) (headerBytes flags op 0 n 5 s c.tb16 txn (payloadSize l)) (payloadBytes l)
    let b := zidFrame (zidOwn 4 1 7) pkt
    let b := b ++ List.replicate (60 - b.length) 0#8
    let c1 := { c with twin := { c.twin with seq := n } }
    if c1.on Reg.TWIN_STATUS_LINK_UP && c1.injectRoom (b.length + 4) then
      c1.sendOwn .checkpoint .trap 64 (c1.rd Reg.TWIN_CFG_LINK_PORT) 7 b none none
    else none

/-- The same, given up where it cannot leave. -/
def Chip.twinSend (c : Chip) (flags op txn : Nat) (l : List Tlv) : Chip := (c.twinTry flags op txn l).getD c

/-- A checkpoint record as bytes. -/
def CkRec.bytes (r : CkRec) : Bytes :=
  bytesOfNat 1 r.kind ++ bytesOfNat 4 r.a ++ bytesOfNat 4 r.b ++ bytesOfNat 2 r.nums.length ++ r.nums.flatMap fun z => bytesOfNat 66 (encS 528 z)

/-- Records gathered into groups of at most `room` bytes. -/
def ckGroups (room : Nat) : List CkRec → List CkRec → Nat → List (List CkRec)
  | [], g, _ => if g = [] then [] else [g]
  | r :: l, g, n =>
    let k := r.bytes.length
    if g ≠ [] ∧ room < n + k then g :: ckGroups room l [r] k else ckGroups room l (g ++ [r]) (n + k)

/-- Checkpoint packets that wait leave in order while there is room (R340, R341). -/
def Chip.ckDrainFrom (c : Chip) : List (Nat × Nat × Bytes) → Chip
  | [] => { c with twin := { c.twin with outq := [] } }
  | (cls, n, b) :: l =>
    match c.twinTry 0 0x0804 0 [{ typ := 0x21, len := 8 + b.length, val := natOfBytes (bytesOfNat 4 (cls * 2 ^ 24) ++ bytesOfNat 4 n ++ b) }] with
    | some c1 => c1.ckDrainFrom l
    | none => { c with twin := { c.twin with outq := (cls, n, b) :: l } }

def Chip.ckDrain (c : Chip) : Chip := c.ckDrainFrom c.twin.outq

/-- Checkpoint data sent as TWIN_CHECKPOINT packets of a class (R340). -/
def Chip.ckSend (c : Chip) (cls : Nat) (l : List CkRec) : Chip :=
  (c.each (ckGroups (c.replyRoom .twinLink - 16) l [] 0) fun g c =>
    let n := c.twin.ckSeq + 1
    { c with twin := { c.twin with ckSeq := n, outq := c.twin.outq ++ [(cls, n, g.flatMap CkRec.bytes)] } }).ckDrain

/-! ### The journal -/

/-- TRANSPORT of R390. -/
def viaTransport (v : Via) : Nat :=
  match v.base with
  | .eth p _ _ => if p.val = 512 then 3 else 2
  | .udp4 p _ _ _ _ => if p.val = 512 then 3 else 1
  | .udp6 p _ _ _ _ => if p.val = 512 then 3 else 1
  | .mbx _ => 5
  | .door _ => 6
  | .twinLink => 7
  | _ => 4

/-- The source bytes behind SRC_DIGEST (R390); bus, device and function of the endpoint read as 0 (log entry 6). -/
def Chip.srcBytes (c : Chip) (v : Via) : Bytes :=
  match v.base with
  | .eth p sa _ => bytesOfNat 6 sa ++ bytesOfNat 2 p
  | .udp4 _ _ _ ip sport => bytesOfNat 4 ip ++ bytesOfNat 2 sport
  | .udp6 _ _ _ ip sport => bytesOfNat 16 ip ++ bytesOfNat 2 sport
  | .twinLink => bytesOfNat 8 c.twin.serial
  | _ => bytesOfNat 2 0

/-- Bits [511:160] of a record, in network order (R390). -/
def JRec.head (j : JRec) : Bytes :=
  bytesOfNat 8 j.seq ++ bytesOfNat 12 j.time ++ bytesOfNat 1 j.role ++ bytesOfNat 1 j.slot ++
  bytesOfNat 1 (j.transport * 16 + j.kind) ++ bytesOfNat 8 j.src ++ bytesOfNat 4 j.txn ++ bytesOfNat 2 j.op ++
  bytesOfNat 2 j.objs ++ bytesOfNat 1 (b2n j.late * 128 + b2n j.force * 64 + b2n j.tbInvalid * 32 + b2n j.vbakLost * 16) ++
  bytesOfNat 4 j.info

/-- A record as stored: head, digest, CRC (R390, R392). -/
def JRec.bytes (j : JRec) : Bytes :=
  let b := j.head ++ bytesOfNat 16 j.digest
  b ++ bytesOfNat 4 (crc32 b)

/-- DIGEST of a record after the previous digest, with change content C_n (R392). -/
def jrnDigest (prev : Nat) (j : JRec) (content : Bytes) : Nat :=
  sha256 (bytesOfNat 16 prev ++ j.head ++ content) >>> 128

/-- Records the on-chip ring holds (R393). -/
def jrnRing : Nat := 65536

/-- A standby of a formed pair, PRE_THAW included, writes no record of its own while its link is up (R395). -/
def Chip.jrnMuted (c : Chip) : Bool :=
  decide (1 ≤ c.rd Reg.TWIN_STATUS_STATE) && decide (c.rd Reg.TWIN_STATUS_STATE ≤ 3) && c.on Reg.TWIN_STATUS_LINK_UP

/-- The journal with a record appended: SEQ, digest chain, ring bound, UNSPILLED and COMMIT_HOLD (R390 to R393). -/
def Chip.jrnAppend (c : Chip) (j : JRec) (content : Bytes) : Chip :=
  let j1 := { j with seq := c.rd Reg.JRN_STATUS_NEXT_SEQ }
  let j2 := { j1 with digest := jrnDigest c.jrn.digest j1 content }
  let n := c.rd Reg.JRN_STATUS_UNSPILLED
  let ring := (j2 :: c.jrn.ring).take jrnRing
  let c1 := { c with jrn := { c.jrn with ring := ring, digest := j2.digest } }
  let c2 := (c1.incMod Reg.JRN_STATUS_NEXT_SEQ).wr Reg.JRN_STATUS_OLDEST_ONCHIP ((ring.getLastD j2).seq)
  let n' := min jrnRing (n + 1)
  let c3 := (c2.wr Reg.JRN_STATUS_UNSPILLED n').flag Reg.JRN_STATUS_COMMIT_HOLD (decide (jrnHoldAt ≤ n'))
  let c4 := if n = jrnRing then c3.flag Reg.JRN_STATUS_JRN_LOST true else c3
  if c4.pairOn then c4.ckSend 1 [{ kind := 20, nums := [(natOfBytes j2.bytes : Int)] }] else c4

/-! ### Notifications -/

/-- Events R248 holds back while UPSTREAM_NOW is set and for 10 s after. -/
def upstreamEvent (ev cls inst : Nat) : Bool :=
  (ev == Nt.REF_DISQUALIFIED && cls == Cls.REF && 8 ≤ inst) || (ev == Nt.LOCK_LOST && inst == 0) || ev == Nt.SELECTOR_STATE ||
  ev == Nt.QL_CHANGE || ev == Nt.PTP_PORT_STATE || ev == Nt.ANN_TIMEOUT

/-- The lane nominated as reference 8 to 23 (R61). -/
def Chip.refLane (c : Chip) (ref : Nat) : Nat := c.rd Reg.REF_CFG_LANE ref

/-- The port whose lanes a lane belongs to: the four-lane port at its group where one exists (R55). -/
def Chip.laneToPort (c : Chip) (lane : Nat) : Nat :=
  let p := lane / 4 * 4
  if 5 ≤ c.rd Reg.PORT_CFG_MODE p then p else lane

/-- Whether a notification is suppressed (R248, R330). -/
def Chip.suppressed (c : Chip) (ev cls inst : Nat) : Bool :=
  let down := fun p => decide (c.now < SMap.get c.coal.downUntil p)
  ((c.on Reg.SEL_STATUS_UPSTREAM_NOW || c.coal.supOn) && upstreamEvent ev cls inst) ||
  (cls == Cls.PORT && (ev == Nt.PTP_PORT_STATE || ev == Nt.QL_CHANGE) && down inst) ||
  (cls == Cls.LANE && down (c.laneToPort inst)) || (cls == Cls.REF && 8 ≤ inst && down (c.laneToPort (c.refLane inst)))

/-- The TLVs of a notification (R405). -/
def notifyTlvs (ev cls firstObj count insts lastNs window : Nat) (cause : Option (Nat × Nat)) : List Tlv :=
  [tlvEvent cls ev,
   { typ := 0x61, len := 16, val := Lay.COAL_FIRST_OBJ.put firstObj + Lay.COAL_COUNT.put (satU 16 count) +
       Lay.COAL_INSTANCES.put (satU 16 insts) + Lay.COAL_LAST_NS.put lastNs + Lay.COAL_WINDOW.put window }] ++
  (match cause with | some q => [tlvCause q.1 q.2] | none => [])

/-- A notification sent to one element of NOTIFY_DEST, or discarded and counted (R365). -/
def Chip.notifyElem (c : Chip) (e ev cls firstObj count insts lastNs window : Nat) (cause : Option (Nat × Nat)) : Chip :=
  if !c.on Reg.NOTIFY_DEST_EN 0 e then c
  else
    let slot := c.rd Reg.NOTIFY_DEST_KEY_SLOT 0 e
    let port := c.rd Reg.NOTIFY_DEST_PORT 0 e
    let tr := c.rd Reg.NOTIFY_DEST_TRANSPORT 0 e
    let seq := (SMap.get c.coal.seqs e + 1) % 2 ^ 32
    let c1 := { c with coal := { c.coal with seqs := SMap.set c.coal.seqs e seq } }
    let bad := !c.on Reg.KEY_STATE_VALID slot ||
      (if tr = 3 then c.hif.rspRoom.isEmpty || !c.hif.rsp.en
       else !c.linkUp port || !c.portPowered port || c.twinPort port || (c.fabPort port && !c.fabUp port))
    if bad then c1.count Ev.NOTIFY_DROP
    else
      let o := Out.notify e seq ev cls firstObj count insts lastNs window cause
      let pl := notifyTlvs ev cls firstObj count insts lastNs window cause
      let pkt := packetBytes (c.slotKey slot)
        (headerBytes 0x40 0 0 seq (c.rd Reg.KEY_STATE_ROLE slot) slot c.tb16 0 (payloadSize pl)) (payloadBytes pl)
      let mac := c.rd Reg.DEV_MAC
      let vid := c.rd Reg.NOTIFY_DEST_VID 0 e
      let tag := if vid = 0 then none else some (0x8100 * 65536 + 7 * 8192 + vid)
      let da := c.rd Reg.NOTIFY_DEST_MAC 0 e
      let up := c.rd Reg.NOTIFY_DEST_UDP_PORT 0 e
      let my := c.rd Reg.CMD_CFG_UDP_PORT
      let ip := c.rd Reg.NOTIFY_DEST_IP 0 e
      let c2 := c1.emit o
      if tr = 3 then c2.toRing pkt
      else if tr = 2 then c2.ownData port 7 none (ethFrame da mac tag (c.rd Reg.CMD_CFG_ETYPE) pkt)
      else if tr = 1 then c2.ownData port 7 none (ethFrame da mac tag 0x86DD (udp6Packet (c.rd Reg.CMD_IP6) ip my up pkt))
      else c2.ownData port 7 none (ethFrame da mac tag 0x0800 (udp4Packet (c.rd Reg.CMD_IP4) (ip % 2 ^ 32) my up pkt))

/-- The doorbells 32 to 63 whose DB_MAP element names the event and class are set (R373, R367). -/
def Chip.notifyDoorbells (c : Chip) (ev cls : Nat) : Chip :=
  c.each (List.range 32) fun e c =>
    if c.on Reg.DB_MAP_EN 16 e && c.rd Reg.DB_MAP_CLASS 16 e == cls && c.rd Reg.DB_MAP_EVENT 16 e == ev then
      let c1 := { c with hif := { c.hif with db := setBit c.hif.db (32 + e) } }
      if bitOf c.hif.dbMask (32 + e) then c1 else c1.emit (.msix (20 + e))
    else c

/-- A notification leaves the coalescer: every enabled element of NOTIFY_DEST, then the doorbells (R365, R373). -/
def Chip.sendNotify (c : Chip) (ev cls firstObj count insts lastNs window : Nat) (cause : Option (Nat × Nat)) : Chip :=
  (c.each (List.range 8) fun e c => c.notifyElem e ev cls firstObj count insts lastNs window cause).notifyDoorbells ev cls

/-- The key of a signature. -/
def sigKey (ev cls : Nat) : Nat := cls * 65536 + ev

/-- The next window number of a signature, counted from 0 at reset (R329). -/
def Chip.takeWindow (c : Chip) (ev cls : Nat) : Nat × Chip :=
  let w := SMap.get c.coal.winNo (sigKey ev cls)
  (w, { c with coal := { c.coal with winNo := SMap.set c.coal.winNo (sigKey ev cls) ((w + 1) % 2 ^ 32) } })

/-- An occurrence counted inside an open window (R329 step 2). -/
def CoalSig.add (g : CoalSig) (obj ns : Nat) (cause : Option (Nat × Nat)) : CoalSig :=
  { g with
    count := g.count + 1
    firstObj := if g.count = 0 then obj else g.firstObj
    cause := if g.count = 0 then cause else g.cause
    insts := if g.insts.contains (objInst obj) then g.insts else objInst obj :: g.insts
    lastNs := ns }

/-- COAL_MS in units of 10 ps. -/
def Chip.coalWindow (c : Chip) : Nat := unitsMs (c.rd Reg.COAL_CFG_COAL_MS)

/-- An occurrence of a signature: sent at once with a window opened, or counted in its open window (R329). -/
def Chip.occur (c : Chip) (ev cls obj : Nat) (cause : Option (Nat × Nat)) : Chip :=
  match c.coal.sigs.find? (fun g => g.event == ev && g.cls == cls) with
  | some _ =>
    { c with coal := { c.coal with sigs := c.coal.sigs.map fun g =>
        if g.event == ev && g.cls == cls then g.add obj c.tbNs cause else g } }
  | none =>
    let (w, c1) := c.takeWindow ev cls
    let g : CoalSig := { event := ev, cls := cls, window := w, endsAt := c.now + c.coalWindow }
    ({ c1 with coal := { c1.coal with sigs := c1.coal.sigs ++ [g] } }).sendNotify ev cls obj 1 1 c.tbNs w cause

/-- Entries of the coalescer in use, the reserved one apart. -/
def Chip.coalUsed (c : Chip) : Nat :=
  (c.coal.sigs.filter fun g => !(g.event == Nt.COAL_FULL && g.cls == Cls.DEV)).length

/-- An occurrence offered to the coalescer: one that finds no free entry counts COAL_FULL and becomes an occurrence of the
reserved signature (R329). -/
def Chip.coalesce (c : Chip) (ev cls obj : Nat) (cause : Option (Nat × Nat)) : Chip :=
  let isOpen := c.coal.sigs.any fun g => g.event == ev && g.cls == cls
  if isOpen || decide (c.coalUsed < 256) then c.occur ev cls obj cause
  else
    let c1 := c.count Ev.COAL_FULL
    let more := c.coal.sigs.any fun g => g.event == Nt.COAL_FULL && g.cls == Cls.DEV
    let merged := if !more then [] else if c.coal.merged.contains (sigKey ev cls) then c.coal.merged else sigKey ev cls :: c.coal.merged
    ({ c1 with coal := { c1.coal with merged := merged } }).occur Nt.COAL_FULL Cls.DEV 0x01000000 none

/-- COAL_WINDOW_END (R329 step 3): a summary is sent and a new window opens, or an empty one closes. The reserved signature counts the
signatures merged in it. -/
def Chip.coalWindowEnd (ev cls : Nat) (c : Chip) : Chip :=
  match c.coal.sigs.find? (fun g => g.event == ev && g.cls == cls) with
  | none => c
  | some g =>
    if c.now < g.endsAt then c
    else
      let rest := c.coal.sigs.filter fun g => !(g.event == ev && g.cls == cls)
      if g.count = 0 then { c with coal := { c.coal with sigs := rest } }
      else
        let (w, c1) := c.takeWindow ev cls
        let full := ev == Nt.COAL_FULL && cls == Cls.DEV
        let n := if full then c.coal.merged.length else g.insts.length
        let g' : CoalSig := { event := ev, cls := cls, window := w, endsAt := g.endsAt + c.coalWindow }
        let m := if full then [] else c.coal.merged
        ({ c1 with coal := { c1.coal with sigs := rest ++ [g'], merged := m } }).sendNotify ev cls g.firstObj g.count n g.lastNs w g.cause

/-- An event of object (cls, inst, attr) is notified, or counted SUPPRESSED (R248, R330). -/
def Chip.notify (c : Chip) (ev cls inst : Nat) (attr : Nat := 0) (cause : Option (Nat × Nat) := none) : Chip :=
  if c.suppressed ev cls inst then c.count Ev.SUPPRESSED
  else c.coalesce ev cls (objId cls inst attr) cause

/-- A journal record of a device event (R389, KIND 3); a standby sends it to the active (R395) as a notification. -/
def Chip.jrnEvent (c : Chip) (ev info : Nat) : Chip :=
  if c.jrnMuted then c.twinSend 0x40 0 0 [tlvEvent Cls.TWIN ev, tlvCause info 0]
  else
    let lost := c.rd Reg.JRN_STATUS_UNSPILLED == jrnRing
    let c' := c.jrnAppend
      { seq := 0, time := c.tb96, role := 0, slot := 255, transport := 0, kind := 3, src := 0, txn := 0, op := ev, objs := 0,
        late := false, force := false, tbInvalid := !c.on Reg.TIME_STATUS_TB_VALID, vbakLost := false, info := info, digest := 0 } []
    if lost then c'.notify Nt.JRN_LOST Cls.JRN 0 1 else c'

/-- A journal record of a command or mark (R389, KIND 1 or 2) with its change content. -/
def Chip.jrnCmd (c : Chip) (r : Req) (kind op objs info : Nat) (content : Bytes) (force : Bool := false) : Chip :=
  if c.jrnMuted then c
  else
    c.jrnAppend
      { seq := 0, time := c.tb96, role := r.role.code, slot := r.slot, transport := viaTransport r.via, kind := kind,
        src := sha256 (c.srcBytes r.via) >>> 192, txn := 0, op := op, objs := satU 16 objs, late := false, force := force,
        tbInvalid := !c.on Reg.TIME_STATUS_TB_VALID, vbakLost := false, info := info, digest := 0 } content

end Sys2Proof.Machine
end

