-- ==== Sys2Proof/Machine/Timebase.lean ====
section
/-! DEFINITION. The timebase (R161 to R172), the jump guard, steering, and the stamps of frames (R173 to R182). -/

namespace Sys2Proof.Machine

/-- A value of TIME in units of 2^-40 ns modulo 2^48 seconds (R161). -/
def tbWrap (t : Nat) : Nat := t % (2 ^ 48 * nsPerS * 2 ^ 40)

/-- A running DURATION ends without ADJ_AFTER (R166). -/
def Chip.dropDuration (c : Chip) : Chip := { c with time := { c.time with durOn := false, durLeft := 0 } }

/-- The jump guard refuses an offset (R170): PENDING_JUMP with the next JUMP_ID, TIME_JUMP_REFUSED, one notification. From source 2 on, the
firmware servo holds ADJ. -/
def Chip.refuseJump (c : Chip) (source ref : Nat) (offset : Int) : Nat × Chip :=
  let id := if (c.time.lastJump + 1) % 65536 = 0 then 1 else (c.time.lastJump + 1) % 65536
  let c1 := { c with time := { c.time with lastJump := id } }
  let c2 := ((((c1.wr Reg.PENDING_JUMP_JUMP_ID id).wr Reg.PENDING_JUMP_SOURCE source).wr Reg.PENDING_JUMP_REF ref).wrS
    Reg.PENDING_JUMP_OFFSET offset).wr Reg.PENDING_JUMP_REFUSED_NS c.tbNs
  let c3 := if source = 2 then c2.dropDuration else c2
  (id, (c3.flag Reg.TIME_STATUS_TIME_JUMP_REFUSED true).notify Nt.TIME_JUMP_REFUSED Cls.TIME 0 0x07 (some (id, source)))

/-- Whether the guard refuses an offset: larger than JUMP_TH while TB_VALID = 1 (R170). -/
def Chip.jumpRefused (c : Chip) (offset : Int) : Bool :=
  c.on Reg.TIME_STATUS_TB_VALID && decide (c.rd Reg.JUMP_TH * 65536 < offset.natAbs)

/-- A step put in line for its tick (R171: one step per tick, in execution order). -/
def Chip.queueStep (c : Chip) (p : PendStep) : Chip := { c with time := { c.time with steps := c.time.steps ++ [p] } }

/-- A step applied to the count (R169): the timebase, STEP_SUM, STEP_COUNT, STEPPED, TB_VALID. TICKS and C stay (R172). -/
def Chip.addStep (c : Chip) (offset : Int) : Chip :=
  let t := ((c.time.tb : Int) + offset * 2 ^ 24).toNat
  let c1 := { c with time := { c.time with tb := tbWrap t } }
  let c2 := c1.wrS Reg.STEP_SUM (c.rdS Reg.STEP_SUM + offset)
  ((c2.incMod Reg.TIME_STATUS_STEP_COUNT).flag Reg.TIME_STATUS_STEPPED true).flag Reg.TIME_STATUS_TB_VALID true

/-- Whether a step would make the seconds negative (R169). -/
def Chip.stepNegative (c : Chip) (offset : Int) : Bool := decide ((c.time.tb : Int) + offset * 2 ^ 24 < 0)

/-- The timebase with the TB_INCR of a tick added (R161, R172). -/
def Chip.addIncr (c : Chip) : Chip := { c with time := { c.time with tb := tbWrap (c.time.tb + c.tbIncr) } }

/-- The end of a running DURATION: ADJ takes ADJ_AFTER (R166). -/
def Chip.endDuration (c : Chip) : Chip :=
  if c.time.durOn && c.time.durLeft == 0 then
    { c with time := { c.time with durOn := false } }.setAdj c.time.durAfter
  else c

/-- The first part of a tick: TB_INCR, TICKS, the count of DURATION. ADJ changed by it acts from the next: with its last tick a DURATION gives way to
ADJ_AFTER (R162, R166, R172). -/
def Chip.tickAdd (c : Chip) : Chip :=
  let c1 := (c.addIncr).incMod Reg.TICKS
  { c1 with time := { c1.time with durLeft := if c1.time.durOn then c1.time.durLeft - 1 else c1.time.durLeft } }.endDuration

/-- One tick of the count alone: TB_INCR, then one waiting step (R172). -/
def Chip.tickCount (c : Chip) : Chip :=
  let c1 := c.tickAdd
  match c1.time.steps with
  | [] => c1
  | p :: l =>
    let c2 := { c1 with time := { c1.time with steps := l } }
    if c2.stepNegative p.offset then c2 else c2.addStep p.offset

/-- The count as n ticks leave it. -/
def Chip.countAfter (c : Chip) : Nat → Chip
  | 0 => c
  | n + 1 => c.tickCount.countAfter n

/-- The timebase value after the next tick; units of 2^-40 ns. -/
def Chip.nextTb (c : Chip) : Nat := (c.tickCount).time.tb

/-- A TIME_INCR taking effect (R166): ADJ_NEW now, ADJ_AFTER when DURATION ticks have passed; an older DURATION is cancelled. -/
def Chip.applyIncr (c : Chip) (adjNew : Int) (duration : Nat) (adjAfter : Int) : Chip :=
  ({ c with time := { c.time with durOn := decide (0 < duration), durLeft := duration, durAfter := adjAfter } }).setAdj adjNew

/-- A committed change of SERVO_MODE (R165, R166): ADJ stays, the integrator takes its value, and the former owner's DURATION ends. -/
def Chip.servoModeHook (old c : Chip) : Chip :=
  let c1 := if old.rd Reg.SERVO_CTRL_SERVO_MODE = c.rd Reg.SERVO_CTRL_SERVO_MODE then c
    else (c.wrS Reg.HPI_INTEG (c.rdS Reg.ADJ)).dropDuration
  c1.setAdj (c1.rdS Reg.ADJ)

/-- A write of HPI_OFFSET with mode and form already checked (R168). -/
def Chip.hpiWrite (c : Chip) (theta : Int) : Chip :=
  if c.jumpRefused theta then (c.refuseJump 3 0 theta).2
  else
    let integ := satS 32 (c.rdS Reg.HPI_INTEG + (c.rd Reg.HPI_GAIN_KI : Int) * theta / 2 ^ 24)
    let adj := (c.rd Reg.HPI_GAIN_KP : Int) * theta / 2 ^ 24 + integ
    (c.wrS Reg.HPI_INTEG integ).setAdj adj

/-! ### The time of an edge (R185) -/

/-- The factory linearity trim of a tap in raw steps, within 4 either way. -/
def linTrim (ch tap : Nat) : Int := ((Config.linTrim ch tap).toNat % 9 : Nat) - 4

/-- The fine code of an edge, its tap's trim applied. -/
def fineCode (ch : Nat) (x : Fine) : Int := 64 * x.tap.val + x.stage.val + linTrim ch x.tap

/-- The count at the end of the tick an edge falls in, a step of that tick in it (R172, R183). -/
def Chip.atEdge (c : Chip) (x : Fine) : Chip := c.countAfter (x.ahead + 1)

/-- The time-copy value at the end of the tick an edge falls in, in 2^-16 ns. -/
def Chip.tickEnd (c : Chip) (x : Fine) : Int := ((c.atEdge x).tb16 : Nat)

/-- T_edge = T_tick_end − f × 0.640 × 2^-10 ns, rounded to the nearest 2^-10 ns, halves up, in 2^-16 ns; while the channel is unlocked f is not used
(R185, R187; log entry 202). -/
def Chip.edgeTime (c : Chip) (ch : Nat) (x : Fine) : Int :=
  (c.tickEnd x * 25 - (if SMap.get c.tdc ch then fineCode ch x * 1024 else 0) + 800) / 1600 * 64

/-- T_edge less the steps applied by its tick (R163). -/
def Chip.edgeCont (c : Chip) (ch : Nat) (x : Fine) : Int := c.edgeTime ch x - (c.atEdge x).rdS Reg.STEP_SUM

/-- Where an edge lies on the tick grid: TICKS × 2.56 ns at the end of its tick, less the fine code (R206), in 2^-16 ns / 25. -/
def Chip.gridTime (c : Chip) (ch : Nat) (x : Fine) : Int := ((c.rd Reg.TICKS + x.ahead + 1) * 2 ^ 22 : Nat) - fineCode ch x * 1024

/-- The time copy latched at an edge (R177): as the tick before it left it. -/
def Chip.latchTime (c : Chip) (x : Fine) : Int := ((c.countAfter x.ahead).tb16 : Nat)

/-! ### Delay asymmetry -/

/-- A of R179 in 2^-16 ns: ASYM_FIXED + ASYM_COEF × MPD, rounded to nearest. ASYM_FIXED and MPD are in 2^-10 ns. -/
def Chip.asymA (c : Chip) (port : Nat) : Int :=
  let fixed := c.rdS Reg.ASYM_CFG_ASYM_FIXED port * 64
  let prod := c.rdS Reg.ASYM_CFG_ASYM_COEF port * (c.rd Reg.LINK_DELAY_MPD port : Int) * 64
  let q : Int := if 0 ≤ prod then (divRound prod.natAbs 1000000000000 : Int) else -(divRound prod.natAbs 1000000000000 : Int)
  fixed + q

/-- ASYM_A brought up to date after a write of MPD or ASYM_CFG. -/
def Chip.asymHook (c : Chip) (port : Nat) : Chip := c.wrS Reg.LINK_DELAY_ASYM_A (c.asymA port) port

/-! ### Stamps. Times in units of 2^-16 ns; a port's stamp is formed from the sensed edge or latch time. -/

/-- MODE and FEC of a port; MGT counts as 1000BASE-X (R177). -/
def Chip.modeFec (c : Chip) (port : Nat) : Nat × Nat :=
  if port = 512 then (1, 0) else (c.rd Reg.PORT_CFG_MODE port, c.rd Reg.PORT_CFG_FEC port)

/-- D_DEC in picoseconds (R176). Modes: 1 1000BASE-X, 2 2500BASE-X, 3 10GBASE-R, 4 25GBASE-R, 5 40GBASE-R, 6 100GBASE-R;
FEC: 0 none, 1 Clause 74, 2 Clause 108 or 91. -/
def dDec (mode fec : Nat) : Nat :=
  if mode = 1 then 44800
  else if mode = 2 then 19200
  else if mode = 3 ∨ mode = 5 then (if fec = 0 then 32000 else 262400)
  else if mode = 4 then (if fec = 0 then 15360 else if fec = 1 then 107520 else 261120)
  else (if fec = 0 then 15360 else 107520)

/-- D_ENC in picoseconds (R176). -/
def dEnc (mode fec : Nat) : Nat :=
  if mode = 1 then 40000
  else if mode = 2 then 16000
  else if mode = 3 ∨ mode = 5 then (if fec = 0 then 25600 else 38400)
  else if mode = 4 then (if fec = 0 then 12800 else if fec = 1 then 17920 else 33280)
  else (if fec = 0 then 12800 else 23040)

/-- Stamps are formed exactly, in units of 2^-16 ns / 33,000, and rounded once. -/
def exactDen : Int := 33000

/-- Picoseconds in those units. -/
def psExact (ps : Nat) : Int := (ps * 65536 * 33 : Nat)

/-- An exact time rounded to 2^-10 ns, as 2^-16 ns with fraction bits [5:0] zero (R173). -/
def round10 (t : Int) : Int := ((t + exactDen * 32) / (exactDen * 64)) * 64

/-- A delay attribute in 2^-10 ns as 2^-16 ns. -/
def Chip.rxDelay (c : Chip) (port : Nat) : Int := c.rdS Reg.TS_DELAY_RX_DELAY port * 64
def Chip.txDelay (c : Chip) (port : Nat) : Int := c.rdS Reg.TS_DELAY_TX_DELAY port * 64

/-- What a MAC stamp adds to D_DEC and D_ENC in picoseconds (R177): 6.4 ns, and on MGT at SGMII 10 and 100 Mb/s 80 ns and 8 ns. -/
def Chip.macExtra (c : Chip) (port : Nat) : Nat :=
  if port = 512 ∧ c.rd Reg.MGT_CFG_MODE 512 = 7 then
    6400 + (if c.mgtSpeed = 10 then 80000 else if c.mgtSpeed = 100 then 8000 else 0)
  else 6400

/-- The lane whose channel senses the edge of a stamp. -/
def Chip.edgeLane (c : Chip) (port : Nat) (edge : Edge) : Nat := if 5 ≤ (c.modeFec port).1 then port + edge.lane else port

/-- The TDC channel that senses the edge of a stamp. -/
def Chip.edgeChannel (c : Chip) (tx : Bool) (port : Nat) (edge : Edge) : Nat := (if tx then 512 else 0) + c.edgeLane port edge

/-- Whether a stamp is taken at the PMA (R173); while the channel of its lane is unlocked it is taken at the MAC (R187). -/
def Chip.pma (c : Chip) (tx : Bool) (port : Nat) (edge : Edge) : Bool :=
  decide (port < 512) && c.on Reg.PORT_CFG_PMA_STAMP port && SMap.get c.tdc (c.edgeChannel tx port edge)

/-- n bit times of a mode (UI of R59: 800, 320, 96.97 and 38.79 ps), exact. -/
def bitTimes (mode n : Nat) : Int :=
  if mode = 1 then (n * 65536 * 4 * 6600 : Nat)
  else if mode = 2 then (n * 65536 * 8 * 1320 : Nat)
  else if mode = 3 ∨ mode = 5 then (n * 65536 * 32 * 100 : Nat)
  else (n * 65536 * 32 * 40 : Nat)

/-- PMA word bits W and the position b of the stamp point (R59, R174). -/
def wordBits (mode : Nat) : Nat := if mode = 1 ∨ mode = 2 then 10 else 66
def stampBit (mode : Nat) : Nat := if mode = 1 ∨ mode = 2 then 0 else 2

/-- The factory trim of a lane's latency in picoseconds, within 200 either way (R176). -/
def laneTrim (tx : Bool) (lane : Nat) : Int := ((Config.latencyTrim tx lane).toNat % 401 : Nat) - 200

/-- The latency D_DEC or D_ENC of a lane, its trim included, exact (R176). -/
def latency (ps : Nat) (tx : Bool) (lane : Nat) : Int := psExact ps + laneTrim tx lane * 65536 * 33

/-- The count at the tick of which a stamp reads it: the end of the edge's tick, and at the MAC its beginning (R177, R183, R185). -/
def Chip.atStamp (c : Chip) (tx : Bool) (port : Nat) (edge : Edge) : Chip :=
  if c.pma tx port edge then c.atEdge edge.at_ else c.countAfter edge.at_.ahead

/-- 5.12 ns in 2^-16 ns, in units of a hundredth. -/
def near512 : Nat := 512 * 65536

/-- A PMA frame stamp takes a lane's receive channel (R188): a sample taken within 5.12 ns of it is withdrawn, and the next divided edge is sampled (log
entry 167). -/
def Chip.laneStamped (c : Chip) (lane : Nat) (edge : Fine) : Chip :=
  let t := c.edgeCont lane edge
  let old := SMap.get c.phmOld lane
  let c1 := if old.held && decide ((old.cont - t).natAbs * 100 ≤ near512) then
      let c1 := (((c.wr Reg.PHM_PHASE old.phase lane).wr Reg.PHM_FREQ old.freq lane).wr Reg.PHM_GRID old.grid lane).flag Reg.PHM_STATUS_GRID_VALID
        old.gridValid lane
      { c1.flag Reg.PHM_STATUS_FREQ_VALID old.freqValid lane with
        phms := SMap.set c.phms lane old.phm, phmOld := SMap.set c.phmOld lane {} }
    else c
  { c1 with phms := SMap.upd c1.phms lane fun p => { p with stampC := some t } }

/-- The receive stamp from T_edge (PMA) or T_latch (MAC); a PMA stamp of a four-lane port adds the lane's measured deskew (R174, R176,
R177; its sign: log entry 147). -/
def Chip.rxStamp (c : Chip) (port : Nat) (edge : Edge) (deskew : Int) : Int :=
  let (m, f) := c.modeFec port
  let lane := c.edgeLane port edge
  let pma := c.pma false port edge
  let e := ((if pma then c.edgeTime lane edge.at_ else c.latchTime edge.at_) - c.rxDelay port) * exactDen
  if pma then
    round10 (e - latency (dDec m f) false lane - bitTimes m (wordBits m - 1 - stampBit m) + (if 5 ≤ m then deskew * exactDen else 0))
  else round10 (e + psExact 1280 - latency (dDec m f + c.macExtra port) false lane)

/-- The transmit stamp (R175, R176, R177). -/
def Chip.txStamp (c : Chip) (port : Nat) (edge : Edge) : Int :=
  let (m, f) := c.modeFec port
  let lane := c.edgeLane port edge
  let pma := c.pma true port edge
  let e := ((if pma then c.edgeTime (512 + lane) edge.at_ else c.latchTime edge.at_) + c.txDelay port) * exactDen
  if pma then round10 (e + latency (dEnc m f) true lane + bitTimes m (stampBit m))
  else round10 (e + psExact 1280 + latency (dEnc m f + c.macExtra port) true lane)

/-! ### Counters -/

/-- A snapshot of all 576 counters at one tick (R437): values, time, SNAP_SEQ. -/
def Chip.snapshot (c : Chip) (t16 : Nat) : Chip :=
  let c1 := c.each ((List.range 72).flatMap fun g => (List.range 8).map fun e => (g, e)) fun ge c =>
    (c.wr Reg.CNT_SNAP_VALUE (c.rd Reg.CNT_VALUE_VALUE ge.1 ge.2) ge.1 ge.2).wr
      Reg.CNT_SNAP_WRAPPED (c.rd Reg.CNT_VALUE_WRAPPED ge.1 ge.2) ge.1 ge.2
  (c1.wr Reg.CNT_SNAP_INFO_TIME (time96 t16)).incMod Reg.CNT_SNAP_INFO_SNAP_SEQ

end Sys2Proof.Machine
end

