-- ==== Sys2Proof/Machine/Arith.lean ====
section
/-! DEFINITION. The arithmetic of cycle operations (R283, R298 to R300, 13_cycle_operations.md): INT32, Q1.31 and POS64 as signed integers,
and IEEE 754 binary32 with subnormals flushed, as bit patterns. -/

namespace Sys2Proof.Machine

/-! ### Rounding -/

/-- A quotient rounded to nearest, ties to even (RNE). -/
def divRne (a : Int) (b : Nat) : Int :=
  let n := a.natAbs
  let q := n / b
  let r := n % b
  let q' := if b < 2 * r ∨ (2 * r = b ∧ q % 2 = 1) then q + 1 else q
  if a < 0 then -(q' : Int) else (q' : Int)

/-- A value between two bounds; where the lower exceeds the upper, the lower (R298). -/
def clampI (x lo hi : Int) : Int := max (min x hi) lo

/-! ### Binary32 -/

/-- What a bit pattern stands for; a finite magnitude is m × 2^e, subnormals read as zero (R283). -/
inductive Fp where
  | nan
  | inf (neg : Bool)
  | fin (neg : Bool) (m : Nat) (e : Int)
  deriving DecidableEq, Repr

/-- The NaN every operation gives (R283). -/
def fpNan : Nat := 0x7FC00000

/-- A pattern read. -/
def fpOf (x : Nat) : Fp :=
  let s := bitOf x 31
  let e := bitsOf x 23 8
  let f := bitsOf x 0 23
  if e = 255 then (if f = 0 then .inf s else .nan)
  else if e = 0 then .fin s 0 0
  else .fin s (2 ^ 23 + f) ((e : Int) - 150)

/-- A signed zero and an infinity. -/
def fpZero (s : Bool) : Nat := b2n s <<< 31
def fpInf (s : Bool) : Nat := (b2n s <<< 31) + 0x7F800000

/-- The pattern of m × 2^e, `sticky` telling that a little more was cut off: rounded to nearest even, a result below the normal range
flushed to zero of its sign. -/
def fpRound (s : Bool) (m : Nat) (e : Int) (sticky : Bool := false) : Nat :=
  if m = 0 then fpZero s
  else
    let l := Nat.log2 m + 1
    let (q, x) :=
      if l ≤ 24 then (m <<< (24 - l), e - (24 - l : Nat))
      else
        let sh := l - 24
        let q := m >>> sh
        let r := m - (q <<< sh)
        let half := 1 <<< (sh - 1)
        let up := half < r ∨ (r = half ∧ (sticky = true ∨ q % 2 = 1))
        let q' := if up then q + 1 else q
        if q' = 2 ^ 24 then (2 ^ 23, e + (sh : Int) + 1) else (q', e + (sh : Int))
    let b := x + 150
    if 255 ≤ b then fpInf s
    else if b ≤ 0 then fpZero s
    else (b2n s <<< 31) + (b.toNat <<< 23) + (q - 2 ^ 23)

/-- A result as a pattern. -/
def Fp.bits : Fp → Nat
  | .nan => fpNan
  | .inf s => fpInf s
  | .fin s m e => fpRound s m e

/-- z × 2^e as a pattern; a zero is positive. -/
def fpOfInt (z : Int) (e : Int) : Nat := fpRound (decide (z < 0)) z.natAbs e

def fpNeg (x : Nat) : Nat := match fpOf x with
  | .nan => fpNan
  | .inf s => fpInf !s
  | .fin s m e => fpRound (!s) m e

def fpAbs (x : Nat) : Nat := match fpOf x with
  | .nan => fpNan
  | .inf _ => fpInf false
  | .fin _ m e => fpRound false m e

def fpAdd (x y : Nat) : Nat := match fpOf x, fpOf y with
  | .nan, _ => fpNan
  | _, .nan => fpNan
  | .inf s, .inf t => if s = t then fpInf s else fpNan
  | .inf s, _ => fpInf s
  | _, .inf t => fpInf t
  | .fin s m e, .fin t n f =>
    if m = 0 ∧ n = 0 then fpZero (s && t)
    else
      let k := min e f
      let v := fun (g : Bool) (a : Nat) (b : Int) => (if g then -1 else 1) * ((a * 2 ^ (b - k).toNat : Nat) : Int)
      fpOfInt (v s m e + v t n f) k

def fpSub (x y : Nat) : Nat := match fpOf y with
  | .nan => fpNan
  | _ => fpAdd x (fpNeg y)

def fpMul (x y : Nat) : Nat := match fpOf x, fpOf y with
  | .nan, _ => fpNan
  | _, .nan => fpNan
  | .inf s, .inf t => fpInf (s != t)
  | .inf s, .fin t n _ => if n = 0 then fpNan else fpInf (s != t)
  | .fin s m _, .inf t => if m = 0 then fpNan else fpInf (s != t)
  | .fin s m e, .fin t n f => fpRound (s != t) (m * n) (e + f)

def fpDiv (x y : Nat) : Nat := match fpOf x, fpOf y with
  | .nan, _ => fpNan
  | _, .nan => fpNan
  | .inf _, .inf _ => fpNan
  | .inf s, .fin t _ _ => fpInf (s != t)
  | .fin s _ _, .inf t => fpZero (s != t)
  | .fin s m e, .fin t n f =>
    if n = 0 then (if m = 0 then fpNan else fpInf (s != t))
    else
      let a := m * 2 ^ 50
      fpRound (s != t) (a / n) (e - f - 50) (a % n != 0)

/-- The square root; of a negative value NaN, of a zero itself. -/
def fpSqrt (x : Nat) : Nat := match fpOf x with
  | .nan => fpNan
  | .inf s => if s then fpNan else fpInf false
  | .fin s m e =>
    if m = 0 then fpZero s
    else if s then fpNan
    else
      let k : Nat := if e % 2 = 0 then 60 else 61
      let a := m * 2 ^ k
      let r := isqrt a
      fpRound false r ((e - k) / 2) (r * r != a)

/-- The order of two patterns: none with a NaN. -/
def fpCompare (x y : Nat) : Option Ordering := match fpOf x, fpOf y with
  | .nan, _ => none
  | _, .nan => none
  | a, b =>
    let v := fun (z : Fp) => match z with
      | .inf s => if s then -(2 ^ 300 : Int) else 2 ^ 300
      | .fin s m e => (if s then -1 else 1) * ((m * 2 ^ (e + 149).toNat : Nat) : Int)
      | .nan => 0
    some (compare (v a) (v b))

/-- MIN and MAX (R298): one NaN is ignored; of two zeros MIN gives the negative, MAX the positive. -/
def fpMin (x y : Nat) : Nat := match fpOf x, fpOf y with
  | .nan, .nan => fpNan
  | .nan, b => b.bits
  | a, .nan => a.bits
  | a, b => match fpCompare x y with
    | some .gt => b.bits
    | some .eq => if bitOf x 31 then a.bits else b.bits
    | _ => a.bits

def fpMax (x y : Nat) : Nat := match fpOf x, fpOf y with
  | .nan, .nan => fpNan
  | .nan, b => b.bits
  | a, .nan => a.bits
  | a, b => match fpCompare x y with
    | some .lt => b.bits
    | some .eq => if bitOf x 31 then b.bits else a.bits
    | _ => a.bits

/-- max(min(x, hi), lo) under the same rules. -/
def fpClamp (x lo hi : Nat) : Nat := fpMax (fpMin x hi) lo

/-- A pattern times 2^k as an integer, RNE, saturated to w bits; NaN gives 0 (R300). -/
def fpToInt (w k : Nat) (x : Nat) : Int := match fpOf x with
  | .nan => 0
  | .inf s => if s then -((2 ^ (w - 1) : Nat) : Int) else ((2 ^ (w - 1) : Nat) : Int) - 1
  | .fin s m e =>
    let f := e + k
    let z : Int := if s then -(m : Int) else m
    satS w (if 0 ≤ f then z * (2 ^ f.toNat : Nat) else divRne z (2 ^ (-f).toNat))

/-! ### One lane -/

/-- The types of TYPE (R279): 0 INT32, 1 Q1.31, 2 FP32, 3 POS64; a lane is 32 bits, of POS64 64. -/
def laneBits (t : Nat) : Nat := if t = 3 then 64 else 32

/-- An integer result of a type: Q1.31 saturates, the others wrap or with SAT saturate. -/
def laneInt (t : Nat) (sat : Bool) (z : Int) : Nat :=
  if t = 1 ∨ (t = 0 ∧ sat) then encS 32 (satS 32 z) else encS (laneBits t) z

def laneAdd (t : Nat) (sat : Bool) (x y : Nat) : Nat :=
  if t = 2 then fpAdd x y else laneInt t sat (signed (laneBits t) x + signed (laneBits t) y)

def laneSub (t : Nat) (sat : Bool) (x y : Nat) : Nat :=
  if t = 2 then fpSub x y else laneInt t sat (signed (laneBits t) x - signed (laneBits t) y)

def laneMul (t : Nat) (sat : Bool) (x y : Nat) : Nat := match t with
  | 1 => encS 32 (satS 32 (divRne (signed 32 x * signed 32 y) (2 ^ 31)))
  | 2 => fpMul x y
  | _ => laneInt 0 sat (signed 32 x * signed 32 y)

def laneMac (t : Nat) (sat : Bool) (x y z : Nat) : Nat := match t with
  | 1 => encS 32 (satS 32 (signed 32 z + divRne (signed 32 x * signed 32 y) (2 ^ 31)))
  | 2 => fpAdd z (fpMul x y)
  | _ => laneInt 0 sat (signed 32 z + signed 32 x * signed 32 y)

/-- A signed quotient truncated toward zero. -/
def divTrunc (x y : Int) : Int :=
  let q : Int := (x.natAbs / y.natAbs : Nat)
  if decide (x < 0) = decide (y < 0) then q else -q

def laneDiv (t : Nat) (x y : Nat) : Nat :=
  let a := signed 32 x
  let b := signed 32 y
  match t with
  | 1 =>
    if b = 0 then encS 32 (if a = 0 then 0 else if 0 < a then 2 ^ 31 - 1 else -(2 ^ 31))
    else encS 32 (satS 32 (divRne (a * 2 ^ 31 * (if b < 0 then -1 else 1)) b.natAbs))
  | 2 => fpDiv x y
  | _ => if b = 0 then encS 32 (if 0 ≤ a then 2 ^ 31 - 1 else -(2 ^ 31)) else encS 32 (satS 32 (divTrunc a b))

def laneNeg (t : Nat) (sat : Bool) (x : Nat) : Nat :=
  if t = 2 then fpNeg x
  else if t = 3 then encS 64 (satS 64 (-(signed 64 x)))
  else laneInt t sat (-(signed 32 x))

def laneAbs (t : Nat) (sat : Bool) (x : Nat) : Nat :=
  if t = 2 then fpAbs x
  else if t = 3 then encS 64 (satS 64 (signed 64 x).natAbs)
  else laneInt t sat (signed 32 x).natAbs

def laneMin (t : Nat) (x y : Nat) : Nat :=
  if t = 2 then fpMin x y else if signed (laneBits t) x ≤ signed (laneBits t) y then x else y

def laneMax (t : Nat) (x y : Nat) : Nat :=
  if t = 2 then fpMax x y else if signed (laneBits t) x ≤ signed (laneBits t) y then y else x

/-- max(min(x, hi), lo). -/
def laneClamp (t : Nat) (x lo hi : Nat) : Nat := laneMax t (laneMin t x hi) lo

/-- SHIFT (R299): left, or arithmetically right. -/
def laneShift (t : Nat) (sat right : Bool) (n x : Nat) : Nat :=
  let w := laneBits t
  let z := signed w x
  if right then encS w (z / (2 ^ n : Nat)) else laneInt t sat (z * (2 ^ n : Nat))

/-- CVT (R300): from type `f` to type `t`, with s of POS64 conversions. -/
def laneCvt (f t s : Nat) (x : Nat) : Nat :=
  if f = t then x
  else match f, t with
  | 0, 2 => fpOfInt (signed 32 x) 0
  | 1, 2 => fpOfInt (signed 32 x) (-31)
  | 2, 0 => encS 32 (fpToInt 32 0 x)
  | 2, 1 => encS 32 (fpToInt 32 31 x)
  | 0, 3 => encS 64 (signed 32 x * (2 ^ (32 - s) : Nat))
  | 3, 0 => encS 32 (satS 32 (divRoundS (signed 64 x) (2 ^ (32 - s))))
  | 1, 3 => encS 64 (signed 32 x * 2)
  | 3, 1 => encS 32 (satS 32 (divRne (signed 64 x) 2))
  | 2, 3 => encS 64 (fpToInt 64 32 x)
  | 3, 2 => fpOfInt (signed 64 x) (-32)
  | _, _ => x % 2 ^ 32

/-- CMP (R301): a comparison with NaN holds only for NE. -/
def laneCmp (t cond x y : Nat) : Bool :=
  let o := if t = 2 then fpCompare x y else some (compare (signed (laneBits t) x) (signed (laneBits t) y))
  match cond, o with
  | 1, none => true
  | _, none => false
  | 0, some o => o == .eq
  | 1, some o => o != .eq
  | 2, some o => o == .lt
  | 3, some o => o != .gt
  | 4, some o => o == .gt
  | _, some o => o != .lt

end Sys2Proof.Machine
end

