-- ==== Sys2Proof/Machine/Fabric.lean ====
section
/-! DEFINITION. The fabric's credit (R325), the recomputation of its routes (R321 to R324, R330), hellos and records (R319, R320), 14_fabric.md. -/

namespace Sys2Proof.Machine

/-! ### Credit (R325) -/

/-- The grant of each lossless class of a port, in cells; the partner's HEADROOM and classes are taken as the port's own (log entry
18). -/
def Chip.grant (c : Chip) (p : Nat) : Nat :=
  let n := ((List.range 8).filter fun k => bitOf (c.losslessMask p) k).length
  if n = 0 then 0 else c.rd Reg.IN_BUF_HEADROOM p / n

/-- Whether a port keeps credit for a class. -/
def Chip.credited (c : Chip) (p cls : Nat) : Bool :=
  c.fabPort p && c.rd Reg.FC_CFG_FC_MODE p == 3 && bitOf (c.losslessMask p) cls

/-- The credit a class may still send, in cells: G + RET − SENT, the counts being cumulative modulo 2^32. -/
def Chip.credit (c : Chip) (p cls : Nat) : Nat :=
  let back := signed 32 ((SMap.get c.path.credGot (p * 8 + cls) + 2 ^ 32 - SMap.get c.path.credSent (p * 8 + cls)) % 2 ^ 32)
  ((c.grant p : Int) + back).toNat

/-- Whether the head of a queue of a credited class lacks credit (R325). -/
def Chip.lacksCredit (c : Chip) (p cls : Nat) : Bool :=
  c.credited p cls && match (c.queue (queueOf p cls)).head? with
    | none => false
    | some (id, k) => (c.tgtOf id k).any fun t => t.launch.isNone && decide (c.credit p cls < cellsOf (t.body.length + 4))

/-- The wait without credit of a queue's head begins where a change of the counts has taken its credit (R326). -/
def Chip.creditWait (old c : Chip) (p cls : Nat) : Chip :=
  if !old.lacksCredit p cls && c.lacksCredit p cls then
    match (c.queue (queueOf p cls)).head? with
    | some (id, k) => c.updTgt id k fun t => { t with headAt := c.now }
    | none => c
  else c

/-- FAB_CREDIT of a class brought up to date. -/
def Chip.showCredit (c : Chip) (p cls : Nat) : Chip :=
  let on := c.credited p cls
  (c.wr Reg.FAB_CREDIT_G (if on then c.grant p else 0) p cls).wr Reg.FAB_CREDIT_AVAIL (if on then satU 16 (c.credit p cls) else 0) p cls

/-- The payload of a credit frame: LINK_EPOCH and RET(0) to RET(7), in that order (log entry 18). -/
def Chip.creditPayload (c : Chip) (p : Nat) : Bytes :=
  bytesOfNat 1 (c.rd Reg.FAB_PORT_STATUS_LINK_EPOCH p) ++
    (List.range 8).flatMap fun k => bytesOfNat 4 (SMap.get c.path.credRet (p * 8 + k))

/-- FAB_CREDIT_RX: a credit frame of the present epoch replaces the partner's RET. -/
def Chip.fabCreditRx (p : Nat) (payload : Bytes) (c : Chip) : Chip :=
  if !c.fabUp p || natAt payload 0 1 != c.rd Reg.FAB_PORT_STATUS_LINK_EPOCH p then c
  else
    c.each (List.range 8) fun k c =>
      Chip.creditWait c ({ c with path := { c.path with credGot := SMap.set c.path.credGot (p * 8 + k) (natAt payload (1 + 4 * k) 4) } }.showCredit p k) p k

/-! ### Recomputation (R321 to R324, R330) -/

/-- The node of a device as its FAB_NODE shows it. -/
def Chip.showNode (c : Chip) (d : Nat) : Chip :=
  let l := c.fab.graph
  let recs := l.filter fun r => r.idValid && r.dev == d
  let r := ((recs.find? fun r => !isolated l r).getD (recs.headD {}))
  let self := c.fabId == some d
  let cand := c.candidates d false none
  let reach := recs ≠ [] ∧ (self ∨ cand.isSome)
  let c1 := ((((c.wr Reg.FAB_NODE_SERIAL r.serial d).flag Reg.FAB_NODE_PRESENT (recs ≠ []) d).flag Reg.FAB_NODE_REACHABLE reach d).flag
    Reg.FAB_NODE_ROOT (recs ≠ [] ∧ (rootOf l).map FabRec.dev = some d) d).flag Reg.FAB_NODE_ISOLATED (recs.any (isolated l)) d
  let c2 := (((c1.wr Reg.FAB_NODE_LEVEL ((lookupNat (levels l) d).getD 0) d).wr Reg.FAB_NODE_HOPS
    (if self then 0 else (cand.map Prod.fst).getD 0) d).wr Reg.FAB_NODE_TSTATE r.tstate d).wr Reg.FAB_NODE_FSTATE r.fstate d
  ((c2.wr Reg.FAB_NODE_TWIN r.twin d).wr Reg.FAB_NODE_NEXT_PORT (((cand.map Prod.snd).bind List.head?).getD 0) d).wr
    Reg.FAB_NODE_ROOT_PRIO r.prio d

/-- The routes toward every device, to tell whether they change. -/
def Chip.routeTable (c : Chip) : List (Option (Nat × List Nat)) := (List.range 64).map fun d => c.candidates d false none

/-- FAB_NODE of every device, ROOT_ID and DEVICES from the topology (R321, R322). -/
def Chip.showNodes (c : Chip) : Chip :=
  let c1 := c.each (List.range 64) fun d c => c.showNode d
  (c1.wr Reg.FAB_STATUS_ROOT_ID (((rootOf c.fab.graph).map FabRec.dev).getD 0)).wr Reg.FAB_STATUS_DEVICES
    ((List.range 64).filter fun d => c1.on Reg.FAB_NODE_REACHABLE d).length

/-- A condition seen: its flag stays, and its first sight is notified. -/
def Chip.fabSeen (c : Chip) (F : Fld) (ev d : Nat) : Chip :=
  if c.on F then c.flag F true else (c.flag F true).notify ev Cls.FAB d 0

/-- A device isolated by a conflict of IDs shows it (R321). -/
def Chip.idConflict (c : Chip) : Chip :=
  if c.fabId.isSome && isolated c.fab.graph c.ownRec then c.fabSeen Reg.FAB_STATUS_ID_CONFLICT Nt.ID_CONFLICT (c.fabId.getD 0) else c

/-- The devices beyond 15 hops (R322). -/
def Chip.deepNodes (c : Chip) : List Nat :=
  match c.fabId with
  | none => []
  | some s => (List.range 64).filter fun d => d != s && match firstHops c.fab.graph s d false (fun p => !c.fabUp p) with
      | some (n, _) => decide (15 < n)
      | none => false

def Chip.tooDeep (c : Chip) : Chip :=
  if c.deepNodes = [] then c else c.fabSeen Reg.FAB_STATUS_TOO_DEEP Nt.TOO_DEEP (c.deepNodes.headD 0)

/-- Pins whose port is no candidate (R323). -/
def Chip.pinsIdle (c : Chip) : Chip :=
  if (List.range 64).any fun d => c.on Reg.FAB_PIN_PIN_EN d &&
      !(((c.candidates d false none).map Prod.snd).getD []).contains (c.rd Reg.FAB_PIN_PORT d) then c.flag Reg.FAB_STATUS_PIN_IDLE true
  else c

/-- UPLINK and TREE of the fabric ports (R322, R324). -/
def Chip.showTree (c : Chip) : Chip :=
  let tree := c.treePorts
  c.each c.fabPorts fun p c =>
    (c.flag Reg.FAB_PORT_STATUS_UPLINK (c.fabUp p && !c.downPort p) p).flag Reg.FAB_PORT_STATUS_TREE (c.fabUp p && tree.contains p) p

/-- Whether a device was a neighbour. -/
def Chip.neighbour (c : Chip) (d : Nat) : Bool :=
  match c.fabId with
  | some s => (hops c.fab.graph).any fun h => h.src == s && h.dst == d
  | none => false

/-- Devices no longer reachable: a neighbour is notified, any other counted (R330). -/
def Chip.lostNodes (old c : Chip) : Chip :=
  c.each ((List.range 64).filter fun d => old.on Reg.FAB_NODE_REACHABLE d && !c.on Reg.FAB_NODE_REACHABLE d) fun d c =>
    if old.neighbour d then c.notify Nt.FAB_DEVICE_LOST Cls.FAB d 0 else c.count Ev.FAB_UNREACH

/-- FAB_REROUTE counts a change of the routes last computed, once there were any (R323, R330). -/
def Chip.rerouted (old c : Chip) : Chip :=
  let new := c.routeTable
  let c1 := { c with fab := { c.fab with routes := new } }
  if old.fab.graph != [] && old.fab.routes != new then c1.count Ev.FAB_REROUTE else c1

/-- FAB_ROUTE_RECOMPUTE: the routes are taken from the database as it stands (R321 to R324, R330). -/
def Chip.fabRecompute (c : Chip) : Chip :=
  if !c.fabOn then c
  else
    c.rerouted (c.lostNodes ((((({ c with fab := { c.fab with graph := c.database } } : Chip).showNodes).idConflict).tooDeep).pinsIdle).showTree)

/-! ### Hellos (R319) -/

/-- The payload of a hello. -/
def Chip.helloPayload (c : Chip) (p : Nat) : Bytes :=
  let h := c.hello p
  bytesOfNat 32 (Lay.HEL_FABRIC_ID.put (c.rd Reg.FAB_CFG_FABRIC_ID) + Lay.HEL_SERIAL.put c.serial +
    Lay.HEL_ID_VALID.put (b2n c.fabId.isSome) + Lay.HEL_HEARD.put (b2n h.heard) + Lay.HEL_EIDLE_EN.put (c.rd Reg.PORT_CFG_EIDLE_EN p) +
    Lay.HEL_CREDIT.put (b2n (c.rd Reg.FC_CFG_FC_MODE p == 3)) + Lay.HEL_DEV_ID.put (c.fabId.getD 0) + Lay.HEL_SEND_PORT.put p +
    Lay.HEL_LINK_EPOCH.put (c.rd Reg.FAB_PORT_STATUS_LINK_EPOCH p) + Lay.HEL_HEARD_SERIAL.put h.serial +
    Lay.HEL_HELLO_MS.put (c.rd Reg.FAB_CFG_HELLO_MS))

/-- FAB_HELLO_SEND: every HELLO_MS on a fabric port whose lanes are up (R319). -/
def Chip.fabHelloSend (p : Nat) (c : Chip) : Chip :=
  let h := c.hello p
  if c.fabPort p && c.linkUp p && (!h.sent || decide (h.sentAt + c.helloTime ≤ c.now)) then
    (c.updHello p fun h => { h with sent := true, sentAt := c.now }).ownFrame p 7 (zidFrame (zidOwn 1 1 7) (c.helloPayload p))
  else c

/-- An ISOLATED port carries hellos alone (R319). DESIGN CHOICE (log entry 198): what waits on it for the lane is discarded and counts DROP_LINK. -/
def Chip.fabSilence (c : Chip) (p : Nat) : Chip :=
  let hit := c.path.frames.flatMap fun f => (List.range f.tgts.length).filterMap fun k =>
    (f.tgts[k]?).bind fun t => if t.port = p ∧ (t.st = .queued ∨ t.st = .slot) ∧ c.silent p t.body then some (f, k, t.queue) else none
  c.each hit fun x c =>
    (if x.1.res = 1 then c.count Ev.DROP_LINK x.2.2
      else c.updFrame x.1.id fun f => { f with counts := f.counts ++ [(Ev.DROP_LINK, x.2.2)] }).dropTgt x.1.id x.2.1

/-- A fabric port's link state changes; entry to UP starts a new epoch with fresh credit (R319, R325), and FAB_LINK_DOWN holds back for 1 s what
follows from it (R330). -/
def Chip.setFabLink (c : Chip) (p v cause : Nat) : Chip :=
  let old := c.rd Reg.FAB_PORT_STATUS_LINK p
  let c1 := (c.wr Reg.FAB_PORT_STATUS_LINK v p).wr Reg.FAB_PORT_STATUS_ISO_CAUSE cause p
  let c2 := if v = 2 ∧ old ≠ 2 then
      let ks := (List.range 8).map (p * 8 + ·)
      let c := c1.incMod Reg.FAB_PORT_STATUS_LINK_EPOCH 1 p
      let c := { c with path := ks.foldl (fun t k =>
        { t with credSent := SMap.set t.credSent k 0, credRet := SMap.set t.credRet k 0, credGot := SMap.set t.credGot k 0, credRep := SMap.set t.credRep k 0 }) c.path }
      c.each (List.range 8) fun k c => c.showCredit p k
    else c1
  let c3 := if v = 0 then (c2.wr Reg.FAB_PORT_STATUS_PEER_ID 0 p).wr Reg.FAB_PORT_STATUS_PEER_PORT 0 p else c2
  if v = 3 then c3.fabSilence p
  else if old = 2 ∧ v = 0 then
    let c4 := c3.notify Nt.FAB_LINK_DOWN Cls.PORT p 0x61
    { c4 with coal := { c4.coal with downUntil := SMap.set c4.coal.downUntil p (c4.now + unitsS 1) } }
  else c3

/-- PCS link-up of a fabric port (R319): PROBE, without a hello yet. -/
def Chip.fabProbe (c : Chip) (p : Nat) : Chip := (c.updHello p fun _ => { heardAt := c.now }).setFabLink p 1 0

/-- The cause that isolates a port, from a hello (R319). -/
def Chip.isoCause (c : Chip) (v : Nat) : Nat :=
  let peer := Lay.HEL_SERIAL.get v
  if Lay.HEL_FABRIC_ID.get v ≠ c.rd Reg.FAB_CFG_FABRIC_ID then 1
  else if (c.fabId.isSome && isolated c.database c.ownRec) || c.database.any (fun r => r.serial == peer && isolated c.database r) then 2
  else if Lay.HEL_ID_VALID.get v = 0 then 3
  else if peer = c.serial then 4
  else if Lay.HEL_HELLO_MS.get v ≠ c.rd Reg.FAB_CFG_HELLO_MS then 5
  else 0

/-- FAB_HELLO_RX: a confirmed hello (R65, R319). DESIGN CHOICE (log entry 199): on a port that a timeout took to DOWN with its lanes up, the next hello
begins PROBE. -/
def Chip.fabHelloRx (p : Nat) (payload : Bytes) (c : Chip) : Chip :=
  if !(c.fabPort p && c.linkUp p) then c
  else
    let v := natAt payload 0 32
    let qualifies := Lay.HEL_FABRIC_ID.get v == c.rd Reg.FAB_CFG_FABRIC_ID && Lay.HEL_HELLO_MS.get v == c.rd Reg.FAB_CFG_HELLO_MS &&
      Lay.HEL_HEARD.get v == 1 && Lay.HEL_HEARD_SERIAL.get v == c.serial
    let c1 := c.updHello p fun h => { h with
      heard := true, heardAt := c.now, good := (if qualifies then h.good + 1 else 0), serial := Lay.HEL_SERIAL.get v
      credit := Lay.HEL_CREDIT.get v == 1 }
    let c1 := c1.updPort p fun s => { s with peerEidle := Lay.HEL_EIDLE_EN.get v == 1, peerAt := c.now }
    let c1 := if c1.on Reg.PORT_CFG_EIDLE_EN p then c1.flag Reg.PORT_STATUS_EIDLE_NOPEER (Lay.HEL_EIDLE_EN.get v == 0) p else c1
    let c2 := (c1.wr Reg.FAB_PORT_STATUS_PEER_ID (Lay.HEL_DEV_ID.get v) p).wr Reg.FAB_PORT_STATUS_PEER_PORT (Lay.HEL_SEND_PORT.get v) p
    let cause := c2.isoCause v
    let link := c2.rd Reg.FAB_PORT_STATUS_LINK p
    if cause ≠ 0 then c2.setFabLink p 3 cause
    else if link = 3 ∨ link = 0 then (c2.updHello p fun h => { h with good := if qualifies then 1 else 0 }).setFabLink p 1 0
    else if link ≠ 2 ∧ 3 ≤ (c2.hello p).good then c2.setFabLink p 2 0
    else c2

/-- FAB_HELLO_TIMEOUT: no hello for 3 × HELLO_MS, in PROBE from its start (R319). DESIGN CHOICE (log entry 159): the partner's EIDLE report stands. -/
def Chip.fabHelloTimeout (p : Nat) (c : Chip) : Chip :=
  let h := c.hello p
  if c.fabPort p && c.rd Reg.FAB_PORT_STATUS_LINK p != 0 && decide (h.heardAt + 3 * c.helloTime ≤ c.now) then
    (c.updHello p fun h => { h with heard := false, good := 0 }).setFabLink p 0 0
  else c

/-! ### Records (R320) -/

/-- A record as sent: the payload and its link entries. -/
def Chip.recPayload (c : Chip) (r : FabRec) : Bytes :=
  bytesOfNat 32 (Lay.REC_FABRIC_ID.put (c.rd Reg.FAB_CFG_FABRIC_ID) + Lay.REC_SERIAL.put r.serial + Lay.REC_SUBTYPE.put 1 +
    Lay.REC_ID_VALID.put (b2n r.idValid) + Lay.REC_TWIN.put r.twin + Lay.REC_DEV_ID.put r.dev + Lay.REC_ROOT_PRIO.put r.prio +
    Lay.REC_TSTATE.put r.tstate + Lay.REC_FSTATE.put r.fstate + Lay.REC_SEQ.put r.seq + Lay.REC_LINK_COUNT.put r.links.length) ++
  r.links.flatMap fun (peer, lp, pp) => bytesOfNat 4 (peer * 2 ^ 26 + lp * 2 ^ 16 + pp * 2 ^ 6)

/-- A record sent on the UP fabric ports, one port excepted. -/
def Chip.sendRec (c : Chip) (r : FabRec) (not_ : Option Nat) : Chip :=
  c.each (c.fabPorts.filter fun p => c.fabUp p && some p != not_) fun p c => c.ownFrame p 7 (zidFrame (zidOwn 1 1 7) (c.recPayload r))

/-- A record without its sequence number and time, to tell whether its content changed. -/
def FabRec.content (r : FabRec) : FabRec := { r with seq := 0, seenAt := 0 }

/-- FAB_RECORD_SEND: every HELLO_MS, and on any change of the content (R320). -/
def Chip.fabRecordSend (c : Chip) : Chip :=
  if !c.fabOn then c
  else if (c.fab.sent.map FabRec.content) = some c.ownRec.content ∧ c.now < c.fab.sentAt + c.helloTime then c
  else
    let n := if c.fab.sent = none then 0 else (c.fab.seq + 1) % 2 ^ 32
    let c1 := { c with fab := { c.fab with seq := n, sentAt := c.now } }
    let r := c1.ownRec
    { c1 with fab := { c1.fab with sent := some r } }.sendRec r none

/-- A record read from a payload. -/
def recOf (b : Bytes) (now : Nat) : FabRec :=
  let v := natAt b 0 32
  { serial := Lay.REC_SERIAL.get v, idValid := Lay.REC_ID_VALID.get v == 1, twin := Lay.REC_TWIN.get v, dev := Lay.REC_DEV_ID.get v
    prio := Lay.REC_ROOT_PRIO.get v, tstate := Lay.REC_TSTATE.get v, fstate := Lay.REC_FSTATE.get v, seq := Lay.REC_SEQ.get v
    links := (List.range (Lay.REC_LINK_COUNT.get v)).map fun i =>
      let w := natAt b (32 + 4 * i) 4
      (bitsOf w 26 6, bitsOf w 16 10, bitsOf w 6 10)
    seenAt := now }

/-- FAB_RECORD_RX: a newer record is stored and relayed, any other discarded (R320). -/
def Chip.fabRecordRx (p : Nat) (payload : Bytes) (c : Chip) : Chip :=
  if !c.fabUp p then c
  else
    let r := recOf payload c.now
    let old := c.fab.recs.find? fun x => x.serial == r.serial
    let newer := match old with
      | none => true
      | some x => let d := (r.seq + 2 ^ 32 - x.seq) % 2 ^ 32; decide (1 ≤ d) && decide (d < 2 ^ 31)
    if r.serial = c.serial ∨ !newer ∨ Lay.REC_FABRIC_ID.get (natAt payload 0 32) ≠ c.rd Reg.FAB_CFG_FABRIC_ID then c
    else
      let recs := (c.fab.recs.filter fun x => x.serial < r.serial) ++ r :: (c.fab.recs.filter fun x => r.serial < x.serial)
      { c with fab := { c.fab with recs := recs } }.sendRec r (some p)

/-- FAB_RECORD_EXPIRE: records not refreshed for 4 × HELLO_MS are deleted (R320). -/
def Chip.fabRecordExpire (c : Chip) : Chip :=
  { c with fab := { c.fab with recs := c.fab.recs.filter fun r => c.now < r.seenAt + 4 * c.helloTime } }

end Sys2Proof.Machine
end

