-- ==== Sys2Proof/Machine/Gates.lean ====
section
/-! DEFINITION. Gate control lists of ports and stream gates (R117 to R122, R124, R149): the states at an instant, the instants at
which they change, the change time of a commit, and the swap. Instants are times of the timebase in units of 2^-16 ns. A list is
numbered by its port, a stream gate's 1,024 + gate. -/

namespace Sys2Proof.Machine

/-- An entry: the open gates, the duration in 2^-16 ns, the operation. -/
structure GateEntry where
  gates : Nat
  dur : Nat
  op : Nat
  deriving DecidableEq, Repr, Inhabited

/-- A list with its base, cycle and extension. -/
structure GateList where
  entries : List GateEntry
  base : Nat
  cycle : Nat
  ext : Nat
  deriving DecidableEq, Repr, Inhabited

/-- Nanoseconds as 2^-16 ns. -/
def ns16 (n : Nat) : Nat := n * 65536

/-- The administrative list (R120). -/
def Chip.adminList (c : Chip) (l : Nat) : GateList :=
  if l < 1024 then
    { entries := (List.range (c.rd Reg.ADMIN_LEN l)).map fun e =>
        { gates := c.rd Reg.ADMIN_LIST_GATES l e, dur := ns16 (c.rd Reg.ADMIN_LIST_INTERVAL l e), op := c.rd Reg.ADMIN_LIST_OP l e }
      base := timeOf96 (c.rd Reg.ADMIN_BASE l), cycle := ns16 (max 1 (c.rd Reg.ADMIN_CYCLE l)), ext := ns16 (c.rd Reg.ADMIN_EXT l) }
  else
    let g := l - 1024
    { entries := (List.range (c.rd Reg.SG_ADMIN_LEN 3 g)).map fun e =>
        { gates := c.rd Reg.SG_ADMIN_LIST_GATES 3 (g * 64 + e), dur := ns16 (c.rd Reg.SG_ADMIN_LIST_INTERVAL 3 (g * 64 + e)), op := 0 }
      base := timeOf96 (c.rd Reg.SG_ADMIN_BASE 3 g), cycle := ns16 (max 1 (c.rd Reg.SG_ADMIN_CYCLE 3 g)), ext := 0 }

/-- The operational list. -/
def Chip.operList (c : Chip) (l : Nat) : GateList :=
  if l < 1024 then
    { entries := (List.range (c.rd Reg.OPER_LEN l)).map fun e =>
        { gates := c.rd Reg.OPER_LIST_GATES l e, dur := ns16 (c.rd Reg.OPER_LIST_INTERVAL l e), op := c.rd Reg.OPER_LIST_OP l e }
      base := timeOf96 (c.rd Reg.OPER_BASE l), cycle := ns16 (max 1 (c.rd Reg.OPER_CYCLE l)), ext := ns16 (c.rd Reg.OPER_EXT l) }
  else
    let g := l - 1024
    { entries := (List.range (c.rd Reg.SG_OPER_LEN 3 g)).map fun e =>
        { gates := c.rd Reg.SG_OPER_LIST_GATES 3 (g * 64 + e), dur := ns16 (c.rd Reg.SG_OPER_LIST_INTERVAL 3 (g * 64 + e)), op := 0 }
      base := timeOf96 (c.rd Reg.SG_OPER_BASE 3 g), cycle := ns16 (max 1 (c.rd Reg.SG_OPER_CYCLE 3 g)), ext := 0 }

def Chip.gateEn (c : Chip) (l : Nat) : Bool := if l < 1024 then c.on Reg.GATE_CTRL_GATE_EN l else c.on Reg.SG_CTRL_SG_EN 3 (l - 1024)
def Chip.gatePending (c : Chip) (l : Nat) : Bool :=
  if l < 1024 then c.on Reg.GATE_STATUS_PENDING l else c.on Reg.SG_STATUS_PENDING 3 (l - 1024)
def Chip.gateRunning (c : Chip) (l : Nat) : Bool :=
  if l < 1024 then c.on Reg.GATE_STATUS_RUNNING l else c.on Reg.SG_STATUS_RUNNING 3 (l - 1024)

/-- CHANGE_TIME of a list; that of a stream gate is kept with its commit point. -/
def Chip.gateCT (c : Chip) (l : Nat) : Nat :=
  if l < 1024 then timeOf96 (c.rd Reg.CHANGE_TIME l) else SMap.get c.gateP (4096 + l)

/-- The entry reached at an offset into a cycle: its number and how far it lasts, the last one to the cycle's end (R117). -/
def entryAt : List GateEntry → Nat → Nat → Nat → Nat × Nat
  | [], n, _, cyc => (n, cyc)
  | [_], n, _, cyc => (n, cyc)
  | e :: l, n, pos, cyc => if pos < e.dur then (n, min e.dur cyc) else
      let (m, d) := entryAt l (n + 1) (pos - e.dur) (cyc - e.dur)
      (m, e.dur + d)

/-- The last entry a cycle reaches: the one at the end of the cycle. -/
def GateList.lastEntry (g : GateList) : Nat := (entryAt g.entries 0 (g.cycle - 1) g.cycle).1

/-- Where a list stands at an instant: entry, and the instant the entry ends (R117). After a backward step the position is counted back from the
base (R118). -/
def GateList.at (g : GateList) (t : Nat) : Nat × Nat :=
  let pos := (((t : Int) - g.base) % g.cycle).toNat
  let (n, d) := entryAt g.entries 0 pos g.cycle
  (n, t + (min d g.cycle - pos))

/-- The gates an entry opens; a stream gate's states are its GATES field. -/
def GateList.gates (g : GateList) (n : Nat) : Nat := (g.entries[n]?.map GateEntry.gates).getD 0

/-- The old cycle boundary that R121 suppresses before a change time: the first at or after P that lies less than the extension before it. -/
def oldBoundary (g : GateList) (p ct : Nat) : Option Nat :=
  let first := max g.base (max p (ct - g.ext + 1))
  let b := g.base + ceilDiv (first - g.base) g.cycle * g.cycle
  if g.ext ≠ 0 ∧ b < ct then some b else none

/-- Where the gates of a list are at an instant on the combined timeline (R119, R121): the states, the entry, and the instant up to
which they hold (none: for good). DESIGN CHOICE (log entry 195): an enabled stream gate whose first list has not taken effect is open with IPV unset. -/
def Chip.gateAt (c : Chip) (l t : Nat) : Nat × Nat × Option Nat :=
  let open_ := if l < 1024 then 0xFF else 0x80
  if !c.gateEn l then (open_, 0, none)
  else
    let pend := c.gatePending l
    let ct := c.gateCT l
    if pend ∧ ct ≤ t then
      let g := c.adminList l
      let (n, e) := g.at t
      (g.gates n, n, some e)
    else if c.gateRunning l then
      let g := c.operList l
      let sup := if pend then oldBoundary g (SMap.get c.gateP l) ct else none
      match sup with
      | some b => if b ≤ t then (g.gates g.lastEntry, g.lastEntry, some ct)
        else let (n, e) := g.at t; (g.gates n, n, some (if e = b then b else min e ct))
      | none => let (n, e) := g.at t; (g.gates n, n, some (if pend then min e ct else e))
    else ((if l < 1024 then c.rd Reg.GATE_CTRL_ADMIN_STATES l else open_), 0, if pend then some ct else none)

/-- Whether a gate is open over entry after entry from an instant, for a duration; the first number bounds the entries looked at. -/
def Chip.gateOpenOver (c : Chip) (l cls : Nat) : Nat → Nat → Nat → Bool
  | 0, _, _ => false
  | n + 1, t, d =>
    let (g, _, e) := c.gateAt l t
    if !bitOf g cls then false
    else match e with
      | none => true
      | some e => if t + d ≤ e ∨ e ≤ t then true else c.gateOpenOver l cls n e (t + d - e)

/-- Whether a gate is open from an instant for a duration (R119). An entry lasts 32 ns or more, but one that a cycle boundary or the change time
cuts; cycles last 1,000 ns or more: a duration meets no more entries than the bound here. -/
def Chip.gateOpenFor (c : Chip) (l cls t d : Nat) : Bool := c.gateOpenOver l cls (2 * (d / ns16 32) + 8) t d

/-- The status of a list brought up to the present (R117, R118). -/
def Chip.gateStatus (c : Chip) (l : Nat) : Chip :=
  let (g, n, _) := c.gateAt l c.tb16
  if l < 1024 then (c.wr Reg.GATE_STATUS_OPER_STATES g l).wr Reg.GATE_STATUS_ENTRY n l
  else (c.flag Reg.SG_STATUS_OPEN (bitOf g 7) 3 (l - 1024)).wr Reg.SG_STATUS_ENTRY n 3 (l - 1024)

/-- Whether hold stands after the entries of a list up to number n of a cycle, where `before` tells of it at the list's start: the last entry
with OP 1 or 2 decides, back over the cycle before where there was one; SetGateStates leaves hold as it is (R124). -/
def GateList.holdAfter (g : GateList) (n : Nat) (t : Nat) (before : Bool) : Bool :=
  let ops := (g.entries.take (n + 1)).map GateEntry.op
  let all := if g.base + g.cycle ≤ t then (g.entries.take (g.lastEntry + 1)).map GateEntry.op ++ ops else ops
  match all.reverse.find? (· != 0) with
  | some o => o == 1
  | none => before

/-- The operational copy takes the administrative values (R121); a hold of the old list lasts until the new one releases it (R124). -/
def Chip.gateSwap (c : Chip) (l : Nat) : Chip :=
  if l < 1024 then
    let hold := c.gateRunning l && (c.operList l).holdAfter (c.gateAt l (c.gateCT l - 1)).2.1 (c.gateCT l - 1) (SMap.get c.path.ports l).hold
    let c0 : Chip := { c with path := { c.path with ports := SMap.upd c.path.ports l fun s => { s with hold := hold } } }
    let c1 := c0.each (List.range 256) fun e c =>
      ((c.wr Reg.OPER_LIST_OP (c.rd Reg.ADMIN_LIST_OP l e) l e).wr Reg.OPER_LIST_GATES (c.rd Reg.ADMIN_LIST_GATES l e) l e).wr
        Reg.OPER_LIST_INTERVAL (c.rd Reg.ADMIN_LIST_INTERVAL l e) l e
    ((((((c1.wr Reg.OPER_LEN (c.rd Reg.ADMIN_LEN l) l).wr Reg.OPER_BASE (c.rd Reg.ADMIN_BASE l) l).wr Reg.OPER_CYCLE
      (c.rd Reg.ADMIN_CYCLE l) l).wr Reg.OPER_EXT (c.rd Reg.ADMIN_EXT l) l).flag Reg.GATE_STATUS_PENDING false l).flag
      Reg.GATE_STATUS_RUNNING true l).gateStatus l
  else
    let g := l - 1024
    let c1 := c.each ((List.range 64).map fun e => g * 64 + e) fun e c =>
      ((c.wr Reg.SG_OPER_LIST_OP (c.rd Reg.SG_ADMIN_LIST_OP 3 e) 3 e).wr Reg.SG_OPER_LIST_GATES (c.rd Reg.SG_ADMIN_LIST_GATES 3 e) 3 e).wr
        Reg.SG_OPER_LIST_INTERVAL (c.rd Reg.SG_ADMIN_LIST_INTERVAL 3 e) 3 e
    (((((c1.wr Reg.SG_OPER_LEN (c.rd Reg.SG_ADMIN_LEN 3 g) 3 g).wr Reg.SG_OPER_BASE (c.rd Reg.SG_ADMIN_BASE 3 g) 3 g).wr
      Reg.SG_OPER_CYCLE (c.rd Reg.SG_ADMIN_CYCLE 3 g) 3 g).flag Reg.SG_STATUS_PENDING false 3 g).flag Reg.SG_STATUS_RUNNING true 3
      g).gateStatus l

/-- GATE_CHANGE_TIME, and the swap of a stream gate (R121, R149): at CT. -/
def Chip.gateChange (l : Nat) (c : Chip) : Chip :=
  if c.gatePending l && decide (c.gateCT l ≤ c.tb16) then c.gateSwap l else c

/-- The change time of a commit at P (R120): the change time, and whether it was moved forward. -/
def changeTime (base cycle margin p : Nat) : Nat × Bool :=
  let need := p + margin
  if need ≤ base then (base, false) else (base + ceilDiv (need - base) cycle * cycle, true)

/-- A commit that writes a list or its control (R120, R121, R149). -/
def Chip.gateCommit (c : Chip) (l p : Nat) : Chip :=
  if l < 1024 then
    if !c.gateEn l then ((c.flag Reg.GATE_STATUS_PENDING false l).flag Reg.GATE_STATUS_RUNNING false l).gateStatus l
    else
      let g := c.adminList l
      let (ct, late) := changeTime g.base g.cycle (ns16 (1000 * c.rd Reg.GATE_CTRL_SETUP_MARGIN l)) p
      let c1 := ((c.wr Reg.CHANGE_TIME (time96 ct) l).flag Reg.GATE_STATUS_PENDING true l)
      let c2 := { c1 with gateP := SMap.set c1.gateP l p }
      let c3 := if late then ((c2.flag Reg.GATE_STATUS_LATE_START true l).jrnEvent Nt.LATE_START 0).notify Nt.LATE_START Cls.GATE l 0x17 else c2
      c3.gateStatus l
  else
    let s := l - 1024
    if !c.gateEn l then ((c.flag Reg.SG_STATUS_PENDING false 3 s).flag Reg.SG_STATUS_RUNNING false 3 s).gateStatus l
    else
      let g := c.adminList l
      let (ct, late) := changeTime g.base g.cycle (ns16 (1000 * c.rd Reg.SG_CTRL_SETUP_MARGIN 3 s)) p
      let c1 := c.flag Reg.SG_STATUS_PENDING true 3 s
      let c2 := { c1 with gateP := SMap.set (SMap.set c1.gateP l p) (4096 + l) ct }
      let c3 := if late then ((c2.flag Reg.SG_STATUS_LATE_START true 3 s).jrnEvent Nt.LATE_START 0).notify Nt.LATE_START Cls.TBL 3 0x34 else c2
      c3.gateStatus l

/-- STREAM_GATE_ENTRY_CHANGE (R149). -/
def Chip.streamGateEntry (g : Nat) (c : Chip) : Chip := (c.gateChange (1024 + g)).gateStatus (1024 + g)

/-- Lists that are pending or run. -/
def Chip.liveLists (c : Chip) : List Nat :=
  ((List.range 512).filter fun l => c.gateEn l) ++ (((List.range 512).map (· + 1024)).filter fun l => c.gateEn l)

/-- The lists after a step of the timebase (R118): change times passed over take effect, positions are recomputed. -/
def Chip.gatesStep (c : Chip) : Chip := c.each c.liveLists fun l c => (c.gateChange l).gateStatus l

/-- The operation of a list's entry in force, and whether hold stands in it, at an instant on the combined timeline. -/
def Chip.holdEntry (c : Chip) (l t : Nat) : Nat × Bool :=
  let n := (c.gateAt l t).2.1
  let oper := c.operList l
  let old := fun (u : Nat) => if c.gateRunning l then oper.holdAfter (c.gateAt l u).2.1 u (SMap.get c.path.ports l).hold else false
  if !c.gateEn l then (0, false)
  else if c.gatePending l ∧ c.gateCT l ≤ t then
    let g := c.adminList l
    ((g.entries[n]?.map GateEntry.op).getD 0, g.holdAfter n t (old (c.gateCT l - 1)))
  else if c.gateRunning l then ((oper.entries[n]?.map GateEntry.op).getD 0, old t)
  else (0, false)

/-- Whether a Set-And-Hold entry starts up to an instant, entry after entry; the first number bounds the entries looked at. -/
def Chip.holdAhead (c : Chip) (l : Nat) : Nat → Nat → Nat → Bool
  | 0, _, _ => false
  | n + 1, t, until_ =>
    match (c.gateAt l t).2.2 with
    | none => false
    | some e => decide (t < e) && decide (e ≤ until_) && ((c.holdEntry l e).1 == 1 || c.holdAhead l n e until_)

/-- Whether an instant lies in a hold of the MAC merge sublayer (R124): from the lead time before a Set-And-Hold entry up to the start of a
Set-And-Release entry. -/
def Chip.holdAt (c : Chip) (l t lead : Nat) : Bool := (c.holdEntry l t).2 || c.holdAhead l (2 * (lead / ns16 32) + 4) t (t + lead)

/-! ### The window check (R122) -/

/-- The windows of a class over the entries of one cycle: the lengths of its runs. -/
def windowRuns (cls : Nat) : List (Nat × Nat) → Option Nat → List Nat
  | [], cur => cur.toList
  | (g, d) :: l, cur =>
    if bitOf g cls then windowRuns cls l (some (cur.getD 0 + d))
    else cur.toList ++ windowRuns cls l none

/-- The entries of one cycle with their durations, cut at the cycle's end, and the last of them cut or stretched to `len`. -/
def GateList.cycleSpans (g : GateList) (len : Nat) : List (Nat × Nat) :=
  let step := fun (a : List (Nat × Nat) × Nat) (e : GateEntry) =>
    let d := min e.dur (min len g.cycle - a.2)
    (if d = 0 then a.1 else a.1 ++ [(e.gates, d)], a.2 + d)
  let (l, used) := g.entries.foldl step ([], 0)
  match l.getLast? with
  | some (x, d) => if used < len then l.dropLast ++ [(x, d + (len - used))] else l
  | none => l

/-- The shortest window of a class in a cycle of `len`, none without a window. -/
def GateList.shortest (g : GateList) (cls len : Nat) : Option Nat :=
  match windowRuns cls (g.cycleSpans len) none with
  | [] => none
  | x :: l => some (l.foldl min x)

end Sys2Proof.Machine
end

