-- ==== Sys2Proof/Machine/Parser.lean ====
section
/-! DEFINITION. The parser: what a frame's head yields (R74, R75, 04_frame_path.md), the marks of command packets (R361), pause frames
(R112), and the classifier's key (R146). -/

namespace Sys2Proof.Machine

/-- The PTP fields of a key. -/
structure PtpKey where
  typ : Option Nat := none
  dom : Option Nat := none
  seq : Option Nat := none
  deriving DecidableEq, Repr, Inhabited

/-- The key of a frame (R75): `none` where a field is absent. Offsets count from the frame's DA: `l3` the first byte after the EtherType,
`l4` the UDP or TCP header, `ptpAt` the PTP header. `ver` tells a recognised IP header; `cmd` is the magic, the role and the key slot of a
command packet. -/
structure Key where
  da : Nat := 0
  sa : Nat := 0
  outer : Option (Nat × Nat) := none
  inner : Option Nat := none
  rtag : Option Nat := none
  rtagAt : Nat := 0
  etype : Option Nat := none
  l3 : Nat := 0
  ver : Nat := 0
  dscp : Option Nat := none
  ecn : Option Nat := none
  flow : Option Nat := none
  proto : Option Nat := none
  ttl : Option Nat := none
  frag : Option Bool := none
  src : Option Nat := none
  dst : Option Nat := none
  l4 : Nat := 0
  sport : Option Nat := none
  dport : Option Nat := none
  tcp : Option Nat := none
  ptp : Option PtpKey := none
  ptpAt : Nat := 0
  lldp : Bool := false
  esmc : Bool := false
  cmd : Option (Option Nat × Option Nat × Option Nat) := none
  deriving DecidableEq, Repr, Inhabited

/-- Whether n bytes from offset o lie in a window. -/
def within (w : Bytes) (o n : Nat) : Bool := decide (o + n ≤ w.length)

/-- A field of n bytes from offset o, absent where it does not lie in the window whole (R74). -/
def fieldAt (w : Bytes) (o n : Nat) : Option Nat := if within w o n then some (natAt w o n) else none

/-- PTP header at an offset. -/
def parsePtp (w : Bytes) (k : Key) (o : Nat) : Key :=
  { k with ptp := some { typ := (fieldAt w o 1).map (· % 16), dom := fieldAt w (o + 4) 1, seq := fieldAt w (o + 30) 2 }, ptpAt := o }

/-- UDP or TCP of a first fragment. -/
def parseL4 (w : Bytes) (k : Key) (first : Bool) : Key :=
  if first && (k.proto == some 17 || k.proto == some 6) then
    let k1 := { k with sport := fieldAt w k.l4 2, dport := fieldAt w (k.l4 + 2) 2 }
    if k.proto = some 6 then { k1 with tcp := fieldAt w (k.l4 + 13) 1 }
    else if k1.dport = some 319 ∨ k1.dport = some 320 then parsePtp w k1 (k.l4 + 8)
    else k1
  else k

/-- IPv4 with IHL 5 to 15. -/
def parseIp4 (w : Bytes) (k : Key) (o : Nat) : Key :=
  match (fieldAt w o 1).map (· % 16) with
  | none => k
  | some ihl =>
    if ihl < 5 then k
    else
      let tos := fieldAt w (o + 1) 1
      let f := fieldAt w (o + 6) 2
      parseL4 w { k with
        ver := 4, dscp := tos.map (· / 4), ecn := tos.map (· % 4), proto := fieldAt w (o + 9) 1, ttl := fieldAt w (o + 8) 1
        frag := f.map fun f => decide (f % 16384 ≠ 0), src := fieldAt w (o + 12) 4, dst := fieldAt w (o + 16) 4
        l4 := o + 4 * ihl } (f.any fun f => f % 8192 == 0)

/-- IPv6; one hop-by-hop header is skipped. -/
def parseIp6 (w : Bytes) (k : Key) (o : Nat) : Key :=
  let tc := (fieldAt w o 2).map (· / 16 % 256)
  let nh := fieldAt w (o + 6) 1
  let hop := nh == some 0
  parseL4 w { k with
    ver := 6, dscp := tc.map (· / 4), ecn := tc.map (· % 4), flow := (fieldAt w o 4).map (· % 2 ^ 20)
    proto := if hop then fieldAt w (o + 40) 1 else nh, ttl := fieldAt w (o + 7) 1, src := fieldAt w (o + 8) 16, dst := fieldAt w (o + 24) 16
    l4 := if hop then o + 48 + 8 * natAt w (o + 41) 1 else o + 40 } true

/-- What follows the tags, from the EtherType at offset o. `early` tells a position before any R-TAG, where LLDP and ESMC are recognised. -/
def parseRest (w : Bytes) (k : Key) (o : Nat) (early : Bool) : Key :=
  match fieldAt w o 2 with
  | none => k
  | some t =>
    let k := { k with etype := some t, l3 := o + 2 }
    if t = 0x0800 then parseIp4 w k (o + 2)
    else if t = 0x86DD then parseIp6 w k (o + 2)
    else if t = 0x88F7 then parsePtp w k (o + 2)
    else if t = 0x88CC ∧ early then { k with lldp := true }
    else if t = 0x8809 ∧ early then { k with esmc := fieldAt w (o + 2) 1 == some 0x0A }
    else k

/-- An R-TAG: EtherType 0xF1C1, two reserved bytes, the sequence number. -/
def parseRtag (w : Bytes) (k : Key) (o : Nat) : Key :=
  if fieldAt w o 2 = some 0xF1C1 then parseRest w { k with rtag := fieldAt w (o + 4) 2, rtagAt := o } (o + 6) false
  else parseRest w k o true

/-- The parse of a frame from its DA (R75), over at most `room` bytes (R74). -/
def parseKey (b : Bytes) (room : Nat) : Key :=
  let w := b.take room
  let k : Key := { da := natAt w 0 6, sa := natAt w 6 6 }
  let tp := natAt w 12 2
  if within w 12 4 ∧ (tp = 0x88A8 ∨ tp = 0x8100) then
    let k1 := { k with outer := some (tp, natAt w 14 2) }
    if within w 16 4 ∧ natAt w 16 2 = 0x8100 then parseRtag w { k1 with inner := some (natAt w 18 2) } 20
    else parseRtag w k1 16
  else parseRtag w k 12

/-- The bytes between the DA and the FCS of a frame, after a Zidom header of `skip` bytes. -/
def Frame.inner (f : Frame) (skip : Nat) : Bytes := (f.bytes.take (f.len - 4)).drop skip

/-- The key of a frame whose DA follows `skip` bytes. -/
def Frame.keyAt (f : Frame) (skip : Nat) : Key := parseKey (f.inner skip) (128 - skip)

/-- Whether a frame's FCS checks good. -/
def Frame.fcsOk (f : Frame) : Bool :=
  decide (4 ≤ f.len) && crc32 (f.bytes.take (f.len - 4)) == natOfBytesLE (f.bytes.drop (f.len - 4))

/-! ### Pause frames (R112) -/

/-- A PAUSE frame (all classes) or a PFC frame: the classes named and the quanta of each. -/
def pauseOf (b : Bytes) : Option (List (Nat × Nat)) :=
  if natAt b 0 6 = 0x0180C2000001 ∧ natAt b 12 2 = 0x8808 then
    if natAt b 14 2 = 0x0001 then some ((List.range 8).map fun k => (k, natAt b 16 2))
    else if natAt b 14 2 = 0x0101 then
      some ((List.range 8).filterMap fun k => if bitOf (natAt b 16 2) k then some (k, natAt b (18 + 2 * k) 2) else none)
    else none
  else none

/-! ### Command packets (R361) -/

/-- Whether the UDP checksum of a frame is 0 or correct. -/
def udpSumOk (b : Bytes) (k : Key) : Bool :=
  let n := natAt b (k.l4 + 4) 2
  let udp := sliceBytes b k.l4 n
  let addr := fun (a : Option Nat) => bytesOfNat (if k.ver = 4 then 4 else 16) (a.getD 0)
  let pseudo := addr k.src ++ addr k.dst ++ (if k.ver = 4 then bytesOfNat 2 17 ++ bytesOfNat 2 n else bytesOfNat 4 n ++ bytesOfNat 4 17)
  natAt b (k.l4 + 6) 2 == 0 || inetSum (pseudo ++ udp) == 0

/-- The path and the packet bytes of a frame, after a Zidom header of `skip` bytes, that is a command packet addressed to the device (R361). -/
def Chip.commandOf (c : Chip) (f : Frame) (k : Key) (skip : Nat) : Option (Via × Bytes) :=
  let b := f.inner skip
  let port : Fin 513 := ⟨min f.port 512, by omega⟩
  let tag := k.outer.map fun t => t.1 * 65536 + t.2
  if k.da ≠ c.rd Reg.DEV_MAC then none
  else if c.on Reg.CMD_CFG_ETH_EN ∧ k.etype = some (c.rd Reg.CMD_CFG_ETYPE) then some (.eth port k.sa tag, b.drop k.l3)
  else
    let src := k.src.getD 0
    let sp := k.sport.getD 0
    if !c.on Reg.CMD_CFG_UDP_EN || k.proto != some 17 || k.dport != some (c.rd Reg.CMD_CFG_UDP_PORT) || !udpSumOk b k then none
    else if k.ver = 4 ∧ c.rd Reg.CMD_IP4 ≠ 0 ∧ k.dst = some (c.rd Reg.CMD_IP4) ∧ k.frag = some false then
      some (.udp4 port k.sa tag src sp, b.drop (k.l4 + 8))
    else if k.ver = 6 ∧ c.rd Reg.CMD_IP6 ≠ 0 ∧ k.dst = some (c.rd Reg.CMD_IP6) then some (.udp6 port k.sa tag src sp, b.drop (k.l4 + 8))
    else none

/-- The key of a frame with the fields of a command packet, recognised by the transport's EtherType or UDP port (R75, R361). -/
def Chip.keyOf (c : Chip) (f : Frame) (skip : Nat) : Key :=
  let k := f.keyAt skip
  let w := (f.inner skip).take (128 - skip)
  let at_ :=
    if c.on Reg.CMD_CFG_ETH_EN ∧ k.etype = some (c.rd Reg.CMD_CFG_ETYPE) then some k.l3
    else if c.on Reg.CMD_CFG_UDP_EN ∧ k.proto = some 17 ∧ k.dport = some (c.rd Reg.CMD_CFG_UDP_PORT) then some (k.l4 + 8)
    else none
  { k with cmd := at_.map fun o => (fieldAt w o 2, fieldAt w (o + 12) 1, fieldAt w (o + 13) 1) }

/-! ### The classifier's key (R146) -/

/-- A field of the key with its bits marked present. -/
def keyPart (F : Bf) : Option Nat → Nat × Nat
  | some v => (F.put v, F.put (2 ^ F.width - 1))
  | none => (0, 0)

/-- The 192-bit key and the bits of the fields present (R74, R146). -/
def clsKey (k : Key) (port vid : Nat) : Nat × Nat :=
  let flags := b2n k.outer.isSome * 8 + b2n (k.ver == 4) * 4 + b2n (k.ver == 6) * 2 + b2n k.rtag.isSome
  let parts := [keyPart Lay.CK_DA (some k.da), keyPart Lay.CK_IP_ADDR (k.dst.map (· % 2 ^ 32)),
    keyPart Lay.CK_L4_DST k.dport, keyPart Lay.CK_L4_SRC k.sport, keyPart Lay.CK_DSCP k.dscp, keyPart Lay.CK_IP_PROTO k.proto, keyPart Lay.CK_ETYPE k.etype,
    keyPart Lay.CK_PCP (k.outer.map fun t => t.2 / 8192), keyPart Lay.CK_VID (some vid), keyPart Lay.CK_FLAGS (some flags),
    keyPart Lay.CK_IN_PORT (some port)]
  (parts.map Prod.fst).foldl (· + ·) 0 |> fun a => (a, (parts.map Prod.snd).foldl (· + ·) 0)

end Sys2Proof.Machine
end

