-- ==== Sys2Proof/Machine/FrameKey.lean ====
section
/-! DEFINITION. A received frame from its start to its key point: the crossing buffer and the receive stamp (R34, R59), class, colour and
VID (R76), meters, stream filters and gates (R77, R78), trap decisions (R92), the Zidom header (R316), and the lookup result (R143 to
R147), which the frame carries from its key point on (R80). -/

namespace Sys2Proof.Machine

/-! ### Start of a frame -/

/-- The bytes of a frame that have come in by now, at its port's rate. -/
def Chip.bytesIn (c : Chip) (f : Frame) : Nat := min f.len ((c.now - f.startAt) * c.rate f.port / 800000 + 1)

/-- The free bytes of a port's crossing buffer of 16 KiB (R34): what has come in of frames that have not passed their lookup point lies in it
(log entry 93). DESIGN CHOICE (log entry 188): a four-lane port has one such buffer. -/
def Chip.crossFree (c : Chip) (port : Nat) : Nat :=
  16384 - ((c.path.frames.filter fun f => f.origin == .received && f.port == port && decide (f.stage < 2)).map c.bytesIn).sum

/-- Whether some Barometer reading is below 0 %; while none is, the crossing buffer never overflows (R34). -/
def Chip.belowZero (c : Chip) : Bool := (List.range 32).any fun n => decide (c.rdS Reg.BARO_MARGIN 0 n < 0)

/-- Whether a port's receiver has the MAC merge sublayer that takes fragments, verify and respond packets: at MODE 3 to 6 (R123). -/
def Chip.merges (c : Chip) (port : Nat) : Bool := decide (port < 512) && decide (3 ≤ c.mode port)

/-- Whether a near-end loopback is held on some lane of a port: it receives what it sends (R69). -/
def Chip.nearLoop (c : Chip) (p : Nat) : Bool :=
  (if p = 512 then [512] else if 5 ≤ c.mode p then [p, p + 1, p + 2, p + 3] else [p]).any fun l => SMap.get c.loops l == 1 || SMap.get c.loops l == 2

/-- What a receive MAC delivers: in a near-end loopback what the port has sent, in that order, and nothing of the line (R69; log entry 122). -/
def Chip.delivered (c : Chip) (p : Nat) (kind : RxKind) (b : Bytes) : Option (RxKind × Bytes) :=
  if c.nearLoop p then (c.portSt p).loopQ.head? else some (kind, b)

/-- A frame or packet sent in a near-end loopback, on its way to the port's own receiver. -/
def Chip.feedBack (c : Chip) (p : Nat) (kind : RxKind) (b : Bytes) : Chip :=
  if c.nearLoop p then c.updPort p fun s => { s with loopQ := s.loopQ ++ [(kind, b)] } else c

/-- RX_FRAME_START: a frame's first byte after the SFD, with the instant sensed for its stamp and the deskew measured for its lane (R59). Without the MAC merge sublayer its packets are
no frames (log entry 151). -/
def Chip.rxFrameStart (port : Nat) (kind : RxKind) (bytes : Bytes) (edge : Edge) (deskew : Int) (c : Chip) : Chip :=
  match c.delivered port kind bytes with
  | none => c
  | some (kind, bytes) =>
    let c := if c.nearLoop port then c.updPort port fun s => { s with loopQ := s.loopQ.drop 1 } else c
    if !c.linkUp port ∨ (kind ≠ .express ∧ !c.merges port) then c
    else
      let excess := decide (port < 512) && c.belowZero && decide (c.crossFree port < c.maxFrame port)
      let plain : Bool := kind == .verify || kind == .respond
      let st := c.rxStamp port edge deskew
      let pma := c.pma false port edge
      let at_ := c.atStamp false port edge
      let c := if pma then c.laneStamped (c.edgeLane port edge) edge.at_ else c
      let f : Frame := { port := port, kind := kind, bytes := bytes.take (c.maxFrame port + 1), stamp := st, cont := st - at_.rdS Reg.STEP_SUM
                         steps := at_.rd Reg.TIME_STATUS_STEP_COUNT, pma := pma, startAt := c.now, stage := if excess ∨ plain then 2 else 0
                         drop := if excess then Ev.RX_XOVF else if plain then 1 else 0, dropUnit := port }
      (c.newFrame f).2

/-! ### Helpers of the key point -/

/-- PCP_MAP (R76). -/
def Chip.pcpMap (c : Chip) (port pcp : Nat) : Nat :=
  c.rd (match pcp with
    | 0 => Reg.PCP_MAP_PCP0 | 1 => Reg.PCP_MAP_PCP1 | 2 => Reg.PCP_MAP_PCP2 | 3 => Reg.PCP_MAP_PCP3
    | 4 => Reg.PCP_MAP_PCP4 | 5 => Reg.PCP_MAP_PCP5 | 6 => Reg.PCP_MAP_PCP6 | _ => Reg.PCP_MAP_PCP7) port

/-- A frame dropped at its head: 1 without a counter of its own, else the event that counts at the tail check (R79). -/
def Frame.headDrop (f : Frame) (ev : Nat) : Frame := { f with drop := ev, dropUnit := f.port }

/-- A frame without targets of its own: what R92 decided before lookup stands, and a frame with no trap is dropped at its head (R79, R143). -/
def Frame.noTarget (f : Frame) : Frame := if f.traps = [] then f.headDrop 1 else f

/-- The port mask of a multicast group in generation g; bits of disabled ports do not count (R151). -/
def Chip.groupMask (c : Chip) (g n : Nat) : Nat := c.entLook g 5 n

/-- Ports of a mask. -/
def maskPorts (m : Nat) : List Nat := (List.range 512).filter fun p => m.testBit p

/-- The messageTypes the device knows (R227). -/
def ptpKnown : List Nat := [0, 1, 2, 3, 8, 9, 10, 11, 12]

/-- The messageTypes of the peer delay mechanism. -/
def ptpPeer : List Nat := [2, 3, 10]

/-- Whether a PTP message on a port with a role is the firmware's (R227, R228): of the port's domain, of an unknown type, or of the common mean link delay
service, whose domain is 0 (log entry 74). -/
def Chip.ptpOwn (c : Chip) (port : Nat) (x : PtpKey) : Bool :=
  x.dom == some (c.rd Reg.PTP_INST_DOMAIN 0 (c.rd Reg.PTP_PORT_CFG_INST port)) || x.typ.any (fun t => !ptpKnown.contains t) ||
    (c.rd Reg.PTP_PORT_CFG_DELAY port == 2 && x.dom == some 0 && x.typ.any ptpPeer.contains)

/-- Trap action of TRAP_CFG that applies to a frame: 0 forward, 1 trap, 2 forward and copy, 3 discard (R92, R228). -/
def Chip.trapAction (c : Chip) (f : Frame) (k : Key) : Nat :=
  match k.ptp with
  | some x =>
    if c.rd Reg.PTP_PORT_CFG_ROLE f.port ≠ 0 then
      (if c.ptpOwn f.port x then 1 else c.rd Reg.TRAP_CFG_PTP_ACT)
    else 0
  | none =>
    if k.lldp then c.rd Reg.TRAP_CFG_LLDP_ACT
    else if k.esmc then c.rd Reg.TRAP_CFG_ESMC_ACT
    else if k.da / 16 = 0x0180C200000 then c.rd Reg.TRAP_CFG_RSVD_ACT
    else 0

/-- ARP requests and Neighbor Solicitations for the command addresses reach the firmware on ports with CMD_EN = 1 (R361; log entry
16). -/
def Chip.asksForDevice (c : Chip) (f : Frame) (k : Key) (skip : Nat) : Bool :=
  let b := f.inner skip
  let arp := k.etype == some 0x0806 && natAt b (k.l3 + 6) 2 == 1 && natAt b (k.l3 + 24) 4 == c.rd Reg.CMD_IP4 && c.rd Reg.CMD_IP4 != 0
  let ns := k.ver == 6 && k.proto == some 58 && natAt b k.l4 1 == 135 && natAt b (k.l4 + 8) 16 == c.rd Reg.CMD_IP6 && c.rd Reg.CMD_IP6 != 0
  c.on Reg.CMD_PORT_CMD_EN f.port && (arp || ns)

/-- The launch time of a Zidom header (R318): its seconds completed to the value nearest the timebase, in 2^-16 ns. -/
def Chip.zidLaunch (c : Chip) (h : Nat) : Nat :=
  let v := Lay.ZID_LAUNCH_or_FLOW.get h
  let s := bitsOf v 48 16
  let now := c.tbSec
  let a := now / 65536 * 65536 + s
  let dist := fun (x : Nat) => if x ≤ now then now - x else x - now
  let secs := if 65536 ≤ a ∧ dist (a - 65536) < dist a then a - 65536 else if dist (a + 65536) < dist a then a + 65536 else a
  (secs * nsPerS + bitsOf v 16 32) * 65536 + bitsOf v 0 16

/-! ### Lookup (R143, R145) -/

/-- The target of a multicast group or a flood: local ports, and the tree links where it names fabric ports (R143, R324). -/
def Chip.toGroup (c : Chip) (g : Nat) (f : Frame) (lk : Look) (n : Nat) : Look × List Nat :=
  let m := clrBit (c.groupMask g n) f.port
  let fab := maskPorts m |>.filter c.fabPort
  let local_ := fab.foldl clrBit m
  ({ lk with mask := local_, fab := if fab = [] then 0 else 2, grp := n, gmask := fab.foldl setBit 0, many := true }, [entKey 5 0 n])

/-- A unicast DEST: a port, or a fabric port, which stands for the device behind it (R317). -/
def Chip.toPort (c : Chip) (f : Frame) (lk : Look) (p : Nat) (routed : Bool) : Look :=
  if p = f.port ∧ !routed then lk
  else if c.fabPort p then { lk with fab := 1, dev := c.rd Reg.FAB_PORT_STATUS_PEER_ID p }
  else { lk with mask := 1 <<< p }

/-- Whether ingress VLAN filtering admits a frame whose VID has the TYPE 4 entry `ve` (R143 step 1). -/
def Chip.vlanAdmits (c : Chip) (f : Frame) (ve : Nat) : Bool :=
  !bitOf ve 31 || (c.groupMask (c.gen 5) (bitsOf ve 46 14)).testBit f.port

/-- Whether a frame requests learning once it counts as confirmed, unless VLAN filtering drops it or it is routed (R155). -/
def Chip.mayLearn (c : Chip) (f : Frame) (k : Key) : Bool :=
  match c.emLook (c.gen 0) (2, 0, f.vid) with
  | none => false
  | some vi => c.on Reg.L2_CFG_LEARN_EN f.port && !bitOf (c.ent 0 0 vi) 30 && !bitOf k.sa 40

/-- Steps 1 to 4 of R143 for a frame with its VID and class known. DESIGN CHOICE (log entry 143): a routed frame whose NH_VID has no TYPE 4
entry leaves tagged on every port. -/
def Chip.lookup (c : Chip) (f : Frame) (k : Key) : Frame :=
  let g := c.gen 0
  match c.emLook g (2, 0, f.vid) with
  | none => f.noTarget
  | some vi =>
    let ve := c.ent 0 0 vi
    let flood := bitsOf ve 46 14
    let untag := c.groupMask (c.gen 5) (bitsOf ve 32 14)
    if !c.vlanAdmits f ve then { f with learn := false }.noTarget
    else
      let lk : Look := { f.look with vid := f.vid, untag := untag }
      let rm := c.rd Reg.ROUTER_MAC 1
      if rm ≠ 0 ∧ k.da = rm ∧ k.ver ≠ 0 then
        let f := { f with learn := false }
        if k.ttl.any (· ≤ 1) then { f with traps := f.traps ++ [5], look := lk }
        else
          let hit := k.dst.bind fun dst => if k.ver = 4 then c.lpmLookup (c.gen 1) 0 dst else c.lpmLookup (c.gen 1) 1 (dst / 2 ^ 64)
          let f := if (c.lull.badWords.any fun x => x.1 == 1) then { f with counts := f.counts ++ [(Ev.LULL_ECC_UNCORR, 0xFFFF)] } else f
          match hit with
          | none => f.noTarget
          | some (i, e) =>
            let f := { f with hits := f.hits ++ [entKey 1 0 i] }
            match Lay.LPM_ACTION.get e with
            | 0 => f.noTarget
            | 1 => { f with traps := f.traps ++ [f.cls], look := lk }
            | _ =>
              let nh := Lay.LPM_NH_VID.get e
              let u := match c.emLook g (2, 0, nh) with
                | some j => c.groupMask (c.gen 5) (bitsOf (c.ent 0 0 j) 32 14)
                | none => 0
              let lk := { lk with vid := nh, untag := u, route := some e }
              { f with vid := nh, look := c.toPort f lk (Lay.LPM_DEST.get e) true }
      else
        match c.emLook g (0, k.da, f.vid) with
        | none =>
          let (lk, h) := c.toGroup (c.gen 5) f lk flood
          { f with look := lk, hits := f.hits ++ h }
        | some di =>
          let e := c.ent 0 0 di
          let dest := bitsOf e 45 14
          let f := if bitOf e 31 then { f with traps := f.traps ++ [7] } else f
          if !bitOf e 59 then { f with look := c.toPort f lk dest false }
          else if c.fabOn ∧ 16320 ≤ dest then { f with look := { lk with fab := 1, dev := dest - 16320 } }
          else
            let (lk, h) := c.toGroup (c.gen 5) f lk dest
            { f with look := lk, hits := f.hits ++ h }

/-- The stream handle of R143 step 5 from the tables: the DA entry, else the kind-1 entry of SA and VID. -/
def Chip.tableHandle (c : Chip) (k : Key) (vid : Nat) : Option Nat :=
  let g := c.gen 0
  let of := fun (kind mac : Nat) => (c.emLook g (kind, mac, vid)).bind fun i =>
    let e := c.ent 0 0 i
    if bitOf e 44 then some (bitsOf e 32 12) else none
  (of 0 k.da).or (of 1 k.sa)

/-! ### Stream filters, gates, meters (R77, R78, R147 to R149) -/

/-- A meter applied to the frame with what it reserves (R30, R77); true where it drops. The colour is the meter's; of two meters the worse
of both counts (R148). -/
def Chip.meterFrame (c : Chip) (f : Frame) (m : Nat) : Bool × Frame × Chip :=
  let (col, drop, use, c1) := c.meter (c.gen 3) m f.colour (c.maxFrame f.port)
  (drop, { f with
    colour := if f.metered then max f.colour col else col
    metered := f.metered || c.entLook (c.gen 3) 3 (4096 + m) != 0
    meters := f.meters ++ use }, c1)

/-- The stream filter of the frame's handle: block, gate with its IPV, meter, maximum SDU, sequence recovery. The flag tells a drop by a
gate or a meter, of which ingress mirroring makes no copy (R89). -/
def Chip.filterFrame (c : Chip) (f : Frame) (k : Key) (h : Nat) : Bool × Frame × Chip :=
  let e := c.entLook (c.gen 3) 3 h
  if e = 0 then (false, f, c)
  else
    let pcp := k.outer.map fun t => t.2 / 8192
    if Lay.SF_PRIO_ANY.get e = 0 ∧ pcp ≠ some (Lay.SF_PRIO.get e) then
      (false, { f with counts := f.counts ++ [(Ev.STREAM_NOMATCH, h)] }, c)
    else
      let f := { f with hits := f.hits ++ [entKey 3 0 h] }
      if Lay.SF_BLOCK_EN.get e = 1 ∧ Lay.SF_BLOCKED.get e = 1 then (false, f.headDrop 1, c)
      else
        let gid := Lay.SF_GATE_ID.get e
        let st := (c.gateAt (1024 + gid) c.tb16).1
        let useGate := Lay.SF_GATE_EN.get e == 1
        if useGate ∧ !bitOf st 7 then (true, f.headDrop 1, c)
        else
          let f := if !useGate then f
            else if bitOf st 3 then { f with cls := st % 8 }
            else if c.on Reg.SG_CTRL_IPV_EN 3 gid then { f with cls := c.rd Reg.SG_CTRL_IPV 3 gid }
            else f
          let (drop, f, c) := if Lay.SF_METER_EN.get e = 1 then c.meterFrame f (Lay.SF_METER.get e) else (false, f, c)
          let f := { f with sdu := Lay.SF_MAX_SDU.get e, sduFilter := if Lay.SF_BLOCK_EN.get e = 1 then some h else none }
          let f := if Lay.SF_SEQ_EN.get e = 0 ∨ drop then f
            else match k.rtag with
              | some n => { f with seqId := some (Lay.SF_SEQ_ID.get e), seqNum := n }
              | none => { f with counts := f.counts ++ [(Ev.SEQ_NOTAG, Lay.SF_SEQ_ID.get e)] }
          (drop, if drop then f.headDrop 1 else f, c)

/-! ### The key point on an ordinary port -/

/-- Class, VID and colour by R76 steps 1 and 2. -/
def Chip.firstClass (c : Chip) (f : Frame) (k : Key) : Frame :=
  let tci := k.outer.map Prod.snd
  let pcp := match tci with
    | some t => if c.on Reg.FP_CFG_TRUST_PCP f.port then t / 8192 else c.rd Reg.FP_CFG_DEF_PCP f.port
    | none => c.rd Reg.FP_CFG_DEF_PCP f.port
  let vid := match tci with
    | some t => if t % 4096 = 0 then c.rd Reg.FP_CFG_PVID f.port else t % 4096
    | none => c.rd Reg.FP_CFG_PVID f.port
  let yellow := match tci with | some t => bitOf t 12 && c.on Reg.FP_CFG_TRUST_DEI f.port | none => false
  { f with cls := c.pcpMap f.port pcp, vid := vid, colour := b2n yellow }

/-- What the classifier's rule does before lookup: the frame, its stream handle, whether it is trapped, and whether also forwarded. -/
def Chip.applyRule (c : Chip) (f : Frame) (k : Key) : Bool × Option Nat × Bool × Bool × Frame × Chip :=
  let (key, present) := clsKey k f.port f.vid
  let f := if (c.lull.badWords.any fun x => x.1 == 2) then { f with counts := f.counts ++ [(Ev.LULL_ECC_UNCORR, 0xFFFF)] } else f
  match c.clsLookup (c.gen 2) key present with
  | none => (false, none, false, true, f, c)
  | some (i, e) =>
    let a := Lay.CLS_ACTION.get e
    let f := { f with
      hits := f.hits ++ [entKey 2 0 i]
      cls := if Lay.CA_SET_CLASS.get a = 1 then Lay.CA_CLASS.get a else f.cls
      colour := if Lay.CA_SET_COLOUR.get a = 1 then Lay.CA_COLOUR.get a else f.colour
      vid := if Lay.CA_SET_VID.get a = 1 then Lay.CA_VID.get a else f.vid
      sess := if Lay.CA_MIRROR.get a = 1 then [Lay.CA_MIR_SES.get a] else [] }
    if Lay.CA_DROP.get a = 1 then (true, none, false, false, { f.headDrop 1 with sess := [] }, c)
    else
      let h := if Lay.CA_SET_STREAM.get a = 1 then some (Lay.CA_STREAM_HANDLE.get a) else none
      let (drop, f, c) := if Lay.CA_METER_EN.get a = 1 then c.meterFrame f (Lay.CA_METER.get a) else (false, f, c)
      let trap := Lay.CA_TRAP.get a == 1
      (drop, h, trap, !trap || Lay.CA_COPY.get a == 1, if drop then { f.headDrop 1 with sess := [] } else f, c)

/-- Ingress port mirroring (R89). DESIGN CHOICE (log entry 191): a session that a classifier rule names too gets one copy. -/
def Chip.mirrorIn (c : Chip) (f : Frame) : Frame :=
  if c.on Reg.FP_CFG_MIR_IN_EN f.port then
    { f with sess := f.sess ++ (if f.sess.contains (c.rd Reg.FP_CFG_MIR_IN_SES f.port) then [] else [c.rd Reg.FP_CFG_MIR_IN_SES f.port]) }
  else f

/-- The trap decisions of R92, taken ahead of the lookup of the forwarded part: `trap` that of the classifier's rule, `act` that of TRAP_CFG, `fwd`
whether the frame is forwarded. -/
def Chip.trapAndLook (c : Chip) (f : Frame) (k : Key) (skip : Nat) (trap fwd : Bool) (act : Nat) : Frame :=
  let f := { f with traps := (if trap ∨ act = 1 ∨ act = 2 then [f.cls] else []) ++ (if c.asksForDevice f k skip then [7] else []) }
  if act = 3 then f.headDrop 1 else if fwd then c.lookup f k else f

/-- A frame on an ordinary port at its key point. -/
def Chip.edgeKey (c : Chip) (f : Frame) : Frame × Chip :=
  let k := c.keyOf f 0
  let f := c.firstClass f k
  if (c.commandOf f k 0).isSome then (c.mirrorIn { f with traps := [7], learn := c.mayLearn f k }, c)
  else
    let (gone, h, trap, fwd, f, c) := c.applyRule f k
    let f := { f with learn := c.mayLearn f k }
    if gone then (f, c)
    else
      let act := c.trapAction f k
      let fwd := fwd && (act == 0 || act == 2)
      let handle := if fwd then h.or (c.tableHandle k f.vid) else h
      let ecc := fwd && (c.emEcc (0, k.da, f.vid) || c.emEcc (2, 0, f.vid) || c.emEcc (1, k.sa, f.vid))
      let f := if ecc then { f with counts := f.counts ++ [(Ev.LULL_ECC_UNCORR, 0xFFFF)] } else f
      let (noCopy, f, c) := match handle with
        | some h => c.filterFrame { f with look := { f.look with handle := some h } } k h
        | none => (false, f, c)
      if f.drop ≠ 0 then (if noCopy then { f with sess := [] } else c.mirrorIn f, c)
      else (c.mirrorIn (c.trapAndLook f k 0 trap fwd act), c)

/-! ### The key point on a fabric port (R314 to R318, R327) -/

/-- A TYPE 0 frame: member, destination or transit (R317). At a destination without TGT the inner frame is parsed and looked up with the fabric port as
its ingress port: command packets and what TRAP_CFG names are trapped (R92). -/
def Chip.zidData (c : Chip) (f : Frame) (h : Nat) : Frame × Chip :=
  let timed := Lay.ZID_TIMED.get h == 1
  let mcast := Lay.ZID_MCAST.get h == 1
  let tgt := Lay.ZID_TGT.get h == 1
  let tag := if Lay.ZID_STAMP.get h = 1 then some (Lay.ZID_TAG.get h) else none
  match c.fabId with
  | none => (f.headDrop 1, c)
  | some self =>
    if Lay.ZID_TTL.get h = 0 then (f.headDrop Ev.FAB_TTL_DROP, c)
    else
      let f := { f with cls := Lay.ZID_CLASS.get h, colour := Lay.ZID_COLOUR.get h }
      let flow := Lay.ZID_LAUNCH_or_FLOW.get h
      let sh := if !timed ∧ bitOf flow 51 then some (bitsOf flow 52 12) else none
      let k := c.keyOf f 16
      let vid := match k.outer with
        | some t => if t.2 % 4096 = 0 then c.rd Reg.FP_CFG_PVID f.port else t.2 % 4096
        | none => c.rd Reg.FP_CFG_PVID f.port
      if mcast then
        let n := Lay.ZID_TARGET.get h
        let ve := (c.emLook (c.gen 0) (2, 0, vid)).map fun i => c.ent 0 0 i
        let (lk, hits) := c.toGroup (c.gen 5) f {} n
        let learn := match ve with
          | some e => c.on Reg.L2_CFG_LEARN_EN f.port && !bitOf e 30 && !bitOf k.sa 40
          | none => false
        let untag := match ve with | some e => c.groupMask (c.gen 5) (bitsOf e 32 14) | none => 0
        ({ f with vid := vid, learn := learn, hits := hits, look := { lk with fab := 2, vid := vid, untag := untag, handle := sh, tag := tag } }, c)
      else if Lay.ZID_DST_DEV.get h ≠ self then ({ f with look := { fab := 1, dev := Lay.ZID_DST_DEV.get h, raw := true } }, c)
      else if tgt then
        let p := Lay.ZID_TARGET.get h
        let lk : Look := { mask := if p < 512 then 1 <<< p else 0, raw := true, handle := sh
                           launch := if timed then some (c.zidLaunch h) else none
                           tag := tag }
        ({ f with look := lk }, c)
      else
        let f := { f with vid := vid }
        let f := { f with learn := c.mayLearn f k }
        if (c.commandOf f k 16).isSome then ({ f with traps := [7] }, c)
        else
          let act := c.trapAction f k
          let fwd := act == 0 || act == 2
          let handle := if fwd then sh.or (c.tableHandle k vid) else sh
          (c.trapAndLook { f with look := { handle := handle, tag := tag } } k 16 false fwd act, c)

/-- A frame on a fabric port at its key point. -/
def Chip.fabricKey (c : Chip) (f : Frame) : Frame × Chip :=
  let h := natAt f.bytes 0 16
  if f.len < 34 then (f.headDrop Ev.FAB_NONZIDOM, c)
  else if Lay.ZID_VER.get h ≠ 1 ∨ 4 < Lay.ZID_TYPE.get h ∨ Lay.ZID_COLOUR.get h = 3 ∨
      (Lay.ZID_TIMED.get h = 1 ∧ (Lay.ZID_TGT.get h = 0 ∨ Lay.ZID_MCAST.get h = 1)) then (f.headDrop Ev.FAB_BAD_HDR, c)
  else
    let f := { f with zid := some h }
    match Lay.ZID_TYPE.get h with
    | 0 => if c.fabUp f.port then c.zidData f h else (f.headDrop 1, c)
    | 3 =>
      if c.fabUp f.port then
        let k := c.keyOf f 16
        let f := c.firstClass f k
        let act := c.trapAction f k
        (if act = 1 ∨ act = 2 then { f with traps := [f.cls] } else f.headDrop 1, c)
      else (f.headDrop 1, c)
    | _ => (f.headDrop 1, c)

/-- A frame on the twin link: TYPE 4 goes to the management processor, anything else is dropped (R333). -/
def Chip.twinKey (f : Frame) : Frame :=
  let h := natAt f.bytes 0 16
  if 34 ≤ f.len ∧ Lay.ZID_VER.get h = 1 ∧ Lay.ZID_TYPE.get h = 4 then { f with zid := some h, cls := 7, traps := [7] } else f.headDrop 1

/-- Whether a frame is the next to pass stage n (R33): of its port, and behind the parser of its octet's pipeline, which frames leave in the order in
which they have entered it. DEDUCED (log entry 187): that is the order of the pipeline's key points. -/
def Chip.inTurn (c : Chip) (f : Frame) (n : Nat) : Bool :=
  f.stage == n && !(c.path.frames.any fun x => x.origin == .received && decide (x.stage ≤ n) &&
    ((x.port == f.port && decide (x.id < f.id)) || (n == 1 && x.stage == 1 && x.port / 8 == f.port / 8 && decide (x.keyNo < f.keyNo))))

/-- What a frame carries from its key point on of the tables read at its lookup point (R80): its sessions' entries, its stream's. -/
def Chip.keyEntries (c : Chip) (f : Frame) : Frame :=
  { f with
    mirs := f.sess.filterMap fun s =>
      let e := c.entLook (c.gen 6) 6 s
      if Lay.MIR_VALID.get e = 1 then some (s, e) else none
    seqEnt := match f.seqId with | some s => c.entAt (c.gen 4) 4 s | none => 0 }

/-- KEY_POINT: the parser hands the key over (R74). Ingress mirroring copies whatever comes in on the port (R89). -/
def Chip.keyPoint (id : Nat) (c : Chip) : Chip :=
  match c.frameOf id with
  | none => c
  | some f =>
    if !c.inTurn f 0 then c
    else
      let n := c.path.keyCtr + 1
      let c := { c with path := { c.path with keyCtr := n } }
      let f := { f with stage := 1, keyNo := n, keyTime := c.tb16, defPcp := c.rd Reg.FP_CFG_DEF_PCP f.port }
      let (f, c) :=
        if f.port = 512 then ({ f with cls := 7, traps := [7] }, c)
        else if c.twinPort f.port then (c.mirrorIn (Chip.twinKey f), c)
        else if c.fabPort f.port then let (f, c) := c.fabricKey f; (c.mirrorIn f, c)
        else if (pauseOf (f.inner 0)).isSome then (c.mirrorIn (f.headDrop 1), c)
        else c.edgeKey f
      c.updFrame id fun _ => c.keyEntries f

end Sys2Proof.Machine
end

