-- ==== Sys2Proof/Machine/FrameLook.lean ====
section
/-! DEFINITION. The lookup point (R80): sequence recovery (R29, R150), the targets with their egress rewrites (R143, R145, R316, R317,
R90), admission (R97 to R100), cut-through eligibility (R81), the cells taken so far (R95), and the candidates' enqueue (R82, R88). -/

namespace Sys2Proof.Machine

/-- Whether a class uses the preemptable MAC of a port while preemption is active there (R123). -/
def Chip.preemptable (c : Chip) (p cls : Nat) : Bool :=
  decide (p < 512) && c.on Reg.SCHED_STAT_PREEMPT_ACTIVE p && !bitOf (c.rd Reg.SCHED_CFG_EXPRESS p) cls

/-! ### Egress rewrites -/

/-- A frame from its DA without FCS, its outer tag popped, changed or pushed (R143). -/
def retag (b : Bytes) (tagged untag : Bool) (vid pcp : Nat) : Bytes :=
  if untag then (if tagged then b.take 12 ++ b.drop 16 else b)
  else if tagged then b.take 14 ++ bytesOfNat 2 (withBits (natAt b 14 2) 0 12 vid) ++ b.drop 16
  else b.take 12 ++ bytesOfNat 4 (0x81000000 + pcp * 8192 + vid) ++ b.drop 12

/-- Bytes of b replaced from an offset. -/
def patch (b : Bytes) (off : Nat) (x : Bytes) : Bytes := b.take off ++ x ++ b.drop (off + x.length)

/-- The rewrites of a routed frame: addresses, and TTL with its checksum, or hop limit (R145). -/
def routeBytes (b : Bytes) (k : Key) (nh sa : Nat) : Bytes :=
  let b1 := patch (patch b 0 (bytesOfNat 6 nh)) 6 (bytesOfNat 6 sa)
  if k.ver = 4 then
    let h := patch (patch b1 (k.l3 + 8) (bytesOfNat 1 (k.ttl.getD 0 - 1))) (k.l3 + 10) (bytesOfNat 2 0)
    patch h (k.l3 + 10) (bytesOfNat 2 (inetSum (sliceBytes h k.l3 (k.l4 - k.l3))))
  else patch b1 (k.l3 + 7) (bytesOfNat 1 (k.ttl.getD 0 - 1))

/-- Whether a passed frame's R-TAG is removed (R150). -/
def Frame.popsRtag (f : Frame) : Bool :=
  f.seqId.isSome && Lay.SEQR_POP_RTAG.get f.seqEnt == 1

/-- The inner frame as it leaves on a port: route, R-TAG, outer tag (R143, R145, R150). -/
def Chip.innerBody (c : Chip) (f : Frame) (p : Nat) : Bytes :=
  let skip := if f.zid.isSome then 16 else 0
  let b := f.inner skip
  if f.look.raw then b
  else
    let k := f.keyAt skip
    let b1 := match f.look.route with
      | some e => routeBytes b k (Lay.LPM_NH_MAC.get e) (c.rd Reg.ROUTER_MAC 1)
      | none => b
    let b2 := if f.popsRtag && k.rtag.isSome then b1.take k.rtagAt ++ b1.drop (k.rtagAt + 6) else b1
    retag b2 k.outer.isSome (f.look.untag.testBit p) f.look.vid f.defPcp

/-- The Zidom header a frame gets toward a fabric port (R316, R317, R322): one of its own at the entry device, else the received
one with TTL decremented. -/
def Chip.zidOut (c : Chip) (f : Frame) (p : Nat) : Nat :=
  let down := c.downPort p
  match f.zid with
  | none =>
    let flow := (f.look.handle.getD 0) * 2 ^ 52 + b2n f.look.handle.isSome * 2 ^ 51 + f.port * 2 ^ 41
    Lay.ZID_VER.put 1 + Lay.ZID_DOWN.put (b2n down) + Lay.ZID_MCAST.put (b2n (f.look.fab == 2)) + Lay.ZID_TTL.put 15 +
      Lay.ZID_SRC_DEV.put (c.fabId.getD 0) + Lay.ZID_DST_DEV.put (if f.look.fab = 1 then f.look.dev else 0) +
      Lay.ZID_CLASS.put f.cls + Lay.ZID_COLOUR.put f.colour + Lay.ZID_TARGET.put (if f.look.fab = 2 then f.look.grp else 0) + flow
  | some h =>
    let h1 := Lay.ZID_TTL.set h (Lay.ZID_TTL.get h - 1)
    let h2 := if down then Lay.ZID_DOWN.set h1 1 else h1
    if f.look.fab = 1 then Lay.ZID_DST_DEV.set h2 f.look.dev else h2

/-- What leaves on a port, without FCS: encapsulated toward a fabric port. A frame under a header crosses a fabric port with its
inner frame unchanged. An untagged frame gets the DEF_PCP that classified it (R143). -/
def Chip.bodyFor (c : Chip) (f : Frame) (p : Nat) : Bytes :=
  if c.fabPort p then
    bytesOfNat 16 (c.zidOut f p) ++ (if f.zid.isSome ∧ f.look.route = none then f.inner 16 else c.innerBody f p)
  else c.innerBody f p

/-- Where the PTP event message of a body stands (R180); 0 for none. -/
def ptpOffset (b : Bytes) (skip : Nat) : Nat :=
  let k := parseKey (b.drop skip) (128 - skip)
  match k.ptp with
  | some x => if x.typ.any (· ≤ 3) then skip + k.ptpAt else 0
  | none => 0

/-- A port's target of a frame. Toward a fabric port the frame is untimed, and PTP stands behind the Zidom header (R180, R318). -/
def Chip.portTgt (c : Chip) (f : Frame) (p : Nat) : Tgt :=
  let b := c.bodyFor f p
  let fab := c.fabPort p
  { port := p, queue := queueOf p f.cls, body := b, short := f.len - 4 - b.length, ptpAt := ptpOffset b (if fab then 16 else 0)
    launch := if fab then none else f.look.launch, tag := if fab then none else f.look.tag, lossless := f.lossless }

/-- A mirror copy of some bytes under a session entry (R90, R91). -/
def mirrorTgt (s e : Nat) (b : Bytes) : Tgt :=
  let b1 := if Lay.MIR_TAG_EN.get e = 1 then
      b.take 12 ++ bytesOfNat 4 (0x81000000 + Lay.MIR_TAG_PCP.get e * 8192 + Lay.MIR_TAG_VID.get e) ++ b.drop 12 else b
  let b2 := if Lay.MIR_TRUNC_EN.get e = 1 then b1.take (Lay.MIR_TRUNC_LEN.get e - 4) else b1
  { port := Lay.MIR_DEST_PORT.get e, queue := queueOf (Lay.MIR_DEST_PORT.get e) (Lay.MIR_CLASS.get e), ses := some s, body := b2
    short := b.length - b2.length, trunc := Lay.MIR_TRUNC_EN.get e == 1 }

/-- A mirror copy as it leaves: an analysis port that is a fabric port sends only Zidom frames (R314), so a copy without a header of its own (`zid`)
gets one (DESIGN CHOICE, log entry 185). -/
def Chip.copyTgt (c : Chip) (s e : Nat) (b : Bytes) (zid : Bool) : Tgt :=
  let t := mirrorTgt s e b
  if c.fabPort t.port && !zid then
    { t with body := bytesOfNat 16 (c.zidHead t.port (c.rd Reg.FAB_PORT_STATUS_PEER_ID t.port) (Lay.MIR_CLASS.get e)) ++ t.body }
  else t

/-! ### Admission (R97 to R104) -/

/-- Random early drop of a frame of a colour at a queue (R104); the number is drawn where the probability lies between 0 and 1. -/
def Chip.redDrops (c : Chip) (q colour : Nat) : Bool × Chip :=
  let n := c.rd Reg.Q_BUF_RED_PROF q
  if n = 0 then (false, c)
  else
    let e := 3 * n + colour
    let lo := c.rd Reg.RED_PROF_MIN_TH 0 e * 4 * 65536
    let hi := c.rd Reg.RED_PROF_MAX_TH 0 e * 4 * 65536
    let avg := SMap.get c.path.redAvg q
    if hi ≤ avg then (true, c)
    else if avg < lo then (false, c)
    else
      let p := c.rd Reg.RED_PROF_MAX_P 0 e * (avg - lo) * 65536 / (16 * (hi - lo))
      let (k, c1) := c.draw
      (decide ((Config.redRandom k).toNat < p), c1)

/-- The test of one target: the event it is refused with (R97, R100). The twin link carries no frame of the data plane (R333), and a fabric port that is
not UP none either (R319); DESIGN CHOICE (log entry 198): such a target counts DROP_LINK. -/
def Chip.takeIn (c : Chip) (f : Frame) (t : Tgt) : Option Nat × Chip :=
  let q := t.queue
  if 512 < t.port then (none, c)
  else if c.twinPort t.port || (c.fabPort t.port && !c.fabUp t.port) then (some Ev.DROP_LINK, c)
  else if !c.linkUp t.port || (c.portSt t.port).retrain then (some Ev.DROP_LINK, c)
  else if f.lossless then (none, c)
  else
    let d := c.depth q
    let rsv := c.srcSize (.queue q)
    if c.rd Reg.Q_BUF_Q_MAX q ≤ d then (some Ev.DROP_QMAX, c)
    else if !(decide (d < rsv) || decide ((d - rsv) * 128 < 2 ^ c.rd Reg.Q_BUF_ALPHA q * (c.sharedSize - c.srcUsed .shared))) then
      (some Ev.DROP_DT, c)
    else
      let (drop, c1) := c.redDrops q f.colour
      (if drop then some (Ev.DROP_RED_GREEN + f.colour) else none, c1)

/-- What a refused target counts: its queue's drop event, and of a mirror copy its session's mirror drop too (R91, R99). -/
def refusedCounts (t : Tgt) (ev : Nat) : List (Nat × Nat) :=
  (ev, t.queue) :: match t.ses with | some s => [(Ev.MIRROR_DROP, s)] | none => []

/-- The targets admission accepts; a refusal is kept for the tail check (R91, R99). -/
def Chip.admitAll (c : Chip) (id : Nat) (l : List Tgt) : Chip :=
  c.each l fun t c =>
    match c.frameOf id with
    | none => c
    | some f =>
      match c.takeIn f t with
      | (none, c1) => c1.updFrame id fun f => { f with tgts := f.tgts ++ [t] }
      | (some ev, c1) => c1.updFrame id fun f => { f with refused := f.refused ++ refusedCounts t ev }

/-! ### Cut-through (R81, R88) -/

/-- Whether a target is a cut-through candidate (R81, R125). -/
def Chip.candidate (c : Chip) (f : Frame) (t : Tgt) : Bool :=
  f.kind == .express && decide (f.port < 512) && decide (t.port < 512) && c.on Reg.FP_CFG_CT_RX f.port && c.on Reg.FP_CFG_CT_TX t.port &&
  decide (c.rate t.port ≤ c.rate f.port) && t.launch.isNone && f.seqState != 2 && !c.preemptable t.port (t.queue % 8) && !t.trunc

/-- Whether an older frame of the same ingress port still holds a target of a queue back from it (R88). -/
def Chip.heldBack (c : Chip) (f : Frame) (q : Nat) : Bool :=
  c.path.frames.any fun x => x.origin == .received && x.port == f.port && decide (x.id < f.id) &&
    x.tgts.any fun t => t.queue == q && (t.st == .pending || t.st == .behind)

/-- The candidates of a frame enqueued, or kept behind older stored frames. -/
def Chip.startCandidates (c : Chip) (id : Nat) : Chip :=
  match c.frameOf id with
  | none => c
  | some f =>
    c.each (List.range f.tgts.length) fun k c =>
      match c.tgtOf id k with
      | none => c
      | some t =>
        if !c.candidate f t then c
        else if c.heldBack f t.queue then c.updTgt id k fun t => { t with cut := true, st := .behind }
        else (c.updTgt id k fun t => { t with cut := true }).enqueue id k

/-! ### Sequence recovery at the head (R29, R150) -/

/-- The recovery check of a frame at its lookup point. `seqState`: 1 its number is pending, 2 held behind another frame's. -/
def Chip.seqCheck (c : Chip) (f : Frame) : Frame × Chip :=
  match f.seqId with
  | none => (f, c)
  | some s =>
    let e := f.seqEnt
    if e = 0 ∨ f.drop ≠ 0 then ({ f with seqId := none }, c)
    else
      let r := SMap.get c.tbl.rcov s
      if r.pend.any fun x => x.1 == f.seqNum then ({ f with seqState := 2 }, c)
      else
        match rcovJudge r e f.seqNum with
        | (1, _) => ({ f.headDrop 1 with counts := f.counts ++ [(Ev.SEQ_DISCARDED, s)] }, c)
        | (2, _) => (f.headDrop 1, c)
        | (_, late) =>
          ({ f with
              seqState := 1
              counts := f.counts ++ (if late then [(Ev.SEQ_OUT_OF_ORDER, s)] else []) },
            { c with tbl := { c.tbl with rcov := SMap.set c.tbl.rcov s { r with pend := r.pend ++ [(f.seqNum, f.id)] } } })

/-! ### The lookup point -/

/-- The fabric targets of a frame (R321 to R324): ports, events of its loss, and whether no link was found. -/
def Chip.fabTargets (c : Chip) (f : Frame) : List Nat × List (Nat × Nat) × Bool :=
  let h := f.zid.getD 0
  let from_ := if f.zid.isSome then some f.port else none
  match f.look.fab with
  | 1 =>
    let src := if f.zid.isSome then Lay.ZID_SRC_DEV.get h else c.fabId.getD 0
    let flow := Lay.ZID_LAUNCH_or_FLOW.get h
    let inPort := if f.zid.isSome then (if Lay.ZID_TIMED.get h = 1 then 0 else bitsOf flow 41 10) else f.port
    let down := f.zid.isSome && Lay.ZID_DOWN.get h == 1
    (match c.chooseLink src f.look.dev f.cls inPort down from_ with
    | none => ([], [(if down then Ev.FAB_UPDOWN_DROP else Ev.FAB_NOROUTE, f.port)], true)
    | some p =>
      if c.maxFrame p < (c.bodyFor f p).length + 4 then ([], [(Ev.FAB_OVERSIZE, p)], true) else ([p], [], false))
  | 2 =>
    let bits := (maskPorts f.look.gmask).filter fun p => p != f.port
    let tree := c.treePorts
    let go := bits.filter fun p => tree.contains p && c.fabUp p
    let big := go.filter fun p => decide (c.maxFrame p < (c.bodyFor f p).length + 4)
    (go.filter fun p => !big.contains p,
      ((bits.filter fun p => !tree.contains p).map fun p => (Ev.FAB_MCAST_NONTREE, p)) ++ big.map (fun p => (Ev.FAB_OVERSIZE, p)), false)
  | _ => ([], [], false)

/-- LOOKUP_POINT: the result of a frame is available (R80). `taken` cells of it have arrived; `retry` tells that the lookup was read
once more (R140). -/
def Chip.lookupPoint (id taken : Nat) (retry : Bool) (c : Chip) : Chip :=
  match c.frameOf id with
  | none => c
  | some f =>
    if !c.inTurn f 1 then c
    else
      let c := c.takeArrived
      let f := if retry then { f with counts := f.counts ++ [(Ev.LOOKUP_RETRY, 0xFFFF)] } else f
      let (f, c) := c.seqCheck f
      let f := { f with stage := 2, lossless := decide (f.port < 512) && bitOf (c.losslessMask f.port) f.cls }
      let live := f.drop == 0
      let (fps, evs, lost) := if live then c.fabTargets f else ([], [], false)
      let ports := if live then (maskPorts f.look.mask).filter fun p => !f.look.many || c.mode p != 0 else []
      let mirrors := f.mirs.map fun (s, e) => c.copyTgt s e (f.inner 0) f.zid.isSome
      let traps := if live then f.traps.eraseDups.map fun q => ({ port := 1000, queue := trapQueue q } : Tgt) else []
      let f := { f with counts := f.counts ++ (if lost then [] else evs) }
      let f := if lost ∧ ports = [] ∧ traps = [] then (match evs with
          | (ev, u) :: _ => { f with drop := ev, dropUnit := u }
          | [] => f)
        else { f with counts := f.counts ++ (if lost then evs else []) }
      let c1 := c.updFrame id fun _ => f
      let c2 := c1.admitAll id ((ports ++ fps).map (c1.portTgt f) ++ mirrors ++ traps)
      match c2.frameOf id with
      | none => c2
      | some g =>
        let g := if g.drop = 0 ∧ (g.tgts = [] ∨ (ports = [] ∧ fps = [] ∧ traps = [])) then { g with drop := 1 } else g
        let c3 := c2.updFrame id fun _ => g
        if g.tgts = [] then c3
        else (Chip.chargeTo (max (min taken (cellsOf g.len)) (c3.cellsHere g)) id g.writer (c3.sourceOrder g) c3).startCandidates id

end Sys2Proof.Machine
end

