-- ==== Sys2Proof/Machine/FrameTail.lean ====
section
/-! DEFINITION. The tail of a received frame: the causes of R21, failure with its error markers (R26, R82, R86, R87), and confirmation
with the effects that wait for it (R25, R28 to R31, R77, R79, R82, R88, R92, R99, R112, R150, R155). What a frame does to Drumline
inputs is in Gather.lean. -/

namespace Sys2Proof.Machine

/-! ### Error markers (R26, R86, R87) -/

/-- The abort counted on an egress port with its cause. -/
def Chip.countAbort (c : Chip) (p cause : Nat) : Chip :=
  let c1 := ((c.incSat Reg.ABORT_STAT_ABORT_COUNT 1 p).wr Reg.ABORT_STAT_LAST_CAUSE cause p).count Ev.SPEC_ABORT_FRAMES p
  if c1.on Reg.ABORT_STAT_SPEC_ABORT p then c1
  else (c1.flag Reg.ABORT_STAT_SPEC_ABORT true p).notify Nt.SPEC_ABORT Cls.PORT p 0x12

/-- Whether an 8b/10b code group of a data byte is unbalanced, and so turns running disparity: exactly one of its parts, 5b/6b or 3b/4b, is
(IEEE 802.3 Clause 36). -/
def unbalanced (b : Byte) : Bool :=
  [0, 1, 2, 4, 8, 15, 16, 23, 24, 27, 29, 30, 31].contains (b.toNat % 32) != [0, 4, 7].contains (b.toNat / 32)

/-- The error marker of R57 on a port that has sent some bytes of a frame. 8b/10b: idle leaves running disparity negative, and /S/, preamble and
SFD are balanced, so the bytes sent tell it; the marker turns it. -/
def Chip.marker (c : Chip) (p : Nat) (sent : Bytes) : Marker :=
  if 3 ≤ c.mode p ∧ c.mode p ≤ 6 then .block 0b10#2 (BitVec.ofNat 64 ((List.range 8).foldl (fun v k => v + 0x1E * 2 ^ (8 + 7 * k)) 0x1E))
  else
    let positive := sent.foldl (fun d b => d != unbalanced b) false
    .group (if positive then 0b0000001111#10 else 0b1111110000#10) !positive

/-- A frame on the lane of a port, or suspended, ended by an error marker (R57): its target is released. The marker follows the bytes that its last
fragment has sent, the FCS among them. -/
def Chip.markEnd (c : Chip) (p id k cause : Nat) : Chip :=
  let body := ((c.tgtOf id k).map Tgt.body).getD []
  let sent := (body ++ fcsBytes body).take (c.bytesOut p) |>.drop (c.portSt p).out.done
  let c1 := (c.gapAfter p).updPort p fun s => { s with
    tx := if s.tx = some (id, k) then none else s.tx
    susp := if s.susp = some (id, k) then none else s.susp }
  ((c1.emit (.marker p (c.marker p sent))).countAbort p cause).dropTgt id k

/-- The targets of a failed frame: a started one ends with the marker, any other is removed (R26, R82). -/
def Chip.killTargets (c : Chip) (id cause : Nat) : Chip :=
  match c.frameOf id with
  | none => c
  | some f =>
    c.each (List.range f.tgts.length) fun k c =>
      match c.tgtOf id k with
      | none => c
      | some t =>
        match t.st with
        | .gone => c
        | .sending => c.markEnd t.port id k cause
        | _ => c.dropTgt id k

/-! ### Order behind stored frames (R88) -/

/-- Targets kept behind older stored frames of their ingress port, enqueued in arrival order once nothing holds them. -/
def Chip.releaseBehind (c : Chip) : Chip :=
  let waiting := c.path.frames.flatMap fun f =>
    (List.range f.tgts.length).filterMap fun k => (f.tgts[k]?).bind fun t => if t.st = .behind then some (f.id, k, t.queue) else none
  c.each waiting fun (id, k, q) c =>
    match c.frameOf id with
    | none => c
    | some f => if c.heldBack f q then c else c.enqueue id k

/-! ### Traps (R92) -/

/-- Whether a trap of a class is within its rate: the bucket is kept by what it lacks, in 10^-11 frame. -/
def Chip.trapAllowed (c : Chip) (cls : Nat) : Bool × Chip :=
  let rate := c.rd Reg.TRAP_RATE_RATE 0 cls
  if rate = 0 then (true, c)
  else
    let unit := 100000000000
    let lack := SMap.get c.path.trapTok cls - rate * (c.now - SMap.get c.path.trapAt cls)
    let ok := decide (lack + unit ≤ 64 * unit)
    (ok, { c with path := { c.path with
      trapTok := SMap.set c.path.trapTok cls (if ok then lack + unit else lack)
      trapAt := SMap.set c.path.trapAt cls c.now } })

/-! ### Stored targets and counters at confirmation -/

/-- One target of a confirmed frame: a flushed one is removed (R106), a trap passes its rate limit (R92), a stored one is enqueued
(R82), behind older frames of its port that sequence recovery still holds (R29, R88). -/
def Chip.confirmTgt (c : Chip) (id k : Nat) : Chip :=
  match c.tgtOf id k, c.frameOf id with
  | some t, some f =>
    let counted := fun (c : Chip) => if t.queue < 8000 then c.count Ev.ENQ_FRAMES t.queue f.len else c
    if t.st = .gone then c
    else if t.flush then (c.count Ev.FLUSH_DROP t.queue).dropTgt id k
    else if 8000 ≤ t.queue then
      let cls := t.queue - 8000
      let (ok, c1) := c.trapAllowed cls
      if ok then c1.enqueue id k else (c1.count Ev.TRAP_RATE_DROP cls).dropTgt id k
    else if t.st = .pending then
      if c.heldBack f t.queue then (counted c).updTgt id k fun t => { t with st := .behind } else (counted c).enqueue id k
    else counted c
  | _, _ => c

/-- All targets of a confirmed frame. -/
def Chip.confirmTgts (c : Chip) (id : Nat) : Chip :=
  match c.frameOf id with
  | none => c
  | some f => (c.each (List.range f.tgts.length) fun k c => c.confirmTgt id k).settle id

/-! ### Sequence recovery at the tail (R29, R150) -/

/-- A pending number taken back. -/
def Chip.unpend (c : Chip) (s id : Nat) : Chip :=
  { c with tbl := { c.tbl with rcov := SMap.upd c.tbl.rcov s fun r => { r with pend := r.pend.filter fun x => x.2 != id } } }

/-- A number recorded as passed: history, counter, stamp. -/
def Chip.seqRecord (c : Chip) (s n id : Nat) : Chip :=
  let e := c.entNow 4 s
  let c1 := c.unpend s id
  let c2 := { c1 with tbl := { c1.tbl with rcov := SMap.upd c1.tbl.rcov s fun r => rcovRecord r e n c.now } }
  (c2.count Ev.SEQ_PASSED s).hit 4 s

/-- Frames held behind a pending number that now stands: discarded as duplicates. -/
def Chip.seqDiscardHeld (c : Chip) (s n : Nat) : Chip :=
  let held := c.path.frames.filter fun f => f.seqId == some s && f.seqNum == n && f.seqState == 2
  c.each held fun f c =>
    let c1 := c.updFrame f.id fun x => { x with seqState := 0, drop := 1, counts := x.counts ++ [(Ev.SEQ_DISCARDED, s)] }
    let c2 := c1.each (List.range f.tgts.length) fun k c => match c.tgtOf f.id k with
      | some t => if t.ses.isSome then c else c.dropTgt f.id k
      | none => c
    if f.res = 1 then (c2.count Ev.SEQ_DISCARDED s).confirmTgts f.id else c2

/-- After a failed first copy the oldest held frame passes in its place, out of order if it is so against the history then (R150). -/
def Chip.seqPassHeld (c : Chip) (s n : Nat) : Chip :=
  match c.path.frames.find? fun f => f.seqId == some s && f.seqNum == n && f.seqState == 2 with
  | none => c
  | some f =>
    let late := (rcovJudge (SMap.get c.tbl.rcov s) f.seqEnt n).2
    let c0 := if late && f.res == 1 then c.count Ev.SEQ_OUT_OF_ORDER s else c
    let c1 := c0.updFrame f.id fun x => { x with
      seqState := 1, counts := if late && x.res == 0 then x.counts ++ [(Ev.SEQ_OUT_OF_ORDER, s)] else x.counts }
    let c2 := { c1 with tbl := { c1.tbl with rcov := SMap.upd c1.tbl.rcov s fun r => { r with pend := r.pend ++ [(n, f.id)] } } }
    if f.res = 1 then ((c2.seqRecord s n f.id).seqDiscardHeld s n).confirmTgts f.id else c2

/-! ### Failure (R21, R27, R82) -/

/-- The receive error event of a cause. -/
def causeEvent (cause : Nat) : Nat := Ev.RX_FCS_ERR + (cause - 1)

/-- StreamBlockedDueToOversizeFrame set in every copy of a stream filter's entry, so that the block holds in each generation (R78). -/
def Chip.blockStream (c : Chip) (h : Nat) : Chip :=
  c.each [0, 1] fun k c => if c.ent 3 k h = 0 then c else c.setEnt 3 k h (Lay.SF_BLOCKED.set (c.ent 3 k h) 1)

/-- A frame that replaces another at an input counts as such at its own tail check, whatever that finds (R25, R259). -/
def Chip.countReplaced (c : Chip) (f : Frame) : Chip :=
  c.each (f.counts.filter fun x => x.1 == Ev.GATHER_REPLACE) fun x c => c.count x.1 x.2

/-- A frame fails with a cause. Where it was too long for its stream filter, whatever the cause counted, the filter blocks (R78). -/
def Chip.failFrame (c : Chip) (id cause : Nat) : Chip :=
  match c.frameOf id with
  | none => c
  | some f =>
    let c1 := (c.count (causeEvent cause) f.port).countReplaced f
    let c2 := if cause = 6 ∧ f.lossless then c1.count Ev.HEADROOM_EXHAUST f.port else c1
    let c3 := match f.sduFilter with
      | some h => if f.drop = 0 ∧ f.sdu ≠ 0 ∧ f.sdu < f.len then c2.blockStream h else c2
      | none => c2
    let c4 := c3.each f.meters fun u c => c.mtrSettle u none
    let c5 := (c4.updFrame id fun f => { f with res := 2, meters := [] }).killTargets id cause
    let c6 := match f.seqId with
      | some s => if f.seqState = 1 then (c5.unpend s id).seqPassHeld s f.seqNum else c5
      | none => c5
    (c6.settle id).releaseBehind

/-! ### Confirmation (R25) -/

/-- A confirmed pause frame (R112, R132): each class it names is paused for its quanta, 0 ends the pause. -/
def Chip.pauseRx (c : Chip) (f : Frame) (l : List (Nat × Nat)) : Chip :=
  let p := f.port
  if c.rd Reg.FC_CFG_FC_MODE p = 0 then c.count Ev.PAUSE_IGNORED p
  else
    let bit := 512 * 100000 / (c.rate p)
    let c1 := c.updPort p fun s => { s with pausedTo := l.foldl (fun m x => SMap.set m x.1 (if x.2 = 0 then 0 else c.now + x.2 * bit)) s.pausedTo }
    let m := l.foldl (fun m x => if x.2 = 0 then clrBit m x.1 else setBit m x.1) (c1.rd Reg.SCHED_STAT_PAUSED p)
    (c1.wr Reg.SCHED_STAT_PAUSED m p).count Ev.PAUSE_RX p

/-- A verify or respond packet of the preemption protocol (R123). -/
def Chip.verifyRx (c : Chip) (f : Frame) : Chip :=
  match f.kind with
  | .verify => (c.updPort f.port fun s => { s with respDue := true }).wakePort f.port
  | .respond =>
    if c.rd Reg.SCHED_STAT_VERIFY_STATE f.port = 2 then
      (c.wr Reg.SCHED_STAT_VERIFY_STATE 3 f.port).flag Reg.SCHED_STAT_PREEMPT_ACTIVE (c.on Reg.SCHED_CFG_PREEMPT_EN f.port) f.port
    else c
  | _ => c

/-- A learning request (R155): a frame that came over the fabric learns the device target of SRC_DEV (R317). Up to 16,384 wait. -/
def Chip.learnRequest (c : Chip) (f : Frame) : Chip :=
  let skip := if f.zid.isSome then 16 else 0
  let k := f.keyAt skip
  let r : LearnReq := match f.zid with
    | some h => { sa := k.sa, vid := f.vid, grp := true, dest := 16320 + Lay.ZID_SRC_DEV.get h }
    | none => { sa := k.sa, vid := f.vid, dest := f.port }
  if 16384 ≤ c.tbl.learnQ.length + c.tbl.learnHeld.length then c.count Ev.LEARN_OVF
  else { c with tbl := { c.tbl with learnQ := c.tbl.learnQ ++ [r] } }

/-- A frame passes its tail check. A mirror copy made refreshes its session's stamp, whatever became of the frame's own targets. DESIGN CHOICE
(log entry 144): a frame dropped at its head refreshes no other entry it matched. -/
def Chip.passFrame (c : Chip) (id : Nat) : Chip :=
  match c.frameOf id with
  | none => c
  | some f =>
    let c1 := c.count Ev.RX_FRAMES f.port f.len
    let c2 := match f.kind with
      | .preemptable n => c1.each (List.range n) fun _ c => c.count Ev.PREEMPT_FRAG_RX f.port
      | _ => c1
    let c3 := (if f.drop ≤ 1 then c2 else c2.count f.drop f.dropUnit).each (f.counts ++ f.refused) fun x c => c.count x.1 x.2
    let c4 := (c3.updFrame id fun f => { f with res := 1, meters := [], counts := [], refused := [] })
    let good := f.drop == 0
    let c5 := c4.each f.meters fun u c => c.mtrSettle u (if good then some f.len else none)
    let copied := f.tgts.filterMap fun t => t.ses.map (entKey 6 0)
    let c6 := c5.each ((if good then f.hits else []) ++ copied) fun k c => c.hit (k / 2 ^ 21) (k % 2 ^ 20)
    let c7 := match f.seqId with
      | some s =>
        if f.seqState ≠ 1 then c6
        else if good then (c6.seqRecord s f.seqNum id).seqDiscardHeld s f.seqNum
        else (c6.unpend s id).seqPassHeld s f.seqNum
      | none => c6
    let c8 := if f.learn then c7.learnRequest f else c7
    let c9 := if f.port < 512 ∧ f.zid = none ∧ f.stage = 2 ∧ f.kind.isFrame ∧ !c.fabPort f.port then
        (match pauseOf (f.inner 0) with | some l => c8.pauseRx f l | none => c8) else c8
    let c10 := (c9.verifyRx f)
    let c11 := if f.seqState = 2 ∧ good then c10 else c10.confirmTgts id
    let qs := f.tgts.map Tgt.queue
    ((c11.settle id).releaseBehind |>.marks qs).flowUpdate f.port

/-- Whether a frame is the oldest of its port that is not resolved: confirmations of one port come in arrival order (R23). -/
def Chip.oldest (c : Chip) (f : Frame) : Bool :=
  !(c.path.frames.any fun x => x.origin == .received && x.port == f.port && x.res == 0 && decide (x.id < f.id))

/-- The cause for which a frame is cut at the first byte too many (R85): 5 beyond a maximum SDU that is the smaller limit, 2 beyond MAX_FRAME;
0 for neither. -/
def Chip.overCause (c : Chip) (f : Frame) : Nat :=
  if f.drop = 0 ∧ f.sdu ≠ 0 ∧ f.sdu < f.len ∧ f.sdu < c.maxFrame f.port then 5 else if c.maxFrame f.port < f.len then 2 else 0

/-- The first cause of R21 for which a frame fails at its tail, the byte too many before it (R85); 0 for none. A frame dropped at its head is
checked for the first three conditions only (R21, R79). -/
def Chip.tailCause (c : Chip) (f : Frame) (codeErr fecErr fragErr : Bool) : Nat :=
  if c.overCause f ≠ 0 then c.overCause f
  else if !f.fcsOk || fragErr then 1
  else if f.len < 64 then 2
  else if codeErr then 3
  else if fecErr then 4
  else if f.drop ≠ 0 then 0
  else if f.noCells then 6
  else 0

/-- The cells of a frame not taken yet (R95, R98), with those other frames have taken by now. -/
def Chip.takeRest (c : Chip) (id : Nat) : Chip :=
  match c.frameOf id with
  | none => c
  | some f => c.takeArrived.takeCells id (cellsOf f.len)

/-- The corrected symbols and codewords and the uncorrectable codewords of a port's lanes, each codeword counted once on its lane (R58). DESIGN
CHOICE (log entry 200): a codeword over four lanes counts on the first. -/
def Chip.countFec (c : Chip) (p : Nat) (n : FecCount) : Chip :=
  let times := fun (ev l n : Nat) (c : Chip) => c.each (List.range n) fun _ c => c.count ev l
  (n.lanes.foldl (fun (a : Nat × Chip) x =>
    (a.1 + 1, times Ev.FEC_CW_UNCORR a.1 x.cwUncorr (times Ev.FEC_CW_CORR a.1 x.cwCorr (times Ev.FEC_SYM_CORR a.1 x.symCorr a.2)))) (p, c)).2

/-- Whether a tail of a port may be checked now: of the tails of one instant, to the tick, a lower port's comes first (R23; log entry 142). -/
def Chip.portTurn (c : Chip) (p : Nat) : Bool := c.path.tailAt != c.now || decide (c.path.tailPort ≤ p)

/-- Whether a frame's recovery history cannot be updated, its arbiter being frozen (R43, R47): its confirmation waits (R48). -/
def Chip.historyHeld (c : Chip) (f : Frame) : Bool := f.seqId.isSome && f.seqState != 0 && c.arbFrozen (tblArb 4 0)

/-- The tail check's outcome applied to the frame path, and whether the frame passed as far as its gather inputs go (R21); none where the
check is not due. -/
def Chip.tailCheck (c : Chip) (id : Nat) (codeErr fecErr fragErr : Bool) (n : FecCount) : Option (Bool × Chip) :=
  match c.frameOf id with
  | none => none
  | some f =>
    if f.stage ≠ 2 ∨ f.res ≠ 0 ∨ f.origin ≠ .received ∨ !c.oldest f ∨ !c.portTurn f.port ∨ c.historyHeld f then none
    else
      let c1 := (c.takeRest id).countFec f.port n
      let c2 := { c1 with path := { c1.path with tailAt := c.now, tailPort := f.port } }
      match c2.frameOf id with
      | none => none
      | some g =>
        let cause := c2.tailCause g codeErr fecErr fragErr
        if cause = 0 then some (true, c2.passFrame id) else some (false, c2.failFrame id cause)

/-- RX_OVERSIZE_CUT in the frame path: none where the frame is not too long or already resolved. -/
def Chip.oversizeCut (c : Chip) (id : Nat) : Option Chip :=
  match c.frameOf id with
  | none => none
  | some f =>
    let cause := c.overCause f
    if f.stage ≠ 2 ∨ f.res ≠ 0 ∨ f.origin ≠ .received ∨ cause = 0 ∨ !c.oldest f then none
    else some (c.takeArrived.failFrame id cause)

/-- The egress mirror copies of a target that an error marker ended: a started copy is ended by one itself (R89); DESIGN CHOICE (log entry
145): one not started is removed. -/
def Chip.endCopies (c : Chip) (id k cause : Nat) : Chip :=
  match c.frameOf id with
  | none => c
  | some f =>
    c.each (List.range f.tgts.length) fun j c =>
      match c.tgtOf id j with
      | none => c
      | some t =>
        if t.orig ≠ some k then c
        else match t.st with
          | .gone => c
          | .sending => c.markEnd t.port id j cause
          | _ => c.dropTgt id j

/-- ERROR_MARKER_LATE_CONFIRM: a cut-through egress reaches the frame's last FCS byte without its confirmation (R84); only while
CORE_SLOW_NOW is set. -/
def Chip.lateConfirm (p : Nat) (c : Chip) : Chip :=
  match (c.portSt p).tx with
  | none => c
  | some (id, k) =>
    match c.frameOf id, c.tgtOf id k with
    | some f, some t =>
      if f.res = 0 ∧ t.cut ∧ c.on Reg.BARO_STATUS_CORE_SLOW_NOW then (c.markEnd p id k 7).endCopies id k 7 else c
    | _, _ => c

/-- PAUSE_EXPIRE: the pauses of a port that have run out end (R112). -/
def Chip.pauseExpire (p : Nat) (c : Chip) : Chip :=
  let m := c.rd Reg.SCHED_STAT_PAUSED p
  let excess := (List.range 8).filter fun k => bitOf m k && decide (SMap.get (c.portSt p).pausedTo k ≤ c.now)
  if excess = [] then c else c.wr Reg.SCHED_STAT_PAUSED (excess.foldl clrBit m) p

end Sys2Proof.Machine
end

