-- ==== Sys2Proof/Machine/Egress.lean ====
section
/-! DEFINITION. Egress: the choice of the next frame (R110, R111), shapers (R113 to R116), the guard band and launch protection (R119,
R127), the cut-through start (R83), preemption (R123 to R125), launch slots and timed release (R126 to R130), the PTP correction
(R180, R181) and stamp reports (R182). Instants of start units are times of the timebase in 2^-16 ns. -/

namespace Sys2Proof.Machine

/-! ### Wire times -/

/-- The wire time of n bytes at a port's rate, in 2^-16 ns (R122): n × 8,000 ÷ rate ns. -/
def Chip.wireTime (c : Chip) (p n : Nat) : Nat := ceilDiv (n * 8000 * 65536) (max 1 (c.rate p))

/-- t(P) of R124 in 2^-16 ns: the longest a preemptable frame delays the express MAC. -/
def Chip.fragTime (c : Chip) (p : Nat) : Nat := c.wireTime p ((c.rd Reg.SCHED_CFG_ADD_FRAG p + 1) * 64 + 87)

/-! ### Shapers (R113 to R116) -/

/-- The byte time b in 2^-16 ns: ceil(8,000,000 ÷ RATE × 65,536). -/
def Chip.byteTime (c : Chip) (q : Nat) : Nat := ceilDiv (8000000 * 65536) (max 1 (c.rd Reg.SHP_RATE_RATE q))

/-- Whether a queue's shaper lets its head start: its TE is reached and the calendar has found it, which it does within 40.96 ns (R114). -/
def Chip.shaperOk (c : Chip) (q : Nat) : Bool :=
  c.rd Reg.SHP_RATE_RATE q == 0 || (decide (c.shTe q ≤ c.vTime) && (!SMap.get c.path.cal q || decide (c.shTe q + calSlot ≤ c.vTime)))

/-- The shaper's steps when a target of `len` bytes is selected (R114); a target of an unconfirmed frame keeps the eligible time from before
(R24). -/
def Chip.shape (c : Chip) (q len id k : Nat) : Chip :=
  let c1 := if (c.frameOf id).any (fun f => f.res == 0) then c.updTgt id k fun t => { t with te0 := some (c.shTe q) } else c
  if c.rd Reg.SHP_RATE_RATE q = 0 then c1
  else
    let b := c.byteTime q
    let te := max (c.shTe q) (c.vTime - c.rd Reg.SHP_BURST_BURST q * b) + (len + c.rd Reg.SHP_BURST_OVERHEAD q) * b
    Chip.calEnter { c1 with path := { c1.path with te := SMap.set c1.path.te q te } } q

/-! #### What SHP_STAT shows: confirmed frames alone (R24, R28) -/

/-- TE of a queue without the selections of unconfirmed frames. -/
def Chip.teShown (c : Chip) (q : Nat) : Nat :=
  let held := c.path.frames.flatMap fun f => if f.res = 0 then f.tgts.filterMap fun t => if t.queue = q then t.te0 else none else []
  held.foldl min (c.shTe q)

/-- ELIGIBLE: TE ≤ V, or no rate. -/
def Chip.shpEligible (c : Chip) (q : Nat) : Bool := c.rd Reg.SHP_RATE_RATE q == 0 || decide (c.teShown q ≤ c.vTime)

/-- BACKLOG: a confirmed frame waits in the queue. DESIGN CHOICE (log entry 193): so does one in a launch slot of it, and one kept behind an older frame. -/
def Chip.shpBacklog (c : Chip) (q : Nat) : Bool :=
  c.confirmed.any fun f => f.tgts.any fun t => t.queue == q && (t.st == .queued || t.st == .behind || t.st == .slot)

/-- AHEAD in ns. -/
def Chip.shpAhead (c : Chip) (q : Nat) : Nat := satU 30 ((c.teShown q - c.vTime) / 65536)

/-! ### Whether a port may send at all -/

/-- Whether the unit's egress is gated: by the partner's hold (R334) or by its twin state (R331), until Thaw opens it (R346). The twin link
and MGT are not. -/
def Chip.egressGated (c : Chip) (p : Nat) : Bool :=
  let st := c.rd Reg.TWIN_STATUS_STATE
  p != 512 && !c.twinPort p && (c.on Reg.TWIN_STATUS_HOLD_IN || !(st == 0 || st == 5 || (st == 4 && c.twin.egress)))

/-- Whether a calibration run has taken a port (R426): its queued frames wait. -/
def Chip.calPort (c : Chip) (p : Nat) : Bool :=
  match c.cal.run with
  | none => false
  | some (_, cal) =>
    let lo := bitsOf cal 32 16
    let hi := bitsOf cal 16 16
    (bitsOf cal 56 8 == 2 && decide (lo ≤ p) && decide (p ≤ hi)) || (bitsOf cal 56 8 == 3 && (p == lo || p == hi))

/-- Whether a port may send but for its lane's low power. -/
def Chip.maySend (c : Chip) (p : Nat) : Bool :=
  let s := c.portSt p
  c.linkUp p && !c.calPort p && c.portPowered p && !s.retrain && !s.far && !c.egressGated p

/-- Whether a port's lane can send frames now. -/
def Chip.laneOpen (c : Chip) (p : Nat) : Bool := c.maySend p && (c.portSt p).lpTx == 0

/-! ### Eligibility (R110, R119, R127) -/

/-- The bytes a guard band reserves for a target, preamble and SFD included: its own, the largest frame of the ingress port for an
unconfirmed candidate, of a preemptable frame no more than its first fragment (R119). -/
def Chip.guardLen (c : Chip) (f : Frame) (t : Tgt) : Nat :=
  let own := if f.res = 0 then c.maxFrame f.port else t.body.length + 4
  8 + (if c.preemptable t.port (t.queue % 8) then min own ((c.rd Reg.SCHED_CFG_ADD_FRAG t.port + 1) * 64) else own)

/-- The gate and guard band of a class at a start unit. -/
def Chip.gateOk (c : Chip) (f : Frame) (t : Tgt) (unit : Nat) : Bool :=
  decide (512 ≤ t.port) || c.gateOpenFor t.port (t.queue % 8) unit (c.wireTime t.port (c.guardLen f t))

/-- Launch times held in a port's slots. -/
def Chip.slotLaunches (c : Chip) (p : Nat) : List Nat :=
  (c.portSt p).slots.filterMap fun x => (c.tgtOf x.1 x.2).bind Tgt.launch

/-- Whether a frame of n bytes, with preamble and gap, leaves before the earliest launch time held (R127). -/
def Chip.leavesBefore (c : Chip) (p n unit : Nat) : Bool := (c.slotLaunches p).all fun l => decide (unit + c.wireTime p (n + 8 + 12) ≤ l)

/-- Launch protection (R127). -/
def Chip.protectOk (c : Chip) (t : Tgt) (unit : Nat) : Bool :=
  c.preemptable t.port (t.queue % 8) || c.leavesBefore t.port (t.body.length + 4) unit

/-- Whether preemptable traffic is to be off the lane: hold (R124), or a launch time within t(P) of a frame that preempts it (R124, R127; log
entry 154). -/
def Chip.holdOff (c : Chip) (p unit : Nat) : Bool :=
  c.holdAt p unit (c.fragTime p) || (c.slotLaunches p).any fun l => decide (l ≤ unit + c.fragTime p)

/-- Whether a timed frame that was ahead in the queue still stands in a slot (R126). -/
def Chip.slotAhead (c : Chip) (p q : Nat) : Bool :=
  (c.portSt p).slots.any fun x => match c.tgtOf x.1 x.2 with | some t => t.queue == q | none => false

/-- Eligibility of a queue's head but for the gate's guard band and launch protection. A frame with a cell in a frozen bank waits (R48). -/
def Chip.headReady (c : Chip) (f : Frame) (t : Tgt) : Bool :=
  t.launch.isNone && c.cellsOpen f && !c.slotAhead t.port t.queue && c.shaperOk t.queue &&
  !(decide (t.port < 512) && bitOf (c.rd Reg.SCHED_STAT_PAUSED t.port) (t.queue % 8)) &&
  (f.res == 1 || (t.cut && t.choice != 2)) &&
  (!c.credited t.port (t.queue % 8) || decide (cellsOf (t.body.length + 4) ≤ c.credit t.port (t.queue % 8)))

/-- The head of a queue. -/
def Chip.head (c : Chip) (q : Nat) : Option (Nat × Nat) := (c.queue q).head?

/-- A head held by the guard band or launch protection, counted once per frame, an unconfirmed one at its confirmation (R132). -/
def Chip.guardHold (c : Chip) (id k : Nat) (f : Frame) (t : Tgt) : Chip :=
  if t.held then c
  else
    let c1 := c.updTgt id k fun t => { t with held := true }
    if f.res = 1 then c1.count Ev.GUARD_HOLD t.queue else c1.updFrame id fun f => { f with counts := f.counts ++ [(Ev.GUARD_HOLD, t.queue)] }

/-- The instant before which the lag rule keeps a candidate from starting, as a time of the timebase (R83). DESIGN CHOICE (log entry 155): the
removed bytes count at the egress port's rate. -/
def Chip.lagStart (c : Chip) (f : Frame) (t : Tgt) : Nat :=
  let first := f.startAt * 65536 / 100 + 64 * 65536 + c.wireTime t.port t.short
  let u := (c.tb16 : Int) + ((first : Int) - c.vTime) - c.wireTime t.port 8
  u.toNat

/-- What a start opportunity does with the head of a queue: whether it starts, whether the port waits for it (the lag rule), and the
block with its marks. With `asleep` the lane is in low power: nothing starts or is held, but R83's choice is made, which goes against a
cut-through start. -/
def Chip.consider (c : Chip) (q unit : Nat) (express asleep : Bool) : Bool × Bool × Chip :=
  let hold := fun (c : Chip) (id k : Nat) (f : Frame) (t : Tgt) => if asleep then c else c.guardHold id k f t
  match c.head q with
  | none => (false, false, c)
  | some (id, k) =>
    match c.frameOf id, c.tgtOf id k with
    | some f, some t =>
      let pre := c.preemptable t.port (q % 8)
      if !c.headReady f t ∨ (express ∧ pre) ∨ (pre ∧ c.holdOff t.port unit) then (false, false, c)
      else if !bitOf (c.gateAt t.port unit).1 (q % 8) ∧ t.port < 512 then (false, false, c)
      else if !c.protectOk t unit then (false, false, hold c id k f t)
      else if f.res = 1 then (if c.gateOk f t unit then (!asleep, asleep, c) else (false, false, hold c id k f t))
      else
        let u := max unit (c.lagStart f t)
        if t.choice = 1 then
          if asleep ∨ unit < u then (false, true, c) else if c.gateOk f t unit then (true, false, c) else (false, false, hold c id k f t)
        else if !c.gateOk f t u then (false, false, (hold c id k f t).updTgt id k fun t => { t with choice := 2 })
        else if asleep ∨ c.rd Reg.PORT_STATUS_LP_STATE t.port ≠ 0 then (false, false, c.updTgt id k fun t => { t with choice := 2 })
        else (decide (u ≤ unit), decide (unit < u), c.updTgt id k fun t => { t with choice := 1 })
    | _, _ => (false, false, c)

/-- The queue whose head starts, from the highest class down; none while the port waits for a chosen candidate. -/
def Chip.pickQueue (c : Chip) (p unit : Nat) (express asleep : Bool) : List Nat → Option Nat × Chip
  | [] => (none, c)
  | k :: l =>
    let q := queueOf p k
    let (start, wait, c1) := c.consider q unit express asleep
    if start then (some q, c1) else if wait then (none, c1) else c1.pickQueue p unit express asleep l

/-! ### PTP correction (R180, R181) -/

/-- What is added to the correction field of a forwarded event message. -/
def Chip.correction (c : Chip) (f : Frame) (p mode typ : Nat) (res : Int) : Int :=
  let aIn := c.rdS Reg.LINK_DELAY_ASYM_A f.port
  let aOut := c.rdS Reg.LINK_DELAY_ASYM_A p
  match mode, typ with
  | 1, 0 => res + aIn
  | 1, 1 => res - aOut
  | 1, 2 => -aOut
  | 2, 0 => res + (c.rd Reg.LINK_DELAY_MPD f.port : Int) * 64 + aIn
  | 2, 1 => -aOut
  | 2, 2 => -aOut
  | _, _ => 0

/-- An incremental update of a ones' complement checksum for changed bytes (R181). -/
def sumUpdate (ck : Nat) (old new : Bytes) : Nat :=
  let s := (65535 - ck) + (65535 * (old.length + 1) - onesSum old) + onesSum new
  let f := fun x => x % 65536 + x / 65536
  65535 - f (f (f (f s)))

/-- A body with its correction field advanced; a UDP checksum follows unless it is IPv4's 0. The frame begins after `skip` bytes. -/
def correctBody (skip : Nat) (b : Bytes) (at_ : Nat) (d : Int) : Bytes :=
  let old := sliceBytes b (at_ + 8) 8
  let new := bytesOfNat 8 (encS 64 (signed 64 (natOfBytes old) + d))
  let b1 := patch b (at_ + 8) new
  let k := parseKey (b.drop skip) 128
  if k.dport.isNone ∨ d = 0 then b1
  else
    let ck := natAt b (skip + k.l4 + 6) 2
    if ck = 0 ∧ k.ver = 4 then b1
    else
      let n := sumUpdate ck old new
      patch b1 (skip + k.l4 + 6) (bytesOfNat 2 (if n = 0 then 65535 else n))

/-- The bytes a target leaves with, given its residence time C_tx − C_rx. -/
def Chip.sentBody (c : Chip) (f : Frame) (t : Tgt) (res : Int) : Bytes :=
  let mode := if t.port < 512 then c.rd Reg.TS_CFG_TC_MODE t.port else 0
  if t.ptpAt = 0 ∨ f.origin ≠ .received ∨ t.ses.isSome ∨ (mode ≠ 1 ∧ mode ≠ 2) then t.body
  else correctBody (if c.fabPort t.port then 16 else 0) t.body t.ptpAt (c.correction f t.port mode (natAt t.body t.ptpAt 1 % 16) res)

/-! ### PTP messages of the device's own (R226, R245): times go in as they leave -/

/-- Bytes of a body replaced at an offset; a UDP checksum follows. -/
def patchSum (skip : Nat) (b : Bytes) (off : Nat) (new : Bytes) : Bytes :=
  let b1 := patch b off new
  let k := parseKey (b.drop skip) 128
  if k.dport.isNone then b1
  else
    let ck := natAt b (skip + k.l4 + 6) 2
    let n := sumUpdate ck (sliceBytes b off new.length) new
    patch b1 (skip + k.l4 + 6) (bytesOfNat 2 (if n = 0 then 65535 else n))

/-- A report of an own message in the stamp queue: port, messageType, sequenceId; the stamp in 2^-16 ns. -/
def Chip.findReport (c : Chip) (p typ seq : Nat) : Option Nat :=
  c.path.reports.find? fun r => Lay.SREP_DIR.get r == 1 && Lay.SREP_PORT.get r == p && Lay.SREP_MSG_TYPE.get r == typ && Lay.SREP_SEQ_ID.get r == seq

/-- The report taken by the firmware. -/
def Chip.takeReport (c : Chip) (p typ seq : Nat) : Option Int × Chip :=
  match c.findReport p typ seq with
  | none => (none, c)
  | some r => (some (timeOf96 (Lay.SREP_STAMP.get r)), { c with path := { c.path with reports := c.path.reports.erase r } })

/-- A PTP timestamp: 48 bits of seconds, 32 of nanoseconds. -/
def ptpTime (t : Nat) : Bytes := bytesOfNat 6 (t / 65536 / nsPerS) ++ bytesOfNat 4 (t / 65536 % nsPerS)

/-- A PTP message with a time written to its first timestamp and the fraction added to its correctionField. -/
def timeBody (skip : Nat) (b : Bytes) (at_ : Nat) (t : Int) : Bytes :=
  let n := t.toNat
  let b1 := patchSum skip b (at_ + 34) (ptpTime n)
  patchSum skip b1 (at_ + 8) (bytesOfNat 8 (encS 64 (signed 64 (natAt b1 (at_ + 8) 8) + (n % 65536 : Nat))))

/-- An own PTP message as it leaves: a one-step Sync takes its own stamp, a one-step Pdelay_Resp its turnaround, a Follow_Up the stamp of
the message it follows. -/
def Chip.ownPtp (c : Chip) (t : Tgt) (st res : Int) : Bytes × Chip :=
  let b := t.body
  let a := t.ptpAt
  let skip := if c.fabPort t.port ∨ c.twinPort t.port then 16 else 0
  let two := bitOf (natAt b (a + 6) 1) 1
  let seq := natAt b (a + 30) 2
  let follow := fun typ => match c.takeReport t.port typ seq with
    | (some s, c1) => (timeBody skip b a s, c1)
    | (none, c1) => (b, c1)
  match natAt b a 1 % 16 with
  | 0 => (if two then b else timeBody skip b a st, c)
  | 3 => (if two then b else patchSum skip b (a + 8) (bytesOfNat 8 (encS 64 (signed 64 (natAt b (a + 8) 8) + res))), c)
  | 8 => follow 0
  | 10 => follow 3
  | _ => (b, c)

/-! ### Start of a frame -/

/-- The egress mirror copy of target k of a frame that starts (R89, R91): a target of its own, kept in order behind older frames of its ingress
port (R88). DESIGN CHOICE (log entry 191): the session and its entry are those in force at the first bit. -/
def Chip.mirrorOut (c : Chip) (id k : Nat) (p : Nat) (b : Bytes) : Chip :=
  if 512 ≤ p ∨ !c.on Reg.FP_CFG_MIR_OUT_EN p then c
  else
    let s := c.rd Reg.FP_CFG_MIR_OUT_SES p
    let e := c.entLook (c.gen 6) 6 s
    match c.frameOf id with
    | none => c
    | some f =>
      if Lay.MIR_VALID.get e = 0 then c
      else
        let t := { c.copyTgt s e b (c.fabPort p) with orig := some k }
        match c.takeIn f t with
        | (some ev, c1) =>
          if f.res = 1 then c1.each (refusedCounts t ev) fun x c => c.count x.1 x.2
          else c1.updFrame id fun f => { f with refused := f.refused ++ refusedCounts t ev }
        | (none, c1) =>
          let j := f.tgts.length
          let c2 := c1.updFrame id fun f => { f with tgts := f.tgts ++ [t] }
          let go := fun (c : Chip) => if c.heldBack f t.queue then c.updTgt id j fun t => { t with st := .behind } else c.enqueue id j
          if f.res = 1 then go ((c2.count Ev.ENQ_FRAMES t.queue f.len).hit 6 s)
          else if c2.candidate f t then go (c2.updTgt id j fun t => { t with cut := true })
          else c2

/-- A target taken out of its queue and sent: the lane, the stamp, the mirror copy, the credit spent (R325). DESIGN CHOICE (log entry 156): a
mirror copy is not mirrored again on a port with MIR_OUT_EN. -/
def Chip.startTgt (c : Chip) (p id k : Nat) (edge : Edge) (e : Nat) : Chip :=
  match c.frameOf id, c.tgtOf id k with
  | some f, some t =>
    let st := c.txStamp p edge
    let at_ := c.atStamp true p edge
    let res := st - at_.rdS Reg.STEP_SUM - f.cont
    let (body, c0) := if f.origin = .device ∧ t.ptpAt ≠ 0 then c.ownPtp t st res else (c.sentBody f t res, c)
    let c1 := c0.unqueue t.queue (id, k)
    let c2 := (c1.updTgt id k fun t => { t with st := .sending, body := body }).updPort p fun s => { s with
      tx := some (id, k)
      out := { stamp := st, steps := at_.rd Reg.TIME_STATUS_STEP_COUNT, pma := c.pma true p edge, e := e, from_ := c.now
               res := if f.origin = .received then res else 0
               stepped := f.origin == .received && f.steps != at_.rd Reg.TIME_STATUS_STEP_COUNT }
      slots := s.slots.filter fun x => x != (id, k) }
    let c3 := if c2.credited p (t.queue % 8) then
        Chip.creditWait c2 ({ c2 with path := { c2.path with credSent := SMap.upd c2.path.credSent (p * 8 + t.queue % 8) fun n =>
          (n + cellsOf (body.length + 4)) % 2 ^ 32 } }.showCredit p (t.queue % 8)) p (t.queue % 8)
      else c2
    let kind : RxKind := if c.preemptable p (t.queue % 8) && t.launch.isNone then .preemptable 1 else .express
    let c4 := (c3.emit (.txStart p (t.queue % 8) body st)).feedBack p kind (body ++ fcsBytes body)
    if t.ses.isSome then c4 else c4.mirrorOut id k p body
  | _, _ => c

/-- SLOTS_USED brought up to date. -/
def Chip.showSlots (c : Chip) (p : Nat) : Chip :=
  if p < 512 then c.wr Reg.SCHED_STAT_SLOTS_USED (c.portSt p).slots.length p else c

/-! ### Frames of the port itself -/

/-- The PAUSE or PFC frame due under R101: pause time 0xFFFF for classes in XOFF, 0 for the others named. -/
def Chip.flowFrame (c : Chip) (p mask : Nat) : Bytes :=
  let on := c.rd Reg.IN_STAT_XOFF p
  if c.rd Reg.FC_CFG_FC_MODE p = 2 then
    ethFrame 0x0180C2000001 (c.rd Reg.DEV_MAC) none 0x8808 (bytesOfNat 2 0x0101 ++ bytesOfNat 2 mask ++
      (List.range 8).flatMap fun k => bytesOfNat 2 (if bitOf mask k && bitOf on k then 0xFFFF else 0))
  else ethFrame 0x0180C2000001 (c.rd Reg.DEV_MAC) none 0x8808 (bytesOfNat 2 0x0001 ++ bytesOfNat 2 (if on = 0 then 0 else 0xFFFF))

/-- A frame the port sends ahead of its queues, if one is due and launch protection lets it start (R127): PAUSE or PFC (R101), credit (R325),
then respond and verify packets (R123). DESIGN CHOICE (log entries 156 and 157): the order, and that no port mirrors them. -/
def Chip.controlFrame (c : Chip) (p unit : Nat) (edge : Edge) : Option Chip :=
  let s := c.portSt p
  let go := fun (c : Chip) (b : Bytes) =>
    ((c.updPort p fun s => { s with ctl := true }).emit (.txStart p 7 b (c.txStamp p edge))).feedBack p .express (b ++ fcsBytes b)
  let packet := fun (c : Chip) (respond : Bool) =>
    ((c.updPort p fun s => { s with ctl := true }).emit (.verify p respond)).feedBack p (if respond then .respond else .verify) []
  match s.fcDue with
  | some m =>
    let b := c.flowFrame p m
    if c.leavesBefore p (b.length + 4) unit then some (go (c.updPort p fun s => { s with fcDue := none, fcLast := c.now }) b) else none
  | none =>
    if s.credDue then
      let b := zidFrame (zidOwn 2 1 7) (c.creditPayload p)
      if !c.leavesBefore p (b.length + 4) unit then none
      else
      let c1 := c.updPort p fun s => { s with credDue := false }
      let ks := (List.range 8).map (p * 8 + ·)
      let c2 := { c1 with path := { ks.foldl (fun t k => { t with credRep := SMap.set t.credRep k (SMap.get t.credRet k) }) c1.path with
        credAt := SMap.set c1.path.credAt p c.now } }
      some (go c2 b)
    else if !c.leavesBefore p 64 unit then none
    else if s.respDue then some (packet (c.updPort p fun s => { s with respDue := false }) true)
    else if s.verDue then some (packet (c.updPort p fun s => { s with verDue := false }) false)
    else none

/-! ### The start opportunity (R111) -/

/-- A preemptable frame on the lane suspended with its stamp (R124): the mCRC of 4 bytes and the gap of 12 follow before the lane is free. Its
fragment counts. -/
def Chip.suspend (c : Chip) (p : Nat) : Chip :=
  match (c.portSt p).tx with
  | none => c
  | some x => (c.updPort p fun s => { s with
      tx := none, susp := some x, rest := { s.out with done := c.bytesOut p }
      freeAt := c.now + ceilDiv (16 * 800000) (max 1 (c.rate p)) }).count Ev.PREEMPT_FRAG_TX p

/-- A suspended frame goes on (R124), unless a cell of it lies in a frozen bank (R48). -/
def Chip.resumeTx (c : Chip) (p : Nat) : Chip :=
  if ((c.portSt p).susp.bind fun x => c.frameOf x.1).any fun f => !c.cellsOpen f then c
  else c.updPort p fun s => { s with tx := s.susp, susp := none, out := { s.rest with from_ := c.now } }

/-- Whether the frame on the lane may be preempted. -/
def Chip.txPreemptable (c : Chip) (p : Nat) : Bool :=
  match (c.portSt p).tx with
  | some (id, k) => (c.portSt p).susp.isNone && (match c.tgtOf id k with
    | some t => c.preemptable p (t.queue % 8) && t.launch.isNone | none => false)
  | none => false

/-- Whether the frame on the lane can be suspended now: its fragment has the minimum size, and more than 63 bytes are left (R124). -/
def Chip.maySuspend (c : Chip) (p : Nat) : Bool :=
  c.txPreemptable p && (match (c.portSt p).tx with
    | some (id, k) => match c.tgtOf id k with
      | some t => decide ((c.rd Reg.SCHED_CFG_ADD_FRAG p + 1) * 64 + (c.portSt p).out.done ≤ c.bytesOut p) &&
          decide (c.bytesOut p + 64 ≤ t.body.length + 4)
      | none => false
    | none => false)

/-- The head of a queue selected: its shaper charged (R114), and on the lane. -/
def Chip.startHead (c : Chip) (p q : Nat) (edge : Edge) : Chip :=
  match c.head q with
  | none => c
  | some (id, k) => match c.tgtOf id k with
    | none => c
    | some t => (c.shape q (t.body.length + 4) id k).startTgt p id k edge 0

/-- The classes from the highest down. -/
def classesDown : List Nat := [7, 6, 5, 4, 3, 2, 1, 0]

/-- Whether the gap after what a port last sent is over at an instant of the timebase (R129). -/
def Chip.gapOver (c : Chip) (p unit : Nat) : Bool := decide (((c.portSt p).freeAt : Int) ≤ c.now + ((unit : Int) - c.tb16) * 100 / 65536)

/-- EGRESS_START_OPPORTUNITY: the lane can start a frame at the start unit `unit`; `edge` is T_edge of R175 for the stamp point. A preemptable frame
on the lane is suspended for a frame of the port's own, an express one or hold (R111, R124): what preempts it starts once the mCRC and the gap have
passed. -/
def Chip.egressStart (p unit : Nat) (edge : Edge) (c : Chip) : Chip :=
  let s := c.portSt p
  if s.ctl then c
  else if !c.laneOpen p then (if c.maySend p then (c.pickQueue p unit false true classesDown).2 else c)
  else match s.tx with
    | some _ =>
      if !c.maySuspend p then c
      else if ((c.suspend p).controlFrame p unit edge).isSome then c.suspend p
      else match c.pickQueue p unit true false classesDown with
        | (some _, c1) => c1.suspend p
        | (none, c1) => if c1.holdOff p unit then c1.suspend p else c1
    | none =>
      if !c.gapOver p unit then c
      else match c.controlFrame p unit edge with
      | some c1 => c1
      | none =>
        match c.pickQueue p unit s.susp.isSome false classesDown with
        | (some q, c1) => c1.startHead p q edge
        | (none, c1) => if s.susp.isSome ∧ !c1.holdOff p unit then c1.resumeTx p else c1

/-! ### Timed release (R19, R126 to R130) -/

/-- A timed frame dropped before its first bit, with its event (R129). -/
def Chip.dropTimed (c : Chip) (ev id k : Nat) : Chip :=
  match c.tgtOf id k with
  | none => c
  | some t => ((c.count ev t.queue).dropTgt id k).showSlots t.port

/-- Whether a launch time lies too far ahead (R129). -/
def Chip.tooFar (c : Chip) (l : Nat) : Bool := decide (c.tb16 + 1000000000 * 65536 < l)

/-- RELEASE_STAGE_ARRIVAL: a timed frame at the head of a queue waits there while all 16 slots are taken or a cell of it lies in a frozen bank (R48,
R126), else reaches the release stage: dropped late or far, or moved to a slot. -/
def Chip.releaseArrival (q : Nat) (c : Chip) : Chip :=
  match c.head q with
  | none => c
  | some (id, k) =>
    match c.frameOf id, c.tgtOf id k with
    | some f, some t =>
      match t.launch with
      | none => c
      | some l =>
        if f.res ≠ 1 ∨ 16 ≤ (c.portSt t.port).slots.length ∨ !c.cellsOpen f then c
        else if l < c.tb16 then c.dropTimed Ev.LATE_DROP id k
        else if c.tooFar l then c.dropTimed Ev.LAUNCH_FAR id k
        else
          (((c.unqueue q (id, k)).updTgt id k fun t => { t with st := .slot }).updPort t.port fun s => { s with slots := s.slots ++ [(id, k)] }).showSlots t.port
    | _, _ => c

/-- The slot with the earliest launch time. DESIGN CHOICE (log entry 194): of two with the same, the one moved first. -/
def Chip.firstSlot (c : Chip) (p : Nat) : Option (Nat × Nat × Nat) :=
  (c.portSt p).slots.foldl (fun a x => match (c.tgtOf x.1 x.2).bind Tgt.launch with
    | none => a
    | some l => match a with
      | none => some (l, x)
      | some (m, _) => if l < m then some (l, x) else a) none

/-- Largest gap of R128 in 0.01 ns. -/
def largestGap (mode fec : Nat) : Nat :=
  match mode, fec with
  | 1, _ => 1600
  | 2, _ => 640
  | 3, 0 => 640
  | 3, _ => 941
  | 4, 0 => 256
  | 4, 1 => 376
  | 4, _ => 792
  | 5, 0 => 800
  | 5, _ => 1098
  | 6, 0 => 1344
  | 6, _ => 1444
  | _, _ => 0

/-- The block grid of a mode and FEC choice (R128) in units of 1/3300 ns: spacing, the blocks between parity slots and a slot's length, the blocks of a
marker period and those of them that markers take at its front. -/
structure GridSpec where
  step : Nat := 0
  group : Nat := 1
  parity : Nat := 0
  period : Nat := 1
  marks : Nat := 0
  deriving DecidableEq, Repr, Inhabited

/-- The table of R128, in bits of the lane rate: 66 or 65 a block, 64.25 transcoded, 32 of parity per 32 blocks of Clause 74, 140 per 80 blocks of a
Reed-Solomon codeword, markers every 16,384 blocks of a PCS lane. -/
def gridSpec (mode fec : Nat) : GridSpec :=
  match mode, fec with
  | 1, _ => { step := 52800 }
  | 2, _ => { step := 21120 }
  | 3, 0 => { step := 21120 }
  | 3, _ => { step := 20800, group := 32, parity := 10240 }
  | 4, 0 => { step := 8448 }
  | 4, 1 => { step := 8320, group := 32, parity := 4096 }
  | 4, _ => { step := 8224, group := 80, parity := 17920 }
  | 5, 0 => { step := 5280, period := 65536, marks := 4 }
  | 5, _ => { step := 5200, group := 128, parity := 10240, period := 65536, marks := 4 }
  | 6, 0 => { step := 2112, period := 327680, marks := 20 }
  | 6, _ => { step := 2056, group := 80, parity := 4480, period := 327680, marks := 20 }
  | _, _ => {}

/-- Where block i of a grid begins. -/
def GridSpec.at_ (g : GridSpec) (i : Nat) : Nat := i * g.step + i / g.group * g.parity

/-- The first block that begins at or after a position and that no marker takes. -/
def GridSpec.first (g : GridSpec) (x : Nat) : Nat :=
  let span := g.group * g.step + g.parity
  let j := ceilDiv (x % max 1 span) (max 1 g.step)
  let i := x / max 1 span * g.group + min j g.group
  if i % g.period < g.marks then i - i % g.period + g.marks else i

/-- The first usable boundary at or after L on a port's nominal block grid, in 2^-16 ns of the timebase (R128). DESIGN CHOICE (log entry 150): the grid is
laid from the port's link-up, marker and parity periods with it, and runs with the ticks, as SYNT does (R52). -/
def Chip.boundary (c : Chip) (p l : Nat) : Nat :=
  let g := gridSpec (c.mode p) (c.rd Reg.PORT_CFG_FEC p)
  let from_ : Int := ((c.now : Int) - (c.portSt p).gridAt) * 33
  let x := from_ + ceilDivI (((l : Int) - c.tb16) * 3300) 65536
  let b : Int := g.at_ (g.first x.toNat)
  ((c.tb16 : Int) + ceilDivI ((b - from_) * 65536) 3300).toNat

/-- Whether a port's transmit clock runs with the ticks: its PLL takes SYNT (R52). -/
def Chip.txSynt (c : Chip) (p : Nat) : Bool :=
  c.on (if c.on Reg.PORT_CFG_PLL_SEL p then Reg.OCT_CLK_PLLB_SRC else Reg.OCT_CLK_PLLA_SRC) (p / 8 * 8)

/-- A tick in 2^-16 ns, rounded up: to within it the octet time copy tells where an instant lies. -/
def tickUp16 : Nat := 167773

/-- Whether a boundary measured at b is the first usable one at or after L (R128): on SYNT the one of the grid to the 2^-10 ns of the TDC, on
SD_REFCLK, whose phase against the ticks nothing tells, one within the largest gap (log entry 150). -/
def Chip.isBoundary (c : Chip) (p l b : Nat) : Bool :=
  decide (l ≤ b) && (if c.txSynt p then decide (((b : Int) - c.boundary p l).natAbs ≤ 64)
    else decide ((b - l) * 100 < largestGap (c.mode p) (c.rd Reg.PORT_CFG_FEC p) * 65536))

/-- Whether the first usable boundary at or after L has passed. -/
def Chip.boundaryPassed (c : Chip) (p l : Nat) : Bool :=
  decide ((if c.txSynt p then c.boundary p l else l + largestGap (c.mode p) (c.rd Reg.PORT_CFG_FEC p) * 65536 / 100) + tickUp16 < c.tb16)

/-- The boundary error E = B − L of a launch in 2^-10 ns; while the transmit channel of its lane is unlocked that of the nominal block grid (R128, R187). -/
def Chip.boundaryError (c : Chip) (p l b : Nat) (edge : Edge) : Nat :=
  if SMap.get c.tdc (c.edgeChannel true p edge) then (b - l) / 64 else (c.boundary p l - l) / 64

/-- Whether the lane is free of the previous frame and its gap at an instant of the timebase (R129). A preemptable frame has had to make way (R124). -/
def Chip.laneFree (c : Chip) (p b : Nat) : Bool := !(c.portSt p).ctl && (c.portSt p).tx.isNone && c.gapOver p b

/-- LAUNCH_SENT: the first usable boundary B at or after the earliest launch time of a port's slots, when the time copy has reached it: the frame
starts there, with E = B − L, or is dropped late because B has passed, or its lane, its class, the egress, its credit or a frozen bank does not let it go
(R48, R68, R112, R128, R129, R325, R334). At any other boundary nothing is sent. -/
def Chip.launchSent (p b : Nat) (edge : Edge) (c : Chip) : Chip :=
  match c.firstSlot p with
  | none => c
  | some (l, id, k) =>
    match c.tgtOf id k with
    | none => c
    | some t =>
      if c.boundaryPassed p l then c.dropTimed Ev.LATE_DROP id k
      else if !c.isBoundary p l b ∨ c.tb16 + tickUp16 ≤ b then c
      else
        let shut := (c.frameOf id).any fun f => !c.cellsOpen f
        let poor := c.credited p (t.queue % 8) && decide (c.credit p (t.queue % 8) < cellsOf (t.body.length + 4))
        if shut ∨ poor ∨ !c.laneOpen p ∨ !c.laneFree p b ∨ bitOf (c.rd Reg.SCHED_STAT_PAUSED p) (t.queue % 8) then c.dropTimed Ev.LATE_DROP id k
        else ((c.count Ev.LAUNCH_SENT t.queue).startTgt p id k edge (c.boundaryError p l b edge)).showSlots p

/-! ### End of a frame (R102, R130, R182) -/

/-- The stamp report of a sent frame (R182), of what was known at its stamp. -/
def Chip.txReport (c : Chip) (p : Nat) (_f : Frame) (t : Tgt) : Nat :=
  let s := (c.portSt p).out
  let ptp := if t.ptpAt = 0 then 0
    else Lay.SREP_SEQ_ID.put (natAt t.body (t.ptpAt + 30) 2) + Lay.SREP_DOMAIN.put (natAt t.body (t.ptpAt + 4) 1) +
      Lay.SREP_MSG_TYPE.put (natAt t.body t.ptpAt 1)
  Lay.SREP_STAMP.put (time96 s.stamp.toNat) + Lay.SREP_LAUNCH.put (match t.launch with | some l => time96 l | none => 0) +
    Lay.SREP_E.put s.e + Lay.SREP_TAG.put (t.tag.getD 0) + ptp + Lay.SREP_DIR.put 1 + Lay.SREP_PMA.put (b2n s.pma) +
    Lay.SREP_TIMED.put (b2n t.launch.isSome) + Lay.SREP_STEPPED.put (b2n s.stepped) + Lay.SREP_PORT.put p +
    Lay.SREP_STEP_COUNT.put s.steps + Lay.SREP_RES.put (encS 64 s.res)

/-- The receive stamp report of a trapped frame (R182), of what was known at its stamp. -/
def Frame.rxReport (f : Frame) : Nat :=
  let k := f.keyAt (if f.zid.isSome then 16 else 0)
  let ptp := match k.ptp with
    | some x => Lay.SREP_SEQ_ID.put (x.seq.getD 0) + Lay.SREP_DOMAIN.put (x.dom.getD 0) + Lay.SREP_MSG_TYPE.put (x.typ.getD 0)
    | none => 0
  Lay.SREP_STAMP.put (time96 f.stamp.toNat) + ptp + Lay.SREP_PMA.put (b2n f.pma) + Lay.SREP_PORT.put f.port +
    Lay.SREP_STEP_COUNT.put f.steps

/-- Content for the delivery ring (R368): the report, and for a frame its bytes without FCS; without a buffer it is discarded, and (DESIGN CHOICE, log
entry 184) in one that is too short too, with HIF_ERR [1]. -/
def Chip.toDelivery (c : Chip) (rep : Nat) (frame : Option Bytes) : Chip :=
  let h := c.hif
  let lost := fun (c : Chip) => if frame.isSome then c.count Ev.DLV_DROP else c.incSat Reg.STAMP_OVF
  if !h.dlv.en then lost c
  else match h.dlvRoom with
    | [] => lost c
    | room :: rooms =>
      let c1 := { c with hif := { h with dlvRoom := rooms, dlv := { h.dlv with head := (h.dlv.head + 1) % max 1 h.dlv.size } } }
      let b := bytesOfNatLE 48 rep ++ frame.getD []
      if room < b.length then (lost c1).hifErr 1 else (c1.emit (.ringWrite 2 h.dlv.head b)).emit (.msix 1)

/-- A trapped frame of a class set in HOST_TRAP, passed on to the host as received (R368); MGT discards what is not its own (R73). -/
def Chip.hostCopy (c : Chip) (f : Frame) (cls : Nat) : Chip :=
  if f.port ≠ 512 ∧ bitOf (c.rd Reg.HOST_TRAP) cls then c.toDelivery f.rxReport (some (f.inner 0)) else c

/-- A stamp report handed over: to the host for its injected frames, else to the stamp queue of 4,096 (R182). -/
def Chip.report (c : Chip) (f : Frame) (rep : Nat) : Chip :=
  if f.origin = .injected then c.toDelivery rep none
  else if 4096 ≤ c.path.reports.length then c.incSat Reg.STAMP_OVF
  else { c with path := { c.path with reports := c.path.reports ++ [rep] } }

/-- Whether a sent target makes a report. -/
def Chip.reports (c : Chip) (f : Frame) (t : Tgt) : Bool :=
  t.tag.isSome || (t.ptpAt != 0 && f.origin == .received && t.ses.isNone && decide (t.port < 512) && c.rd Reg.TS_CFG_TC_MODE t.port == 3)

/-- TX_FRAME_END: the frame on the lane has left; its counters, its report, its reference. A cut-through frame's end waits for its
confirmation. DESIGN CHOICE (log entry 158): a preemptable frame sent whole counts one PREEMPT_FRAG_TX. -/
def Chip.txFrameEnd (p : Nat) (c : Chip) : Chip :=
  let s := c.portSt p
  if s.ctl then ((((c.gapAfter p).updPort p fun s => { s with ctl := false }).emit (.txEnd p)).idleCheck p)
  else match s.tx with
    | none => c
    | some (id, k) =>
      match c.frameOf id, c.tgtOf id k with
      | some f, some t =>
        if f.res ≠ 1 then c
        else
          let c := c.takeArrived
          let len := t.body.length + 4
          let c1 := (c.count Ev.TX_FRAMES p len).count Ev.TX_Q_FRAMES t.queue len
          let c2 := if c.preemptable p (t.queue % 8) && t.launch.isNone then c1.count Ev.PREEMPT_FRAG_TX p else c1
          let c3 := if c.reports f t then c2.report f (c.txReport p f t) else c2
          ((((c3.gapAfter p).updPort p fun s => { s with tx := none }).emit (.txEnd p)).dropTgt id k).idleCheck p
      | _, _ => c

/-! ### Timers of a port -/

/-- SHAPER_WAKE: the calendar finds a waiting queue whose eligible time is reached (R114). -/
def Chip.shaperWake (q : Nat) (c : Chip) : Chip := c.calEnter q

/-- RED_AVG_UPDATE: the averages of queues with a profile, once every 256 ticks, from the confirmed depth, truncated toward zero (R103). -/
def Chip.redUpdate (c : Chip) : Chip :=
  if c.now / 65536 ≤ c.path.redN then c
  else Chip.each { c with path := { c.path with redN := c.now / 65536 } } ((List.range 4096).filter fun q => c.rd Reg.Q_BUF_RED_PROF q != 0) fun q c =>
    let w := c.rd Reg.RED_PROF_W 0 (3 * c.rd Reg.Q_BUF_RED_PROF q)
    let d := c.depthShown q * 65536
    let avg := SMap.get c.path.redAvg q
    let new := if avg ≤ d then avg + (d - avg) / 2 ^ w else avg - (avg - d) / 2 ^ w
    { c with path := { c.path with redAvg := SMap.set c.path.redAvg q new } }

/-- PFC_REPEAT: the flow-control frame is due again every 32,768 quanta while XOFF lasts (R101). -/
def Chip.pfcRepeat (p : Nat) (c : Chip) : Chip :=
  let x := c.rd Reg.IN_STAT_XOFF p
  if x ≠ 0 ∧ !c.fabPort p ∧ (c.portSt p).fcLast + 32768 * (512 * 100000 / max 1 (c.rate p)) ≤ c.now then
    (c.updPort p fun s => { s with fcDue := some (s.fcDue.getD 0 ||| x) }).wakePort p else c

/-- Preemption of a port as its configuration now has it (R123). -/
def Chip.preemptReset (c : Chip) (p : Nat) : Chip :=
  let en := c.on Reg.SCHED_CFG_PREEMPT_EN p
  let dis := c.on Reg.SCHED_CFG_VERIFY_DIS p
  ((c.flag Reg.SCHED_STAT_PREEMPT_ACTIVE (en && dis) p).wr Reg.SCHED_STAT_VERIFY_STATE (if en && !dis then 1 else 0) p).updPort p fun s =>
    { s with verTries := 0, verAt := c.now }

/-- VERIFY_TIMER: up to 3 verify frames at intervals of VERIFY_MS; after 3 unanswered ones verification has failed (R123). -/
def Chip.verifyTimer (p : Nat) (c : Chip) : Chip :=
  let st := c.rd Reg.SCHED_STAT_VERIFY_STATE p
  let s := c.portSt p
  let due := st == 1 || decide (s.verAt + unitsMs (c.rd Reg.SCHED_CFG_VERIFY_MS p) ≤ c.now)
  if (st ≠ 1 ∧ st ≠ 2) ∨ !due ∨ !c.linkUp p then c
  else if s.verTries < 3 then
    ((c.wr Reg.SCHED_STAT_VERIFY_STATE 2 p).updPort p fun s => { s with verTries := s.verTries + 1, verAt := c.now, verDue := true }).wakePort p
  else (c.wr Reg.SCHED_STAT_VERIFY_STATE 4 p).count Ev.VERIFY_FAIL p

/-- GATE_ENTRY_CHANGE: the list of a port stands at another entry (R117, R118). -/
def Chip.gateEntryChange (p : Nat) (c : Chip) : Chip := (c.gateChange p).gateStatus p

/-- FAB_CREDIT_SEND: a credit frame becomes due while a return is unreported, and every 1 ms (R325). -/
def Chip.fabCreditSend (p : Nat) (c : Chip) : Chip :=
  let unreported := (List.range 8).any fun k => SMap.get c.path.credRet (p * 8 + k) != SMap.get c.path.credRep (p * 8 + k)
  if c.fabUp p ∧ c.rd Reg.FC_CFG_FC_MODE p = 3 ∧ (unreported ∨ SMap.get c.path.credAt p + unitsMs 1 ≤ c.now) then
    (c.updPort p fun s => { s with credDue := true }).wakePort p else c

/-- FAB_CREDIT_WD_DROP: a lossless frame that has waited CREDIT_WD ms at its queue's head without credit is dropped (R326). -/
def Chip.creditWatchdog (q : Nat) (c : Chip) : Chip :=
  match c.head q with
  | none => c
  | some (id, k) =>
    match c.frameOf id, c.tgtOf id k with
    | some f, some t =>
      let p := t.port
      if c.credited p (q % 8) && f.res == 1 && decide (c.credit p (q % 8) < cellsOf (t.body.length + 4)) &&
          decide (t.headAt + unitsMs (c.rd Reg.FAB_PORT_CFG_CREDIT_WD p) ≤ c.now) then
        (c.takeArrived.count Ev.FAB_CREDIT_WD_DROP p).dropTgt id k
      else c
    | _, _ => c

end Sys2Proof.Machine
end

