-- ==== Sys2Proof/Machine/Phase.lean ====
section
/-! DEFINITION. The time-to-digital converters and the phase monitors (R184 to R191, 09_phase_and_events.md). Monitors are numbered 0
to 511 for the lanes and 512 to 519 for the reference inputs. -/

namespace Sys2Proof.Machine

/-! ### TDC channels -/

/-- Channels of the device (R184). -/
def tdcCount : Nat := 1104

/-- TDC_STATUS and the lock bits of the users of a channel brought up to date (R187). -/
def Chip.showTdc (c : Chip) (ch : Nat) : Chip :=
  let locked := SMap.get c.tdc ch
  let un := tdcCount - c.tdc.length
  let first := ((List.range tdcCount).find? fun k => !SMap.get c.tdc k).getD 0
  let c1 := ((c.flag Reg.TDC_STATUS_ANY_UNLOCKED (un != 0)).wr Reg.TDC_STATUS_UNLOCKED_COUNT un).wr Reg.TDC_STATUS_FIRST_UNLOCKED first
  if ch < 512 then c1.flag Reg.PHM_STATUS_TDC_LOCK locked ch
  else if ch < 1024 then c1
  else if ch < 1032 then c1.flag Reg.RPHM_STATUS_TDC_LOCK locked (ch - 1024)
  else if ch < 1064 then c1.flag Reg.EVI_STATUS_TDC_LOCK locked (ch - 1032)
  else if ch < 1096 then c1.flag Reg.EVO_STATUS_TDC_LOCK locked (ch - 1064 + 32)
  else c1

/-- The monitor of a channel. -/
def chMonitor (ch : Nat) : Option Nat := if ch < 512 then some ch else if 1024 ≤ ch ∧ ch < 1032 then some (ch - 512) else none

/-- A channel locks or unlocks (R187): unlocking is latched and notified; a monitor waits for its next edge from here on (R191). -/
def Chip.tdcSet (ch : Nat) (locked : Bool) (c : Chip) : Chip :=
  if tdcCount ≤ ch ∨ SMap.get c.tdc ch = locked then c
  else
    let c1 := ({ c with tdc := SMap.set c.tdc ch locked }).showTdc ch
    if locked then match chMonitor ch with
      | some m => { c1 with phms := SMap.upd c1.phms m fun p => { p with seenAt := c.now } }
      | none => c1
    else (c1.flag Reg.TDC_STATUS_UNLOCK_SEEN true).notify Nt.TDC_UNLOCK Cls.DEV 0 0x40

/-- TDC_LOCK_CHANGE (R186): the errors of a channel's coarse and vernier loops in raw steps, as they stand from here on. A channel is locked once
both have stayed within one step for 4,096 ticks, and unlocked as soon as one leaves it (log entry 166). -/
def Chip.tdcChange (ch : Nat) (coarse vernier : Int) (c : Chip) : Chip :=
  let from_ := SMap.get c.time.tdcFrom ch
  let ticks := c.rd Reg.TICKS
  if coarse.natAbs ≤ 1 ∧ vernier.natAbs ≤ 1 then
    if from_ = 0 then { c with time := { c.time with tdcFrom := SMap.set c.time.tdcFrom ch (ticks + 1) } }
    else if from_ + 4095 ≤ ticks then c.tdcSet ch true
    else c
  else { c with time := { c.time with tdcFrom := SMap.set c.time.tdcFrom ch 0 } }.tdcSet ch false

/-! ### Phase monitors -/

/-- The registers of a monitor. -/
structure PhmRegs where
  en : Fld
  decim : Fld
  win : Fld
  phase : Fld
  freq : Fld
  grid : Fld
  los : Fld
  losSeen : Fld
  gridValid : Fld
  freqValid : Fld
  restarts : Fld
  inst : Nat

def phmRegs (m : Nat) : PhmRegs :=
  if m < 512 then
    { en := Reg.PHM_CFG_EN, decim := Reg.PHM_CFG_DECIM_LOG2, win := Reg.PHM_CFG_WIN_LOG2, phase := Reg.PHM_PHASE, freq := Reg.PHM_FREQ
      grid := Reg.PHM_GRID, los := Reg.PHM_STATUS_LOS, losSeen := Reg.PHM_STATUS_LOS_SEEN, gridValid := Reg.PHM_STATUS_GRID_VALID
      freqValid := Reg.PHM_STATUS_FREQ_VALID, restarts := Reg.PHM_STATUS_RESTARTS, inst := m }
  else
    { en := Reg.RPHM_CFG_EN, decim := Reg.RPHM_CFG_DECIM_LOG2, win := Reg.RPHM_CFG_WIN_LOG2, phase := Reg.RPHM_PHASE_PHM_PHASE
      freq := Reg.RPHM_FREQ_PHM_FREQ, grid := Reg.RPHM_GRID_PHM_GRID, los := Reg.RPHM_STATUS_LOS, losSeen := Reg.RPHM_STATUS_LOS_SEEN
      gridValid := Reg.RPHM_STATUS_GRID_VALID, freqValid := Reg.RPHM_STATUS_FREQ_VALID, restarts := Reg.RPHM_STATUS_RESTARTS
      inst := m - 512 }

/-- The TDC channel of a monitor. -/
def phmChannel (m : Nat) : Nat := if m < 512 then m else 1024 + (m - 512)

/-- The observed frequency of a monitor in Hz as a fraction: 156.25 MHz for a lane, NOM_HZ ÷ DIV for an input (R188, R189). -/
def Chip.phmHz (c : Chip) (m : Nat) : Nat × Nat :=
  if m < 512 then (156250000, 1) else (c.rd Reg.REF_IN_CFG_NOM_HZ (m - 512), max 1 (c.rd Reg.REF_IN_CFG_DIV (m - 512)))

/-- P_nom in 2^-40 ns (R189). -/
def Chip.phmPnom (c : Chip) (m : Nat) : Nat :=
  let (f, d) := c.phmHz m
  divRound (d * nsPerS * 2 ^ 40) (max 1 f)

/-- GRID of a timebase time (R190), 2^-16 ns: none unless a second is a whole number of periods. -/
def Chip.phmGrid (c : Chip) (m : Nat) (t : Int) : Option Int :=
  let (f, d) := c.phmHz m
  if f % d ≠ 0 ∨ f = 0 then none
  else
    let s := nsPerS * 65536
    let x := (t % (s : Int)).toNat
    let j := divRound (x * (f / d)) s
    some ((x : Int) - divRound (j * s) (f / d))

/-- The monitor of a reference: a reference input's, the nominated lane's, or the twin link's (30, R338; log entry 28). -/
def Chip.refMonitor (c : Chip) (ref : Nat) : Nat :=
  if ref < 8 then 512 + ref else if ref = 30 then c.rd Reg.TWIN_CFG_LINK_PORT else c.rd Reg.REF_CFG_LANE ref

/-- Whether a monitor samples for the detector doubling of DPLL0 (R209). -/
def Chip.phmDouble (c : Chip) (m : Nat) : Bool :=
  c.rd Reg.SYN_CFG_REF_MULT 0 == 1 && c.rd Reg.SEL_STATUS_FREF != 31 && c.refMonitor (c.rd Reg.SEL_STATUS_FREF) == m

/-- Observed edges between samples: 2^DECIM_LOG2, half of them on a lane with detector doubling (R190, R209). -/
def Chip.phmEvery (c : Chip) (m : Nat) : Nat :=
  let d := c.rd (phmRegs m).decim (phmRegs m).inst
  if m < 512 ∧ c.phmDouble m then 2 ^ (d - 1) else 2 ^ d

/-- Half periods from one observed edge to the next: 2, and 1 on a reference input of which both edges are stamped (R209). -/
def Chip.phmHalves (c : Chip) (m : Nat) : Nat := if 512 ≤ m ∧ c.phmDouble m then 1 else 2

/-- Four expected intervals between samples (R191), in units of 10 ps. -/
def Chip.phmWait (c : Chip) (m : Nat) : Nat :=
  let (f, d) := c.phmHz m
  ceilDiv (2 * c.phmHalves m * c.phmEvery m * d * unitsS 1) (max 1 f)

/-- A monitor's state rewritten. -/
def Chip.setPhm (c : Chip) (m : Nat) (p : Phm) : Chip := { c with phms := SMap.set c.phms m p }

/-- A restart (R191): PHASE, the block and n return to 0, RESTARTS increments. -/
def Chip.phmRestart (c : Chip) (m : Nat) : Chip :=
  let R := phmRegs m
  let c1 := ((c.wr R.phase 0 R.inst).incSat R.restarts 1 R.inst).flag R.freqValid false R.inst
  { c1 with phmOld := SMap.set c1.phmOld m {} }.setPhm m { seenAt := c.now, stampC := (SMap.get c.phms m).stampC }

/-- GRID and GRID_VALID of a sample. -/
def Chip.showGrid (c : Chip) (m : Nat) (edge : Int) : Chip :=
  let R := phmRegs m
  match c.phmGrid m edge with
  | some g => (c.wrS R.grid g R.inst).flag R.gridValid true R.inst
  | none => c.flag R.gridValid false R.inst

/-- The first sample after a restart: n = 0 and PHASE = 0. -/
def Chip.phmFirst (c : Chip) (m : Nat) (x : Fine) : Chip :=
  let edge := c.edgeTime (phmChannel m) x
  let c1 := c.setPhm m { live := true, c0 := c.edgeCont (phmChannel m) x, g0 := c.gridTime (phmChannel m) x, got := 1, seenAt := c.now
                         stampC := (SMap.get c.phms m).stampC }
  c1.showGrid m edge

/-- FREQ of a stretch of samples in 0.001 ppb (R190), its edge indices in half periods. -/
def phmFreq (dPhase dn : Int) (pnom : Nat) : Int :=
  let den := dn.natAbs * pnom
  if den = 0 then 0 else divRoundS (-(dPhase * 10 ^ 12 * 2 ^ 25) * (if dn < 0 then -1 else 1)) den

/-- Whether a monitor runs and has signal. -/
def Chip.phmRuns (c : Chip) (m : Nat) : Bool := decide (m < 520) && c.on (phmRegs m).en (phmRegs m).inst && !c.on (phmRegs m).los (phmRegs m).inst

/-- Whether a frame stamp takes the lane's receive channel at an edge: it lies within 5.12 ns of it (R188; log entry 167). -/
def Chip.phmClash (c : Chip) (m : Nat) (x : Fine) : Bool :=
  match (SMap.get c.phms m).stampC with
  | some s => decide ((c.edgeCont (phmChannel m) x - s).natAbs * 100 ≤ near512)
  | none => false

/-- Whether a monitor samples an edge, the last of `edges` observed since the previous PHM_SAMPLE: the first edge of all, or the one that completes
2^DECIM_LOG2, with its channel locked and free (R188, R190, R191). -/
def Chip.phmTakes (c : Chip) (m edges : Nat) (x : Fine) : Bool :=
  let p := SMap.get c.phms m
  c.phmRuns m && edges != 0 && SMap.get c.tdc (phmChannel m) && (!p.live || decide (c.phmEvery m ≤ p.obs + edges)) && !c.phmClash m x

/-- What a lane's monitor shows, kept until the next sample for a frame stamp that takes the channel after all (R188): as the edge skipped would leave it,
with the next one due. -/
def Chip.phmKeep (c : Chip) (m : Nat) (x : Fine) : Chip :=
  if m < 512 then
    let p := SMap.get c.phms m
    { c with phmOld := SMap.set c.phmOld m {
        held := true, cont := c.edgeCont m x, phm := { p with seenAt := c.now, obs := c.phmEvery m }
        phase := c.rd Reg.PHM_PHASE m, freq := c.rd Reg.PHM_FREQ m, grid := c.rd Reg.PHM_GRID m
        gridValid := c.on Reg.PHM_STATUS_GRID_VALID m, freqValid := c.on Reg.PHM_STATUS_FREQ_VALID m } }
  else c

/-- A further sample (R190): PHASE, the block's FREQ, GRID, and its phase error on the tick grid for DPLL0 (R206). -/
def Chip.phmNext (c : Chip) (m : Nat) (y : Fine) : Chip :=
  let R := phmRegs m
  let p := SMap.get c.phms m
  let edge := c.edgeTime (phmChannel m) y
  let pn := c.phmPnom m
  let h := c.phmHalves m
  let x := c.edgeCont (phmChannel m) y - p.c0
  let n := h * divRoundS ((x - p.phase) * 2 ^ 25) (max 1 (h * pn))
  let ph := x - divRoundS (n * pn) (2 ^ 25)
  let c1 := c.wrS R.phase ph R.inst
  let cnt := p.cnt + 1
  let full := decide (2 ^ c.rd R.win R.inst ≤ cnt)
  let c2 := if full then
      (c1.wrS R.freq (satS 32 (phmFreq (ph - p.blkPhase) (n - p.blkN) pn)) R.inst).flag R.freqValid true R.inst
    else c1
  (c2.showGrid m edge).setPhm m { p with
    n := n, phase := ph, seenAt := c.now, obs := 0, cnt := if full then 0 else cnt
    blkPhase := if full then ph else p.blkPhase
    blkN := if full then n else p.blkN
    gridErr := divRoundS (n * pn * 25 - (c.gridTime (phmChannel m) y - p.g0) * 2 ^ 25) (25 * 2 ^ 25)
    got := p.got + 1 }

/-- PHM_SAMPLE (R190): the monitor observes edges, the last of them where `x` says; an edge it does not sample is counted. -/
def Chip.phmSample (m edges : Nat) (x : Fine) (c : Chip) : Chip :=
  if !c.phmRuns m ∨ edges = 0 then c
  else if c.phmTakes m edges x then (if (SMap.get c.phms m).live then (c.phmKeep m x).phmNext m x else (c.phmKeep m x).phmFirst m x)
  else c.setPhm m { SMap.get c.phms m with seenAt := c.now, obs := (SMap.get c.phms m).obs + edges }

/-- PHM_LOS (R191): no edge within four expected intervals between samples; an unlocked channel declares none. -/
def Chip.phmLos (m : Nat) (c : Chip) : Chip :=
  let R := phmRegs m
  if !c.phmRuns m ∨ !SMap.get c.tdc (phmChannel m) ∨ c.now < (SMap.get c.phms m).seenAt + c.phmWait m then c
  else (c.flag R.los true R.inst).flag R.losSeen true R.inst

/-- PHM_RESTART (R191): the first edge after LOS; where a frame stamp has the channel, the next one is the first sample (R188). -/
def Chip.phmAgain (m : Nat) (x : Fine) (c : Chip) : Chip :=
  let R := phmRegs m
  if 520 ≤ m ∨ !c.on R.en R.inst ∨ !c.on R.los R.inst ∨ !SMap.get c.tdc (phmChannel m) then c
  else
    let c1 := (c.flag R.los false R.inst).phmRestart m
    if c1.phmClash m x then c1 else (c1.phmKeep m x).phmFirst m x

/-- The limits of a reference input's configuration (R189): a divided edge rate of at most 25 MHz, PPS inputs only at 1 Hz. -/
def refInOk (inst hz div : Nat) : Bool := decide (hz ≤ 25000000 * div) && (decide (inst < 4) || (hz == 1 && div == 1))

/-- Whether a reference monitor's DECIM_LOG2 keeps it to 12.5 M samples/s (R190). -/
def Chip.decimOk (c : Chip) (inst : Nat) : Bool :=
  decide (c.rd Reg.REF_IN_CFG_NOM_HZ inst ≤ 12500000 * c.rd Reg.REF_IN_CFG_DIV inst * 2 ^ c.rd Reg.RPHM_CFG_DECIM_LOG2 inst)

end Sys2Proof.Machine
end

