-- ==== Sys2Proof/Machine/Event.lean ====
section
/-! DEFINITION. Event inputs, interval units, event outputs and pulse outputs (R192 to R204, 09_phase_and_events.md; R224, R225,
10_synthesizers.md). Times are in 2^-16 ns; a 2^-10 ns quantity is 64 of them. -/

namespace Sys2Proof.Machine

/-! ### Event inputs -/

/-- 20 ns in 2^-16 ns. -/
def ns20 : Nat := 1310720

/-- An event input's state rewritten. -/
def Chip.updEvi (c : Chip) (n : Nat) (f : Evi → Evi) : Chip := { c with evis := SMap.upd c.evis n f }

/-- T_edge − D_IN − IN_DELAY with fraction bits [5:0] zero (R193). -/
def Chip.eviTime (c : Chip) (n : Nat) (edge : Int) : Int := (edge - (Config.trimIn n).toInt * 64 - c.rdS Reg.EVI_DELAY n * 64) / 64 * 64

/-- The stamp of R193; a free value while the channel is unlocked (R187). -/
def Chip.eviStamp (c : Chip) (n : Nat) (edge : Int) : Int × Chip :=
  if SMap.get c.tdc (1032 + n) then (c.eviTime n edge, c)
  else
    let (k, c1) := c.draw
    (((Config.freeStamp k).toNat * 64 : Nat), c1)

/-- Whether the level after an edge, held for whole ticks, passes the glitch filter: MIN_PULSE rounded up to ticks (R192). -/
def Chip.eviHeld (c : Chip) (n hold : Nat) : Bool := decide (c.rd Reg.EVI_CFG_MIN_PULSE n * 100 ≤ hold * 256)

/-- An edge at an input (R192): the record of an accepted one, and the block with the level and the counts. `hold` tells for how many ticks the
level holds after the edge. An edge within 20 ns of the last one the channel took is not taken by it (R185). -/
def Chip.eviEdge (c : Chip) (n : Nat) (rising : Bool) (hold : Nat) (x : Fine) : Option Nat × Chip :=
  let sel := c.rd Reg.EVI_CFG_EDGE n
  let held := c.eviHeld n hold
  let edge := c.edgeTime (1032 + n) x
  let cc := c.edgeCont (1032 + n) x
  let at_ := c.atEdge x
  let near := match (SMap.get c.evis n).edgeC with
    | some e => decide (cc - e < (ns20 : Nat))
    | none => false
  let c := c.flag Reg.EVI_STATUS_LEVEL (rising == held) n
  let c0 := if sel = 0 ∨ near = true then c else c.updEvi n fun x => { x with edgeC := some cc }
  if sel = 0 ∨ (sel = 1 ∧ !rising) ∨ (sel = 2 ∧ rising) then (none, c0)
  else if !held then (none, c0.count Ev.EVI_GLITCH n)
  else
    let (t, c1) := c0.eviStamp n edge
    let x := SMap.get c1.evis n
    let dead := c1.rd Reg.EVI_CFG_DEADTIME n * 100
    if near = true ∨ (x.seen ∧ cc - x.lastC < (dead * 65536 : Nat)) then (none, c0.count Ev.EVI_DEAD n)
    else
      let seq := (x.seq + 1) % 256
      let rec_ := Lay.EVREC_TIME.put (time96 t.toNat) + Lay.EVREC_EDGE.put (b2n (!rising)) +
        Lay.EVREC_INVALID.put (b2n (!SMap.get c1.tdc (1032 + n))) + Lay.EVREC_INPUT.put n +
        Lay.EVREC_STEP_COUNT.put (at_.rd Reg.TIME_STATUS_STEP_COUNT) + Lay.EVREC_SEQ.put seq
      (some rec_, c1.updEvi n fun x => { x with
        seq := seq, seen := true, lastC := cc, stampC := c.eviTime n edge - at_.rdS Reg.STEP_SUM })

/-- A record of a host-owned input (R195). -/
def Chip.eviStore (c : Chip) (n rec_ : Nat) : Chip :=
  let x := SMap.get c.evis n
  if 256 ≤ x.fifo.length then (c.count Ev.EVI_LOST n).updEvi n fun x => { x with ovf := true }
  else
    let r := if x.ovf then rec_ + Lay.EVREC_OVF_BEFORE.put 1 else rec_
    let fill := x.fifo.length + 1
    let c1 := (c.updEvi n fun x => { x with fifo := x.fifo ++ [r], ovf := false }).wr Reg.EVI_STATUS_FILL fill n
    if fill = 128 ∧ c.on Reg.EVI_CFG_NOTIFY n then c1.notify Nt.EVI_HALF_FULL Cls.EVT n 0x03 else c1

/-- EVI_FIFO (R195): up to 64 records, oldest first, are returned and removed. -/
def Chip.eviRead (c : Chip) (n : Nat) : List Nat × Chip :=
  let x := SMap.get c.evis n
  let rest := x.fifo.drop 64
  (x.fifo.take 64, (c.updEvi n fun x => { x with fifo := rest }).wr Reg.EVI_STATUS_FILL rest.length n)

/-! ### Intervals (R196 to R198) -/

def Chip.updIvl (c : Chip) (u : Nat) (f : Ivl → Ivl) : Chip := { c with ivls := SMap.upd c.ivls u f }

/-- A start edge that found no stop edge, or a gap above WIN. -/
def Chip.ivlMissing (c : Chip) (u : Nat) : Chip := (c.count Ev.IVL_MISSING u).updIvl u fun x => { x with miss := x.miss + 1 }

/-- A block published (R198). -/
def Chip.ivlPublish (c : Chip) (u : Nat) (s : IvlEdge) : Chip :=
  let x := SMap.get c.ivls u
  let n := x.n
  let mean := divRoundS (x.sum * 64) n
  let var := (n : Int) * x.sq - x.sum * x.sum
  let sd := if n ≤ 1 then 0 else isqrt (var.toNat * 4096 / (n * (n - 1)))
  let ns := s.t / 65536
  let c1 := ((((c.wr Reg.IVL_STATS_N n u).wr Reg.IVL_STATS_COINCIDENT_CNT (satU 16 x.coin) u).wr Reg.IVL_STATS_ORDER_CNT (satU 16 x.ord) u).wr
    Reg.IVL_STATS_MISSING_CNT (satU 16 x.miss) u).wrS Reg.IVL_STATS_MEAN mean u
  let c2 := ((((c1.wr Reg.IVL_STATS_SD sd u).wrS Reg.IVL_STATS_MIN x.mn u).wrS Reg.IVL_STATS_MAX x.mx u).wr Reg.IVL_STATS_END_SEC
    (ns / nsPerS) u).wr Reg.IVL_STATS_END_NS (ns % nsPerS) u
  let c3 := c2.updIvl u fun x => { x with n := 0, coin := 0, ord := 0, miss := 0, sum := 0, sq := 0, mn := 0, mx := 0 }
  if c.on Reg.EVI_CFG_NOTIFY u then c3.notify Nt.IVL_BLOCK Cls.EVT u 0x13 else c3

/-- A sample (R197): continuous times' difference in 2^-10 ns into the FIFO and the block. Samples of invalid stamps are discarded. -/
def Chip.ivlSample (c : Chip) (u : Nat) (start stop : IvlEdge) (of_ : IvlEdge) : Chip :=
  if start.bad ∨ stop.bad then c
  else
    let v := divRoundS (stop.c - start.c) 64
    let x := SMap.get c.ivls u
    let seq := (x.seq + 1) % 65536
    let r := Lay.IVREC_VALUE.put (encS 64 v) + Lay.IVREC_START_NS.put (of_.t / 65536 % nsPerS) + Lay.IVREC_COINCIDENT.put (b2n (v == 0)) +
      Lay.IVREC_ORDER.put (b2n (decide (v < 0))) + Lay.IVREC_SEQ.put seq
    let c1 := c.updIvl u fun x =>
      { x with
        seq := seq, fifo := if 64 ≤ x.fifo.length then x.fifo else x.fifo ++ [r]
        n := x.n + 1, coin := x.coin + b2n (v == 0), ord := x.ord + b2n (decide (v < 0)), sum := x.sum + v, sq := x.sq + (v * v).toNat
        mn := if x.n = 0 then v else min x.mn v
        mx := if x.n = 0 then v else max x.mx v }
    if c.rd Reg.IVL_CFG_N u ≤ x.n + 1 then c1.ivlPublish u of_ else c1

/-- Edges in time order: after those that are not later. -/
def insertEdge (e : IvlEdge) (l : List IvlEdge) : List IvlEdge :=
  (l.takeWhile fun x => decide (x.c ≤ e.c)) ++ e :: l.dropWhile fun x => decide (x.c ≤ e.c)

/-- An accepted edge of an input that an interval unit owns (R194, R196). -/
def Chip.ivlEdge (c : Chip) (n rec_ : Nat) : Chip :=
  let u := c.rd Reg.EVI_CFG_OWNER_ID n
  let t := timeOf96 (Lay.EVREC_TIME.get rec_)
  let e : IvlEdge := { c := (SMap.get c.evis n).stampC, t := t, bad := Lay.EVREC_INVALID.get rec_ == 1 }
  let falling := Lay.EVREC_EDGE.get rec_
  if 31 < u ∨ !c.on Reg.IVL_CFG_EN u then c
  else if c.on Reg.IVL_CFG_MODE u then
    if n ≠ u ∨ falling ≠ c.rd Reg.IVL_CFG_START_EDGE u then c
    else
      let x := SMap.get c.ivls u
      let c1 := c.updIvl u fun x => { x with last := some e }
      match x.last with
      | none => c1
      | some s => if (c.rd Reg.IVL_WIN u * 65536 : Nat) < e.c - s.c then c1.ivlMissing u else c1.ivlSample u s e e
  else
    let c1 := if n = u ∧ falling = c.rd Reg.IVL_CFG_START_EDGE u then c.updIvl u fun x => { x with starts := insertEdge e x.starts } else c
    if n = c.rd Reg.IVL_CFG_STOP u ∧ falling = c.rd Reg.IVL_CFG_STOP_EDGE u then c1.updIvl u fun x => { x with stops := insertEdge e x.stops }
    else c1

/-- The unpaired stop edge nearest to a start, the earlier on a tie, within WIN (R196). -/
def nearestStop (win : Nat) (s : IvlEdge) (l : List IvlEdge) : Option IvlEdge :=
  (l.filter fun t => decide ((t.c - s.c).natAbs ≤ win)).foldl (fun b t => match b with
    | none => some t
    | some x => if (t.c - s.c).natAbs < (x.c - s.c).natAbs ∨ ((t.c - s.c).natAbs = (x.c - s.c).natAbs ∧ t.c < x.c) then some t else b) none

/-- Stop edges that no start edge can still take count IVL_UNPAIRED (R196). -/
def Chip.ivlDropStops (c : Chip) (u : Nat) : Chip :=
  let win := c.rd Reg.IVL_WIN u * 65536
  let x := SMap.get c.ivls u
  let (stay, go) := x.stops.partition fun t =>
    decide (c.cont16 ≤ t.c + win) || x.starts.any fun s => decide ((t.c - s.c).natAbs ≤ win)
  (c.updIvl u fun x => { x with stops := stay }).each go fun _ c => c.count Ev.IVL_UNPAIRED u

/-- IVL_PAIR_DECIDE (R196): the oldest start edge once C(s) + WIN has passed. -/
def Chip.ivlDecide (u : Nat) (c : Chip) : Chip :=
  if !c.on Reg.IVL_CFG_EN u || c.on Reg.IVL_CFG_MODE u then c
  else
    let win := c.rd Reg.IVL_WIN u * 65536
    match (SMap.get c.ivls u).starts with
    | [] => c.ivlDropStops u
    | s :: l =>
      if c.cont16 ≤ s.c + win then c.ivlDropStops u
      else
        let c1 := c.updIvl u fun x => { x with starts := l }
        match nearestStop win s (SMap.get c1.ivls u).stops with
        | none => (c1.ivlMissing u).ivlDropStops u
        | some t => ((c1.updIvl u fun x => { x with stops := x.stops.erase t }).ivlSample u s t s).ivlDropStops u

/-- IVL_SAMPLES (R197): all records are returned and removed. -/
def Chip.ivlRead (c : Chip) (u : Nat) : List Nat × Chip := ((SMap.get c.ivls u).fifo, c.updIvl u fun x => { x with fifo := [] })

/-! ### Event outputs (R199 to R204) -/

/-- A tick in 2^-16 ns. -/
def tick16 : Nat := 167772

def Chip.updEvo (c : Chip) (n : Nat) (f : Evo → Evo) : Chip := { c with evos := SMap.upd c.evos n f }

/-- OUT_DELAY and D_OUT of output n in 2^-16 ns: EVT_OUT 0 to 31, PPS_OUT as 32 to 39. -/
def Chip.outLag (c : Chip) (n : Nat) : Int :=
  ((if n < 32 then c.rdS Reg.EVO_DELAY (32 + n) else c.rdS Reg.PPO_DELAY (32 + n)) + (Config.trimOut n).toInt) * 64

/-- QUEUED of an event output. -/
def Chip.showQueued (c : Chip) (n : Nat) : Chip :=
  if n < 32 then c.wr Reg.EVO_STATUS_QUEUED (SMap.get c.evos n).queue.length (32 + n) else c

/-- Requests in time order: after those whose first edge is not later. -/
def insertReq (r : List EvoEdge) (l : List (List EvoEdge)) : List (List EvoEdge) :=
  let at_ := fun (x : List EvoEdge) => (x.head?.map EvoEdge.adj).getD 0
  (l.takeWhile fun x => decide (at_ x ≤ at_ r)) ++ r :: l.dropWhile fun x => decide (at_ x ≤ at_ r)

/-- A request at an event output (R201): queued, or refused with its status and its count. Levels of a pulse are those of IDLE_LEVEL
(log entry 23). -/
def Chip.evoRequest (c : Chip) (n t act width : Nat) : Status × Chip :=
  let idle := c.rd Reg.EVO_CFG_IDLE_LEVEL (32 + n)
  let lag := c.outLag n
  let e1 : EvoEdge := { adj := (t : Int) - lag, t := t, act := if act = 3 then 1 - idle else act }
  let r := if act = 3 then [e1, { adj := e1.adj + (width * 65536 : Nat), t := t + width * 65536, act := idle }] else [e1]
  let q := (SMap.get c.evos n).queue
  if e1.adj < (c.tb16 + ns20 : Nat) then (.timePast, c.count Ev.EVO_LATE (32 + n))
  else if c.tb16 + 1000000000 * 65536 < t then (.badParam, c.count Ev.EVO_FAR (32 + n))
  else if 16 ≤ q.length then (.busy, c.count Ev.EVO_QFULL (32 + n))
  else if r.any fun e => q.flatten.any fun x => decide ((e.adj - x.adj).natAbs * 100 ≤ 512 * 65536) then
    (.resourceConflict, c.count Ev.EVO_CONFLICT (32 + n))
  else (.ok, (c.updEvo n fun x => { x with queue := insertReq r x.queue }).showQueued n)

/-- A level change of an event output at an instant, seen at its pin. -/
def Chip.driveEvo (c : Chip) (n level : Nat) (at_ : Int) : Chip :=
  (c.wr Reg.EVO_STATUS_LEVEL level (32 + n)).emit (.pin 3 n (at_ * 2 + level))

/-- The readback of a placed edge (R204): where its channel finds it at the pad, less T_adj + D_OUT, in 2^-10 ns. -/
def Chip.evoReadback (c : Chip) (n : Nat) (adj : Int) (t : Nat) (pad : Option Fine) : Chip :=
  let ch := if n < 32 then 1064 + n else 1096 + (n - 32)
  match pad with
  | none => c
  | some x =>
    let e := (c.edgeTime ch x - adj) / 64 - (Config.trimOut n).toInt
    if !SMap.get c.tdc ch ∨ (n < 32 ∧ !c.on Reg.EVO_CFG_READBACK_EN (32 + n)) then c
    else
      let c1 := (c.wrS Reg.EVO_READBACK_ERROR (satS 32 e) (32 + n)).wr Reg.EVO_READBACK_REQ_NS (t / 65536 % nsPerS) (32 + n)
      if n < 32 ∧ 50 * 1024 < e.natAbs * 1000 then (c1.flag Reg.EVO_STATUS_PLACE_ERR true (32 + n)).notify Nt.PLACE_ERR Cls.EVT (32 + n) 0x36
      else c1

/-- Whether the outputs rest: in cold standby, and in SHELF, where their blocks are not powered (R225, R337, R418; log entry 204). -/
def Chip.outsOff (c : Chip) : Bool := decide (c.rd Reg.PWR_STATUS_STATE ≤ 1)

/-- One edge placed: a SET to the level already held places none, nor does an output that rests. -/
def Chip.placeEdge (c : Chip) (n : Nat) (e : EvoEdge) (pad : Option Fine) : Chip :=
  let now := c.rd Reg.EVO_STATUS_LEVEL (32 + n)
  let next := if e.act = 2 then 1 - now else e.act
  if next = now ∨ c.outsOff then c else (c.driveEvo n next e.adj).evoReadback n e.adj e.t pad

/-- The first edge of a queue, and the queue without it. -/
def popEdge : List (List EvoEdge) → Option (EvoEdge × List (List EvoEdge))
  | [] => none
  | [] :: l => popEdge l
  | (e :: r) :: l => some (e, if r = [] then l else insertReq r l)

/-- EVO_EDGE_PLACE (R200): the earliest queued edge whose tick has come. -/
def Chip.evoPlace (n : Nat) (pad : Option Fine) (c : Chip) : Chip :=
  match popEdge (SMap.get c.evos n).queue with
  | none => c
  | some (e, q) =>
    if (c.tb16 + tick16 : Nat) ≤ e.adj then c
    else ((c.updEvo n fun x => { x with queue := q }).showQueued n).placeEdge n e pad

/-- The latest instant START + k × PERIOD whose adjusted time lies before the end of this tick (2^-16 ns). -/
def Chip.periodic (c : Chip) (start : Int) (period : Nat) (lag : Int) : Option Int :=
  let p : Int := period * 65536
  let lim := (c.tb16 + tick16 : Nat) + lag - 1
  if period = 0 ∨ lim < start then none else some (start + (lim - start) / p * p)

/-- EVO_PERIODIC_PULSE (R203): the pulse due now; its trailing edge is queued. -/
def Chip.evoPeriodic (n : Nat) (pad : Option Fine) (c : Chip) : Chip :=
  let i := 32 + n
  if c.rd Reg.EVO_CFG_OWNER i ≠ 3 then c
  else match c.periodic (timeOf96 (c.rd Reg.EVO_PER_START i)) (c.rd Reg.EVO_PER_CFG_PERIOD_NS i) (c.outLag n) with
    | none => c
    | some t =>
      if t < (SMap.get c.evos n).perFrom then c
      else
        let idle := c.rd Reg.EVO_CFG_IDLE_LEVEL i
        let adj := t - c.outLag n
        let w := c.rd Reg.EVO_PER_CFG_WIDTH_NS i * 65536
        let c1 := c.placeEdge n { adj := adj, t := t.toNat, act := 1 - idle } pad
        (c1.updEvo n fun x =>
          { x with perFrom := (t + 1).toNat, queue := insertReq [{ adj := adj + w, t := (t + w).toNat, act := idle }] x.queue }).showQueued n

/-- The first periodic instant at least 20 ns ahead is the next one; instants passed over count once (R203, R225). -/
def Chip.periodicStep (old c : Chip) (n : Nat) (start : Int) (period : Nat) : Chip :=
  let lag := c.outLag n
  let p : Int := max 1 (period * 65536)
  let first := fun (x : Int) => if x ≤ start then start else start + (x - start + p - 1) / p * p
  let due := max (first (SMap.get c.evos n).perFrom) (first (old.tb16 + lag))
  let from_ := (c.tb16 : Int) + ns20 + lag
  let c1 := if due < from_ then c.count Ev.EVO_STEP_SKIP (32 + n) else c
  c1.updEvo n fun x => { x with perFrom := from_.toNat }

/-- A timebase step at the event outputs (R202, R203, R225): edges passed over are dropped, and edges that a backward step leaves too far ahead. -/
def Chip.evoStep (old c : Chip) : Chip :=
  let c1 := c.each (List.range 32) fun n c =>
    let q := (SMap.get c.evos n).queue
    if q = [] then c
    else
      let passed := fun (e : EvoEdge) => decide (e.adj < (c.tb16 : Int)) && decide ((old.tb16 : Int) ≤ e.adj)
      let far := fun (e : EvoEdge) => decide (c.tb16 < old.tb16) && decide (c.tb16 + 1000000000 * 65536 < e.t)
      let all := q.flatten
      let q' := (q.map fun r => r.filter fun e => !passed e && !far e).filter fun r => r != []
      let c2 := (c.updEvo n fun x => { x with queue := q' }).showQueued n
      (c2.each (all.filter passed) fun _ c => c.count Ev.EVO_STEP_SKIP (32 + n)).each (all.filter fun e => !passed e && far e) fun _ c => c.count Ev.EVO_FAR (32 + n)
  let c2 := c1.each (List.range 32) fun n c =>
    if c.rd Reg.EVO_CFG_OWNER (32 + n) = 3 then
      Chip.periodicStep old c n (timeOf96 (c.rd Reg.EVO_PER_START (32 + n))) (c.rd Reg.EVO_PER_CFG_PERIOD_NS (32 + n))
    else c
  c2.each (List.range 8) fun m c =>
    if c.on Reg.PPO_CFG_EN (64 + m) then Chip.periodicStep old c (32 + m) (c.rdS Reg.PPO_OFFSET (64 + m) * 64) (c.rd Reg.PPO_PULSE_PERIOD_NS (64 + m)) else c

/-- The periodic generator of an output starts anew: with the first instant whose edge is still ahead (R203, R225). -/
def Chip.periodicFrom (c : Chip) (n : Nat) : Chip := c.updEvo n fun x => { x with perFrom := ((c.tb16 : Int) + c.outLag n).toNat }

/-- An event output holds IDLE_LEVEL (R199, R337). -/
def Chip.evoIdle (c : Chip) (n : Nat) : Chip :=
  if c.rd Reg.EVO_STATUS_LEVEL (32 + n) = c.rd Reg.EVO_CFG_IDLE_LEVEL (32 + n) then c else c.driveEvo n (c.rd Reg.EVO_CFG_IDLE_LEVEL (32 + n)) c.tb16

/-- A committed change of an output's owner or idle level (R199): the old owner's requests are discarded. -/
def Chip.evoOwnerHook (old c : Chip) (i : Nat) : Chip :=
  let n := i - 32
  let c1 := if old.rd Reg.EVO_CFG_OWNER i ≠ c.rd Reg.EVO_CFG_OWNER i ∨
      (c.rd Reg.EVO_CFG_OWNER i = 2 ∧ old.rd Reg.EVO_CFG_OWNER_ID i ≠ c.rd Reg.EVO_CFG_OWNER_ID i) then
    ((c.updEvo n fun x => { x with queue := [] }).periodicFrom n).showQueued n else c
  if c.rd Reg.EVO_CFG_OWNER i = 0 ∨ c.outsOff then c1.evoIdle n else c1

/-- A host's EVO_REQ (R199, R201) with its form: the status and the block. -/
def Chip.evoHost (c : Chip) (i t96 act width : Nat) : Status × List Tlv × Chip :=
  if bitsOf t96 0 6 ≠ 0 ∨ nsPerS ≤ bitsOf t96 16 32 ∨ (act = 3 ∧ (width < 6 ∨ 1073741823 < width)) ∨ (act ≠ 3 ∧ width ≠ 0) then
    (.badParam, [tlvFailObj (objId Cls.EVT i 0x33)], c)
  else if c.rd Reg.EVO_CFG_OWNER i ≠ 1 then
    (.resourceConflict, [tlvClaimant (objId Cls.EVT i 0x31) 0xFFFFFFFF, tlvClaimant (objId Cls.EVT i 0x33) 0xFFFFFFFF], c)
  else
    let (st, c1) := c.evoRequest (i - 32) (timeOf96 t96) act width
    (st, [], c1)

/-! ### Pulse outputs (R224, R225) -/

/-- The form of a pulse output's configuration (R224). -/
def Chip.ppoOk (c : Chip) (i : Nat) : Bool :=
  let p := c.rd Reg.PPO_PULSE_PERIOD_NS i
  let w := c.rd Reg.PPO_PULSE_WIDTH_NS i
  decide (0 < p) && (nsPerS % p == 0 || p % nsPerS == 0) && decide (6 ≤ w) && decide (w + 6 ≤ p) &&
    decide ((c.rdS Reg.PPO_OFFSET i).natAbs < p * 1024)

/-- Whether a pulse output places none: EN = 0, withheld by VALID_ONLY, or at rest (R225). -/
def Chip.ppsOff (c : Chip) (m : Nat) : Bool :=
  !c.on Reg.PPO_CFG_EN (64 + m) || c.outsOff || (c.on Reg.PPO_CFG_VALID_ONLY (64 + m) && !c.on Reg.TIME_STATUS_TB_VALID)

/-- The inactive level of a pulse output, driven where it has changed and where a pulse in progress is cut because no more are placed (R225). -/
def Chip.showPps (c : Chip) (m : Nat) : Chip :=
  let x := SMap.get c.evos (32 + m)
  let idle := b2n (c.on Reg.PPO_CFG_POLARITY (64 + m))
  let cut := c.ppsOff m && decide ((c.tb16 : Int) < x.ends)
  if idle = x.rest ∧ !cut then c
  else (c.updEvo (32 + m) fun x => { x with rest := idle, ends := if cut then 0 else x.ends }).emit (.pin 4 m ((c.tb16 * 2 + idle : Nat) : Int))

/-- PPS_OUT_PULSE (R224, R225): the pulse due now on output m, both its edges at its pin. -/
def Chip.ppsPulse (m : Nat) (lead trail : Option Fine) (c : Chip) : Chip :=
  let i := 64 + m
  let n := 32 + m
  if c.ppsOff m then c
  else
    let off := c.rdS Reg.PPO_OFFSET i * 64
    let p := c.rd Reg.PPO_PULSE_PERIOD_NS i
    let lag := c.outLag n
    match c.periodic (off - (p * 65536 : Nat)) p lag with
    | none => c
    | some t =>
      if t < (SMap.get c.evos n).perFrom ∨ t < 0 then c
      else
        let act : Int := if c.on Reg.PPO_CFG_POLARITY i then 0 else 1
        let w : Int := c.rd Reg.PPO_PULSE_WIDTH_NS i * 65536
        let c1 := (((c.emit (.pin 4 m ((t - lag) * 2 + act))).emit (.pin 4 m ((t - lag + w) * 2 + (1 - act)))).evoReadback n (t - lag) t.toNat
          lead).evoReadback n (t - lag + w) (t + w).toNat trail
        c1.updEvo n fun x => { x with perFrom := (t + 1).toNat, ends := t - lag + w }

end Sys2Proof.Machine
end

