-- ==== Sys2Proof/Machine/Synth.lean ====
section
/-! DEFINITION. The digital PLLs, the ramp generator, the clock outputs and the encoder emulation (R205 to R223, 10_synthesizers.md).
Frequencies are kept in units of 2^-32 · 5^-11 ppb (or Hz in velocity mode), in which a slew of one ppb/s is 2^29 units per tick,
so every ramp is exact (log entry 27). -/

namespace Sys2Proof.Machine

/-- Units per ppb, or per Hz of line frequency. -/
def freqUnit : Nat := 2 ^ 32 * 5 ^ 11

/-- Units a tick may move per unit of slew. -/
def slewTick : Nat := 2 ^ 29

def Chip.dpll (c : Chip) (d : Nat) : Dpll := SMap.get c.dplls d
def Chip.updDpll (c : Chip) (d : Nat) (f : Dpll → Dpll) : Chip := { c with dplls := SMap.upd c.dplls d f }
def Chip.updGen (c : Chip) (d : Nat) (f : Gen → Gen) : Chip := c.updDpll d fun x => { x with gen := f x.gen }

/-- STATE of a loop. -/
def Chip.synState (c : Chip) (d : Nat) : Nat := c.rd Reg.SYN_STATUS_STATE d
def Chip.setSynState (c : Chip) (d s : Nat) : Chip := c.wr Reg.SYN_STATUS_STATE s d

/-- NOM of a loop, 32.32 Hz. -/
def Chip.synNom (c : Chip) (d : Nat) : Nat := if d = 0 then c.rd Reg.SYN_NOM0_SYN_NOM 0 else c.rd Reg.SYN_NOM d

/-! ### Limits (R210, R211) -/

/-- The band in units: ppb in clock mode, 1/64 Hz in velocity mode. -/
def Chip.synBand (c : Chip) (d : Nat) : Int × Int :=
  let u : Int := if c.rd Reg.SYN_CFG_MODE d = 2 then (freqUnit / 64 : Nat) else (freqUnit : Nat)
  (c.rdS Reg.SYN_LIMITS_FLOOR d * u, c.rdS Reg.SYN_LIMITS_CEIL d * u)

/-- A value clipped to the band. -/
def clipTo (b : Int × Int) (x : Int) : Int := max b.1 (min b.2 x)

/-- A value moved toward a goal by at most a step. -/
def moveTo (x goal step : Int) : Int := x + max (-step) (min step (goal - x))

/-- CEIL_HIT after an update that asked for a value outside the band (R210). -/
def Chip.showCeil (c : Chip) (d : Nat) (asked : Int) : Chip :=
  if clipTo (c.synBand d) asked ≠ asked then c.flag Reg.SYN_STATUS_CEIL_HIT true d else c

/-- CEIL_HIT, and BAND_ENTRY of the frequency produced, after an update from `asked` to `now` (R210, R211). -/
def Chip.showBand (c : Chip) (d : Nat) (asked now : Int) : Chip :=
  let b := c.synBand d
  if b.1 ≤ now ∧ now ≤ b.2 then (c.showCeil d asked).flag Reg.SYN_STATUS_BAND_ENTRY false d else c.showCeil d asked

/-- A value in 2^-32 · 5^-11 ppb as units of ADJ, and back (R162). -/
def adjOf (u : Int) : Int := divRoundS (u * 32) (5 ^ 22)
def ofAdj (a : Int) : Int := divRoundS (a * (5 ^ 22 : Nat)) 32

/-! ### The phase target (R206, R215, R220) -/

/-- A phase in ticks of a unit of frequency as 2^-16 ns, and back: the phase that a unit of frequency makes in a tick is 2^-8 · 5^-11 · 10^-11 of it. -/
def phaseUnit : Nat := 2 ^ 8 * 5 ^ 11 * 10 ^ 11

/-- The fractional frequency at which a loop's phase target moves against NOM: ADJ's with FOLLOW_ADJ, and the ramp's. DPLL0 has neither. -/
def Chip.tgtRate (c : Chip) (d : Nat) : Int :=
  if d = 0 then 0 else (if c.on Reg.SYN_CFG_FOLLOW_ADJ d then ofAdj (c.rdS Reg.ADJ) else 0) + (c.dpll d).gen.out

/-- The rate at which ALIGN 1 moves the target for one tick: toward what is left, slow enough to stop there, within slew and band (log entry 168). -/
def Chip.alignRate (c : Chip) (d : Nat) : Int :=
  let x := c.dpll d
  let s := c.rd Reg.SYN_LIMITS_SLEW d * slewTick
  let top : Int := isqrt (2 * s * x.rem.natAbs)
  let v := moveTo x.vel (if 0 ≤ x.rem then top else -top) s
  let base := c.tgtRate d
  let w := clipTo (c.synBand d) (base + v) - base
  if x.rem.natAbs ≤ w.natAbs then x.rem else w

/-- A tick of a loop in its phase stage or in lock: its phase target moves on. -/
def Chip.aimTick (c : Chip) (d : Nat) : Chip :=
  let x := c.dpll d
  let v := if x.rem = 0 then 0 else c.alignRate d
  let step := c.tgtRate d + v
  if !(c.synState d == 3 || c.synState d == 4) ∨ (step = 0 ∧ x.vel = 0) then c
  else c.updDpll d fun x => { x with tgt := x.tgt + step, rem := x.rem - v, vel := if x.rem = v then 0 else v }

/-- Whether a reference may be followed: qualified, or the twin link's of a standby (R18). -/
def Chip.follows (c : Chip) (n : Nat) : Bool := n == 30 || (SMap.get c.car.refs n).qual

/-- The samples of its monitor that an update of DPLL0 takes (R209). -/
def Chip.dpllNeeds (c : Chip) : Nat := if c.rd Reg.SYN_CFG_REF_MULT 0 = 2 then 2 else 1

/-- Whether a loop's detector has an error to give: DPLL0's takes new samples of the selected reference's monitor while that reference may be
followed and its channel is locked (R18, R187, R206). -/
def Chip.detects (c : Chip) (d : Nat) : Bool :=
  let ref := c.rd Reg.SEL_STATUS_FREF
  let m := c.refMonitor ref
  d != 0 || (ref != 31 && c.follows ref && SMap.get c.tdc (phmChannel m) && decide (c.dpllNeeds ≤ (SMap.get c.phms m).got))

/-- The phase error of a loop in 2^-16 ns before its build-out: DPLL0's from its monitor's last sample on the tick grid; another's from its own
detector (`e`, against the tick grid at NOM), and how far its target has moved (R206, R215). -/
def Chip.loopErr (c : Chip) (d : Nat) (e : Int) : Int :=
  if d = 0 then (SMap.get c.phms (c.refMonitor (c.rd Reg.SEL_STATUS_FREF))).gridErr else e + divRoundS (c.dpll d).tgt phaseUnit

/-- DPLL0 has used its monitor's samples. -/
def Chip.usedSamples (c : Chip) (d : Nat) : Chip :=
  if d = 0 then { c with phms := SMap.upd c.phms (c.refMonitor (c.rd Reg.SEL_STATUS_FREF)) fun p => { p with got := 0 } } else c

/-! ### Detector rate and bandwidth (R205, R208, R209) -/

/-- f_pd in Hz as a fraction, after REF_MULT; none for DPLL0 without a reference. -/
def Chip.fpd (c : Chip) (d : Nat) : Option (Nat × Nat) :=
  let mult := fun (x : Nat × Nat) => match c.rd Reg.SYN_CFG_REF_MULT d with
    | 1 => (2 * x.1, x.2)
    | 2 => (x.1, 2 * x.2)
    | _ => x
  if d = 0 then
    let ref := c.rd Reg.SEL_STATUS_FREF
    if ref = 31 then none
    else
      let m := c.refMonitor ref
      let (f, q) := c.phmHz m
      some (mult (f, q * 2 ^ c.rd (phmRegs m).decim (phmRegs m).inst))
  else some (mult (390625000, 32))

/-- SYN_BW_EFF: BW, on DPLL0 at most f_pd ÷ 20 (R208), in mHz. -/
def Chip.showBw (c : Chip) (d : Nat) : Chip :=
  let bw := c.rd Reg.SYN_CFG_BW d
  let eff := if d = 0 then match c.fpd 0 with | some (f, q) => min bw (f * 50 / q) | none => bw else bw
  c.wr Reg.SYN_BW_EFF eff d

/-- SYN_SPUR in 1/64 Hz (R209). -/
def Chip.showSpur (c : Chip) (d : Nat) : Chip :=
  match c.fpd d with
  | none => c.wr Reg.SYN_SPUR 0 d
  | some (f, q) =>
    let r := (c.synNom d * q) % (f * 2 ^ 32)
    c.wr Reg.SYN_SPUR (divRound (min r (f * 2 ^ 32 - r) * 64) (q * 2 ^ 32)) d

/-- z in thousandths, and 2π ÷ (1000 kz) in 2^-60, of a DAMP code (R207, R208). -/
def dampOf : Nat → Nat × Nat
  | 0 => (707, 3519876915657240)
  | 1 => (1000, 2918159170726376)
  | 2 => (2000, 1704810964231485)
  | 3 => (5000, 717230341938823)
  | _ => (8000, 450989564762465)

/-- The proportional term 2·z·wn·e and the integral increment wn²·e ÷ f_pd in units, of an error in 2^-16 ns (R207). -/
def piTerms (bw damp : Nat) (fpd : Nat × Nat) (e : Int) : Int × Int :=
  let (z, k) := dampOf damp
  (divRoundS (2 * z * bw * k * e * (2 ^ 16 * 5 ^ 11)) (1000 * 2 ^ 60),
   divRoundS ((bw * k : Nat) * (bw * k : Nat) * e * ((2 ^ 16 * 5 ^ 11 * fpd.2 : Nat) : Int)) (2 ^ 120 * max 1 fpd.1))

/-! ### Clock outputs (R218 to R221) -/

/-- The loop of CLK_OUTn. -/
def Chip.ckoLoop (c : Chip) (o : Nat) : Nat := c.rd Reg.CKO_CFG_SRC (16 + o)

/-- Whether an output's loop lets it run; at rest none does (R337). -/
def Chip.ckoMay (c : Chip) (o : Nat) : Bool :=
  let i := 16 + o
  let d := c.ckoLoop o
  if !c.on Reg.CKO_CFG_EN i || c.outsOff then false
  else if 2 ≤ c.rd Reg.CKO_CFG_FORMAT i then c.rd Reg.SYN_CFG_MODE d == 2
  else c.rd Reg.SYN_CFG_MODE d == 1 && c.synState d != 6 && c.synState d != 0 &&
    (!c.on Reg.CKO_CFG_MUTE_UNTIL_LOCK i || c.synState d == 4)

/-- ALIGNED of an output (R220). -/
def Chip.showAligned (c : Chip) (o : Nat) : Chip :=
  let i := 16 + o
  let d := c.ckoLoop o
  c.flag Reg.CKO_STATUS_ALIGNED (c.rd Reg.CKO_ALIGN_ALIGN i != 0 && c.synState d == 4 &&
    decide ((c.rdS Reg.CKO_PHASE i).natAbs * 1000 ≤ c.rd Reg.SYN_LOCK_LOCK_WIN d * 1024)) i

/-- The waveform of an output in FORMAT 0 or 1 (R218): f_NTO ÷ DIV, high for half of it, rounded up. -/
def Chip.ckoWave (c : Chip) (o : Nat) : Option Wave :=
  let i := 16 + o
  let f := c.rd Reg.CKO_CFG_FORMAT i
  let div := c.rd Reg.CKO_DIV i
  if c.on Reg.CKO_STATUS_RUNNING i ∧ f < 2 then some { div := div, high := (div + 1) / 2, inverted := f == 1, drive := c.rd Reg.CKO_CFG_DRIVE i }
  else none

/-- The quarter of a position (R222). -/
def quarterOf (x : Int) : Int := x / (2 ^ 46 : Nat)

/-- The level of encoder A and B in a quarter. -/
def encLevels (q : Int) : Nat × Nat :=
  match (q % 4).toNat with
  | 0 => (0, 0) | 1 => (1, 0) | 2 => (1, 1) | _ => (0, 1)

/-- Whether an encoder output that must stop waits for the end of a high level: the pair goes on only while its loop is in velocity mode (R218; log
entry 203). -/
def Chip.ckoStops (c : Chip) (o : Nat) : Bool :=
  let x := SMap.get c.ckos o
  x.stopping && decide (2 ≤ c.rd Reg.CKO_CFG_FORMAT (16 + o)) && !c.ckoMay o && !c.outsOff && c.rd Reg.SYN_CFG_MODE (c.ckoLoop o) == 2 && x.level == 1

/-- The quarter that a loop's pair shows: the one before the oldest edge still to be placed. -/
def Gen.shown (g : Gen) : Int :=
  match g.edges with
  | [] => quarterOf g.x
  | (e, _) :: _ => if e % 2 = 1 then e / 2 - 1 else e / 2 + 1

/-- The level of an output without a waveform: that of the loop's quarter on encoder A or B, else IDLE_LEVEL (R218, R222). -/
def Chip.ckoLevel (c : Chip) (o : Nat) : Nat :=
  let q := encLevels (c.dpll (c.ckoLoop o)).gen.shown
  if c.ckoMay o ∧ 2 ≤ c.rd Reg.CKO_CFG_FORMAT (16 + o) then (if c.rd Reg.CKO_CFG_FORMAT (16 + o) = 2 then q.1 else q.2)
  else if c.ckoStops o then (SMap.get c.ckos o).level
  else c.rd Reg.CKO_CFG_IDLE_LEVEL (16 + o)

/-- What an output drives, shown outside where it changes: a waveform starts at a rising edge and stops at the end of a high level, at IDLE_LEVEL; a
level changes at once (R218). -/
def Chip.showWave (c : Chip) (o : Nat) : Chip :=
  let i := 16 + o
  let x := SMap.get c.ckos o
  let w := c.ckoWave o
  let level := c.ckoLevel o
  let c1 := { c with ckos := SMap.set c.ckos o { x with wave := w, level := level, stopping := c.ckoStops o } }
  if w ≠ x.wave then
    c1.emit (.clock o w (c.rd Reg.CKO_CFG_IDLE_LEVEL i) (if x.wave.isNone ∧ c.rd Reg.CKO_ALIGN_ALIGN i = 2 then some x.startAt else none))
  else if w.isNone ∧ level ≠ x.level then c1.emit (.pin 5 o ((c.tb16 * 2 + level : Nat) : Int))
  else c1

/-- The output frequency NOM ÷ DIV of an aligned output in Hz, a whole number (R220). -/
def Chip.ckoHz (c : Chip) (o : Nat) : Nat := c.synNom (c.ckoLoop o) / (2 ^ 32 * max 1 (c.rd Reg.CKO_DIV (16 + o)))

/-- OFFSET at the ball, OUT_DELAY before the reference plane, in 2^-16 ns (R220). -/
def Chip.ckoOffset (c : Chip) (o : Nat) : Int := (c.rdS Reg.CKO_ALIGN_OFFSET (16 + o) - c.rdS Reg.CKO_DELAY (16 + o)) * 64

/-- The first grid instant S + OFFSET + j × P at or after a time of the timebase, at the ball (R220). -/
def Chip.ckoGrid (c : Chip) (o t : Nat) : Nat :=
  let hz := max 1 (c.ckoHz o)
  let s := nsPerS * 65536
  let x := (((t : Int) - c.ckoOffset o) % (s : Nat)).toNat
  t + (ceilDiv (ceilDiv (x * hz) s * s) hz - x)

/-- The offset of a rising edge at the ball from its nearest grid instant, in 2^-16 ns (R220). -/
def Chip.ckoPhase (c : Chip) (o : Nat) (edge : Int) : Int :=
  let hz := max 1 (c.ckoHz o)
  let s := nsPerS * 65536
  let x := (edge - c.ckoOffset o) % (s : Nat)
  x - divRoundS (divRoundS (x * hz) s * s) hz

/-- An ALIGN 2 output waits for its restart: the first grid instant at least 20 µs after its mute (R220). -/
def Chip.ckoWait (c : Chip) (o : Nat) (x : Cko) : Cko :=
  { x with wait := true, startAt := c.ckoGrid o (c.tb16 + (x.mutedAt + unitsUs 20 - c.now) * 65536 / 100) }

/-- RUNNING and MUTED of an output; a stopped output with ALIGN 2 starts again only at a grid instant. -/
def Chip.showCko (c : Chip) (o : Nat) : Chip :=
  let i := 16 + o
  let may := c.ckoMay o
  let was := c.on Reg.CKO_STATUS_RUNNING i
  let x := SMap.get c.ckos o
  let grid := c.rd Reg.CKO_ALIGN_ALIGN i == 2
  let x1 : Cko := if may then { (if was || !grid then { x with wait := x.wait && grid } else if x.wait then x else c.ckoWait o x) with stopping := false }
    else { x with wait := false, mutedAt := if was then c.now else x.mutedAt, stopping := x.stopping || was }
  let run := may && !x1.wait
  let c1 := { c with ckos := SMap.set c.ckos o x1 }
  (((c1.flag Reg.CKO_STATUS_RUNNING run i).flag Reg.CKO_STATUS_MUTED (c.on Reg.CKO_CFG_EN i && !run) i).showWave o).showAligned o

/-- The outputs of a loop brought up to date. -/
def Chip.showOutputs (c : Chip) (d : Nat) : Chip :=
  c.each (List.range 8) fun o c => if c.ckoLoop o = d then c.showCko o else c

/-- CKO_ALIGN_RESTART (R220): the first grid instant at least 20 µs after the mute has come; `edge` is where the first rising edge has fallen at
the ball, 2^-16 ns. -/
def Chip.ckoRestart (o : Nat) (edge : Int) (c : Chip) : Chip :=
  let x := SMap.get c.ckos o
  if !x.wait ∨ !c.ckoMay o ∨ c.now < x.mutedAt + unitsUs 20 ∨ c.tb16 + tick16 < x.startAt then c
  else (({ c with ckos := SMap.set c.ckos o { x with wait := false } }).wrS Reg.CKO_PHASE (divRoundS (c.ckoPhase o edge) 64) (16 + o)).showCko o

/-- An aligned output turns to its grid by its method (R220, R221): ALIGN 1 as soon as its phase is measured; ALIGN 2 mutes, its divider is loaded,
and it waits for its restart. -/
def Chip.ckoRealign (c : Chip) (o : Nat) : Chip :=
  let i := 16 + o
  let x := SMap.get c.ckos o
  let a := c.rd Reg.CKO_ALIGN_ALIGN i
  if a = 1 then { c with ckos := SMap.set c.ckos o { x with realign := true } }
  else if a = 2 ∧ (c.on Reg.CKO_STATUS_RUNNING i ∨ x.wait) then
    ((({ c with ckos := SMap.set c.ckos o (c.ckoWait o { x with mutedAt := if x.wait then x.mutedAt else c.now }) }).flag
      Reg.CKO_STATUS_RUNNING false i).flag Reg.CKO_STATUS_MUTED true i).showWave o
  else c

/-- A timebase step at the aligned outputs (R221). -/
def Chip.ckoStep (c : Chip) : Chip :=
  c.each (List.range 8) fun o c =>
    let i := 16 + o
    if c.rd Reg.CKO_ALIGN_ALIGN i = 0 ∨ !c.on Reg.CKO_CFG_EN i then c
    else ((c.flag Reg.CKO_STATUS_REALIGN true i).flag Reg.CKO_STATUS_ALIGNED false i).ckoRealign o

/-- A committed change of an output (R218, R220): one whose alignment, divider or delay changed turns to its grid. -/
def Chip.ckoHook (old c : Chip) (o : Nat) : Chip :=
  let i := 16 + o
  let moved := [Reg.CKO_ALIGN_ALIGN, Reg.CKO_ALIGN_OFFSET, Reg.CKO_DIV, Reg.CKO_DELAY, Reg.CKO_CFG_SRC].any fun F => old.rd F i != c.rd F i
  (if moved then c.ckoRealign o else c).showCko o

/-! ### Acquisition and lock (R212, R213) -/

/-- A loop starts to acquire (R212): nothing is built out, its phase target starts anew, and its ALIGN 1 outputs turn to their grid again. The time a
loop has rested does not count as time since its last update (R210). -/
def Chip.acquire (c : Chip) (d : Nat) : Chip :=
  let s := if c.on Reg.SYN_CFG_FREQ_FIRST d then 2 else 3
  let runs := 2 ≤ c.synState d ∧ c.synState d ≤ 4
  let c1 := ((c.setSynState d s).updDpll d fun x =>
    { x with goal := x.y, build := 0, inWin := 0, outWin := 0, fchkOk := false, fchkBad := 0, chkAt := c.now, tgt := 0, rem := 0, vel := 0
             updAt := if runs then x.updAt else c.now }).wrS Reg.SYN_BUILDOUT 0 d
  (c1.each (List.range 8) fun o c => if c.ckoLoop o = d ∧ c.rd Reg.CKO_ALIGN_ALIGN (16 + o) = 1 then c.ckoRealign o else c).showOutputs d

/-- Lock is lost (R213). -/
def Chip.loseLock (c : Chip) (d : Nat) : Chip :=
  (((c.flag Reg.SYN_STATUS_LOCK_LOST true d).incSat Reg.SYN_STATUS_LOSS_COUNT 1 d).acquire d).notify Nt.LOCK_LOST Cls.SYN d 0x06

/-- A loop's offset moved toward what it asks, under R210; what it asked and what it took. -/
def Chip.synLimit (c : Chip) (d : Nat) (asked : Int) : Int :=
  let x := c.dpll d
  let step : Int := c.rd Reg.SYN_LIMITS_SLEW d * slewTick * (c.now - x.updAt) / 256
  moveTo x.y (clipTo (c.synBand d) asked) step

/-- Where the last rising edges of a loop's outputs have fallen at the ball, in 2^-16 ns: their phases, and the way an ALIGN 1 output that is to
realign moves the loop's target, the shortest one (R220). -/
def Chip.takePhases (c : Chip) (d : Nat) (edges : List (Nat × Int)) : Chip :=
  c.each edges fun x c =>
    if x.1 < 8 ∧ c.ckoLoop x.1 = d ∧ c.on Reg.CKO_STATUS_RUNNING (16 + x.1) then
      let ph := c.ckoPhase x.1 x.2
      let y := SMap.get c.ckos x.1
      let c1 := if y.realign ∧ (c.synState d = 3 ∨ c.synState d = 4) then
          ({ c with ckos := SMap.set c.ckos x.1 { y with realign := false } }).updDpll d fun z => { z with rem := ph * phaseUnit }
        else c
      (c1.wrS Reg.CKO_PHASE (divRoundS ph 64) (16 + x.1)).showAligned x.1
    else c

/-- The slew policy, where the last switch took it, works off DPLL0's build-out at PH_SLEW (R243). -/
def Chip.workOff (c : Chip) (d : Nat) : Chip :=
  if d ≠ 0 ∨ !(SMap.get c.car.sels 0).slew then c
  else
    let x := c.dpll 0
    let b := moveTo x.build 0 ((c.now - x.updAt) * c.rd Reg.SEL_CFG_PH_SLEW * 65536 : Nat)
    (c.updDpll 0 fun x => { x with build := b }).wrS Reg.SYN_BUILDOUT (divRoundS b (10 ^ 11)) 0

/-- The loop is locked (R213): its outputs may run, and the ALIGN 2 outputs that ran on through the acquisition restart on their grid (R220; log entry
205). -/
def Chip.lockLoop (c : Chip) (d : Nat) : Chip :=
  let c1 := c.each (List.range 8) fun o c => if c.ckoLoop o = d ∧ c.rd Reg.CKO_ALIGN_ALIGN (16 + o) = 2 then c.ckoRealign o else c
  (c1.setSynState d 4).showOutputs d

/-- One update in the phase stage or in lock: R207, R210, R213. -/
def Chip.phaseUpdate (c : Chip) (d : Nat) (e : Int) (fpd : Nat × Nat) : Chip :=
  let x := c.dpll d
  let (p, inc) := piTerms (c.rd Reg.SYN_BW_EFF d) (c.rd Reg.SYN_CFG_DAMP d) fpd e
  let asked := p + x.i + inc
  let y0 := c.synLimit d asked
  let excess := asked - y0
  let held := decide (excess ≠ 0) && (decide (0 < excess) == decide (0 < inc)) && inc != 0
  let i := if held then x.i else x.i + inc
  let y := c.synLimit d (p + i)
  let win := c.rd Reg.SYN_LOCK_LOCK_WIN d * 65536
  let inside := decide (e.natAbs * 1000 ≤ win)
  let wide := decide (4 * win < e.natAbs * 1000)
  let inWin := if inside then x.inWin + 1 else 0
  let outWin := if wide then x.outWin + 1 else 0
  let c1 := (c.updDpll d fun x => { x with y := y, i := i, inWin := inWin, outWin := outWin, updAt := c.now }).showBand d (p + i) y
  if c.synState d = 4 then (if 8 ≤ outWin then c1.loseLock d else c1)
  else if x.fchkOk ∧ c.rd Reg.SYN_LOCK_LOCK_N d ≤ inWin then c1.lockLoop d
  else c1

/-- An update of a loop in the frequency stage: it moves to its goal (R212). -/
def Chip.freqUpdate (c : Chip) (d : Nat) (e : Int) : Chip :=
  let goal := (c.dpll d).goal
  let y := c.synLimit d goal
  ((c.updDpll d fun x => { x with y := y, updAt := c.now }).showBand d goal y).wrS Reg.SYN_PHERR (divRoundS e 64) d

/-- DPLL_UPDATE (R207): the phase error of the loop's own detector against the tick grid at NOM in 2^-16 ns (DPLL0 has its monitor instead), and
where the last rising edges of its outputs have fallen. -/
def Chip.dpllUpdate (d : Nat) (e : Int) (edges : List (Nat × Int)) (c : Chip) : Chip :=
  let s := c.synState d
  match c.fpd d with
  | none => c
  | some f =>
    if 4 < d ∨ !c.detects d ∨ !(s == 2 || s == 3 || s == 4) then c
    else if s = 2 then ((c.freqUpdate d (c.loopErr d e)).usedSamples d).takePhases d edges
    else
      let c1 := c.workOff d
      let e1 := c.loopErr d e - divRoundS (c1.dpll d).build (10 ^ 11)
      (((c1.wrS Reg.SYN_PHERR (divRoundS e1 64) d).phaseUpdate d e1 f).usedSamples d).takePhases d edges

/-- DPLL_FREQ_CHECK (R212, R213): the counter's offset of the reference at NOM from the NTO in 0.001 ppb, and the phase error of the loop's own
detector then; the target moves with FOLLOW_ADJ and the ramp (R206, R215). The updates that count toward lock begin with the check that passes. -/
def Chip.dpllFreqCheck (d : Nat) (count e0 : Int) (c : Chip) : Chip :=
  let s := c.synState d
  let x := c.dpll d
  let off := count + divRoundS (c.tgtRate d * 1000) freqUnit
  let e := c.loopErr d e0
  if 4 < d ∨ !(s == 2 || s == 3 || s == 4) ∨ c.now < x.chkAt + unitsMs (c.rd Reg.SYN_LOCK_FCHK_MS d) then c
  else
    let pass := decide (off.natAbs ≤ c.rd Reg.SYN_LOCK_FCHK_TOL d * 1000)
    let bad := if pass then 0 else x.fchkBad + 1
    let c1 := c.updDpll d fun x => { x with chkAt := c.now, fchkBad := bad, goal := x.y + divRoundS (off * freqUnit) 1000 }
    if s = 2 then
      if pass then
        let ref := c.rd Reg.SEL_STATUS_FREF
        let c2 := ((c1.setSynState d 3).updDpll d fun x => { x with fchkOk := true, build := e * 10 ^ 11, i := x.y, inWin := 0, outWin := 0 }).wrS
          Reg.SYN_BUILDOUT e d
        if d = 0 ∧ ref < 24 ∧ !(SMap.get c.car.sels 0).slew then c2.wrS Reg.REF_OFFSET e ref else c2
      else c1
    else if s = 3 then c1.updDpll d fun x => { x with fchkOk := x.fchkOk || pass, inWin := if pass && !x.fchkOk then 0 else x.inWin }
    else if 2 ≤ bad then c1.loseLock d
    else c1

/-! ### Hops (R214) -/

/-- The present Tj: the hottest sensor, in 0.125 °C. -/
def Chip.tj (c : Chip) : Int := (List.range 8).foldl (fun a e => max a (c.rdS Reg.THERM_TEMP 0 e)) (c.rdS Reg.THERM_TEMP 0 0)

/-- A band search: its result, a free value, replaces the entry used longest ago. -/
def Chip.searchBand (c : Chip) (d : Nat) : Chip :=
  let (n, c1) := c.draw
  let k : HopBand := { nom := c.synNom d, tj := c.tj, word := (Config.bandWord n).toNat }
  c1.updDpll d fun x => { x with word := k.word, cache := (k :: x.cache).take 16 }

/-- A loop's oscillator finds the band of a new NOM: from the cache, or by a search. -/
def Chip.findBand (c : Chip) (d : Nat) : Chip :=
  match (c.dpll d).cache.find? fun k => k.nom == c.synNom d && decide ((k.tj - c.tj).natAbs ≤ 120) with
  | some k => c.updDpll d fun x => { x with word := k.word, cache := k :: x.cache.erase k }
  | none => (c.searchBand d).flag Reg.SYN_STATUS_CACHE_MISS true d

/-- A committed change of SYN_NOM in clock mode: outputs mute, and the cache is consulted. -/
def Chip.startHop (c : Chip) (d : Nat) : Chip := ((c.findBand d).setSynState d 6).showOutputs d

/-- DPLL_HOP_DONE: the hop has settled; the loop acquires and outputs without MUTE_UNTIL_LOCK restart. -/
def Chip.dpllHopDone (d : Nat) (c : Chip) : Chip := if 1 ≤ d ∧ d ≤ 4 ∧ c.synState d = 6 then c.acquire d else c

/-! ### The ramp generator (R215 to R217) -/

/-- The slew in force for a target. -/
def Chip.genSlew (c : Chip) (d : Nat) (own : Nat) : Nat :=
  let s := c.rd Reg.SYN_LIMITS_SLEW d
  if own = 0 then s else min own s

/-- A new target. -/
def Gen.aim (g : Gen) (target : Int) (slew : Nat) : Gen := { g with target := target, slew := slew, reached := false, holdTo := none }

/-- An entry of the profile becomes the target. -/
def Chip.rampEntry (c : Chip) (d k : Nat) : Chip :=
  c.updGen d fun g => ({ g with prof := some k }).aim (c.rdS Reg.SYN_RAMP_PROF_TARGET d k) (c.rd Reg.SYN_RAMP_PROF_SLEW d k)

/-- RAMP_PROFILE_START (R216): RUN is set and RAMP_START has come. -/
def Chip.rampStart (d : Nat) (c : Chip) : Chip :=
  if 1 ≤ d ∧ d ≤ 4 ∧ c.on Reg.SYN_RAMP_CTRL_RUN d ∧ (c.dpll d).gen.prof = none ∧ timeOf96 (c.rd Reg.RAMP_START d) ≤ c.tb16 then
    c.rampEntry d 0
  else c

/-- RAMP_HOLD_EXPIRE (R216): the next entry, the first again with LOOP, or the last target stays. -/
def Chip.rampNext (d : Nat) (c : Chip) : Chip :=
  let g := (c.dpll d).gen
  match g.prof, g.holdTo with
  | some k, some t =>
    if 4 < d ∨ c.now < t ∨ !c.on Reg.SYN_RAMP_CTRL_RUN d then c
    else if k + 1 < c.rd Reg.SYN_RAMP_CTRL_LEN d then c.rampEntry d (k + 1)
    else if c.on Reg.SYN_RAMP_CTRL_LOOP d then c.rampEntry d 0
    else c.updGen d fun g => { g with holdTo := none }
  | _, _ => c

/-- A committed write of SYN_RAMP_CTRL: clearing RUN keeps the present output as the target. -/
def Chip.rampHook (old c : Chip) (d : Nat) : Chip :=
  if old.on Reg.SYN_RAMP_CTRL_RUN d && !c.on Reg.SYN_RAMP_CTRL_RUN d then
    c.updGen d fun g => ({ g with prof := none }).aim (divRoundS g.out (5 ^ 11)) 0
  else if !old.on Reg.SYN_RAMP_CTRL_RUN d && c.on Reg.SYN_RAMP_CTRL_RUN d then c.updGen d fun g => { g with prof := none }
  else c

/-- Whether a target's magnitude is allowed (R215). -/
def Chip.targetOk (c : Chip) (d : Nat) (t : Int) : Bool :=
  decide (t.natAbs ≤ (if c.rd Reg.SYN_CFG_MODE d = 2 then 20000000 else 1000000) * 2 ^ 32)

/-- A target request (R217) at its generator, its start instant in units of 10 ps. -/
def Chip.velRequest (c : Chip) (d start : Nat) (target : Int) (slew : Nat) : Status × Chip :=
  if start < c.now then (.timePast, c.count Ev.VEL_LATE d)
  else
    let l := (c.dpll d).gen.reqs.filter fun r => decide (r.1 < start)
    if 4 ≤ l.length then (.busy, c.count Ev.VEL_QFULL d)
    else (.ok, c.updGen d fun g => { g with reqs := l ++ [(start, target, slew)] })

/-- A host's SYN_VREQ (R217). -/
def Chip.velHost (c : Chip) (d v : Nat) : Status × List Tlv × Chip :=
  let t := signed 64 (bitsOf v 64 64)
  if !c.targetOk d t ∨ 65535000 < bitsOf v 0 32 then (.badParam, [tlvFailObj (objId Cls.SYN d 0x10)], c)
  else if c.rd Reg.SYN_OWNER_OWNER d ≠ 0 then
    (.resourceConflict, [tlvClaimant (objId Cls.SYN d 0x0C) 0xFFFFFFFF, tlvClaimant (objId Cls.SYN d 0x10) 0xFFFFFFFF], c)
  else
    let (st, c1) := c.velRequest d (c.now + unitsNs (bitsOf v 0 32)) t (bitsOf v 32 32)
    (st, [], c1)

/-- SYN_TARGET_START (R217): the first queued request whose start has come. -/
def Chip.targetStart (d : Nat) (c : Chip) : Chip :=
  match (c.dpll d).gen.reqs with
  | (s, t, w) :: l => if 1 ≤ d ∧ d ≤ 4 ∧ s ≤ c.now then c.updGen d fun g => ({ g with reqs := l }).aim t w else c
  | [] => c

/-! ### Each tick (R210, R215, R222) -/

/-- X wraps in two's complement at ±2^31 lines. -/
def wrapX (x : Int) : Int :=
  let m : Int := (2 ^ 80 : Nat)
  (x + m / 2) % m - m / 2

/-- The trapezoid's area of a part s ÷ 2^18 of a tick in 2^-48 lines, the frequency moving from f0 to f1 over the whole tick (R222). DESIGN CHOICE: it
rounds to the nearest, halves away from zero (log entry 27). -/
def trapezoid (f0 f1 s : Int) : Int := divRoundS ((2 * f0 * s * 2 ^ 18 + (f1 - f0) * s * s) * 2 ^ 12) (2 ^ 36 * 5 ^ 22)

/-- Half units of 2^-10 ns into a tick (0 to 5,243) by which a position has crossed into quarter `q`, found by halving. -/
def crossAt (x0 f0 f1 : Int) (up : Bool) (q : Int) : Nat → Nat → Nat → Nat
  | 0, _, hi => hi
  | k + 1, lo, hi =>
    let mid := (lo + hi) / 2
    let s : Int := (50 * mid : Nat)
    let x := x0 + trapezoid f0 f1 s
    let done := if up then decide (q ≤ quarterOf x) else decide (quarterOf x ≤ q)
    if done then crossAt x0 f0 f1 up q k lo mid else crossAt x0 f0 f1 up q k mid hi

/-- The encoder position over one tick, which began at a time of the timebase, with the quarter edge it crosses. -/
def Gen.encTick (g : Gen) (f1 : Int) (tb16 : Nat) : Gen :=
  let x1 := g.x + trapezoid g.out f1 (2 ^ 18)
  let q0 := quarterOf g.x
  let q1 := quarterOf x1
  let at_ : Int := tb16 + (crossAt g.x g.out f1 (decide (q0 < q1)) q1 13 0 5243 / 2 * 64 : Nat)
  { g with x := wrapX x1, edges := if q0 = q1 then g.edges else g.edges ++ [(2 * q1 + (b2n (decide (q0 < q1)) : Nat), at_)] }

/-- One tick of a generator. -/
def Chip.genTick (c : Chip) (d : Nat) : Chip :=
  let mode := c.rd Reg.SYN_CFG_MODE d
  let g := (c.dpll d).gen
  let aim : Int := g.target * (5 ^ 11 : Nat)
  let goal := clipTo (c.synBand d) aim
  if mode = 0 ∨ (g.out = goal ∧ aim = goal ∧ g.reached ∧ (mode ≠ 2 ∨ g.out = 0)) then c
  else
    let out := moveTo g.out goal (c.genSlew d g.slew * slewTick : Nat)
    let g1 := if mode = 2 then g.encTick out (c.tb16 - c.tbIncr / 2 ^ 24) else g
    let there := decide (out = goal)
    let hold : Option Nat := match g.prof with
      | some k => if there && !g.reached && c.rd Reg.SYN_RAMP_PROF_HOLD d k != 0xFFFFFFFF then
          some (c.now + unitsUs (c.rd Reg.SYN_RAMP_PROF_HOLD d k)) else g.holdTo
      | none => none
    let c1 := c.updGen d fun _ => { g1 with out := out, reached := g.reached || there, holdTo := hold }
    if mode = 2 then c1.showBand d aim out else c1.showCeil d aim

/-- One tick of DPLL0 in free run or holdover: it moves to its value at the slew limit, as far as the band allows (R210, R211, R238, R240). -/
def Chip.holdTick (c : Chip) : Chip :=
  let s := c.synState 0
  let x := c.dpll 0
  let goal := if s = 5 then x.goal else 0
  let clip := clipTo (c.synBand 0) goal
  if !(s == 1 || s == 5) || (x.y == clip && clip == goal) then c
  else
    let y := moveTo x.y clip (c.rd Reg.SYN_LIMITS_SLEW 0 * slewTick : Nat)
    (c.updDpll 0 fun x => { x with y := y, i := y, updAt := c.now }).showBand 0 goal y

/-- What each tick does in the loops. -/
def Chip.synTick (c : Chip) : Chip := (c.each [1, 2, 3, 4] fun d c => (c.genTick d).aimTick d).holdTick

/-! ### Encoder edges (R222) -/

/-- An edge on the running outputs of a loop in a format: encoder A (2) or B (3). One that waits for the end of its high level stops with it, at
IDLE_LEVEL (R218). -/
def Chip.encDrive (c : Chip) (d format level : Nat) (t : Int) : Chip :=
  c.each (List.range 8) fun o c =>
    let i := 16 + o
    let x := SMap.get c.ckos o
    if (!c.on Reg.CKO_STATUS_RUNNING i ∧ !x.stopping) ∨ c.ckoLoop o ≠ d ∨ c.rd Reg.CKO_CFG_FORMAT i ≠ format ∨ level = x.level then c
    else
      let c1 := { c with ckos := SMap.set c.ckos o { x with level := level } }.emit (.pin 5 o (t * 2 + level))
      if x.stopping then c1.showWave o else c1

/-- ENC_QUARTER_EDGE: the oldest quarter crossing's edge is placed on A or B of the loop's pair. -/
def Chip.encEdge (d : Nat) (c : Chip) : Chip :=
  match (c.dpll d).gen.edges with
  | [] => c
  | (q, t) :: l =>
    let (a, b) := encLevels (q / 2)
    let aMoves := decide ((q / 2) % 2 = q % 2)
    (c.updGen d fun g => { g with edges := l }).encDrive d (if aMoves then 2 else 3) (if aMoves then a else b) t

/-! ### Committed changes -/

/-- BAND_ENTRY as a committed band leaves it: whether it excludes the present frequency (R211). -/
def Chip.showEntry (c : Chip) (d : Nat) : Chip :=
  let y := if c.rd Reg.SYN_CFG_MODE d = 2 then (c.dpll d).gen.out else (c.dpll d).y
  let b := c.synBand d
  c.flag Reg.SYN_STATUS_BAND_ENTRY (c.rd Reg.SYN_CFG_MODE d != 0 && (decide (y < b.1) || decide (b.2 < y))) d

/-- A committed write of SYN_CFG, SYN_NOM or SYN_LIMITS (R211, R212, R214, R222). While MODE is not 1 a change of NOM finds its band and makes no
hop (log entry 171). -/
def Chip.synHook (old c : Chip) (d attr : Nat) : Chip :=
  if attr = 1 ∧ d = 0 then (c.showBw 0).showSpur 0
  else if attr = 1 then
    let m0 := old.rd Reg.SYN_CFG_MODE d
    let m1 := c.rd Reg.SYN_CFG_MODE d
    let c1 := (c.showBw d).showSpur d
    if m0 = m1 then c1.showOutputs d
    else
      let c2 := (c1.updDpll d fun x => { x with y := 0, i := 0, goal := 0, gen := {}, updAt := c.now }).showEntry d
      match m1 with
      | 0 => (c2.setSynState d 0).showOutputs d
      | 1 => c2.acquire d
      | _ => (c2.setSynState d 7).showOutputs d
  else if attr = 2 then
    if old.synNom d ≠ c.synNom d then (if c.rd Reg.SYN_CFG_MODE d = 1 then (c.showSpur d).startHop d else (c.showSpur d).findBand d) else c
  else if attr = 3 then c.showEntry d
  else c

/-- SYN_FREQ (R213 table): 0.001 ppb of NOM in clock mode, 2^-32 Hz in velocity mode. -/
def Chip.synFreq (c : Chip) (d : Nat) : Int :=
  if c.rd Reg.SYN_CFG_MODE d = 2 then divRoundS (c.dpll d).gen.out (5 ^ 11) else divRoundS ((c.dpll d).y * 1000) freqUnit

/-- ENC_POS: X as signed 32.32 lines (R223). -/
def encPos (g : Gen) : Int := g.x / (2 ^ 16 : Nat)

end Sys2Proof.Machine
end

