-- ==== Sys2Proof/Machine/Carillon.lean ====
section
/-! DEFINITION. Carillon: references and their qualification, the two selectors, holdover, the time servo, and synchronisation status
messages (R230 to R248, 11_carillon.md; R338 for a standby). Selector 0 is the frequency selector, 1 the time selector. -/

namespace Sys2Proof.Machine

def Chip.ref (c : Chip) (n : Nat) : Ref := SMap.get c.car.refs n
def Chip.updRef (c : Chip) (n : Nat) (f : Ref → Ref) : Chip := { c with car := { c.car with refs := SMap.upd c.car.refs n f } }
def Chip.sel (c : Chip) (k : Nat) : Sel := SMap.get c.car.sels k
def Chip.updSel (c : Chip) (k : Nat) (f : Sel → Sel) : Chip := { c with car := { c.car with sels := SMap.upd c.car.sels k f } }
def Chip.ptpPort (c : Chip) (p : Nat) : PtpPort := SMap.get c.car.ports p
def Chip.updPtp (c : Chip) (p : Nat) (f : PtpPort → PtpPort) : Chip := { c with car := { c.car with ports := SMap.upd c.car.ports p f } }

/-- Whether the unit is a standby, PRE_THAW included, whose selections the device holds on the twin link (R338, R349). -/
def Chip.standby (c : Chip) : Bool := decide (1 ≤ c.rd Reg.TWIN_STATUS_STATE) && decide (c.rd Reg.TWIN_STATUS_STATE ≤ 3)

/-- The port of a lane reference (R61), or of the twin link. -/
def Chip.refPort (c : Chip) (n : Nat) : Nat := if n = 30 then c.rd Reg.TWIN_CFG_LINK_PORT else c.laneToPort (c.refLane n)

/-- The lane references that nominate a lane of a port (R61, R233). -/
def Chip.portRefs (c : Chip) (p : Nat) : List Nat :=
  ((List.range 16).map (· + 8)).filter fun n => c.rd Reg.REF_CFG_RANK n != 0 && c.refPort n == p

/-- The lane reference whose nominated lane is the first of a port. -/
def Chip.portRef (c : Chip) (p : Nat) : Option Nat :=
  ((List.range 16).map (· + 8)).find? fun n => c.rd Reg.REF_CFG_RANK n != 0 && c.refLane n == p

/-! ### Quality levels (R247) -/

/-- QL-DNU or DUS, the same code in both options. -/
def qlDnu : Nat := 15

/-- The order of ITU-T G.781: smaller is better. -/
def qlRank (opt : Bool) (q : Nat) : Nat :=
  if opt then match q with
    | 1 => 0 | 0 => 1 | 7 => 2 | 4 => 3 | 13 => 4 | 10 => 5 | 12 => 6 | 14 => 7 | 15 => 9 | _ => 8
  else match q with
    | 2 => 0 | 4 => 1 | 8 => 2 | 11 => 3 | 15 => 9 | _ => 8

/-- The SSM code in use for a reference. -/
def Chip.refQl (c : Chip) (n : Nat) : Nat :=
  if 8 ≤ n ∧ n < 24 then
    let p := c.refPort n
    if (SMap.get c.car.esmc p).late then qlDnu
    else if c.on Reg.ESMC_STATUS_ESMC_SEEN p then c.rd Reg.ESMC_STATUS_QL_RX p
    else if c.on Reg.SEL_CFG_QL_EN then qlDnu
    else c.rd Reg.REF_CFG_QL_FIX n
  else c.rd Reg.REF_CFG_QL_FIX n

/-- QL_TX of a port (R247). -/
def Chip.qlTx (c : Chip) (p : Nat) : Nat :=
  let ref := c.rd Reg.SEL_STATUS_FREF
  let st := c.rd Reg.SEL_STATUS_FSTATE
  if (st = 1 ∨ st = 2) ∧ ref ≠ 31 then
    if 8 ≤ ref ∧ c.refPort ref = p then qlDnu else if ref < 24 then c.refQl ref else qlDnu
  else if c.on Reg.SEL_CFG_SSM_OPT then 10 else 11

/-- QL_TX of every port with SYNCE_TX brought up to date; a change makes an event PDU due. -/
def Chip.showQl (c : Chip) : Chip :=
  c.each (List.range 512) fun p c =>
    if !c.on Reg.PORT_CFG_SYNCE_TX p then c
    else
      let q := c.qlTx p
      if q = c.rd Reg.ESMC_STATUS_QL_TX p then c
      else { c.wr Reg.ESMC_STATUS_QL_TX q p with car := { c.car with esmc := SMap.upd c.car.esmc p fun e => { e with evDue := true } } }

/-! ### Health (R235) and measurement (R234, R236) -/

/-- Health but for the hard limits and the jump guard: while it lasts the reference is measured. -/
def Chip.refBase (c : Chip) (n : Nat) : Bool :=
  let m := c.refMonitor n
  let R := phmRegs m
  let p := c.refPort n
  let lane := decide (8 ≤ n)
  c.rd Reg.REF_CFG_RANK n != 0 && !c.on R.los R.inst && SMap.get c.tdc (phmChannel m) &&
  (!lane || (c.linkUp p && (!c.on Reg.SEL_CFG_QL_EN || c.refQl n != qlDnu) &&
    (!c.on Reg.REF_CFG_TIME n || (c.rd Reg.PTP_PORT_STATUS_PORT_STATE p == 9 && !(c.ptpPort p).annLost))))

/-- A reference is healthy (R235): within the hard limits too, and not held under R244. -/
def Chip.refHealthy (c : Chip) (n : Nat) : Bool := c.refBase n && !(c.ref n).hard && !(c.ref n).jump

/-- The offset of a PPS reference (R234): GRID folded into ±0.5 s, in 2^-16 ns. -/
def foldSecond (g : Int) : Int :=
  let s : Int := (nsPerS * 65536 : Nat)
  (g + s / 2) % s - s / 2

/-- TOFF of a time reference as last measured. -/
def Chip.toff (c : Chip) (n : Nat) : Int :=
  if 4 ≤ n ∧ n < 8 then foldSecond (c.rdS Reg.RPHM_GRID_PHM_GRID n) else if n < 24 then c.rdS Reg.REF_TOFF n else 0

/-- A measurement window starts. -/
def Chip.startWindow (c : Chip) (n : Nat) : Chip :=
  let m := c.refMonitor n
  let p := SMap.get c.phms m
  let R := phmRegs m
  c.updRef n fun r =>
    { r with
      winOn := true
      winAt := c.now
      winR := c.rd R.restarts R.inst
      winPhase := p.phase
      winN := p.n
      winY := c.car.yInt
      winA := c.car.adjInt }

/-- A reference stops being healthy (R235): disqualified, noted and notified. -/
def Chip.disqualify (c : Chip) (n : Nat) : Chip :=
  let was := (c.ref n).qual
  let c1 := c.updRef n fun r => { r with healthy := false, qual := false, pre := false }
  if was then (c1.flag Reg.REF_STATUS_DISQ_SEEN true n).notify Nt.REF_DISQUALIFIED Cls.REF n 0x03 else c1

/-- The seconds a reference must stay healthy: QUAL_S at first, WTR_S once it has been qualified (R235, R241). -/
def Chip.refWait (c : Chip) (n : Nat) : Nat :=
  if (c.ref n).ever then c.rd Reg.REF_CFG_WTR_S n else c.rd Reg.SEL_CFG_QUAL_S

/-- Whether a standby leaves a reference as the last checkpoint reports it (R338). -/
def Chip.refKept (c : Chip) (n : Nat) : Bool := c.standby && decide (8 ≤ n)

/-- Health and qualification of a reference brought up to date. -/
def Chip.refScan (c : Chip) (n : Nat) : Chip :=
  let r := c.ref n
  if c.refKept n then c
  else if c.rd Reg.REF_CFG_RANK n = 0 then (if r = {} then c else (c.disqualify n).updRef n fun _ => {})
  else
    let base := c.refBase n
    let c1 := if base && !r.winOn then c.startWindow n else if !base && r.winOn then c.updRef n fun r => { r with winOn := false } else c
    let h := c1.refHealthy n
    if !h then (if r.healthy then c1.disqualify n else c1)
    else
      let c2 := if r.healthy then c1 else c1.updRef n fun r => { r with healthy := true, since := c1.now }
      let r2 := c2.ref n
      if !r2.qual && (r2.pre || decide (r2.since + unitsS (c2.refWait n) ≤ c2.now)) then
        c2.updRef n fun r => { r with qual := true, ever := true, pre := false }
      else c2

/-- QSTATE (R235 to R244). -/
def Chip.qstate (c : Chip) (n : Nat) : Nat :=
  let r := c.ref n
  if c.rd Reg.REF_CFG_RANK n = 0 then 0
  else if r.jump then 6
  else if r.qual then (if r.out ≠ 0 then 5 else 4)
  else if !r.healthy then 1
  else if r.ever then 3 else 2

/-- WTR_LEFT in seconds. -/
def Chip.wtrLeft (c : Chip) (n : Nat) : Nat :=
  let r := c.ref n
  if c.qstate n = 3 then ceilDiv (r.since + unitsS (c.rd Reg.REF_CFG_WTR_S n) - c.now) (unitsS 1)
  else if c.qstate n = 1 ∧ r.ever then c.rd Reg.REF_CFG_WTR_S n
  else 0

/-- The status of the references brought up to date. -/
def Chip.showRefs (c : Chip) : Chip :=
  c.each (List.range 24) fun n c =>
    let c1 := if c.refKept n then c else c.wr Reg.REF_STATUS_QSTATE (c.qstate n) n
    (((c1.wr Reg.REF_STATUS_QL (c1.refQl n) n).flag Reg.REF_STATUS_SEL_F (c1.rd Reg.SEL_STATUS_FREF == n) n).flag
      Reg.REF_STATUS_SEL_T (c1.rd Reg.SEL_STATUS_TREF == n) n).flag Reg.REF_STATUS_DISAGREE
        (bitOf (c1.sel 0).disagree n || bitOf (c1.sel 1).disagree n) n

/-- An ordered list. -/
def insertInt (x : Int) : List Int → List Int
  | [] => [x]
  | y :: l => if x ≤ y then x :: y :: l else y :: insertInt x l

/-- The median of a list: of an even number, the mean of the middle two. -/
def median (l : List Int) : Int :=
  let s := l.foldl (fun a x => insertInt x a) []
  let n := s.length
  if n % 2 = 1 then s.getD (n / 2) 0 else divRoundS (s.getD (n / 2 - 1) 0 + s.getD (n / 2) 0) 2

/-- The end of a 10 s window (R236): both values are compared with their limits. -/
def Chip.measTake (n : Nat) (c : Chip) : Chip :=
  let r := c.ref n
  if 24 ≤ n ∨ !r.winOn ∨ c.now < r.winAt + unitsS 10 then c
  else
    let m := c.refMonitor n
    let R := phmRegs m
    let p := SMap.get c.phms m
    if r.winR ≠ c.rd R.restarts R.inst then c.startWindow n
    else
      let ticks := (c.now - r.winAt) / 256
      let yRef := phmFreq (p.phase - r.winPhase) (p.n - r.winN) (c.phmPnom m)
      let yTb := divRoundS ((c.car.yInt - r.winY) * 1000) (ticks * freqUnit) +
        divRoundS ((c.car.adjInt - r.winA) * 10 ^ 12) (ticks * max 1 (c.rd Reg.BASE_INCR))
      let osc := yRef + yTb
      let others := (List.range 24).filter fun k => k != n && (c.ref k).qual && (c.ref k).measured
      let rel := if 2 ≤ others.length then osc - median (others.map fun k => c.rdS Reg.REF_MEAS_Y_OSC k) else 0
      let c1 := ((c.wrS Reg.REF_MEAS_Y_OSC (satS 32 osc) n).wrS Reg.REF_MEAS_Y_REL (satS 32 rel) n).updRef n fun r => { r with measured := true, toffWin := c.toff n }
      let excess := fun (o q : Nat) => decide (o * 1000 < osc.natAbs) || decide (q * 10 < rel.natAbs)
      let soft := excess (c.rd Reg.REF_LIMITS_SOFT_OSC n) (c.rd Reg.REF_LIMITS_SOFT_REL n)
      let hard := excess (c.rd Reg.REF_LIMITS_HARD_OSC n) (c.rd Reg.REF_LIMITS_HARD_REL n)
      let c2 := if soft then (c1.flag Reg.REF_STATUS_SOFT_ALARM true n).notify Nt.SOFT_ALARM Cls.REF n 0x03 else c1
      let c3 := c2.updRef n fun r => { r with hard := hard }
      ((if hard && r.healthy then (c3.disqualify n).flag Reg.REF_STATUS_DISQ_SEEN true n else c3).startWindow n).showRefs

/-- REF_QUALIFY (R235, R241): the reference's health is looked at now. -/
def Chip.refQualify (n : Nat) (c : Chip) : Chip := if n < 24 then (c.refScan n).showRefs else c

/-- A commit of REF_CFG, changed or not, ends a discarded hold (R244). -/
def Chip.refWritten (c : Chip) (n : Nat) : Chip := c.updRef n fun r => if r.dropped then { r with jump := false, dropped := false } else r

/-- A committed change of RANK, FREQ, TIME or LANE restarts qualification (R242). -/
def Chip.refHook (old c : Chip) (n : Nat) : Chip :=
  let same := old.rd Reg.REF_CFG_RANK n == c.rd Reg.REF_CFG_RANK n && old.rd Reg.REF_CFG_FREQ n == c.rd Reg.REF_CFG_FREQ n &&
    old.rd Reg.REF_CFG_TIME n == c.rd Reg.REF_CFG_TIME n && old.rd Reg.REF_CFG_LANE n == c.rd Reg.REF_CFG_LANE n
  if same then c else (if (c.ref n).healthy then c.disqualify n else c).updRef n fun r => { r with
    healthy := false, qual := false, ever := false, out := 0, pre := false, measured := false, winOn := false, hard := false }

/-! ### Values -/

/-- A selector's registers. -/
def Chip.selState (c : Chip) (k : Nat) : Nat := if k = 0 then c.rd Reg.SEL_STATUS_FSTATE else c.rd Reg.SEL_STATUS_TSTATE
def Chip.selRef (c : Chip) (k : Nat) : Nat := if k = 0 then c.rd Reg.SEL_STATUS_FREF else c.rd Reg.SEL_STATUS_TREF
def Chip.forced (c : Chip) (k : Nat) : Bool := if k = 0 then c.on Reg.SEL_STATUS_FORCED_F else c.on Reg.SEL_STATUS_FORCED_T
def Chip.setForced (c : Chip) (k : Nat) (b : Bool) : Chip := c.flag (if k = 0 then Reg.SEL_STATUS_FORCED_F else Reg.SEL_STATUS_FORCED_T) b

/-- The value of a selector now. -/
def Chip.selValue (c : Chip) (k : Nat) : Int := if k = 0 then (c.dpll 0).y else ofAdj (c.rdS Reg.ADJ)

/-- The integral of a selector's value over ticks. -/
def Chip.selInt (c : Chip) (k : Nat) : Int := if k = 0 then c.car.yInt else c.car.adjInt

/-- The entries of the ring in the interval of R240 that ends at a time. -/
def Chip.hoEntries (c : Chip) (k at_ : Nat) : List (Nat × Int) :=
  let g := unitsS (c.rd Reg.HO_CFG_GUARD_S)
  let a := unitsS (c.rd Reg.HO_CFG_HO_AVG_S)
  (c.sel k).ring.filter fun e => decide (e.1 + g ≤ at_) && decide (at_ < e.1 + g + a)

/-- The holdover value of R240 at this moment. -/
def Chip.hoValue (c : Chip) (k : Nat) : Int :=
  let l := c.hoEntries k c.now
  if l = [] then (c.sel k).lockVal else divRoundS ((l.map Prod.snd).foldl (· + ·) 0) l.length

/-- HO_READY of a selector: the full interval is recorded. -/
def Chip.showReady (c : Chip) (k : Nat) : Chip :=
  c.flag (if k = 0 then Reg.SEL_STATUS_HO_READY_F else Reg.SEL_STATUS_HO_READY_T)
    (decide (c.rd Reg.HO_CFG_HO_AVG_S ≤ (c.hoEntries k c.now).length))

/-- A running DURATION of the servo's own ends with the following it belonged to. -/
def Chip.stopServo (c : Chip) : Chip :=
  if c.rd Reg.SERVO_CTRL_SERVO_MODE = 0 then { c with time := { c.time with durOn := false, durLeft := 0 } } else c

/-! ### The state of a selector (R238) -/

/-- A selector enters a state with a reference: what the state brings, and one notification of a change of state. From HOLDOVER or LOST a forced holdover
keeps its value and its time (log entry 208). -/
def Chip.enter (c : Chip) (k st ref : Nat) : Chip :=
  let was := c.selState k
  let hv := c.hoValue k
  let c1 := if k = 0 then (c.wr Reg.SEL_STATUS_FSTATE st).wr Reg.SEL_STATUS_FREF ref
    else (c.wr Reg.SEL_STATUS_TSTATE st).wr Reg.SEL_STATUS_TREF ref
  let c2 := match st with
    | 3 => if was = 3 ∨ was = 4 then c1 else
      let c2 := c1.updSel k fun s => { s with hoAt := c.now, hoVal := hv }
      if k = 0 then (((c2.wrS Reg.HO_STATUS_HO_FREQ (satS 32 (divRoundS (hv * 1000) freqUnit))).updDpll 0 fun x => { x with goal := hv }).setSynState
        0 5).showOutputs 0
      else (c2.wrS Reg.HO_STATUS_HO_ADJ (satS 32 (adjOf hv))).stopServo
    | 0 => if k = 0 then ((c1.updDpll 0 fun x => { x with goal := 0 }).setSynState 0 1).showOutputs 0 else c1.stopServo
    | 2 => c1.updSel k fun s => { s with locked := true, lockVal := c.selValue k, secAt := c.now, secInt := c.selInt k }
    | 1 => c1.updSel k fun s => { s with switchAt := c.now, hits := 0 }
    | _ => c1
  let c3 := if k = 0 then (c2.showBw 0).showSpur 0 else c2
  if was = st then c3 else c3.notify Nt.SELECTOR_STATE Cls.TIME 0 0x22

/-- The cause of R248 when the time selector loses its reference: 0 Announce, 1 class, 2 quality level of the frequency reference selected as the
evaluation began. -/
def Chip.upstreamCause (c : Chip) (ref : Nat) : Option Nat :=
  if (8 ≤ ref ∧ ref < 24 ∧ (c.ptpPort (c.refPort ref)).annOut) then some 0
  else if c.car.gmBad then some 1
  else if [c.rd Reg.SEL_STATUS_FREF, c.car.evalF].any fun f => decide (8 ≤ f) && decide (f < 24) && c.refQl f == qlDnu then some 2
  else none

/-- UPSTREAM_NOW when the time selector leaves LOCKED and ACQUIRING, and its end when it is LOCKED again (R248). -/
def Chip.upstream (c : Chip) (k st : Nat) : Chip :=
  let was := c.selState k
  if k = 0 then c
  else if (was = 1 ∨ was = 2) ∧ st ≠ 1 ∧ st ≠ 2 then
    match c.upstreamCause (c.selRef 1) with
    | some q =>
      ((c.flag Reg.SEL_STATUS_UPSTREAM_NOW true).flag Reg.SEL_STATUS_UPSTREAM_LOST true).notify Nt.UPSTREAM_LOST Cls.TIME 0 0x22 (some (0, q))
    | none => c
  else if st = 2 ∧ c.on Reg.SEL_STATUS_UPSTREAM_NOW then
    { c.flag Reg.SEL_STATUS_UPSTREAM_NOW false with
      coal := { c.coal with supOn := true, supUntil := c.now + unitsS 10 }
      car := { c.car with gmBad := false } }
  else c

/-- A transition, with R248 seen first. -/
def Chip.become (c : Chip) (k st ref : Nat) : Chip := (c.upstream k st).enter k st ref

/-- SUPPRESS_WINDOW_END (R248). -/
def Chip.suppressEnd (c : Chip) : Chip :=
  if c.coal.supOn ∧ c.coal.supUntil ≤ c.now then { c with coal := { c.coal with supOn := false } } else c

/-- The jump guard refuses a reference at a switch (R244, source 4): held, it is not healthy (R235). -/
def Chip.refJump (c : Chip) (n : Nat) (ph : Int) : Chip :=
  let c1 := ((c.refuseJump 4 n (-ph)).2).updRef n fun r => { r with jump := true, dropped := false, zero := false }
  if (c.ref n).healthy then c1.disqualify n else c1

/-- A switch to a reference with its phase policy (R238, R243, R244). -/
def Chip.switchTo (c : Chip) (k n : Nat) : Chip :=
  let slew := decide (n < 24) && c.rd Reg.REF_CFG_PH_POLICY n == 1
  if k = 0 then ((c.become 0 1 n).updSel 0 fun s => { s with slew := slew }).acquire 0
  else
    let r := c.ref n
    let ph := if n = 30 ∨ r.zero ∨ (8 ≤ n ∧ !c.on Reg.TIME_STATUS_TB_VALID) then 0 else c.toff n
    if c.jumpRefused ph then
      let c1 := c.refJump n ph
      if c.selState 1 = 3 then c1 else c1.become 1 3 31
    else
      let c1 := (c.become 1 1 n).updSel 1 fun s => { s with off := ph * 10 ^ 11, offAt := c.now, slew := slew }
      let c2 := { c1 with car := { c1.car with servoPrev := none, servoOuts := 0, servoI := ofAdj (c1.rdS Reg.ADJ) } }
      let c3 := c2.updRef n fun r => { r with zero := false }
      if n < 24 ∧ c.rd Reg.REF_CFG_PH_POLICY n = 0 then c3.wrS Reg.REF_OFFSET ph n else c3

/-! ### Choosing (R237, R239) -/

/-- Whether a reference is offered to a selector. -/
def Chip.offered (c : Chip) (k n : Nat) : Bool := if k = 0 then c.on Reg.REF_CFG_FREQ n else c.on Reg.REF_CFG_TIME n

/-- Qualified references offered to a selector: those an outvote is taken among. -/
def Chip.pool (c : Chip) (k : Nat) : List Nat := (List.range 24).filter fun n => c.offered k n && (c.ref n).qual

/-- The rank of R237: quality level first with QL_EN, then RANK. -/
def Chip.refRank (c : Chip) (n : Nat) : Nat :=
  (if c.on Reg.SEL_CFG_QL_EN then qlRank (c.on Reg.SEL_CFG_SSM_OPT) (c.refQl n) else 0) * 16 + c.rd Reg.REF_CFG_RANK n

/-- The references of the best rank of a list. -/
def Chip.bestGroup (c : Chip) (l : List Nat) : List Nat := l.filter fun n => l.all fun m => decide (c.refRank n ≤ c.refRank m)

/-- Whether two references disagree by their values in the last complete window (R239); references without one yet do not (log entry 73). -/
def Chip.disagree (c : Chip) (k a b : Nat) : Bool :=
  (c.ref a).measured && (c.ref b).measured &&
    (if k = 0 then decide (c.rd Reg.SEL_CFG_DIS_PPB * 10 < (c.rdS Reg.REF_MEAS_Y_OSC a - c.rdS Reg.REF_MEAS_Y_OSC b).natAbs)
    else decide (c.rd Reg.SEL_CFG_DIS_NS * 65536 < ((c.ref a).toffWin - (c.ref b).toffWin).natAbs))

/-- Whether a reference is outvoted among the others. -/
def Chip.outvoted (c : Chip) (k : Nat) (l : List Nat) (a : Nat) : Bool :=
  let others := l.filter (· != a)
  let d := (others.filter (c.disagree k a)).length
  decide (others.length < 2 * d)

/-- The reference of a list whose value lies nearest to the holdover value (R239): frequencies against it, time offsets against 0 (log
entry 29). -/
def Chip.nearest (c : Chip) (k : Nat) (l : List Nat) : Option Nat :=
  let dist := fun n => if k = 0 then (c.rdS Reg.REF_MEAS_Y_OSC n * freqUnit - c.hoValue 0 * 1000).natAbs else (c.ref n).toffWin.natAbs
  l.find? fun n => l.all fun m => decide (dist n < dist m) || (decide (dist n = dist m) && decide (n ≤ m))

/-- Outvoted references marked and a disagreement raised (R239); the reference chosen where the whole best rank disagrees. -/
def Chip.vote (c : Chip) (k : Nat) : Option Nat × Chip :=
  let l := c.pool k
  let g := c.bestGroup l
  let outs := g.filter (c.outvoted k l)
  let all := decide (g ≠ []) && decide (outs.length = g.length)
  let mask := if all then g.foldl setBit 0 else 0
  let c1 := c.each (List.range 24) fun n c =>
    let on := !all && outs.contains n
    if bitOf (c.ref n).out k = on then c else c.updRef n fun r => { r with out := if on then setBit r.out k else clrBit r.out k }
  let was := (c.sel k).disagree
  let c2 := if was = mask then c1 else c1.updSel k fun s => { s with disagree := mask }
  let c3 := if all ∧ was = 0 then (c2.flag Reg.SEL_STATUS_REF_DISAGREE true).notify Nt.REF_DISAGREE Cls.TIME 0 0x22 else c2
  (if all then (if g.contains (c.selRef k) then some (c.selRef k) else c.nearest k g) else none, c3)

/-- Selectable references (R235, R239). -/
def Chip.selectable (c : Chip) (k n : Nat) : Bool := (c.pool k).contains n && !bitOf (c.ref n).out k

/-- The best selectable reference (R237): ties go to the selected one, then to the lowest number. -/
def Chip.best (c : Chip) (k : Nat) : Option Nat :=
  let g := c.bestGroup ((c.pool k).filter fun n => !bitOf (c.ref n).out k)
  if g.contains (c.selRef k) then some (c.selRef k) else g.head?

/-- Whether a selector's lock condition holds. -/
def Chip.lockHolds (c : Chip) (k : Nat) : Bool :=
  if k = 0 then c.synState 0 == 4 else decide (c.rd Reg.SERVO_PARAM_TLOCK_N ≤ (c.sel 1).hits)

/-- Loss of the selected reference (R238): to the best, to HOLDOVER, or to FREE_RUN. -/
def Chip.lostRef (c : Chip) (k : Nat) (b : Option Nat) : Chip :=
  let c1 := c.setForced k false
  match b with
  | some n => c1.switchTo k n
  | none => if (c.sel k).locked then c1.become k 3 31 else c1.become k 0 31

/-- One selector's evaluation by the table of R238: an outvoted reference is not selectable, and is left as for a better one. -/
def Chip.evalSel (c : Chip) (k : Nat) : Chip :=
  if c.rd Reg.PWR_STATUS_STATE = 0 then c else
  let (pick, c1) := if c.standby then (none, c) else c.vote k
  let b := if c.standby then (if c.on Reg.TWIN_STATUS_LINK_UP then some 30 else none)
    else match pick with | some n => some n | none => c1.best k
  let st := c1.selState k
  let n := c1.selRef k
  let good := if n = 30 then decide (b = some 30)
    else decide (n < 24) && !c1.standby && ((c1.pool k).contains n || (c1.forced k && (c1.ref n).qual))
  if st = 1 ∨ st = 2 then
    if !good then c1.lostRef k b
    else if st = 1 then (if c1.lockHolds k then c1.become k 2 n else c1)
    else if c1.on Reg.SEL_CFG_REVERTIVE ∧ !c1.forced k then
      match b with
      | some m => if m = n then c1 else c1.switchTo k m
      | none => c1
    else c1
  else if c1.forced k then c1
  else match b with
    | some m => c1.switchTo k m
    | none => c1

/-- Held references at an evaluation with no jump pending (R244): a discarded one is free once its offset is small; the others are refused
anew. -/
def Chip.jumpRetry (c : Chip) : Chip :=
  c.each (List.range 24) fun n c =>
    let r := c.ref n
    if !r.jump then c
    else if !c.jumpRefused (c.toff n) then (if r.dropped ∨ c.rd Reg.PENDING_JUMP_JUMP_ID = 0 then c.updRef n fun r => { r with jump := false, dropped := false } else c)
    else c

/-- The refusals that follow an empty pending slot. -/
def Chip.jumpAgain (c : Chip) : Chip :=
  if c.rd Reg.PENDING_JUMP_JUMP_ID ≠ 0 then c
  else c.each ((List.range 24).filter fun n => (c.ref n).jump && !(c.ref n).dropped) fun n c => c.refJump n (c.toff n)

/-- Whether layer-1 syntonisation is in effect on a port (R231): in SLAVE, and the frequency selector LOCKED to its lane reference. -/
def Chip.l1On (c : Chip) (p : Nat) : Bool :=
  c.rd Reg.PTP_PORT_STATUS_PORT_STATE p == 9 && c.rd Reg.SEL_STATUS_FSTATE == 2 && (c.portRefs p).contains (c.rd Reg.SEL_STATUS_FREF)

/-- L1_SYNC of the port of the selected frequency reference, and of those that have it no more (R231). -/
def Chip.showL1 (c : Chip) : Chip :=
  c.each ((c.touched Reg.PTP_PORT_STATUS_L1_SYNC).map Prod.fst ++ [c.refPort (c.rd Reg.SEL_STATUS_FREF)]) fun p c =>
    if p < 512 then c.flag Reg.PTP_PORT_STATUS_L1_SYNC (c.l1On p) p else c

/-- What every evaluation and transition leaves up to date. -/
def Chip.selShow (c : Chip) : Chip := ((((c.showReady 0).showReady 1).showRefs).showL1).showQl

/-- Both selectors evaluated, the frequency selector before the time selector (R237). -/
def Chip.selNow (c : Chip) : Chip :=
  let c1 := { c with car := { c.car with evalF := c.rd Reg.SEL_STATUS_FREF } }
  let c2 := (c1.evalSel 0).evalSel 1
  { c2 with car := { c2.car with evalF := 31 } }.selShow

/-- REF_DISQUALIFIED (R235): the reference's health is looked at now; a reference that is disqualified by it is left at once (R18, R237). -/
def Chip.refLost (n : Nat) (c : Chip) : Chip :=
  if 24 ≤ n then c
  else
    let c1 := c.refScan n
    if (c.ref n).qual && !(c1.ref n).qual then c1.selNow else c1.showRefs

/-- REF_MEAS_WINDOW (R236): a 10 s window ends; a reference beyond a hard limit is disqualified and left at once. -/
def Chip.measWindow (n : Nat) (c : Chip) : Chip :=
  let c1 := c.measTake n
  if (c.ref n).qual && !(c1.ref n).qual then c1.selNow else c1

/-- SEL_EVALUATE (R237): references first, then the frequency selector, then the time selector. -/
def Chip.selEvaluate (c : Chip) : Chip := ((c.each (List.range 24) fun n c => c.refScan n).jumpRetry.jumpAgain).selNow

/-- SEL_ACQ_TIMEOUT (R238): no lock within 60 s or 600 s of the switch disqualifies the reference. -/
def Chip.acqTimeout (time : Bool) (c : Chip) : Chip :=
  let k := if time then 1 else 0
  let n := c.selRef k
  if c.selState k ≠ 1 ∨ 24 ≤ n ∨ c.now < (c.sel k).switchAt + unitsS (if time then 600 else 60) ∨ c.lockHolds k then c
  else ((c.disqualify n).evalSel k).selShow

/-- HO_ELAPSED in seconds. -/
def Chip.hoElapsed (c : Chip) (k : Nat) : Nat :=
  if c.selState k = 3 ∨ c.selState k = 4 then (c.now - (c.sel k).hoAt) / unitsS 1 else 0

/-- HO_MAX_EXPIRE (R238). -/
def Chip.hoMax (time : Bool) (c : Chip) : Chip :=
  let k := if time then 1 else 0
  let m := c.rd Reg.HO_CFG_HO_MAX_S
  if c.selState k = 3 ∧ m ≠ 0 ∧ m ≤ c.hoElapsed k then (c.become k 4 31).selShow else c

/-- HO_HISTORY_RECORD (R240): the mean of a second while LOCKED enters the ring of 4,096. -/
def Chip.hoRecord (time : Bool) (c : Chip) : Chip :=
  let k := if time then 1 else 0
  let s := c.sel k
  if c.selState k ≠ 2 ∨ c.now < s.secAt + unitsS 1 then c
  else
    let ticks := (c.now - s.secAt) / 256
    let d := c.selInt k - s.secInt
    let v := if k = 0 then divRoundS d ticks else divRoundS (d * (5 ^ 22 : Nat)) (32 * ticks)
    (c.updSel k fun s => { s with ring := ((c.now, v) :: s.ring).take 4096, secAt := c.now, secInt := c.selInt k }).showReady k

/-- REF_FORCE (R238) once checked: select, holdover or release. -/
def Chip.forceSel (c : Chip) (k action n : Nat) : Chip :=
  match action with
  | 0 =>
    let st := c.selState k
    if (st = 1 ∨ st = 2) ∧ c.selRef k = n then (c.setForced k true).become k (if c.lockHolds k then 2 else 1) n |>.selShow
    else ((c.setForced k true).switchTo k n).selShow
  | 1 => (((c.setForced k true).become k 3 31)).selShow
  | _ => c.setForced k false

/-- Whether REF_FORCE is refused (R238); in a standby the device holds the selections (R338; log entry 209). -/
def Chip.forceBad (c : Chip) (k action n : Nat) : Bool :=
  match action with
  | 0 => c.standby || decide (24 ≤ n) || !(c.ref n).qual || !c.offered k n
  | 1 => c.standby || c.selState k == 0
  | 2 => false
  | _ => true

/-- JUMP_ACCEPT of source 4 (R171, R244): accepted, the reference is free, as qualified as it was before its hold, and its next switch finds phase 0
(log entry 70); discarded, it stays held. -/
def Chip.jumpTaken (c : Chip) (n : Nat) (accept : Bool) : Chip :=
  if accept then
    let c1 := c.updRef n fun r => { r with jump := false, dropped := false, zero := true }
    if c1.refHealthy n then c1.updRef n fun r => { r with healthy := true, qual := true, ever := true, since := c.now } else c1
  else c.updRef n fun r => { r with dropped := true }

/-! ### The time servo (R245, R246, R167) -/

/-- The servo's bandwidth in mHz: 2 Hz for 10 s after Thaw (R346). -/
def Chip.servoBw (c : Chip) : Nat := if c.now < c.car.fastTo then 2000 else c.rd Reg.SERVO_PARAM_SERVO_BW

/-- The phase policy's offset as worked off by now (R243): the policy is that of the switch. -/
def Chip.workOffTime (c : Chip) : Chip :=
  if !(c.sel 1).slew then c
  else c.updSel 1 fun s => { s with off := moveTo s.off 0 ((c.now - s.offAt) * c.rd Reg.SEL_CFG_PH_SLEW * 65536 : Nat), offAt := c.now }

/-- One offset used by the loop: ADJ_NEW for one interval, the integral term after it, under R210. -/
def Chip.servoLoop (c : Chip) (o : Int) (rate : Nat × Nat) : Chip :=
  let (p, inc) := piTerms c.servoBw 1 rate (-o)
  let x := c.car.adjX
  let step : Int := c.rd Reg.SYN_LIMITS_SLEW 0 * slewTick * (c.now - c.car.adjAt) / 256
  let lim := fun (z : Int) => moveTo x (clipTo (c.synBand 0) z) step
  let excess := (p + c.car.servoI + inc) - lim (p + c.car.servoI + inc)
  let held := decide (excess ≠ 0) && (decide (0 < excess) == decide (0 < inc)) && inc != 0
  let i := if held then c.car.servoI else c.car.servoI + inc
  let y := lim (p + i)
  let ticks := divRound (rate.2 * 390625000) (max 1 rate.1)
  { c with car := { c.car with servoI := i, adjX := y, adjAt := c.now } }.applyIncr (adjOf y) ticks (adjOf i)

/-- An offset toward the time selector's lock (R238): within TLOCK_WIN, or not. -/
def Chip.timeHit (c : Chip) (e : Int) : Chip :=
  c.updSel 1 fun s => { s with hits := if e.natAbs * 1000 ≤ c.rd Reg.SERVO_PARAM_TLOCK_WIN * 65536 then s.hits + 1 else 0 }

/-- An offset of the selected time reference (R245, R246): the first setting, the jump guard, outliers, lock and the loop. In SERVO_MODE 1 and 2 it only
counts toward lock (R165, R238). DESIGN CHOICE (log entry 197): a refusal of source 2 names the followed reference in PENDING_JUMP.REF. -/
def Chip.servoOffset (c : Chip) (n : Nat) (o : Int) (rate : Nat × Nat) : Chip :=
  if c.selRef 1 ≠ n ∨ !c.follows n ∨ !(c.selState 1 == 1 || c.selState 1 == 2) then c
  else if c.rd Reg.SERVO_CTRL_SERVO_MODE ≠ 0 then
    let c1 := c.workOffTime
    c1.timeHit (o - divRoundS (c1.sel 1).off (10 ^ 11))
  else if !c.on Reg.TIME_STATUS_TB_VALID ∧ 8 ≤ n then c.queueStep { offset := -o, source := 2, req := none }
  else
    let c1 := c.workOffTime
    let e := o - divRoundS (c1.sel 1).off (10 ^ 11)
    if c1.jumpRefused e then (c1.refuseJump 2 n (-e)).2
    else
      let win := c.rd Reg.SERVO_PARAM_TLOCK_WIN * 65536
      let wild := match c.car.servoPrev with
        | some q => decide (10 * win < (o - q).natAbs * 1000) && decide ((o - q).natAbs ≤ c.rd Reg.JUMP_TH * 65536)
        | none => false
      if wild && decide (c.car.servoOuts < 3) then
        { c1 with car := { c1.car with servoOuts := c.car.servoOuts + 1 } }.count Ev.SERVO_OUTLIER
      else
        let c2 := { c1 with car := { c1.car with servoPrev := some o, servoOuts := 0 } }
        (c2.timeHit e).servoLoop e rate

/-- PHM_SAMPLE: the monitor takes its sample (R190), and a PPS reference gives the time selector an offset once per second (R234, R245). -/
def Chip.phmSampled (m edges : Nat) (edge : Fine) (c : Chip) : Chip :=
  let c1 := c.phmSample m edges edge
  let n := m - 512
  if 516 ≤ m ∧ m < 520 ∧ c.on Reg.REF_CFG_TIME n ∧ c.phmTakes m edges edge then
    (c1.wrS Reg.REF_TOFF (c1.toff n) n).servoOffset n (c1.toff n) (1, 1)
  else c1

/-- What each tick does: the integrals, and ADJ moving to its value in free run and holdover under R210 (R238, R240). -/
def Chip.carTick (c : Chip) : Chip :=
  let a := c.rdS Reg.ADJ
  let c1 := { c with car := { c.car with yInt := c.car.yInt + (c.dpll 0).y, adjInt := c.car.adjInt + a } }
  let st := c.selState 1
  if c.rd Reg.SERVO_CTRL_SERVO_MODE ≠ 0 ∨ st = 1 ∨ st = 2 then c1
  else
    let goal := clipTo (c.synBand 0) (if st = 0 then 0 else (c.sel 1).hoVal)
    if c.car.adjX = goal ∧ a = adjOf goal then c1
    else
      let x := moveTo c.car.adjX goal (c.rd Reg.SYN_LIMITS_SLEW 0 * slewTick : Nat)
      { c1 with car := { c1.car with adjX := x, adjAt := c.now } }.setAdj (adjOf x)

/-! ### ESMC (R247) -/

def Chip.updEsmc (c : Chip) (p : Nat) (f : Esmc → Esmc) : Chip := { c with car := { c.car with esmc := SMap.upd c.car.esmc p f } }

/-- An ESMC PDU of ITU-T G.8264 with the QL TLV. -/
def esmcPdu (event : Bool) (ql : Nat) : Bytes :=
  bytesOfNat 1 0x0A ++ bytesOfNat 3 0x0019A7 ++ bytesOfNat 2 1 ++ bytesOfNat 1 (16 + 8 * b2n event) ++ bytesOfNat 3 0 ++
    bytesOfNat 1 1 ++ bytesOfNat 2 4 ++ bytesOfNat 1 ql

/-- A port's own frame, under a Zidom header on fabric links and the twin link (R327, R333). -/
def Chip.wrapOwn (c : Chip) (p : Nat) (b : Bytes) : Bytes :=
  if c.on Reg.TWIN_CFG_PAIR_EN ∧ c.rd Reg.TWIN_CFG_LINK_PORT = p then zidFrame (zidOwn 4 1 7) b
  else if c.fabPort p then zidFrame (zidOwn 3 1 7) b
  else b

/-- ESMC_INFO_SEND: one information PDU per second, and an event PDU after a change of QL_TX. -/
def Chip.esmcSend (p : Nat) (c : Chip) : Chip :=
  let e := SMap.get c.car.esmc p
  if 512 ≤ p ∨ !c.on Reg.PORT_CFG_SYNCE_TX p ∨ !c.linkUp p ∨ (!e.evDue ∧ c.now < e.txAt + unitsS 1) then c
  else
    let b := ethFrame 0x0180C2000002 (c.rd Reg.DEV_MAC) none 0x8809 (esmcPdu e.evDue (c.rd Reg.ESMC_STATUS_QL_TX p))
    (c.updEsmc p fun e => { e with evDue := false, txAt := if e.evDue then e.txAt else c.now }).ownFrame p 7 (c.wrapOwn p b)

/-- The first frame of a trap queue that fits; one with a cell in a frozen bank waits (R48). -/
def Chip.trapFirst (c : Chip) (cls : Nat) (f : Frame → Bool) : Option (Frame × Nat) :=
  ((c.queue (trapQueue cls)).findSome? fun x => match c.frameOf x.1 with
    | some g => if f g then some (g, x.2) else none
    | none => none).filter fun x => c.cellsOpen x.1

/-- The key of a trapped frame: under a Zidom header, of the frame inside (R327). -/
def Frame.trapKey (f : Frame) : Key := f.keyAt (if f.zid.isSome then 16 else 0)
def Frame.trapBody (f : Frame) : Bytes := f.inner (if f.zid.isSome then 16 else 0)

/-- ESMC_PDU_RX: the firmware takes an ESMC PDU; on the port of a lane reference its QL TLV sets QL_RX. MGT discards it (R73). -/
def Chip.esmcRx (cls : Nat) (c : Chip) : Chip :=
  match c.trapFirst cls fun f => f.trapKey.esmc with
  | none => c
  | some (f, k) =>
    let c1 := (c.dropTgt f.id k).hostCopy f cls
    let p := f.port
    let b := f.trapBody
    if p = 512 ∨ (c.portRef p).isNone ∨ natAt b 18 2 ≠ 1 ∨ natAt b 24 1 ≠ 1 then c1
    else
      let q := natAt b 27 1 % 16
      let was := c.rd Reg.ESMC_STATUS_QL_RX p
      let c2 := ((c1.wr Reg.ESMC_STATUS_QL_RX q p).flag Reg.ESMC_STATUS_ESMC_SEEN true p).updEsmc p fun e => { e with rxAt := c.now, late := false }
      if was = q then c2 else c2.notify Nt.QL_CHANGE Cls.PORT p 0x56

/-- QL_TIMEOUT: no PDU for 5 s on the port of a lane reference. -/
def Chip.qlTimeout (p : Nat) (c : Chip) : Chip :=
  let e := SMap.get c.car.esmc p
  if 512 ≤ p ∨ (c.portRef p).isNone ∨ e.late ∨ c.now < e.rxAt + unitsS 5 then c
  else ((c.flag Reg.ESMC_STATUS_QL_TIMEOUT true p).updEsmc p fun e => { e with late := true }).notify Nt.QL_CHANGE Cls.PORT p 0x56

end Sys2Proof.Machine
end

