-- ==== Sys2Proof/Machine/Engine.lean ====
section
/-! DEFINITION. A Drumline engine (R250 to R253, R267, R275 to R288): its registers and memories, the descriptor format and its checks, the
running of one operation, its faults and its reruns. -/

namespace Sys2Proof.Machine

/-! ### Memories -/

def memRead (m : Mem) (a n : Nat) : Bytes := (List.range n).map fun i => SMap.get m (a + i)

/-- Bytes written from an address on. -/
def memWrite (m : Mem) (a : Nat) : Bytes → Mem
  | [] => m
  | b :: l => memWrite (SMap.set m a b) (a + 1) l

/-- A little-endian number in a memory (R3). -/
def memNat (m : Mem) (a n : Nat) : Nat := natOfBytesLE (memRead m a n)

def Chip.eng (c : Chip) (e : Nat) : Eng := SMap.get c.drum.eng e
def Chip.setEng (c : Chip) (e : Nat) (x : Eng) : Chip := { c with drum := { c.drum with eng := SMap.set c.drum.eng e x } }
def Chip.updEng (c : Chip) (e : Nat) (f : Eng → Eng) : Chip := c.setEng e (f (c.eng e))
def Chip.dom (c : Chip) (d : Nat) : Dom := SMap.get c.drum.dom d
def Chip.updDom (c : Chip) (d : Nat) (f : Dom → Dom) : Chip := { c with drum := { c.drum with dom := SMap.upd c.drum.dom d f } }

/-- A word of the cycle memory (R252), and its write with its tag (R290: 0xFFFF without a sequence). -/
def Chip.cycWord (c : Chip) (a : Nat) : Nat := memNat c.drum.cyc a 32
def Chip.cycTag (c : Chip) (a : Nat) : Nat := SMap.get c.drum.tags (a / 32) ^^^ 0xFFFF
def Chip.setTag (c : Chip) (a t : Nat) : Chip := { c with drum := { c.drum with tags := SMap.set c.drum.tags (a / 32) (t ^^^ 0xFFFF) } }
def Chip.cycWrite (c : Chip) (a : Nat) (b : Bytes) : Chip := { c with drum := { c.drum with cyc := memWrite c.drum.cyc a b } }

/-! ### Registers (R275, R276) -/

def Eng.reg (x : Eng) (r : Nat) : Nat := SMap.get x.v r
def Eng.setReg (x : Eng) (r v : Nat) : Eng := { x with v := SMap.set x.v r (v % 2 ^ 256) }

/-- Lane i of a register, or of a pair for TYPE 3. -/
def Eng.lane (x : Eng) (t r i : Nat) : Nat :=
  if t = 3 then bitsOf (x.reg (r + 1)) (32 * i) 32 * 2 ^ 32 + bitsOf (x.reg r) (32 * i) 32 else bitsOf (x.reg r) (32 * i) 32

/-- Lane i written. -/
def Eng.setLane (x : Eng) (t r i v : Nat) : Eng :=
  let y := x.setReg r (withBits (x.reg r) (32 * i) 32 v)
  if t = 3 then y.setReg (r + 1) (withBits (y.reg (r + 1)) (32 * i) 32 (v / 2 ^ 32)) else y

/-- A predicate register: one bit per lane; P0 reads 1 in all. -/
def Eng.prd (x : Eng) (p : Nat) : Nat := if p = 0 then 255 else SMap.get x.p p

/-- A predicate written in the lanes of a mask; P0 is not written. -/
def Eng.setPrd (x : Eng) (p v : Nat) (mask : Nat := 255) : Eng :=
  if p = 0 then x else { x with p := SMap.set x.p p ((x.prd p &&& (255 ^^^ mask)) ||| (v % 256 &&& mask)) }

/-- All lanes of a predicate set to one value. -/
def Eng.setAll (x : Eng) (p : Nat) (b : Bool) : Eng := x.setPrd p (if b then 255 else 0)

/-- The effective predicate of a descriptor as a mask (R276). -/
def Eng.mask (x : Eng) (d : Desc) : Nat := if d.pneg then 255 ^^^ x.prd d.pred else x.prd d.pred

/-- The lanes in which a descriptor acts. -/
def Eng.active (x : Eng) (d : Desc) (i : Nat) : Bool := (x.mask d).testBit i

/-- Lanes of DST written from a function of the lane, where the predicate allows. -/
def Eng.putLanes (x : Eng) (d : Desc) (t r : Nat) (f : Nat → Nat) : Eng :=
  (List.range 8).foldl (fun y i => if x.active d i then y.setLane t r i (f i) else y) x

/-- Thirty-two bytes as eight lanes, or up to sixty-four as eight 8-byte elements. -/
def Eng.putBytes (x : Eng) (d : Desc) (t r : Nat) (b : Bytes) : Eng :=
  let w := if t = 3 then 8 else 4
  x.putLanes d t r fun i => natOfBytesLE (sliceBytes b (w * i) w)

/-- A register or pair as bytes in memory order (R290). -/
def Eng.bytes (x : Eng) (t r : Nat) : Bytes :=
  let w := if t = 3 then 8 else 4
  (List.range 8).flatMap fun i => bytesOfNatLE w (x.lane t r i)

/-! ### Descriptors (R279 to R281) -/

/-- The fields of a 128-bit descriptor, and its OP. -/
def descOp (w : Nat) : Nat := bitsOf w 120 8

def descOf (w : Nat) : Desc :=
  { typ := Fin.ofNat 4 (bitsOf w 118 2), pred := Fin.ofNat 8 (bitsOf w 115 3), pneg := bitOf w 114,
    dst := Fin.ofNat 32 (bitsOf w 109 5), a := Fin.ofNat 32 (bitsOf w 104 5), b := Fin.ofNat 32 (bitsOf w 99 5),
    c := Fin.ofNat 32 (bitsOf w 94 5), flags := Fin.ofNat 64 (bitsOf w 88 6), imm := bitsOf w 64 24, addr := bitsOf w 32 32,
    aux := bitsOf w 0 32 }

/-- Addresses (R280): whether one names cycle memory, and its byte address. -/
def isCyc (a : Nat) : Bool := bitOf a 31
def locAddr (a : Nat) : Nat := bitsOf a 0 17
def cycAddr (a : Nat) : Nat := bitsOf a 0 25

/-- A local operand of n bytes inside the data region, with its alignment. -/
def localOk (a n align : Nat) : Bool :=
  decide (a < 2 ^ 17) && decide (0x8000 ≤ a) && decide (a + n ≤ 0x20000) && a % align == 0

/-- A cycle-memory operand of n bytes, 32-byte aligned. -/
def cycOk (a n : Nat) : Bool := isCyc a && bitsOf a 25 6 == 0 && decide (cycAddr a + n ≤ 2 ^ 25) && a % 32 == 0

/-- What an operation uses of a descriptor: TYPEs allowed, register fields DST, SRCA, SRCB, SRCC, the bits of FLAGS and IMM, ADDR and AUX. -/
structure OpForm where
  types : List Nat
  dst : Bool := false
  a : Bool := false
  b : Bool := false
  c : Bool := false
  flags : Nat := 0
  imm : Nat := 0
  addr : Bool := false
  aux : Bool := false

/-- The forms of the operations (R289 to R313). -/
def opForm : Nat → Option OpForm
  | 0x00 => some { types := [0, 1, 2, 3] }
  | 0x01 => some { types := [0, 1, 2, 3], dst := true, addr := true }
  | 0x02 => some { types := [0, 1, 2, 3], a := true, flags := 1, addr := true }
  | 0x03 => some { types := [0, 1, 2, 3], dst := true, addr := true, aux := true }
  | 0x04 => some { types := [0, 1, 2], dst := true, a := true, imm := 2 ^ 24 - 1 }
  | 0x10 => some { types := [0, 3], dst := true, flags := 63, addr := true }
  | 0x11 => some { types := [0, 3], dst := true, flags := 63, addr := true }
  | 0x12 => some { types := [3], dst := true, a := true, flags := 7 }
  | 0x13 => some { types := [0], dst := true, flags := 7 }
  | 0x14 => some { types := [3], dst := true, flags := 1, imm := 1023 }
  | 0x15 => some { types := [0], flags := 7, imm := 1023 }
  | 0x20 => some { types := [0, 1, 2, 3], dst := true, a := true, b := true, flags := 1 }
  | 0x21 => some { types := [0, 1, 2, 3], dst := true, a := true, b := true, flags := 1 }
  | 0x22 => some { types := [0, 1, 2], dst := true, a := true, b := true, flags := 1 }
  | 0x23 => some { types := [0, 1, 2], dst := true, a := true, b := true, c := true, flags := 1 }
  | 0x24 => some { types := [0, 1, 2], dst := true, a := true, b := true, flags := 1 }
  | 0x25 => some { types := [0, 1, 2, 3], dst := true, a := true, flags := 1 }
  | 0x26 => some { types := [0, 1, 2, 3], dst := true, a := true, flags := 1 }
  | 0x27 => some { types := [0, 1, 2, 3], dst := true, a := true, b := true }
  | 0x28 => some { types := [0, 1, 2, 3], dst := true, a := true, b := true }
  | 0x29 => some { types := [0, 1, 2, 3], dst := true, a := true, b := true, c := true }
  | 0x2A => some { types := [0, 1, 3], dst := true, a := true, flags := 1, imm := 127 }
  | 0x2B => some { types := [0, 1, 2, 3], dst := true, a := true, flags := 3, imm := 63 }
  | 0x2C => some { types := [2], dst := true, a := true }
  | 0x30 => some { types := [0, 1, 2, 3], a := true, b := true, flags := 7, imm := 7 }
  | 0x31 => some { types := [0], a := true, b := true, flags := 7, imm := 3 }
  | 0x40 => some { types := [3], dst := true, a := true, b := true, addr := true }
  | 0x41 => some { types := [3], dst := true, a := true, flags := 7, addr := true, aux := true }
  | 0x42 => some { types := [3], dst := true, a := true, aux := true }
  | 0x43 => some { types := [3], dst := true, a := true, b := true, c := true, flags := 7, addr := true, aux := true }
  | 0x44 => some { types := [1, 2], dst := true, a := true, addr := true, aux := true }
  | 0x45 => some { types := [2], dst := true, a := true, b := true, addr := true, aux := true }
  | 0x50 => some { types := [0, 1, 2, 3], a := true, flags := 3, imm := 63, addr := true }
  | 0x51 => some { types := [0], addr := true, aux := true }
  | 0x52 => some { types := [3], a := true, flags := 3, imm := 31, aux := true }
  | 0x53 => some { types := [3], a := true, imm := 7, addr := true, aux := true }
  | 0x54 => some { types := [0], a := true, imm := 63 }
  | 0x60 => some { types := [0], flags := 1, imm := 1023 }
  | 0x61 => some { types := [0] }
  | _ => none

/-- Unused fields are 0 and TYPE is allowed (R279, R281). -/
def OpForm.ok (f : OpForm) (d : Desc) : Bool :=
  f.types.contains d.typ.val && (f.dst || d.dst.val == 0) && (f.a || d.a.val == 0) && (f.b || d.b.val == 0) && (f.c || d.c.val == 0) &&
  (d.flags.val &&& (63 ^^^ f.flags)) == 0 && decide (d.imm < 2 ^ 24 ∧ d.addr < 2 ^ 32 ∧ d.aux < 2 ^ 32) && (d.imm &&& ((2 ^ 24 - 1) ^^^ f.imm)) == 0 &&
  (f.addr || d.addr == 0) && (f.aux || d.aux == 0)

/-- The registers named as pairs are even (R275). TSUB's SRCA is one register; RECV and POST name pairs under TYPE 0. -/
def pairsOk (op : Nat) (d : Desc) : Bool :=
  let ev := fun (r : Fin 32) => r.val % 2 == 0
  match op with
  | 0x12 => ev d.dst
  | 0x13 => ev d.dst
  | 0x54 => ev d.a
  | 0x2B => (d.typ.val != 3 || ev d.dst) && (d.flags.val % 4 != 3 || ev d.a)
  | 0x40 => d.dst.val % 4 == 0 && ev d.a && ev d.b
  | _ => d.typ.val != 3 || (ev d.dst && ev d.a && ev d.b && ev d.c)

/-- The bytes a FIELD writes: 0 in IMM[5:0] stands for 64 (R308; log entry 60). -/
def fieldLen (d : Desc) : Nat := if d.imm = 0 then 64 else d.imm

/-- The values the fields of an operation may hold (R290 to R313), addresses apart. -/
def valuesOk (op : Nat) (d : Desc) : Bool :=
  let f := d.flags.val
  match op with
  | 0x02 => f == 0 || isCyc d.addr
  | 0x03 => d.typ.val == 3 || d.addr == 0
  | 0x14 => decide (d.imm % 128 ≤ 71)
  | 0x15 => f != 0 && decide (d.imm ≤ 1016)
  | 0x2A => decide (d.imm % 64 < laneBits d.typ) && (f == 0 || d.typ.val == 0)
  | 0x2B => if (f == 0 && d.typ.val == 3) || (f == 3 && d.typ.val == 0) then decide (d.imm ≤ 32) else d.imm == 0
  | 0x30 => f != 0 && decide (d.imm ≤ 5)
  | 0x31 => f != 0 && decide (d.a.val < 8) && decide (d.b.val < 8)
  | 0x50 =>
    let step := if d.typ.val = 3 then 8 else 4
    f != 3 && fieldLen d % step == 0 && decide (fieldLen d ≤ 8 * step) && (f != 2 || fieldLen d % 8 == 0)
  | 0x51 => decide (d.aux ≤ 1000000000)
  | 0x52 => if f = 3 then decide (6 ≤ d.aux) && decide (d.aux ≤ 1073741823) else d.aux == 0
  | 0x53 => decide (1 ≤ d.imm) && decide (d.imm ≤ 4) && decide (d.addr ≤ 65535000)
  | 0x60 => decide (1 ≤ d.imm)
  | _ => if 0x20 ≤ op ∧ op ≤ 0x26 then f == 0 || d.typ.val == 0 else true

/-- The bytes of an operation's state block halves and of its parameter block. -/
def stateSize : Nat → Nat
  | 0x40 => 192
  | 0x41 => 256
  | 0x43 => 64
  | 0x44 => 128
  | 0x45 => 96
  | _ => 0

def paramSize : Nat → Nat
  | 0x41 => 64
  | 0x42 => 32
  | 0x43 => 256
  | 0x44 => 160
  | 0x45 => 192
  | _ => 0

/-- LEN of a scatter template in a memory. -/
def tmplLen (m : Mem) (a : Nat) : Nat := memNat m (locAddr a + 6) 2

/-- The addresses of an operation lie where R280 has them. -/
def addrsOk (op : Nat) (d : Desc) : Bool :=
  let n := if d.typ.val = 3 then 64 else 32
  match op with
  | 0x01 => if isCyc d.addr then cycOk d.addr n else localOk d.addr n 4
  | 0x02 => if isCyc d.addr then cycOk d.addr n else localOk d.addr n 4
  | 0x10 => cycOk d.addr 64 && d.addr % 64 == 0
  | 0x11 => cycOk d.addr 32
  | 0x42 => localOk d.aux 32 4
  | 0x50 => localOk d.addr (fieldLen d) 1
  | 0x51 => localOk d.addr 16 1
  | _ =>
    if stateSize op = 0 then true
    else localOk d.addr (2 * stateSize op) 32 && (paramSize op == 0 || localOk d.aux (paramSize op) 32)

/-- What is wrong with a descriptor, as CAUSE of ENG_STATUS: 1 invalid, 2 an address outside its regions (R267, R281). -/
def descFault (op : Nat) (d : Desc) : Option Nat :=
  match opForm op with
  | none => some 1
  | some f => if !(f.ok d && pairsOk op d && valuesOk op d) then some 1 else if !addrsOk op d then some 2 else none

/-- The cycle-memory words an operation of a program writes, and whether with a sequence. -/
def storeWords (w : Nat) : List Nat :=
  let d := descOf w
  if descOp w = 0x02 ∧ isCyc d.addr then (if d.typ.val = 3 then [cycAddr d.addr, cycAddr d.addr + 32] else [cycAddr d.addr]) else []

/-! ### The cycle an engine runs in (R278) -/

/-- The domain of an engine (R256). -/
def Chip.engDom (c : Chip) (e : Nat) : Nat := ((c.eng e).dom).getD (c.rd Reg.ENG_CFG_DOMAIN (256 + e))

/-- PERIOD in ns of the running cycle, k modulo 2, and T_k. -/
def Chip.engPeriod (c : Chip) (e : Nat) : Nat :=
  let d := c.engDom e
  if (c.dom d).period = 0 then c.rd Reg.CD_CFG_PERIOD d else (c.dom d).period
def Chip.engK (c : Chip) (e : Nat) : Nat := c.rd Reg.CD_CYCLE (c.engDom e)
def Chip.engTk (c : Chip) (e : Nat) : Int := (c.dom (c.engDom e)).tk

/-- The valid entries of a domain's gather list. -/
def Chip.inputsOf (c : Chip) (d : Nat) : List Nat :=
  (c.touched Reg.GATHER_LIST_VALID).filterMap fun x => if x.1 = d then some x.2 else none

/-- The entry of a domain's gather list whose pair stands at an address. -/
def Chip.entryAt (c : Chip) (d a : Nat) : Option Nat := (c.inputsOf d).find? fun i => c.rd Reg.GATHER_LIST_ADDR d i == a / 64

/-- Whether a gather entry of any domain owns a word. -/
def Chip.gatherOwns (c : Chip) (a : Nat) : Bool := (List.range 4).any fun d => (c.entryAt d a).isSome

/-- Whether an enabled engine other than e stores to a word. -/
def Chip.otherStores (c : Chip) (e a : Nat) : Bool :=
  (List.range 64).any fun f => f != e && c.on Reg.ENG_CFG_EN (256 + f) && (c.eng f).prog.descs.any fun w => (storeWords w).contains a

/-- Whether engine e may write a word (R253). -/
def Chip.ownsWord (c : Chip) (e a : Nat) : Bool := !c.gatherOwns a && !c.otherStores e a

/-- The engine of a domain whose program stores to a word with a sequence (R293). -/
def Chip.producer (c : Chip) (d a : Nat) : Option Nat :=
  (List.range 64).find? fun f => c.on Reg.ENG_CFG_EN (256 + f) && c.engDom f == d &&
    (c.eng f).prog.descs.any fun w => (storeWords w).contains a && bitOf w 88

/-! ### Running -/

def Chip.engState (c : Chip) (e : Nat) : Nat := c.rd Reg.ENG_STATUS_STATE (256 + e)
def Chip.setEngState (c : Chip) (e s : Nat) : Chip := c.wr Reg.ENG_STATUS_STATE s (256 + e)

/-- The mailbox of an engine emptied; each message counts MBX_LOST (R273). -/
def Chip.emptyMbx (c : Chip) (e : Nat) : Chip :=
  ((c.each (c.eng e).mbx fun _ c => c.count Ev.MBX_LOST e).updEng e fun x => { x with mbx := [] }).flag Reg.MBX_STAT_H2F_FULL false (64 + e)

/-- A message in an engine's mailbox: the fourth sets FULL and raises vector 52 (R273, R367); to a full one it is dropped. -/
def Chip.mbxEngine (c : Chip) (e msg : Nat) : Bool × Chip :=
  let l := (c.eng e).mbx
  if 4 ≤ l.length then (false, c.count Ev.MBX_FULL_DROP e)
  else
    let c1 := c.updEng e fun x => { x with mbx := l ++ [msg] }
    (true, if l.length = 3 then (c1.flag Reg.MBX_STAT_H2F_FULL true (64 + e)).emit (.msix 52) else c1)

/-- Whether the bank of a cycle-memory byte address is frozen (R47, R252). Operations, taps and captures hold there; log entry 172 says what does
not. -/
def Chip.bankHeld (c : Chip) (a : Nat) : Bool := c.arbFrozen (64 + a / 2 ^ 19 % 64)

/-- What an operation did: it goes on, past n further descriptors, it waits, it holds at a frozen bank (R47), it ends the program, or it
stops the engine with a cause. -/
inductive OpEnd where
  | next (c : Chip)
  | jump (n : Nat) (c : Chip)
  | wait (state : Nat) (c : Chip)
  | hold
  | done (c : Chip)
  | fault (cause : Nat)

/-- An engine stopped by a fault (R267, R273). -/
def Chip.stopEngine (c : Chip) (e cause : Nat) : Chip :=
  let i := 256 + e
  let c1 := (((c.setEngState e 6).flag Reg.ENG_STATUS_ENG_FAULT true i).wr Reg.ENG_STATUS_CAUSE cause i).wr Reg.ENG_STATUS_DESC (c.eng e).pc i
  ((c1.updEng e fun x => { x with outs := [], wait := none, saves := [] }).emptyMbx e).notify Nt.ENG_FAULT Cls.CYC i 2

/-- One operation of an engine at its program counter: a stopped engine runs nothing (R267). -/
def Chip.engOp (e op : Nat) (d : Desc) (body : Chip → OpEnd) (c : Chip) : Chip :=
  if c.engState e = 6 then c
  else match descFault op d with
    | some cause => c.stopEngine e cause
    | none =>
      let go := fun (n : Nat) (c : Chip) => c.updEng e fun x => { x with pc := x.pc + 1 + n, wait := none }
      match body c with
      | .next c1 => go 0 c1
      | .jump n c1 => go n c1
      | .wait s c1 => (c1.updEng e fun x => { x with wait := some (op, d) }).setEngState e s
      | .hold => c
      | .done c1 => (go 0 c1).setEngState e 5
      | .fault cause => c.stopEngine e cause

/-- An operation that only changes the engine's registers and local memory. -/
def Chip.engReg (e op : Nat) (d : Desc) (f : Eng → Eng) (c : Chip) : Chip := c.engOp e op d fun c => .next (c.updEng e f)

/-- The descriptors of an image written into a program region (R250): the one that is not active, or the active one. -/
def Eng.putRegion (x : Eng) (active : Bool) (g : Img) : Eng :=
  { x with mem := memWrite x.mem (if x.regionB == active then 0x4000 else 0) (g.descs.flatMap fun w => bytesOfNatLE 16 w) }
def Eng.putProg (x : Eng) (g : Img) : Eng := x.putRegion false g

/-- A save point taken at the engine's program counter (R284). -/
def Eng.save (x : Eng) (input word : Option Nat) : Eng :=
  { x with saves := (x.saves.filter fun s => s.pc != x.pc) ++ [{ pc := x.pc, v := x.v, p := x.p, input := input, word := word }] }

/-- An output held for the fence under its descriptor's index (R288). -/
def Eng.out (x : Eng) (o : EOut) : Eng := { x with outs := x.outs ++ [(x.pc, o)] }

/-- The tag of a word whose sequence store is withdrawn: no cycle's number (R263, R288). -/
def goneTag : Nat := 0x1FFFF

/-- Reruns (R263, R284 to R288): each engine from a save point, its later outputs and sequence stores withdrawn; engines that waited on a
withdrawn word are rerun from that wait. -/
def Chip.rerunAll : Nat → List (Nat × Nat) → Chip → Chip
  | 0, _, c => c
  | _, [], c => c
  | k + 1, (e, pc) :: l, c =>
    let x := c.eng e
    match x.saves.find? fun s => s.pc == pc with
    | none => Chip.rerunAll k l c
    | some s =>
      let gone := (x.wrote.filter fun w => decide (pc ≤ w.1)).map Prod.snd
      let c1 := (c.updEng e fun x =>
        { x with v := s.v, p := s.p, pc := pc, wait := none, saves := x.saves.filter fun s => decide (s.pc < pc),
                 outs := x.outs.filter fun o => decide (o.1 < pc), wrote := x.wrote.filter fun w => decide (w.1 < pc) }).setEngState e 2
      let c2 := c1.each gone fun a c => c.setTag a goneTag
      let hit := (List.range 64).flatMap fun f =>
        if c.engState f = 6 ∨ c.engDom f ≠ c.engDom e then []
        else (((c2.eng f).saves.filter fun s => match s.word with | some w => gone.contains w | none => false).take 1).map fun s => (f, s.pc)
      Chip.rerunAll k (hit ++ l) c2

/-- The engines of a domain that read an input run again from its first GATHER (R263, R284). -/
def Chip.rerunInput (c : Chip) (d i : Nat) : Chip :=
  let l := (List.range 64).flatMap fun f =>
    if c.engState f = 6 ∨ c.engDom f ≠ d then []
    else (((c.eng f).saves.filter fun s => s.input == some i).take 1).map fun s => (f, s.pc)
  Chip.rerunAll 1024 l c

end Sys2Proof.Machine
end

