-- ==== Sys2Proof/Machine/EngineOps.lean ====
section
/-! DEFINITION. The cycle operations (R289 to R313, 13_cycle_operations.md), each as an engine runs it at its program counter. -/

namespace Sys2Proof.Machine

/-! ### Moving values (R290, R291) -/

def Chip.opNop (e : Nat) (d : Desc) (c : Chip) : Chip := c.engOp e 0x00 d .next

/-- Bytes of an operand in local or cycle memory. -/
def Chip.operandBytes (c : Chip) (e a n : Nat) : Bytes :=
  if isCyc a then memRead c.drum.cyc (cycAddr a) n else memRead (c.eng e).mem (locAddr a) n

/-- Whether an operand of n bytes lies in the cycle memory with its bank frozen (R47). -/
def Chip.operandHeld (c : Chip) (a n : Nat) : Bool := isCyc a && (c.bankHeld (cycAddr a) || c.bankHeld (cycAddr a + n - 1))

def Chip.opLoad (e : Nat) (d : Desc) (c : Chip) : Chip :=
  c.engOp e 0x01 d fun c =>
    let t := d.typ.val
    let n := if t = 3 then 64 else 32
    let b := c.operandBytes e d.addr n
    if c.operandHeld d.addr n then .hold
    else .next (c.updEng e fun x => x.putBytes d t d.dst b)

/-- Bytes written where the predicate of their lane allows, `w` bytes to a lane; `lane` tells whose the i-th are. -/
def Eng.storeBytes (x : Eng) (d : Desc) (w : Nat) (m : Mem) (a : Nat) (b : Bytes) (lane : Nat → Nat := id) : Mem :=
  (List.range (b.length / w)).foldl (fun m i => if x.active d (lane i) then memWrite m (a + w * i) (sliceBytes b (w * i) w) else m) m

/-- A word stored: its tag, and the record of a sequence store. -/
def Chip.tagStore (c : Chip) (e : Nat) (d : Desc) (a : Nat) : Chip :=
  if d.flags.val % 2 = 1 then
    (c.setTag a (c.engK e % 65536)).updEng e fun x => { x with wrote := x.wrote ++ [(x.pc, a)] }
  else c.setTag a 0xFFFF

def Chip.opStore (e : Nat) (d : Desc) (c : Chip) : Chip :=
  c.engOp e 0x02 d fun c =>
    let t := d.typ.val
    let w := if t = 3 then 8 else 4
    let x := c.eng e
    let b := x.bytes t d.a
    if isCyc d.addr then
      let a := cycAddr d.addr
      let ws := if t = 3 then [(a, 0, 4), (a + 32, 4, 4)] else [(a, 0, 8)]
      if ws.any fun p => !c.ownsWord e p.1 then .fault 3
      else if ws.any fun p => c.bankHeld p.1 then .hold
      else
        let c1 : Chip := { c with drum := { c.drum with cyc := x.storeBytes d w c.drum.cyc a b } }
        .next (c1.each ws fun p c => if (List.range p.2.2).any fun i => x.active d (p.2.1 + i) then c.tagStore e d p.1 else c)
    else .next (c.updEng e fun x => { x with mem := x.storeBytes d w x.mem (locAddr d.addr) b })

def Chip.opMovi (e : Nat) (d : Desc) (c : Chip) : Chip :=
  c.engReg e 0x03 d fun x => x.putLanes d d.typ d.dst fun _ => if d.typ.val = 3 then d.addr * 2 ^ 32 + d.aux else d.aux

def Chip.opShuf (e : Nat) (d : Desc) (c : Chip) : Chip :=
  c.engReg e 0x04 d fun x => x.putLanes d 0 d.dst fun i => x.lane 0 d.a (bitsOf d.imm (3 * i) 3)

/-! ### Inputs and exchange (R292 to R297) -/

/-- An input's record in the running cycle. -/
def Chip.gin (c : Chip) (d i : Nat) : GIn := SMap.get (c.dom d).ins i
def Chip.updGin (c : Chip) (d i : Nat) (f : GIn → GIn) : Chip := c.updDom d fun x => { x with ins := SMap.upd x.ins i f }

/-- The word of an input as eight lanes or as four elements, with its two predicates. -/
def Eng.takeWord (x : Eng) (d : Desc) (word : Nat) (usable fresh : Bool) : Eng :=
  let y := x.putBytes d d.typ d.dst (bytesOfNatLE 32 word)
  (y.setAll (d.flags.val % 8) usable).setAll (d.flags.val / 8) fresh

/-- GATHER (R292). A frame input that no frame has given yet and whose deadline has not passed is waited for. -/
def Chip.opGather (e : Nat) (d : Desc) (c : Chip) : Chip :=
  c.engOp e 0x10 d fun c =>
    let dm := c.engDom e
    let a := cycAddr d.addr
    match c.entryAt dm a with
    | none => .fault 2
    | some i =>
      let g := c.gin dm i
      let src := c.rd Reg.GATHER_LIST_SRC dm i
      if c.bankHeld a then .hold
      else if src = 0 then
        let c1 := c.updEng e fun x => x.save (some i) none
        if g.st = .none then .wait 3 c1
        else
          let word := if g.st = .pending then c.cycWord (a + 32) else c.cycWord a
          .next (c1.updEng e fun x => x.takeWord d word (g.st != .faulted) (g.st == .pending || g.st == .confirmed))
      else
        let none_ := src == 1 && g.st == .none
        .next (c.updEng e fun x => x.takeWord d (if none_ then 0 else c.cycWord (a + 32)) (!none_) (!none_))

/-- Whether a WAITSEQ on a word goes on: 1 the word is tagged for the cycle, 2 its producer has stopped. -/
def Chip.seqReady (c : Chip) (e a : Nat) : Nat :=
  let gone := match c.producer (c.engDom e) a with
    | some f => c.engState f == 6
    | none => false
  if gone then 2 else if c.cycTag a = c.engK e % 65536 then 1 else 0

/-- WAITSEQ (R293). -/
def Chip.opWaitseq (e : Nat) (d : Desc) (c : Chip) : Chip :=
  c.engOp e 0x11 d fun c =>
    let a := cycAddr d.addr
    let c1 := c.updEng e fun x => x.save none (some a)
    let r := c.seqReady e a
    if c.bankHeld a then .hold
    else if r = 0 then .wait 4 c1 else .next (c1.updEng e fun x => x.takeWord d (c.cycWord a) (r == 1) (r == 1))

/-- TSUB (R294): signed 32.32 ns. -/
def Chip.opTsub (e : Nat) (d : Desc) (c : Chip) : Chip :=
  let tk := c.engTk e
  c.engReg e 0x12 d fun x =>
    let s := bitsOf (x.reg d.a) 0 96
    let diff : Int := ((timeOf96 s : Int) - tk) * 65536
    let lim : Int := 2 ^ 63 - 1
    let r := encS 64 (max (-lim) (min lim diff))
    let y := x.putLanes d 3 d.dst fun i => if i = 0 then r else 0
    y.setAll d.flags (!bitOf (x.reg d.a) 97 && s != 0)

/-- What an operation returned at its first execution in the cycle (R285). -/
def Eng.replayed (x : Eng) : Option (Option Nat) := (x.replay.find? fun r => r.1 == x.pc).map Prod.snd

/-- RECV (R295): a 64-byte message. The engine's mailbox is no longer full once one is taken. -/
def Chip.opRecv (e : Nat) (d : Desc) (c : Chip) : Chip :=
  c.engOp e 0x13 d fun c =>
    let x := c.eng e
    let (m, c1) := match x.replayed with
      | some m => (m, c)
      | none =>
        let m := x.mbx.head?
        let c1 := c.updEng e fun x => { x with mbx := x.mbx.drop 1, replay := x.replay ++ [(x.pc, m)] }
        (m, if x.mbx = [] then c1 else c1.flag Reg.MBX_STAT_H2F_FULL false (64 + e))
    let b := bytesOfNat 64 (m.getD 0)
    .next (c1.updEng e fun x =>
      ((x.putBytes d 0 d.dst (b.take 32)).putBytes d 0 (d.dst.val + 1) (b.drop 32)).setAll d.flags m.isSome)

/-- CNTRD (R296, R274): without the right nothing is read and the lanes read 0. -/
def Chip.opCntrd (e : Nat) (d : Desc) (c : Chip) : Chip :=
  c.engOp e 0x14 d fun c =>
    let g := d.imm % 128
    let n := d.imm / 128 % 8
    let (v, c1) := match (c.eng e).replayed with
      | some m => (m.getD 0, c)
      | none =>
        let v :=
          if !bitOf (c.rd Reg.CNT_RIGHTS (256 + e)) g then 0
          else if d.flags.val % 2 = 1 then c.rd Reg.CNT_SNAP_VALUE g n else c.rd Reg.CNT_VALUE_VALUE g n
        (v, c.updEng e fun x => { x with replay := x.replay ++ [(x.pc, some v)] })
    .next (c1.updEng e fun x => x.putLanes d 3 d.dst fun i => if i = 0 then v else 0)

/-- Whether the GATHER of a source-0 input of an axis stands before the engine's present descriptor. -/
def Chip.gatheredAxis (c : Chip) (e axis : Nat) : Bool :=
  let dom := c.engDom e
  ((c.eng e).prog.descs.take (c.eng e).pc).any fun w => descOp w == 0x10 && (match c.entryAt dom (cycAddr (descOf w).addr) with
    | some i => c.rd Reg.GATHER_LIST_SRC dom i == 0 && c.rd Reg.GATHER_LIST_AXIS dom i == axis
    | none => false)

/-- AXFLT (R285, R297): in a rerun what it gave stands, but for the axes whose input is gathered before it. -/
def Chip.opAxflt (e : Nat) (d : Desc) (c : Chip) : Chip :=
  let now := bitsOf (c.dom (c.engDom e)).axes d.imm 8
  let v := match (c.eng e).replayed with
    | some m => (List.range 8).foldl (fun a i => if c.gatheredAxis e (d.imm + i) && bitOf now i then setBit a i else a) (m.getD 0)
    | none => now
  c.engReg e 0x15 d fun x =>
    { x with replay := if x.replayed.isSome then x.replay else x.replay ++ [(x.pc, some v)] }.setPrd d.flags v (x.mask d)

/-! ### Arithmetic and predicates (R298 to R301) -/

/-- A lane operation of two, one and three sources. -/
def Eng.lanes2 (x : Eng) (d : Desc) (f : Nat → Nat → Nat) : Eng :=
  x.putLanes d d.typ d.dst fun i => f (x.lane d.typ d.a i) (x.lane d.typ d.b i)
def Eng.lanes1 (x : Eng) (d : Desc) (f : Nat → Nat) : Eng :=
  x.putLanes d d.typ d.dst fun i => f (x.lane d.typ d.a i)
def Eng.lanes3 (x : Eng) (d : Desc) (f : Nat → Nat → Nat → Nat) : Eng :=
  x.putLanes d d.typ d.dst fun i => f (x.lane d.typ d.a i) (x.lane d.typ d.b i) (x.lane d.typ d.c i)

/-- SAT of FLAGS. -/
def satOf (d : Desc) : Bool := d.flags.val % 2 == 1

def Chip.opAdd (e : Nat) (d : Desc) (c : Chip) : Chip := c.engReg e 0x20 d fun x => x.lanes2 d (laneAdd d.typ (satOf d))
def Chip.opSub (e : Nat) (d : Desc) (c : Chip) : Chip := c.engReg e 0x21 d fun x => x.lanes2 d (laneSub d.typ (satOf d))
def Chip.opMul (e : Nat) (d : Desc) (c : Chip) : Chip := c.engReg e 0x22 d fun x => x.lanes2 d (laneMul d.typ (satOf d))
def Chip.opMac (e : Nat) (d : Desc) (c : Chip) : Chip := c.engReg e 0x23 d fun x => x.lanes3 d (laneMac d.typ (satOf d))
def Chip.opDiv (e : Nat) (d : Desc) (c : Chip) : Chip := c.engReg e 0x24 d fun x => x.lanes2 d (laneDiv d.typ)
def Chip.opNeg (e : Nat) (d : Desc) (c : Chip) : Chip := c.engReg e 0x25 d fun x => x.lanes1 d (laneNeg d.typ (satOf d))
def Chip.opAbs (e : Nat) (d : Desc) (c : Chip) : Chip := c.engReg e 0x26 d fun x => x.lanes1 d (laneAbs d.typ (satOf d))
def Chip.opMin (e : Nat) (d : Desc) (c : Chip) : Chip := c.engReg e 0x27 d fun x => x.lanes2 d (laneMin d.typ)
def Chip.opMax (e : Nat) (d : Desc) (c : Chip) : Chip := c.engReg e 0x28 d fun x => x.lanes2 d (laneMax d.typ)
def Chip.opClamp (e : Nat) (d : Desc) (c : Chip) : Chip := c.engReg e 0x29 d fun x => x.lanes3 d (laneClamp d.typ)

def Chip.opShift (e : Nat) (d : Desc) (c : Chip) : Chip :=
  c.engReg e 0x2A d fun x => x.lanes1 d (laneShift d.typ (satOf d) (bitOf d.imm 6) (d.imm % 64))

def Chip.opCvt (e : Nat) (d : Desc) (c : Chip) : Chip :=
  c.engReg e 0x2B d fun x =>
    let f := d.flags.val % 4
    x.putLanes d d.typ d.dst fun i => laneCvt f d.typ (d.imm % 64) (x.lane f d.a i)

def Chip.opSqrt (e : Nat) (d : Desc) (c : Chip) : Chip := c.engReg e 0x2C d fun x => x.lanes1 d fpSqrt

/-- A mask of lanes from a function of the lane. -/
def laneMask (f : Nat → Bool) : Nat := (List.range 8).foldl (fun m i => if f i then setBit m i else m) 0

def Chip.opCmp (e : Nat) (d : Desc) (c : Chip) : Chip :=
  c.engReg e 0x30 d fun x =>
    x.setPrd d.flags (laneMask fun i => laneCmp d.typ d.imm (x.lane d.typ d.a i) (x.lane d.typ d.b i)) (x.mask d)

def Chip.opPlog (e : Nat) (d : Desc) (c : Chip) : Chip :=
  c.engReg e 0x31 d fun x =>
    let a := x.prd d.a
    let b := x.prd d.b
    let v := match d.imm with
      | 0 => a &&& b
      | 1 => a ||| b
      | 2 => a ^^^ b
      | _ => a &&& (255 ^^^ b)
    x.setPrd d.flags v (x.mask d)

/-! ### Motion (R302 to R307) -/

/-- An 8-byte element and a 4-byte element of local memory. -/
def Eng.q (x : Eng) (a : Nat) : Nat := memNat x.mem a 8
def Eng.w (x : Eng) (a : Nat) : Nat := memNat x.mem a 4

/-- The half of a state block that cycle k reads, and the one it writes (R286). -/
def oldHalf (k addr size : Nat) : Nat := locAddr addr + (k + 1) % 2 * size
def newHalf (k addr size : Nat) : Nat := locAddr addr + k % 2 * size

/-- Elements of `w` bytes of a new half written: row r, lane i at (8r + i)w. -/
def Eng.putState (x : Eng) (half w : Nat) (rows : List (Nat → Nat)) : Eng :=
  { x with mem := memWrite x.mem half (rows.flatMap fun f => (List.range 8).flatMap fun i => bytesOfNatLE w (f i)) }

/-- VMASTER of one lane (R302): (p, v, rem) after. -/
def vmasterLane (period : Nat) (vt a p v : Int) (rem : Nat) : Int × Int × Nat :=
  if a < 0 then (p, v, rem)
  else
    let dv := divRoundS (a * period) nsPerS
    let v' := v + clampI (vt - v) (-dv) dv
    let n := (v + v') * period + rem
    (p + n / 2000000000, v', (n % 2000000000).toNat)

def Chip.opVmaster (e : Nat) (d : Desc) (c : Chip) : Chip :=
  let k := c.engK e
  let per := c.engPeriod e
  c.engReg e 0x40 d fun x =>
    let o := oldHalf k d.addr 192
    let old := fun (r i : Nat) => x.q (o + 64 * r + 8 * i)
    let new := fun (i : Nat) =>
      vmasterLane per (signed 64 (x.lane 3 d.a i)) (signed 64 (x.lane 3 d.b i)) (signed 64 (old 0 i)) (signed 64 (old 1 i)) (old 2 i)
    let pick := fun (r i v : Nat) => if x.active d i then v else old r i
    let y := (x.putLanes d 3 d.dst fun i => encS 64 (new i).1).putLanes d 3 (d.dst.val + 2) fun i => encS 64 (new i).2.1
    y.putState (newHalf k d.addr 192) 8
      [fun i => pick 0 i (encS 64 (new i).1), fun i => pick 1 i (encS 64 (new i).2.1), fun i => pick 2 i (new i).2.2]

/-- GEAR of one lane (R303): (m0, s0, y, mlast) after. -/
def gearLane (anchored : Bool) (n : Int) (den x m0 s0 y mlast : Nat) : Nat × Nat × Nat × Nat :=
  let m := if anchored then mlast else m0
  let s := if anchored then y else s0
  let dist := signed 64 (encS 64 ((x : Int) - m))
  let y' := if den = 0 then y else encS 64 (s + divRoundS (dist * n) den)
  (m, s, y', x)

def Chip.opGear (e : Nat) (d : Desc) (c : Chip) : Chip :=
  let k := c.engK e
  c.engReg e 0x41 d fun x =>
    let o := oldHalf k d.addr 256
    let old := fun (r i : Nat) => x.q (o + 64 * r + 8 * i)
    let anch := if d.flags.val = 0 then 0 else x.prd d.flags
    let pa := locAddr d.aux
    let new := fun (i : Nat) =>
      gearLane (anch.testBit i) (signed 32 (x.w (pa + 4 * i))) (x.w (pa + 32 + 4 * i)) (x.lane 3 d.a i) (old 0 i) (old 1 i) (old 2 i) (old 3 i)
    let pick := fun (r i v : Nat) => if x.active d i then v else old r i
    (x.putLanes d 3 d.dst fun i => (new i).2.2.1).putState (newHalf k d.addr 256) 8
      [fun i => pick 0 i (new i).1, fun i => pick 1 i (new i).2.1, fun i => pick 2 i (new i).2.2.1, fun i => pick 3 i (new i).2.2.2]

/-- The fault of a cam table an active lane names (R282). -/
def Eng.camFault (x : Eng) (a : Nat) : Option Nat :=
  if !localOk a 32 32 then some 2
  else
    let mode := x.w (a + 4)
    let n := x.w a
    if n < 2 ∨ 4096 < n ∨ signed 64 (x.q (a + 8)) ≤ 0 ∨ 1 < mode then some 1
    else if !localOk a (32 + (n + 1) * (if mode = 0 then 8 else 16)) 32 then some 2 else none

/-- CAM of one lane through the table at a (R304). -/
def Eng.cam (x : Eng) (a xm : Nat) : Nat :=
  let n : Nat := x.w a
  let mode := x.w (a + 4)
  let span : Int := signed 64 (x.q (a + 8))
  let dist := signed 64 (encS 64 ((xm : Int) - x.q (a + 16)))
  let cyc := dist / span
  let u := dist - cyc * span
  let w := u * n
  let j := (w / span).toNat
  let t := (w - j * span) * 2 ^ 32 / span
  let sz := if mode = 0 then 8 else 16
  let p := fun (j : Nat) => signed 64 (x.q (a + 32 + sz * j))
  let m := fun (j : Nat) => signed 64 (x.q (a + 40 + sz * j))
  let y :=
    if mode = 0 then p j + divRoundS ((p (j + 1) - p j) * t) (2 ^ 32)
    else
      let b1 := divRoundS (3 * t * t * 2 ^ 32 - 2 * t * t * t) (2 ^ 34)
      let b2 := divRoundS (t * t * t - 2 * t * t * 2 ^ 32 + t * 2 ^ 64) (2 ^ 34)
      let b3 := divRoundS (t * t * t - t * t * 2 ^ 32) (2 ^ 34)
      p j + divRoundS ((p (j + 1) - p j) * b1) (2 ^ 62) + divRoundS (span * (m j * b2 + m (j + 1) * b3)) (n * 2 ^ 94)
  encS 64 (y + cyc * (p n - p 0))

def Chip.opCam (e : Nat) (d : Desc) (c : Chip) : Chip :=
  c.engOp e 0x42 d fun c =>
    let x := c.eng e
    let entry := fun (i : Nat) => x.w (locAddr d.aux + 4 * i)
    let used := (List.range 8).filter fun i => x.active d i && entry i != 0
    match used.findSome? fun i => x.camFault (entry i) with
    | some cause => .fault cause
    | none =>
      .next (c.updEng e fun x => used.foldl (fun y i => y.setLane 3 d.dst i (x.cam (entry i) (x.lane 3 d.a i))) x)

/-- REGIST of one lane (R305): c after, from τ in 32.32 ns; `e` is the error where REPEAT is not above 0. -/
def registLane (period : Nat) (tau pCur pPrev offset repeat_ g step c : Int) (e : Int) : Int :=
  let per : Int := period * 2 ^ 32
  let f := divRoundS ((tau + per) * 2 ^ 32) per.toNat
  let pm := pPrev + divRoundS (signed 64 (encS 64 (pCur - pPrev)) * f) (2 ^ 32)
  let r := signed 64 (encS 64 (pm - offset))
  let err := if repeat_ ≤ 0 then e else r - repeat_ * divRoundS r repeat_.toNat
  c + clampI (divRoundS (-g * err) (2 ^ 31)) (-step) step

def Chip.opRegist (e : Nat) (d : Desc) (c : Chip) : Chip :=
  c.engOp e 0x43 d fun c =>
    let k := c.engK e
    let per := c.engPeriod e
    let (n, c1) := c.draw
    let free := (Config.registZero n).toInt
    let x := c.eng e
    let o := oldHalf k d.addr 64
    let old := fun (i : Nat) => x.q (o + 8 * i)
    let tau := signed 64 (x.lane 3 d.a 0)
    let lim : Int := per * 2 ^ 32
    let on := fun (i : Nat) => x.active d i && decide (-lim ≤ tau) && decide (tau ≤ lim)
    let new := fun (i : Nat) =>
      let a := locAddr d.aux + 32 * i
      if on i then
        encS 64 (registLane per tau (signed 64 (x.lane 3 d.b i)) (signed 64 (x.lane 3 d.c i)) (signed 64 (x.q a)) (signed 64 (x.q (a + 8)))
          (signed 32 (x.w (a + 16))) (signed 64 (x.q (a + 24))) (signed 64 (old i)) free)
      else old i
    .next (c1.updEng e fun x =>
      ((x.putLanes d 3 d.dst new).setPrd d.flags (laneMask on)).putState (newHalf k d.addr 64) 8 [new])

/-- FILT of one lane (R306): the coefficients, x, and x1, x2, y1, y2 before. -/
def filtLane (t b0 b1 b2 a1 a2 x x1 x2 y1 y2 : Nat) : Nat :=
  if t = 2 then
    fpSub (fpSub (fpAdd (fpAdd (fpMul b0 x) (fpMul b1 x1)) (fpMul b2 x2)) (fpMul a1 y1)) (fpMul a2 y2)
  else
    let m := fun (p q : Nat) => signed 32 p * signed 32 q
    encS 32 (satS 32 (divRne (m b0 x + m b1 x1 + m b2 x2 - m a1 y1 - m a2 y2) (2 ^ 30)))

def Chip.opFilt (e : Nat) (d : Desc) (c : Chip) : Chip :=
  let k := c.engK e
  c.engReg e 0x44 d fun x =>
    let o := oldHalf k d.addr 128
    let old := fun (r i : Nat) => x.w (o + 32 * r + 4 * i)
    let co := fun (r i : Nat) => x.w (locAddr d.aux + 32 * r + 4 * i)
    let new := fun (i : Nat) =>
      filtLane d.typ (co 0 i) (co 1 i) (co 2 i) (co 3 i) (co 4 i) (x.lane 0 d.a i) (old 0 i) (old 1 i) (old 2 i) (old 3 i)
    let pick := fun (r i v : Nat) => if x.active d i then v else old r i
    (x.putLanes d 0 d.dst new).putState (newHalf k d.addr 128) 4
      [fun i => pick 0 i (x.lane 0 d.a i), fun i => pick 1 i (old 0 i), fun i => pick 2 i (new i), fun i => pick 3 i (old 2 i)]

/-- PID of one lane (R307): u, and I, D and m_prev after. -/
def pidLane (kp ki kd alpha umin umax sp m i0 d0 m0 : Nat) : Nat × Nat × Nat × Nat :=
  if laneCmp 2 4 umin umax then (umin, i0, d0, m0)
  else
    let one := 0x3F800000
    let err := fpSub sp m
    let dd := fpSub (fpMul alpha d0) (fpMul (fpMul (fpSub one alpha) kd) (fpSub m m0))
    let ip := fpAdd i0 (fpMul ki err)
    let uu := fpAdd (fpAdd (fpMul kp err) ip) dd
    let u := fpClamp uu umin umax
    let i1 := if (laneCmp 2 4 uu umax && laneCmp 2 4 err 0) || (laneCmp 2 2 uu umin && laneCmp 2 2 err 0) then i0 else fpClamp ip umin umax
    (u, i1, dd, m)

def Chip.opPid (e : Nat) (d : Desc) (c : Chip) : Chip :=
  let k := c.engK e
  c.engReg e 0x45 d fun x =>
    let o := oldHalf k d.addr 96
    let old := fun (r i : Nat) => x.w (o + 32 * r + 4 * i)
    let co := fun (r i : Nat) => x.w (locAddr d.aux + 32 * r + 4 * i)
    let new := fun (i : Nat) =>
      pidLane (co 0 i) (co 1 i) (co 2 i) (co 3 i) (co 4 i) (co 5 i) (x.lane 2 d.a i) (x.lane 2 d.b i) (old 0 i) (old 1 i) (old 2 i)
    let pick := fun (r i v : Nat) => if x.active d i then v else old r i
    (x.putLanes d 2 d.dst fun i => (new i).1).putState (newHalf k d.addr 96) 4
      [fun i => pick 0 i (new i).2.1, fun i => pick 1 i (new i).2.2.1, fun i => pick 2 i (new i).2.2.2]

/-! ### Outputs (R308 to R312) -/

/-- Each n-byte element reversed. -/
def revEach (n : Nat) (b : Bytes) : Bytes :=
  (List.range (b.length / n)).flatMap fun i => (sliceBytes b (n * i) n).reverse

/-- FIELD (R276, R308): the bytes of a lane whose predicate is 0 stay unwritten; elements of 8 bytes reversed hold two 4-byte lanes, the odd one first. -/
def Chip.opField (e : Nat) (d : Desc) (c : Chip) : Chip :=
  c.engReg e 0x50 d fun x =>
    let t := d.typ.val
    let b := (x.bytes t d.a).take (fieldLen d)
    let b' := match d.flags.val with
      | 1 => revEach 4 b
      | 2 => revEach 8 b
      | _ => b
    { x with mem := x.storeBytes d (if t = 3 then 8 else 4) x.mem (locAddr d.addr) b' fun i => if d.flags = 2 ∧ t ≠ 3 then i ^^^ 1 else i }

/-- SCATTER (R309): the frame of a template, or `bad` where its check fails. -/
def Chip.template (c : Chip) (e : Nat) (d : Desc) : EOut :=
  let m := (c.eng e).mem
  let a := locAddr d.addr
  let port := memNat m a 2
  let cls := memNat m (a + 2) 1
  let fl := memNat m (a + 3) 1
  let len := memNat m (a + 6) 2
  if 511 < port ∨ 7 < cls ∨ 3 < fl ∨ len < 60 ∨ c.maxFrame port < len + 4 ∨ 0x20000 < a + 16 + len then .bad
  else
    .scatter port cls (memRead m (a + 16) len) (if fl % 2 = 1 then some (c.engTk e + (d.aux * 65536 : Nat)).toNat else none)
      (if 2 ≤ fl then some (memNat m (a + 4) 2) else none)

def Chip.opScatter (e : Nat) (d : Desc) (c : Chip) : Chip :=
  c.engOp e 0x51 d fun c =>
    if (c.eng e).active d 0 then
      let o := c.template e d
      .next (c.updEng e fun x => x.out o)
    else .next c

def Chip.opEvtreq (e : Nat) (d : Desc) (c : Chip) : Chip :=
  let tk := c.engTk e
  c.engReg e 0x52 d fun x =>
    if x.active d 0 then x.out (.edge d.imm (d.flags.val % 4) (tk + divRoundS (signed 64 (x.lane 3 d.a 0)) (2 ^ 22) * 64) d.aux) else x

def Chip.opVreq (e : Nat) (d : Desc) (c : Chip) : Chip :=
  c.engReg e 0x53 d fun x => if x.active d 0 then x.out (.target d.imm (signed 64 (x.lane 3 d.a 0)) d.aux d.addr) else x

def Chip.opPost (e : Nat) (d : Desc) (c : Chip) : Chip :=
  c.engReg e 0x54 d fun x =>
    if x.active d 0 then x.out (.post d.imm (natOfBytes (x.bytes 0 d.a ++ x.bytes 0 (d.a.val + 1)))) else x

/-! ### Control (R313) -/

def Chip.opSkip (e : Nat) (d : Desc) (c : Chip) : Chip :=
  c.engOp e 0x60 d fun c =>
    let m := (c.eng e).mask d
    if m = 255 ∨ (d.flags.val % 2 = 1 ∧ m ≠ 0) then .jump d.imm c else .next c

/-- END acts once: where lane 0 of the effective predicate is 1. -/
def Chip.opEnd (e : Nat) (d : Desc) (c : Chip) : Chip :=
  c.engOp e 0x61 d fun c => if (c.eng e).active d 0 then .done c else .next c

/-! ### Programs -/

/-- The operation of an opcode. -/
def Chip.runOp (e op : Nat) (d : Desc) (c : Chip) : Chip :=
  match op with
  | 0x00 => c.opNop e d
  | 0x01 => c.opLoad e d
  | 0x02 => c.opStore e d
  | 0x03 => c.opMovi e d
  | 0x04 => c.opShuf e d
  | 0x10 => c.opGather e d
  | 0x11 => c.opWaitseq e d
  | 0x12 => c.opTsub e d
  | 0x13 => c.opRecv e d
  | 0x14 => c.opCntrd e d
  | 0x15 => c.opAxflt e d
  | 0x20 => c.opAdd e d
  | 0x21 => c.opSub e d
  | 0x22 => c.opMul e d
  | 0x23 => c.opMac e d
  | 0x24 => c.opDiv e d
  | 0x25 => c.opNeg e d
  | 0x26 => c.opAbs e d
  | 0x27 => c.opMin e d
  | 0x28 => c.opMax e d
  | 0x29 => c.opClamp e d
  | 0x2A => c.opShift e d
  | 0x2B => c.opCvt e d
  | 0x2C => c.opSqrt e d
  | 0x30 => c.opCmp e d
  | 0x31 => c.opPlog e d
  | 0x40 => c.opVmaster e d
  | 0x41 => c.opGear e d
  | 0x42 => c.opCam e d
  | 0x43 => c.opRegist e d
  | 0x44 => c.opFilt e d
  | 0x45 => c.opPid e d
  | 0x50 => c.opField e d
  | 0x51 => c.opScatter e d
  | 0x52 => c.opEvtreq e d
  | 0x53 => c.opVreq e d
  | 0x54 => c.opPost e d
  | 0x60 => c.opSkip e d
  | 0x61 => c.opEnd e d
  | _ => c.engOp e op d .next

/-- A running engine carries its program on until it ends, waits or stops; a program without END ends after its last descriptor. -/
def Chip.runProgram (e : Nat) : Nat → Chip → Chip
  | 0, c => c
  | k + 1, c =>
    if c.engState e ≠ 2 then c
    else
      let x := c.eng e
      match x.prog.descs[x.pc]? with
      | none => c.setEngState e 5
      | some w => Chip.runProgram e k (c.runOp e (descOp w) (descOf w))

/-- ENGINE_PROGRAM_END: the rest of the program of a running engine (R256, R277). -/
def Chip.programEnd (e : Nat) (c : Chip) : Chip := Chip.runProgram e 1025 c

/-- A waiting engine looks again: what it waits for may be there. -/
def Chip.resume (e : Nat) (c : Chip) : Chip :=
  match (c.eng e).wait with
  | none => c
  | some (op, d) => (c.setEngState e 2).runOp e op d

/-- ENGINE_WAITSEQ_RESUME (R293). -/
def Chip.waitseqResume (e : Nat) (c : Chip) : Chip := if c.engState e = 4 then c.resume e else c

/-- The engines of a domain that wait for an input look again. -/
def Chip.resumeInputs (d : Nat) (c : Chip) : Chip :=
  c.each (List.range 64) fun e c => if c.engState e = 3 ∧ c.engDom e = d then c.resume e else c

end Sys2Proof.Machine
end

