-- ==== Sys2Proof/Machine/Cycle.lean ====
section
/-! DEFINITION. Cycle domains (R254 to R266, 12_drumline.md): triggers, gathering, the input deadline, the fence, and scatter frames. -/

namespace Sys2Proof.Machine

/-! ### Boundaries (R254, R257) -/

/-- The first boundary start + k × period, k ≥ 0, at or after t. -/
def firstBoundary (start period t : Int) : Int :=
  if t ≤ start then start else start + (t - start + period - 1) / period * period

/-- CD_START and PERIOD of a domain in 2^-16 ns, as configured. -/
def Chip.cdStart (c : Chip) (d : Nat) : Int := timeOf96 (c.rd Reg.CD_START d)
def Chip.cdPeriod (c : Chip) (d : Nat) : Int := (c.rd Reg.CD_CFG_PERIOD d * 65536 : Nat)
def Chip.boundaryFrom (c : Chip) (d : Nat) (t : Int) : Int := firstBoundary (c.cdStart d) (max 1 (c.cdPeriod d)) t

def Chip.cdState (c : Chip) (d : Nat) : Nat := c.rd Reg.CD_STATUS_STATE d
def Chip.setCdState (c : Chip) (d s : Nat) : Chip := c.wr Reg.CD_STATUS_STATE s d

/-- Whether a domain is armed or running. -/
def Chip.domainLive (c : Chip) (d : Nat) : Bool := c.cdState d == 1 || c.cdState d == 2

/-- The unit of an input's counts (R435). -/
def inputUnit (d i : Nat) : Nat := d * 1024 + i

/-! ### Membership (R256) -/

/-- Whether an engine is configured into a domain. -/
def Chip.engBelongs (c : Chip) (e d : Nat) : Bool := c.on Reg.ENG_CFG_EN (256 + e) && c.rd Reg.ENG_CFG_DOMAIN (256 + e) == d

/-- Engines that have been taken out of a domain leave it; a disabled one is off, its mailbox emptied (R273), and starts from zero
registers when enabled again (R275). -/
def Chip.releaseEngines (c : Chip) (d : Nat) : Chip :=
  c.each (List.range 64) fun e c =>
    if (c.eng e).dom ≠ some d ∨ c.engBelongs e d then c
    else
      let off := !c.on Reg.ENG_CFG_EN (256 + e)
      let c1 := c.updEng e fun x => { x with dom := none, wait := none, fresh := x.fresh || off }
      if off then (c1.setEngState e 0).emptyMbx e else c1

/-- SWAP_PENDING of the domains (R272). -/
def Chip.showSwaps (c : Chip) : Chip :=
  c.each (List.range 4) fun d c =>
    c.flag Reg.CD_STATUS_SWAP_PENDING ((List.range 64).any fun e => (c.eng e).swap && c.rd Reg.ENG_CFG_DOMAIN (256 + e) == d) d

/-- An image becoming active: PROG_INFO and PROG_STANDBY (R271, R272). -/
def Chip.showImages (c : Chip) (e : Nat) : Chip :=
  let x := c.eng e
  let i := 256 + e
  (((c.wr Reg.PROG_INFO_DESC_COUNT x.prog.descs.length i).wr Reg.PROG_INFO_IMAGE_ID x.prog.id i).wr
    Reg.PROG_STANDBY_DESC_COUNT (if x.loaded then x.next.descs.length else 0) i).wr
    Reg.PROG_STANDBY_IMAGE_ID (if x.loaded then x.next.id else 0) i

/-- The init records of an image applied (R271, R272). -/
def Chip.applyInits (c : Chip) (e : Nat) (l : List (Bool × Nat × Bytes)) : Chip :=
  c.each l fun r c =>
    if r.1 then (c.cycWrite r.2.1 r.2.2).each (List.range (r.2.2.length / 32)) fun j c => c.setTag (r.2.1 + 32 * j) 0xFFFF
    else c.updEng e fun x => { x with mem := memWrite x.mem r.2.1 r.2.2 }

/-- A committed swap taking place at a trigger (R272); a stopped engine runs again (R267). -/
def Chip.takeSwap (c : Chip) (e : Nat) : Chip :=
  let x := c.eng e
  if !x.swap then c
  else
    let c1 := (c.setEng e { x with prog := x.next, next := {}, loaded := false, swap := false, regionB := !x.regionB }).applyInits e x.next.inits
    (if c1.engState e = 6 then c1.setEngState e 1 else c1).showImages e

/-! ### The trigger (R256 to R258) -/

/-- The state blocks of a program: local address and size of a half. -/
def progStates (l : List Nat) : List (Nat × Nat) :=
  (l.filter fun w => stateSize (descOp w) != 0).map fun w => (locAddr (descOf w).addr, stateSize (descOp w))

/-- After Thaw the snapshot's half of every state block is put where cycle k reads it (R347). -/
def Chip.placeStates (c : Chip) (e ks k : Nat) : Chip :=
  if ks % 2 = (k + 1) % 2 then c
  else
    c.updEng e fun x =>
      { x with mem := (progStates x.prog.descs).foldl (fun m b => memWrite m (b.1 + (k + 1) % 2 * b.2) (memRead m (b.1 + ks % 2 * b.2) b.2)) x.mem }

/-- An engine starts its program at a trigger (R256, R275). -/
def Chip.startEngine (c : Chip) (e : Nat) : Chip :=
  if c.engState e = 6 then c
  else
    let c1 := c.updEng e fun x =>
      { x with v := if x.fresh then [] else x.v, p := if x.fresh then [] else x.p, fresh := false, pc := 0, wait := none, saves := [],
               replay := [], outs := [], wrote := [] }
    c1.setEngState e (if (c1.eng e).prog.descs = [] then 1 else 2)

/-- Word 1 of an input that is resolved when taken (R261), written once its bank is not frozen (R47). -/
def Chip.putInput (c : Chip) (d i w : Nat) : Chip :=
  let a := c.rd Reg.GATHER_LIST_ADDR d i * 64
  if c.bankHeld a then c.updGin d i fun g => { g with store := some w }
  else (c.cycWrite (a + 32) (bytesOfNatLE 32 w)).updGin d i fun g => { g with st := .confirmed, store := none }

/-- Sources 1 and 2 at a trigger (R261, R223): a kept edge is taken; the position of a loop is latched. -/
def Chip.latchInputs (c : Chip) (d : Nat) : Chip :=
  c.each (c.inputsOf d) fun i c =>
      match c.rd Reg.GATHER_LIST_SRC d i with
      | 1 =>
        match (c.gin d i).edge with
        | none => c
        | some w => (c.putInput d i w).updGin d i fun g => { g with edge := none }
      | 2 => c.putInput d i (encS 64 (encPos (c.dpll (c.rd Reg.GATHER_LIST_PORT d i)).gen))
      | _ => c

/-- An input becomes stale (R262): held, or faulted with its axis. -/
def Chip.staleInput (c : Chip) (d i : Nat) : Chip :=
  let g := c.gin d i
  let most := c.rd Reg.GATHER_LIST_HOLD_MAX d i
  let fault := c.on Reg.GATHER_LIST_STALE d i || (most != 0 && decide (most ≤ g.run))
  let c1 := if g.counted then c else c.count Ev.GATHER_STALE (inputUnit d i)
  let c2 := c1.updGin d i fun g => { g with st := if fault then .faulted else .stale, counted := true }
  if fault then
    let ax := c.rd Reg.GATHER_LIST_AXIS d i
    ((c2.wr Reg.AXIS_FAULT (setBit (c2.rd Reg.AXIS_FAULT d) ax) d).flag Reg.CD_STATUS_AXIS_FAULT_SEEN true d).updDom d fun x =>
      { x with axes := setBit x.axes ax }
  else c2

/-- The frame inputs of a domain. -/
def Chip.frameInputs (c : Chip) (d : Nat) : List Nat :=
  (c.inputsOf d).filter fun i => c.rd Reg.GATHER_LIST_SRC d i == 0

/-- What a replacement frame has not counted yet at the deadline is counted then (R25). -/
def Chip.countReplace (c : Chip) (d i : Nat) : Chip :=
  match (c.gin d i).frame.bind c.frameOf with
  | none => c
  | some f =>
    if f.counts.contains (Ev.GATHER_REPLACE, inputUnit d i) then
      (c.updFrame f.id fun x => { x with counts := x.counts.erase (Ev.GATHER_REPLACE, inputUnit d i) }).count Ev.GATHER_REPLACE (inputUnit d i)
    else c

/-- The input deadline of the running cycle (R262, R263). -/
def Chip.closeInputs (c : Chip) (d : Nat) : Chip :=
  let l := c.frameInputs d
  let late := l.filter fun i => (c.gin d i).st == .none || (c.gin d i).st == .pending
  let c1 := (c.each late fun i c => (c.staleInput d i).countReplace d i).updDom d fun x => { x with late := true }
  let c2 := c1.each l fun i c => c.updGin d i fun g => { g with run := if g.st == .stale || g.st == .faulted then g.run + 1 else 0 }
  if (c2.dom d).busy then (c2.each late fun i c => c.rerunInput d i).resumeInputs d else c2

/-- GATHER_DEADLINE. -/
def Chip.gatherDeadline (d : Nat) (c : Chip) : Chip :=
  let x := c.dom d
  if !x.ran || x.late || decide ((c.tb16 : Int) < x.tk + (x.dIn * 65536 : Nat)) then c else c.closeInputs d

/-- ENC_POS of the loops whose engine belongs to a domain (R223). -/
def Chip.latchLoops (c : Chip) (d : Nat) : Chip :=
  c.each [1, 2, 3, 4] fun l c =>
    if c.rd Reg.SYN_OWNER_OWNER l = 1 ∧ c.engBelongs (c.rd Reg.SYN_OWNER_OWNER_ID l) d then
      c.updGen l fun g => { g with latched := g.x }
    else c

/-- A boundary that arrives before the previous fence (R258); the loops' positions are latched at every boundary (R223). -/
def Chip.overrun (c : Chip) (d : Nat) : Chip :=
  ((((c.latchLoops d).count Ev.CYC_OVERRUN d).flag Reg.CD_STATUS_OVERRUN true d).notify Nt.CYC_OVERRUN Cls.CYC d 3).updDom d fun x =>
    { x with next := x.next + c.cdPeriod d }

/-- The number of the cycle a trigger starts (R257, R347), and the cycles missed since the snapshot after Thaw. -/
def Chip.nextCycle (c : Chip) (d : Nat) : Nat × Nat :=
  let x := c.dom d
  match x.thaw with
  | none => (c.rd Reg.CD_CYCLE d + 1, 0)
  | some (ks, tks) =>
    let k := ks + ((x.next - tks) / max 1 (c.cdPeriod d)).toNat
    (k, min 2147483647 (k - ks - 1))

/-- A trigger that is taken (R256, R257, R272, R275, R437, R347). -/
def Chip.takeTrigger (c : Chip) (d : Nat) : Chip :=
  let x0 := c.dom d
  let c := if x0.ran && !x0.late then c.closeInputs d else c
  let x := c.dom d
  let (k, gap) := c.nextCycle d
  let cNow := x.next - c.rdS Reg.STEP_SUM
  let c1 := if x.ran && !x.armed && x.back && decide (c.cdPeriod d < cNow - x.lastC) then c.count Ev.CYC_STRETCH d else c
  let c2 := (((c1.wr Reg.CD_CYCLE k d).setCdState d 2).releaseEngines d)
  let mine := (List.range 64).filter fun e => c2.engBelongs e d && ((c2.eng e).dom == none || (c2.eng e).dom == some d)
  let c3 := c2.updDom d fun y =>
    { y with period := c.rd Reg.CD_CFG_PERIOD d, dIn := c.rd Reg.CD_CFG_D_IN d, start := (c.cdStart d).toNat, next := x.next + c.cdPeriod d,
             busy := true, tk := x.next, lastC := cNow, late := false, axes := c.rd Reg.AXIS_FAULT d, ran := true, armed := false, back := false, thaw := none,
             ins := y.ins.filterMap fun g =>
               let h : GIn := { run := g.2.run, edge := g.2.edge }
               if h = {} then none else some (g.1, h) }
  let c4 := if c3.on Reg.CNT_GLOBAL_AUTO && c3.rd Reg.CNT_GLOBAL_AUTO_DOMAIN == d then c3.snapshot x.next.toNat else c3
  let c5 := ((c4.each mine fun e c => (c.updEng e fun y => { y with dom := some d }).takeSwap e).showSwaps.latchLoops d).latchInputs d
  let c6 := match x.thaw with
    | none => c5
    | some (ks, _) => c5.each mine fun e c => c.placeStates e ks k
  let c7 := if c6.on Reg.CKPT_CFG_GAP_EN then
      c6.cycWrite (c6.rd Reg.CKPT_CFG_GAP_ADDR * 32) (bytesOfNatLE 4 gap) else c6
  c7.each mine fun e c => c.startEngine e

/-- A boundary has come, with Drumline powered. -/
def Chip.cycDue (c : Chip) (d : Nat) : Bool :=
  c.domainLive d && c.rd Reg.PWR_STATUS_STATE == 2 && decide ((c.dom d).next ≤ (c.tb16 : Int))

/-- CYC_TRIGGER: an overrun, or a trigger. -/
def Chip.trigger (d : Nat) (c : Chip) : Chip :=
  if !c.cycDue d then c else if (c.dom d).busy then c.overrun d else c.takeTrigger d

/-! ### Start, stop and steps (R254, R255, R257) -/

/-- CYC_START: armed; the first trigger is at least 10 µs after its execution or commit point (R254). A cycle in progress goes on. -/
def Chip.armDomain (c : Chip) (d at_ : Nat) : Chip :=
  let floor : Int := (at_ + 10000 * 65536 : Nat)
  let b := c.boundaryFrom d floor
  let c1 := (c.setCdState d 1).updDom d fun x => { x with next := b, floor := floor, ran := x.busy, armed := true, back := false }
  if c.cdStart d < b then c1.flag Reg.CD_STATUS_LATE_START true d else c1

/-- CYC_STOP: the cycle in progress completes. -/
def Chip.haltDomain (c : Chip) (d : Nat) : Chip :=
  if !c.domainLive d then c
  else if (c.dom d).busy then c.setCdState d 3
  else (c.setCdState d 0).releaseEngines d

/-- The earliest instant of a running domain's next trigger by the cycle it is in: PERIOD of continuous time after the last (R257). -/
def Chip.cycleEnd (c : Chip) (d : Nat) : Int :=
  let x := c.dom d
  x.lastC + c.rdS Reg.STEP_SUM + (x.period * 65536 : Nat)

/-- A committed change of PERIOD or CD_START of an armed or running domain at the commit point P (R255): P is a boundary of both and the trigger there is the
first under the new values. -/
def Chip.domainHook (c : Chip) (d p : Nat) : Chip :=
  if !c.domainLive d then c
  else
    let x := c.dom d
    c.updDom d fun y => { y with next := c.boundaryFrom d (max p (if x.ran && !x.armed then c.cycleEnd d else x.floor)) }

/-- A step of the timebase at the domains (R257). -/
def Chip.domainsStep (off : Int) (c : Chip) : Chip :=
  c.each (List.range 4) fun d c =>
    let x := c.dom d
    let tb : Int := c.tb16
    if !c.domainLive d || c.rd Reg.PWR_STATUS_STATE != 2 || ((!x.ran || x.armed) && decide (tb ≤ x.next)) then c
    else
      let left : Int := if x.ran && !x.armed then max 0 (c.cdPeriod d - (c.cont16 - x.lastC)) else 0
      let b := c.boundaryFrom d (tb + left)
      let c1 := c.updDom d fun y => { y with next := b, back := y.back || decide (off < 0) }
      let n := ((b - x.next) / max 1 (c.cdPeriod d)).toNat
      if off ≤ 0 ∨ n = 0 then c1
      else (c1.each (List.range n) fun _ c => c.count Ev.CYC_STEP_SKIP d).flag Reg.CD_STATUS_STEP_SKIP true d

/-! ### Gathering (R259 to R262) -/

/-- A field in memory order (R260): its elements reversed under ELEM. -/
def gatherField (elem : Nat) (b : Bytes) : Bytes := match elem with
  | 1 => revEach 4 b
  | 2 => revEach 8 b ++ b.drop (b.length / 8 * 8)
  | _ => b

/-- A count of a frame at an input (R25): at its tail check, if it passes; where the tap was held past that, by what it found. -/
def Chip.tapCount (c : Chip) (f : Frame) (ev u : Nat) (res : Option Bool) : Chip :=
  match res with
  | none => c.updFrame f.id fun x => { x with counts := x.counts ++ [(ev, u)] }
  | some ok => if ok || ev == Ev.GATHER_REPLACE then c.count ev u else c

/-- An input takes a frame (R259): its field goes to word 1, or the frame is too short for it. After the deadline the input stays stale (R262). -/
def Chip.takeFrame (c : Chip) (d i : Nat) (f : Frame) (res : Option Bool) : Chip :=
  let late := (c.dom d).late
  let off := c.rd Reg.GATHER_LIST_OFFSET d i
  let len := (c.rd Reg.GATHER_LIST_LEN d i + 1) * 4
  if f.len < off + len then
    (c.tapCount f Ev.GATHER_SHORT (inputUnit d i) res).updGin d i fun g =>
      { g with st := if late then g.st else .none, frame := some f.id, failed := false, short := true }
  else
    let b := gatherField (c.rd Reg.GATHER_LIST_ELEM d i) (sliceBytes f.bytes off len)
    (c.cycWrite (c.rd Reg.GATHER_LIST_ADDR d i * 64 + 32) (b ++ List.replicate (32 - len) 0#8)).updGin d i fun g =>
      { g with st := if late then g.st else .pending, frame := some f.id, failed := false, short := false }

/-- A replacement for a failed frame (R259, R263). It counts at its own tail check or at the deadline (R25). -/
def Chip.replaceFrame (c : Chip) (d i : Nat) (f : Frame) (res : Option Bool) : Chip :=
  let c1 := (c.updFrame f.id fun x => { x with counts := x.counts.filter fun n => n != (Ev.GATHER_DUP, inputUnit d i) }).tapCount f Ev.GATHER_REPLACE
    (inputUnit d i) res
  let c2 := c1.takeFrame d i f res
  if (c2.dom d).busy && !(c2.dom d).late then (c2.rerunInput d i).resumeInputs d else c2

/-- A frame at one entry of a domain. -/
def Chip.tapEntry (c : Chip) (d i : Nat) (f : Frame) (res : Option Bool) : Chip :=
  let g := c.gin d i
  match g.frame with
  | none =>
    let c1 := c.takeFrame d i f res
    if (c1.dom d).busy then c1.resumeInputs d else c1
  | some _ =>
    if g.failed then c.replaceFrame d i f res
    else (c.tapCount f Ev.GATHER_DUP (inputUnit d i) res).updGin d i fun g => { g with more := if res.isNone then g.more ++ [f.id] else g.more }

/-- A frame at the taps of its port's octet (R259). A tap holds at a frozen bank, with the frames after it (R47). -/
def Chip.tapFrame (c : Chip) (f : Frame) : Chip :=
  let c1 := c.each (List.range 4) fun d c =>
    let x := c.dom d
    if !x.ran || decide ((f.keyTime : Int) < x.tk) || decide (x.tk + (x.dIn * 65536 : Nat) ≤ (f.keyTime : Int)) then c
    else
      c.each (c.frameInputs d) fun i c =>
        if c.rd Reg.GATHER_LIST_PORT d i ≠ f.port ∨ (c.on Reg.GATHER_LIST_SH_EN d i ∧ f.look.handle ≠ some (c.rd Reg.GATHER_LIST_SH d i)) then c
        else if (c.gin d i).held ≠ [] ∨ c.bankHeld (c.rd Reg.GATHER_LIST_ADDR d i * 64) then c.updGin d i fun g => { g with held := g.held ++ [(f, none)] }
        else c.tapEntry d i f none
  c1.updFrame f.id fun x => { x with tapped := true }

/-- Frames put in the order of their key points. -/
def byKey (l : List Frame) : List Frame :=
  l.foldr (fun f a => (a.filter fun g => g.keyNo < f.keyNo) ++ f :: a.filter fun g => f.keyNo ≤ g.keyNo) []

/-- GATHER_TAP: a frame with its lookup result passes the taps, after those ahead of it in its octet's pipeline (R33, R259). -/
def Chip.gatherTap (id : Nat) (c : Chip) : Chip :=
  match c.frameOf id with
  | none => c
  | some f =>
    if f.origin ≠ .received ∨ f.stage ≠ 2 ∨ f.res ≠ 0 ∨ f.tapped then c
    else
      c.each (byKey (c.path.frames.filter fun g => g.origin == .received && g.stage == 2 && g.res == 0 && !g.tapped && g.port / 8 == f.port / 8 &&
        decide (g.keyNo ≤ f.keyNo))) fun g c => c.tapFrame g

/-- Word 1 of a confirmed input copied to word 0 (R260). -/
def Chip.copyInput (c : Chip) (d i : Nat) : Chip :=
  let a := c.rd Reg.GATHER_LIST_ADDR d i * 64
  (c.cycWrite a (memRead c.drum.cyc (a + 32) 32)).updGin d i fun g => { g with st := .confirmed, okay := false }

/-- The outcome of a frame at one input (R260 to R263). -/
def Chip.resolveInput (c : Chip) (d i id : Nat) (ok : Bool) : Chip :=
  let g := c.gin d i
  if g.held.any (fun x => x.1.id == id && x.2.isNone) then
    c.updGin d i fun g => { g with held := g.held.map fun x => if x.1.id = id then (x.1, some ok) else x }
  else if g.more.contains id then c.updGin d i fun g => { g with more := g.more.filter fun x => x != id }
  else if g.frame ≠ some id ∨ g.failed then c
  else if ok then
    if g.st ≠ .pending then c
    else
      let a := c.rd Reg.GATHER_LIST_ADDR d i * 64
      if c.bankHeld a then c.updGin d i fun g => { g with okay := true } else c.copyInput d i
  else
    let c1 := (if g.st = .pending then c.staleInput d i else c).updGin d i fun g => { g with failed := true }
    let c2 := if g.st = .pending ∧ (c1.dom d).busy then c1.rerunInput d i else c1
    match g.more with
    | [] => c2
    | m :: rest =>
      match c2.frameOf m with
      | none => c2
      | some f => (c2.updGin d i fun g => { g with more := rest }).replaceFrame d i f none

/-- Taps, stores and copies that a freeze has held, made in their order once it is lifted (R47): until then their inputs stay as they are, and what is NONE
or PENDING at the deadline becomes stale (R48). -/
def Chip.lateCopies (c : Chip) : Chip :=
  c.each (List.range 4) fun d c =>
    c.each ((c.dom d).ins.map Prod.fst) fun i c =>
      if c.bankHeld (c.rd Reg.GATHER_LIST_ADDR d i * 64) then c
      else
        let g := c.gin d i
        let c1 := match g.store with
          | some w => c.putInput d i w
          | none => c
        let c2 := if g.okay && g.st == .pending then c1.copyInput d i else c1
        (c2.updGin d i fun g => { g with held := [] }).each g.held fun x c =>
          let c1 := c.tapEntry d i x.1 x.2
          match x.2 with
          | some ok => c1.resolveInput d i x.1.id ok
          | none => c1

/-- A frame's outcome at the inputs of all domains. -/
def Chip.resolveGather (c : Chip) (id : Nat) (ok : Bool) : Chip :=
  c.each (List.range 4) fun d c =>
    c.each ((c.dom d).ins.map Prod.fst) fun i c => c.resolveInput d i id ok

/-- CONFIRMATION (R21 to R25, R82, R260): the tail check, then the inputs that took the frame, whose bytes have passed the taps before. -/
def Chip.confirmation (id : Nat) (codeErr fecErr fragErr : Bool) (fec : FecCount) (c : Chip) : Chip :=
  match (c.gatherTap id).tailCheck id codeErr fecErr fragErr fec with
  | none => c
  | some (ok, c1) => c1.resolveGather id ok

/-- RX_OVERSIZE_CUT (R85). -/
def Chip.rxOversizeCut (id : Nat) (c : Chip) : Chip :=
  match (c.gatherTap id).oversizeCut id with
  | none => c
  | some c1 => c1.resolveGather id false

/-- An edge of an engine's event input at the entries of source 1 (R261): word 1 of R292. -/
def Chip.gatherEdge (c : Chip) (n rec_ : Nat) : Chip :=
  let t : Int := timeOf96 (Lay.EVREC_TIME.get rec_)
  let w := Lay.EVREC_TIME.get rec_ + (Lay.EVREC_EDGE.get rec_ + 2 * Lay.EVREC_INVALID.get rec_ + 256 * Lay.EVREC_SEQ.get rec_) * 2 ^ 96
  c.each (List.range 4) fun d c =>
    let x := c.dom d
    c.each (c.inputsOf d) fun i c =>
      if c.rd Reg.GATHER_LIST_SRC d i != 1 || c.rd Reg.GATHER_LIST_PORT d i != n then c
      else
        let g := c.gin d i
        let dup := c.count Ev.GATHER_DUP (inputUnit d i)
        if x.ran && decide (t ≤ x.tk + (x.dIn * 65536 : Nat)) then
          if g.st ≠ .none ∨ g.store.isSome then dup else c.putInput d i w
        else if !c.domainLive d then c
        else if g.edge.isSome then dup
        else c.updGin d i fun g => { g with edge := some w }

/-- EVT_IN_EDGE (R192 to R195): an accepted edge goes to its input's owner. -/
def Chip.evtInEdge (n : Nat) (rising : Bool) (hold : Nat) (edge : Fine) (c : Chip) : Chip :=
  match c.eviEdge n rising hold edge with
  | (none, c1) => c1
  | (some r, c1) =>
    match c1.rd Reg.EVI_CFG_OWNER n with
    | 0 => c1.eviStore n r
    | 1 => c1.gatherEdge n r
    | 2 => c1.ivlEdge n r
    | _ => c1

/-! ### The fence (R264, R32) -/

/-- The fence may open: every input is confirmed or stale and no engine of the domain is still at work. -/
def Chip.fenceReady (c : Chip) (d : Nat) : Bool :=
  (c.dom d).busy &&
  ((c.frameInputs d).all fun i => (c.gin d i).st != .none && (c.gin d i).st != .pending) &&
  ((List.range 64).all fun e => (c.eng e).dom != some d || !(2 ≤ c.engState e && c.engState e ≤ 4))

/-- An instant of the timebase (2^-16 ns) as the block's own time (10 ps). -/
def Chip.nowAt (c : Chip) (t : Int) : Nat := ((c.now : Int) + (t - c.tb16) * 100 / 65536).toNat

/-- One output leaves (R264): requests of an engine that does not own their output have no effect (R199, R217). -/
def Chip.release (c : Chip) (d e : Nat) (o : EOut) : Chip :=
  match o with
  | .bad => c.count Ev.SCATTER_NOCELL d
  | .scatter port cls body launch tag =>
    let s : Scat := { dom := d, port := port, cls := cls, body := body, launch := launch, tag := tag }
    { c with drum := { c.drum with scat := SMap.upd c.drum.scat (e / 8) fun l => l ++ [s] } }
  | .edge n act t width =>
    if c.rd Reg.EVO_CFG_OWNER (32 + n) = 2 ∧ c.rd Reg.EVO_CFG_OWNER_ID (32 + n) = e then (c.evoRequest n t.toNat act width).2 else c
  | .target l target slew start =>
    if c.rd Reg.SYN_OWNER_OWNER l = 1 ∧ c.rd Reg.SYN_OWNER_OWNER_ID l = e ∧ c.targetOk l target then
      (c.velRequest l (c.nowAt ((c.dom d).tk + (start * 65536 : Nat))) target slew).2
    else c
  | .post f msg => (c.mbxEngine f msg).2

/-- FENCE_OPEN: the cycle's outputs leave, by engine and in program order. -/
def Chip.fence (d : Nat) (c : Chip) : Chip :=
  if !c.fenceReady d then c
  else
    let ns := (((c.tb16 : Int) - (c.dom d).tk) / 65536).toNat
    let c1 := ((c.wr Reg.CD_FENCE_LAST (satU 32 ns) d).peak Reg.CD_FENCE_MAX ns d).updDom d fun x => { x with busy := false }
    let mine := (List.range 64).filter fun e => (c1.eng e).dom == some d && c1.engState e != 6
    let c2 := c1.each mine fun e c => (c.eng e).outs.foldl (fun c o => c.release d e o.2) c
    let c3 := c2.each mine fun e c => (c.updEng e fun x => { x with outs := [], saves := [], wrote := [] }).setEngState e 1
    if c3.cdState d = 3 then (c3.setCdState d 0).releaseEngines d else c3

/-- SCATTER_ENQUEUE: a section's writer writes its next frame (R266); no test of R97 refuses it, of the link neither (R107; log entry 69). -/
def Chip.scatterEnqueue (s : Nat) (c : Chip) : Chip :=
  match SMap.get c.drum.scat s with
  | [] => c
  | x :: l =>
    let c1 : Chip := { c with drum := { c.drum with scat := SMap.set c.drum.scat s l } }
    (c1.sendOwn .scatter .scatter (66 + s) x.port x.cls x.body x.launch x.tag).getD (c1.count Ev.SCATTER_NOCELL x.dom)

end Sys2Proof.Machine
end

