-- ==== Sys2Proof/Machine/Ports.lean ====
section
/-! DEFINITION. Ports outside the flow of frames: timing lanes (R61), low-power states (R64 to R67), loopbacks (R69), the change of a port's
mode (R56), queue flushes (R106), link changes, and optical modules (R70 to R72). -/

namespace Sys2Proof.Machine

/-! ### Lanes -/

/-- The lanes of a port. -/
def Chip.portLanes (c : Chip) (p : Nat) : List Nat := if 5 ≤ c.rd Reg.PORT_CFG_MODE p then [p, p + 1, p + 2, p + 3] else [p]

/-- Whether a port has a timing lane (R61). -/
def Chip.timingPort (c : Chip) (p : Nat) : Bool :=
  decide (p < 512) && (c.on Reg.PORT_CFG_SYNCE_TX p || c.on Reg.PORT_CFG_PMA_STAMP p || c.twinPort p ||
    (List.range 16).any fun i => c.rd Reg.REF_CFG_RANK (8 + i) != 0 && (c.portLanes p).contains (c.rd Reg.REF_CFG_LANE (8 + i)))

/-- TIMING of a port brought up to date. -/
def Chip.showTiming (c : Chip) (p : Nat) : Chip := if p < 512 then c.flag Reg.PORT_STATUS_TIMING (c.timingPort p) p else c

/-- Whether a lane of a port is looped back. -/
def Chip.looped (c : Chip) (p : Nat) : Bool := (c.portLanes p).any fun l => SMap.get c.loops l != 0

/-! ### Low power (R63 to R67) -/

/-- Whether a port's partner qualifies for electrical idle (R65). -/
def Chip.eidlePeer (c : Chip) (p : Nat) : Bool :=
  decide (3 ≤ c.rd Reg.PORT_CFG_MODE p) && (c.portSt p).peerEidle

/-- EIDLE_NOPEER brought up to date. -/
def Chip.showEidle (c : Chip) (p : Nat) : Chip := c.flag Reg.PORT_STATUS_EIDLE_NOPEER (c.on Reg.PORT_CFG_EIDLE_EN p && !c.eidlePeer p) p

/-- Whether a port may rest: no frame waits or leaves, no loopback, no timing lane (R62, R69). -/
def Chip.mayRest (c : Chip) (p : Nat) : Bool :=
  let s := c.portSt p
  c.linkUp p && c.portEmpty p && s.idleArm && s.tx.isNone && s.susp.isNone && !s.ctl && s.fcDue.isNone && !s.credDue && !s.respDue &&
  !s.verDue && s.lpTx == 0 && !c.looped p && !c.timingPort p

/-- The signal ordered sets that announce electrical idle: 8 blocks of type 0x4B, O code 0xF, D1 to D3 0xC7, 0x1D, 0x00 (R66). -/
def idleSets : LineSig := .orderedSets 8 0x4B 0xF 0xC71D00

/-- LPI_SLEEP_DELAY: the queues have been empty for the Clause 78 sleep delay (R64; log entry 149). -/
def Chip.lpiSleep (p : Nat) (c : Chip) : Chip :=
  if c.on Reg.PORT_CFG_LPI_EN p && c.mayRest p && decide ((c.portSt p).emptySince + (Config.lpiSleep (c.mode p)).toNat ≤ c.now) then
    ((c.updPort p fun s => { s with lpTx := 1 }).lpShow p).emit (.pin 0 p 1)
  else c

/-- EIDLE_HOLDOFF_EXPIRE: the holdoff has run without an enqueue; the eight ordered sets begin (R66). -/
def Chip.eidleEnter (p : Nat) (c : Chip) : Chip :=
  if c.on Reg.PORT_CFG_EIDLE_EN p && c.eidlePeer p && c.mayRest p &&
      decide ((c.portSt p).emptySince + unitsUs (c.rd Reg.EIDLE_CFG_HOLDOFF_US p) ≤ c.now) then
    (c.updPort p fun s => { s with lpTx := 7, idleArm := false, lpAt := c.now }).emit (.line p idleSets)
  else c

/-- The lane of a port active again (R64, R66). -/
def Chip.laneAwake (p : Nat) (c : Chip) : Chip := ((c.updPort p fun s => { s with lpTx := 0 }).lpShow p).idleCheck p

/-- The time a lane takes to wake, in units of 10 ps: 998.4 ns from electrical idle (R66), from LPI the partner's wake time in µs, before it is
known the device's own (R64). -/
def Chip.wakeSpan (c : Chip) (p : Nat) : Nat :=
  if (c.portSt p).lpTx = 5 then 99840
  else unitsUs (if (c.portSt p).peerWake = 0 then (Config.wakeTime (c.mode p)).toNat else (c.portSt p).peerWake)

/-- The parts of a wake that have begun: from W1 the PRBS7 burst, from W1 + 896 ns idle blocks, 16 at 10.3125 Gb/s or 40 at 25.78125 Gb/s (R66). -/
def Chip.wakeParts (p : Nat) (c : Chip) : Chip :=
  let s := c.portSt p
  if s.lpTx ≠ 5 then c
  else
    let c1 := if s.lpSent = 0 ∧ s.lpAt ≤ c.now then (c.updPort p fun s => { s with lpSent := 1 }).emit (.line p (.prbs7 89600)) else c
    if (c1.portSt p).lpSent = 1 ∧ s.lpAt + 89600 ≤ c.now then
      (c1.updPort p fun s => { s with lpSent := 2 }).emit (.line p (.idleBlocks (if c.mode p = 3 ∨ c.mode p = 5 then 16 else 40)))
    else c1

/-- EIDLE_WAKE_DONE: the wake sequence has run and the lane is active (R64, R66). -/
def Chip.eidleAwake (p : Nat) (c : Chip) : Chip :=
  if ((c.portSt p).lpTx = 5 ∨ (c.portSt p).lpTx = 6) ∧ (c.portSt p).lpAt + c.wakeSpan p ≤ c.now then (c.wakeParts p).laneAwake p else c

/-- What time alone does to the lanes in low power (R64, R66): after the eighth ordered set the driver rests, the wake sequence goes
on, and a wake from LPI ends. -/
def Chip.restStep (c : Chip) : Chip :=
  c.each (c.path.ports.map Prod.fst) fun p c =>
    let s := c.portSt p
    if s.lpTx = 7 ∧ s.lpAt + 8 * c.blockPeriod p ≤ c.now then ((c.updPort p fun s => { s with lpTx := 4 }).lpShow p).emit (.pin 1 p 0)
    else if s.lpTx = 6 then c.eidleAwake p
    else c.wakeParts p

/-- LPI_RX: the partner signals LPI or wakes; a timing lane does not follow and counts (R63, R64). DESIGN CHOICE (log
entry 190): a four-lane port counts once, on its first lane. -/
def Chip.lpiRx (p : Nat) (low : Bool) (c : Chip) : Chip :=
  if c.timingPort p then (if low then c.count Ev.RX_LPI_UNEXPECTED p else c)
  else if c.on Reg.PORT_CFG_LPI_EN p && c.linkUp p && !c.looped p then (c.updPort p fun s => { s with lpRx := if low then 2 else 0 }).lpShow p
  else c

/-- EIDLE_RX_ENTRY: the receiver freezes after the partner's eighth ordered set; the link stays up (R66). -/
def Chip.eidleRxEntry (p : Nat) (c : Chip) : Chip :=
  if c.on Reg.PORT_CFG_EIDLE_EN p && c.eidlePeer p && c.linkUp p && !c.timingPort p && !c.looped p then
    (c.updPort p fun s => { s with lpRx := 4 }).lpShow p else c

/-- EIDLE_RX_WAKE: the receiver relocks on the wake burst (R66). -/
def Chip.eidleRxWake (p : Nat) (c : Chip) : Chip :=
  if (c.portSt p).lpRx = 4 then (c.updPort p fun s => { s with lpRx := 0 }).lpShow p else c

/-- EIDLE_REPORT_EXPIRE: a report older than 4 s no longer counts (R65). DESIGN CHOICE (log entry 159): one that came in hellos has no such limit. -/
def Chip.eidleExpire (p : Nat) (c : Chip) : Chip :=
  let s := c.portSt p
  if s.peerEidle && !c.fabPort p && decide (s.peerAt + unitsS 4 < c.now) then
    (c.updPort p fun s => { s with peerEidle := false }).showEidle p else c

/-- A TLV of an LLDP frame. -/
def lldpTlv (typ : Nat) (b : Bytes) : Bytes := bytesOfNat 2 (typ * 512 + b.length) ++ b

/-- The LLDP frame of a port (R64, R65): chassis and port, the EEE TLV of Clause 79 on a port with LPI_EN and no timing lane, and the
device's own TLV on a port with EIDLE_EN set or just cleared. -/
def Chip.lldpFrame (c : Chip) (p : Nat) : Bytes :=
  let mac := c.rd Reg.DEV_MAC
  let w := bytesOfNat 2 (Config.wakeTime (c.mode p)).toNat
  let eee := if c.on Reg.PORT_CFG_LPI_EN p && !c.timingPort p then lldpTlv 127 (bytesOfNat 4 0x00120F05 ++ w ++ w ++ w ++ w ++ w) else []
  let own := lldpTlv 127 (bytesOfNat 3 (mac / 2 ^ 24) ++ bytesOfNat 1 0xE1 ++ bytesOfNat 1 (c.rd Reg.PORT_CFG_EIDLE_EN p))
  ethFrame 0x0180C200000E mac none 0x88CC (lldpTlv 1 (bytesOfNat 1 4 ++ bytesOfNat 6 mac) ++ lldpTlv 2 (bytesOfNat 1 7 ++ bytesOfNat 2 p) ++
    lldpTlv 3 (bytesOfNat 2 4) ++ eee ++ own ++ lldpTlv 0 [])

/-- EIDLE_LLDP_SEND: once per second on an up port with EIDLE_EN = 1, and after a change of EIDLE_EN (R65). LPI ports send their EEE TLV
the same way (R64). -/
def Chip.lldpSend (p : Nat) (c : Chip) : Chip :=
  let s := c.portSt p
  let wants := c.on Reg.PORT_CFG_EIDLE_EN p || c.on Reg.PORT_CFG_LPI_EN p
  if c.linkUp p ∧ !c.twinPort p ∧ (s.lldpDue ∨ (wants ∧ s.lldpAt + unitsS 1 ≤ c.now)) then
    let c1 := c.updPort p fun s => { s with lldpAt := c.now, lldpDue := false }
    if c.fabPort p then c1.ownFrame p 7 (zidFrame (zidOwn 3 1 7) (c.lldpFrame p)) else c1.ownFrame p 7 (c.lldpFrame p)
  else c

/-! ### Flushes (R106) and mode changes (R56) -/

/-- One waiting target removed by a flush: counted at once when its frame is confirmed, else when it is. DESIGN CHOICE (log entry 160): a
candidate held behind an older frame (R88) is removed at once, and a frame whose lookup point comes later is admitted as usual. -/
def Chip.flushTgt (c : Chip) (id k : Nat) : Chip :=
  match c.frameOf id, c.tgtOf id k with
  | some f, some t =>
    if t.st = .gone ∨ t.st = .sending then c
    else if f.res = 1 then (c.count Ev.FLUSH_DROP t.queue).dropTgt id k
    else if t.st = .pending then c.updTgt id k fun t => { t with flush := true }
    else (c.updFrame id fun f => { f with counts := f.counts ++ [(Ev.FLUSH_DROP, t.queue)] }).dropTgt id k
  | _, _ => c

/-- A queue flushed at this instant: the frames and cells removed whose frames were confirmed, and the block. What arrived before it takes its cells first (R95). -/
def Chip.flushQueue (c : Chip) (q : Nat) : Nat × Nat × Chip :=
  let c := c.takeArrived
  let hit := c.path.frames.flatMap fun f => (List.range f.tgts.length).filterMap fun k =>
    (f.tgts[k]?).bind fun t => if t.queue = q ∧ t.st ≠ .gone ∧ t.st ≠ .sending then some (f.id, k) else none
  let conf := c.confirmed.filter fun f => f.tgts.any fun t => t.queue == q && t.st != .gone && t.st != .sending
  let c1 := c.each hit fun x c => c.flushTgt x.1 x.2
  let c2 := { c1 with path := { c1.path with redAvg := SMap.set c1.path.redAvg q 0 } }
  (conf.length, (conf.map fun f => f.cells.length).sum, (c2.showSlots (queuePort q)).idleCheck (queuePort q))

/-- All queues of a port. -/
def Chip.flushPort (c : Chip) (p : Nat) : Nat × Nat × Chip :=
  (List.range 8).foldl (fun (a : Nat × Nat × Chip) k =>
    let (n, m, c1) := a.2.2.flushQueue (queueOf p k)
    (a.1 + n, a.2.1 + m, c1)) (0, 0, c)

/-- A flush at this instant. -/
def Chip.flushNow (c : Chip) (all : Bool) (n : Nat) : Nat × Nat × Chip := if all then c.flushPort n else c.flushQueue n

/-- A lane's loopback: in a near-end one the driver is squelched (R69). -/
def Chip.loopLane (c : Chip) (l kind : Nat) : Chip :=
  let near := fun k => decide (k = 1 ∨ k = 2)
  let was := SMap.get c.loops l
  let c1 := { c with loops := SMap.set c.loops l kind }
  let c2 := if near was = near kind then c1 else c1.emit (.line l (.squelch (near kind)))
  if l < 512 then c2.flag Reg.LANE_STATUS_LOOPBACK (kind != 0) l else c2

/-- Loopbacks of a port's lanes end (R69): what a near-end one has sent and not received is lost with it. -/
def Chip.endLoops (c : Chip) (p : Nat) : Chip :=
  c.each (if p = 512 then [512] else [p, p + 1, p + 2, p + 3]) fun l c =>
    if SMap.get c.loops l = 0 ∨ (l ≠ p ∧ c.laneToPort l ≠ p) then c
    else (c.loopLane l 0).updPort p fun s => { s with loopQ := [] }

/-- The receive side of lanes lost (R56). -/
def Chip.lanesLost (c : Chip) (l : List Nat) : Chip :=
  c.each l fun n c => (c.flag Reg.LANE_STATUS_SYNC false n).flag Reg.LANE_STATUS_CDR_LOCK false n

/-- The rate code of the PLL a port selects (R52). -/
def Chip.pllRate (c : Chip) (p : Nat) : Nat :=
  c.rd (if c.on Reg.PORT_CFG_PLL_SEL p then Reg.OCT_CLK_PLLB_RATE else Reg.OCT_CLK_PLLA_RATE) (p / 8 * 8)

/-- PLL_LOCK of lanes that belong to no port any more, or whose PLL is off, clears; without a port no signal is detected (R52, R56; log entry
161). -/
def Chip.lanesOff (c : Chip) (l : List Nat) : Chip :=
  c.each l fun n c =>
    let p := c.laneToPort n
    let off := c.rd Reg.PORT_CFG_MODE p == 0 || !(c.portLanes p).contains n
    let c1 := if off then c.flag Reg.LANE_STATUS_SIG_DET false n else c
    if off || c.pllRate p == 0 then c1.flag Reg.LANE_STATUS_PLL_LOCK false n else c1

/-- A port goes down: LINK_UP and what hangs on it. DESIGN CHOICE (log entry 159): the partner's EIDLE report does not outlast its link. -/
def Chip.portDown (c : Chip) (p : Nat) : Chip :=
  let c1 := ((c.flag Reg.PORT_STATUS_LINK_UP false p).flag Reg.PORT_STATUS_FEC_LOCK false p).flag Reg.PORT_STATUS_AN_DONE false p
  let c2 := if p < 512 then c1.lanesLost (c.portLanes p) else c1
  let c3 := (c2.updPort p fun s => { s with lpTx := 0, lpRx := 0, peerEidle := false, idleArm := false, pausedTo := [] }).lpShow p
  let c4 := if p < 512 then ((c3.wr Reg.SCHED_STAT_PAUSED 0 p).preemptReset p).showEidle p else c3
  if c4.fabPort p then c4.setFabLink p 0 0 else c4

/-- Whether a far-end loop is held on some lane of a port (R69). -/
def Chip.farLoop (c : Chip) (p : Nat) : Bool := (if p = 512 then [512] else c.portLanes p).any fun l => SMap.get c.loops l == 3

/-- The commit point of a change of MODE, FEC or PLL_SEL: waiting frames are discarded as by QUEUE_FLUSH, the lanes retrain (R56); a change of
MODE ends the loopbacks first (R69). `lanes` are those the port had before. -/
def Chip.modeChange (c : Chip) (p : Nat) (mode : Bool) (lanes : List Nat) : Chip :=
  let c0 := if mode then c.endLoops p else c
  let c1 := (c0.flushPort p).2.2
  let c2 := if p < 512 then (c1.lanesLost lanes).lanesOff (lanes ++ c1.portLanes p) else c1
  (c2.portDown p).updPort p fun s => { s with retrain := true, far := c2.farLoop p }

/-! ### Link changes -/

/-- The link of a port comes up or goes down; `an` tells that auto-negotiation is complete, `speed` the speed SGMII agreed on (R73). The
PTP and twin effects of the change are added where those are known. DEDUCED (log entry 161): the lanes' PLL_LOCK and SIG_DET read 1 from here on. -/
def Chip.linkChange (p : Nat) (up an : Bool) (speed : Nat) (c : Chip) : Chip :=
  if !up then c.portDown p
  else if c.mode p = 0 then c
  else
    let c1 := c.updPort p fun s => { s with retrain := false, far := c.farLoop p, gridAt := c.now }
    let c2 := (c1.flag Reg.PORT_STATUS_LINK_UP true p).flag Reg.PORT_STATUS_AN_DONE
      (an && (c.mode p == 7 || (c.mode p == 1 && (if p = 512 then c.on Reg.MGT_CFG_AN37 512 else c.on Reg.PORT_CFG_AN37 p)))) p
    if p = 512 then { c2 with mgtSpeed := if c.mode 512 = 7 then speed else 1000 }
    else
      let c3 := c2.flag Reg.PORT_STATUS_FEC_LOCK (c.rd Reg.PORT_CFG_FEC p != 0) p
      let c4 := c3.each (c.portLanes p) fun l c =>
        ((((c.flag Reg.LANE_STATUS_SIG_DET true l).flag Reg.LANE_STATUS_CDR_LOCK true l).flag Reg.LANE_STATUS_SYNC true l).flag
          Reg.LANE_STATUS_PLL_LOCK true l)
      let c5 := ((c4.preemptReset p).showEidle p).showTiming p
      let c6 := if c5.fabPort p ∧ c5.rd Reg.FAB_PORT_STATUS_LINK p = 0 then c5.fabProbe p else c5
      c6.idleCheck p

/-- EIDLE_WAKE_FAIL: the receiver lacks block lock at the end of the wake; the link is down and retrains (R67). -/
def Chip.eidleWakeFail (p : Nat) (c : Chip) : Chip :=
  if (c.portSt p).lpRx = 4 then ((c.count Ev.EIDLE_WAKE_FAIL p).portDown p).updPort p fun s => { s with retrain := true } else c

/-! ### Loopback (R69) -/

/-- A loopback set on one lane or all of a port: the kind 0 ends it. -/
def Chip.setLoop (c : Chip) (p kind : Nat) (lanes : List Nat) : Chip :=
  let c1 := c.each lanes fun l c => c.loopLane l kind
  let c2 := (c1.updPort p fun s => { s with
    far := c1.farLoop p, lpTx := 0, lpRx := 0, idleArm := false, loopQ := if c1.nearLoop p then s.loopQ else [] }).lpShow p
  if kind = 0 then c2.idleCheck p else c2

/-! ### Optical modules (R70 to R72) -/

/-- OPT_DIAG as the model lays it out (log entry 21): VALID in the top bit, the poll time, the module's bytes. -/
def optDiagCode (valid : Bool) (time : Nat) (b : Bytes) : Nat :=
  b2n valid * 2 ^ 1023 + (time % 2 ^ 96) * 2 ^ 896 + natOfBytes (sliceBytes b 0 112)

/-- A poll that failed: after the third in a row OPT_DIAG is invalid and notified (R72). -/
def Chip.optFail (c : Chip) (p : Nat) : Chip :=
  let o := SMap.get c.opts p
  let c1 := { c with opts := SMap.set c.opts p { o with fails := o.fails + 1, polledAt := c.now } }
  if o.fails + 1 = 3 then (c1.wr Reg.OPT_DIAG (clrBit (c.rd Reg.OPT_DIAG p) 1023) p).notify Nt.OPT_INVALID Cls.PORT p 0x0A else c1

/-- Whether the poll interval of a port's module has run since the last poll (R70). -/
def Chip.pollDue (c : Chip) (p : Nat) : Bool :=
  decide ((SMap.get c.opts p).polledAt + unitsMs (10 * c.rd Reg.OPT_MAP_POLL p) ≤ c.now)

/-- The reads of a poll, as device address, offset and length (R70): an SFF-8472 module's diagnostics and its flag bytes (PRESUMED, log entry 21: 112 to
117), an SFF-8636 module's lower page. -/
def optReads (typ : Nat) : List (Nat × Nat × Nat) := if typ = 1 then [(0xA2, 96, 16), (0xA2, 112, 6)] else [(0xA0, 3, 12), (0xA0, 22, 60)]

/-- The diagnostics among what a poll has read: 16 bytes, or 72. -/
def optTaken (typ : Nat) (b : Bytes) : Bytes := sliceBytes b 0 (if typ = 1 then 16 else 72)

/-- The module flags a poll has read: those of an SFF-8636 module are among the bytes 3 to 14. -/
def optFlags (typ flags : Nat) (b : Bytes) : Nat := if typ = 1 then flags else natAt b 0 12

/-- A master's reads of a module. -/
def Chip.pollWires (c : Chip) (p : Nat) : Chip :=
  c.each (optReads (c.rd Reg.OPT_MAP_TYPE p)) fun x c => c.emit (.pin 2 (c.rd Reg.OPT_MAP_MASTER p) ((x.1 * 256 + x.2.1) * 256 + x.2.2))

/-- A module has stretched the clock beyond 10 ms: nine clock pulses and a stop condition free the bus, and the poll has failed (R72). -/
def Chip.optFree (c : Chip) (p : Nat) : Chip := (c.emit (.pin 2 (c.rd Reg.OPT_MAP_MASTER p) 9)).optFail p

/-- OPT_POLL: a port's module is read once per poll interval (R70): diagnostics and alarm and warning flags. -/
def Chip.optPoll (p : Nat) (flags : Nat) (resp : OptResp) (c : Chip) : Chip :=
  let o := SMap.get c.opts p
  let typ := c.rd Reg.OPT_MAP_TYPE p
  if typ = 0 ∨ !c.pollDue p then c
  else
    let c := c.pollWires p
    match resp with
    | .done b =>
      let set := optFlags typ flags b
      let c1 := { c with opts := SMap.set c.opts p { fails := 0, flags := set, polledAt := c.now } }
      let c2 := c1.wr Reg.OPT_DIAG (optDiagCode true c.tb96 (optTaken typ b)) p
      if set &&& (set ^^^ o.flags) ≠ 0 then c2.notify Nt.OPT_FLAG Cls.PORT p 0x0A else c2
    | .stretch => c.optFree p
    | .nack => c.optFail p

/-- OPT_STRETCH_TIMEOUT: a module stretches the clock beyond 10 ms during a poll (R72). -/
def Chip.optStretch (p : Nat) (c : Chip) : Chip :=
  if c.rd Reg.OPT_MAP_TYPE p = 0 ∨ !c.pollDue p then c else (c.pollWires p).optFree p

end Sys2Proof.Machine
end

