-- ==== Sys2Proof/Machine/Ptp.lean ====
section
/-! DEFINITION. PTP instances and ports (R226 to R232, R245): port states, the messages the firmware sends and answers. What R226 takes from
the standards it names (message layouts, the best master algorithm) is theirs (log entry 31). Instance 4 is the internal one of the twin
link (R338). -/

namespace Sys2Proof.Machine

/-! ### Instances and ports -/

/-- Instance, role and delay mechanism of a port; the device sets those of the twin link (R333, R338). -/
def Chip.ptpInst (c : Chip) (p : Nat) : Nat := if c.twinPort p then 4 else c.rd Reg.PTP_PORT_CFG_INST p
def Chip.ptpRole (c : Chip) (p : Nat) : Nat :=
  if c.twinPort p then (if c.standby then 3 else if c.rd Reg.TWIN_STATUS_STATE = 5 then 2 else 0)
  else if p < 512 then c.rd Reg.PTP_PORT_CFG_ROLE p else 0
def Chip.ptpDelay (c : Chip) (p : Nat) : Nat := if c.twinPort p then 0 else c.rd Reg.PTP_PORT_CFG_DELAY p
def Chip.instOn (c : Chip) (i : Nat) : Bool := i == 4 || c.on Reg.PTP_INST_EN 0 i
def Chip.profile (c : Chip) (i : Nat) : Nat := if i = 4 then 2 else c.rd Reg.PTP_INST_PROFILE 0 i
def Chip.domainNo (c : Chip) (i : Nat) : Nat := if i = 4 then 0 else c.rd Reg.PTP_INST_DOMAIN 0 i

/-- A log2 interval in units of 10 ps, and as a rate. -/
def logTime (l : Int) : Nat := if l < 0 then unitsS 1 / 2 ^ l.natAbs else unitsS (2 ^ l.natAbs)
def logRate (l : Int) : Nat × Nat := if l < 0 then (2 ^ l.natAbs, 1) else (1, 2 ^ l.natAbs)

/-- An interval asked for by Signaling; 127 asks for no messages (R226). -/
def askLog (ask : Option Int) (own : Int) : Int :=
  match ask with
  | some z => if z = 127 then own else z
  | none => own

/-- The intervals in force: those of the configuration, or asked for by Signaling. -/
def Chip.logSync (c : Chip) (p : Nat) : Int := if c.twinPort p then -4 else askLog (c.ptpPort p).askSync (c.rdS Reg.PTP_PORT_CFG_LOG_SYNC p)
def Chip.logAnn (c : Chip) (p : Nat) : Int := if c.twinPort p then 0 else askLog (c.ptpPort p).askAnn (c.rdS Reg.PTP_PORT_CFG_LOG_ANNOUNCE p)
def Chip.logDelay (c : Chip) (p : Nat) : Int := if c.twinPort p then -4 else askLog (c.ptpPort p).askDelay (c.rdS Reg.PTP_PORT_CFG_LOG_DELAY p)

/-- Whether the partner has asked for no messages. -/
def Chip.hushed (c : Chip) (p : Nat) (ask : Option Int) : Bool := !c.twinPort p && ask == some 127

/-- announceReceiptTimeout as a time. -/
def Chip.annWait (c : Chip) (p : Nat) : Nat := c.rd Reg.PTP_PORT_CFG_ANN_TIMEOUT p * logTime (c.logAnn p)

/-- clockIdentity (R232), and the portIdentity of a port. -/
def Chip.clockId (c : Chip) : Nat :=
  let m := c.rd Reg.DEV_MAC
  bitsOf m 24 24 * 2 ^ 40 + 0xFFFE * 2 ^ 24 + bitsOf m 0 24
def Chip.portId (c : Chip) (p : Nat) : Nat := c.clockId * 65536 + (p + 1)

/-- The clockClass of R232. -/
def Chip.ownClass (c : Chip) (i : Nat) : Nat :=
  let i := if i = 4 then 0 else i
  match c.rd Reg.SEL_STATUS_TSTATE with
  | 0 => c.rd Reg.PTP_CLASS_CLASS_FREE 0 i
  | 3 => c.rd Reg.PTP_CLASS_CLASS_HO 0 i
  | 4 => c.rd Reg.PTP_CLASS_CLASS_LOST 0 i
  | _ => c.rd Reg.PTP_CLASS_CLASS_LOCKED 0 i

/-- A grandmaster's fields as one number, in the order they are compared. -/
def gmNum (p1 cls qual p2 id : Nat) : Nat := (((p1 * 256 + cls) * 2 ^ 24 + qual) * 256 + p2) * 2 ^ 64 + id

/-- What the device itself would announce: PTP timescale, with a currentUtcOffset and timeSource that nothing gives. -/
def Chip.ownAnn (c : Chip) (i : Nat) : Ann :=
  let q := ((Config.announceOpen i).toNat >>> 24) % 2 ^ 24
  let (p1, p2) := if i = 4 then (128, 128) else (c.rd Reg.PTP_INST_PRIORITY1 0 i, c.rd Reg.PTP_INST_PRIORITY2 0 i)
  { gm := gmNum p1 (c.ownClass i) q p2 c.clockId, sender := c.clockId * 65536
    props := 8 * 2 ^ 24 + bitsOf (Config.announceOpen i).toNat 8 16 * 256 + bitsOf (Config.announceOpen i).toNat 0 8 }

/-! ### The best master (R231) -/

/-- The order of announced clocks: grandmaster, steps, sender, receiving port. -/
def Ann.rank (a : Ann) (port : Nat) : Nat := ((a.gm * 65536 + a.steps) * 2 ^ 80 + a.sender) * 65536 + port

/-- Announces of a port that count: fresh, and a second one heard except under IEEE 802.1AS. -/
def Chip.freshAnns (c : Chip) (p : Nat) : List Ann :=
  let need := if c.profile (c.ptpInst p) = 3 then 1 else 2
  (c.ptpPort p).anns.filter fun a => decide (need ≤ a.n) && decide (c.now < a.at_ + c.annWait p) && decide (a.steps < 255)

/-- The best of a port. -/
def Chip.portBest (c : Chip) (p : Nat) : Option Ann :=
  (c.freshAnns p).foldl (fun b a => match b with
    | none => some a
    | some x => if a.rank 0 < x.rank 0 then some a else some x) none

/-- Ports of an instance. -/
def Chip.instPorts (c : Chip) (i : Nat) : List Nat := (List.range 512).filter fun p => c.ptpRole p != 0 && c.ptpInst p == i

/-- Whether a port may be its instance's slave (R231): by its role, and of the BMCA only without EXT_CFG and, under IEEE 802.1AS, with asCapable. -/
def Chip.maySlave (c : Chip) (i p : Nat) : Bool :=
  match c.ptpRole p with
  | 3 => true
  | 1 => !(i != 4 && c.on Reg.PTP_INST_EXT_CFG 0 i) && (c.profile i != 3 || c.on Reg.PTP_PORT_STATUS_AS_CAPABLE p)
  | _ => false

/-- The best of an instance: among ports that may be slaves. -/
def Chip.instBest (c : Chip) (i : Nat) : Option (Nat × Ann) :=
  (c.instPorts i).foldl (fun b p =>
    if !c.maySlave i p || !c.linkUp p then b
    else match c.portBest p, b with
      | none, _ => b
      | some a, none => some (p, a)
      | some a, some (q, x) => if a.rank (p + 1) < x.rank (q + 1) then some (p, a) else b) none

/-- Whether the instance's best beats a port's own only by topology: the same grandmaster at about the same distance. -/
def Chip.byTopology (c : Chip) (p : Nat) (best own : Ann) : Bool :=
  best.gm == own.gm && (own.steps == best.steps || (own.steps == best.steps + 1 && decide (own.sender < c.portId p)))

/-- The state a port should take: portState of IEEE 1588. -/
def Chip.wantState (c : Chip) (i : Nat) (best : Option (Nat × Ann)) (p : Nat) : Nat :=
  let role := c.ptpRole p
  let was := c.rd Reg.PTP_PORT_STATUS_PORT_STATE p
  let slave := if was = 9 then 9 else 8
  let heard := decide (4 ≤ was) && (was != 4 || decide ((c.ptpPort p).annAt + c.annWait p ≤ c.now) || (c.portBest p).isSome)
  let master := if was = 6 then 6 else if !heard then 4 else 6
  let own := (c.ownAnn i).rank 0
  let only := i != 4 && c.on Reg.PTP_INST_SLAVE_ONLY 0 i
  if !c.instOn i then 3
  else if !c.linkUp p then 2
  else match role with
    | 2 => 6
    | 3 => if (match best with | some (q, _) => q == p | none => false) || ((i != 4 && c.on Reg.PTP_INST_EXT_CFG 0 i) && (c.portBest p).isSome)
        then slave else 8
    | 4 => 7
    | 1 =>
      if i ≠ 4 ∧ c.on Reg.PTP_INST_EXT_CFG 0 i then 4
      else if c.profile i = 3 ∧ !c.on Reg.PTP_PORT_STATUS_AS_CAPABLE p then 3
      else match best with
        | none => if only then 4 else master
        | some (q, a) =>
          let mine := c.portBest p
          if !only && decide (c.ownClass i ≤ 127) then
            match mine with
            | none => master
            | some x => if own < x.rank 0 then master else 7
          else if !only && decide (own < a.rank 0) then master
          else if q = p then slave
          else match mine with
            | some x => if c.byTopology p a x then 7 else if was = 6 then 6 else if c.profile i = 3 then 6 else 5
            | none => if was = 6 then 6 else if !heard then 4 else if c.profile i = 3 then 6 else 5
    | _ => 3

/-- A port takes a state; a change is notified. A port that becomes slave starts afresh; one that listens waits for Announce. -/
def Chip.setPtp (c : Chip) (p st steps : Nat) : Chip :=
  let was := c.rd Reg.PTP_PORT_STATUS_PORT_STATE p
  if was = st then c
  else
    let c1 := (c.wr Reg.PTP_PORT_STATUS_PORT_STATE st p).updPtp p fun x =>
      { x with
        preTo := if st = 5 then c.now + (steps + 1) * logTime (c.logAnn p) else x.preTo
        annAt := if st = 4 ∨ (st = 8 ∧ was ≠ 9) then c.now else x.annAt
        annLost := if st = 4 then false else x.annLost
        annOut := st != 9 && x.annOut
        sync := if st = 8 then none else x.sync
        sums := if st = 8 then [] else x.sums
        anns := if st = 2 ∨ st = 3 then [] else x.anns }
    (if st = 9 ∨ was ≠ 9 then c1 else c1.flag Reg.PTP_PORT_STATUS_L1_SYNC false p).notify Nt.PTP_PORT_STATE Cls.PORT p 0x55

/-- PTP_PARENT of an instance (R232, R248). -/
def Chip.setParent (c : Chip) (i : Nat) (best : Option (Nat × Ann)) : Chip :=
  if 4 ≤ i then c
  else match best with
    | some (p, a) =>
      let st := c.rd Reg.PTP_PORT_STATUS_PORT_STATE p
      if st ≠ 8 ∧ st ≠ 9 then c
      else
        let cls := bitsOf a.gm 96 8
        let old := c.rd Reg.PTP_PARENT_GM_CLASS 0 i
        let c1 := (((c.wr Reg.PTP_PARENT_PARENT_ID a.sender 0 i).wr Reg.PTP_PARENT_GM_CLASS cls 0 i).wr Reg.PTP_PARENT_STEPS_REMOVED
          (a.steps + 1) 0 i).wr Reg.PTP_PARENT_SLAVE_PORT p 0 i
        if (c.portRefs p).contains (c.rd Reg.SEL_STATUS_TREF) then
          { c1 with car := { c1.car with gmBad := if cls ≤ 127 then false else if old ≤ 127 then true else c1.car.gmBad } }
        else c1
    | none =>
      ((c.wr Reg.PTP_PARENT_PARENT_ID (c.clockId * 65536) 0 i).wr Reg.PTP_PARENT_GM_CLASS (c.ownClass i) 0 i).wr
        Reg.PTP_PARENT_STEPS_REMOVED 0 0 i

/-- The states of an instance's ports and its parent brought up to date. -/
def Chip.runBmca (c : Chip) (i : Nat) : Chip :=
  let best := c.instBest i
  let steps := match best with | some (_, a) => a.steps | none => 0
  let parent := if i = 4 then 0 else c.rd Reg.PTP_PARENT_PARENT_ID 0 i
  let c1 := c.each (c.instPorts i) fun p c =>
    let moved := match best with | some (q, a) => q == p && i != 4 && a.sender != parent | none => false
    let c := if moved && c.rd Reg.PTP_PORT_STATUS_PORT_STATE p == 9 then c.setPtp p 8 0 else c
    let st := c.rd Reg.PTP_PORT_STATUS_PORT_STATE p
    let w := c.wantState i best p
    let w := if w ≠ 2 ∧ w ≠ 3 ∧ (st = 2 ∨ st = 3) ∧ (w = 6 ∨ w = 5) ∧ c.ptpRole p = 1 then 4 else w
    c.setPtp p w steps
  c1.setParent i (match best with
    | some (p, a) => if c1.rd Reg.PTP_PORT_STATUS_PORT_STATE p = 8 ∨ c1.rd Reg.PTP_PORT_STATUS_PORT_STATE p = 9 then some (p, a) else none
    | none => none)

/-- A port without a role is DISABLED. -/
def Chip.ptpRefresh (c : Chip) : Chip :=
  let c1 := c.each (List.range 512) fun p c =>
    if c.ptpRole p = 0 ∧ c.rd Reg.PTP_PORT_STATUS_PORT_STATE p ≠ 3 then c.setPtp p 3 0 else c
  [0, 1, 2, 3, 4].foldl (fun c i => c.runBmca i) c1

/-! ### Messages -/

/-- A PTP message: header of 34 bytes and body. -/
def ptpMessage (sdo typ dom flags : Nat) (cor : Int) (pid seq ctl : Nat) (log : Int) (body : Bytes) : Bytes :=
  bytesOfNat 1 (sdo * 16 + typ) ++ bytesOfNat 1 0x12 ++ bytesOfNat 2 (34 + body.length) ++ bytesOfNat 1 dom ++ bytesOfNat 1 0 ++
    bytesOfNat 2 flags ++ bytesOfNat 8 (encS 64 cor) ++ bytesOfNat 4 0 ++ bytesOfNat 10 pid ++ bytesOfNat 2 seq ++ bytesOfNat 1 ctl ++
    bytesOfNat 1 (encS 8 log) ++ body

/-- A PTP message queued at its port in the port's transport; event messages carry a stamp request tag (R182). -/
def Chip.sendPtp (c : Chip) (p typ : Nat) (msg : Bytes) (cont : Int) : Chip :=
  let i := c.ptpInst p
  let tr := if c.twinPort p then 0 else c.rd Reg.PTP_PORT_CFG_TRANSPORT p
  let peer := typ = 2 ∨ typ = 3 ∨ typ = 10
  let mac := c.rd Reg.DEV_MAC
  let port := if typ < 4 then 319 else 320
  let b := match tr with
    | 1 => ethFrame (if peer then 0x01005E00006B else 0x01005E000181) mac none 0x0800
        (udp4Packet (c.rd Reg.CMD_IP4) (if peer then 0xE000006B else 0xE0000181) port port msg)
    | 2 => ethFrame (if peer then 0x33330000006B else 0x333300000181) mac none 0x86DD
        (udp6Packet (c.rd Reg.CMD_IP6) (if peer then 0xFF02 * 2 ^ 112 + 0x6B else 0xFF0E * 2 ^ 112 + 0x181) port port msg)
    | _ => ethFrame (if peer ∨ c.profile i = 3 then 0x0180C200000E else 0x011B19000000) mac none 0x88F7 msg
  let w := c.wrapOwn p b
  let at_ := (w.length - b.length) + (match tr with | 1 => 42 | 2 => 62 | _ => 14)
  if !c.linkUp p ∨ c.silent p w then c
  else match c.sendOwn .device .trap 64 p 7 w none (if typ < 4 then some (natAt msg 30 2) else none) with
    | none => c
    | some c1 => c1.updFrame (c1.path.frameCtr - 1) fun f => { f with cont := cont, tgts := f.tgts.map fun t => { t with ptpAt := at_ } }

/-- majorSdoId of a message of a port. -/
def Chip.sdo (c : Chip) (p typ : Nat) : Nat :=
  if (typ = 2 ∨ typ = 3 ∨ typ = 10) ∧ c.ptpDelay p = 2 then 2 else if c.profile (c.ptpInst p) = 3 then 1 else 0

/-- The domainNumber of a message of a port: 0 in the common mean link delay service (R226; log entry 74). -/
def Chip.msgDomain (c : Chip) (p typ : Nat) : Nat := if c.ptpDelay p = 2 ∧ ptpPeer.contains typ then 0 else c.domainNo (c.ptpInst p)

/-- A message of a port with the usual header. -/
def Chip.sendWith (c : Chip) (p typ flags : Nat) (cor : Int) (seq ctl : Nat) (log : Int) (body : Bytes) (cont : Int := 0) : Chip :=
  c.sendPtp p typ (ptpMessage (c.sdo p typ) typ (c.msgDomain p typ) flags cor (c.portId p) seq ctl log body) cont

/-- A message of a port on the PTP timescale. -/
def Chip.sendMsg (c : Chip) (p typ flags : Nat) (cor : Int) (seq ctl : Nat) (log : Int) (body : Bytes) (cont : Int := 0) : Chip :=
  c.sendWith p typ (flags + 8) cor seq ctl log body cont

/-- The slave port of an instance and the best Announce it follows. -/
def Chip.parentOf (c : Chip) (i : Nat) : Option (Nat × Ann) :=
  (c.instBest i).filter fun x => c.rd Reg.PTP_PORT_STATUS_PORT_STATE x.1 == 8 || c.rd Reg.PTP_PORT_STATUS_PORT_STATE x.1 == 9

/-- The content of the Follow_Up information TLV (R226): a grandmaster's is 0, a bridge passes its parent's on, the rate of its neighbour added to
cumulativeScaledRateOffset (log entry 206). -/
def Chip.followInfo (c : Chip) (i : Nat) : Nat :=
  match c.parentOf i with
  | none => 0
  | some (p, _) =>
    let x := c.ptpPort p
    let rate := if c.on Reg.PTP_PORT_STATUS_L1_SYNC p then 0 else x.peer.rate
    encS 32 (signed 32 (bitsOf x.info 144 32) + rate) * 2 ^ 144 + x.info % 2 ^ 144

/-- The Follow_Up information TLV of IEEE 802.1AS. -/
def followTlv (info : Nat) : Bytes := bytesOfNat 2 3 ++ bytesOfNat 2 28 ++ bytesOfNat 3 0x0080C2 ++ bytesOfNat 3 1 ++ bytesOfNat 22 info

/-- Whether an instance has nothing to pass on: without a parent a SLAVE_ONLY one is no grandmaster (R232; log entry 207). -/
def Chip.instMute (c : Chip) (i : Nat) : Bool := i != 4 && c.on Reg.PTP_INST_SLAVE_ONLY 0 i && (c.parentOf i).isNone

/-- PTP_SYNC_SEND: a master port's Sync, and its Follow_Up behind it with TWO_STEP. -/
def Chip.syncSend (p : Nat) (c : Chip) : Chip :=
  let x := c.ptpPort p
  let i := c.ptpInst p
  if 512 ≤ p ∨ c.rd Reg.PTP_PORT_STATUS_PORT_STATE p ≠ 6 ∨ !c.instOn i ∨ c.instMute i ∨ c.hushed p x.askSync ∨ c.now < x.syncAt then c
  else
    let l := c.logSync p
    let two := c.on Reg.PTP_PORT_CFG_TWO_STEP p && !c.twinPort p
    let tlv := if c.profile i = 3 then followTlv (c.followInfo i) else []
    let c1 := c.updPtp p fun x => { x with syncAt := c.now + logTime l, seqS := (x.seqS + 1) % 65536 }
    let c2 := c1.sendMsg p 0 (if two then 0x200 else 0) 0 x.seqS 0 l (bytesOfNat 10 0 ++ (if two then [] else tlv))
    if two then c2.sendMsg p 8 0 0 x.seqS 2 l (bytesOfNat 10 0 ++ tlv) else c2

/-- What an instance announces (R232): its own fields as grandmaster, else its parent's. -/
def Chip.instAnn (c : Chip) (i : Nat) : Ann :=
  match c.parentOf i with
  | some (_, a) => { a with steps := a.steps + 1 }
  | none => c.ownAnn i

/-- PTP_ANNOUNCE_SEND: a port whose PRE_MASTER time is over becomes MASTER; a master port sends Announce. -/
def Chip.announceSend (p : Nat) (c : Chip) : Chip :=
  let x := c.ptpPort p
  let i := c.ptpInst p
  let st := c.rd Reg.PTP_PORT_STATUS_PORT_STATE p
  if 512 ≤ p ∨ !(st == 5 || st == 6) ∨ !c.instOn i ∨ (st = 6 ∧ (c.instMute i ∨ c.hushed p x.askAnn)) ∨ c.now < x.annSendAt then c
  else
    let l := c.logAnn p
    let c1 := c.updPtp p fun x => { x with annSendAt := c.now + logTime l }
    if st = 5 then (if x.preTo ≤ c.now then c1.setPtp p 6 0 else c1)
    else
      let a := c.instAnn i
      let path := if c.profile i = 3 then
          let ids := a.path ++ [c.clockId]
          bytesOfNat 2 8 ++ bytesOfNat 2 (8 * ids.length) ++ ids.flatMap (bytesOfNat 8)
        else []
      let g := a.gm
      let body := bytesOfNat 10 0 ++ bytesOfNat 2 (bitsOf a.props 8 16) ++ bytesOfNat 1 0 ++ bytesOfNat 1 (bitsOf g 104 8) ++
        bytesOfNat 4 (bitsOf g 72 32) ++ bytesOfNat 1 (bitsOf g 64 8) ++ bytesOfNat 8 g ++ bytesOfNat 2 a.steps ++
        bytesOfNat 1 (bitsOf a.props 0 8) ++ path
      (c1.updPtp p fun x => { x with seqA := (x.seqA + 1) % 65536 }).sendWith p 11 (bitsOf a.props 24 8) 0 x.seqA 5 l body

/-- AS_CAPABLE of a port under IEEE 802.1AS; with a change the states are decided anew (R231). -/
def Chip.setCapable (c : Chip) (p : Nat) (able : Bool) : Chip :=
  let on := able && c.profile (c.ptpInst p) == 3
  if c.on Reg.PTP_PORT_STATUS_AS_CAPABLE p = on then c else (c.flag Reg.PTP_PORT_STATUS_AS_CAPABLE on p).runBmca (c.ptpInst p)

/-- PTP_DELAY_REQ_SEND: Delay_Req of a slave port, or Pdelay_Req. -/
def Chip.delaySend (p : Nat) (c : Chip) : Chip :=
  let x := c.ptpPort p
  let i := c.ptpInst p
  let st := c.rd Reg.PTP_PORT_STATUS_PORT_STATE p
  if 512 ≤ p ∨ c.ptpRole p = 0 ∨ !c.instOn i ∨ !c.linkUp p ∨ c.now < x.delayAt then c
  else
    let l := c.logDelay p
    let q := x.seqD
    if c.ptpDelay p = 0 then
      if (st ≠ 8 ∧ st ≠ 9) ∨ c.hushed p x.askDelay then c
      else
        (c.updPtp p fun x => { x with delayAt := c.now + logTime l, seqD := (q + 1) % 65536, dseq := some q }).sendMsg p 1 0 0 q 1 l
          (bytesOfNat 10 0)
    else if c.hushed p x.askDelay then c
    else
      let lost := if x.peer.state = 0 then 0 else x.peer.lost + 1
      let c1 := c.updPtp p fun x => { x with
        delayAt := c.now + logTime l, seqD := (q + 1) % 65536, peer := { x.peer with seq := q, state := 1, lost := lost } }
      (if 9 < lost then c1.setCapable p false else c1).sendMsg p 2 0 0 q 5 l (bytesOfNat 20 0)

/-- ANN_TIMEOUT: announceReceiptTimeout expires; the senders not heard in time are forgotten and the states decided anew. -/
def Chip.annTimeout (p : Nat) (c : Chip) : Chip :=
  let x := c.ptpPort p
  let st := c.rd Reg.PTP_PORT_STATUS_PORT_STATE p
  if 512 ≤ p ∨ c.ptpRole p = 0 ∨ !(st == 4 || st == 7 || st == 8 || st == 9) ∨ c.now < x.annAt + c.annWait p ∨ x.annLost then c
  else
    let c1 := c.updPtp p fun x => { x with
      anns := x.anns.filter fun a => decide (c.now < a.at_ + c.annWait p)
      annLost := st != 4
      annOut := x.annOut || st == 8 || st == 9 }
    let c2 := if st = 4 then c1
      else (c1.flag Reg.PTP_PORT_STATUS_ANN_TIMEOUT true p).notify Nt.ANN_TIMEOUT Cls.PORT p 0x55
    c2.runBmca (c.ptpInst p)

/-! ### Offsets (R234, R245) -/

/-- The mean path delay of a port, in 2^-16 ns, written to LINK_DELAY while the firmware servo owns it (R179, R245). -/
def Chip.setMpd (c : Chip) (p : Nat) (v : Int) : Chip :=
  if c.rd Reg.SERVO_CTRL_SERVO_MODE ≠ 0 then c
  else (c.wr Reg.LINK_DELAY_MPD (satU Reg.LINK_DELAY_MPD.width (divRoundS (max 0 v) 64).toNat) p).asymHook p

/-- The offset of a completed Sync: TOFF of the port's reference, and the servo's input. -/
def Chip.syncOffset (c : Chip) (p : Nat) (s : SyncRec) (mpd : Int) : Chip :=
  let o := s.t2 - s.t1 - s.cs - mpd - c.rdS Reg.LINK_DELAY_ASYM_A p
  let c1 := if c.rd Reg.PTP_PORT_STATUS_PORT_STATE p = 8 then c.setPtp p 9 0 else c
  if c.twinPort p then c1.servoOffset 30 o (logRate (c.logSync p))
  else c1.each ((c.portRefs p).filter fun n => c.on Reg.REF_CFG_TIME n) fun n c => (c.wrS Reg.REF_TOFF o n).servoOffset n o (logRate (c.logSync p))

/-- A Sync with its t1 known: under peer delay its offset follows at once; end to end it waits for the exchange's Delay_Resp, unless delay
requests are rarer than Syncs (log entry 32). -/
def Chip.syncDone (c : Chip) (p : Nat) (s : SyncRec) : Chip :=
  let c1 := c.updPtp p fun x => { x with sync := some { s with wait := false } }
  let x := c.ptpPort p
  if c.ptpDelay p ≠ 0 then
    match x.sums with
    | v :: _ => c1.syncOffset p s v
    | [] => c1
  else if c.logSync p < c.logDelay p ∧ x.sums ≠ [] then c1.syncOffset p s (divRoundS (x.sums.foldl (· + ·) 0) (2 * x.sums.length))
  else c1

/-- The Delay_Resp of an exchange: MPD over the last 16, then the offset of its Sync, once (log entry 32). -/
def Chip.delayDone (c : Chip) (p : Nat) (t4 cd : Int) : Chip :=
  let x := c.ptpPort p
  match x.dseq, x.sync with
  | some q, some s =>
    let (t3, c1) := c.takeReport p 1 q
    match t3 with
    | none => c1.updPtp p fun x => { x with dseq := none }
    | some t3 =>
      if s.wait then c1.updPtp p fun x => { x with dseq := none }
      else
        let sums := (((s.t2 - s.t1 - s.cs) + (t4 - t3 - cd)) :: x.sums).take 16
        let mpd := divRoundS (sums.foldl (· + ·) 0) (2 * sums.length)
        let c2 := (c1.updPtp p fun x => { x with dseq := none, sums := sums, sync := some { s with used := true } }).setMpd p mpd
        if c.logSync p < c.logDelay p ∨ s.used then c2 else c2.syncOffset p s mpd
  | _, _ => c.updPtp p fun x => { x with dseq := none }

/-- A peer delay measured: t1 from the report, the neighbour's rate taken as 1 under layer-1 syntonisation, else from the last two exchanges that gave t3;
a one-step response gives none. -/
def Chip.peerDone (c : Chip) (p : Nat) (two : Bool) (t2 t3 t4 cor : Int) : Chip :=
  let x := c.ptpPort p
  let (t1, c1) := c.takeReport p 2 x.peer.seq
  match t1 with
  | none => c1.updPtp p fun x => { x with peer := { x.peer with state := 0 } }
  | some t1 =>
    let dn := t4 - x.peer.last4
    let turn := t4 - t1
    let rated := two && c.profile (c.ptpInst p) == 3 && x.peer.last4 != 0 && decide (0 < dn)
    let turn := if rated && !c.on Reg.PTP_PORT_STATUS_L1_SYNC p then divRoundS (turn * (t3 - x.peer.last3)) dn.toNat else turn
    let rate := if rated then divRoundS ((t3 - x.peer.last3 - dn) * 2 ^ 41) dn.toNat else x.peer.rate
    let mpd := divRoundS (turn - (t3 - t2) - cor) 2
    ((c1.updPtp p fun x => { x with
      sums := [mpd]
      peer := { x.peer with
        state := 0, lost := 0, rate := rate, last3 := if two then t3 else x.peer.last3, last4 := if two then t4 else x.peer.last4 } }).setMpd p
      mpd).setCapable p true

/-! ### Reception (R227, R228) -/

/-- A PTP timestamp read, in 2^-16 ns. -/
def readTime (b : Bytes) (off : Nat) : Int := ((natAt b off 6 * nsPerS + natAt b (off + 6) 4) * 65536 : Nat)

/-- An Announce heard: the record of its sender renewed, and the states decided anew. -/
def Chip.announceRx (c : Chip) (p : Nat) (b : Bytes) : Chip :=
  let i := c.ptpInst p
  let sender := natAt b 20 10
  let gm := gmNum (natAt b 47 1) (natAt b 48 1) (natAt b 49 3) (natAt b 52 1) (natAt b 53 8)
  let n := if natAt b 64 2 = 8 then natAt b 66 2 / 8 else 0
  let path := (List.range n).map fun k => natAt b (68 + 8 * k) 8
  let old := (c.ptpPort p).anns.find? fun a => a.sender == sender
  let a : Ann := { gm := gm, steps := natAt b 61 2, sender := sender, at_ := c.now, n := (old.map Ann.n).getD 0 + 1, path := path
                   props := natAt b 7 1 * 2 ^ 24 + natAt b 44 2 * 256 + natAt b 63 1 }
  if sender / 65536 = c.clockId ∨ natAt b 53 8 = c.clockId ∨ path.contains c.clockId ∨ c.ptpRole p = 2 ∨ c.ptpRole p = 4 then c
  else
    let parent := i != 4 && c.rd Reg.PTP_PARENT_PARENT_ID 0 i == sender
    (c.updPtp p fun x =>
      { x with
        anns := a :: x.anns.filter fun y => y.sender != sender
        annAt := if parent ∨ c.rd Reg.PTP_PORT_STATUS_PORT_STATE p ≠ 9 then c.now else x.annAt
        annLost := if parent ∨ c.rd Reg.PTP_PORT_STATUS_PORT_STATE p ≠ 9 then false else x.annLost }).runBmca i

/-- A message interval request of IEEE 802.1AS (R226): 126 asks for the configured interval again, 127 for no messages, -128 for no change. -/
def askOf (old : Option Int) (v : Nat) : Option Int :=
  let z := signed 8 v
  if z = 126 then none else if z = -128 then old else some z

def Chip.signalRx (c : Chip) (p : Nat) (b : Bytes) : Chip :=
  if c.profile (c.ptpInst p) = 3 ∧ natAt b 44 2 = 3 ∧ natAt b 48 6 = 0x0080C2000002 then
    c.updPtp p fun x => { x with
      askDelay := askOf x.askDelay (natAt b 54 1), askSync := askOf x.askSync (natAt b 55 1), askAnn := askOf x.askAnn (natAt b 56 1) }
  else c

/-- Whether a message comes from the parent of the port's instance; the twin link has one partner. -/
def Chip.fromParent (c : Chip) (p : Nat) (b : Bytes) : Bool :=
  let i := c.ptpInst p
  i == 4 || c.rd Reg.PTP_PARENT_PARENT_ID 0 i == natAt b 20 10

/-- The Follow_Up information TLV of a Sync or Follow_Up from the parent, kept for what the instance sends (R226). -/
def Chip.keepInfo (c : Chip) (p : Nat) (b : Bytes) : Chip :=
  if c.profile (c.ptpInst p) = 3 ∧ natAt b 44 2 = 3 ∧ natAt b 48 6 = 0x0080C2000001 then c.updPtp p fun x => { x with info := natAt b 54 22 } else c

/-- One accepted message: `b` from its header, `st` its receive stamp, `cont` the continuous time of it. -/
def Chip.ptpMsg (c : Chip) (p : Nat) (b : Bytes) (st cont : Int) : Chip :=
  let typ := natAt b 0 1 % 16
  let cor := signed 64 (natAt b 8 8)
  let seq := natAt b 30 2
  let two := bitOf (natAt b 6 1) 1
  let state := c.rd Reg.PTP_PORT_STATUS_PORT_STATE p
  let slave := state = 8 ∨ state = 9
  let x := c.ptpPort p
  let frac : Int := st % 65536
  match typ with
  | 0 =>
    if !(slave && c.fromParent p b) then c
    else if two then c.updPtp p fun x => { x with sync := some { seq := seq, t2 := st, cs := cor, wait := true } }
    else (c.keepInfo p b).syncDone p { seq := seq, t1 := readTime b 34, t2 := st, cs := cor }
  | 8 => match x.sync with
    | some s => if slave ∧ c.fromParent p b ∧ s.wait ∧ s.seq = seq then (c.keepInfo p b).syncDone p { s with t1 := readTime b 34, cs := s.cs + cor } else c
    | none => c
  | 1 =>
    if state = 6 then c.sendMsg p 9 0 (cor - frac) seq 3 (c.logDelay p) (ptpTime st.toNat ++ bytesOfNat 10 (natAt b 20 10)) else c
  | 9 => if slave ∧ c.fromParent p b ∧ natAt b 44 10 = c.portId p ∧ x.dseq = some seq then c.delayDone p (readTime b 34) cor else c
  | 2 =>
    if c.on Reg.PTP_PORT_CFG_TWO_STEP p then
      (c.sendMsg p 3 0x200 (-frac) seq 5 (c.logDelay p) (ptpTime st.toNat ++ bytesOfNat 10 (natAt b 20 10))).sendMsg p 10 0 cor seq 5 (c.logDelay p)
        (bytesOfNat 10 0 ++ bytesOfNat 10 (natAt b 20 10))
    else c.sendMsg p 3 0 cor seq 5 (c.logDelay p) (bytesOfNat 10 0 ++ bytesOfNat 10 (natAt b 20 10)) cont
  | 3 =>
    if x.peer.state ≠ 1 ∨ x.peer.seq ≠ seq ∨ natAt b 44 10 ≠ c.portId p then c
    else if two then c.updPtp p fun x => { x with peer := { x.peer with state := 2, t2 := readTime b 34, t4 := st, cor := cor } }
    else c.peerDone p false 0 0 st cor
  | 10 =>
    if x.peer.state ≠ 2 ∨ x.peer.seq ≠ seq ∨ natAt b 44 10 ≠ c.portId p then c
    else c.peerDone p true x.peer.t2 (readTime b 34) x.peer.t4 (x.peer.cor + cor)
  | 11 => c.announceRx p b
  | 12 => c.signalRx p b
  | _ => c

/-- PTP_MSG_PROCESS: the firmware takes the first PTP message of a trap queue (R227, R228). -/
def Chip.ptpProcess (cls : Nat) (c : Chip) : Chip :=
  match c.trapFirst cls fun f => f.trapKey.ptp.isSome with
  | none => c
  | some (f, k) =>
    let c1 := c.dropTgt f.id k
    let key := f.trapKey
    let b := f.trapBody.drop key.ptpAt
    let typ := natAt b 0 1 % 16
    let p := f.port
    if p = 512 then c1
    else if c.ptpRole p = 0 then c1.hostCopy f cls
    else if !ptpKnown.contains typ ∨ natAt b 4 1 ≠ c.msgDomain p typ then c1.incSat Reg.PTP_PORT_STATUS_FOREIGN 1 p
    else if !c.instOn (c.ptpInst p) ∨ b.length < natAt b 2 2 ∨ natAt b 2 2 < 44 then c1
    else c1.ptpMsg p b f.stamp f.cont

end Sys2Proof.Machine
end

