-- ==== Sys2Proof/Machine/DrumLoad.lean ====
section
/-! DEFINITION. Program images (R271, R272, R281, R287) and the checks a configuration of Drumline meets (R253, R255, R266, R268 to R270,
R131). Instants of the checks count in 1/655,360 ns, costs in 0.1 ns. -/

namespace Sys2Proof.Machine

/-! ### Images -/

/-- The init records of an image (R271): `none` where one is not well formed or bytes are left over. -/
def readInits : Nat → Bytes → Option (List (Bool × Nat × Bytes))
  | 0, b => if b = [] then some [] else none
  | n + 1, b =>
    if b.length < 16 then none
    else
      let h := natOfBytesLE (b.take 16)
      let cyc := bitOf h 127
      let a := bitsOf h 64 32
      let len := bitsOf h 32 32
      let ok := bitsOf h 96 31 == 0 && bitsOf h 0 32 == 0 && a % 32 == 0 && len % 32 == 0 && decide (32 ≤ len) && decide (len ≤ 98304) &&
        decide (16 + len ≤ b.length) && (if cyc then decide (a + len ≤ 2 ^ 25) else decide (0x8000 ≤ a) && decide (a + len ≤ 0x20000))
      if ok then (readInits n (b.drop (16 + len))).map fun l => (cyc, a, (b.drop 16).take len) :: l else none

/-- An image read (R271, R272): magic, version, counts and CRC. -/
def readImage (b : Bytes) : Option Img :=
  let h := natOfBytesLE (b.take 16)
  let n := bitsOf h 80 16
  let body := b.drop 16
  if b.length < 16 ∨ bitsOf h 112 16 ≠ 0xD7E5 ∨ bitsOf h 104 8 ≠ 1 ∨ bitsOf h 96 8 ≠ 0 ∨ n = 0 ∨ 1024 < n ∨ 4096 < bitsOf h 64 16 ∨
      crc32 body ≠ bitsOf h 0 32 ∨ body.length < 16 * n then none
  else
    (readInits (bitsOf h 64 16) (body.drop (16 * n))).map fun l =>
      { descs := (List.range n).map fun i => natOfBytesLE (sliceBytes body (16 * i) 16), inits := l, id := bitsOf h 32 32 }

/-- Local memory as an image's init records leave it. -/
def initMem (m : Mem) (l : List (Bool × Nat × Bytes)) : Mem := l.foldl (fun m r => if r.1 then m else memWrite m r.2.1 r.2.2) m

/-- Bytes a descriptor reads, and bytes it writes: (cycle memory, first, one past the last). What a class S operation reads of its own state block is exempt
(R287). -/
def descReads (m : Mem) (w : Nat) : List (Bool × Nat × Nat) :=
  let d := descOf w
  let n := if d.typ.val = 3 then 64 else 32
  let at_ := fun (a n : Nat) => if isCyc a then (true, cycAddr a, cycAddr a + n) else (false, locAddr a, locAddr a + n)
  match descOp w with
  | 0x01 => [at_ d.addr n]
  | 0x10 => [at_ d.addr 64]
  | 0x11 => [at_ d.addr 32]
  | 0x51 => [at_ d.addr (16 + tmplLen m d.addr)]
  | 0x42 =>
    at_ d.aux 32 :: (List.range 8).filterMap fun i =>
      let a := memNat m (locAddr d.aux + 4 * i) 4
      if a = 0 then none else some (false, a, a + 32 + (memNat m a 4 + 1) * (if memNat m (a + 4) 4 = 0 then 8 else 16))
  | op => if paramSize op = 0 then [] else [at_ d.aux (paramSize op)]

def descWrites (w : Nat) : List (Bool × Nat × Nat) :=
  let d := descOf w
  let n := if d.typ.val = 3 then 64 else 32
  match descOp w with
  | 0x02 => if isCyc d.addr then [(true, cycAddr d.addr, cycAddr d.addr + n)] else [(false, locAddr d.addr, locAddr d.addr + n)]
  | 0x50 => [(false, locAddr d.addr, locAddr d.addr + fieldLen d)]
  | op => if stateSize op = 0 then [] else [(false, locAddr d.addr, locAddr d.addr + 2 * stateSize op)]

/-- Whether two ranges share a word. -/
def meet (x y : Bool × Nat × Nat) : Bool :=
  let u := if x.1 then 32 else 4
  x.1 == y.1 && decide (x.2.1 / u ≤ (y.2.2 - 1) / u) && decide (y.2.1 / u ≤ (x.2.2 - 1) / u)

/-- Descriptors with their index. -/
def numbered (l : List Nat) : List (Nat × Nat) := (List.range l.length).zip l

/-- The first descriptor of an image that R281 rejects; `save` tells which GATHERs are save points. -/
def badDesc (save : Nat → Bool) (l : List Nat) : Option Nat :=
  let step := fun (a : Option Nat × Nat) (x : Nat × Nat) =>
    match a.1 with
    | some _ => a
    | none =>
      let op := descOp x.2
      let d := descOf x.2
      let n := if op = 0x11 ∨ (op = 0x10 ∧ save d.addr) then a.2 + 1 else a.2
      if (descFault op d).isSome ∨ (op = 0x60 ∧ l.length ≤ x.1 + 1 + d.imm) ∨ 16 < n then (some x.1, n) else (none, n)
  ((numbered l).foldl step (none, 0)).1

/-- The first hazard of R287: both descriptors. -/
def hazard (save : Nat → Bool) (m : Mem) (l : List Nat) : Option (Nat × Nat) :=
  let ns := numbered l
  match ns.find? fun x => descOp x.2 == 0x11 || (descOp x.2 == 0x10 && save (descOf x.2).addr) with
  | none => none
  | some (first, _) =>
    (ns.drop first).findSome? fun x =>
      let rs := descReads m x.2
      if rs = [] then none
      else ((ns.drop (x.1 + 1)).find? fun y => (descWrites y.2).any fun w => rs.any fun r => meet r w).map fun y => (x.1, y.1)

/-- A committed swap waits for its trigger. -/
def Chip.markSwap (c : Chip) (engines : Nat) : Chip :=
  (c.each (List.range 64) fun e c =>
    if bitOf engines e && (c.eng e).loaded then c.updEng e fun x => { x with swap := true } else c).showSwaps

/-! ### Costs (R268, R269, R289) -/

/-- The program of an engine as the configuration leaves it, and its local memory at the start of that program. -/
def Chip.planDescs (c : Chip) (e : Nat) : List Nat := if (c.eng e).swap then (c.eng e).next.descs else (c.eng e).prog.descs
def Chip.planMem (c : Chip) (e : Nat) : Mem := if (c.eng e).swap then initMem (c.eng e).mem (c.eng e).next.inits else (c.eng e).mem

/-- The engines a plan counts. -/
def Chip.planEngines (c : Chip) : List Nat :=
  ((c.touched Reg.ENG_CFG_EN).map fun x => x.1 - 256).filter fun e => c.planDescs e != []

/-- Steps of an operation, in 0.1 ns. -/
def opSteps (m : Mem) (w : Nat) : Nat :=
  let d := descOf w
  let p := d.typ.val = 3
  10 * (match descOp w with
  | 0x12 => 3
  | 0x13 => 2
  | 0x14 => 4 + 150
  | 0x22 => 2
  | 0x23 => 2
  | 0x24 => if d.typ.val = 1 then 10 else 8
  | 0x29 => if p then 4 else 2
  | 0x2B => if p ∨ d.flags.val = 3 then 3 else 2
  | 0x2C => 8
  | 0x31 => 1
  | 0x40 => 24
  | 0x41 => 16
  | 0x42 =>
    let cubic := (List.range 8).any fun i =>
      let a := memNat m (locAddr d.aux + 4 * i) 4
      a != 0 && memNat m (a + 4) 4 != 0
    if cubic then 28 else 14
  | 0x43 => 24
  | 0x44 => if d.typ.val = 1 then 10 else 12
  | 0x45 => 18
  | 0x50 => 2
  | 0x51 => 2 + ceilDiv (tmplLen m d.addr) 32
  | 0x52 => 2
  | 0x53 => 2
  | 0x54 => 2
  | op => if p ∧ (op = 0x01 ∨ op = 0x02 ∨ op = 0x20 ∨ op = 0x21 ∨ op = 0x25 ∨ op = 0x26 ∨ op = 0x27 ∨ op = 0x28 ∨ op = 0x2A ∨ op = 0x30) then 2 else 1)

/-- The cycle-memory words an operation transfers. -/
def opWords (w : Nat) : List Nat :=
  let d := descOf w
  let a := cycAddr d.addr
  match descOp w with
  | 0x01 => if !isCyc d.addr then [] else if d.typ.val = 3 then [a, a + 32] else [a]
  | 0x02 => storeWords w
  | 0x10 => [a]
  | 0x11 => [a]
  | _ => []

def bankOf (a : Nat) : Nat := a / 2 ^ 19 % 64

/-- Requesters of banks: (bank, octet tap as 64 + octet, or engine). -/
def Chip.bankUsers (c : Chip) : List (Nat × Nat) :=
  let taps := (List.range 4).flatMap fun d => (c.frameInputs d).map fun i => (bankOf (c.rd Reg.GATHER_LIST_ADDR d i * 64), 64 + c.rd Reg.GATHER_LIST_PORT d i / 8)
  let engs := c.planEngines.flatMap fun e => (c.planDescs e).flatMap fun w => (opWords w).map fun a => (bankOf a, e)
  (taps ++ engs).eraseDups

/-- d_b in 0.1 ns (R268). -/
def Chip.bankCost (c : Chip) (users : List (Nat × Nat)) (b : Nat) : Nat :=
  16 * (c.rd Reg.ARB_CFG_WAIT_LIMIT 0 (64 + b) + ((users.filter fun u => u.1 == b).length + 1) + 2)

/-- Sequence stores of a plan: (domain, word, engine, descriptor). -/
def Chip.seqStores (c : Chip) : List (Nat × Nat × Nat × Nat) :=
  c.planEngines.flatMap fun e => (numbered (c.planDescs e)).flatMap fun x =>
    if bitOf x.2 88 then (storeWords x.2).map fun a => (c.rd Reg.ENG_CFG_DOMAIN (256 + e), a, e, x.1) else []

/-- The producer an engine's WAITSEQ descriptor waits for, other than itself. -/
def producerIn (l : List (Nat × Nat × Nat × Nat)) (d e w : Nat) : Option (Nat × Nat) :=
  if descOp w ≠ 0x11 then none
  else
    let a := cycAddr (descOf w).addr
    ((l.find? fun s => s.1 == d && s.2.1 == a).map fun s => s.2.2).filter fun s => s.1 != e

/-- What a plan rests on: requesters of banks, sequence stores. -/
structure PlanBase where
  users : List (Nat × Nat)
  seqs : List (Nat × Nat × Nat × Nat)

def Chip.planBase (c : Chip) : PlanBase := { users := c.bankUsers, seqs := c.seqStores }

/-- The cost of the init records of a swap, in 0.1 ns (R269). -/
def Chip.initCost (c : Chip) (b : PlanBase) (e : Nat) : Nat :=
  if !(c.eng e).swap then 0
  else ((c.eng e).next.inits.map fun r =>
    if r.1 then ((List.range (r.2.2.length / 32)).map fun j => c.bankCost b.users (bankOf (r.2.1 + 32 * j))).sum else r.2.2.length / 32 * 10).sum

/-- The completion time of an engine's program, in a list of the times of its descriptors. -/
def endTime (l : List (Nat × List (Option Nat))) (e : Nat) : Option Nat := (l.find? fun x => x.1 == e).bind fun x => x.2.getLast?.join

/-- Completion times of the descriptors of one engine: from T_k (`rerun` false) or from the deadline, where nothing counts before the
first GATHER of a frame input. A sequence wait is charged at the completion of its producer, whose times are in `done`. -/
def Chip.engTimes (c : Chip) (b : PlanBase) (rerun : Bool) (done : List (Nat × List (Option Nat))) (e : Nat) : List (Option Nat) :=
  let d := c.rd Reg.ENG_CFG_DOMAIN (256 + e)
  let m := c.planMem e
  let step := fun (a : Option Nat × List (Option Nat)) (w : Nat) =>
    let src0 := descOp w == 0x10 && (match c.entryAt d (cycAddr (descOf w).addr) with | some i => c.rd Reg.GATHER_LIST_SRC d i == 0 | none => false)
    let t1 := if rerun && src0 && a.1.isNone then some 0 else a.1
    let t2 := match producerIn b.seqs d e w with
      | none => t1
      | some (f, _) =>
        match endTime done f, t1 with
        | none, t => t
        | some r, none => some r
        | some r, some t => some (max r t)
    let t3 := t2.map fun t => t + opSteps m w + ((opWords w).map fun a => c.bankCost b.users (bankOf a)).sum
    (t3, a.2 ++ [t3])
  ((c.planDescs e).foldl step ((if rerun then none else some (1000 + c.initCost b e)), [])).2

/-- Times of all engines, in an order in which each comes after those it waits for; a circle of waits leaves some out (R270). -/
def Chip.allTimes (c : Chip) (b : PlanBase) (rerun : Bool) : Nat → List (Nat × List (Option Nat)) → List (Nat × List (Option Nat))
  | 0, done => done
  | k + 1, done =>
    let ready := c.planEngines.filter fun e =>
      !(done.any fun x => x.1 == e) &&
      (c.planDescs e).all fun w => match producerIn b.seqs (c.rd Reg.ENG_CFG_DOMAIN (256 + e)) e w with
        | none => true
        | some (f, _) => done.any fun x => x.1 == f
    if ready = [] then done else Chip.allTimes c b rerun k (done ++ ready.map fun e => (e, c.engTimes b rerun done e))

/-- The last time of a list. -/
def lastTime (l : List (Nat × List (Option Nat))) (e : Nat) : Nat := (endTime l e).getD 0

/-- C_prog and C_re of an engine's active or loaded program (R269), 0.1 ns; 0 where there is none. -/
def Chip.progCost (c : Chip) (e : Nat) (standby : Bool) : Nat × Nat :=
  let x := c.eng e
  let img := if standby then x.next else x.prog
  if img.descs = [] ∨ (standby ∧ !x.loaded) then (0, 0)
  else
    let c1 := (c.updEng e fun x => { x with prog := img, swap := false, mem := if standby then initMem x.mem img.inits else x.mem }).flag
      Reg.ENG_CFG_EN true (256 + e)
    let b := c1.planBase
    (lastTime (c1.allTimes b false 64 []) e - 1000, lastTime (c1.allTimes b true 64 []) e)

/-! ### The checks (R270) -/

abbrev Failing := Option (Status × List Tlv)

def engObj (e : Nat) : Nat := objId Cls.CYC (256 + e) 1
def domObj (d : Nat) : Nat := objId Cls.CYC d 1

/-- Writers of cycle-memory words: (word, writer, its object and element) (R253, R347). -/
def Chip.wordClaims (c : Chip) : List (Nat × Nat × Nat × Nat) :=
  ((List.range 4).flatMap fun d => (c.inputsOf d).flatMap fun i =>
    let a := c.rd Reg.GATHER_LIST_ADDR d i * 64
    [a, a + 32].map fun a => (a, 64 + inputUnit d i, objId Cls.CYC d 0x10, i)) ++
  (c.planEngines.flatMap fun e => (numbered (c.planDescs e)).flatMap fun x => (storeWords x.2).map fun a => (a, e, engObj e, x.1)) ++
  (if c.on Reg.CKPT_CFG_GAP_EN then [(c.rd Reg.CKPT_CFG_GAP_ADDR * 32, 10000, objId Cls.TWIN 0 3, 0xFFFFFFFF)] else [])

/-- The words with two writers: the word and both claims. -/
def sharedWords : List (Nat × Nat × Nat × Nat) → List (Nat × (Nat × Nat) × (Nat × Nat))
  | [] => []
  | x :: l =>
    match l.find? fun y => y.1 == x.1 && y.2.1 != x.2.1 with
    | some y => (x.1, x.2.2, y.2.2) :: sharedWords l
    | none => sharedWords l

/-- A word with two writers (R253): both are named, and the first shared word. DESIGN CHOICE (log entry 201): by its address, in an INDEX. -/
def twoWriters (claims : List (Nat × Nat × Nat × Nat)) : Failing :=
  let l := sharedWords claims
  match l.find? fun x => l.all fun y => decide (x.1 ≤ y.1) with
  | some (a, x, y) => some (.resourceConflict, [tlvClaimant x.1 x.2, tlvClaimant y.1 y.2, tlvIndex a])
  | none => none

/-- What each descriptor needs of its domain: inputs, producers, templates, owners and rights (R270, R292, R293, R309). -/
def Chip.descFail (c : Chip) (b : PlanBase) (e : Nat) (x : Nat × Nat) : Failing :=
  let d := c.rd Reg.ENG_CFG_DOMAIN (256 + e)
  let f := descOf x.2
  let bad : Failing := some (.badParam, [tlvDesc x.1, tlvFailObj (engObj e)])
  match descOp x.2 with
  | 0x10 =>
    match c.entryAt d (cycAddr f.addr) with
    | none => bad
    | some i =>
      if c.rd Reg.GATHER_LIST_SRC d i ≠ 1 then none
      else
        let n := c.rd Reg.GATHER_LIST_PORT d i
        if c.rd Reg.EVI_CFG_OWNER n = 1 ∧ c.rd Reg.EVI_CFG_OWNER_ID n = e then none
        else some (.resourceConflict, [tlvClaimant (objId Cls.EVT n 1) 0xFFFFFFFF, tlvClaimant (engObj e) x.1])
  | 0x11 => if b.seqs.any fun s => s.1 == d && s.2.1 == cycAddr f.addr then none else bad
  | 0x14 => if bitOf (c.rd Reg.CNT_RIGHTS (256 + e)) (f.imm % 128) then none else some (.noAccess, [tlvFailObj (engObj e)])
  | 0x51 =>
    let m := c.planMem e
    let a := locAddr f.addr
    let p := memNat m a 2
    let len := memNat m (a + 6) 2
    if 511 < p ∨ 7 < memNat m (a + 2) 1 ∨ 3 < memNat m (a + 3) 1 ∨ len < 60 ∨ c.maxFrame p < len + 4 ∨ 0x20000 < a + 16 + len then bad else none
  | 0x52 =>
    if c.rd Reg.EVO_CFG_OWNER (32 + f.imm) = 2 ∧ c.rd Reg.EVO_CFG_OWNER_ID (32 + f.imm) = e then none
    else some (.resourceConflict, [tlvClaimant (objId Cls.EVT (32 + f.imm) 0x31) 0xFFFFFFFF, tlvClaimant (engObj e) x.1])
  | 0x53 =>
    if c.rd Reg.SYN_OWNER_OWNER f.imm = 1 ∧ c.rd Reg.SYN_OWNER_OWNER_ID f.imm = e then none
    else some (.resourceConflict, [tlvClaimant (objId Cls.SYN f.imm 0x0C) 0xFFFFFFFF, tlvClaimant (engObj e) x.1])
  | _ => none

/-- A cycle-memory init record of a swapping engine writes only words of the engine or of its domain's entries (R271). -/
def Chip.initFail (c : Chip) (claims : List (Nat × Nat × Nat × Nat)) (e : Nat) : Failing :=
  if !(c.eng e).swap then none
  else
    let d := c.rd Reg.ENG_CFG_DOMAIN (256 + e)
    let own := fun (a : Nat) => claims.any fun x => x.1 == a && (x.2.1 == e || (decide (64 ≤ x.2.1) && (x.2.1 - 64) / 1024 == d))
    if (c.eng e).next.inits.all fun r => !r.1 || (List.range (r.2.2.length / 32)).all fun j => own (r.2.1 + 32 * j) then none
    else some (.badParam, [tlvFailObj (engObj e)])

/-- A scatter frame of a plan: engine, port, class, frame length with FCS, launch offset in ns (none: untimed), enqueue time. -/
structure PlanFrame where
  eng : Nat
  port : Nat
  cls : Nat
  len : Nat
  off : Option Nat
  enq : Nat

/-- The scatter frames of a domain with T_enq of R266, in 0.1 ns after T_k. -/
def Chip.planFrames (c : Chip) (d fMax : Nat) : List PlanFrame :=
  let wl := (List.range 64).foldl (fun a x => max a (c.rd Reg.ARB_CFG_WAIT_LIMIT 0 x)) 0
  let wBuf := (wl + 137) * 16
  let raw := (c.planEngines.filter fun e => c.rd Reg.ENG_CFG_DOMAIN (256 + e) == d).flatMap fun e =>
    let m := c.planMem e
    ((c.planDescs e).filter fun w => descOp w == 0x51).map fun w =>
      let a := locAddr (descOf w).addr
      ({ eng := e, port := memNat m a 2, cls := memNat m (a + 2) 1, len := memNat m (a + 6) 2 + 4,
         off := if memNat m (a + 3) 1 % 2 = 1 then some (descOf w).aux else none, enq := 0 } : PlanFrame)
  let step := fun (a : List PlanFrame × SMap Nat) (f : PlanFrame) =>
    let n := SMap.get a.2 (f.eng / 8) + cellsOf f.len
    (a.1 ++ [{ f with enq := fMax + 1200 + (n - 1) * wBuf }], SMap.set a.2 (f.eng / 8) n)
  (raw.foldl step ([], [])).1

/-- MAXTX (R122): the largest MAX_FRAME of all enabled ports and MGT. -/
def Chip.maxTx (c : Chip) : Nat := (512 :: c.activePorts).foldl (fun a p => max a (c.maxFrame p)) 0

/-- T_wake of R68 in 0.01 ns. DESIGN CHOICE (log entry 189): an LPI port adds 0 until its partner's wake time is known. -/
def Chip.wakeTerm (c : Chip) (p : Nat) : Nat :=
  (if c.on Reg.PORT_CFG_EIDLE_EN p then (if c.rd Reg.PORT_CFG_MODE p = 3 ∨ c.rd Reg.PORT_CFG_MODE p = 5 then 100480 else 100096) else 0) +
  (if c.on Reg.PORT_CFG_LPI_EN p then (c.portSt p).peerWake * 100000 else 0)

/-- Whether preemption is active and every class of a port without timed frames is preemptable (R131). -/
def Chip.allPreempt (c : Chip) (l : List PlanFrame) (p : Nat) : Bool :=
  c.on Reg.SCHED_STAT_PREEMPT_ACTIVE p &&
  (List.range 8).all fun k => !bitOf (c.rd Reg.SCHED_CFG_EXPRESS p) k || l.any fun f => f.port == p && f.cls == k && f.off.isSome

/-- The wire and wake part of R131 for a port, in 1/6,553,600 ns. -/
def Chip.portTerm (c : Chip) (l : List PlanFrame) (p : Nat) : Nat :=
  (if c.allPreempt l p then c.fragTime p else c.wireTime p (c.maxTx + 20)) * 100 + c.wakeTerm p * 65536

/-- A shortfall in ns, rounded up, from 1/6,553,600 ns. -/
def shortNs (need have_ : Nat) : Tlv := tlvShortfall 0 (ceilDiv (need - have_) 6553600)

/-- The greatest of a list of shortfalls, the first of equal ones (R36): a failure with its objects. -/
def worstShort : List (Nat × List Tlv) → Option (Nat × List Tlv)
  | [] => none
  | x :: l => match worstShort l with
    | some y => some (if x.1 < y.1 then y else x)
    | none => some x

/-- A refusal for a shortfall in 1/6,553,600 ns, rounded up to ns. -/
def shortFail (l : List (Nat × List Tlv)) : Failing := (worstShort l).map fun x => (.resourceConflict, x.2 ++ [shortNs x.1 0])

/-- The objects a refused path names. -/
def pathObjs (d p : Nat) : List Tlv := [tlvFailObj (domObj d), tlvFailObj (objId Cls.PORT p 1)]

/-- The path check of R131 over the timed frames of all domains. Ahead of a frame in its queue stand those of its own domain enqueued before it by
T_enq, whatever their section, and all of the other domains (log entry 169). -/
def Chip.timedFail (c : Chip) (all : List (Nat × PlanFrame)) : List (Nat × List Tlv) :=
  let timed := (all.filter fun x => x.2.off.isSome).zipIdx
  timed.filterMap fun (x, n) =>
    let k := (timed.filter fun (y, m) => queueOf y.2.port y.2.cls == queueOf x.2.port x.2.cls &&
      (y.1 != x.1 || decide (y.2.enq < x.2.enq) || (y.2.enq == x.2.enq && decide (m < n)))).length
    let need := x.2.enq * 655360 + (260 + 24 * k) * 6553600 + c.portTerm (all.map Prod.snd) x.2.port
    let have_ := x.2.off.getD 0 * 6553600
    if have_ < need then some (need - have_, pathObjs x.1 x.2.port) else none

/-- The distance from one launch to the next of another frame of the port, over all cycles of both domains: the least that the grids of their
boundaries allow (R131), in 1/6,553,600 ns. -/
def Chip.launchGap (c : Chip) (x y : Nat × PlanFrame) : Nat :=
  let at_ := fun (z : Nat × PlanFrame) => timeOf96 (c.rd Reg.CD_START z.1) * 100 + z.2.off.getD 0 * 6553600
  let g := Nat.gcd (c.rd Reg.CD_CFG_PERIOD x.1) (c.rd Reg.CD_CFG_PERIOD y.1) * 6553600
  (((at_ y : Int) - at_ x) % (max 1 g : Nat)).toNat

/-- The spacing of the timed frames of each port, and the frames it holds at once: at most 16 (R131; log entry 169). -/
def Chip.pairFail (c : Chip) (all : List (Nat × PlanFrame)) : List (Nat × List Tlv) :=
  let timed := all.filter fun x => x.2.off.isSome
  let near := timed.zipIdx.flatMap fun (x, n) => timed.zipIdx.filterMap fun (y, m) =>
    let p := x.2.port
    let need := c.wireTime p (x.2.len + 20) * 100 + largestGap (c.rd Reg.PORT_CFG_MODE p) (c.rd Reg.PORT_CFG_FEC p) * 65536
    let gap := if n = m then c.rd Reg.CD_CFG_PERIOD x.1 * 6553600 else c.launchGap x y
    if y.2.port = p ∧ gap < need then some (need - gap, pathObjs x.1 p) else none
  let full := (timed.map fun x => x.2.port).eraseDups.filterMap fun p =>
    let fs := timed.filter fun x => x.2.port == p
    let held := (fs.map fun x => max 1 (ceilDiv (x.2.off.getD 0) (max 1 (c.rd Reg.CD_CFG_PERIOD x.1)))).sum
    let first := fs.foldl (fun a x => min a (x.2.off.getD 0 * 6553600)) ((fs.head?.bind fun x => x.2.off).getD 0 * 6553600)
    let last := fs.foldl (fun a x => max a (x.2.enq * 655360)) 0
    if 16 < held then some (max 6553600 (first - last), pathObjs ((fs.head?.map Prod.fst).getD 0) p) else none
  near ++ full

/-- Costs and times of all programs (R268, R269): from T_k and from the deadline. -/
structure Plan where
  base : PlanBase
  prog : List (Nat × List (Option Nat))
  rerun : List (Nat × List (Option Nat))

def Chip.plan (c : Chip) : Plan :=
  let b := c.planBase
  { base := b, prog := c.allTimes b false 64 [], rerun := c.allTimes b true 64 [] }

/-- The engines of a domain that a plan counts. -/
def Chip.domEngines (c : Chip) (d : Nat) : List Nat := c.planEngines.filter fun e => c.rd Reg.ENG_CFG_DOMAIN (256 + e) == d

/-- F_max of a domain in 0.1 ns after T_k (R269). -/
def Chip.fMax (c : Chip) (t0 t1 : List (Nat × List (Option Nat))) (d : Nat) : Nat :=
  (c.domEngines d).foldl (fun a e => max a (max (lastTime t0 e) (c.rd Reg.CD_CFG_D_IN d * 10 + lastTime t1 e))) 0

/-- Lane 0 of a register pair before a descriptor where the image fixes it: by a MOVI, or by a LOAD of local memory that no descriptor writes, run in
every cycle. -/
def pairConst (m : Mem) (l : List Nat) (j r : Nat) : Option Nat :=
  let ahead := (numbered l).take j
  let touches := fun (x : Nat × Nat) => let t := (descOf x.2).dst.val; (opForm (descOp x.2)).any OpForm.dst && decide (t ≤ r + 1) && decide (r ≤ t + 7)
  match ahead.reverse.find? touches with
  | none => none
  | some (i, w) =>
    let d := descOf w
    let a := locAddr d.addr
    if d.pred ≠ 0 ∨ d.pneg ∨ d.typ ≠ 3 ∨ d.dst.val ≠ r ∨ ahead.any (fun x => descOp x.2 == 0x60 && decide (x.1 < i) && decide (i ≤ x.1 + (descOf x.2).imm)) then none
    else if descOp w = 0x03 then some (d.addr * 2 ^ 32 + d.aux)
    else if descOp w = 0x01 ∧ !isCyc d.addr ∧ !l.any (fun y => (descWrites y).any fun x => meet x (false, a, a + 8)) then
      some (natOfBytesLE (memRead m a 8))
    else none

/-- The event-output requests of a domain whose edge comes too soon after F_max (R270); an offset that the program computes is tested where it is requested
(R201; log entry 66). -/
def Chip.edgeFail (c : Chip) (d f : Nat) : List (Nat × List Tlv) :=
  (c.domEngines d).flatMap fun e => (numbered (c.planDescs e)).filterMap fun x =>
    if descOp x.2 ≠ 0x52 then none
    else (pairConst (c.planMem e) (c.planDescs e) x.1 (descOf x.2).a).bind fun v =>
      let adj : Int := (divRoundS (signed 64 v) (2 ^ 22) * 64 - c.outLag (descOf x.2).imm) * 100
      let need : Int := ((f + 1400) * 655360 : Nat)
      if adj < need then some ((need - adj).toNat, [tlvFailObj (domObj d)]) else none

/-- Boundary, event-output and target checks of one domain; the greatest shortfall is told. -/
def Chip.domainFail (c : Chip) (pl : Plan) (d : Nat) : Failing :=
  let f := c.fMax pl.prog pl.rerun d
  let per := c.rd Reg.CD_CFG_PERIOD d * 10
  let obj := [tlvFailObj (domObj d)]
  let late := (c.planFrames d f).filterMap fun x => if per < x.enq then some ((x.enq - per) * 655360, obj) else none
  let target := (c.domEngines d).flatMap fun e =>
    (c.planDescs e).filterMap fun w =>
      if descOp w = 0x53 ∧ (descOf w).addr * 10 < f + 1200 then some ((f + 1200 - (descOf w).addr * 10) * 655360, obj) else none
  shortFail late <|> shortFail (c.edgeFail d f) <|> shortFail target

/-- The scatter frames of all domains. -/
def Chip.allFrames (c : Chip) (pl : Plan) : List (Nat × PlanFrame) :=
  (List.range 4).flatMap fun d => (c.planFrames d (c.fMax pl.prog pl.rerun d)).map fun x => (d, x)

/-- The paths of the timed frames of all domains (R131). -/
def Chip.pathFail (c : Chip) (pl : Plan) (on : Nat → Bool) : Failing :=
  let all := c.allFrames pl
  if !all.any fun x => x.2.off.isSome && on x.1 then none
  else
    let mine := fun (x : Nat × List Tlv) => all.any fun y => on y.1 && x.2 == pathObjs y.1 y.2.port
    shortFail ((c.timedFail all).filter mine) <|> shortFail ((c.pairFail all).filter mine)

/-- Scatter cells that all domains can hold at once (R270, R107). -/
def Chip.scatterNeed (c : Chip) : Nat :=
  ((List.range 4).map fun d =>
    let fs := c.planFrames d 0
    let most := fs.foldl (fun a f => max a (f.off.getD 0)) 0
    (fs.map fun f => cellsOf f.len).sum * (1 + ceilDiv most (max 1 (c.rd Reg.CD_CFG_PERIOD d)))).sum

/-- The deadline check, the ranges of gather entries (R270, and PORT of GATHER_LIST). -/
def Chip.gatherFail (c : Chip) (d : Nat) : Failing :=
  if c.rd Reg.CD_CFG_D_IN d = 0 ∨ c.rd Reg.CD_CFG_PERIOD d ≤ c.rd Reg.CD_CFG_D_IN d then some (.badParam, [tlvFailObj (domObj d)])
  else (c.inputsOf d).findSome? fun i =>
    let p := c.rd Reg.GATHER_LIST_PORT d i
    let ok := match c.rd Reg.GATHER_LIST_SRC d i with
      | 0 => decide (p < 512)
      | 1 => decide (p < 32)
      | _ => decide (1 ≤ p ∧ p ≤ 4)
    if ok then none else some (.badParam, [tlvFailObj (objId Cls.CYC d 0x10)])

/-- The checks of R270 on a configuration, for the domains that a change affects. -/
def Chip.drumFail (c : Chip) (pl : Plan) (on : Nat → Bool) : Failing :=
  let claims := c.wordClaims
  let ds := (List.range 4).filter on
  let es := ds.flatMap c.domEngines
  if ds = [] then none
  else
    (ds.findSome? c.gatherFail) <|> twoWriters claims <|>
    (es.findSome? fun e => (c.initFail claims e) <|> (numbered (c.planDescs e)).findSome? (c.descFail pl.base e)) <|>
    (es.findSome? fun e => if pl.prog.any fun x => x.1 == e then none else some (.resourceConflict, [tlvFailObj (engObj e)])) <|>
    (ds.findSome? fun d => c.domainFail pl d) <|> c.pathFail pl on <|>
    (if c.rd Reg.POOL_CFG_SCATTER_RSV < c.scatterNeed then
      some (.resourceConflict, [tlvFailObj (objId Cls.DEV 0 0x38), tlvShortfall 1 (c.scatterNeed - c.rd Reg.POOL_CFG_SCATTER_RSV)])
    else none)

/-- The figures that the checks of a domain use (R270). -/
def Chip.figures (c : Chip) (pl : Plan) (d : Nat) : List Nat :=
  let f := c.fMax pl.prog pl.rerun d
  let all := (c.allFrames pl).map Prod.snd
  let owners := fun (w : Nat) => match descOp w with
    | 0x14 => []
    | 0x52 => [c.rd Reg.EVO_CFG_OWNER (32 + (descOf w).imm), c.rd Reg.EVO_CFG_OWNER_ID (32 + (descOf w).imm), encS 64 (c.outLag (descOf w).imm)]
    | 0x53 => [c.rd Reg.SYN_OWNER_OWNER (descOf w).imm, c.rd Reg.SYN_OWNER_OWNER_ID (descOf w).imm]
    | _ => []
  [c.rd Reg.CD_CFG_PERIOD d, c.rd Reg.CD_CFG_D_IN d, c.rd Reg.CD_START d, f, c.rd Reg.POOL_CFG_SCATTER_RSV, c.rd Reg.CKPT_CFG_GAP_EN, c.rd Reg.CKPT_CFG_GAP_ADDR] ++
  ((c.planFrames d f).flatMap fun x =>
    [x.eng, x.port, x.cls, x.len, x.off.getD 0, b2n x.off.isSome, x.enq, c.portTerm all x.port, c.maxFrame x.port, c.wireTime x.port (x.len + 20),
      largestGap (c.rd Reg.PORT_CFG_MODE x.port) (c.rd Reg.PORT_CFG_FEC x.port)]) ++
  ((c.domEngines d).flatMap fun e => e :: c.rd Reg.CNT_RIGHTS (256 + e) :: (c.planDescs e ++ (c.planDescs e).flatMap owners)) ++
  ((c.inputsOf d).flatMap fun i =>
    let p := c.rd Reg.GATHER_LIST_PORT d i
    [i, c.rd Reg.GATHER_LIST_SRC d i, p, c.rd Reg.GATHER_LIST_ADDR d i, c.rd Reg.EVI_CFG_OWNER p, c.rd Reg.EVI_CFG_OWNER_ID p])

/-- Whether a change affects a domain: it changes one of its figures, or those of a domain whose timed frames leave through one of its ports. -/
def affected (before after : Chip) (old new : Plan) (d : Nat) : Bool :=
  let own := fun (d : Nat) => before.figures old d != after.figures new d
  let timed := (after.allFrames new).filter fun x => x.2.off.isSome
  own d || timed.any fun x => x.1 == d && timed.any fun y => y.2.port == x.2.port && own y.1

/-- R255: PERIOD or CD_START of an armed or running domain changes only at a commit point that is a boundary of the old and the new
values; `p` is that instant for AT_TIME and AT_CYCLE, none for NOW. -/
def Chip.gridFail (before after : Chip) (p : Option Nat) : Failing :=
  (List.range 4).findSome? fun d =>
    let on := fun (c : Chip) (t : Nat) => ((t : Int) - c.cdStart d) % max 1 (c.cdPeriod d) == 0
    if !before.domainLive d ∨ (before.cdStart d = after.cdStart d ∧ before.cdPeriod d = after.cdPeriod d) then none
    else match p with
      | some t => if on before t && on after t then none else some (.badParam, [tlvFailObj (domObj d)])
      | none => some (.badParam, [tlvFailObj (domObj d)])

/-- What a change of Drumline's configuration fails on: the checks of R270, for every domain it affects. -/
def Chip.drumChange (before after : Chip) (p : Option Nat) : Failing :=
  let new := after.plan
  (before.gridFail after p) <|> after.drumFail new (affected before after before.plan new)

end Sys2Proof.Machine
end

