-- ==== Sys2Proof/Machine/Speed.lean ====
section
/-! DEFINITION. The Barometer cells and the arbiters (R38 to R50, 02_self_timed_core.md). A request present at an arbitration phase is
a pair (class, requester index); the clock-free duration of phases is not modelled. -/

namespace Sys2Proof.Machine

/-! ### Barometer -/

/-- The cell with the lowest margin, the lower number on a tie (R42). -/
def worstCell (l : List Int) : Nat :=
  ((l.zipIdx.foldl (fun (b : Option (Int × Nat)) x => match b with
    | none => some x
    | some y => if x.1 < y.1 then some x else some y) none).map Prod.snd).getD 0

/-- The samples' effect (R38 to R42): the margins of cells 0 to 31 are taken and compared with the thresholds in force. -/
def Chip.baroTake (margins : List Int) (c : Chip) : Chip :=
  let l := (margins ++ List.replicate 32 0).take 32
  let c0 := c.each l.zipIdx fun (m, n) c =>
    let m := satS 16 m
    let low := signed 16 (c.rd Reg.BARO_MIN 0 n)
    (c.wrS Reg.BARO_MARGIN m 0 n).wrS Reg.BARO_MIN (min low m) 0 n
  let c1 := c0.wr Reg.BARO_STATUS_WORST_CELL (worstCell l)
  let slow := l.any fun m => decide (m < 0)
  let clear := l.all fun m => decide ((c.rd Reg.BARO_CFG_CLEAR_HYST : Int) ≤ m)
  let warn := l.any fun m => decide (m < c.rdS Reg.BARO_CFG_WARN_THRESHOLD)
  let n := if clear then min 100 (c.baroClear + 1) else 0
  let c2 := { c1 with baroClear := n }
  let c3 := if slow then c2.flag Reg.BARO_STATUS_CORE_SLOW true else c2
  let c4 :=
    if slow && !c.on Reg.BARO_STATUS_CORE_SLOW_NOW then
      (c3.flag Reg.BARO_STATUS_CORE_SLOW_NOW true).notify Nt.CORE_SLOW Cls.DEV 0 0x23 none
    else if c.on Reg.BARO_STATUS_CORE_SLOW_NOW && n == 100 then c3.flag Reg.BARO_STATUS_CORE_SLOW_NOW false
    else c3
  let c5 := if warn then c4.flag Reg.BARO_STATUS_MARGIN_WARN true else c4
  let c6 := if warn && !c.baroLow then c5.notify Nt.MARGIN_WARN Cls.DEV 0 0x23 none else c5
  { c6 with baroLow := warn }

/-- The margin of a cell (R38): count ÷ worst-corner count − 1 in 0.01 %, to the nearest (log entry 163). -/
def baroMargin (count ref : Nat) : Int := divRoundS (((count : Int) - ref) * 10000) (max 1 ref)

/-- BARO_SAMPLE (R38): the cells' counts, taken at an instant of the sample grid; the interval in force runs from that instant to the next. -/
def Chip.baroSample (counts : List Nat) (c : Chip) : Chip :=
  if c.now < c.baroAt then c
  else { (c.baroTake (counts.zipWith baroMargin c.cal.baroRef)) with baroAt := c.baroAt + unitsUs (c.rd Reg.BARO_CFG_SAMPLE_US) }

/-! ### Arbiters -/

/-- The requester classes of an arbiter (R43): class, its first requester index and how many requesters serve it. The 64 octet readers of
a buffer bank serve classes 1 and 2. The indexes run on from class to class in the table's order, the Lull test last (DESIGN CHOICE,
log entry 170: the table numbers no requester). -/
def arbClasses (a : Nat) : List (Nat × Nat × Nat) :=
  if a < 64 then [(1, 0, 64), (2, 0, 64), (3, 64, 64), (4, 128, 8), (5, 136, 1), (6, 137, 1)]
  else if a < 128 then [(1, 0, 64), (2, 64, 64), (3, 128, 1), (4, 129, 1)]
  else if a = 139 then [(1, 0, 8), (2, 8, 8), (3, 16, 1), (4, 17, 1), (5, 18, 1)]
  else [(1, 0, 8), (2, 8, 1), (3, 9, 1), (4, 10, 1)]

/-- The requester exists at the arbiter and serves the class (R43). -/
def arbMay (a : Nat) (r : Nat × Nat) : Bool := (arbClasses a).any fun k => k.1 == r.1 && decide (k.2.1 ≤ r.2 ∧ r.2 < k.2.1 + k.2.2)

/-- M of an arbiter (R43): the requesters other than the Lull test that can request it. -/
def arbM (a : Nat) : Nat := ((arbClasses a).getLastD default).2.1

/-- The class of the Lull test at an arbiter (R43). -/
def lullClass (a : Nat) : Nat := if a < 64 then 6 else if a < 128 then 4 else if a = 139 then 5 else 4

/-- FROZEN, INTERNAL and DRAINED brought up to date (R47, R50). -/
def Chip.arbStatus (c : Chip) (a : Nat) : Chip :=
  let x := SMap.get c.arbs a
  let f := c.arbFrozen a
  ((c.flag Reg.ARB_STATUS_FROZEN f 0 a).flag Reg.ARB_STATUS_INTERNAL (decide (0 < x.internal)) 0 a).flag Reg.ARB_STATUS_DRAINED
    (f && !x.busy && x.granted.isNone) 0 a

/-- An arbiter's inner state rewritten. -/
def Chip.updArb (c : Chip) (a : Nat) (f : Arb → Arb) : Chip := { c with arbs := SMap.upd c.arbs a f }

/-- An internal freeze source becomes active or ends (R47). -/
def Chip.freezeInternal (c : Chip) (a : Nat) (b : Bool) : Chip :=
  (c.updArb a fun x => { x with internal := if b then x.internal + 1 else x.internal - 1 }).arbStatus a

/-- FREEZE of an arbiter written from one value to another (R47, R49). -/
def Chip.arbFreezeHook (old c : Chip) (a : Nat) : Chip :=
  let c1 := if c.on Reg.ARB_CFG_FREEZE 0 a && !old.on Reg.ARB_CFG_FREEZE 0 a then
    c.updArb a fun x => { x with frozenAt := c.now } else c
  c1.arbStatus a

/-- Insertion of a requester by index. -/
def insertNat (n : Nat) : List Nat → List Nat
  | [] => [n]
  | x :: l => if n < x then n :: x :: l else x :: insertNat n l

/-- The next of a class in round robin after the last winner (R45): smallest index above it, else smallest. -/
def roundRobin (last : Nat) (l : List Nat) : Option Nat :=
  let s := l.foldl (fun a n => insertNat n a) []
  match s.find? (fun n => decide (last ≤ n)) with
  | some n => some n
  | none => s.head?

/-- The winner of an arbitration phase (R45), its class, and whether it won at its limit. `order` lists the requesters at the
limit. -/
def arbWinner (a : Nat) (x : Arb) (order : List Nat) (reqs : List (Nat × Nat)) : Option (Nat × Nat × Bool) :=
  let real := reqs.filter fun r => r.1 != lullClass a
  match order.find? (fun n => real.any fun r => r.2 == n) with
  | some n => some (((real.find? fun r => r.2 == n).map Prod.fst).getD 0, n, true)
  | none =>
    match (List.range 8).find? (fun k => real.any fun r => r.1 == k) with
    | some k => (roundRobin (SMap.get x.lastWin k) ((real.filter fun r => r.1 == k).map Prod.snd)).map fun n => (k, n, false)
    | none => (reqs.head?).map fun r => (r.1, r.2, false)

/-- A data phase starts for the granted owner (R44, R50). -/
def Chip.arbStart (c : Chip) (a owner : Nat) : Chip :=
  (c.updArb a fun x => { x with busy := true, granted := none }).wr Reg.ARB_STATUS_OWNER owner 0 a

/-- Requesters at the limit, in the order in which they reached it (R45): those known, then those a lowered limit has brought there. -/
def Arb.order (x : Arb) (lim : Nat) (real : List Nat) : List Nat :=
  let kept := x.atLimit.filter fun n => decide (lim ≤ SMap.get x.waits n)
  kept ++ (real.filter fun n => decide (lim ≤ SMap.get x.waits n) && !kept.contains n).foldl (fun l n => insertNat n l) []

/-- The wait counters after a phase that the requesters l have lost (R46). -/
def lostWaits (lim : Nat) (w : SMap Nat) (l : List Nat) : SMap Nat := l.foldl (fun w m => SMap.set w m (min lim (SMap.get w m + 1))) w

/-- What an arbitration phase leaves (R45, R46): the winner of class k granted, its counter 0, the counters of the losers one up. -/
def Arb.won (x : Arb) (a lim k n : Nat) (order losers : List Nat) : Arb :=
  let waits := lostWaits lim x.waits losers
  { x with
    waits := (if k = lullClass a then waits else SMap.set waits n 0)
    atLimit := order.filter (fun m => m != n) ++
      (losers.filter fun m => decide (lim ≤ SMap.get waits m) && !order.contains m).foldl (fun l m => insertNat m l) []
    lastWin := SMap.set x.lastWin k (n + 1)
    granted := some n }

/-- ARB_PHASE (R45, R46): no phase starts while the arbiter is frozen or a grant already waits. Only the arbiter's own requesters take
part, each in a class it serves (R43). -/
def Chip.arbPhase (a : Nat) (reqs : List (Nat × Nat)) (c : Chip) : Chip :=
  let x := SMap.get c.arbs a
  let reqs := reqs.filter (arbMay a)
  if c.arbFrozen a || x.granted.isSome then c
  else
    let lim := c.rd Reg.ARB_CFG_WAIT_LIMIT 0 a
    let real := (reqs.filter fun r => r.1 != lullClass a).map Prod.snd
    let order := x.order lim real
    match arbWinner a x order reqs with
    | none => c
    | some (k, n, forced) =>
      let losers := real.filter fun m => m != n
      let y := x.won a lim k n order losers
      let top := losers.foldl (fun t m => max t (SMap.get y.waits m)) 0
      let c1 := ((c.updArb a fun _ => y).peak Reg.ARB_STATUS_MAX_WAIT top 0 a).count Ev.ARB_GRANT a
      let c2 := if forced then c1.count Ev.ARB_FORCED a else c1
      if x.busy then c2 else (c2.arbStart a n).arbStatus a

/-- ARB_DATA_PHASE_END (R44, R47): a granted phase follows, also under a freeze; otherwise the resource rests. -/
def Chip.arbDataEnd (a : Nat) (c : Chip) : Chip :=
  let x := SMap.get c.arbs a
  if !x.busy then c
  else match x.granted with
    | some n => c.arbStart a n
    | none => (c.updArb a fun x => { x with busy := false }).arbStatus a

/-- ARB_WD_EXPIRED (R49): FREEZE has stood for FREEZE_WD µs. -/
def Chip.arbWd (a : Nat) (c : Chip) : Chip :=
  let wd := c.rd Reg.ARB_CFG_FREEZE_WD 0 a
  if c.on Reg.ARB_CFG_FREEZE 0 a && wd != 0 && decide ((SMap.get c.arbs a).frozenAt + unitsUs wd ≤ c.now) then
    (((c.flag Reg.ARB_CFG_FREEZE false 0 a).flag Reg.ARB_STATUS_WD_EXPIRED true 0 a).arbStatus a).notify Nt.ARB_WD_EXPIRED
      Cls.DEV 0 0x29 none
  else c

end Sys2Proof.Machine
end

