-- ==== Sys2Proof/Machine/TableWrite.lean ====
section
/-! DEFINITION. What writes the tables beside a direct command: the prepare, flip and clean-up of a transaction (R136, R137), segment
locks (R152, R153), learning (R155 to R158), ageing (R159), recovery history (R150) and barriers (R160). -/

namespace Sys2Proof.Machine

/-! ### What a DMA write stores (R154) -/

/-- Bytes of one item of a transfer. -/
def dmaSize (t : Nat) (stamps : Bool) : Nat := if stamps then 2 else tblEntryBytes t

/-- Entries of a DMA transfer from its DATA: in network order inline, least significant byte first in a host buffer (R154). -/
def dmaEntries (host size n : Nat) (data : Bytes) : List Nat :=
  (List.range n).map fun k =>
    let b := sliceBytes data (k * size) size
    if host = 0 then natOfBytes b else natOfBytesLE b

/-- The items of a transfer with their indices. -/
def dmaItems (t host first n : Nat) (stamps : Bool) (data : Bytes) : List (Nat × Nat) :=
  (dmaEntries host (dmaSize t stamps) n data).zipIdx.map fun (e, k) => (first + k, e)

/-- One entry of a DMA write stored as sent. DESIGN CHOICE (log entry 196): a written index of tables 5 and 6 takes the present stamp, as after TBL_INSERT. -/
def Chip.dmaPut (c : Chip) (t i e : Nat) : Chip :=
  match t with
  | 0 => c.emWrite i e
  | 1 => c.setEnt 1 0 i e
  | _ => if t ≤ 4 then (c.setEnt t 0 i e).entryHook t i e else c.putEntry t i e

/-- A DMA write carried out. -/
def Chip.dmaWrite (c : Chip) (t : Nat) (stamps : Bool) (items : List (Nat × Nat)) : Chip :=
  c.each items fun x c =>
    if stamps then { c with tbl := { c.tbl with stamps := SMap.set c.tbl.stamps (entKey t 0 x.1) x.2 } } else c.dmaPut t x.1 x.2

/-- Whether the prefixes of the table keep their order, stand in whole pairs and are named once (R144, R145, R154). -/
def Chip.lpmSound (c : Chip) : Bool :=
  let all := (c.entries 1 0).filter fun x => visOf 1 x.2 != 0
  let down := fun (l : List (Nat × Nat)) => (l.zip (l.drop 1)).all fun p => decide (p.2.2 ≤ p.1.2)
  let keys := (all.filter fun x => Lay.LPM_KIND.get x.2 != 2).map fun x => lpmKeyOf x.2 (c.ent 1 0 (x.1 + 1))
  down (c.lpmList 0) && down (c.lpmList 1) && keys.eraseDups.length == keys.length &&
  all.all fun x =>
    let k := Lay.LPM_KIND.get x.2
    let mate := fun (j want : Nat) =>
      let e := c.ent 1 0 j
      visOf 1 e == visOf 1 x.2 && Lay.LPM_KIND.get e == want && Lay.LPM_PLEN.get e == Lay.LPM_PLEN.get x.2
    k == 0 || (k == 1 && mate (x.1 + 1) 2) || (k == 2 && decide (0 < x.1) && mate (x.1 - 1) 1)

/-- Whether the word of a free slot has valid fields (R4, R138, R150, R154): those that only VIS ≠ 0 binds apart. -/
def Chip.freeOk (c : Chip) (t i e : Nat) : Bool :=
  e == 0 ||
  match t with
  | 0 => if Lay.EM_TYPE.get e - 1 < 4 ∧ Lay.EM_TYPE.get e ≠ 0 then emOk e else bitsOf e 120 2 == 0
  | 4 => bitsOf e 0 86 == 0
  | _ => c.entryOk t i e

/-- The checks of R154 on the entries of a DMA write: fields, VIS 0b00 or 0b11, buckets, keys met twice, the order of prefixes. -/
def Chip.dmaSound (c : Chip) (t : Nat) (items : List (Nat × Nat)) : Bool :=
  let live := items.filter fun x => decide (5 ≤ t) || visOf t x.2 != 0
  let after := c.dmaWrite t false items
  (items.all fun x => if 5 ≤ t then c.entryOk t x.1 x.2 else if visOf t x.2 = 0 then c.freeOk t x.1 x.2 else c.entryOk t x.1 x.2 && visOf t x.2 == 3) &&
  (t != 0 || live.all fun x =>
    let bs := c.emBuckets (emKeyOf x.2)
    bs.contains (x.1 / 4) &&
      ((bs.eraseDups.flatMap emSlots).filter fun j =>
        let e := after.ent 0 0 j
        visOf 0 e != 0 && emKeyOf e == emKeyOf x.2).length == 1) &&
  (t != 1 || after.lpmSound)

/-! ### Table changes of a transaction (R136, R137) -/

/-- A key as TBL_LOOKUP and TBL_DELETE carry it, for tables 0 to 2: the index it finds and its last one (R402; log entry 22). -/
def Chip.keyIndex (c : Chip) (g t : Nat) (k : Bytes) : Option Nat :=
  match t with
  | 0 =>
    let v := natOfBytes k
    c.emLook g (bitsOf v 12 4, bitsOf v 16 48, bitsOf v 0 12)
  | 1 => (c.lpmLookup g (natAt k 0 1) (natAt k 1 (if natAt k 0 1 = 0 then 4 else 8))).map Prod.fst
  | 2 => (c.clsLookup g (natOfBytes k) (2 ^ 192 - 1)).map Prod.fst
  | _ => none

/-- Whether a KEY has the form of its table (R396). -/
def keyFormOk (t : Nat) (k : Bytes) : Bool :=
  match t with
  | 0 => k.length == 8 && decide (bitsOf (natOfBytes k) 12 4 ≤ 2)
  | 1 => (k.length == 5 && natAt k 0 1 == 0) || (k.length == 9 && natAt k 0 1 == 1)
  | 2 => k.length == 24
  | _ => false

/-- A prepare recorded; a later one of the same index takes its place. -/
def Chip.addPrep (c : Chip) (p : Prep) : Chip :=
  let same := fun (q : Prep) => q.txn == p.txn && q.tbl == p.tbl && q.index == p.index && !q.done
  { c with tbl := { c.tbl with preps := if c.tbl.preps.any same then c.tbl.preps.map fun q => if same q then p else q else c.tbl.preps ++ [p] } }

/-- VIS of the prepared entries: visible to the other generation only, and of the entries they replace. -/
def Chip.visNew (c : Chip) (t : Nat) : Nat := if c.gen t = 0 then 2 else 1
def Chip.visOld (c : Chip) (t : Nat) : Nat := if c.gen t = 0 then 1 else 2

/-- A slot of tables 0 and 1 written. -/
def Chip.putSlot (c : Chip) (t i e : Nat) : Chip := if t = 0 then c.emWrite i e else c.setEnt t 0 i e

/-- A slot of tables 0 and 1 hidden from the next generation: an ordinary entry keeps the present one, a prepared one is free again. -/
def Chip.hideSlot (c : Chip) (id t i : Nat) : Chip :=
  let e := c.ent t 0 i
  if visOf t e = 3 then (c.putSlot t i (setVis t e (c.visOld t))).addPrep { txn := id, tbl := t, index := i }
  else if visOf t e = c.visNew t then c.putSlot t i 0 else c

/-- A prefix hidden, a pair first entry first (R144). -/
def Chip.hidePrefix (c : Chip) (id i : Nat) : Chip :=
  let k := Lay.LPM_KIND.get (c.ent 1 0 i)
  if k = 0 then c.hideSlot id 1 i
  else
    let f := if k = 2 then i - 1 else i
    (c.hideSlot id 1 f).hideSlot id 1 (f + 1)

/-- A new slot of tables 0 and 1 for the next generation. -/
def Chip.newSlot (c : Chip) (id t i e : Nat) : Chip :=
  (c.putSlot t i (setVis t e (c.visNew t))).addPrep { txn := id, tbl := t, index := i, isNew := true }

/-- A new prefix for the next generation, a pair second entry first (R144). -/
def Chip.newPrefix (c : Chip) (id cls i first second : Nat) : Chip :=
  if cls = 0 then c.newSlot id 1 i first else (c.newSlot id 1 (i + 1) second).newSlot id 1 i first

/-- Prepared contents of an index of tables 2 to 6: `e` for the next generation, 0 for none. -/
def Chip.prepSlot (c : Chip) (id t i e : Nat) : Chip :=
  let c1 := c.addPrep { txn := id, tbl := t, index := i, isNew := e != 0 }
  if t ≤ 4 then
    let a := c1.ent t 0 i
    let c2 := if visOf t a = 3 then c1.setEnt t 0 i (setVis t a (c.visOld t)) else c1
    c2.setEnt t 1 i (if e = 0 then 0 else setVis t e (c.visNew t))
  else
    let g := c.gen t
    let s := SMap.get c1.tbl.sel (entKey t 0 i)
    let live := bitsOf s g 1
    { (c1.setEnt t (1 - live) i e) with
      tbl := { (c1.setEnt t (1 - live) i e).tbl with sel := SMap.set c1.tbl.sel (entKey t 0 i) (withBits s (1 - g) 1 (1 - live)) } }

/-- One staged insert prepared; the failure of R136 or R153 where there is one. -/
def Chip.prepInsert (c : Chip) (id t e idx : Nat) : Except Status Chip :=
  let n := 1 - c.gen t
  match t with
  | 0 =>
    let k := emKeyOf e
    if (c.emBuckets k).any fun b => c.locked 0 (b * 4) then .error .locked
    else
      let c1 := match c.emFind n k with | some i => c.hideSlot id 0 i | none => c
      match c1.emPlace k (c.rd Reg.EM_CTRL_MAX_KICKS 0) with
      | some (i, c2) => .ok (c2.newSlot id 0 i (c.stored 0 i e 3))
      | none => .error .tableFull
  | 1 =>
    let first := if e < 2 ^ 256 then e else e / 2 ^ 256
    let second := e % 2 ^ 256
    let cls := lpmClass first
    let c1 := match c.lpmFind n (lpmKeyOf first second) with
      | some i => c.hidePrefix id i
      | none => c
    match Chip.lpmOpen (fun _ => false) 66 c1 cls (Lay.LPM_PLEN.get first) with
    | .error true => .error .locked
    | .error false => .error .tableFull
    | .ok (i, c2) => .ok (c2.newPrefix id cls i (c.stored 1 i first 3) (c.stored 1 i second 3))
  | _ => if c.locked t idx then .error .locked else .ok (c.prepSlot id t idx (if e = 0 then 0 else c.stored t idx e 3))

/-- One staged delete prepared, of what the commands staged before it leave. An absent entry changes nothing (R402). -/
def Chip.prepDelete (c : Chip) (id t : Nat) (sel : TblSel) : Except Status Chip :=
  let n := 1 - c.gen t
  let at_ : Option Nat := match sel with
    | .index i => if c.entAt n t i = 0 then none else some i
    | .key k => c.keyIndex n t k
  match at_ with
  | none => .ok c
  | some i =>
    if c.locked t i then .error .locked
    else match t with
      | 0 => .ok (c.hideSlot id 0 i)
      | 1 => .ok (c.hidePrefix id i)
      | _ => .ok (c.prepSlot id t i 0)

/-- What the next generation sees at an index of tables 0 to 4, as an ordinary entry. -/
def Chip.entNext (c : Chip) (t i : Nat) : Nat :=
  let e := c.entAt (1 - c.gen t) t i
  if e = 0 then 0 else setVis t e 3

/-- A slot for an exact-match entry of a staged DMA write: the one named, another of its buckets, which may lie in the range of the
requester's own segment, or one freed by moves (R142, R153). -/
def Chip.emPlaceAt (c : Chip) (k : Nat × Nat × Nat) (i : Nat) (own : Nat → Bool) : Option (Nat × Chip) :=
  if c.emFree i then some (i, c)
  else match ((c.emBuckets k).flatMap emSlots).find? fun j => c.emFree j && (own j || !c.locked 0 j) with
    | some j => some (j, c)
    | none => c.emPlace k (c.rd Reg.EM_CTRL_MAX_KICKS 0)

/-- A place for a prefix of a staged DMA write: the one named where it is free and keeps the order, else one opened (R145). -/
def Chip.lpmPlaceAt (c : Chip) (cls plen i : Nat) (own : Nat → Bool) : Except Bool (Nat × Chip) :=
  let (low, _, b) := c.lpmBounds cls plen
  if low ≤ i ∧ i < b ∧ c.lpmFree cls i then .ok (i, c) else Chip.lpmOpen own 66 c cls plen

/-- New prefixes of a staged DMA write prepared one by one; `at_` gives the contents by index. -/
def Chip.prepPrefixes (id : Nat) (at_ : Nat → Nat) (own : Nat → Bool) : List Nat → Chip → Except Status Chip
  | [], c => .ok c
  | f :: l, c =>
    let cls := lpmClass (at_ f)
    match c.lpmPlaceAt cls (Lay.LPM_PLEN.get (at_ f)) f own with
    | .error true => .error .locked
    | .error false => .error .tableFull
    | .ok (i, c1) => prepPrefixes id at_ own l (c1.newPrefix id cls i (at_ f) (at_ (f + 1)))

/-- One staged DMA write prepared (R136, R154). In tables 0 and 1 each new or changed entry goes to a free slot, not always the one named
(DESIGN CHOICE, log entry 173). -/
def Chip.prepDma (c : Chip) (id t host first n : Nat) (stamps : Bool) (data : Bytes) (slot : Nat) : Except Status Chip :=
  if !((c.lock t (segOf t first)).state == 2 && (c.lock t (segOf t first)).slot == slot) then .error .locked
  else
    let items := fun (size : Nat) => (dmaEntries host size n data).zipIdx.map fun (e, k) => (first + k, e)
    if stamps then .ok (c.each (items 2) fun x c => c.addPrep { txn := id, tbl := t, index := x.1, stamp := some x.2 })
    else
      let l := (items (tblEntryBytes t)).map fun x => (x.1, if t ≤ 4 ∧ visOf t x.2 = 0 then 0 else x.2)
      let own := fun (i : Nat) => decide (first ≤ i ∧ i < first + n)
      let moved := l.filter fun x => c.entNext t x.1 != x.2
      match t with
      | 0 =>
        let c1 := c.each moved fun x c => c.hideSlot id 0 x.1
        let c2 := (moved.filter fun x => x.2 != 0).foldl (fun (c : Option Chip) x => c.bind fun c =>
          (c.emPlaceAt (emKeyOf x.2) x.1 own).map fun (i, c) => c.newSlot id 0 i x.2) (some c1)
        match c2 with
        | some c2 => .ok c2
        | none => .error .tableFull
      | 1 =>
        let at_ := fun (i : Nat) => match l.find? fun x => x.1 == i with | some x => x.2 | none => c.entNext 1 i
        let start := fun (e i : Nat) => if Lay.LPM_KIND.get e = 2 then i - 1 else i
        let news := ((moved.filter fun x => x.2 != 0).map fun x => start x.2 x.1).eraseDups
        let c1 := c.each moved fun x c => if c.entNext 1 x.1 = 0 then c else c.hidePrefix id x.1
        Chip.prepPrefixes id at_ own news c1
      | _ => .ok (c.each l fun x c => c.prepSlot id t x.1 x.2)

/-- A slot of tables 0 and 1 made ordinary where the present generation sees it, else freed: what is left after a flip, or without one. -/
def Chip.settleSlot (c : Chip) (t i : Nat) : Chip :=
  let e := c.ent t 0 i
  if visOf t e = c.visOld t then c.putSlot t i (setVis t e 3) else if visOf t e = c.visNew t then c.putSlot t i 0 else c

/-- Whether a key is touched by a transaction between prepare and clean-up (R136). -/
def Chip.keyTouched (c : Chip) (k : Nat × Nat × Nat) : Bool :=
  (c.tbl.preps.any fun p => p.tbl == 0) &&
  ((c.emBuckets k).flatMap emSlots).any fun i =>
    let e := c.ent 0 0 i
    (visOf 0 e == 1 || visOf 0 e == 2) && emKeyOf e == k

/-- Learning requests held back by a transaction go on ahead of the queue (R136, R156). -/
def Chip.freeHeld (c : Chip) : Chip :=
  let (stay, go) := c.tbl.learnHeld.partition fun r => c.keyTouched (0, r.sa, r.vid)
  { c with tbl := { c.tbl with learnHeld := stay, learnQ := go ++ c.tbl.learnQ } }

/-- The clean-up of a table's flipped changes (R136 phase 3). -/
def Chip.cleanTable (c : Chip) (t : Nat) (due : Prep → Bool) : Chip :=
  let (mine, rest) := c.tbl.preps.partition fun p => p.tbl == t && p.done && due p
  if mine = [] then c
  else
    let c1 := { c with tbl := { c.tbl with preps := rest } }
    if t ≤ 1 then (c1.each mine fun p c => c.settleSlot t p.index).freeHeld
    else
      c1.each mine fun p c =>
        if t ≤ 4 then
          let e := c.ent t 1 p.index
          (c.setEnt t 0 p.index (if e = 0 then 0 else setVis t e 3)).setEnt t 1 p.index 0
        else
          let live := bitsOf (SMap.get c.tbl.sel (entKey t 0 p.index)) (c.gen t) 1
          let c2 := c.setEnt t (1 - live) p.index (c.ent t live p.index)
          { c2 with tbl := { c2.tbl with sel := SMap.set c2.tbl.sel (entKey t 0 p.index) (3 * live) } }

/-- TBL_CLEANUP: from P + 200 ns (R136). -/
def Chip.tblCleanup (t : Nat) (c : Chip) : Chip := c.cleanTable t fun p => decide (p.flippedAt + unitsNs 200 ≤ c.now)

/-- The other generation's view of a prepared, not flipped, index exchanged: another transaction's flip leaves it prepared. -/
def Chip.swapPrep (c : Chip) (p : Prep) : Chip :=
  let swap := fun (t e : Nat) => match visOf t e with | 1 => setVis t e 2 | 2 => setVis t e 1 | _ => e
  if p.tbl ≤ 4 then
    (c.setEnt p.tbl 0 p.index (swap p.tbl (c.ent p.tbl 0 p.index))).setEnt p.tbl 1 p.index (swap p.tbl (c.ent p.tbl 1 p.index))
  else
    let k := entKey p.tbl 0 p.index
    let s := SMap.get c.tbl.sel k
    { c with tbl := { c.tbl with sel := SMap.set c.tbl.sel k (bitsOf s 0 1 * 2 + bitsOf s 1 1) } }

/-- The flip at P (R136 phase 2): G of each touched table inverts; written meters fill, written histories reset (R148, R150), and the stamps of
tables 5 and 6 are those staged, or of a written entry the present one (R137). What an earlier flip has left is cleaned up first. -/
def Chip.flipTables (c : Chip) (id : Nat) : Chip :=
  c.each (List.range 7) fun t c =>
    let mine := c.tbl.preps.filter fun p => p.txn == id && p.tbl == t && !p.done
    if mine = [] then c
    else
      let c := c.cleanTable t fun _ => true
      let others := c.tbl.preps.filter fun p => p.txn != id && p.tbl == t && !p.done
      let c1 := c.each others fun p c => c.swapPrep p
      let c2 := c1.wr Reg.TBL_GEN_G (1 - c.gen t) t
      let c3 := { c2 with tbl := { c2.tbl with preps := c2.tbl.preps.map fun (p : Prep) =>
        if p.txn = id ∧ p.tbl = t then { p with done := true, flippedAt := c.now } else p } }
      c3.each mine fun p c =>
        if 3 ≤ t ∧ t ≤ 4 then c.entryHook t p.index (c.entNow t p.index)
        else if 5 ≤ t then
          match p.stamp with
          | some v => { c with tbl := { c.tbl with stamps := SMap.set c.tbl.stamps (entKey t 0 p.index) v } }
          | none => if p.isNew then { c with tbl := { c.tbl with stamps := SMap.set c.tbl.stamps (entKey t 0 p.index) c.stampNow } } else c
        else c

/-- The tables as they are once a transaction's prepared changes have flipped and are cleaned up. -/
def Chip.flipped (c : Chip) (id : Nat) : Chip := (c.flipTables id).each (List.range 7) fun t c => c.cleanTable t fun _ => true

/-- The staged table changes of a transaction prepared in staging order; a DMA write is checked again against what those before it leave (R154). -/
def Chip.prepAll (id slot : Nat) : List Instr → Chip → Except Status Chip
  | [], c => .ok c
  | i :: l, c =>
    let r := match i with
      | .tblInsert _ t e idx => c.prepInsert id t e (idx.getD 0)
      | .tblDelete _ t s => c.prepDelete id t s
      | .tblDma _ t host first n true st data =>
        if st || (c.flipped id).dmaSound t (dmaItems t host first n st (data.getD [])) then c.prepDma id t host first n st (data.getD []) slot
        else .error .badParam
      | _ => .ok c
    match r with
    | .error s => .error s
    | .ok c1 => prepAll id slot l c1

/-- The prepare undone (R136, R386): new entries free, old ones ordinary. -/
def Chip.undoPrepare (c : Chip) (id : Nat) : Chip :=
  let (mine, rest) := c.tbl.preps.partition fun p => p.txn == id && !p.done
  if mine = [] then c
  else
    let c1 := { c with tbl := { c.tbl with preps := rest } }
    (c1.each mine fun p c =>
      let t := p.tbl
      if t ≤ 1 then c.settleSlot t p.index
      else if t ≤ 4 then
        let a := c.ent t 0 p.index
        (c.setEnt t 1 p.index 0).setEnt t 0 p.index (if visOf t a = c.visOld t then setVis t a 3 else a)
      else
        let k := entKey t 0 p.index
        let s := SMap.get c.tbl.sel k
        let live := bitsOf s (c.gen t) 1
        let c3 := c.setEnt t (1 - live) p.index (c.ent t live p.index)
        { c3 with tbl := { c3.tbl with sel := SMap.set c3.tbl.sel k (3 * live) } }).freeHeld

/-! ### Learning (R155 to R158) -/

/-- The number of the current window of V (R158). -/
def Chip.windowNow (c : Chip) : Nat := c.now / unitsS 1

/-- Fields of a TYPE 1 or 2 result (R138). -/
def emGrp : Bf := { lo := 59, width := 1 }
def emDest : Bf := { lo := 45, width := 14 }
def emMoveCnt : Bf := { lo := 21, width := 4 }
def emMoveWin : Bf := { lo := 19, width := 2 }

/-- Where a request says its station is: GRP and DEST. -/
def LearnReq.where_ (r : LearnReq) : Nat × Nat := (b2n r.grp, r.dest)

/-- A new TYPE 1 entry for a request, or LEARN_FULL; learning makes at most one move (R142, R156). -/
def Chip.learnInsert (c : Chip) (r : LearnReq) : Chip :=
  let e := Lay.EM_VIS.put 3 + Lay.EM_TYPE.put 1 + Lay.EM_MAC.put r.sa + Lay.EM_VID.put r.vid + emGrp.put (b2n r.grp) + emDest.put r.dest +
    Lay.EM_LAST_HIT.put c.stampNow
  match c.emPlace (0, r.sa, r.vid) 1 with
  | some (i, c1) => (c1.emWrite i e).count Ev.LEARN_NEW
  | none => c.count Ev.LEARN_FULL

/-- A move (R158). -/
def Chip.learnMove (c : Chip) (r : LearnReq) (i : Nat) : Chip :=
  let e0 := c.ent 0 0 i
  let w := c.windowNow % 4
  let e := if emMoveWin.get e0 = w then e0 else emMoveWin.set (emMoveCnt.set e0 0) w
  let n := emMoveCnt.get e
  if Lay.EM_FROZEN.get e = 0 ∧ n < c.rd Reg.EM_CTRL_MOVE_LIMIT 0 then
    (c.emWrite i (emMoveCnt.set (emGrp.set (emDest.set e r.dest) (b2n r.grp)) (n + 1))).count Ev.LEARN_MOVE
  else if Lay.EM_FROZEN.get e = 0 then
    ((c.emWrite i (Lay.EM_FROZEN.set e 1)).flag Reg.EM_STATUS_STATION_FLAP true 0).notify Nt.STATION_FLAP Cls.TBL 0 0x13
  else (c.emWrite i e).count Ev.LEARN_MOVE_FROZEN

/-- One request applied to its entry (R156, R157). -/
def Chip.learnApply (c : Chip) (r : LearnReq) : Chip :=
  match c.emFind (c.gen 0) (0, r.sa, r.vid) with
  | none => c.learnInsert r
  | some i =>
    let e := c.ent 0 0 i
    let same := emGrp.get e == r.where_.1 && emDest.get e == r.where_.2
    if same then (if Lay.EM_LAST_HIT.get e = c.stampNow then c else c.emWrite i (Lay.EM_LAST_HIT.set e c.stampNow))
    else if Lay.EM_TYPE.get e = 1 then c.learnMove r i
    else c.count Ev.SA_STATIC_MISMATCH

/-- Whether either candidate bucket of a request lies in a locked segment (R153). -/
def Chip.learnLocked (c : Chip) (r : LearnReq) : Bool := (c.emBuckets (0, r.sa, r.vid)).any fun b => c.locked 0 (b * 4)

/-- Whether a request waits for a frozen arbiter (R47): of its buckets, or of the whole table where it needs a move. -/
def Chip.learnFrozen (c : Chip) (r : LearnReq) : Bool :=
  let bs := c.emBuckets (0, r.sa, r.vid)
  (bs.any fun b => c.arbFrozen (tblArb 0 (b * 4))) ||
    ((bs.findSome? c.emFreeSlot).isNone && (c.emFind (c.gen 0) (0, r.sa, r.vid)).isNone && (tblArbs 0).any c.arbFrozen)

/-- LEARN_REQUEST_APPLY: the oldest request is applied, held back by a transaction, or parked under a lock (R136, R153, R156); under a freeze it
waits (R47). -/
def Chip.learnStep (c : Chip) : Chip :=
  match c.tbl.learnQ with
  | [] => c
  | r :: l =>
    let c1 := { c with tbl := { c.tbl with learnQ := l } }
    if c.keyTouched (0, r.sa, r.vid) then { c1 with tbl := { c1.tbl with learnHeld := c1.tbl.learnHeld ++ [r] } }
    else if c.learnLocked r then
      if 1024 ≤ c.tbl.learnParked.length then c1.count Ev.LEARN_OVF
      else { c1 with tbl := { c1.tbl with learnParked := c1.tbl.learnParked ++ [r] } }
    else if c.learnFrozen r then c
    else c1.learnApply r

/-- Requests confirmed before a host's write of table 0, or before a prepare that touches it, are applied before it (R156). -/
def Chip.learnFirst (c : Chip) (t : Nat) : Chip := if t = 0 then c.each c.tbl.learnQ fun _ c => c.learnStep else c

/-! ### What a transaction starts from -/

/-- Whether a staged command changes entries of table 0. -/
def changesExact : Instr → Bool
  | .tblInsert _ t _ _ => t == 0
  | .tblDelete _ t _ => t == 0
  | .tblDma _ t _ _ _ w _ _ => t == 0 && w
  | _ => false

/-- The tables as a prepare finds them: flips before it cleaned up, learning requests before it applied (R136, R156). -/
def Chip.prepBase (c : Chip) (l : List Instr) : Chip :=
  let c1 := c.each (List.range 7) fun t c => c.cleanTable t fun _ => true
  if l.any changesExact then c1.learnFirst 0 else c1

/-- The prepare of a transaction (R136 phase 1). -/
def Chip.prepareTables (c : Chip) (id : Nat) (l : List Instr) : Chip :=
  let slot := match c.txns.find? (fun t => t.id == id) with | some t => t.req.slot | none => 0
  match Chip.prepAll id slot l (c.prepBase l) with
  | .ok c1 => c1
  | .error _ => c

/-! ### Segment locks (R152, R153) -/

/-- The lock of a segment rewritten. -/
def Chip.setLock (c : Chip) (t s : Nat) (l : SegLock) : Chip :=
  { c with tbl := { c.tbl with locks := SMap.set c.tbl.locks (lockKey t s) l } }

/-- A lock asked for: the table's arbiters freeze internally until the segment has drained (R47, R152). -/
def Chip.lockStart (c : Chip) (t s slot : Nat) : Chip :=
  if (c.lock t s).state ≠ 0 then c
  else (c.setLock t s { state := 1, slot := slot, since := c.now }).each (tblArbs t) fun a c => c.freezeInternal a true

/-- TBL_LOCK_DRAINED: the bit reads 1 and the freeze is lifted. -/
def Chip.lockDrained (t s : Nat) (c : Chip) : Chip :=
  if (c.lock t s).state ≠ 1 then c
  else (c.setLock t s { (c.lock t s) with state := 2, since := c.now }).each (tblArbs t) fun a c => c.freezeInternal a false

/-- Drains that have run for 10 µs end: an internal freeze holds no longer (R47). -/
def Chip.drainLimit (c : Chip) : Chip :=
  c.each (c.tbl.locks.filter fun x => x.2.state == 1 && decide (x.2.since + unitsUs 10 ≤ c.now)) fun x c => c.lockDrained (x.1 / 64) (x.1 % 64)

/-- Parked requests whose buckets are no longer locked, applied in order ahead of the others (R153), as far as no transaction touches their key and no
freeze holds them (R47, R136). -/
def Chip.applyParkedLearning (c : Chip) : Chip :=
  let (stay, go) := c.tbl.learnParked.partition c.learnLocked
  { c with tbl := { c.tbl with learnParked := stay, learnQ := go ++ c.tbl.learnQ } }.each go fun _ c => c.learnStep

/-- A lock that ends; one still draining lifts its freeze too. -/
def Chip.lockEnd (c : Chip) (t s : Nat) : Chip :=
  match (c.lock t s).state with
  | 0 => c
  | 1 => ((c.setLock t s default).each (tblArbs t) fun a c => c.freezeInternal a false).applyParkedLearning
  | _ => (c.setLock t s default).applyParkedLearning

/-- LOCK_EXPIRED: the lock has been held for LOCK_MS (R152). -/
def Chip.lockExpired (t s : Nat) (c : Chip) : Chip :=
  let l := c.lock t s
  if l.state = 2 ∧ l.since + unitsMs (c.rd Reg.LOCK_MS t) ≤ c.now then (c.lockEnd t s).notify Nt.LOCK_EXPIRED Cls.TBL t 0x02 else c

/-- TBL_LOCK as it reads. -/
def Chip.lockBits (c : Chip) (t : Nat) : Nat :=
  (List.range 64).foldl (fun v s => if (c.lock t s).state = 2 then setBit v s else v) 0

/-! ### Ageing and recovery history -/

/-- AGE_VISIT: one bucket's aged TYPE 1 entries are invalidated (R159); a locked segment is skipped (R153), a frozen arbiter makes the visit
wait (R47). -/
def Chip.ageVisit (b : Nat) (c : Chip) : Chip :=
  if !c.on Reg.EM_CTRL_AGE_EN 0 || c.locked 0 (b * 4) || c.arbFrozen (tblArb 0 (b * 4)) then c
  else c.each (emSlots b) fun i c =>
    let e := c.ent 0 0 i
    let age := (c.stampNow + 65536 - Lay.EM_LAST_HIT.get e) % 65536
    if visOf 0 e = 3 ∧ Lay.EM_TYPE.get e = 1 ∧ c.rd Reg.EM_CTRL_AGE_TIME 0 ≤ age then (c.emWrite i 0).count Ev.AGE_DEL else c

/-- SEQ_HISTORY_RESET: no frame has passed for RESET_MS (R150). -/
def Chip.seqReset (i : Nat) (c : Chip) : Chip :=
  let r := SMap.get c.tbl.rcov i
  if r.live ∧ r.lastAt + unitsMs (Lay.SEQR_RESET_MS.get (c.entNow 4 i)) ≤ c.now then
    ({ c with tbl := { c.tbl with rcov := SMap.set c.tbl.rcov i { r with live := false, seq := 0, hist := 0 } } }).count Ev.SEQ_RESET i
  else c

end Sys2Proof.Machine
end

