-- ==== Sys2Proof/Machine/Hooks.lean ====
section
/-! DEFINITION. What lies behind attributes: values computed when they are read, FIFOs read through them (R195, R197), the narrower rules of
a write (R152, R179, R360, R373, R455), and the images a capture copies (R439, R440). -/

namespace Sys2Proof.Machine

/-! ### Reads -/

/-- CKPT_LAG (R339): the age in ms of the oldest data not yet applied. -/
def Chip.ckptLag (c : Chip) : Nat :=
  if c.standby ∧ c.twin.part ≠ [] then satU 16 ((c.now - c.twin.partAt) / unitsMs 1) else 0

/-- T_FENCE in units of 10 ps: it is given in units of 100 µs (R343). -/
def Chip.fenceWait (c : Chip) : Nat := unitsUs (100 * c.rd Reg.TWIN_CFG_T_FENCE)

/-- HB_OK (R343): a heartbeat has been accepted within T_FENCE. -/
def Chip.hbOk (c : Chip) : Bool := match c.twin.hbAt with | some t => decide (c.now ≤ t + c.fenceWait) | none => false

/-- The keep-alive time now in counts of 1/32,768 s (R423). -/
def Chip.kaNow (c : Chip) : Nat :=
  c.rd Reg.KA_TIME_KA_SEC * 32768 + c.rd Reg.KA_TIME_KA_TICK + (c.now - c.pwr.kaAt) * 32768 / unitsS 1

/-- An engine's index from its CYC instance. -/
def engOf (i : Nat) : Nat := i - 256

/-- Fields whose value is computed from other state, by class, attribute and lowest bit. -/
def Chip.derivedField (c : Chip) (F : Fld) (i _e : Nat) : Option Nat :=
  if F = Reg.POOL_USED then some c.poolUsed
  else if F = Reg.SHARED_SIZE then some c.sharedSize
  else if F = Reg.SHARED_USED then some (c.srcShown .shared)
  else if F = Reg.Q_DEPTH_DEPTH then some (c.depthShown i)
  else if F = Reg.IN_STAT_HEADROOM_USED then some (c.srcShown (.headroom i))
  else if F = Reg.TBL_USED then some (c.tblUsed i)
  else if F = Reg.TBL_LOCK then some (c.lockBits i)
  else if F = Reg.TBL_GEN_PENDING then some (b2n (c.tbl.preps.any fun p => p.tbl == i))
  else if F = Reg.EM_STATUS_FROZEN_COUNT then
    some ((c.visible (c.gen 0) 0).filter fun x => Lay.EM_FROZEN.get x.2 == 1).length
  else if F = Reg.SHP_STAT_ELIGIBLE then some (b2n (c.shpEligible i))
  else if F = Reg.SHP_STAT_BACKLOG then some (b2n (c.shpBacklog i))
  else if F = Reg.SHP_STAT_AHEAD then some (c.shpAhead i)
  else if F = Reg.TB_INCR then some c.tbIncr
  else if F = Reg.SYN_FREQ then some (encS F.width (c.synFreq i))
  else if F = Reg.ENC_POS then
    let g := (c.dpll i).gen
    some (encS F.width (encPos (if c.rd Reg.SYN_OWNER_OWNER i = 1 then { g with x := g.latched } else g)))
  else if F = Reg.REF_STATUS_QSTATE then some (c.qstate i)
  else if F = Reg.REF_STATUS_WTR_LEFT then some (c.wtrLeft i)
  else if F = Reg.HO_STATUS_HO_ELAPSED_F then some (c.hoElapsed 0)
  else if F = Reg.HO_STATUS_HO_ELAPSED_T then some (c.hoElapsed 1)
  else if F = Reg.PROG_INFO_C_PROG then some (c.progCost (engOf i) false).1
  else if F = Reg.PROG_INFO_C_RE then some (c.progCost (engOf i) false).2
  else if F = Reg.PROG_STANDBY_C_PROG then some (c.progCost (engOf i) true).1
  else if F = Reg.PROG_STANDBY_C_RE then some (c.progCost (engOf i) true).2
  else if F = Reg.TWIN_STATUS_HB_OK then some (b2n c.hbOk)
  else if F = Reg.TWIN_STATUS_CKPT_LAG then some c.ckptLag
  else if F = Reg.KA_TIME_KA_SEC then some (c.kaNow / 32768 % 2 ^ 48)
  else if F = Reg.KA_TIME_KA_TICK then some (c.kaNow % 32768)
  else none

/-- A FIFO read through an attribute: its records, and the block without them (R195, R197). -/
def Chip.specialRead (c : Chip) (cls attr i _n : Nat) : Option (List Nat × Chip) :=
  if cls = Cls.EVT ∧ attr = 0x03 then some (c.eviRead i)
  else if cls = Cls.EVT ∧ attr = 0x12 then some (c.ivlRead i)
  else none

/-! ### Writes outside the common form -/

/-- Attributes a write acts through and that store nothing: HPI_OFFSET, EVO_REQ, SYN_VREQ, OPT_RAW. -/
def actsOnly (cls attr : Nat) : Bool :=
  (cls == Cls.TIME && attr == 0x0B) || (cls == Cls.EVT && attr == 0x33) || (cls == Cls.SYN && attr == 0x10) || (cls == Cls.PORT && attr == 0x09)

/-- The narrower rules of a write (R152, R179, R373): a lock bit that another slot holds, MPD under the firmware servo, the role and the
reserved bytes of a DB_CMD element. -/
def Chip.writeRefused (c : Chip) (r : Req) (cls attr i e v m : Nat) : Failing :=
  if cls = Cls.TBL ∧ attr = 0x02 then
    if (List.range 64).any fun s => bitOf m s && (c.lock i s).state != 0 && (c.lock i s).slot != r.slot then some (.locked, []) else none
  else if cls = Cls.PORT ∧ attr = 0x52 then
    if bitsOf m Reg.LINK_DELAY_MPD.lo Reg.LINK_DELAY_MPD.width ≠ 0 ∧ c.rd Reg.SERVO_CTRL_SERVO_MODE = 0 then
      some (.resourceConflict, [tlvClaimant (objId Cls.TIME 0 4) 0xFFFFFFFF, tlvClaimant (objId Cls.PORT i 0x52) 0xFFFFFFFF])
    else none
  else if cls = Cls.MBX ∧ attr = 0x10 then
    let w := (c.rd Reg.DB_CMD i e - (c.rd Reg.DB_CMD i e &&& m)) + (v &&& m)
    if bitsOf w 0 120 ≠ 0 ∨ bitsOf w 120 8 = 0 ∨ 2 < bitsOf w 120 8 then some (.badParam, [tlvFailObj (objId cls i attr)]) else none
  else none

/-- A write of TBL_LOCK (R152): bits written 1 are asked for, bits written 0 are given back. -/
def Chip.lockWrite (c : Chip) (slot t v m : Nat) : Chip :=
  (c.wr Reg.TBL_LOCK 0 t).each (List.range 64) fun s c =>
    if !bitOf m s then c
    else if bitOf v s then c.lockStart t s slot
    else if (c.lock t s).slot = slot then c.lockEnd t s else c

/-- What a write of an attribute outside the TX ones sets off beyond its value: a lock, a freeze (R47), ASYM_A (R179), a trip that
cannot clear yet (R455). -/
def Chip.writeHook (c old : Chip) (r : Req) (cls attr i e v m : Nat) : Chip :=
  if cls = Cls.DEV ∧ attr = 0x28 then Chip.arbFreezeHook old c e
  else if cls = Cls.TBL ∧ attr = 0x02 then c.lockWrite r.slot i v m
  else if cls = Cls.PORT ∧ attr = 0x52 then c.asymHook i
  else if cls = Cls.DEV ∧ attr = 0x7A then
    if old.on Reg.THERM_STATUS_TRIP && (List.range 8).any (fun n => decide (840 ≤ c.rdS Reg.THERM_TEMP 0 n)) then
      c.flag Reg.THERM_STATUS_TRIP true
    else c
  else c

/-! ### Values other chapters need -/

/-- The offset of a time reference as measured now (2^-16 ns), time to add to the timebase to meet it (R171). -/
def Chip.refOffset16 (c : Chip) (n : Nat) : Int := -c.toff n

/-- Version of the firmware image in use (R397, R413): 0 for the management firmware in recovery. -/
def Chip.fwVersion (c : Chip) (t : Nat) : Nat := if t = 0 ∧ c.fw.recovery then 0 else (SMap.get c.fw.run t).ver

/-- A frame the host injects (R126, R372): its cells come from the trap reserve; none while that lacks room. One that Q_MAX of an MGT queue refuses is
discarded (R108). -/
def Chip.injectOwn (c : Chip) (port cls : Nat) (b : Bytes) (launch tag : Option Nat) : Option Chip :=
  if port = 512 ∧ c.mgtFull cls then some (c.count Ev.MGT_Q_DROP (4096 + cls))
  else if c.injectRoom (b.length + 4) then c.sendOwn .injected .trap 65 port cls b launch tag else none

/-- A message posted to an engine's mailbox, and whether it was taken (R273). -/
def Chip.postEngine (c : Chip) (e msg : Nat) : Bool × Chip := c.mbxEngine e msg

/-- Whether an engine's mailbox holds 4 messages. -/
def Chip.engineMbxFull (c : Chip) (e : Nat) : Bool := decide (4 ≤ (c.eng e).mbx.length)

/-- Whether the Lull test may take a cell: a free one of a bank with more than 64 free cells (R433) that is not frozen (R47). -/
def Chip.cellTestable (c : Chip) (x : Nat) : Bool := c.cellFree x && decide (64 < c.bankFree (x / 4096)) && !c.arbFrozen (x / 4096)

/-! ### Images of Drumline memory (R439, R440) -/

/-- Whether a domain that is between its trigger and its fence writes into a range of the cycle memory. -/
def Chip.busyWriter (c : Chip) (start len : Nat) : Bool :=
  let hit := fun (a : Nat) => decide (start ≤ a) && decide (a < start + len)
  (List.range 4).any fun d => (c.dom d).busy &&
    (((c.inputsOf d).any fun i => let a := c.rd Reg.GATHER_LIST_ADDR d i * 64; hit a || hit (a + 32)) ||
     (List.range 64).any fun e => c.engBelongs e d && (c.eng e).prog.descs.any fun w => (storeWords w).any hit)

/-- Whether a capture through the diagnostic port of a drained bank would meet words a busy domain writes. -/
def Chip.captureBlocked (c : Chip) (bank start len : Nat) : Bool :=
  c.on Reg.ARB_STATUS_DRAINED 0 (64 + bank) && c.busyWriter start len

/-- Whether a capture of a bank that is not drained is held at its arbiter: under a freeze (R47), or until a fence opens (R265). -/
def Chip.captureHeld (c : Chip) (bank : Nat) : Bool :=
  !c.on Reg.ARB_STATUS_DRAINED 0 (64 + bank) && (c.arbFrozen (64 + bank) || c.busyWriter (bank * 2 ^ 19) (2 ^ 19))

/-- Words 1 of the source-0 input pairs, by address. -/
def Chip.inputWords (c : Chip) : List Nat :=
  (List.range 4).flatMap fun d => (c.inputsOf d).filterMap fun i =>
    if c.rd Reg.GATHER_LIST_SRC d i = 0 then some (c.rd Reg.GATHER_LIST_ADDR d i * 64 + 32) else none

/-- Bytes of the cycle memory as the host reads them: word 0 stands in place of word 1 of each source-0 pair (R440). -/
def Chip.cycleImage (c : Chip) (start len : Nat) : Bytes :=
  let ws := c.inputWords
  (List.range (len / 32)).flatMap fun k =>
    let a := start + 32 * k
    memRead c.drum.cyc (if ws.contains a then a - 32 else a) 32

/-- V0 to V31, P1 to P7, ENG_STATUS and the 128 KiB local memory of an engine, its program regions first (R250, R439). -/
def Chip.engineImage (c : Chip) (e : Nat) : Bytes :=
  let x := c.eng e
  ((List.range 32).flatMap fun r => bytesOfNatLE 32 (x.reg r)) ++ ((List.range 7).flatMap fun p => bytesOfNatLE 1 (x.prd (p + 1))) ++
  bytesOfNatLE 4 (Attr.ENG_STATUS.flds.foldl (fun v F => v + (c.rd F (256 + e) <<< F.lo)) 0) ++
  memRead x.mem 0 131072

/-- Whether an attribute is one that calibration sets (R432). -/
def calibrated (cls attr : Nat) : Bool :=
  (cls == Cls.PORT && attr == 0x50) || (cls == Cls.EVT && (attr == 0x02 || attr == 0x32 || attr == 0x43)) || (cls == Cls.SYN && attr == 0x04)

end Sys2Proof.Machine
end

