-- ==== Sys2Proof/Machine/Objects.lean ====
section
/-! DEFINITION. Objects and attributes (R5 to R10, R400): naming, reading, writing. -/

namespace Sys2Proof.Machine

/-- A PORT instance that a four-lane port occupies is undefined while that port exists (R10, R55). -/
def Chip.portHidden (c : Chip) (p : Nat) : Bool :=
  decide (p < 512) && p % 4 != 0 && decide (5 ≤ c.rd Reg.PORT_CFG_MODE (p / 4 * 4))

/-- The attribute definition that covers a class, instance and attribute (R9). -/
def findAttr (cls inst attr : Nat) : Option AttrDef :=
  attrTable.find? fun a =>
    a.cls == cls && a.attr == attr && decide (a.instLo ≤ inst) && decide (inst ≤ a.instHi) && (inst - a.instLo) % a.instStep == 0

/-- The attribute an object ID names, with the instance its fields are kept under: the phase-monitor attributes of REF 8 to 23
are those of the nominated lane (R191). -/
def Chip.resolve (c : Chip) (o : Nat) : Option (AttrDef × Nat) :=
  let cls := objCls o
  let i := objInst o
  let a := objAttr o
  if cls = Cls.PORT ∧ c.portHidden i then none
  else if cls = Cls.REF ∧ 8 ≤ i ∧ i ≤ 23 ∧ 0x10 ≤ a ∧ a ≤ 0x15 then
    (findAttr Cls.LANE (c.refLane i) a).map fun d => (d, c.refLane i)
  else (findAttr cls i a).map fun d => (d, i)

/-- Whether the object lies in a powered-down block (R337, R418; log entry 7). -/
def Chip.poweredOff (c : Chip) (o : Nat) : Bool :=
  let st := c.rd Reg.PWR_STATUS_STATE
  let cls := objCls o
  let i := objInst o
  let link := st == 1 && i == c.rd Reg.TWIN_CFG_LINK_PORT
  (st == 0 || st == 1) &&
    (((cls == Cls.PORT || cls == Cls.LANE) && decide (i < 512) && !link) ||
     ((cls == Cls.QUEUE || cls == Cls.SHAPER) && decide (i < 4096)) || cls == Cls.GATE || cls == Cls.TBL || cls == Cls.CYC ||
     (cls == Cls.MBX && decide (64 ≤ i)) ||
     (cls == Cls.DEV && decide (0x20 ≤ objAttr o) && decide (objAttr o < 0x40)))

/-- Whether a field can be written by a command. -/
def Acc.writable : Acc → Bool
  | .ro => false
  | .rc => false
  | _ => true

/-- Bytes of one element (R396: the attribute's width rounded up to whole bytes). -/
def AttrDef.elemBytes (a : AttrDef) : Nat := (a.width + 7) / 8

/-- The bits of an attribute that no field covers (R4). -/
def AttrDef.reservedBits (a : AttrDef) : Nat :=
  (2 ^ a.width - 1) - (a.flds.map fun f => (2 ^ f.width - 1) <<< f.lo).sum

/-- The reserved bits of one element: beside those, bits 6 to 4 of the GATES of a stream gate's list (R149), all of RED_PROF's elements 0 to 2,
and W of its yellow and red elements (R109). -/
def AttrDef.reservedAt (a : AttrDef) (e : Nat) : Nat :=
  a.reservedBits |||
    (if a.cls = Cls.TBL ∧ a.attr = 0x20 then 0x70 <<< Reg.SG_ADMIN_LIST_GATES.lo
     else if a.cls = Cls.DEV ∧ a.attr = 0x3D then (if e < 3 then 2 ^ 32 - 1 else if e % 3 = 0 then 0 else 15) else 0)

/-- The value of a field now: write-only as 0, a TX field as `v` holds it (R7: staged values are TX values only), else computed or
stored. -/
def Chip.fieldNow (c : Chip) (F : Fld) (i e : Nat) (v : Chip := c) : Nat :=
  match F.acc with
  | .wo => 0
  | .tx => v.rd F i e
  | _ => (c.derivedField F i e).getD (c.rd F i e)

/-- The value of one element of an attribute, its TX fields as `v` holds them. -/
def Chip.attrNow (c : Chip) (a : AttrDef) (i e : Nat) (v : Chip := c) : Nat :=
  a.flds.foldl (fun n F => n + (c.fieldNow F i e v <<< F.lo)) 0

/-- What an RC field holds after its clearing read: the marks of R108 and R109 restart from what is shown at that instant, every other
field from its reset value. -/
def Chip.rcRestart (c : Chip) (F : Fld) (i e : Nat) : Nat :=
  if F = Reg.POOL_WMARK then satU F.width c.poolUsed
  else if F = Reg.Q_WMARK_DEPTH then satU F.width (c.depthShown i)
  else F.reset i e

/-- The RC fields of an element cleared by a read (R5). -/
def Chip.clearRc (c : Chip) (a : AttrDef) (i e : Nat) : Chip :=
  c.each (a.flds.filter fun F => F.acc == .rc) fun F c => c.wr F (c.rcRestart F i e) i e

/-- A list of elements as one big-endian number, each in whole bytes. -/
def joinElems (bytes : Nat) (vs : List Nat) : Nat := vs.foldl (fun a v => a * 2 ^ (8 * bytes) + v % 2 ^ (8 * bytes)) 0

/-- The elements a read or write names: all, or first and count (R396, R400); none when they run past the array. -/
def AttrDef.elemRange (a : AttrDef) (e : Option (Nat × Nat)) : Option (Nat × Nat) :=
  match e with
  | none => some (0, a.elems)
  | some (first, n) =>
    if a.elems ≤ 1 ∨ a.elems ≤ first then none
    else
      let n' := if n = 0 then a.elems - first else n
      if first + n' ≤ a.elems then some (first, n') else none

/-- One object read (R400): its reply TLVs and the block with RC fields cleared; none when undefined or out of range. TX fields show what
`v` holds (R7). OPT_RAW, whose form in a packet the spec does not give, has a command of its own (log entry 37). -/
def Chip.readObj (c : Chip) (o : ObjSel) (v : Chip := c) : Option (List Tlv × Chip) :=
  match c.resolve o.obj with
  | none => none
  | some (a, i) =>
    match (if a.flds.any fun F => F.acc == .raw then none else a.elemRange o.elem) with
    | none => none
    | some (first, n) =>
      let b := a.elemBytes
      match c.specialRead a.cls a.attr i n with
      | some (vs, c') => some ([tlvObj o.obj, tlvValue (b * vs.length) (joinElems b vs) 0], c')
      | none =>
        let es := (List.range n).map (first + ·)
        let x := joinElems b (es.map fun e => c.attrNow a i e v)
        let c' := c.each es fun e c => c.clearRc a i e
        let unit := if a.elems ≤ 1 then 0 else b
        some ((tlvObj o.obj) :: ((if o.elem.isSome || unit != 0 then [tlvElem first n] else []) ++ [tlvValue (b * n) x unit]), c')

/-- The write of one element as seen field by field: for each field its new value under value and mask. -/
def fieldNew (old v m : Nat) (F : Fld) : Nat :=
  let fm := bitsOf m F.lo F.width
  let fv := bitsOf v F.lo F.width
  match F.acc with
  | .w1c => old - (old &&& fv &&& fm)
  | .ro => old
  | .rc => old
  | _ => (old - (old &&& fm)) + (fv &&& fm)

/-- One element written: every writable field under the mask (R5, R400). -/
def Chip.writeElem (c : Chip) (a : AttrDef) (i e v m : Nat) : Chip :=
  c.each (a.flds.filter fun F => F.acc.writable) fun F c => c.wr F (fieldNew (c.rd F i e) v m F) i e

/-- The elements of a write: number, value, mask (all ones without MASK). -/
def elemsOf (b first n : Nat) (value : Bytes) (mask : Option Bytes) : List (Nat × Nat × Nat) :=
  (List.range n).map fun k =>
    (first + k, natAt value (k * b) b, match mask with | none => 2 ^ (8 * b) - 1 | some m => natAt m (k * b) b)

/-- An object write taken apart: definition, instance, elements; or the failure of R4, R5, R10, R400. -/
def Chip.parseWrite (c : Chip) (w : ObjWrite) : Except (Status × List Tlv) (AttrDef × Nat × List (Nat × Nat × Nat)) :=
  match c.resolve w.obj with
  | none => .error (.badParam, [tlvFailObj w.obj])
  | some (a, i) =>
    match a.elemRange w.elem with
    | none => .error (.badParam, [tlvFailObj w.obj])
    | some (first, n) =>
      let b := a.elemBytes
      let es := elemsOf b first n w.value w.mask
      let wrong :=
        a.flds.any (fun F => F.acc == .raw) || w.value.length != b * n || (match w.mask with | none => false | some m => m.length != b * n) ||
        a.flds.all (fun F => !F.acc.writable) ||
        es.any (fun x => (x.2.1 &&& a.reservedAt x.1) != 0 || decide (2 ^ a.width ≤ x.2.1)) ||
        (w.mask.isSome && es.any fun x => a.flds.any fun F => !F.acc.writable && bitsOf x.2.2 F.lo F.width != 0) ||
        es.any (fun x => a.flds.any fun F =>
          F.acc.writable && F.acc != .w1c && bitsOf x.2.2 F.lo F.width != 0 &&
          !F.chk.ok F.width (fieldNew (c.rd F i x.1) x.2.1 x.2.2 F))
      if wrong then .error (.badParam, [tlvFailObj w.obj]) else .ok (a, i, es)

/-- Attributes whose writable fields are all W1C (R360, R376). -/
def AttrDef.allW1c (a : AttrDef) : Bool := a.flds.all fun F => !F.acc.writable || F.acc == .w1c

/-- Whether a write touches a TX field (R5). -/
def touchesTx (a : AttrDef) (es : List (Nat × Nat × Nat)) : Bool :=
  es.any fun x => a.flds.any fun F => F.acc == .tx && bitsOf x.2.2 F.lo F.width != 0

/-- Attributes that only a direct write may name (R376): EVO_REQ, SYN_VREQ, HPI_OFFSET and those all W1C. -/
def AttrDef.directOnly (a : AttrDef) : Bool :=
  a.allW1c || (a.cls == Cls.EVT && a.attr == 0x33) || (a.cls == Cls.SYN && a.attr == 0x10) || (a.cls == Cls.TIME && a.attr == 0x0B)

/-- One object's new values alone. -/
def Chip.writeRaw (c : Chip) (w : ObjWrite) : Chip :=
  match c.parseWrite w with
  | .error _ => c
  | .ok (a, i, es) => c.each es fun x c => c.writeElem a i x.1 x.2.1 x.2.2

/-- Value bytes of a write for the staging limit (R378): the attribute's size. -/
def Chip.writeSize (c : Chip) (w : ObjWrite) : Nat :=
  match c.resolve w.obj with
  | none => w.value.length
  | some (a, _) => a.elemBytes * a.elems

end Sys2Proof.Machine
end

