-- ==== Sys2Proof/Machine/Check.lean ====
section
/-! DEFINITION. The checks of a change (R381): consistency across fields and objects, one owner for everything, worst-corner budgets, pool
sizes. Each is made on the state that would result; the first in the order of the table of R381 gives the status. -/

namespace Sys2Proof.Machine

/-- A consistency failure naming its object. -/
def badObj (o : Nat) : Failing := some (.badParam, [tlvFailObj o])

/-- Two claimants of one thing. -/
def conflict (a b : Nat) : Failing := some (.resourceConflict, [tlvClaimant a 0xFFFFFFFF, tlvClaimant b 0xFFFFFFFF])

/-- A budget failure: object, unit of the shortfall, amount. -/
def budget (o unit amount : Nat) : Failing := some (.resourceConflict, [tlvFailObj o, tlvShortfall unit amount])

/-- Whether a list of commands writes an attribute that a test picks by class, instance and attribute. -/
def wrote (cmds : List Instr) (f : Nat → Nat → Nat → Bool) : Bool :=
  cmds.any fun i => match i with
    | .objWrite _ ws => ws.any fun w => f (objCls w.obj) (objInst w.obj) (objAttr w.obj)
    | _ => false

/-- Whether a list of commands writes a field of an object: its attribute, under a mask that touches the field. -/
def wroteField (cmds : List Instr) (F : Fld) (i : Nat) : Bool :=
  cmds.any fun x => match x with
    | .objWrite _ ws => ws.any fun w => objCls w.obj == F.cls && objInst w.obj == i && objAttr w.obj == F.attr &&
        (match w.mask with | none => true | some m => bitsOf (natOfBytes m) F.lo F.width != 0)
    | _ => false

/-! ### Ports (R53 to R55, R61, R62, R100, R101, R123, R314) -/

/-- FEC choices of a mode (R54). -/
def fecOk (m f : Nat) : Bool :=
  match m with
  | 0 => true
  | 1 => f == 0
  | 2 => f == 0
  | 4 => decide (f ≤ 2)
  | 6 => f == 0 || f == 2
  | _ => decide (f ≤ 1)

/-- Source and rate of the PLL a port selects. -/
def Chip.pllOf (c : Chip) (p : Nat) : Nat × Nat :=
  let o := p / 8 * 8
  if c.on Reg.PORT_CFG_PLL_SEL p then (c.rd Reg.OCT_CLK_PLLB_SRC o, c.rd Reg.OCT_CLK_PLLB_RATE o)
  else (c.rd Reg.OCT_CLK_PLLA_SRC o, c.rd Reg.OCT_CLK_PLLA_RATE o)

/-- The PLL rate code of a mode's lane rate (R53, R54). -/
def rateCode (m : Nat) : Nat := match m with | 1 => 1 | 2 => 2 | 3 => 3 | 5 => 3 | 4 => 4 | 6 => 4 | _ => 0

/-- Consistency of one port. -/
def Chip.portFail (c : Chip) (p : Nat) : Failing :=
  let m := c.rd Reg.PORT_CFG_MODE p
  let cfg := objId Cls.PORT p 1
  if !fecOk m (c.rd Reg.PORT_CFG_FEC p) then badObj cfg
  else if 5 ≤ m ∧ p % 4 ≠ 0 then badObj cfg
  else if c.on Reg.PORT_CFG_LPI_EN p && c.on Reg.PORT_CFG_EIDLE_EN p then badObj cfg
  else if c.on Reg.PORT_CFG_SYNCE_TX p && (c.pllOf p).1 != 1 then badObj cfg
  else if c.on Reg.SCHED_CFG_PREEMPT_EN p && (m == 1 || m == 2) then badObj (objId Cls.PORT p 0x30)
  else if c.rd Reg.FC_CFG_LOSSLESS p ≠ 0 ∧ c.rd Reg.FC_CFG_FC_MODE p = 0 then badObj (objId Cls.PORT p 0x21)
  else if c.rd Reg.FC_CFG_FC_MODE p = 3 ∧ !c.fabPort p then badObj (objId Cls.PORT p 0x21)
  else if 63 < c.rd Reg.LANE_CFG_TX_PRE p + c.rd Reg.LANE_CFG_TX_MAIN p + c.rd Reg.LANE_CFG_TX_POST p then badObj (objId Cls.LANE p 1)
  else if c.fabPort p && (decide (m < 3) || decide (c.rd Reg.PORT_CFG_MAX_FRAME p < 2112) || c.twinPort p) then badObj (objId Cls.PORT p 0x60)
  else none

/-- The claimant that makes a port's lane a timing lane (R61, R62). -/
def Chip.timingClaim (c : Chip) (p : Nat) : Nat :=
  match (List.range 16).find? fun i => c.rd Reg.REF_CFG_RANK (8 + i) != 0 && (c.portLanes p).contains (c.rd Reg.REF_CFG_LANE (8 + i)) with
  | some i => objId Cls.REF (8 + i) 1
  | none => if c.twinPort p then objId Cls.TWIN 0 1 else objId Cls.PORT p 1

/-- One owner for a port's lanes and PLL (R55, R62). A timing lane is never looped back, so a looped lane is not made one (log entry 162). -/
def Chip.laneFail (c : Chip) (p : Nat) : Failing :=
  let m := c.rd Reg.PORT_CFG_MODE p
  let cfg := objId Cls.PORT p 1
  let shared := if 5 ≤ m then [p + 1, p + 2, p + 3].find? fun q => c.rd Reg.PORT_CFG_MODE q != 0 else none
  match shared with
  | some q => conflict cfg (objId Cls.PORT q 1)
  | none =>
    if m ≠ 0 ∧ (c.pllOf p).2 ≠ rateCode m then conflict (objId Cls.LANE (p / 8 * 8) 3) cfg
    else if c.timingPort p && (c.on Reg.PORT_CFG_LPI_EN p || c.on Reg.PORT_CFG_EIDLE_EN p) then conflict (c.timingClaim p) cfg
    else if c.timingPort p && c.looped p then conflict (c.timingClaim p) (objId Cls.TEST 1 0)
    else none

/-- R53: a PLL whose rate changes is used by an active port that the change does not write. -/
def Chip.pllFail (before after : Chip) (cmds : List Instr) : Failing :=
  (List.range 64).findSome? fun k =>
    let o := 8 * k
    let a := before.rd Reg.OCT_CLK_PLLA_RATE o != after.rd Reg.OCT_CLK_PLLA_RATE o
    let b := before.rd Reg.OCT_CLK_PLLB_RATE o != after.rd Reg.OCT_CLK_PLLB_RATE o
    if !a && !b then none
    else
      ((List.range 8).find? fun j =>
        let p := o + j
        before.rd Reg.PORT_CFG_MODE p != 0 && (if before.on Reg.PORT_CFG_PLL_SEL p then b else a) &&
          !([Reg.PORT_CFG_MODE, Reg.PORT_CFG_FEC, Reg.PORT_CFG_PLL_SEL].any fun F => wroteField cmds F p)).bind fun j =>
        conflict (objId Cls.LANE o 3) (objId Cls.PORT (o + j) 1)

/-! ### Buffers and tables (R96, R104, R139, R315, R435) -/

/-- A RED profile element (R109). -/
def Chip.redFail (c : Chip) : Failing :=
  ((c.touched Reg.RED_PROF_MIN_TH ++ c.touched Reg.RED_PROF_MAX_TH ++ c.touched Reg.RED_PROF_MAX_P ++ c.touched Reg.RED_PROF_W).find? fun x =>
    let lo := c.rd Reg.RED_PROF_MIN_TH 0 x.2
    let hi := c.rd Reg.RED_PROF_MAX_TH 0 x.2
    decide (x.2 < 3) || (x.2 % 3 != 0 && c.rd Reg.RED_PROF_W 0 x.2 != 0) || (decide (hi ≤ lo) && !(lo == 0 && hi == 0))).bind fun _ => badObj (objId Cls.DEV 0 0x3D)

/-- The unit named by SEL of a counter is one its event has in its group (R435). -/
def cntSelOk (g ev sel : Nat) : Bool :=
  let unit := fun (lo hi : Nat) => decide (lo ≤ sel) && decide (sel ≤ hi)
  if g < 64 then
    (ev == 1 || ev == 2 || queueEvent ev || (decide (0x10 ≤ ev) && decide (ev ≤ 0x16)) || (decide (0x20 ≤ ev) && decide (ev ≤ 0x24)) ||
      ev == 0x30 || (decide (0x50 ≤ ev) && decide (ev ≤ 0x54)) || ev == 0x67 || ev == 0x70 || (decide (0x80 ≤ ev) && decide (ev ≤ 0x87))) &&
    (sel == 0xFFFF || (if queueEvent ev then unit (g * 64) (g * 64 + 63) || unit (0x8000 + g * 8) (0x8000 + g * 8 + 7)
      else unit (g * 8) (g * 8 + 7)))
  else
    eventGroup ev 0xFFFF == some g && decide (0x100 ≤ ev) &&
    (match g with
     | 64 => decide (ev ≤ 0x101) && (sel == 0xFFFF || unit 0 141)
     | 65 => if ev ≤ 0x117 then sel == 0xFFFF else decide (ev ≤ 0x11D) && (sel == 0xFFFF || unit 0 (if ev = 0x118 then 4095 else 1023))
     | 66 => decide (ev ≤ 0x121) && (sel == 0xFFFF || unit 0 (if ev = 0x120 then 7 else 3))
     | 67 =>
       if ev = 0x13C then sel == 0xFFFF
       else decide (ev ≤ 0x13B) && (sel == 0xFFFF || (if ev ≤ 0x134 then unit 0 31 else if ev ≤ 0x139 then unit 32 71 else unit 1 4))
     | 68 =>
       decide (ev ≤ 0x149) && (sel == 0xFFFF || (if ev ≤ 0x142 ∨ ev = 0x147 then unit 0 3 else if ev ≤ 0x146 then unit 0 4095 else unit 0 63))
     | 69 => decide (ev ≤ 0x154) && sel == 0xFFFF
     | 70 => if ev = 0x167 then sel == 0xFFFF || unit 4096 4103 else decide (ev ≤ 0x166) && sel == 0xFFFF
     | _ => decide (ev ≤ 0x174) && sel == 0xFFFF)

/-- The counter elements (R435). -/
def Chip.cntFail (c : Chip) : Failing :=
  ((c.touched Reg.CNT_CFG_EN).find? fun x =>
    let ev := c.rd Reg.CNT_CFG_EVENT x.1 x.2
    c.on Reg.CNT_CFG_EN x.1 x.2 && (!cntSelOk x.1 ev (c.rd Reg.CNT_CFG_SEL x.1 x.2) ||
      (c.on Reg.CNT_CFG_BYTES x.1 x.2 && !(decide (1 ≤ ev) && decide (ev ≤ 4))))).bind fun x => badObj (objId Cls.CNT x.1 1)

/-- R139, R315: hash seeds change only while the table is empty; device targets must be empty when FAB_EN is set. -/
def Chip.seedFail (before after : Chip) : Failing :=
  if (before.rd Reg.EM_SEED0 ≠ after.rd Reg.EM_SEED0 ∨ before.rd Reg.EM_SEED1 ≠ after.rd Reg.EM_SEED1) ∧ before.tblUsed 0 ≠ 0 then
    badObj (objId Cls.TBL 0 (if before.rd Reg.EM_SEED0 ≠ after.rd Reg.EM_SEED0 then 0x10 else 0x11))
  else none

def Chip.devTargetFail (before after : Chip) : Failing :=
  if !before.fabOn && after.fabOn && (after.entries 5 0 ++ after.entries 5 1).any fun x => decide (16320 ≤ x.1) && after.entNow 5 x.1 != 0 then
    conflict (objId Cls.TBL 5 0) (objId Cls.DEV 0 0x48)
  else none

/-! ### Phase, events, synthesisers (R189, R190, R196, R203, R209, R211, R215, R219, R220, R224) -/

/-- Reference inputs and the monitors of the line side. -/
def Chip.refInFail (c : Chip) : Failing :=
  (List.range 8).findSome? fun i =>
    if !refInOk i (c.rd Reg.REF_IN_CFG_NOM_HZ i) (c.rd Reg.REF_IN_CFG_DIV i) then badObj (objId Cls.REF i 0x14)
    else if !c.decimOk i then badObj (objId Cls.REF i 0x10)
    else none

/-- Interval units: their own start input as stop input (R196), and the inputs they own (R194). -/
def Chip.ivlFail (c : Chip) : Failing :=
  (List.range 32).findSome? fun u =>
    if c.on Reg.IVL_CFG_EN u && !c.on Reg.IVL_CFG_MODE u && c.rd Reg.IVL_CFG_STOP u == u &&
        (c.rd Reg.EVI_CFG_EDGE u != 3 || c.rd Reg.IVL_CFG_START_EDGE u == c.rd Reg.IVL_CFG_STOP_EDGE u) then
      badObj (objId Cls.EVT u 0x10)
    else none

def Chip.ivlOwnFail (c : Chip) : Failing :=
  (List.range 32).findSome? fun u =>
    if !c.on Reg.IVL_CFG_EN u then none
    else
      let ins := if c.on Reg.IVL_CFG_MODE u then [u] else [u, c.rd Reg.IVL_CFG_STOP u]
      (ins.find? fun n => c.rd Reg.EVI_CFG_OWNER n != 2 || c.rd Reg.EVI_CFG_OWNER_ID n != u).bind fun n =>
        conflict (objId Cls.EVT n 1) (objId Cls.EVT u 0x10)

/-- Periodic generators (R203): a width of at least 6 ns and a period of at least the width and 6 ns. -/
def Chip.periodFail (c : Chip) (cmds : List Instr) : Failing :=
  (List.range 32).findSome? fun n =>
    let i := 32 + n
    let w := c.rd Reg.EVO_PER_CFG_WIDTH_NS i
    if (c.rd Reg.EVO_CFG_OWNER i = 3 ∨ wroteField cmds Reg.EVO_PER_CFG_PERIOD_NS i ∨ wroteField cmds Reg.EVO_PER_CFG_WIDTH_NS i) ∧ (w < 6 ∨ c.rd Reg.EVO_PER_CFG_PERIOD_NS i < w + 6) then badObj (objId Cls.EVT i 0x35) else none

/-- Pulse outputs (R224). -/
def Chip.ppoFail (c : Chip) : Failing :=
  (List.range 8).findSome? fun m => if c.ppoOk (64 + m) then none else badObj (objId Cls.EVT (64 + m) 0x41)

/-- Whether a reference offered to the frequency selector can be doubled (R209). -/
def Chip.doubles (c : Chip) (n : Nat) : Bool :=
  if n < 4 then c.rd Reg.REF_IN_CFG_DIV n % 2 == 0 && c.rd Reg.RPHM_CFG_DECIM_LOG2 n == 0
  else decide (8 ≤ n) && decide (5 ≤ c.rd Reg.PHM_CFG_DECIM_LOG2 (c.rd Reg.REF_CFG_LANE n))

/-- The loops (R208, R209, R211, R215). -/
def Chip.synFail (c : Chip) : Failing :=
  (List.range 5).findSome? fun d =>
    let mode := c.rd Reg.SYN_CFG_MODE d
    let top : Int := if mode = 2 then 20000000 * 64 else 1000000
    let lo := c.rdS Reg.SYN_LIMITS_FLOOR d
    let hi := c.rdS Reg.SYN_LIMITS_CEIL d
    let fast := match c.fpd d with | some (f, q) => d != 0 && decide (f * 50 < c.rd Reg.SYN_CFG_BW d * q) | none => false
    if hi < lo ∨ c.rd Reg.SYN_LIMITS_SLEW d = 0 ∨ (mode ≠ 0 ∧ (top < hi ∨ lo < -top)) then badObj (objId Cls.SYN d 3)
    else if fast then badObj (objId Cls.SYN d 1)
    else if d = 0 ∧ !c.on Reg.SYN_CFG_FREQ_FIRST 0 then badObj (objId Cls.SYN 0 1)
    else if d = 0 ∧ c.rd Reg.SYN_CFG_REF_MULT 0 = 1 ∧
        (List.range 24).any (fun n => c.on Reg.REF_CFG_FREQ n && c.rd Reg.REF_CFG_RANK n != 0 && !c.doubles n) then badObj (objId Cls.SYN 0 1)
    else if d ≠ 0 ∧ (List.range 32).any (fun k => !c.targetOk d (c.rdS Reg.SYN_RAMP_PROF_TARGET d k)) then badObj (objId Cls.SYN d 0x0F)
    else none

/-- R211: a change of MODE writes SYN_LIMITS. -/
def Chip.synModeFail (before after : Chip) (cmds : List Instr) : Failing :=
  ([1, 2, 3, 4].find? fun d => before.rd Reg.SYN_CFG_MODE d != after.rd Reg.SYN_CFG_MODE d &&
    !wrote cmds fun cls i a => cls == Cls.SYN && i == d && a == 3).bind fun d => badObj (objId Cls.SYN d 1)

/-- Clock outputs: LVCMOS at most 250 MHz (R218), what alignment needs (R220). -/
def Chip.ckoFail (c : Chip) : Failing :=
  (List.range 8).findSome? fun o =>
    let i := 16 + o
    let d := c.ckoLoop o
    let div := max 1 (c.rd Reg.CKO_DIV i)
    let clock := decide (c.rd Reg.CKO_CFG_FORMAT i ≤ 1)
    if clock && c.rd Reg.CKO_CFG_DRIVE i == 2 && decide (250000000 * div * 2 ^ 32 < c.synNom d) then badObj (objId Cls.SYN i 1)
    else if c.rd Reg.CKO_ALIGN_ALIGN i ≠ 0 ∧ !(clock && c.rd Reg.SYN_CFG_MODE d == 1 && c.on Reg.SYN_CFG_FOLLOW_ADJ d &&
        !c.on Reg.SYN_RAMP_CTRL_RUN d && c.synNom d % (div * 2 ^ 32) == 0) then badObj (objId Cls.SYN i 3)
    else none

/-- Owners of the loops and outputs (R217, R219). -/
def Chip.ckoOwnFail (c : Chip) : Failing :=
  [1, 2, 3, 4].findSome? fun d =>
    let loop := objId Cls.SYN d 1
    let outs := (List.range 8).filter fun o => c.ckoLoop o == d
    let fmt := fun (o : Nat) => c.rd Reg.CKO_CFG_FORMAT (16 + o)
    if c.on Reg.SYN_RAMP_CTRL_RUN d && c.rd Reg.SYN_OWNER_OWNER d == 1 then conflict (objId Cls.SYN d 0x0C) (objId Cls.SYN d 0x0D)
    else if c.rd Reg.SYN_CFG_MODE d = 2 then
      let pair := (List.range 4).find? fun j => outs.contains (2 * j) && outs.contains (2 * j + 1) && fmt (2 * j) == 2 && fmt (2 * j + 1) == 3
      match pair with
      | none => conflict loop (objId Cls.SYN (16 + (outs.head?).getD 0) 1)
      | some j => (outs.find? fun o => o / 2 != j).bind fun o => conflict loop (objId Cls.SYN (16 + o) 1)
    else (outs.find? fun o => c.rd Reg.SYN_CFG_MODE d == 1 && decide (2 ≤ fmt o)).bind fun o => conflict loop (objId Cls.SYN (16 + o) 1)

/-! ### Carillon (R229, R230, R233, R241) -/

/-- One port's PTP configuration (R229). -/
def Chip.ptpFail (c : Chip) (p : Nat) : Failing :=
  let o := objId Cls.PORT p 0x54
  let prof := c.rd Reg.PTP_INST_PROFILE 0 (c.rd Reg.PTP_PORT_CFG_INST p)
  let role := c.rd Reg.PTP_PORT_CFG_ROLE p
  let delay := c.rd Reg.PTP_PORT_CFG_DELAY p
  let first := (List.range 16).any fun i => c.rd Reg.REF_CFG_LANE (8 + i) == p && c.rd Reg.REF_CFG_RANK (8 + i) != 0 && c.on Reg.REF_CFG_FREQ (8 + i)
  if role = 0 then none
  else if delay = 1 ∧ prof ≠ 1 ∧ prof ≠ 3 then badObj o
  else if delay = 2 ∧ prof ≠ 3 then badObj o
  else if delay = 0 ∧ (prof = 1 ∨ prof = 3) then badObj o
  else if prof = 3 ∧ c.rd Reg.PTP_PORT_CFG_TRANSPORT p ≠ 0 then badObj o
  else if prof = 2 ∧ (role = 1 ∨ role = 3) ∧ !(c.on Reg.PORT_CFG_PMA_STAMP p && first) then badObj o
  else if prof = 2 ∧ (role = 1 ∨ role = 2) ∧ !(c.on Reg.PORT_CFG_PMA_STAMP p && c.on Reg.PORT_CFG_SYNCE_TX p) then badObj o
  else none

/-- PTP instances (R229). -/
def Chip.ptpInstFail (c : Chip) : Failing :=
  (List.range 4).findSome? fun i =>
    if !c.on Reg.PTP_INST_EN 0 i then none
    else if 127 < c.rd Reg.PTP_INST_DOMAIN 0 i ∨ (List.range 4).any fun j =>
        j != i && c.on Reg.PTP_INST_EN 0 j && c.rd Reg.PTP_INST_DOMAIN 0 j == c.rd Reg.PTP_INST_DOMAIN 0 i then badObj (objId Cls.TIME 0 0x25)
    else none

/-- PTP messages in 16 s of a port, in each direction, from its intervals (R230). -/
def Chip.ptpLoad (c : Chip) (p : Nat) : Nat :=
  let n := fun (l : Int) => if l < 0 then 16 * 2 ^ l.natAbs else 16 / 2 ^ l.natAbs
  let sync := n (if c.twinPort p then c.logSync p else c.rdS Reg.PTP_PORT_CFG_LOG_SYNC p)
  sync * (if c.on Reg.PTP_PORT_CFG_TWO_STEP p then 2 else 1) + n (c.rdS Reg.PTP_PORT_CFG_LOG_ANNOUNCE p) +
    n (if c.twinPort p then -4 else c.rdS Reg.PTP_PORT_CFG_LOG_DELAY p)

/-- R230. -/
def Chip.ptpLoadFail (c : Chip) : Failing :=
  let sum := ((List.range 512).filter fun p => c.ptpRole p != 0).map c.ptpLoad |>.sum
  if 40000 * 16 < sum then some (.resourceConflict, [tlvShortfall 3 (ceilDiv (sum - 640000) 16)]) else none

/-- References (R233, and the limits of REF_LIMITS and HO_CFG). -/
def Chip.refFail (c : Chip) : Failing :=
  ((List.range 24).findSome? fun n =>
    let port := c.laneToPort (c.rd Reg.REF_CFG_LANE n)
    if c.on Reg.REF_CFG_TIME n && (decide (n < 4) || (decide (8 ≤ n) && (decide (512 ≤ port) || c.ptpRole port == 0))) then
      badObj (objId Cls.REF n 1)
    else if c.rd Reg.REF_LIMITS_HARD_OSC n < c.rd Reg.REF_LIMITS_SOFT_OSC n ∨ c.rd Reg.REF_LIMITS_HARD_REL n < c.rd Reg.REF_LIMITS_SOFT_REL n then
      badObj (objId Cls.REF n 2)
    else none) <|>
  (if 4096 < c.rd Reg.HO_CFG_GUARD_S + c.rd Reg.HO_CFG_HO_AVG_S then badObj (objId Cls.TIME 0 0x21) else none)

/-- Whether a lane reference nominates its lane (R233): one with a rank from 1 to 15. -/
def Chip.nominates (c : Chip) (n : Nat) : Bool := decide (8 ≤ n) && c.rd Reg.REF_CFG_RANK n != 0

/-- Two references of one lane (R233). -/
def Chip.lanesTwice (c : Chip) : Failing :=
  (List.range 24).findSome? fun n =>
    if !c.nominates n then none
    else ((List.range n).find? fun m => c.nominates m && c.rd Reg.REF_CFG_LANE m == c.rd Reg.REF_CFG_LANE n).bind fun m =>
      conflict (objId Cls.REF m 1) (objId Cls.REF n 1)

/-! ### Notifications, fabric, power, the boot list -/

/-- NOTIFY_DEST elements in use name a valid key slot (R365). -/
def Chip.destFail (before after : Chip) : Failing :=
  ((List.range 8).find? fun e => after.on Reg.NOTIFY_DEST_EN 0 e && !before.on Reg.NOTIFY_DEST_EN 0 e &&
    !after.on Reg.KEY_STATE_VALID (after.rd Reg.NOTIFY_DEST_KEY_SLOT 0 e)).bind fun _ => badObj (objId Cls.DEV 0 0x54)

/-- A new pin names a legal candidate (R323). -/
def Chip.pinFail (before after : Chip) : Failing :=
  ((List.range 64).find? fun d =>
    let changed := before.rd Reg.FAB_PIN_PORT d != after.rd Reg.FAB_PIN_PORT d || !before.on Reg.FAB_PIN_PIN_EN d
    after.on Reg.FAB_PIN_PIN_EN d && changed &&
      !(match after.candidates d false none with | some (_, l) => l.contains (after.rd Reg.FAB_PIN_PORT d) | none => false)).bind fun d =>
    badObj (objId Cls.FAB d 2)

/-- TARGET changes only outside a pair (R418). -/
def Chip.targetFail (before after : Chip) : Failing :=
  if after.on Reg.TWIN_CFG_PAIR_EN && before.rd Reg.PWR_CFG_TARGET != after.rd Reg.PWR_CFG_TARGET then
    conflict (objId Cls.TWIN 0 1) (objId Cls.DEV 0 0x60)
  else none

/-- The boot list from a byte on: its records (object, first element, value), none where its syntax is wrong (R419). -/
def Chip.bootFrom (c : Chip) : Nat → Nat → Option (List ObjWrite)
  | 0, _ => none
  | n + 1, at_ =>
    let byte := fun (k : Nat) => c.rd Reg.BOOT_LIST 0 (at_ + k)
    let num := fun (k m : Nat) => (List.range m).foldl (fun v j => v * 256 + byte (k + j)) 0
    if 61440 < at_ + 4 then some []
    else
      let o := num 0 4
      let len := num 8 2
      if o = 0 then some []
      else if 61440 < at_ + 12 + len + padTo4 len ∨ num 10 2 ≠ 0 ∨ (List.range (padTo4 len)).any (fun k => byte (12 + len + k) != 0) then none
      else match findAttr (objCls o) (objInst o) (objAttr o) with
        | none => none
        | some a =>
          let first := num 4 4
          let n' := len / a.elemBytes
          let whole := decide (first = 0xFFFFFFFF)
          let fits := if whole then len == a.elemBytes * a.elems else decide (1 < a.elems) && decide (first + n' ≤ a.elems) && decide (1 ≤ n')
          if len % a.elemBytes ≠ 0 ∨ !fits ∨ !a.flds.any (fun F => F.acc == .tx) then none
          else
            let v := (List.range len).map fun k => BitVec.ofNat 8 (byte (12 + k))
            (c.bootFrom n (at_ + 12 + len + padTo4 len)).map
              (({ obj := o, elem := if whole then none else some (first, n'), value := v, mask := none } : ObjWrite) :: ·)

/-- The writes of the boot list. -/
def Chip.bootWrites (c : Chip) : Option (List ObjWrite) := c.bootFrom 5121 0

/-- R419: the list is checked at its own commit. -/
def Chip.bootFail (c : Chip) (cmds : List Instr) : Failing :=
  if wrote cmds (fun cls _ a => cls == Cls.DEV && a == 0x63) && c.bootWrites.isNone then badObj (objId Cls.DEV 0 0x63) else none

/-! ### The twin (R333, R341, R349) -/

/-- R333. -/
def Chip.pairCheck (c : Chip) (cmds : List Instr) : Failing :=
  if !c.on Reg.TWIN_CFG_PAIR_EN then none
  else
    let p := c.rd Reg.TWIN_CFG_LINK_PORT
    let m := c.rd Reg.PORT_CFG_MODE p
    if !(m == 3 || m == 4) || !c.on Reg.PORT_CFG_PMA_STAMP p || c.fabPort p ||
        (!c.on Reg.TWIN_CFG_INTERLOCK && !c.on Reg.TWIN_CFG_FENCE_ON_HB) then badObj (objId Cls.TWIN 0 1)
    else if wrote cmds fun cls i a => cls == Cls.PORT && i == p && a == 0x54 then badObj (objId Cls.PORT p 0x54)
    else none

/-- Bytes of CKPT_LIST ranges that a test picks. -/
def Chip.ckptRanges (c : Chip) (f : Nat → Bool) : Nat :=
  ((List.range 64).map fun e => if c.on Reg.CKPT_LIST_VALID 0 e && f e then 32 * c.rd Reg.CKPT_LIST_LEN 0 e else 0).sum

/-- Bytes of a snapshot of a domain (R340, R341): registers, predicates, mailbox and state blocks in both halves of its engines, ranges of CKPT_LIST, cycle
number and AXIS_FAULT, queued requests of engine-owned outputs and loops, positions and ramp states (log entry 36). -/
def Chip.snapBytes (c : Chip) (d : Nat) : Nat :=
  let es := (List.range 64).filter fun e => c.rd Reg.ENG_CFG_DOMAIN (256 + e) == d && c.on Reg.ENG_CFG_EN (256 + e)
  let outs := (List.range 32).filter fun n => c.rd Reg.EVO_CFG_OWNER (32 + n) == 2 && es.contains (c.rd Reg.EVO_CFG_OWNER_ID (32 + n))
  let loops := [1, 2, 3, 4].filter fun n => c.rd Reg.SYN_OWNER_OWNER n == 1 && es.contains (c.rd Reg.SYN_OWNER_OWNER_ID n)
  es.length * (1024 + 7 + 4 * 64) + 8 + 128 + outs.length * 256 + loops.length * (64 + 32) +
    (es.map fun e => 2 * ((progStates (c.eng e).prog.descs).map Prod.snd).sum).sum +
    c.ckptRanges fun e => c.on Reg.CKPT_LIST_SPACE 0 e || es.contains (c.rd Reg.CKPT_LIST_ENGINE 0 e)

/-- Bytes a twin link of the configuration carries in CKPT_MS at 80 % of its rate (R341). -/
def Chip.ckptRoom (c : Chip) : Nat := c.rate (c.rd Reg.TWIN_CFG_LINK_PORT) * 100 * c.rd Reg.CKPT_CFG_CKPT_MS

/-- The largest full checkpoint a configuration can produce (R341). -/
def Chip.fullBytes (c : Chip) : Nat :=
  ((List.range 7).map fun t => tblSize t * tblEntryBytes t).sum + c.ckptRanges (fun _ => true) + 64 * (1024 + 7 + 4 * 64) + 32 * 256 +
    4 * (64 + 32) + Config.configBytes

/-- R341. -/
def Chip.ckptFail (c : Chip) : Failing :=
  if !c.on Reg.TWIN_CFG_PAIR_EN then none
  else
    ((List.range 4).findSome? fun d =>
      let n := c.snapBytes d + Config.ckptPeak
      if c.ckptRoom < n then budget (objId Cls.TWIN 0 3) 2 (n - c.ckptRoom) else none) <|>
    (if c.rd Reg.CKPT_CFG_SAVE_S ≠ 0 ∧ 25165824 - 128 < c.fullBytes then budget (objId Cls.TWIN 0 3) 2 (c.fullBytes - (25165824 - 128)) else none)

/-- R349: on the active, the handover transaction of its partner (role twin, AT_TIME) leaves no launch at or after H, and the last
snapshot reaches the home unit in time. -/
def Chip.handoverFail (c : Chip) (h : Nat) : Failing :=
  let pl := c.plan
  (List.range 4).findSome? fun d =>
    if !c.domainLive d then none
    else
      let per := max 1 (c.rd Reg.CD_CFG_PERIOD d)
      let last : Int := c.boundaryFrom d (h - (per * 65536 : Nat))
      let f := c.fMax pl.prog pl.rerun d
      let late := (c.planFrames d f).findSome? fun x => match x.off with
        | some o => if (h : Int) ≤ last + (o * 65536 : Nat) then some (last + (o * 65536 : Nat) - h).toNat else none
        | none => none
      let wire := ceilDiv (c.snapBytes d * 8 * 10000) (max 1 (c.rate (c.rd Reg.TWIN_CFG_LINK_PORT)))
      let room := ((h : Int) - last).toNat * 10 / 65536
      match late with
      | some x => budget (domObj d) 0 (x / 65536 + 1)
      | none => if room < f + wire then budget (domObj d) 0 (ceilDiv (f + wire - room) 10) else none

/-! ### Gate lists and pool (R96, R122) -/

/-- The windows of the classes of a mask over one cycle of a length, the shortest of each: 0 where a class has none. -/
def GateList.shortests (g : GateList) (mask len : Nat) : List Nat :=
  ((List.range 8).filter fun k => bitOf mask k).map fun k => (g.shortest k len).getD 0

/-- R122: a list that this change makes pending, and the last cycle of the list it replaces; the shortfall is the need less the shortest of all
their windows. -/
def Chip.windowFail (after : Chip) (cmds : List Instr) (p : Nat) : Failing :=
  ((List.range 512).filter fun l => after.gateEn l && after.rd Reg.GATE_CTRL_GATE_CHECK l != 0 &&
      wrote cmds fun cls i a => cls == Cls.GATE && i == l && decide (a ≤ 6)).findSome? fun l =>
    let need := after.wireTime l (after.maxTx + 20)
    let mask := after.rd Reg.GATE_CTRL_GATE_CHECK l
    let g := after.adminList l
    let ct := (changeTime g.base g.cycle (ns16 (1000 * after.rd Reg.GATE_CTRL_SETUP_MARGIN l)) p).1
    let o := after.operList l
    let last := if !after.gateRunning l || decide (ct ≤ o.base) then []
      else
        let b := match oldBoundary o p ct with
          | some b => b - o.cycle
          | none => ct - 1 - (ct - 1 - o.base) % o.cycle
        o.shortests mask (ct - b)
    let w := (g.shortests mask g.cycle ++ last).foldl min need
    if w < need then budget (objId Cls.GATE l 1) 0 (ceilDiv (need - w) 65536) else none

/-- R96. -/
def Chip.poolFail (c : Chip) : Failing :=
  if 262144 < c.reserved + 4096 then budget (objId Cls.DEV 0 0x38) 1 (c.reserved + 4096 - 262144) else none

/-! ### Calibration (R426) -/

/-- The object that owns an item a calibration run would take: an engine, an interval unit, a nomination, a PTP role, the twin link. -/
def Chip.calOwner (c : Chip) (proc n : Nat) : Option Nat :=
  if proc = 0 then
    (if c.rd Reg.EVI_CFG_OWNER n = 0 then none
     else some (if c.rd Reg.EVI_CFG_OWNER n = 1 then objId Cls.CYC (256 + c.rd Reg.EVI_CFG_OWNER_ID n) 1
       else objId Cls.EVT (c.rd Reg.EVI_CFG_OWNER_ID n) 0x10))
  else if proc = 1 then
    (if n < 32 ∧ c.rd Reg.EVO_CFG_OWNER (32 + n) = 2 then some (objId Cls.CYC (256 + c.rd Reg.EVO_CFG_OWNER_ID (32 + n)) 1) else none)
  else if c.twinPort n then some (objId Cls.TWIN 0 1)
  else if c.rd Reg.PTP_PORT_CFG_ROLE n ≠ 0 then some (objId Cls.PORT n 0x54)
  else ((List.range 24).find? fun k => c.nominates k && (c.portLanes n).contains (c.rd Reg.REF_CFG_LANE k)).map fun k => objId Cls.REF k 1

/-- The items of a run with their procedures, its measuring input among them. -/
def calScope (cal : Nat) : List (Nat × Nat) :=
  let proc := bitsOf cal 56 8
  let first := bitsOf cal 32 16
  let last := bitsOf cal 16 16
  ((if proc = 3 then [first, last] else (List.range (last + 1 - first)).map (first + ·)).map fun n => (proc, n)) ++
    (if proc = 1 ∨ proc = 2 then [(0, bitsOf cal 48 8)] else [])

/-- The first owner among a run's scope. -/
def Chip.calTaken (c : Chip) (cal : Nat) : Option Nat := (calScope cal).findSome? fun x => c.calOwner x.1 x.2

/-- A change gives an item of the run in progress to another owner. -/
def Chip.calFail (c : Chip) : Failing :=
  match c.cal.run with
  | none => none
  | some (_, cal) => (c.calTaken cal).bind fun o => conflict o (objId Cls.CAL 0 0)

/-! ### All checks -/

/-- Ports with anything configured. -/
def Chip.portsSet (c : Chip) : List Nat :=
  ([Reg.PORT_CFG_MODE, Reg.PORT_CFG_FEC, Reg.PORT_CFG_SYNCE_TX, Reg.PORT_CFG_LPI_EN, Reg.PORT_CFG_EIDLE_EN, Reg.SCHED_CFG_PREEMPT_EN,
    Reg.FC_CFG_LOSSLESS, Reg.FC_CFG_FC_MODE, Reg.LANE_CFG_TX_PRE, Reg.LANE_CFG_TX_MAIN, Reg.LANE_CFG_TX_POST, Reg.FAB_PORT_CFG_FAB_EN].flatMap
      fun F => (c.touched F).map Prod.fst).eraseDups

/-- Ports that may hold a timing lane or a looped one, for R62: also those with PMA_STAMP set and those of the looped lanes, whatever their MODE. -/
def Chip.laneSet (c : Chip) : List Nat :=
  (c.portsSet ++ (c.touched Reg.PORT_CFG_PMA_STAMP).map Prod.fst ++ c.loops.map fun x => c.laneToPort x.1).eraseDups

/-- The checks of R381 on a change from one state to another by some commands; `p` is the instant of an AT_TIME or AT_CYCLE commit, and
`handover` tells whether the change is the partner's handover transaction. -/
def Chip.checkFail (before after : Chip) (cmds : List Instr) (p : Option Nat) (handover : Bool) : Failing :=
  (after.portsSet.findSome? after.portFail) <|> after.redFail <|> after.cntFail <|> (before.seedFail after) <|> after.refInFail <|>
  after.ivlFail <|> after.periodFail cmds <|> after.ppoFail <|> after.synFail <|> (before.synModeFail after cmds) <|> after.ckoFail <|>
  (((after.touched Reg.PTP_PORT_CFG_ROLE).map Prod.fst).findSome? after.ptpFail) <|> after.ptpInstFail <|> after.refFail <|>
  (before.destFail after) <|> (before.pinFail after) <|> (after.bootFail cmds) <|> (after.pairCheck cmds) <|>
  (after.laneSet.findSome? after.laneFail) <|> (before.pllFail after cmds) <|> (before.devTargetFail after) <|> after.ivlOwnFail <|>
  after.ckoOwnFail <|> after.lanesTwice <|> (before.targetFail after) <|> after.calFail <|>
  (after.windowFail cmds (p.getD before.tb16)) <|> after.ptpLoadFail <|> after.ckptFail <|>
  (if handover then after.handoverFail (p.getD 0) else none) <|> after.poolFail <|>
  (before.drumChange after p)

end Sys2Proof.Machine
end

