-- ==== Sys2Proof/Machine/Apply.lean ====
section
/-! DEFINITION. A change taking effect (R376, R385): the values of attributes first, then what hangs on them, then the commands staged beside
them, all at one tick. -/

namespace Sys2Proof.Machine

/-! ### Values -/

/-- The values of one OBJ_WRITE, attributes that only act apart. -/
def Chip.rawWrites (c : Chip) (ws : List ObjWrite) : Chip :=
  c.each (ws.filter fun w => !actsOnly (objCls w.obj) (objAttr w.obj)) fun w c => c.writeRaw w

/-- The hooks of the writes of one OBJ_WRITE, `old` being the block before them. -/
def Chip.hookWrites (c old : Chip) (r : Req) (ws : List ObjWrite) : Chip :=
  c.each ws fun w c =>
    match old.parseWrite w with
    | .error _ => c
    | .ok (a, i, es) => c.each es fun x c => c.writeHook old r a.cls a.attr i x.1 x.2.1 x.2.2

/-- The writes of a direct OBJ_WRITE taking effect together (R400). -/
def Chip.applyWrites (c : Chip) (r : Req) (ws : List ObjWrite) : Chip := (c.rawWrites ws).hookWrites c r ws

/-- One staged command's part in the state that a commit would leave (R381): values, armed domains, marked swaps. -/
def Chip.applyStaged (c : Chip) (i : Instr) : Chip :=
  match i with
  | .objWrite _ ws => c.rawWrites ws
  | .cycStart _ d => c.armDomain d c.tb16
  | .cycStop _ d => c.haltDomain d
  | .cycSwap _ m => c.markSwap m
  | _ => c

/-- Table entries a staged command writes, for the prepare (R382). -/
def stagedEntries : Instr → Nat
  | .tblInsert .. => 1
  | .tblDelete .. => 1
  | .tblDma _ _ _ _ n _ _ _ => n
  | _ => 0

/-- The block with a transaction's table changes prepared; or the status of the first that fails (R136, R152). -/
def Chip.preparedTables (c : Chip) (id slot : Nat) (l : List Instr) : Except Status Chip :=
  Chip.prepAll id slot l (c.prepBase l)

/-! ### What hangs on values (R385) -/

/-- Elements of a field that differ between two states. -/
def Chip.changed (old c : Chip) (F : Fld) : List (Nat × Nat) :=
  ((old.touched F ++ c.touched F).eraseDups).filter fun x => old.rd F x.1 x.2 != c.rd F x.1 x.2

/-- Objects in which any of some fields differs. -/
def Chip.changedObjs (old c : Chip) (l : List Fld) : List Nat := (l.flatMap fun F => (old.changed c F).map Prod.fst).eraseDups

/-- Elements in which any of some fields differs. -/
def Chip.changedElems (old c : Chip) (l : List Fld) : List (Nat × Nat) := (l.flatMap fun F => old.changed c F).eraseDups

/-- LINK_UP of TWIN_STATUS. A link that comes up is greeted, and an active sends a full checkpoint; with a lost one nothing more is sent and
a standby has no full checkpoint (R339, R348). -/
def Chip.showTwinLink (c : Chip) : Chip :=
  let up := c.on Reg.TWIN_CFG_PAIR_EN && c.linkUp (c.rd Reg.TWIN_CFG_LINK_PORT)
  let c1 := c.flag Reg.TWIN_STATUS_LINK_UP up
  if up = c.on Reg.TWIN_STATUS_LINK_UP then c1
  else if up then ({ c1 with twin := { c1.twin with fullDue := c1.rd Reg.TWIN_STATUS_STATE == 5, sent := [] } }).twinSend 0 0x0002 0 []
  else
    { c1 with twin := { c1.twin with
      full := false, fullOn := false, same := false, outq := [], part := [], imgPart := [], coming := [] } }

/-- A port whose configuration changed: mode, PLL, low power, timing, flow control, preemption (R53, R56, R61 to R66, R101, R123). -/
def Chip.portCommit (old c : Chip) (p : Nat) : Chip :=
  let differ := fun (F : Fld) => old.rd F p != c.rd F p
  let c1 :=
    if [Reg.PORT_CFG_MODE, Reg.PORT_CFG_FEC, Reg.PORT_CFG_PLL_SEL].any differ then
      let c0 := if differ Reg.PORT_CFG_MODE then c.each (old.portLanes p) fun l c =>
          if l = p ∨ SMap.get c.loops l = 0 then c else c.setLoop p 0 [l] else c
      c0.modeChange p (differ Reg.PORT_CFG_MODE) (old.portLanes p)
    else if c.rd Reg.PORT_CFG_MODE p ≠ 0 ∧ old.pllOf p ≠ c.pllOf p then
      ((c.lanesOff (c.portLanes p)).portDown p).updPort p fun s => { s with retrain := true }
    else c
  let c2 := if differ Reg.PORT_CFG_EIDLE_EN then c1.updPort p fun s => { s with lldpDue := true } else c1
  let s := c2.portSt p
  let c2' := if s.lpRx ≠ 0 ∧ c2.timingPort p then (c2.updPort p fun s => { s with lpRx := 0 }).lpShow p else c2
  let c3 := if ((s.lpTx = 4 ∨ s.lpTx = 7) ∧ !c2.on Reg.PORT_CFG_EIDLE_EN p) ∨ (s.lpTx = 1 ∧ !c2.on Reg.PORT_CFG_LPI_EN p) ∨
      (s.lpTx ≠ 0 ∧ c2.timingPort p) then c2'.wakePort p else c2'
  let c4 := if [Reg.SCHED_CFG_PREEMPT_EN, Reg.SCHED_CFG_VERIFY_DIS].any differ then c3.preemptReset p else c3
  let c5 := if old.fabPort p && !c4.fabPort p then c4.setFabLink p 0 0
    else if !old.fabPort p && c4.fabPort p && c4.linkUp p then c4.fabProbe p else c4
  (((c5.showTiming p).showEidle p).flowUpdate p).idleCheck p

/-- An engine whose EN was written (R267, R275, R418): 1 clears a stop and lets the registers of an engine that was off read 0; 0 turns an engine of no running domain off. -/
def Chip.engCommit (c : Chip) (e : Nat) : Chip :=
  let st := c.engState e
  if c.on Reg.ENG_CFG_EN (256 + e) then
    let c := if st = 0 then c.updEng e fun x => { x with fresh := true } else c
    if c.rd Reg.PWR_STATUS_STATE = 2 ∧ (st = 0 ∨ st = 6) then c.setEngState e 1 else c
  else if (c.eng e).dom.isSome ∧ (List.range 4).any (fun d => (c.eng e).dom == some d && c.cdState d != 0) then c
  else ((c.updEng e fun x => { x with dom := none, wait := none, fresh := true }).setEngState e 0).emptyMbx e

/-- The gate lists that a list of commands writes: ports, then 1,024 + stream gate (R120, R149). -/
def writtenLists (c : Chip) (cmds : List Instr) : List Nat :=
  (cmds.flatMap fun i => match i with
    | .objWrite _ ws => ws.flatMap fun w =>
      let a := objAttr w.obj
      if objCls w.obj = Cls.GATE ∧ a ≤ 6 then [objInst w.obj]
      else if objCls w.obj = Cls.TBL ∧ objInst w.obj = 3 ∧ 0x20 ≤ a ∧ a ≤ 0x24 then
        match c.parseWrite w with
        | .ok (_, _, es) => (es.map fun x => 1024 + (if a = 0x20 then x.1 / 64 else x.1)).eraseDups
        | .error _ => []
      else []
    | _ => []).eraseDups

/-- Timing: servo, synthesisers, outputs, references, phase monitors (R165, R191, R210 to R222, R241, R242). -/
def Chip.timingCommit (old c : Chip) : Chip :=
  let c1 := if [Reg.SERVO_CTRL_SERVO_MODE, Reg.SERVO_CTRL_MAX_ADJ].any (fun F => old.rd F != c.rd F) then
      let c := Chip.servoModeHook old c
      if old.rd Reg.SERVO_CTRL_SERVO_MODE = c.rd Reg.SERVO_CTRL_SERVO_MODE then c
      else { c with car := { c.car with adjX := ofAdj (c.rdS Reg.ADJ), servoI := ofAdj (c.rdS Reg.ADJ), adjAt := c.now } }
    else c
  let syn := fun (a : AttrDef) => old.changedObjs c a.flds
  let c2 := c1.each (syn Attr.SYN_CFG) fun d c => Chip.synHook old c d 1
  let c3 := c2.each (syn Attr.SYN_NOM ++ syn Attr.SYN_NOM0) fun d c => Chip.synHook old c d 2
  let c4 := c3.each (syn Attr.SYN_LIMITS) fun d c => Chip.synHook old c d 3
  let c5 := c4.each (syn Attr.SYN_RAMP_CTRL) fun d c => Chip.rampHook old c d
  let c6 := c5.each ((syn Attr.CKO_CFG ++ syn Attr.CKO_DIV ++ syn Attr.CKO_ALIGN ++ syn Attr.CKO_DELAY).eraseDups) fun i c => Chip.ckoHook old c (i - 16)
  let c7 := c6.each (syn Attr.PHM_CFG) fun m c => c.phmRestart m
  let c8 := c7.each ((syn Attr.RPHM_CFG ++ syn Attr.REF_IN_CFG).eraseDups) fun n c => c.phmRestart (512 + n)
  let c9 := c8.each (syn Attr.REF_CFG) fun n c => Chip.refHook old c n
  if syn Attr.HO_CFG = [] then c9 else (c9.showReady 0).showReady 1

/-- Events, intervals and pulse outputs (R194 to R204, R224), and link asymmetry (R179). -/
def Chip.eventCommit (old c : Chip) : Chip :=
  let c1 := c.each (old.changedObjs c Attr.EVO_CFG.flds) fun i c => Chip.evoOwnerHook old c i
  let c2 := c1.each (old.changedObjs c Attr.IVL_CFG.flds) fun u c => { c with ivls := SMap.set c.ivls u {} }
  let c3 := c2.each (old.changedObjs c ([Reg.PPO_CFG_EN, Reg.PPO_CFG_VALID_ONLY] ++ Attr.PPO_PULSE.flds ++ Attr.PPO_OFFSET.flds ++ Attr.PPO_DELAY.flds ++
      Attr.EVO_PER_CFG.flds ++ Attr.EVO_PER_START.flds ++ Attr.EVO_DELAY.flds)) fun i c => c.periodicFrom (i - 32)
  let c3 := c3.each (old.changedObjs c Attr.PPO_CFG.flds) fun i c => c.showPps (i - 64)
  c3.each (old.changedObjs c Attr.ASYM_CFG.flds) fun p c => c.asymHook p

/-- Counters whose configuration changed start from 0 (R436). -/
def Chip.counterCommit (old c : Chip) : Chip :=
  c.each (old.changedElems c Attr.CNT_CFG.flds) fun x c => (c.wr Reg.CNT_VALUE_VALUE 0 x.1 x.2).flag Reg.CNT_VALUE_WRAPPED false x.1 x.2

/-- Cycle domains and engines (R254, R257, R275). -/
def Chip.drumCommit (old c : Chip) (cmds : List Instr) (p : Nat) : Chip :=
  let c1 := c.each (old.changedObjs c (Reg.CD_CFG_PERIOD :: Attr.CD_START.flds)) fun d c => c.domainHook d p
  let c2 := c1.each ((List.range 64).filter fun e => wroteField cmds Reg.ENG_CFG_EN (256 + e)) fun e c => c.engCommit e
  let c3 := c2.each ((List.range 4).filter fun d => c2.cdState d == 0) fun d c => c.releaseEngines d
  if old.changedObjs c Attr.ENG_CFG.flds = [] then c3 else c3.showSwaps

/-- The fabric (R314, R319 to R323): its ports are brought up to date by `portCommit`, the routes here. -/
def Chip.fabCommit (old c : Chip) : Chip :=
  let ports := if old.fabOn = c.fabOn then [] else ((old.touched Reg.FAB_PORT_CFG_FAB_EN ++ c.touched Reg.FAB_PORT_CFG_FAB_EN).map Prod.fst).eraseDups
  let c0 := if !old.fabOn && c.fabOn then c.takeId else c
  let c1 := c0.each ports fun p c => Chip.portCommit old c p
  if old.changedObjs c (Attr.FAB_CFG.flds ++ Attr.FAB_PORT_CFG.flds ++ Attr.FAB_PIN.flds) = [] then c1 else c1.fabRecompute

/-- BOOT_LIST written (R419), and calibrated attributes written by a host (R432). -/
def Chip.markCommit (c : Chip) (slot : Nat) (cmds : List Instr) : Chip :=
  let c1 := if wrote cmds fun cls _ a => cls == Cls.DEV && a == 0x63 then c.flag Reg.BOOT_CFG_LIST_VALID true else c
  if slot ≠ 255 ∧ wrote cmds (fun cls _ a => calibrated cls a) then c1.flag Reg.CAL_STATUS_OVERRIDE true else c1

/-- The ports whose lanes a changed REF_CFG nominates or nominated (R61). -/
def Chip.nominatedPorts (old c : Chip) : List Nat :=
  (old.changedObjs c Attr.REF_CFG.flds).flatMap fun n => [old.laneToPort (old.rd Reg.REF_CFG_LANE n), c.laneToPort (c.rd Reg.REF_CFG_LANE n)]

/-- Everything that hangs on the values of a commit with commit point P. A queue whose RED profile changed starts its average anew (R103). -/
def Chip.commitHook (old c : Chip) (slot : Nat) (cmds : List Instr) (p : Nat) : Chip :=
  let c1 := Chip.timingCommit old c
  let c1 := c1.each ((List.range 24).filter fun n => wrote cmds fun cls i a => cls == Cls.REF && i == n && a == 0x01) fun n c => c.refWritten n
  let c2 := Chip.eventCommit old c1
  let c3 := Chip.counterCommit old c2
  let ports := ((old.portsSet ++ c3.portsSet ++ [Reg.IN_BUF_HEADROOM, Reg.IN_BUF_RSV_IN, Reg.SCHED_CFG_VERIFY_DIS].flatMap fun F =>
    (old.changed c F).map Prod.fst) ++ old.nominatedPorts c ++ [old.rd Reg.TWIN_CFG_LINK_PORT, c3.rd Reg.TWIN_CFG_LINK_PORT]).eraseDups.filter (· < 512)
  let c3 := c3.each (old.changed c Reg.Q_BUF_RED_PROF) fun x c => { c with path := { c.path with redAvg := SMap.set c.path.redAvg x.1 0 } }
  let c4 := c3.each ports fun p c => Chip.portCommit old c p
  let c5 := if [Reg.MGT_CFG_MODE, Reg.MGT_CFG_FEC, Reg.MGT_CFG_PLL_SEL].any (fun F => old.rd F 512 != c4.rd F 512) then
      c4.modeChange 512 (old.rd Reg.MGT_CFG_MODE 512 != c4.rd Reg.MGT_CFG_MODE 512) [] else c4
  let c6 := Chip.fabCommit old c5
  let c7 := c6.each (writtenLists old cmds) fun l c => c.gateCommit l p
  let c8 := Chip.drumCommit old c7 cmds p
  (c8.showTwinLink.ptpRefresh).markCommit slot cmds

/-- The staged commands that are no OBJ_WRITE, at the commit point p: flush, TIME_INCR, domains, swaps. Table changes and TIME_STEP have
their own place. -/
def Chip.actStaged (p : Nat) (c : Chip) (i : Instr) : Chip :=
  match i with
  | .queueFlush _ all n => (c.flushNow all n).2.2
  | .timeIncr _ a d b => c.applyIncr a d b
  | .cycStart _ d => c.armDomain d p
  | .cycStop _ d => c.haltDomain d
  | .cycSwap _ m => c.markSwap m
  | _ => c

/-- All changes of a transaction but its table entries and steps, at its commit point. -/
def Chip.takeEffect (c : Chip) (t : Txn) : Chip :=
  let c1 := t.staged.foldl (fun c i => match i with | .objWrite _ ws => c.rawWrites ws | _ => c) c
  let c2 := t.staged.foldl (fun c' i => match i with | .objWrite r ws => c'.hookWrites c r ws | _ => c') c1
  t.staged.foldl (Chip.actStaged (if t.late then c.tb16 else t.p)) (Chip.commitHook c c2 t.req.slot t.staged t.p)

/-- The first boundary of a domain at or after an instant of the timebase (2^-16 ns). -/
def Chip.boundaryAfter (c : Chip) (d : Nat) (t : Nat) : Nat := (c.boundaryFrom d t).toNat

/-- Whether a configuration checkpoint to the standby is awaited before a commit or a rollback goes on (R340, R382, R388). -/
def Chip.paired (c : Chip) : Bool := c.pairOn

end Sys2Proof.Machine
end

