-- ==== Sys2Proof/Machine/Command.lean ====
section
/-! DEFINITION. The frame every command packet runs in: rights (R360), staging (R376 to R378), scopes and waiting (R364, R380), the
checks a change meets (R381), the record it leaves (R389), the reply (R352, R398). -/

namespace Sys2Proof.Machine

/-- The opcode of a packet command (18_command_reference.md); 0 for every other. -/
def opOf : Instr → Nat
  | .nop .. => 0x0001 | .identify .. => 0x0002
  | .objRead .. => 0x0101 | .objWrite .. => 0x0102 | .objReadBulk .. => 0x0103
  | .txnBegin .. => 0x0201 | .txnCommit .. => 0x0202 | .txnRollback .. => 0x0203 | .txnStatus .. => 0x0204
  | .tblInsert .. => 0x0301 | .tblDelete .. => 0x0302 | .tblLookup .. => 0x0303 | .tblDma .. => 0x0304
  | .tblBarrier .. => 0x0305 | .queueFlush .. => 0x0306
  | .timeGet .. => 0x0401 | .timeStep .. => 0x0402 | .timeIncr .. => 0x0403 | .refForce .. => 0x0404 | .jumpAccept .. => 0x0405
  | .cycLoad .. => 0x0501 | .cycStart .. => 0x0502 | .cycStop .. => 0x0503 | .cycSwap .. => 0x0504
  | .cntSnapshot .. => 0x0601 | .cntRead .. => 0x0602
  | .jrnRead .. => 0x0701 | .jrnMark .. => 0x0702
  | .twinStatus .. => 0x0801 | .twinPromote .. => 0x0802 | .twinDemote .. => 0x0803 | .twinCheckpoint .. => 0x0804
  | .twinHeartbeat .. => 0x0805
  | .fabStatus .. => 0x0901 | .fabAssign .. => 0x0902 | .fabRoute .. => 0x0903
  | .fwStage .. => 0x0A01 | .fwWrite .. => 0x0A02 | .fwActivate .. => 0x0A03 | .fwStatus .. => 0x0A04
  | .calRun .. => 0x0B01 | .calCommit .. => 0x0B02 | .lullCtrl .. => 0x0B03 | .loopback .. => 0x0B04 | .diagCapture .. => 0x0B05
  | .keyInstall .. => 0x0C01 | .keyRetire .. => 0x0C02 | .roleMap .. => 0x0C03
  | _ => 0

/-- The rights table of R360, by opcode. -/
def roleMay (op : Nat) (r : Role) : Bool :=
  match r with
  | .owner => op != 0x0804 && op != 0x0805
  | .engineer =>
    [0x0001, 0x0002, 0x0101, 0x0102, 0x0103, 0x0201, 0x0202, 0x0203, 0x0204, 0x0301, 0x0302, 0x0303, 0x0304, 0x0305, 0x0306,
     0x0401, 0x0402, 0x0403, 0x0404, 0x0501, 0x0502, 0x0503, 0x0504, 0x0601, 0x0602, 0x0701, 0x0702, 0x0801, 0x0901, 0x0903,
     0x0A04, 0x0B01, 0x0B03, 0x0B04, 0x0B05].contains op
  | .operator =>
    [0x0001, 0x0002, 0x0101, 0x0102, 0x0103, 0x0204, 0x0303, 0x0306, 0x0401, 0x0502, 0x0503, 0x0601, 0x0602, 0x0701, 0x0702,
     0x0801, 0x0901, 0x0903, 0x0A04].contains op
  | .observer =>
    [0x0001, 0x0002, 0x0101, 0x0103, 0x0204, 0x0303, 0x0401, 0x0602, 0x0701, 0x0801, 0x0901, 0x0903, 0x0A04].contains op
  | .twin =>
    [0x0001, 0x0002, 0x0101, 0x0102, 0x0103, 0x0201, 0x0202, 0x0203, 0x0204, 0x0303, 0x0401, 0x0602, 0x0701, 0x0801, 0x0804,
     0x0901, 0x0903, 0x0A04].contains op
  | .referee =>
    [0x0001, 0x0002, 0x0101, 0x0103, 0x0204, 0x0303, 0x0401, 0x0602, 0x0701, 0x0801, 0x0802, 0x0803, 0x0805, 0x0901, 0x0903,
     0x0A04].contains op

/-- Whether a role may write an attribute (R360). -/
def roleMayWrite (r : Req) (a : AttrDef) (es : List (Nat × Nat × Nat)) : Bool :=
  match r.role with
  | .owner => true
  | .engineer => true
  | .operator => a.allW1c || (a.cls == Cls.EVT && a.attr == 0x33) || (a.cls == Cls.SYN && a.attr == 0x10)
  | .twin => r.txn != 0 && r.via == .twinLink && touchesTx a es
  | _ => false

/-- Whether a role may write to an object at all (R360): an operator and a twin only to attributes that their rights name. -/
def Chip.objectMay (c : Chip) (r : Req) (o : Nat) : Bool :=
  r.role == .owner || r.role == .engineer ||
    match c.resolve o with
    | none => false
    | some (a, _) => match r.role with
      | .operator => roleMayWrite r a []
      | .twin => r.txn != 0 && r.via == .twinLink && a.flds.any fun F => F.acc == .tx
      | _ => false

/-- The rights of R360 over a command and its objects. A write that is malformed is judged by its object. -/
def Chip.mayRun (c : Chip) (r : Req) (i : Instr) : Bool :=
  roleMay (opOf i) r.role &&
  match i with
  | .objWrite _ ws => ws.all fun w => match c.parseWrite w with | .ok (a, _, es) => roleMayWrite r a es | .error _ => c.objectMay r w.obj
  | .objRead _ l => l.all fun o => objCls o.obj != Cls.SEC || r.role == .owner
  | .objReadBulk _ o _ => objCls o != Cls.SEC || r.role == .owner
  | .twinPromote _ _ (some (true, _)) => r.role == .owner
  | _ => true

/-- What a command body gives: the block after it, the status, the reply's TLVs, and what the journal records of it (objects
written and change content; none: no record). -/
structure Res where
  chip : Chip
  status : Status := .ok
  tlvs : List Tlv := []
  record : Option (Nat × Bytes) := none
  force : Bool := false

/-- A refusal: nothing changes. -/
def Chip.refuse (c : Chip) (st : Status) (l : List Tlv := []) : Res := { chip := c, status := st, tlvs := l }

/-- The block after a body, its record written (R389). -/
def Res.done (x : Res) (r : Req) (op : Nat) : Chip :=
  match x.record with
  | none => x.chip
  | some (n, content) => x.chip.jrnCmd r 1 op n 0 content x.force

/-- FAIL_OBJ of the first unit that fits no packet, where it is one of an object (R352). -/
def failUnit (room : Nat) (l : List Tlv) : List Tlv :=
  match (divideTlvs room l).find? fun g => decide (room < payloadSize g) with
  | some (o :: _) => if o.typ = 1 then [tlvFailObj o.val] else []
  | _ => []

/-- The outcome replied to (R352): a reply with a unit that fits no packet becomes BAD_PARAM without effect. -/
def Chip.finish (before : Chip) (r : Req) (op : Nat) (x : Res) : Chip :=
  let room := x.chip.replyRoom r.via
  if fitsRoom room x.tlvs then (x.done r op).reply r op x.status x.tlvs else before.reply r op .badParam (failUnit room x.tlvs)

/-- The open transaction a request names, if it is of the sending slot (R375). -/
def Chip.txnOf (c : Chip) (r : Req) : Option Txn := c.txns.find? fun t => t.id == r.txn && t.req.slot == r.slot

/-- A command that is never staged (R376): it runs at once. -/
def Chip.direct (c : Chip) (r : Req) (i : Instr) (body : Chip → Res) : Chip :=
  if !c.mayRun r i then c.reply r (opOf i) .noAccess
  else if r.txn ≠ 0 then
    if (c.txnOf r).isSome then c.reply r (opOf i) .badParam else c.reply r (opOf i) .txnNone
  else c.finish r (opOf i) (body c)

/-! ### Scopes -/

/-- The scope of an object (R380). -/
def scopeOf (o : Nat) : Scope :=
  let cls := objCls o
  { cls := cls, inst := objInst o,
    unit := if cls = Cls.TBL then 64 else if cls = Cls.DEV ∨ cls = Cls.TIME then objAttr o else 0 }

/-- The 64 segments of a table (R133, R380). -/
def tableScopes (t : Nat) : List Scope := (List.range 64).map fun u => { cls := Cls.TBL, inst := t, unit := u }

def segScope (t i : Nat) : Scope := { cls := Cls.TBL, inst := t, unit := segOf t i }

/-- The scopes a command acts on (R380). -/
def scopesOf : Instr → List Scope
  | .objWrite _ ws => ws.map fun w => scopeOf w.obj
  | .tblInsert _ t _ idx => if t ≤ 1 then tableScopes t else [segScope t (idx.getD 0)]
  | .tblDelete _ t (.key _) => if t ≤ 2 then tableScopes t else []
  | .tblDelete _ t (.index i) => [segScope t i]
  | .tblDma _ t _ first n true _ _ => (List.range 64).filterMap fun u =>
      if segOf t first ≤ u ∧ u ≤ segOf t (first + n - 1) then some { cls := Cls.TBL, inst := t, unit := u } else none
  | .queueFlush _ true p => (List.range 8).map fun k => { cls := Cls.QUEUE, inst := p * 8 + k, unit := 0 }
  | .queueFlush _ false q => [{ cls := Cls.QUEUE, inst := q, unit := 0 }]
  | .timeStep .. => [{ cls := Cls.TIME, inst := 0, unit := 0x08 }]
  | .timeIncr .. => [{ cls := Cls.TIME, inst := 0, unit := 0x03 }]
  | .cycStart _ d => [{ cls := Cls.CYC, inst := d, unit := 0 }]
  | .cycStop _ d => [{ cls := Cls.CYC, inst := d, unit := 0 }]
  | .cycSwap _ m => (List.range 64).filterMap fun e => if bitOf m e then some { cls := Cls.CYC, inst := 256 + e, unit := 0 } else none
  | _ => []

/-- Ascending order of class, instance, unit (R380). -/
def Scope.rank (s : Scope) : Nat := (s.cls * 65536 + s.inst) * 256 + s.unit

/-- A scope inserted in ascending order, once. -/
def insertScope (s : Scope) : List Scope → List Scope
  | [] => [s]
  | x :: l => if s.rank < x.rank then s :: x :: l else if s.rank = x.rank then x :: l else x :: insertScope s l

/-- All scopes of a list of commands, in ascending order. -/
def allScopes (l : List Instr) : List Scope := (l.flatMap scopesOf).foldl (fun a s => insertScope s a) []

/-- The open transaction, other than `me`, that holds a scope. -/
def Chip.scopeHolder (c : Chip) (me : Nat) (s : Scope) : Option Txn := c.txns.find? fun t => t.id != me && t.held.contains s

/-- The first scope of a list that another transaction holds. -/
def Chip.firstBlocked (c : Chip) (me : Nat) (l : List Scope) : Option (Scope × Nat) :=
  l.findSome? fun s => (c.scopeHolder me s).map fun t => (s, t.id)

/-- Parked requests admitted at most (R364). -/
def parkedLimit : Nat := 16

/-- Whether 16 requests wait already, whatever they wait for (R364). -/
def Chip.parkedFull (c : Chip) : Bool := decide (parkedLimit ≤ c.parked.length + c.tbl.barriers.length)

/-- LOCK_WAIT_MS in units of 10 ps. -/
def Chip.lockWait (c : Chip) : Nat := unitsMs (c.rd Reg.TXN_CFG_LOCK_WAIT_MS)

/-! ### Later scheduled transactions (R381) -/

/-- The block with a transaction's changes applied. -/
def Chip.applyTxn (c : Chip) (t : Txn) : Chip := t.staged.foldl Chip.applyStaged c

/-- Scheduled transactions in the order of their commit points. -/
def Chip.scheduled (c : Chip) : List Txn :=
  let l := c.txns.filter fun t => t.state == .scheduled
  l.foldl (fun a t => (a.filter fun x => x.p < t.p || (x.p == t.p && x.order < t.order)) ++ t ::
    (a.filter fun x => !(x.p < t.p || (x.p == t.p && x.order < t.order)))) []

/-- Whether a transaction is the partner's handover (R349): it comes from the twin role, AT_TIME, while the unit is ACTIVE. One taken over
with a checkpoint (SEQUENCE 0) is not. -/
def Chip.isHandover (c : Chip) (t : Txn) : Bool :=
  t.req.role == .twin && t.req.seq != 0 && t.mode == 1 && c.rd Reg.TWIN_STATUS_STATE == 5

/-- The first scheduled transaction after instant p whose checks would fail on a base configuration. -/
def laterFails : Chip → List Txn → Option Nat
  | _, [] => none
  | c, t :: l =>
    let c' := c.applyTxn t
    match c.checkFail c' t.staged (some t.p) (c.isHandover t) with
    | some _ => some t.id
    | none => laterFails c' l

/-- The base a transaction with commit point p is checked on: the operational state and every scheduled one before it. -/
def Chip.baseAt (c : Chip) (p : Nat) : Chip := (c.scheduled.filter fun t => t.p ≤ p).foldl Chip.applyTxn c

/-- The reply detail that names a scheduled transaction (R399): its first scope. -/
def Chip.laterTlv (c : Chip) (id : Nat) : List Tlv :=
  match c.txns.find? (fun t => t.id == id) with
  | some t => match t.held with | s :: _ => [tlvScope s id] | [] => [tlvScope default id]
  | none => []

/-- A change made now by a command is refused when a check or a later scheduled transaction would fail (R381). -/
def Chip.changeFail (before after : Chip) (i : Instr) : Option (Status × List Tlv) :=
  match before.checkFail after [i] none false with
  | some f => some f
  | none => match laterFails after after.scheduled with
    | some id => some (.resourceConflict, before.laterTlv id)
    | none => none

/-! ### Staging -/

/-- Bytes a staged command counts beyond its 32 (R378). -/
def Chip.stageBytes (c : Chip) : Instr → Nat
  | .objWrite _ ws => (ws.map c.writeSize).sum
  | .tblInsert _ t _ _ => tblEntryBytes t
  | .tblDelete .. => 0
  | .tblDma _ t _ _ n _ st _ => n * (if st then 4 else tblEntryBytes t)
  | _ => 0

/-- The staging limit of R378. -/
def stageLimit : Nat := 1048576

/-- One field of a transaction rewritten. -/
def Chip.updTxn (c : Chip) (id : Nat) (f : Txn → Txn) : Chip :=
  { c with txns := c.txns.map fun t => if t.id = id then f t else t }

/-- A command staged into its open transaction (R376 to R378). `fail` is the check made at staging. -/
def Chip.stage (c : Chip) (r : Req) (i : Instr) (fail : Option (Status × List Tlv)) (l : List Tlv) : Chip :=
  match c.txnOf r with
  | none => c.reply r (opOf i) .txnNone
  | some t =>
    if t.state ≠ .opened then c.reply r (opOf i) .busy
    else
      let c1 := c.updTxn t.id fun t => { t with lastNamed := c.now }
      match fail with
      | some (st, d) => c1.reply r (opOf i) st d
      | none =>
        let n := t.bytes + 32 + c.stageBytes i
        if stageLimit < n then c1.reply r (opOf i) .busy [tlvStaged t.bytes]
        else (c1.updTxn t.id fun t => { t with staged := t.staged ++ [i], bytes := n }).reply r (opOf i) .ok l

/-- The objects a command addresses, for DOMAIN_OFF (R337). -/
def targetObjs : Instr → List Nat
  | .objWrite _ ws => ws.map fun w => w.obj
  | .objRead _ l => l.map fun o => o.obj
  | .tblInsert _ t _ _ => [objId Cls.TBL t 0]
  | .tblDelete _ t _ => [objId Cls.TBL t 0]
  | .tblLookup _ t _ => [objId Cls.TBL t 0]
  | .tblDma _ t _ _ _ _ _ _ => [objId Cls.TBL t 0]
  | .queueFlush _ true p => [objId Cls.QUEUE (if p = 512 then 4096 else p * 8) 0]
  | .queueFlush _ false q => [objId Cls.QUEUE q 0]
  | .cycLoad .. => [objId Cls.CYC 256 0]
  | .cycStart _ d => [objId Cls.CYC d 0]
  | .cycStop _ d => [objId Cls.CYC d 0]
  | .cycSwap .. => [objId Cls.CYC 256 0]
  | .loopback _ w => [objId Cls.PORT (bitsOf w 0 10) 0]
  | _ => []

/-- Whether a command addresses an object of a powered-down block. -/
def Chip.domainOff (c : Chip) (i : Instr) : Bool := (targetObjs i).any c.poweredOff

/-- Commands of R389 that leave a record, and so are answered BUSY under COMMIT_HOLD (R393, R398). -/
def journalled (op : Nat) : Bool :=
  [0x0102, 0x0301, 0x0302, 0x0304, 0x0306, 0x0402, 0x0404, 0x0405, 0x0501, 0x0502, 0x0503, 0x0702, 0x0802, 0x0803, 0x0902, 0x0A03,
   0x0B02, 0x0B03, 0x0B04, 0x0C01, 0x0C02, 0x0C03].contains op

/-- Whether an OBJ_WRITE is never journalled (R389): EVO_REQ, SYN_VREQ, HPI_OFFSET alone. -/
def unjournalled (ws : List ObjWrite) : Bool :=
  ws.all fun w => (objCls w.obj == Cls.EVT && objAttr w.obj == 0x33) || (objCls w.obj == Cls.SYN && objAttr w.obj == 0x10) ||
    (objCls w.obj == Cls.TIME && objAttr w.obj == 0x0B)

/-- Whether a command leaves a record, and so is answered BUSY under COMMIT_HOLD (R389, R393). -/
def leavesRecord (i : Instr) : Bool :=
  journalled (opOf i) && match i with | .objWrite _ ws => !unjournalled ws | _ => true

/-- A request parked until what it waits for comes (R364); a seventeenth is answered BUSY. -/
def Chip.park (c : Chip) (r : Req) (i : Instr) (deadline tag : Nat) : Chip :=
  if c.parkedFull then c.reply r (opOf i) .busy
  else { c with parked := c.parked ++ [{ cmd := i, deadline := deadline, tag := tag }] }

/-- Whether a check's failure is one of the request's form, which R354 tests before execution. -/
def badForm : Option (Status × List Tlv) → Option (List Tlv)
  | some (.badParam, l) => some l
  | _ => none

/-- Whether a request has entries to move through an arbiter that is frozen (R43): it holds its work (R47). -/
def Chip.requestHeld (c : Chip) (i : Instr) : Bool :=
  match i with
  | .tblInsert _ t _ _ => (tblArbs t).any c.arbFrozen
  | .tblDelete _ t _ => (tblArbs t).any c.arbFrozen
  | .tblDma _ t _ _ _ _ _ _ => (tblArbs t).any c.arbFrozen
  | _ => false

/-- The tag of a parked request that a freeze holds. -/
def heldTag : Nat := 2 ^ 33

/-- A change outside a transaction, its rights already checked: its form, COMMIT_HOLD, powered-down blocks, scopes, the body,
the checks of R381 on what it leaves, its record and reply. -/
def Chip.runChange (c : Chip) (r : Req) (i : Instr) (fail : Option (Status × List Tlv)) (body : Chip → Res) : Chip :=
  if (badForm fail).isSome then c.reply r (opOf i) .badParam ((badForm fail).getD [])
  else if c.on Reg.JRN_STATUS_COMMIT_HOLD && leavesRecord i then c.reply r (opOf i) .busy
  else if c.domainOff i then c.reply r (opOf i) .domainOff
  else match fail with
    | some (st, l) => c.reply r (opOf i) st l
    | none => match c.firstBlocked 0 (allScopes [i]) with
      | some _ => c.park r i (c.now + c.lockWait) 0
      | none =>
        if c.requestHeld i then c.park r i 0 heldTag
        else
        let x := body c
        if x.status = .ok then
          match c.changeFail x.chip i with
          | some (st, l) => c.reply r (opOf i) st l
          | none => c.finish r (opOf i) x
        else c.finish r (opOf i) x

/-- A command that changes state and may be staged (R376): staged when it names a transaction, run otherwise. `fail` is the
check of its fields, `stagedTlvs` the reply to its staging. -/
def Chip.change (c : Chip) (r : Req) (i : Instr) (fail : Option (Status × List Tlv)) (body : Chip → Res)
    (stagedTlvs : List Tlv := []) : Chip :=
  if !c.mayRun r i then c.reply r (opOf i) .noAccess
  else if r.txn ≠ 0 then c.stage r i fail stagedTlvs
  else c.runChange r i fail body

/-- A command that changes state and is never staged (R376). -/
def Chip.changeDirect (c : Chip) (r : Req) (i : Instr) (fail : Option (Status × List Tlv)) (body : Chip → Res) : Chip :=
  if !c.mayRun r i then c.reply r (opOf i) .noAccess
  else if r.txn ≠ 0 then
    if (c.txnOf r).isSome then c.reply r (opOf i) .badParam else c.reply r (opOf i) .txnNone
  else c.runChange r i fail body

end Sys2Proof.Machine
end

