-- ==== Sys2Proof/Machine/TwinSend.lean ====
section
/-! DEFINITION. Configuration checkpoints (R340, R382, R388): what the active sends of a transaction, and what waits for its delivery. The
form of the records is the model's (log entry 35). -/

namespace Sys2Proof.Machine

/-- The TLVs of a staged command, as its request carries them (R396). -/
def stagedTlvs : Instr → List Tlv
  | .objWrite _ ws => ws.flatMap fun w =>
      [tlvObj w.obj] ++ (match w.elem with | some (f, n) => [tlvElem f n] | none => []) ++
      [tlvValue w.value.length (natOfBytes w.value) 0] ++
      (match w.mask with | some m => [{ typ := 0x04, len := m.length, val := natOfBytes m }] | none => [])
  | .tblInsert _ t e idx =>
      [{ typ := 0x0C, len := 4, val := t }] ++ (match idx with | some i => [tlvIndex i] | none => []) ++
      [tlvEntry (if t = 1 ∧ 2 ^ 256 ≤ e then 64 else tblEntryBytes t) e]
  | .tblDelete _ t (.index i) => [{ typ := 0x0C, len := 4, val := t }, tlvIndex i]
  | .tblDelete _ t (.key k) => [{ typ := 0x0C, len := 4, val := t }, { typ := 0x0F, len := k.length, val := natOfBytes k }]
  | .tblDma _ t host first n w st d =>
      [{ typ := 0x0C, len := 4, val := t },
       { typ := 0x10, len := 20, val := ((host * 2 ^ 32 + first) * 2 ^ 32 + n) * 2 ^ 32 + b2n w * 2 ^ 31 + b2n st * 2 ^ 30 }] ++
      (match d with | some d => [tlvData d.length (natOfBytes d) 0] | none => [])
  | .queueFlush _ all n => [{ typ := 0x12, len := 4, val := b2n all * 2 ^ 31 + n }]
  | .timeStep _ (.offset o) => [tlvOffset o]
  | .timeStep _ (.time t) => [tlvTime t]
  | .timeIncr _ a d b => [{ typ := 0x09, len := 12, val := (encS 32 a * 2 ^ 32 + d) * 2 ^ 32 + encS 32 b }]
  | .cycStart _ d => [{ typ := 0x16, len := 4, val := d.val }]
  | .cycStop _ d => [{ typ := 0x16, len := 4, val := d.val }]
  | .cycSwap _ m => [{ typ := 0x17, len := 8, val := m }]
  | _ => []

/-- Bytes as records: each holds up to 960 of them, their number first, then words of 64 bytes. -/
def blobRecs (kind a : Nat) (b : Bytes) : List CkRec :=
  (List.range (ceilDiv b.length 960)).map fun k =>
    let p := sliceBytes b (960 * k) (min 960 (b.length - 960 * k))
    { kind := kind, a := a, b := k
      nums := (p.length : Int) :: (List.range (ceilDiv p.length 64)).map fun j => (natOfBytes (sliceBytes p (64 * j) (min 64 (p.length - 64 * j))) : Int) }

/-- The bytes of a blob's records, in order. -/
def blobOf (l : List CkRec) : Bytes :=
  l.flatMap fun r =>
    match r.nums with
    | [] => []
    | n :: ws => ws.zipIdx.flatMap fun x => bytesOfNat (min 64 (n.toNat - 64 * x.2)) x.1.toNat

/-- The records of a transaction: its header (mode, ALLOW_LATE, domain, TIME, slot, role, number of staged commands), then each staged command as
its opcode, its payload's length and its payload. -/
def txnRecs (t : Txn) : List CkRec :=
  { kind := 51, a := t.id, b := 0
    nums := [t.mode, b2n t.allowLate, t.domain, t.time, t.req.slot, t.req.role.code, t.staged.length] } ::
  blobRecs 50 t.id (t.staged.flatMap fun i =>
    let b := payloadBytes (stagedTlvs i)
    bytesOfNat 2 (opOf i) ++ bytesOfNat 4 b.length ++ b)

/-- The commit point of a transaction. -/
def pointRec (t : Txn) : CkRec := { kind := 52, a := t.id, b := 0, nums := [t.p, b2n t.atTrigger, b2n t.late, t.lateBy] }

/-- Configuration records sent, and what waits for them. -/
def Chip.configSend (c : Chip) (l : List CkRec) (w : Option TwinWait) : Chip :=
  if !c.pairOn then c
  else
    let c1 := c.ckSend 0 l
    match w with
    | none => c1
    | some w => { c1 with twin := { c1.twin with waits := c1.twin.waits ++ [(c1.twin.ckSeq, w)] } }

/-- Whether a transaction still waits for the standby to have its staged writes (R382). -/
def Chip.twinHolds (c : Chip) (id : Nat) : Bool := c.pairOn && c.twin.waits.any fun w => w.2 == .prepare id

/-- A transaction that ends without committing, after it was announced, is called back (R388). -/
def Chip.configDrop (c : Chip) (id : Nat) : Chip :=
  match c.txns.find? (fun t => t.id == id) with
  | some t => if t.checked then c.configSend [{ kind := 53, a := id, b := 0, nums := [] }] none else c
  | none => c

end Sys2Proof.Machine
end

