-- ==== Sys2Proof/Machine/CmdSession.lean ====
section
/-! DEFINITION. Session, object, time, counter, journal and security commands (18_command_reference.md; R359, R404, R437). -/

namespace Sys2Proof.Machine

/-! ### Session and objects -/

def Chip.doNop (r : Req) (c : Chip) : Chip := c.direct r (.nop r) fun c => { chip := c }

/-- The identity block of R397. -/
def Chip.identBlock (c : Chip) : Nat :=
  let code := natOfBytes (sliceBytes (asciiBytes (if c.orderCG then "TK5120-CG".toList else "TK5120-IG".toList)) 0 12)
  Lay.IDENT_ORDER_CODE.put code + Lay.IDENT_STEPPING.put 0xB0 + Lay.IDENT_TWIN_STATE.put (c.rd Reg.TWIN_STATUS_STATE) +
  Lay.IDENT_UNIT.put (c.rd Reg.TWIN_CFG_UNIT) + Lay.IDENT_ID_VALID.put (c.rd Reg.FAB_STATUS_ID_VALID) +
  Lay.IDENT_DEV_ID.put (c.rd Reg.FAB_STATUS_DEV_ID) + Lay.IDENT_TB_VALID.put (c.rd Reg.TIME_STATUS_TB_VALID) +
  Lay.IDENT_SERIAL.put c.serial + Lay.IDENT_DEV_MAC.put (c.rd Reg.DEV_MAC) + Lay.IDENT_FW_MGMT.put (c.fwVersion 0) +
  Lay.IDENT_FW_SERDES.put (c.fwVersion 1) + Lay.IDENT_FW_CARILLON.put (c.fwVersion 2) + Lay.IDENT_FW_DRUMLINE.put (c.fwVersion 3)

def Chip.doIdentify (r : Req) (c : Chip) : Chip :=
  c.direct r (.identify r) fun c => { chip := c, tlvs := [tlvIdent c.identBlock] }

/-- Objects read in turn, TX fields as `v` holds them; none when one of them is undefined (R10). -/
def Chip.readAll (c : Chip) (objs : List ObjSel) (v : Chip := c) : Option (List Tlv × Chip) :=
  match objs with
  | [] => some ([], c)
  | o :: l =>
    match c.readObj o v with
    | none => none
    | some (t, c1) =>
      match c1.readAll l v with
      | none => none
      | some (t', c2) => some (t ++ t', c2)

/-- The block whose TX fields a reader in an open transaction sees (R7): the staged writes in turn, to the objects as they are defined
now. -/
def Chip.stagedView (c : Chip) (r : Req) : Chip :=
  match c.txnOf r with
  | none => c
  | some t => t.staged.foldl (fun v i => match i with
      | .objWrite _ ws => v.each ws fun w v => match c.parseWrite w with
        | .error _ => v
        | .ok (a, i, es) => v.each es fun x v => v.writeElem a i x.1 x.2.1 x.2.2
      | _ => v) c

/-- OBJ_READ (R7, R400). A read that names the sender's open transaction shows the TX values staged in it. -/
def Chip.doObjRead (r : Req) (objs : List ObjSel) (c : Chip) : Chip :=
  let i := Instr.objRead r objs
  if !c.mayRun r i then c.reply r (opOf i) .noAccess
  else if 64 < objs.length ∨ objs = [] ∨ (c.readAll objs).isNone then c.reply r (opOf i) .badParam
  else if c.domainOff i then c.reply r (opOf i) .domainOff
  else if r.txn ≠ 0 then
    match c.txnOf r with
    | none => c.reply r (opOf i) .txnNone
    | some t =>
      let c1 := c.updTxn t.id fun t => { t with lastNamed := c.now }
      match c1.readAll objs (c1.stagedView r) with
      | some (l, c2) => c1.finish r (opOf i) { chip := c2, tlvs := l }
      | none => c1.reply r (opOf i) .badParam
  else
    match c.readAll objs with
    | none => c.reply r (opOf i) .badParam
    | some (l, c1) => c.finish r (opOf i) { chip := c1, tlvs := l }

/-- Every attribute of an instance that is not wholly WO, in ascending order (R400). -/
def bulkAttrs (cls inst : Nat) : List Nat :=
  (List.range 255).filter fun a =>
    match findAttr cls inst a with
    | none => false
    | some d => d.flds.any fun F => F.acc != .wo && F.acc != .raw

/-- The objects an OBJ_READ_BULK names (R400): one attribute, or all, of a range of instances; those that exist and are powered. -/
def Chip.bulkObjs (c : Chip) (obj last : Nat) : List ObjSel :=
  let cls := objCls obj
  let first := objInst obj
  ((List.range (last + 1 - first)).map (first + ·)).flatMap fun n =>
    (if objAttr obj = 255 then bulkAttrs cls n
     else match findAttr cls n (objAttr obj) with
       | some d => if d.flds.all fun F => F.acc == .wo || F.acc == .raw then [] else [objAttr obj]
       | none => []).filterMap fun a =>
      let o := objId cls n a
      if (c.resolve o).isSome && !c.poweredOff o then some { obj := o, elem := none : ObjSel } else none

/-- Whether an attribute number is defined for a class (R10); 0xFF names all of them. -/
def attrDefined (cls a : Nat) : Bool := a == 255 || attrTable.any fun d => d.cls == cls && d.attr == a

/-- OBJ_READ_BULK (R400). An attribute that the class does not have is refused (R10); undefined instances are skipped. -/
def Chip.doObjReadBulk (r : Req) (obj : Nat) (last : Option Nat) (c : Chip) : Chip :=
  let i := Instr.objReadBulk r obj last
  if !c.mayRun r i then c.reply r (opOf i) .noAccess
  else if r.txn ≠ 0 then
    if (c.txnOf r).isSome then c.reply r (opOf i) .badParam else c.reply r (opOf i) .txnNone
  else
    let cls := objCls obj
    let l := last.getD (objInst obj)
    let objs := c.bulkObjs obj l
    if cls = 0 ∨ 20 < cls ∨ attrDefined cls (objAttr obj) = false ∨ 4096 < objs.length ∨ l < objInst obj then c.reply r (opOf i) .badParam
    else match c.readAll objs with
      | none => c.reply r (opOf i) .badParam
      | some (t, c1) => c.finish r (opOf i) { chip := c1, tlvs := t }

/-- The first failure among the writes of an OBJ_WRITE (R400): form, rights of its chapter, TX outside a transaction. -/
def Chip.writesFail (c : Chip) (r : Req) (ws : List ObjWrite) : Option (Status × List Tlv) :=
  if 64 < ws.length ∨ ws = [] then some (.badParam, [])
  else ws.findSome? fun w =>
    match c.parseWrite w with
    | .error f => some f
    | .ok (a, i, es) =>
      if r.txn = 0 ∧ touchesTx a es then some (.txnNone, [tlvFailObj w.obj])
      else if r.txn ≠ 0 ∧ a.directOnly then some (.badParam, [tlvFailObj w.obj])
      else es.findSome? fun x => c.writeRefused r a.cls a.attr i x.1 x.2.1 x.2.2

/-- The change content of writes (R392): object ID and value as sent. -/
def writesContent (ws : List ObjWrite) : Bytes := ws.flatMap fun w => bytesOfNat 4 w.obj ++ w.value

/-- The counters as another state has them: what a refused request counts stays (R201, R217). -/
def Chip.keepCounts (c x : Chip) : Chip :=
  let c1 := c.each (Chip.changed c x Reg.CNT_VALUE_VALUE) fun k c => c.wr Reg.CNT_VALUE_VALUE (x.rd Reg.CNT_VALUE_VALUE k.1 k.2) k.1 k.2
  c1.each (Chip.changed c x Reg.CNT_VALUE_WRAPPED) fun k c => c.wr Reg.CNT_VALUE_WRAPPED (x.rd Reg.CNT_VALUE_WRAPPED k.1 k.2) k.1 k.2

/-- A write that acts (R168, R199, R201, R217): HPI_OFFSET, EVO_REQ, SYN_VREQ; OPT_RAW needs its module and is no part of a packet write
that the model runs here. -/
def Chip.actWrite (c : Chip) (w : ObjWrite) : Status × List Tlv × Chip :=
  let v := natOfBytes w.value &&& (match w.mask with | none => natOfBytes w.value | some m => natOfBytes m)
  let i := objInst w.obj
  if objCls w.obj = Cls.TIME then
    if c.rd Reg.SERVO_CTRL_SERVO_MODE ≠ 2 then
      (.resourceConflict, [tlvClaimant (objId Cls.TIME 0 4) 0xFFFFFFFF, tlvClaimant (objId Cls.TIME 0 0x0B) 0xFFFFFFFF], c)
    else (.ok, [], c.hpiWrite (signed 64 v))
  else if objCls w.obj = Cls.EVT then
    c.evoHost i (bitsOf v Reg.EVO_REQ_TIME.lo 96) (bitsOf v Reg.EVO_REQ_ACTION.lo Reg.EVO_REQ_ACTION.width)
      (bitsOf v Reg.EVO_REQ_WIDTH.lo Reg.EVO_REQ_WIDTH.width)
  else if objCls w.obj = Cls.SYN then c.velHost i v
  else (.ok, [], c)

/-- The acting writes of a command, in order; the first that fails gives the status and keeps only what it counts. -/
def Chip.actWrites (c start : Chip) : List ObjWrite → Status × List Tlv × Chip
  | [] => (.ok, [], c)
  | w :: l =>
    match c.actWrite w with
    | (.ok, _, c1) => c1.actWrites start l
    | (st, d, c1) => (st, d, start.keepCounts c1)

/-- OBJ_WRITE (R400). -/
def Chip.doObjWrite (r : Req) (ws : List ObjWrite) (c : Chip) : Chip :=
  c.change r (.objWrite r ws) (c.writesFail r ws) fun c =>
    match (c.applyWrites r ws).actWrites c (ws.filter fun w => actsOnly (objCls w.obj) (objAttr w.obj)) with
    | (.ok, _, c1) => { chip := c1, record := if unjournalled ws then none else some (ws.length, writesContent ws) }
    | (st, d, c1) => { chip := c1, status := st, tlvs := d }

/-! ### Time -/

/-- TIME_GET (R164): the value and TICKS of the first tick after it. -/
def Chip.doTimeGet (r : Req) (c : Chip) : Chip :=
  c.direct r (.timeGet r) fun c =>
    { chip := c,
      tlvs := [tlvTime (time96 (c.nextTb / 2 ^ 24)), tlvTicks (c.rd Reg.TICKS + 1),
        tlvTbState (c.attrNow Attr.TIME_STATUS 0 0) (c.attrNow Attr.SEL_STATUS 0 0)] }

/-- Whether a 96-bit time is well formed (R11). -/
def timeOk (t : Nat) : Bool := decide (t < 2 ^ 96) && decide (bitsOf t 16 32 < nsPerS)

/-- The offset a TIME_STEP asks for (R169). -/
def Chip.stepOffset (c : Chip) : StepArg → Int
  | .offset o => o
  | .time t => (timeOf96 t : Int) - (c.tb16 : Int)

/-- A step asked for by a request (R169, R170): refused below second 0, refused by the guard, or put in line for its tick. -/
def Chip.stepNow (c : Chip) (r : Req) (offset : Int) : Res :=
  if c.stepNegative offset then c.refuse .badParam
  else if c.jumpRefused offset then
    let (id, c1) := c.refuseJump 1 0 offset
    { chip := c1, status := .noAccess, tlvs := [tlvJump id] }
  else { chip := c.queueStep { offset := offset, source := 1, req := some r }, tlvs := [tlvOffset offset] }

/-- A second TIME_STEP or TIME_INCR of a transaction is refused (R376). -/
def Chip.second (c : Chip) (r : Req) (same : Instr → Bool) : Bool :=
  r.txn != 0 && match c.txnOf r with | some t => t.staged.any same | none => false

def isStep : Instr → Bool
  | .timeStep .. => true
  | _ => false

def isIncr : Instr → Bool
  | .timeIncr .. => true
  | _ => false

/-- TIME_STEP (R169, R170). -/
def Chip.doTimeStep (r : Req) (a : StepArg) (c : Chip) : Chip :=
  let bad := (match a with | .time t => !timeOk t | .offset o => decide (2 ^ 63 ≤ o) || decide (o < -(2 ^ 63 : Int))) || c.second r isStep
  c.change r (.timeStep r a) (if bad then some (.badParam, []) else none) fun c => c.stepNow r (c.stepOffset a)

/-- The claimants of a TIME_INCR or HPI_OFFSET against the owner of ADJ (R165, R168, R399). -/
def adjClaim : List Tlv := [tlvClaimant (objId Cls.TIME 0 4) 0xFFFFFFFF, tlvClaimant (objId Cls.TIME 0 3) 0xFFFFFFFF]

/-- TIME_INCR (R165, R166). Inside a transaction SERVO_MODE is looked at when it commits (R464). -/
def Chip.doTimeIncr (r : Req) (adjNew : Int) (duration : Nat) (adjAfter : Int) (c : Chip) : Chip :=
  let m : Int := ppbUnits (c.rd Reg.SERVO_CTRL_MAX_ADJ)
  let bad := decide (m < adjNew.natAbs) || decide (m < adjAfter.natAbs) || decide (2 ^ 32 ≤ duration) || c.second r isIncr
  let fail : Option (Status × List Tlv) :=
    if bad then some (.badParam, [])
    else if r.txn = 0 ∧ c.rd Reg.SERVO_CTRL_SERVO_MODE ≠ 1 then some (.resourceConflict, adjClaim)
    else none
  c.change r (.timeIncr r adjNew duration adjAfter) fail fun c => { chip := c.applyIncr adjNew duration adjAfter }

/-- No jump is pending (R171). -/
def Chip.clearJump (c : Chip) : Chip :=
  (((((c.wr Reg.PENDING_JUMP_JUMP_ID 0).wr Reg.PENDING_JUMP_SOURCE 0).wr Reg.PENDING_JUMP_REF 0).wr Reg.PENDING_JUMP_OFFSET 0).wr
    Reg.PENDING_JUMP_REFUSED_NS 0).flag Reg.TIME_STATUS_TIME_JUMP_REFUSED false

/-- JUMP_ACCEPT (R171). Of an accepted jump the step writes the record at its tick (R169; log entry 70). -/
def Chip.doJumpAccept (r : Req) (id action : Nat) (c : Chip) : Chip :=
  let fail : Option (Status × List Tlv) :=
    if id = 0 ∨ id ≠ c.rd Reg.PENDING_JUMP_JUMP_ID ∨ 1 < action then some (.badParam, []) else none
  c.changeDirect r (.jumpAccept r id action) fail fun c =>
    let src := c.rd Reg.PENDING_JUMP_SOURCE
    let off := if src = 4 then c.refOffset16 (c.rd Reg.PENDING_JUMP_REF) else c.rdS Reg.PENDING_JUMP_OFFSET
    let took := fun (c : Chip) => if src = 4 then c.jumpTaken (c.rd Reg.PENDING_JUMP_REF) (action == 0) else c
    if action = 1 then { chip := (took c).clearJump, record := some (0, bytesOfNat 4 (id * 65536 + 256)) }
    else if c.stepNegative off then c.refuse .badParam
    else { chip := (took c).clearJump.queueStep { offset := off, source := src, req := some r, jump := true }, tlvs := [tlvOffset off] }

/-- One whole value written to an attribute by a command of its own. -/
def Chip.writeOne (r : Req) (obj bytes v : Nat) (c : Chip) : Chip :=
  c.doObjWrite r [{ obj := obj, elem := none, value := bytesOfNat bytes v, mask := none }]

/-- HPI_OFFSET (R168): an OBJ_WRITE of it. -/
def Chip.doHpiOffset (r : Req) (theta : Int) (c : Chip) : Chip := c.writeOne r (objId Cls.TIME 0 0x0B) 8 (encS 64 theta)

/-- EVO_SET_LOW, EVO_SET_HIGH, EVO_TOGGLE and EVO_PULSE (R199, R201): an OBJ_WRITE of EVO_REQ of an event output with ACTION 0 to 3, the
time in 96 bits and the pulse's width in ns. -/
def Chip.doEvoReq (r : Req) (n time act width : Nat) (c : Chip) : Chip :=
  c.writeOne r (objId Cls.EVT (32 + n) 0x33) 16 (time * 2 ^ 32 + act % 4 * 2 ^ 30 + width % 2 ^ 30)

/-- SYN_VREQ (R217): an OBJ_WRITE of it with TARGET, SLEW and START_NS. -/
def Chip.doSynVreq (r : Req) (d v : Nat) (c : Chip) : Chip := c.writeOne r (objId Cls.SYN d 0x10) 16 v

/-- EVI_FIFO and IVL_SAMPLES (R195, R197): an OBJ_READ that returns and removes records. -/
def Chip.doFifoRead (r : Req) (obj : Nat) (c : Chip) : Chip := c.doObjRead r [{ obj := obj, elem := none }]

/-! ### Counters -/

/-- CNT_SNAPSHOT (R437): taken at the first tick after it; the reply carries that tick. -/
def Chip.doCntSnapshot (r : Req) (c : Chip) : Chip :=
  c.direct r (.cntSnapshot r) fun c =>
    let t := c.nextTb / 2 ^ 24
    { chip := c.snapshot t, tlvs := [tlvTime (time96 t)] }

/-- The counters a CNT_SEL selects, as CNT_SEL and CNT_VAL (R396, R437). -/
def Chip.cntRead1 (c : Chip) (sel : Nat) : List Tlv :=
  let g := bitsOf sel 8 7
  let es := (List.range 8).filter fun e => bitOf sel e
  let v := fun e => if bitOf sel 31 then c.rd Reg.CNT_SNAP_VALUE g e else c.rd Reg.CNT_VALUE_VALUE g e
  [tlvCntSel sel, tlvCntVal (8 * es.length) (joinElems 8 (es.map v))]

def Chip.doCntRead (r : Req) (sels : List Nat) (c : Chip) : Chip :=
  c.direct r (.cntRead r sels) fun c =>
    if 72 < sels.length ∨ sels = [] ∨ sels.any (fun s => decide (71 < bitsOf s 8 7) || (s &&& 0x7FFF8000) != 0) then c.refuse .badParam
    else { chip := c, tlvs := sels.flatMap c.cntRead1 }

/-! ### Journal -/

/-- The records of the ring and the flash in SEQ order from a given SEQ, at most n (R394). -/
def Chip.jrnFrom (c : Chip) (fromSeq n : Nat) : List JRec :=
  let ring := c.jrn.ring.reverse
  let oldest := (ring.head?.map fun j => j.seq).getD (c.rd Reg.JRN_STATUS_NEXT_SEQ)
  let flash := c.jrn.flash.reverse.filter fun j => j.seq < oldest
  ((flash ++ ring).filter fun j => fromSeq ≤ j.seq).take n

/-- The oldest SEQ held (R394). -/
def Chip.jrnOldest (c : Chip) : Nat :=
  match c.jrn.flash.reverse ++ c.jrn.ring.reverse with
  | [] => c.rd Reg.JRN_STATUS_NEXT_SEQ
  | j :: l => l.foldl (fun a x => min a x.seq) j.seq

/-- JRN_READ (R394). -/
def Chip.doJrnRead (r : Req) (fromSeq count : Nat) (c : Chip) : Chip :=
  c.direct r (.jrnRead r fromSeq count) fun c =>
    if count = 0 ∨ 128 < count then c.refuse .badParam
    else
      let l := c.jrnFrom fromSeq count
      { chip := c, tlvs := [tlvJseq c.jrnOldest, tlvRecords l.length (natOfBytes (l.flatMap JRec.bytes))] }

/-- JRN_MARK (R394): a KIND 2 record whose digest covers the blob; the reply carries its SEQ. -/
def Chip.doJrnMark (r : Req) (value : Nat) (blob : Bytes) (c : Chip) : Chip :=
  c.direct r (.jrnMark r value blob) fun c =>
    if c.on Reg.JRN_STATUS_COMMIT_HOLD then c.refuse .busy
    else if 256 < blob.length ∨ 2 ^ 32 ≤ value then c.refuse .badParam
    else { chip := c.jrnCmd r 2 0x0702 0 value blob, tlvs := [tlvJseq (c.rd Reg.JRN_STATUS_NEXT_SEQ)] }

/-! ### Transactions ended by the device, and keys -/

/-- A transaction leaves the open ones; its outcome is kept (R387). -/
def Chip.endTxn (c : Chip) (t : Txn) (st : TxnState) : Chip :=
  { c with
    txns := c.txns.filter fun x => x.id != t.id
    ended := ({ id := t.id, slot := t.req.slot, state := st, status := t.lastStatus, bytes := t.bytes, p := t.p : TxnEnd } :: c.ended).take 16 }

/-- The parked TXN_COMMIT of a transaction is answered, under the addresses of `cfg` (R362), and leaves (R401). -/
def Chip.answerParked (c : Chip) (id : Nat) (st : Status) (l : List Tlv) (cfg : Option Chip := none) : Chip :=
  match c.parked.find? (fun p => p.tag == id) with
  | none => c
  | some p =>
    let c1 := { c with parked := c.parked.filter fun x => x.tag != id }
    match p.cmd with
    | .txnCommit r .. => c1.reply r 0x0202 st l (cfg := some (cfg.getD c))
    | _ => c1

/-- What waited for the standby goes on when a checkpoint has been received (R388). -/
def Chip.answerWait (c : Chip) (w : TwinWait) : Chip :=
  match w with
  | .prepare _ => c
  | .answer id l => c.answerParked id .ok l
  | .rollback r => c.reply r 0x0203 .ok

/-- Without a pair nothing waits for a standby. -/
def Chip.settleWaits (c : Chip) : Chip :=
  if c.pairOn then c else { c with twin := { c.twin with waits := [] } }.each c.twin.waits fun w c => c.answerWait w.2

/-- A transaction rolled back by the device (R379): cause 0 idle, 1 slot, 2 restart, 3 unit; notified and journalled.
Where the unit leaves ACTIVE its partner keeps what is scheduled (R388). -/
def Chip.rollbackByDevice (c : Chip) (id cause : Nat) : Chip :=
  match c.txns.find? (fun t => t.id == id) with
  | none => c
  | some t =>
    let c1 := (((if cause = 3 then c else c.configDrop t.id).undoPrepare t.id).endTxn t .rolledBackByDevice).answerParked id .txnNone []
    (c1.notify Nt.TXN_ROLLED_BACK Cls.DEV 0 0 (some (id, cause))).jrnEvent Nt.TXN_ROLLED_BACK 0

/-- All open transactions of a slot, or of every slot. -/
def Chip.rollbackAll (c : Chip) (slot : Option Nat) (cause : Nat) : Chip :=
  c.each ((c.txns.filter fun t => match slot with | none => true | some s => t.req.slot == s).map fun t => t.id) fun id c =>
    c.rollbackByDevice id cause

/-- Whether a role and a transport mask fit together (R358): a twin slot admits the twin link only, no other slot admits it. -/
def keyRoleOk (role transports : Nat) : Bool :=
  decide (1 ≤ role) && decide (role ≤ 6) && decide (transports < 32) &&
  (if role = 5 then transports == 1 else !bitOf transports 0)

/-- Whether a slot is a valid owner slot. -/
def Chip.ownerSlot (c : Chip) (s : Nat) : Bool := c.on Reg.KEY_STATE_VALID s && c.rd Reg.KEY_STATE_ROLE s == 4

/-- Whether some valid owner slot exists, `except` apart. -/
def Chip.ownerLeft (c : Chip) (except : Option Nat) : Bool :=
  (List.range 32).any fun s => some s != except && c.ownerSlot s

/-- Role and transports of a slot written. -/
def Chip.setRole (c : Chip) (s role transports : Nat) : Chip :=
  (c.wr Reg.KEY_STATE_ROLE role s).wr Reg.KEY_STATE_TRANSPORTS transports s

/-- The outcome of a security command, answered under the key the sender had (R404). -/
def Chip.finishKey (before : Chip) (r : Req) (op : Nat) (x : Res) : Chip :=
  (x.done r op).replyWith (before.slotKey r.slot) r op x.status 0 x.tlvs

/-- The frame of the three security commands: rights, no transaction, COMMIT_HOLD. -/
def Chip.keyCommand (c : Chip) (r : Req) (i : Instr) (body : Chip → Res) : Chip :=
  if !c.mayRun r i then c.reply r (opOf i) .noAccess
  else if r.txn ≠ 0 then
    if (c.txnOf r).isSome then c.reply r (opOf i) .badParam else c.reply r (opOf i) .txnNone
  else if c.on Reg.JRN_STATUS_COMMIT_HOLD then c.reply r (opOf i) .busy
  else c.finishKey r (opOf i) (body c)

/-- The change content of a security command: the object and the TLV's first bytes. -/
def keyContent (slot role transports : Nat) : Bytes :=
  bytesOfNat 4 (objId Cls.SEC slot 1) ++ bytesOfNat 1 slot ++ bytesOfNat 1 role ++ bytesOfNat 1 transports ++ bytesOfNat 1 0

/-- KEY_INSTALL (R358, R359, R404): the key unwrapped under the sender's key, or as sent while no owner key exists. -/
def Chip.doKeyInstall (r : Req) (slot role transports : Nat) (key : Bytes) (c : Chip) : Chip :=
  c.keyCommand r (.keyInstall r slot role transports key) fun c =>
    let k : Option Nat :=
      if r.slot = 255 then (if key.length = 32 ∧ role = 4 then some (natOfBytes key) else none)
      else if key.length = 40 then aesUnwrap (SMap.get c.keys r.slot) (natOfBytes key) else none
    if 31 < slot ∨ !keyRoleOk role transports then c.refuse .badParam
    else match k with
      | none => c.refuse .badParam
      | some k =>
        let c1 := (({ c with keys := SMap.set c.keys slot k }.flag Reg.KEY_STATE_VALID true slot).wr Reg.KEY_STATE_LAST_SEQ 0 slot).setRole
          slot role transports
        { chip := c1, record := some (1, keyContent slot role transports) }

/-- KEY_RETIRE (R358): the slot is empty, its transactions are rolled back. -/
def Chip.doKeyRetire (r : Req) (slot role transports : Nat) (c : Chip) : Chip :=
  c.keyCommand r (.keyRetire r slot role transports) fun c =>
    if 31 < slot then c.refuse .badParam
    else if !c.ownerLeft (some slot) then c.refuse .roleState
    else
      let c1 := ({ c with keys := SMap.set c.keys slot 0 }.flag Reg.KEY_STATE_VALID false slot).setRole slot 0 0
      { chip := c1.rollbackAll (some slot) 1, record := some (1, keyContent slot role transports) }

/-- ROLE_MAP (R358, R404): role and transports only; the slot's transactions are rolled back. -/
def Chip.doRoleMap (r : Req) (slot role transports : Nat) (c : Chip) : Chip :=
  c.keyCommand r (.roleMap r slot role transports) fun c =>
    if 31 < slot ∨ !keyRoleOk role transports ∨ !c.on Reg.KEY_STATE_VALID slot then c.refuse .badParam
    else if role ≠ 4 ∧ !c.ownerLeft (some slot) then c.refuse .roleState
    else
      { chip := (c.setRole slot role transports).rollbackAll (some slot) 1, record := some (1, keyContent slot role transports) }

end Sys2Proof.Machine
end

