-- ==== Sys2Proof/Machine/Power.lean ====
section
/-! DEFINITION. Power states (R337, R418) and the twin state machine (R331 to R336, R339, R343, R346): what powers down and comes back, gating,
fencing, the claim, standby and active. -/

namespace Sys2Proof.Machine

/-! ### Power down and up (R337, R418) -/

/-- Ports of the line side that have any state: the twin link apart where it stays powered. -/
def Chip.busyPorts (c : Chip) (keepLink : Bool) : List Nat :=
  (((c.touched Reg.PORT_STATUS_LINK_UP).map Prod.fst ++ c.path.ports.map Prod.fst).eraseDups).filter fun p =>
    decide (p < 512) && !(keepLink && c.twinPort p)

/-- A frame of the line side dropped whole: every target released, its cells returned. -/
def Chip.discardFrame (c : Chip) (id : Nat) : Chip :=
  match c.frameOf id with
  | none => c
  | some f =>
    let c1 := c.updFrame id fun f => { f with stage := 2, res := if f.res = 0 then 2 else f.res, counts := [], learn := false }
    (c1.each (List.range f.tgts.length) fun k c => c.dropTgt id k).settle id

/-- The ports that stay powered: MGT, and the twin link in cold standby. -/
def Chip.staysUp (c : Chip) (keepLink : Bool) (p : Nat) : Bool := p == 512 || p == 1000 || (keepLink && c.twinPort p)

/-- Drumline powered down: registers, cycle memory, mailboxes and working state are lost, images stay (R418). -/
def Chip.drumOff (c : Chip) : Chip :=
  let c1 := c.each (c.drum.eng.map Prod.fst) fun e c =>
    ((c.updEng e fun x => { prog := x.prog, next := x.next, loaded := x.loaded, regionB := x.regionB, fresh := true, mem := x.mem.filter fun w => w.1 < 0x8000 }).setEngState e 0).emptyMbx e
  let c2 := c1.each (List.range 4) fun d c => if c.cdState d = 0 then c else c.setCdState d 0
  { c2 with drum := { c2.drum with cyc := [], tags := [], dom := [], scat := [] } }

/-- The tables powered down: learned entries, histories and meters are lost; entries written by command stay (R418). -/
def Chip.tablesOff (c : Chip) : Chip :=
  let c1 := c.each ((c.entries 0 0).filter fun x => Lay.EM_TYPE.get x.2 == 1) fun x c => c.emWrite x.1 0
  { c1 with tbl := { c1.tbl with learnQ := [], learnParked := [], learnHeld := [], meters := [], rcov := [], locks := [] } }

/-- The outputs at a change of the power state: event and pulse outputs and the clock outputs rest, or may act again (R225, R337). -/
def Chip.restOutputs (c : Chip) : Chip :=
  let c1 := c.each (List.range 32) fun n c => if c.outsOff then c.evoIdle n else c.periodicFrom n
  let c2 := c1.each (List.range 8) fun m c => if c.outsOff then c.showPps m else c.periodicFrom (32 + m)
  c2.each (List.range 8) fun o c => c.showCko o

/-- The blocks that SHELF (`to` 0) or cold standby (1) does not power lose what is not kept (R337, R418). -/
def Chip.powerOff (dest_ : Nat) (c : Chip) : Chip :=
  let link := decide (dest_ = 1)
  let lose := c.path.frames.filter fun f =>
    !(c.staysUp link f.port && f.tgts.all fun t => decide (8000 ≤ t.queue) || c.staysUp link t.port)
  let c1 := c.each (lose.map fun f => f.id) fun id c => c.discardFrame id
  let c2 := c1.each (c.busyPorts link) fun p c => (c.portDown p).updPort p fun _ => {}
  let c3 := c2.each (c2.touched Reg.CNT_VALUE_VALUE) fun x c => (c.wr Reg.CNT_VALUE_VALUE 0 x.1 x.2).flag Reg.CNT_VALUE_WRAPPED false x.1 x.2
  let c4 : Chip := { c3.tablesOff.drumOff with arbs := [] }
  let c5 := (c4.wr Reg.PWR_STATUS_STATE dest_).restOutputs
  if dest_ = 0 then (((c5.become 0 0 31).become 1 0 31).setForced 0 false).setForced 1 false else c5

/-- The blocks powered again with what the management domain kept: programs start from their init records, and domains that a
transaction started meanwhile are armed (R275, R418). -/
def Chip.powerUp (c : Chip) : Chip :=
  let c1 := c.each (c.drum.eng.map Prod.fst) fun e c => (c.applyInits e (c.eng e).prog.inits).showImages e
  let c2 := (c1.each (List.range 64) fun e c => if c.on Reg.ENG_CFG_EN (256 + e) then c.setEngState e 1 else c).wr Reg.PWR_STATUS_STATE 2
  let c2 := c2.restOutputs
  if c.on Reg.TWIN_CFG_PAIR_EN then c2
  else c2.each (List.range 4) fun d c => if c.domainLive d then c.armDomain d c.tb16 else c

/-- Whether the blocks may be powered: no trip (R455), and images 1 to 3 valid (R412). -/
def Chip.mayPower (c : Chip) : Bool := !c.on Reg.THERM_STATUS_TRIP && [1, 2, 3].all fun t => (SMap.get c.fw.flash t).err == 0

/-- The change to SHELF starts (R418): ports stop starting frames, waiting frames are flushed, domains stop as by CYC_STOP. -/
def Chip.shelve (c : Chip) : Chip :=
  let c1 := c.each (c.busyPorts false) fun p c => (c.flushPort p).2.2
  let c2 := c1.each (List.range 4) fun d c => c.haltDomain d
  { c2.wr Reg.PWR_STATUS_STATE 3 with pwr := { c2.pwr with offAt := c.now + unitsMs 10 } }

/-- The end of a change to SHELF, within 10 ms (R418). -/
def Chip.shelfDue (c : Chip) : Chip := if c.rd Reg.PWR_STATUS_STATE = 3 ∧ c.pwr.offAt ≤ c.now then c.powerOff 0 else c

/-- The power state that TARGET asks for with PAIR_EN = 0 (R418, R412, R455). -/
def Chip.followTarget (c : Chip) : Chip :=
  let st := c.rd Reg.PWR_STATUS_STATE
  if c.rd Reg.PWR_CFG_TARGET = 1 then
    if st = 2 then c
    else if !c.mayPower then (if st = 3 ∨ st = 0 then c else c.powerOff 0)
    else if st = 3 then (c.powerOff 0).powerUp else c.powerUp
  else if st = 2 then c.shelve else if st = 1 then c.powerOff 0 else c

/-! ### Gate, hold, fence (R334 to R336, R343) -/

def Chip.twinState (c : Chip) : Nat := c.rd Reg.TWIN_STATUS_STATE

/-- TWIN_HOLD_OUT toggles or rests. -/
def Chip.setHold (c : Chip) (b : Bool) : Chip :=
  if c.on Reg.TWIN_STATUS_HOLD_OUT = b then c else (c.flag Reg.TWIN_STATUS_HOLD_OUT b).emit (.pin 6 0 (b2n b))

/-- What the closing gate does at once (R334): frames on the lanes end with the error marker. Timed frames whose launch time comes while it is shut are
dropped as late then (R19). -/
def Chip.gateNow (c : Chip) : Chip :=
  let ports := (c.path.ports.map Prod.fst).filter fun p => p != 512 && !c.twinPort p
  c.each ports fun p c =>
    let cut := fun (x : Option (Nat × Nat)) (c : Chip) => match x with
      | some y => c.markEnd p y.1 y.2 (c.rd Reg.ABORT_STAT_LAST_CAUSE p)
      | none => c
    cut (c.portSt p).tx (cut (c.portSt p).susp c)

/-- The unit enters FENCED (R335, R336, R343): the gate first, then the hold. -/
def Chip.fenceUnit (c : Chip) : Chip :=
  let c1 := ((c.wr Reg.TWIN_STATUS_STATE 6).gateNow).setHold false
  let c2 := c1.flag Reg.TWIN_STATUS_FENCE_SEEN true
  ({ c2 with twin := { c2.twin with claim := 0, egress := false } }).jrnEvent 0 0

/-- What a standby needs to be STANDBY_READY (R339). -/
def Chip.twinReady (c : Chip) : Bool :=
  c.on Reg.TWIN_STATUS_LINK_UP && c.rd Reg.SEL_STATUS_FSTATE == 2 && c.rd Reg.SEL_STATUS_TSTATE == 2 &&
  c.on Reg.SEL_STATUS_HO_READY_F && c.on Reg.SEL_STATUS_HO_READY_T && c.twin.full && c.twin.cfgOk && !c.twin.same &&
  decide (c.ckptLag ≤ 2 * c.rd Reg.CKPT_CFG_CKPT_MS)

/-- STANDBY_SYNC or STANDBY_READY, as R339 has it. A unit in PRE_THAW that loses its partner is a standby again. -/
def Chip.twinEval (c : Chip) : Chip :=
  if !c.standby then c
  else if c.twinState = 3 then
    if c.on Reg.TWIN_STATUS_LINK_UP then c
    else { (c.wr Reg.TWIN_STATUS_STATE 1).powerOff 1 with twin := { c.twin with take := 0 } }
  else if c.twinReady then
    if c.twinState = 2 then c else { c.wr Reg.TWIN_STATUS_STATE 2 with twin := { c.twin with readyAt := c.now } }
  else if c.twinState = 1 then c else c.wr Reg.TWIN_STATUS_STATE 1

/-- The unit becomes a standby (R337, R338, R344): the gate, the hold, its transactions (R379), then the power; its selections are the device's, not forced. -/
def Chip.toStandby (c : Chip) : Chip :=
  let was := c.twinState
  let c1 := if was = 0 ∨ was = 5 ∨ was = 6 then c.rollbackAll none 3 else c
  let c2 := ((c1.wr Reg.TWIN_STATUS_STATE 1).gateNow).setHold false
  let c3 := { c2 with twin := { c2.twin with
    egress := false, claim := 0, full := false, fullOn := false, cfgOk := true, sent := [], fullDue := false, snaps := [], part := []
    coming := [], doms := [], imgPart := [], outq := [], take := 0 } }
  (((c3.powerOff 1).setForced 0 false).setForced 1 false).ptpRefresh

/-- The unit is ACTIVE (R331, R346): the pair's checkpoints start with a full one (R348). -/
def Chip.becomeActive (c : Chip) : Chip :=
  let c1 := (c.wr Reg.TWIN_STATUS_STATE 5).setHold (c.on Reg.TWIN_CFG_INTERLOCK)
  let c2 := { c1 with twin := { c1.twin with egress := false, full := false, take := 0, sent := [], fullDue := true } }
  (c2.jrnEvent 0 0).ptpRefresh

/-- Whether some cycle domain has still to trigger after Thaw. -/
def Chip.thawWaits (c : Chip) : Bool :=
  (List.range 4).any (fun d => c.domainLive d) && !(List.range 4).any fun d => (c.dom d).ran

/-- THAWING ends once the egress is open and a running domain has triggered, or none is to run (R346). -/
def Chip.thawEnd (c : Chip) : Chip := if c.twinState = 4 ∧ c.twin.egress ∧ !c.thawWaits then c.becomeActive else c

/-- The egress of a promoted or fenced unit opens. -/
def Chip.openEgress (c : Chip) : Chip :=
  if c.twinState = 4 then ({ c with twin := { c.twin with egress := true, claim := 0 } }).thawEnd
  else if c.twinState = 6 then ({ c with twin := { c.twin with claim := 0 } }).becomeActive
  else c

/-- Egress opens at once, or by a claim under INTERLOCK = 1 (R335). -/
def Chip.claimEgress (c : Chip) : Chip :=
  if c.on Reg.TWIN_CFG_INTERLOCK then { c with twin := { c.twin with claim := 1 } } else c.openEgress

/-- What a commit does to the power state, the twin state and an active unit's hold (R331, R332, R418). -/
def Chip.powerCommit (old c : Chip) : Chip :=
  let p0 := old.on Reg.TWIN_CFG_PAIR_EN
  let p1 := c.on Reg.TWIN_CFG_PAIR_EN
  if !p0 && p1 then c.toStandby
  else if p0 && !p1 then
    let c1 := (c.wr Reg.TWIN_STATUS_STATE 0).setHold false
    ({ c1 with twin := { c1.twin with claim := 0, egress := false } }.followTarget).ptpRefresh
  else if !p1 && old.rd Reg.PWR_CFG_TARGET != c.rd Reg.PWR_CFG_TARGET then c.followTarget
  else if c.twinState = 5 then c.setHold (c.on Reg.TWIN_CFG_INTERLOCK)
  else c

end Sys2Proof.Machine
end

