-- ==== Sys2Proof/Machine/CmdTxn.lean ====
section
/-! DEFINITION. Transactions (R375 to R388, R401, R464): opening, scopes, checks, prepare, commit point, rollback, status. -/

namespace Sys2Proof.Machine

/-- Open transactions admitted at once (R375). -/
def openLimit : Nat := 4

/-- The TXN_ID after n (R375): increasing, skipping 0. -/
def nextTxnId (n : Nat) : Nat := if (n + 1) % 2 ^ 32 = 0 then 1 else (n + 1) % 2 ^ 32

/-- TXN_BEGIN (R375): the new ID travels in the reply header (R352). -/
def Chip.doTxnBegin (r : Req) (c : Chip) : Chip :=
  let i := Instr.txnBegin r
  if !c.mayRun r i then c.reply r (opOf i) .noAccess
  else if r.txn ≠ 0 then
    if (c.txnOf r).isSome then c.reply r (opOf i) .badParam else c.reply r (opOf i) .txnNone
  else if openLimit ≤ c.txns.length then c.reply r (opOf i) .busy
  else
    let id := nextTxnId c.txnCtr
    let t : Txn := { id := id, req := r, lastNamed := c.now }
    ({ c with txns := c.txns ++ [t], txnCtr := id }).replyWith (c.slotKey r.slot) r (opOf i) .ok id []

/-- TXN_INFO of an open transaction. -/
def Txn.info (t : Txn) : Tlv := tlvTxnInfo t.state.code t.lastStatus.code t.bytes (if t.state = .scheduled then time96 t.p else 0)

/-- TXN_INFO of one that ended. -/
def TxnEnd.info (t : TxnEnd) : Tlv := tlvTxnInfo t.state.code t.status.code t.bytes (if t.state = .committed then time96 t.p else 0)

/-- TXN_STATUS (R387, R401): open transactions and the last 16 ended, to their opening slot. -/
def Chip.doTxnStatus (r : Req) (c : Chip) : Chip :=
  let i := Instr.txnStatus r
  if !c.mayRun r i then c.reply r (opOf i) .noAccess
  else match c.txnOf r with
    | some t => (c.updTxn t.id fun t => { t with lastNamed := c.now }).reply r (opOf i) .ok [t.info]
    | none => match c.ended.find? (fun t => t.id == r.txn && t.slot == r.slot) with
      | some t => c.reply r (opOf i) .ok [t.info]
      | none => c.reply r (opOf i) .txnNone

/-- TXN_ROLLBACK (R386, R401): staged commands, prepare and scopes are dropped; a parked commit is answered TXN_NONE. In a pair the
standby is told, and the reply waits until it knows (R388). -/
def Chip.doTxnRollback (r : Req) (c : Chip) : Chip :=
  let i := Instr.txnRollback r
  if !c.mayRun r i then c.reply r (opOf i) .noAccess
  else match c.txnOf r with
    | none => c.reply r (opOf i) .txnNone
    | some t =>
      let c1 := ((c.undoPrepare t.id).endTxn t .rolledBack).answerParked t.id .txnNone []
      if t.checked && c.pairOn then c1.configSend [{ kind := 53, a := t.id, b := 0, nums := [] }] (some (.rollback r))
      else c1.reply r (opOf i) .ok

/-! ### Commit: scopes and checks -/

/-- Scopes taken in ascending order until one is held by another transaction (R380). -/
def takeScopes (c : Chip) (me : Nat) : List Scope → List Scope → List Scope × List Scope
  | held, [] => (held, [])
  | held, s :: l => if (c.scopeHolder me s).isSome then (held, s :: l) else takeScopes c me (held ++ [s]) l

/-- A commit attempt ends in a failure: the transaction is open again without scopes, with its status kept (R380, R381). -/
def Chip.failCommit (c : Chip) (id : Nat) (st : Status) (l : List Tlv) : Chip :=
  ((((c.configDrop id).undoPrepare id).updTxn id fun t =>
    { t with state := .opened, held := [], wants := [], checked := false, lastStatus := st, lastNamed := c.now }).answerParked id st l)

/-- The instant the checks suppose for the commit point (R381): TIME of an AT_TIME commit, the next boundary of an AT_CYCLE one, now for
NOW; 2^-16 ns. -/
def Chip.supposedP (c : Chip) (t : Txn) : Nat :=
  if t.mode = 1 then max t.time c.tb16 else if t.mode = 2 then c.boundaryAfter t.domain c.tb16 else c.tb16

/-- The checks of R381 and R464 on the state a commit would leave: the operational state, every scheduled transaction before it, this one. -/
def Chip.commitFail (c : Chip) (t : Txn) : Option (Status × List Tlv) :=
  let p := c.supposedP t
  let tables := c.preparedTables t.id t.req.slot t.staged
  let before := c.baseAt p
  let after := ((match tables with | .ok x => x.flipTables t.id | .error _ => c).baseAt p).applyTxn t
  if t.staged.any isIncr ∧ after.rd Reg.SERVO_CTRL_SERVO_MODE ≠ 1 then some (.resourceConflict, adjClaim)
  else match before.checkFail after t.staged (if t.mode = 0 then none else some p) (c.isHandover t) with
    | some f => some f
    | none => match tables with
      | .error s => some (s, [])
      | .ok _ => match laterFails after (c.scheduled.filter fun x => p < x.p) with
        | some id => some (.resourceConflict, c.laterTlv id)
        | none => none

/-- The longest prepare (R382): 10 µs plus 100 ns per staged table entry. -/
def prepareTime (t : Txn) : Nat := unitsUs 10 + unitsNs (100 * (t.staged.map stagedEntries).sum)

/-- A waiting commit goes on: scopes, then the checks, then the prepare (R380 to R383). -/
def Chip.advanceCommit (c : Chip) (id : Nat) : Chip :=
  match c.txns.find? (fun t => t.id == id) with
  | none => c
  | some t =>
    let (held, wants) := takeScopes c id t.held t.wants
    let c1 := c.updTxn id fun t => { t with held := held, wants := wants }
    if wants ≠ [] then c1
    else if t.mode = 1 ∧ !t.allowLate ∧ t.time < c.tb16 then c1.failCommit id .timePast []
    else match c1.commitFail t with
      | some (st, l) => c1.failCommit id st l
      | none =>
        let c2 := (c1.prepareTables id t.staged).updTxn id fun t => { t with checked := true, readyAt := c.now + prepareTime t }
        c2.configSend (txnRecs t) (some (.prepare id))

/-- The form of a TXN_COMMIT (R382, R401). -/
def Chip.commitBad (c : Chip) (mode : Nat) (allowLate : Bool) (domain : Nat) (time : Option Nat) : Bool :=
  decide (2 < mode) || (mode == 1) != time.isSome || (allowLate && mode != 1) ||
  (match time with
   | none => false
   | some t => !timeOk t || decide (c.tb16 + 86400 * nsPerS * 65536 < timeOf96 t)) ||
  (mode == 2 && !c.domainLive domain)

/-- TXN_COMMIT (R380 to R383, R401): the request is parked, scopes are taken, and the commit goes as far as it can. -/
def Chip.doTxnCommit (r : Req) (mode : Nat) (allowLate : Bool) (domain : Fin 4) (time : Option Nat) (c : Chip) : Chip :=
  let i := Instr.txnCommit r mode allowLate domain time
  if !c.mayRun r i then c.reply r (opOf i) .noAccess
  else match c.txnOf r with
    | none => c.reply r (opOf i) .txnNone
    | some t =>
      if t.state ≠ .opened then c.reply r (opOf i) .busy
      else if c.commitBad mode allowLate domain time then
        (c.updTxn t.id fun t => { t with lastNamed := c.now }).reply r (opOf i) .badParam
      else if c.on Reg.JRN_STATUS_COMMIT_HOLD ∨ c.parkedFull then c.reply r (opOf i) .busy
      else
        let c1 := { c with parked := c.parked ++ [({ cmd := i, deadline := c.now + c.lockWait, tag := t.id } : Parked)] }
        let c2 := c1.updTxn t.id fun t =>
          { t with
            state := .waiting, mode := mode, allowLate := allowLate, domain := domain, time := (time.map timeOf96).getD 0
            lastNamed := c.now, waitFrom := c.now, wants := allScopes t.staged, held := [], checked := false }
        c2.advanceCommit t.id

/-! ### Commit point -/

/-- The objects and entries a staged command writes (R390: OBJ_COUNT). -/
def objCount : Instr → Nat
  | .objWrite _ ws => ws.length
  | .tblDma _ _ _ _ n _ _ _ => n
  | .cycSwap _ m => ((List.range 64).filter fun e => bitOf m e).length
  | _ => 1

/-- The change content of a staged command (R392). -/
def stagedContent : Instr → Bytes
  | .objWrite _ ws => writesContent ws
  | .tblInsert _ t e idx => bytesOfNat 4 (objId Cls.TBL t 0) ++ bytesOfNat 4 (idx.getD 0) ++ bytesOfNat 65 e
  | .tblDelete _ t (.index i) => bytesOfNat 4 (objId Cls.TBL t 0) ++ bytesOfNat 4 i
  | .tblDelete _ t (.key k) => bytesOfNat 4 (objId Cls.TBL t 0) ++ k
  | .tblDma _ t _ first n _ _ d => bytesOfNat 4 (objId Cls.TBL t 0) ++ bytesOfNat 4 first ++ bytesOfNat 4 n ++ d.getD []
  | .queueFlush _ _ n => bytesOfNat 4 (objId Cls.QUEUE n 0)
  | .cycStart _ d => bytesOfNat 4 (objId Cls.CYC d 0)
  | .cycStop _ d => bytesOfNat 4 (objId Cls.CYC d 0)
  | .cycSwap _ m => bytesOfNat 8 m
  | _ => []

/-- A staged TIME_STEP at its commit point (R464): refused by the guard, skipped below second 0, or put in line. -/
def Chip.stagedStep (c : Chip) (t : Txn) (a : StepArg) : Chip :=
  let off := c.stepOffset a
  if c.stepNegative off then (c.jrnEvent Nt.TIME_CHANGE_SKIPPED t.id).notify Nt.TIME_CHANGE_SKIPPED Cls.TIME 0 0 (some (t.id, 0x0402))
  else if c.jumpRefused off then (c.refuseJump 1 0 off).2
  else c.queueStep { offset := off, source := 1, req := some t.req }

/-- The KIND 0 record of a commit (R389, R390). -/
def Chip.jrnCommit (c : Chip) (t : Txn) : Chip :=
  if c.jrnMuted then c
  else
    c.jrnAppend
      { seq := 0, time := time96 t.p, role := t.req.role.code, slot := t.req.slot, transport := viaTransport t.req.via, kind := 0,
        src := sha256 (c.srcBytes t.req.via) >>> 192, txn := t.id, op := 0x0202, objs := satU 16 (t.staged.map objCount).sum,
        late := t.late, force := false, tbInvalid := !c.on Reg.TIME_STATUS_TB_VALID, vbakLost := false,
        info := satU 32 (t.lateBy / 65536000), digest := 0 } (t.staged.flatMap stagedContent)

/-- A transaction takes effect at its commit point (R385): every staged change, the tables' flip, then its record, then its
scopes are free. What it does to the power state and to the pair follows (R332, R349, R418). -/
def Chip.commitNow (c : Chip) (t : Txn) : Chip :=
  let c := c.takeArrived
  let c1 := (c.takeEffect t).flipTables t.id
  let c2 := c1.each t.staged fun i c => match i with | .timeStep _ a => c.stagedStep t a | _ => c
  let c3 := Chip.powerCommit c ((c2.jrnCommit t).endTxn t .committed)
  if c.isHandover t then c3.toStandby else c3

/-- The reply of a parked TXN_COMMIT: TIME (P) and TXN_INFO. -/
def commitTlvs (t : Txn) (st : TxnState) : List Tlv :=
  [tlvTime (time96 t.p), tlvTxnInfo st.code 0 t.bytes (time96 t.p)]

/-- The reply to a scheduled commit: at once, or in a pair when the standby has its commit point (R388). -/
def Chip.answerScheduled (c : Chip) (t : Txn) : Chip :=
  if c.pairOn then c.configSend [pointRec t] (some (.answer t.id (commitTlvs t .scheduled))) else c.answerParked t.id .ok (commitTlvs t .scheduled)

/-- A transaction scheduled for its commit point. -/
def Chip.schedule (c : Chip) (t : Txn) : Chip :=
  let t1 := { t with state := .scheduled, order := c.schedCtr }
  ({ c with schedCtr := c.schedCtr + 1 }.updTxn t.id fun _ => t1).answerScheduled t1

/-- The table a staged command changes. -/
def stagedTable : Instr → Option Nat
  | .tblInsert _ t _ _ => some t
  | .tblDelete _ t _ => some t
  | .tblDma _ t _ _ _ _ _ _ => some t
  | _ => none

/-- The window check of R122 and the boundaries of R255 for the commit point now known. -/
def Chip.windowAt (c : Chip) (t : Txn) (p : Nat) : Failing :=
  let after := (c.baseAt p).applyTxn t
  after.windowFail t.staged p <|> ((c.baseAt p).gridFail after (if t.mode = 0 then none else some p))

/-- A transaction that goes on to commit point p, unless a gate list's windows or the boundaries of a domain do not fit it (R122, R255, R381). -/
def Chip.withWindows (c : Chip) (t : Txn) (p : Nat) (go : Chip) : Chip :=
  match c.windowAt t p with
  | some (st, l) => c.failCommit t.id st l
  | none => go

/-- TXN_PREPARE_DONE (R382, R383): E is now, not before a standby has the staged writes or while a freeze holds those of
tables (R47). A NOW commit takes effect; AT_TIME and AT_CYCLE are
scheduled and replied to. -/
def Chip.prepareDone (id : Nat) (c : Chip) : Chip :=
  match c.txns.find? (fun t => t.id == id) with
  | none => c
  | some t =>
    if t.state ≠ .waiting ∨ !t.checked ∨ t.wants ≠ [] ∨ c.twinHolds id ∨ t.staged.any c.requestHeld then c
    else
      let e := c.tb16
      if t.mode = 0 then
        let t1 := { t with p := e }
        c.withWindows t e ((((c.updTxn id fun _ => t1).configSend [pointRec t1] none).commitNow t1).answerParked id .ok (commitTlvs t1 .committed) (some c))
      else if t.mode = 1 ∧ e ≤ t.time then c.schedule { t with p := t.time }
      else if t.mode = 1 ∧ !t.allowLate then
        let obj := match t.staged.findSome? stagedTable with
          | some _ => objId Cls.TBL ((t.staged.filterMap stagedTable).foldl min 6) 3
          | none => objId Cls.DEV 0 0x58
        c.failCommit id .resourceConflict [tlvFailObj obj, tlvShortfall 0 (ceilDiv (e - t.time) 65536)]
      else
        let p := if c.domainLive t.domain then c.boundaryAfter t.domain e else e
        let late := t.mode == 1
        c.withWindows t p (c.schedule { t with p := p, atTrigger := t.mode == 2, late := late, lateBy := if late then p - t.time else 0 })

/-- TXN_COMMIT_POINT (R384, R385): a scheduled transaction whose P the timebase has reached takes effect; one bound to a trigger
waits for it (CYC_TRIGGER), unless its domain has stopped or Drumline is powered down. -/
def Chip.commitPoint (id : Nat) (c : Chip) : Chip :=
  match c.txns.find? (fun t => t.id == id) with
  | none => c
  | some t =>
    if t.state = .scheduled ∧ t.p ≤ c.tb16 ∧ (!t.atTrigger ∨ !c.domainLive t.domain ∨ c.rd Reg.PWR_STATUS_STATE ≠ 2) then
      let excess := c.tb16 - t.p
      c.commitNow (if t.late ∧ t.lateBy = 0 then { t with lateBy := excess } else t)
    else c

/-- Scheduled transactions that a forward step passes over are marked late (R384). -/
def Chip.markLate (old c : Chip) : Chip :=
  { c with txns := c.txns.map fun t =>
      if t.state = .scheduled ∧ !t.atTrigger ∧ old.tb16 < t.p ∧ t.p < c.tb16 then { t with late := true, lateBy := c.tb16 - t.p } else t }

/-! ### Waiting -/

/-- TXN_IDLE_TIMEOUT (R379): an OPEN transaction that no command has named for IDLE_S. -/
def Chip.txnIdle (id : Nat) (c : Chip) : Chip :=
  match c.txns.find? (fun t => t.id == id) with
  | none => c
  | some t =>
    if t.state = .opened ∧ t.lastNamed + unitsS (c.rd Reg.TXN_CFG_IDLE_S) ≤ c.now then c.rollbackByDevice id 0 else c

/-- A commit that has waited LOCK_WAIT_MS for a scope is answered TXN_CONFLICT and gives its scopes back (R380). -/
def Chip.lockTimeout (id : Nat) (c : Chip) : Chip :=
  match c.txns.find? (fun t => t.id == id) with
  | none => c
  | some t =>
    if t.state = .waiting ∧ t.wants ≠ [] ∧ t.waitFrom + c.lockWait < c.now then
      match c.firstBlocked id t.wants with
      | some (s, h) => c.failCommit id .txnConflict [tlvScope s h]
      | none => c
    else c

/-- A parked command outside a transaction that has waited LOCK_WAIT_MS is answered TXN_CONFLICT (R380). -/
def Chip.parkedTimeout (n : Nat) (c : Chip) : Chip :=
  match c.parked[n]? with
  | none => c
  | some p =>
    if p.tag = 0 ∧ p.deadline < c.now then
      match c.firstBlocked 0 (allScopes [p.cmd]), reqOf p.cmd with
      | some (s, h), some r => ({ c with parked := c.parked.eraseIdx n }).reply r (opOf p.cmd) .txnConflict [tlvScope s h]
      | _, _ => c
    else c
where
  /-- The request of a command that takes scopes. -/
  reqOf : Instr → Option Req
    | .objWrite r _ => some r
    | .tblInsert r _ _ _ => some r
    | .tblDelete r _ _ => some r
    | .tblDma r _ _ _ _ _ _ _ => some r
    | .queueFlush r _ _ => some r
    | .timeStep r _ => some r
    | .timeIncr r _ _ _ => some r
    | .cycStart r _ => some r
    | .cycStop r _ => some r
    | _ => none

end Sys2Proof.Machine
end

