-- ==== Sys2Proof/Machine/MiscCmd.lean ====
section
/-! DEFINITION. The remaining packet commands (R62, R69, R238, R321 to R323): REF_FORCE, LOOPBACK, the FAB opcodes; the writes and reads that
have a command of their own (R47, R71, R72, R152); and what waits for scopes (R380). -/

namespace Sys2Proof.Machine

/-! ### REF_FORCE, LOOPBACK, fabric -/

/-- REF_FORCE (R238): action 0 select, 1 holdover, 2 release. -/
def Chip.doRefForce (r : Req) (time : Bool) (action ref : Nat) (c : Chip) : Chip :=
  let k := b2n time
  c.changeDirect r (.refForce r time action ref) (if c.forceBad k action ref then some (.badParam, []) else none) fun c =>
    { chip := c.forceSel k action ref, record := some (0, bytesOfNat 4 (k * 2 ^ 31 + action % 8 * 2 ^ 28 + ref % 32)) }

/-- Whether a LOOP names a lane or port that takes that loopback (R69, R73): MGT has the near-end parallel one alone. -/
def Chip.loopOk (c : Chip) (w : Nat) : Bool :=
  let n := bitsOf w 0 10
  let kind := bitsOf w 28 2
  decide (n ≤ 512) && (n != 512 || kind == 0 || kind == 2) &&
    (!bitOf w 31 || n == 512 || (c.laneToPort n == n && c.rd Reg.PORT_CFG_MODE n != 0))

/-- LOOPBACK (R62, R69). -/
def Chip.doLoopback (r : Req) (word : Nat) (c : Chip) : Chip :=
  let n := bitsOf word 0 10
  let kind := bitsOf word 28 2
  let p := if n = 512 then 512 else c.laneToPort n
  let fail : Option (Status × List Tlv) :=
    if !c.loopOk word then some (.badParam, [])
    else if kind ≠ 0 ∧ c.timingPort p then
      some (.resourceConflict, [tlvClaimant (c.timingClaim p) 0xFFFFFFFF, tlvClaimant (objId Cls.TEST 1 0) 0xFFFFFFFF])
    else none
  c.changeDirect r (.loopback r word) fail fun c =>
    { chip := c.setLoop p kind (if bitOf word 31 then c.portLanes p else [n]), record := some (0, bytesOfNat 4 word) }

/-- FAB_STATUS: FAB_STATUS, then FAB_NODE 0 to 63. -/
def Chip.doFabStatus (r : Req) (c : Chip) : Chip :=
  c.direct r (.fabStatus r) fun c =>
    match c.readAll (({ obj := objId Cls.DEV 0 0x49, elem := none } : ObjSel) ::
        (List.range 64).map fun n => { obj := objId Cls.FAB n 0x01, elem := none }) with
    | some (l, c1) => { chip := c1, tlvs := l }
    | none => c.refuse .badParam

/-- FAB_ASSIGN (R321): the ID is stored in MRAM. -/
def Chip.doFabAssign (r : Req) (dev : Nat) (c : Chip) : Chip :=
  c.changeDirect r (.fabAssign r (finOf64 dev)) none fun c =>
    { chip := { c with fab := { c.fab with storedId := some dev } }, record := some (0, bytesOfNat 4 dev) }
where
  /-- A device ID as an operand. -/
  finOf64 (n : Nat) : Fin 64 := ⟨n % 64, Nat.mod_lt _ (by decide)⟩

/-- FAB_ROUTE (R322, R323): the candidate links, and the one chosen; without IN_PORT as for ingress port 0. -/
def Chip.doFabRoute (r : Req) (inPort : Option Nat) (dev : Fin 64) (cls : Fin 8) (c : Chip) : Chip :=
  c.direct r (.fabRoute r inPort dev cls) fun c =>
    let p := inPort.getD 0
    if 511 < p then c.refuse .badParam
    else
      let from_ := if c.fabPort p then some p else none
      let l := match c.candidates dev false from_ with | some (_, ps) => ps | none => []
      let one := c.chooseLink (c.fabId.getD 0) dev cls p false from_
      { chip := c, tlvs := [tlvPorts l, tlvPorts one.toList] }

/-! ### Writes with a command of their own -/

/-- One element's bits written under a mask. -/
def Chip.writeBits (r : Req) (obj : Nat) (elem : Option (Nat × Nat)) (bytes v m : Nat) (c : Chip) : Chip :=
  c.doObjWrite r [{ obj := obj, elem := elem, value := bytesOfNat bytes v, mask := some (bytesOfNat bytes m) }]

/-- ARB_FREEZE_SET (R47). -/
def Chip.doFreezeSet (r : Req) (a : Nat) (c : Chip) : Chip :=
  c.writeBits r (objId Cls.DEV 0 0x28) (some (a, 1)) 4 (2 ^ Reg.ARB_CFG_FREEZE.lo) (2 ^ Reg.ARB_CFG_FREEZE.lo)

/-- ARB_FREEZE_CLEAR (R47): once nothing freezes the arbiter any more a phase starts at once with the requests present. -/
def Chip.doFreezeClear (r : Req) (a : Nat) (reqs : List (Nat × Nat)) (c : Chip) : Chip :=
  let c1 := c.writeBits r (objId Cls.DEV 0 0x28) (some (a, 1)) 4 0 (2 ^ Reg.ARB_CFG_FREEZE.lo)
  if c.arbFrozen a && !c1.arbFrozen a then c1.arbPhase a reqs else c1

/-- TBL_LOCK_SET and TBL_LOCK_RELEASE (R152, R153). -/
def Chip.doLockSet (r : Req) (t s : Nat) (c : Chip) : Chip := c.writeBits r (objId Cls.TBL t 0x02) none 8 (2 ^ s) (2 ^ s)
def Chip.doLockRelease (r : Req) (t s : Nat) (c : Chip) : Chip := c.writeBits r (objId Cls.TBL t 0x02) none 8 0 (2 ^ s)

/-! ### OPT_RAW (R71, R72; log entry 37) -/

/-- Whether an access is one of R71. -/
def optOk (write : Bool) (dev page off len : Nat) (data : Bytes) : Bool :=
  (dev == 0xA0 || dev == 0xA2) && decide (page < 256) && decide (1 ≤ len) && decide (len ≤ 128) && decide (off + len ≤ 256) &&
    (!write || data.length == len)

/-- The master's own traffic of an access: the page-select byte before bytes 128 to 255, nine clock pulses after clock stretch. -/
def Chip.optWires (c : Chip) (p dev page off len : Nat) (resp : OptResp) (flat : Bool) : Chip :=
  let m := c.rd Reg.OPT_MAP_MASTER p
  let c1 := if 128 < off + len ∧ !flat then c.emit (.pin 2 m ((dev * 256 + 127) * 256 + page)) else c
  let c2 := c1.emit (.pin 2 m ((dev * 256 + off) * 256 + len))
  if resp = .stretch then c2.emit (.pin 2 m 9) else c2

/-- OPT_RAW: an access to a module, at once. One that is not acknowledged, or that stretches the clock, is answered BUSY. -/
def Chip.doOptRaw (r : Req) (port : Nat) (write : Bool) (dev page off len : Nat) (data : Bytes) (resp : OptResp) (flat : Bool) (c : Chip) :
    Chip :=
  let op := if write then 0x0102 else 0x0101
  let obj := objId Cls.PORT port 0x09
  let access := bytesOfNat 1 dev ++ bytesOfNat 1 page ++ bytesOfNat 1 off ++ bytesOfNat 1 len ++ data
  if write ∧ r.role ≠ .engineer ∧ r.role ≠ .owner then c.reply r op .noAccess
  else if r.txn ≠ 0 then (if (c.txnOf r).isSome then c.reply r op .badParam else c.reply r op .txnNone)
  else if !optOk write dev page off len data || (c.resolve obj).isNone then c.reply r op .badParam [tlvFailObj obj]
  else if write ∧ c.on Reg.JRN_STATUS_COMMIT_HOLD then c.reply r op .busy
  else if c.poweredOff obj then c.reply r op .domainOff
  else
    let c1 := c.optWires port dev page off len resp flat
    match resp with
    | .done b =>
      if write then c1.finish r op { chip := c1, record := some (1, bytesOfNat 4 obj ++ access) }
      else c1.finish r op { chip := c1, tlvs := [tlvObj obj, tlvValue len (natOfBytes (sliceBytes b 0 len)) 0] }
    | _ => c1.reply r op .busy

/-! ### Waiting for scopes (R380) -/

/-- TXN_LOCK_WAIT_TIMEOUT. -/
def Chip.waitTimeout (w : Waiter) (c : Chip) : Chip :=
  match w with
  | .commit id => c.lockTimeout id
  | .parked n => c.parkedTimeout n

end Sys2Proof.Machine
end

