-- ==== Sys2Proof/Machine/Parse.lean ====
section
/-! DEFINITION. From the bytes of a request to a command: TLVs (R351), the opcode tables' TLVs (R396, R397), value by value. -/

namespace Sys2Proof.Machine

/-- A TLV as received: type and value bytes. -/
abbrev RawTlv := Nat × Bytes

/-- The TLVs of a payload (R351); none when one runs past the end or padding is not 0. A TYPE of 0 ends a mailbox message. -/
def parseTlvs (mbx : Bool) : Nat → Bytes → Option (List RawTlv)
  | 0, b => if b.isEmpty then some [] else none
  | n + 1, b =>
    if b.isEmpty then some []
    else
      let typ := natAt b 0 2
      let len := natAt b 2 2
      if mbx && typ == 0 then (if b.all (· == 0#8) then some [] else none)
      else
        let v := (b.drop 4).take len
        let pad := (b.drop (4 + len)).take (padTo4 len)
        if b.length < 4 + len + padTo4 len || pad.any (· != 0#8) then none
        else (parseTlvs mbx n (b.drop (4 + len + padTo4 len))).map ((typ, v) :: ·)

/-- The types of R396. -/
def knownTlv (t : Nat) : Bool :=
  (decide (0x01 ≤ t) && decide (t ≤ 0x2D)) || (decide (0x40 ≤ t) && decide (t ≤ 0x49)) || t == 0x60 || t == 0x61 || t == 0x8001

/-- TLVs with those skipped whose TYPE has bit 15 set and that the row does not list (R351, R397). -/
def dropTexts (l : List RawTlv) : List RawTlv := l.filter fun t => t.1 < 0x8000

/-- Whether every TLV is one of the row's, each at most once (R397). -/
def onlyOnce (allowed : List Nat) (l : List RawTlv) : Bool :=
  l.all (fun t => allowed.contains t.1) && allowed.all fun a => (l.filter fun t => t.1 == a).length ≤ 1

/-- The value of the TLV of a type. -/
def tlvVal (l : List RawTlv) (typ : Nat) : Option Bytes := (l.find? fun t => t.1 == typ).map Prod.snd

/-- The value of the TLV of a type with a fixed length, as a number whose reserved bits are 0. -/
def tlvNum (l : List RawTlv) (typ len reserved : Nat) : Option Nat :=
  match tlvVal l typ with
  | none => none
  | some b => if b.length = len ∧ (natOfBytes b &&& reserved) = 0 then some (natOfBytes b) else none

/-- An optional TLV: absent, or well formed. -/
def tlvOpt (l : List RawTlv) (typ len reserved : Nat) : Option (Option Nat) :=
  match tlvVal l typ with
  | none => some none
  | some _ => (tlvNum l typ len reserved).map some

/-- The groups (OBJ [ELEM]). -/
def readGroups : List RawTlv → Option (List ObjSel)
  | [] => some []
  | (1, o) :: (2, e) :: l =>
    if o.length = 4 ∧ e.length = 8 then
      (readGroups l).map ({ obj := natOfBytes o, elem := some (natAt e 0 4, natAt e 4 4) } :: ·)
    else none
  | (1, o) :: l => if o.length = 4 then (readGroups l).map ({ obj := natOfBytes o, elem := none } :: ·) else none
  | _ => none

/-- The groups (OBJ [ELEM] VALUE [MASK]); fuel bounds the groups. -/
def writeGroups : Nat → List RawTlv → Option (List ObjWrite)
  | _, [] => some []
  | 0, _ => none
  | n + 1, l =>
    match l with
    | (1, o) :: l1 =>
      if o.length ≠ 4 then none
      else
        let (elem, l2, ok) := match l1 with
          | (2, e) :: l2 => (some (natAt e 0 4, natAt e 4 4), l2, e.length == 8)
          | _ => (none, l1, true)
        match l2 with
        | (3, v) :: (4, m) :: l3 =>
          if ok then (writeGroups n l3).map ({ obj := natOfBytes o, elem := elem, value := v, mask := some m } :: ·) else none
        | (3, v) :: l3 =>
          if ok then (writeGroups n l3).map ({ obj := natOfBytes o, elem := elem, value := v, mask := none } :: ·) else none
        | _ => none
    | _ => none

/-- INDEX or KEY, exactly one. -/
def tblSel (l : List RawTlv) : Option TblSel :=
  match tlvOpt l 0x0D 4 0xFFF80000, tlvVal l 0x0F with
  | some (some i), none => some (.index i)
  | some none, some k => some (.key k)
  | _, _ => none

/-- CHUNK or HOST_BUF, exactly one. -/
def imgSrc (l : List RawTlv) : Option ImgSrc :=
  match tlvVal l 0x18, tlvVal l 0x19 with
  | some b, none => if 8 ≤ b.length ∧ natAt b 0 4 % 4 = 0 then some (.chunk (natAt b 0 4) (natAt b 4 4) (b.drop 8)) else none
  | none, some b => if b.length = 12 then some (.host (natAt b 0 8) (natAt b 8 4)) else none
  | _, _ => none

/-- The KEY TLV of the security opcodes: slot, role, transports, key bytes. -/
def keyTlv (l : List RawTlv) : Option (Nat × Nat × Nat × Bytes) :=
  match tlvVal l 0x2B with
  | none => none
  | some b =>
    if 4 ≤ b.length ∧ natAt b 3 1 = 0 ∧ natAt b 2 1 < 32 then some (natAt b 0 1, natAt b 1 1, natAt b 2 1, b.drop 4) else none

/-- A number as a bounded index. -/
def finOf (n : Nat) (h : 0 < n) (v : Nat) : Fin n := ⟨v % n, Nat.mod_lt v h⟩

/-- The command an opcode and its TLVs spell; none: BAD_PARAM (R397). -/
def parseCommand (r : Req) (op : Nat) (raw : List RawTlv) : Option Instr :=
  if raw.any (fun t => t.1 < 0x8000 && !knownTlv t.1) then none
  else
    let l := dropTexts raw
    let none1 := fun (i : Instr) => if l.isEmpty then some i else none
    let fwTarget := tlvNum l 0x25 4 0xFFFFFFF0
    let dom := (tlvNum l 0x16 4 0xFFFFFFFC).map (finOf 4 (by decide))
    match op with
    | 0x0001 => none1 (.nop r)
    | 0x0002 => none1 (.identify r)
    | 0x0101 => (readGroups l).map (.objRead r)
    | 0x0102 => (writeGroups l.length l).map (.objWrite r)
    | 0x0103 =>
      if !onlyOnce [1, 5] l then none
      else match tlvNum l 1 4 0, tlvOpt l 5 4 0xFFFF0000 with
        | some o, some last => some (.objReadBulk r o last)
        | _, _ => none
    | 0x0201 => none1 (.txnBegin r)
    | 0x0202 =>
      if !onlyOnce [0x0A, 0x06] l then none
      else match tlvNum l 0x0A 4 0x007CFFFF, tlvOpt l 0x06 12 0 with
        | some m, some t => some (.txnCommit r (bitsOf m 24 8) (bitOf m 23) (finOf 4 (by decide) (bitsOf m 16 2)) t)
        | _, _ => none
    | 0x0203 => none1 (.txnRollback r)
    | 0x0204 => none1 (.txnStatus r)
    | 0x0301 =>
      if !onlyOnce [0x0C, 0x0D, 0x0E] l then none
      else match tlvNum l 0x0C 4 0xFFFFFF00, tlvVal l 0x0E, tlvOpt l 0x0D 4 0xFFF80000 with
        | some t, some e, some i =>
          if e.length = tblEntryBytes t ∨ (t = 1 ∧ e.length = 64 ∧ 2 ^ 256 ≤ natOfBytes e) then some (.tblInsert r t (natOfBytes e) i) else none
        | _, _, _ => none
    | 0x0302 =>
      if !onlyOnce [0x0C, 0x0D, 0x0F] l then none
      else match tlvNum l 0x0C 4 0xFFFFFF00, tblSel l with
        | some t, some x => some (.tblDelete r t x)
        | _, _ => none
    | 0x0303 =>
      if !onlyOnce [0x0C, 0x0D, 0x0F] l then none
      else match tlvNum l 0x0C 4 0xFFFFFF00, tblSel l with
        | some t, some x => some (.tblLookup r t x)
        | _, _ => none
    | 0x0304 =>
      if !onlyOnce [0x0C, 0x10, 0x11] l then none
      else match tlvNum l 0x0C 4 0xFFFFFF00, tlvNum l 0x10 20 0x3FFFFFFF with
        | some t, some d =>
          some (.tblDma r t (bitsOf d 96 64) (bitsOf d 64 32) (bitsOf d 32 32) (bitOf d 31) (bitOf d 30) (tlvVal l 0x11))
        | _, _ => none
    | 0x0305 => if !onlyOnce [0x2C] l then none else (tlvOpt l 0x2C 4 0).map (.tblBarrier r)
    | 0x0306 =>
      if !onlyOnce [0x12] l then none
      else (tlvNum l 0x12 4 0x7FFFE000).bind fun q =>
        if bitOf q 31 then (if bitsOf q 10 3 = 0 then some (.queueFlush r true (bitsOf q 0 10)) else none)
        else some (.queueFlush r false (bitsOf q 0 13))
    | 0x0401 => none1 (.timeGet r)
    | 0x0402 =>
      if !onlyOnce [0x06, 0x07] l then none
      else match tlvVal l 0x06, tlvVal l 0x07 with
        | some b, none => if b.length = 12 then some (.timeStep r (.time (natOfBytes b))) else none
        | none, some b => if b.length = 8 then some (.timeStep r (.offset (signed 64 (natOfBytes b)))) else none
        | _, _ => none
    | 0x0403 =>
      if !onlyOnce [0x09] l then none
      else (tlvNum l 0x09 12 0).map fun v => .timeIncr r (signed 32 (bitsOf v 64 32)) (bitsOf v 32 32) (signed 32 (bitsOf v 0 32))
    | 0x0404 =>
      if !onlyOnce [0x15] l then none
      else (tlvNum l 0x15 4 0x0FFFFFE0).map fun v => .refForce r (bitOf v 31) (bitsOf v 28 3) (bitsOf v 0 5)
    | 0x0405 =>
      if !onlyOnce [0x14] l then none else (tlvNum l 0x14 4 0xFF).map fun v => .jumpAccept r (bitsOf v 16 16) (bitsOf v 8 8)
    | 0x0501 =>
      if !onlyOnce [0x17, 0x18, 0x19] l then none
      else match tlvNum l 0x17 8 0, imgSrc l with
        | some e, some src => some (.cycLoad r e src)
        | _, _ => none
    | 0x0502 => if !onlyOnce [0x16] l then none else dom.map (.cycStart r)
    | 0x0503 => if !onlyOnce [0x16] l then none else dom.map (.cycStop r)
    | 0x0504 => if !onlyOnce [0x17] l then none else (tlvNum l 0x17 8 0).map (.cycSwap r)
    | 0x0601 => none1 (.cntSnapshot r)
    | 0x0602 => if l.all (fun t => t.1 == 0x1A && t.2.length == 4) then some (.cntRead r (l.map fun t => natOfBytes t.2)) else none
    | 0x0701 =>
      if !onlyOnce [0x1C, 0x1D] l then none
      else match tlvNum l 0x1C 8 0, tlvNum l 0x1D 4 0xFFFFFF00 with
        | some q, some n => some (.jrnRead r q n)
        | _, _ => none
    | 0x0702 =>
      if !onlyOnce [0x1F] l then none
      else match tlvVal l 0x1F with
        | some b => if 4 ≤ b.length then some (.jrnMark r (natAt b 0 4) (b.drop 4)) else none
        | none => none
    | 0x0801 => none1 (.twinStatus r)
    | 0x0802 =>
      if !onlyOnce [0x06, 0x20] l then none
      else match tlvNum l 0x06 12 0, tlvOpt l 0x20 4 0x7FFFFFFE with
        | some t, some w => some (.twinPromote r t (w.map fun w => (bitOf w 31, finOf 2 (by decide) (bitsOf w 0 1))))
        | _, _ => none
    | 0x0803 => none1 (.twinDemote r)
    | 0x0804 =>
      if !onlyOnce [0x21] l then none
      else match tlvVal l 0x21 with
        | some b => if 8 ≤ b.length ∧ natAt b 1 3 = 0 then some (.twinCheckpoint r (natAt b 0 1) (natAt b 4 4) (b.drop 8)) else none
        | none => none
    | 0x0805 =>
      if !onlyOnce [0x20] l then none else (tlvNum l 0x20 4 0xFFFFFFFE).map fun w => .twinHeartbeat r (finOf 2 (by decide) w)
    | 0x0901 => none1 (.fabStatus r)
    | 0x0902 => if !onlyOnce [0x2D] l then none else (tlvNum l 0x2D 4 0xFFFFFFC0).map fun d => .fabAssign r (finOf 64 (by decide) d)
    | 0x0903 =>
      if !onlyOnce [0x22] l then none
      else (tlvNum l 0x22 4 0x40F8FC00).map fun v =>
        .fabRoute r (if bitOf v 31 then some (bitsOf v 0 10) else none) (finOf 64 (by decide) (bitsOf v 24 6))
          (finOf 8 (by decide) (bitsOf v 16 3))
    | 0x0A01 =>
      if !onlyOnce [0x25, 0x18, 0x19] l then none
      else match fwTarget, imgSrc l with
        | some t, some src => some (.fwStage r t src)
        | _, _ => none
    | 0x0A02 => if !onlyOnce [0x25] l then none else fwTarget.map (.fwWrite r)
    | 0x0A03 => if !onlyOnce [0x25] l then none else fwTarget.map (.fwActivate r)
    | 0x0A04 => none1 (.fwStatus r)
    | 0x0B01 => if !onlyOnce [0x27] l then none else (tlvNum l 0x27 8 0xFFFF).map (.calRun r)
    | 0x0B02 => if !onlyOnce [0x27] l then none else (tlvNum l 0x27 8 0xFFFF).map (.calCommit r)
    | 0x0B03 => if !onlyOnce [0x29] l then none else (tlvNum l 0x29 4 0x70FF0000).map (.lullCtrl r)
    | 0x0B04 => if !onlyOnce [0x28] l then none else (tlvNum l 0x28 4 0x4FFFFC00).map (.loopback r)
    | 0x0B05 =>
      if !onlyOnce [0x2A, 0x19] l then none
      else match tlvNum l 0x2A 4 0, tlvOpt l 0x19 12 0 with
        | some d, some h => some (.diagCapture r d (h.map fun h => (bitsOf h 32 64, bitsOf h 0 32)))
        | _, _ => none
    | 0x0C01 => if !onlyOnce [0x2B] l then none else (keyTlv l).map fun k => .keyInstall r k.1 k.2.1 k.2.2.1 k.2.2.2
    | 0x0C02 =>
      if !onlyOnce [0x2B] l then none
      else (keyTlv l).bind fun k => if k.2.2.2.isEmpty then some (.keyRetire r k.1 k.2.1 k.2.2.1) else none
    | 0x0C03 =>
      if !onlyOnce [0x2B] l then none
      else (keyTlv l).bind fun k => if k.2.2.2.isEmpty then some (.roleMap r k.1 k.2.1 k.2.2.1) else none
    | _ => none

/-- The opcodes defined (18_command_reference.md). -/
def opcodeDefined (op : Nat) : Bool :=
  [0x0001, 0x0002, 0x0101, 0x0102, 0x0103, 0x0201, 0x0202, 0x0203, 0x0204, 0x0301, 0x0302, 0x0303, 0x0304, 0x0305, 0x0306, 0x0401,
   0x0402, 0x0403, 0x0404, 0x0405, 0x0501, 0x0502, 0x0503, 0x0504, 0x0601, 0x0602, 0x0701, 0x0702, 0x0801, 0x0802, 0x0803, 0x0804,
   0x0805, 0x0901, 0x0902, 0x0903, 0x0A01, 0x0A02, 0x0A03, 0x0A04, 0x0B01, 0x0B02, 0x0B03, 0x0B04, 0x0B05, 0x0C01, 0x0C02,
   0x0C03].contains op

end Sys2Proof.Machine
end

