-- ==== Sys2Proof/Machine/Container.lean ====
section
/-! DEFINITION. The Felgal container and the verification of an image (R410 to R413): ECDSA on P-256 with SHA-256. PRESUMED: the curve and the
signature equation are those of FIPS 186-5, which the spec names; the public key is the last 64 bytes of the payload (log entry 39). -/

namespace Sys2Proof.Machine

/-! ### P-256 -/

def p256P : Nat := 2 ^ 256 - 2 ^ 224 + 2 ^ 192 + 2 ^ 96 - 1
def p256N : Nat := 0xFFFFFFFF00000000FFFFFFFFFFFFFFFFBCE6FAADA7179E84F3B9CAC2FC632551
def p256B : Nat := 0x5AC635D8AA3A93E7B3EBBD55769886BC651D06B0CC53B0F63BCE3C3E27D2604B
def p256X : Nat := 0x6B17D1F2E12C4247F8BCE6E563A440F277037D812DEB33A0F4A13945D898C296
def p256Y : Nat := 0x4FE342E2FE1A7F9B8EE7EB4A7C0F9E162BCE33576B315ECECBB6406837BF51F5

/-- x to the power e modulo m, over 256 bits of e. -/
def powMod (m x e : Nat) : Nat :=
  (List.range 256).foldl (fun acc k => let s := acc * acc % m; if bitOf e (255 - k) then s * x % m else s) (1 % m)

/-- The inverse modulo a prime. -/
def invMod (m x : Nat) : Nat := powMod m (x % m) (m - 2)

/-- A point of the curve; none is the point at infinity. -/
abbrev EcPoint := Option (Nat × Nat)

/-- The sum of two points. -/
def ecAdd (a b : EcPoint) : EcPoint :=
  match a, b with
  | none, q => q
  | q, none => q
  | some (x1, y1), some (x2, y2) =>
    let p := p256P
    if x1 = x2 ∧ (y1 + y2) % p = 0 then none
    else
      let l := if x1 = x2 then (3 * x1 * x1 + (p - 3)) * invMod p (2 * y1) % p else (y2 + p - y1) * invMod p (x2 + p - x1) % p
      let x := (l * l + 2 * p - x1 - x2) % p
      some (x, (l * (x1 + p - x) + p - y1) % p)

/-- k times a point. -/
def ecMul (k : Nat) (q : EcPoint) : EcPoint :=
  (List.range 256).foldl (fun acc i => let d := ecAdd acc acc; if bitOf k (255 - i) then ecAdd d q else d) none

/-- Whether (r, s) is a signature of the hash h under the public key (x, y). -/
def ecdsaOk (x y h r s : Nat) : Bool :=
  let p := p256P
  let n := p256N
  let onCurve := decide (x < p) && decide (y < p) && y * y % p == (x * x * x + (p - 3) * x + p256B) % p
  if !onCurve || r == 0 || s == 0 || decide (n ≤ r) || decide (n ≤ s) then false
  else
    let w := invMod n s
    match ecAdd (ecMul (h % n * w % n) (some (p256X, p256Y))) (ecMul (r * w % n) (some (x, y))) with
    | none => false
    | some (v, _) => v % n == r

/-! ### Verification (R411) -/

/-- The flash region of a target (R414), in bytes. -/
def fwRegion : Nat → Nat
  | 0 => 4194304 | 1 => 2097152 | _ => 1048576

/-- The first check of R411 that a container for a target fails; 0: it is valid. -/
def fwCheck (roots : SMap Nat) (minSec target : Nat) (b : Bytes) : Nat :=
  let h := natAt b 0 128
  let body := b.drop 128
  let len := Lay.FELG_PAYLOAD_LEN.get h
  let auth := Lay.FELG_AUTH_CODE.get h
  let key := body.drop (body.length - 64)
  if b.length < 128 ∨ crc32 (b.take 124) ≠ Lay.FELG_HDR_CRC.get h then 1
  else if Lay.FELG_MAGIC.get h ≠ 0x46454C47 ∨ Lay.FELG_FORMAT.get h ≠ 1 then 2
  else if Lay.FELG_TYPE.get h ≠ target then 3
  else if Lay.FELG_STEPPING.get h ≠ 0xB0 then 4
  else if fwRegion target < 128 + len ∨ body.length ≠ len then 5
  else if sha256 body ≠ Lay.FELG_DIGEST.get h then 6
  else if Lay.FELG_AUTH.get h ≠ 0 ∨ 3 < Lay.FELG_KEY_INDEX.get h ∨ len < 64 ∨ sha256 key ≠ SMap.get roots (Lay.FELG_KEY_INDEX.get h) ∨
      !ecdsaOk (natAt key 0 32) (natAt key 32 32) (sha256 (b.take 56)) (auth / 2 ^ 256) (auth % 2 ^ 256) then 7
  else if Lay.FELG_SEC_VERSION.get h < minSec then 8
  else 0

/-- What is kept of an image. -/
def fwImage (roots : SMap Nat) (minSec target : Nat) (b : Bytes) : FwImg :=
  let h := natAt b 0 128
  { ver := Lay.FELG_VERSION.get h, sec := Lay.FELG_SEC_VERSION.get h, crc := crc32 (b.drop 128), err := fwCheck roots minSec target b }

end Sys2Proof.Machine
end

