-- ==== Sys2Proof/Machine/TableCmd.lean ====
section
/-! DEFINITION. The table and queue commands (R154, R160, R402; opcodes 0x0301 to 0x0306), the ends of what they wait for, and the
segment locks' writes (R152). -/

namespace Sys2Proof.Machine

/-! ### Insert, delete, lookup -/

/-- Whether an ENTRY is one its table accepts at an index (R138 to R151, R402): an IPv6 prefix is sent as its pair of entries. -/
def Chip.insertOk (c : Chip) (t e : Nat) (idx : Option Nat) : Bool :=
  if t = 1 then
    idx.isNone &&
    (if e < 2 ^ 256 then lpmOk e && Lay.LPM_KIND.get e == 0
     else
      let a := e / 2 ^ 256
      let b := e % 2 ^ 256
      lpmOk a && lpmOk b && Lay.LPM_KIND.get a == 1 && Lay.LPM_KIND.get b == 2 && Lay.LPM_PLEN.get a == Lay.LPM_PLEN.get b)
  else if t = 0 then idx.isNone && emOk e
  else match idx with
    | none => false
    | some i => decide (t ≤ 6) && decide (i < tblSize t) && c.entryOk t i e

/-- TBL_INSERT (R402), after the learning requests confirmed before it (R156). -/
def Chip.doTblInsert (r : Req) (t e : Nat) (idx : Option Nat) (c : Chip) : Chip :=
  let i := Instr.tblInsert r t e idx
  let fail : Option (Status × List Tlv) := if c.insertOk t e idx then none else some (.badParam, [])
  c.change r i fail (fun c =>
    match (c.learnFirst t).insertNow t e (idx.getD 0) with
    | .ok (n, c1) => { chip := c1, tlvs := [tlvIndex n], record := some (1, stagedContent (.tblInsert r t e (some n))) }
    | .error true => c.refuse .locked
    | .error false => c.refuse .tableFull) (match idx with | some n => [tlvIndex n] | none => [])

/-- The form of INDEX or KEY of a table. -/
def selOk (t : Nat) : TblSel → Bool
  | .index i => decide (t ≤ 6) && decide (i < tblSize t)
  | .key k => keyFormOk t k

/-- The index a selector finds an entry at. -/
def Chip.selIndex (c : Chip) (t : Nat) : TblSel → Option Nat
  | .index i => if c.entNow t i = 0 then none else some i
  | .key k => c.keyIndex (c.gen t) t k

/-- Whether a selector names a device target while FAB_EN = 1 (R315). -/
def Chip.devTarget (c : Chip) (t : Nat) : TblSel → Bool
  | .index i => t == 5 && !c.entryOk 5 i 0
  | .key _ => false

/-- TBL_DELETE (R402): an absent entry changes nothing and leaves no record. -/
def Chip.doTblDelete (r : Req) (t : Nat) (sel : TblSel) (c : Chip) : Chip :=
  let fail : Option (Status × List Tlv) := if selOk t sel && !c.devTarget t sel then none else some (.badParam, [])
  c.change r (.tblDelete r t sel) fail fun c =>
    let c := c.learnFirst t
    match c.selIndex t sel with
    | none => { chip := c }
    | some n =>
      if c.locked t n then c.refuse .locked
      else { chip := c.deleteNow t n, tlvs := [tlvIndex n], record := some (1, stagedContent (.tblDelete r t (.index n))) }

/-- The entry at an index as TBL_LOOKUP shows it: a KEY that finds an IPv6 prefix returns its pair. -/
def Chip.shownEntry (c : Chip) (t n : Nat) (sel : TblSel) : Tlv :=
  let b := tblEntryBytes t
  let e := c.entNow t n
  match sel with
  | .key _ => if t = 1 ∧ Lay.LPM_KIND.get e = 1 then tlvEntry (2 * b) (e * 2 ^ 256 + c.entNow 1 (n + 1)) else tlvEntry b e
  | .index _ => tlvEntry b e

/-- TBL_LOOKUP (R402): no stamp is refreshed and nothing is learned. -/
def Chip.doTblLookup (r : Req) (t : Nat) (sel : TblSel) (c : Chip) : Chip :=
  c.direct r (.tblLookup r t sel) fun c =>
    if !selOk t sel then c.refuse .badParam
    else if c.domainOff (.tblLookup r t sel) then c.refuse .domainOff
    else match c.selIndex t sel with
      | none => { chip := c }
      | some n => { chip := c, tlvs := [tlvIndex n, c.shownEntry t n sel] }

/-! ### DMA (R154) -/

/-- The form of a TBL_DMA: its range in one segment, its region, its transport and its DATA. -/
def dmaOk (r : Req) (t host first n : Nat) (write stamps : Bool) (data : Option Bytes) (fetched : Bool) : Bool :=
  decide (t ≤ 6) && decide (0 < n) && decide (first + n ≤ tblSize t) && segOf t first == segOf t (first + n - 1) &&
  (!stamps || decide (5 ≤ t)) && (host == 0 || r.via == .ring) &&
  (match data with
   | none => !write || host != 0
   | some d => write && (host == 0 || fetched) && d.length == n * dmaSize t stamps)

/-- Whether the sending slot has locked the segment. -/
def Chip.dmaLocked (c : Chip) (r : Req) (t first : Nat) : Bool :=
  let l := c.lock t (segOf t first)
  l.state == 2 && l.slot == r.slot

/-- The tag of a request that waits for a host transfer. -/
def transferTag : Nat := 2 ^ 32

/-- A request parked for a transfer with host memory (R364). -/
def Chip.parkTransfer (c : Chip) (r : Req) (i : Instr) : Chip :=
  if c.parkedFull then c.reply r (opOf i) .busy
  else { c with parked := c.parked ++ [{ cmd := i, deadline := 0, tag := transferTag }] }

/-- The tables that a DMA write is checked against: those in force, in a transaction as the commands staged before it would leave them. -/
def Chip.dmaView (c : Chip) (r : Req) : Chip :=
  match c.txnOf r with
  | none => c
  | some t => match c.preparedTables t.id t.req.slot t.staged with
    | .ok x => x.flipped t.id
    | .error _ => c

/-- The failure a TBL_DMA write meets before anything takes effect. -/
def Chip.dmaFail (c : Chip) (r : Req) (t host first n : Nat) (stamps : Bool) (data : Option Bytes) (fetched : Bool) :
    Option (Status × List Tlv) :=
  if !dmaOk r t host first n true stamps data fetched then some (.badParam, [])
  else if !c.dmaLocked r t first then some (.locked, [])
  else match data with
    | none => none
    | some d => if stamps || (c.dmaView r).dmaSound t (dmaItems t host first n false d) then none else some (.badParam, [])

/-- A TBL_DMA write whose data is at hand: staged, or carried out (R154). -/
def Chip.dmaGo (c : Chip) (r : Req) (t host first n : Nat) (stamps : Bool) (d : Bytes) : Chip :=
  let i := Instr.tblDma r t host first n true stamps (some d)
  c.change r i (c.dmaFail r t host first n stamps (some d) true) fun c =>
    { chip := c.dmaWrite t stamps (dmaItems t host first n stamps d), record := some (n, stagedContent i) }

/-- The bytes of a TBL_DMA read. -/
def Chip.dmaRead (c : Chip) (t host first n : Nat) (stamps : Bool) : Bytes :=
  (List.range n).flatMap fun k =>
    let i := first + k
    let v := if stamps then SMap.get c.tbl.stamps (entKey t 0 i)
      else if t = 5 ∧ !c.entryOk 5 i 0 then 0
      else if t ≤ 4 then c.ent t 0 i
      else c.entNow t i
    let b := bytesOfNat (dmaSize t stamps) v
    if host = 0 then b else b.reverse

/-- TBL_DMA (R154, R402): a host buffer makes it wait for the transfer. -/
def Chip.doTblDma (r : Req) (t host first n : Nat) (write stamps : Bool) (data : Option Bytes) (c : Chip) : Chip :=
  let i := Instr.tblDma r t host first n write stamps data
  if write then
    match data with
    | some d =>
      if host ≠ 0 then (if c.mayRun r i then c.reply r (opOf i) .badParam else c.reply r (opOf i) .noAccess)
      else c.dmaGo r t 0 first n stamps d
    | none =>
      if !c.mayRun r i then c.reply r (opOf i) .noAccess
      else if r.txn ≠ 0 ∧ (c.txnOf r).isNone then c.reply r (opOf i) .txnNone
      else match c.dmaFail r t host first n stamps none false with
        | some (st, l) => c.reply r (opOf i) st l
        | none => c.parkTransfer r i
  else if host ≠ 0 then
    if !c.mayRun r i then c.reply r (opOf i) .noAccess
    else if r.txn ≠ 0 then
      if (c.txnOf r).isSome then c.reply r (opOf i) .badParam else c.reply r (opOf i) .txnNone
    else if !dmaOk r t host first n false stamps data false then c.reply r (opOf i) .badParam
    else if c.domainOff i then c.reply r (opOf i) .domainOff
    else if !c.dmaLocked r t first then c.reply r (opOf i) .locked
    else c.parkTransfer r i
  else if c.requestHeld i && c.mayRun r i && r.txn == 0 && dmaOk r t host first n false stamps data false && !c.domainOff i && c.dmaLocked r t first then
    c.park r i 0 heldTag
  else
    c.direct r i fun c =>
      if !dmaOk r t host first n false stamps data false then c.refuse .badParam
      else if c.domainOff i then c.refuse .domainOff
      else if !c.dmaLocked r t first then c.refuse .locked
      else { chip := c, tlvs := [tlvData (n * dmaSize t stamps) (natOfBytes (c.dmaRead t 0 first n stamps)) (dmaSize t stamps)] }

/-- A request that waits for its transfer, the n-th parked, taken off the list. -/
def Chip.takeTransfer (c : Chip) (n : Nat) : Option (Instr × Chip) :=
  match c.parked[n]? with
  | some p => if p.tag = transferTag then some (p.cmd, { c with parked := c.parked.eraseIdx n }) else none
  | none => none

/-- TBL_DMA_DONE: the transfer of the n-th parked request ends; `data` are the bytes read from the host buffer of a write. -/
def Chip.tblDmaDone (n : Nat) (data : Bytes) (c : Chip) : Chip :=
  match c.takeTransfer n with
  | some (.tblDma r t host first k write stamps none, c1) =>
    if !write ∧ c1.requestHeld (.tblDma r t host first k write stamps none) then c
    else if write then c1.dmaGo r t host first k stamps (sliceBytes data 0 (k * dmaSize t stamps))
    else if !c1.dmaLocked r t first then c1.reply r 0x0304 .locked
    else (c1.emit (.hostWrite host (c1.dmaRead t host first k stamps))).reply r 0x0304 .ok
  | _ => c

/-! ### Barriers (R160) -/

/-- Frames whose key point came before a barrier and that have not left: received frames only. -/
def Chip.barrierHeld (c : Chip) (b : Barrier) : Nat :=
  (c.path.frames.filter fun f => f.origin == .received && decide (1 ≤ f.stage) && decide (f.keyNo ≤ b.keyNo) && f.keyNo != 0).length

/-- TBL_BARRIER (R160): up to four at once, counted among the waiting requests. -/
def Chip.doTblBarrier (r : Req) (timeout : Option Nat) (c : Chip) : Chip :=
  let i := Instr.tblBarrier r timeout
  let ms := timeout.getD 1000
  if !c.mayRun r i then c.reply r (opOf i) .noAccess
  else if r.txn ≠ 0 then
    if (c.txnOf r).isSome then c.reply r (opOf i) .badParam else c.reply r (opOf i) .txnNone
  else if ms = 0 ∨ 60000 < ms then c.reply r (opOf i) .badParam
  else
    let b : Barrier := { req := r, keyNo := c.path.keyCtr, deadline := c.now + unitsMs ms }
    if 4 ≤ c.tbl.barriers.length then c.reply r (opOf i) .busy [tlvHeld (c.barrierHeld b)]
    else if c.parkedFull then c.reply r (opOf i) .busy
    else { c with tbl := { c.tbl with barriers := c.tbl.barriers ++ [b] } }

/-- TBL_BARRIER_DONE: the oldest barrier replies once every frame before it has left. -/
def Chip.barrierDone (c : Chip) : Chip :=
  match c.tbl.barriers with
  | [] => c
  | b :: l => if c.barrierHeld b = 0 then ({ c with tbl := { c.tbl with barriers := l } }).reply b.req 0x0305 .ok else c

/-- TBL_BARRIER_TIMEOUT: the n-th barrier has waited for its timeout; it replies BUSY with the frames still held, and ends. -/
def Chip.barrierTimeout (n : Nat) (c : Chip) : Chip :=
  match c.tbl.barriers[n]? with
  | none => c
  | some b =>
    if b.deadline ≤ c.now ∧ c.barrierHeld b ≠ 0 then
      ({ c with tbl := { c.tbl with barriers := c.tbl.barriers.eraseIdx n } }).reply b.req 0x0305 .busy [tlvHeld (c.barrierHeld b)]
    else c

/-! ### Queue flush (R106) -/

/-- The queue or port of a QUEUE_FLUSH exists: queues of ports 0 to 511 and of MGT. -/
def flushOk (all : Bool) (n : Nat) : Bool := if all then decide (n ≤ 512) else decide (n < 4104)

/-- QUEUE_FLUSH (R106, R402): COUNTS for a flush executed directly. -/
def Chip.doQueueFlush (r : Req) (all : Bool) (n : Nat) (c : Chip) : Chip :=
  let i := Instr.queueFlush r all n
  c.change r i (if flushOk all n then none else some (.badParam, [])) fun c =>
    let (f, m, c1) := c.flushNow all n
    { chip := c1, tlvs := [tlvCounts f m], record := some (1, stagedContent i) }

end Sys2Proof.Machine
end

