-- ==== Sys2Proof/Machine/DrumCmd.lean ====
section
/-! DEFINITION. The commands of Drumline: CYC_LOAD, CYC_START, CYC_STOP and CYC_SWAP (R254, R272, R281, R287, R403). -/

namespace Sys2Proof.Machine

/-- An image checked, the first failing descriptor told, and written into the program region of its engine that is not active (R272, R281, R287). -/
def Chip.loadImage (c : Chip) (e : Nat) (b : Bytes) : Res :=
  match readImage b with
  | none => c.refuse .badParam [tlvFailObj (objId Cls.CYC (256 + e) 5)]
  | some g =>
    let d := c.rd Reg.ENG_CFG_DOMAIN (256 + e)
    let save := fun (a : Nat) => match c.entryAt d (cycAddr a) with | some i => c.rd Reg.GATHER_LIST_SRC d i == 0 | none => true
    let refuse := fun (x : Nat × Nat) => c.refuse .badParam [tlvDesc x.1, tlvDesc x.2]
    match badDesc save g.descs, hazard save (initMem (c.eng e).mem g.inits) g.descs with
    | some i, some x => if x.1 < i then refuse x else c.refuse .badParam [tlvDesc i]
    | some i, none => c.refuse .badParam [tlvDesc i]
    | none, some x => refuse x
    | none, none =>
      let c1 := (c.updEng e fun x => { x.putProg g with next := g, loaded := true }).showImages e
      { chip := c1, record := some (1, bytesOfNat 4 (objId Cls.CYC (256 + e) 5) ++ b) }

/-- The one engine of an ENGINES mask. -/
def oneEngine (m : Nat) : Option Nat := (List.range 64).find? fun e => m == 2 ^ e

def Chip.setPart (c : Chip) (k : Nat) (p : Option Partial) : Chip := { c with drum := { c.drum with part := SMap.set c.drum.part k p } }

/-- A chunk of an image under key k (R403): the image once its last byte has come, else the outcome so far. -/
def Chip.takeChunk (c : Chip) (r : Req) (k limit off total : Nat) (data : Bytes) : Sum Bytes Res × Chip :=
  let old := SMap.get c.drum.part k
  let foreign := match old with | some p => p.slot != r.slot | none => false
  if foreign then (.inr (c.refuse .busy), c)
  else
    let have_ : Bytes := if off = 0 then [] else match old with | some p => p.data | none => []
    let sameTotal := off == 0 || (match old with | some p => p.total == total | none => false)
    let all := have_ ++ data
    if !sameTotal || have_.length != off || decide (limit < total) || decide (total < all.length) || data == [] then
      let c1 := c.setPart k none
      (.inr (c1.refuse .badParam), c1)
    else if all.length = total then (.inl all, c.setPart k none)
    else
      let c1 := c.setPart k (some { slot := r.slot, total := total, data := all })
      (.inr { chip := c1 }, c1)

/-- Whether a swap of an engine is pending, or staged in a scheduled transaction (R272). -/
def Chip.swapPending (c : Chip) (e : Nat) : Bool :=
  (c.eng e).swap || c.txns.any fun t => t.state == .scheduled && t.staged.any fun i => match i with | .cycSwap _ m => bitOf m e | _ => false

/-- CYC_LOAD (R272, R403). -/
def Chip.doCycLoad (r : Req) (engines : Nat) (src : ImgSrc) (c : Chip) : Chip :=
  let i := Instr.cycLoad r engines src
  match oneEngine engines with
  | none => c.changeDirect r i (some (.badParam, [])) fun c => { chip := c }
  | some e =>
    let busy : Option (Status × List Tlv) := if c.swapPending e then some (.busy, []) else none
    match src with
    | .chunk off total data =>
      c.changeDirect r i busy fun c =>
        match c.takeChunk r e 1048576 off total data with
        | (.inl b, c1) => c1.loadImage e b
        | (.inr x, _) => x
    | .host _ len =>
      if r.via ≠ .ring ∨ 1048576 < len then c.changeDirect r i (some (.badParam, [])) fun c => { chip := c }
      else if !c.mayRun r i then c.reply r (opOf i) .noAccess
      else if r.txn ≠ 0 then
        if (c.txnOf r).isSome then c.reply r (opOf i) .badParam else c.reply r (opOf i) .txnNone
      else if c.domainOff i then c.reply r (opOf i) .domainOff
      else if c.swapPending e then c.reply r (opOf i) .busy
      else c.parkTransfer r i

/-- The fetched image of a CYC_LOAD. -/
def Chip.cycFetched (r : Req) (engines : Nat) (src : ImgSrc) (b : Bytes) (c : Chip) : Chip :=
  match oneEngine engines with
  | none => c
  | some e =>
    c.changeDirect r (.cycLoad r engines src) (if c.swapPending e then some (.busy, []) else none) fun c => c.loadImage e b

/-- CYC_START (R254), CYC_STOP. -/
def Chip.doCycStart (r : Req) (d : Fin 4) (c : Chip) : Chip :=
  let i := Instr.cycStart r d
  c.change r i (if c.domainLive d then some (.badParam, [tlvFailObj (objId Cls.CYC d 3)]) else none) fun c =>
    let c1 := c.armDomain d c.tb16
    { chip := c1, tlvs := [tlvTime (time96 (c1.dom d).next.toNat)], record := some (1, bytesOfNat 4 (objId Cls.CYC d 0)) }

def Chip.doCycStop (r : Req) (d : Fin 4) (c : Chip) : Chip :=
  let i := Instr.cycStop r d
  c.change r i none fun c => { chip := c.haltDomain d, record := some (1, bytesOfNat 4 (objId Cls.CYC d 0)) }

/-- CYC_SWAP (R272): staged only; an engine with nothing loaded cannot swap. -/
def Chip.doCycSwap (r : Req) (engines : Nat) (c : Chip) : Chip :=
  let i := Instr.cycSwap r engines
  if !c.mayRun r i then c.reply r (opOf i) .noAccess
  else if r.txn = 0 then c.reply r (opOf i) .txnNone
  else
    let bad := (List.range 64).find? fun e => bitOf engines e && !(c.eng e).loaded
    c.stage r i (bad.map fun e => (.badParam, [tlvFailObj (objId Cls.CYC (256 + e) 5)])) []

end Sys2Proof.Machine
end

