-- ==== Sys2Proof/Machine/Service.lean ====
section
/-! DEFINITION. Calibration, the Lull test, diagnostic capture and the opening of factory test access (R425 to R441,
20_calibration_diagnostics.md). -/

namespace Sys2Proof.Machine

/-! ### Calibration -/

/-- The object whose value item n of a procedure gives (R428, R429). -/
def calObj (proc n : Nat) : Nat :=
  if proc = 0 then objId Cls.EVT n 0x02
  else if proc = 1 then
    if n < 32 then objId Cls.EVT (32 + n) 0x32
    else if n < 40 then objId Cls.EVT (32 + n) 0x43
    else objId Cls.SYN (n - 24) 0x04
  else if proc = 2 then objId Cls.PORT n 0x50
  else objId Cls.PORT n 0x51

/-- PROC, MEAS_IN, FIRST and LAST of a CAL TLV. -/
def calProc (cal : Nat) : Nat := bitsOf cal 56 8
def calMeasIn (cal : Nat) : Nat := bitsOf cal 48 8
def calFirst (cal : Nat) : Nat := bitsOf cal 32 16
def calLast (cal : Nat) : Nat := bitsOf cal 16 16

/-- The items of a run. -/
def calItems (cal : Nat) : List Nat :=
  if calProc cal = 3 then [calFirst cal] else (List.range (calLast cal + 1 - calFirst cal)).map (calFirst cal + ·)

/-- The reserved bits of a CAL TLV are 0 (R4). -/
def calReservedOk (cal : Nat) : Bool := bitsOf cal 0 16 == 0

/-- Whether FIRST to LAST names items of the procedure (R429). -/
def calRangeOk (cal : Nat) : Bool :=
  let top := match calProc cal with | 0 => 31 | 1 => 47 | 2 => 511 | 3 => 511 | _ => 0
  decide (calProc cal ≤ 3) && decide (calMeasIn cal ≤ 31) && decide (calFirst cal ≤ top) && decide (calLast cal ≤ top) &&
  (if calProc cal = 3 then calFirst cal != calLast cal
   else decide (calFirst cal ≤ calLast cal) && decide (calLast cal + 1 - calFirst cal ≤ 64))

/-- CAL_RUN (R425, R426, R428, R429): accepted with both selectors locked to the user's reference; the request waits. -/
def Chip.doCalRun (r : Req) (cal : Nat) (c : Chip) : Chip :=
  let i := Instr.calRun r cal
  let claim := fun (o : Nat) => [tlvClaimant o 0xFFFFFFFF, tlvClaimant (objId Cls.CAL 0 0) 0xFFFFFFFF]
  let lockedF := c.rd Reg.SEL_STATUS_FSTATE == 2 && c.rd Reg.SEL_STATUS_FREF == 0
  let lockedT := c.rd Reg.SEL_STATUS_TSTATE == 2 && c.rd Reg.SEL_STATUS_TREF == 4
  if !c.mayRun r i then c.reply r (opOf i) .noAccess
  else if r.txn ≠ 0 then
    if (c.txnOf r).isSome then c.reply r (opOf i) .badParam else c.reply r (opOf i) .txnNone
  else if !calRangeOk cal || !calReservedOk cal then c.reply r (opOf i) .badParam
  else if c.cal.run.isSome ∨ c.parkedFull then c.reply r (opOf i) .busy
  else if !lockedF || !lockedT then
    let ref := if !lockedF then c.rd Reg.SEL_STATUS_FREF else c.rd Reg.SEL_STATUS_TREF
    c.reply r (opOf i) .resourceConflict (claim (if ref = 31 then objId Cls.TIME 0 0x22 else objId Cls.REF ref 1))
  else if calProc cal = 1 ∧ (calItems cal).any (fun n => decide (40 ≤ n) && c.rd Reg.CKO_ALIGN_ALIGN (n - 24) != 2) then
    c.reply r (opOf i) .badParam
  else match c.calTaken cal with
    | some o => c.reply r (opOf i) .resourceConflict (claim o)
    | none =>
      ({ c with cal := { c.cal with run := some (r, cal) } }.flag Reg.CAL_STATUS_RUNNING true).park r i 0 0

/-- The mean of two values, ties away from zero (R429). -/
def calMean (a b : Int) : Int :=
  let s := a + b
  if 0 ≤ s then (divRound s.natAbs 2 : Int) else -(divRound s.natAbs 2 : Int)

/-- The values one measurement yields (R428): for PROC 2 TX_DELAY and RX_DELAY; for PROC 3 the coefficient in 10^-12. -/
def Chip.calValues (c : Chip) (proc : Nat) (a b : Int) : List Int :=
  match proc with
  | 0 => [a + c.rdS Reg.CAL_REF_CAB_PPS - c.rdS Reg.CAL_KIT_CAB_IN]
  | 1 => [a - c.rdS Reg.CAL_KIT_CAB_OUT]
  | 2 => let tx := a - c.rdS Reg.CAL_KIT_D_OE; [tx, b - c.rdS Reg.CAL_KIT_D_LOOP - tx]
  | _ => [if a + b = 0 then (Config.zeroDelay (a - b)).toInt else divRoundS ((a - b) * 1000000000000 * (a + b).sign) (a + b).natAbs]

/-- One item judged: its status and its result (R429; log entry 10 for PROC 3). -/
def Chip.calJudge (c : Chip) (proc : Nat) (m : CalMeas) : Nat × List Int × List Int × List Int :=
  let v1 := c.calValues proc m.a1 m.b1
  let v2 := c.calValues proc m.a2 m.b2
  let tol : Int := c.rd Reg.CAL_CFG_REPEAT_TOL
  let pairs := if proc = 3 then [(m.a1 - m.b1, m.a2 - m.b2)] else v1.zip v2
  let agree := pairs.all fun p => decide (((p.1 - p.2).natAbs : Int) * 1000 ≤ tol * 1024)
  let res := (v1.zip v2).map fun p => calMean p.1 p.2
  let lim := if proc = 3 then 1000000000 else 1024000
  let st := if !m.signal then 2 else if !agree then 1 else if res.all fun z => decide (z.natAbs ≤ lim) then 0 else 3
  (st, res, v1, v2)

/-- The attribute value a result makes. -/
def calAttr (proc : Nat) (res : List Int) : Nat :=
  if proc = 2 then encS 32 (res.getD 0 0) * 2 ^ 32 + encS 32 (res.getD 1 0) else encS 32 (res.getD 0 0)

/-- The result record of an item (R429). -/
def Chip.calRecord (c : Chip) (proc n : Nat) (m : CalMeas) : Nat :=
  let (st, res, v1, v2) := c.calJudge proc m
  let v := calAttr proc res
  Lay.CALREC_OBJ.put (calObj proc n) + Lay.CALREC_STATUS.put st + Lay.CALREC_PROC.put proc +
  Lay.CALREC_VALUE.put (if proc = 3 then v * 2 ^ 32 else v) + Lay.CALREC_M1.put (encS 32 (v1.getD 0 0)) +
  Lay.CALREC_M2.put (encS 32 (v2.getD 0 0)) + Lay.CALREC_SD.put m.sd

/-- A parked request of an opcode, taken off the list with its request. -/
def Chip.unpark (c : Chip) (op : Nat) (r : Req) : Chip :=
  { c with parked := c.parked.eraseP fun p => opOf p.cmd == op && p.tag == 0 && (reqOfParked p.cmd == some r) }
where
  /-- The request behind a waiting command. -/
  reqOfParked : Instr → Option Req
    | .calRun r _ => some r
    | .diagCapture r _ _ => some r
    | .tblBarrier r _ => some r
    | .tblDma r _ _ _ _ _ _ _ => some r
    | .cycLoad r _ _ => some r
    | .fwStage r _ _ => some r
    | .fwWrite r _ => some r
    | .fwActivate r _ => some r
    | _ => none

/-- CAL_RUN_DONE (R429): items accepted become candidates; the reply carries one record per item. -/
def Chip.calRunDone (ms : List CalMeas) (c : Chip) : Chip :=
  match c.cal.run with
  | none => c
  | some (r, cal) =>
    let proc := calProc cal
    let items := (calItems cal).zip ms
    let good := items.filter fun x => (c.calJudge proc x.2).1 == 0 && proc != 3
    let new := good.map fun x => ({ obj := calObj proc x.1, val := calAttr proc (c.calJudge proc x.2).2.1, proc := proc } : CalVal)
    let cands := (c.cal.cands.filter fun v => !(new.any fun w => w.obj == v.obj)) ++ new
    let recs := items.map fun x => c.calRecord proc x.1 x.2
    let c1 := { c with cal := { c.cal with run := none, cands := cands } }
    (((c1.flag Reg.CAL_STATUS_RUNNING false).flag Reg.CAL_STATUS_CANDIDATES (!cands.isEmpty)).unpark 0x0B01 r).reply r 0x0B01 .ok
      [tlvData (32 * recs.length) (joinElems 32 recs) 256]

/-- A calibrated value put into its attribute. -/
def Chip.putCal (c : Chip) (v : CalVal) : Chip :=
  let i := objInst v.obj
  match objCls v.obj, objAttr v.obj with
  | 11, 0x02 => c.wr Reg.EVI_DELAY v.val i
  | 11, 0x32 => c.wr Reg.EVO_DELAY v.val i
  | 11, 0x43 => c.wr Reg.PPO_DELAY v.val i
  | 9, 0x04 => c.wr Reg.CKO_DELAY v.val i
  | 2, 0x50 => (c.wr Reg.TS_DELAY_TX_DELAY (v.val / 2 ^ 32) i).wr Reg.TS_DELAY_RX_DELAY v.val i
  | _, _ => c

/-- The valid copy with the higher CAL_COUNT (R431). -/
def Cal.newest (k : Cal) : Option CalSet :=
  if k.setA.valid && k.setB.valid then some (if k.setA.count ≤ k.setB.count then k.setB else k.setA)
  else if k.setA.valid then some k.setA
  else if k.setB.valid then some k.setB else none

/-- The other copy is written with a new set (R431). -/
def Cal.store (k : Cal) (n : CalSet) : Cal :=
  if k.setA.valid && (!k.setB.valid || decide (k.setB.count < k.setA.count)) then { k with setB := n } else { k with setA := n }

/-- A set's records with those of a commit replaced or added. -/
def calMerge (old new : List CalVal) : List CalVal := (old.filter fun v => !(new.any fun w => w.obj == v.obj)) ++ new

/-- What CAL_COMMIT does (R430, R431): the candidates of the procedure go into their attributes and, with those the newest copy holds, into the other copy. -/
def Chip.calBody (cal : Nat) (c : Chip) : Res :=
  let pick := fun (v : CalVal) => calProc cal == 255 || v.proc == calProc cal
  let new := c.cal.cands.filter pick
  if new = [] then c.refuse .roleState
  else
    let old := (c.cal.newest).getD {}
    let t := time96 (c.nextTb / 2 ^ 24)
    let n : CalSet := { valid := true, count := (old.count + 1) % 2 ^ 32, lastTime := t, recs := calMerge old.recs new }
    let rest := c.cal.cands.filter fun v => !pick v
    let c1 := c.each new fun v c => c.putCal v
    let c2 := { c1 with cal := { (c1.cal.store n) with cands := rest } }
    { chip := ((((c2.flag Reg.CAL_STATUS_CAL_VALID true).flag Reg.CAL_STATUS_CANDIDATES (!rest.isEmpty)).flag
        Reg.CAL_STATUS_OVERRIDE false).wr Reg.CAL_STATUS_CAL_COUNT n.count).wr Reg.CAL_LAST t,
      record := some (new.length, new.flatMap fun v => bytesOfNat 4 v.obj ++ bytesOfNat 8 v.val) }

/-- CAL_COMMIT (R430, R431). -/
def Chip.doCalCommit (r : Req) (cal : Nat) (c : Chip) : Chip :=
  let fail : Option (Status × List Tlv) := if (3 < calProc cal ∧ calProc cal ≠ 255) ∨ calReservedOk cal = false then some (.badParam, []) else none
  c.changeDirect r (.calCommit r cal) fail (Chip.calBody cal)

/-- The valid set brought into force at a start (R432). -/
def Chip.loadCal (c : Chip) : Chip :=
  match c.cal.newest with
  | none => c
  | some n =>
    (((c.each n.recs fun v c => c.putCal v).flag Reg.CAL_STATUS_CAL_VALID true).wr Reg.CAL_STATUS_CAL_COUNT n.count).wr
      Reg.CAL_LAST n.lastTime

/-! ### Lull test -/

/-- LULL_CTRL (R434). -/
def Chip.doLullCtrl (r : Req) (word : Nat) (c : Chip) : Chip :=
  let fail : Option (Status × List Tlv) := if bitsOf word 0 16 = 0 ∨ (word &&& 0x70FF0000) ≠ 0 then some (.badParam, []) else none
  c.changeDirect r (.lullCtrl r word) fail fun c =>
    { chip := ((((((c.flag Reg.LULL_CFG_EN (bitOf word 31)).flag Reg.LULL_CFG_CELLS (bitOf word 27)).flag
        Reg.LULL_CFG_SCRUB (bitOf word 26)).flag Reg.LULL_CFG_TDC (bitOf word 25)).flag Reg.LULL_CFG_ENGINES (bitOf word 24)).wr
        Reg.LULL_CFG_PERIOD_S (bitsOf word 0 16)).flag Reg.LULL_STATUS_RUNNING (bitOf word 31),
      record := some (1, bytesOfNat 4 (objId Cls.TEST 0 1) ++ bytesOfNat 4 word) }

/-- A finding shown in LULL_FAULT (R434). -/
def Chip.lullFault (c : Chip) (kind tbl index : Nat) (detail : Int) : Chip :=
  ((((c.wr Reg.LULL_FAULT_KIND kind).wr Reg.LULL_FAULT_TABLE tbl).wr Reg.LULL_FAULT_INDEX index).wrS Reg.LULL_FAULT_DETAIL detail).wr
    Reg.LULL_FAULT_SEC c.tbSec

/-- Cells MRAM can record as retired (R433). -/
def retireLimit : Nat := 4096

/-- LULL_CELL_TEST (R433, R94): a free cell of a bank with more than 64 free cells is tested; a failing one is retired. -/
def Chip.lullCell (cell : Nat) (pass : Bool) (c : Chip) : Chip :=
  if !c.on Reg.LULL_CFG_EN || !c.on Reg.LULL_CFG_CELLS || pass || !c.cellTestable cell then c
  else
    let c1 := (c.count Ev.LULL_CELL_BAD).lullFault 1 0 cell 0
    if retireLimit ≤ c.lull.retired.length then c1.flag Reg.LULL_STATUS_RETIRE_FULL true
    else
      let l := cell :: c.lull.retired
      ((({ c1 with lull := { c1.lull with retired := l } }.flag Reg.LULL_STATUS_CELL_FAULT true).wr Reg.LULL_STATUS_RETIRED l.length).flag
        Reg.LULL_STATUS_RETIRE_FULL (decide (l.length = retireLimit)))

/-- LULL_SCRUB (R433): a bucket word read, corrected or found uncorrectable; locked segments are skipped. -/
def Chip.lullScrub (tbl index : Nat) (found : Ecc) (c : Chip) : Chip :=
  if !c.on Reg.LULL_CFG_EN || !c.on Reg.LULL_CFG_SCRUB || c.locked tbl index || c.arbFrozen (tblArb tbl index) then c
  else match found with
    | .clean => c
    | .corrected => c.count Ev.LULL_ECC_CORR
    | .uncorrectable =>
      let words := if c.lull.badWords.contains (tbl, index) then c.lull.badWords else (tbl, index) :: c.lull.badWords
      ((({ c with lull := { c.lull with badWords := words } }).count Ev.LULL_ECC_UNCORR).flag Reg.LULL_STATUS_ECC_UNCORR true).lullFault
        2 tbl index 0

/-- LULL_TDC_PULSE (R433): a channel more than 6 ps from its group's median. -/
def Chip.lullTdc (ch : Nat) (dev : Int) (c : Chip) : Chip :=
  if !c.on Reg.LULL_CFG_EN || !c.on Reg.LULL_CFG_TDC || decide (dev.natAbs * 1000 ≤ 6 * 1024) then c
  else ((c.count Ev.LULL_TDC_DEVIATE).flag Reg.LULL_STATUS_TDC_DEVIATE true).lullFault 3 0 ch dev

/-- LULL_ENGINE_TEST (R433): an engine with EN = 0 fails the fixed vector set. -/
def Chip.lullEngine (e : Nat) (pass : Bool) (c : Chip) : Chip :=
  if !c.on Reg.LULL_CFG_EN || !c.on Reg.LULL_CFG_ENGINES || c.on Reg.ENG_CFG_EN (256 + e) || pass then c
  else ((c.count Ev.LULL_ENG_FAIL).flag Reg.LULL_STATUS_ENGINE_FAULT true).lullFault 4 0 e 0

/-! ### Diagnostic capture -/

/-- Bytes of a capture scope that fit no reply without HOST_BUF (R439): scopes 0 and 2 exceed 64 KiB. -/
def captureNeedsHost (word : Nat) : Bool := bitsOf word 24 8 == 0 || bitsOf word 24 8 == 2

/-- Whether the parameter of a capture is valid (R439). -/
def captureOk (word : Nat) : Bool :=
  let p := bitsOf word 0 24
  match bitsOf word 24 8 with
  | 0 => p == 0
  | 1 => decide (1 ≤ bitsOf p 0 8) && decide (bitsOf p 0 8 ≤ 128)
  | 2 => decide (p < 64)
  | 3 => decide (p < 512)
  | 4 => p == 0
  | _ => false

/-- The first cycle-memory byte of a scope-1 capture, and its length (R439). -/
def captureStart (word : Nat) : Nat := bitsOf word 18 6 * 524288 + bitsOf word 8 10 * 512
def captureLen (word : Nat) : Nat := bitsOf word 0 8 * 512

/-- DIAG_CAPTURE (R439, R440): the request waits while the capture copies. -/
def Chip.doDiagCapture (r : Req) (word : Nat) (host : Option (Nat × Nat)) (c : Chip) : Chip :=
  let i := Instr.diagCapture r word host
  if !c.mayRun r i then c.reply r (opOf i) .noAccess
  else if r.txn ≠ 0 then
    if (c.txnOf r).isSome then c.reply r (opOf i) .badParam else c.reply r (opOf i) .txnNone
  else if !captureOk word || (captureNeedsHost word && host.isNone) then c.reply r (opOf i) .badParam
  else if c.diag.isSome ∨ c.parkedFull then c.reply r (opOf i) .busy
  else if bitsOf word 24 8 = 2 ∧ !(c.rd Reg.ENG_STATUS_STATE (256 + bitsOf word 0 6) == 0 ||
      c.rd Reg.ENG_STATUS_STATE (256 + bitsOf word 0 6) == 6) then c.reply r (opOf i) .busy
  else if bitsOf word 24 8 = 1 ∧ c.captureBlocked (bitsOf word 18 6) (captureStart word) (captureLen word) then
    c.reply r (opOf i) .busy
  else ({ c with diag := some (r, word, host) }).park r i 0 0

/-- The classes of a scope-0 capture and their largest instance (R439). -/
def captureClasses : List (Nat × Nat) :=
  [(1, 0), (2, 512), (3, 511), (8, 0), (9, 23), (10, 23), (12, 319), (14, 0), (15, 0), (17, 0), (18, 1)]

/-- (OBJ VALUE) of every attribute that holds an RO, RC or W1C field, without clearing (R439). -/
def Chip.captureAll (c : Chip) : Bytes :=
  attrTable.flatMap fun a =>
    if (captureClasses.any fun k => k.1 == a.cls) && a.flds.any (fun F => F.acc == .ro || F.acc == .rc || F.acc == .w1c) then
      (List.range (a.instHi - a.instLo + 1)).flatMap fun k =>
        if k % a.instStep = 0 then
          let i := a.instLo + k
          payloadBytes [tlvObj (objId a.cls i a.attr),
            tlvValue (a.elemBytes * a.elems) (joinElems a.elemBytes ((List.range a.elems).map fun e => c.attrNow a i e)) 0]
        else []
    else []

/-- The bytes of a capture; analogue lane state and MRAM check states are sensed (R439; log entry 11). -/
def Chip.captureBytes (c : Chip) (word : Nat) (sensed : Bytes) : Bytes :=
  match bitsOf word 24 8 with
  | 0 => c.captureAll
  | 1 => c.cycleImage (captureStart word) (captureLen word)
  | 2 => c.engineImage (bitsOf word 0 6)
  | 3 => sliceBytes sensed 0 256
  | _ => sensed

/-- DIAG_CAPTURE_DONE (R439): the capture is returned as DATA or written to the host buffer; a read of a bank that a running cycle writes is
still held (R265). -/
def Chip.diagDone (sensed : Bytes) (c : Chip) : Chip :=
  match c.diag with
  | none => c
  | some (r, word, host) =>
    if bitsOf word 24 8 = 1 ∧ c.captureHeld (bitsOf word 18 6) then c
    else
    let b := c.captureBytes word sensed
    let c1 := ({ c with diag := none }).unpark 0x0B05 r
    match host with
    | none => c1.reply r 0x0B05 .ok [tlvData b.length (natOfBytes b) 256]
    | some (addr, len) => (c1.emit (.hostWrite addr (b.take len))).reply r 0x0B05 .ok

/-! ### Factory test access -/

/-- A key slot zeroised. -/
def Chip.zeroSlot (s : Nat) (c : Chip) : Chip := ((c.flag Reg.KEY_STATE_VALID false s).wr Reg.KEY_STATE_LAST_SEQ 0 s).setRole s 0 0

/-- JRN_SEAL zeroised; the next SEQ is the sealed one + 65,537, as after loss of VBAK (R391). -/
def Chip.zeroSeal (c : Chip) : Chip :=
  let next := c.rd Reg.JRN_SEAL_SEQ + 65537
  ((((((c.wr Reg.JRN_SEAL_SEQ 0).wr Reg.JRN_SEAL_DIGEST 0).wr Reg.JRN_SEAL_FLASH_INDEX 0).wr Reg.JRN_SEAL_CRC 0).wr Reg.JRN_STATUS_NEXT_SEQ next).wr
    Reg.JRN_STATUS_UNSPILLED 0).flag Reg.JRN_STATUS_COMMIT_HOLD false

/-- FACTORY_TEST_ACCESS_OPEN (R441, R391): keys, LAST_SEQ, device state key, journal, seal and flash journal are zeroised; a KIND 3
record starts a new chain, its SEQ resuming as after loss of VBAK. -/
def Chip.factoryOpen (c : Chip) : Chip :=
  let c1 := (c.each (List.range 32) Chip.zeroSlot).zeroSeal
  { c1 with
    keys := [], jrn := { ring := [], flash := [], digest := 0, lastSpill := c.now, keepSeq := 0 }, stateKey := 0
    twin := { c1.twin with slotA := none, slotB := none } }.jrnEvent 0 0

end Sys2Proof.Machine
end

