-- ==== Sys2Proof/Machine/Checkpoint.lean ====
section
/-! DEFINITION. Checkpoints (R338 to R341, R346, R347, R395): what the active tells of its state, how a standby takes it in, saves it and
restores it at Thaw. The form of the data is the model's, since it passes only between two TK5120s (log entry 35). -/

namespace Sys2Proof.Machine

/-! ### Records -/

/-- Where the last value sent of a record is kept. -/
def CkRec.key (r : CkRec) : Nat := (r.kind * 2 ^ 32 + r.a) * 2 ^ 32 + r.b

/-- Records from bytes. -/
def readRecs : Nat → Bytes → Option (List CkRec)
  | 0, b => if b.isEmpty then some [] else none
  | n + 1, b =>
    if b.isEmpty then some []
    else
      let k := natAt b 9 2
      if b.length < 11 + 66 * k then none
      else
        let r : CkRec :=
          { kind := natAt b 0 1, a := natAt b 1 4, b := natAt b 5 4
            nums := (List.range k).map fun j => signed 528 (natAt b (11 + 66 * j) 66) }
        (readRecs n (b.drop (11 + 66 * k))).map (r :: ·)

/-- A number of a record. -/
def CkRec.num (r : CkRec) (j : Nat) : Int := r.nums.getD j 0
def CkRec.nat (r : CkRec) (j : Nat) : Nat := (r.num j).toNat

/-! ### What is told (R340) -/

/-- An entry without its last-hit stamp, visible to both generations. -/
def bareEntry (t i e : Nat) : Nat :=
  let e1 := match hitField t i with | some F => F.set e 0 | none => e
  if t ≤ 4 then setVis t e1 3 else e1

/-- The entries of a table as the generation in force sees them. -/
def Chip.liveEntries (c : Chip) (t : Nat) : List (Nat × Nat) :=
  if t ≤ 4 then c.visible (c.gen t) t
  else ((((c.entries t 0) ++ (c.entries t 1)).map Prod.fst).eraseDups.map fun i => (i, c.entNow t i)).filter fun x => x.2 != 0

/-- Kind 1: entries; kind 2: recovery histories; kind 7: states of the domains. -/
def Chip.tableRecs (c : Chip) : List CkRec :=
  ((List.range 7).flatMap fun t => (c.liveEntries t).map fun x => { kind := 1, a := t * 2 ^ 20 + x.1, nums := [(bareEntry t x.1 x.2 : Nat)] }) ++
  (c.tbl.rcov.filterMap fun x => if x.2.live then some { kind := 2, a := x.1, nums := [(x.2.seq : Int), (x.2.hist : Int)] } else none) ++
  (List.range 4).map fun d => { kind := 7, a := d, nums := [(c.cdState d : Nat)] }

/-- The ages in AGE_UNIT of the last-hit stamps (kind 4): stamps count each unit's own time. -/
def Chip.hitRecs (c : Chip) : List CkRec :=
  let age := fun (s : Nat) => ((c.stampNow + 65536 - s % 65536) % 65536 : Nat)
  (List.range 7).flatMap fun t =>
    (c.liveEntries t).filterMap fun x =>
      if t ≤ 4 then (hitField t x.1).map fun F => { kind := 4, a := t * 2 ^ 20 + x.1, nums := [(age (F.get x.2) : Int)] }
      else some { kind := 4, a := t * 2 ^ 20 + x.1, nums := [(age (SMap.get c.tbl.stamps (entKey t 0 x.1)) : Int)] }

/-- Kind 5: references; kind 6: the jump guard. -/
def Chip.refRecs (c : Chip) : List CkRec :=
  ((List.range 24).map fun n => { kind := 5, a := n, nums := [(c.qstate n : Nat), (c.wtrLeft n : Nat)] }) ++
  [{ kind := 6, nums := [(c.rd Reg.TIME_STATUS_TIME_JUMP_REFUSED : Nat), (c.rd Reg.PENDING_JUMP_JUMP_ID : Nat), (c.rd Reg.PENDING_JUMP_SOURCE : Nat),
      (c.rd Reg.PENDING_JUMP_REF : Nat), c.rdS Reg.PENDING_JUMP_OFFSET, (c.rd Reg.PENDING_JUMP_REFUSED_NS : Nat), (c.time.lastJump : Nat)] }]

/-- A program image as numbers: IMAGE_ID, descriptors, init records with their words of 32 bytes. -/
def imgNums (g : Img) : List Int :=
  [(g.id : Int), (g.descs.length : Int)] ++ (g.descs.map fun (w : Nat) => (w : Int)) ++ [(g.inits.length : Int)] ++
  g.inits.flatMap fun r => [(b2n r.1 : Int), (r.2.1 : Int), (r.2.2.length / 32 : Nat)] ++
    (List.range (r.2.2.length / 32)).map fun j => (natOfBytes (sliceBytes r.2.2 (32 * j) 32) : Int)

/-- Init records from numbers, and what follows them. -/
def numInits : Nat → List Int → List (Bool × Nat × Bytes) × List Int
  | 0, l => ([], l)
  | n + 1, l =>
    match l with
    | s :: a :: k :: rest =>
      let b := (rest.take k.toNat).flatMap fun w => bytesOfNat 32 w.toNat
      let (x, y) := numInits n (rest.drop k.toNat)
      ((s != 0, a.toNat, b) :: x, y)
    | _ => ([], [])

/-- An image from numbers, and what follows it. -/
def numImg (l : List Int) : Img × List Int :=
  match l with
  | id :: n :: rest =>
    let ds := (rest.take n.toNat).map Int.toNat
    match rest.drop n.toNat with
    | m :: rest' => let (x, y) := numInits m.toNat rest'; ({ descs := ds, inits := x, id := id.toNat }, y)
    | [] => ({ descs := ds, id := id.toNat }, [])
  | _ => ({}, [])

/-- The images of an engine (kind 31, whole). -/
def Chip.engImages (c : Chip) (e : Nat) : List Int :=
  let x := c.eng e
  [(b2n x.loaded : Int), (b2n x.swap : Int), (b2n x.regionB : Int)] ++ imgNums x.prog ++ imgNums x.next

def Chip.imageRecs (c : Chip) : List CkRec :=
  (List.range 64).filterMap fun e => if (c.eng e).prog = {} ∧ !(c.eng e).loaded then none else some { kind := 31, a := e, nums := c.engImages e }

/-- Images divided for sending: each part holds up to 100 numbers, the first their total in front. -/
def imageParts (r : CkRec) : List CkRec :=
  let l := (r.nums.length : Int) :: r.nums
  (List.range (ceilDiv l.length 100)).map fun k => { r with b := k, nums := (l.drop (100 * k)).take 100 }

/-- Fields of transactions (TX), TWIN_CFG apart, which each unit keeps its own. -/
def ckFields : List Fld := (attrTable.flatMap fun a => if a.cls = Cls.TWIN ∧ a.attr = 1 then [] else a.flds).filter fun F => F.acc == .tx

/-- Whether a place of the attribute store is one of those. -/
def ckPlace (ids : List Nat) (k : Nat) : Bool := ids.contains (k / 2 ^ 40)

/-- The configuration (kind 30): place, and the difference from the reset value in two parts. -/
def Chip.configRecs (c : Chip) : List CkRec :=
  let ids := ckFields.map Fld.id
  (c.regs.filter fun x => ckPlace ids x.1).zipIdx.map fun y =>
    { kind := 30, b := y.2, nums := [(y.1.1 : Int), (y.1.2 % 2 ^ 512 : Nat), (y.1.2 / 2 ^ 512 : Nat)] }

/-- Transactions that wait for their commit point or their prepare. -/
def Chip.txnView (c : Chip) : List CkRec :=
  c.txns.flatMap fun t => if t.checked then txnRecs t ++ (if t.state = .scheduled then [pointRec t] else []) else []

/-- The journal's position (kind 8). -/
def Chip.jrnRec (c : Chip) : CkRec := { kind := 8, nums := [(c.rd Reg.JRN_STATUS_NEXT_SEQ : Nat), (c.jrn.digest : Nat)] }

/-! ### Snapshots of a domain (R340, R341) -/

/-- Time differences between the block's own time and the timebase. -/
def Chip.tbAt (c : Chip) (n : Nat) : Int := (c.tb16 : Int) + ((n : Int) - c.now) * 65536 / 100

/-- Queued requests of an event output as numbers. -/
def evoNums (l : List (List EvoEdge)) : List Int :=
  l.flatMap fun r => (r.length : Int) :: r.flatMap fun e => [e.adj, (e.t : Int), (e.act : Int)]

/-- Edges from numbers. -/
def numEdges : Nat → List Int → List EvoEdge
  | 0, _ => []
  | n + 1, l => match l with
    | a :: t :: k :: rest => { adj := a, t := t.toNat, act := k.toNat } :: numEdges n rest
    | _ => []

/-- Requests from numbers; fuel bounds them. -/
def numEvo : Nat → List Int → List (List EvoEdge)
  | 0, _ => []
  | n + 1, l => match l with
    | k :: rest => numEdges k.toNat rest :: numEvo n (rest.drop (3 * k.toNat))
    | [] => []

/-- A snapshot: cycle number, boundary and AXIS_FAULT (10), registers (11), predicates (12), ranges of CKPT_LIST (13), both halves of state
blocks (15), mailboxes (16), requests at engine-owned outputs (17) and loops (18), their positions and ramps (19), its end (255). -/
def Chip.snapRecs (c : Chip) (d : Nat) : List CkRec :=
  let es := (List.range 64).filter fun e => (c.eng e).dom == some d
  [{ kind := 10, a := d, nums := [(c.rd Reg.CD_CYCLE d : Nat), (c.dom d).tk, (c.rd Reg.AXIS_FAULT d : Nat)] }] ++
  (es.flatMap fun e =>
    let x := c.eng e
    [{ kind := 11, a := e, nums := (List.range 32).map fun r => ((x.reg r : Nat) : Int) },
     { kind := 12, a := e, nums := (List.range 7).map fun p => ((x.prd (p + 1) : Nat) : Int) },
     { kind := 16, a := e, nums := x.mbx.map fun (m : Nat) => (m : Int) }] ++
    (progStates x.prog.descs).flatMap fun s => blobRecs 15 (e * 2 ^ 20 + s.1) (memRead x.mem s.1 (2 * s.2))) ++
  ((List.range 64).flatMap fun i =>
    let len := 32 * c.rd Reg.CKPT_LIST_LEN 0 i
    let a := c.rd Reg.CKPT_LIST_ADDR 0 i
    let e := c.rd Reg.CKPT_LIST_ENGINE 0 i
    if !c.on Reg.CKPT_LIST_VALID 0 i then []
    else if c.on Reg.CKPT_LIST_SPACE 0 i then blobRecs 13 i (memRead c.drum.cyc a len)
    else if es.contains e then blobRecs 13 i (memRead (c.eng e).mem a len) else []) ++
  ((List.range 32).filterMap fun n =>
    if c.rd Reg.EVO_CFG_OWNER (32 + n) = 2 ∧ es.contains (c.rd Reg.EVO_CFG_OWNER_ID (32 + n)) then
      some { kind := 17, a := n, nums := evoNums (SMap.get c.evos n).queue } else none) ++
  ([1, 2, 3, 4].flatMap fun l =>
    if c.rd Reg.SYN_OWNER_OWNER l = 1 ∧ es.contains (c.rd Reg.SYN_OWNER_OWNER_ID l) then
      let g := (c.dpll l).gen
      [{ kind := 18, a := l, nums := g.reqs.flatMap fun r => [c.tbAt r.1, r.2.1, (r.2.2 : Int)] },
       { kind := 19, a := l, nums := [g.x, g.latched, g.out, g.target, (g.slew : Int), (match g.prof with | some k => (k : Int) + 1 | none => 0),
          (b2n g.reached : Nat), (match g.holdTo with | some t => c.tbAt t | none => -1)] }]
    else []) ++
  [{ kind := 255, a := d }]

/-- Target requests from numbers. -/
def Chip.numReqs (c : Chip) : Nat → List Int → List (Nat × Int × Nat)
  | 0, _ => []
  | n + 1, l => match l with
    | s :: t :: w :: rest => (c.nowAt s, t, w.toNat) :: c.numReqs n rest
    | _ => []

/-- One record of a snapshot restored (R346 step 5). -/
def Chip.restoreRec (r : CkRec) (c : Chip) : Chip :=
  let bytes := blobOf [r]
  let off := 960 * r.b
  match r.kind with
  | 10 =>
    ((c.wr Reg.CD_CYCLE (r.nat 0) r.a).wr Reg.AXIS_FAULT (r.nat 2) r.a).updDom r.a fun x =>
      { x with thaw := some (r.nat 0, r.num 1), axes := r.nat 2 }
  | 11 => c.updEng r.a fun x => (List.range 32).foldl (fun x k => x.setReg k (r.nat k)) { x with fresh := false }
  | 12 => c.updEng r.a fun x => (List.range 7).foldl (fun x k => x.setPrd (k + 1) (r.nat k)) x
  | 13 =>
    let a := c.rd Reg.CKPT_LIST_ADDR 0 r.a + off
    if c.on Reg.CKPT_LIST_SPACE 0 r.a then c.cycWrite a bytes
    else c.updEng (c.rd Reg.CKPT_LIST_ENGINE 0 r.a) fun x => { x with mem := memWrite x.mem a bytes }
  | 15 => c.updEng (r.a / 2 ^ 20) fun x => { x with mem := memWrite x.mem (r.a % 2 ^ 20 + off) bytes }
  | 16 => (c.updEng r.a fun x => { x with mbx := r.nums.map Int.toNat }).flag Reg.MBX_STAT_H2F_FULL (decide (4 ≤ r.nums.length)) (64 + r.a)
  | 17 => (c.updEvo r.a fun x => { x with queue := numEvo r.nums.length r.nums }).showQueued r.a
  | 18 => c.updGen r.a fun g => { g with reqs := c.numReqs r.nums.length r.nums }
  | 19 =>
    c.updGen r.a fun g =>
      { g with
        x := r.num 0, latched := r.num 1, out := r.num 2, target := r.num 3, slew := r.nat 4
        prof := if r.num 5 = 0 then none else some (r.nat 5 - 1)
        reached := r.num 6 != 0
        holdTo := if r.num 7 < 0 then none else some (c.nowAt (r.num 7)) }
  | _ => c

/-! ### Sending (R340) -/

/-- The records that differ from what was sent last, those of the given kinds that are gone among them as empty ones. -/
def Chip.ckDiff (c : Chip) (kinds : List Nat) (l : List CkRec) : List CkRec :=
  let gone := c.twin.sent.filterMap fun x =>
    let r : CkRec := { kind := x.1 / 2 ^ 64, a := x.1 / 2 ^ 32 % 2 ^ 32, b := x.1 % 2 ^ 32 }
    if kinds.contains r.kind ∧ l.all (fun y => y.key != x.1) then some r else none
  (l.filter fun r => SMap.get c.twin.sent r.key != r.nums) ++ gone

/-- Records noted as sent. -/
def Chip.ckNote (c : Chip) (l : List CkRec) : Chip :=
  { c with twin := { c.twin with sent := l.foldl (fun m r => SMap.set m r.key r.nums) c.twin.sent } }

/-- A full checkpoint, from its beginning (250) to its end (254). -/
def Chip.sendFull (c : Chip) : Chip :=
  let view := c.tableRecs ++ c.refRecs ++ c.imageRecs
  let c1 := { c with twin := { c.twin with fullDue := false, sent := [], hitAge := c.stampNow } }
  let c2 := c1.ckSend 0 ([{ kind := 250 }] ++ c.configRecs ++ c.txnView ++ c.imageRecs.flatMap imageParts)
  let c3 := ((c2.ckSend 2 c.tableRecs).ckSend 3 c.hitRecs).ckSend 4 c.refRecs
  ((c3.ckSend 1 [c.jrnRec]).ckSend 0 [{ kind := 254 }]).ckNote view

/-- CHECKPOINT_SEND (R340): a full checkpoint where one is due, else what has changed; the hit stamps once per AGE_UNIT. -/
def Chip.checkpointSend (c : Chip) : Chip :=
  if !c.pairOn then c
  else if c.twin.fullDue then c.sendFull
  else
    let imgs := c.ckDiff [31] c.imageRecs
    let tabs := c.ckDiff [1, 2, 7] c.tableRecs
    let refs := c.ckDiff [5, 6] c.refRecs
    let c1 := ((c.ckDrain.ckSend 0 (imgs.flatMap imageParts)).ckSend 2 tabs).ckSend 4 refs
    let c2 := c1.ckNote (imgs ++ tabs ++ refs)
    if c.stampNow = c.twin.hitAge then c2 else { c2 with twin := { c2.twin with hitAge := c.stampNow } }.ckSend 3 c.hitRecs

/-- Whether the partner's handover commits within 100 ms, so that every cycle sends its snapshot (R349). -/
def Chip.handoverNear (c : Chip) : Bool := c.scheduled.any fun t => c.isHandover t && decide (t.p ≤ c.tb16 + 100000000 * 65536)

/-- FENCE_OPEN (R264, R341): the fence, then on the active of a pair the snapshot of its domain. -/
def Chip.fenceOpen (d : Nat) (c : Chip) : Chip :=
  if !c.fenceReady d then c
  else
    let c1 := c.fence d
    if c1.pairOn ∧ ((c.dom d).snapAt + unitsMs (c.rd Reg.CKPT_CFG_CKPT_MS) ≤ c.now ∨ c1.handoverNear) then
      (c1.ckSend 5 (c1.snapRecs d)).updDom d fun x => { x with snapAt := c.now }
    else c1

/-! ### Taking in (R338 to R341) -/

/-- A table entry as the active reports it (kind 1); an index that a transaction has prepared is left. -/
def Chip.takeEntry (c : Chip) (t i : Nat) (e : Option Nat) : Chip :=
  if c.tbl.preps.any fun p => p.tbl == t && p.index == i && !p.done then c
  else match e with
    | none => if t = 0 then c.emWrite i 0 else if t ≤ 4 then (c.setEnt t 0 i 0).setEnt t 1 i 0 else c.putEntry t i 0
    | some e =>
      let e1 := match hitField t i with | some F => F.set e c.stampNow | none => e
      if t = 0 then
        let k := emKeyOf e
        let same := ((c.emBuckets k).flatMap emSlots).filter fun j => j != i && visOf 0 (c.ent 0 0 j) == 3 && emKeyOf (c.ent 0 0 j) == k
        (c.each same fun j c => c.emWrite j 0).emWrite i e1
      else if t ≤ 4 then (c.setEnt t 0 i e1).setEnt t 1 i 0
      else c.putEntry t i e

/-- The age of a last-hit stamp (kind 4). -/
def Chip.takeHit (c : Chip) (t i age : Nat) : Chip :=
  let s := (c.stampNow + 65536 - age % 65536) % 65536
  if t ≤ 4 then
    match hitField t i with
    | some F => if visOf t (c.ent t 0 i) = 0 then c else c.setEnt t 0 i (F.set (c.ent t 0 i) s)
    | none => c
  else { c with tbl := { c.tbl with stamps := SMap.set c.tbl.stamps (entKey t 0 i) s } }

/-- A reference as the active reports it (kind 5): lane references alone, since a standby qualifies its own inputs (R338). -/
def Chip.takeRef (c : Chip) (n q w : Nat) : Chip :=
  if n < 8 then c
  else
    let up := q == 3 || q == 4 || q == 5
    (c.updRef n fun r => { r with
      qual := q == 4 || q == 5, healthy := up || q == 2, ever := up || (q == 1 && w != 0), out := if q = 5 then 1 else 0, pre := q == 4 || q == 5
      jump := q == 6, since := c.now + unitsS w - unitsS (c.rd Reg.REF_CFG_WTR_S n) }).wr Reg.REF_STATUS_QSTATE q n

/-- A journal record of the active (kind 20): it stands under its own number (R395). -/
def Chip.takeRecord (c : Chip) (v : Nat) : Chip :=
  let b := bytesOfNat 64 v
  let f := natAt b 39 1
  let j : JRec :=
    { seq := natAt b 0 8, time := natAt b 8 12, role := natAt b 20 1, slot := natAt b 21 1, transport := natAt b 22 1 / 16
      kind := natAt b 22 1 % 16, src := natAt b 23 8, txn := natAt b 31 4, op := natAt b 35 2, objs := natAt b 37 2, late := bitOf f 7
      force := bitOf f 6, tbInvalid := bitOf f 5, vbakLost := bitOf f 4, info := natAt b 40 4, digest := natAt b 44 16 }
  let n := min jrnRing (c.rd Reg.JRN_STATUS_UNSPILLED + 1)
  let ring := (j :: c.jrn.ring).take jrnRing
  ((({ c with jrn := { c.jrn with ring := ring, digest := j.digest } }.wr Reg.JRN_STATUS_NEXT_SEQ (j.seq + 1)).wr
    Reg.JRN_STATUS_OLDEST_ONCHIP (ring.getLastD j).seq).wr Reg.JRN_STATUS_UNSPILLED n).flag Reg.JRN_STATUS_COMMIT_HOLD (decide (jrnHoldAt ≤ n))

/-- The images of an engine (kind 31), once all parts are here. -/
def Chip.takeImages (c : Chip) (e : Nat) (l : List Int) : Chip :=
  match l with
  | a :: s :: g :: rest =>
    let (p, rest1) := numImg rest
    let (n, _) := numImg rest1
    (c.updEng e fun x => (({ x with prog := p, next := n, loaded := a != 0, swap := s != 0, regionB := g != 0 } : Eng).putRegion true p).putRegion false n).showImages e
  | _ => (c.updEng e fun x => { x with prog := {}, next := {}, loaded := false, swap := false, regionB := false }).showImages e

/-- One part of them. -/
def Chip.takeImagePart (c : Chip) (r : CkRec) : Chip :=
  if r.nums = [] then c.takeImages r.a []
  else
    let l := if r.b = 0 then r.nums else c.twin.imgPart ++ r.nums
    if l.length = (l.headD 0).toNat + 1 then ({ c with twin := { c.twin with imgPart := [] } }).takeImages r.a (l.drop 1)
    else { c with twin := { c.twin with imgPart := l } }

/-! ### Transactions taken over (R340, R382, R388) -/

/-- Staged commands from their bytes; fuel bounds them. -/
def readStaged (r : Req) : Nat → Bytes → Option (List Instr)
  | 0, b => if b.isEmpty then some [] else none
  | n + 1, b =>
    if b.isEmpty then some []
    else
      let len := natAt b 2 4
      match (parseTlvs false len (sliceBytes b 6 len)).bind (parseCommand r (natAt b 0 2)) with
      | none => none
      | some i => (readStaged r n (b.drop (6 + len))).map (i :: ·)

/-- A command as a standby takes it over: each unit keeps its own TWIN_CFG. -/
def keepOwn : Instr → Option Instr
  | .objWrite r ws =>
    match ws.filter fun w => !(objCls w.obj == Cls.TWIN && objAttr w.obj == 1) with
    | [] => none
    | l => some (.objWrite r l)
  | i => some i

/-- A transaction forgotten by a standby. -/
def Chip.forget (c : Chip) (id : Nat) : Chip :=
  let c1 := c.undoPrepare id
  { c1 with txns := c1.txns.filter fun t => t.id != id, twin := { c1.twin with coming := c1.twin.coming.filter fun x => x.1 != id } }

/-- A transaction whose commit point the active has told (kind 52): the standby commits it then. One it cannot prepare leaves its
configuration behind the active's (R339). -/
def Chip.adopt (c : Chip) (id : Nat) (l : List CkRec) (pt : CkRec) : Chip :=
  match l with
  | [] => { c with twin := { c.twin with cfgOk := false } }
  | h :: blob =>
    let r : Req := { slot := h.nat 4, role := (Role.ofCode (h.nat 5)).getD .owner, via := .twinLink, txn := id, seq := 0, sent := 0 }
    let b := blobOf blob
    match readStaged r b.length b with
    | none => { c with twin := { c.twin with cfgOk := false } }
    | some all =>
      let c0 := c.forget id
      if all.length ≠ h.nat 6 then { c0 with twin := { c0.twin with cfgOk := false } }
      else
        let staged := all.filterMap keepOwn
        let t : Txn :=
          { id := id, req := r, state := .scheduled, staged := staged, held := allScopes staged, mode := h.nat 0, allowLate := h.num 1 != 0
            domain := h.nat 2, time := h.nat 3, checked := true, p := pt.nat 0, atTrigger := pt.num 1 != 0, late := pt.num 2 != 0
            lateBy := pt.nat 3, lastNamed := c.now, order := c.schedCtr }
        let c1 := { c0 with txns := c0.txns ++ [t], txnCtr := max c0.txnCtr id, schedCtr := c0.schedCtr + 1 }
        match c1.preparedTables id r.slot staged with
        | .ok _ => c1.prepareTables id staged
        | .error _ => { c1 with twin := { c1.twin with cfgOk := false } }

/-- Records of a transaction as they arrive: header (51), staged commands (50), commit point (52), rollback (53). -/
def Chip.takeTxn (c : Chip) (r : CkRec) : Chip :=
  let cur := match c.twin.coming.find? (fun x => x.1 == r.a) with | some x => x.2 | none => []
  let put := fun (l : List CkRec) => { c with twin := { c.twin with coming := (r.a, l) :: c.twin.coming.filter fun x => x.1 != r.a } }
  match r.kind with
  | 51 => put [r]
  | 50 => put (cur ++ [r])
  | 52 => c.adopt r.a cur r
  | _ => c.forget r.a

/-! ### A full checkpoint -/

/-- Its beginning: what is not configured by the unit itself is cleared, and so are transactions taken over before. -/
def Chip.fullBegin (c : Chip) : Chip :=
  let c1 := c.each (c.txns.filter fun t => t.req.via == .twinLink && t.req.seq == 0) fun t c => c.forget t.id
  let c2 := c1.each (List.range 7) fun t c => c.each (c.liveEntries t) fun x c => c.takeEntry t x.1 none
  let c3 := c2.each (c2.drum.eng.map Prod.fst) fun e c => c.takeImages e []
  { c3 with tbl := { c3.tbl with rcov := [] }, twin := { c3.twin with full := false, fullOn := true, part := [], imgPart := [], coming := [] } }

/-- Its end: the configuration takes its place (R339). -/
def Chip.fullEnd (c : Chip) : Chip :=
  if !c.twin.fullOn then c
  else
    let ids := ckFields.map Fld.id
    let recs := match c.twin.coming.find? (fun x => x.1 == 0) with | some x => x.2 | none => []
    let kept := c.regs.filter fun x => !ckPlace ids x.1
    let regs := recs.foldl (fun m r => if ckPlace ids (r.nat 0) then SMap.set m (r.nat 0) (r.nat 1 + r.nat 2 * 2 ^ 512) else m) kept
    let c1 := { c with regs := regs }
    let c2 := Chip.commitHook c c1 255 [] 0
    { c2 with twin := { c2.twin with full := true, fullOn := false, cfgOk := true, coming := c2.twin.coming.filter fun x => x.1 != 0 } }

/-- A domain's snapshot applies when all of it has arrived (R341). -/
def Chip.takeSnap (c : Chip) (r : CkRec) : Chip :=
  if r.kind = 10 then { c with twin := { c.twin with part := [(r.a, [r])], partAt := c.now } }
  else match c.twin.part with
    | (d, l) :: _ =>
      if r.kind = 255 then { c with twin := { c.twin with part := [], snaps := SMap.set c.twin.snaps d l } }
      else { c with twin := { c.twin with part := [(d, l ++ [r])] } }
    | [] => c

/-- One record taken in. -/
def Chip.takeRec (r : CkRec) (c : Chip) : Chip :=
  let t := r.a / 2 ^ 20
  let i := r.a % 2 ^ 20
  match r.kind with
  | 1 => c.takeEntry t i (if r.nums = [] then none else some (r.nat 0))
  | 2 =>
    let x : Rcov := if r.nums = [] then {} else { live := true, seq := r.nat 0, hist := r.nat 1, lastAt := c.now }
    { c with tbl := { c.tbl with rcov := SMap.set c.tbl.rcov r.a x } }
  | 4 => c.takeHit t i (r.nat 0)
  | 5 => c.takeRef r.a (r.nat 0) (r.nat 1)
  | 6 =>
    let c1 := (((c.flag Reg.TIME_STATUS_TIME_JUMP_REFUSED (r.num 0 != 0)).wr Reg.PENDING_JUMP_JUMP_ID (r.nat 1)).wr
      Reg.PENDING_JUMP_SOURCE (r.nat 2)).wr Reg.PENDING_JUMP_REF (r.nat 3)
    { (c1.wrS Reg.PENDING_JUMP_OFFSET (r.num 4)).wr Reg.PENDING_JUMP_REFUSED_NS (r.nat 5) with time := { c.time with lastJump := r.nat 6 } }
  | 7 => c.setCdState r.a (if r.num 0 = 1 ∨ r.num 0 = 2 then 1 else 0)
  | 8 => { c.wr Reg.JRN_STATUS_NEXT_SEQ (r.nat 0) with jrn := { c.jrn with digest := r.nat 1 } }
  | 20 => c.takeRecord (r.nat 0)
  | 30 =>
    let cur := match c.twin.coming.find? (fun x => x.1 == 0) with | some x => x.2 | none => []
    { c with twin := { c.twin with coming := (0, cur ++ [r]) :: c.twin.coming.filter fun x => x.1 != 0 } }
  | 31 => c.takeImagePart r
  | 50 => c.takeTxn r
  | 51 => c.takeTxn r
  | 52 => c.takeTxn r
  | 53 => c.takeTxn r
  | 250 => c.fullBegin
  | 254 => c.fullEnd
  | _ => c.takeSnap r

/-! ### The saved state (R341, R414, R424) -/

/-- Everything a unit holds as its checkpoint, snapshots by domain last. -/
def Chip.storeRecs (c : Chip) : List CkRec :=
  [{ kind := 250 }] ++ c.configRecs ++ c.imageRecs.flatMap imageParts ++ c.tableRecs ++ c.hitRecs ++ c.refRecs ++ [{ kind := 254 }] ++
  c.twin.snaps.flatMap fun x => x.2 ++ [{ kind := 255, a := x.1 }]

/-- The newest saved state that this unit's device state key authenticates. -/
def Chip.newestSaved (c : Chip) : Option Saved :=
  let good := fun (x : Option Saved) => x.filter fun s => s.key == c.stateKey
  match good c.twin.slotA, good c.twin.slotB with
  | some a, some b => if a.count < b.count then some b else some a
  | some a, none => some a
  | none, b => b

/-- TWIN_STATE_SAVE: every SAVE_S seconds a standby saves its last full checkpoint, to the slot that does not hold the newest one. -/
def Chip.twinSave (c : Chip) : Chip :=
  let n := c.rd Reg.CKPT_CFG_SAVE_S
  if !c.standby ∨ n = 0 ∨ !c.twin.full ∨ c.now < c.twin.savedAt + unitsS n then c
  else
    let s : Saved := { count := (match c.newestSaved with | some s => s.count | none => 0) + 1, key := c.stateKey, recs := c.storeRecs }
    let inA := match c.newestSaved with | some x => decide (c.twin.slotA = some x) | none => false
    { c with twin := { c.twin with
      savedAt := c.now, slotA := if inA then c.twin.slotA else some s, slotB := if inA then some s else c.twin.slotB } }

/-- The saved state loaded as the checkpoint of a unit that starts without a partner in ACTIVE (R424). -/
def Chip.loadSaved (c : Chip) : Chip :=
  match c.newestSaved with
  | none => c
  | some s =>
    let c1 := c.each s.recs fun r c => c.takeRec r
    { c1 with twin := { c1.twin with full := false } }

end Sys2Proof.Machine
end

