-- ==== Sys2Proof/Machine/Twin.lean ====
section
/-! DEFINITION. Twins (R331 to R349): the pair's commands, the pins, the claim, heartbeats and fencing, Thaw, takeback, and what of other
chapters ends in the pair. -/

namespace Sys2Proof.Machine

/-! ### Thaw (R346, R347, R349) -/

/-- The references of the twin link are dropped: both selectors go into HOLDOVER on its history, lane references that the checkpoint reports
qualified wait for their first healthy evaluation, and the servo is fast for 10 s. -/
def Chip.leaveTwinLink (c : Chip) : Chip :=
  let hold := fun (k : Nat) (c : Chip) => if c.selRef k = 30 ∨ c.selState k = 1 ∨ c.selState k = 2 then c.become k 3 31 else c
  let c1 := hold 0 (hold 1 c)
  let c2 := c1.each ((List.range 24).filter (8 ≤ ·)) fun n c => c.updRef n fun r => { r with qual := false, healthy := false, winOn := false, out := 0 }
  ({ c2 with car := { c2.car with fastTo := c2.now + unitsS 10 } }).showRefs

/-- TBL_GEN G = 0 in every table (R346 step 4): clean-up is done at once, and what transactions have prepared is turned round. -/
def Chip.tablesToZero (c : Chip) : Chip :=
  c.each (List.range 7) fun t c =>
    let c1 := c.cleanTable t fun _ => true
    if c1.gen t = 0 then c1
    else (c1.each (c1.tbl.preps.filter fun p => p.tbl == t && !p.done) fun p c => c.swapPrep p).wr Reg.TBL_GEN_G 0 t

/-- Power-up at Thaw (R346 steps 2 to 4). -/
def Chip.thawPower (c : Chip) : Chip := c.powerUp.tablesToZero

/-- Snapshots restored and running domains armed for their first boundary at or after an instant (R346 steps 5 and 7, R347). -/
def Chip.thawRestore (c : Chip) (from_ : Int) : Chip :=
  let c1 := c.each c.twin.snaps fun x c => c.each x.2 fun r c => c.restoreRec r
  c1.each (List.range 4) fun d c =>
    if !c.domainLive d then c.updDom d fun x => { x with thaw := none }
    else
      let b := c.boundaryFrom d from_
      (c.setCdState d 1).updDom d fun x => { x with next := b, floor := b, ran := false, back := false, busy := false }

/-- Promotion at P (R346 step 1). -/
def Chip.promote (c : Chip) : Chip :=
  let pre := c.twinState == 3
  let c1 := { c.leaveTwinLink.wr Reg.TWIN_STATUS_STATE 4 with twin := { c.twin with thawAt := c.now, take := 0, egress := false } }
  if pre then c1.ptpRefresh else c1.thawPower.ptpRefresh

/-- THAW_EGRESS_OPEN (R346 steps 5 and 6, R349 step 3): 10 ms after P, or at H in PRE_THAW. -/
def Chip.thawOpen (c : Chip) : Chip :=
  if c.twinState = 4 ∧ c.twin.claim = 0 ∧ !c.twin.egress ∧ c.twin.thawAt + unitsMs 10 ≤ c.now then
    ((c.thawRestore (c.tbAt (c.twin.thawAt + unitsMs 20))).claimEgress).thawEnd
  else if c.twinState = 3 ∧ c.twin.take = 3 ∧ c.twin.takeH ≤ c.tb16 then
    ((c.promote.thawRestore c.twin.takeH).claimEgress).thawEnd
  else c

/-- PRE_THAW_START (R349): 100 ms before H the home unit powers up; a unit that is not STANDBY_READY then lets H pass. -/
def Chip.preThaw (c : Chip) : Chip :=
  if c.twin.take ≠ 3 ∨ c.tb16 + 100000000 * 65536 < c.twin.takeH ∨ c.twinState = 3 then c
  else if c.twinState = 2 ∧ c.tb16 < c.twin.takeH then (c.wr Reg.TWIN_STATUS_STATE 3).thawPower
  else { c with twin := { c.twin with take := 0 } }

/-- The next handover instant at least 1 s ahead (R349), in 2^-16 ns. -/
def Chip.nextHandover (c : Chip) : Option Nat :=
  let s16 := nsPerS * 65536
  let per := c.rd Reg.HANDOVER_CTRL_HANDOVER_PERIOD * s16
  let base := timeOf96 (c.rd Reg.HANDOVER_BASE)
  let floor := c.tb16 + s16
  if per = 0 then none else some (if floor ≤ base then base else base + ceilDiv (floor - base) per * per)

/-- TAKEBACK_START (R349): the home unit begins the transaction whose commit point is H, where H is a boundary of the named domain. -/
def Chip.takeback (c : Chip) : Chip :=
  let d := c.rd Reg.HANDOVER_CTRL_DOMAIN
  if c.twinState ≠ 2 ∨ !c.on Reg.TWIN_CFG_HOME ∨ c.twin.take ≠ 0 ∨
      c.now < c.twin.readyAt + unitsS (c.rd Reg.HANDOVER_CTRL_READY_HOLD_S) then c
  else match c.nextHandover with
    | none => c
    | some h =>
      if c.cdPeriod d = 0 ∨ (c.boundaryFrom d h) ≠ h ∨ c.tb16 + 86400 * nsPerS * 65536 < h then c
      else match c.twinTry 0 0x0201 0 [] with
        | some c1 => { c1 with twin := { c1.twin with take := 1, takeH := h } }
        | none => c

/-! ### Commands (R342 to R344, chapter 18) -/

/-- TWIN_CFG and TWIN_STATUS. -/
def Chip.twinObj (c : Chip) (attr : Nat) : List Tlv :=
  match c.readObj { obj := objId Cls.TWIN 0 attr, elem := none } with | some (l, _) => l | none => []

/-- TWIN_STATUS. -/
def Chip.doTwinStatus (r : Req) (c : Chip) : Chip :=
  c.direct r (.twinStatus r) fun c => { chip := c, tlvs := c.twinObj 1 ++ c.twinObj 2 }

/-- Whether the promotion checks of R344 pass. -/
def Chip.mayPromote (c : Chip) (lastHb : Nat) : Bool :=
  (c.twinState == 2 || c.twinState == 3) &&
  decide (timeOf96 lastHb + (c.rd Reg.TWIN_CFG_T_FENCE + c.rd Reg.TWIN_CFG_PROMOTE_MARGIN) * 100000 * 65536 ≤ c.tb16)

/-- TWIN_PROMOTE (R344, R346): FORCE waives both checks. A unit already thawing, active or without a partner stays as it is; a fenced one that
is forced opens its egress again. -/
def Chip.doTwinPromote (r : Req) (lastHb : Nat) (twin : Option (Bool × Fin 2)) (c : Chip) : Chip :=
  let i := Instr.twinPromote r lastHb twin
  let force := match twin with | some w => w.1 | none => false
  c.direct r i fun c =>
    if c.on Reg.JRN_STATUS_COMMIT_HOLD then c.refuse .busy
    else if !timeOk lastHb then c.refuse .badParam
    else if !force && !c.mayPromote lastHb then c.refuse .roleState
    else
      let st := c.twinState
      let c1 := if c.standby then c.promote else if st = 6 then c.claimEgress else c
      { chip := c1, tlvs := [tlvTime c.tb96], record := some (0, bytesOfNat 12 lastHb), force := force }

/-- TWIN_DEMOTE (R343, R344). -/
def Chip.doTwinDemote (r : Req) (c : Chip) : Chip :=
  c.direct r (.twinDemote r) fun c =>
    if c.on Reg.JRN_STATUS_COMMIT_HOLD then c.refuse .busy
    else if c.twinState = 5 ∨ c.twinState = 6 then { chip := (c.jrnCmd r 1 0x0803 0 0 []).toStandby.settleWaits }
    else c.refuse .roleState

/-- TWIN_CHECKPOINT (R340). -/
def Chip.doTwinCheckpoint (r : Req) (cls seq : Nat) (data : Bytes) (c : Chip) : Chip :=
  c.direct r (.twinCheckpoint r cls seq data) fun c =>
    if !c.standby then c.refuse .roleState
    else match readRecs data.length data with
      | none => c.refuse .badParam
      | some l => { chip := (c.each l fun k c => c.takeRec k).twinEval, tlvs := [tlvCkpt cls seq] }

/-- The sender time of a request less the timebase, in 2^-16 ns, seconds modulo 2^32. -/
def Chip.sentDiff (c : Chip) (r : Req) : Int :=
  let m : Int := (2 ^ 32 * nsPerS * 65536 : Nat)
  ((r.sent : Int) - c.tb16 + m / 2) % m - m / 2

/-- TWIN_HEARTBEAT (R342, R343): accepted within ±2 ms of the timebase. -/
def Chip.doTwinHeartbeat (r : Req) (unit : Fin 2) (c : Chip) : Chip :=
  c.direct r (.twinHeartbeat r unit) fun c =>
    if 2000000 * 65536 < (c.sentDiff r).natAbs then { chip := c.count Ev.HB_STALE, status := .replay, tlvs := [tlvLastSeq (c.rd Reg.KEY_STATE_LAST_SEQ r.slot)] }
    else
      let own := decide (unit.val = c.rd Reg.TWIN_CFG_UNIT)
      let c1 := { c with twin := { c.twin with hbAt := some c.now } }
      let c2 :=
        if c1.twinState = 5 ∧ !own ∧ c1.on Reg.TWIN_CFG_FENCE_ON_HB then c1.fenceUnit
        else if c1.twinState = 6 then (if own then c1.claimEgress else c1.toStandby.settleWaits) else c1
      { chip := c2, tlvs := c2.twinObj 2 }

/-- T_FENCE_EXPIRE (R343). -/
def Chip.fenceExpire (c : Chip) : Chip :=
  match c.twin.hbAt with
  | some t => if c.twinState = 5 ∧ c.on Reg.TWIN_CFG_FENCE_ON_HB ∧ t + c.fenceWait ≤ c.now then c.fenceUnit else c
  | none => c

/-! ### Pins and the interlock (R332, R334 to R336, R424) -/

/-- TWIN_PRESENT_PROBE: a unit of a pair that reads its partner absent for 10 ms from its start says so once and takes its saved state. -/
def Chip.presentProbe (low : Bool) (c : Chip) : Chip :=
  let c1 := c.flag Reg.TWIN_STATUS_PRESENT low
  if low then { c1 with twin := { c1.twin with highs := 1000 } }
  else
    let n := c1.twin.highs + 1
    if 10 < n ∨ !c1.on Reg.TWIN_CFG_PAIR_EN then c1
    else
      let c2 := { c1 with twin := { c1.twin with highs := n } }
      if n = 10 ∧ !c2.twin.alone then
        let c3 := { c2 with twin := { c2.twin with alone := true } }.notify Nt.TWIN_UNPAIRED Cls.TWIN 0 2
        if c3.standby then c3.loadSaved else c3
      else c2

/-- TWIN_HOLD_IN_EDGE: held from the first edge; the gate acts (R334). -/
def Chip.holdEdge (c : Chip) : Chip :=
  let was := c.on Reg.TWIN_STATUS_HOLD_IN
  let c1 := c.flag Reg.TWIN_STATUS_HOLD_IN true
  if was then c1 else c1.gateNow

/-- TWIN_HOLD_RELEASED: no edge for 400 ns; unit 0 goes on with its claim (R335). -/
def Chip.holdReleased (c : Chip) : Chip :=
  let c1 := { c.flag Reg.TWIN_STATUS_HOLD_IN false with twin := { c.twin with relAt := c.now } }
  if c1.twin.claim = 3 then c1.openEgress else c1

/-- DUAL_CLAIM and its notification. -/
def Chip.dualClaim (c : Chip) : Chip := (c.flag Reg.TWIN_STATUS_DUAL_CLAIM true).notify Nt.DUAL_CLAIM Cls.TWIN 0 2

/-- TWIN_CLAIM_CHECK (R335): the hold starts 1 µs after release; 1 µs later the input is read again. -/
def Chip.claimCheck (c : Chip) : Chip :=
  let held := c.on Reg.TWIN_STATUS_HOLD_IN
  if c.twin.claim = 1 then
    if held ∨ c.now < c.twin.relAt + unitsUs 1 then c
    else { c.setHold true with twin := { c.twin with claim := 2, claimAt := c.now } }
  else if c.twin.claim = 2 ∧ c.twin.claimAt + unitsUs 1 ≤ c.now then
    if !held then c.openEgress
    else if c.rd Reg.TWIN_CFG_UNIT = 1 then ((c.setHold false).fenceUnit).dualClaim
    else { c with twin := { c.twin with claim := 3 } }
  else c

/-- HOLD_WD_EXP (R336): a unit of a pair is FENCED, and a standby is powered with it, as FENCED is a RUN state (R418; log entry 108). -/
def Chip.holdWd (c : Chip) : Chip :=
  if c.on Reg.TWIN_CFG_PAIR_EN then
    let c1 := (c.flag Reg.TWIN_STATUS_HOLD_WD_EXP true).fenceUnit
    if c1.rd Reg.PWR_STATUS_STATE = 1 ∧ c1.mayPower then c1.powerUp.ptpRefresh else c1
  else c

/-! ### The partner's answers (R331, R340, R349) -/

/-- The partner's identity block: equal unit numbers are a dual claim; a standby that finds another standby has no active partner (R424). -/
def Chip.partnerIdent (c : Chip) (v : Nat) : Chip :=
  let same := decide (Lay.IDENT_UNIT.get v = c.rd Reg.TWIN_CFG_UNIT)
  let st := Lay.IDENT_TWIN_STATE.get v
  let c1 := { c with twin := { c.twin with same := same, serial := Lay.IDENT_SERIAL.get v, peer := st } }
  let c2 := if same ∧ !c.twin.same then c1.dualClaim else c1
  let lone := c2.standby && (st == 1 || st == 2) && !c2.twin.alone && c2.twin.snaps.isEmpty
  (if lone then Chip.loadSaved { c2 with twin := { c2.twin with alone := true } } else c2).twinEval

/-- A checkpoint has been received, and all before it: what waited for it goes on. -/
def Chip.ckptReceived (c : Chip) (n : Nat) : Chip :=
  let (done, rest) := c.twin.waits.partition fun w => decide (w.1 ≤ n)
  { c with twin := { c.twin with waits := rest } }.each done fun w c => c.answerWait w.2

/-- A reply of the partner to a request of this unit. -/
def Chip.twinReply (c : Chip) (op status txn : Nat) (l : List RawTlv) : Chip :=
  match op with
  | 0x0002 => match tlvVal l 0x24 with | some b => if status = 0 then c.partnerIdent (natOfBytes b) else c | none => c
  | 0x0804 =>
    match status, tlvVal l 0x21 with
    | 0, some b => c.ckptReceived (natAt b 4 4)
    | _, _ =>
      let c1 := c.ckptReceived c.twin.ckSeq
      { c1 with twin := { c1.twin with fullDue := c.twinState == 5 } }
  | 0x0201 =>
    if c.twin.take ≠ 1 then c
    else if status ≠ 0 then { c with twin := { c.twin with take := 0 } }
    else
      let c1 := { c with twin := { c.twin with take := 2 } }
      c1.twinSend 0 0x0202 txn [{ typ := 0x0A, len := 4, val := 2 ^ 24 }, tlvTime (time96 c.twin.takeH)]
  | 0x0202 =>
    if c.twin.take ≠ 2 then c
    else if status = 0 then { c with twin := { c.twin with take := 3 } }
    else { c with twin := { c.twin with take := 0 } }.twinSend 0 0x0203 txn []
  | _ => c

/-- An event of the standby, journalled by the active with TRANSPORT 7 (R395). -/
def Chip.twinEvent (c : Chip) (l : List RawTlv) : Chip :=
  if c.twinState ≠ 5 then c
  else match tlvVal l 0x60 with
    | none => c
    | some b =>
      c.jrnAppend
        { seq := 0, time := c.tb96, role := 5, slot := 255, transport := 7, kind := 3, src := sha256 (c.srcBytes .twinLink) >>> 192, txn := 0
          op := natAt b 2 2, objs := 0, late := false, force := false, tbInvalid := !c.on Reg.TIME_STATUS_TB_VALID, vbakLost := false, info := 0
          digest := 0 } []

/-! ### Events of other chapters that end in the pair -/

/-- LINK_STATE_CHANGE (R53, R73, R247, R339): a port that is not powered has no link. -/
def Chip.linkStateChange (p : Nat) (up an : Bool) (speed : Nat) (c : Chip) : Chip :=
  if up && !c.portPowered p then c
  else
    let c1 := c.linkChange p up an speed
    let c2 := if up && p < 512 && !c.linkUp p then
        (c1.flag Reg.ESMC_STATUS_ESMC_SEEN false p).updEsmc p fun e => { e with rxAt := c.now } else c1
    (((c2.ptpRefresh).showTwinLink).twinEval).settleWaits

/-- TX_FRAME_END: on the twin link checkpoints that wait go on. -/
def Chip.txFrameEnded (p : Nat) (c : Chip) : Chip :=
  let c1 := c.txFrameEnd p
  if c1.twinPort p && c1.pairOn then c1.ckDrain else c1

/-- SEL_EVALUATE, and R339 with it. -/
def Chip.selEvaluated (c : Chip) : Chip := c.selEvaluate.twinEval

/-- TXN_PREPARE_DONE and TXN_COMMIT_POINT, and what no longer waits for a standby. -/
def Chip.prepared (id : Nat) (c : Chip) : Chip := (c.prepareDone id).settleWaits
def Chip.committed (id : Nat) (c : Chip) : Chip := (c.commitPoint id).settleWaits

/-- Transactions whose commit point is at or before the boundary that has come take effect first (R384). -/
def Chip.commitDue (c : Chip) (d : Nat) : Chip :=
  c.each (c.scheduled.filter fun t => decide ((t.p : Int) ≤ (c.dom d).next) && (!t.atTrigger || decide (t.domain = d))) fun t c => c.commitNow t

/-- CYC_TRIGGER (R256, R258, R346 step 7, R384). -/
def Chip.cycTrigger (d : Nat) (c : Chip) : Chip :=
  if !c.cycDue d then c else ((((c.commitDue d).trigger d).thawEnd).settleWaits)

end Sys2Proof.Machine
end

