-- ==== Sys2Proof/Machine/Firmware.lean ====
section
/-! DEFINITION. Firmware in service (R414 to R417, R422): staging, writing, the handover of the management firmware, and the restart that
brings the other images into use. -/

namespace Sys2Proof.Machine

/-! ### Status -/

/-- STATE of FW_INFO (R414). -/
def Chip.fwState (c : Chip) (t : Nat) : Nat := SMap.get c.fw.state t

/-- STATE and ERROR of a target. -/
def Chip.setFw (c : Chip) (t st err : Nat) : Chip :=
  { c with fw := { c.fw with state := SMap.set c.fw.state t st, err := SMap.set c.fw.err t err } }

/-- The FW_INFO entry of a target (R414). -/
def Chip.fwInfo (c : Chip) (t : Nat) : Nat :=
  let img := match c.fwState t, SMap.get c.fw.staged t with
    | 2, some x => x
    | _, _ => SMap.get c.fw.flash t
  Lay.FWI_TARGET.put t + Lay.FWI_STATE.put (c.fwState t) + Lay.FWI_ERROR.put (SMap.get c.fw.err t) +
    Lay.FWI_RUN_VERSION.put (c.fwVersion t) + Lay.FWI_IMAGE_VERSION.put img.ver + Lay.FWI_IMAGE_CRC.put img.crc

/-- The entries of all targets. -/
def Chip.fwInfos (c : Chip) : Tlv :=
  tlvFwInfo 4 ((((c.fwInfo 0 * 2 ^ 128 + c.fwInfo 1) * 2 ^ 128) + c.fwInfo 2) * 2 ^ 128 + c.fwInfo 3)

/-- FW_STATUS. -/
def Chip.doFwStatus (r : Req) (c : Chip) : Chip := c.direct r (.fwStatus r) fun c => { chip := c, tlvs := [c.fwInfos] }

/-! ### Staging and writing (R403, R415) -/

/-- The tag of a parked FW_WRITE of a target, and of a parked FW_ACTIVATE. -/
def fwWriteTag (t : Nat) : Nat := 2 ^ 33 + t
def fwHandTag : Nat := 2 ^ 34

/-- Whether a region is being written. -/
def Chip.fwWriting (c : Chip) (t : Nat) : Bool := c.parked.any fun p => p.tag == fwWriteTag t

/-- An image whose last byte has arrived is verified. -/
def Chip.stageImage (c : Chip) (t : Nat) (b : Bytes) : Res :=
  let x := fwImage c.fw.roots (SMap.get c.fw.minSec t) t b
  let c1 := { c with fw := { c.fw with staged := SMap.set c.fw.staged t (if x.err = 0 then some x else none) } }
  let c2 := if x.err = 0 then c1.setFw t 2 0 else c1.setFw t 4 x.err
  { chip := c2, tlvs := [c2.fwInfos] }

/-- What a target reads once its staged image is discarded. -/
def Chip.unstage (c : Chip) (t : Nat) : Chip :=
  { c with fw := { c.fw with staged := SMap.set c.fw.staged t none } }.setFw t 1 0

/-- FW_STAGE (R403, R415). -/
def Chip.doFwStage (r : Req) (target : Nat) (src : ImgSrc) (c : Chip) : Chip :=
  let i := Instr.fwStage r target src
  match src with
  | .chunk off total data =>
    c.direct r i fun c =>
      if 3 < target then c.refuse .badParam
      else if c.fwWriting target then c.refuse .busy
      else
        match c.takeChunk r (64 + target) 8388608 off total data with
        | (.inl b, c1) => (c1.unstage target).stageImage target b
        | (.inr x, _) => if x.status = .ok then { x with chip := x.chip.unstage target } else x
  | .host _ len =>
    if !c.mayRun r i then c.reply r (opOf i) .noAccess
    else if r.txn ≠ 0 then
      if (c.txnOf r).isSome then c.reply r (opOf i) .badParam else c.reply r (opOf i) .txnNone
    else if 3 < target ∨ r.via ≠ .ring ∨ 8388608 < len then c.reply r (opOf i) .badParam
    else if c.fwWriting target then c.reply r (opOf i) .busy
    else if c.parkedFull then c.reply r (opOf i) .busy
    else (c.unstage target).parkTransfer r i

/-- IMAGE_FETCH_DONE (R403): an image named by HOST_BUF has been fetched whole. -/
def Chip.imageFetched (n : Nat) (b : Bytes) (c : Chip) : Chip :=
  match c.takeTransfer n with
  | some (.cycLoad r e src, c1) => c1.cycFetched r e src b
  | some (.fwStage r t src, c1) => c1.finish r (opOf (.fwStage r t src)) (c1.stageImage t b)
  | _ => c

/-- FW_WRITE (R415): waits for the loader. -/
def Chip.doFwWrite (r : Req) (target : Nat) (c : Chip) : Chip :=
  let i := Instr.fwWrite r target
  if !c.mayRun r i then c.reply r (opOf i) .noAccess
  else if r.txn ≠ 0 then
    if (c.txnOf r).isSome then c.reply r (opOf i) .badParam else c.reply r (opOf i) .txnNone
  else if 3 < target then c.reply r (opOf i) .badParam
  else if (SMap.get c.fw.staged target).isNone then c.reply r (opOf i) .roleState
  else if c.fwWriting target then c.reply r (opOf i) .busy
  else c.park r i 0 (fwWriteTag target)

/-- The request of a parked firmware command with a tag, and the block without it. -/
def Chip.takeTagged (c : Chip) (tag : Nat) : Option (Req × Instr × Chip) :=
  match c.parked.find? (fun p => p.tag == tag) with
  | none => none
  | some p =>
    let c1 := { c with parked := c.parked.eraseP fun p => p.tag == tag }
    match p.cmd with
    | .fwWrite r t => some (r, .fwWrite r t, c1)
    | .fwActivate r t => some (r, .fwActivate r t, c1)
    | _ => none

/-- FW_WRITE_DONE (R415): the loader has written and read back a region; a failed one reads back wrong. -/
def Chip.fwWriteDone (t : Nat) (ok : Bool) (c : Chip) : Chip :=
  match c.takeTagged (fwWriteTag t), SMap.get c.fw.staged t with
  | some (r, i, c1), some x =>
    if ok then
      let c2 := { c1 with fw := { c1.fw with flash := SMap.set c1.fw.flash t x, staged := SMap.set c1.fw.staged t none } }
      (c2.setFw t (if (SMap.get c2.fw.run t).ver = x.ver then 0 else 3) 0).reply r (opOf i) .ok
    else
      let c2 := { c1 with fw := { c1.fw with flash := SMap.upd c1.fw.flash t fun y => { y with err := 6 } } }
      (c2.setFw t (c2.fwState t) 9).reply r (opOf i) .internal
  | _, _ => c

/-! ### Activation (R416, R417, R422) -/

/-- FW_ACTIVATE. In recovery target 0 restarts the device. -/
def Chip.doFwActivate (r : Req) (target : Nat) (c : Chip) : Chip :=
  let i := Instr.fwActivate r target
  let record := bytesOfNat 4 target
  if target = 0 ∧ !c.fw.recovery then
    if !c.mayRun r i then c.reply r (opOf i) .noAccess
    else if r.txn ≠ 0 then
      if (c.txnOf r).isSome then c.reply r (opOf i) .badParam else c.reply r (opOf i) .txnNone
    else if c.fwState 0 ≠ 3 then c.reply r (opOf i) .roleState
    else if c.on Reg.JRN_STATUS_COMMIT_HOLD ∨ c.fw.hand ≠ 0 ∨ c.parkedFull then c.reply r (opOf i) .busy
    else { c.park r i (c.now + unitsS 10) fwHandTag with fw := { c.fw with hand := 1, handA := c.now } }
  else
    c.direct r i fun c =>
      if 3 < target then c.refuse .badParam
      else if c.fw.recovery then { chip := { c with fw := { c.fw with restartAt := some (c.now + unitsMs 10) } } }
      else if c.fwState target ≠ 3 then c.refuse .roleState
      else
        let st := c.rd Reg.TWIN_STATUS_STATE
        let may := st == 1 || st == 2 || (!c.on Reg.TWIN_CFG_PAIR_EN && c.rd Reg.PWR_STATUS_STATE == 0)
        if !may then c.refuse .roleState
        else if c.on Reg.JRN_STATUS_COMMIT_HOLD then c.refuse .busy
        else { chip := { c with fw := { c.fw with restartAt := some (c.now + unitsMs 10) } }, record := some (0, record) }

/-- Whether a scheduled transaction commits within 5 ms. -/
def Chip.commitNear (c : Chip) : Bool := c.scheduled.any fun t => decide (t.p ≤ c.tb16 + 5000000 * 65536)

/-- FW_SWITCHOVER (R416): the new firmware takes over between two commands and records it; without a gap by A + 10 s the command is
answered BUSY. -/
def Chip.fwSwitch (c : Chip) : Chip :=
  if c.fw.hand ≠ 1 then c
  else if c.fw.handA + unitsS 10 < c.now then
    match c.takeTagged fwHandTag with
    | some (r, i, c1) => { c1 with fw := { c1.fw with hand := 0 } }.reply r (opOf i) .busy
    | none => { c with fw := { c.fw with hand := 0 } }
  else if c.commitNear then c
  else
    Chip.jrnEvent { c with fw := { c.fw with
      hand := 2, handS := c.now, prev := SMap.get c.fw.run 0, run := SMap.set c.fw.run 0 (SMap.get c.fw.flash 0) } } 0 0

/-- MIN_SEC_VERSION of a target raised to its running image's (R411). -/
def Chip.raiseSec (c : Chip) (t : Nat) : Chip :=
  { c with fw := { c.fw with minSec := SMap.upd c.fw.minSec t fun n => max n (SMap.get c.fw.run t).sec } }

/-- FW_HANDOVER_CONFIRM (R416). -/
def Chip.fwConfirm (c : Chip) : Chip :=
  if c.fw.hand ≠ 2 ∨ c.fw.handS + unitsMs 100 < c.now then c
  else
    let c1 := (({ c with fw := { c.fw with hand := 0, prev := {} } }).setFw 0 0 0).raiseSec 0
    match c1.takeTagged fwHandTag with
    | some (r, i, c2) => (c2.jrnCmd r 1 (opOf i) 0 0 (bytesOfNat 4 0)).reply r (opOf i) .ok
    | none => c1

/-- FW_HANDOVER_REVERT (R416): the old firmware runs again and rewrites its image. -/
def Chip.fwRevert (c : Chip) : Chip :=
  if c.fw.hand ≠ 2 ∨ c.now ≤ c.fw.handS + unitsMs 100 then c
  else
    let old := c.fw.prev
    let c1 := { c with fw := { c.fw with
      hand := 0, prev := {}, run := SMap.set c.fw.run 0 old, flash := SMap.set c.fw.flash 0 old } }.setFw 0 5 0
    match c1.takeTagged fwHandTag with
    | some (r, i, c2) => c2.reply r (opOf i) .internal
    | none => c1

end Sys2Proof.Machine
end

