-- ==== Sys2Proof/Machine/Start.lean ====
section
/-! DEFINITION. Reset and start (R406 to R409, R412, R419 to R424), the keep-alive domain (R423), the watchdog's restart (R371, R379, R420), and
temperature (R455). -/

namespace Sys2Proof.Machine

/-! ### What a reset keeps (R407, R408) -/

/-- Attributes held in MRAM or the keep-alive domain. -/
def keptAttrs : List AttrDef :=
  [Attr.KEY_STATE, Attr.DEV_MAC, Attr.BOOT_CFG, Attr.BOOT_LIST, Attr.JRN_SEAL, Attr.OSC_CFG, Attr.KA_TIME, Attr.KA_FLAGS]

/-- A flash region whose write was cut off fails its verification (R415). -/
def Chip.cutWrites (c : Chip) : SMap FwImg :=
  (List.range 4).foldl (fun m t => if c.fwWriting t then SMap.upd m t fun x => { x with err := 6 } else m) c.fw.flash

/-- The block as a reset leaves it: MRAM, flash and the keep-alive domain stay, all else is as right after reset. The record of what has left
the block and the count of free values are the model's own. -/
def Chip.afterReset (c : Chip) : Chip :=
  let ids := (keptAttrs.flatMap fun a => a.flds).map Fld.id
  let ka := c.kaNow
  let c1 : Chip :=
    { Chip.reset with
      regs := c.regs.filter fun x => ids.contains (x.1 / 2 ^ 40)
      outs := c.outs, free := c.free, serial := c.serial, orderCG := c.orderCG, keys := c.keys, txnCtr := c.txnCtr
      jrn := { flash := c.jrn.flash, digest := c.rd Reg.JRN_SEAL_DIGEST }
      coal := { seqs := c.coal.seqs }
      cal := { setA := c.cal.setA, setB := c.cal.setB }
      lull := { retired := c.lull.retired }
      stateKey := c.stateKey
      fab := { storedId := c.fab.storedId }
      twin := { slotA := c.twin.slotA, slotB := c.twin.slotB }
      fw := { flash := c.cutWrites, minSec := c.fw.minSec, roots := c.fw.roots, fails := c.fw.fails, recovery := c.fw.recovery }
      pwr := { low := true, failed := c.pwr.failed, seqLost := c.pwr.seqLost, pfOk := c.pwr.pfOk } }
  (((((c1.wr Reg.KA_TIME_KA_SEC (ka / 32768)).wr Reg.KA_TIME_KA_TICK (ka % 32768)).wr Reg.JRN_STATUS_NEXT_SEQ
    (c.rd Reg.JRN_STATUS_NEXT_SEQ)).wr Reg.JRN_STATUS_OLDEST_FLASH (c.rd Reg.JRN_STATUS_OLDEST_FLASH)).wr
    Reg.LULL_STATUS_RETIRED c.lull.retired.length).flag Reg.LULL_STATUS_RETIRE_FULL (decide (4096 ≤ c.lull.retired.length))

/-- RESET_ASSERT: RST_N low for 10 µs (R407). -/
def Chip.resetAssert (c : Chip) : Chip := c.afterReset

/-- POWER_FAIL (R408): the keep-alive domain latches its time. -/
def Chip.powerFail (c : Chip) : Chip :=
  let ka := c.kaNow
  let c1 := (c.wr Reg.KA_TIME_PF_SEC (ka / 32768)).wr Reg.KA_TIME_PF_TICK (ka % 32768)
  { c1 with pwr := { c1.pwr with failed := true, pfOk := c.on Reg.KA_FLAGS_KA_VALID } }

/-- VBAK_LOST (R423, R391): with main power away the keep-alive domain loses its time and the next SEQ too. -/
def Chip.vbakLost (c : Chip) : Chip :=
  let c1 := (c.flag Reg.KA_FLAGS_KA_VALID false).flag Reg.KA_FLAGS_VBAK_LOST true
  if c1.pwr.failed then { c1 with pwr := { c1.pwr with seqLost := true, pfOk := false } } else c1

/-- XTAL_FAIL (R423). -/
def Chip.xtalFail (c : Chip) : Chip := (c.flag Reg.KA_FLAGS_KA_VALID false).flag Reg.KA_FLAGS_XTAL_FAIL true

/-- KA_TIME_SET (R423): at a whole second of a valid timebase. -/
def Chip.kaSet (c : Chip) : Chip :=
  if !c.on Reg.TIME_STATUS_TB_VALID ∨ c.pwr.failed then c
  else
    let c1 := ((c.wr Reg.KA_TIME_KA_SEC c.tbSec).wr Reg.KA_TIME_KA_TICK 0).flag Reg.KA_FLAGS_KA_VALID true
    { c1 with pwr := { c1.pwr with kaAt := c.now } }

/-! ### The start sequence (R409) -/

/-- The timebase from the keep-alive time (R421). -/
def Chip.startTime (c : Chip) : Chip :=
  let ns := c.rd Reg.KA_TIME_KA_SEC * nsPerS + c.rd Reg.KA_TIME_KA_TICK * 30517578125 / 1000000
  { c with time := { c.time with tb := if c.on Reg.KA_FLAGS_KA_VALID then ns * 2 ^ 40 else 0 } }

/-- The time of a KIND 4 record: seconds and counts of 1/32,768 s as a 96-bit time, 0 where it is not valid (R391). -/
def kaTime (ok : Bool) (sec tick : Nat) : Nat :=
  if ok then time96 ((sec * nsPerS + tick * 30517578125 / 1000000) * 65536) else 0

/-- The start record of R391. -/
def Chip.startRecord (c : Chip) (cause : Nat) : Chip :=
  let lost := c.pwr.seqLost
  let c1 := if lost then c.wr Reg.JRN_STATUS_NEXT_SEQ (c.rd Reg.JRN_SEAL_SEQ + 65537) else c
  let ok := if cause = 0 then c.pwr.pfOk else c.on Reg.KA_FLAGS_KA_VALID
  let t := if cause = 0 then kaTime ok (c.rd Reg.KA_TIME_PF_SEC) (c.rd Reg.KA_TIME_PF_TICK)
    else kaTime ok (c.kaNow / 32768) (c.kaNow % 32768)
  { c1 with pwr := { c1.pwr with seqLost := false } }.jrnAppend
    { seq := 0, time := t, role := 0, slot := 255, transport := 0, kind := 4, src := 0, txn := 0, op := 0, objs := 0, late := false, force := false
      tbInvalid := !ok, vbakLost := lost, info := if lost then 65536 else 0, digest := 0 } []

/-- The request the boot list commits under: KEY_SLOT 0xFF; ROLE 0 and TRANSPORT 0 stand in its record (R419). -/
def bootReq : Req := { slot := 255, role := .owner, via := .ring, txn := 0, seq := 0, sent := 0 }

/-- The boot list as one NOW transaction (R419); none where it fails. -/
def Chip.bootCommit (c : Chip) : Option Chip :=
  match c.bootWrites with
  | none => none
  | some ws =>
    let staged := if ws = [] then [] else [Instr.objWrite bootReq ws]
    let t : Txn := { id := 0, req := bootReq, state := .waiting, staged := staged, p := c.tb16 }
    match c.commitFail t with
    | some _ => none
    | none =>
      let c1 := c.takeEffect t
      some (c1.jrnAppend
        { seq := 0, time := time96 t.p, role := 0, slot := 255, transport := 0, kind := 0, src := 0, txn := 0, op := 0x0202
          objs := satU 16 ws.length, late := false, force := false, tbInvalid := !c.on Reg.TIME_STATUS_TB_VALID, vbakLost := false, info := 0
          digest := 0 } (writesContent ws))

/-- Step 6 of R409: the boot list, and what it powers. -/
def Chip.boot (c : Chip) : Chip :=
  if !c.on Reg.BOOT_CFG_BOOT_RUN then c
  else match c.bootCommit with
    | none => c.flag Reg.PWR_STATUS_BOOT_LIST_FAIL true
    | some c1 =>
      let c2 := c1.loadCal
      if c2.on Reg.TWIN_CFG_PAIR_EN then c2.toStandby else if c2.mayPower then c2.powerUp else c2

/-- The images read at a start (R411, R412, R414): those in flash run; STATE CURRENT, or FLASH_BAD with the failing check. -/
def Chip.startImages (c : Chip) : Chip :=
  (List.range 4).foldl (fun c t =>
    let x := SMap.get c.fw.flash t
    let c1 := { c with fw := { c.fw with run := if x.err = 0 then SMap.set c.fw.run t x else c.fw.run } }
    if x.err = 0 then c1.setFw t 0 0 else c1.setFw t 6 x.err) c

/-- A start from step 1 (R409, R422), with the one band search of DPLL0 (R214): `cause` is LAST_RESET; `ok` tells that the management firmware confirmed it. -/
def Chip.startUp (c : Chip) (cause : Nat) (ok : Bool) : Chip :=
  let bad := (SMap.get c.fw.flash 0).err != 0 || decide (3 ≤ c.fw.fails)
  let c0 := { c with pwr := { c.pwr with low := false, failed := false }, fw := { c.fw with
    recovery := bad, fails := if bad then c.fw.fails else if ok then 0 else c.fw.fails + 1 } }
  let c1 := ((((c0.wr Reg.PWR_STATUS_LAST_RESET cause).startImages).startTime).takeId).searchBand 0
  if bad then c1
  else
    let key := c1.draw
    let c2 := if c1.stateKey = 0 then { key.2 with stateKey := (Config.entropy key.1).toNat } else c1
    let c3 := ((c2.loadCal).startRecord cause).boot
    if ok then c3.each (List.range 4) fun t c => c.raiseSec t else c3

/-- RESET_RELEASE (R407, R409): RST_N rises after a reset or a power-up; `ka` counts of KA_XTAL have passed since. -/
def Chip.resetRelease (ka : Nat) (ok : Bool) (c : Chip) : Chip :=
  if !c.pwr.low ∧ !c.pwr.failed then c
  else
    let c1 := if c.pwr.low then c else c.afterReset
    let t := c1.rd Reg.KA_TIME_KA_SEC * 32768 + c1.rd Reg.KA_TIME_KA_TICK + ka
    ((c1.wr Reg.KA_TIME_KA_SEC (t / 32768)).wr Reg.KA_TIME_KA_TICK (t % 32768)).startUp (if c1.pwr.failed then 0 else 1) ok

/-- FW_RESTART (R417, R422): 10 ms after its reply; the keep-alive domain is kept. -/
def Chip.fwRestart (c : Chip) : Chip :=
  match c.fw.restartAt with
  | none => c
  | some t => if c.now < t then c else c.afterReset.startUp (if c.fw.recovery then 4 else 3) true

/-- MGMT_WATCHDOG_EXPIRE (R371, R379, R420): the management processor restarts; what it held for others is gone, transactions are rolled back,
and the hold of an interlocked unit is no longer served. -/
def Chip.watchdog (c : Chip) : Chip :=
  let c1 := { c with
    cmdq := [], parked := [], diag := none, cal := { c.cal with run := none }
    tbl := { c.tbl with barriers := [] }
    twin := { c.twin with waits := [] }
    drum := { c.drum with part := [] }
    fw := { c.fw with staged := [], hand := 0, prev := {}, restartAt := none }
    hif := { c.hif with h2f := [], db := c.hif.db / 2 ^ 32 * 2 ^ 32 } }
  let c2 := c1.each (List.range 16) fun n c =>
    if c.on Reg.MBX_STAT_H2F_FULL n then (c.flag Reg.MBX_STAT_H2F_FULL false n).incSat Reg.MBX_STAT_LOST 1 n else c
  let c3 := c2.each (List.range 4) fun t c => if c.fwState t = 1 ∨ c.fwState t = 2 then c.setFw t (if (SMap.get c.fw.run t).ver = (SMap.get c.fw.flash t).ver then 0 else 3) 0 else c
  let c4 := ((c3.flag Reg.CAL_STATUS_RUNNING false).rollbackAll none 2).holdWd
  let x : FwImg := SMap.get c4.fw.flash 0
  let c5 : Chip := { c4.wr Reg.PWR_STATUS_LAST_RESET 2 with fw := { c4.fw with recovery := x.err != 0, run := if x.err = 0 then SMap.set c4.fw.run 0 x else c4.fw.run } }
  let c6 : Chip := if c5.jrnMuted then c5 else c5.startRecord 2
  if x.err == 0 && c6.fwState 0 == 3 then c6.setFw 0 0 0 else c6

/-! ### Journal spill (R393) -/

/-- Records the journal region of the flash holds. -/
def jrnFlash : Nat := 1048576

/-- JRN_SPILL: up to 64 unspilled records go to flash and the last is sealed; a failed write is tried again at the next spill. -/
def Chip.jrnSpill (ok : Bool) (c : Chip) : Chip :=
  let n := c.rd Reg.JRN_STATUS_UNSPILLED
  if n = 0 ∨ (n < 64 ∧ c.now < c.jrn.lastSpill + unitsS (c.rd Reg.JRN_CFG_SPILL_SEC)) then c
  else if !ok then { c.flag Reg.JRN_STATUS_SPILL_FAIL true with jrn := { c.jrn with lastSpill := c.now } }
  else
    let k := min 64 n
    let l := ((c.jrn.ring.take n).reverse.take k)
    match l.getLast? with
    | none => c
    | some j =>
      let flash := (l.reverse ++ c.jrn.flash).take jrnFlash
      let idx := if c.jrn.flash = [] then k - 1 else (c.rd Reg.JRN_SEAL_FLASH_INDEX + k) % jrnFlash
      let c1 := { c with jrn := { c.jrn with flash := flash, lastSpill := c.now } }
      let c2 := ((c1.wr Reg.JRN_SEAL_SEQ j.seq).wr Reg.JRN_SEAL_DIGEST j.digest).wr Reg.JRN_SEAL_FLASH_INDEX idx
      let c3 := c2.wr Reg.JRN_SEAL_CRC (crc32 (bytesOfNat 8 j.seq ++ bytesOfNat 16 j.digest ++ bytesOfNat 4 idx))
      ((c3.wr Reg.JRN_STATUS_OLDEST_FLASH (flash.getLastD j).seq).wr Reg.JRN_STATUS_UNSPILLED (n - k)).flag Reg.JRN_STATUS_COMMIT_HOLD
        (decide (jrnHoldAt ≤ n - k))

/-! ### Temperature (R455) -/

/-- A trip (R455): a unit that is ACTIVE or FENCED first acts as on TWIN_DEMOTE, and any unit of a pair is then in STANDBY_SYNC. -/
def Chip.tripOff (c : Chip) : Chip :=
  let st := c.twinState
  let c1 := if c.on Reg.TWIN_CFG_PAIR_EN ∧ 3 ≤ st then c.toStandby.settleWaits else c
  (if c1.twinState = 2 then c1.wr Reg.TWIN_STATUS_STATE 1 else c1).powerOff 0

/-- THERM_SAMPLE: sensor n reads t, in 0.125 °C. -/
def Chip.thermSample (n : Nat) (t : Int) (c : Chip) : Chip :=
  let c1 := c.wrS Reg.THERM_TEMP (satS 16 t) 0 n
  let read := fun (k : Nat) => c1.rdS Reg.THERM_TEMP 0 k
  let hot := (List.range 8).foldl (fun b k => if read b < read k then k else b) 0
  let c2 := (c1.wr Reg.THERM_STATUS_HOTTEST hot).wrS Reg.THERM_STATUS_MAX_TEMP (read hot)
  let warn : Int := (c.rd Reg.THERM_CFG_WARN_C * 8 : Nat)
  let low : Int := warn - (c.rd Reg.THERM_CFG_HYST * 8 : Nat)
  let c3 :=
    if warn ≤ read hot then (c2.flag Reg.THERM_STATUS_WARN_NOW true).flag Reg.THERM_STATUS_WARN_SEEN true
    else if read hot < low then c2.flag Reg.THERM_STATUS_WARN_NOW false else c2
  if read n < 1000 ∨ c3.on Reg.THERM_STATUS_TRIP then c3 else (c3.flag Reg.THERM_STATUS_TRIP true).tripOff

/-- The power state once a trip is cleared (R418, R455). -/
def Chip.tripCleared (old c : Chip) : Chip :=
  if !old.on Reg.THERM_STATUS_TRIP ∨ c.on Reg.THERM_STATUS_TRIP then c
  else if c.on Reg.TWIN_CFG_PAIR_EN then (if c.standby then ((c.wr Reg.PWR_STATUS_STATE 1).restOutputs).ptpRefresh else c)
  else c.followTarget

end Sys2Proof.Machine
end

