-- ==== Sys2Proof/Machine/Run.lean ====
section
/-! DEFINITION. A packet command run, whatever path it came on (R364), and a command that runs on once its scopes are free (R380). -/

namespace Sys2Proof.Machine

/-- The effect of a packet command. -/
def Chip.runOpcode (c : Chip) (i : Instr) : Chip :=
  match i with
  | .nop r => c.doNop r
  | .identify r => c.doIdentify r
  | .objRead r l => c.doObjRead r l
  | .objWrite r l => c.doObjWrite r l
  | .objReadBulk r o l => c.doObjReadBulk r o l
  | .txnBegin r => c.doTxnBegin r
  | .txnCommit r m a d t => c.doTxnCommit r m a d t
  | .txnRollback r => c.doTxnRollback r
  | .txnStatus r => c.doTxnStatus r
  | .tblInsert r t e x => c.doTblInsert r t e x
  | .tblDelete r t x => c.doTblDelete r t x
  | .tblLookup r t x => c.doTblLookup r t x
  | .tblDma r t h f n w s d => c.doTblDma r t h f n w s d
  | .tblBarrier r t => c.doTblBarrier r t
  | .queueFlush r a n => c.doQueueFlush r a n
  | .timeGet r => c.doTimeGet r
  | .timeStep r a => c.doTimeStep r a
  | .timeIncr r a b d => c.doTimeIncr r a b d
  | .refForce r t a n => c.doRefForce r t a n
  | .jumpAccept r a b => c.doJumpAccept r a b
  | .cycLoad r e s => c.doCycLoad r e s
  | .cycStart r d => c.doCycStart r d
  | .cycStop r d => c.doCycStop r d
  | .cycSwap r e => c.doCycSwap r e
  | .cntSnapshot r => c.doCntSnapshot r
  | .cntRead r l => c.doCntRead r l
  | .jrnRead r a b => c.doJrnRead r a b
  | .jrnMark r a b => c.doJrnMark r a b
  | .twinStatus r => c.doTwinStatus r
  | .twinPromote r h t => c.doTwinPromote r h t
  | .twinDemote r => c.doTwinDemote r
  | .twinCheckpoint r k n b => c.doTwinCheckpoint r k n b
  | .twinHeartbeat r u => c.doTwinHeartbeat r u
  | .fabStatus r => c.doFabStatus r
  | .fabAssign r d => c.doFabAssign r d
  | .fabRoute r p d k => c.doFabRoute r p d k
  | .fwStage r t s => c.doFwStage r t s
  | .fwWrite r t => c.doFwWrite r t
  | .fwActivate r t => c.doFwActivate r t
  | .fwStatus r => c.doFwStatus r
  | .calRun r w => c.doCalRun r w
  | .calCommit r w => c.doCalCommit r w
  | .lullCtrl r w => c.doLullCtrl r w
  | .loopback r w => c.doLoopback r w
  | .diagCapture r w h => c.doDiagCapture r w h
  | .keyInstall r a b d k => c.doKeyInstall r a b d k
  | .keyRetire r a b d => c.doKeyRetire r a b d
  | .roleMap r a b d => c.doRoleMap r a b d
  | _ => c

/-- A packet command run; a trip it clears is acted on (R455). -/
def Chip.runCommand (c : Chip) (i : Instr) : Chip := Chip.tripCleared c (c.runOpcode i)

/-- TXN_SCOPE_ACQUIRED (R380): a waiting commit takes the scopes now free and goes on; a parked command whose scopes are all free runs. -/
def Chip.scopeAcquired (w : Waiter) (c : Chip) : Chip :=
  match w with
  | .commit id => match c.txns.find? (fun t => t.id == id) with
    | some t => if t.state = .waiting ∧ t.wants ≠ [] then c.advanceCommit id else c
    | none => c
  | .parked n => match c.parked[n]? with
    | some p =>
      let l := allScopes [p.cmd]
      if p.tag = 0 ∧ l ≠ [] ∧ (c.firstBlocked 0 l).isNone then ({ c with parked := c.parked.eraseIdx n }).runCommand p.cmd else c
    | none => c

end Sys2Proof.Machine
end

