-- ==== Sys2Proof/Machine/Tick.lean ====
section
/-! DEFINITION. The tick of the timebase (R161, R162, R172): one addition of TB_INCR, one waiting step with what it does elsewhere, the
generators and integrals that move with every tick. -/

namespace Sys2Proof.Machine

/-- Timed frames in the release stage after a step (R129): those passed over are late, those now too far ahead are dropped. -/
def Chip.launchStep (old c : Chip) : Chip :=
  let held := c.path.ports.flatMap fun x => (c.portSt x.1).slots
  c.each held fun x c =>
    match (c.tgtOf x.1 x.2).bind Tgt.launch with
    | none => c
    | some l =>
      if old.tb16 ≤ l ∧ l < c.tb16 then c.dropTimed Ev.LATE_DROP x.1 x.2
      else if c.tooFar l then c.dropTimed Ev.LAUNCH_FAR x.1 x.2
      else c

/-- The journal record of an applied step (R169, R389): of TIME_STEP, or of JUMP_ACCEPT, whose content ends with the source that was refused, or
of the firmware servo, a KIND 3 record without content (R392; log entries 70 and 87). -/
def Chip.stepRecord (c : Chip) (p : PendStep) : Chip :=
  let content := bytesOfNat 4 (objId Cls.TIME 0 0x08) ++ bytesOfNat 8 (encS 64 p.offset)
  match p.req with
  | some r => if p.jump then c.jrnCmd r 1 0x0405 1 0 (content ++ bytesOfNat 1 p.source) else c.jrnCmd r 1 0x0402 1 0 content
  | none => if p.source = 2 then c.jrnEvent 0 0 else c

/-- A step applied, and its effects (R172): gate lists, launch times, event outputs, clock outputs, cycle boundaries, commit points. -/
def Chip.takeStep (c : Chip) (p : PendStep) : Chip :=
  let c1 := (c.addStep p.offset).stepRecord p
  let c2 := Chip.evoStep c (Chip.markLate c c1).gatesStep
  (Chip.launchStep c c2.ckoStep).domainsStep p.offset

/-- Requests that a freeze has held, run once it is lifted (R47). -/
def Chip.lateRequests (c : Chip) : Chip :=
  c.each (c.parked.filter fun p => p.tag == heldTag) fun p c =>
    if c.requestHeld p.cmd then c
    else
      let c1 := { c with parked := c.parked.erase p }
      match p.cmd with
      | .tblDma r t host first n true st (some d) => c1.dmaGo r t host first n st d
      | i => c1.runCommand i

/-- Internal freezes ended after 10 µs, and transfers that a freeze has held done once it is lifted (R47). -/
def Chip.thawHeld (c : Chip) : Chip := c.drainLimit.lateHits.lateCopies.lateRequests

/-- One tick: TB_INCR, one waiting step, and what moves with the tick. -/
def Chip.tick (c : Chip) : Chip :=
  let c2 := c.tickAdd
  let c3 := match c2.time.steps with
    | [] => c2
    | p :: l =>
      let c := { c2 with time := { c2.time with steps := l } }
      if c.stepNegative p.offset then c else c.takeStep p
  ((((c3.synTick).carTick).restStep).shelfDue).thawHeld

/-- TIMEBASE_TICK: n ticks of the 390.625 MHz clock; none while the device is in reset or without power. -/
def Chip.ticks (n : Nat) (c : Chip) : Chip := if c.pwr.low ∨ c.pwr.failed then c else c.each (List.range n) fun _ c => c.tick

end Sys2Proof.Machine
end

