-- ==== Sys2Proof/Machine/Receive.lean ====
section
/-! DEFINITION. Requests as they arrive (R354 to R359, R364), and the PCIe endpoint: registers, rings, mailboxes, doorbells (R366 to
R373). -/

namespace Sys2Proof.Machine

/-! ### The checks of R354 -/

/-- Whether a slot admits a path (R358): UDP, Ethernet, MGT, PCIe ring, twin link from bit 4 down. -/
def Chip.admits (c : Chip) (slot : Nat) (v : Via) : Bool :=
  let t := c.rd Reg.KEY_STATE_TRANSPORTS slot
  match v.base with
  | .eth p _ _ => bitOf t (if p.val = 512 then 2 else 3)
  | .udp4 p _ _ _ _ => bitOf t (if p.val = 512 then 2 else 4)
  | .udp6 p _ _ _ _ => bitOf t (if p.val = 512 then 2 else 4)
  | .ring => bitOf t 1
  | .twinLink => bitOf t 0
  | _ => false

/-- The header fields of a packet. -/
structure Hdr where
  flags : Nat
  op : Nat
  status : Nat
  seq : Nat
  role : Nat
  slot : Nat
  rsv : Nat
  sec : Nat
  ns : Nat
  txn : Nat
  len : Nat

def parseHdr (b : Bytes) : Hdr :=
  { flags := natAt b 3 1, op := natAt b 4 2, status := natAt b 6 2, seq := natAt b 8 4, role := natAt b 12 1, slot := natAt b 13 1,
    rsv := natAt b 14 2, sec := natAt b 16 4, ns := natAt b 20 4, txn := natAt b 24 4, len := natAt b 28 4 }

/-- Check 1 of R354. -/
def formOk (b : Bytes) : Bool :=
  let h := parseHdr b
  decide (48 ≤ b.length) && natAt b 0 2 == 0xC7A1 && natAt b 2 1 == 1 && !bitOf h.flags 7 && !bitOf h.flags 6 &&
  decide (h.len ≤ 8960) && decide (48 + h.len ≤ b.length)

/-- The sender time less the timebase in ns (R357). -/
def Chip.sendDiff (c : Chip) (sec ns : Nat) : Int :=
  signed 32 (encS 32 ((sec : Int) - (c.tbSec % 2 ^ 32 : Nat))) * (nsPerS : Int) + ((ns : Int) - (c.tbNs : Int))

/-- Check 5 of R354: sequence, and sender time where it is tested (R356, R357, R422). -/
def Chip.freshOk (c : Chip) (v : Via) (h : Hdr) : Bool :=
  decide (c.rd Reg.KEY_STATE_LAST_SEQ h.slot < h.seq) &&
  (v.base == .ring || c.fw.recovery || !c.on Reg.TIME_STATUS_TB_VALID ||
    (decide (h.ns < nsPerS) && decide ((c.sendDiff h.sec h.ns).natAbs ≤ 2 * nsPerS)))

/-- A request refused at check 2 or 3 (R355): answered on the PCIe ring alone, counted and notified everywhere. -/
def Chip.authFail (c : Chip) (r : Req) (h : Hdr) : Chip :=
  let c1 := (c.count Ev.CMD_AUTH_FAIL).notify Nt.AUTH_FAIL Cls.SEC h.slot 1
  if r.via = .ring then c1.replyWith none r h.op .authFail h.txn [] h.role else c1

/-- The request a header makes. -/
def reqOfHdr (v : Via) (h : Hdr) (role : Role) (era : Nat := 0) : Req :=
  { slot := h.slot, role := role, via := v, txn := h.txn, seq := h.seq, sent := (h.sec * nsPerS + h.ns) * 65536, era := era }

/-- The opcodes the loader serves in recovery (R422). -/
def recoveryOps : List Nat := [0x0001, 0x0002, 0x0A01, 0x0A02, 0x0A03, 0x0A04]

/-- The TLVs at the front of a payload as far as they can be read: what check 7 knows of the objects before check 8 tests the form. -/
def leadTlvs : Nat → Bytes → List RawTlv
  | 0, _ => []
  | n + 1, b =>
    let len := natAt b 2 2
    if b.length < 4 + len then [] else (natAt b 0 2, (b.drop 4).take len) :: leadTlvs n (b.drop (4 + len + padTo4 len))

/-- Whether a role may act on the objects that a request's TLVs name (check 7 of R354, R360), whatever its form. -/
def Chip.objectsMay (c : Chip) (r : Req) (op : Nat) (l : List RawTlv) : Bool :=
  let objs := l.filterMap fun t => if t.1 = 1 ∧ t.2.length = 4 then some (natOfBytes t.2) else none
  match op with
  | 0x0101 => objs.all fun o => objCls o != Cls.SEC || r.role == .owner
  | 0x0103 => objs.all fun o => objCls o != Cls.SEC || r.role == .owner
  | 0x0102 => objs.all (c.objectMay r)
  | 0x0802 => l.all fun t => !(t.1 == 0x20 && bitOf (natAt t.2 0 1) 7) || r.role == .owner
  | _ => true

/-- Checks 6 to 9 and execution. In recovery the FW opcodes take target 0 alone. -/
def Chip.runChecked (c : Chip) (r : Req) (h : Hdr) (payload : Bytes) : Chip :=
  if !opcodeDefined h.op ∨ (c.fw.recovery ∧ !recoveryOps.contains h.op) then c.reply r h.op .badOpcode
  else if !roleMay h.op r.role ∨ !c.objectsMay r h.op (leadTlvs payload.length payload) then c.reply r h.op .noAccess
  else if h.status ≠ 0 ∨ h.rsv ≠ 0 ∨ h.flags ≠ 0 ∨ nsPerS ≤ h.ns ∨ h.len % 4 ≠ 0 then c.reply r h.op .badParam
  else match (parseTlvs false payload.length payload).bind (parseCommand r h.op) with
    | none => c.reply r h.op .badParam
    | some i => if c.fw.recovery && loaderRefuses i then c.reply r h.op .badParam else c.runCommand i
where
  /-- Another firmware target than 0. -/
  loaderRefuses : Instr → Bool
    | .fwStage _ t _ => t != 0
    | .fwWrite _ t => t != 0
    | .fwActivate _ t => t != 0
    | _ => false

/-- Whether a path is served: none in reset, in recovery the ring and MGT (R407, R422). -/
def Chip.served (c : Chip) (v : Via) : Bool :=
  !c.pwr.low && !c.pwr.failed && (!c.fw.recovery || match v.base with
    | .ring => true
    | .eth p _ _ => p.val == 512
    | .udp4 p _ _ _ _ => p.val == 512
    | .udp6 p _ _ _ _ => p.val == 512
    | _ => false)

/-- Whether a slot may send: with a key, on a path it admits; in recovery the owner slots (R354, R358, R422). -/
def Chip.slotOk (c : Chip) (slot : Nat) (v : Via) : Bool :=
  decide (slot ≤ 31) && c.on Reg.KEY_STATE_VALID slot && c.admits slot v && (!c.fw.recovery || c.rd Reg.KEY_STATE_ROLE slot == 4)

/-- A reply or notification from the partner (R333, R395): its slot admits the twin link and its code is right. -/
def Chip.fromPartner (c : Chip) (b : Bytes) : Chip :=
  let h := parseHdr b
  let payload := (b.drop 32).take h.len
  let ok := decide (48 ≤ b.length) && natAt b 0 2 == 0xC7A1 && natAt b 2 1 == 1 && decide (48 + h.len ≤ b.length) && c.slotOk h.slot .twinLink &&
    authCode (SMap.get c.keys h.slot) (b.take (32 + h.len)) == natAt b (32 + h.len) 16
  match if ok then parseTlvs false payload.length payload else none with
  | none => c
  | some l => if bitOf h.flags 7 then c.twinReply h.op h.status h.txn l else c.twinEvent l

/-- The one unauthenticated request of R359: KEY_INSTALL of an owner key over the ring while no valid owner exists. -/
def Chip.bootstrap (c : Chip) (v : Via) (h : Hdr) (b : Bytes) : Bool :=
  v == .ring && !c.ownerLeft none && h.op == 0x0C01 && h.role == 4 && h.slot == 255 && natAt b (32 + h.len) 16 == 0

/-- A heartbeat whose sender time lies outside ±2 ms (R342), which check 5 tests too (R357). -/
def Chip.staleBeat (c : Chip) (r : Req) (op : Nat) : Bool := op == 0x0805 && decide (2000000 * 65536 < (c.sentDiff r).natAbs)

/-- A request at the head of the queue: the checks of R354 in order, then its execution. A heartbeat rejected at check 5 counts HB_STALE. -/
def Chip.runPacket (c : Chip) (p : Packet) : Chip :=
  let b := p.bytes
  let h := parseHdr b
  let payload := (b.drop 32).take h.len
  if !c.served p.via then c
  else if p.via = .twinLink ∧ 64 ≤ h.flags then c.fromPartner b
  else if !formOk b then c.count Ev.CMD_MALFORMED
  else if c.bootstrap p.via h b then c.runChecked (reqOfHdr p.via h .owner p.era) h payload
  else
    let slotRole := (Role.ofCode (c.rd Reg.KEY_STATE_ROLE h.slot)).getD .observer
    let r := reqOfHdr p.via h slotRole p.era
    if !c.slotOk h.slot p.via then c.authFail r h
    else if authCode (SMap.get c.keys h.slot) (b.take (32 + h.len)) ≠ natAt b (32 + h.len) 16 then c.authFail r h
    else if h.role ≠ c.rd Reg.KEY_STATE_ROLE h.slot then c.reply r h.op .noAccess [] h.role
    else if !c.freshOk p.via h || c.staleBeat r h.op then
      (if h.op = 0x0805 then c.count Ev.HB_STALE else c).reply r h.op .replay [tlvLastSeq (c.rd Reg.KEY_STATE_LAST_SEQ h.slot)]
    else (c.wr Reg.KEY_STATE_LAST_SEQ h.seq h.slot).runChecked r h payload

/-- Packets the command queue holds at most (R364). -/
def queueLimit : Nat := 256

/-- A request enters the command queue; a full one discards it (R364). -/
def Chip.queuePacket (c : Chip) (p : Packet) : Chip :=
  if queueLimit ≤ c.cmdq.length then c.count Ev.CMD_QFULL else { c with cmdq := c.cmdq ++ [{ p with era := c.hif.era }] }

/-- The interpreter takes every request of the queue in order (R364). -/
def Chip.drainQueue (c : Chip) : Chip := ({ c with cmdq := [] }).each c.cmdq fun p c => c.runPacket p

/-- CMD_PACKET_RX (R354, R364): the packet is queued, and with the interpreter idle the queue is worked off. -/
def Chip.packetRx (v : Via) (idle : Bool) (b : Bytes) (c : Chip) : Chip :=
  let c1 := c.queuePacket { via := v, bytes := b }
  if idle then c1.drainQueue else c1

/-! ### Rings -/

/-- A ring's HEAD moved on by one entry. -/
def Ring.next (g : Ring) : Ring := { g with head := (g.head + 1) % max 1 g.size }

/-- TAIL written (R368): an index modulo the entry count. A write while EN = 0 is kept too. -/
def Ring.setTail (g : Ring) (tail : Nat) : Ring := { g with tail := if g.en then tail % max 1 g.size else tail % 4096 }

/-- HIF_ERR [2] where entries are offered past those the ring can hold (DESIGN CHOICE, log entry 184). -/
def Chip.ringOverrun (c : Chip) (g : Ring) (waiting offered : Nat) : Chip := if g.en && decide (max 1 g.size ≤ waiting + offered) then c.hifErr 2 else c

/-- HIF_CMD_TAIL_WRITE (R368): the fetched requests enter the command queue, DONE written to each descriptor taken; a fetch error sets HIF_ERR [0]. -/
def Chip.cmdTail (tail : Nat) (idle : Bool) (reqs : List (Option Bytes)) (c : Chip) : Chip :=
  let c0 := { c with hif := { c.hif with cmd := c.hif.cmd.setTail tail } }
  if !c.hif.cmd.en then c0
  else
    let c1 := (c0.ringOverrun c.hif.cmd 0 reqs.length).each reqs fun q (c : Chip) =>
      let c' := { c with hif := { c.hif with cmd := c.hif.cmd.next } }
      match q with
      | none => c'.hifErr 0
      | some b => (c'.emit (.ringDone 0 c.hif.cmd.head)).queuePacket { via := .ring, bytes := b }
    let c2 := { c1 with hif := { c1.hif with cmd := { c1.hif.cmd with head := c1.hif.cmd.tail } } }
    if idle then c2.drainQueue else c2

/-- HIF_INJ_TAIL_WRITE (R368): frames offered for injection wait at the head of their ring. A descriptor that cannot be fetched is passed over. -/
def Chip.injTail (tail : Nat) (frames : List (Option (Nat × Bytes))) (c : Chip) : Chip :=
  let c0 := { c with hif := { c.hif with inj := c.hif.inj.setTail tail } }
  if !c.hif.inj.en then c0
  else (c0.ringOverrun c.hif.inj c.hif.injWait.length frames.length).each frames fun q (c : Chip) =>
    let c1 := if q.isNone then c.hifErr 0 else c
    { c1 with hif := { c1.hif with injWait := c1.hif.injWait ++ [q] } }

/-- The head of the injection ring moves on. -/
def Chip.injDone (c : Chip) : Chip := { c with hif := { c.hif with injWait := c.hif.injWait.drop 1, inj := c.hif.inj.next } }

/-- INJECT_FRAME (R368): the frame at the head is taken and DONE set, skipped for a bad LEN or PORT, or waits for cells of the trap reserve. The
twin link carries no injected frame (R333). -/
def Chip.injectFrame (c : Chip) : Chip :=
  match c.hif.injWait with
  | [] => c
  | none :: _ => c.injDone
  | some (d, b) :: _ =>
    let port := Lay.IDESC_PORT.get d
    let len := Lay.IDESC_LEN.get d
    if 512 < port ∨ c.twinPort port ∨ len < 60 ∨ c.maxFrame port < len + 4 ∨ (port = 512 ∧ Lay.IDESC_TIMED.get d = 1) then c.injDone.hifErr 0
    else match c.injectOwn port (Lay.IDESC_CLASS.get d) (sliceBytes b 0 len)
        (if Lay.IDESC_TIMED.get d = 1 then some (timeOf96 (Lay.IDESC_LAUNCH.get d)) else none)
        (if Lay.IDESC_STAMP.get d = 1 then some (Lay.IDESC_TAG.get d) else none) with
      | none => c
      | some c1 => (c1.injDone.emit (.ringDone 3 c.hif.inj.head)).emit (.msix 2)

/-- HIF_RSP_TAIL_WRITE (R368): empty buffers offered to the reply or delivery ring; waiting replies take them in order. -/
def Chip.rspTail (delivery : Bool) (tail : Nat) (rooms : List Nat) (c : Chip) : Chip :=
  if delivery then
    let c1 := { c with hif := { c.hif with dlv := c.hif.dlv.setTail tail, dlvRoom := if c.hif.dlv.en then c.hif.dlvRoom ++ rooms else c.hif.dlvRoom } }
    c1.ringOverrun c.hif.dlv c.hif.dlvRoom.length rooms.length
  else if !c.hif.rsp.en then { c with hif := { c.hif with rsp := c.hif.rsp.setTail tail } }
  else
    let c1 := { c with hif := { c.hif with rsp := c.hif.rsp.setTail tail, rspRoom := c.hif.rspRoom ++ rooms, rspWait := [] } }
    (c1.ringOverrun c.hif.rsp c.hif.rspRoom.length rooms.length).each c.hif.rspWait fun w c =>
      if c.hif.rspRoom.isEmpty then { c with hif := { c.hif with rspWait := c.hif.rspWait ++ [w] } } else c.toRing w.2

/-- RSP_RING_TIMEOUT (R368): replies that have waited 10 ms are discarded and counted. -/
def Chip.rspTimeout (c : Chip) : Chip :=
  let late := c.hif.rspWait.filter fun w => w.1 ≤ c.now
  ({ c with hif := { c.hif with rspWait := c.hif.rspWait.filter fun w => !(w.1 ≤ c.now) } }).each late fun _ c => c.count Ev.CMD_RSP_DROP

/-- A ring after a host reset: disabled and empty (R368). DESIGN CHOICE (log entry 184): HEAD and TAIL are 0. -/
def Ring.off (g : Ring) : Ring := { g with en := false, head := 0, tail := 0 }

/-- HOST_RESET (R368, R371): replies to requests already taken are discarded from now on. -/
def Chip.hostReset (c : Chip) : Chip :=
  let h := c.hif
  let c1 := { c with hif := { h with
    cmd := h.cmd.off, rsp := h.rsp.off, inj := h.inj.off, dlv := h.dlv.off, rspRoom := [], dlvRoom := [], rspWait := [], injWait := []
    db := h.db % 2 ^ 32, era := h.era + 1 } }
  c1.each (List.range 16) fun n c =>
    if c.on Reg.MBX_STAT_F2H_FULL n then (c.flag Reg.MBX_STAT_F2H_FULL false n).incSat Reg.MBX_STAT_LOST 1 n else c

/-! ### Mailboxes and doorbells -/

/-- A read of HIF_MBX_POST_n (R369): the staged message is posted, or the full mailbox counts a DROP; the value is 0 or 1. -/
def Chip.mbxRead (n : Nat) (c : Chip) : Nat × Chip :=
  if c.on Reg.MBX_STAT_H2F_FULL n then (1, c.incSat Reg.MBX_STAT_DROP 1 n)
  else (0, ({ c with hif := { c.hif with h2f := SMap.set c.hif.h2f n (SMap.get c.hif.h2fStage n) } }).flag Reg.MBX_STAT_H2F_FULL true n)

/-- HIF_MBX_POST (R369). -/
def Chip.mbxPost (n : Nat) (c : Chip) : Chip := (c.mbxRead n).2.emit (.hostRead (c.mbxRead n).1)

/-- A mailbox command run under a role (R372): opcodes the role may use, that do not wait and name no transaction. -/
def Chip.mailboxCommand (c : Chip) (v : Via) (role : Role) (msg : Nat) : Chip :=
  let b := bytesOfNat 64 msg
  let op := natAt b 0 2
  let r : Req := { slot := 255, role := role, via := v, txn := 0, seq := natAt b 4 4, sent := c.tb16 }
  if !opcodeDefined op then c.reply r op .badOpcode
  else if !roleMay op role ∨ !c.objectsMay r op (leadTlvs 64 (b.drop 8)) then c.reply r op .noAccess
  else if natAt b 2 2 ≠ 0 then c.reply r op .badParam
  else match (parseTlvs true 64 (b.drop 8)).bind (parseCommand r op) with
    | none => c.reply r op .badParam
    | some i => c.runCommand i

/-- MBX_COMMAND_TAKE (R369, R372): the mailbox is freed, then the message acted on; ROLE 0 discards it with a DROP. -/
def Chip.mbxTake (n : Fin 16) (c : Chip) : Chip :=
  if !c.on Reg.MBX_STAT_H2F_FULL n ∨ c.fw.recovery then c
  else
    let msg := SMap.get c.hif.h2f n
    let c1 := ({ c with hif := { c.hif with h2f := SMap.set c.hif.h2f n 0 } }).flag Reg.MBX_STAT_H2F_FULL false n
    match c.rd Reg.MBX_CFG_ROLE n with
    | 1 => c1.mailboxCommand (.mbx n) .observer msg
    | 2 => c1.mailboxCommand (.mbx n) .operator msg
    | _ => c1.incSat Reg.MBX_STAT_DROP 1 n

/-- HIF_MBX_ACK (R369): each bit n set frees F2H_n. -/
def Chip.mbxAck (mask : Nat) (c : Chip) : Chip :=
  c.each (List.range 16) fun n c =>
    if bitOf mask n then
      ({ c with hif := { c.hif with f2h := SMap.set c.hif.f2h n 0 } }).flag Reg.MBX_STAT_F2H_FULL false n
    else c

/-- A read of HIF_EMBX_POST_e while Drumline is powered: a post to an engine's mailbox. -/
def Chip.embxRead (e : Nat) (c : Chip) : Nat × Chip :=
  let (ok, c1) := c.postEngine e c.hif.embx
  (if ok then 0 else 1, c1)

/-- HIF_EMBX_POST (R370): a post to an engine's mailbox, or a completer abort while Drumline is powered down. -/
def Chip.embxPost (e : Nat) (c : Chip) : Chip :=
  if c.rd Reg.PWR_STATUS_STATE ≠ 2 then c.emit .abort else (c.embxRead e).2.emit (.hostRead (c.embxRead e).1)

/-- HIF_DB_SET (R373): bits 0 to 31 set their doorbells, the rest are ignored. -/
def Chip.dbSet (bits : Nat) (c : Chip) : Chip := { c with hif := { c.hif with db := c.hif.db ||| (bits % 2 ^ 32) } }

/-- DOORBELL_COMMAND_START (R373): the pending bit is cleared and the DB_CMD element runs under its role; DB_RESULT takes the
status. -/
def Chip.dbStart (b : Fin 32) (c : Chip) : Chip :=
  if !bitOf c.hif.db b ∨ c.fw.recovery then c
  else
    let c1 := { c with hif := { c.hif with db := clrBit c.hif.db b } }
    let e := c.rd Reg.DB_CMD 16 b
    match bitsOf e 120 8 with
    | 1 => c1.mailboxCommand (.door b) .observer (e / 2 ^ 128)
    | 2 => c1.mailboxCommand (.door b) .operator (e / 2 ^ 128)
    | _ => c1

/-! ### BAR0 -/

/-- A 64-byte window with `width` bytes at offset o replaced; the number holds the bytes as message bytes, first byte highest. -/
def windowWrite (win o width value : Nat) : Nat :=
  let b := bytesOfNat 64 win
  natOfBytes (b.take o ++ bytesOfNatLE width value ++ b.drop (o + width))

/-- A 32-bit word of a ring's registers read: BASE at 0 and 4, SIZE at 8, TAIL at 12, HEAD at 16. -/
def Ring.word (g : Ring) (o : Nat) : Nat :=
  if o = 0 then g.base % 2 ^ 32 else if o = 4 then g.base / 2 ^ 32 else if o = 8 then b2n g.en * 2 ^ 31 + g.size
  else if o = 12 then g.tail else if o = 16 then g.head else 0

/-- A 32-bit word of a ring's registers written: BASE and SIZE are ignored while EN = 1, HEAD always (R368). -/
def Ring.write (g : Ring) (o v : Nat) : Ring :=
  if o = 12 then g.setTail v
  else if g.en then g
  else if o = 0 then { g with base := withBits g.base 0 32 (v / 64 * 64) }
  else if o = 4 then { g with base := withBits g.base 32 32 v }
  else if o = 8 then
    let n := bitsOf v 0 13
    let ok := [16, 32, 64, 128, 256, 512, 1024, 2048, 4096].contains n
    { g with size := n, en := bitOf v 31 && ok, head := g.head % max 1 n, tail := g.tail % max 1 n }
  else g

/-- HIF_DOMAINS (R366): management, core, Drumline, SerDes. -/
def Chip.hifDomains (c : Chip) : Nat := if c.rd Reg.PWR_STATUS_STATE = 2 then 15 else 1

/-- A 32-bit word of the counter snapshot window (R438): a counter's snapshot value with SNAP_SEQ, little-endian. -/
def Chip.cntWindow (c : Chip) (o : Nat) : Nat :=
  let w := c.rd Reg.CNT_SNAP_VALUE (o / 64) (o % 64 / 8) + bitsOf (c.rd Reg.CNT_SNAP_INFO_SNAP_SEQ) 0 16 * 2 ^ 48
  bitsOf w (8 * (o % 8)) 32

/-- A 32-bit word of BAR0 read, for registers whose read has no effect (R366); unlisted offsets and write-only registers read 0. -/
def Chip.hifWord (c : Chip) (off : Nat) : Nat :=
  let h := c.hif
  let bitsFrom := fun (F : Fld) => ((List.range 16).filter fun n => c.on F n).foldl setBit 0
  let full := ((List.range 64).filter fun e => c.engineMbxFull e).foldl setBit 0
  if off = 0 then 0xCAE15120
  else if off = 4 then 0xB0
  else if off = 8 then c.hifDomains
  else if off = 0x10 then h.err
  else if 0x100 ≤ off ∧ off < 0x114 then h.cmd.word (off - 0x100)
  else if 0x120 ≤ off ∧ off < 0x134 then h.rsp.word (off - 0x120)
  else if 0x140 ≤ off ∧ off < 0x154 then h.inj.word (off - 0x140)
  else if 0x160 ≤ off ∧ off < 0x174 then h.dlv.word (off - 0x160)
  else if off = 0x1000 then bitsFrom Reg.MBX_STAT_H2F_FULL + bitsFrom Reg.MBX_STAT_F2H_FULL * 65536
  else if 0x1800 ≤ off ∧ off < 0x1C00 then
    natOfBytesLE (sliceBytes (bytesOfNat 64 (SMap.get h.f2h ((off - 0x1800) / 64))) ((off - 0x1800) % 64) 4)
  else if off = 0x2008 then h.db % 2 ^ 32
  else if off = 0x200C then h.db / 2 ^ 32
  else if off = 0x2010 then h.dbMask % 2 ^ 32
  else if off = 0x2014 then h.dbMask / 2 ^ 32
  else if off = 0x3200 then full % 2 ^ 32
  else if off = 0x3204 then full / 2 ^ 32
  else if 0x10000 ≤ off ∧ off < 0x11200 then c.cntWindow (off - 0x10000)
  else 0

/-- Whether a register belongs to a powered-down domain (R370): the engine mailboxes outside RUN. DEDUCED (log entry 186): the counter window in SHELF,
where counters are not kept (R418). -/
def Chip.hifDark (c : Chip) (off : Nat) : Bool :=
  (decide (0x3100 ≤ off) && decide (off < 0x3208) && c.rd Reg.PWR_STATUS_STATE != 2) ||
  (decide (0x10000 ≤ off) && decide (off < 0x11200) && c.rd Reg.PWR_STATUS_STATE == 0)

/-- A 32-bit word read with its effect: the post registers post (R369, R370). -/
def Chip.readWord (off : Nat) (c : Chip) : Nat × Chip :=
  if 0x1040 ≤ off ∧ off < 0x1080 then c.mbxRead ((off - 0x1040) / 4)
  else if 0x3100 ≤ off ∧ off < 0x3200 then c.embxRead ((off - 0x3100) / 4)
  else (c.hifWord off, c)

/-- A read of BAR0 (R366): an aligned word of 32 or 64 bits, or a completer abort (R370). -/
def Chip.hifRead (off width : Nat) (c : Chip) : Chip :=
  if off % width ≠ 0 ∨ (width ≠ 4 ∧ width ≠ 8) then c.emit (.hostRead 0)
  else if c.hifDark off then c.emit .abort
  else if width = 4 then (c.readWord off).2.emit (.hostRead (c.readWord off).1)
  else
    let (lo, c1) := c.readWord off
    let (hi, c2) := c1.readWord (off + 4)
    c2.emit (.hostRead (lo + hi * 2 ^ 32))

/-- A 32-bit word of BAR0 written (R366); unlisted offsets, RO registers and reserved bits ignore it. -/
def Chip.writeWord (off v : Nat) (c : Chip) : Chip :=
  let h := c.hif
  if off = 0x10 then { c with hif := { h with err := h.err - (h.err &&& (v % 8)) } }
  else if 0x100 ≤ off ∧ off < 0x110 then { c with hif := { h with cmd := h.cmd.write (off - 0x100) v } }
  else if 0x120 ≤ off ∧ off < 0x130 then { c with hif := { h with rsp := h.rsp.write (off - 0x120) v } }
  else if 0x140 ≤ off ∧ off < 0x150 then { c with hif := { h with inj := h.inj.write (off - 0x140) v } }
  else if 0x160 ≤ off ∧ off < 0x170 then { c with hif := { h with dlv := h.dlv.write (off - 0x160) v } }
  else if off = 0x1004 then c.mbxAck v
  else if off = 0x2000 then c.dbSet v
  else if off = 0x200C then { c with hif := { h with db := h.db - (h.db &&& (v * 2 ^ 32)) } }
  else if off = 0x2014 then { c with hif := { h with dbMask := v * 2 ^ 32 } }
  else c

/-- A write to BAR0 (R366): aligned words of 32 or 64 bits, a 64-bit one as its two halves; the staging windows take any aligned piece. -/
def Chip.hifWrite (off width value : Nat) (c : Chip) : Chip :=
  let h := c.hif
  if off % width ≠ 0 then c
  else if 0x1400 ≤ off ∧ off < 0x1800 then
    let n := (off - 0x1400) / 64
    { c with hif := { h with h2fStage := SMap.upd h.h2fStage n fun w => windowWrite w ((off - 0x1400) % 64) width value } }
  else if 0x3000 ≤ off ∧ off < 0x3040 then { c with hif := { h with embx := windowWrite h.embx (off - 0x3000) width value } }
  else if width = 4 then c.writeWord off (value % 2 ^ 32)
  else if width = 8 then (c.writeWord off (value % 2 ^ 32)).writeWord (off + 4) (value / 2 ^ 32 % 2 ^ 32)
  else c

/-- HIF_REG_WRITE (R366): an access to a BAR0 register that has no row of its own. DESIGN CHOICE (log entry 186): without a value it is a read, which has
no row. -/
def Chip.hifRegWrite (off width : Nat) (value : Option Nat) (c : Chip) : Chip :=
  match value with
  | some v => c.hifWrite off width v
  | none => c.hifRead off width

end Sys2Proof.Machine
end

