-- ==== Sys2Proof/Machine/Trap.lean ====
section
/-! DEFINITION. Frames trapped to the management processor (R64, R65, R73, R92, R333, R361, R368): command packets, address resolution, the
LLDP TLVs of the low-power states, and what goes on to the host. PTP and ESMC have commands of their own. -/

namespace Sys2Proof.Machine

/-! ### ARP and Neighbor Solicitation (R361) -/

/-- The answer to an ARP request for CMD_IP4. -/
def Chip.arpAnswer (c : Chip) (b : Bytes) (k : Key) : Bytes :=
  let mac := c.rd Reg.DEV_MAC
  ethFrame k.sa mac (replyTag (k.outer.map fun t => t.1 * 65536 + t.2)) 0x0806
    (bytesOfNat 8 0x0001080006040002 ++ bytesOfNat 6 mac ++ bytesOfNat 4 (c.rd Reg.CMD_IP4) ++ sliceBytes b (k.l3 + 8) 10)

/-- The answer to a Neighbor Solicitation for CMD_IP6: an advertisement with the target's link-layer address. -/
def Chip.nsAnswer (c : Chip) (k : Key) : Bytes :=
  let mac := c.rd Reg.DEV_MAC
  let me := c.rd Reg.CMD_IP6
  let src := k.src.getD 0
  let dest_ := if src = 0 then 0xFF020000000000000000000000000001 else src
  let head := bytesOfNat 2 0x8800
  let body := bytesOfNat 4 (if src = 0 then 0x20000000 else 0x60000000) ++ bytesOfNat 16 me ++ bytesOfNat 2 0x0201 ++ bytesOfNat 6 mac
  let sum := inetSum (bytesOfNat 16 me ++ bytesOfNat 16 dest_ ++ bytesOfNat 4 32 ++ bytesOfNat 4 58 ++ head ++ bytesOfNat 2 0 ++ body)
  ethFrame k.sa mac (replyTag (k.outer.map fun t => t.1 * 65536 + t.2)) 0x86DD
    (bytesOfNat 4 0x60000000 ++ bytesOfNat 2 32 ++ bytesOfNat 1 58 ++ bytesOfNat 1 255 ++ bytesOfNat 16 me ++ bytesOfNat 16 dest_ ++
      head ++ bytesOfNat 2 sum ++ body)

/-- The firmware's answer to a trapped request for one of its addresses. -/
def Chip.addressAnswer (c : Chip) (f : Frame) (k : Key) : Chip :=
  let on := f.port = 512 ∨ c.on Reg.CMD_PORT_CMD_EN f.port
  let b := f.trapBody
  let dev := f.zid.map Lay.ZID_SRC_DEV.get
  if ¬ on then c
  else if k.etype = some 0x0806 ∧ natAt b (k.l3 + 6) 2 = 1 ∧ natAt b (k.l3 + 24) 4 = c.rd Reg.CMD_IP4 ∧ c.rd Reg.CMD_IP4 ≠ 0 then
    c.ownData f.port 7 dev (c.arpAnswer b k)
  else if k.ver = 6 ∧ k.proto = some 58 ∧ natAt b k.l4 1 = 135 ∧ natAt b (k.l4 + 8) 16 = c.rd Reg.CMD_IP6 ∧ c.rd Reg.CMD_IP6 ≠ 0 then
    c.ownData f.port 7 dev (c.nsAnswer k)
  else c

/-! ### LLDP (R64, R65) -/

/-- The organisationally specific TLVs of an LLDP data unit: OUI and subtype as one number, information string; the first number bounds
them. -/
def lldpOrgs : Nat → Bytes → List (Nat × Bytes)
  | 0, _ => []
  | n + 1, b =>
    let typ := natAt b 0 2 / 512
    let len := natAt b 0 2 % 512
    let v := (b.drop 2).take len
    if b.length < 2 + len ∨ typ = 0 then []
    else (if typ = 127 ∧ 4 ≤ len then [(natAt v 0 4, v.drop 4)] else []) ++ lldpOrgs n (b.drop (2 + len))

/-- The TLVs of a port's low-power states: the receive wake time of the EEE TLV, and the device's own report of EIDLE_EN, which on a fabric
port travels in hellos. -/
def Chip.lldpTake (c : Chip) (p : Nat) (b : Bytes) : Chip :=
  if 512 ≤ p then c
  else
    let own := c.rd Reg.DEV_MAC / 2 ^ 24 * 256 + 0xE1
    c.each (lldpOrgs b.length b) fun t c =>
      if t.1 = 0x00120F05 ∧ 10 ≤ t.2.length then c.updPort p fun s => { s with peerWake := natAt t.2 2 2 }
      else if t.1 = own ∧ t.2.length = 1 ∧ !c.fabPort p then
        (c.updPort p fun s => { s with peerEidle := natAt t.2 0 1 == 1, peerAt := c.now }).showEidle p
      else c

/-! ### The frame -/

/-- A command packet that reached a trap queue: a port with CMD_EN = 0 discards it. -/
def Chip.commandFrame (c : Chip) (f : Frame) (via : Via) (idle : Bool) (b : Bytes) : Chip :=
  if f.port ≠ 512 ∧ via ≠ .twinLink ∧ !c.on Reg.CMD_PORT_CMD_EN f.port then c.count Ev.CMD_PORT_OFF f.port else c.packetRx via idle b

/-- The path and bytes of a trapped command packet: over the twin link behind its Zidom header, from another device of the fabric inside a TYPE 0
frame (R317, R362). -/
def Chip.trapCommand (c : Chip) (f : Frame) : Option (Via × Bytes) :=
  match f.zid with
  | some h =>
    if Lay.ZID_TYPE.get h = 4 then some (.twinLink, f.inner 16)
    else if Lay.ZID_TYPE.get h = 0 then
      (c.commandOf f f.trapKey 16).map fun x => (.over ⟨Lay.ZID_SRC_DEV.get h % 64, Nat.mod_lt _ (by decide)⟩ x.1, x.2)
    else none
  | none => c.commandOf f f.trapKey 0

/-- TRAPPED_FRAME_HANDLE: the firmware takes the first frame of a trap queue that is not its PTP or ESMC part; `idle` tells that the
interpreter waits for a command. -/
def Chip.trapHandle (cls : Nat) (idle : Bool) (c : Chip) : Chip :=
  match c.trapFirst cls fun f => !f.trapKey.esmc && f.trapKey.ptp.isNone with
  | none => c
  | some (f, k) =>
    let c1 := c.dropTgt f.id k
    match c.trapCommand f with
    | some (via, b) => c1.commandFrame f via idle b
    | none =>
      let key := f.trapKey
      let c2 := if key.lldp then c1.lldpTake f.port (f.trapBody.drop key.l3) else c1.addressAnswer f key
      if f.port = 512 then c2 else c2.hostCopy f cls

end Sys2Proof.Machine
end

