-- ==== Sys2Proof/Machine/Flags.lean ====
section
/-! DEFINITION. The status flags of the block, each in the attribute that holds it. The block has no processor's flags; a flag of the spec is
a bit of a status attribute, set by the command that the rule names and cleared as its access kind says (R5). -/

namespace Sys2Proof.Machine

/-- The flags a host clears by writing 1 (R5): every W1C bit of the attribute map. -/
def w1cFlags : List Fld := (attrTable.flatMap AttrDef.flds).filter fun F => F.acc == .w1c && F.width == 1

/-- A W1C flag after a write of v under the mask m: cleared where both hold 1 (R5). -/
def w1cAfter (old v m : Bool) : Bool := old && !(v && m)

end Sys2Proof.Machine
end

