-- ==== Sys2Proof/Machine/ExecCore.lean ====
section
/-! DEFINITION. The meanings of commands: core speed and arbiters. Each is its effect on the block, over the shared operations. -/

namespace Sys2Proof.Machine

/-- BARO_SAMPLE (R38): Each sample interval the 32 Barometer cells are read and compared with the thresholds. -/
def execBaroSample (counts : List Nat) (s : State) : Host.Outcome State Fault Refusal :=
  onChip (Chip.baroSample counts) s

/-- ARB_PHASE (R45): An arbitration phase decides one winner among the requests present. -/
def execArbPhase (a : Fin 142) (reqs : List (Nat × Nat)) (s : State) : Host.Outcome State Fault Refusal :=
  onChip (Chip.arbPhase a reqs) s

/-- ARB_DATA_PHASE_END (R47): A data phase ends; the next granted phase starts, or DRAINED is set when frozen. -/
def execArbDataPhaseEnd (a : Fin 142) (s : State) : Host.Outcome State Fault Refusal :=
  onChip (Chip.arbDataEnd a) s

/-- ARB_WD_EXPIRED (R49): FREEZE held for FREEZE_WD µs is cleared by the watchdog, which notifies. -/
def execArbWdExpired (a : Fin 142) (s : State) : Host.Outcome State Fault Refusal :=
  onChip (Chip.arbWd a) s

end Sys2Proof.Machine
end

