-- ==== Sys2Proof/Machine/ExecCycle.lean ====
section
/-! DEFINITION. The meanings of commands: cycle packets. Each is its effect on the block, over the shared operations. -/

namespace Sys2Proof.Machine

/-- CYC_LOAD (R272): Command that loads and checks a program image into the inactive region of one engine. -/
def execCycLoad (r : Req) (engines : Nat) (src : ImgSrc) (s : State) : Host.Outcome State Fault Refusal :=
  onChip (Chip.doCycLoad r engines src) s

/-- CYC_START (R254): Command that arms a cycle domain for its first boundary at least 10 µs ahead. -/
def execCycStart (r : Req) (d : Fin 4) (s : State) : Host.Outcome State Fault Refusal :=
  onChip (Chip.doCycStart r d) s

/-- CYC_STOP (R254): Command that ends a domain after the trigger then in progress. -/
def execCycStop (r : Req) (d : Fin 4) (s : State) : Host.Outcome State Fault Refusal :=
  onChip (Chip.doCycStop r d) s

/-- CYC_SWAP (R272): Staged command that makes loaded images active at the first trigger at or after the commit point. -/
def execCycSwap (r : Req) (engines : Nat) (s : State) : Host.Outcome State Fault Refusal :=
  onChip (Chip.doCycSwap r engines) s

end Sys2Proof.Machine
end

