-- ==== Sys2Proof/Machine/ExecDirect.lean ====
section
/-! DEFINITION. The meanings of commands: register commands with an effect of their own. Each is its effect on the block, over the shared operations. -/

namespace Sys2Proof.Machine

/-- EVO_SET_LOW (R201): Host EVO_REQ write with ACTION 0 queues an edge to low. -/
def execEvoSetLow (r : Req) (n : Fin 32) (time : Nat) (s : State) : Host.Outcome State Fault Refusal :=
  onChip (Chip.doEvoReq r n time 0 0) s

/-- EVO_SET_HIGH (R201): Host EVO_REQ write with ACTION 1 queues an edge to high. -/
def execEvoSetHigh (r : Req) (n : Fin 32) (time : Nat) (s : State) : Host.Outcome State Fault Refusal :=
  onChip (Chip.doEvoReq r n time 1 0) s

/-- EVO_TOGGLE (R201): Host EVO_REQ write with ACTION 2 queues a toggle. -/
def execEvoToggle (r : Req) (n : Fin 32) (time : Nat) (s : State) : Host.Outcome State Fault Refusal :=
  onChip (Chip.doEvoReq r n time 2 0) s

/-- EVO_PULSE (R201): Host EVO_REQ write with ACTION 3 queues a pulse of two edges. -/
def execEvoPulse (r : Req) (n : Fin 32) (time width : Nat) (s : State) : Host.Outcome State Fault Refusal :=
  onChip (Chip.doEvoReq r n time 3 width) s

/-- SYN_VREQ (R217): Host write of a synthesiser target request that is queued for START_NS after execution. -/
def execSynVreq (r : Req) (d : Fin 5) (v : Nat) (s : State) : Host.Outcome State Fault Refusal :=
  onChip (Chip.doSynVreq r d v) s

/-- HPI_OFFSET (R168): Host write of a measured offset into the hardware PI servo, which sets ADJ or refuses a jump. -/
def execHpiOffset (r : Req) (theta : Int) (s : State) : Host.Outcome State Fault Refusal :=
  onChip (Chip.doHpiOffset r theta) s

/-- OPT_RAW (R71): Raw I2C access to an optical module, with page select, served in request order. -/
def execOptRaw (r : Req) (port : Fin 513) (write : Bool) (dev page off len : Nat) (data : Bytes) (resp : OptResp) (flat : Bool) (s : State) : Host.Outcome State Fault Refusal :=
  onChip (Chip.doOptRaw r port write dev page off len data resp flat) s

/-- EVI_FIFO (R195): Read of the event FIFO that returns and removes up to 64 records. -/
def execEviFifo (r : Req) (n : Fin 32) (s : State) : Host.Outcome State Fault Refusal :=
  onChip (Chip.doFifoRead r (objId Cls.EVT n 0x03)) s

/-- IVL_SAMPLES (R197): Read of the interval sample FIFO that returns and removes records. -/
def execIvlSamples (r : Req) (n : Fin 32) (s : State) : Host.Outcome State Fault Refusal :=
  onChip (Chip.doFifoRead r (objId Cls.EVT n 0x12)) s

/-- ARB_FREEZE_SET (R47): Write of FREEZE = 1 stops an arbiter from starting new arbitration phases. -/
def execArbFreezeSet (r : Req) (a : Fin 142) (s : State) : Host.Outcome State Fault Refusal :=
  onChip (Chip.doFreezeSet r a) s

/-- ARB_FREEZE_CLEAR (R47): Write of FREEZE = 0 lifts the freeze and starts an arbitration phase at once. -/
def execArbFreezeClear (r : Req) (a : Fin 142) (reqs : List (Nat × Nat)) (s : State) : Host.Outcome State Fault Refusal :=
  onChip (Chip.doFreezeClear r a reqs) s

/-- TBL_LOCK_SET (R152): Write of 1 to a TBL_LOCK bit starts draining writes to the segment under an internal freeze. -/
def execTblLockSet (r : Req) (t : Fin 7) (seg : Fin 64) (s : State) : Host.Outcome State Fault Refusal :=
  onChip (Chip.doLockSet r t seg) s

/-- TBL_LOCK_DRAINED (R152): The drain of a locked segment completes and the lock bit reads 1. -/
def execTblLockDrained (t : Fin 7) (seg : Fin 64) (s : State) : Host.Outcome State Fault Refusal :=
  onChip (Chip.lockDrained t seg) s

/-- TBL_LOCK_RELEASE (R153): The owner writes 0 to a TBL_LOCK bit; parked learning requests are applied in order. -/
def execTblLockRelease (r : Req) (t : Fin 7) (seg : Fin 64) (s : State) : Host.Outcome State Fault Refusal :=
  onChip (Chip.doLockRelease r t seg) s

/-- LOCK_EXPIRED (R152): A segment lock held for LOCK_MS ends and a notification is sent. -/
def execLockExpired (t : Fin 7) (seg : Fin 64) (s : State) : Host.Outcome State Fault Refusal :=
  onChip (Chip.lockExpired t seg) s

end Sys2Proof.Machine
end

