-- ==== Sys2Proof/Machine/ExecDomain.lean ====
section
/-! DEFINITION. The meanings of commands: cycle domains. Each is its effect on the block, over the shared operations. -/

namespace Sys2Proof.Machine

/-- CYC_TRIGGER (R256): A domain boundary triggers its engines, unless the previous fence is still closed. -/
def execCycTrigger (d : Fin 4) (s : State) : Host.Outcome State Fault Refusal :=
  onChip (Chip.cycTrigger d) s

/-- GATHER_DEADLINE (R263): At T_k + D_IN pending or absent inputs become STALE and dependent engines rerun. -/
def execGatherDeadline (d : Fin 4) (s : State) : Host.Outcome State Fault Refusal :=
  onChip (Chip.gatherDeadline d) s

/-- ENGINE_WAITSEQ_RESUME (R293): A WAITSEQ finds its word tagged for the cycle and the engine resumes. -/
def execEngineWaitseqResume (e : Fin 64) (s : State) : Host.Outcome State Fault Refusal :=
  onChip (Chip.waitseqResume e) s

/-- ENGINE_PROGRAM_END (R256): An engine finishes its program or rerun for the cycle. -/
def execEngineProgramEnd (e : Fin 64) (s : State) : Host.Outcome State Fault Refusal :=
  onChip (Chip.programEnd e) s

/-- FENCE_OPEN (R32): Every input is confirmed or stale and no rerun is outstanding; the cycle's outputs are released. -/
def execFenceOpen (d : Fin 4) (s : State) : Host.Outcome State Fault Refusal :=
  onChip (Chip.fenceOpen d) s

/-- SCATTER_ENQUEUE (R266): A section writer writes a scatter frame's cells, computes its FCS and enqueues it. -/
def execScatterEnqueue (sec : Fin 8) (s : State) : Host.Outcome State Fault Refusal :=
  onChip (Chip.scatterEnqueue sec) s

end Sys2Proof.Machine
end

