-- ==== Sys2Proof/Machine/ExecEdge.lean ====
section
/-! DEFINITION. The meanings of commands: timebase, phase and events. Each is its effect on the block, over the shared operations. -/

namespace Sys2Proof.Machine

/-- TIME_INCR_DURATION_END (R166): DURATION ticks have passed and ADJ takes ADJ_AFTER. -/
def execTimeIncrDurationEnd (s : State) : Host.Outcome State Fault Refusal :=
  onChip Chip.endDuration s

/-- TDC_LOCK_CHANGE (R187): A TDC channel locks or unlocks; unlocking notifies and changes its users. The operand: by how many
steps the coarse and the vernier loop have moved. -/
def execTdcLockChange (ch : Fin 1104) (loops : Int × Int) (s : State) : Host.Outcome State Fault Refusal :=
  onChip (Chip.tdcChange ch loops.1 loops.2) s

/-- PHM_LOS (R191): No edge within four expected intervals puts a phase monitor in LOS. -/
def execPhmLos (m : Fin 520) (s : State) : Host.Outcome State Fault Refusal :=
  onChip (Chip.phmLos m) s

/-- PHM_RESTART (R191): The first edge after LOS restarts the monitor and increments RESTARTS. -/
def execPhmRestart (m : Fin 520) (edge : Fine) (s : State) : Host.Outcome State Fault Refusal :=
  onChip (Chip.phmAgain m edge) s

/-- EVT_IN_EDGE (R192): An event input edge is stamped, filtered and delivered to its owner. -/
def execEvtInEdge (n : Fin 32) (rising : Bool) (hold : Nat) (edge : Fine) (s : State) : Host.Outcome State Fault Refusal :=
  onChip (Chip.evtInEdge n rising hold edge) s

/-- IVL_PAIR_DECIDE (R196): C(s) + WIN has passed for a start edge and the interval unit pairs it or counts it missing. -/
def execIvlPairDecide (u : Fin 32) (s : State) : Host.Outcome State Fault Refusal :=
  onChip (Chip.ivlDecide u) s

/-- EVO_EDGE_PLACE (R200): A queued event-output edge is placed at its time and read back. -/
def execEvoEdgePlace (n : Fin 32) (pad : Option Fine) (s : State) : Host.Outcome State Fault Refusal :=
  onChip (Chip.evoPlace n pad) s

/-- EVO_PERIODIC_PULSE (R203): The periodic generator places its pulse at START + k × PERIOD_NS. -/
def execEvoPeriodicPulse (n : Fin 32) (pad : Option Fine) (s : State) : Host.Outcome State Fault Refusal :=
  onChip (Chip.evoPeriodic n pad) s

/-- PPS_OUT_PULSE (R224): A pulse output places its pulse at the next period instant. The operand: where the readback sees its leading
and its trailing edge. -/
def execPpsOutPulse (m : Fin 8) (pads : Option Fine × Option Fine) (s : State) : Host.Outcome State Fault Refusal :=
  onChip (Chip.ppsPulse m pads.1 pads.2) s

end Sys2Proof.Machine
end

