-- ==== Sys2Proof/Machine/ExecFab.lean ====
section
/-! DEFINITION. The meanings of commands: fabric packets. Each is its effect on the block, over the shared operations. -/

namespace Sys2Proof.Machine

/-- FAB_STATUS (R322): Command that returns FAB_STATUS and every FAB_NODE. -/
def execFabStatus (r : Req) (s : State) : Host.Outcome State Fault Refusal :=
  onChip (Chip.doFabStatus r) s

/-- FAB_ASSIGN (R321): Command that stores a device ID in MRAM for the next start or FAB_EN rise. -/
def execFabAssign (r : Req) (dev : Fin 64) (s : State) : Host.Outcome State Fault Refusal :=
  onChip (Chip.doFabAssign r dev) s

/-- FAB_ROUTE (R323): Command that returns the candidate and chosen next-hop ports for a destination and class. -/
def execFabRoute (r : Req) (inPort : Option Nat) (dev : Fin 64) (cls : Fin 8) (s : State) : Host.Outcome State Fault Refusal :=
  onChip (Chip.doFabRoute r inPort dev cls) s

end Sys2Proof.Machine
end

