-- ==== Sys2Proof/Machine/ExecFrame.lean ====
section
/-! DEFINITION. The meanings of commands: the frame path. Each is its effect on the block, over the shared operations. -/

namespace Sys2Proof.Machine

/-- RX_FRAME_START (R34): Start of a received frame; the island checks crossing-buffer space and takes the receive stamp. -/
def execRxFrameStart (port : Fin 513) (kind : RxKind) (bytes : Bytes) (edge : Edge) (deskew : Int) (s : State) : Host.Outcome State Fault Refusal :=
  onChip (Chip.rxFrameStart port kind bytes edge deskew) s

/-- KEY_POINT (R74): The parser completes its key and hands it to classification, metering, trap decisions and lookup. -/
def execKeyPoint (f : Nat) (s : State) : Host.Outcome State Fault Refusal :=
  onChip (Chip.keyPoint f) s

/-- LOOKUP_POINT (R80): The lookup result becomes available; cut-through eligibility, admission, candidate enqueue and reference count are
taken. -/
def execLookupPoint (f taken : Nat) (retry : Bool) (s : State) : Host.Outcome State Fault Refusal :=
  onChip (Chip.lookupPoint f taken retry) s

/-- GATHER_TAP (R259): A gather tap writes a field of a matching frame into word 1 of the input as the bytes pass. -/
def execGatherTap (f : Nat) (s : State) : Host.Outcome State Fault Refusal :=
  onChip (Chip.gatherTap f) s

/-- RX_OVERSIZE_CUT (R85): The receive MAC ends a frame at byte MAX_FRAME + 1 or beyond the maximum SDU, failing confirmation with cause
length. -/
def execRxOversizeCut (f : Nat) (s : State) : Host.Outcome State Fault Refusal :=
  onChip (Chip.rxOversizeCut f) s

/-- CONFIRMATION (R21): A frame's tail check is signalled confirmed or failed, and every effect that waits for it is applied or withdrawn in
confirmation order. -/
def execConfirmation (f : Nat) (codeErr : Bool) (fec : FecCount) (fragErr : Bool) (s : State) : Host.Outcome State Fault Refusal :=
  onChip (Chip.confirmation f codeErr fec.err fragErr fec) s

/-- PAUSE_EXPIRE (R112): A received pause time runs out and the class may start frames again. -/
def execPauseExpire (port : Fin 513) (s : State) : Host.Outcome State Fault Refusal :=
  onChip (Chip.pauseExpire port) s

/-- PFC_REPEAT (R101): The port repeats its PAUSE or PFC frame every 32,768 quanta while XOFF lasts. -/
def execPfcRepeat (port : Fin 512) (s : State) : Host.Outcome State Fault Refusal :=
  onChip (Chip.pfcRepeat port) s

/-- ERROR_MARKER_LATE_CONFIRM (R84): A cut-through egress reaches the last FCS unit before confirmation and sends an error marker with cause
LATE_CONFIRM. -/
def execErrorMarkerLateConfirm (port : Fin 513) (s : State) : Host.Outcome State Fault Refusal :=
  onChip (Chip.lateConfirm port) s

/-- EGRESS_START_OPPORTUNITY (R111): The lane can start a new frame; the scheduler sends any due pause frame or the eligible frame of the
highest class. -/
def execEgressStartOpportunity (port : Fin 513) (unit : Nat) (edge : Edge) (s : State) : Host.Outcome State Fault Refusal :=
  onChip (Chip.egressStart port unit edge) s

/-- RELEASE_STAGE_ARRIVAL (R19): A timed frame reaches the release stage; it is moved to a launch slot or dropped late or far. -/
def execReleaseStageArrival (q : Fin 4104) (s : State) : Host.Outcome State Fault Refusal :=
  onChip (Chip.releaseArrival q) s

/-- LAUNCH_SENT (R128): A held timed frame starts at the first usable block boundary at or after its launch time and records E. -/
def execLaunchSent (port : Fin 513) (b : Nat) (edge : Edge) (s : State) : Host.Outcome State Fault Refusal :=
  onChip (Chip.launchSent port b edge) s

/-- TX_FRAME_END (R102): A target reads the frame's last cell; the reference count falls and cells return at zero. -/
def execTxFrameEnd (port : Fin 513) (s : State) : Host.Outcome State Fault Refusal :=
  onChip (Chip.txFrameEnded port) s

/-- SHAPER_WAKE (R114): The calendar finds a shaped queue's eligible time reached and makes it eligible. -/
def execShaperWake (q : Fin 4104) (s : State) : Host.Outcome State Fault Refusal :=
  onChip (Chip.shaperWake q) s

/-- RED_AVG_UPDATE (R103): Every 256 ticks each RED queue updates its average depth. -/
def execRedAvgUpdate (s : State) : Host.Outcome State Fault Refusal :=
  onChip Chip.redUpdate s

/-- GATE_ENTRY_CHANGE (R117): A gate list entry's interval ends and the next entry's gate states apply. -/
def execGateEntryChange (port : Fin 512) (s : State) : Host.Outcome State Fault Refusal :=
  onChip (Chip.gateEntryChange port) s

/-- GATE_CHANGE_TIME (R121): At CT the operational gate list takes the administrative values. -/
def execGateChangeTime (list : Nat) (s : State) : Host.Outcome State Fault Refusal :=
  onChip (Chip.gateChange list) s

/-- STREAM_GATE_ENTRY_CHANGE (R149): A stream gate list advances to its next entry or swaps at its change time. -/
def execStreamGateEntryChange (g : Fin 512) (s : State) : Host.Outcome State Fault Refusal :=
  onChip (Chip.streamGateEntry g) s

/-- VERIFY_TIMER (R123): The preemption verify interval expires; another verify frame is sent or verification fails. -/
def execVerifyTimer (port : Fin 512) (s : State) : Host.Outcome State Fault Refusal :=
  onChip (Chip.verifyTimer port) s

/-- LPI_SLEEP_DELAY (R64): All queues stay empty for the Clause 78 sleep delay and the port enters transmit LPI. -/
def execLpiSleepDelay (port : Fin 512) (s : State) : Host.Outcome State Fault Refusal :=
  onChip (Chip.lpiSleep port) s

/-- EIDLE_HOLDOFF_EXPIRE (R66): The holdoff timer expires with no enqueue and the transmitter enters electrical idle. -/
def execEidleHoldoffExpire (port : Fin 512) (s : State) : Host.Outcome State Fault Refusal :=
  onChip (Chip.eidleEnter port) s

/-- EIDLE_WAKE_DONE (R66): The wake sequence ends and the lane returns to LP_STATE 0. -/
def execEidleWakeDone (port : Fin 512) (s : State) : Host.Outcome State Fault Refusal :=
  onChip (Chip.eidleAwake port) s

/-- EIDLE_WAKE_FAIL (R67): The receiver lacks block lock at the end of wake, declares link down and retrains. -/
def execEidleWakeFail (port : Fin 512) (s : State) : Host.Outcome State Fault Refusal :=
  onChip (Chip.eidleWakeFail port) s

/-- EIDLE_LLDP_SEND (R65): The device sends its LLDP EIDLE TLV once per second and after a change of EIDLE_EN. -/
def execEidleLldpSend (port : Fin 512) (s : State) : Host.Outcome State Fault Refusal :=
  onChip (Chip.lldpSend port) s

/-- EIDLE_REPORT_EXPIRE (R65): A partner EIDLE report older than 4 s no longer counts. -/
def execEidleReportExpire (port : Fin 512) (s : State) : Host.Outcome State Fault Refusal :=
  onChip (Chip.eidleExpire port) s

/-- LINK_STATE_CHANGE (R56): A port's PCS link comes up or goes down, including the end of retraining. -/
def execLinkStateChange (port : Fin 513) (up an : Bool) (speed : Nat) (s : State) : Host.Outcome State Fault Refusal :=
  onChip (Chip.linkStateChange port up an speed) s

end Sys2Proof.Machine
end

