-- ==== Sys2Proof/Machine/ExecHost.lean ====
section
/-! DEFINITION. The meanings of commands: the packet path and the PCIe endpoint. Each is its effect on the block, over the shared operations. -/

namespace Sys2Proof.Machine

/-- CMD_PACKET_RX (R354): A command packet reaches the command queue from any transport; on reaching the head it is checked in order and
executed. -/
def execCmdPacketRx (via : Via) (idle : Bool) (bytes : Bytes) (s : State) : Host.Outcome State Fault Refusal :=
  onChip (Chip.packetRx via idle bytes) s

/-- HIF_REG_WRITE (R366): Write to a BAR0 register or W1C field that has no row of its own, or a read of one. -/
def execHifRegWrite (off width : Nat) (value : Option Nat) (s : State) : Host.Outcome State Fault Refusal :=
  onChip (Chip.hifRegWrite off width value) s

/-- HIF_CMD_TAIL_WRITE (R368): Host advances the command ring tail; the device fetches the new request descriptors. -/
def execHifCmdTailWrite (tail : Nat) (idle : Bool) (reqs : List (Option Bytes)) (s : State) : Host.Outcome State Fault Refusal :=
  onChip (Chip.cmdTail tail idle reqs) s

/-- HIF_INJ_TAIL_WRITE (R368): Host advances the injection ring tail, offering frames for injection. -/
def execHifInjTailWrite (tail : Nat) (frames : List (Option (Nat × Bytes))) (s : State) : Host.Outcome State Fault Refusal :=
  onChip (Chip.injTail tail frames) s

/-- INJECT_FRAME (R368): The device takes an injected frame, once trap-reserve cells are free, and enqueues it confirmed and
store-and-forward. -/
def execInjectFrame (s : State) : Host.Outcome State Fault Refusal :=
  onChip Chip.injectFrame s

/-- HIF_RSP_TAIL_WRITE (R368): Host offers empty reply or delivery buffers by advancing a ring tail. -/
def execHifRspTailWrite (delivery : Bool) (tail : Nat) (rooms : List Nat) (s : State) : Host.Outcome State Fault Refusal :=
  onChip (Chip.rspTail delivery tail rooms) s

/-- RSP_RING_TIMEOUT (R368): A reply that found no reply buffer for 10 ms is discarded and counted CMD_RSP_DROP. -/
def execRspRingTimeout (s : State) : Host.Outcome State Fault Refusal :=
  onChip Chip.rspTimeout s

/-- HOST_RESET (R371): Function-level reset, hot reset or PCIe link down clears ring EN bits and affects mailboxes and doorbells. -/
def execHostReset (s : State) : Host.Outcome State Fault Refusal :=
  onChip Chip.hostReset s

/-- HIF_MBX_POST (R369): Read of HIF_MBX_POST_n posts the staged message to H2F_n, or reports it full. -/
def execHifMbxPost (n : Fin 16) (s : State) : Host.Outcome State Fault Refusal :=
  onChip (Chip.mbxPost n) s

/-- MBX_COMMAND_TAKE (R372): Firmware takes an H2F message, frees the mailbox, executes it as a mailbox command and posts the reply to
F2H_n. -/
def execMbxCommandTake (n : Fin 16) (s : State) : Host.Outcome State Fault Refusal :=
  onChip (Chip.mbxTake n) s

/-- HIF_MBX_ACK (R369): Host write that frees F2H mailboxes. -/
def execHifMbxAck (mask : Nat) (s : State) : Host.Outcome State Fault Refusal :=
  onChip (Chip.mbxAck mask) s

/-- HIF_EMBX_POST (R370): Read of HIF_EMBX_POST_e posts the staged message to engine mailbox e, or aborts if Drumline is off. -/
def execHifEmbxPost (e : Fin 64) (s : State) : Host.Outcome State Fault Refusal :=
  onChip (Chip.embxPost e) s

/-- HIF_DB_SET (R373): Host write that sets doorbells 0 to 31. -/
def execHifDbSet (bits : Nat) (s : State) : Host.Outcome State Fault Refusal :=
  onChip (Chip.dbSet bits) s

/-- DOORBELL_COMMAND_START (R373): Firmware clears a pending host doorbell and runs the mailbox command of its DB_CMD element. -/
def execDoorbellCommandStart (b : Fin 32) (s : State) : Host.Outcome State Fault Refusal :=
  onChip (Chip.dbStart b) s

end Sys2Proof.Machine
end

