-- ==== Sys2Proof/Machine/ExecImage.lean ====
section
/-! DEFINITION. The meanings of commands: firmware packets. Each is its effect on the block, over the shared operations. -/

namespace Sys2Proof.Machine

/-- FW_STAGE (R415): Command that stages a firmware image in chunks and verifies it when its last byte arrives. -/
def execFwStage (r : Req) (target : Nat) (src : ImgSrc) (s : State) : Host.Outcome State Fault Refusal :=
  onChip (Chip.doFwStage r target src) s

/-- FW_WRITE (R415): Command that writes the staged image to its flash region with read-back. -/
def execFwWrite (r : Req) (target : Nat) (s : State) : Host.Outcome State Fault Refusal :=
  onChip (Chip.doFwWrite r target) s

/-- FW_ACTIVATE (R416): Command that hands over the management firmware in place, or restarts the device for targets 1 to 3. -/
def execFwActivate (r : Req) (target : Nat) (s : State) : Host.Outcome State Fault Refusal :=
  onChip (Chip.doFwActivate r target) s

/-- FW_STATUS (R414): Command that returns one FW_INFO entry per target. -/
def execFwStatus (r : Req) (s : State) : Host.Outcome State Fault Refusal :=
  onChip (Chip.doFwStatus r) s

end Sys2Proof.Machine
end

