-- ==== Sys2Proof/Machine/ExecKey.lean ====
section
/-! DEFINITION. The meanings of commands: security packets. Each is its effect on the block, over the shared operations. -/

namespace Sys2Proof.Machine

/-- KEY_INSTALL (R358): Command that installs a wrapped key, role and transports in a slot and resets LAST_SEQ. -/
def execKeyInstall (r : Req) (slot role transports : Nat) (key : Bytes) (s : State) : Host.Outcome State Fault Refusal :=
  onChip (Chip.doKeyInstall r slot role transports key) s

/-- KEY_RETIRE (R358): Command that retires the key of a slot unless no valid owner slot would remain. -/
def execKeyRetire (r : Req) (slot role transports : Nat) (s : State) : Host.Outcome State Fault Refusal :=
  onChip (Chip.doKeyRetire r slot role transports) s

/-- ROLE_MAP (R358): Command that changes the role and transports of a slot. -/
def execRoleMap (r : Req) (slot role transports : Nat) (s : State) : Host.Outcome State Fault Refusal :=
  onChip (Chip.doRoleMap r slot role transports) s

end Sys2Proof.Machine
end

