-- ==== Sys2Proof/Machine/ExecLearn.lean ====
section
/-! DEFINITION. The meanings of commands: tables. Each is its effect on the block, over the shared operations. -/

namespace Sys2Proof.Machine

/-- LEARN_REQUEST_APPLY (R156): The learning engine applies one request as an insert, source hit, move or mismatch. -/
def execLearnRequestApply (s : State) : Host.Outcome State Fault Refusal :=
  onChip Chip.learnStep s

/-- AGE_VISIT (R159): The ager visits an exact-match bucket and invalidates aged TYPE 1 entries. -/
def execAgeVisit (bucket : Fin 65536) (s : State) : Host.Outcome State Fault Refusal :=
  onChip (Chip.ageVisit bucket) s

/-- SEQ_HISTORY_RESET (R150): No frame passes a recovery stream for RESET_MS and its history resets. -/
def execSeqHistoryReset (stream : Fin 4096) (s : State) : Host.Outcome State Fault Refusal :=
  onChip (Chip.seqReset stream) s

/-- TBL_CLEANUP (R136): From P + 200 ns new entries become ordinary and old ones free. -/
def execTblCleanup (t : Fin 7) (s : State) : Host.Outcome State Fault Refusal :=
  onChip (Chip.tblCleanup t) s

/-- TBL_BARRIER_DONE (R160): Every frame before B has left and the barrier replies OK in order. -/
def execTblBarrierDone (s : State) : Host.Outcome State Fault Refusal :=
  onChip Chip.barrierDone s

/-- TBL_BARRIER_TIMEOUT (R160): A barrier's timeout expires and it replies BUSY with the frames held. -/
def execTblBarrierTimeout (n : Nat) (s : State) : Host.Outcome State Fault Refusal :=
  onChip (Chip.barrierTimeout n) s

end Sys2Proof.Machine
end

