-- ==== Sys2Proof/Machine/ExecLoop.lean ====
section
/-! DEFINITION. The meanings of commands: synthesisers and clock outputs. Each is its effect on the block, over the shared operations. -/

namespace Sys2Proof.Machine

/-- DPLL_UPDATE (R207): At each detector update a loop filters its phase error and sets the NTO offset within its limits. -/
def execDpllUpdate (d : Fin 5) (e : Int) (phases : List (Nat × Int)) (s : State) : Host.Outcome State Fault Refusal :=
  onChip (Chip.dpllUpdate d e phases) s

/-- DPLL_FREQ_CHECK (R212): The counter gate FCHK_MS ends and the frequency check passes or fails. -/
def execDpllFreqCheck (d : Fin 5) (off e : Int) (s : State) : Host.Outcome State Fault Refusal :=
  onChip (Chip.dpllFreqCheck d off e) s

/-- DPLL_HOP_DONE (R214): A hop settles after a cache hit or band search and outputs restart. -/
def execDpllHopDone (d : Fin 5) (s : State) : Host.Outcome State Fault Refusal :=
  onChip (Chip.dpllHopDone d) s

/-- RAMP_PROFILE_START (R216): A ramp profile starts at RAMP_START. -/
def execRampProfileStart (d : Fin 5) (s : State) : Host.Outcome State Fault Refusal :=
  onChip (Chip.rampStart d) s

/-- RAMP_HOLD_EXPIRE (R216): The HOLD time of a reached profile entry ends and the next entry becomes the target. -/
def execRampHoldExpire (d : Fin 5) (s : State) : Host.Outcome State Fault Refusal :=
  onChip (Chip.rampNext d) s

/-- SYN_TARGET_START (R217): A queued target request reaches its start instant and becomes the generator's target. -/
def execSynTargetStart (d : Fin 5) (s : State) : Host.Outcome State Fault Refusal :=
  onChip (Chip.targetStart d) s

/-- ENC_QUARTER_EDGE (R222): The encoder position crosses a quarter boundary and an A or B edge is placed. -/
def execEncQuarterEdge (d : Fin 5) (s : State) : Host.Outcome State Fault Refusal :=
  onChip (Chip.encEdge d) s

/-- CKO_ALIGN_RESTART (R220): An ALIGN 2 output restarts at the first grid instant at least 20 µs after its mute. -/
def execCkoAlignRestart (o : Fin 8) (edge : Int) (s : State) : Host.Outcome State Fault Refusal :=
  onChip (Chip.ckoRestart o edge) s

end Sys2Proof.Machine
end

