-- ==== Sys2Proof/Machine/ExecLull.lean ====
section
/-! DEFINITION. The meanings of commands: thermal, calibration and Lull test. Each is its effect on the block, over the shared operations. -/

namespace Sys2Proof.Machine

/-- THERM_SAMPLE (R455): A temperature sensor reading drives the warning, THERM_N and the trip. -/
def execThermSample (n : Fin 8) (t : Int) (s : State) : Host.Outcome State Fault Refusal :=
  onChip (Chip.thermSample n t) s

/-- CAL_RUN_DONE (R429): A calibration run's measurements complete and its items are accepted or refused. -/
def execCalRunDone (ms : List CalMeas) (s : State) : Host.Outcome State Fault Refusal :=
  onChip (Chip.calRunDone ms) s

/-- LULL_CELL_TEST (R433): The Lull test writes and reads back a free cell, retiring it on failure. -/
def execLullCellTest (cell : Nat) (pass : Bool) (s : State) : Host.Outcome State Fault Refusal :=
  onChip (Chip.lullCell cell pass) s

/-- LULL_SCRUB (R433): The scrubber reads a table bucket and rewrites a corrected word. -/
def execLullScrub (t : Fin 7) (index : Nat) (e : Ecc) (s : State) : Host.Outcome State Fault Refusal :=
  onChip (Chip.lullScrub t index e) s

/-- LULL_TDC_PULSE (R433): A shared test pulse cross-checks a group of TDC channels. -/
def execLullTdcPulse (ch : Nat) (dev : Int) (s : State) : Host.Outcome State Fault Refusal :=
  onChip (Chip.lullTdc ch dev) s

/-- LULL_ENGINE_TEST (R433): A disabled engine runs the fixed vector set. -/
def execLullEngineTest (e : Fin 64) (pass : Bool) (s : State) : Host.Outcome State Fault Refusal :=
  onChip (Chip.lullEngine e pass) s

end Sys2Proof.Machine
end

