-- ==== Sys2Proof/Machine/ExecModule.lean ====
section
/-! DEFINITION. The meanings of commands: optical modules. Each is its effect on the block, over the shared operations. -/

namespace Sys2Proof.Machine

/-- OPT_POLL (R70): A poll interval expires and the device reads a module's diagnostics. -/
def execOptPoll (port : Fin 513) (flags : Nat) (resp : OptResp) (s : State) : Host.Outcome State Fault Refusal :=
  onChip (Chip.optPoll port flags resp) s

/-- OPT_STRETCH_TIMEOUT (R72): A module stretches the clock beyond 10 ms; the master frees the bus and ends the access. -/
def execOptStretchTimeout (port : Fin 513) (s : State) : Host.Outcome State Fault Refusal :=
  onChip (Chip.optStretch port) s

end Sys2Proof.Machine
end

