-- ==== Sys2Proof/Machine/ExecNet.lean ====
section
/-! DEFINITION. The meanings of commands: fabric and coalescer. Each is its effect on the block, over the shared operations. -/

namespace Sys2Proof.Machine

/-- FAB_HELLO_SEND (R319): Every HELLO_MS a fabric port sends a hello. -/
def execFabHelloSend (port : Fin 512) (s : State) : Host.Outcome State Fault Refusal :=
  onChip (Chip.fabHelloSend port) s

/-- FAB_HELLO_RX (R319): A received hello advances or changes the port's link state. -/
def execFabHelloRx (port : Fin 512) (payload : Bytes) (s : State) : Host.Outcome State Fault Refusal :=
  onChip (Chip.fabHelloRx port payload) s

/-- FAB_HELLO_TIMEOUT (R319): No hello for 3 × HELLO_MS puts the link down. -/
def execFabHelloTimeout (port : Fin 512) (s : State) : Host.Outcome State Fault Refusal :=
  onChip (Chip.fabHelloTimeout port) s

/-- FAB_RECORD_SEND (R320): The device sends its record on every up fabric port. -/
def execFabRecordSend (s : State) : Host.Outcome State Fault Refusal :=
  onChip Chip.fabRecordSend s

/-- FAB_RECORD_RX (R320): A newer received record is stored and relayed. -/
def execFabRecordRx (port : Fin 512) (payload : Bytes) (s : State) : Host.Outcome State Fault Refusal :=
  onChip (Chip.fabRecordRx port payload) s

/-- FAB_RECORD_EXPIRE (R320): A record not refreshed for 4 × HELLO_MS is deleted. -/
def execFabRecordExpire (s : State) : Host.Outcome State Fault Refusal :=
  onChip Chip.fabRecordExpire s

/-- FAB_ROUTE_RECOMPUTE (R322): Routes are recomputed after a topology database change. -/
def execFabRouteRecompute (s : State) : Host.Outcome State Fault Refusal :=
  onChip Chip.fabRecompute s

/-- FAB_CREDIT_SEND (R325): The receiver sends a credit frame with its cumulative returns. -/
def execFabCreditSend (port : Fin 512) (s : State) : Host.Outcome State Fault Refusal :=
  onChip (Chip.fabCreditSend port) s

/-- FAB_CREDIT_RX (R325): A received credit frame updates the sender's available credit. -/
def execFabCreditRx (port : Fin 512) (payload : Bytes) (s : State) : Host.Outcome State Fault Refusal :=
  onChip (Chip.fabCreditRx port payload) s

/-- FAB_CREDIT_WD_DROP (R326): A lossless frame waiting without credit for CREDIT_WD is dropped. -/
def execFabCreditWdDrop (q : Fin 4096) (s : State) : Host.Outcome State Fault Refusal :=
  onChip (Chip.creditWatchdog q) s

/-- COAL_WINDOW_END (R329): A coalescing window ends, sending a summary notification or closing. -/
def execCoalWindowEnd (event cls : Nat) (s : State) : Host.Outcome State Fault Refusal :=
  onChip (Chip.coalWindowEnd event cls) s

end Sys2Proof.Machine
end

