-- ==== Sys2Proof/Machine/ExecOp.lean ====
section
/-! DEFINITION. The meanings of commands: Drumline operations. Each is its effect on the block, over the shared operations. -/

namespace Sys2Proof.Machine

/-- NOP_OP (R313): Drumline operation that does nothing. -/
def execOpNop (e : Fin 64) (d : Desc) (s : State) : Host.Outcome State Fault Refusal :=
  onChip (Chip.opNop e d) s

/-- LOAD (R290): Operation that copies a local or cycle-memory word into a register or pair. -/
def execOpLoad (e : Fin 64) (d : Desc) (s : State) : Host.Outcome State Fault Refusal :=
  onChip (Chip.opLoad e d) s

/-- STORE (R290): Operation that writes a register or pair to memory, optionally tagging cycle words. -/
def execOpStore (e : Fin 64) (d : Desc) (s : State) : Host.Outcome State Fault Refusal :=
  onChip (Chip.opStore e d) s

/-- MOVI (R291): Operation that writes an immediate into every lane. -/
def execOpMovi (e : Fin 64) (d : Desc) (s : State) : Host.Outcome State Fault Refusal :=
  onChip (Chip.opMovi e d) s

/-- SHUF (R291): Operation that permutes lanes. -/
def execOpShuf (e : Fin 64) (d : Desc) (s : State) : Host.Outcome State Fault Refusal :=
  onChip (Chip.opShuf e d) s

/-- GATHER (R292): Operation that reads an input and its state at a save point. -/
def execOpGather (e : Fin 64) (d : Desc) (s : State) : Host.Outcome State Fault Refusal :=
  onChip (Chip.opGather e d) s

/-- WAITSEQ (R293): Operation that waits for a tagged cycle-memory word and loads it. -/
def execOpWaitseq (e : Fin 64) (d : Desc) (s : State) : Host.Outcome State Fault Refusal :=
  onChip (Chip.opWaitseq e d) s

/-- TSUB (R294): Operation that subtracts T_k from a stamp. -/
def execOpTsub (e : Fin 64) (d : Desc) (s : State) : Host.Outcome State Fault Refusal :=
  onChip (Chip.opTsub e d) s

/-- RECV (R295): Operation that takes the oldest message of the engine's mailbox. -/
def execOpRecv (e : Fin 64) (d : Desc) (s : State) : Host.Outcome State Fault Refusal :=
  onChip (Chip.opRecv e d) s

/-- CNTRD (R296): Operation that reads a counter, live or from the snapshot. -/
def execOpCntrd (e : Fin 64) (d : Desc) (s : State) : Host.Outcome State Fault Refusal :=
  onChip (Chip.opCntrd e d) s

/-- AXFLT (R297): Operation that reads axis fault bits into a predicate. -/
def execOpAxflt (e : Fin 64) (d : Desc) (s : State) : Host.Outcome State Fault Refusal :=
  onChip (Chip.opAxflt e d) s

/-- ADD (R298): Lane addition. -/
def execOpAdd (e : Fin 64) (d : Desc) (s : State) : Host.Outcome State Fault Refusal :=
  onChip (Chip.opAdd e d) s

/-- SUB (R298): Lane subtraction. -/
def execOpSub (e : Fin 64) (d : Desc) (s : State) : Host.Outcome State Fault Refusal :=
  onChip (Chip.opSub e d) s

/-- MUL (R298): Lane multiplication. -/
def execOpMul (e : Fin 64) (d : Desc) (s : State) : Host.Outcome State Fault Refusal :=
  onChip (Chip.opMul e d) s

/-- MAC (R298): Lane multiply-accumulate. -/
def execOpMac (e : Fin 64) (d : Desc) (s : State) : Host.Outcome State Fault Refusal :=
  onChip (Chip.opMac e d) s

/-- DIV (R298): Lane division. -/
def execOpDiv (e : Fin 64) (d : Desc) (s : State) : Host.Outcome State Fault Refusal :=
  onChip (Chip.opDiv e d) s

/-- NEG (R298): Lane negation. -/
def execOpNeg (e : Fin 64) (d : Desc) (s : State) : Host.Outcome State Fault Refusal :=
  onChip (Chip.opNeg e d) s

/-- ABS (R298): Lane absolute value. -/
def execOpAbs (e : Fin 64) (d : Desc) (s : State) : Host.Outcome State Fault Refusal :=
  onChip (Chip.opAbs e d) s

/-- MIN (R298): Lane minimum. -/
def execOpMin (e : Fin 64) (d : Desc) (s : State) : Host.Outcome State Fault Refusal :=
  onChip (Chip.opMin e d) s

/-- MAX (R298): Lane maximum. -/
def execOpMax (e : Fin 64) (d : Desc) (s : State) : Host.Outcome State Fault Refusal :=
  onChip (Chip.opMax e d) s

/-- CLAMP (R298): Lane clamp between two bounds. -/
def execOpClamp (e : Fin 64) (d : Desc) (s : State) : Host.Outcome State Fault Refusal :=
  onChip (Chip.opClamp e d) s

/-- SHIFT (R299): Lane shift left or arithmetic right. -/
def execOpShift (e : Fin 64) (d : Desc) (s : State) : Host.Outcome State Fault Refusal :=
  onChip (Chip.opShift e d) s

/-- CVT (R300): Lane type conversion. -/
def execOpCvt (e : Fin 64) (d : Desc) (s : State) : Host.Outcome State Fault Refusal :=
  onChip (Chip.opCvt e d) s

/-- SQRT (R298): FP32 square root. -/
def execOpSqrt (e : Fin 64) (d : Desc) (s : State) : Host.Outcome State Fault Refusal :=
  onChip (Chip.opSqrt e d) s

/-- CMP (R301): Compare into a predicate. -/
def execOpCmp (e : Fin 64) (d : Desc) (s : State) : Host.Outcome State Fault Refusal :=
  onChip (Chip.opCmp e d) s

/-- PLOG (R301): Logical combination of predicates. -/
def execOpPlog (e : Fin 64) (d : Desc) (s : State) : Host.Outcome State Fault Refusal :=
  onChip (Chip.opPlog e d) s

/-- VMASTER (R302): Virtual master generation with exact trapezoidal integration. -/
def execOpVmaster (e : Fin 64) (d : Desc) (s : State) : Host.Outcome State Fault Refusal :=
  onChip (Chip.opVmaster e d) s

/-- GEAR (R303): Electronic gearing from an anchor. -/
def execOpGear (e : Fin 64) (d : Desc) (s : State) : Host.Outcome State Fault Refusal :=
  onChip (Chip.opGear e d) s

/-- CAM (R304): Cam table mapping, linear or cubic Hermite. -/
def execOpCam (e : Fin 64) (d : Desc) (s : State) : Host.Outcome State Fault Refusal :=
  onChip (Chip.opCam e d) s

/-- REGIST (R305): Registration correction from a mark time. -/
def execOpRegist (e : Fin 64) (d : Desc) (s : State) : Host.Outcome State Fault Refusal :=
  onChip (Chip.opRegist e d) s

/-- FILT (R306): Biquad filter. -/
def execOpFilt (e : Fin 64) (d : Desc) (s : State) : Host.Outcome State Fault Refusal :=
  onChip (Chip.opFilt e d) s

/-- PID (R307): PID controller with anti-windup. -/
def execOpPid (e : Fin 64) (d : Desc) (s : State) : Host.Outcome State Fault Refusal :=
  onChip (Chip.opPid e d) s

/-- FIELD (R308): Patches register bytes into a frame template. -/
def execOpField (e : Fin 64) (d : Desc) (s : State) : Host.Outcome State Fault Refusal :=
  onChip (Chip.opField e d) s

/-- SCATTER (R309): Emits a frame from a template as a fenced output. -/
def execOpScatter (e : Fin 64) (d : Desc) (s : State) : Host.Outcome State Fault Refusal :=
  onChip (Chip.opScatter e d) s

/-- EVTREQ (R310): Requests an event-output edge as a fenced output. -/
def execOpEvtreq (e : Fin 64) (d : Desc) (s : State) : Host.Outcome State Fault Refusal :=
  onChip (Chip.opEvtreq e d) s

/-- VREQ (R311): Sends a synthesiser target request as a fenced output. -/
def execOpVreq (e : Fin 64) (d : Desc) (s : State) : Host.Outcome State Fault Refusal :=
  onChip (Chip.opVreq e d) s

/-- POST (R312): Posts 64 bytes to an engine mailbox as a fenced output. -/
def execOpPost (e : Fin 64) (d : Desc) (s : State) : Host.Outcome State Fault Refusal :=
  onChip (Chip.opPost e d) s

/-- SKIP (R313): Skips forward over descriptors on a predicate. -/
def execOpSkip (e : Fin 64) (d : Desc) (s : State) : Host.Outcome State Fault Refusal :=
  onChip (Chip.opSkip e d) s

/-- END (R313): Ends the cycle's program. -/
def execOpEnd (e : Fin 64) (d : Desc) (s : State) : Host.Outcome State Fault Refusal :=
  onChip (Chip.opEnd e d) s

end Sys2Proof.Machine
end

