-- ==== Sys2Proof/Machine/ExecPair.lean ====
section
/-! DEFINITION. The meanings of commands: twin packets. Each is its effect on the block, over the shared operations. -/

namespace Sys2Proof.Machine

/-- TWIN_STATUS (R331): Command that returns TWIN_CFG and TWIN_STATUS. -/
def execTwinStatus (r : Req) (s : State) : Host.Outcome State Fault Refusal :=
  onChip (Chip.doTwinStatus r) s

/-- TWIN_PROMOTE (R344): Command that promotes a standby and starts Thaw, subject to the LAST_HB check unless FORCE. -/
def execTwinPromote (r : Req) (lastHb : Nat) (twin : Option (Bool × Fin 2)) (s : State) : Host.Outcome State Fault Refusal :=
  onChip (Chip.doTwinPromote r lastHb twin) s

/-- TWIN_DEMOTE (R344): Command that gates an active or fenced unit's egress, releases its hold and powers it down to STANDBY_SYNC. -/
def execTwinDemote (r : Req) (s : State) : Host.Outcome State Fault Refusal :=
  onChip (Chip.doTwinDemote r) s

/-- TWIN_CHECKPOINT (R340): Command carrying checkpoint content from the active, stored or applied by the standby. -/
def execTwinCheckpoint (r : Req) (cls seq : Nat) (data : Bytes) (s : State) : Host.Outcome State Fault Refusal :=
  onChip (Chip.doTwinCheckpoint r cls seq data) s

/-- TWIN_HEARTBEAT (R342): Referee command naming the active unit, accepted within ±2 ms, which may fence or unfence the unit. -/
def execTwinHeartbeat (r : Req) (unit : Fin 2) (s : State) : Host.Outcome State Fault Refusal :=
  onChip (Chip.doTwinHeartbeat r unit) s

end Sys2Proof.Machine
end

