-- ==== Sys2Proof/Machine/ExecPower.lean ====
section
/-! DEFINITION. The meanings of commands: start-up, power and firmware. Each is its effect on the block, over the shared operations. -/

namespace Sys2Proof.Machine

/-- FW_SWITCHOVER (R416): The old management firmware stops between commands and the new one takes over. -/
def execFwSwitchover (s : State) : Host.Outcome State Fault Refusal :=
  onChip Chip.fwSwitch s

/-- FW_HANDOVER_CONFIRM (R416): The new firmware confirms by S + 100 ms and the old bank is freed. -/
def execFwHandoverConfirm (s : State) : Host.Outcome State Fault Refusal :=
  onChip Chip.fwConfirm s

/-- FW_HANDOVER_REVERT (R416): The new firmware fails to confirm and control returns to the old firmware. -/
def execFwHandoverRevert (s : State) : Host.Outcome State Fault Refusal :=
  onChip Chip.fwRevert s

/-- FW_RESTART (R417): 10 ms after FW_ACTIVATE of targets 1 to 3 the device restarts. -/
def execFwRestart (s : State) : Host.Outcome State Fault Refusal :=
  onChip Chip.fwRestart s

/-- MGMT_WATCHDOG_EXPIRE (R420): The management watchdog is not served for WDG_MS and the processor restarts. -/
def execMgmtWatchdogExpire (s : State) : Host.Outcome State Fault Refusal :=
  onChip Chip.watchdog s

/-- RESET_RELEASE (R409): RST_N rises and the device runs its start sequence. -/
def execResetRelease (ka : Nat) (ok : Bool) (s : State) : Host.Outcome State Fault Refusal :=
  onChip (Chip.resetRelease ka ok) s

/-- RESET_ASSERT (R407): RST_N low for 10 µs resets all but the keep-alive domain. -/
def execResetAssert (s : State) : Host.Outcome State Fault Refusal :=
  onChip Chip.resetAssert s

/-- POWER_FAIL (R408): VDD_IO33 falls below 3.05 V; the keep-alive domain latches the time of power loss. -/
def execPowerFail (s : State) : Host.Outcome State Fault Refusal :=
  onChip Chip.powerFail s

/-- VBAK_LOST (R423): VBAK falls below 1.6 V and clears KA_VALID. -/
def execVbakLost (s : State) : Host.Outcome State Fault Refusal :=
  onChip Chip.vbakLost s

/-- XTAL_FAIL (R423): KA_XTAL stops for 2 ms and clears KA_VALID. -/
def execXtalFail (s : State) : Host.Outcome State Fault Refusal :=
  onChip Chip.xtalFail s

/-- KA_TIME_SET (R423): At each whole second the firmware sets the keep-alive time from a valid timebase. -/
def execKaTimeSet (s : State) : Host.Outcome State Fault Refusal :=
  onChip Chip.kaSet s

end Sys2Proof.Machine
end

