-- ==== Sys2Proof/Machine/ExecRecord.lean ====
section
/-! DEFINITION. The meanings of commands: counter and journal packets. Each is its effect on the block, over the shared operations. -/

namespace Sys2Proof.Machine

/-- CNT_SNAPSHOT (R437): Command that copies all counters at one tick. -/
def execCntSnapshot (r : Req) (s : State) : Host.Outcome State Fault Refusal :=
  onChip (Chip.doCntSnapshot r) s

/-- CNT_READ (R437): Command that returns live or snapshot values of selected counters. -/
def execCntRead (r : Req) (sels : List Nat) (s : State) : Host.Outcome State Fault Refusal :=
  onChip (Chip.doCntRead r sels) s

/-- JRN_READ (R394): Command that returns journal records from FROM_SEQ, from the ring or from flash. -/
def execJrnRead (r : Req) (fromSeq count : Nat) (s : State) : Host.Outcome State Fault Refusal :=
  onChip (Chip.doJrnRead r fromSeq count) s

/-- JRN_MARK (R394): Command that writes a KIND 2 journal record with a host value and blob. -/
def execJrnMark (r : Req) (value : Nat) (blob : Bytes) (s : State) : Host.Outcome State Fault Refusal :=
  onChip (Chip.doJrnMark r value blob) s

end Sys2Proof.Machine
end

