-- ==== Sys2Proof/Machine/ExecRef.lean ====
section
/-! DEFINITION. The meanings of commands: Carillon. Each is its effect on the block, over the shared operations. -/

namespace Sys2Proof.Machine

/-- SEL_EVALUATE (R237): A selector re-evaluates qualification and selection and applies the transition table. -/
def execSelEvaluate (s : State) : Host.Outcome State Fault Refusal :=
  onChip Chip.selEvaluated s

/-- SUPPRESS_WINDOW_END (R248): 10 s after UPSTREAM_NOW clears, suppression of notifications ends. -/
def execSuppressWindowEnd (s : State) : Host.Outcome State Fault Refusal :=
  onChip Chip.suppressEnd s

/-- REF_QUALIFY (R235): A reference stays healthy for QUAL_S or WTR_S and becomes qualified. -/
def execRefQualify (n : Fin 24) (s : State) : Host.Outcome State Fault Refusal :=
  onChip (Chip.refQualify n) s

/-- REF_DISQUALIFIED (R235): A reference stops being healthy and is disqualified at once. -/
def execRefDisqualified (n : Fin 24) (s : State) : Host.Outcome State Fault Refusal :=
  onChip (Chip.refLost n) s

/-- REF_MEAS_WINDOW (R236): A 10 s measurement window ends and Y_OSC and Y_REL are compared with the limits. -/
def execRefMeasWindow (n : Fin 24) (s : State) : Host.Outcome State Fault Refusal :=
  onChip (Chip.measWindow n) s

/-- SEL_ACQ_TIMEOUT (R238): No lock within 60 s or 600 s of a switch disqualifies the reference with ACQ_FAIL. -/
def execSelAcqTimeout (time : Bool) (s : State) : Host.Outcome State Fault Refusal :=
  onChip (Chip.acqTimeout time) s

/-- HO_MAX_EXPIRE (R238): HO_ELAPSED reaches HO_MAX_S and the selector goes to LOST. -/
def execHoMaxExpire (time : Bool) (s : State) : Host.Outcome State Fault Refusal :=
  onChip (Chip.hoMax time) s

/-- HO_HISTORY_RECORD (R240): Once per second a locked selector records its mean value in the holdover ring. -/
def execHoHistoryRecord (time : Bool) (s : State) : Host.Outcome State Fault Refusal :=
  onChip (Chip.hoRecord time) s

/-- PTP_MSG_PROCESS (R228): The firmware processes a confirmed trapped PTP message for its port's instance, including servo offsets. -/
def execPtpMsgProcess (cls : Fin 8) (s : State) : Host.Outcome State Fault Refusal :=
  onChip (Chip.ptpProcess cls) s

/-- PTP_SYNC_SEND (R230): The Sync interval expires and a master port sends Sync and, if two-step, Follow_Up. -/
def execPtpSyncSend (port : Fin 512) (s : State) : Host.Outcome State Fault Refusal :=
  onChip (Chip.syncSend port) s

/-- PTP_ANNOUNCE_SEND (R232): The Announce interval expires and the port sends Announce with the class of its state. -/
def execPtpAnnounceSend (port : Fin 512) (s : State) : Host.Outcome State Fault Refusal :=
  onChip (Chip.announceSend port) s

/-- PTP_DELAY_REQ_SEND (R230): The delay interval expires and the port sends Delay_Req or Pdelay_Req. -/
def execPtpDelayReqSend (port : Fin 512) (s : State) : Host.Outcome State Fault Refusal :=
  onChip (Chip.delaySend port) s

/-- ANN_TIMEOUT (R231): announceReceiptTimeout expires on a port. -/
def execAnnTimeout (port : Fin 512) (s : State) : Host.Outcome State Fault Refusal :=
  onChip (Chip.annTimeout port) s

/-- ESMC_PDU_RX (R247): A received ESMC PDU sets the reference's QL_RX. -/
def execEsmcPduRx (cls : Fin 8) (s : State) : Host.Outcome State Fault Refusal :=
  onChip (Chip.esmcRx cls) s

/-- QL_TIMEOUT (R247): No ESMC PDU for 5 s sets QL_TIMEOUT and QL-DNU. -/
def execQlTimeout (port : Fin 512) (s : State) : Host.Outcome State Fault Refusal :=
  onChip (Chip.qlTimeout port) s

/-- ESMC_INFO_SEND (R247): Once per second a SYNCE_TX port sends an ESMC information PDU. -/
def execEsmcInfoSend (port : Fin 512) (s : State) : Host.Outcome State Fault Refusal :=
  onChip (Chip.esmcSend port) s

end Sys2Proof.Machine
end

