-- ==== Sys2Proof/Machine/ExecSession.lean ====
section
/-! DEFINITION. The meanings of commands: session, object and transaction packets. Each is its effect on the block, over the shared operations. -/

namespace Sys2Proof.Machine

/-- NOP (R398): Command that does nothing and replies OK. -/
def execNop (r : Req) (s : State) : Host.Outcome State Fault Refusal :=
  onChip (Chip.doNop r) s

/-- IDENTIFY (R1): Command that returns the identity block with ordering code, stepping, serial and firmware versions. -/
def execIdentify (r : Req) (s : State) : Host.Outcome State Fault Refusal :=
  onChip (Chip.doIdentify r) s

/-- OBJ_READ (R400): Command that reads attributes or array elements, returns staged values where R7 applies and clears RC fields. -/
def execObjRead (r : Req) (objs : List ObjSel) (s : State) : Host.Outcome State Fault Refusal :=
  onChip (Chip.doObjRead r objs) s

/-- OBJ_WRITE (R400): Command that writes attributes with optional MASK, checking every object before any change takes effect; covers
attribute writes without a row of their own. -/
def execObjWrite (r : Req) (ws : List ObjWrite) (s : State) : Host.Outcome State Fault Refusal :=
  onChip (fun c => Chip.tripCleared c (c.doObjWrite r ws)) s

/-- OBJ_READ_BULK (R400): Command that reads one attribute, or all attributes, over a range of instances of one class. -/
def execObjReadBulk (r : Req) (obj : Nat) (last : Option Nat) (s : State) : Host.Outcome State Fault Refusal :=
  onChip (Chip.doObjReadBulk r obj last) s

/-- TXN_BEGIN (R375): Command that opens a transaction and returns its ID. -/
def execTxnBegin (r : Req) (s : State) : Host.Outcome State Fault Refusal :=
  onChip (Chip.doTxnBegin r) s

/-- TXN_COMMIT (R380): Command that acquires scopes, checks the resulting state and schedules or performs the commit in the named mode. -/
def execTxnCommit (r : Req) (mode : Nat) (allowLate : Bool) (domain : Fin 4) (time : Option Nat) (s : State) : Host.Outcome State Fault Refusal :=
  onChip (Chip.doTxnCommit r mode allowLate domain time) s

/-- TXN_ROLLBACK (R386): Command that discards staged commands, undoes prepare and releases the scopes. -/
def execTxnRollback (r : Req) (s : State) : Host.Outcome State Fault Refusal :=
  onChip (Chip.doTxnRollback r) s

/-- TXN_STATUS (R387): Command that reports a transaction's state, staged bytes, P and last commit status. -/
def execTxnStatus (r : Req) (s : State) : Host.Outcome State Fault Refusal :=
  onChip (Chip.doTxnStatus r) s

end Sys2Proof.Machine
end

