-- ==== Sys2Proof/Machine/ExecTable.lean ====
section
/-! DEFINITION. The meanings of commands: table packets. Each is its effect on the block, over the shared operations. -/

namespace Sys2Proof.Machine

/-- TBL_INSERT (R142): Command that inserts or replaces a table entry, relocating entries by copy-then-invalidate where needed. -/
def execTblInsert (r : Req) (tbl : Nat) (entry : Nat) (index : Option Nat) (s : State) : Host.Outcome State Fault Refusal :=
  onChip (Chip.doTblInsert r tbl entry index) s

/-- TBL_DELETE (R402): Command that deletes a table entry by index or key. -/
def execTblDelete (r : Req) (tbl : Nat) (sel : TblSel) (s : State) : Host.Outcome State Fault Refusal :=
  onChip (Chip.doTblDelete r tbl sel) s

/-- TBL_LOOKUP (R402): Command that reads an entry of the current generation by key or index without refreshing LAST_HIT. -/
def execTblLookup (r : Req) (tbl : Nat) (sel : TblSel) (s : State) : Host.Outcome State Fault Refusal :=
  onChip (Chip.doTblLookup r tbl sel) s

/-- TBL_DMA (R154): Command that reads or writes entries or stamps of a locked segment, inline or through a host buffer. -/
def execTblDma (r : Req) (tbl : Nat) (host first count : Nat) (write stamps : Bool) (data : Option Bytes) (s : State) : Host.Outcome State Fault Refusal :=
  onChip (Chip.doTblDma r tbl host first count write stamps data) s

/-- TBL_BARRIER (R160): Command that takes an instant B and waits until every frame with an earlier key point has left or been dropped. -/
def execTblBarrier (r : Req) (timeout : Option Nat) (s : State) : Host.Outcome State Fault Refusal :=
  onChip (Chip.doTblBarrier r timeout) s

/-- QUEUE_FLUSH (R106): Command that removes the enqueued targets of one queue or all queues of a port at instant F. -/
def execQueueFlush (r : Req) (all : Bool) (n : Nat) (s : State) : Host.Outcome State Fault Refusal :=
  onChip (Chip.doQueueFlush r all n) s

end Sys2Proof.Machine
end

