-- ==== Sys2Proof/Machine/ExecTest.lean ====
section
/-! DEFINITION. The meanings of commands: calibration, Lull, loopback and capture packets. Each is its effect on the block, over the shared operations. -/

namespace Sys2Proof.Machine

/-- CAL_RUN (R428): Command that runs a calibration procedure over a range of items and returns result records. -/
def execCalRun (r : Req) (cal : Nat) (s : State) : Host.Outcome State Fault Refusal :=
  onChip (Chip.doCalRun r cal) s

/-- CAL_COMMIT (R430): Command that brings calibration candidates into force at one tick and stores the set in MRAM. -/
def execCalCommit (r : Req) (cal : Nat) (s : State) : Host.Outcome State Fault Refusal :=
  onChip (Chip.doCalCommit r cal) s

/-- LULL_CTRL (R434): Command that sets the Lull test control word. -/
def execLullCtrl (r : Req) (word : Nat) (s : State) : Host.Outcome State Fault Refusal :=
  onChip (Chip.doLullCtrl r word) s

/-- LOOPBACK (R69): Command that starts or ends a near-end or far-end loopback on a lane or port. -/
def execLoopback (r : Req) (word : Nat) (s : State) : Host.Outcome State Fault Refusal :=
  onChip (Chip.doLoopback r word) s

/-- DIAG_CAPTURE (R439): Command that copies a diagnostic scope into the capture buffer or a host buffer. -/
def execDiagCapture (r : Req) (word : Nat) (host : Option (Nat × Nat)) (s : State) : Host.Outcome State Fault Refusal :=
  onChip (Chip.doDiagCapture r word host) s

end Sys2Proof.Machine
end

