-- ==== Sys2Proof/Machine/ExecTick.lean ====
section
/-! DEFINITION. The meanings of commands: the tick and the remaining events. Each is its effect on the block, over the shared operations. -/

namespace Sys2Proof.Machine

/-- TIMEBASE_TICK (R161): On each 2.56 ns tick the timebase adds TB_INCR, the octet copies are reset, and the ramp and encoder generators
update. -/
def execTimebaseTick (n : Nat) (s : State) : Host.Outcome State Fault Refusal :=
  onChip (Chip.ticks n) s

/-- PHM_SAMPLE (R190): A phase monitor takes a sample on its 2^DECIM_LOG2-th observed edge and updates PHASE, FREQ and GRID. The
operand: how many edges were observed since the last, and where the last lies. -/
def execPhmSample (m : Fin 520) (seen : Nat × Fine) (s : State) : Host.Outcome State Fault Refusal :=
  onChip (Chip.phmSampled m seen.1 seen.2) s

/-- LPI_RX (R64): The partner signals LPI, or wakes from it, on the receive direction, changing LP_STATE, or counting RX_LPI_UNEXPECTED on a
timing lane. -/
def execLpiRx (port : Fin 512) (low : Bool) (s : State) : Host.Outcome State Fault Refusal :=
  onChip (Chip.lpiRx port low) s

/-- EIDLE_RX_ENTRY (R66): After the partner's eighth signal ordered-set block, the receiver freezes clock recovery and equaliser adaptation
and keeps LINK_UP. -/
def execEidleRxEntry (port : Fin 512) (s : State) : Host.Outcome State Fault Refusal :=
  onChip (Chip.eidleRxEntry port) s

/-- EIDLE_RX_WAKE (R66): A wake burst from the partner makes the receiver relock clock recovery and regain block lock. -/
def execEidleRxWake (port : Fin 512) (s : State) : Host.Outcome State Fault Refusal :=
  onChip (Chip.eidleRxWake port) s

/-- TRAPPED_FRAME_HANDLE (R73): The firmware takes a trapped frame: it answers ARP and Neighbor Solicitations, reads LLDP EEE and EIDLE
TLVs, and discards the rest. -/
def execTrappedFrameHandle (cls : Fin 8) (idle : Bool) (s : State) : Host.Outcome State Fault Refusal :=
  onChip (Chip.trapHandle cls idle) s

/-- FW_WRITE_DONE (R415): The loader finishes writing and reading back a flash region, sets STATE and sends the reply. -/
def execFwWriteDone (target : Fin 4) (ok : Bool) (s : State) : Host.Outcome State Fault Refusal :=
  onChip (Chip.fwWriteDone target ok) s

/-- TBL_DMA_DONE (R154): A TBL_DMA through a host buffer ends its transfer and replies. -/
def execTblDmaDone (n : Nat) (data : Bytes) (s : State) : Host.Outcome State Fault Refusal :=
  onChip (Chip.tblDmaDone n data) s

/-- DIAG_CAPTURE_DONE (R439): A diagnostic capture finishes copying its scope and returns DATA, or writes the host buffer. -/
def execDiagCaptureDone (sensed : Bytes) (s : State) : Host.Outcome State Fault Refusal :=
  onChip (Chip.diagDone sensed) s

/-- IMAGE_FETCH_DONE (R403): An image that CYC_LOAD or FW_STAGE names by HOST_BUF is fetched whole and checked, and the waiting request
replies. -/
def execImageFetchDone (n : Nat) (data : Bytes) (s : State) : Host.Outcome State Fault Refusal :=
  onChip (Chip.imageFetched n data) s

/-- CKPT_LAG_EXCEEDED (R339): CKPT_LAG grows beyond 2 × CKPT_MS and the standby falls from STANDBY_READY to STANDBY_SYNC. -/
def execCkptLagExceeded (s : State) : Host.Outcome State Fault Refusal :=
  onChip Chip.twinEval s

/-- CHECKPOINT_SEND (R340): The active sends dynamic-table changes within 10 ms, hit stamps once per AGE_UNIT and reference states within
100 ms to the standby. -/
def execCheckpointSend (s : State) : Host.Outcome State Fault Refusal :=
  onChip Chip.checkpointSend s

/-- FACTORY_TEST_ACCESS_OPEN (R441): Factory test access opens through IEEE 1149.1 with a signed token, zeroising keys and journal and
writing a zeroisation record. -/
def execFactoryTestAccessOpen (s : State) : Host.Outcome State Fault Refusal :=
  onChip Chip.factoryOpen s

end Sys2Proof.Machine
end

