-- ==== Sys2Proof/Machine/ExecTime.lean ====
section
/-! DEFINITION. The meanings of commands: time packets. Each is its effect on the block, over the shared operations. -/

namespace Sys2Proof.Machine

/-- TIME_GET (R164): Command that returns the timebase value and TICKS of the first tick after execution. -/
def execTimeGet (r : Req) (s : State) : Host.Outcome State Fault Refusal :=
  onChip (Chip.doTimeGet r) s

/-- TIME_STEP (R169): Command that steps the timebase by an offset or to an absolute time, subject to the jump guard. -/
def execTimeStep (r : Req) (a : StepArg) (s : State) : Host.Outcome State Fault Refusal :=
  onChip (Chip.doTimeStep r a) s

/-- TIME_INCR (R166): Command that sets ADJ to ADJ_NEW, optionally for DURATION ticks and then ADJ_AFTER. -/
def execTimeIncr (r : Req) (adjNew : Int) (duration : Nat) (adjAfter : Int) (s : State) : Host.Outcome State Fault Refusal :=
  onChip (Chip.doTimeIncr r adjNew duration adjAfter) s

/-- REF_FORCE (R238): Command that forces a selector to a qualified reference or to holdover, or releases the force. -/
def execRefForce (r : Req) (time : Bool) (action ref : Nat) (s : State) : Host.Outcome State Fault Refusal :=
  onChip (Chip.doRefForce r time action ref) s

/-- JUMP_ACCEPT (R171): Command that accepts or discards the pending refused jump named by its JUMP_ID. -/
def execJumpAccept (r : Req) (id action : Nat) (s : State) : Host.Outcome State Fault Refusal :=
  onChip (Chip.doJumpAccept r id action) s

end Sys2Proof.Machine
end

