-- ==== Sys2Proof/Machine/ExecTwin.lean ====
section
/-! DEFINITION. The meanings of commands: twin pairs. Each is its effect on the block, over the shared operations. -/

namespace Sys2Proof.Machine

/-- TWIN_PRESENT_PROBE (R452): Once per ms the unit releases its pull-down and samples TWIN_PRESENT. -/
def execTwinPresentProbe (low : Bool) (s : State) : Host.Outcome State Fault Refusal :=
  onChip (Chip.presentProbe low) s

/-- TWIN_HOLD_IN_EDGE (R334): A first edge on TWIN_HOLD_IN gates egress in hardware. -/
def execTwinHoldInEdge (s : State) : Host.Outcome State Fault Refusal :=
  onChip Chip.holdEdge s

/-- TWIN_HOLD_RELEASED (R332): No edge on TWIN_HOLD_IN for 400 ns reads as released. -/
def execTwinHoldReleased (s : State) : Host.Outcome State Fault Refusal :=
  onChip Chip.holdReleased s

/-- TWIN_CLAIM_CHECK (R335): A promoted interlocked unit rereads TWIN_HOLD_IN 1 µs after starting its hold and opens egress or fences. -/
def execTwinClaimCheck (s : State) : Host.Outcome State Fault Refusal :=
  onChip Chip.claimCheck s

/-- HOLD_WD_EXP (R336): The hold watchdog is not served; egress is gated, hold stopped and the unit fenced. -/
def execHoldWdExp (s : State) : Host.Outcome State Fault Refusal :=
  onChip Chip.holdWd s

/-- T_FENCE_EXPIRE (R343): T_FENCE passes without an accepted heartbeat and the active fences. -/
def execTFenceExpire (s : State) : Host.Outcome State Fault Refusal :=
  onChip Chip.fenceExpire s

/-- THAW_EGRESS_OPEN (R346): Thaw completes its restore and opens egress, by claim where interlocked. -/
def execThawEgressOpen (s : State) : Host.Outcome State Fault Refusal :=
  onChip Chip.thawOpen s

/-- TWIN_STATE_SAVE (R341): Every SAVE_S the standby writes its latest checkpoint to flash. -/
def execTwinStateSave (s : State) : Host.Outcome State Fault Refusal :=
  onChip Chip.twinSave s

/-- TAKEBACK_START (R349): A home unit ready for READY_HOLD_S sends the handover transaction for instant H. -/
def execTakebackStart (s : State) : Host.Outcome State Fault Refusal :=
  onChip Chip.takeback s

/-- PRE_THAW_START (R349): At H − 100 ms the home unit enters PRE_THAW. -/
def execPreThawStart (s : State) : Host.Outcome State Fault Refusal :=
  onChip Chip.preThaw s

end Sys2Proof.Machine
end

