-- ==== Sys2Proof/Machine/ExecTxn.lean ====
section
/-! DEFINITION. The meanings of commands: transactions and journal. Each is its effect on the block, over the shared operations. -/

namespace Sys2Proof.Machine

/-- TXN_IDLE_TIMEOUT (R379): An open transaction idle for IDLE_S is rolled back and notified. -/
def execTxnIdleTimeout (id : Nat) (s : State) : Host.Outcome State Fault Refusal :=
  onChip (Chip.txnIdle id) s

/-- TXN_SCOPE_ACQUIRED (R380): A waiting commit or command acquires the scope it waited for and continues. -/
def execTxnScopeAcquired (w : Waiter) (s : State) : Host.Outcome State Fault Refusal :=
  onChip (Chip.scopeAcquired w) s

/-- TXN_LOCK_WAIT_TIMEOUT (R380): A scope wait exceeds LOCK_WAIT_MS and is answered TXN_CONFLICT. -/
def execTxnLockWaitTimeout (w : Waiter) (s : State) : Host.Outcome State Fault Refusal :=
  onChip (Chip.waitTimeout w) s

/-- TXN_PREPARE_DONE (R382): Prepare completes at E; a NOW commit takes effect. -/
def execTxnPrepareDone (id : Nat) (s : State) : Host.Outcome State Fault Refusal :=
  onChip (Chip.prepared id) s

/-- TXN_COMMIT_POINT (R385): At P every staged change takes effect at one tick, tables flip and the journal record is written. -/
def execTxnCommitPoint (id : Nat) (s : State) : Host.Outcome State Fault Refusal :=
  onChip (Chip.committed id) s

/-- JRN_SPILL (R393): SPILL_S passes with records unspilled, or 64 are unspilled, and records are written to flash and sealed. -/
def execJrnSpill (ok : Bool) (s : State) : Host.Outcome State Fault Refusal :=
  onChip (Chip.jrnSpill ok) s

end Sys2Proof.Machine
end

