-- ==== Sys2Proof/Machine/Dispatch.lean ====
section
/-! DEFINITION. One arm per command, in the order of the table: the meaning it has. -/

namespace Sys2Proof.Machine

/-- A command's effect on everything but the queue. -/
def exec (i : Instr) (s : State) : Host.Outcome State Fault Refusal :=
  match i with
  | .nop r => Sys2Proof.Machine.execNop r s
  | .identify r => Sys2Proof.Machine.execIdentify r s
  | .objRead r objs => Sys2Proof.Machine.execObjRead r objs s
  | .objWrite r ws => Sys2Proof.Machine.execObjWrite r ws s
  | .objReadBulk r obj last => Sys2Proof.Machine.execObjReadBulk r obj last s
  | .txnBegin r => Sys2Proof.Machine.execTxnBegin r s
  | .txnCommit r mode allowLate domain time => Sys2Proof.Machine.execTxnCommit r mode allowLate domain time s
  | .txnRollback r => Sys2Proof.Machine.execTxnRollback r s
  | .txnStatus r => Sys2Proof.Machine.execTxnStatus r s
  | .tblInsert r tbl entry index => Sys2Proof.Machine.execTblInsert r tbl entry index s
  | .tblDelete r tbl sel => Sys2Proof.Machine.execTblDelete r tbl sel s
  | .tblLookup r tbl sel => Sys2Proof.Machine.execTblLookup r tbl sel s
  | .tblDma r tbl host first count write stamps data => Sys2Proof.Machine.execTblDma r tbl host first count write stamps data s
  | .tblBarrier r timeout => Sys2Proof.Machine.execTblBarrier r timeout s
  | .queueFlush r all n => Sys2Proof.Machine.execQueueFlush r all n s
  | .timeGet r => Sys2Proof.Machine.execTimeGet r s
  | .timeStep r a => Sys2Proof.Machine.execTimeStep r a s
  | .timeIncr r adjNew duration adjAfter => Sys2Proof.Machine.execTimeIncr r adjNew duration adjAfter s
  | .refForce r time action ref => Sys2Proof.Machine.execRefForce r time action ref s
  | .jumpAccept r id action => Sys2Proof.Machine.execJumpAccept r id action s
  | .cycLoad r engines src => Sys2Proof.Machine.execCycLoad r engines src s
  | .cycStart r d => Sys2Proof.Machine.execCycStart r d s
  | .cycStop r d => Sys2Proof.Machine.execCycStop r d s
  | .cycSwap r engines => Sys2Proof.Machine.execCycSwap r engines s
  | .cntSnapshot r => Sys2Proof.Machine.execCntSnapshot r s
  | .cntRead r sels => Sys2Proof.Machine.execCntRead r sels s
  | .jrnRead r fromSeq count => Sys2Proof.Machine.execJrnRead r fromSeq count s
  | .jrnMark r value blob => Sys2Proof.Machine.execJrnMark r value blob s
  | .twinStatus r => Sys2Proof.Machine.execTwinStatus r s
  | .twinPromote r lastHb twin => Sys2Proof.Machine.execTwinPromote r lastHb twin s
  | .twinDemote r => Sys2Proof.Machine.execTwinDemote r s
  | .twinCheckpoint r cls seq data => Sys2Proof.Machine.execTwinCheckpoint r cls seq data s
  | .twinHeartbeat r unit => Sys2Proof.Machine.execTwinHeartbeat r unit s
  | .fabStatus r => Sys2Proof.Machine.execFabStatus r s
  | .fabAssign r dev => Sys2Proof.Machine.execFabAssign r dev s
  | .fabRoute r inPort dev cls => Sys2Proof.Machine.execFabRoute r inPort dev cls s
  | .fwStage r target src => Sys2Proof.Machine.execFwStage r target src s
  | .fwWrite r target => Sys2Proof.Machine.execFwWrite r target s
  | .fwActivate r target => Sys2Proof.Machine.execFwActivate r target s
  | .fwStatus r => Sys2Proof.Machine.execFwStatus r s
  | .calRun r cal => Sys2Proof.Machine.execCalRun r cal s
  | .calCommit r cal => Sys2Proof.Machine.execCalCommit r cal s
  | .lullCtrl r word => Sys2Proof.Machine.execLullCtrl r word s
  | .loopback r word => Sys2Proof.Machine.execLoopback r word s
  | .diagCapture r word host => Sys2Proof.Machine.execDiagCapture r word host s
  | .keyInstall r slot role transports key => Sys2Proof.Machine.execKeyInstall r slot role transports key s
  | .keyRetire r slot role transports => Sys2Proof.Machine.execKeyRetire r slot role transports s
  | .roleMap r slot role transports => Sys2Proof.Machine.execRoleMap r slot role transports s
  | .cmdPacketRx via idle bytes => Sys2Proof.Machine.execCmdPacketRx via idle bytes s
  | .hifRegWrite off width value => Sys2Proof.Machine.execHifRegWrite off width value s
  | .hifCmdTailWrite tail idle reqs => Sys2Proof.Machine.execHifCmdTailWrite tail idle reqs s
  | .hifInjTailWrite tail frames => Sys2Proof.Machine.execHifInjTailWrite tail frames s
  | .injectFrame => Sys2Proof.Machine.execInjectFrame s
  | .hifRspTailWrite delivery tail rooms => Sys2Proof.Machine.execHifRspTailWrite delivery tail rooms s
  | .rspRingTimeout => Sys2Proof.Machine.execRspRingTimeout s
  | .hostReset => Sys2Proof.Machine.execHostReset s
  | .hifMbxPost n => Sys2Proof.Machine.execHifMbxPost n s
  | .mbxCommandTake n => Sys2Proof.Machine.execMbxCommandTake n s
  | .hifMbxAck mask => Sys2Proof.Machine.execHifMbxAck mask s
  | .hifEmbxPost e => Sys2Proof.Machine.execHifEmbxPost e s
  | .hifDbSet bits => Sys2Proof.Machine.execHifDbSet bits s
  | .doorbellCommandStart b => Sys2Proof.Machine.execDoorbellCommandStart b s
  | .evoSetLow r n time => Sys2Proof.Machine.execEvoSetLow r n time s
  | .evoSetHigh r n time => Sys2Proof.Machine.execEvoSetHigh r n time s
  | .evoToggle r n time => Sys2Proof.Machine.execEvoToggle r n time s
  | .evoPulse r n time width => Sys2Proof.Machine.execEvoPulse r n time width s
  | .synVreq r d v => Sys2Proof.Machine.execSynVreq r d v s
  | .hpiOffset r theta => Sys2Proof.Machine.execHpiOffset r theta s
  | .optRaw r port write dev page off len data resp flat => Sys2Proof.Machine.execOptRaw r port write dev page off len data resp flat s
  | .eviFifo r n => Sys2Proof.Machine.execEviFifo r n s
  | .ivlSamples r n => Sys2Proof.Machine.execIvlSamples r n s
  | .arbFreezeSet r a => Sys2Proof.Machine.execArbFreezeSet r a s
  | .arbFreezeClear r a reqs => Sys2Proof.Machine.execArbFreezeClear r a reqs s
  | .tblLockSet r t seg => Sys2Proof.Machine.execTblLockSet r t seg s
  | .tblLockDrained t seg => Sys2Proof.Machine.execTblLockDrained t seg s
  | .tblLockRelease r t seg => Sys2Proof.Machine.execTblLockRelease r t seg s
  | .lockExpired t seg => Sys2Proof.Machine.execLockExpired t seg s
  | .rxFrameStart port kind bytes edge deskew => Sys2Proof.Machine.execRxFrameStart port kind bytes edge deskew s
  | .keyPoint f => Sys2Proof.Machine.execKeyPoint f s
  | .lookupPoint f taken retry => Sys2Proof.Machine.execLookupPoint f taken retry s
  | .gatherTap f => Sys2Proof.Machine.execGatherTap f s
  | .rxOversizeCut f => Sys2Proof.Machine.execRxOversizeCut f s
  | .confirmation f codeErr fec fragErr => Sys2Proof.Machine.execConfirmation f codeErr fec fragErr s
  | .pauseExpire port => Sys2Proof.Machine.execPauseExpire port s
  | .pfcRepeat port => Sys2Proof.Machine.execPfcRepeat port s
  | .errorMarkerLateConfirm port => Sys2Proof.Machine.execErrorMarkerLateConfirm port s
  | .egressStartOpportunity port unit edge => Sys2Proof.Machine.execEgressStartOpportunity port unit edge s
  | .releaseStageArrival q => Sys2Proof.Machine.execReleaseStageArrival q s
  | .launchSent port b edge => Sys2Proof.Machine.execLaunchSent port b edge s
  | .txFrameEnd port => Sys2Proof.Machine.execTxFrameEnd port s
  | .shaperWake q => Sys2Proof.Machine.execShaperWake q s
  | .redAvgUpdate => Sys2Proof.Machine.execRedAvgUpdate s
  | .gateEntryChange port => Sys2Proof.Machine.execGateEntryChange port s
  | .gateChangeTime list => Sys2Proof.Machine.execGateChangeTime list s
  | .streamGateEntryChange g => Sys2Proof.Machine.execStreamGateEntryChange g s
  | .verifyTimer port => Sys2Proof.Machine.execVerifyTimer port s
  | .lpiSleepDelay port => Sys2Proof.Machine.execLpiSleepDelay port s
  | .eidleHoldoffExpire port => Sys2Proof.Machine.execEidleHoldoffExpire port s
  | .eidleWakeDone port => Sys2Proof.Machine.execEidleWakeDone port s
  | .eidleWakeFail port => Sys2Proof.Machine.execEidleWakeFail port s
  | .eidleLldpSend port => Sys2Proof.Machine.execEidleLldpSend port s
  | .eidleReportExpire port => Sys2Proof.Machine.execEidleReportExpire port s
  | .linkStateChange port up an speed => Sys2Proof.Machine.execLinkStateChange port up an speed s
  | .optPoll port flags resp => Sys2Proof.Machine.execOptPoll port flags resp s
  | .optStretchTimeout port => Sys2Proof.Machine.execOptStretchTimeout port s
  | .baroSample counts => Sys2Proof.Machine.execBaroSample counts s
  | .arbPhase a reqs => Sys2Proof.Machine.execArbPhase a reqs s
  | .arbDataPhaseEnd a => Sys2Proof.Machine.execArbDataPhaseEnd a s
  | .arbWdExpired a => Sys2Proof.Machine.execArbWdExpired a s
  | .learnRequestApply => Sys2Proof.Machine.execLearnRequestApply s
  | .ageVisit bucket => Sys2Proof.Machine.execAgeVisit bucket s
  | .seqHistoryReset stream => Sys2Proof.Machine.execSeqHistoryReset stream s
  | .tblCleanup t => Sys2Proof.Machine.execTblCleanup t s
  | .tblBarrierDone => Sys2Proof.Machine.execTblBarrierDone s
  | .tblBarrierTimeout n => Sys2Proof.Machine.execTblBarrierTimeout n s
  | .timeIncrDurationEnd => Sys2Proof.Machine.execTimeIncrDurationEnd s
  | .tdcLockChange ch loops => Sys2Proof.Machine.execTdcLockChange ch loops s
  | .phmLos m => Sys2Proof.Machine.execPhmLos m s
  | .phmRestart m edge => Sys2Proof.Machine.execPhmRestart m edge s
  | .evtInEdge n rising hold edge => Sys2Proof.Machine.execEvtInEdge n rising hold edge s
  | .ivlPairDecide u => Sys2Proof.Machine.execIvlPairDecide u s
  | .evoEdgePlace n pad => Sys2Proof.Machine.execEvoEdgePlace n pad s
  | .evoPeriodicPulse n pad => Sys2Proof.Machine.execEvoPeriodicPulse n pad s
  | .ppsOutPulse m pads => Sys2Proof.Machine.execPpsOutPulse m pads s
  | .dpllUpdate d e phases => Sys2Proof.Machine.execDpllUpdate d e phases s
  | .dpllFreqCheck d off e => Sys2Proof.Machine.execDpllFreqCheck d off e s
  | .dpllHopDone d => Sys2Proof.Machine.execDpllHopDone d s
  | .rampProfileStart d => Sys2Proof.Machine.execRampProfileStart d s
  | .rampHoldExpire d => Sys2Proof.Machine.execRampHoldExpire d s
  | .synTargetStart d => Sys2Proof.Machine.execSynTargetStart d s
  | .encQuarterEdge d => Sys2Proof.Machine.execEncQuarterEdge d s
  | .ckoAlignRestart o edge => Sys2Proof.Machine.execCkoAlignRestart o edge s
  | .selEvaluate => Sys2Proof.Machine.execSelEvaluate s
  | .suppressWindowEnd => Sys2Proof.Machine.execSuppressWindowEnd s
  | .refQualify n => Sys2Proof.Machine.execRefQualify n s
  | .refDisqualified n => Sys2Proof.Machine.execRefDisqualified n s
  | .refMeasWindow n => Sys2Proof.Machine.execRefMeasWindow n s
  | .selAcqTimeout time => Sys2Proof.Machine.execSelAcqTimeout time s
  | .hoMaxExpire time => Sys2Proof.Machine.execHoMaxExpire time s
  | .hoHistoryRecord time => Sys2Proof.Machine.execHoHistoryRecord time s
  | .ptpMsgProcess cls => Sys2Proof.Machine.execPtpMsgProcess cls s
  | .ptpSyncSend port => Sys2Proof.Machine.execPtpSyncSend port s
  | .ptpAnnounceSend port => Sys2Proof.Machine.execPtpAnnounceSend port s
  | .ptpDelayReqSend port => Sys2Proof.Machine.execPtpDelayReqSend port s
  | .annTimeout port => Sys2Proof.Machine.execAnnTimeout port s
  | .esmcPduRx cls => Sys2Proof.Machine.execEsmcPduRx cls s
  | .qlTimeout port => Sys2Proof.Machine.execQlTimeout port s
  | .esmcInfoSend port => Sys2Proof.Machine.execEsmcInfoSend port s
  | .cycTrigger d => Sys2Proof.Machine.execCycTrigger d s
  | .gatherDeadline d => Sys2Proof.Machine.execGatherDeadline d s
  | .engineWaitseqResume e => Sys2Proof.Machine.execEngineWaitseqResume e s
  | .engineProgramEnd e => Sys2Proof.Machine.execEngineProgramEnd e s
  | .fenceOpen d => Sys2Proof.Machine.execFenceOpen d s
  | .scatterEnqueue sec => Sys2Proof.Machine.execScatterEnqueue sec s
  | .opNop e d => Sys2Proof.Machine.execOpNop e d s
  | .opLoad e d => Sys2Proof.Machine.execOpLoad e d s
  | .opStore e d => Sys2Proof.Machine.execOpStore e d s
  | .opMovi e d => Sys2Proof.Machine.execOpMovi e d s
  | .opShuf e d => Sys2Proof.Machine.execOpShuf e d s
  | .opGather e d => Sys2Proof.Machine.execOpGather e d s
  | .opWaitseq e d => Sys2Proof.Machine.execOpWaitseq e d s
  | .opTsub e d => Sys2Proof.Machine.execOpTsub e d s
  | .opRecv e d => Sys2Proof.Machine.execOpRecv e d s
  | .opCntrd e d => Sys2Proof.Machine.execOpCntrd e d s
  | .opAxflt e d => Sys2Proof.Machine.execOpAxflt e d s
  | .opAdd e d => Sys2Proof.Machine.execOpAdd e d s
  | .opSub e d => Sys2Proof.Machine.execOpSub e d s
  | .opMul e d => Sys2Proof.Machine.execOpMul e d s
  | .opMac e d => Sys2Proof.Machine.execOpMac e d s
  | .opDiv e d => Sys2Proof.Machine.execOpDiv e d s
  | .opNeg e d => Sys2Proof.Machine.execOpNeg e d s
  | .opAbs e d => Sys2Proof.Machine.execOpAbs e d s
  | .opMin e d => Sys2Proof.Machine.execOpMin e d s
  | .opMax e d => Sys2Proof.Machine.execOpMax e d s
  | .opClamp e d => Sys2Proof.Machine.execOpClamp e d s
  | .opShift e d => Sys2Proof.Machine.execOpShift e d s
  | .opCvt e d => Sys2Proof.Machine.execOpCvt e d s
  | .opSqrt e d => Sys2Proof.Machine.execOpSqrt e d s
  | .opCmp e d => Sys2Proof.Machine.execOpCmp e d s
  | .opPlog e d => Sys2Proof.Machine.execOpPlog e d s
  | .opVmaster e d => Sys2Proof.Machine.execOpVmaster e d s
  | .opGear e d => Sys2Proof.Machine.execOpGear e d s
  | .opCam e d => Sys2Proof.Machine.execOpCam e d s
  | .opRegist e d => Sys2Proof.Machine.execOpRegist e d s
  | .opFilt e d => Sys2Proof.Machine.execOpFilt e d s
  | .opPid e d => Sys2Proof.Machine.execOpPid e d s
  | .opField e d => Sys2Proof.Machine.execOpField e d s
  | .opScatter e d => Sys2Proof.Machine.execOpScatter e d s
  | .opEvtreq e d => Sys2Proof.Machine.execOpEvtreq e d s
  | .opVreq e d => Sys2Proof.Machine.execOpVreq e d s
  | .opPost e d => Sys2Proof.Machine.execOpPost e d s
  | .opSkip e d => Sys2Proof.Machine.execOpSkip e d s
  | .opEnd e d => Sys2Proof.Machine.execOpEnd e d s
  | .fabHelloSend port => Sys2Proof.Machine.execFabHelloSend port s
  | .fabHelloRx port payload => Sys2Proof.Machine.execFabHelloRx port payload s
  | .fabHelloTimeout port => Sys2Proof.Machine.execFabHelloTimeout port s
  | .fabRecordSend => Sys2Proof.Machine.execFabRecordSend s
  | .fabRecordRx port payload => Sys2Proof.Machine.execFabRecordRx port payload s
  | .fabRecordExpire => Sys2Proof.Machine.execFabRecordExpire s
  | .fabRouteRecompute => Sys2Proof.Machine.execFabRouteRecompute s
  | .fabCreditSend port => Sys2Proof.Machine.execFabCreditSend port s
  | .fabCreditRx port payload => Sys2Proof.Machine.execFabCreditRx port payload s
  | .fabCreditWdDrop q => Sys2Proof.Machine.execFabCreditWdDrop q s
  | .coalWindowEnd event cls => Sys2Proof.Machine.execCoalWindowEnd event cls s
  | .twinPresentProbe low => Sys2Proof.Machine.execTwinPresentProbe low s
  | .twinHoldInEdge => Sys2Proof.Machine.execTwinHoldInEdge s
  | .twinHoldReleased => Sys2Proof.Machine.execTwinHoldReleased s
  | .twinClaimCheck => Sys2Proof.Machine.execTwinClaimCheck s
  | .holdWdExp => Sys2Proof.Machine.execHoldWdExp s
  | .tFenceExpire => Sys2Proof.Machine.execTFenceExpire s
  | .thawEgressOpen => Sys2Proof.Machine.execThawEgressOpen s
  | .twinStateSave => Sys2Proof.Machine.execTwinStateSave s
  | .takebackStart => Sys2Proof.Machine.execTakebackStart s
  | .preThawStart => Sys2Proof.Machine.execPreThawStart s
  | .txnIdleTimeout id => Sys2Proof.Machine.execTxnIdleTimeout id s
  | .txnScopeAcquired w => Sys2Proof.Machine.execTxnScopeAcquired w s
  | .txnLockWaitTimeout w => Sys2Proof.Machine.execTxnLockWaitTimeout w s
  | .txnPrepareDone id => Sys2Proof.Machine.execTxnPrepareDone id s
  | .txnCommitPoint id => Sys2Proof.Machine.execTxnCommitPoint id s
  | .jrnSpill ok => Sys2Proof.Machine.execJrnSpill ok s
  | .fwSwitchover => Sys2Proof.Machine.execFwSwitchover s
  | .fwHandoverConfirm => Sys2Proof.Machine.execFwHandoverConfirm s
  | .fwHandoverRevert => Sys2Proof.Machine.execFwHandoverRevert s
  | .fwRestart => Sys2Proof.Machine.execFwRestart s
  | .mgmtWatchdogExpire => Sys2Proof.Machine.execMgmtWatchdogExpire s
  | .resetRelease ka ok => Sys2Proof.Machine.execResetRelease ka ok s
  | .resetAssert => Sys2Proof.Machine.execResetAssert s
  | .powerFail => Sys2Proof.Machine.execPowerFail s
  | .vbakLost => Sys2Proof.Machine.execVbakLost s
  | .xtalFail => Sys2Proof.Machine.execXtalFail s
  | .kaTimeSet => Sys2Proof.Machine.execKaTimeSet s
  | .thermSample n t => Sys2Proof.Machine.execThermSample n t s
  | .calRunDone ms => Sys2Proof.Machine.execCalRunDone ms s
  | .lullCellTest cell pass => Sys2Proof.Machine.execLullCellTest cell pass s
  | .lullScrub t index e => Sys2Proof.Machine.execLullScrub t index e s
  | .lullTdcPulse ch dev => Sys2Proof.Machine.execLullTdcPulse ch dev s
  | .lullEngineTest e pass => Sys2Proof.Machine.execLullEngineTest e pass s
  | .timebaseTick n => Sys2Proof.Machine.execTimebaseTick n s
  | .phmSample m seen => Sys2Proof.Machine.execPhmSample m seen s
  | .lpiRx port low => Sys2Proof.Machine.execLpiRx port low s
  | .eidleRxEntry port => Sys2Proof.Machine.execEidleRxEntry port s
  | .eidleRxWake port => Sys2Proof.Machine.execEidleRxWake port s
  | .trappedFrameHandle cls idle => Sys2Proof.Machine.execTrappedFrameHandle cls idle s
  | .fwWriteDone target ok => Sys2Proof.Machine.execFwWriteDone target ok s
  | .tblDmaDone n data => Sys2Proof.Machine.execTblDmaDone n data s
  | .diagCaptureDone sensed => Sys2Proof.Machine.execDiagCaptureDone sensed s
  | .imageFetchDone n data => Sys2Proof.Machine.execImageFetchDone n data s
  | .ckptLagExceeded => Sys2Proof.Machine.execCkptLagExceeded s
  | .checkpointSend => Sys2Proof.Machine.execCheckpointSend s
  | .factoryTestAccessOpen => Sys2Proof.Machine.execFactoryTestAccessOpen s

end Sys2Proof.Machine
end

