-- ==== Sys2Proof/Safety.lean ====
section
/-! DEFINITION. What counts as a safe step and a sound state, in the terms that claims use. -/

namespace Sys2Proof.Machine

/-- An outcome that is a next state. -/
def completes : Host.Outcome State Fault Refusal → Bool
  | .next _ => true
  | _ => false

/-- What the spec says of the block at every instant, whatever command came last: the magnitude of ADJ never exceeds MAX_ADJ (R162), and
COMMIT_HOLD is set while unspilled records reach 65,280 and only then (R393). -/
def Chip.Limits (c : Chip) : Prop :=
  (c.rdS Reg.ADJ).natAbs ≤ ppbUnits (c.rd Reg.SERVO_CTRL_MAX_ADJ) ∧
  c.on Reg.JRN_STATUS_COMMIT_HOLD = decide (65280 ≤ c.rd Reg.JRN_STATUS_UNSPILLED)

/-- The same of a machine state. -/
def State.Limits (s : State) : Prop := s.chip.Limits

/-- The memory of the attribute store is in its one canonical form. -/
def Chip.storeWf (c : Chip) : Bool := SMap.wf c.regs

/-! ### What a command leaves alone -/

/-- Fields the rule after every command may write (R162, R393); where `Chip.Limits` holds it writes what they hold. -/
def steadyIds : List Nat := [Reg.ADJ.id, Reg.TIME_STATUS_ADJ_CLIP.id, Reg.JRN_STATUS_COMMIT_HOLD.id]

/-- Fields that a packet, a notification, a count or a journal record may move: counters, high-water marks, mailbox and doorbell results, the
journal's position, and the low-power state of a port that a frame wakes. -/
def reportIds : List Nat :=
  [Reg.CNT_VALUE_VALUE.id, Reg.CNT_VALUE_WRAPPED.id, Reg.POOL_WMARK.id, Reg.Q_WMARK_DEPTH.id, Reg.PORT_STATUS_LP_STATE.id,
   Reg.MBX_STAT_F2H_FULL.id, Reg.MBX_STAT_DROP.id, Reg.DB_RESULT.id, Reg.JRN_STATUS_NEXT_SEQ.id, Reg.JRN_STATUS_OLDEST_ONCHIP.id,
   Reg.JRN_STATUS_UNSPILLED.id, Reg.JRN_STATUS_COMMIT_HOLD.id, Reg.JRN_STATUS_JRN_LOST.id]

/-- Places of attribute fields (`Fld.key`): those listed. -/
def places (l : List Nat) : Nat → Prop := fun k => k ∈ l

/-- Places of attribute fields: all objects and elements of the listed fields (`Fld.id`). -/
def fields (l : List Nat) : Nat → Prop := fun k => k / 2 ^ 40 ∈ l

/-- d is c but for attribute fields at the command's own places: every other field of every object reads as before, and everything that is no
attribute is as it was. -/
def Chip.wrote (own : Nat → Prop) (c d : Chip) : Prop :=
  d = { c with regs := d.regs } ∧
  (∀ F i e, ¬ own (F.key i e) → F.id ∉ steadyIds → d.rd F i e = c.rd F i e) ∧
  d.rd Reg.ADJ = c.rd Reg.ADJ ∧ d.rd Reg.TIME_STATUS_ADJ_CLIP = c.rd Reg.TIME_STATUS_ADJ_CLIP ∧
  d.rd Reg.JRN_STATUS_COMMIT_HOLD = c.rd Reg.JRN_STATUS_COMMIT_HOLD

/-- d is c but for attribute fields at the command's own places and for what reports do: frames, packets and notifications that leave, counts,
journal records. Every other attribute field reads as before, every other part of the block is as it was, and nothing that had left is
taken back. -/
def Chip.reported (own : Nat → Prop) (c d : Chip) : Prop :=
  d = { c with
    regs := d.regs
    outs := d.outs
    coal := { c.coal with sigs := d.coal.sigs, winNo := d.coal.winNo, merged := d.coal.merged, seqs := d.coal.seqs }
    path := { c.path with
      frames := d.path.frames, banks := d.path.banks, rot := d.path.rot, queues := d.path.queues, frameCtr := d.path.frameCtr
      ordCtr := d.path.ordCtr, ports := d.path.ports, te := d.path.te, cal := d.path.cal }
    hif := { c.hif with err := d.hif.err, rsp := d.hif.rsp, rspRoom := d.hif.rspRoom, rspWait := d.hif.rspWait, f2h := d.hif.f2h, db := d.hif.db }
    jrn := { c.jrn with ring := d.jrn.ring, digest := d.jrn.digest }
    twin := { c.twin with seq := d.twin.seq, ckSeq := d.twin.ckSeq, outq := d.twin.outq } } ∧
  (∀ F i e, ¬ own (F.key i e) → F.id ∉ reportIds → F.id ∉ steadyIds → d.rd F i e = c.rd F i e) ∧
  (¬ own (Reg.ADJ.key 0 0) → d.rd Reg.ADJ = c.rd Reg.ADJ) ∧
  (¬ own (Reg.TIME_STATUS_ADJ_CLIP.key 0 0) → d.rd Reg.TIME_STATUS_ADJ_CLIP = c.rd Reg.TIME_STATUS_ADJ_CLIP) ∧
  ∀ o ∈ c.outs, o ∈ d.outs

/-! ### What a packet command meets -/

/-- Fields that a read clears (R5). -/
def rcIds : List Nat := (attrTable.flatMap fun a => a.flds).filterMap fun F => if F.acc == .rc then some F.id else none

/-- The conditions under which a packet command that changes state has its own effect at once: its role may run it (R360), it names no
transaction (R376), COMMIT_HOLD does not stand against its record (R393), the blocks it addresses are powered (R337), no transaction
holds a scope of it (R380), and no freeze holds its arbiters (R47). -/
def Chip.ready (c : Chip) (r : Req) (i : Instr) : Prop :=
  c.mayRun r i = true ∧ r.txn = 0 ∧ (c.on Reg.JRN_STATUS_COMMIT_HOLD && leavesRecord i) = false ∧ c.domainOff i = false ∧
  c.firstBlocked 0 (allScopes [i]) = none ∧ c.requestHeld i = false

/-- d is c with the reply to a request on its way, and else only what reports do (its packets, its journal record, their counts). -/
def Chip.answers (c d : Chip) (r : Req) (op : Nat) (st : Status) (l : List Tlv) : Prop :=
  Out.reply r op st r.txn c.tb16 l ∈ d.outs ∧ c.reported (fun _ => False) d

/-- The same, the rule after every command (R162, R393) applied: what `answers` says once the limits of ADJ hold. -/
def Chip.answered (c d : Chip) (r : Req) (op : Nat) (st : Status) (l : List Tlv) : Prop :=
  Out.reply r op st r.txn c.tb16 l ∈ d.outs ∧ ∃ e : Chip, c.reported (fun _ => False) e ∧ d = e.steady

/-! ### What an operation of a Drumline engine does -/

/-- Nothing changed but engine e itself: no other engine, no cycle memory, tag or domain, and no attribute field (the two that are kept within
limits after every command apart). -/
def Chip.engineOnly (c t : Chip) (e : Nat) : Prop :=
  (∀ f, f ≠ e → t.eng f = c.eng f) ∧ t.drum.cyc = c.drum.cyc ∧ t.drum.tags = c.drum.tags ∧ t.drum.dom = c.drum.dom ∧
  (∀ (F : Fld) (i k : Nat), F.id ∉ steadyIds → t.rd F i k = c.rd F i k) ∧ t.outs = c.outs

/-- A lane operation done (R276, R283): each active lane of DST holds its value, each other lane and register what it held, the engine stands at
its next descriptor, and nothing else changed. -/
def Chip.lanesDone (c t : Chip) (e : Nat) (d : Desc) (typ : Nat) (f : Nat → Nat) : Prop :=
  (∀ i < 8, (t.eng e).lane typ d.dst i = if (c.eng e).active d i then f i % 2 ^ laneBits typ else (c.eng e).lane typ d.dst i) ∧
  (∀ q, q ≠ d.dst.val → (typ = 3 → q ≠ d.dst.val + 1) → (t.eng e).reg q = (c.eng e).reg q) ∧
  t.eng e = { c.eng e with v := (t.eng e).v, pc := (c.eng e).pc + 1, wait := none } ∧ c.engineOnly t e

/-- An operation done that left engine e as x but for its next descriptor, and changed nothing else. -/
def Chip.engDone (c t : Chip) (e : Nat) (x : Eng) : Prop :=
  t.eng e = { x with pc := (c.eng e).pc + 1, wait := none } ∧ c.engineOnly t e

end Sys2Proof.Machine
end

