-- ==== Sys2Proof/Certificates/Slice0/Obligations.lean ====
section
/-! DEFINITION. The statements for the provers. Of each command its completion and its effect, with what it leaves alone; of the step and of the state after reset what
holds of the whole machine. -/

open Sys2Proof Sys2Proof.Machine

/-- After reset no command waits, nothing has left the block, and every attribute field of every object reads its reset value; among them those the spec gives in
its tables: the increment of 2.56 ns (R162), ADJ of 0 under a MAX_ADJ of 200,000 (R183), arbiters with a WAIT_LIMIT of 16 and a FREEZE_WD of 100 (R50), a longest
frame of 1,522 (R56), both selectors without a reference (R244) ... The value of a field that the spec gives no reset value is the model's (log entry 41). -/
def Obligations.ResetValues : Prop :=
  State.reset.pending = [] ∧ State.reset.chip.outs = [] ∧ State.reset.chip.cmdq = [] ∧ State.reset.chip.txns = [] ∧
  (∀ (F : Fld) (i e : Nat), State.reset.chip.rd F i e = F.reset i e % 2 ^ F.width) ∧
  ∀ q ∈ [(Reg.BASE_INCR, 0, 0x28F5C28F5C3), (Reg.ADJ, 0, 0), (Reg.SERVO_CTRL_MAX_ADJ, 0, 200000), (Reg.TICKS, 0, 0), (Reg.BARO_CFG_SAMPLE_US, 0, 10),
      (Reg.ARB_CFG_WAIT_LIMIT, 0, 16), (Reg.ARB_CFG_FREEZE_WD, 0, 100), (Reg.ARB_CFG_FREEZE, 0, 0), (Reg.PORT_CFG_MAX_FRAME, 0, 1522), (Reg.FP_CFG_PVID, 0, 1),
      (Reg.Q_BUF_Q_MAX, 0, 65535), (Reg.GATE_CTRL_ADMIN_STATES, 0, 255), (Reg.EM_CTRL_AGE_TIME, 0, 300), (Reg.EM_CTRL_MAX_KICKS, 0, 4), (Reg.L2_CFG_LEARN_EN, 0, 1),
      (Reg.EM_SEED0, 0, 0xFFFFFFFF), (Reg.SYN_CFG_BW, 0, 3000), (Reg.SYN_CFG_BW, 1, 100000), (Reg.SYN_STATUS_STATE, 1, 1), (Reg.IVL_CFG_N, 0, 1024),
      (Reg.PTP_PORT_STATUS_PORT_STATE, 0, 3), (Reg.SEL_STATUS_FREF, 0, 31), (Reg.SEL_STATUS_TREF, 0, 31), (Reg.HO_CFG_HO_MAX_S, 0, 86400), (Reg.CD_CFG_PERIOD, 0, 1000000),
      (Reg.FAB_CFG_HELLO_MS, 0, 10), (Reg.TWIN_CFG_T_FENCE, 0, 30), (Reg.CMD_CFG_ETYPE, 0, 0x88B6), (Reg.TXN_CFG_LOCK_WAIT_MS, 0, 200), (Reg.TXN_CFG_IDLE_S, 0, 60),
      (Reg.JRN_STATUS_UNSPILLED, 0, 0), (Reg.LULL_CFG_PERIOD_S, 0, 3600), (Reg.CNT_CFG_SEL, 0, 0xFFFF), (Reg.THERM_CFG_WARN_C, 0, 110)],
    State.reset.chip.rd q.1 q.2.1 0 = q.2.2

/-- A step takes the command at the front of the queue: it answers what that command's meaning answers on the state with the queue's rest. -/
def Obligations.StepRunsFront : Prop :=
  ∀ (i : Instr) (l : List Instr) (s : State), s.pending = i :: l → step s = exec i { s with pending := l }

/-- With no command waiting a step leaves the block as it is: the model's own choice (log entry 1); what happens with time are commands of the table. -/
def Obligations.StepIdle : Prop :=
  ∀ s : State, s.pending = [] → step s = .next s

/-- Every command completes in every state, and its own meaning neither takes from the queue nor adds to it: no state, no operand and no order of commands
ends a run in a fault or a refusal. -/
def Obligations.EveryCommandCompletes : Prop :=
  ∀ (i : Instr) (s : State), ∃ t, exec i s = .next t ∧ t.pending = s.pending

/-- Commands run in the order in which they wait, each once: from any block and any queue there is a run of the steps that takes exactly the first command at
every step, until none waits. -/
def Obligations.QueueOrder : Prop :=
  ∀ (l : List Instr) (s : State), ∃ run : Nat → State, run 0 = { s with pending := l } ∧
    (∀ n ≤ l.length, (run n).pending = l.drop n) ∧ (∀ n < l.length, step (run n) = .next (run (n + 1))) ∧
    ∀ (n : Nat) (i : Instr), l[n]? = some i → exec i { run n with pending := l.drop (n + 1) } = .next (run (n + 1))

/-- Every step keeps the limits that hold at every instant: whatever the command, ADJ stays within ±MAX_ADJ and COMMIT_HOLD is set exactly while unspilled
records reach 65,280. -/
def Obligations.StepKeepsLimits : Prop :=
  ∀ s t : State, s.Limits → step s = .next t → t.Limits

/-- An arbiter whose FREEZE has stood for its FREEZE_WD, which is not 0, clears FREEZE and sets WD_EXPIRED (R49); its FROZEN then shows what internal freeze
sources are left. No other field changes but by the notification that goes out. -/
def Obligations.ArbiterWatchdogClearsFreeze : Prop :=
  ∀ (a : Fin 142) (s : State), s.Limits → s.chip.on Reg.ARB_CFG_FREEZE 0 a = true → s.chip.rd Reg.ARB_CFG_FREEZE_WD 0 a ≠ 0 →
    (SMap.get s.chip.arbs a).frozenAt + unitsUs (s.chip.rd Reg.ARB_CFG_FREEZE_WD 0 a) ≤ s.chip.now →
    ∃ t, exec (.arbWdExpired a) s = .next t ∧ t.pending = s.pending ∧
      t.chip.on Reg.ARB_CFG_FREEZE 0 a = false ∧ t.chip.on Reg.ARB_STATUS_WD_EXPIRED 0 a = true ∧
      t.chip.on Reg.ARB_STATUS_FROZEN 0 a = decide (0 < (SMap.get s.chip.arbs a).internal) ∧
      s.chip.reported (places [Reg.ARB_CFG_FREEZE.key 0 a, Reg.ARB_STATUS_WD_EXPIRED.key 0 a, Reg.ARB_STATUS_FROZEN.key 0 a,
        Reg.ARB_STATUS_INTERNAL.key 0 a, Reg.ARB_STATUS_DRAINED.key 0 a]) t.chip

/-- The end of an arbiter's data phase (R44, R47): where a grant waits its requester is the new owner, else the arbiter is idle, and drained where it is frozen. Nothing
else changes. -/
def Obligations.ArbiterDataPhaseEnds : Prop :=
  ∀ (a : Fin 142) (s : State), s.Limits → (SMap.get s.chip.arbs a).busy = true →
    (∀ n, (SMap.get s.chip.arbs a).granted = some n → n < 256 →
      ∃ t, exec (.arbDataPhaseEnd a) s = .next t ∧ t.pending = s.pending ∧ t.chip.rd Reg.ARB_STATUS_OWNER 0 a = n ∧
        ({ s.chip with arbs := SMap.upd s.chip.arbs a fun x => { x with busy := true, granted := none } } : Chip).wrote
          (places [Reg.ARB_STATUS_OWNER.key 0 a]) t.chip) ∧
    ((SMap.get s.chip.arbs a).granted = none →
      ∃ t, exec (.arbDataPhaseEnd a) s = .next t ∧ t.pending = s.pending ∧
        t.chip.on Reg.ARB_STATUS_DRAINED 0 a = (s.chip.on Reg.ARB_CFG_FREEZE 0 a || decide (0 < (SMap.get s.chip.arbs a).internal)) ∧
        ({ s.chip with arbs := SMap.upd s.chip.arbs a fun x => { x with busy := false } } : Chip).wrote
          (places [Reg.ARB_STATUS_FROZEN.key 0 a, Reg.ARB_STATUS_INTERNAL.key 0 a, Reg.ARB_STATUS_DRAINED.key 0 a]) t.chip)

/-- An arbitration phase of an arbiter (R43 to R46) takes the requests of its own requesters alone (their numbers are the model's, log entry 170). Not frozen and
with no grant waiting, it grants one of those at the Mutex, of the lowest class present unless a request of another class has waited WAIT_LIMIT; its wait count is 0
again, that of every other requester goes up by one as far as the limit, and that of a requester not present stays. The requester granted owns the data phase, or the
next one where one runs; no other arbiter changes, and the Lull test wins from none of them. -/
def Obligations.ArbiterGrantsOne : Prop :=
  ∀ (a : Fin 142) (reqs : List (Nat × Nat)) (s : State), exec (.arbPhase a reqs) s = exec (.arbPhase a (reqs.filter (arbMay a))) s ∧
    (s.Limits → s.chip.arbFrozen a = false → (SMap.get s.chip.arbs a).granted = none →
    (reqs.map Prod.snd).Nodup → (∀ r ∈ reqs, arbMay a r = true) → (∃ r ∈ reqs, r.1 ≠ lullClass a) →
    ∃ t x k n, exec (.arbPhase a reqs) s = .next t ∧ t.pending = s.pending ∧ (k, n) ∈ reqs ∧ k ≠ lullClass a ∧
      ((∀ r ∈ reqs, r.1 ≠ lullClass a → SMap.get (SMap.get s.chip.arbs a).waits r.2 < s.chip.rd Reg.ARB_CFG_WAIT_LIMIT 0 a) →
        ∀ r ∈ reqs, r.1 ≠ lullClass a → k ≤ r.1) ∧
      SMap.get (SMap.get x a).waits n = 0 ∧
      (∀ r ∈ reqs, r.1 ≠ lullClass a → r.2 ≠ n → SMap.get (SMap.get x a).waits r.2 =
        min (s.chip.rd Reg.ARB_CFG_WAIT_LIMIT 0 a) (SMap.get (SMap.get s.chip.arbs a).waits r.2 + 1)) ∧
      (∀ m, (∀ r ∈ reqs, r.2 ≠ m) → SMap.get (SMap.get x a).waits m = SMap.get (SMap.get s.chip.arbs a).waits m) ∧
      (SMap.get x a).busy = true ∧
      ((SMap.get s.chip.arbs a).busy = true → (SMap.get x a).granted = some n ∧ t.chip.rd Reg.ARB_STATUS_OWNER 0 a = s.chip.rd Reg.ARB_STATUS_OWNER 0 a) ∧
      ((SMap.get s.chip.arbs a).busy = false → (SMap.get x a).granted = none ∧ t.chip.rd Reg.ARB_STATUS_OWNER 0 a = n) ∧
      (∀ b, b ≠ a.val → SMap.get x b = SMap.get s.chip.arbs b) ∧
      ({ s.chip with arbs := x } : Chip).reported (places [Reg.ARB_STATUS_OWNER.key 0 a, Reg.ARB_STATUS_MAX_WAIT.key 0 a,
        Reg.ARB_STATUS_FROZEN.key 0 a, Reg.ARB_STATUS_INTERNAL.key 0 a, Reg.ARB_STATUS_DRAINED.key 0 a]) t.chip)

/-- R423: XTAL_FAIL, VBAK_LOST with main power present, and the keep-alive time set from a valid timebase. -/
def Obligations.KeepAliveFlags : Prop :=
  ∀ s : State, s.Limits →
    (∃ t, exec .xtalFail s = .next t ∧ t.pending = s.pending ∧ t.chip.on Reg.KA_FLAGS_KA_VALID = false ∧ t.chip.on Reg.KA_FLAGS_XTAL_FAIL = true ∧
      s.chip.wrote (places [Reg.KA_FLAGS_KA_VALID.key 0 0, Reg.KA_FLAGS_XTAL_FAIL.key 0 0]) t.chip) ∧
    (∃ t, exec .vbakLost s = .next t ∧ t.pending = s.pending ∧ t.chip.on Reg.KA_FLAGS_KA_VALID = false ∧ t.chip.on Reg.KA_FLAGS_VBAK_LOST = true ∧
      ({ s.chip with pwr := { s.chip.pwr with seqLost := s.chip.pwr.seqLost || s.chip.pwr.failed, pfOk := s.chip.pwr.pfOk && !s.chip.pwr.failed } } : Chip).wrote
        (places [Reg.KA_FLAGS_KA_VALID.key 0 0, Reg.KA_FLAGS_VBAK_LOST.key 0 0]) t.chip) ∧
    (s.chip.on Reg.TIME_STATUS_TB_VALID = true → s.chip.pwr.failed = false →
      ∃ t, exec .kaTimeSet s = .next t ∧ t.pending = s.pending ∧ t.chip.rd Reg.KA_TIME_KA_SEC = s.chip.tbSec % 2 ^ Reg.KA_TIME_KA_SEC.width ∧
        t.chip.rd Reg.KA_TIME_KA_TICK = 0 ∧ t.chip.on Reg.KA_FLAGS_KA_VALID = true ∧
        ({ s.chip with pwr := { s.chip.pwr with kaAt := s.chip.now } } : Chip).wrote
          (places [Reg.KA_TIME_KA_SEC.key 0 0, Reg.KA_TIME_KA_TICK.key 0 0, Reg.KA_FLAGS_KA_VALID.key 0 0]) t.chip)

/-- At a loss of main power the keep-alive time is latched as the time of the failure, and the validity of that time with it (R408); nothing else changes until power
is back. -/
def Obligations.PowerFailLatchesTime : Prop :=
  ∀ s : State, s.Limits → ∃ t, exec .powerFail s = .next t ∧ t.pending = s.pending ∧
    t.chip.rd Reg.KA_TIME_PF_SEC = s.chip.kaNow / 32768 % 2 ^ Reg.KA_TIME_PF_SEC.width ∧
    t.chip.rd Reg.KA_TIME_PF_TICK = s.chip.kaNow % 32768 ∧
    ({ s.chip with pwr := { s.chip.pwr with failed := true, pfOk := s.chip.on Reg.KA_FLAGS_KA_VALID } } : Chip).wrote
      (places [Reg.KA_TIME_PF_SEC.key 0 0, Reg.KA_TIME_PF_TICK.key 0 0]) t.chip

/-- What the Lull test finds (R433, R434): a cell that fails is retired, counted and shown; an uncorrectable word of a table segment that is not locked is remembered and
shown; a channel that deviates by more than 6 ps is shown; an engine that is not in use and fails is shown. Each sets its flag and LULL_FAULT. -/
def Obligations.LullFindings : Prop :=
  ∀ s : State, s.Limits → s.chip.on Reg.LULL_CFG_EN = true →
    (∀ cell, s.chip.on Reg.LULL_CFG_CELLS = true → s.chip.cellTestable cell = true → s.chip.lull.retired.length < 4096 → cell < 2 ^ 32 →
      ∃ t, exec (.lullCellTest cell false) s = .next t ∧ t.pending = s.pending ∧ t.chip.lull.retired = cell :: s.chip.lull.retired ∧
        t.chip.on Reg.LULL_STATUS_CELL_FAULT = true ∧ t.chip.rd Reg.LULL_STATUS_RETIRED = s.chip.lull.retired.length + 1 ∧
        t.chip.rd Reg.LULL_FAULT_KIND = 1 ∧ t.chip.rd Reg.LULL_FAULT_INDEX = cell ∧
        ({ s.chip with lull := { s.chip.lull with retired := cell :: s.chip.lull.retired } } : Chip).reported (fields [Reg.LULL_FAULT_KIND.id,
          Reg.LULL_FAULT_TABLE.id, Reg.LULL_FAULT_INDEX.id, Reg.LULL_FAULT_DETAIL.id, Reg.LULL_FAULT_SEC.id, Reg.LULL_STATUS_CELL_FAULT.id,
          Reg.LULL_STATUS_RETIRED.id, Reg.LULL_STATUS_RETIRE_FULL.id]) t.chip) ∧
    (∀ (tb : Fin 7) (i : Nat), s.chip.on Reg.LULL_CFG_SCRUB = true → s.chip.locked tb i = false → s.chip.arbFrozen (tblArb tb i) = false → i < 2 ^ 32 →
      ∃ t, exec (.lullScrub tb i .uncorrectable) s = .next t ∧ t.pending = s.pending ∧ (tb.val, i) ∈ t.chip.lull.badWords ∧
        t.chip.on Reg.LULL_STATUS_ECC_UNCORR = true ∧ t.chip.rd Reg.LULL_FAULT_KIND = 2 ∧ t.chip.rd Reg.LULL_FAULT_TABLE = tb ∧
        t.chip.rd Reg.LULL_FAULT_INDEX = i) ∧
    (∀ ch dev, s.chip.on Reg.LULL_CFG_TDC = true → 6 * 1024 < dev.natAbs * 1000 → ch < 2 ^ 32 →
      ∃ t, exec (.lullTdcPulse ch dev) s = .next t ∧ t.pending = s.pending ∧ t.chip.on Reg.LULL_STATUS_TDC_DEVIATE = true ∧
        t.chip.rd Reg.LULL_FAULT_KIND = 3 ∧ t.chip.rd Reg.LULL_FAULT_INDEX = ch ∧
        s.chip.reported (fields [Reg.LULL_FAULT_KIND.id, Reg.LULL_FAULT_TABLE.id, Reg.LULL_FAULT_INDEX.id, Reg.LULL_FAULT_DETAIL.id,
          Reg.LULL_FAULT_SEC.id, Reg.LULL_STATUS_TDC_DEVIATE.id]) t.chip) ∧
    (∀ e : Fin 64, s.chip.on Reg.LULL_CFG_ENGINES = true → s.chip.on Reg.ENG_CFG_EN (256 + e) = false →
      ∃ t, exec (.lullEngineTest e false) s = .next t ∧ t.pending = s.pending ∧ t.chip.on Reg.LULL_STATUS_ENGINE_FAULT = true ∧
        t.chip.rd Reg.LULL_FAULT_KIND = 4 ∧ t.chip.rd Reg.LULL_FAULT_INDEX = e ∧
        s.chip.reported (fields [Reg.LULL_FAULT_KIND.id, Reg.LULL_FAULT_TABLE.id, Reg.LULL_FAULT_INDEX.id, Reg.LULL_FAULT_DETAIL.id,
          Reg.LULL_FAULT_SEC.id, Reg.LULL_STATUS_ENGINE_FAULT.id]) t.chip)

/-- What RST_N leaves (R404, R407, R408): keys, the state key, the journal in the flash, security floors, the calibration sets and the retired cells stay; the ring
of the journal, waiting commands, transactions, the host interface, the timebase, the path, the tables, Drumline and the Carillon start over; every attribute field
that is not among those the spec keeps reads its reset value. -/
def Obligations.ResetAssertClears : Prop :=
  ∀ s : State, ∃ t, exec .resetAssert s = .next t ∧ t.pending = s.pending ∧
    t.chip.keys = s.chip.keys ∧ t.chip.stateKey = s.chip.stateKey ∧ t.chip.jrn.flash = s.chip.jrn.flash ∧ t.chip.fw.minSec = s.chip.fw.minSec ∧
    t.chip.cal.setA = s.chip.cal.setA ∧ t.chip.cal.setB = s.chip.cal.setB ∧ t.chip.lull.retired = s.chip.lull.retired ∧
    t.chip.jrn.ring = [] ∧ t.chip.cmdq = [] ∧ t.chip.parked = [] ∧ t.chip.txns = [] ∧ t.chip.hif = {} ∧ t.chip.time = {} ∧ t.chip.path = {} ∧
    t.chip.tbl = {} ∧ t.chip.drum = {} ∧ t.chip.car = {} ∧ t.chip.pwr.low = true ∧
    ∀ F i e, F.id ∉ (keptAttrs.flatMap fun a => a.flds).map Fld.id → F.id ∉ steadyIds →
      F.id ∉ [Reg.JRN_STATUS_NEXT_SEQ.id, Reg.JRN_STATUS_OLDEST_FLASH.id, Reg.LULL_STATUS_RETIRED.id, Reg.LULL_STATUS_RETIRE_FULL.id] →
      t.chip.rd F i e = F.reset i e % 2 ^ F.width

/-- A start with BOOT_RUN = 0, a management image without fault and fewer than three failed starts (R407, R409, R417): after RST_N is released, and after a restart that
an activation asked for, the block runs, not in recovery, LAST_RESET shows the cause, staged images are gone, and a start that failed is counted. -/
def Obligations.StartAfterReset : Prop :=
  ∀ (s : State), s.chip.on Reg.BOOT_CFG_BOOT_RUN = false → (SMap.get s.chip.fw.flash 0).err = 0 → s.chip.fw.fails < 3 →
    (∀ ka ok, s.chip.pwr.low = true → s.chip.pwr.failed = false →
      ∃ t, exec (.resetRelease ka ok) s = .next t ∧ t.pending = s.pending ∧ t.chip.pwr.low = false ∧ t.chip.pwr.failed = false ∧
        t.chip.fw.recovery = false ∧ t.chip.fw.fails = (if ok then 0 else s.chip.fw.fails + 1) ∧ t.chip.rd Reg.PWR_STATUS_LAST_RESET = 1) ∧
    (∀ at_, s.chip.fw.restartAt = some at_ → at_ ≤ s.chip.now → s.chip.fwWriting 0 = false → s.chip.fw.recovery = false →
      ∃ t, exec .fwRestart s = .next t ∧ t.pending = s.pending ∧ t.chip.pwr.low = false ∧ t.chip.fw.recovery = false ∧
        t.chip.fw.staged = [] ∧ t.chip.rd Reg.PWR_STATUS_LAST_RESET = 3)

/-- A sample of a temperature sensor below the trip level (R455): it is shown, at the warning level or above it sets WARN_NOW and WARN_SEEN, and nothing outside the
temperature registers changes. -/
def Obligations.ThermSampleShown : Prop :=
  ∀ (n : Fin 8) (z : Int) (s : State), s.Limits → satS 16 z < 1000 →
    ∃ t, exec (.thermSample n z) s = .next t ∧ t.pending = s.pending ∧ t.chip.rdS Reg.THERM_TEMP 0 n = satS 16 z ∧
      ((s.chip.rd Reg.THERM_CFG_WARN_C * 8 : Nat) ≤ satS 16 z → t.chip.on Reg.THERM_STATUS_WARN_NOW = true ∧ t.chip.on Reg.THERM_STATUS_WARN_SEEN = true) ∧
      s.chip.wrote (places [Reg.THERM_TEMP.key 0 n, Reg.THERM_STATUS_HOTTEST.key 0 0, Reg.THERM_STATUS_MAX_TEMP.key 0 0,
        Reg.THERM_STATUS_WARN_NOW.key 0 0, Reg.THERM_STATUS_WARN_SEEN.key 0 0]) t.chip

/-- Opening factory test access (R441) erases the keys, the state key, the key states, the journal and its seal, and leaves calibration, the retired cells, the
images and every other attribute but those a record and a notification move. -/
def Obligations.FactoryAccessZeroises : Prop :=
  ∀ s : State, s.Limits → ∃ t, exec .factoryTestAccessOpen s = .next t ∧ t.pending = s.pending ∧ t.chip.keys = [] ∧ t.chip.stateKey = 0 ∧
    t.chip.jrn.flash = [] ∧ t.chip.cal = s.chip.cal ∧ t.chip.lull = s.chip.lull ∧ t.chip.fw = s.chip.fw ∧
    (∀ k < 32, t.chip.on Reg.KEY_STATE_VALID k = false ∧ t.chip.rd Reg.KEY_STATE_LAST_SEQ k = 0) ∧ t.chip.rd Reg.JRN_SEAL_SEQ = 0 ∧
    ∀ F i e, F.id ∉ [Reg.KEY_STATE_VALID.id, Reg.KEY_STATE_LAST_SEQ.id, Reg.KEY_STATE_ROLE.id, Reg.KEY_STATE_TRANSPORTS.id, Reg.JRN_SEAL_SEQ.id,
      Reg.JRN_SEAL_DIGEST.id, Reg.JRN_SEAL_FLASH_INDEX.id, Reg.JRN_SEAL_CRC.id] → F.id ∉ reportIds → F.id ∉ steadyIds →
      t.chip.rd F i e = s.chip.rd F i e

/-- A spill of the journal (R393): done, the 64 oldest unspilled records stand in the flash, the seal names the last of them, COMMIT_HOLD is set only if 65,280 or
more are left, and the ring is as it was; failed, SPILL_FAIL is set and nothing else changes. -/
def Obligations.JournalSpill : Prop :=
  ∀ s : State, s.Limits → 64 ≤ s.chip.rd Reg.JRN_STATUS_UNSPILLED → s.chip.rd Reg.JRN_STATUS_UNSPILLED ≤ s.chip.jrn.ring.length →
    (∃ t j, exec (.jrnSpill true) s = .next t ∧ t.pending = s.pending ∧
      (s.chip.jrn.ring.take (s.chip.rd Reg.JRN_STATUS_UNSPILLED)).reverse[63]? = some j ∧
      t.chip.rd Reg.JRN_STATUS_UNSPILLED = s.chip.rd Reg.JRN_STATUS_UNSPILLED - 64 ∧ t.chip.rd Reg.JRN_SEAL_SEQ = j.seq % 2 ^ Reg.JRN_SEAL_SEQ.width ∧
      t.chip.on Reg.JRN_STATUS_COMMIT_HOLD = decide (65280 ≤ s.chip.rd Reg.JRN_STATUS_UNSPILLED - 64) ∧ t.chip.jrn.ring = s.chip.jrn.ring ∧
      t.chip.jrn.flash = ((((s.chip.jrn.ring.take (s.chip.rd Reg.JRN_STATUS_UNSPILLED)).reverse.take 64).reverse) ++ s.chip.jrn.flash).take 1048576) ∧
    (∃ t, exec (.jrnSpill false) s = .next t ∧ t.pending = s.pending ∧ t.chip.on Reg.JRN_STATUS_SPILL_FAIL = true ∧
      ({ s.chip with jrn := { s.chip.jrn with lastSpill := s.chip.now } } : Chip).wrote (places [Reg.JRN_STATUS_SPILL_FAIL.key 0 0]) t.chip)

/-- NOP, IDENTIFY, TIME_GET, CNT_READ and JRN_READ (R394, R397, R398, R401, R437): a query of a role that may ask, outside a transaction, is answered
OK with what it asks for, and changes nothing but what the reply itself moves. -/
def Obligations.QueriesAnswer : Prop :=
  ∀ (r : Req) (s : State), s.Limits → r.txn = 0 →
    (s.chip.mayRun r (.nop r) = true →
      ∃ t, exec (.nop r) s = .next t ∧ t.pending = s.pending ∧ s.chip.answers t.chip r 0x0001 .ok []) ∧
    (s.chip.mayRun r (.identify r) = true → fitsRoom (s.chip.replyRoom r.via) [tlvIdent s.chip.identBlock] = true →
      ∃ t, exec (.identify r) s = .next t ∧ t.pending = s.pending ∧ s.chip.answers t.chip r 0x0002 .ok [tlvIdent s.chip.identBlock]) ∧
    (∀ l, s.chip.mayRun r (.timeGet r) = true →
      l = [tlvTime (time96 (s.chip.nextTb / 2 ^ 24)), tlvTicks (s.chip.rd Reg.TICKS + 1),
        tlvTbState (s.chip.attrNow Attr.TIME_STATUS 0 0) (s.chip.attrNow Attr.SEL_STATUS 0 0)] →
      fitsRoom (s.chip.replyRoom r.via) l = true →
      ∃ t, exec (.timeGet r) s = .next t ∧ t.pending = s.pending ∧ s.chip.answers t.chip r 0x0401 .ok l) ∧
    (∀ sels : List Nat, s.chip.mayRun r (.cntRead r sels) = true → sels ≠ [] → sels.length ≤ 72 →
      (∀ x ∈ sels, bitsOf x 8 7 ≤ 71 ∧ x &&& 0x7FFF8000 = 0) → fitsRoom (s.chip.replyRoom r.via) (sels.flatMap s.chip.cntRead1) = true →
      ∃ t, exec (.cntRead r sels) s = .next t ∧ t.pending = s.pending ∧ s.chip.answers t.chip r 0x0602 .ok (sels.flatMap s.chip.cntRead1)) ∧
    (∀ first n l, s.chip.mayRun r (.jrnRead r first n) = true → 0 < n → n ≤ 128 →
      l = [tlvJseq s.chip.jrnOldest, tlvRecords (s.chip.jrnFrom first n).length (natOfBytes ((s.chip.jrnFrom first n).flatMap JRec.bytes))] →
      fitsRoom (s.chip.replyRoom r.via) l = true →
      ∃ t, exec (.jrnRead r first n) s = .next t ∧ t.pending = s.pending ∧ s.chip.answers t.chip r 0x0701 .ok l)

/-- TWIN_STATUS, FAB_STATUS, FAB_ROUTE, FW_STATUS and TBL_LOOKUP (R322, R323, R402, R414): a query is answered OK with what it asks for, and changes
nothing but what the reply itself moves: a lookup refreshes no stamp and learns nothing. -/
def Obligations.StatusQueriesAnswer : Prop :=
  ∀ (r : Req) (s : State), s.Limits → r.txn = 0 →
    (s.chip.mayRun r (.twinStatus r) = true → fitsRoom (s.chip.replyRoom r.via) (s.chip.twinObj 1 ++ s.chip.twinObj 2) = true →
      ∃ t, exec (.twinStatus r) s = .next t ∧ t.pending = s.pending ∧ s.chip.answers t.chip r 0x0801 .ok (s.chip.twinObj 1 ++ s.chip.twinObj 2)) ∧
    (∀ l, s.chip.mayRun r (.fabStatus r) = true →
      s.chip.readAll ({ obj := objId Cls.DEV 0 0x49, elem := none } :: (List.range 64).map fun n => { obj := objId Cls.FAB n 0x01, elem := none }) = some (l, s.chip) →
      fitsRoom (s.chip.replyRoom r.via) l = true →
      ∃ t, exec (.fabStatus r) s = .next t ∧ t.pending = s.pending ∧ s.chip.answers t.chip r 0x0901 .ok l) ∧
    (∀ (p : Nat) (dev : Fin 64) (cls : Fin 8) (u : Nat) (ps : List Nat), s.chip.mayRun r (.fabRoute r (some p) dev cls) = true → p ≤ 511 → s.chip.fabPort p = false →
      s.chip.candidates dev false none = some (u, ps) →
      fitsRoom (s.chip.replyRoom r.via) [tlvPorts ps, tlvPorts (s.chip.chooseLink (s.chip.fabId.getD 0) dev cls p false none).toList] = true →
      ∃ t, exec (.fabRoute r (some p) dev cls) s = .next t ∧ t.pending = s.pending ∧
        s.chip.answers t.chip r 0x0903 .ok [tlvPorts ps, tlvPorts (s.chip.chooseLink (s.chip.fabId.getD 0) dev cls p false none).toList]) ∧
    (s.chip.mayRun r (.fwStatus r) = true → fitsRoom (s.chip.replyRoom r.via) [s.chip.fwInfos] = true →
      ∃ t, exec (.fwStatus r) s = .next t ∧ t.pending = s.pending ∧ s.chip.answers t.chip r 0x0A04 .ok [s.chip.fwInfos]) ∧
    (∀ tb sel l, s.chip.mayRun r (.tblLookup r tb sel) = true → selOk tb sel = true → s.chip.domainOff (.tblLookup r tb sel) = false →
      l = (match s.chip.selIndex tb sel with | none => [] | some n => [tlvIndex n, s.chip.shownEntry tb n sel]) →
      fitsRoom (s.chip.replyRoom r.via) l = true →
      ∃ t, exec (.tblLookup r tb sel) s = .next t ∧ t.pending = s.pending ∧ s.chip.answers t.chip r 0x0303 .ok l)

/-- OBJ_READ and OBJ_READ_BULK (R5, R400): the attributes named are answered with their values, RC fields are cleared, and nothing else changes.
The two attributes read through as FIFOs (R195, R197) have a statement of their own. -/
def Obligations.ReadsClearRcOnly : Prop :=
  ∀ (r : Req) (s : State) (l : List Tlv) (d : Chip), s.Limits → r.txn = 0 → fitsRoom (d.replyRoom r.via) l = true →
    (∀ objs : List ObjSel, s.chip.mayRun r (.objRead r objs) = true → objs ≠ [] → objs.length ≤ 64 → s.chip.domainOff (.objRead r objs) = false →
      (∀ o ∈ objs, ¬ (objCls o.obj = Cls.EVT ∧ (objAttr o.obj = 0x03 ∨ objAttr o.obj = 0x12))) → s.chip.readAll objs = some (l, d) →
      ∃ t, exec (.objRead r objs) s = .next t ∧ t.pending = s.pending ∧ d.answers t.chip r 0x0101 .ok l ∧ s.chip.wrote (fields rcIds) d) ∧
    (∀ (obj last : Nat), s.chip.mayRun r (.objReadBulk r obj (some last)) = true → 1 ≤ objCls obj → objCls obj ≤ 20 → objInst obj ≤ last →
      attrDefined (objCls obj) (objAttr obj) = true → (s.chip.bulkObjs obj last).length ≤ 4096 →
      (∀ o ∈ s.chip.bulkObjs obj last, ¬ (objCls o.obj = Cls.EVT ∧ (objAttr o.obj = 0x03 ∨ objAttr o.obj = 0x12))) →
      s.chip.readAll (s.chip.bulkObjs obj last) = some (l, d) →
      ∃ t, exec (.objReadBulk r obj (some last)) s = .next t ∧ t.pending = s.pending ∧ d.answers t.chip r 0x0103 .ok l ∧
        s.chip.wrote (fields rcIds) d)

/-- HPI_OFFSET, SYN_VREQ, EVO_SET_LOW, EVO_SET_HIGH, EVO_TOGGLE and EVO_PULSE (R168, R199, R201, R217): the write that each of them is acts at once.
In mode 2 an offset within the guard moves the integrator by KI × θ and ADJ to KP × θ + the integrator, clipped; a target request is put behind
those that start before it; an event request whose first edge is 20 ns ahead or more, not over a second off, in a queue of fewer than 16 and more
than 5.12 ns from every queued edge is queued in time order. -/
def Obligations.DirectWritesAct : Prop :=
  ∀ (r : Req) (s : State), s.Limits →
    (∀ (z : Int) (w : ObjWrite), w = { obj := objId Cls.TIME 0 0x0B, elem := none, value := bytesOfNat 8 (encS 64 z), mask := none } →
      s.chip.ready r (.objWrite r [w]) → s.chip.writesFail r [w] = none → -(2 ^ 63 : Int) ≤ z → z < 2 ^ 63 →
      s.chip.rd Reg.SERVO_CTRL_SERVO_MODE = 2 → s.chip.jumpRefused z = false →
      s.chip.changeFail (s.chip.hpiWrite z) (.objWrite r [w]) = none →
      ∃ t n a, exec (.hpiOffset r z) s = .next t ∧ t.pending = s.pending ∧
        n = satS 32 (s.chip.rdS Reg.HPI_INTEG + (s.chip.rd Reg.HPI_GAIN_KI : Int) * z / 2 ^ 24) ∧
        a = (s.chip.rd Reg.HPI_GAIN_KP : Int) * z / 2 ^ 24 + n ∧ t.chip.rdS Reg.HPI_INTEG = n ∧
        t.chip.rdS Reg.ADJ = max (-(ppbUnits (s.chip.rd Reg.SERVO_CTRL_MAX_ADJ) : Int)) (min (ppbUnits (s.chip.rd Reg.SERVO_CTRL_MAX_ADJ)) a) ∧
        s.chip.reported (places [Reg.HPI_INTEG.key 0 0, Reg.ADJ.key 0 0, Reg.TIME_STATUS_ADJ_CLIP.key 0 0]) t.chip) ∧
    (∀ (d : Fin 5) (v : Nat) (w : ObjWrite) (l : List (Nat × Int × Nat)), w = { obj := objId Cls.SYN d 0x10, elem := none, value := bytesOfNat 16 v, mask := none } →
      s.chip.ready r (.objWrite r [w]) → s.chip.writesFail r [w] = none → v < 2 ^ 128 → s.chip.targetOk d (signed 64 (v / 2 ^ 64)) = true →
      v % 2 ^ 32 ≤ 65535000 → s.chip.rd Reg.SYN_OWNER_OWNER d = 0 →
      l = (s.chip.dpll d).gen.reqs.filter (fun x => decide (x.1 < s.chip.now + unitsNs (v % 2 ^ 32))) → l.length < 4 →
      let x := s.chip.updGen d fun g => { g with reqs := l ++ [(s.chip.now + unitsNs (v % 2 ^ 32), signed 64 (v / 2 ^ 64), v / 2 ^ 32 % 2 ^ 32)] }
      s.chip.changeFail x (.objWrite r [w]) = none →
      ∃ t, exec (.synVreq r d v) s = .next t ∧ t.pending = s.pending ∧ x.answers t.chip r 0x0102 .ok []) ∧
    (∀ (n : Fin 32) (time width act : Nat) (i : Instr) (w : ObjWrite) (e1 e2 : EvoEdge) (q : List EvoEdge),
      (i, act) ∈ [(.evoSetLow r n time, 0), (.evoSetHigh r n time, 1), (.evoToggle r n time, 2), (.evoPulse r n time width, 3)] →
      w = { obj := objId Cls.EVT (32 + n) 0x33, elem := none, value := bytesOfNat 16 (time * 2 ^ 32 + act * 2 ^ 30 + if act = 3 then width else 0), mask := none } →
      s.chip.ready r (.objWrite r [w]) → s.chip.writesFail r [w] = none → time < 2 ^ 96 → time % 2 ^ 6 = 0 → time / 2 ^ 16 % 2 ^ 32 < nsPerS →
      6 ≤ width → width < 2 ^ 30 → s.chip.rd Reg.EVO_CFG_OWNER (32 + n) = 1 →
      e1 = { adj := (timeOf96 time : Int) - s.chip.outLag n, t := timeOf96 time, act := if act = 3 then 1 - s.chip.rd Reg.EVO_CFG_IDLE_LEVEL (32 + n) else act } →
      e2 = { adj := e1.adj + (width * 65536 : Nat), t := timeOf96 time + width * 65536, act := s.chip.rd Reg.EVO_CFG_IDLE_LEVEL (32 + n) } →
      q = (if act = 3 then [e1, e2] else [e1]) →
      ((s.chip.tb16 + 20 * 65536 : Nat) : Int) ≤ e1.adj → timeOf96 time ≤ s.chip.tb16 + 1000000000 * 65536 →
      (SMap.get s.chip.evos n).queue.length < 16 →
      (∀ e ∈ q, ∀ o ∈ (SMap.get s.chip.evos n).queue.flatten, 512 * 65536 < (e.adj - o.adj).natAbs * 100) →
      let x := (s.chip.updEvo n fun o => { o with queue := insertReq q o.queue }).showQueued n
      s.chip.changeFail x (.objWrite r [w]) = none →
      ∃ t, exec i s = .next t ∧ t.pending = s.pending ∧ x.answers t.chip r 0x0102 .ok [])

/-- OBJ_WRITE (R5, R400) of one element of an attribute without effects of its own: every writable field takes its new value under value and
mask (a W1C field loses the bits written 1), the reply is OK, and no field outside the attribute changes but by reports. -/
def Obligations.ObjWriteStores : Prop :=
  ∀ (r : Req) (w : ObjWrite) (a : AttrDef) (i e v m : Nat) (s : State),
    s.chip.ready r (.objWrite r [w]) → s.chip.writesFail r [w] = none → s.chip.parseWrite w = .ok (a, i, [(e, v, m)]) → objCls w.obj ≠ Cls.REF →
    actsOnly a.cls a.attr = false → (a.cls, a.attr) ∉ [(Cls.DEV, 0x28), (Cls.TBL, 0x02), (Cls.PORT, 0x52), (Cls.DEV, 0x7A)] →
    s.chip.on Reg.THERM_STATUS_TRIP = false → s.chip.changeFail (s.chip.writeElem a i e v m) (.objWrite r [w]) = none →
    ∃ t, exec (.objWrite r [w]) s = .next t ∧ t.pending = s.pending ∧ Out.reply r 0x0102 .ok r.txn s.chip.tb16 [] ∈ t.chip.outs ∧
      (∀ F ∈ a.flds, F.acc.writable = true → F.id ∉ reportIds → F.id ∉ steadyIds →
        t.chip.rd F i e = fieldNew (s.chip.rd F i e) v m F % 2 ^ F.width) ∧
      ∀ F j f, F.id ∉ a.flds.map Fld.id → F.id ∉ reportIds → F.id ∉ steadyIds → t.chip.rd F j f = s.chip.rd F j f

/-- ARB_FREEZE_SET and ARB_FREEZE_CLEAR (R47): FREEZE is written, the freeze shows at once, and with no request present nothing else moves. -/
def Obligations.FreezeWrites : Prop :=
  ∀ (r : Req) (a : Fin 142) (s : State) (w : Bool → ObjWrite), s.Limits →
    (∀ b, w b = { obj := objId Cls.DEV 0 0x28, elem := some (a.val, 1), value := bytesOfNat 4 (if b then 2 ^ 31 else 0), mask := some (bytesOfNat 4 (2 ^ 31)) }) →
    (∀ x, s.chip.ready r (.objWrite r [w true]) → s.chip.on Reg.ARB_CFG_FREEZE 0 a = false →
      x = Chip.arbFreezeHook s.chip (s.chip.writeElem Attr.ARB_CFG 0 a (2 ^ 31) (2 ^ 31)) a → s.chip.changeFail x (.objWrite r [w true]) = none →
      ∃ t, exec (.arbFreezeSet r a) s = .next t ∧ t.pending = s.pending ∧ Out.reply r 0x0102 .ok r.txn s.chip.tb16 [] ∈ t.chip.outs ∧
        t.chip.on Reg.ARB_CFG_FREEZE 0 a = true ∧ t.chip.on Reg.ARB_STATUS_FROZEN 0 a = true ∧
        t.chip.rd Reg.ARB_CFG_WAIT_LIMIT 0 a = s.chip.rd Reg.ARB_CFG_WAIT_LIMIT 0 a ∧
        t.chip.rd Reg.ARB_CFG_FREEZE_WD 0 a = s.chip.rd Reg.ARB_CFG_FREEZE_WD 0 a ∧
        ({ s.chip with arbs := SMap.upd s.chip.arbs a fun y => { y with frozenAt := s.chip.now } } : Chip).reported (places [Reg.ARB_CFG_FREEZE.key 0 a,
          Reg.ARB_CFG_WAIT_LIMIT.key 0 a, Reg.ARB_CFG_FREEZE_WD.key 0 a, Reg.ARB_STATUS_FROZEN.key 0 a, Reg.ARB_STATUS_INTERNAL.key 0 a,
          Reg.ARB_STATUS_DRAINED.key 0 a]) t.chip) ∧
    (∀ x, s.chip.ready r (.objWrite r [w false]) → x = Chip.arbFreezeHook s.chip (s.chip.writeElem Attr.ARB_CFG 0 a 0 (2 ^ 31)) a →
      s.chip.changeFail x (.objWrite r [w false]) = none →
      ∃ t, exec (.arbFreezeClear r a []) s = .next t ∧ t.pending = s.pending ∧ Out.reply r 0x0102 .ok r.txn s.chip.tb16 [] ∈ t.chip.outs ∧
        t.chip.on Reg.ARB_CFG_FREEZE 0 a = false ∧ t.chip.on Reg.ARB_STATUS_FROZEN 0 a = decide (0 < (SMap.get s.chip.arbs a).internal) ∧
        t.chip.rd Reg.ARB_CFG_WAIT_LIMIT 0 a = s.chip.rd Reg.ARB_CFG_WAIT_LIMIT 0 a ∧
        t.chip.rd Reg.ARB_CFG_FREEZE_WD 0 a = s.chip.rd Reg.ARB_CFG_FREEZE_WD 0 a ∧
        s.chip.reported (places [Reg.ARB_CFG_FREEZE.key 0 a, Reg.ARB_CFG_WAIT_LIMIT.key 0 a, Reg.ARB_CFG_FREEZE_WD.key 0 a,
          Reg.ARB_STATUS_FROZEN.key 0 a, Reg.ARB_STATUS_INTERNAL.key 0 a, Reg.ARB_STATUS_DRAINED.key 0 a]) t.chip)

/-- TBL_LOCK_SET, TBL_LOCK_DRAINED, TBL_LOCK_RELEASE and LOCK_EXPIRED (R47, R152): a lock asked for on a free segment is the key slot's own and
freezes the table's arbiters; drained, it stands and the freeze is lifted; released by its slot, or held for LOCK_MS, it is gone. -/
def Obligations.SegmentLocks : Prop :=
  ∀ (tb : Fin 7) (seg : Fin 64) (s : State), s.Limits →
    (∀ (r : Req) (w : ObjWrite) (x : Chip), w = { obj := objId Cls.TBL tb 0x02, elem := none, value := bytesOfNat 8 (2 ^ seg.val), mask := some (bytesOfNat 8 (2 ^ seg.val)) } →
      s.chip.ready r (.objWrite r [w]) → s.chip.writesFail r [w] = none → (s.chip.lock tb seg).state = 0 →
      x = ((s.chip.writeElem Attr.TBL_LOCK tb 0 (2 ^ seg.val) (2 ^ seg.val)).wr Reg.TBL_LOCK 0 tb).lockStart tb seg r.slot →
      s.chip.changeFail x (.objWrite r [w]) = none →
      ∃ t, exec (.tblLockSet r tb seg) s = .next t ∧ t.pending = s.pending ∧ Out.reply r 0x0102 .ok r.txn s.chip.tb16 [] ∈ t.chip.outs ∧
        t.chip.lock tb seg = { state := 1, slot := r.slot, since := s.chip.now } ∧
        (∀ b, SMap.get t.chip.arbs b = if b ∈ tblArbs tb then { SMap.get s.chip.arbs b with internal := (SMap.get s.chip.arbs b).internal + 1 } else SMap.get s.chip.arbs b) ∧
        ({ s.chip with
            arbs := t.chip.arbs
            tbl := { s.chip.tbl with locks := SMap.set s.chip.tbl.locks (lockKey tb seg) { state := 1, slot := r.slot, since := s.chip.now } } } : Chip).reported
          (fields [Reg.TBL_LOCK.id, Reg.ARB_STATUS_FROZEN.id, Reg.ARB_STATUS_INTERNAL.id, Reg.ARB_STATUS_DRAINED.id]) t.chip) ∧
    ((s.chip.lock tb seg).state = 1 →
      ∃ t, exec (.tblLockDrained tb seg) s = .next t ∧ t.pending = s.pending ∧
        t.chip.lock tb seg = { s.chip.lock tb seg with state := 2, since := s.chip.now } ∧
        (∀ b, SMap.get t.chip.arbs b = if b ∈ tblArbs tb then { SMap.get s.chip.arbs b with internal := (SMap.get s.chip.arbs b).internal - 1 } else SMap.get s.chip.arbs b) ∧
        ({ s.chip with
            arbs := t.chip.arbs
            tbl := { s.chip.tbl with locks := SMap.set s.chip.tbl.locks (lockKey tb seg) { s.chip.lock tb seg with state := 2, since := s.chip.now } } } : Chip).wrote
          (fields [Reg.ARB_STATUS_FROZEN.id, Reg.ARB_STATUS_INTERNAL.id, Reg.ARB_STATUS_DRAINED.id]) t.chip) ∧
    (∀ (r : Req) (w : ObjWrite) (x : Chip), w = { obj := objId Cls.TBL tb 0x02, elem := none, value := bytesOfNat 8 0, mask := some (bytesOfNat 8 (2 ^ seg.val)) } →
      s.chip.ready r (.objWrite r [w]) → s.chip.writesFail r [w] = none → (s.chip.lock tb seg).state = 2 → (s.chip.lock tb seg).slot = r.slot →
      s.chip.tbl.learnParked = [] →
      x = ((s.chip.writeElem Attr.TBL_LOCK tb 0 0 (2 ^ seg.val)).wr Reg.TBL_LOCK 0 tb).lockEnd tb seg → s.chip.changeFail x (.objWrite r [w]) = none →
      ∃ t, exec (.tblLockRelease r tb seg) s = .next t ∧ t.pending = s.pending ∧ Out.reply r 0x0102 .ok r.txn s.chip.tb16 [] ∈ t.chip.outs ∧
        t.chip.lock tb seg = default ∧
        ({ s.chip with tbl := { s.chip.tbl with locks := SMap.set s.chip.tbl.locks (lockKey tb seg) default } } : Chip).reported (fields [Reg.TBL_LOCK.id]) t.chip) ∧
    ((s.chip.lock tb seg).state = 2 → (s.chip.lock tb seg).since + unitsMs (s.chip.rd Reg.LOCK_MS tb) ≤ s.chip.now → s.chip.tbl.learnParked = [] →
      ∃ t, exec (.lockExpired tb seg) s = .next t ∧ t.pending = s.pending ∧ t.chip.lock tb seg = default ∧
        ({ s.chip with tbl := { s.chip.tbl with locks := SMap.set s.chip.tbl.locks (lockKey tb seg) default } } : Chip).reported (fun _ => False) t.chip)

/-- TIME_STEP, TIME_INCR, REF_FORCE and JUMP_ACCEPT outside a transaction (R165, R166, R169 to R171, R238): a step the guard lets pass waits for its tick; in
mode 1 ADJ takes ADJ_NEW and its DURATION runs; a selector is forced as its ACTION says; a refused jump is dropped, or waits for its tick as a step. -/
def Obligations.TimeCommands : Prop :=
  ∀ (r : Req) (s : State),
    (∀ o : Int, s.chip.ready r (.timeStep r (.offset o)) → -(2 ^ 63 : Int) ≤ o → o < 2 ^ 63 → s.chip.stepNegative o = false →
      s.chip.jumpRefused o = false →
      let x := { s.chip with time := { s.chip.time with steps := s.chip.time.steps ++ [{ offset := o, source := 1, req := some r }] } }
      s.chip.changeFail x (.timeStep r (.offset o)) = none → fitsRoom (x.replyRoom r.via) [tlvOffset o] = true →
      ∃ t, exec (.timeStep r (.offset o)) s = .next t ∧ t.pending = s.pending ∧ x.answered t.chip r 0x0402 .ok [tlvOffset o]) ∧
    (∀ (a b : Int) (n : Nat), s.chip.ready r (.timeIncr r a n b) → s.chip.rd Reg.SERVO_CTRL_SERVO_MODE = 1 →
      a.natAbs ≤ ppbUnits (s.chip.rd Reg.SERVO_CTRL_MAX_ADJ) → b.natAbs ≤ ppbUnits (s.chip.rd Reg.SERVO_CTRL_MAX_ADJ) → n < 2 ^ 32 →
      let x := { s.chip with time := { s.chip.time with durOn := decide (0 < n), durLeft := n, durAfter := b } }.wrS Reg.ADJ a
      s.chip.changeFail x (.timeIncr r a n b) = none →
      ∃ t, exec (.timeIncr r a n b) s = .next t ∧ t.pending = s.pending ∧ t.chip.rdS Reg.ADJ = a ∧ x.answered t.chip r 0x0403 .ok []) ∧
    (∀ (time : Bool) (act ref : Nat), s.chip.ready r (.refForce r time act ref) → s.chip.forceBad (b2n time) act ref = false →
      s.chip.changeFail (s.chip.forceSel (b2n time) act ref) (.refForce r time act ref) = none →
      ∃ t, exec (.refForce r time act ref) s = .next t ∧ t.pending = s.pending ∧
        (s.chip.forceSel (b2n time) act ref).answered t.chip r 0x0404 .ok []) ∧
    (∀ (id act : Nat) (o : Int), s.chip.ready r (.jumpAccept r id act) → id ≠ 0 → id = s.chip.rd Reg.PENDING_JUMP_JUMP_ID →
      s.chip.rd Reg.PENDING_JUMP_SOURCE ≠ 4 → o = s.chip.rdS Reg.PENDING_JUMP_OFFSET →
      (act = 1 → s.chip.changeFail s.chip.clearJump (.jumpAccept r id act) = none →
        ∃ t, exec (.jumpAccept r id act) s = .next t ∧ t.pending = s.pending ∧ t.chip.rd Reg.PENDING_JUMP_JUMP_ID = 0 ∧
          t.chip.on Reg.TIME_STATUS_TIME_JUMP_REFUSED = false ∧ s.chip.clearJump.answered t.chip r 0x0405 .ok []) ∧
      (act = 0 → s.chip.stepNegative o = false →
        let x := { s.chip.clearJump with time := { s.chip.time with steps := s.chip.time.steps ++ [{ offset := o, source := s.chip.rd Reg.PENDING_JUMP_SOURCE, req := some r, jump := true }] } }
        s.chip.changeFail x (.jumpAccept r id act) = none → fitsRoom (x.replyRoom r.via) [tlvOffset o] = true →
        ∃ t, exec (.jumpAccept r id act) s = .next t ∧ t.pending = s.pending ∧ t.chip.rd Reg.PENDING_JUMP_JUMP_ID = 0 ∧
          t.chip.on Reg.TIME_STATUS_TIME_JUMP_REFUSED = false ∧ x.answered t.chip r 0x0405 .ok [tlvOffset o]))

/-- CNT_SNAPSHOT, JRN_MARK, LULL_CTRL and LOOPBACK (R62, R69, R394, R434, R437): the counters are copied at the next tick; a KIND 2 record is written and
its SEQ answered; the Lull test is set as its word says; the lanes named are looped back. -/
def Obligations.RecordAndTestCommands : Prop :=
  ∀ (r : Req) (s : State),
    (s.chip.mayRun r (.cntSnapshot r) = true → r.txn = 0 →
      fitsRoom ((s.chip.snapshot (s.chip.nextTb / 2 ^ 24)).replyRoom r.via) [tlvTime (time96 (s.chip.nextTb / 2 ^ 24))] = true →
      ∃ t, exec (.cntSnapshot r) s = .next t ∧ t.pending = s.pending ∧
        (s.chip.snapshot (s.chip.nextTb / 2 ^ 24)).answered t.chip r 0x0601 .ok [tlvTime (time96 (s.chip.nextTb / 2 ^ 24))]) ∧
    (∀ (v : Nat) (b : Bytes), s.chip.mayRun r (.jrnMark r v b) = true → r.txn = 0 → s.chip.on Reg.JRN_STATUS_COMMIT_HOLD = false →
      b.length ≤ 256 → v < 2 ^ 32 →
      fitsRoom ((s.chip.jrnCmd r 2 0x0702 0 v b).replyRoom r.via) [tlvJseq (s.chip.rd Reg.JRN_STATUS_NEXT_SEQ)] = true →
      ∃ t, exec (.jrnMark r v b) s = .next t ∧ t.pending = s.pending ∧
        (s.chip.jrnCmd r 2 0x0702 0 v b).answered t.chip r 0x0702 .ok [tlvJseq (s.chip.rd Reg.JRN_STATUS_NEXT_SEQ)]) ∧
    (∀ w : Nat, s.chip.ready r (.lullCtrl r w) → bitsOf w 0 16 ≠ 0 → w &&& 0x70FF0000 = 0 → ∀ x : Chip,
      x = ((((((s.chip.flag Reg.LULL_CFG_EN (bitOf w 31)).flag Reg.LULL_CFG_CELLS (bitOf w 27)).flag Reg.LULL_CFG_SCRUB (bitOf w 26)).flag
        Reg.LULL_CFG_TDC (bitOf w 25)).flag Reg.LULL_CFG_ENGINES (bitOf w 24)).wr Reg.LULL_CFG_PERIOD_S (bitsOf w 0 16)).flag Reg.LULL_STATUS_RUNNING (bitOf w 31) →
      s.chip.changeFail x (.lullCtrl r w) = none →
      ∃ t, exec (.lullCtrl r w) s = .next t ∧ t.pending = s.pending ∧ t.chip.on Reg.LULL_CFG_EN = bitOf w 31 ∧ t.chip.on Reg.LULL_CFG_CELLS = bitOf w 27 ∧
        t.chip.on Reg.LULL_CFG_SCRUB = bitOf w 26 ∧ t.chip.on Reg.LULL_CFG_TDC = bitOf w 25 ∧ t.chip.on Reg.LULL_CFG_ENGINES = bitOf w 24 ∧
        t.chip.rd Reg.LULL_CFG_PERIOD_S = bitsOf w 0 16 ∧ t.chip.on Reg.LULL_STATUS_RUNNING = bitOf w 31 ∧ x.answered t.chip r 0x0B03 .ok []) ∧
    (∀ (w n kind p : Nat) (x : Chip), s.chip.ready r (.loopback r w) → s.chip.loopOk w = true → n = bitsOf w 0 10 → kind = bitsOf w 28 2 →
      p = (if n = 512 then 512 else s.chip.laneToPort n) → (kind = 0 ∨ s.chip.timingPort p = false) →
      x = s.chip.setLoop p kind (if bitOf w 31 then s.chip.portLanes p else [n]) → s.chip.changeFail x (.loopback r w) = none →
      ∃ t, exec (.loopback r w) s = .next t ∧ t.pending = s.pending ∧ x.answered t.chip r 0x0B04 .ok [])

/-- CAL_RUN, CAL_RUN_DONE, CAL_COMMIT, DIAG_CAPTURE and DIAG_CAPTURE_DONE (R428 to R431, R439): a run accepted waits, parked, for its measurements;
done, its accepted items are candidates and each item has its record in the reply; a commit puts them into their attributes and into the other copy
of the calibration set with CAL_COUNT one up; a capture accepted waits, of a stretch of cycle memory and of an engine too where they are at rest, and is
answered with its bytes, or writes them to the host's buffer. -/
def Obligations.CalibrationAndCapture : Prop :=
  ∀ (r : Req) (s : State),
    (∀ (cal : Nat) (x : Chip), s.chip.mayRun r (.calRun r cal) = true → r.txn = 0 → calRangeOk cal = true → calReservedOk cal = true → s.chip.cal.run = none →
      s.chip.parkedFull = false →
      s.chip.rd Reg.SEL_STATUS_FSTATE = 2 → s.chip.rd Reg.SEL_STATUS_FREF = 0 → s.chip.rd Reg.SEL_STATUS_TSTATE = 2 → s.chip.rd Reg.SEL_STATUS_TREF = 4 →
      (calProc cal = 1 → ∀ n ∈ calItems cal, 40 ≤ n → s.chip.rd Reg.CKO_ALIGN_ALIGN (n - 24) = 2) → s.chip.calTaken cal = none →
      x = { s.chip.flag Reg.CAL_STATUS_RUNNING true with
        cal := { s.chip.cal with run := some (r, cal) }, parked := s.chip.parked ++ [{ cmd := .calRun r cal, deadline := 0, tag := 0 }] } →
      ∃ t, exec (.calRun r cal) s = .next t ∧ t.pending = s.pending ∧ t.chip = x.steady ∧ t.chip.on Reg.CAL_STATUS_RUNNING = true) ∧
    (∀ (q : Req) (cal : Nat) (ms : List CalMeas) (new : List CalVal) (x : Chip), s.chip.cal.run = some (q, cal) →
      new = (((calItems cal).zip ms).filter fun y => (s.chip.calJudge (calProc cal) y.2).1 == 0 && calProc cal != 3).map
        (fun y => { obj := calObj (calProc cal) y.1, val := calAttr (calProc cal) (s.chip.calJudge (calProc cal) y.2).2.1, proc := calProc cal }) →
      x = (({ s.chip with cal := { s.chip.cal with run := none, cands := (s.chip.cal.cands.filter fun (v : CalVal) => !(new.any fun (w : CalVal) => w.obj == v.obj)) ++ new } }.flag
        Reg.CAL_STATUS_RUNNING false).flag Reg.CAL_STATUS_CANDIDATES (!((s.chip.cal.cands.filter fun (v : CalVal) => !(new.any fun (w : CalVal) => w.obj == v.obj)) ++ new).isEmpty)).unpark 0x0B01 q →
      ∃ t l, exec (.calRunDone ms) s = .next t ∧ t.pending = s.pending ∧ t.chip.on Reg.CAL_STATUS_RUNNING = false ∧
        l = ((calItems cal).zip ms).map (fun y => s.chip.calRecord (calProc cal) y.1 y.2) ∧
        x.answered t.chip q 0x0B01 .ok [tlvData (32 * l.length) (joinElems 32 l) 256]) ∧
    (∀ (cal : Nat) (new : List CalVal) (n : CalSet) (x : Chip), s.chip.ready r (.calCommit r cal) → (calProc cal ≤ 3 ∨ calProc cal = 255) → calReservedOk cal = true →
      new = s.chip.cal.cands.filter (fun (v : CalVal) => calProc cal == 255 || v.proc == calProc cal) → new ≠ [] →
      n = { valid := true, count := ((s.chip.cal.newest.getD {}).count + 1) % 2 ^ 32, lastTime := time96 (s.chip.nextTb / 2 ^ 24),
            recs := calMerge (s.chip.cal.newest.getD {}).recs new } →
      x = (((({ s.chip.each new (fun (v : CalVal) c => c.putCal v) with
          cal := { (s.chip.each new fun (v : CalVal) c => c.putCal v).cal.store n with cands := s.chip.cal.cands.filter fun (v : CalVal) => !(calProc cal == 255 || v.proc == calProc cal) } }.flag
        Reg.CAL_STATUS_CAL_VALID true).flag Reg.CAL_STATUS_CANDIDATES (!(s.chip.cal.cands.filter fun (v : CalVal) => !(calProc cal == 255 || v.proc == calProc cal)).isEmpty)).flag
        Reg.CAL_STATUS_OVERRIDE false).wr Reg.CAL_STATUS_CAL_COUNT n.count).wr Reg.CAL_LAST n.lastTime →
      s.chip.changeFail x (.calCommit r cal) = none →
      ∃ t, exec (.calCommit r cal) s = .next t ∧ t.pending = s.pending ∧ t.chip.on Reg.CAL_STATUS_CAL_VALID = true ∧
        t.chip.rd Reg.CAL_STATUS_CAL_COUNT = n.count % 65536 ∧ x.answered t.chip r 0x0B02 .ok []) ∧
    (∀ (w : Nat) (host : Option (Nat × Nat)), s.chip.mayRun r (.diagCapture r w host) = true → r.txn = 0 → captureOk w = true →
      (captureNeedsHost w = true → host ≠ none) → s.chip.diag = none → s.chip.parkedFull = false →
      (bitsOf w 24 8 = 1 → s.chip.captureBlocked (bitsOf w 18 6) (captureStart w) (captureLen w) = false) →
      (bitsOf w 24 8 = 2 → s.chip.rd Reg.ENG_STATUS_STATE (256 + bitsOf w 0 6) = 0 ∨ s.chip.rd Reg.ENG_STATUS_STATE (256 + bitsOf w 0 6) = 6) →
      ∃ t, exec (.diagCapture r w host) s = .next t ∧ t.pending = s.pending ∧
        t.chip = Chip.steady { s.chip with diag := some (r, w, host), parked := s.chip.parked ++ [{ cmd := .diagCapture r w host, deadline := 0, tag := 0 }] }) ∧
    (∀ (q : Req) (w : Nat) (sensed : Bytes), (bitsOf w 24 8 = 1 → s.chip.captureHeld (bitsOf w 18 6) = false) →
      (s.chip.diag = some (q, w, none) → ∃ t, exec (.diagCaptureDone sensed) s = .next t ∧ t.pending = s.pending ∧
        (({ s.chip with diag := none } : Chip).unpark 0x0B05 q).answered t.chip q 0x0B05 .ok
          [tlvData (s.chip.captureBytes w sensed).length (natOfBytes (s.chip.captureBytes w sensed)) 256]) ∧
      (∀ addr len : Nat, s.chip.diag = some (q, w, some (addr, len)) → ∃ t, exec (.diagCaptureDone sensed) s = .next t ∧ t.pending = s.pending ∧
        ((({ s.chip with diag := none } : Chip).unpark 0x0B05 q).emit (.hostWrite addr ((s.chip.captureBytes w sensed).take len))).answered t.chip q 0x0B05 .ok []))

/-- Each command of calibration, capture and the Lull test comes to its next state (R425, R426, R428 to R431, R433, R434, R439): CAL_RUN accepted, for each of its
four procedures; CAL_RUN_DONE with a run waiting; CAL_COMMIT with candidates of its procedure; DIAG_CAPTURE accepted, for each of its scopes; DIAG_CAPTURE_DONE with a
capture waiting and its bank free; and, with LULL_CFG enabling it, each test of the Lull test with each outcome: one that passes, or finds nothing, changes nothing,
one that finds a fault counts it and shows it, and a failing cell is retired while MRAM has room for it. -/
def Obligations.CalibrationAndTestsComplete : Prop :=
  ∀ (s : State) (go : Chip → State), go = (fun c => { s with chip := c.steady }) →
    (∀ (r : Req) (cal : Nat), s.chip.mayRun r (.calRun r cal) = true → r.txn = 0 → calRangeOk cal = true → calReservedOk cal = true → s.chip.cal.run = none →
      s.chip.parkedFull = false → s.chip.rd Reg.SEL_STATUS_FSTATE = 2 → s.chip.rd Reg.SEL_STATUS_FREF = 0 → s.chip.rd Reg.SEL_STATUS_TSTATE = 2 →
      s.chip.rd Reg.SEL_STATUS_TREF = 4 → (calProc cal = 1 → ∀ n ∈ calItems cal, 40 ≤ n → s.chip.rd Reg.CKO_ALIGN_ALIGN (n - 24) = 2) → s.chip.calTaken cal = none →
      exec (.calRun r cal) s = .next (go (({ s.chip with cal := { s.chip.cal with run := some (r, cal) } }.flag Reg.CAL_STATUS_RUNNING true).park r (.calRun r cal) 0 0))) ∧
    (∀ (q : Req) (cal : Nat) (ms : List CalMeas), s.chip.cal.run = some (q, cal) → ∃ t, exec (.calRunDone ms) s = .next t ∧ t.pending = s.pending ∧
      t.chip.cal.run = none ∧ t.chip.on Reg.CAL_STATUS_RUNNING = false ∧ t.chip.on Reg.CAL_STATUS_CANDIDATES = !t.chip.cal.cands.isEmpty ∧
      (calProc cal = 3 → t.chip.cal.cands = s.chip.cal.cands)) ∧
    (∀ (r : Req) (cal : Nat) (v : CalVal) (x : Res), s.chip.ready r (.calCommit r cal) → (calProc cal ≤ 3 ∨ calProc cal = 255) → calReservedOk cal = true →
      v ∈ s.chip.cal.cands → (calProc cal = 255 ∨ v.proc = calProc cal) → x = s.chip.calBody cal → s.chip.changeFail x.chip (.calCommit r cal) = none →
      ∃ t, exec (.calCommit r cal) s = .next t ∧ t.pending = s.pending ∧ t.chip.on Reg.CAL_STATUS_CAL_VALID = true ∧ t.chip.on Reg.CAL_STATUS_OVERRIDE = false ∧
        (∀ w ∈ t.chip.cal.cands, calProc cal ≠ 255 ∧ w.proc ≠ calProc cal ∧ w ∈ s.chip.cal.cands)) ∧
    (∀ (r : Req) (w : Nat) (host : Option (Nat × Nat)), s.chip.mayRun r (.diagCapture r w host) = true → r.txn = 0 → captureOk w = true →
      (captureNeedsHost w = true → host ≠ none) → s.chip.diag = none → s.chip.parkedFull = false →
      (bitsOf w 24 8 = 1 → s.chip.captureBlocked (bitsOf w 18 6) (captureStart w) (captureLen w) = false) →
      (bitsOf w 24 8 = 2 → s.chip.rd Reg.ENG_STATUS_STATE (256 + bitsOf w 0 6) = 0 ∨ s.chip.rd Reg.ENG_STATUS_STATE (256 + bitsOf w 0 6) = 6) →
      exec (.diagCapture r w host) s = .next (go (({ s.chip with diag := some (r, w, host) } : Chip).park r (.diagCapture r w host) 0 0))) ∧
    (∀ (q : Req) (w : Nat) (host : Option (Nat × Nat)) (sensed : Bytes), s.chip.diag = some (q, w, host) →
      (bitsOf w 24 8 = 1 → s.chip.captureHeld (bitsOf w 18 6) = false) →
      ∃ t, exec (.diagCaptureDone sensed) s = .next t ∧ t.pending = s.pending ∧ t.chip.diag = none) ∧
    (s.chip.on Reg.LULL_CFG_EN = true →
      (∀ cell : Nat, s.chip.on Reg.LULL_CFG_CELLS = true → s.chip.cellTestable cell = true →
        exec (.lullCellTest cell true) s = .next (go s.chip) ∧
        (s.chip.lull.retired.length < 4096 → ∃ t, exec (.lullCellTest cell false) s = .next t ∧ t.pending = s.pending ∧
          t.chip.lull.retired = cell :: s.chip.lull.retired ∧ t.chip.on Reg.LULL_STATUS_RETIRE_FULL = decide (s.chip.lull.retired.length = 4095)) ∧
        (4096 ≤ s.chip.lull.retired.length → exec (.lullCellTest cell false) s =
          .next (go (((s.chip.count Ev.LULL_CELL_BAD).lullFault 1 0 cell 0).flag Reg.LULL_STATUS_RETIRE_FULL true)))) ∧
      (∀ (tb : Fin 7) (i : Nat), s.chip.on Reg.LULL_CFG_SCRUB = true → s.chip.locked tb i = false → s.chip.arbFrozen (tblArb tb i) = false →
        exec (.lullScrub tb i .clean) s = .next (go s.chip) ∧ exec (.lullScrub tb i .corrected) s = .next (go (s.chip.count Ev.LULL_ECC_CORR)) ∧
        ∃ t, exec (.lullScrub tb i .uncorrectable) s = .next t ∧ t.pending = s.pending ∧ (tb.val, i) ∈ t.chip.lull.badWords ∧
          ∀ w ∈ s.chip.lull.badWords, w ∈ t.chip.lull.badWords) ∧
      (∀ (ch : Nat) (dev : Int), s.chip.on Reg.LULL_CFG_TDC = true →
        exec (.lullTdcPulse ch dev) s = .next (go (if dev.natAbs * 1000 ≤ 6 * 1024 then s.chip
          else ((s.chip.count Ev.LULL_TDC_DEVIATE).flag Reg.LULL_STATUS_TDC_DEVIATE true).lullFault 3 0 ch dev))) ∧
      (∀ (e : Fin 64) (pass : Bool), s.chip.on Reg.LULL_CFG_ENGINES = true → s.chip.on Reg.ENG_CFG_EN (256 + e) = false →
        exec (.lullEngineTest e pass) s = .next (go (if pass then s.chip
          else ((s.chip.count Ev.LULL_ENG_FAIL).flag Reg.LULL_STATUS_ENGINE_FAULT true).lullFault 4 0 e 0))))

/-- TBL_INSERT, TBL_DELETE, TBL_DMA and QUEUE_FLUSH outside a transaction (R106, R135, R154, R402): a write of table 0 comes after the learning requests confirmed
before it; an entry accepted stands at the index the reply names; an entry deleted is gone, an absent one changes nothing; a transfer in the packet writes or answers
its segment's entries; a flush answers the frames and cells it removed. Each changed thing leaves its record and its reply, and nothing else changes. -/
def Obligations.TableCommands : Prop :=
  ∀ (r : Req) (s : State),
    (∀ (tb e n : Nat) (idx : Option Nat) (x : Chip), s.chip.ready r (.tblInsert r tb e idx) → s.chip.insertOk tb e idx = true →
      (s.chip.learnFirst tb).insertNow tb e (idx.getD 0) = .ok (n, x) → s.chip.changeFail x (.tblInsert r tb e idx) = none →
      fitsRoom (x.replyRoom r.via) [tlvIndex n] = true →
      ∃ t, exec (.tblInsert r tb e idx) s = .next t ∧ t.pending = s.pending ∧ x.answered t.chip r 0x0301 .ok [tlvIndex n] ∧
        (5 ≤ tb → t.chip.ent tb 0 n = e ∧ t.chip.ent tb 1 n = e) ∧
        (2 ≤ tb → tb ≤ 4 → t.chip.ent tb 0 n = if e = 0 then 0 else s.chip.stored tb n e 3)) ∧
    (∀ (tb n : Nat) (sel : TblSel) (d : Chip), s.chip.ready r (.tblDelete r tb sel) → selOk tb sel = true → s.chip.devTarget tb sel = false → d = s.chip.learnFirst tb →
      (d.selIndex tb sel = some n → d.locked tb n = false → s.chip.changeFail (d.deleteNow tb n) (.tblDelete r tb sel) = none →
        fitsRoom ((d.deleteNow tb n).replyRoom r.via) [tlvIndex n] = true →
        ∃ t, exec (.tblDelete r tb sel) s = .next t ∧ t.pending = s.pending ∧ (d.deleteNow tb n).answered t.chip r 0x0302 .ok [tlvIndex n] ∧
          (tb ≠ 1 → t.chip.ent tb 0 n = 0)) ∧
      (d.selIndex tb sel = none → s.chip.changeFail d (.tblDelete r tb sel) = none →
        ∃ t, exec (.tblDelete r tb sel) s = .next t ∧ t.pending = s.pending ∧ d.answered t.chip r 0x0302 .ok [])) ∧
    (∀ (tb first n : Nat) (stamps : Bool) (d : Bytes), s.chip.ready r (.tblDma r tb 0 first n true stamps (some d)) →
      s.chip.dmaFail r tb 0 first n stamps (some d) true = none →
      s.chip.changeFail (s.chip.dmaWrite tb stamps (dmaItems tb 0 first n stamps d)) (.tblDma r tb 0 first n true stamps (some d)) = none →
      ∃ t, exec (.tblDma r tb 0 first n true stamps (some d)) s = .next t ∧ t.pending = s.pending ∧
        (s.chip.dmaWrite tb stamps (dmaItems tb 0 first n stamps d)).answered t.chip r 0x0304 .ok []) ∧
    (∀ (tb first n : Nat) (stamps : Bool), s.chip.mayRun r (.tblDma r tb 0 first n false stamps none) = true → r.txn = 0 →
      dmaOk r tb 0 first n false stamps none false = true → s.chip.domainOff (.tblDma r tb 0 first n false stamps none) = false → s.chip.dmaLocked r tb first = true →
      fitsRoom (s.chip.replyRoom r.via) [tlvData (n * dmaSize tb stamps) (natOfBytes (s.chip.dmaRead tb 0 first n stamps)) (dmaSize tb stamps)] = true →
      ∃ t, exec (.tblDma r tb 0 first n false stamps none) s = .next t ∧ t.pending = s.pending ∧
        s.chip.answered t.chip r 0x0304 .ok [tlvData (n * dmaSize tb stamps) (natOfBytes (s.chip.dmaRead tb 0 first n stamps)) (dmaSize tb stamps)]) ∧
    (∀ (all : Bool) (n f m : Nat) (x : Chip), s.chip.ready r (.queueFlush r all n) → flushOk all n = true → s.chip.flushNow all n = (f, m, x) →
      s.chip.changeFail x (.queueFlush r all n) = none → fitsRoom (x.replyRoom r.via) [tlvCounts f m] = true →
      ∃ t, exec (.queueFlush r all n) s = .next t ∧ t.pending = s.pending ∧ x.answered t.chip r 0x0306 .ok [tlvCounts f m])

/-- TBL_DMA over a host buffer, its transfer's end, and TBL_BARRIER with its two ends (R154, R160, R364): the request waits; its transfer writes the
table as sent, or the host buffer, and it replies; a barrier notes the last key point and its deadline, replies OK once every frame before it has left, and
BUSY with the frames held at its timeout. -/
def Obligations.TransfersAndBarriers : Prop :=
  ∀ (r : Req) (s : State),
    (∀ (tb host first n : Nat) (write stamps : Bool), s.chip.mayRun r (.tblDma r tb host first n write stamps none) = true → r.txn = 0 → host ≠ 0 →
      dmaOk r tb host first n write stamps none false = true → s.chip.domainOff (.tblDma r tb host first n write stamps none) = false →
      s.chip.dmaLocked r tb first = true → s.chip.parkedFull = false →
      ∃ t, exec (.tblDma r tb host first n write stamps none) s = .next t ∧ t.pending = s.pending ∧
        t.chip = Chip.steady { s.chip with
          parked := s.chip.parked ++ [{ cmd := .tblDma r tb host first n write stamps none, deadline := 0, tag := transferTag }] }) ∧
    (∀ (tb host first n k dl : Nat) (stamps : Bool) (data : Bytes), s.chip.parked[k]? = some { cmd := .tblDma r tb host first n false stamps none, deadline := dl, tag := transferTag } →
      s.chip.dmaLocked r tb first = true →
      let x : Chip := ({ s.chip with parked := s.chip.parked.eraseIdx k } : Chip).emit (.hostWrite host (s.chip.dmaRead tb host first n stamps))
      ∃ t, exec (.tblDmaDone k data) s = .next t ∧ t.pending = s.pending ∧
        Out.hostWrite host (s.chip.dmaRead tb host first n stamps) ∈ t.chip.outs ∧ x.answered t.chip r 0x0304 .ok []) ∧
    (∀ (tb host first n k dl : Nat) (stamps : Bool) (data : Bytes) (c x : Chip), s.chip.parked[k]? = some { cmd := .tblDma r tb host first n true stamps none, deadline := dl, tag := transferTag } →
      data.length = n * dmaSize tb stamps → c = { s.chip with parked := s.chip.parked.eraseIdx k } →
      c.ready r (.tblDma r tb host first n true stamps (some data)) → c.dmaFail r tb host first n stamps (some data) true = none →
      x = c.dmaWrite tb stamps (dmaItems tb host first n stamps data) → c.changeFail x (.tblDma r tb host first n true stamps (some data)) = none →
      ∃ t, exec (.tblDmaDone k data) s = .next t ∧ t.pending = s.pending ∧ x.answered t.chip r 0x0304 .ok []) ∧
    (∀ (timeout : Option Nat), s.chip.mayRun r (.tblBarrier r timeout) = true → r.txn = 0 → timeout.getD 1000 ≠ 0 → timeout.getD 1000 ≤ 60000 →
      s.chip.tbl.barriers.length < 4 → s.chip.parkedFull = false →
      ∃ t, exec (.tblBarrier r timeout) s = .next t ∧ t.pending = s.pending ∧
        t.chip = Chip.steady { s.chip with tbl := { s.chip.tbl with
          barriers := s.chip.tbl.barriers ++ [{ req := r, keyNo := s.chip.path.keyCtr, deadline := s.chip.now + timeout.getD 1000 * 100000000 }] } }) ∧
    (∀ (b : Barrier) (l : List Barrier), s.chip.tbl.barriers = b :: l →
      (∀ f ∈ s.chip.path.frames, f.origin = .received → 1 ≤ f.stage → f.keyNo = 0 ∨ b.keyNo < f.keyNo) →
      ∃ t, exec .tblBarrierDone s = .next t ∧ t.pending = s.pending ∧
        ({ s.chip with tbl := { s.chip.tbl with barriers := l } } : Chip).answered t.chip b.req 0x0305 .ok []) ∧
    (∀ (n : Nat) (b : Barrier), s.chip.tbl.barriers[n]? = some b → b.deadline ≤ s.chip.now → s.chip.barrierHeld b ≠ 0 →
      ∃ t, exec (.tblBarrierTimeout n) s = .next t ∧ t.pending = s.pending ∧
        ({ s.chip with tbl := { s.chip.tbl with barriers := s.chip.tbl.barriers.eraseIdx n } } : Chip).answered t.chip b.req 0x0305 .busy [tlvHeld (s.chip.barrierHeld b)])

/-- LEARN_REQUEST_APPLY, AGE_VISIT, SEQ_HISTORY_RESET and TBL_CLEANUP (R136, R150, R153, R156, R157, R159): the oldest request is applied: a new station becomes a
TYPE 1 entry and counts LEARN_NEW, a known one takes the current stamp; a visit removes exactly the bucket's TYPE 1 entries of age AGE_TIME or more; a
silent recovery function starts over and counts SEQ_RESET; 200 ns after its flip a prepared entry of tables 2 to 4 becomes ordinary. -/
def Obligations.LearningAndAgeing : Prop :=
  ∀ s : State,
    (∀ (q : LearnReq) (l : List LearnReq) (d : Chip), s.chip.tbl.learnQ = q :: l → d = { s.chip with tbl := { s.chip.tbl with learnQ := l } } → s.chip.keyTouched (0, q.sa, q.vid) = false → s.chip.learnLocked q = false → s.chip.learnFrozen q = false →
      (∀ (i : Nat) (c : Chip), d.emFind (d.gen 0) (0, q.sa, q.vid) = none →
        d.emPlace (0, q.sa, q.vid) 1 = some (i, c) →
        ∃ t, exec .learnRequestApply s = .next t ∧ t.pending = s.pending ∧
          t.chip.ent 0 0 i = Lay.EM_VIS.put 3 + Lay.EM_TYPE.put 1 + Lay.EM_MAC.put q.sa + Lay.EM_VID.put q.vid + emGrp.put (b2n q.grp) + emDest.put q.dest +
            Lay.EM_LAST_HIT.put s.chip.stampNow ∧ t.chip.tbl.learnQ = c.tbl.learnQ ∧ (∀ j, j ≠ i → t.chip.ent 0 0 j = c.ent 0 0 j)) ∧
      (∀ i : Nat, d.emFind (d.gen 0) (0, q.sa, q.vid) = some i → emGrp.get (s.chip.ent 0 0 i) = b2n q.grp → emDest.get (s.chip.ent 0 0 i) = q.dest →
        Lay.EM_LAST_HIT.get (s.chip.ent 0 0 i) ≠ s.chip.stampNow →
        ∃ t, exec .learnRequestApply s = .next t ∧ t.pending = s.pending ∧ t.chip.tbl.learnQ = l ∧
          t.chip.ent 0 0 i = Lay.EM_LAST_HIT.set (s.chip.ent 0 0 i) s.chip.stampNow ∧ (∀ j, j ≠ i → t.chip.ent 0 0 j = s.chip.ent 0 0 j))) ∧
    (∀ b : Fin 65536, s.chip.on Reg.EM_CTRL_AGE_EN = true → s.chip.locked 0 (b * 4) = false → s.chip.arbFrozen (tblArb 0 (b * 4)) = false →
      ∃ t, exec (.ageVisit b) s = .next t ∧ t.pending = s.pending ∧
        ∀ i, t.chip.ent 0 0 i =
          if i / 4 = b ∧ visOf 0 (s.chip.ent 0 0 i) = 3 ∧ Lay.EM_TYPE.get (s.chip.ent 0 0 i) = 1 ∧
            s.chip.rd Reg.EM_CTRL_AGE_TIME ≤ (s.chip.stampNow + 65536 - Lay.EM_LAST_HIT.get (s.chip.ent 0 0 i)) % 65536 then 0
          else s.chip.ent 0 0 i) ∧
    (∀ (i : Fin 4096) (x : Rcov), x = SMap.get s.chip.tbl.rcov i → x.live = true → x.lastAt + unitsMs (Lay.SEQR_RESET_MS.get (s.chip.entNow 4 i)) ≤ s.chip.now →
      ∃ t, exec (.seqHistoryReset i) s = .next t ∧ t.pending = s.pending ∧
        t.chip = Chip.steady (Chip.count { s.chip with
          tbl := { s.chip.tbl with rcov := SMap.set s.chip.tbl.rcov i { x with live := false, seq := 0, hist := 0 } } } Ev.SEQ_RESET i) ∧
        SMap.get t.chip.tbl.rcov i = { x with live := false, seq := 0, hist := 0 }) ∧
    (∀ (tb : Fin 7) (p : Prep), 2 ≤ tb.val → tb.val ≤ 4 → s.chip.tbl.preps = [p] → p.tbl = tb → p.done = true → p.flippedAt + unitsNs 200 ≤ s.chip.now →
      ∃ t, exec (.tblCleanup tb) s = .next t ∧ t.pending = s.pending ∧ t.chip.tbl.preps = [] ∧ t.chip.ent tb 1 p.index = 0 ∧
        t.chip.ent tb 0 p.index = (if s.chip.ent tb 1 p.index = 0 then 0 else setVis tb (s.chip.ent tb 1 p.index) 3))

/-- TXN_BEGIN, a staged command, TXN_STATUS and TXN_ROLLBACK (R375 to R379, R386, R387): a new transaction is open under the next ID; a command that names it is
added to it and changes nothing else; its status is answered; rolled back, by its slot or for having been idle for IDLE_S, it is gone, its prepare undone
and nothing it staged has happened. -/
def Obligations.TransactionsOpen : Prop :=
  ∀ (r : Req) (s : State),
    (s.chip.mayRun r (.txnBegin r) = true → r.txn = 0 → s.chip.txns.length < 4 →
      ∃ t, exec (.txnBegin r) s = .next t ∧ t.pending = s.pending ∧
        Out.reply r 0x0201 .ok (nextTxnId s.chip.txnCtr) s.chip.tb16 [] ∈ t.chip.outs ∧ t.chip.txnCtr = nextTxnId s.chip.txnCtr ∧
        t.chip.txns = s.chip.txns ++ [{ id := nextTxnId s.chip.txnCtr, req := r, lastNamed := s.chip.now }]) ∧
    (∀ (x : Txn), s.chip.txnOf r = some x →
      (∀ i : Instr, i = .queueFlush r true 0 → s.chip.mayRun r i = true → r.txn ≠ 0 → x.state = .opened → x.bytes + 32 + s.chip.stageBytes i ≤ stageLimit →
        ∃ t, exec i s = .next t ∧ t.pending = s.pending ∧
          ((s.chip.updTxn x.id fun y => { y with lastNamed := s.chip.now }).updTxn x.id fun y =>
            { y with staged := y.staged ++ [i], bytes := x.bytes + 32 + s.chip.stageBytes i }).answered t.chip r 0x0306 .ok []) ∧
      (s.chip.mayRun r (.txnStatus r) = true →
        ∃ t, exec (.txnStatus r) s = .next t ∧ t.pending = s.pending ∧
          (s.chip.updTxn x.id fun y => { y with lastNamed := s.chip.now }).answered t.chip r 0x0204 .ok [x.info]) ∧
      (s.chip.mayRun r (.txnRollback r) = true → (x.checked && s.chip.pairOn) = false →
        ∃ t, exec (.txnRollback r) s = .next t ∧ t.pending = s.pending ∧ (∀ y ∈ t.chip.txns, y.id ≠ x.id) ∧
          (((s.chip.undoPrepare x.id).endTxn x .rolledBack).answerParked x.id .txnNone []).answered t.chip r 0x0203 .ok [])) ∧
    (∀ (id : Nat) (x : Txn), s.chip.txns.find? (fun y => y.id == id) = some x → x.state = .opened →
      x.lastNamed + s.chip.rd Reg.TXN_CFG_IDLE_S * 100000000000 ≤ s.chip.now →
      ∃ t e, exec (.txnIdleTimeout id) s = .next t ∧ t.pending = s.pending ∧ (∀ y ∈ t.chip.txns, y.id ≠ id) ∧
        ((((s.chip.configDrop x.id).undoPrepare x.id).endTxn x .rolledBackByDevice).answerParked id .txnNone []).reported (fun _ => False) e ∧ t.chip = e.steady)

/-- TXN_COMMIT, TXN_PREPARE_DONE, TXN_COMMIT_POINT, TXN_SCOPE_ACQUIRED and TXN_LOCK_WAIT_TIMEOUT, outside a pair (R380 to R385, R401): a commit waits, its
request parked, for its scopes in order; once it has them all and its checks pass its tables are prepared; prepared, a NOW commit takes effect and is answered,
an AT_TIME one is scheduled for its TIME and answered; a scheduled one takes effect at its commit point; a command that waited runs once no transaction
holds a scope of it, and one that has waited LOCK_WAIT_MS is answered TXN_CONFLICT. -/
def Obligations.TransactionsCommit : Prop :=
  ∀ s : State,
    (∀ (r : Req) (mode : Nat) (late : Bool) (d : Fin 4) (time : Option Nat) (x : Txn) (l : List Txn) (c : Chip) (held wants : List Scope),
      s.chip.txnOf r = some x → x.state = .opened →
      s.chip.mayRun r (.txnCommit r mode late d time) = true → s.chip.commitBad mode late d time = false →
      s.chip.on Reg.JRN_STATUS_COMMIT_HOLD = false → s.chip.parkedFull = false → s.chip.txns = x :: l →
      c = ({ s.chip with
        parked := s.chip.parked ++ [{ cmd := .txnCommit r mode late d time, deadline := s.chip.now + s.chip.lockWait, tag := x.id }] } : Chip).updTxn x.id (fun y =>
          { y with
            state := .waiting, mode := mode, allowLate := late, domain := d, time := (time.map timeOf96).getD 0, lastNamed := s.chip.now
            waitFrom := s.chip.now, wants := allScopes y.staged, held := [], checked := false }) →
      takeScopes c x.id [] (allScopes x.staged) = (held, wants) →
      (wants ≠ [] → ∃ t, exec (.txnCommit r mode late d time) s = .next t ∧ t.pending = s.pending ∧
        t.chip = Chip.steady (c.updTxn x.id fun y => { y with held := held, wants := wants })) ∧
      (wants = [] → (mode = 1 → late = false → s.chip.tb16 ≤ (time.map timeOf96).getD 0) → ∀ c1 : Chip, c1 = c.updTxn x.id (fun y => { y with held := held, wants := [] }) →
        (∀ y ∈ c.txns.take 1, c1.commitFail y = none) → c1.pairOn = false → ((c1.prepareTables x.id x.staged).updTxn x.id fun y => { y with checked := true, readyAt := s.chip.now + prepareTime y }).pairOn = false →
        ∃ t, exec (.txnCommit r mode late d time) s = .next t ∧ t.pending = s.pending ∧
          t.chip = Chip.steady ((c1.prepareTables x.id x.staged).updTxn x.id fun y => { y with checked := true, readyAt := s.chip.now + prepareTime y }))) ∧
    (∀ (id : Nat) (x : Txn), s.chip.txns.find? (fun y => y.id == id) = some x → x.state = .waiting → x.checked = true → x.wants = [] → s.chip.pairOn = false →
      (x.mode = 0 → ∃ t, exec (.txnPrepareDone id) s = .next t ∧ t.pending = s.pending ∧
        t.chip = Chip.steady ((((s.chip.updTxn id fun _ => { x with p := s.chip.tb16 }).commitNow { x with p := s.chip.tb16 }).answerParked id .ok
          [tlvTime (time96 s.chip.tb16), tlvTxnInfo 3 0 x.bytes (time96 s.chip.tb16)]).settleWaits)) ∧
      (x.mode = 1 → s.chip.tb16 ≤ x.time → ∃ t, exec (.txnPrepareDone id) s = .next t ∧ t.pending = s.pending ∧
        t.chip = Chip.steady (((({ s.chip with schedCtr := s.chip.schedCtr + 1 } : Chip).updTxn x.id fun _ =>
          { x with p := x.time, state := .scheduled, order := s.chip.schedCtr }).answerParked x.id .ok
          [tlvTime (time96 x.time), tlvTxnInfo 2 0 x.bytes (time96 x.time)]).settleWaits))) ∧
    (∀ (id : Nat) (x : Txn), s.chip.txns.find? (fun y => y.id == id) = some x → x.state = .scheduled → x.p ≤ s.chip.tb16 → x.atTrigger = false → x.late = false →
      ∃ t, exec (.txnCommitPoint id) s = .next t ∧ t.pending = s.pending ∧ t.chip = Chip.steady (s.chip.commitNow x).settleWaits) ∧
    (∀ (n : Nat) (p : Parked), s.chip.parked[n]? = some p → p.tag = 0 → allScopes [p.cmd] ≠ [] → s.chip.firstBlocked 0 (allScopes [p.cmd]) = none →
      ∃ t, exec (.txnScopeAcquired (.parked n)) s = .next t ∧ t.pending = s.pending ∧
        t.chip = Chip.steady (({ s.chip with parked := s.chip.parked.eraseIdx n } : Chip).runCommand p.cmd)) ∧
    (∀ (n d : Nat) (r : Req) (q : Bool) (k : Nat) (sc : Scope) (h : Nat), s.chip.parked[n]? = some { cmd := .queueFlush r q k, deadline := d, tag := 0 } → d < s.chip.now →
      s.chip.firstBlocked 0 (allScopes [.queueFlush r q k]) = some (sc, h) →
      ∃ t, exec (.txnLockWaitTimeout (.parked n)) s = .next t ∧ t.pending = s.pending ∧
        ({ s.chip with parked := s.chip.parked.eraseIdx n } : Chip).answered t.chip r 0x0306 .txnConflict [tlvScope sc h])

/-- KEY_INSTALL, KEY_RETIRE, ROLE_MAP and FAB_ASSIGN (R321, R358, R359, R404): the slot holds the key unwrapped under the sender's key, with its role and transports
and LAST_SEQ 0; a retired slot is empty and invalid; a mapped one has the new role and transports; the device ID is stored for the next reset. The reply
goes under the key the sender had. -/
def Obligations.KeysAndDeviceId : Prop :=
  ∀ (r : Req) (s : State),
    (∀ (slot role tr k : Nat) (key : Bytes) (x : Chip), s.chip.mayRun r (.keyInstall r slot role tr key) = true → r.txn = 0 → s.chip.on Reg.JRN_STATUS_COMMIT_HOLD = false →
      slot ≤ 31 → keyRoleOk role tr = true →
      (r.slot = 255 ∧ key.length = 32 ∧ role = 4 ∧ k = natOfBytes key ∨ r.slot ≠ 255 ∧ key.length = 40 ∧ aesUnwrap (SMap.get s.chip.keys r.slot) (natOfBytes key) = some k) →
      x = (((({ s.chip with keys := SMap.set s.chip.keys slot k } : Chip).flag Reg.KEY_STATE_VALID true slot).wr Reg.KEY_STATE_LAST_SEQ 0 slot).wr Reg.KEY_STATE_ROLE role slot).wr
        Reg.KEY_STATE_TRANSPORTS tr slot →
      ∃ t e, exec (.keyInstall r slot role tr key) s = .next t ∧ t.pending = s.pending ∧ x.reported (fun _ => False) e ∧ t.chip = e.steady ∧
        Out.reply r 0x0C01 .ok 0 s.chip.tb16 [] ∈ t.chip.outs ∧ SMap.get t.chip.keys slot = k ∧ t.chip.on Reg.KEY_STATE_VALID slot = true ∧
        t.chip.rd Reg.KEY_STATE_LAST_SEQ slot = 0 ∧ t.chip.rd Reg.KEY_STATE_ROLE slot = role ∧ t.chip.rd Reg.KEY_STATE_TRANSPORTS slot = tr) ∧
    (∀ (slot role tr : Nat) (x : Chip), s.chip.mayRun r (.keyRetire r slot role tr) = true → r.txn = 0 → s.chip.on Reg.JRN_STATUS_COMMIT_HOLD = false →
      slot ≤ 31 → s.chip.ownerLeft (some slot) = true → (∀ y ∈ s.chip.txns, y.req.slot ≠ slot) →
      x = (((({ s.chip with keys := SMap.set s.chip.keys slot 0 } : Chip).flag Reg.KEY_STATE_VALID false slot).wr Reg.KEY_STATE_ROLE 0 slot).wr Reg.KEY_STATE_TRANSPORTS 0 slot) →
      ∃ t e, exec (.keyRetire r slot role tr) s = .next t ∧ t.pending = s.pending ∧ x.reported (fun _ => False) e ∧ t.chip = e.steady ∧
        Out.reply r 0x0C02 .ok 0 s.chip.tb16 [] ∈ t.chip.outs ∧ SMap.get t.chip.keys slot = 0 ∧ t.chip.on Reg.KEY_STATE_VALID slot = false) ∧
    (∀ (slot role tr : Nat) (x : Chip), s.chip.mayRun r (.roleMap r slot role tr) = true → r.txn = 0 → s.chip.on Reg.JRN_STATUS_COMMIT_HOLD = false →
      slot ≤ 31 → keyRoleOk role tr = true → s.chip.on Reg.KEY_STATE_VALID slot = true → (role = 4 ∨ s.chip.ownerLeft (some slot) = true) →
      (∀ y ∈ s.chip.txns, y.req.slot ≠ slot) → x = (s.chip.wr Reg.KEY_STATE_ROLE role slot).wr Reg.KEY_STATE_TRANSPORTS tr slot →
      ∃ t e, exec (.roleMap r slot role tr) s = .next t ∧ t.pending = s.pending ∧ x.reported (fun _ => False) e ∧ t.chip = e.steady ∧
        Out.reply r 0x0C03 .ok 0 s.chip.tb16 [] ∈ t.chip.outs ∧ t.chip.rd Reg.KEY_STATE_ROLE slot = role ∧ t.chip.rd Reg.KEY_STATE_TRANSPORTS slot = tr) ∧
    (∀ (d : Fin 64) (x : Chip), s.chip.ready r (.fabAssign r d) → x = { s.chip with fab := { s.chip.fab with storedId := some d } } →
      s.chip.changeFail x (.fabAssign r d) = none →
      ∃ t, exec (.fabAssign r d) s = .next t ∧ t.pending = s.pending ∧ t.chip.fab.storedId = some d.val ∧ x.answered t.chip r 0x0902 .ok [])

/-- TWIN_PROMOTE, TWIN_DEMOTE, TWIN_CHECKPOINT and TWIN_HEARTBEAT (R340, R342 to R344, R346): a standby that may is promoted, one that is not ready only with FORCE;
an active or fenced unit becomes a standby, its record written first; a standby takes a checkpoint's records in order; a timely heartbeat is noted and answered
with the unit's status, and one that names the other unit fences a unit that is ACTIVE with FENCE_ON_HB. -/
def Obligations.TwinCommands : Prop :=
  ∀ (r : Req) (s : State), r.txn = 0 →
    (∀ (hb : Nat) (w : Option (Bool × Fin 2)) (force : Bool) (l : List Tlv), s.chip.mayRun r (.twinPromote r hb w) = true → s.chip.on Reg.JRN_STATUS_COMMIT_HOLD = false →
      timeOk hb = true → force = (w.map Prod.fst).getD false → (force = true ∨ s.chip.mayPromote hb = true) → l = [tlvTime s.chip.tb96] →
      (∀ x : Chip, s.chip.standby = true → x = s.chip.promote → fitsRoom (x.replyRoom r.via) l = true →
        ∃ t, exec (.twinPromote r hb w) s = .next t ∧ t.pending = s.pending ∧ x.answered t.chip r 0x0802 .ok l) ∧
      (∀ x : Chip, s.chip.rd Reg.TWIN_STATUS_STATE = 6 → s.chip.on Reg.TWIN_CFG_INTERLOCK = true → x = { s.chip with twin := { s.chip.twin with claim := 1 } } →
        fitsRoom (x.replyRoom r.via) l = true →
        ∃ t, exec (.twinPromote r hb w) s = .next t ∧ t.pending = s.pending ∧ x.answered t.chip r 0x0802 .ok l)) ∧
    (∀ x : Chip, s.chip.mayRun r (.twinDemote r) = true → s.chip.on Reg.JRN_STATUS_COMMIT_HOLD = false →
      (s.chip.rd Reg.TWIN_STATUS_STATE = 5 ∨ s.chip.rd Reg.TWIN_STATUS_STATE = 6) → x = (s.chip.jrnCmd r 1 0x0803 0 0 []).toStandby.settleWaits →
      ∃ t, exec (.twinDemote r) s = .next t ∧ t.pending = s.pending ∧ x.answered t.chip r 0x0803 .ok []) ∧
    (∀ (k n : Nat) (b : Bytes) (l : List CkRec) (x : Chip), s.chip.mayRun r (.twinCheckpoint r k n b) = true → s.chip.standby = true → readRecs b.length b = some l →
      x = (l.foldl (fun c k => Chip.takeRec k c) s.chip).twinEval → fitsRoom (x.replyRoom r.via) [tlvCkpt k n] = true →
      ∃ t, exec (.twinCheckpoint r k n b) s = .next t ∧ t.pending = s.pending ∧ x.answered t.chip r 0x0804 .ok [tlvCkpt k n]) ∧
    (∀ (u : Fin 2) (h x : Chip), s.chip.mayRun r (.twinHeartbeat r u) = true → (s.chip.sentDiff r).natAbs ≤ 2000000 * 65536 →
      h = { s.chip with twin := { s.chip.twin with hbAt := some s.chip.now } } →
      (x = h ∧ s.chip.rd Reg.TWIN_STATUS_STATE ≠ 6 ∧ (s.chip.rd Reg.TWIN_STATUS_STATE ≠ 5 ∨ u.val = s.chip.rd Reg.TWIN_CFG_UNIT ∨ s.chip.on Reg.TWIN_CFG_FENCE_ON_HB = false) ∨
       x = h.fenceUnit ∧ s.chip.rd Reg.TWIN_STATUS_STATE = 5 ∧ u.val ≠ s.chip.rd Reg.TWIN_CFG_UNIT ∧ s.chip.on Reg.TWIN_CFG_FENCE_ON_HB = true) →
      fitsRoom (x.replyRoom r.via) (x.twinObj 2) = true →
      ∃ t, exec (.twinHeartbeat r u) s = .next t ∧ t.pending = s.pending ∧ x.answered t.chip r 0x0805 .ok (x.twinObj 2))

/-- The pins and the interlock of a pair: TWIN_PRESENT_PROBE, TWIN_HOLD_IN_EDGE, TWIN_HOLD_RELEASED, TWIN_CLAIM_CHECK, HOLD_WD_EXP and T_FENCE_EXPIRE (R332, R334 to
R336, R343): presence and hold are shown as read; a claim starts the unit's own hold 1 µs after release and, 1 µs later, opens the egress where the input
is still released, and waits on unit 0 where it is not; the hold watchdog and a missed heartbeat fence the unit: STATE FENCED, the hold at rest,
FENCE_SEEN set, no claim and no egress. -/
def Obligations.PairPinsAndFence : Prop :=
  ∀ s : State,
    (∃ t, exec (.twinPresentProbe true) s = .next t ∧ t.pending = s.pending ∧ t.chip.on Reg.TWIN_STATUS_PRESENT = true ∧
      t.chip = Chip.steady { s.chip.flag Reg.TWIN_STATUS_PRESENT true with twin := { s.chip.twin with highs := 1000 } }) ∧
    (s.chip.on Reg.TWIN_CFG_PAIR_EN = true → s.chip.twin.highs < 9 →
      ∃ t, exec (.twinPresentProbe false) s = .next t ∧ t.pending = s.pending ∧ t.chip.on Reg.TWIN_STATUS_PRESENT = false ∧
        t.chip = Chip.steady { s.chip.flag Reg.TWIN_STATUS_PRESENT false with twin := { s.chip.twin with highs := s.chip.twin.highs + 1 } }) ∧
    (s.chip.on Reg.TWIN_STATUS_HOLD_IN = false →
      ∃ t, exec .twinHoldInEdge s = .next t ∧ t.pending = s.pending ∧ t.chip = Chip.steady (s.chip.flag Reg.TWIN_STATUS_HOLD_IN true).gateNow ∧
        (s.chip.path.ports = [] → t.chip.on Reg.TWIN_STATUS_HOLD_IN = true)) ∧
    (s.chip.twin.claim ≠ 3 →
      ∃ t, exec .twinHoldReleased s = .next t ∧ t.pending = s.pending ∧ t.chip.on Reg.TWIN_STATUS_HOLD_IN = false ∧
        t.chip = Chip.steady { s.chip.flag Reg.TWIN_STATUS_HOLD_IN false with twin := { s.chip.twin with relAt := s.chip.now } }) ∧
    (s.chip.twin.claim = 1 → s.chip.on Reg.TWIN_STATUS_HOLD_IN = false → s.chip.twin.relAt + 100000 ≤ s.chip.now → s.chip.on Reg.TWIN_STATUS_HOLD_OUT = false →
      ∃ t, exec .twinClaimCheck s = .next t ∧ t.pending = s.pending ∧ t.chip.on Reg.TWIN_STATUS_HOLD_OUT = true ∧
        t.chip = Chip.steady { (s.chip.flag Reg.TWIN_STATUS_HOLD_OUT true).emit (.pin 6 0 1) with twin := { s.chip.twin with claim := 2, claimAt := s.chip.now } }) ∧
    (s.chip.twin.claim = 2 → s.chip.twin.claimAt + 100000 ≤ s.chip.now →
      (s.chip.on Reg.TWIN_STATUS_HOLD_IN = true → s.chip.rd Reg.TWIN_CFG_UNIT = 0 →
        ∃ t, exec .twinClaimCheck s = .next t ∧ t.pending = s.pending ∧ t.chip = Chip.steady { s.chip with twin := { s.chip.twin with claim := 3 } }) ∧
      (s.chip.on Reg.TWIN_STATUS_HOLD_IN = false → s.chip.rd Reg.TWIN_STATUS_STATE = 4 → s.chip.thawWaits = true →
        ∃ t, exec .twinClaimCheck s = .next t ∧ t.pending = s.pending ∧ t.chip = Chip.steady { s.chip with twin := { s.chip.twin with egress := true, claim := 0 } })) ∧
    (∀ c : Chip, s.chip.on Reg.TWIN_CFG_PAIR_EN = true → s.chip.on Reg.TWIN_CFG_INTERLOCK = true → 3 ≤ s.chip.rd Reg.TWIN_STATUS_STATE → s.chip.path.ports = [] →
      c = s.chip.flag Reg.TWIN_STATUS_HOLD_WD_EXP true →
      ∃ t, exec .holdWdExp s = .next t ∧ t.pending = s.pending ∧ t.chip = c.fenceUnit.steady ∧ t.chip.rd Reg.TWIN_STATUS_STATE = 6 ∧
        t.chip.on Reg.TWIN_STATUS_HOLD_WD_EXP = true ∧ t.chip.on Reg.TWIN_STATUS_HOLD_OUT = false ∧ t.chip.on Reg.TWIN_STATUS_FENCE_SEEN = true ∧
        t.chip.twin.egress = false ∧ t.chip.twin.claim = 0) ∧
    (∀ h : Nat, s.chip.twin.hbAt = some h → s.chip.rd Reg.TWIN_STATUS_STATE = 5 → s.chip.on Reg.TWIN_CFG_FENCE_ON_HB = true →
      h + s.chip.rd Reg.TWIN_CFG_T_FENCE * 10000000 ≤ s.chip.now → s.chip.path.ports = [] →
      ∃ t, exec .tFenceExpire s = .next t ∧ t.pending = s.pending ∧ t.chip = s.chip.fenceUnit.steady ∧ t.chip.rd Reg.TWIN_STATUS_STATE = 6 ∧
        t.chip.on Reg.TWIN_STATUS_HOLD_OUT = false ∧ t.chip.on Reg.TWIN_STATUS_FENCE_SEEN = true ∧ t.chip.twin.egress = false ∧ t.chip.twin.claim = 0)

/-- CKPT_LAG_EXCEEDED, CHECKPOINT_SEND, TWIN_STATE_SAVE, THAW_EGRESS_OPEN, TAKEBACK_START and PRE_THAW_START (R339, R340, R346, R349, R414): a standby is STANDBY_READY
exactly while it meets the conditions, and notes since when; a due full checkpoint goes to the partner; a standby saves its store to the slot that does not
hold the newest one; 10 ms after a promotion the snapshots are restored and the egress opens; the home unit begins its takeback for the next handover
instant, and is powered up, still gated, 100 ms before it. -/
def Obligations.PairRuns : Prop :=
  ∀ s : State,
    (s.chip.rd Reg.TWIN_STATUS_STATE = 1 → s.chip.twinReady = true →
      ∃ t, exec .ckptLagExceeded s = .next t ∧ t.pending = s.pending ∧ t.chip.rd Reg.TWIN_STATUS_STATE = 2 ∧
        t.chip = Chip.steady { s.chip.wr Reg.TWIN_STATUS_STATE 2 with twin := { s.chip.twin with readyAt := s.chip.now } }) ∧
    (s.chip.rd Reg.TWIN_STATUS_STATE = 2 → s.chip.twinReady = false →
      ∃ t, exec .ckptLagExceeded s = .next t ∧ t.pending = s.pending ∧ t.chip.rd Reg.TWIN_STATUS_STATE = 1 ∧
        t.chip = Chip.steady (s.chip.wr Reg.TWIN_STATUS_STATE 1)) ∧
    (s.chip.pairOn = true → s.chip.twin.fullDue = true →
      ∃ t, exec .checkpointSend s = .next t ∧ t.pending = s.pending ∧ t.chip = Chip.steady s.chip.sendFull ∧ t.chip.twin.fullDue = false) ∧
    (∀ n : Nat, s.chip.standby = true → n = s.chip.rd Reg.CKPT_CFG_SAVE_S → n ≠ 0 → s.chip.twin.full = true → s.chip.twin.savedAt + n * 100000000000 ≤ s.chip.now →
      s.chip.newestSaved = s.chip.twin.slotA →
      ∃ t, exec .twinStateSave s = .next t ∧ t.pending = s.pending ∧
        (∀ a, s.chip.twin.slotA = some a → t.chip = Chip.steady { s.chip with twin := { s.chip.twin with
          savedAt := s.chip.now, slotB := some { count := a.count + 1, key := s.chip.stateKey, recs := s.chip.storeRecs } } }) ∧
        (s.chip.twin.slotA = none → t.chip = Chip.steady { s.chip with twin := { s.chip.twin with
          savedAt := s.chip.now, slotA := some { count := 1, key := s.chip.stateKey, recs := s.chip.storeRecs } } })) ∧
    (s.chip.rd Reg.TWIN_STATUS_STATE = 4 → s.chip.twin.claim = 0 → s.chip.twin.egress = false → s.chip.twin.thawAt + 1000000000 ≤ s.chip.now →
      ∃ t, exec .thawEgressOpen s = .next t ∧ t.pending = s.pending ∧
        t.chip = Chip.steady (((s.chip.thawRestore (s.chip.tbAt (s.chip.twin.thawAt + 2000000000))).claimEgress).thawEnd)) ∧
    (∀ (h : Nat) (c : Chip), s.chip.rd Reg.TWIN_STATUS_STATE = 2 → s.chip.on Reg.TWIN_CFG_HOME = true → s.chip.twin.take = 0 →
      s.chip.twin.readyAt + s.chip.rd Reg.HANDOVER_CTRL_READY_HOLD_S * 100000000000 ≤ s.chip.now → s.chip.nextHandover = some h →
      s.chip.cdPeriod (s.chip.rd Reg.HANDOVER_CTRL_DOMAIN) ≠ 0 → s.chip.boundaryFrom (s.chip.rd Reg.HANDOVER_CTRL_DOMAIN) h = h →
      h ≤ s.chip.tb16 + 86400 * 1000000000 * 65536 → s.chip.twinTry 0 0x0201 0 [] = some c →
      ∃ t, exec .takebackStart s = .next t ∧ t.pending = s.pending ∧ t.chip = Chip.steady { c with twin := { c.twin with take := 1, takeH := h } }) ∧
    (s.chip.twin.take = 3 → s.chip.twin.takeH ≤ s.chip.tb16 + 100000000 * 65536 →
      (s.chip.rd Reg.TWIN_STATUS_STATE = 2 → s.chip.tb16 < s.chip.twin.takeH →
        ∃ t, exec .preThawStart s = .next t ∧ t.pending = s.pending ∧ t.chip = Chip.steady (s.chip.wr Reg.TWIN_STATUS_STATE 3).thawPower) ∧
      (s.chip.rd Reg.TWIN_STATUS_STATE = 1 →
        ∃ t, exec .preThawStart s = .next t ∧ t.pending = s.pending ∧ t.chip = Chip.steady { s.chip with twin := { s.chip.twin with take := 0 } }))

/-- FW_STAGE, FW_WRITE, FW_ACTIVATE, FW_WRITE_DONE and IMAGE_FETCH_DONE (R403, R414 to R417): the last chunk of an image brings it to its verification, whose
outcome is its STATE and ERROR; a write waits for the loader and replies when it is done, the region then holding the image; an activation of the
management firmware waits for its handover, one of another image restarts a unit that may restart 10 ms after its reply. -/
def Obligations.FirmwareCommands : Prop :=
  ∀ (r : Req) (s : State),
    (∀ (tg : Nat) (data : Bytes) (x : FwImg) (c : Chip), s.chip.mayRun r (.fwStage r tg (.chunk 0 data.length data)) = true → r.txn = 0 → tg ≤ 3 →
      s.chip.fwWriting tg = false → SMap.get s.chip.drum.part (64 + tg) = none → data ≠ [] → data.length ≤ 8388608 →
      x = fwImage s.chip.fw.roots (SMap.get s.chip.fw.minSec tg) tg data →
      c = (let d := (s.chip.setPart (64 + tg) none).unstage tg
        ({ d with fw := { d.fw with staged := SMap.set d.fw.staged tg (if x.err = 0 then some x else none) } } : Chip).setFw tg (if x.err = 0 then 2 else 4) x.err) →
      fitsRoom (c.replyRoom r.via) [c.fwInfos] = true →
      ∃ t, exec (.fwStage r tg (.chunk 0 data.length data)) s = .next t ∧ t.pending = s.pending ∧ c.answered t.chip r 0x0A01 .ok [c.fwInfos]) ∧
    (∀ tg : Nat, s.chip.mayRun r (.fwWrite r tg) = true → r.txn = 0 → tg ≤ 3 → (∃ x, SMap.get s.chip.fw.staged tg = some x) → s.chip.fwWriting tg = false → s.chip.parkedFull = false →
      ∃ t, exec (.fwWrite r tg) s = .next t ∧ t.pending = s.pending ∧
        t.chip = Chip.steady { s.chip with parked := s.chip.parked ++ [{ cmd := .fwWrite r tg, deadline := 0, tag := 8589934592 + tg }] }) ∧
    (s.chip.mayRun r (.fwActivate r 0) = true → r.txn = 0 → s.chip.fw.recovery = false → s.chip.fwState 0 = 3 → s.chip.on Reg.JRN_STATUS_COMMIT_HOLD = false →
      s.chip.fw.hand = 0 → s.chip.parkedFull = false →
      ∃ t, exec (.fwActivate r 0) s = .next t ∧ t.pending = s.pending ∧
        t.chip = Chip.steady { s.chip with
          parked := s.chip.parked ++ [{ cmd := .fwActivate r 0, deadline := s.chip.now + 1000000000000, tag := 17179869184 }]
          fw := { s.chip.fw with hand := 1, handA := s.chip.now } }) ∧
    (∀ tg : Nat, s.chip.mayRun r (.fwActivate r tg) = true → r.txn = 0 → s.chip.fw.recovery = false → 1 ≤ tg → tg ≤ 3 → s.chip.fwState tg = 3 →
      s.chip.on Reg.JRN_STATUS_COMMIT_HOLD = false →
      (s.chip.rd Reg.TWIN_STATUS_STATE = 1 ∨ s.chip.rd Reg.TWIN_STATUS_STATE = 2 ∨ s.chip.on Reg.TWIN_CFG_PAIR_EN = false ∧ s.chip.rd Reg.PWR_STATUS_STATE = 0) →
      ∃ t, exec (.fwActivate r tg) s = .next t ∧ t.pending = s.pending ∧ t.chip.fw.restartAt = some (s.chip.now + 1000000000) ∧
        ({ s.chip with fw := { s.chip.fw with restartAt := some (s.chip.now + 1000000000) } } : Chip).answered t.chip r 0x0A03 .ok []) ∧
    (∀ (tg : Fin 4) (x : FwImg) (p : Parked) (c : Chip), s.chip.parked = [p] → p.tag = 8589934592 + tg.val → p.cmd = .fwWrite r tg → SMap.get s.chip.fw.staged tg = some x →
      (SMap.get s.chip.fw.run tg).ver ≠ x.ver →
      c = ({ s.chip with parked := [], fw := { s.chip.fw with flash := SMap.set s.chip.fw.flash tg x, staged := SMap.set s.chip.fw.staged tg none } } : Chip).setFw tg 3 0 →
      ∃ t, exec (.fwWriteDone tg true) s = .next t ∧ t.pending = s.pending ∧ SMap.get t.chip.fw.flash tg = x ∧ t.chip.fwState tg = 3 ∧ c.answered t.chip r 0x0A02 .ok []) ∧
    (∀ (n tg host len dl : Nat) (b : Bytes) (c : Chip), s.chip.parked[n]? = some { cmd := .fwStage r tg (.host host len), deadline := dl, tag := transferTag } →
      c = (({ s.chip with parked := s.chip.parked.eraseIdx n } : Chip).stageImage tg b).chip → fitsRoom (c.replyRoom r.via) [c.fwInfos] = true →
      ∃ t, exec (.imageFetchDone n b) s = .next t ∧ t.pending = s.pending ∧ c.answered t.chip r 0x0A01 .ok [c.fwInfos])

/-- FW_SWITCHOVER, FW_HANDOVER_CONFIRM, FW_HANDOVER_REVERT and MGMT_WATCHDOG_EXPIRE (R416, R420): between two commands the new management firmware takes over and the
old one stays at hand; confirmed within 100 ms it is CURRENT and its security version is the floor; not confirmed, the old one runs again, its image is
rewritten and the activation fails; a watchdog restart drops what the processor held for others and shows its cause. -/
def Obligations.FirmwareHandover : Prop :=
  ∀ s : State,
    (∀ c : Chip, s.chip.fw.hand = 1 → s.chip.now ≤ s.chip.fw.handA + 1000000000000 → s.chip.commitNear = false →
      c = { s.chip with fw := { s.chip.fw with hand := 2, handS := s.chip.now, prev := SMap.get s.chip.fw.run 0, run := SMap.set s.chip.fw.run 0 (SMap.get s.chip.fw.flash 0) } } →
      ∃ t e, exec .fwSwitchover s = .next t ∧ t.pending = s.pending ∧ c.reported (fun _ => False) e ∧ t.chip = e.steady ∧
        t.chip.fw.hand = 2 ∧ SMap.get t.chip.fw.run 0 = SMap.get s.chip.fw.flash 0 ∧ t.chip.fw.prev = SMap.get s.chip.fw.run 0) ∧
    (∀ (r : Req) (p : Parked), s.chip.fw.hand = 2 → s.chip.parked = [p] → p.tag = 17179869184 → p.cmd = .fwActivate r 0 →
      (s.chip.now ≤ s.chip.fw.handS + 10000000000 → ∀ c : Chip,
        c = { s.chip with parked := [], fw := { s.chip.fw with
          hand := 0, prev := {}, state := SMap.set s.chip.fw.state 0 0, err := SMap.set s.chip.fw.err 0 0
          minSec := SMap.upd s.chip.fw.minSec 0 fun n => max n (SMap.get s.chip.fw.run 0).sec } } →
        ∃ t, exec .fwHandoverConfirm s = .next t ∧ t.pending = s.pending ∧ c.answered t.chip r 0x0A03 .ok []) ∧
      (s.chip.fw.handS + 10000000000 < s.chip.now → ∀ c : Chip,
        c = { s.chip with parked := [], fw := { s.chip.fw with
          hand := 0, prev := {}, run := SMap.set s.chip.fw.run 0 s.chip.fw.prev, flash := SMap.set s.chip.fw.flash 0 s.chip.fw.prev
          state := SMap.set s.chip.fw.state 0 5, err := SMap.set s.chip.fw.err 0 0 } } →
        ∃ t, exec .fwHandoverRevert s = .next t ∧ t.pending = s.pending ∧ c.answered t.chip r 0x0A03 .internal [])) ∧
    (s.chip.txns = [] → s.chip.on Reg.TWIN_CFG_PAIR_EN = false →
      ∃ t, exec .mgmtWatchdogExpire s = .next t ∧ t.pending = s.pending ∧ t.chip.rd Reg.PWR_STATUS_LAST_RESET = 2 ∧ t.chip.cmdq = [] ∧ t.chip.parked = [] ∧
        t.chip.diag = none ∧ t.chip.fw.hand = 0 ∧ t.chip.on Reg.CAL_STATUS_RUNNING = false ∧ t.chip.fw.recovery = ((SMap.get s.chip.fw.flash 0).err != 0))

/-- Requests and rings: CMD_PACKET_RX, HIF_CMD_TAIL_WRITE, HIF_INJ_TAIL_WRITE, INJECT_FRAME, HIF_RSP_TAIL_WRITE, RSP_RING_TIMEOUT, HOST_RESET and TRAPPED_FRAME_HANDLE
(R354 to R357, R361, R364, R368): a packet waits in the command queue; at its head a request of a slot that may send, with the right code, role, sequence and
time, runs and its sequence is the slot's last; one with a wrong code is counted and notified and runs not; the rings take what the host offers;
replies late by 10 ms are discarded and counted; a host reset stops every ring and empties what waits. -/
def Obligations.RequestsAndRings : Prop :=
  ∀ s : State,
    (∀ (v : Via) (b : Bytes), s.chip.cmdq.length < 256 →
      ∃ t, exec (.cmdPacketRx v false b) s = .next t ∧ t.pending = s.pending ∧ t.chip = Chip.steady { s.chip with cmdq := s.chip.cmdq ++ [{ via := v, bytes := b, era := s.chip.hif.era }] }) ∧
    (∀ (v : Via) (b : Bytes) (h : Hdr), s.chip.cmdq = [] → h = parseHdr b → s.chip.served v = true → (v = .twinLink → h.flags < 64) → formOk b = true →
      s.chip.bootstrap v h b = false → s.chip.slotOk h.slot v = true →
      (∀ role : Role, authCode (SMap.get s.chip.keys h.slot) (b.take (32 + h.len)) = natAt b (32 + h.len) 16 → h.role = s.chip.rd Reg.KEY_STATE_ROLE h.slot →
        Role.ofCode h.role = some role → s.chip.freshOk v h = true → s.chip.staleBeat (reqOfHdr v h role s.chip.hif.era) h.op = false →
        ∃ t, exec (.cmdPacketRx v true b) s = .next t ∧ t.pending = s.pending ∧
          t.chip = Chip.steady ((s.chip.wr Reg.KEY_STATE_LAST_SEQ h.seq h.slot).runChecked (reqOfHdr v h role s.chip.hif.era) h ((b.drop 32).take h.len))) ∧
      (authCode (SMap.get s.chip.keys h.slot) (b.take (32 + h.len)) ≠ natAt b (32 + h.len) 16 → v ≠ .ring →
        ∃ t e, exec (.cmdPacketRx v true b) s = .next t ∧ t.pending = s.pending ∧ s.chip.reported (fun _ => False) e ∧ t.chip = e.steady ∧
          e = (s.chip.count Ev.CMD_AUTH_FAIL).notify Nt.AUTH_FAIL Cls.SEC h.slot 1)) ∧
    (∀ (tail : Nat) (b : Bytes), s.chip.hif.cmd.en = true → 1 < s.chip.hif.cmd.size → s.chip.cmdq.length < 256 →
      ∃ t, exec (.hifCmdTailWrite tail false [some b]) s = .next t ∧ t.pending = s.pending ∧
        t.chip = Chip.steady { s.chip with
          cmdq := s.chip.cmdq ++ [{ via := .ring, bytes := b, era := s.chip.hif.era }]
          outs := .ringDone 0 s.chip.hif.cmd.head :: s.chip.outs
          hif := { s.chip.hif with cmd := { s.chip.hif.cmd with tail := tail % max 1 s.chip.hif.cmd.size, head := tail % max 1 s.chip.hif.cmd.size } } }) ∧
    (∀ (tail : Nat) (f : Nat × Bytes), s.chip.hif.inj.en = true → s.chip.hif.injWait.length + 1 < s.chip.hif.inj.size →
      ∃ t, exec (.hifInjTailWrite tail [some f]) s = .next t ∧ t.pending = s.pending ∧
        t.chip = Chip.steady { s.chip with hif := { s.chip.hif with
          inj := { s.chip.hif.inj with tail := tail % max 1 s.chip.hif.inj.size }, injWait := s.chip.hif.injWait ++ [some f] } }) ∧
    (∀ (d : Nat) (b : Bytes) (l : List (Option (Nat × Bytes))) (p n : Nat), s.chip.hif.injWait = some (d, b) :: l → p = Lay.IDESC_PORT.get d → n = Lay.IDESC_LEN.get d →
      (∀ c : Chip, p ≤ 512 → s.chip.twinPort p = false → 60 ≤ n → n + 4 ≤ s.chip.maxFrame p → (p = 512 → Lay.IDESC_TIMED.get d ≠ 1) →
        s.chip.injectOwn p (Lay.IDESC_CLASS.get d) (sliceBytes b 0 n) (if Lay.IDESC_TIMED.get d = 1 then some (timeOf96 (Lay.IDESC_LAUNCH.get d)) else none)
          (if Lay.IDESC_STAMP.get d = 1 then some (Lay.IDESC_TAG.get d) else none) = some c →
        ∃ t, exec .injectFrame s = .next t ∧ t.pending = s.pending ∧ t.chip = Chip.steady ((c.injDone.emit (.ringDone 3 s.chip.hif.inj.head)).emit (.msix 2))) ∧
      (n < 60 → ∃ t, exec .injectFrame s = .next t ∧ t.pending = s.pending ∧ t.chip.hif.injWait = l ∧ t.chip.hif.err = setBit s.chip.hif.err 0 ∧
        t.chip.hif.inj.head = (s.chip.hif.inj.head + 1) % max 1 s.chip.hif.inj.size)) ∧
    (∀ (tail : Nat) (rooms : List Nat),
      (s.chip.hif.dlv.en = true → s.chip.hif.dlvRoom.length + rooms.length < s.chip.hif.dlv.size → ∃ t, exec (.hifRspTailWrite true tail rooms) s = .next t ∧ t.pending = s.pending ∧
        t.chip = Chip.steady { s.chip with hif := { s.chip.hif with
          dlv := { s.chip.hif.dlv with tail := tail % max 1 s.chip.hif.dlv.size }, dlvRoom := s.chip.hif.dlvRoom ++ rooms } }) ∧
      (s.chip.hif.rsp.en = true → s.chip.hif.rspWait = [] → s.chip.hif.rspRoom.length + rooms.length < s.chip.hif.rsp.size → ∃ t, exec (.hifRspTailWrite false tail rooms) s = .next t ∧ t.pending = s.pending ∧
        t.chip = Chip.steady { s.chip with hif := { s.chip.hif with
          rsp := { s.chip.hif.rsp with tail := tail % max 1 s.chip.hif.rsp.size }, rspRoom := s.chip.hif.rspRoom ++ rooms } })) ∧
    (∀ (w : Nat × Bytes) (l : List (Nat × Bytes)), s.chip.hif.rspWait = w :: l → w.1 ≤ s.chip.now → (∀ y ∈ l, s.chip.now < y.1) →
      ∃ t, exec .rspRingTimeout s = .next t ∧ t.pending = s.pending ∧
        t.chip = Chip.steady (Chip.count { s.chip with hif := { s.chip.hif with rspWait := l } } Ev.CMD_RSP_DROP)) ∧
    (∃ t, exec .hostReset s = .next t ∧ t.pending = s.pending ∧ t.chip.hif.cmd.en = false ∧ t.chip.hif.rsp.en = false ∧ t.chip.hif.inj.en = false ∧
      t.chip.hif.dlv.en = false ∧ t.chip.hif.rspRoom = [] ∧ t.chip.hif.dlvRoom = [] ∧ t.chip.hif.rspWait = [] ∧ t.chip.hif.injWait = [] ∧
      t.chip.hif.db = s.chip.hif.db % 2 ^ 32 ∧ ∀ n < 16, t.chip.on Reg.MBX_STAT_F2H_FULL n = false) ∧
    (∀ (k : Fin 8) (idle : Bool) (f : Frame) (n : Nat), s.chip.trapFirst k (fun f => !f.trapKey.esmc && f.trapKey.ptp.isNone) = some (f, n) →
      (∀ (v : Via) (b : Bytes), s.chip.trapCommand f = some (v, b) → (f.port = 512 ∨ v = .twinLink ∨ s.chip.on Reg.CMD_PORT_CMD_EN f.port = true) →
        (s.chip.dropTgt f.id n).on Reg.CMD_PORT_CMD_EN f.port = s.chip.on Reg.CMD_PORT_CMD_EN f.port →
        ∃ t, exec (.trappedFrameHandle k idle) s = .next t ∧ t.pending = s.pending ∧ t.chip = Chip.steady ((s.chip.dropTgt f.id n).packetRx v idle b)) ∧
      (s.chip.trapCommand f = none → f.trapKey.lldp = false → f.port ≠ 512 →
        ∃ t, exec (.trappedFrameHandle k idle) s = .next t ∧ t.pending = s.pending ∧
          t.chip = Chip.steady (((s.chip.dropTgt f.id n).addressAnswer f f.trapKey).hostCopy f k)))

/-- Mailboxes and doorbells: HIF_REG_WRITE, HIF_MBX_POST, MBX_COMMAND_TAKE, HIF_MBX_ACK, HIF_EMBX_POST, HIF_DB_SET and DOORBELL_COMMAND_START (R366, R368 to
R370, R372, R373): bits written 1 to HIF_ERR are cleared and an unlisted offset changes nothing; a ring whose SIZE is written with EN and a valid size is
enabled with it; a staged message is posted to a free mailbox and counts a DROP at a full one; the firmware frees a mailbox before it acts on its message, as one of the
role of MBX_CFG, and an unassigned one discards it; each bit of an acknowledgement frees its own mailbox; an engine's mailbox takes a message, and aborts while
Drumline is powered down; doorbells 0 to 31 are set, and a taken one is cleared and runs the command of its DB_CMD element. -/
def Obligations.MailboxesAndDoorbells : Prop :=
  ∀ s : State,
    (∀ width value : Nat, width = 4 ∨ width = 8 → ∃ t, exec (.hifRegWrite 0x10 width (some value)) s = .next t ∧ t.pending = s.pending ∧
      t.chip = Chip.steady { s.chip with hif := { s.chip.hif with err := s.chip.hif.err - (s.chip.hif.err &&& (value % 8)) } }) ∧
    (∀ off width value : Nat, 0x3040 ≤ off → ∃ t, exec (.hifRegWrite off width (some value)) s = .next t ∧ t.pending = s.pending ∧ t.chip = s.chip.steady) ∧
    (∀ k : Nat, 4 ≤ k → k ≤ 12 → s.chip.hif.cmd.en = false → ∃ t, exec (.hifRegWrite 0x108 4 (some (2 ^ 31 + 2 ^ k))) s = .next t ∧ t.pending = s.pending ∧
      t.chip.hif = { s.chip.hif with cmd := { s.chip.hif.cmd with size := 2 ^ k, en := true, head := s.chip.hif.cmd.head % 2 ^ k, tail := s.chip.hif.cmd.tail % 2 ^ k } }) ∧
    (∀ n : Fin 16,
      (s.chip.on Reg.MBX_STAT_H2F_FULL n = false → ∃ t, exec (.hifMbxPost n) s = .next t ∧ t.pending = s.pending ∧
        SMap.get t.chip.hif.h2f n = SMap.get s.chip.hif.h2fStage n ∧ t.chip.on Reg.MBX_STAT_H2F_FULL n = true ∧ t.chip.outs = .hostRead 0 :: s.chip.outs) ∧
      (s.chip.on Reg.MBX_STAT_H2F_FULL n = true → ∃ t, exec (.hifMbxPost n) s = .next t ∧ t.pending = s.pending ∧ t.chip.hif = s.chip.hif ∧
        t.chip.rd Reg.MBX_STAT_DROP n = satU 8 (s.chip.rd Reg.MBX_STAT_DROP n + 1) ∧ t.chip.outs = .hostRead 1 :: s.chip.outs)) ∧
    (∀ (n : Fin 16) (x : Chip), s.chip.on Reg.MBX_STAT_H2F_FULL n = true → s.chip.fw.recovery = false →
      x = ({ s.chip with hif := { s.chip.hif with h2f := SMap.set s.chip.hif.h2f n 0 } } : Chip).flag Reg.MBX_STAT_H2F_FULL false n →
      ∃ t, exec (.mbxCommandTake n) s = .next t ∧ t.pending = s.pending ∧
        (s.chip.rd Reg.MBX_CFG_ROLE n = 1 → t.chip = Chip.steady (x.mailboxCommand (.mbx n) .observer (SMap.get s.chip.hif.h2f n))) ∧
        (s.chip.rd Reg.MBX_CFG_ROLE n = 2 → t.chip = Chip.steady (x.mailboxCommand (.mbx n) .operator (SMap.get s.chip.hif.h2f n))) ∧
        (s.chip.rd Reg.MBX_CFG_ROLE n = 0 → t.chip = Chip.steady (x.incSat Reg.MBX_STAT_DROP 1 n))) ∧
    (∀ (mask : Nat), ∃ t, exec (.hifMbxAck mask) s = .next t ∧ t.pending = s.pending ∧
      ∀ n < 16, t.chip.on Reg.MBX_STAT_F2H_FULL n = (s.chip.on Reg.MBX_STAT_F2H_FULL n && !bitOf mask n)) ∧
    (∀ (e : Fin 64),
      (s.chip.rd Reg.PWR_STATUS_STATE ≠ 2 → ∃ t, exec (.hifEmbxPost e) s = .next t ∧ t.pending = s.pending ∧ t.chip = Chip.steady (s.chip.emit .abort)) ∧
      (s.chip.rd Reg.PWR_STATUS_STATE = 2 → (s.chip.eng e).mbx.length < 3 → ∃ t, exec (.hifEmbxPost e) s = .next t ∧ t.pending = s.pending ∧
        t.chip = Chip.steady ((s.chip.updEng e fun x => { x with mbx := (s.chip.eng e).mbx ++ [s.chip.hif.embx] }).emit (.hostRead 0)))) ∧
    (∀ bits : Nat, ∃ t, exec (.hifDbSet bits) s = .next t ∧ t.pending = s.pending ∧
      t.chip = Chip.steady { s.chip with hif := { s.chip.hif with db := s.chip.hif.db ||| (bits % 2 ^ 32) } }) ∧
    (∀ (b : Fin 32) (x : Chip) (e : Nat), bitOf s.chip.hif.db b = true → s.chip.fw.recovery = false → e = s.chip.rd Reg.DB_CMD 16 b →
      x = { s.chip with hif := { s.chip.hif with db := clrBit s.chip.hif.db b } } →
      ∃ t, exec (.doorbellCommandStart b) s = .next t ∧ t.pending = s.pending ∧
        (bitsOf e 120 8 = 1 → t.chip = Chip.steady (x.mailboxCommand (.door b) .observer (e / 2 ^ 128))) ∧
        (bitsOf e 120 8 = 2 → t.chip = Chip.steady (x.mailboxCommand (.door b) .operator (e / 2 ^ 128))) ∧
        (bitsOf e 120 8 = 0 → t.chip = Chip.steady x))

/-- Drumline commands: CYC_LOAD, CYC_START, CYC_STOP and CYC_SWAP (R254, R272, R281, R287, R403): a chunk that is not the last is kept, the last one gives the
image, which is checked and held as the engine's next program; a start arms the domain for the first boundary at least 10 µs ahead and tells its time; a stop
ends a domain whose cycle is in progress after that cycle and any other at once; a swap is staged for engines that hold a loaded image. -/
def Obligations.DrumlineCommands : Prop :=
  ∀ (r : Req) (s : State),
    (∀ (e : Fin 64) (data : Bytes) (total : Nat) (x : Chip), s.chip.ready r (.cycLoad r (2 ^ e.val) (.chunk 0 total data)) → s.chip.swapPending e = false →
      SMap.get s.chip.drum.part e = none → data ≠ [] → total ≤ 1048576 →
      (data.length < total → x = s.chip.setPart e (some { slot := r.slot, total := total, data := data }) →
        s.chip.changeFail x (.cycLoad r (2 ^ e.val) (.chunk 0 total data)) = none →
        ∃ t, exec (.cycLoad r (2 ^ e.val) (.chunk 0 total data)) s = .next t ∧ t.pending = s.pending ∧ x.answered t.chip r 0x0501 .ok []) ∧
      (∀ (g : Img) (save : Nat → Bool), data.length = total → readImage data = some g →
        save = (fun a => match s.chip.entryAt (s.chip.rd Reg.ENG_CFG_DOMAIN (256 + e)) (cycAddr a) with
          | some i => s.chip.rd Reg.GATHER_LIST_SRC (s.chip.rd Reg.ENG_CFG_DOMAIN (256 + e)) i == 0 | none => true) →
        badDesc save g.descs = none → hazard save (initMem [] g.inits) g.descs = none →
        x = ((s.chip.setPart e none).updEng e fun y => { y with next := g, loaded := true }).showImages e →
        s.chip.changeFail x (.cycLoad r (2 ^ e.val) (.chunk 0 total data)) = none →
        ∃ t, exec (.cycLoad r (2 ^ e.val) (.chunk 0 total data)) s = .next t ∧ t.pending = s.pending ∧ x.answered t.chip r 0x0501 .ok [])) ∧
    (∀ (d : Fin 4) (x : Chip) (b : Int), s.chip.ready r (.cycStart r d) → s.chip.domainLive d = false → b = s.chip.boundaryFrom d ((s.chip.tb16 + 10000 * 65536 : Nat)) →
      s.chip.rd Reg.CD_STATUS_STATE d = 0 → s.chip.cdStart d ≥ b →
      x = (s.chip.wr Reg.CD_STATUS_STATE 1 d).updDom d (fun y => { y with next := b, floor := ((s.chip.tb16 + 10000 * 65536 : Nat) : Int), ran := false, back := false }) →
      s.chip.changeFail x (.cycStart r d) = none → fitsRoom (x.replyRoom r.via) [tlvTime (time96 (x.dom d).next.toNat)] = true →
      ∃ t, exec (.cycStart r d) s = .next t ∧ t.pending = s.pending ∧ x.answered t.chip r 0x0502 .ok [tlvTime (time96 (x.dom d).next.toNat)]) ∧
    (∀ (d : Fin 4) (x : Chip), s.chip.ready r (.cycStop r d) → s.chip.domainLive d = true →
      x = (if (s.chip.dom d).busy then s.chip.wr Reg.CD_STATUS_STATE 3 d else (s.chip.wr Reg.CD_STATUS_STATE 0 d).releaseEngines d) →
      s.chip.changeFail x (.cycStop r d) = none →
      ∃ t, exec (.cycStop r d) s = .next t ∧ t.pending = s.pending ∧ x.answered t.chip r 0x0503 .ok []) ∧
    (∀ (engines : Nat) (tx : Txn) (n : Nat), s.chip.mayRun r (.cycSwap r engines) = true → r.txn ≠ 0 → s.chip.txnOf r = some tx → tx.state = .opened →
      (∀ e < 64, bitOf engines e = true → (s.chip.eng e).loaded = true) → n = tx.bytes + 32 + s.chip.stageBytes (.cycSwap r engines) → n ≤ stageLimit →
      ∃ t, exec (.cycSwap r engines) s = .next t ∧ t.pending = s.pending ∧
        ((s.chip.updTxn tx.id fun y => { y with lastNamed := s.chip.now }).updTxn tx.id fun y => { y with staged := y.staged ++ [.cycSwap r engines], bytes := n }).answered
          t.chip r 0x0504 .ok [])

/-- Event inputs and intervals: EVI_FIFO, IVL_SAMPLES, EVT_IN_EDGE and IVL_PAIR_DECIDE (R192 to R197): reading a record FIFO returns its oldest records, up to 64 of
an event input and all of an interval unit, and removes them; an edge of an input with EDGE = 0 changes its level alone; one that does not hold for MIN_PULSE counts
a glitch; one within 20 ns of the last the channel took counts as dead (R185); an accepted one of a host-owned input is stored with its stamp, its edge and the next
SEQ; a start edge whose window has passed takes the one stop edge inside it, and their difference is a sample of the block and of the FIFO. -/
def Obligations.EventInputsAndIntervals : Prop :=
  ∀ s : State,
    (∀ (r : Req) (n : Fin 32) (x : Chip) (l : List Tlv), s.chip.mayRun r (.objRead r [{ obj := objId Cls.EVT n 0x03, elem := none }]) = true → r.txn = 0 →
      x = (s.chip.updEvi n fun y => { y with fifo := (SMap.get s.chip.evis n).fifo.drop 64 }).wr Reg.EVI_STATUS_FILL ((SMap.get s.chip.evis n).fifo.drop 64).length n →
      l = [tlvObj (objId Cls.EVT n 0x03), tlvValue (16 * ((SMap.get s.chip.evis n).fifo.take 64).length) (joinElems 16 ((SMap.get s.chip.evis n).fifo.take 64)) 0] →
      fitsRoom (x.replyRoom r.via) l = true →
      ∃ t, exec (.eviFifo r n) s = .next t ∧ t.pending = s.pending ∧ x.answered t.chip r 0x0101 .ok l ∧ (SMap.get t.chip.evis n).fifo = (SMap.get s.chip.evis n).fifo.drop 64) ∧
    (∀ (r : Req) (u : Fin 32) (x : Chip) (l : List Tlv), s.chip.mayRun r (.objRead r [{ obj := objId Cls.EVT u 0x12, elem := none }]) = true → r.txn = 0 →
      x = (s.chip.updIvl u fun y => { y with fifo := [] }) →
      l = [tlvObj (objId Cls.EVT u 0x12), tlvValue (16 * (SMap.get s.chip.ivls u).fifo.length) (joinElems 16 (SMap.get s.chip.ivls u).fifo) 0] →
      fitsRoom (x.replyRoom r.via) l = true →
      ∃ t, exec (.ivlSamples r u) s = .next t ∧ t.pending = s.pending ∧ x.answered t.chip r 0x0101 .ok l ∧ (SMap.get t.chip.ivls u).fifo = []) ∧
    (∀ (n : Fin 32) (rising held : Bool) (hold : Nat) (fine : Fine) (edge cc : Int) (c1 : Chip), held = decide (s.chip.rd Reg.EVI_CFG_MIN_PULSE n * 100 ≤ hold * 256) →
      edge = s.chip.edgeTime (1032 + n) fine → cc = s.chip.edgeCont (1032 + n) fine → c1 = s.chip.flag Reg.EVI_STATUS_LEVEL (rising == held) n →
      (s.chip.rd Reg.EVI_CFG_EDGE n = 0 → ∃ t, exec (.evtInEdge n rising hold fine) s = .next t ∧ t.pending = s.pending ∧ t.chip = c1.steady) ∧
      (∀ e : Int, s.chip.rd Reg.EVI_CFG_EDGE n = 3 → held = true → (SMap.get s.chip.evis n).edgeC = some e → cc - e < (ns20 : Nat) →
        ∃ t, exec (.evtInEdge n rising hold fine) s = .next t ∧ t.pending = s.pending ∧ t.chip = Chip.steady (c1.count Ev.EVI_DEAD n)) ∧
      ((∀ e, (SMap.get s.chip.evis n).edgeC = some e → (ns20 : Nat) ≤ cc - e) → s.chip.rd Reg.EVI_CFG_EDGE n = 3 → held = false →
        ∃ t, exec (.evtInEdge n rising hold fine) s = .next t ∧ t.pending = s.pending ∧
          t.chip = Chip.steady ((c1.updEvi n fun y => { y with edgeC := some cc }).count Ev.EVI_GLITCH n)) ∧
      (∀ (t0 : Int) (rec_ : Nat) (x : Evi), s.chip.rd Reg.EVI_CFG_EDGE n = 3 → held = true → SMap.get s.chip.tdc (1032 + n) = true → x = SMap.get s.chip.evis n →
        (∀ e, x.edgeC = some e → (ns20 : Nat) ≤ cc - e) →
        x.seen = false → s.chip.rd Reg.EVI_CFG_OWNER n = 0 → x.ovf = false → x.fifo.length < 127 →
        t0 = (edge - (Config.trimIn n).toInt * 64 - s.chip.rdS Reg.EVI_DELAY n * 64) / 64 * 64 →
        rec_ = Lay.EVREC_TIME.put (time96 t0.toNat) + Lay.EVREC_EDGE.put (b2n (!rising)) + Lay.EVREC_INVALID.put (b2n (!true)) + Lay.EVREC_INPUT.put n +
          Lay.EVREC_STEP_COUNT.put ((s.chip.atEdge fine).rd Reg.TIME_STATUS_STEP_COUNT) + Lay.EVREC_SEQ.put ((x.seq + 1) % 256) →
        ∃ t, exec (.evtInEdge n rising hold fine) s = .next t ∧ t.pending = s.pending ∧
          SMap.get t.chip.evis n = { x with
            seq := (x.seq + 1) % 256, seen := true, lastC := cc, edgeC := some cc, stampC := t0 - (s.chip.atEdge fine).rdS Reg.STEP_SUM, fifo := x.fifo ++ [rec_] } ∧
          t.chip.rd Reg.EVI_STATUS_FILL n = x.fifo.length + 1)) ∧
    (∀ (u : Fin 32) (x : Ivl) (a y : IvlEdge) (l : List IvlEdge) (v : Int), s.chip.on Reg.IVL_CFG_EN u = true → s.chip.on Reg.IVL_CFG_MODE u = false →
      x = SMap.get s.chip.ivls u → x.starts = a :: l → a.c + (s.chip.rd Reg.IVL_WIN u * 65536 : Nat) < s.chip.cont16 → x.stops = [y] →
      (y.c - a.c).natAbs ≤ s.chip.rd Reg.IVL_WIN u * 65536 → a.bad = false → y.bad = false → x.n + 1 < s.chip.rd Reg.IVL_CFG_N u → x.fifo.length < 64 →
      v = divRoundS (y.c - a.c) 64 →
      ∃ t, exec (.ivlPairDecide u) s = .next t ∧ t.pending = s.pending ∧
        SMap.get t.chip.ivls u = { x with
          starts := l, stops := [], seq := (x.seq + 1) % 65536
          fifo := x.fifo ++ [Lay.IVREC_VALUE.put (encS 64 v) + Lay.IVREC_START_NS.put (a.t / 65536 % nsPerS) + Lay.IVREC_COINCIDENT.put (b2n (v == 0)) +
            Lay.IVREC_ORDER.put (b2n (decide (v < 0))) + Lay.IVREC_SEQ.put ((x.seq + 1) % 65536)]
          n := x.n + 1, coin := x.coin + b2n (v == 0), ord := x.ord + b2n (decide (v < 0)), sum := x.sum + v, sq := x.sq + (v * v).toNat
          mn := if x.n = 0 then v else min x.mn v, mx := if x.n = 0 then v else max x.mx v })

/-- Modules and event outputs: OPT_RAW, OPT_POLL, OPT_STRETCH_TIMEOUT, EVO_EDGE_PLACE, EVO_PERIODIC_PULSE and PPS_OUT_PULSE (R70 to R72, R199, R200, R203,
R224): an access to a module is made and its bytes are answered (a packet form of it is the model's, log entry 37); a poll that succeeds stores the diagnostics
(laid out as log entry 21 says) and the flags and ends a run of failures; a stretched clock takes nine pulses and fails the poll, and the third failure makes the
diagnostics invalid with a notification; the earliest queued edge leaves at its instant; a periodic pulse starts at the active level and queues its end; a pulse
output shows both edges of its pulse. -/
def Obligations.ModulesAndOutputs : Prop :=
  ∀ s : State,
    (∀ (r : Req) (port : Fin 513) (dev page off len : Nat) (b : Bytes) (flat : Bool) (x : Chip) (l : List Tlv), r.txn = 0 →
      (s.chip.resolve (objId Cls.PORT port 0x09)).isSome = true → s.chip.poweredOff (objId Cls.PORT port 0x09) = false → (dev = 0xA0 ∨ dev = 0xA2) → page < 256 → 1 ≤ len → len ≤ 128 → off + len ≤ 256 →
      x = s.chip.optWires port dev page off len (.done b) flat → l = [tlvObj (objId Cls.PORT port 0x09), tlvValue len (natOfBytes (sliceBytes b 0 len)) 0] →
      fitsRoom (x.replyRoom r.via) l = true →
      ∃ t, exec (.optRaw r port false dev page off len [] (.done b) flat) s = .next t ∧ t.pending = s.pending ∧ x.answered t.chip r 0x0101 .ok l ∧
        .pin 2 (s.chip.rd Reg.OPT_MAP_MASTER port) ((dev * 256 + off) * 256 + len) ∈ t.chip.outs) ∧
    (∀ (p : Fin 513) (flags set typ : Nat) (b : Bytes) (o : Opt) (y : Chip), typ = s.chip.rd Reg.OPT_MAP_TYPE p → typ ≠ 0 → o = SMap.get s.chip.opts p →
      y = s.chip.pollWires p → set = optFlags typ flags b →
      o.polledAt + unitsMs (10 * s.chip.rd Reg.OPT_MAP_POLL p) ≤ s.chip.now →
      (set &&& (set ^^^ o.flags) = 0 → ∃ t, exec (.optPoll p flags (.done b)) s = .next t ∧ t.pending = s.pending ∧
        t.chip = Chip.steady (({ y with opts := SMap.set s.chip.opts p { fails := 0, flags := set, polledAt := s.chip.now } } : Chip).wr Reg.OPT_DIAG
          (optDiagCode true s.chip.tb96 (optTaken typ b)) p)) ∧
      (set &&& (set ^^^ o.flags) ≠ 0 → ∃ t, exec (.optPoll p flags (.done b)) s = .next t ∧ t.pending = s.pending ∧
        t.chip = Chip.steady ((({ y with opts := SMap.set s.chip.opts p { fails := 0, flags := set, polledAt := s.chip.now } } : Chip).wr Reg.OPT_DIAG
          (optDiagCode true s.chip.tb96 (optTaken typ b)) p).notify Nt.OPT_FLAG Cls.PORT p 0x0A)) ∧
      (o.fails = 2 → ∃ t, exec (.optPoll p flags .nack) s = .next t ∧ t.pending = s.pending ∧
        t.chip = Chip.steady ((({ y with opts := SMap.set s.chip.opts p { o with fails := 3, polledAt := s.chip.now } } : Chip).wr Reg.OPT_DIAG
          (clrBit (s.chip.rd Reg.OPT_DIAG p) 1023) p).notify Nt.OPT_INVALID Cls.PORT p 0x0A)) ∧
      (o.fails = 0 →
        (∃ t, exec (.optStretchTimeout p) s = .next t ∧ t.pending = s.pending ∧ (SMap.get t.chip.opts p).fails = 1 ∧
          t.chip.outs = .pin 2 (s.chip.rd Reg.OPT_MAP_MASTER p) 9 :: y.outs) ∧
        (∃ t, exec (.optPoll p flags .stretch) s = .next t ∧ t.pending = s.pending ∧ (SMap.get t.chip.opts p).fails = 1 ∧
          t.chip.outs = .pin 2 (s.chip.rd Reg.OPT_MAP_MASTER p) 9 :: y.outs))) ∧
    (∀ (n : Fin 32) (e : EvoEdge) (l : List (List EvoEdge)), (SMap.get s.chip.evos n).queue = [e] :: l → e.adj < (s.chip.tb16 + tick16 : Nat) → e.act < 2 →
      e.act ≠ s.chip.rd Reg.EVO_STATUS_LEVEL (32 + n) → 2 ≤ s.chip.rd Reg.PWR_STATUS_STATE →
      ∃ t, exec (.evoEdgePlace n none) s = .next t ∧ t.pending = s.pending ∧ (SMap.get t.chip.evos n).queue = l ∧
        t.chip.rd Reg.EVO_STATUS_LEVEL (32 + n) = e.act ∧ t.chip.rd Reg.EVO_STATUS_QUEUED (32 + n) = l.length % 2 ^ Reg.EVO_STATUS_QUEUED.width ∧
        t.chip.outs = .pin 3 n (e.adj * 2 + e.act) :: s.chip.outs) ∧
    (∀ (n : Fin 32) (u : Int) (idle w : Nat), s.chip.rd Reg.EVO_CFG_OWNER (32 + n) = 3 → w = s.chip.rd Reg.EVO_PER_CFG_WIDTH_NS (32 + n) * 65536 → idle = s.chip.rd Reg.EVO_CFG_IDLE_LEVEL (32 + n) →
      s.chip.rd Reg.EVO_STATUS_LEVEL (32 + n) = idle → (SMap.get s.chip.evos n).queue = [] →
      s.chip.periodic (timeOf96 (s.chip.rd Reg.EVO_PER_START (32 + n))) (s.chip.rd Reg.EVO_PER_CFG_PERIOD_NS (32 + n)) (s.chip.outLag n) = some u →
      (SMap.get s.chip.evos n).perFrom ≤ u → 2 ≤ s.chip.rd Reg.PWR_STATUS_STATE →
      ∃ t, exec (.evoPeriodicPulse n none) s = .next t ∧ t.pending = s.pending ∧ t.chip.rd Reg.EVO_STATUS_LEVEL (32 + n) = 1 - idle ∧
        t.chip.outs = .pin 3 n ((u - s.chip.outLag n) * 2 + (1 - idle : Nat)) :: s.chip.outs ∧ (SMap.get t.chip.evos n).perFrom = (u + 1).toNat ∧
        (SMap.get t.chip.evos n).queue = [[{ adj := u - s.chip.outLag n + w, t := (u + w).toNat, act := idle }]]) ∧
    (∀ (m : Fin 8) (u : Int), s.chip.on Reg.PPO_CFG_EN (64 + m) = true → 2 ≤ s.chip.rd Reg.PWR_STATUS_STATE → s.chip.on Reg.TIME_STATUS_TB_VALID = true →
      s.chip.periodic (s.chip.rdS Reg.PPO_OFFSET (64 + m) * 64 - (s.chip.rd Reg.PPO_PULSE_PERIOD_NS (64 + m) * 65536 : Nat)) (s.chip.rd Reg.PPO_PULSE_PERIOD_NS (64 + m))
        (s.chip.outLag (32 + m)) = some u → (SMap.get s.chip.evos (32 + m)).perFrom ≤ u → 0 ≤ u → s.chip.on Reg.PPO_CFG_POLARITY (64 + m) = false →
      ∃ t, exec (.ppsOutPulse m (none, none)) s = .next t ∧ t.pending = s.pending ∧ (SMap.get t.chip.evos (32 + m)).perFrom = (u + 1).toNat ∧
        t.chip.outs = .pin 4 m ((u - s.chip.outLag (32 + m) + (s.chip.rd Reg.PPO_PULSE_WIDTH_NS (64 + m) : Int) * 65536) * 2 + (1 - 1)) ::
          .pin 4 m ((u - s.chip.outLag (32 + m)) * 2 + 1) :: s.chip.outs)

/-- Low power and links: LPI_SLEEP_DELAY, LPI_RX, EIDLE_HOLDOFF_EXPIRE, EIDLE_WAKE_DONE, EIDLE_WAKE_FAIL, EIDLE_RX_ENTRY, EIDLE_RX_WAKE, EIDLE_LLDP_SEND,
EIDLE_REPORT_EXPIRE and LINK_STATE_CHANGE (R53, R63 to R67): a port with LPI_EN that may rest enters transmit LPI once the sleep delay has run (a free value, log
entry 149); a received LPI shows on a port without a timing lane and only counts on one with it; after the holdoff a port begins its eight ordered sets and 998.4 ns
after its wake burst started it is active again; the receiver freezes, relocks, or fails and takes the link down; the LLDP frame leaves each second; a report older
than 4 s counts no longer; a link that goes down shows it. -/
def Obligations.LowPowerAndLinks : Prop :=
  ∀ (p : Fin 512) (s : State) (q : PortSt), q = s.chip.portSt p →
    (s.chip.on Reg.PORT_CFG_LPI_EN p = true → s.chip.mayRest p = true → q.emptySince + (Config.lpiSleep (s.chip.mode p)).toNat ≤ s.chip.now →
      ∃ t, exec (.lpiSleepDelay p) s = .next t ∧ t.pending = s.pending ∧ t.chip.portSt p = { q with lpTx := 1 } ∧ t.chip.outs = .pin 0 p 1 :: s.chip.outs ∧
        t.chip.rd Reg.PORT_STATUS_LP_STATE p = if q.lpRx = 2 then 3 else 1) ∧
    (∀ low : Bool,
      (s.chip.timingPort p = false → s.chip.on Reg.PORT_CFG_LPI_EN p = true → s.chip.linkUp p = true → s.chip.looped p = false → q.lpTx < 2 →
        ∃ t, exec (.lpiRx p low) s = .next t ∧ t.pending = s.pending ∧ t.chip.portSt p = { q with lpRx := if low then 2 else 0 } ∧
          t.chip.rd Reg.PORT_STATUS_LP_STATE p = q.lpTx + if low then 2 else 0) ∧
      (s.chip.timingPort p = false → s.chip.looped p = true → ∃ t, exec (.lpiRx p low) s = .next t ∧ t.pending = s.pending ∧ t.chip = s.chip.steady) ∧
      (s.chip.timingPort p = true → ∃ t, exec (.lpiRx p true) s = .next t ∧ t.pending = s.pending ∧ t.chip = Chip.steady (s.chip.count Ev.RX_LPI_UNEXPECTED p))) ∧
    (s.chip.on Reg.PORT_CFG_EIDLE_EN p = true → s.chip.eidlePeer p = true → s.chip.mayRest p = true → q.emptySince + unitsUs (s.chip.rd Reg.EIDLE_CFG_HOLDOFF_US p) ≤ s.chip.now →
      ∃ t, exec (.eidleHoldoffExpire p) s = .next t ∧ t.pending = s.pending ∧ t.chip.portSt p = { q with lpTx := 7, idleArm := false, lpAt := s.chip.now } ∧
        t.chip.outs = .line p idleSets :: s.chip.outs) ∧
    (q.lpTx = 5 → q.lpAt + 99840 ≤ s.chip.now → q.idleArm = true →
      ∃ t, exec (.eidleWakeDone p) s = .next t ∧ t.pending = s.pending ∧ t.chip.portSt p = { q with lpTx := 0, lpSent := max q.lpSent 2 } ∧
        t.chip.outs = (if q.lpSent ≤ 1 then [.line p (.idleBlocks (if s.chip.mode p = 3 ∨ s.chip.mode p = 5 then 16 else 40))] else []) ++
          (if q.lpSent = 0 then [.line p (.prbs7 89600)] else []) ++ s.chip.outs ∧
        t.chip.rd Reg.PORT_STATUS_LP_STATE p = if q.lpRx = 2 then 2 else 0) ∧
    (q.lpRx = 4 → ∃ t, exec (.eidleWakeFail p) s = .next t ∧ t.pending = s.pending ∧
      t.chip = Chip.steady (((s.chip.count Ev.EIDLE_WAKE_FAIL p).portDown p).updPort p fun x => { x with retrain := true })) ∧
    (s.chip.on Reg.PORT_CFG_EIDLE_EN p = true → s.chip.eidlePeer p = true → s.chip.linkUp p = true → s.chip.timingPort p = false → s.chip.looped p = false →
      ∃ t, exec (.eidleRxEntry p) s = .next t ∧ t.pending = s.pending ∧ t.chip.portSt p = { q with lpRx := 4 } ∧ t.chip.linkUp p = true) ∧
    (q.lpRx = 4 → ∃ t, exec (.eidleRxWake p) s = .next t ∧ t.pending = s.pending ∧ t.chip.portSt p = { q with lpRx := 0 }) ∧
    (s.chip.linkUp p = true → s.chip.twinPort p = false → q.lldpDue = true → s.chip.fabPort p = false →
      ∃ t, exec (.eidleLldpSend p) s = .next t ∧ t.pending = s.pending ∧
        t.chip = Chip.steady ((s.chip.updPort p fun x => { x with lldpAt := s.chip.now, lldpDue := false }).ownFrame p 7 (s.chip.lldpFrame p))) ∧
    (q.peerEidle = true → s.chip.fabPort p = false → q.peerAt + unitsS 4 < s.chip.now →
      ∃ t, exec (.eidleReportExpire p) s = .next t ∧ t.pending = s.pending ∧ t.chip.portSt p = { q with peerEidle := false } ∧
        t.chip.on Reg.PORT_STATUS_EIDLE_NOPEER p = s.chip.on Reg.PORT_CFG_EIDLE_EN p) ∧
    (∀ (n : Fin 513) (an : Bool) (speed : Nat), ∃ t, exec (.linkStateChange n false an speed) s = .next t ∧ t.pending = s.pending ∧
      t.chip = Chip.steady (((((s.chip.portDown n).ptpRefresh).showTwinLink).twinEval).settleWaits))

/-- Frame reception: RX_FRAME_START, KEY_POINT, LOOKUP_POINT, GATHER_TAP, RX_OVERSIZE_CUT, CONFIRMATION and ERROR_MARKER_LATE_CONFIRM (R21, R23, R25, R33, R34, R74,
R80, R82 to R87, R92, R176, R259): a frame begins on a port whose link is up, with its stamp, and is stored, or is dropped at its head where the clock crossing would
run full (R34); a verify or respond packet is kept from lookup, and no frame but an express one begins on a port without the MAC merge; at its key point, in the
order of its port's frames (R33), a frame of MGT is trapped in class 7, a pause frame is dropped at its head, any other frame of an edge port gets its key, a fabric
frame and one of the twin link are taken as such; at its lookup point its one target is admitted, gets the cells that have arrived and starts where it may; a frame
with its result is taken by a gather input of its port; one that grows too long is cut; the tail check passes it or fails it with its first cause; a cut-through
frame that is not confirmed at its last byte is ended by a marker of cause 7. -/
def Obligations.FrameReception : Prop :=
  ∀ s : State,
    (∀ (port : Fin 513) (kind : RxKind) (b : Bytes) (edge : Edge) (deskew : Int) (y d : Chip) (f : Frame), s.chip.linkUp port = true → s.chip.nearLoop port = false →
      y = s.chip.atStamp false port edge →
      d = (if s.chip.pma false port edge then s.chip.laneStamped (s.chip.edgeLane port edge) edge.at_ else s.chip) →
      f = { id := d.path.frameCtr, port := port, kind := kind, bytes := b.take (d.maxFrame port + 1), stamp := s.chip.rxStamp port edge deskew
            cont := s.chip.rxStamp port edge deskew - y.rdS Reg.STEP_SUM, steps := y.rd Reg.TIME_STATUS_STEP_COUNT, pma := s.chip.pma false port edge
            startAt := d.now, dropUnit := port } →
      (kind ≠ .express → s.chip.merges port = false → ∃ t, exec (.rxFrameStart port kind b edge deskew) s = .next t ∧ t.pending = s.pending ∧ t.chip = s.chip.steady) ∧
      (∀ g : Frame, kind = .express ∨ s.chip.merges port = true →
        (port.val < 512 ∧ s.chip.belowZero = true ∧ s.chip.crossFree port < s.chip.maxFrame port ∧ g = { f with stage := 2, drop := Ev.RX_XOVF } ∨
         (512 ≤ port.val ∨ s.chip.belowZero = false ∨ s.chip.maxFrame port ≤ s.chip.crossFree port) ∧
          (g = f ∧ (kind ≠ .verify ∧ kind ≠ .respond) ∨ g = { f with stage := 2, drop := 1 } ∧ (kind = .verify ∨ kind = .respond))) →
        ∃ t, exec (.rxFrameStart port kind b edge deskew) s = .next t ∧ t.pending = s.pending ∧
          t.chip = Chip.steady { d with path := { d.path with frameCtr := d.path.frameCtr + 1, frames := d.path.frames ++ [g] } })) ∧
    (∀ (port : Fin 513) (kind : RxKind) (b : Bytes) (edge : Edge) (deskew : Int), s.chip.nearLoop port = true → (s.chip.portSt port).loopQ = [] →
      ∃ t, exec (.rxFrameStart port kind b edge deskew) s = .next t ∧ t.pending = s.pending ∧ t.chip = s.chip.steady) ∧
    (∀ (id : Nat) (f f1 g g1 : Frame) (x d : Chip), s.chip.frameOf id = some f → s.chip.inTurn f 0 = true →
      x = { s.chip with path := { s.chip.path with keyCtr := s.chip.path.keyCtr + 1 } } → 
      f1 = { f with stage := 1, keyNo := s.chip.path.keyCtr + 1, keyTime := s.chip.tb16, defPcp := s.chip.rd Reg.FP_CFG_DEF_PCP f.port } →
      (f.port = 512 ∧ d = x ∧ g = { f1 with cls := 7, traps := [7] } ∨
       f.port ≠ 512 ∧ s.chip.twinPort f.port = true ∧ d = x ∧ g = x.mirrorIn (Chip.twinKey f1) ∨
       f.port ≠ 512 ∧ s.chip.twinPort f.port = false ∧ s.chip.fabPort f.port = true ∧ x.fabricKey f1 = (g1, d) ∧ g = d.mirrorIn g1 ∨
       f.port ≠ 512 ∧ s.chip.twinPort f.port = false ∧ s.chip.fabPort f.port = false ∧
        ((pauseOf (f.inner 0)).isSome = true ∧ d = x ∧ g = x.mirrorIn (f1.headDrop 1) ∨ (pauseOf (f.inner 0)).isSome = false ∧ x.edgeKey f1 = (g, d))) →
      ∃ t, exec (.keyPoint id) s = .next t ∧ t.pending = s.pending ∧ t.chip = Chip.steady (d.updFrame id fun _ => d.keyEntries g)) ∧
    (∀ (id taken p : Nat) (f g h : Frame) (w x y : Chip), s.chip.frameOf id = some f → s.chip.inTurn f 1 = true → f.seqId = none → f.drop = 0 → f.mirs = [] → f.traps = [] →
      f.look.fab = 0 → f.look.many = false → maskPorts f.look.mask = [p] → w = s.chip.takeArrived →
      g = { f with stage := 2, lossless := decide (f.port < 512) && bitOf (w.losslessMask f.port) f.cls } →
      x = (w.updFrame id fun _ => g).admitAll id [(w.updFrame id fun _ => g).portTgt g p] → x.frameOf id = some h → h.tgts ≠ [] → h.drop = 0 → y = x.updFrame id (fun _ => h) →
      ∃ t, exec (.lookupPoint id taken false) s = .next t ∧ t.pending = s.pending ∧
        t.chip = Chip.steady ((Chip.chargeTo (max (min taken (cellsOf h.len)) (y.cellsHere h)) id h.writer (y.sourceOrder h) y).startCandidates id)) ∧
    (∀ (id i : Nat) (d : Fin 4) (f : Frame) (x : Chip), s.chip.frameOf id = some f → f.origin = .received → f.stage = 2 → f.res = 0 → f.tapped = false →
      (s.chip.path.frames.filter fun g => g.origin == .received && g.stage == 2 && g.res == 0 && !g.tapped && g.port / 8 == f.port / 8 && decide (g.keyNo ≤ f.keyNo)) = [f] →
      (s.chip.dom d).ran = true → s.chip.bankHeld (s.chip.rd Reg.GATHER_LIST_ADDR d i * 64) = false → (s.chip.gin d i).held = [] → (s.chip.dom d).tk ≤ f.keyTime → (f.keyTime : Int) < (s.chip.dom d).tk + ((s.chip.dom d).dIn * 65536 : Nat) → s.chip.frameInputs d = [i] →
      s.chip.rd Reg.GATHER_LIST_PORT d i = f.port → s.chip.on Reg.GATHER_LIST_SH_EN d i = false → (s.chip.gin d i).frame = none →
      x = (if ((s.chip.takeFrame d i f none).dom d).busy then (s.chip.takeFrame d i f none).resumeInputs d else s.chip.takeFrame d i f none) →
      (∀ e < 4, e ≠ d.val → (s.chip.dom e).ran = false ∧ (x.dom e).ran = false) →
      ∃ t, exec (.gatherTap id) s = .next t ∧ t.pending = s.pending ∧ t.chip = Chip.steady (x.updFrame id fun y => { y with tapped := true })) ∧
    (∀ (id : Nat) (f : Frame) (y : Chip), y = s.chip.gatherTap id → y.frameOf id = some f → f.stage = 2 → f.res = 0 → f.origin = .received → y.oldest f = true →
      (∀ cause : Nat, (cause = 2 ∧ y.maxFrame f.port < f.len ∧ (f.sdu = 0 ∨ y.maxFrame f.port ≤ f.sdu) ∨
          cause = 5 ∧ f.drop = 0 ∧ f.sdu ≠ 0 ∧ f.sdu < f.len ∧ f.sdu < y.maxFrame f.port) →
        ∃ t, exec (.rxOversizeCut id) s = .next t ∧ t.pending = s.pending ∧ t.chip = Chip.steady ((y.takeArrived.failFrame id cause).resolveGather id false)) ∧
      (∀ (codeErr fragErr : Bool) (fec : FecCount) (c1 x : Chip) (g : Frame), y.portTurn f.port = true → y.historyHeld f = false →
        c1 = (y.takeRest id).countFec f.port fec → x = { c1 with path := { c1.path with tailAt := y.now, tailPort := f.port } } → x.frameOf id = some g →
        (x.tailCause g codeErr fec.err fragErr = 0 →
          ∃ t, exec (.confirmation id codeErr fec fragErr) s = .next t ∧ t.pending = s.pending ∧ t.chip = Chip.steady ((x.passFrame id).resolveGather id true)) ∧
        (∀ cause, x.tailCause g codeErr fec.err fragErr = cause → cause ≠ 0 →
          ∃ t, exec (.confirmation id codeErr fec fragErr) s = .next t ∧ t.pending = s.pending ∧ t.chip = Chip.steady ((x.failFrame id cause).resolveGather id false)))) ∧
    (∀ (p : Fin 513) (id k : Nat) (f : Frame) (u : Tgt), (s.chip.portSt p).tx = some (id, k) → s.chip.frameOf id = some f → s.chip.tgtOf id k = some u → f.res = 0 →
      u.cut = true → s.chip.on Reg.BARO_STATUS_CORE_SLOW_NOW = true →
      ∃ t, exec (.errorMarkerLateConfirm p) s = .next t ∧ t.pending = s.pending ∧ t.chip = Chip.steady ((s.chip.markEnd p id k 7).endCopies id k 7))

/-- Frame transmission: EGRESS_START_OPPORTUNITY, RELEASE_STAGE_ARRIVAL, LAUNCH_SENT, TX_FRAME_END, PAUSE_EXPIRE, PFC_REPEAT, SHAPER_WAKE and RED_AVG_UPDATE (R101 to
R103, R110 to R114, R126 to R130): a free lane starts a flow-control frame that is due, else the head of its highest ready class, whose shaper advances; a due frame
of the port's own suspends a preemptable one (R124); a timed frame that reaches its stage waits while
the slots are full, else takes a slot, or is dropped late or too far ahead; it leaves at the first
boundary from its launch time on, once the time copy is there, with E = B - L (of a channel that is not locked, from the nominal grid of log entry 150), or is dropped
late because that boundary has passed or its lane cannot send or is not free, and at any other boundary nothing is sent; the end of a frame frees the lane and counts it; a pause ends with its
time; a flow-control frame is repeated while XOFF lasts; the calendar finds a shaper's eligible time reached; an average moves toward the depth. -/
def Obligations.FrameTransmission : Prop :=
  ∀ s : State,
    (∀ (p : Fin 513) (unit : Nat) (edge : Edge), s.chip.laneOpen p = true → (s.chip.portSt p).ctl = false →
      (∀ (y : Nat × Nat), (s.chip.portSt p).tx = some y →
        (s.chip.maySuspend p = false → ∃ t, exec (.egressStartOpportunity p unit edge) s = .next t ∧ t.pending = s.pending ∧ t.chip = s.chip.steady) ∧
        (∀ z : Chip, s.chip.maySuspend p = true → (s.chip.suspend p).controlFrame p unit edge = some z →
          ∃ t, exec (.egressStartOpportunity p unit edge) s = .next t ∧ t.pending = s.pending ∧ t.chip = (s.chip.suspend p).steady)) ∧
      (∀ m x b, (s.chip.portSt p).tx = none → s.chip.gapOver p unit = true → b = s.chip.flowFrame p m → (s.chip.portSt p).fcDue = some m → s.chip.leavesBefore p (b.length + 4) unit = true →
        x = (s.chip.updPort p fun y => { y with fcDue := none, fcLast := s.chip.now }) →
        ∃ t, exec (.egressStartOpportunity p unit edge) s = .next t ∧ t.pending = s.pending ∧
          t.chip = Chip.steady (((x.updPort p fun y => { y with ctl := true }).emit (.txStart p 7 b (x.txStamp p edge))).feedBack p .express (b ++ fcsBytes b))) ∧
      (∀ (id k : Nat) (u : Tgt), (s.chip.portSt p).tx = none → s.chip.gapOver p unit = true → s.chip.controlFrame p unit edge = none → (s.chip.portSt p).susp = none →
        s.chip.consider (queueOf p 7) unit false false = (true, false, s.chip) →
        s.chip.head (queueOf p 7) = some (id, k) → s.chip.tgtOf id k = some u →
        ∃ t, exec (.egressStartOpportunity p unit edge) s = .next t ∧ t.pending = s.pending ∧
          t.chip = Chip.steady ((s.chip.shape (queueOf p 7) (u.body.length + 4) id k).startTgt p id k edge 0))) ∧
    (∀ (q : Fin 4104) (id k l : Nat) (f : Frame) (u : Tgt), s.chip.head q = some (id, k) → s.chip.frameOf id = some f → s.chip.tgtOf id k = some u → u.launch = some l →
      (f.res ≠ 1 ∨ 16 ≤ (s.chip.portSt u.port).slots.length ∨ s.chip.cellsOpen f = false →
        ∃ t, exec (.releaseStageArrival q) s = .next t ∧ t.pending = s.pending ∧ t.chip = s.chip.steady) ∧
      (f.res = 1 → (s.chip.portSt u.port).slots.length < 16 → s.chip.cellsOpen f = true →
      (l < s.chip.tb16 → ∃ t, exec (.releaseStageArrival q) s = .next t ∧ t.pending = s.pending ∧ t.chip = Chip.steady (s.chip.dropTimed Ev.LATE_DROP id k)) ∧
      (s.chip.tb16 ≤ l → s.chip.tooFar l = true → ∃ t, exec (.releaseStageArrival q) s = .next t ∧ t.pending = s.pending ∧
        t.chip = Chip.steady (s.chip.dropTimed Ev.LAUNCH_FAR id k)) ∧
      (s.chip.tb16 ≤ l → s.chip.tooFar l = false →
        ∃ t, exec (.releaseStageArrival q) s = .next t ∧ t.pending = s.pending ∧
          t.chip = Chip.steady ((((s.chip.unqueue q (id, k)).updTgt id k fun y => { y with st := .slot }).updPort u.port fun y =>
            { y with slots := y.slots ++ [(id, k)] }).showSlots u.port)))) ∧
    (∀ (p : Fin 513) (b l id k : Nat) (edge : Edge) (f : Frame) (u : Tgt), s.chip.firstSlot p = some (l, id, k) → s.chip.frameOf id = some f → s.chip.tgtOf id k = some u →
      (s.chip.boundaryPassed p l = true → ∃ t, exec (.launchSent p b edge) s = .next t ∧ t.pending = s.pending ∧
        t.chip = Chip.steady (s.chip.dropTimed Ev.LATE_DROP id k)) ∧
      (s.chip.boundaryPassed p l = false → s.chip.isBoundary p l b = false ∨ s.chip.tb16 + tickUp16 ≤ b →
        ∃ t, exec (.launchSent p b edge) s = .next t ∧ t.pending = s.pending ∧ t.chip = s.chip.steady) ∧
      (s.chip.boundaryPassed p l = false → s.chip.isBoundary p l b = true → b < s.chip.tb16 + tickUp16 →
        (∀ e : Nat, s.chip.cellsOpen f = true → (s.chip.credited p (u.queue % 8) = true → cellsOf (u.body.length + 4) ≤ s.chip.credit p (u.queue % 8)) →
          s.chip.laneOpen p = true → s.chip.laneFree p b = true → bitOf (s.chip.rd Reg.SCHED_STAT_PAUSED p) (u.queue % 8) = false →
          e = (if SMap.get s.chip.tdc (s.chip.edgeChannel true p edge) then b - l else s.chip.boundary p l - l) / 64 →
          ∃ t, exec (.launchSent p b edge) s = .next t ∧ t.pending = s.pending ∧
            t.chip = Chip.steady (((s.chip.count Ev.LAUNCH_SENT u.queue).startTgt p id k edge e).showSlots p)) ∧
        (s.chip.laneOpen p = false ∨ s.chip.laneFree p b = false ∨ s.chip.cellsOpen f = false ∨ bitOf (s.chip.rd Reg.SCHED_STAT_PAUSED p) (u.queue % 8) = true ∨
            s.chip.credited p (u.queue % 8) = true ∧ s.chip.credit p (u.queue % 8) < cellsOf (u.body.length + 4) →
          ∃ t, exec (.launchSent p b edge) s = .next t ∧ t.pending = s.pending ∧ t.chip = Chip.steady (s.chip.dropTimed Ev.LATE_DROP id k)))) ∧
    (∀ (p : Fin 513) (id k : Nat) (f : Frame) (u : Tgt) (w x : Chip), (s.chip.portSt p).ctl = false → (s.chip.portSt p).tx = some (id, k) → s.chip.frameOf id = some f →
      s.chip.tgtOf id k = some u → f.res = 1 → w = s.chip.takeArrived → w.preemptable p (u.queue % 8) = false → w.reports f u = false →
      x = ((((((w.count Ev.TX_FRAMES p (u.body.length + 4)).count Ev.TX_Q_FRAMES u.queue (u.body.length + 4)).gapAfter p).updPort p fun y => { y with tx := none }).emit
        (.txEnd p)).dropTgt id k).idleCheck p →
      ∃ t, exec (.txFrameEnd p) s = .next t ∧ t.pending = s.pending ∧ t.chip = Chip.steady (if x.twinPort p && x.pairOn then x.ckDrain else x)) ∧
    (∀ (p : Fin 513) (l : List Nat), l = (List.range 8).filter (fun k => bitOf (s.chip.rd Reg.SCHED_STAT_PAUSED p) k && decide (SMap.get (s.chip.portSt p).pausedTo k ≤ s.chip.now)) →
      l ≠ [] → ∃ t, exec (.pauseExpire p) s = .next t ∧ t.pending = s.pending ∧
        t.chip.rd Reg.SCHED_STAT_PAUSED p = l.foldl clrBit (s.chip.rd Reg.SCHED_STAT_PAUSED p) % 2 ^ Reg.SCHED_STAT_PAUSED.width) ∧
    (∀ p : Fin 512, s.chip.rd Reg.IN_STAT_XOFF p ≠ 0 → s.chip.fabPort p = false → (s.chip.portSt p).fcLast + 32768 * (512 * 100000 / max 1 (s.chip.rate p)) ≤ s.chip.now →
      ∃ t, exec (.pfcRepeat p) s = .next t ∧ t.pending = s.pending ∧
        (t.chip.portSt p).fcDue = some (((s.chip.portSt p).fcDue.getD 0) ||| s.chip.rd Reg.IN_STAT_XOFF p)) ∧
    (∀ q : Fin 4104, ∃ t, exec (.shaperWake q) s = .next t ∧ t.pending = s.pending ∧ t.chip.shaperOk q = (s.chip.rd Reg.SHP_RATE_RATE q == 0 || decide (s.chip.shTe q ≤ s.chip.vTime)) ∧
      t.chip = Chip.steady { s.chip with path := { s.chip.path with
        cal := SMap.set s.chip.path.cal q (s.chip.rd Reg.SHP_RATE_RATE q != 0 && decide (s.chip.vTime < s.chip.shTe q)) } }) ∧
    (∀ (q w d avg : Nat), ((List.range 4096).filter fun q => s.chip.rd Reg.Q_BUF_RED_PROF q != 0) = [q] → s.chip.path.redN < s.chip.now / 65536 → w = s.chip.rd Reg.RED_PROF_W 0 (3 * s.chip.rd Reg.Q_BUF_RED_PROF q) →
      d = s.chip.depthShown q * 65536 → avg = SMap.get s.chip.path.redAvg q →
      ∃ t, exec .redAvgUpdate s = .next t ∧ t.pending = s.pending ∧
        SMap.get t.chip.path.redAvg q = if avg ≤ d then avg + (d - avg) / 2 ^ w else avg - (avg - d) / 2 ^ w)

/-- Gate lists and verification: GATE_ENTRY_CHANGE, GATE_CHANGE_TIME, STREAM_GATE_ENTRY_CHANGE and VERIFY_TIMER (R117, R118, R121, R123, R149): where no change
time has come the status shows where the list stands now; at its change time the operational list takes the administrative one, which then runs and is pending no
longer; a port that starts verification sends a verify frame, again at each VERIFY_MS, and after three without an answer verification has failed. -/
def Obligations.GateListsAndVerification : Prop :=
  ∀ s : State,
    (∀ (p : Fin 512), s.chip.gatePending p = false →
      ∃ t, exec (.gateEntryChange p) s = .next t ∧ t.pending = s.pending ∧
        t.chip.rd Reg.GATE_STATUS_OPER_STATES p = (s.chip.gateAt p s.chip.tb16).1 % 2 ^ Reg.GATE_STATUS_OPER_STATES.width ∧
        t.chip.rd Reg.GATE_STATUS_ENTRY p = (s.chip.gateAt p s.chip.tb16).2.1 % 2 ^ Reg.GATE_STATUS_ENTRY.width) ∧
    (∀ (l : Nat), l < 512 → s.chip.gatePending l = true → s.chip.gateCT l ≤ s.chip.tb16 →
      ∃ t, exec (.gateChangeTime l) s = .next t ∧ t.pending = s.pending ∧ t.chip.on Reg.GATE_STATUS_PENDING l = false ∧
        t.chip.on Reg.GATE_STATUS_RUNNING l = true ∧ t.chip.rd Reg.OPER_LEN l = s.chip.rd Reg.ADMIN_LEN l ∧ t.chip.rd Reg.OPER_BASE l = s.chip.rd Reg.ADMIN_BASE l ∧
        t.chip.rd Reg.OPER_CYCLE l = s.chip.rd Reg.ADMIN_CYCLE l ∧ t.chip.rd Reg.OPER_EXT l = s.chip.rd Reg.ADMIN_EXT l ∧ t.chip = Chip.steady (s.chip.gateSwap l)) ∧
    (∀ (g : Fin 512),
      (s.chip.gatePending (1024 + g) = false → ∃ t, exec (.streamGateEntryChange g) s = .next t ∧ t.pending = s.pending ∧
        t.chip.on Reg.SG_STATUS_OPEN 3 g = bitOf (s.chip.gateAt (1024 + g) s.chip.tb16).1 7 ∧
        t.chip.rd Reg.SG_STATUS_ENTRY 3 g = (s.chip.gateAt (1024 + g) s.chip.tb16).2.1 % 2 ^ Reg.SG_STATUS_ENTRY.width) ∧
      (s.chip.gatePending (1024 + g) = true → s.chip.gateCT (1024 + g) ≤ s.chip.tb16 → ∃ t, exec (.streamGateEntryChange g) s = .next t ∧ t.pending = s.pending ∧
        t.chip = Chip.steady ((s.chip.gateSwap (1024 + g)).gateStatus (1024 + g)))) ∧
    (∀ (p : Fin 512), s.chip.linkUp p = true →
      (s.chip.rd Reg.SCHED_STAT_VERIFY_STATE p = 1 → (s.chip.portSt p).verTries = 0 →
        ∃ t, exec (.verifyTimer p) s = .next t ∧ t.pending = s.pending ∧ t.chip.rd Reg.SCHED_STAT_VERIFY_STATE p = 2 ∧
          (t.chip.portSt p).verTries = 1 ∧ (t.chip.portSt p).verAt = s.chip.now ∧ (t.chip.portSt p).verDue = true ∧
          t.chip = Chip.steady (((s.chip.wr Reg.SCHED_STAT_VERIFY_STATE 2 p).updPort p fun y => { y with verTries := 1, verAt := s.chip.now, verDue := true }).wakePort p)) ∧
      (s.chip.rd Reg.SCHED_STAT_VERIFY_STATE p = 2 → (s.chip.portSt p).verTries = 3 →
        (s.chip.portSt p).verAt + unitsMs (s.chip.rd Reg.SCHED_CFG_VERIFY_MS p) ≤ s.chip.now →
        ∃ t, exec (.verifyTimer p) s = .next t ∧ t.pending = s.pending ∧ t.chip.rd Reg.SCHED_STAT_VERIFY_STATE p = 4 ∧
          t.chip = Chip.steady ((s.chip.wr Reg.SCHED_STAT_VERIFY_STATE 4 p).count Ev.VERIFY_FAIL p)))

/-- Timebase, core speed and converters: TIMEBASE_TICK, TIME_INCR_DURATION_END, BARO_SAMPLE, TDC_LOCK_CHANGE, PHM_LOS, PHM_RESTART and PHM_SAMPLE (R38 to R42, R161,
R162, R166, R172, R187, R190, R191): a tick adds TB_INCR to the timebase and one to TICKS, and what time moves and a freeze has held back goes on; the last tick of a
duration gives ADJ its next value, clipped; a sample of the Barometer cells with a count below its worst-corner count sets CORE_SLOW; a channel whose loops have
stayed within a step for 4,096 ticks locks (what counts as the step is log entry 166), one of which a loop leaves it unlocks, which is latched and notified; a
monitor without an edge declares LOS, restarts at the next edge, and takes its samples while it runs; the sample at a PPS input that offers time gives the time
selector an offset too. -/
def Obligations.TicksAndConverters : Prop :=
  ∀ s : State,
    (s.chip.pwr.low = false → s.chip.pwr.failed = false → s.chip.time.steps = [] → s.chip.time.durOn = false →
      ∃ t, exec (.timebaseTick 1) s = .next t ∧ t.pending = s.pending ∧
        t.chip = Chip.steady (((({ s.chip with time := { s.chip.time with tb := tbWrap (s.chip.time.tb + s.chip.tbIncr) } } : Chip).wr Reg.TICKS
          (s.chip.rd Reg.TICKS + 1)).synTick).carTick).restStep.shelfDue.thawHeld) ∧
    (∀ y : Chip, s.chip.pwr.low = false → s.chip.pwr.failed = false → s.chip.time.steps = [] → s.chip.time.durOn = true → s.chip.time.durLeft = 1 →
      y = ({ s.chip with time := { s.chip.time with tb := tbWrap (s.chip.time.tb + s.chip.tbIncr), durLeft := 0, durOn := false } } : Chip).wr Reg.TICKS
          (s.chip.rd Reg.TICKS + 1) →
      ∃ t, exec (.timebaseTick 1) s = .next t ∧ t.pending = s.pending ∧
        t.chip = Chip.steady ((((y.setAdj s.chip.time.durAfter).synTick).carTick).restStep.shelfDue.thawHeld)) ∧
    (∀ n : Nat, s.chip.pwr.low = true → ∃ t, exec (.timebaseTick n) s = .next t ∧ t.pending = s.pending ∧ t.chip = s.chip.steady) ∧
    (∀ m : Int, s.chip.time.durOn = true → s.chip.time.durLeft = 0 → m = ppbUnits (s.chip.rd Reg.SERVO_CTRL_MAX_ADJ) →
      ∃ t, exec .timeIncrDurationEnd s = .next t ∧ t.pending = s.pending ∧ t.chip.time = { s.chip.time with durOn := false } ∧
        t.chip.rdS Reg.ADJ = max (-m) (min m s.chip.time.durAfter)) ∧
    (∀ counts : List Nat, s.chip.baroAt ≤ s.chip.now → counts.length = 32 → s.chip.cal.baroRef.length = 32 →
      (∃ q ∈ counts.zip s.chip.cal.baroRef, ((q.1 : Int) - q.2) * 20000 < -(q.2 : Int)) →
      ∃ t, exec (.baroSample counts) s = .next t ∧ t.pending = s.pending ∧ t.chip.on Reg.BARO_STATUS_CORE_SLOW = true ∧
        t.chip.baroAt = s.chip.baroAt + unitsUs (s.chip.rd Reg.BARO_CFG_SAMPLE_US) ∧ t.chip.baroClear = 0) ∧
    (∀ (ch : Fin 1104) (a b : Int),
      (∀ x : Chip, 1 < a.natAbs ∨ 1 < b.natAbs → SMap.get s.chip.tdc ch = true →
        x = ({ s.chip with time := { s.chip.time with tdcFrom := SMap.set s.chip.time.tdcFrom ch 0 }, tdc := SMap.set s.chip.tdc ch false } : Chip).showTdc ch →
        ∃ t, exec (.tdcLockChange ch (a, b)) s = .next t ∧ t.pending = s.pending ∧ SMap.get t.chip.tdc ch = false ∧
          t.chip = Chip.steady ((x.flag Reg.TDC_STATUS_UNLOCK_SEEN true).notify Nt.TDC_UNLOCK Cls.DEV 0 0x40)) ∧
      (a.natAbs ≤ 1 → b.natAbs ≤ 1 → SMap.get s.chip.time.tdcFrom ch = 0 → ∃ t, exec (.tdcLockChange ch (a, b)) s = .next t ∧ t.pending = s.pending ∧
        t.chip = Chip.steady { s.chip with time := { s.chip.time with tdcFrom := SMap.set s.chip.time.tdcFrom ch (s.chip.rd Reg.TICKS + 1) } }) ∧
      (a.natAbs ≤ 1 → b.natAbs ≤ 1 → SMap.get s.chip.time.tdcFrom ch ≠ 0 → SMap.get s.chip.time.tdcFrom ch + 4095 ≤ s.chip.rd Reg.TICKS →
        ∃ t, exec (.tdcLockChange ch (a, b)) s = .next t ∧ t.pending = s.pending ∧ SMap.get t.chip.tdc ch = true)) ∧
    (∀ m : Fin 520, s.chip.on (phmRegs m).en (phmRegs m).inst = true → SMap.get s.chip.tdc (phmChannel m) = true →
      (s.chip.on (phmRegs m).los (phmRegs m).inst = false →
        (SMap.get s.chip.phms m).seenAt + ceilDiv (2 * s.chip.phmHalves m * s.chip.phmEvery m * (s.chip.phmHz m).2 * unitsS 1) (max 1 (s.chip.phmHz m).1) ≤ s.chip.now →
        ∃ t, exec (.phmLos m) s = .next t ∧ t.pending = s.pending ∧ t.chip.on (phmRegs m).los (phmRegs m).inst = true ∧
          t.chip.on (phmRegs m).losSeen (phmRegs m).inst = true) ∧
      (∀ (edge : Fine) (y : Chip), s.chip.on (phmRegs m).los (phmRegs m).inst = true → y = (s.chip.flag (phmRegs m).los false (phmRegs m).inst).phmRestart m →
        ∃ t, exec (.phmRestart m edge) s = .next t ∧ t.pending = s.pending ∧
          t.chip = Chip.steady (if y.phmClash m edge then y else (y.phmKeep m edge).phmFirst m edge)) ∧
      (∀ (edges : Nat) (edge : Fine) (x : Chip) (n : Nat), s.chip.on (phmRegs m).los (phmRegs m).inst = false → (SMap.get s.chip.phms m).live = false → edges ≠ 0 →
        s.chip.phmClash m edge = false → x = (s.chip.phmKeep m edge).phmFirst m edge →
        n = m.val - 512 →
        (m.val < 516 → ∃ t, exec (.phmSample m (edges, edge)) s = .next t ∧ t.pending = s.pending ∧ t.chip = x.steady ∧
          SMap.get t.chip.phms m = { live := true, c0 := s.chip.edgeCont (phmChannel m) edge, g0 := s.chip.gridTime (phmChannel m) edge, got := 1
                                     seenAt := s.chip.now, stampC := (SMap.get s.chip.phms m).stampC }) ∧
        (516 ≤ m.val → s.chip.on Reg.REF_CFG_TIME n = true → ∃ t, exec (.phmSample m (edges, edge)) s = .next t ∧ t.pending = s.pending ∧
          t.chip = Chip.steady ((x.wrS Reg.REF_TOFF (x.toff n) n).servoOffset n (x.toff n) (1, 1)))))

/-- Loops and outputs: DPLL_UPDATE, DPLL_FREQ_CHECK, DPLL_HOP_DONE, RAMP_PROFILE_START, RAMP_HOLD_EXPIRE, SYN_TARGET_START, ENC_QUARTER_EDGE and
CKO_ALIGN_RESTART (R207, R210, R212 to R217, R220, R222): the frequency stage moves the loop toward the target offset under its limits, the phase stage and lock
work on the error less the build-out; a check that passes ends the frequency stage, removes the present phase error by build-out and starts the integrator at the
present offset, and the second failure in a row in lock loses it; the end of a hop starts to acquire; a profile runs through its entries; a queued target starts;
an encoder edge is placed on A or B; a muted output starts again at a grid instant with the phase it has there. -/
def Obligations.LoopsAndOutputs : Prop :=
  ∀ (d : Fin 5) (s : State),
    (∀ (e0 e : Int) (ph : List (Nat × Int)) (f : Nat × Nat), s.chip.fpd d = some f → s.chip.detects d = true → e = s.chip.loopErr d e0 →
      (s.chip.synState d = 2 → ph = [] →
        ∃ t, exec (.dpllUpdate d e0 ph) s = .next t ∧ t.pending = s.pending ∧ (SMap.get t.chip.dplls d).y = s.chip.synLimit d (s.chip.dpll d).goal ∧
          t.chip.rd Reg.SYN_PHERR d = encS Reg.SYN_PHERR.width (divRoundS e 64) % 2 ^ Reg.SYN_PHERR.width) ∧
      (∀ (w : Chip) (e1 : Int), s.chip.synState d = 3 ∨ s.chip.synState d = 4 → w = s.chip.workOff d → e1 = e - divRoundS (w.dpll d).build (10 ^ 11) →
        ∃ t, exec (.dpllUpdate d e0 ph) s = .next t ∧ t.pending = s.pending ∧
          t.chip = Chip.steady ((((w.wrS Reg.SYN_PHERR (divRoundS e1 64) d).phaseUpdate d e1 f).usedSamples d).takePhases d ph))) ∧
    (∀ count off e0 e : Int, (s.chip.dpll d).chkAt + unitsMs (s.chip.rd Reg.SYN_LOCK_FCHK_MS d) ≤ s.chip.now →
      off = count + divRoundS (s.chip.tgtRate d * 1000) freqUnit → e = s.chip.loopErr d e0 →
      (s.chip.synState d = 2 → off.natAbs ≤ s.chip.rd Reg.SYN_LOCK_FCHK_TOL d * 1000 →
        ∃ t, exec (.dpllFreqCheck d count e0) s = .next t ∧ t.pending = s.pending ∧ t.chip.synState d = 3 ∧ (SMap.get t.chip.dplls d).fchkOk = true ∧
          (SMap.get t.chip.dplls d).i = (s.chip.dpll d).y ∧ (SMap.get t.chip.dplls d).build = e * 10 ^ 11) ∧
      (∀ x : Chip, s.chip.synState d = 4 → s.chip.rd Reg.SYN_LOCK_FCHK_TOL d * 1000 < off.natAbs → 1 ≤ (s.chip.dpll d).fchkBad →
        x = s.chip.updDpll d (fun y => { y with chkAt := s.chip.now, fchkBad := (s.chip.dpll d).fchkBad + 1, goal := y.y + divRoundS (off * freqUnit) 1000 }) →
        ∃ t, exec (.dpllFreqCheck d count e0) s = .next t ∧ t.pending = s.pending ∧ t.chip = Chip.steady (x.loseLock d))) ∧
    (1 ≤ d.val → s.chip.synState d = 6 →
      ∃ t, exec (.dpllHopDone d) s = .next t ∧ t.pending = s.pending ∧ t.chip.synState d = (if s.chip.on Reg.SYN_CFG_FREQ_FIRST d then 2 else 3) ∧
        (SMap.get t.chip.dplls d).goal = (s.chip.dpll d).y ∧ (SMap.get t.chip.dplls d).fchkOk = false) ∧
    (1 ≤ d.val → s.chip.on Reg.SYN_RAMP_CTRL_RUN d = true → (s.chip.dpll d).gen.prof = none → timeOf96 (s.chip.rd Reg.RAMP_START d) ≤ s.chip.tb16 →
      ∃ t, exec (.rampProfileStart d) s = .next t ∧ t.pending = s.pending ∧ (SMap.get t.chip.dplls d).gen.prof = some 0 ∧
        (SMap.get t.chip.dplls d).gen.target = s.chip.rdS Reg.SYN_RAMP_PROF_TARGET d 0 ∧ (SMap.get t.chip.dplls d).gen.reached = false) ∧
    (∀ k h : Nat, (s.chip.dpll d).gen.prof = some k → (s.chip.dpll d).gen.holdTo = some h → h ≤ s.chip.now → s.chip.on Reg.SYN_RAMP_CTRL_RUN d = true →
      ∃ t, exec (.rampHoldExpire d) s = .next t ∧ t.pending = s.pending ∧
        (k + 1 < s.chip.rd Reg.SYN_RAMP_CTRL_LEN d → (SMap.get t.chip.dplls d).gen.prof = some (k + 1) ∧
          (SMap.get t.chip.dplls d).gen.target = s.chip.rdS Reg.SYN_RAMP_PROF_TARGET d (k + 1)) ∧
        (s.chip.rd Reg.SYN_RAMP_CTRL_LEN d ≤ k + 1 → s.chip.on Reg.SYN_RAMP_CTRL_LOOP d = true → (SMap.get t.chip.dplls d).gen.prof = some 0 ∧
          (SMap.get t.chip.dplls d).gen.target = s.chip.rdS Reg.SYN_RAMP_PROF_TARGET d 0) ∧
        (s.chip.rd Reg.SYN_RAMP_CTRL_LEN d ≤ k + 1 → s.chip.on Reg.SYN_RAMP_CTRL_LOOP d = false → (SMap.get t.chip.dplls d).gen.holdTo = none ∧
          (SMap.get t.chip.dplls d).gen.target = (s.chip.dpll d).gen.target)) ∧
    (∀ (a : Nat) (g : Int) (w : Nat) (l : List (Nat × Int × Nat)), 1 ≤ d.val → (s.chip.dpll d).gen.reqs = (a, g, w) :: l → a ≤ s.chip.now →
      ∃ t, exec (.synTargetStart d) s = .next t ∧ t.pending = s.pending ∧ (SMap.get t.chip.dplls d).gen.target = g ∧
        (SMap.get t.chip.dplls d).gen.slew = w ∧ (SMap.get t.chip.dplls d).gen.reqs = l) ∧
    (∀ (q a : Int) (l : List (Int × Int)), (s.chip.dpll d).gen.edges = (q, a) :: l →
      ∃ t, exec (.encQuarterEdge d) s = .next t ∧ t.pending = s.pending ∧ (SMap.get t.chip.dplls d).gen.edges = l ∧
        t.chip = Chip.steady ((s.chip.updGen d fun g => { g with edges := l }).encDrive d (if (q / 2) % 2 = q % 2 then 2 else 3)
          (if (q / 2) % 2 = q % 2 then (encLevels (q / 2)).1 else (encLevels (q / 2)).2) a) ∧
        ∀ (o : Nat), o < 8 → s.chip.on Reg.CKO_STATUS_RUNNING (16 + o) = true ∨ (SMap.get s.chip.ckos o).stopping = true → s.chip.ckoLoop o = d →
          s.chip.rd Reg.CKO_CFG_FORMAT (16 + o) = (if (q / 2) % 2 = q % 2 then 2 else 3) →
          (if (q / 2) % 2 = q % 2 then (encLevels (q / 2)).1 else (encLevels (q / 2)).2) ≠ (SMap.get s.chip.ckos o).level →
          .pin 5 o (a * 2 + (if (q / 2) % 2 = q % 2 then (encLevels (q / 2)).1 else (encLevels (q / 2)).2 : Nat)) ∈ t.chip.outs) ∧
    (∀ (o : Fin 8) (edge : Int) (y : Cko), y = SMap.get s.chip.ckos o → y.wait = true → s.chip.ckoMay o = true → y.mutedAt + unitsUs 20 ≤ s.chip.now →
      y.startAt ≤ s.chip.tb16 + tick16 →
      ∃ t, exec (.ckoAlignRestart o edge) s = .next t ∧ t.pending = s.pending ∧
        t.chip = Chip.steady ((({ s.chip with ckos := SMap.set s.chip.ckos o { y with wait := false } } : Chip).wrS Reg.CKO_PHASE (divRoundS (s.chip.ckoPhase o edge) 64)
          (16 + o)).showCko o))

/-- References and selectors: SEL_EVALUATE, SUPPRESS_WINDOW_END, REF_QUALIFY, REF_DISQUALIFIED, REF_MEAS_WINDOW, SEL_ACQ_TIMEOUT, HO_MAX_EXPIRE and HO_HISTORY_RECORD
(R235 to R240, R248): an evaluation looks at every reference first, then at the frequency selector, then at the time selector; a reference healthy for its wait is
qualified and one that stops being healthy is disqualified at once, noted in DISQ_SEEN, and left by its selector (R18); a window ends with its oscillator offset in
Y_OSC; no lock in time disqualifies the reference and evaluates its selector anew; HO_MAX_S ends holdover in LOST; a second's mean in LOCKED enters the ring. The
window opens only while the base health holds, and held references are retried inside the evaluation (log entry 40). -/
def Obligations.SelectorsAndReferences : Prop :=
  ∀ s : State,
    (∃ t, exec .selEvaluate s = .next t ∧ t.pending = s.pending ∧
      t.chip = Chip.steady (((((((s.chip.each (List.range 24) fun n c => c.refScan n).jumpRetry).jumpAgain).evalSel 0).evalSel 1).selShow).twinEval)) ∧
    (s.chip.coal.supOn = true → s.chip.coal.supUntil ≤ s.chip.now →
      ∃ t, exec .suppressWindowEnd s = .next t ∧ t.pending = s.pending ∧ t.chip.coal = { s.chip.coal with supOn := false } ∧
        ∀ (F : Fld) (i e : Nat), F.id ∉ steadyIds → t.chip.rd F i e = s.chip.rd F i e) ∧
    (∀ (n : Fin 24) (r : Ref), r = s.chip.ref n → s.chip.rd Reg.REF_CFG_RANK n ≠ 0 → s.chip.refKept n = false →
      (s.chip.refBase n = true → r.winOn = true → r.hard = false → r.healthy = true → r.qual = false →
        r.since + unitsS (s.chip.refWait n) ≤ s.chip.now →
        ∃ t, exec (.refQualify n) s = .next t ∧ t.pending = s.pending ∧ SMap.get t.chip.car.refs n = { r with qual := true, ever := true, pre := false }) ∧
      (∀ x : Chip, s.chip.refBase n = false → r.winOn = false → r.healthy = true → x = s.chip.refScan n →
        ∃ t, exec (.refDisqualified n) s = .next t ∧ t.pending = s.pending ∧ x.ref n = { r with healthy := false, qual := false, pre := false } ∧
          (r.qual = false → t.chip = x.showRefs.steady) ∧
          (r.qual = true → x.on Reg.REF_STATUS_DISQ_SEEN n = true ∧ t.chip = Chip.steady (((x.evalSel 0).evalSel 1).selShow)))) ∧
    (∀ (n : Fin 24) (m ticks : Nat) (p : Phm) (r : Ref) (osc : Int) (x : Chip), x = s.chip.measTake n → r = s.chip.ref n → m = s.chip.refMonitor n → p = SMap.get s.chip.phms m → r.winOn = true →
      r.winAt + unitsS 10 ≤ s.chip.now → r.winR = s.chip.rd (phmRegs m).restarts (phmRegs m).inst → ticks = (s.chip.now - r.winAt) / 256 →
      osc = phmFreq (p.phase - r.winPhase) (p.n - r.winN) (s.chip.phmPnom m) + (divRoundS ((s.chip.car.yInt - r.winY) * 1000) (ticks * freqUnit) +
        divRoundS ((s.chip.car.adjInt - r.winA) * 10 ^ 12) (ticks * max 1 (s.chip.rd Reg.BASE_INCR))) →
      ∃ t, exec (.refMeasWindow n) s = .next t ∧ t.pending = s.pending ∧
        x.rd Reg.REF_MEAS_Y_OSC n = encS Reg.REF_MEAS_Y_OSC.width (satS 32 osc) % 2 ^ Reg.REF_MEAS_Y_OSC.width ∧
        t.chip = Chip.steady (if r.qual && !(x.ref n).qual then ((x.evalSel 0).evalSel 1).selShow else x)) ∧
    (∀ (time : Bool) (k n : Nat), k = (if time then 1 else 0) → n = s.chip.selRef k → s.chip.selState k = 1 → n < 24 →
      (s.chip.sel k).switchAt + unitsS (if time then 600 else 60) ≤ s.chip.now → s.chip.lockHolds k = false →
      ∃ t, exec (.selAcqTimeout time) s = .next t ∧ t.pending = s.pending ∧ t.chip = Chip.steady (((s.chip.disqualify n).evalSel k).selShow)) ∧
    (∀ (time : Bool) (k : Nat), k = (if time then 1 else 0) → s.chip.selState k = 3 → s.chip.rd Reg.HO_CFG_HO_MAX_S ≠ 0 →
      s.chip.rd Reg.HO_CFG_HO_MAX_S ≤ s.chip.hoElapsed k →
      ∃ t, exec (.hoMaxExpire time) s = .next t ∧ t.pending = s.pending ∧ t.chip = Chip.steady ((s.chip.become k 4 31).selShow)) ∧
    (∀ (time : Bool) (k : Nat) (v : Int) (ticks : Nat), k = (if time then 1 else 0) → s.chip.selState k = 2 → (s.chip.sel k).secAt + unitsS 1 ≤ s.chip.now →
      ticks = (s.chip.now - (s.chip.sel k).secAt) / 256 →
      v = (if k = 0 then divRoundS (s.chip.selInt k - (s.chip.sel k).secInt) ticks
        else divRoundS ((s.chip.selInt k - (s.chip.sel k).secInt) * (5 ^ 22 : Nat)) (32 * ticks)) →
      ∃ t, exec (.hoHistoryRecord time) s = .next t ∧ t.pending = s.pending ∧
        (SMap.get t.chip.car.sels k).ring = ((s.chip.now, v) :: (s.chip.sel k).ring).take 4096 ∧ (SMap.get t.chip.car.sels k).secAt = s.chip.now)

/-- PTP and ESMC: PTP_MSG_PROCESS, PTP_SYNC_SEND, PTP_ANNOUNCE_SEND, PTP_DELAY_REQ_SEND, ANN_TIMEOUT, ESMC_PDU_RX, QL_TIMEOUT and ESMC_INFO_SEND (R228 to R232,
R247): the firmware takes the first trapped message of the class and processes it for its port's instance, or counts it in FOREIGN when its type or domain is not the
instance's; a master port sends Sync, and Follow_Up in two-step mode, a port of either end asks for the delay, and Announce carries what the instance announces; an
announce timeout forgets the senders not heard in time, is shown and notified, and the states are decided anew; a PDU's quality level becomes QL_RX; 5 s without a
PDU set QL_TIMEOUT; a port with SYNCE_TX sends one information PDU per second and an event PDU after a change. The message layouts and the octets the spec leaves
open are the model's (log entries 30 and 31). -/
def Obligations.SynchronisationMessages : Prop :=
  ∀ (p : Fin 512) (s : State) (i : Nat) (x : PtpPort) (e : Esmc), i = s.chip.ptpInst p → x = s.chip.ptpPort p → e = SMap.get s.chip.car.esmc p →
    (∀ (cls : Fin 8) (f : Frame) (k : Nat) (b : Bytes), s.chip.trapFirst cls (fun f => f.trapKey.ptp.isSome) = some (f, k) → b = f.trapBody.drop f.trapKey.ptpAt →
      f.port = p.val → s.chip.ptpRole p ≠ 0 →
      (ptpKnown.contains (natAt b 0 1 % 16) = false ∨ natAt b 4 1 ≠ s.chip.msgDomain p (natAt b 0 1 % 16) →
        ∃ t, exec (.ptpMsgProcess cls) s = .next t ∧ t.pending = s.pending ∧
          t.chip = Chip.steady ((s.chip.dropTgt f.id k).incSat Reg.PTP_PORT_STATUS_FOREIGN 1 p)) ∧
      (ptpKnown.contains (natAt b 0 1 % 16) = true → natAt b 4 1 = s.chip.msgDomain p (natAt b 0 1 % 16) → s.chip.instOn i = true → natAt b 2 2 ≤ b.length → 44 ≤ natAt b 2 2 →
        ∃ t, exec (.ptpMsgProcess cls) s = .next t ∧ t.pending = s.pending ∧
          t.chip = Chip.steady ((s.chip.dropTgt f.id k).ptpMsg p b f.stamp f.cont))) ∧
    (∀ (two : Bool) (l : Int) (tlv : Bytes) (c1 c2 : Chip), s.chip.rd Reg.PTP_PORT_STATUS_PORT_STATE p = 6 → s.chip.instOn i = true → s.chip.instMute i = false →
      s.chip.hushed p x.askSync = false → x.syncAt ≤ s.chip.now →
      two = (s.chip.on Reg.PTP_PORT_CFG_TWO_STEP p && !s.chip.twinPort p) → l = s.chip.logSync p → tlv = (if s.chip.profile i = 3 then followTlv (s.chip.followInfo i) else []) →
      c1 = s.chip.updPtp p (fun x => { x with syncAt := s.chip.now + logTime l, seqS := (x.seqS + 1) % 65536 }) →
      c2 = c1.sendMsg p 0 (if two then 0x200 else 0) 0 x.seqS 0 l (bytesOfNat 10 0 ++ (if two then [] else tlv)) →
      ∃ t, exec (.ptpSyncSend p) s = .next t ∧ t.pending = s.pending ∧
        t.chip = Chip.steady (if two then c2.sendMsg p 8 0 0 x.seqS 2 l (bytesOfNat 10 0 ++ tlv) else c2)) ∧
    (∀ (l : Int) (path : Bytes) (a : Ann) (c1 : Chip), s.chip.rd Reg.PTP_PORT_STATUS_PORT_STATE p = 6 → s.chip.instOn i = true → s.chip.instMute i = false →
      s.chip.hushed p x.askAnn = false → x.annSendAt ≤ s.chip.now →
      l = s.chip.logAnn p → a = s.chip.instAnn i →
      path = (if s.chip.profile i = 3 then
        bytesOfNat 2 8 ++ bytesOfNat 2 (8 * (a.path ++ [s.chip.clockId]).length) ++ (a.path ++ [s.chip.clockId]).flatMap (bytesOfNat 8) else []) →
      c1 = s.chip.updPtp p (fun x => { x with annSendAt := s.chip.now + logTime l }) →
      ∃ t, exec (.ptpAnnounceSend p) s = .next t ∧ t.pending = s.pending ∧
        t.chip = Chip.steady ((c1.updPtp p fun x => { x with seqA := (x.seqA + 1) % 65536 }).sendWith p 11 (bitsOf a.props 24 8) 0 x.seqA 5 l
          (bytesOfNat 10 0 ++ bytesOfNat 2 (bitsOf a.props 8 16) ++ bytesOfNat 1 0 ++ bytesOfNat 1 (bitsOf a.gm 104 8) ++
            bytesOfNat 4 (bitsOf a.gm 72 32) ++ bytesOfNat 1 (bitsOf a.gm 64 8) ++ bytesOfNat 8 a.gm ++ bytesOfNat 2 a.steps ++
            bytesOfNat 1 (bitsOf a.props 0 8) ++ path))) ∧
    (∀ l : Int, s.chip.ptpRole p ≠ 0 → s.chip.instOn i = true → s.chip.linkUp p = true → s.chip.hushed p x.askDelay = false → x.delayAt ≤ s.chip.now → l = s.chip.logDelay p →
      (s.chip.ptpDelay p = 0 → s.chip.rd Reg.PTP_PORT_STATUS_PORT_STATE p = 9 →
        ∃ t, exec (.ptpDelayReqSend p) s = .next t ∧ t.pending = s.pending ∧
          t.chip = Chip.steady ((s.chip.updPtp p fun y => { y with delayAt := s.chip.now + logTime l, seqD := (x.seqD + 1) % 65536, dseq := some x.seqD }).sendMsg
            p 1 0 0 x.seqD 1 l (bytesOfNat 10 0))) ∧
      (∀ c1 : Chip, s.chip.ptpDelay p ≠ 0 → x.peer.state = 0 →
        c1 = s.chip.updPtp p (fun y => { y with delayAt := s.chip.now + logTime l, seqD := (x.seqD + 1) % 65536, peer := { y.peer with seq := x.seqD, state := 1, lost := 0 } }) →
        ∃ t, exec (.ptpDelayReqSend p) s = .next t ∧ t.pending = s.pending ∧ t.chip = Chip.steady (c1.sendMsg p 2 0 0 x.seqD 5 l (bytesOfNat 20 0)))) ∧
    (∀ c1 : Chip, s.chip.ptpRole p ≠ 0 → s.chip.rd Reg.PTP_PORT_STATUS_PORT_STATE p = 9 → x.annAt + s.chip.annWait p ≤ s.chip.now → x.annLost = false →
      c1 = s.chip.updPtp p (fun x => { x with anns := x.anns.filter fun a => decide (s.chip.now < a.at_ + s.chip.annWait p), annLost := true, annOut := true }) →
      ∃ t, exec (.annTimeout p) s = .next t ∧ t.pending = s.pending ∧
        t.chip = Chip.steady (((c1.flag Reg.PTP_PORT_STATUS_ANN_TIMEOUT true p).notify Nt.ANN_TIMEOUT Cls.PORT p 0x55).runBmca i)) ∧
    (∀ (cls : Fin 8) (f : Frame) (k q : Nat) (c1 : Chip), s.chip.trapFirst cls (fun f => f.trapKey.esmc) = some (f, k) → f.port = p.val →
      c1 = (s.chip.dropTgt f.id k).hostCopy f cls → (s.chip.portRef p).isSome = true → natAt f.trapBody 18 2 = 1 → natAt f.trapBody 24 1 = 1 → q = natAt f.trapBody 27 1 % 16 →
      ∃ t, exec (.esmcPduRx cls) s = .next t ∧ t.pending = s.pending ∧ t.chip.rd Reg.ESMC_STATUS_QL_RX p = q ∧ t.chip.on Reg.ESMC_STATUS_ESMC_SEEN p = true ∧
        (SMap.get t.chip.car.esmc p).late = false) ∧
    ((s.chip.portRef p).isSome = true → e.late = false → e.rxAt + unitsS 5 ≤ s.chip.now →
      ∃ t, exec (.qlTimeout p) s = .next t ∧ t.pending = s.pending ∧ t.chip.on Reg.ESMC_STATUS_QL_TIMEOUT p = true ∧ (SMap.get t.chip.car.esmc p).late = true) ∧
    (s.chip.on Reg.PORT_CFG_SYNCE_TX p = true → s.chip.linkUp p = true → e.evDue = true ∨ e.txAt + unitsS 1 ≤ s.chip.now →
      ∃ t, exec (.esmcInfoSend p) s = .next t ∧ t.pending = s.pending ∧
        t.chip = Chip.steady ((s.chip.updEsmc p fun e => { e with evDue := false, txAt := if e.evDue then e.txAt else s.chip.now }).ownFrame p 7
          (s.chip.wrapOwn p (ethFrame 0x0180C2000002 (s.chip.rd Reg.DEV_MAC) none 0x8809 (esmcPdu e.evDue (s.chip.rd Reg.ESMC_STATUS_QL_TX p))))))

/-- Fabric and coalescer: FAB_HELLO_SEND, FAB_HELLO_RX, FAB_HELLO_TIMEOUT, FAB_RECORD_SEND, FAB_RECORD_RX, FAB_RECORD_EXPIRE, FAB_ROUTE_RECOMPUTE, FAB_CREDIT_SEND,
FAB_CREDIT_RX, FAB_CREDIT_WD_DROP and COAL_WINDOW_END (R319 to R323, R325, R326, R329): a port sends its hello, and a received one brings its partner's identity,
isolates the port for the cause R319 names, or on the third that qualifies puts the link UP; silence puts it down; a device's record goes to its UP ports and a newer
one is stored and relayed, an old one expires; routes are taken from the database as it stands; a credit frame replaces the partner's returns, and a frame that waits
too long without credit is dropped and counted; a coalescing window closes when nothing came in it and is summed up otherwise. -/
def Obligations.FabricAndCoalescer : Prop :=
  ∀ s : State,
    (∀ p : Fin 512, s.chip.fabPort p = true → s.chip.linkUp p = true →
      ((s.chip.hello p).sent = false ∨ (s.chip.hello p).sentAt + s.chip.helloTime ≤ s.chip.now →
        ∃ t, exec (.fabHelloSend p) s = .next t ∧ t.pending = s.pending ∧
          t.chip = Chip.steady ((s.chip.updHello p fun h => { h with sent := true, sentAt := s.chip.now }).ownFrame p 7 (zidFrame (zidOwn 1 1 7) (s.chip.helloPayload p)))) ∧
      (∀ (b : Bytes) (v g : Nat) (ok : Bool) (c1 c2 : Chip), v = natAt b 0 32 →
        ok = (Lay.HEL_FABRIC_ID.get v == s.chip.rd Reg.FAB_CFG_FABRIC_ID && Lay.HEL_HELLO_MS.get v == s.chip.rd Reg.FAB_CFG_HELLO_MS &&
          Lay.HEL_HEARD.get v == 1 && Lay.HEL_HEARD_SERIAL.get v == s.chip.serial) →
        c1 = (s.chip.updHello p fun h => { h with
          heard := true, heardAt := s.chip.now, good := (if ok then h.good + 1 else 0), serial := Lay.HEL_SERIAL.get v, credit := Lay.HEL_CREDIT.get v == 1 }).updPort p
            (fun y => { y with peerEidle := Lay.HEL_EIDLE_EN.get v == 1, peerAt := s.chip.now }) →
        s.chip.on Reg.PORT_CFG_EIDLE_EN p = false →
        c2 = (c1.wr Reg.FAB_PORT_STATUS_PEER_ID (Lay.HEL_DEV_ID.get v) p).wr Reg.FAB_PORT_STATUS_PEER_PORT (Lay.HEL_SEND_PORT.get v) p →
        g = (c2.hello p).good →
        (c2.isoCause v ≠ 0 → ∃ t, exec (.fabHelloRx p b) s = .next t ∧ t.pending = s.pending ∧ t.chip = Chip.steady (c2.setFabLink p 3 (c2.isoCause v))) ∧
        (c2.isoCause v = 0 → c2.rd Reg.FAB_PORT_STATUS_LINK p = 3 ∨ c2.rd Reg.FAB_PORT_STATUS_LINK p = 0 →
          ∃ t, exec (.fabHelloRx p b) s = .next t ∧ t.pending = s.pending ∧
            t.chip = Chip.steady ((c2.updHello p fun h => { h with good := if ok then 1 else 0 }).setFabLink p 1 0)) ∧
        (c2.isoCause v = 0 → c2.rd Reg.FAB_PORT_STATUS_LINK p = 1 → 3 ≤ g →
          ∃ t, exec (.fabHelloRx p b) s = .next t ∧ t.pending = s.pending ∧ t.chip = Chip.steady (c2.setFabLink p 2 0)) ∧
        (c2.isoCause v = 0 → c2.rd Reg.FAB_PORT_STATUS_LINK p = 2 ∨ c2.rd Reg.FAB_PORT_STATUS_LINK p = 1 ∧ g < 3 →
          ∃ t, exec (.fabHelloRx p b) s = .next t ∧ t.pending = s.pending ∧ t.chip = c2.steady))) ∧
    (∀ p : Fin 512, s.chip.fabPort p = true → s.chip.rd Reg.FAB_PORT_STATUS_LINK p ≠ 0 → (s.chip.hello p).heardAt + 3 * s.chip.helloTime ≤ s.chip.now →
      ∃ t, exec (.fabHelloTimeout p) s = .next t ∧ t.pending = s.pending ∧ t.chip.rd Reg.FAB_PORT_STATUS_LINK p = 0 ∧
        t.chip.rd Reg.FAB_PORT_STATUS_PEER_ID p = 0 ∧ t.chip.rd Reg.FAB_PORT_STATUS_PEER_PORT p = 0) ∧
    (∀ (n : Nat) (c1 : Chip), s.chip.fabOn = true → s.chip.fab.sentAt + s.chip.helloTime ≤ s.chip.now →
      n = (if s.chip.fab.sent = none then 0 else (s.chip.fab.seq + 1) % 2 ^ 32) → c1 = { s.chip with fab := { s.chip.fab with seq := n, sentAt := s.chip.now } } →
      ∃ t, exec .fabRecordSend s = .next t ∧ t.pending = s.pending ∧
        t.chip = Chip.steady (({ c1 with fab := { c1.fab with sent := some c1.ownRec } } : Chip).sendRec c1.ownRec none)) ∧
    (∀ (p : Fin 512) (b : Bytes) (r : FabRec), s.chip.fabUp p = true → r = recOf b s.chip.now → r.serial ≠ s.chip.serial →
      s.chip.fab.recs.find? (fun x => x.serial == r.serial) = none → Lay.REC_FABRIC_ID.get (natAt b 0 32) = s.chip.rd Reg.FAB_CFG_FABRIC_ID →
      ∃ t, exec (.fabRecordRx p b) s = .next t ∧ t.pending = s.pending ∧
        t.chip = Chip.steady (({ s.chip with fab := { s.chip.fab with
          recs := (s.chip.fab.recs.filter fun x => x.serial < r.serial) ++ r :: (s.chip.fab.recs.filter fun x => r.serial < x.serial) } } : Chip).sendRec r (some p.val))) ∧
    (∃ t, exec .fabRecordExpire s = .next t ∧ t.pending = s.pending ∧
      t.chip.fab.recs = s.chip.fab.recs.filter fun r => s.chip.now < r.seenAt + 4 * s.chip.helloTime) ∧
    (∀ y : Chip, s.chip.fabOn = true →
      y = s.chip.lostNodes ((((({ s.chip with fab := { s.chip.fab with graph := s.chip.database } } : Chip).showNodes).idConflict).tooDeep).pinsIdle).showTree →
      ∃ t, exec .fabRouteRecompute s = .next t ∧ t.pending = s.pending ∧ t.chip.fab = { s.chip.fab with graph := s.chip.database, routes := y.routeTable }) ∧
    (∀ p : Fin 512, s.chip.fabUp p = true →
      (s.chip.rd Reg.FC_CFG_FC_MODE p = 3 → SMap.get s.chip.path.credAt p + unitsMs 1 ≤ s.chip.now →
        ∃ t, exec (.fabCreditSend p) s = .next t ∧ t.pending = s.pending ∧ t.chip = Chip.steady ((s.chip.updPort p fun y => { y with credDue := true }).wakePort p)) ∧
      (∀ b : Bytes, natAt b 0 1 = s.chip.rd Reg.FAB_PORT_STATUS_LINK_EPOCH p →
        ∃ t, exec (.fabCreditRx p b) s = .next t ∧ t.pending = s.pending ∧
          ∀ k < 8, SMap.get t.chip.path.credGot (p * 8 + k) = natAt b (1 + 4 * k) 4)) ∧
    (∀ (q : Fin 4096) (id k : Nat) (f : Frame) (y : Tgt), s.chip.head q = some (id, k) → s.chip.frameOf id = some f → s.chip.tgtOf id k = some y →
      s.chip.credited y.port (q % 8) = true → f.res = 1 → s.chip.credit y.port (q % 8) < cellsOf (y.body.length + 4) →
      y.headAt + unitsMs (s.chip.rd Reg.FAB_PORT_CFG_CREDIT_WD y.port) ≤ s.chip.now →
      ∃ t, exec (.fabCreditWdDrop q) s = .next t ∧ t.pending = s.pending ∧ t.chip = Chip.steady ((s.chip.takeArrived.count Ev.FAB_CREDIT_WD_DROP y.port).dropTgt id k)) ∧
    (∀ (ev cls : Nat) (g : CoalSig), s.chip.coal.sigs.find? (fun g => g.event == ev && g.cls == cls) = some g → g.endsAt ≤ s.chip.now →
      (g.count = 0 → ∃ t, exec (.coalWindowEnd ev cls) s = .next t ∧ t.pending = s.pending ∧
        t.chip.coal.sigs = s.chip.coal.sigs.filter fun g => !(g.event == ev && g.cls == cls)) ∧
      (∀ (w : Nat) (c1 : Chip), 0 < g.count → (ev == Nt.COAL_FULL && cls == Cls.DEV) = false → s.chip.takeWindow ev cls = (w, c1) →
        ∃ t, exec (.coalWindowEnd ev cls) s = .next t ∧ t.pending = s.pending ∧
          t.chip = Chip.steady (({ c1 with coal := { c1.coal with
            sigs := (s.chip.coal.sigs.filter fun g => !(g.event == ev && g.cls == cls)) ++
              [{ event := ev, cls := cls, window := w, endsAt := g.endsAt + s.chip.coalWindow }], merged := s.chip.coal.merged } } : Chip).sendNotify
                ev cls g.firstObj g.count g.insts.length g.lastNs w g.cause)))

/-- Lane operations: LOAD, MOVI, SHUF, ADD, SUB, MUL, MAC, DIV, NEG, ABS, MIN, MAX, CLAMP, SHIFT, CVT and SQRT (R276, R279, R281, R283, R290, R291, R298, R299): run
at an engine that has not stopped, with a descriptor that passes its checks, each active lane of DST holds the lane's result from the values its sources held before,
every other lane and register what it held, the engine stands at its next descriptor, and nothing else changed; LOAD holds, changing nothing, while its bank is
frozen (R47). -/
def Obligations.LaneOperations : Prop :=
  ∀ (e : Fin 64) (d : Desc) (s : State) (x : Eng) (la lb lc : Nat → Nat), s.chip.engState e ≠ 6 → x = s.chip.eng e →
    la = x.lane d.typ d.a → lb = x.lane d.typ d.b → lc = x.lane d.typ d.c →
    (descFault 0x01 d = none → s.chip.operandHeld d.addr (if d.typ.val = 3 then 64 else 32) = false → ∃ t, exec (.opLoad e d) s = .next t ∧ t.pending = s.pending ∧
      s.chip.lanesDone t.chip e d d.typ fun i => natOfBytesLE (sliceBytes (s.chip.operandBytes e d.addr (if d.typ.val = 3 then 64 else 32))
        ((if d.typ.val = 3 then 8 else 4) * i) (if d.typ.val = 3 then 8 else 4))) ∧
    (descFault 0x01 d = none → s.chip.operandHeld d.addr (if d.typ.val = 3 then 64 else 32) = true → ∃ t, exec (.opLoad e d) s = .next t ∧ t.pending = s.pending ∧ t.chip = s.chip.steady) ∧
    (descFault 0x03 d = none → ∃ t, exec (.opMovi e d) s = .next t ∧ t.pending = s.pending ∧
      s.chip.lanesDone t.chip e d d.typ fun _ => if d.typ.val = 3 then d.addr * 2 ^ 32 + d.aux else d.aux) ∧
    (descFault 0x04 d = none → ∃ t, exec (.opShuf e d) s = .next t ∧ t.pending = s.pending ∧
      s.chip.lanesDone t.chip e d 0 fun i => x.lane 0 d.a (bitsOf d.imm (3 * i) 3)) ∧
    (∀ q ∈ [(0x20, Instr.opAdd, laneAdd d.typ (satOf d)), (0x21, Instr.opSub, laneSub d.typ (satOf d)), (0x22, Instr.opMul, laneMul d.typ (satOf d)),
        (0x24, Instr.opDiv, laneDiv d.typ), (0x27, Instr.opMin, laneMin d.typ), (0x28, Instr.opMax, laneMax d.typ)],
      descFault q.1 d = none → ∃ t, exec (q.2.1 e d) s = .next t ∧ t.pending = s.pending ∧
        s.chip.lanesDone t.chip e d d.typ fun i => q.2.2 (la i) (lb i)) ∧
    (∀ q ∈ [(0x25, Instr.opNeg, laneNeg d.typ (satOf d)), (0x26, Instr.opAbs, laneAbs d.typ (satOf d)),
        (0x2A, Instr.opShift, laneShift d.typ (satOf d) (bitOf d.imm 6) (d.imm % 64)), (0x2C, Instr.opSqrt, fpSqrt)],
      descFault q.1 d = none → ∃ t, exec (q.2.1 e d) s = .next t ∧ t.pending = s.pending ∧
        s.chip.lanesDone t.chip e d d.typ fun i => q.2.2 (la i)) ∧
    (∀ q ∈ [(0x23, Instr.opMac, laneMac d.typ (satOf d)), (0x29, Instr.opClamp, laneClamp d.typ)],
      descFault q.1 d = none → ∃ t, exec (q.2.1 e d) s = .next t ∧ t.pending = s.pending ∧
        s.chip.lanesDone t.chip e d d.typ fun i => q.2.2 (la i) (lb i) (lc i)) ∧
    (descFault 0x2B d = none → ∃ t, exec (.opCvt e d) s = .next t ∧ t.pending = s.pending ∧
      s.chip.lanesDone t.chip e d d.typ fun i => laneCvt (d.flags.val % 4) d.typ (d.imm % 64) (x.lane (d.flags.val % 4) d.a i))

/-- Predicates, inputs and exchange: CMP, PLOG, AXFLT, TSUB, GATHER, WAITSEQ, RECV and CNTRD (R276, R283 to R285, R292 to R297, R300, R301): CMP, PLOG and AXFLT write
a predicate in the lanes their own predicate allows; TSUB writes the stamp less T_k in lane 0 and whether it is valid; GATHER reads a pending frame's word 1 or the
last confirmed word 0 at a save point, and an edge or position input's word 1; WAITSEQ loads a word tagged for the cycle at a save point; RECV takes the mailbox's
oldest message and CNTRD a counter its right allows; what RECV, CNTRD and AXFLT give is kept for a rerun, where AXFLT gives it again but for the axes gathered before
it. -/
def Obligations.PredicatesAndInputs : Prop :=
  ∀ (e : Fin 64) (d : Desc) (s : State) (x : Eng) (dm : Nat), s.chip.engState e ≠ 6 → x = s.chip.eng e → dm = s.chip.engDom e →
    (descFault 0x30 d = none → ∃ t, exec (.opCmp e d) s = .next t ∧ t.pending = s.pending ∧
      s.chip.engDone t.chip e (x.setPrd d.flags (laneMask fun i => laneCmp d.typ d.imm (x.lane d.typ d.a i) (x.lane d.typ d.b i)) (x.mask d))) ∧
    (∀ q ∈ [(0, x.prd d.a &&& x.prd d.b), (1, x.prd d.a ||| x.prd d.b), (2, x.prd d.a ^^^ x.prd d.b), (3, x.prd d.a &&& (255 ^^^ x.prd d.b))],
      descFault 0x31 d = none → d.imm = q.1 → ∃ t, exec (.opPlog e d) s = .next t ∧ t.pending = s.pending ∧
        s.chip.engDone t.chip e (x.setPrd d.flags q.2 (x.mask d))) ∧
    (∀ v : Nat, descFault 0x15 d = none → x.replayed = none → v = bitsOf (s.chip.dom dm).axes d.imm 8 → ∃ t, exec (.opAxflt e d) s = .next t ∧ t.pending = s.pending ∧
      s.chip.engDone t.chip e ({ x with replay := x.replay ++ [(x.pc, some v)] }.setPrd d.flags v (x.mask d))) ∧
    (∀ (v m : Nat), descFault 0x15 d = none → x.replayed = some (some v) → m < 8 → s.chip.gatheredAxis e (d.imm + m) = false → bitOf (x.mask d) m = true → 0 < d.flags.val →
      ∃ t, exec (.opAxflt e d) s = .next t ∧ t.pending = s.pending ∧ bitOf ((t.chip.eng e).prd d.flags) m = bitOf v m) ∧
    (∀ (a : Nat) (diff : Int), descFault 0x12 d = none → a = bitsOf (x.reg d.a) 0 96 → diff = ((timeOf96 a : Int) - s.chip.engTk e) * 65536 →
      ∃ t, exec (.opTsub e d) s = .next t ∧ t.pending = s.pending ∧
        s.chip.engDone t.chip e ((x.putLanes d 3 d.dst fun i => if i = 0 then encS 64 (max (-(2 ^ 63 - 1)) (min (2 ^ 63 - 1) diff)) else 0).setAll d.flags
          (!bitOf (x.reg d.a) 97 && a != 0))) ∧
    (∀ (i a : Nat) (g : GIn), descFault 0x10 d = none → a = cycAddr d.addr → s.chip.bankHeld a = false → s.chip.entryAt dm a = some i → g = s.chip.gin dm i →
      (s.chip.rd Reg.GATHER_LIST_SRC dm i = 0 → g.st ≠ .none →
        ∃ t, exec (.opGather e d) s = .next t ∧ t.pending = s.pending ∧
          s.chip.engDone t.chip e ((x.save (some i) none).takeWord d (if g.st = .pending then s.chip.cycWord (a + 32) else s.chip.cycWord a)
            (g.st != .faulted) (g.st == .pending || g.st == .confirmed))) ∧
      (s.chip.rd Reg.GATHER_LIST_SRC dm i = 2 →
        ∃ t, exec (.opGather e d) s = .next t ∧ t.pending = s.pending ∧ s.chip.engDone t.chip e (x.takeWord d (s.chip.cycWord (a + 32)) true true))) ∧
    (∀ a : Nat, descFault 0x11 d = none → a = cycAddr d.addr → s.chip.bankHeld a = false → s.chip.seqReady e a = 1 →
      ∃ t, exec (.opWaitseq e d) s = .next t ∧ t.pending = s.pending ∧ s.chip.engDone t.chip e ((x.save none (some a)).takeWord d (s.chip.cycWord a) true true)) ∧
    (∀ (m : Nat) (l : List Nat) (b : Bytes), descFault 0x13 d = none → x.replayed = none → x.mbx = m :: l → b = bytesOfNat 64 m →
      ∃ t, exec (.opRecv e d) s = .next t ∧ t.pending = s.pending ∧ t.chip.on Reg.MBX_STAT_H2F_FULL (64 + e.val) = false ∧
        t.chip.eng e = { ((({ x with mbx := l, replay := x.replay ++ [(x.pc, some m)] } : Eng).putBytes d 0 d.dst (b.take 32)).putBytes d 0 (d.dst.val + 1)
          (b.drop 32)).setAll d.flags true with pc := x.pc + 1, wait := none }) ∧
    (∀ v : Nat, descFault 0x14 d = none → x.replayed = none → bitOf (s.chip.rd Reg.CNT_RIGHTS (256 + e.val)) (d.imm % 128) = true →
      v = (if d.flags.val % 2 = 1 then s.chip.rd Reg.CNT_SNAP_VALUE (d.imm % 128) (d.imm / 128 % 8) else s.chip.rd Reg.CNT_VALUE_VALUE (d.imm % 128) (d.imm / 128 % 8)) →
      ∃ t, exec (.opCntrd e d) s = .next t ∧ t.pending = s.pending ∧
        s.chip.engDone t.chip e (({ x with replay := x.replay ++ [(x.pc, some v)] } : Eng).putLanes d 3 d.dst fun i => if i = 0 then v else 0))

/-- Motion operations: VMASTER, GEAR, CAM, REGIST, FILT and PID (R276, R283, R286, R302 to R307): each active lane gives its result from the half of the state block
that the cycle before wrote, each result and the new state stand in DST and in the other half, a lane that is not active keeps its state, and nothing else changed.
CAM keeps no state and needs each table it names to be sound. REGIST's error where REPEAT is not above 0 is a free value (log entry 34). -/
def Obligations.MotionOperations : Prop :=
  ∀ (e : Fin 64) (d : Desc) (s : State) (x : Eng) (k per pa : Nat) (pick : (Nat → Nat → Nat) → Nat → Nat → Nat → Nat), s.chip.engState e ≠ 6 → x = s.chip.eng e →
    k = s.chip.engK e → per = s.chip.engPeriod e → pa = locAddr d.aux → pick = (fun old r i v => if x.active d i then v else old r i) →
    (∀ (o : Nat) (old : Nat → Nat → Nat) (new : Nat → Int × Int × Nat), descFault 0x40 d = none → o = oldHalf k d.addr 192 → old = (fun r i => x.q (o + 64 * r + 8 * i)) →
      new = (fun i => vmasterLane per (signed 64 (x.lane 3 d.a i)) (signed 64 (x.lane 3 d.b i)) (signed 64 (old 0 i)) (signed 64 (old 1 i)) (old 2 i)) →
      ∃ t, exec (.opVmaster e d) s = .next t ∧ t.pending = s.pending ∧
        s.chip.engDone t.chip e (((x.putLanes d 3 d.dst fun i => encS 64 (new i).1).putLanes d 3 (d.dst.val + 2) fun i => encS 64 (new i).2.1).putState
          (newHalf k d.addr 192) 8 [fun i => pick old 0 i (encS 64 (new i).1), fun i => pick old 1 i (encS 64 (new i).2.1), fun i => pick old 2 i (new i).2.2])) ∧
    (∀ (o anch : Nat) (old : Nat → Nat → Nat) (new : Nat → Nat × Nat × Nat × Nat), descFault 0x41 d = none → o = oldHalf k d.addr 256 →
      anch = (if d.flags.val = 0 then 0 else x.prd d.flags) → old = (fun r i => x.q (o + 64 * r + 8 * i)) →
      new = (fun i => gearLane (anch.testBit i) (signed 32 (x.w (pa + 4 * i))) (x.w (pa + 32 + 4 * i)) (x.lane 3 d.a i) (old 0 i) (old 1 i) (old 2 i) (old 3 i)) →
      ∃ t, exec (.opGear e d) s = .next t ∧ t.pending = s.pending ∧
        s.chip.engDone t.chip e ((x.putLanes d 3 d.dst fun i => (new i).2.2.1).putState (newHalf k d.addr 256) 8
          [fun i => pick old 0 i (new i).1, fun i => pick old 1 i (new i).2.1, fun i => pick old 2 i (new i).2.2.1, fun i => pick old 3 i (new i).2.2.2])) ∧
    (∀ (entry : Nat → Nat) (used : List Nat), descFault 0x42 d = none → entry = (fun i => x.w (pa + 4 * i)) →
      used = (List.range 8).filter (fun i => x.active d i && entry i != 0) → used.findSome? (fun i => x.camFault (entry i)) = none →
      ∃ t, exec (.opCam e d) s = .next t ∧ t.pending = s.pending ∧
        s.chip.engDone t.chip e (used.foldl (fun y i => y.setLane 3 d.dst i (x.cam (entry i) (x.lane 3 d.a i))) x)) ∧
    (∀ (o : Nat) (old new : Nat → Nat) (tau lim : Int) (on : Nat → Bool), descFault 0x43 d = none → o = oldHalf k d.addr 64 → old = (fun i => x.q (o + 8 * i)) →
      tau = signed 64 (x.lane 3 d.a 0) → lim = per * 2 ^ 32 → on = (fun i => x.active d i && decide (-lim ≤ tau) && decide (tau ≤ lim)) →
      new = (fun i => if on i then
          encS 64 (registLane per tau (signed 64 (x.lane 3 d.b i)) (signed 64 (x.lane 3 d.c i)) (signed 64 (x.q (pa + 32 * i))) (signed 64 (x.q (pa + 32 * i + 8)))
            (signed 32 (x.w (pa + 32 * i + 16))) (signed 64 (x.q (pa + 32 * i + 24))) (signed 64 (old i)) (Config.registZero s.chip.free).toInt)
        else old i) →
      ∃ t, exec (.opRegist e d) s = .next t ∧ t.pending = s.pending ∧
        s.chip.engDone t.chip e (((x.putLanes d 3 d.dst new).setPrd d.flags (laneMask on)).putState (newHalf k d.addr 64) 8 [new])) ∧
    (∀ (o : Nat) (old co : Nat → Nat → Nat) (new : Nat → Nat), descFault 0x44 d = none → o = oldHalf k d.addr 128 → old = (fun r i => x.w (o + 32 * r + 4 * i)) →
      co = (fun r i => x.w (pa + 32 * r + 4 * i)) →
      new = (fun i => filtLane d.typ (co 0 i) (co 1 i) (co 2 i) (co 3 i) (co 4 i) (x.lane 0 d.a i) (old 0 i) (old 1 i) (old 2 i) (old 3 i)) →
      ∃ t, exec (.opFilt e d) s = .next t ∧ t.pending = s.pending ∧
        s.chip.engDone t.chip e ((x.putLanes d 0 d.dst new).putState (newHalf k d.addr 128) 4
          [fun i => pick old 0 i (x.lane 0 d.a i), fun i => pick old 1 i (old 0 i), fun i => pick old 2 i (new i), fun i => pick old 3 i (old 2 i)])) ∧
    (∀ (o : Nat) (old co : Nat → Nat → Nat) (new : Nat → Nat × Nat × Nat × Nat), descFault 0x45 d = none → o = oldHalf k d.addr 96 →
      old = (fun r i => x.w (o + 32 * r + 4 * i)) → co = (fun r i => x.w (pa + 32 * r + 4 * i)) →
      new = (fun i => pidLane (co 0 i) (co 1 i) (co 2 i) (co 3 i) (co 4 i) (co 5 i) (x.lane 2 d.a i) (x.lane 2 d.b i) (old 0 i) (old 1 i) (old 2 i)) →
      ∃ t, exec (.opPid e d) s = .next t ∧ t.pending = s.pending ∧
        s.chip.engDone t.chip e ((x.putLanes d 2 d.dst fun i => (new i).1).putState (newHalf k d.addr 96) 4
          [fun i => pick old 0 i (new i).2.1, fun i => pick old 1 i (new i).2.2.1, fun i => pick old 2 i (new i).2.2.2]))

/-- Stores, outputs and control: STORE, FIELD, SCATTER, EVTREQ, VREQ, POST, SKIP, END and NOP_OP (R253, R276, R281, R288, R290, R308 to R313): a store writes the
bytes of the active lanes to local memory or, where the engine owns the word, to cycle memory with its tag, or holds while that bank is frozen (R47); FIELD writes
local memory; SCATTER, EVTREQ, VREQ and POST hold their output for the fence where lane 0 is active; SKIP passes its descriptors where the predicate allows; END ends
the program. A store to a word the engine does not own stops the engine. -/
def Obligations.OutputsAndControl : Prop :=
  ∀ (e : Fin 64) (d : Desc) (s : State) (x : Eng) (w : Nat), s.chip.engState e ≠ 6 → x = s.chip.eng e → w = (if d.typ.val = 3 then 8 else 4) →
    (descFault 0x02 d = none →
      (isCyc d.addr = false → ∃ t, exec (.opStore e d) s = .next t ∧ t.pending = s.pending ∧
        s.chip.engDone t.chip e { x with mem := x.storeBytes d w x.mem (locAddr d.addr) (x.bytes d.typ d.a) }) ∧
      (∀ a : Nat, isCyc d.addr = true → a = cycAddr d.addr → d.typ.val ≠ 3 → x.active d 0 = true →
        (s.chip.ownsWord e a = true → s.chip.bankHeld a = true → ∃ t, exec (.opStore e d) s = .next t ∧ t.pending = s.pending ∧ t.chip = s.chip.steady) ∧
        (s.chip.ownsWord e a = true → s.chip.bankHeld a = false → ∃ t, exec (.opStore e d) s = .next t ∧ t.pending = s.pending ∧
          t.chip.drum.cyc = x.storeBytes d w s.chip.drum.cyc a (x.bytes d.typ d.a) ∧
          t.chip.cycTag a = (if d.flags.val % 2 = 1 then s.chip.engK e % 65536 else 0xFFFF) ∧ (t.chip.eng e).pc = x.pc + 1 ∧ (t.chip.eng e).v = x.v) ∧
        (s.chip.ownsWord e a = false → ∃ t, exec (.opStore e d) s = .next t ∧ t.pending = s.pending ∧ t.chip = Chip.steady (s.chip.stopEngine e 3)))) ∧
    (∀ (b b' : Bytes) (m : Mem), descFault 0x50 d = none → b = (x.bytes d.typ d.a).take d.imm →
      b' = (if d.flags.val = 1 then revEach 4 b else if d.flags.val = 2 then revEach 8 b else b) → m = x.storeBytes d w x.mem (locAddr d.addr) b' →
      ∃ t, exec (.opField e d) s = .next t ∧ t.pending = s.pending ∧
        s.chip.engDone t.chip e { x with mem := m }) ∧
    (∀ q ∈ [(0x51, Instr.opScatter, s.chip.template e d),
        (0x52, Instr.opEvtreq, EOut.edge d.imm (d.flags.val % 4) (s.chip.engTk e + divRoundS (signed 64 (x.lane 3 d.a 0)) (2 ^ 22) * 64) d.aux),
        (0x53, Instr.opVreq, EOut.target d.imm (signed 64 (x.lane 3 d.a 0)) d.aux d.addr),
        (0x54, Instr.opPost, EOut.post d.imm (natOfBytes (x.bytes 0 d.a ++ x.bytes 0 (d.a.val + 1))))],
      descFault q.1 d = none → x.active d 0 = true → ∃ t, exec (q.2.1 e d) s = .next t ∧ t.pending = s.pending ∧ s.chip.engDone t.chip e (x.out q.2.2)) ∧
    (descFault 0x60 d = none → x.mask d = 255 → ∃ t, exec (.opSkip e d) s = .next t ∧ t.pending = s.pending ∧
      t.chip.eng e = { x with pc := x.pc + 1 + d.imm, wait := none } ∧ s.chip.engineOnly t.chip e) ∧
    (descFault 0x61 d = none → x.active d 0 = true → ∃ t, exec (.opEnd e d) s = .next t ∧ t.pending = s.pending ∧ t.chip.engState e = 5 ∧
      t.chip.eng e = { x with pc := x.pc + 1, wait := none }) ∧
    (descFault 0x00 d = none → ∃ t, exec (.opNop e d) s = .next t ∧ t.pending = s.pending ∧ s.chip.engDone t.chip e x)

/-- A cycle: CYC_TRIGGER, GATHER_DEADLINE, ENGINE_WAITSEQ_RESUME, ENGINE_PROGRAM_END, FENCE_OPEN and SCATTER_ENQUEUE (R32, R256 to R258, R262 to R264, R266, R277,
R293, R341): a boundary that finds the previous fence open triggers the domain once what was due at it has taken effect, and one that finds it closed counts an
overrun; at the deadline the inputs not there become stale and their readers run again; a wait ends when its word is tagged; a running engine carries on to the end
of its program; when every input and engine of the domain is done, CD_FENCE shows how long the cycle took, its outputs leave, its engines idle and an active of a
pair sends the domain's snapshot; a section's writer sends its next frame, or counts it lost without cells (R107). -/
def Obligations.CycleOfADomain : Prop :=
  ∀ s : State,
    (∀ (d : Fin 4) (x : Chip), s.chip.cycDue d = true → x = s.chip.commitDue d → x.cycDue d = true →
      ((x.dom d).busy = false → ∃ t, exec (.cycTrigger d) s = .next t ∧ t.pending = s.pending ∧ t.chip = Chip.steady (((x.takeTrigger d).thawEnd).settleWaits)) ∧
      ((x.dom d).busy = true → ∃ t, exec (.cycTrigger d) s = .next t ∧ t.pending = s.pending ∧ t.chip = Chip.steady (((x.overrun d).thawEnd).settleWaits))) ∧
    (∀ d : Fin 4, (s.chip.dom d).ran = true → (s.chip.dom d).late = false → (s.chip.dom d).tk + (((s.chip.dom d).dIn * 65536 : Nat) : Int) ≤ s.chip.tb16 →
      ∃ t, exec (.gatherDeadline d) s = .next t ∧ t.pending = s.pending ∧ t.chip = Chip.steady (s.chip.closeInputs d)) ∧
    (∀ (e : Fin 64) (d : Desc) (c1 : Chip) (a : Nat), s.chip.engState e = 4 → (s.chip.eng e).wait = some (0x11, d) → descFault 0x11 d = none → a = cycAddr d.addr →
      c1 = s.chip.setEngState e 2 → c1.bankHeld a = false → c1.seqReady e a = 1 →
      ∃ t, exec (.engineWaitseqResume e) s = .next t ∧ t.pending = s.pending ∧ t.chip.engState e = 2 ∧
        t.chip.eng e = { ((s.chip.eng e).save none (some a)).takeWord d (s.chip.cycWord a) true true with pc := (s.chip.eng e).pc + 1, wait := none }) ∧
    (∀ e : Fin 64, s.chip.engState e = 2 →
      ((s.chip.eng e).prog.descs[(s.chip.eng e).pc]? = none →
        ∃ t, exec (.engineProgramEnd e) s = .next t ∧ t.pending = s.pending ∧ t.chip.engState e = 5 ∧ t.chip.eng e = s.chip.eng e) ∧
      (∀ w : Nat, (s.chip.eng e).prog.descs[(s.chip.eng e).pc]? = some w →
        ∃ t, exec (.engineProgramEnd e) s = .next t ∧ t.pending = s.pending ∧
          t.chip = Chip.steady (Chip.runProgram e 1024 (s.chip.runOp e (descOp w) (descOf w))))) ∧
    (∀ (d : Fin 4) (ns : Nat) (c1 c2 c3 z : Chip) (mine : List Nat), s.chip.fenceReady d = true → ns = (((s.chip.tb16 : Int) - (s.chip.dom d).tk) / 65536).toNat →
      c1 = ((s.chip.wr Reg.CD_FENCE_LAST (satU 32 ns) d).peak Reg.CD_FENCE_MAX ns d).updDom d (fun x => { x with busy := false }) →
      mine = (List.range 64).filter (fun e => (c1.eng e).dom == some d.val && c1.engState e != 6) →
      c2 = c1.each mine (fun e c => (c.eng e).outs.foldl (fun c o => c.release d e o.2) c) →
      c3 = c2.each mine (fun e c => (c.updEng e fun x => { x with outs := [], saves := [], wrote := [] }).setEngState e 1) →
      z = (if c3.cdState d = 3 then (c3.setCdState d 0).releaseEngines d else c3) →
      ∃ t, exec (.fenceOpen d) s = .next t ∧ t.pending = s.pending ∧
        t.chip = Chip.steady (if z.pairOn ∧ ((s.chip.dom d).snapAt + unitsMs (s.chip.rd Reg.CKPT_CFG_CKPT_MS) ≤ s.chip.now ∨ z.handoverNear) then
          (z.ckSend 5 (z.snapRecs d)).updDom d fun x => { x with snapAt := s.chip.now } else z)) ∧
    (∀ (k : Fin 8) (y : Scat) (l : List Scat) (x : Chip), SMap.get s.chip.drum.scat k = y :: l →
      x = { s.chip with drum := { s.chip.drum with scat := SMap.set s.chip.drum.scat k l } } →
      ∃ t, exec (.scatterEnqueue k) s = .next t ∧ t.pending = s.pending ∧
        t.chip = Chip.steady ((x.sendOwn .scatter .scatter (66 + k) y.port y.cls y.body y.launch y.tag).getD (x.count Ev.SCATTER_NOCELL y.dom)))

/-- The same checks for all 39 operations (R267, R279 to R281): an operation whose descriptor fails its checks stops the engine: STATE shows it, CAUSE says why, DESC
names the descriptor, and what the engine held for the fence is dropped. Other engines keep their registers and memories. -/
def Obligations.BadDescriptorStops : Prop :=
  ∀ (e : Fin 64) (d : Desc) (s : State) (cause : Nat) (q : Nat × (Fin 64 → Desc → Instr)), s.chip.engState e ≠ 6 → descFault q.1 d = some cause →
    (s.chip.eng e).pc < 1024 → q ∈
      [(0x00, Instr.opNop), (0x01, Instr.opLoad), (0x02, Instr.opStore), (0x03, Instr.opMovi), (0x04, Instr.opShuf), (0x10, Instr.opGather), 
       (0x11, Instr.opWaitseq), (0x12, Instr.opTsub), (0x13, Instr.opRecv), (0x14, Instr.opCntrd), (0x15, Instr.opAxflt), (0x20, Instr.opAdd), 
       (0x21, Instr.opSub), (0x22, Instr.opMul), (0x23, Instr.opMac), (0x24, Instr.opDiv), (0x25, Instr.opNeg), (0x26, Instr.opAbs), 
       (0x27, Instr.opMin), (0x28, Instr.opMax), (0x29, Instr.opClamp), (0x2A, Instr.opShift), (0x2B, Instr.opCvt), (0x2C, Instr.opSqrt), 
       (0x30, Instr.opCmp), (0x31, Instr.opPlog), (0x40, Instr.opVmaster), (0x41, Instr.opGear), (0x42, Instr.opCam), (0x43, Instr.opRegist), 
       (0x44, Instr.opFilt), (0x45, Instr.opPid), (0x50, Instr.opField), (0x51, Instr.opScatter), (0x52, Instr.opEvtreq), (0x53, Instr.opVreq), 
       (0x54, Instr.opPost), (0x60, Instr.opSkip), (0x61, Instr.opEnd)] →
    ∃ t, exec (q.2 e d) s = .next t ∧ t.pending = s.pending ∧ t.chip.engState e = 6 ∧ t.chip.on Reg.ENG_STATUS_ENG_FAULT (256 + e.val) = true ∧
      t.chip.rd Reg.ENG_STATUS_CAUSE (256 + e.val) = cause ∧ t.chip.rd Reg.ENG_STATUS_DESC (256 + e.val) = (s.chip.eng e).pc ∧
      (t.chip.eng e).outs = [] ∧ (t.chip.eng e).wait = none ∧ ∀ f, f ≠ e.val → t.chip.eng f = s.chip.eng f

/-- SHIFT (R299): at an engine that has not stopped, a descriptor that passes its checks moves each active lane of SRCA by IMM[5:0] places: to the right, toward
minus infinity, where IMM[6] is 1; to the left where it is 0, saturated for Q1.31 and for INT32 with SAT, modulo the lane's width otherwise. A count of the lane's
width or more does not pass the checks. Every other lane and register holds what it held. -/
def Obligations.ShiftMovesLanes : Prop :=
  ∀ (e : Fin 64) (d : Desc) (s : State) (x : Eng) (n w : Nat) (z : Nat → Int), s.chip.engState e ≠ 6 → x = s.chip.eng e → n = d.imm % 64 →
    w = (if d.typ.val = 3 then 64 else 32) → z = (fun i => signed w (x.lane d.typ d.a i)) →
    (w ≤ n → descFault 0x2A d ≠ none) ∧
    (descFault 0x2A d = none →
      ∃ t y, exec (.opShift e d) s = .next t ∧ t.pending = s.pending ∧ y = t.chip.eng e ∧ s.chip.lanesDone t.chip e d d.typ (fun i => y.lane d.typ d.dst i) ∧
        ∀ i < 8, x.active d i = true →
          (bitOf d.imm 6 = true → signed w (y.lane d.typ d.dst i) = z i / (2 ^ n : Nat)) ∧
          (bitOf d.imm 6 = false → d.typ.val = 1 ∨ d.typ.val = 0 ∧ d.flags.val % 2 = 1 →
            signed 32 (y.lane d.typ d.dst i) = max (-(2 ^ 31)) (min (2 ^ 31 - 1) (z i * (2 ^ n : Nat)))) ∧
          (bitOf d.imm 6 = false → d.typ.val = 3 ∨ d.typ.val = 0 ∧ d.flags.val % 2 = 0 →
            y.lane d.typ d.dst i = x.lane d.typ d.a i * 2 ^ n % 2 ^ w))
end

