-- ==== Sys2Proof/Laws/State.lean ====
section
/-! SUPPORT. What each shared update of the block leaves alone: one lemma per field and update. -/

namespace Sys2Proof.Machine

/-! ### wr -/

@[simp] theorem Chip.wr_outs (c : Chip) (F : Fld) (v i e : Nat) : (c.wr F v i e).outs = c.outs := rfl
@[simp] theorem Chip.wr_free (c : Chip) (F : Fld) (v i e : Nat) : (c.wr F v i e).free = c.free := rfl
@[simp] theorem Chip.wr_serial (c : Chip) (F : Fld) (v i e : Nat) : (c.wr F v i e).serial = c.serial := rfl
@[simp] theorem Chip.wr_orderCG (c : Chip) (F : Fld) (v i e : Nat) : (c.wr F v i e).orderCG = c.orderCG := rfl
@[simp] theorem Chip.wr_keys (c : Chip) (F : Fld) (v i e : Nat) : (c.wr F v i e).keys = c.keys := rfl
@[simp] theorem Chip.wr_cmdq (c : Chip) (F : Fld) (v i e : Nat) : (c.wr F v i e).cmdq = c.cmdq := rfl
@[simp] theorem Chip.wr_parked (c : Chip) (F : Fld) (v i e : Nat) : (c.wr F v i e).parked = c.parked := rfl
@[simp] theorem Chip.wr_txns (c : Chip) (F : Fld) (v i e : Nat) : (c.wr F v i e).txns = c.txns := rfl
@[simp] theorem Chip.wr_ended (c : Chip) (F : Fld) (v i e : Nat) : (c.wr F v i e).ended = c.ended := rfl
@[simp] theorem Chip.wr_txnCtr (c : Chip) (F : Fld) (v i e : Nat) : (c.wr F v i e).txnCtr = c.txnCtr := rfl
@[simp] theorem Chip.wr_schedCtr (c : Chip) (F : Fld) (v i e : Nat) : (c.wr F v i e).schedCtr = c.schedCtr := rfl
@[simp] theorem Chip.wr_jrn (c : Chip) (F : Fld) (v i e : Nat) : (c.wr F v i e).jrn = c.jrn := rfl
@[simp] theorem Chip.wr_hif (c : Chip) (F : Fld) (v i e : Nat) : (c.wr F v i e).hif = c.hif := rfl
@[simp] theorem Chip.wr_coal (c : Chip) (F : Fld) (v i e : Nat) : (c.wr F v i e).coal = c.coal := rfl
@[simp] theorem Chip.wr_time (c : Chip) (F : Fld) (v i e : Nat) : (c.wr F v i e).time = c.time := rfl
@[simp] theorem Chip.wr_cal (c : Chip) (F : Fld) (v i e : Nat) : (c.wr F v i e).cal = c.cal := rfl
@[simp] theorem Chip.wr_lull (c : Chip) (F : Fld) (v i e : Nat) : (c.wr F v i e).lull = c.lull := rfl
@[simp] theorem Chip.wr_diag (c : Chip) (F : Fld) (v i e : Nat) : (c.wr F v i e).diag = c.diag := rfl
@[simp] theorem Chip.wr_stateKey (c : Chip) (F : Fld) (v i e : Nat) : (c.wr F v i e).stateKey = c.stateKey := rfl
@[simp] theorem Chip.wr_arbs (c : Chip) (F : Fld) (v i e : Nat) : (c.wr F v i e).arbs = c.arbs := rfl
@[simp] theorem Chip.wr_baroClear (c : Chip) (F : Fld) (v i e : Nat) : (c.wr F v i e).baroClear = c.baroClear := rfl
@[simp] theorem Chip.wr_baroLow (c : Chip) (F : Fld) (v i e : Nat) : (c.wr F v i e).baroLow = c.baroLow := rfl
@[simp] theorem Chip.wr_baroAt (c : Chip) (F : Fld) (v i e : Nat) : (c.wr F v i e).baroAt = c.baroAt := rfl
@[simp] theorem Chip.wr_path (c : Chip) (F : Fld) (v i e : Nat) : (c.wr F v i e).path = c.path := rfl
@[simp] theorem Chip.wr_tbl (c : Chip) (F : Fld) (v i e : Nat) : (c.wr F v i e).tbl = c.tbl := rfl
@[simp] theorem Chip.wr_mgtSpeed (c : Chip) (F : Fld) (v i e : Nat) : (c.wr F v i e).mgtSpeed = c.mgtSpeed := rfl
@[simp] theorem Chip.wr_gateP (c : Chip) (F : Fld) (v i e : Nat) : (c.wr F v i e).gateP = c.gateP := rfl
@[simp] theorem Chip.wr_fab (c : Chip) (F : Fld) (v i e : Nat) : (c.wr F v i e).fab = c.fab := rfl
@[simp] theorem Chip.wr_loops (c : Chip) (F : Fld) (v i e : Nat) : (c.wr F v i e).loops = c.loops := rfl
@[simp] theorem Chip.wr_opts (c : Chip) (F : Fld) (v i e : Nat) : (c.wr F v i e).opts = c.opts := rfl
@[simp] theorem Chip.wr_tdc (c : Chip) (F : Fld) (v i e : Nat) : (c.wr F v i e).tdc = c.tdc := rfl
@[simp] theorem Chip.wr_phms (c : Chip) (F : Fld) (v i e : Nat) : (c.wr F v i e).phms = c.phms := rfl
@[simp] theorem Chip.wr_evis (c : Chip) (F : Fld) (v i e : Nat) : (c.wr F v i e).evis = c.evis := rfl
@[simp] theorem Chip.wr_ivls (c : Chip) (F : Fld) (v i e : Nat) : (c.wr F v i e).ivls = c.ivls := rfl
@[simp] theorem Chip.wr_evos (c : Chip) (F : Fld) (v i e : Nat) : (c.wr F v i e).evos = c.evos := rfl
@[simp] theorem Chip.wr_dplls (c : Chip) (F : Fld) (v i e : Nat) : (c.wr F v i e).dplls = c.dplls := rfl
@[simp] theorem Chip.wr_ckos (c : Chip) (F : Fld) (v i e : Nat) : (c.wr F v i e).ckos = c.ckos := rfl
@[simp] theorem Chip.wr_car (c : Chip) (F : Fld) (v i e : Nat) : (c.wr F v i e).car = c.car := rfl
@[simp] theorem Chip.wr_drum (c : Chip) (F : Fld) (v i e : Nat) : (c.wr F v i e).drum = c.drum := rfl
@[simp] theorem Chip.wr_twin (c : Chip) (F : Fld) (v i e : Nat) : (c.wr F v i e).twin = c.twin := rfl
@[simp] theorem Chip.wr_fw (c : Chip) (F : Fld) (v i e : Nat) : (c.wr F v i e).fw = c.fw := rfl
@[simp] theorem Chip.wr_pwr (c : Chip) (F : Fld) (v i e : Nat) : (c.wr F v i e).pwr = c.pwr := rfl

/-! ### wrS -/

@[simp] theorem Chip.wrS_outs (c : Chip) (F : Fld) (z : Int) (i e : Nat) : (c.wrS F z i e).outs = c.outs := rfl
@[simp] theorem Chip.wrS_free (c : Chip) (F : Fld) (z : Int) (i e : Nat) : (c.wrS F z i e).free = c.free := rfl
@[simp] theorem Chip.wrS_serial (c : Chip) (F : Fld) (z : Int) (i e : Nat) : (c.wrS F z i e).serial = c.serial := rfl
@[simp] theorem Chip.wrS_orderCG (c : Chip) (F : Fld) (z : Int) (i e : Nat) : (c.wrS F z i e).orderCG = c.orderCG := rfl
@[simp] theorem Chip.wrS_keys (c : Chip) (F : Fld) (z : Int) (i e : Nat) : (c.wrS F z i e).keys = c.keys := rfl
@[simp] theorem Chip.wrS_cmdq (c : Chip) (F : Fld) (z : Int) (i e : Nat) : (c.wrS F z i e).cmdq = c.cmdq := rfl
@[simp] theorem Chip.wrS_parked (c : Chip) (F : Fld) (z : Int) (i e : Nat) : (c.wrS F z i e).parked = c.parked := rfl
@[simp] theorem Chip.wrS_txns (c : Chip) (F : Fld) (z : Int) (i e : Nat) : (c.wrS F z i e).txns = c.txns := rfl
@[simp] theorem Chip.wrS_ended (c : Chip) (F : Fld) (z : Int) (i e : Nat) : (c.wrS F z i e).ended = c.ended := rfl
@[simp] theorem Chip.wrS_txnCtr (c : Chip) (F : Fld) (z : Int) (i e : Nat) : (c.wrS F z i e).txnCtr = c.txnCtr := rfl
@[simp] theorem Chip.wrS_schedCtr (c : Chip) (F : Fld) (z : Int) (i e : Nat) : (c.wrS F z i e).schedCtr = c.schedCtr := rfl
@[simp] theorem Chip.wrS_jrn (c : Chip) (F : Fld) (z : Int) (i e : Nat) : (c.wrS F z i e).jrn = c.jrn := rfl
@[simp] theorem Chip.wrS_hif (c : Chip) (F : Fld) (z : Int) (i e : Nat) : (c.wrS F z i e).hif = c.hif := rfl
@[simp] theorem Chip.wrS_coal (c : Chip) (F : Fld) (z : Int) (i e : Nat) : (c.wrS F z i e).coal = c.coal := rfl
@[simp] theorem Chip.wrS_time (c : Chip) (F : Fld) (z : Int) (i e : Nat) : (c.wrS F z i e).time = c.time := rfl
@[simp] theorem Chip.wrS_cal (c : Chip) (F : Fld) (z : Int) (i e : Nat) : (c.wrS F z i e).cal = c.cal := rfl
@[simp] theorem Chip.wrS_lull (c : Chip) (F : Fld) (z : Int) (i e : Nat) : (c.wrS F z i e).lull = c.lull := rfl
@[simp] theorem Chip.wrS_diag (c : Chip) (F : Fld) (z : Int) (i e : Nat) : (c.wrS F z i e).diag = c.diag := rfl
@[simp] theorem Chip.wrS_stateKey (c : Chip) (F : Fld) (z : Int) (i e : Nat) : (c.wrS F z i e).stateKey = c.stateKey := rfl
@[simp] theorem Chip.wrS_arbs (c : Chip) (F : Fld) (z : Int) (i e : Nat) : (c.wrS F z i e).arbs = c.arbs := rfl
@[simp] theorem Chip.wrS_baroClear (c : Chip) (F : Fld) (z : Int) (i e : Nat) : (c.wrS F z i e).baroClear = c.baroClear := rfl
@[simp] theorem Chip.wrS_baroLow (c : Chip) (F : Fld) (z : Int) (i e : Nat) : (c.wrS F z i e).baroLow = c.baroLow := rfl
@[simp] theorem Chip.wrS_baroAt (c : Chip) (F : Fld) (z : Int) (i e : Nat) : (c.wrS F z i e).baroAt = c.baroAt := rfl
@[simp] theorem Chip.wrS_path (c : Chip) (F : Fld) (z : Int) (i e : Nat) : (c.wrS F z i e).path = c.path := rfl
@[simp] theorem Chip.wrS_tbl (c : Chip) (F : Fld) (z : Int) (i e : Nat) : (c.wrS F z i e).tbl = c.tbl := rfl
@[simp] theorem Chip.wrS_mgtSpeed (c : Chip) (F : Fld) (z : Int) (i e : Nat) : (c.wrS F z i e).mgtSpeed = c.mgtSpeed := rfl
@[simp] theorem Chip.wrS_gateP (c : Chip) (F : Fld) (z : Int) (i e : Nat) : (c.wrS F z i e).gateP = c.gateP := rfl
@[simp] theorem Chip.wrS_fab (c : Chip) (F : Fld) (z : Int) (i e : Nat) : (c.wrS F z i e).fab = c.fab := rfl
@[simp] theorem Chip.wrS_loops (c : Chip) (F : Fld) (z : Int) (i e : Nat) : (c.wrS F z i e).loops = c.loops := rfl
@[simp] theorem Chip.wrS_opts (c : Chip) (F : Fld) (z : Int) (i e : Nat) : (c.wrS F z i e).opts = c.opts := rfl
@[simp] theorem Chip.wrS_tdc (c : Chip) (F : Fld) (z : Int) (i e : Nat) : (c.wrS F z i e).tdc = c.tdc := rfl
@[simp] theorem Chip.wrS_phms (c : Chip) (F : Fld) (z : Int) (i e : Nat) : (c.wrS F z i e).phms = c.phms := rfl
@[simp] theorem Chip.wrS_evis (c : Chip) (F : Fld) (z : Int) (i e : Nat) : (c.wrS F z i e).evis = c.evis := rfl
@[simp] theorem Chip.wrS_ivls (c : Chip) (F : Fld) (z : Int) (i e : Nat) : (c.wrS F z i e).ivls = c.ivls := rfl
@[simp] theorem Chip.wrS_evos (c : Chip) (F : Fld) (z : Int) (i e : Nat) : (c.wrS F z i e).evos = c.evos := rfl
@[simp] theorem Chip.wrS_dplls (c : Chip) (F : Fld) (z : Int) (i e : Nat) : (c.wrS F z i e).dplls = c.dplls := rfl
@[simp] theorem Chip.wrS_ckos (c : Chip) (F : Fld) (z : Int) (i e : Nat) : (c.wrS F z i e).ckos = c.ckos := rfl
@[simp] theorem Chip.wrS_car (c : Chip) (F : Fld) (z : Int) (i e : Nat) : (c.wrS F z i e).car = c.car := rfl
@[simp] theorem Chip.wrS_drum (c : Chip) (F : Fld) (z : Int) (i e : Nat) : (c.wrS F z i e).drum = c.drum := rfl
@[simp] theorem Chip.wrS_twin (c : Chip) (F : Fld) (z : Int) (i e : Nat) : (c.wrS F z i e).twin = c.twin := rfl
@[simp] theorem Chip.wrS_fw (c : Chip) (F : Fld) (z : Int) (i e : Nat) : (c.wrS F z i e).fw = c.fw := rfl
@[simp] theorem Chip.wrS_pwr (c : Chip) (F : Fld) (z : Int) (i e : Nat) : (c.wrS F z i e).pwr = c.pwr := rfl

/-! ### flag -/

@[simp] theorem Chip.flag_outs (c : Chip) (F : Fld) (b : Bool) (i e : Nat) : (c.flag F b i e).outs = c.outs := rfl
@[simp] theorem Chip.flag_free (c : Chip) (F : Fld) (b : Bool) (i e : Nat) : (c.flag F b i e).free = c.free := rfl
@[simp] theorem Chip.flag_serial (c : Chip) (F : Fld) (b : Bool) (i e : Nat) : (c.flag F b i e).serial = c.serial := rfl
@[simp] theorem Chip.flag_orderCG (c : Chip) (F : Fld) (b : Bool) (i e : Nat) : (c.flag F b i e).orderCG = c.orderCG := rfl
@[simp] theorem Chip.flag_keys (c : Chip) (F : Fld) (b : Bool) (i e : Nat) : (c.flag F b i e).keys = c.keys := rfl
@[simp] theorem Chip.flag_cmdq (c : Chip) (F : Fld) (b : Bool) (i e : Nat) : (c.flag F b i e).cmdq = c.cmdq := rfl
@[simp] theorem Chip.flag_parked (c : Chip) (F : Fld) (b : Bool) (i e : Nat) : (c.flag F b i e).parked = c.parked := rfl
@[simp] theorem Chip.flag_txns (c : Chip) (F : Fld) (b : Bool) (i e : Nat) : (c.flag F b i e).txns = c.txns := rfl
@[simp] theorem Chip.flag_ended (c : Chip) (F : Fld) (b : Bool) (i e : Nat) : (c.flag F b i e).ended = c.ended := rfl
@[simp] theorem Chip.flag_txnCtr (c : Chip) (F : Fld) (b : Bool) (i e : Nat) : (c.flag F b i e).txnCtr = c.txnCtr := rfl
@[simp] theorem Chip.flag_schedCtr (c : Chip) (F : Fld) (b : Bool) (i e : Nat) : (c.flag F b i e).schedCtr = c.schedCtr := rfl
@[simp] theorem Chip.flag_jrn (c : Chip) (F : Fld) (b : Bool) (i e : Nat) : (c.flag F b i e).jrn = c.jrn := rfl
@[simp] theorem Chip.flag_hif (c : Chip) (F : Fld) (b : Bool) (i e : Nat) : (c.flag F b i e).hif = c.hif := rfl
@[simp] theorem Chip.flag_coal (c : Chip) (F : Fld) (b : Bool) (i e : Nat) : (c.flag F b i e).coal = c.coal := rfl
@[simp] theorem Chip.flag_time (c : Chip) (F : Fld) (b : Bool) (i e : Nat) : (c.flag F b i e).time = c.time := rfl
@[simp] theorem Chip.flag_cal (c : Chip) (F : Fld) (b : Bool) (i e : Nat) : (c.flag F b i e).cal = c.cal := rfl
@[simp] theorem Chip.flag_lull (c : Chip) (F : Fld) (b : Bool) (i e : Nat) : (c.flag F b i e).lull = c.lull := rfl
@[simp] theorem Chip.flag_diag (c : Chip) (F : Fld) (b : Bool) (i e : Nat) : (c.flag F b i e).diag = c.diag := rfl
@[simp] theorem Chip.flag_stateKey (c : Chip) (F : Fld) (b : Bool) (i e : Nat) : (c.flag F b i e).stateKey = c.stateKey := rfl
@[simp] theorem Chip.flag_arbs (c : Chip) (F : Fld) (b : Bool) (i e : Nat) : (c.flag F b i e).arbs = c.arbs := rfl
@[simp] theorem Chip.flag_baroClear (c : Chip) (F : Fld) (b : Bool) (i e : Nat) : (c.flag F b i e).baroClear = c.baroClear := rfl
@[simp] theorem Chip.flag_baroLow (c : Chip) (F : Fld) (b : Bool) (i e : Nat) : (c.flag F b i e).baroLow = c.baroLow := rfl
@[simp] theorem Chip.flag_baroAt (c : Chip) (F : Fld) (b : Bool) (i e : Nat) : (c.flag F b i e).baroAt = c.baroAt := rfl
@[simp] theorem Chip.flag_path (c : Chip) (F : Fld) (b : Bool) (i e : Nat) : (c.flag F b i e).path = c.path := rfl
@[simp] theorem Chip.flag_tbl (c : Chip) (F : Fld) (b : Bool) (i e : Nat) : (c.flag F b i e).tbl = c.tbl := rfl
@[simp] theorem Chip.flag_mgtSpeed (c : Chip) (F : Fld) (b : Bool) (i e : Nat) : (c.flag F b i e).mgtSpeed = c.mgtSpeed := rfl
@[simp] theorem Chip.flag_gateP (c : Chip) (F : Fld) (b : Bool) (i e : Nat) : (c.flag F b i e).gateP = c.gateP := rfl
@[simp] theorem Chip.flag_fab (c : Chip) (F : Fld) (b : Bool) (i e : Nat) : (c.flag F b i e).fab = c.fab := rfl
@[simp] theorem Chip.flag_loops (c : Chip) (F : Fld) (b : Bool) (i e : Nat) : (c.flag F b i e).loops = c.loops := rfl
@[simp] theorem Chip.flag_opts (c : Chip) (F : Fld) (b : Bool) (i e : Nat) : (c.flag F b i e).opts = c.opts := rfl
@[simp] theorem Chip.flag_tdc (c : Chip) (F : Fld) (b : Bool) (i e : Nat) : (c.flag F b i e).tdc = c.tdc := rfl
@[simp] theorem Chip.flag_phms (c : Chip) (F : Fld) (b : Bool) (i e : Nat) : (c.flag F b i e).phms = c.phms := rfl
@[simp] theorem Chip.flag_evis (c : Chip) (F : Fld) (b : Bool) (i e : Nat) : (c.flag F b i e).evis = c.evis := rfl
@[simp] theorem Chip.flag_ivls (c : Chip) (F : Fld) (b : Bool) (i e : Nat) : (c.flag F b i e).ivls = c.ivls := rfl
@[simp] theorem Chip.flag_evos (c : Chip) (F : Fld) (b : Bool) (i e : Nat) : (c.flag F b i e).evos = c.evos := rfl
@[simp] theorem Chip.flag_dplls (c : Chip) (F : Fld) (b : Bool) (i e : Nat) : (c.flag F b i e).dplls = c.dplls := rfl
@[simp] theorem Chip.flag_ckos (c : Chip) (F : Fld) (b : Bool) (i e : Nat) : (c.flag F b i e).ckos = c.ckos := rfl
@[simp] theorem Chip.flag_car (c : Chip) (F : Fld) (b : Bool) (i e : Nat) : (c.flag F b i e).car = c.car := rfl
@[simp] theorem Chip.flag_drum (c : Chip) (F : Fld) (b : Bool) (i e : Nat) : (c.flag F b i e).drum = c.drum := rfl
@[simp] theorem Chip.flag_twin (c : Chip) (F : Fld) (b : Bool) (i e : Nat) : (c.flag F b i e).twin = c.twin := rfl
@[simp] theorem Chip.flag_fw (c : Chip) (F : Fld) (b : Bool) (i e : Nat) : (c.flag F b i e).fw = c.fw := rfl
@[simp] theorem Chip.flag_pwr (c : Chip) (F : Fld) (b : Bool) (i e : Nat) : (c.flag F b i e).pwr = c.pwr := rfl

/-! ### incSat -/

@[simp] theorem Chip.incSat_outs (c : Chip) (F : Fld) (n i e : Nat) : (c.incSat F n i e).outs = c.outs := rfl
@[simp] theorem Chip.incSat_free (c : Chip) (F : Fld) (n i e : Nat) : (c.incSat F n i e).free = c.free := rfl
@[simp] theorem Chip.incSat_serial (c : Chip) (F : Fld) (n i e : Nat) : (c.incSat F n i e).serial = c.serial := rfl
@[simp] theorem Chip.incSat_orderCG (c : Chip) (F : Fld) (n i e : Nat) : (c.incSat F n i e).orderCG = c.orderCG := rfl
@[simp] theorem Chip.incSat_keys (c : Chip) (F : Fld) (n i e : Nat) : (c.incSat F n i e).keys = c.keys := rfl
@[simp] theorem Chip.incSat_cmdq (c : Chip) (F : Fld) (n i e : Nat) : (c.incSat F n i e).cmdq = c.cmdq := rfl
@[simp] theorem Chip.incSat_parked (c : Chip) (F : Fld) (n i e : Nat) : (c.incSat F n i e).parked = c.parked := rfl
@[simp] theorem Chip.incSat_txns (c : Chip) (F : Fld) (n i e : Nat) : (c.incSat F n i e).txns = c.txns := rfl
@[simp] theorem Chip.incSat_ended (c : Chip) (F : Fld) (n i e : Nat) : (c.incSat F n i e).ended = c.ended := rfl
@[simp] theorem Chip.incSat_txnCtr (c : Chip) (F : Fld) (n i e : Nat) : (c.incSat F n i e).txnCtr = c.txnCtr := rfl
@[simp] theorem Chip.incSat_schedCtr (c : Chip) (F : Fld) (n i e : Nat) : (c.incSat F n i e).schedCtr = c.schedCtr := rfl
@[simp] theorem Chip.incSat_jrn (c : Chip) (F : Fld) (n i e : Nat) : (c.incSat F n i e).jrn = c.jrn := rfl
@[simp] theorem Chip.incSat_hif (c : Chip) (F : Fld) (n i e : Nat) : (c.incSat F n i e).hif = c.hif := rfl
@[simp] theorem Chip.incSat_coal (c : Chip) (F : Fld) (n i e : Nat) : (c.incSat F n i e).coal = c.coal := rfl
@[simp] theorem Chip.incSat_time (c : Chip) (F : Fld) (n i e : Nat) : (c.incSat F n i e).time = c.time := rfl
@[simp] theorem Chip.incSat_cal (c : Chip) (F : Fld) (n i e : Nat) : (c.incSat F n i e).cal = c.cal := rfl
@[simp] theorem Chip.incSat_lull (c : Chip) (F : Fld) (n i e : Nat) : (c.incSat F n i e).lull = c.lull := rfl
@[simp] theorem Chip.incSat_diag (c : Chip) (F : Fld) (n i e : Nat) : (c.incSat F n i e).diag = c.diag := rfl
@[simp] theorem Chip.incSat_stateKey (c : Chip) (F : Fld) (n i e : Nat) : (c.incSat F n i e).stateKey = c.stateKey := rfl
@[simp] theorem Chip.incSat_arbs (c : Chip) (F : Fld) (n i e : Nat) : (c.incSat F n i e).arbs = c.arbs := rfl
@[simp] theorem Chip.incSat_baroClear (c : Chip) (F : Fld) (n i e : Nat) : (c.incSat F n i e).baroClear = c.baroClear := rfl
@[simp] theorem Chip.incSat_baroLow (c : Chip) (F : Fld) (n i e : Nat) : (c.incSat F n i e).baroLow = c.baroLow := rfl
@[simp] theorem Chip.incSat_baroAt (c : Chip) (F : Fld) (n i e : Nat) : (c.incSat F n i e).baroAt = c.baroAt := rfl
@[simp] theorem Chip.incSat_path (c : Chip) (F : Fld) (n i e : Nat) : (c.incSat F n i e).path = c.path := rfl
@[simp] theorem Chip.incSat_tbl (c : Chip) (F : Fld) (n i e : Nat) : (c.incSat F n i e).tbl = c.tbl := rfl
@[simp] theorem Chip.incSat_mgtSpeed (c : Chip) (F : Fld) (n i e : Nat) : (c.incSat F n i e).mgtSpeed = c.mgtSpeed := rfl
@[simp] theorem Chip.incSat_gateP (c : Chip) (F : Fld) (n i e : Nat) : (c.incSat F n i e).gateP = c.gateP := rfl
@[simp] theorem Chip.incSat_fab (c : Chip) (F : Fld) (n i e : Nat) : (c.incSat F n i e).fab = c.fab := rfl
@[simp] theorem Chip.incSat_loops (c : Chip) (F : Fld) (n i e : Nat) : (c.incSat F n i e).loops = c.loops := rfl
@[simp] theorem Chip.incSat_opts (c : Chip) (F : Fld) (n i e : Nat) : (c.incSat F n i e).opts = c.opts := rfl
@[simp] theorem Chip.incSat_tdc (c : Chip) (F : Fld) (n i e : Nat) : (c.incSat F n i e).tdc = c.tdc := rfl
@[simp] theorem Chip.incSat_phms (c : Chip) (F : Fld) (n i e : Nat) : (c.incSat F n i e).phms = c.phms := rfl
@[simp] theorem Chip.incSat_evis (c : Chip) (F : Fld) (n i e : Nat) : (c.incSat F n i e).evis = c.evis := rfl
@[simp] theorem Chip.incSat_ivls (c : Chip) (F : Fld) (n i e : Nat) : (c.incSat F n i e).ivls = c.ivls := rfl
@[simp] theorem Chip.incSat_evos (c : Chip) (F : Fld) (n i e : Nat) : (c.incSat F n i e).evos = c.evos := rfl
@[simp] theorem Chip.incSat_dplls (c : Chip) (F : Fld) (n i e : Nat) : (c.incSat F n i e).dplls = c.dplls := rfl
@[simp] theorem Chip.incSat_ckos (c : Chip) (F : Fld) (n i e : Nat) : (c.incSat F n i e).ckos = c.ckos := rfl
@[simp] theorem Chip.incSat_car (c : Chip) (F : Fld) (n i e : Nat) : (c.incSat F n i e).car = c.car := rfl
@[simp] theorem Chip.incSat_drum (c : Chip) (F : Fld) (n i e : Nat) : (c.incSat F n i e).drum = c.drum := rfl
@[simp] theorem Chip.incSat_twin (c : Chip) (F : Fld) (n i e : Nat) : (c.incSat F n i e).twin = c.twin := rfl
@[simp] theorem Chip.incSat_fw (c : Chip) (F : Fld) (n i e : Nat) : (c.incSat F n i e).fw = c.fw := rfl
@[simp] theorem Chip.incSat_pwr (c : Chip) (F : Fld) (n i e : Nat) : (c.incSat F n i e).pwr = c.pwr := rfl

/-! ### incMod -/

@[simp] theorem Chip.incMod_outs (c : Chip) (F : Fld) (n i e : Nat) : (c.incMod F n i e).outs = c.outs := rfl
@[simp] theorem Chip.incMod_free (c : Chip) (F : Fld) (n i e : Nat) : (c.incMod F n i e).free = c.free := rfl
@[simp] theorem Chip.incMod_serial (c : Chip) (F : Fld) (n i e : Nat) : (c.incMod F n i e).serial = c.serial := rfl
@[simp] theorem Chip.incMod_orderCG (c : Chip) (F : Fld) (n i e : Nat) : (c.incMod F n i e).orderCG = c.orderCG := rfl
@[simp] theorem Chip.incMod_keys (c : Chip) (F : Fld) (n i e : Nat) : (c.incMod F n i e).keys = c.keys := rfl
@[simp] theorem Chip.incMod_cmdq (c : Chip) (F : Fld) (n i e : Nat) : (c.incMod F n i e).cmdq = c.cmdq := rfl
@[simp] theorem Chip.incMod_parked (c : Chip) (F : Fld) (n i e : Nat) : (c.incMod F n i e).parked = c.parked := rfl
@[simp] theorem Chip.incMod_txns (c : Chip) (F : Fld) (n i e : Nat) : (c.incMod F n i e).txns = c.txns := rfl
@[simp] theorem Chip.incMod_ended (c : Chip) (F : Fld) (n i e : Nat) : (c.incMod F n i e).ended = c.ended := rfl
@[simp] theorem Chip.incMod_txnCtr (c : Chip) (F : Fld) (n i e : Nat) : (c.incMod F n i e).txnCtr = c.txnCtr := rfl
@[simp] theorem Chip.incMod_schedCtr (c : Chip) (F : Fld) (n i e : Nat) : (c.incMod F n i e).schedCtr = c.schedCtr := rfl
@[simp] theorem Chip.incMod_jrn (c : Chip) (F : Fld) (n i e : Nat) : (c.incMod F n i e).jrn = c.jrn := rfl
@[simp] theorem Chip.incMod_hif (c : Chip) (F : Fld) (n i e : Nat) : (c.incMod F n i e).hif = c.hif := rfl
@[simp] theorem Chip.incMod_coal (c : Chip) (F : Fld) (n i e : Nat) : (c.incMod F n i e).coal = c.coal := rfl
@[simp] theorem Chip.incMod_time (c : Chip) (F : Fld) (n i e : Nat) : (c.incMod F n i e).time = c.time := rfl
@[simp] theorem Chip.incMod_cal (c : Chip) (F : Fld) (n i e : Nat) : (c.incMod F n i e).cal = c.cal := rfl
@[simp] theorem Chip.incMod_lull (c : Chip) (F : Fld) (n i e : Nat) : (c.incMod F n i e).lull = c.lull := rfl
@[simp] theorem Chip.incMod_diag (c : Chip) (F : Fld) (n i e : Nat) : (c.incMod F n i e).diag = c.diag := rfl
@[simp] theorem Chip.incMod_stateKey (c : Chip) (F : Fld) (n i e : Nat) : (c.incMod F n i e).stateKey = c.stateKey := rfl
@[simp] theorem Chip.incMod_arbs (c : Chip) (F : Fld) (n i e : Nat) : (c.incMod F n i e).arbs = c.arbs := rfl
@[simp] theorem Chip.incMod_baroClear (c : Chip) (F : Fld) (n i e : Nat) : (c.incMod F n i e).baroClear = c.baroClear := rfl
@[simp] theorem Chip.incMod_baroLow (c : Chip) (F : Fld) (n i e : Nat) : (c.incMod F n i e).baroLow = c.baroLow := rfl
@[simp] theorem Chip.incMod_baroAt (c : Chip) (F : Fld) (n i e : Nat) : (c.incMod F n i e).baroAt = c.baroAt := rfl
@[simp] theorem Chip.incMod_path (c : Chip) (F : Fld) (n i e : Nat) : (c.incMod F n i e).path = c.path := rfl
@[simp] theorem Chip.incMod_tbl (c : Chip) (F : Fld) (n i e : Nat) : (c.incMod F n i e).tbl = c.tbl := rfl
@[simp] theorem Chip.incMod_mgtSpeed (c : Chip) (F : Fld) (n i e : Nat) : (c.incMod F n i e).mgtSpeed = c.mgtSpeed := rfl
@[simp] theorem Chip.incMod_gateP (c : Chip) (F : Fld) (n i e : Nat) : (c.incMod F n i e).gateP = c.gateP := rfl
@[simp] theorem Chip.incMod_fab (c : Chip) (F : Fld) (n i e : Nat) : (c.incMod F n i e).fab = c.fab := rfl
@[simp] theorem Chip.incMod_loops (c : Chip) (F : Fld) (n i e : Nat) : (c.incMod F n i e).loops = c.loops := rfl
@[simp] theorem Chip.incMod_opts (c : Chip) (F : Fld) (n i e : Nat) : (c.incMod F n i e).opts = c.opts := rfl
@[simp] theorem Chip.incMod_tdc (c : Chip) (F : Fld) (n i e : Nat) : (c.incMod F n i e).tdc = c.tdc := rfl
@[simp] theorem Chip.incMod_phms (c : Chip) (F : Fld) (n i e : Nat) : (c.incMod F n i e).phms = c.phms := rfl
@[simp] theorem Chip.incMod_evis (c : Chip) (F : Fld) (n i e : Nat) : (c.incMod F n i e).evis = c.evis := rfl
@[simp] theorem Chip.incMod_ivls (c : Chip) (F : Fld) (n i e : Nat) : (c.incMod F n i e).ivls = c.ivls := rfl
@[simp] theorem Chip.incMod_evos (c : Chip) (F : Fld) (n i e : Nat) : (c.incMod F n i e).evos = c.evos := rfl
@[simp] theorem Chip.incMod_dplls (c : Chip) (F : Fld) (n i e : Nat) : (c.incMod F n i e).dplls = c.dplls := rfl
@[simp] theorem Chip.incMod_ckos (c : Chip) (F : Fld) (n i e : Nat) : (c.incMod F n i e).ckos = c.ckos := rfl
@[simp] theorem Chip.incMod_car (c : Chip) (F : Fld) (n i e : Nat) : (c.incMod F n i e).car = c.car := rfl
@[simp] theorem Chip.incMod_drum (c : Chip) (F : Fld) (n i e : Nat) : (c.incMod F n i e).drum = c.drum := rfl
@[simp] theorem Chip.incMod_twin (c : Chip) (F : Fld) (n i e : Nat) : (c.incMod F n i e).twin = c.twin := rfl
@[simp] theorem Chip.incMod_fw (c : Chip) (F : Fld) (n i e : Nat) : (c.incMod F n i e).fw = c.fw := rfl
@[simp] theorem Chip.incMod_pwr (c : Chip) (F : Fld) (n i e : Nat) : (c.incMod F n i e).pwr = c.pwr := rfl

/-! ### peak -/

@[simp] theorem Chip.peak_outs (c : Chip) (F : Fld) (v i e : Nat) : (c.peak F v i e).outs = c.outs := rfl
@[simp] theorem Chip.peak_free (c : Chip) (F : Fld) (v i e : Nat) : (c.peak F v i e).free = c.free := rfl
@[simp] theorem Chip.peak_serial (c : Chip) (F : Fld) (v i e : Nat) : (c.peak F v i e).serial = c.serial := rfl
@[simp] theorem Chip.peak_orderCG (c : Chip) (F : Fld) (v i e : Nat) : (c.peak F v i e).orderCG = c.orderCG := rfl
@[simp] theorem Chip.peak_keys (c : Chip) (F : Fld) (v i e : Nat) : (c.peak F v i e).keys = c.keys := rfl
@[simp] theorem Chip.peak_cmdq (c : Chip) (F : Fld) (v i e : Nat) : (c.peak F v i e).cmdq = c.cmdq := rfl
@[simp] theorem Chip.peak_parked (c : Chip) (F : Fld) (v i e : Nat) : (c.peak F v i e).parked = c.parked := rfl
@[simp] theorem Chip.peak_txns (c : Chip) (F : Fld) (v i e : Nat) : (c.peak F v i e).txns = c.txns := rfl
@[simp] theorem Chip.peak_ended (c : Chip) (F : Fld) (v i e : Nat) : (c.peak F v i e).ended = c.ended := rfl
@[simp] theorem Chip.peak_txnCtr (c : Chip) (F : Fld) (v i e : Nat) : (c.peak F v i e).txnCtr = c.txnCtr := rfl
@[simp] theorem Chip.peak_schedCtr (c : Chip) (F : Fld) (v i e : Nat) : (c.peak F v i e).schedCtr = c.schedCtr := rfl
@[simp] theorem Chip.peak_jrn (c : Chip) (F : Fld) (v i e : Nat) : (c.peak F v i e).jrn = c.jrn := rfl
@[simp] theorem Chip.peak_hif (c : Chip) (F : Fld) (v i e : Nat) : (c.peak F v i e).hif = c.hif := rfl
@[simp] theorem Chip.peak_coal (c : Chip) (F : Fld) (v i e : Nat) : (c.peak F v i e).coal = c.coal := rfl
@[simp] theorem Chip.peak_time (c : Chip) (F : Fld) (v i e : Nat) : (c.peak F v i e).time = c.time := rfl
@[simp] theorem Chip.peak_cal (c : Chip) (F : Fld) (v i e : Nat) : (c.peak F v i e).cal = c.cal := rfl
@[simp] theorem Chip.peak_lull (c : Chip) (F : Fld) (v i e : Nat) : (c.peak F v i e).lull = c.lull := rfl
@[simp] theorem Chip.peak_diag (c : Chip) (F : Fld) (v i e : Nat) : (c.peak F v i e).diag = c.diag := rfl
@[simp] theorem Chip.peak_stateKey (c : Chip) (F : Fld) (v i e : Nat) : (c.peak F v i e).stateKey = c.stateKey := rfl
@[simp] theorem Chip.peak_arbs (c : Chip) (F : Fld) (v i e : Nat) : (c.peak F v i e).arbs = c.arbs := rfl
@[simp] theorem Chip.peak_baroClear (c : Chip) (F : Fld) (v i e : Nat) : (c.peak F v i e).baroClear = c.baroClear := rfl
@[simp] theorem Chip.peak_baroLow (c : Chip) (F : Fld) (v i e : Nat) : (c.peak F v i e).baroLow = c.baroLow := rfl
@[simp] theorem Chip.peak_baroAt (c : Chip) (F : Fld) (v i e : Nat) : (c.peak F v i e).baroAt = c.baroAt := rfl
@[simp] theorem Chip.peak_path (c : Chip) (F : Fld) (v i e : Nat) : (c.peak F v i e).path = c.path := rfl
@[simp] theorem Chip.peak_tbl (c : Chip) (F : Fld) (v i e : Nat) : (c.peak F v i e).tbl = c.tbl := rfl
@[simp] theorem Chip.peak_mgtSpeed (c : Chip) (F : Fld) (v i e : Nat) : (c.peak F v i e).mgtSpeed = c.mgtSpeed := rfl
@[simp] theorem Chip.peak_gateP (c : Chip) (F : Fld) (v i e : Nat) : (c.peak F v i e).gateP = c.gateP := rfl
@[simp] theorem Chip.peak_fab (c : Chip) (F : Fld) (v i e : Nat) : (c.peak F v i e).fab = c.fab := rfl
@[simp] theorem Chip.peak_loops (c : Chip) (F : Fld) (v i e : Nat) : (c.peak F v i e).loops = c.loops := rfl
@[simp] theorem Chip.peak_opts (c : Chip) (F : Fld) (v i e : Nat) : (c.peak F v i e).opts = c.opts := rfl
@[simp] theorem Chip.peak_tdc (c : Chip) (F : Fld) (v i e : Nat) : (c.peak F v i e).tdc = c.tdc := rfl
@[simp] theorem Chip.peak_phms (c : Chip) (F : Fld) (v i e : Nat) : (c.peak F v i e).phms = c.phms := rfl
@[simp] theorem Chip.peak_evis (c : Chip) (F : Fld) (v i e : Nat) : (c.peak F v i e).evis = c.evis := rfl
@[simp] theorem Chip.peak_ivls (c : Chip) (F : Fld) (v i e : Nat) : (c.peak F v i e).ivls = c.ivls := rfl
@[simp] theorem Chip.peak_evos (c : Chip) (F : Fld) (v i e : Nat) : (c.peak F v i e).evos = c.evos := rfl
@[simp] theorem Chip.peak_dplls (c : Chip) (F : Fld) (v i e : Nat) : (c.peak F v i e).dplls = c.dplls := rfl
@[simp] theorem Chip.peak_ckos (c : Chip) (F : Fld) (v i e : Nat) : (c.peak F v i e).ckos = c.ckos := rfl
@[simp] theorem Chip.peak_car (c : Chip) (F : Fld) (v i e : Nat) : (c.peak F v i e).car = c.car := rfl
@[simp] theorem Chip.peak_drum (c : Chip) (F : Fld) (v i e : Nat) : (c.peak F v i e).drum = c.drum := rfl
@[simp] theorem Chip.peak_twin (c : Chip) (F : Fld) (v i e : Nat) : (c.peak F v i e).twin = c.twin := rfl
@[simp] theorem Chip.peak_fw (c : Chip) (F : Fld) (v i e : Nat) : (c.peak F v i e).fw = c.fw := rfl
@[simp] theorem Chip.peak_pwr (c : Chip) (F : Fld) (v i e : Nat) : (c.peak F v i e).pwr = c.pwr := rfl

/-! ### emit -/

@[simp] theorem Chip.emit_regs (c : Chip) (o : Out) : (c.emit o).regs = c.regs := rfl
@[simp] theorem Chip.emit_free (c : Chip) (o : Out) : (c.emit o).free = c.free := rfl
@[simp] theorem Chip.emit_serial (c : Chip) (o : Out) : (c.emit o).serial = c.serial := rfl
@[simp] theorem Chip.emit_orderCG (c : Chip) (o : Out) : (c.emit o).orderCG = c.orderCG := rfl
@[simp] theorem Chip.emit_keys (c : Chip) (o : Out) : (c.emit o).keys = c.keys := rfl
@[simp] theorem Chip.emit_cmdq (c : Chip) (o : Out) : (c.emit o).cmdq = c.cmdq := rfl
@[simp] theorem Chip.emit_parked (c : Chip) (o : Out) : (c.emit o).parked = c.parked := rfl
@[simp] theorem Chip.emit_txns (c : Chip) (o : Out) : (c.emit o).txns = c.txns := rfl
@[simp] theorem Chip.emit_ended (c : Chip) (o : Out) : (c.emit o).ended = c.ended := rfl
@[simp] theorem Chip.emit_txnCtr (c : Chip) (o : Out) : (c.emit o).txnCtr = c.txnCtr := rfl
@[simp] theorem Chip.emit_schedCtr (c : Chip) (o : Out) : (c.emit o).schedCtr = c.schedCtr := rfl
@[simp] theorem Chip.emit_jrn (c : Chip) (o : Out) : (c.emit o).jrn = c.jrn := rfl
@[simp] theorem Chip.emit_hif (c : Chip) (o : Out) : (c.emit o).hif = c.hif := rfl
@[simp] theorem Chip.emit_coal (c : Chip) (o : Out) : (c.emit o).coal = c.coal := rfl
@[simp] theorem Chip.emit_time (c : Chip) (o : Out) : (c.emit o).time = c.time := rfl
@[simp] theorem Chip.emit_cal (c : Chip) (o : Out) : (c.emit o).cal = c.cal := rfl
@[simp] theorem Chip.emit_lull (c : Chip) (o : Out) : (c.emit o).lull = c.lull := rfl
@[simp] theorem Chip.emit_diag (c : Chip) (o : Out) : (c.emit o).diag = c.diag := rfl
@[simp] theorem Chip.emit_stateKey (c : Chip) (o : Out) : (c.emit o).stateKey = c.stateKey := rfl
@[simp] theorem Chip.emit_arbs (c : Chip) (o : Out) : (c.emit o).arbs = c.arbs := rfl
@[simp] theorem Chip.emit_baroClear (c : Chip) (o : Out) : (c.emit o).baroClear = c.baroClear := rfl
@[simp] theorem Chip.emit_baroLow (c : Chip) (o : Out) : (c.emit o).baroLow = c.baroLow := rfl
@[simp] theorem Chip.emit_baroAt (c : Chip) (o : Out) : (c.emit o).baroAt = c.baroAt := rfl
@[simp] theorem Chip.emit_path (c : Chip) (o : Out) : (c.emit o).path = c.path := rfl
@[simp] theorem Chip.emit_tbl (c : Chip) (o : Out) : (c.emit o).tbl = c.tbl := rfl
@[simp] theorem Chip.emit_mgtSpeed (c : Chip) (o : Out) : (c.emit o).mgtSpeed = c.mgtSpeed := rfl
@[simp] theorem Chip.emit_gateP (c : Chip) (o : Out) : (c.emit o).gateP = c.gateP := rfl
@[simp] theorem Chip.emit_fab (c : Chip) (o : Out) : (c.emit o).fab = c.fab := rfl
@[simp] theorem Chip.emit_loops (c : Chip) (o : Out) : (c.emit o).loops = c.loops := rfl
@[simp] theorem Chip.emit_opts (c : Chip) (o : Out) : (c.emit o).opts = c.opts := rfl
@[simp] theorem Chip.emit_tdc (c : Chip) (o : Out) : (c.emit o).tdc = c.tdc := rfl
@[simp] theorem Chip.emit_phms (c : Chip) (o : Out) : (c.emit o).phms = c.phms := rfl
@[simp] theorem Chip.emit_evis (c : Chip) (o : Out) : (c.emit o).evis = c.evis := rfl
@[simp] theorem Chip.emit_ivls (c : Chip) (o : Out) : (c.emit o).ivls = c.ivls := rfl
@[simp] theorem Chip.emit_evos (c : Chip) (o : Out) : (c.emit o).evos = c.evos := rfl
@[simp] theorem Chip.emit_dplls (c : Chip) (o : Out) : (c.emit o).dplls = c.dplls := rfl
@[simp] theorem Chip.emit_ckos (c : Chip) (o : Out) : (c.emit o).ckos = c.ckos := rfl
@[simp] theorem Chip.emit_car (c : Chip) (o : Out) : (c.emit o).car = c.car := rfl
@[simp] theorem Chip.emit_drum (c : Chip) (o : Out) : (c.emit o).drum = c.drum := rfl
@[simp] theorem Chip.emit_twin (c : Chip) (o : Out) : (c.emit o).twin = c.twin := rfl
@[simp] theorem Chip.emit_fw (c : Chip) (o : Out) : (c.emit o).fw = c.fw := rfl
@[simp] theorem Chip.emit_pwr (c : Chip) (o : Out) : (c.emit o).pwr = c.pwr := rfl

/-! ### setAdj -/

@[simp] theorem Chip.setAdj_outs (c : Chip) (z : Int) : (c.setAdj z).outs = c.outs := by unfold Chip.setAdj; dsimp only; split <;> rfl
@[simp] theorem Chip.setAdj_free (c : Chip) (z : Int) : (c.setAdj z).free = c.free := by unfold Chip.setAdj; dsimp only; split <;> rfl
@[simp] theorem Chip.setAdj_serial (c : Chip) (z : Int) : (c.setAdj z).serial = c.serial := by unfold Chip.setAdj; dsimp only; split <;> rfl
@[simp] theorem Chip.setAdj_orderCG (c : Chip) (z : Int) : (c.setAdj z).orderCG = c.orderCG := by unfold Chip.setAdj; dsimp only; split <;> rfl
@[simp] theorem Chip.setAdj_keys (c : Chip) (z : Int) : (c.setAdj z).keys = c.keys := by unfold Chip.setAdj; dsimp only; split <;> rfl
@[simp] theorem Chip.setAdj_cmdq (c : Chip) (z : Int) : (c.setAdj z).cmdq = c.cmdq := by unfold Chip.setAdj; dsimp only; split <;> rfl
@[simp] theorem Chip.setAdj_parked (c : Chip) (z : Int) : (c.setAdj z).parked = c.parked := by unfold Chip.setAdj; dsimp only; split <;> rfl
@[simp] theorem Chip.setAdj_txns (c : Chip) (z : Int) : (c.setAdj z).txns = c.txns := by unfold Chip.setAdj; dsimp only; split <;> rfl
@[simp] theorem Chip.setAdj_ended (c : Chip) (z : Int) : (c.setAdj z).ended = c.ended := by unfold Chip.setAdj; dsimp only; split <;> rfl
@[simp] theorem Chip.setAdj_txnCtr (c : Chip) (z : Int) : (c.setAdj z).txnCtr = c.txnCtr := by unfold Chip.setAdj; dsimp only; split <;> rfl
@[simp] theorem Chip.setAdj_schedCtr (c : Chip) (z : Int) : (c.setAdj z).schedCtr = c.schedCtr := by unfold Chip.setAdj; dsimp only; split <;> rfl
@[simp] theorem Chip.setAdj_jrn (c : Chip) (z : Int) : (c.setAdj z).jrn = c.jrn := by unfold Chip.setAdj; dsimp only; split <;> rfl
@[simp] theorem Chip.setAdj_hif (c : Chip) (z : Int) : (c.setAdj z).hif = c.hif := by unfold Chip.setAdj; dsimp only; split <;> rfl
@[simp] theorem Chip.setAdj_coal (c : Chip) (z : Int) : (c.setAdj z).coal = c.coal := by unfold Chip.setAdj; dsimp only; split <;> rfl
@[simp] theorem Chip.setAdj_time (c : Chip) (z : Int) : (c.setAdj z).time = c.time := by unfold Chip.setAdj; dsimp only; split <;> rfl
@[simp] theorem Chip.setAdj_cal (c : Chip) (z : Int) : (c.setAdj z).cal = c.cal := by unfold Chip.setAdj; dsimp only; split <;> rfl
@[simp] theorem Chip.setAdj_lull (c : Chip) (z : Int) : (c.setAdj z).lull = c.lull := by unfold Chip.setAdj; dsimp only; split <;> rfl
@[simp] theorem Chip.setAdj_diag (c : Chip) (z : Int) : (c.setAdj z).diag = c.diag := by unfold Chip.setAdj; dsimp only; split <;> rfl
@[simp] theorem Chip.setAdj_stateKey (c : Chip) (z : Int) : (c.setAdj z).stateKey = c.stateKey := by unfold Chip.setAdj; dsimp only; split <;> rfl
@[simp] theorem Chip.setAdj_arbs (c : Chip) (z : Int) : (c.setAdj z).arbs = c.arbs := by unfold Chip.setAdj; dsimp only; split <;> rfl
@[simp] theorem Chip.setAdj_baroClear (c : Chip) (z : Int) : (c.setAdj z).baroClear = c.baroClear := by unfold Chip.setAdj; dsimp only; split <;> rfl
@[simp] theorem Chip.setAdj_baroLow (c : Chip) (z : Int) : (c.setAdj z).baroLow = c.baroLow := by unfold Chip.setAdj; dsimp only; split <;> rfl
@[simp] theorem Chip.setAdj_baroAt (c : Chip) (z : Int) : (c.setAdj z).baroAt = c.baroAt := by unfold Chip.setAdj; dsimp only; split <;> rfl
@[simp] theorem Chip.setAdj_path (c : Chip) (z : Int) : (c.setAdj z).path = c.path := by unfold Chip.setAdj; dsimp only; split <;> rfl
@[simp] theorem Chip.setAdj_tbl (c : Chip) (z : Int) : (c.setAdj z).tbl = c.tbl := by unfold Chip.setAdj; dsimp only; split <;> rfl
@[simp] theorem Chip.setAdj_mgtSpeed (c : Chip) (z : Int) : (c.setAdj z).mgtSpeed = c.mgtSpeed := by unfold Chip.setAdj; dsimp only; split <;> rfl
@[simp] theorem Chip.setAdj_gateP (c : Chip) (z : Int) : (c.setAdj z).gateP = c.gateP := by unfold Chip.setAdj; dsimp only; split <;> rfl
@[simp] theorem Chip.setAdj_fab (c : Chip) (z : Int) : (c.setAdj z).fab = c.fab := by unfold Chip.setAdj; dsimp only; split <;> rfl
@[simp] theorem Chip.setAdj_loops (c : Chip) (z : Int) : (c.setAdj z).loops = c.loops := by unfold Chip.setAdj; dsimp only; split <;> rfl
@[simp] theorem Chip.setAdj_opts (c : Chip) (z : Int) : (c.setAdj z).opts = c.opts := by unfold Chip.setAdj; dsimp only; split <;> rfl
@[simp] theorem Chip.setAdj_tdc (c : Chip) (z : Int) : (c.setAdj z).tdc = c.tdc := by unfold Chip.setAdj; dsimp only; split <;> rfl
@[simp] theorem Chip.setAdj_phms (c : Chip) (z : Int) : (c.setAdj z).phms = c.phms := by unfold Chip.setAdj; dsimp only; split <;> rfl
@[simp] theorem Chip.setAdj_evis (c : Chip) (z : Int) : (c.setAdj z).evis = c.evis := by unfold Chip.setAdj; dsimp only; split <;> rfl
@[simp] theorem Chip.setAdj_ivls (c : Chip) (z : Int) : (c.setAdj z).ivls = c.ivls := by unfold Chip.setAdj; dsimp only; split <;> rfl
@[simp] theorem Chip.setAdj_evos (c : Chip) (z : Int) : (c.setAdj z).evos = c.evos := by unfold Chip.setAdj; dsimp only; split <;> rfl
@[simp] theorem Chip.setAdj_dplls (c : Chip) (z : Int) : (c.setAdj z).dplls = c.dplls := by unfold Chip.setAdj; dsimp only; split <;> rfl
@[simp] theorem Chip.setAdj_ckos (c : Chip) (z : Int) : (c.setAdj z).ckos = c.ckos := by unfold Chip.setAdj; dsimp only; split <;> rfl
@[simp] theorem Chip.setAdj_car (c : Chip) (z : Int) : (c.setAdj z).car = c.car := by unfold Chip.setAdj; dsimp only; split <;> rfl
@[simp] theorem Chip.setAdj_drum (c : Chip) (z : Int) : (c.setAdj z).drum = c.drum := by unfold Chip.setAdj; dsimp only; split <;> rfl
@[simp] theorem Chip.setAdj_twin (c : Chip) (z : Int) : (c.setAdj z).twin = c.twin := by unfold Chip.setAdj; dsimp only; split <;> rfl
@[simp] theorem Chip.setAdj_fw (c : Chip) (z : Int) : (c.setAdj z).fw = c.fw := by unfold Chip.setAdj; dsimp only; split <;> rfl
@[simp] theorem Chip.setAdj_pwr (c : Chip) (z : Int) : (c.setAdj z).pwr = c.pwr := by unfold Chip.setAdj; dsimp only; split <;> rfl

/-! ### steady -/

@[simp] theorem Chip.steady_outs (c : Chip) : (c.steady).outs = c.outs := Chip.setAdj_outs c _
@[simp] theorem Chip.steady_free (c : Chip) : (c.steady).free = c.free := Chip.setAdj_free c _
@[simp] theorem Chip.steady_serial (c : Chip) : (c.steady).serial = c.serial := Chip.setAdj_serial c _
@[simp] theorem Chip.steady_orderCG (c : Chip) : (c.steady).orderCG = c.orderCG := Chip.setAdj_orderCG c _
@[simp] theorem Chip.steady_keys (c : Chip) : (c.steady).keys = c.keys := Chip.setAdj_keys c _
@[simp] theorem Chip.steady_cmdq (c : Chip) : (c.steady).cmdq = c.cmdq := Chip.setAdj_cmdq c _
@[simp] theorem Chip.steady_parked (c : Chip) : (c.steady).parked = c.parked := Chip.setAdj_parked c _
@[simp] theorem Chip.steady_txns (c : Chip) : (c.steady).txns = c.txns := Chip.setAdj_txns c _
@[simp] theorem Chip.steady_ended (c : Chip) : (c.steady).ended = c.ended := Chip.setAdj_ended c _
@[simp] theorem Chip.steady_txnCtr (c : Chip) : (c.steady).txnCtr = c.txnCtr := Chip.setAdj_txnCtr c _
@[simp] theorem Chip.steady_schedCtr (c : Chip) : (c.steady).schedCtr = c.schedCtr := Chip.setAdj_schedCtr c _
@[simp] theorem Chip.steady_jrn (c : Chip) : (c.steady).jrn = c.jrn := Chip.setAdj_jrn c _
@[simp] theorem Chip.steady_hif (c : Chip) : (c.steady).hif = c.hif := Chip.setAdj_hif c _
@[simp] theorem Chip.steady_coal (c : Chip) : (c.steady).coal = c.coal := Chip.setAdj_coal c _
@[simp] theorem Chip.steady_time (c : Chip) : (c.steady).time = c.time := Chip.setAdj_time c _
@[simp] theorem Chip.steady_cal (c : Chip) : (c.steady).cal = c.cal := Chip.setAdj_cal c _
@[simp] theorem Chip.steady_lull (c : Chip) : (c.steady).lull = c.lull := Chip.setAdj_lull c _
@[simp] theorem Chip.steady_diag (c : Chip) : (c.steady).diag = c.diag := Chip.setAdj_diag c _
@[simp] theorem Chip.steady_stateKey (c : Chip) : (c.steady).stateKey = c.stateKey := Chip.setAdj_stateKey c _
@[simp] theorem Chip.steady_arbs (c : Chip) : (c.steady).arbs = c.arbs := Chip.setAdj_arbs c _
@[simp] theorem Chip.steady_baroClear (c : Chip) : (c.steady).baroClear = c.baroClear := Chip.setAdj_baroClear c _
@[simp] theorem Chip.steady_baroLow (c : Chip) : (c.steady).baroLow = c.baroLow := Chip.setAdj_baroLow c _
@[simp] theorem Chip.steady_baroAt (c : Chip) : (c.steady).baroAt = c.baroAt := Chip.setAdj_baroAt c _
@[simp] theorem Chip.steady_path (c : Chip) : (c.steady).path = c.path := Chip.setAdj_path c _
@[simp] theorem Chip.steady_tbl (c : Chip) : (c.steady).tbl = c.tbl := Chip.setAdj_tbl c _
@[simp] theorem Chip.steady_mgtSpeed (c : Chip) : (c.steady).mgtSpeed = c.mgtSpeed := Chip.setAdj_mgtSpeed c _
@[simp] theorem Chip.steady_gateP (c : Chip) : (c.steady).gateP = c.gateP := Chip.setAdj_gateP c _
@[simp] theorem Chip.steady_fab (c : Chip) : (c.steady).fab = c.fab := Chip.setAdj_fab c _
@[simp] theorem Chip.steady_loops (c : Chip) : (c.steady).loops = c.loops := Chip.setAdj_loops c _
@[simp] theorem Chip.steady_opts (c : Chip) : (c.steady).opts = c.opts := Chip.setAdj_opts c _
@[simp] theorem Chip.steady_tdc (c : Chip) : (c.steady).tdc = c.tdc := Chip.setAdj_tdc c _
@[simp] theorem Chip.steady_phms (c : Chip) : (c.steady).phms = c.phms := Chip.setAdj_phms c _
@[simp] theorem Chip.steady_evis (c : Chip) : (c.steady).evis = c.evis := Chip.setAdj_evis c _
@[simp] theorem Chip.steady_ivls (c : Chip) : (c.steady).ivls = c.ivls := Chip.setAdj_ivls c _
@[simp] theorem Chip.steady_evos (c : Chip) : (c.steady).evos = c.evos := Chip.setAdj_evos c _
@[simp] theorem Chip.steady_dplls (c : Chip) : (c.steady).dplls = c.dplls := Chip.setAdj_dplls c _
@[simp] theorem Chip.steady_ckos (c : Chip) : (c.steady).ckos = c.ckos := Chip.setAdj_ckos c _
@[simp] theorem Chip.steady_car (c : Chip) : (c.steady).car = c.car := Chip.setAdj_car c _
@[simp] theorem Chip.steady_drum (c : Chip) : (c.steady).drum = c.drum := Chip.setAdj_drum c _
@[simp] theorem Chip.steady_twin (c : Chip) : (c.steady).twin = c.twin := Chip.setAdj_twin c _
@[simp] theorem Chip.steady_fw (c : Chip) : (c.steady).fw = c.fw := Chip.setAdj_fw c _
@[simp] theorem Chip.steady_pwr (c : Chip) : (c.steady).pwr = c.pwr := Chip.setAdj_pwr c _

@[simp] theorem Chip.emit_outs (c : Chip) (o : Out) : (c.emit o).outs = o :: c.outs := rfl

/-! ### The state -/

@[simp] theorem onChip_eq (f : Chip → Chip) (s : State) : onChip f s = .next { s with chip := (f s.chip).steady } := rfl

end Sys2Proof.Machine
end

