-- ==== Sys2Proof/Laws/Store.lean ====
section
/-! SUPPORT. Sparse maps: reading after writing, and the canonical form kept by every operation. -/

namespace Sys2Proof.Machine

theorem SMap.get_del_same {α : Type} [Inhabited α] (m : SMap α) (k : Nat) : SMap.get (SMap.del m k) k = default := by
  induction m with
  | nil => rfl
  | cons x m ih =>
    simp only [SMap.del]
    split
    · exact ih
    · simp only [SMap.get]
      split
      · contradiction
      · exact ih

theorem SMap.get_del_ne {α : Type} [Inhabited α] (m : SMap α) {k j : Nat} (h : j ≠ k) : SMap.get (SMap.del m k) j = SMap.get m j := by
  induction m with
  | nil => rfl
  | cons x m ih =>
    simp only [SMap.del, SMap.get]
    by_cases hk : k = x.1
    · subst hk
      simp [h, ih]
    · simp only [if_neg hk, SMap.get, ih]

theorem SMap.get_ins_same {α : Type} [Inhabited α] (m : SMap α) (k : Nat) (v : α) (h : ∀ w, (k, w) ∉ m) : SMap.get (SMap.ins m k v) k = v := by
  induction m with
  | nil => simp [SMap.ins, SMap.get]
  | cons x m ih =>
    simp only [SMap.ins]
    split
    · simp [SMap.get]
    · have hx : k ≠ x.1 := fun e => h x.2 (by simp [e])
      simp only [SMap.get, if_neg hx]
      exact ih fun w hw => h w (List.mem_cons_of_mem _ hw)

theorem SMap.get_ins_ne {α : Type} [Inhabited α] (m : SMap α) {k j : Nat} (v : α) (h : j ≠ k) : SMap.get (SMap.ins m k v) j = SMap.get m j := by
  induction m with
  | nil => simp [SMap.ins, SMap.get, h]
  | cons x m ih =>
    simp only [SMap.ins]
    split
    · simp [SMap.get, h]
    · simp only [SMap.get, ih]

theorem SMap.not_mem_del {α : Type} (m : SMap α) (k : Nat) (w : α) : (k, w) ∉ SMap.del m k := by
  induction m with
  | nil => simp [SMap.del]
  | cons x m ih =>
    simp only [SMap.del]
    split
    · exact ih
    · rename_i hk
      intro hm
      rcases List.mem_cons.mp hm with e | e
      · exact hk (congrArg Prod.fst e)
      · exact ih e

/-- A read after a write to the same key gives the value written. -/
@[simp] theorem SMap.get_set_same {α : Type} [Inhabited α] [DecidableEq α] (m : SMap α) (k : Nat) (v : α) : SMap.get (SMap.set m k v) k = v := by
  unfold SMap.set
  split
  · rename_i h
    rw [SMap.get_del_same, h]
  · exact SMap.get_ins_same _ _ _ (SMap.not_mem_del m k)

/-- A write leaves every other key alone. -/
theorem SMap.get_set_ne {α : Type} [Inhabited α] [DecidableEq α] (m : SMap α) {k j : Nat} (v : α) (h : j ≠ k) : SMap.get (SMap.set m k v) j = SMap.get m j := by
  unfold SMap.set
  split
  · exact SMap.get_del_ne m h
  · rw [SMap.get_ins_ne _ _ h, SMap.get_del_ne m h]

@[simp] theorem SMap.get_upd_same {α : Type} [Inhabited α] [DecidableEq α] (m : SMap α) (k : Nat) (f : α → α) : SMap.get (SMap.upd m k f) k = f (SMap.get m k) :=
  SMap.get_set_same _ _ _

theorem SMap.get_upd_ne {α : Type} [Inhabited α] [DecidableEq α] (m : SMap α) {k j : Nat} (f : α → α) (h : j ≠ k) : SMap.get (SMap.upd m k f) j = SMap.get m j :=
  SMap.get_set_ne _ _ h

/-! ### The canonical form -/

theorem SMap.wfFrom_mono {α : Type} [Inhabited α] [DecidableEq α] (m : SMap α) {lo lo' : Nat} (h : lo' ≤ lo) (w : SMap.wfFrom lo m = true) : SMap.wfFrom lo' m = true := by
  cases m with
  | nil => rfl
  | cons x m =>
    simp only [SMap.wfFrom, Bool.and_eq_true, decide_eq_true_eq] at w ⊢
    exact ⟨⟨by omega, w.1.2⟩, w.2⟩

theorem SMap.wfFrom_del {α : Type} [Inhabited α] [DecidableEq α] (m : SMap α) (k lo : Nat) (w : SMap.wfFrom lo m = true) : SMap.wfFrom lo (SMap.del m k) = true := by
  induction m generalizing lo with
  | nil => rfl
  | cons x m ih =>
    simp only [SMap.wfFrom, Bool.and_eq_true, decide_eq_true_eq] at w
    simp only [SMap.del]
    split
    · exact SMap.wfFrom_mono _ (by omega) (ih _ w.2)
    · simp only [SMap.wfFrom, Bool.and_eq_true, decide_eq_true_eq]
      exact ⟨w.1, ih _ w.2⟩

theorem SMap.wfFrom_ins {α : Type} [Inhabited α] [DecidableEq α] (m : SMap α) (k lo : Nat) (v : α) (hk : lo ≤ k) (hv : v ≠ default) (hn : ∀ w, (k, w) ∉ m)
    (w : SMap.wfFrom lo m = true) : SMap.wfFrom lo (SMap.ins m k v) = true := by
  induction m generalizing lo with
  | nil => simp [SMap.ins, SMap.wfFrom, hk, hv]
  | cons x m ih =>
    simp only [SMap.wfFrom, Bool.and_eq_true, decide_eq_true_eq] at w
    have hx : k ≠ x.1 := fun e => hn x.2 (by simp [e])
    simp only [SMap.ins]
    split
    · simp only [SMap.wfFrom, Bool.and_eq_true, decide_eq_true_eq]
      exact ⟨⟨hk, hv⟩, ⟨by omega, w.1.2⟩, w.2⟩
    · simp only [SMap.wfFrom, Bool.and_eq_true, decide_eq_true_eq]
      exact ⟨w.1, ih _ (by omega) (fun y hy => hn y (List.mem_cons_of_mem _ hy)) w.2⟩

/-- A write keeps the canonical form. -/
theorem SMap.wf_set {α : Type} [Inhabited α] [DecidableEq α] (m : SMap α) (k : Nat) (v : α) (w : SMap.wf m = true) : SMap.wf (SMap.set m k v) = true := by
  unfold SMap.set
  split
  · exact SMap.wfFrom_del m k 0 w
  · rename_i h
    exact SMap.wfFrom_ins _ k 0 v (Nat.zero_le _) h (SMap.not_mem_del m k) (SMap.wfFrom_del m k 0 w)

/-- So does an update. -/
theorem SMap.wf_upd {α : Type} [Inhabited α] [DecidableEq α] (m : SMap α) (k : Nat) (f : α → α) (w : SMap.wf m = true) : SMap.wf (SMap.upd m k f) = true :=
  SMap.wf_set m k _ w

/-- The empty map has it. -/
theorem SMap.wf_nil {α : Type} [Inhabited α] [DecidableEq α] : SMap.wf ([] : SMap α) = true := rfl

theorem SMap.del_del {α : Type} (m : SMap α) (k : Nat) : SMap.del (SMap.del m k) k = SMap.del m k := by
  induction m with
  | nil => rfl
  | cons x m ih =>
    simp only [SMap.del]
    split
    · exact ih
    · simp only [SMap.del]
      rw [if_neg (by assumption), ih]

theorem SMap.del_ins {α : Type} (m : SMap α) (k : Nat) (v : α) : SMap.del (SMap.ins m k v) k = SMap.del m k := by
  induction m with
  | nil => simp [SMap.ins, SMap.del]
  | cons x m ih =>
    simp only [SMap.ins]
    split
    · simp [SMap.del]
    · simp only [SMap.del, ih]

/-- Of two writes of one key the last stands. -/
theorem SMap.set_set {α : Type} [Inhabited α] [DecidableEq α] (m : SMap α) (k : Nat) (v w : α) : SMap.set (SMap.set m k v) k w = SMap.set m k w := by
  have h : SMap.del (SMap.set m k v) k = SMap.del m k := by
    unfold SMap.set
    split
    · exact SMap.del_del m k
    · rw [SMap.del_ins, SMap.del_del]
  unfold SMap.set at h ⊢
  rw [h]

end Sys2Proof.Machine
end

