-- ==== Sys2Proof/Laws/Fields.lean ====
section
/-! SUPPORT. Attribute fields: a read after a write, fields that do not touch each other, and what holds after every command. -/

namespace Sys2Proof.Machine

theorem Fld.key_ne_of_id {F G : Fld} (i e j f : Nat) (h : F.id ≠ G.id) : F.key i e ≠ G.key j f := by
  unfold Fld.key
  omega

theorem Fld.key_ne_of_obj {F G : Fld} {i j : Nat} (e f : Nat) (h : i % 2 ^ 20 ≠ j % 2 ^ 20) : F.key i e ≠ G.key j f := by
  unfold Fld.key
  omega

theorem Fld.key_ne_of_elem {F G : Fld} {e f : Nat} (i j : Nat) (h : e % 2 ^ 20 ≠ f % 2 ^ 20) : F.key i e ≠ G.key j f := by
  unfold Fld.key
  omega

/-- The number of a field is in its places. -/
theorem Fld.key_div (F : Fld) (i e : Nat) : F.key i e / 2 ^ 40 = F.id := by
  unfold Fld.key
  omega

/-- Two places are one when field, object and element agree. -/
theorem Fld.key_eq_iff (F G : Fld) (i e j f : Nat) :
    F.key i e = G.key j f ↔ F.id = G.id ∧ i % 2 ^ 20 = j % 2 ^ 20 ∧ e % 2 ^ 20 = f % 2 ^ 20 := by
  unfold Fld.key
  omega

theorem places_iff {l : List Nat} {k : Nat} : places l k ↔ k ∈ l := Iff.rfl

theorem fields_iff {l : List Nat} (F : Fld) (i e : Nat) : fields l (F.key i e) ↔ F.id ∈ l := by
  unfold fields
  rw [F.key_div]

/-- A field reads as a number of its width. -/
theorem Chip.rd_lt (c : Chip) (F : Fld) (i e : Nat) : c.rd F i e < 2 ^ F.width := Nat.mod_lt _ (Nat.two_pow_pos _)

/-- A read after a write to the same place gives the value, cut to the field's width. -/
@[simp] theorem Chip.rd_wr_same (c : Chip) (F : Fld) (v i e : Nat) : (c.wr F v i e).rd F i e = v % 2 ^ F.width := by
  simp only [Chip.rd, Chip.wr, regGet, regSet, SMap.get_set_same]
  rw [Nat.xor_assoc, Nat.xor_self, Nat.xor_zero, Nat.mod_mod]

theorem Chip.rd_wr_key (c : Chip) {F G : Fld} (v : Nat) {i e j f : Nat} (h : F.key i e ≠ G.key j f) :
    (c.wr G v j f).rd F i e = c.rd F i e := by
  simp only [Chip.rd, Chip.wr, regGet, regSet]
  rw [SMap.get_set_ne _ _ h]

/-- A write leaves every other field alone. -/
theorem Chip.rd_wr_id (c : Chip) {F G : Fld} (v i e j f : Nat) (h : F.id ≠ G.id) : (c.wr G v j f).rd F i e = c.rd F i e :=
  c.rd_wr_key v (Fld.key_ne_of_id i e j f h)

/-- A write leaves the field of every other object alone. -/
theorem Chip.rd_wr_obj (c : Chip) (F G : Fld) (v e f : Nat) {i j : Nat} (h : i % 2 ^ 20 ≠ j % 2 ^ 20) :
    (c.wr G v j f).rd F i e = c.rd F i e := c.rd_wr_key v (Fld.key_ne_of_obj e f h)

/-- A write leaves the field's other elements alone. -/
theorem Chip.rd_wr_elem (c : Chip) (F G : Fld) (v i j : Nat) {e f : Nat} (h : e % 2 ^ 20 ≠ f % 2 ^ 20) :
    (c.wr G v j f).rd F i e = c.rd F i e := c.rd_wr_key v (Fld.key_ne_of_elem i j h)

/-- Writing what a field holds leaves every read alone. -/
theorem Chip.rd_wr_self (c : Chip) (F G : Fld) (i e j f : Nat) : (c.wr G (c.rd G j f) j f).rd F i e = c.rd F i e ∨
    F.width ≠ G.width ∨ F.reset i e ≠ G.reset j f := by
  by_cases hk : F.key i e = G.key j f
  · by_cases hw : F.width = G.width
    · by_cases hr : F.reset i e = G.reset j f
      · left
        simp only [Chip.rd, Chip.wr, regGet, regSet, hk, hw, hr, SMap.get_set_same]
        rw [Nat.xor_assoc, Nat.xor_self, Nat.xor_zero, Nat.mod_mod, Nat.mod_mod]
      · exact .inr (.inr hr)
    · exact .inr (.inl hw)
  · exact .inl (c.rd_wr_key _ hk)

/-! ### What the device keeps at every instant -/

/-- A signed number in the range of w bits survives being written and read. -/
theorem signed_encS {w : Nat} {z : Int} (hw : 0 < w) (h1 : -((2 ^ (w - 1) : Nat) : Int) ≤ z) (h2 : z < ((2 ^ (w - 1) : Nat) : Int)) :
    signed w (encS w z % 2 ^ w) = z := by
  obtain ⟨k, rfl⟩ : ∃ k, w = k + 1 := ⟨w - 1, by omega⟩
  simp only [Nat.add_sub_cancel] at h1 h2
  have hp : 2 ^ (k + 1) = 2 * 2 ^ k := by rw [Nat.pow_succ, Nat.mul_comm]
  have hk : 0 < 2 ^ k := Nat.two_pow_pos k
  unfold signed encS
  simp only [Nat.add_sub_cancel, hp]
  generalize 2 ^ k = m at *
  have hlt : (z % ((2 * m : Nat) : Int)).toNat < 2 * m := by
    have := Int.emod_lt_of_pos z (b := ((2 * m : Nat) : Int)) (by omega)
    have := Int.emod_nonneg z (b := ((2 * m : Nat) : Int)) (by omega)
    omega
  rw [Nat.mod_eq_of_lt hlt]
  by_cases hz : 0 ≤ z
  · rw [Int.emod_eq_of_lt hz (by omega)]
    split <;> omega
  · have e : z % ((2 * m : Nat) : Int) = z + ((2 * m : Nat) : Int) := by
      rw [← Int.add_emod_right, Int.emod_eq_of_lt (by omega) (by omega)]
    rw [e]
    split <;> omega

/-- A field read as a signed number lies in the range of its width. -/
theorem signed_bounds {w v : Nat} (hw : 0 < w) (h : v < 2 ^ w) :
    -((2 ^ (w - 1) : Nat) : Int) ≤ signed w v ∧ signed w v < ((2 ^ (w - 1) : Nat) : Int) := by
  obtain ⟨k, rfl⟩ : ∃ k, w = k + 1 := ⟨w - 1, by omega⟩
  have hp : 2 ^ (k + 1) = 2 * 2 ^ k := by rw [Nat.pow_succ, Nat.mul_comm]
  unfold signed
  simp only [Nat.add_sub_cancel, hp] at *
  split <;> omega

/-- Reading a field as a signed number and encoding it again gives what the field holds. -/
theorem encS_signed {w v : Nat} (h : v < 2 ^ w) : encS w (signed w v) = v := by
  unfold encS signed
  split
  · rw [Int.emod_eq_of_lt (by omega) (by omega)]
    omega
  · rw [← Int.add_emod_right, Int.emod_eq_of_lt (by omega) (by omega)]
    omega

/-- The largest MAX_ADJ in the units of ADJ is far inside the range of ADJ. -/
theorem ppbUnits_lt {n : Nat} (h : n < 2 ^ 19) : ppbUnits n < 2 ^ 31 := by
  unfold ppbUnits divRound
  rw [Nat.div_lt_iff_lt_mul (by decide)]
  omega

/-! ### ADJ and MAX_ADJ (R162) -/

theorem Chip.rdS_wrS_ADJ (c : Chip) {z : Int} (h1 : -(2 ^ 31 : Int) ≤ z) (h2 : z < 2 ^ 31) : (c.wrS Reg.ADJ z).rdS Reg.ADJ = z := by
  unfold Chip.rdS Chip.wrS
  rw [Chip.rd_wr_same]
  exact signed_encS (w := 32) (by decide) h1 h2

/-- Writing the value ADJ already has leaves every attribute alone. -/
theorem Chip.flag_id (c : Chip) (F : Fld) {G : Fld} (b : Bool) (i e j f : Nat) (h : F.id ≠ G.id) :
    (c.flag G b j f).rd F i e = c.rd F i e := c.rd_wr_id _ i e j f h

theorem Chip.on_id (c : Chip) (F : Fld) {G : Fld} (b : Bool) (i e j f : Nat) (h : F.id ≠ G.id) :
    (c.flag G b j f).on F i e = c.on F i e := by
  unfold Chip.on
  rw [Chip.flag_id _ _ _ _ _ _ _ h]

theorem Chip.on_wr_id (c : Chip) {F G : Fld} (v i e j f : Nat) (h : F.id ≠ G.id) : (c.wr G v j f).on F i e = c.on F i e := by
  unfold Chip.on
  rw [Chip.rd_wr_id _ _ _ _ _ _ h]

theorem Chip.wrS_id (c : Chip) (F : Fld) {G : Fld} (z : Int) (i e j f : Nat) (h : F.id ≠ G.id) :
    (c.wrS G z j f).rd F i e = c.rd F i e := c.rd_wr_id _ i e j f h

/-- Once a one-bit field is written it reads as written. -/
theorem Chip.on_flag_same (c : Chip) {F : Fld} (b : Bool) (i e : Nat) (h : F.width = 1) : (c.flag F b i e).on F i e = b := by
  unfold Chip.on Chip.flag
  rw [Chip.rd_wr_same, h]
  cases b <;> rfl

/-- ADJ after a write: the value wanted, clipped to ±MAX_ADJ (R162). -/
theorem Chip.setAdj_rdS (c : Chip) (z : Int) : (c.setAdj z).rdS Reg.ADJ =
    max (-((ppbUnits (c.rd Reg.SERVO_CTRL_MAX_ADJ) : Nat) : Int)) (min ((ppbUnits (c.rd Reg.SERVO_CTRL_MAX_ADJ) : Nat) : Int) z) := by
  have hb := ppbUnits_lt (c.rd_lt Reg.SERVO_CTRL_MAX_ADJ 0 0)
  generalize hu : ppbUnits (c.rd Reg.SERVO_CTRL_MAX_ADJ) = u at *
  unfold Chip.setAdj
  simp only [hu]
  have e := c.rdS_wrS_ADJ (z := max (-(u : Int)) (min u z)) (by omega) (by omega)
  unfold Chip.rdS at *
  split
  · exact e
  · rw [Chip.flag_id _ _ _ _ _ _ _ (by decide)]
    exact e

/-- A write of ADJ touches ADJ and ADJ_CLIP alone. -/
theorem Chip.setAdj_rd (c : Chip) (z : Int) (F : Fld) (i e : Nat) (h1 : F.id ≠ Reg.ADJ.id) (h2 : F.id ≠ Reg.TIME_STATUS_ADJ_CLIP.id) :
    (c.setAdj z).rd F i e = c.rd F i e := by
  unfold Chip.setAdj
  simp only
  split
  · exact c.wrS_id _ _ _ _ _ _ h1
  · rw [Chip.flag_id _ _ _ _ _ _ _ h2]
    exact c.wrS_id _ _ _ _ _ _ h1

/-- ADJ after a write lies within ±MAX_ADJ, and MAX_ADJ is as it was. -/
theorem Chip.setAdj_clip (c : Chip) (z : Int) :
    ((c.setAdj z).rdS Reg.ADJ).natAbs ≤ ppbUnits ((c.setAdj z).rd Reg.SERVO_CTRL_MAX_ADJ) := by
  rw [Chip.setAdj_rdS, Chip.setAdj_rd _ _ _ _ _ (by decide) (by decide)]
  omega

/-- A value of ADJ inside the limits is written as it is, with nothing else touched. -/
theorem Chip.setAdj_of_le (c : Chip) {z : Int} (h : z.natAbs ≤ ppbUnits (c.rd Reg.SERVO_CTRL_MAX_ADJ)) :
    c.setAdj z = c.wrS Reg.ADJ z := by
  unfold Chip.setAdj
  simp only
  have e : max (-((ppbUnits (c.rd Reg.SERVO_CTRL_MAX_ADJ) : Nat) : Int)) (min ((ppbUnits (c.rd Reg.SERVO_CTRL_MAX_ADJ) : Nat) : Int) z) = z := by
    omega
  rw [e, if_pos rfl]

/-! ### What the device keeps at every instant -/

/-- The rule that runs after every command leaves every other attribute field alone. -/
theorem Chip.steady_rd (c : Chip) (F : Fld) (i e : Nat) (h : F.id ∉ steadyIds) : c.steady.rd F i e = c.rd F i e := by
  simp only [steadyIds, List.mem_cons, List.not_mem_nil, or_false, not_or] at h
  unfold Chip.steady
  simp only
  rw [Chip.flag_id _ _ _ _ _ _ _ h.2.2]
  unfold Chip.setAdj
  simp only
  split
  · exact c.wrS_id _ _ _ _ _ _ h.1
  · rw [Chip.flag_id _ _ _ _ _ _ _ h.2.1]
    exact c.wrS_id _ _ _ _ _ _ h.1

theorem Chip.steady_on (c : Chip) (F : Fld) (i e : Nat) (h : F.id ∉ steadyIds) : c.steady.on F i e = c.on F i e := by
  unfold Chip.on
  rw [c.steady_rd F i e h]

/-- A field's attribute store is the only part of the block that `steady` may change. -/
theorem Chip.steady_rest (c : Chip) : c.steady = { c with regs := c.steady.regs } := by
  unfold Chip.steady Chip.setAdj Chip.flag Chip.wrS Chip.wr
  simp only
  split <;> rfl

/-- Every command leaves the limits kept. -/
theorem Chip.steady_limits (c : Chip) : c.steady.Limits := by
  have hid : Reg.ADJ.id ≠ Reg.JRN_STATUS_COMMIT_HOLD.id := by decide
  have hid' : Reg.SERVO_CTRL_MAX_ADJ.id ≠ Reg.JRN_STATUS_COMMIT_HOLD.id := by decide
  have hid2 : Reg.JRN_STATUS_UNSPILLED.id ≠ Reg.JRN_STATUS_COMMIT_HOLD.id := by decide
  refine ⟨?_, ?_⟩
  · have h := c.setAdj_clip (c.rdS Reg.ADJ)
    unfold Chip.steady
    simp only
    unfold Chip.rdS at *
    rw [Chip.flag_id _ _ _ _ _ _ _ hid, Chip.flag_id _ _ _ _ _ _ _ hid']
    exact h
  · unfold Chip.steady
    simp only
    rw [Chip.on_flag_same _ _ _ _ rfl, Chip.flag_id _ _ _ _ _ _ _ hid2]
    rfl

/-- Where ADJ lies in its limits it is written as it is, and ADJ_CLIP is not written. -/
theorem Chip.steady_adj (c : Chip) (h : (c.rdS Reg.ADJ).natAbs ≤ ppbUnits (c.rd Reg.SERVO_CTRL_MAX_ADJ)) :
    c.steady.rd Reg.ADJ = c.rd Reg.ADJ ∧ c.steady.rd Reg.TIME_STATUS_ADJ_CLIP = c.rd Reg.TIME_STATUS_ADJ_CLIP := by
  have e : c.setAdj (c.rdS Reg.ADJ) = c.wr Reg.ADJ (c.rd Reg.ADJ) := by
    rw [c.setAdj_of_le h]
    unfold Chip.wrS Chip.rdS
    rw [encS_signed (c.rd_lt Reg.ADJ 0 0)]
  unfold Chip.steady
  simp only [e]
  refine ⟨?_, ?_⟩
  · rw [Chip.flag_id _ _ _ _ _ _ _ (by decide), Chip.rd_wr_same]
    exact Nat.mod_eq_of_lt (c.rd_lt _ _ _)
  · rw [Chip.flag_id _ _ _ _ _ _ _ (by decide)]
    exact c.rd_wr_id _ _ _ _ _ (by decide)

/-- Where the limits hold already, nothing that can be read changes: not a field, not the rest of the block. -/
theorem Chip.steady_fields (c : Chip) (h : c.Limits) :
    c.steady.rd Reg.ADJ = c.rd Reg.ADJ ∧ c.steady.rd Reg.TIME_STATUS_ADJ_CLIP = c.rd Reg.TIME_STATUS_ADJ_CLIP ∧
      c.steady.rd Reg.JRN_STATUS_COMMIT_HOLD = c.rd Reg.JRN_STATUS_COMMIT_HOLD := by
  obtain ⟨h1, h2⟩ := c.steady_adj h.1
  refine ⟨h1, h2, ?_⟩
  have g := c.steady_limits.2
  have hu : c.steady.rd Reg.JRN_STATUS_UNSPILLED = c.rd Reg.JRN_STATUS_UNSPILLED := c.steady_rd _ _ _ (by decide)
  rw [hu, ← h.2] at g
  have l1 : c.steady.rd Reg.JRN_STATUS_COMMIT_HOLD < 2 := c.steady.rd_lt _ _ _
  have l2 : c.rd Reg.JRN_STATUS_COMMIT_HOLD < 2 := c.rd_lt _ _ _
  unfold Chip.on at g
  generalize c.steady.rd Reg.JRN_STATUS_COMMIT_HOLD = a at *
  generalize c.rd Reg.JRN_STATUS_COMMIT_HOLD = b at *
  obtain rfl | rfl : a = 0 ∨ a = 1 := by omega
  all_goals obtain rfl | rfl : b = 0 ∨ b = 1 := by omega
  all_goals first | rfl | exact absurd g (by decide)

/-- A command that wrote only its own places, followed by the rule that runs after every command, wrote only those. -/
theorem Chip.wrote.steady {own : Nat → Prop} {c d : Chip} (h : c.wrote own d) (hm : ¬ own (Reg.SERVO_CTRL_MAX_ADJ.key 0 0))
    (hu : ¬ own (Reg.JRN_STATUS_UNSPILLED.key 0 0)) (hc : c.Limits) : c.wrote own d.steady := by
  obtain ⟨h1, h2, h3, h4, h5⟩ := h
  have e1 : d.rd Reg.SERVO_CTRL_MAX_ADJ = c.rd Reg.SERVO_CTRL_MAX_ADJ := h2 Reg.SERVO_CTRL_MAX_ADJ 0 0 hm (by decide)
  have e2 : d.rd Reg.JRN_STATUS_UNSPILLED = c.rd Reg.JRN_STATUS_UNSPILLED := h2 Reg.JRN_STATUS_UNSPILLED 0 0 hu (by decide)
  have hd : d.Limits := by
    obtain ⟨l1, l2⟩ := hc
    unfold Chip.Limits Chip.rdS Chip.on at *
    rw [e1, e2, h3, h5]
    exact ⟨l1, l2⟩
  obtain ⟨s1, s2, s3⟩ := d.steady_fields hd
  refine ⟨?_, fun F i e p q => (d.steady_rd F i e q).trans (h2 F i e p q), s1.trans h3, s2.trans h4, s3.trans h5⟩
  have := d.steady_rest
  rw [this, h1]

theorem Chip.wrote.refl (own : Nat → Prop) (c : Chip) : c.wrote own c := ⟨rfl, fun _ _ _ _ _ => rfl, rfl, rfl, rfl⟩

theorem Chip.wrote.trans {own : Nat → Prop} {a b c : Chip} (h : a.wrote own b) (g : b.wrote own c) : a.wrote own c := by
  obtain ⟨h1, h2, h3, h4, h5⟩ := h
  obtain ⟨g1, g2, g3, g4, g5⟩ := g
  refine ⟨?_, fun F i e p q => (g2 F i e p q).trans (h2 F i e p q), g3.trans h3, g4.trans h4, g5.trans h5⟩
  rw [g1, h1]

/-- A write of one of the command's own places. -/
theorem Chip.wrote.wr {own : Nat → Prop} (c : Chip) (G : Fld) (v j f : Nat) (hk : own (G.key j f)) (hs : G.id ∉ steadyIds) :
    c.wrote own (c.wr G v j f) := by
  refine ⟨rfl, fun F i e p _ => c.rd_wr_key v fun q => p (by rw [q]; exact hk), ?_, ?_, ?_⟩ <;>
  · refine c.rd_wr_id v _ _ _ _ fun q => hs ?_
    rw [← q]
    decide

theorem Chip.wrote.flag {own : Nat → Prop} (c : Chip) (G : Fld) (b : Bool) (j f : Nat) (hk : own (G.key j f)) (hs : G.id ∉ steadyIds) :
    c.wrote own (c.flag G b j f) := .wr _ _ _ _ _ hk hs

end Sys2Proof.Machine
end

