-- ==== Sys2Proof/Laws/Send.lean ====
section
/-! SUPPORT. What counting, sending, notifying and journalling may touch: `Chip.reported`, kept by each of them. -/

namespace Sys2Proof.Machine

theorem Chip.reported.refl (own : Nat → Prop) (c : Chip) : c.reported own c :=
  ⟨rfl, fun _ _ _ _ _ _ => rfl, fun _ => rfl, fun _ => rfl, fun _ h => h⟩

theorem Chip.reported.trans {own : Nat → Prop} {a b c : Chip} (h : a.reported own b) (g : b.reported own c) : a.reported own c := by
  obtain ⟨h1, h2, h3, h4, h5⟩ := h
  obtain ⟨g1, g2, g3, g4, g5⟩ := g
  refine ⟨?_, fun F i e p q r => (g2 F i e p q r).trans (h2 F i e p q r), fun p => (g3 p).trans (h3 p), fun p => (g4 p).trans (h4 p),
    fun o p => g5 o (h5 o p)⟩
  rw [g1, h1]

theorem Chip.reported.mono {own own' : Nat → Prop} {a b : Chip} (h : a.reported own b) (hs : ∀ k, own k → own' k) : a.reported own' b := by
  obtain ⟨h1, h2, h3, h4, h5⟩ := h
  exact ⟨h1, fun F i e p => h2 F i e fun q => p (hs _ q), fun p => h3 fun q => p (hs _ q), fun p => h4 fun q => p (hs _ q), h5⟩

/-- A change of the parts that reports touch, with the attributes left alone. -/
theorem Chip.reported.of_parts {own : Nat → Prop} {c d : Chip}
    (h : d = { c with
      outs := d.outs
      coal := { c.coal with sigs := d.coal.sigs, winNo := d.coal.winNo, merged := d.coal.merged, seqs := d.coal.seqs }
      path := { c.path with
        frames := d.path.frames, banks := d.path.banks, rot := d.path.rot, queues := d.path.queues, frameCtr := d.path.frameCtr
        ordCtr := d.path.ordCtr, ports := d.path.ports, te := d.path.te, cal := d.path.cal }
      hif := { c.hif with err := d.hif.err, rsp := d.hif.rsp, rspRoom := d.hif.rspRoom, rspWait := d.hif.rspWait, f2h := d.hif.f2h, db := d.hif.db }
      jrn := { c.jrn with ring := d.jrn.ring, digest := d.jrn.digest }
      twin := { c.twin with seq := d.twin.seq, ckSeq := d.twin.ckSeq, outq := d.twin.outq } })
    (ho : ∀ o ∈ c.outs, o ∈ d.outs) : c.reported own d := by
  have hr : d.regs = c.regs := by rw [h]
  have hrd : ∀ F i e, d.rd F i e = c.rd F i e := fun F i e => by simp only [Chip.rd, hr]
  refine ⟨?_, fun F i e _ _ _ => hrd F i e, fun _ => hrd _ _ _, fun _ => hrd _ _ _, ho⟩
  rw [h]

/-- A write of one of the command's own places, or of a field that reports move. -/
theorem Chip.reported.wr {own : Nat → Prop} (c : Chip) (G : Fld) (v j f : Nat) (hg : own (G.key j f) ∨ G.id ∈ reportIds) :
    c.reported own (c.wr G v j f) := by
  have ha : ∀ (F : Fld) i e, ¬ own (F.key i e) → F.id ∉ reportIds → F.key i e ≠ G.key j f := fun F i e p q h => by
    have hid : F.id = G.id := by rw [← F.key_div i e, h, G.key_div]
    rw [h] at p
    rw [hid] at q
    exact hg.elim p q
  exact ⟨rfl, fun F i e p q _ => c.rd_wr_key v (ha F i e p q), fun p => c.rd_wr_key v (ha _ _ _ p (by decide)),
    fun p => c.rd_wr_key v (ha _ _ _ p (by decide)), fun o h => h⟩

theorem Chip.reported.flag {own : Nat → Prop} (c : Chip) (G : Fld) (b : Bool) (j f : Nat) (hg : own (G.key j f) ∨ G.id ∈ reportIds) :
    c.reported own (c.flag G b j f) := .wr _ _ _ _ _ hg

/-- A field that is neither the command's own nor one that reports move reads as before. -/
theorem Chip.reported.rd {own : Nat → Prop} {c d : Chip} (h : c.reported own d) (F : Fld) (i e : Nat) (h1 : ¬ own (F.key i e))
    (h2 : F.id ∉ reportIds) (h3 : F.id ∉ steadyIds) : d.rd F i e = c.rd F i e := h.2.1 F i e h1 h2 h3

theorem Chip.reported.on {own : Nat → Prop} {c d : Chip} (h : c.reported own d) (F : Fld) (i e : Nat) (h1 : ¬ own (F.key i e))
    (h2 : F.id ∉ reportIds) (h3 : F.id ∉ steadyIds) : d.on F i e = c.on F i e := by
  unfold Chip.on
  rw [h.rd F i e h1 h2 h3]

theorem Chip.reported.each {own : Nat → Prop} {α : Type} (l : List α) (f : α → Chip → Chip) (hf : ∀ (a : α) (c : Chip), c.reported own (f a c)) (c : Chip) :
    c.reported own (c.each l f) := by
  unfold Chip.each
  induction l generalizing c with
  | nil => exact .refl _ c
  | cons a l ih => exact (hf a c).trans (ih _)

/-- A choice keeps what both sides keep. -/
theorem Chip.reported.ite {own : Nat → Prop} {p : Prop} [Decidable p] {c a b : Chip} (ha : c.reported own a) (hb : c.reported own b) :
    c.reported own (if p then a else b) := by
  split
  · exact ha
  · exact hb

variable {own : Nat → Prop}

theorem Chip.emit_reported (c : Chip) (o : Out) : c.reported own (c.emit o) := .of_parts rfl fun _ h => List.mem_cons_of_mem _ h

/-! ### Counting (R435, R436) -/

theorem Chip.countUp_reported (c : Chip) (g e n : Nat) : c.reported own (c.countUp g e n) := by
  unfold Chip.countUp
  have h : c.reported own (c.wr Reg.CNT_VALUE_VALUE (c.rd Reg.CNT_VALUE_VALUE g e + n) g e) := .wr _ _ _ _ _ (.inr (by decide))
  exact .ite h (h.trans (.wr _ _ _ _ _ (.inr (by decide))))

theorem Chip.count_reported (c : Chip) (ev unit bytes : Nat) : c.reported own (c.count ev unit bytes) := by
  unfold Chip.count
  refine .ite (.refl _ c) ?_
  split
  · exact .refl _ c
  · refine .each _ _ (fun e c => ?_) c
    unfold Chip.countOne
    exact .ite (c.countUp_reported ..) (.refl _ c)

/-! ### Frames of the device's own -/

theorem Chip.updFrame_reported (c : Chip) (id : Nat) (f : Frame → Frame) : c.reported own (c.updFrame id f) := .of_parts rfl fun _ h => h

theorem Chip.updTgt_reported (c : Chip) (id k : Nat) (g : Tgt → Tgt) : c.reported own (c.updTgt id k g) := c.updFrame_reported ..

theorem Chip.updPort_reported (c : Chip) (p : Nat) (f : PortSt → PortSt) : c.reported own (c.updPort p f) := .of_parts rfl fun _ h => h

theorem Chip.bankPop_reported {c d : Chip} {b x : Nat} (h : c.bankPop b = some (x, d)) : c.reported own d := by
  unfold Chip.bankPop at h
  simp only at h
  split at h
  · cases h
    exact .of_parts rfl fun _ h => h
  · split at h
    · cases h
      exact .of_parts rfl fun _ h => h
    · cases h

theorem Chip.takeCell_reported {c d : Chip} {w x : Nat} (h : c.takeCell w = some (x, d)) : c.reported own d := by
  unfold Chip.takeCell at h
  obtain ⟨n, _, hn⟩ := List.exists_of_findSome?_eq_some h
  simp only at hn
  split at hn
  · cases hn
  · obtain ⟨y, hy, he⟩ := Option.map_eq_some_iff.mp hn
    cases he
    exact (Chip.bankPop_reported hy).trans (.of_parts rfl fun _ h => h)

theorem Chip.chargeOne_reported {c d : Chip} {id w : Nat} {o : List Src} (h : c.chargeOne id w o = some d) : c.reported own d := by
  unfold Chip.chargeOne at h
  split at h
  · cases h
  · obtain ⟨y, hy, he⟩ := Option.map_eq_some_iff.mp h
    cases he
    exact (Chip.takeCell_reported hy).trans (Chip.updFrame_reported ..)

theorem Chip.chargeTo_reported (n id w : Nat) (o : List Src) (c : Chip) : c.reported own (Chip.chargeTo n id w o c) := by
  induction n generalizing c with
  | zero => exact .refl _ c
  | succ n ih =>
    unfold Chip.chargeTo
    split
    · rename_i h
      exact (Chip.chargeOne_reported h).trans (ih _)
    · exact c.updFrame_reported ..

theorem Chip.takeArrived_reported (c : Chip) : c.reported own c.takeArrived := by
  unfold Chip.takeArrived
  refine .each _ _ (fun f c => ?_) c
  unfold Chip.takeCells
  split
  · exact .refl _ c
  · exact .ite (.refl _ c) (Chip.chargeTo_reported ..)

theorem Chip.marks_reported (c : Chip) (qs : List Nat) : c.reported own (c.marks qs) := by
  unfold Chip.marks
  refine Chip.reported.trans (b := c.peak Reg.POOL_WMARK c.poolUsed) (.wr _ _ _ _ _ (.inr (by decide))) (.each _ _ (fun q c => ?_) _)
  exact .ite (.wr _ _ _ _ _ (.inr (by decide))) (.refl _ c)

theorem Chip.lpShow_reported (c : Chip) (p : Nat) : c.reported own (c.lpShow p) := by
  unfold Chip.lpShow
  exact .ite (.wr _ _ _ _ _ (.inr (by decide))) (.refl _ c)

theorem Chip.wakePort_reported (c : Chip) (p : Nat) : c.reported own (c.wakePort p) := by
  unfold Chip.wakePort
  simp only
  split
  · exact ((Chip.updPort_reported ..).trans (Chip.lpShow_reported _ p)).trans (Chip.emit_reported ..)
  · exact ((Chip.updPort_reported ..).trans (Chip.lpShow_reported _ p)).trans (Chip.emit_reported ..)
  · exact (Chip.updPort_reported ..).trans (Chip.emit_reported ..)
  · exact Chip.updPort_reported ..

theorem Chip.enqueue_reported (c : Chip) (id k : Nat) : c.reported own (c.enqueue id k) := by
  unfold Chip.enqueue
  split
  · exact .refl _ c
  · rename_i t _
    have h : c.reported own (if (c.queue t.queue).isEmpty ∧ t.queue < 4104 ∧ t.launch = none then
        Chip.calEnter { c with path := { c.path with te := SMap.upd c.path.te t.queue fun x => max x c.vTime } } t.queue else c) :=
      .ite (.of_parts rfl fun _ h => h) (.refl _ c)
    simp only
    generalize (if (c.queue t.queue).isEmpty ∧ t.queue < 4104 ∧ t.launch = none then
        Chip.calEnter { c with path := { c.path with te := SMap.upd c.path.te t.queue fun x => max x c.vTime } } t.queue else c) = c1 at h ⊢
    have g := (h.trans (Chip.reported.of_parts (own := own) (c := c1)
      (d := { c1 with path := { c1.path with ordCtr := c1.path.ordCtr + 1, queues := SMap.set c1.path.queues t.queue (c1.queue t.queue ++ [(id, k)]) } })
      rfl fun _ h => h)).trans (Chip.updTgt_reported _ id k fun t => { t with st := .queued, ord := c1.path.ordCtr, headAt := c.now })
    exact .ite (g.trans (Chip.wakePort_reported ..)) g

theorem Chip.sendOwn_reported {c d : Chip} {o : Origin} {src : Src} {w port cls : Nat} {b : Bytes} {l t : Option Nat}
    (h : c.sendOwn o src w port cls b l t = some d) : c.reported own d := by
  unfold Chip.sendOwn at h
  simp only at h
  split at h
  · cases h
  · cases h
    refine Chip.reported.trans ?_ (Chip.marks_reported ..)
    refine Chip.reported.trans ?_ (Chip.count_reported ..)
    refine Chip.reported.trans ?_ (Chip.enqueue_reported ..)
    exact c.takeArrived_reported.trans (Chip.reported.trans (.of_parts rfl fun _ h => h) (Chip.chargeTo_reported ..))

theorem Chip.sendOwn_getD (c : Chip) (o : Origin) (src : Src) (w port cls : Nat) (b : Bytes) (l t : Option Nat) :
    c.reported own ((c.sendOwn o src w port cls b l t).getD c) := by
  cases h : c.sendOwn o src w port cls b l t with
  | none => exact .refl _ c
  | some d => exact Chip.sendOwn_reported h

theorem Chip.ownFrame_reported (c : Chip) (port cls : Nat) (b : Bytes) : c.reported own (c.ownFrame port cls b) := by
  unfold Chip.ownFrame
  exact .ite (.ite (c.count_reported ..) (c.sendOwn_getD ..)) (.ite (.refl _ c) (c.sendOwn_getD ..))

theorem Chip.ownData_reported (c : Chip) (p cls : Nat) (dev : Option Nat) (b : Bytes) : c.reported own (c.ownData p cls dev b) := by
  unfold Chip.ownData
  exact .ite (c.ownFrame_reported ..) (.ite (c.ownFrame_reported ..) (.refl _ c))

theorem Chip.hifErr_reported (c : Chip) (b : Nat) : c.reported own (c.hifErr b) :=
  Chip.reported.trans (.of_parts rfl fun _ h => h) (Chip.emit_reported ..)

/-! ### Replies (R352) -/

theorem Chip.toRing_reported (c : Chip) (b : Bytes) : c.reported own (c.toRing b) := by
  unfold Chip.toRing
  refine .ite (.refl _ c) ?_
  split
  · refine Chip.reported.trans (.of_parts rfl fun _ h => h) (.ite (Chip.hifErr_reported ..) ?_)
    exact Chip.reported.trans (Chip.emit_reported ..) (Chip.emit_reported ..)
  · exact .of_parts rfl fun _ h => h

theorem Chip.sendPacket_reported (c cfg : Chip) (v : Via) (b : Bytes) : c.reported own (c.sendPacket v b cfg) := by
  unfold Chip.sendPacket
  simp only
  split
  · exact c.ownData_reported ..
  · exact c.ownData_reported ..
  · exact c.ownData_reported ..
  · exact c.toRing_reported b
  · exact c.ownFrame_reported ..
  · exact .refl _ c

theorem Chip.postF2h_reported (c : Chip) (n m : Nat) : c.reported own (c.postF2h n m) := by
  unfold Chip.postF2h
  refine .ite (.wr _ _ _ _ _ (.inr (by decide))) ?_
  refine Chip.reported.trans ?_ (Chip.emit_reported ..)
  exact Chip.reported.trans (.of_parts rfl fun _ h => h) (.wr _ _ _ _ _ (.inr (by decide)))

/-- A reply moves nothing but what reports move, and it is on record. -/
theorem Chip.replyWith_reported (c : Chip) (key : Option Nat) (r : Req) (op : Nat) (st : Status) (txn : Nat) (l : List Tlv) (role : Nat) (cfg : Option Chip) :
    c.reported own (c.replyWith key r op st txn l role cfg) ∧ Out.reply r op st txn c.tb16 l ∈ (c.replyWith key r op st txn l role cfg).outs := by
  have h : ∀ d : Chip, (c.emit (.reply r op st txn c.tb16 l)).reported own d →
      c.reported own d ∧ Out.reply r op st txn c.tb16 l ∈ d.outs := fun d hd =>
    ⟨(c.emit_reported _).trans hd, hd.2.2.2.2 _ (List.mem_cons_self ..)⟩
  unfold Chip.replyWith
  split
  · exact h _ (Chip.postF2h_reported ..)
  · exact h _ (.wr _ _ _ _ _ (.inr (by decide)))
  · have send : ∀ (d : Chip) (s : Status) (t : List Tlv) (v : Via), d.reported own
        (d.each (c.replyPackets key r op s txn c.tb16 t role) fun p c => c.sendPacket v p (cfg.getD c)) :=
      fun d s t v => .each _ _ (fun p c => c.sendPacket_reported ..) _
    exact h _ (.ite (.refl _ _) (.ite (send ..) (.ite ((Chip.emit_reported ..).trans (send ..)) (Chip.count_reported ..))))

theorem Chip.reply_reported (c : Chip) (r : Req) (op : Nat) (st : Status) (l : List Tlv) (role : Nat := r.role.code) (cfg : Option Chip := none) :
    c.reported own (c.reply r op st l role cfg) ∧ Out.reply r op st r.txn c.tb16 l ∈ (c.reply r op st l role cfg).outs := c.replyWith_reported ..

/-! ### The journal (R389 to R393) -/

theorem Chip.twinTry_reported {c d : Chip} {f op txn : Nat} {l : List Tlv} (h : c.twinTry f op txn l = some d) : c.reported own d := by
  unfold Chip.twinTry at h
  split at h
  · cases h
  · simp only at h
    split at h
    · exact Chip.reported.trans (b := { c with twin := { c.twin with seq := c.twin.seq + 1 } }) (.of_parts rfl fun _ h => h)
        (Chip.sendOwn_reported h)
    · cases h

theorem Chip.twinSend_reported (c : Chip) (f op txn : Nat) (l : List Tlv) : c.reported own (c.twinSend f op txn l) := by
  unfold Chip.twinSend
  cases h : c.twinTry f op txn l with
  | none => exact .refl _ c
  | some d => exact Chip.twinTry_reported h

theorem Chip.ckDrainFrom_reported (l : List (Nat × Nat × Bytes)) (c : Chip) : c.reported own (c.ckDrainFrom l) := by
  induction l generalizing c with
  | nil => exact .of_parts rfl fun _ h => h
  | cons x l ih =>
    obtain ⟨cls, n, b⟩ := x
    unfold Chip.ckDrainFrom
    split
    · rename_i h
      exact (Chip.twinTry_reported h).trans (ih _)
    · exact .of_parts rfl fun _ h => h

theorem Chip.ckSend_reported (c : Chip) (cls : Nat) (l : List CkRec) : c.reported own (c.ckSend cls l) := by
  unfold Chip.ckSend Chip.ckDrain
  refine Chip.reported.trans ?_ (Chip.ckDrainFrom_reported ..)
  refine Chip.reported.each _ _ (fun g c => ?_) c
  exact .of_parts rfl fun _ h => h

theorem Chip.jrnAppend_reported (c : Chip) (j : JRec) (b : Bytes) : c.reported own (c.jrnAppend j b) := by
  unfold Chip.jrnAppend
  have h : c.reported own { c with jrn := { c.jrn with
      ring := ({ ({ j with seq := c.rd Reg.JRN_STATUS_NEXT_SEQ } : JRec) with
        digest := jrnDigest c.jrn.digest { j with seq := c.rd Reg.JRN_STATUS_NEXT_SEQ } b } :: c.jrn.ring).take jrnRing,
      digest := jrnDigest c.jrn.digest { j with seq := c.rd Reg.JRN_STATUS_NEXT_SEQ } b } } := .of_parts rfl fun _ h => h
  have w : ∀ (c : Chip) (G : Fld) (v : Nat), G.id ∈ reportIds → c.reported own (c.wr G v) := fun c G v hg => .wr _ _ _ _ _ (.inr hg)
  refine .ite (Chip.reported.trans ?_ (Chip.ckSend_reported ..)) ?_ <;>
  · refine .ite (Chip.reported.trans ?_ (w _ _ _ (by decide))) ?_ <;>
    · refine Chip.reported.trans ?_ (w _ _ _ (by decide))
      refine Chip.reported.trans ?_ (w _ _ _ (by decide))
      refine Chip.reported.trans ?_ (w _ _ _ (by decide))
      exact h.trans (w _ _ _ (by decide))

/-! ### Notifications (R248, R329, R365, R373) -/

theorem Chip.notifyElem_reported (c : Chip) (e ev cls fo n k ns w : Nat) (q : Option (Nat × Nat)) :
    c.reported own (c.notifyElem e ev cls fo n k ns w q) := by
  unfold Chip.notifyElem
  refine .ite (.refl _ c) ?_
  refine .ite (Chip.reported.trans (.of_parts rfl fun _ h => h) (Chip.count_reported ..)) ?_
  have h : c.reported own (({ c with coal := { c.coal with seqs := SMap.set c.coal.seqs e ((SMap.get c.coal.seqs e + 1) % 2 ^ 32) } } : Chip).emit
      (.notify e ((SMap.get c.coal.seqs e + 1) % 2 ^ 32) ev cls fo n k ns w q)) :=
    Chip.reported.trans (.of_parts rfl fun _ h => h) (Chip.emit_reported ..)
  exact .ite (h.trans (Chip.toRing_reported ..)) (.ite (h.trans (Chip.ownData_reported ..))
    (.ite (h.trans (Chip.ownData_reported ..)) (h.trans (Chip.ownData_reported ..))))

theorem Chip.notifyDoorbells_reported (c : Chip) (ev cls : Nat) : c.reported own (c.notifyDoorbells ev cls) := by
  unfold Chip.notifyDoorbells
  refine .each _ _ (fun e c => .ite ?_ (.refl _ c)) c
  exact .ite (.of_parts rfl fun _ h => h) (Chip.reported.trans (.of_parts rfl fun _ h => h) (Chip.emit_reported ..))

theorem Chip.sendNotify_reported (c : Chip) (ev cls fo n k ns w : Nat) (q : Option (Nat × Nat)) :
    c.reported own (c.sendNotify ev cls fo n k ns w q) := by
  unfold Chip.sendNotify
  refine Chip.reported.trans ?_ (Chip.notifyDoorbells_reported ..)
  exact .each _ _ (fun _ c => c.notifyElem_reported ..) c

theorem Chip.occur_reported (c : Chip) (ev cls o : Nat) (q : Option (Nat × Nat)) : c.reported own (c.occur ev cls o q) := by
  unfold Chip.occur Chip.takeWindow
  split
  · exact .of_parts rfl fun _ h => h
  · refine Chip.reported.trans ?_ (Chip.sendNotify_reported ..)
    exact .of_parts rfl fun _ h => h

theorem Chip.coalesce_reported (c : Chip) (ev cls o : Nat) (q : Option (Nat × Nat)) : c.reported own (c.coalesce ev cls o q) := by
  unfold Chip.coalesce
  refine .ite (c.occur_reported ..) ?_
  refine Chip.reported.trans (c.count_reported Ev.COAL_FULL 0xFFFF 1) (Chip.reported.trans ?_ (Chip.occur_reported ..))
  exact .of_parts rfl fun _ h => h

/-- A notification moves nothing but what reports move. -/
theorem Chip.notify_reported (c : Chip) (ev cls inst attr : Nat) (q : Option (Nat × Nat)) : c.reported own (c.notify ev cls inst attr q) := by
  unfold Chip.notify
  exact .ite (c.count_reported ..) (c.coalesce_reported ..)

/-- A notification leaves every field alone that reports do not move. -/
theorem Chip.notify_rd (c : Chip) (ev cls inst attr : Nat) (q : Option (Nat × Nat)) (F : Fld) (i e : Nat) (h2 : F.id ∉ reportIds)
    (h3 : F.id ∉ steadyIds) : (c.notify ev cls inst attr q).rd F i e = c.rd F i e :=
  (c.notify_reported (own := fun _ => False) ev cls inst attr q).rd F i e id h2 h3

theorem Chip.notify_on (c : Chip) (ev cls inst attr : Nat) (q : Option (Nat × Nat)) (F : Fld) (i e : Nat) (h2 : F.id ∉ reportIds)
    (h3 : F.id ∉ steadyIds) : (c.notify ev cls inst attr q).on F i e = c.on F i e := by
  unfold Chip.on
  rw [c.notify_rd ev cls inst attr q F i e h2 h3]

/-- So does a count. -/
theorem Chip.count_rd (c : Chip) (ev unit bytes : Nat) (F : Fld) (i e : Nat) (h2 : F.id ∉ reportIds) (h3 : F.id ∉ steadyIds) :
    (c.count ev unit bytes).rd F i e = c.rd F i e :=
  (c.count_reported (own := fun _ => False) ev unit bytes).rd F i e id h2 h3

theorem Chip.count_on (c : Chip) (ev unit bytes : Nat) (F : Fld) (i e : Nat) (h2 : F.id ∉ reportIds) (h3 : F.id ∉ steadyIds) :
    (c.count ev unit bytes).on F i e = c.on F i e := by
  unfold Chip.on
  rw [c.count_rd ev unit bytes F i e h2 h3]

theorem Chip.jrnEvent_reported (c : Chip) (ev info : Nat) : c.reported own (c.jrnEvent ev info) := by
  unfold Chip.jrnEvent
  refine .ite (c.twinSend_reported ..) ?_
  exact .ite (Chip.reported.trans (c.jrnAppend_reported ..) (Chip.notify_reported ..)) (c.jrnAppend_reported ..)

theorem Chip.jrnCmd_reported (c : Chip) (r : Req) (kind op objs info : Nat) (b : Bytes) (f : Bool) :
    c.reported own (c.jrnCmd r kind op objs info b f) := by
  unfold Chip.jrnCmd
  exact .ite (.refl _ c) (c.jrnAppend_reported ..)

/-! ### The rule after every command -/

theorem Chip.adjOk_of_reported {c d : Chip} (h : c.reported own d) (ha : ¬ own (Reg.ADJ.key 0 0))
    (hm : ¬ own (Reg.SERVO_CTRL_MAX_ADJ.key 0 0))
    (hc : (c.rdS Reg.ADJ).natAbs ≤ ppbUnits (c.rd Reg.SERVO_CTRL_MAX_ADJ)) :
    (d.rdS Reg.ADJ).natAbs ≤ ppbUnits (d.rd Reg.SERVO_CTRL_MAX_ADJ) := by
  have h1 : d.rd Reg.ADJ = c.rd Reg.ADJ := h.2.2.1 ha
  have h2 : d.rd Reg.SERVO_CTRL_MAX_ADJ = c.rd Reg.SERVO_CTRL_MAX_ADJ := h.2.1 _ _ _ hm (by decide) (by decide)
  unfold Chip.rdS at *
  rw [h1, h2]
  exact hc

/-- Where ADJ lies in its limits, the rule after every command is no more than a report. -/
theorem Chip.steady_reported (c : Chip) (hc : (c.rdS Reg.ADJ).natAbs ≤ ppbUnits (c.rd Reg.SERVO_CTRL_MAX_ADJ)) : c.reported own c.steady := by
  obtain ⟨h1, h2⟩ := c.steady_adj hc
  refine ⟨?_, fun F i e _ _ h => c.steady_rd F i e h, fun _ => h1, fun _ => h2, fun o h => ?_⟩
  · have := c.steady_rest
    rw [this]
  · have := c.steady_rest
    rw [this]
    exact h

/-- What a command leaves alone, the rule after it leaves alone. -/
theorem Chip.reported.steady {c d : Chip} (h : c.reported own d) (ha : ¬ own (Reg.ADJ.key 0 0))
    (hm : ¬ own (Reg.SERVO_CTRL_MAX_ADJ.key 0 0))
    (hc : c.Limits) : c.reported own d.steady :=
  h.trans (d.steady_reported (Chip.adjOk_of_reported h ha hm hc.1))

end Sys2Proof.Machine
end

