-- ==== Sys2Proof/Laws/Arbiters.lean ====
section
/-! SUPPORT. Arbitration (R43 to R50): who wins, what the losers' waits become, what an arbiter shows. -/

namespace Sys2Proof.Laws
open Sys2Proof.Machine

theorem mem_insertNat (n m : Nat) (l : List Nat) : m ∈ insertNat n l ↔ m = n ∨ m ∈ l := by
  induction l with
  | nil => simp [insertNat]
  | cons x l ih => unfold insertNat; split <;> simp [ih]; grind

theorem mem_sorted (l acc : List Nat) (m : Nat) : m ∈ l.foldl (fun a n => insertNat n a) acc ↔ m ∈ l ∨ m ∈ acc := by
  induction l generalizing acc with
  | nil => simp
  | cons x l ih => simp only [List.foldl_cons, ih, mem_insertNat, List.mem_cons]; grind

theorem roundRobin_mem (last : Nat) (l : List Nat) (h : l ≠ []) : ∃ n, roundRobin last l = some n ∧ n ∈ l := by
  unfold roundRobin
  simp only
  have hm : ∀ m, m ∈ l.foldl (fun a n => insertNat n a) [] ↔ m ∈ l := fun m => by simpa using mem_sorted l [] m
  generalize l.foldl (fun a n => insertNat n a) [] = q at *
  split
  · rename_i n hn
    exact ⟨n, rfl, (hm n).1 (List.mem_of_find?_eq_some hn)⟩
  · cases q with
    | nil => obtain ⟨y, l', rfl⟩ := List.exists_cons_of_ne_nil h; exact absurd ((hm y).2 (by simp)) (by simp)
    | cons y q => exact ⟨y, rfl, (hm y).1 (by simp)⟩

theorem find_range_le {p : Nat → Bool} {k N : Nat} (h : (List.range N).find? p = some k) (j : Nat) (hj : p j = true) (hN : j < N) : k ≤ j := by
  rw [List.find?_range_eq_some] at h
  refine Nat.le_of_not_lt fun hc => ?_
  have := h.2.2 j hc
  simp [hj] at this

theorem arbWinner_spec (a : Nat) (x : Arb) (order : List Nat) (reqs : List (Nat × Nat)) (h8 : ∀ r ∈ reqs, r.1 < 8) (h : ∃ r ∈ reqs, r.1 ≠ lullClass a) :
    ∃ k n f, arbWinner a x order reqs = some (k, n, f) ∧ (k, n) ∈ reqs ∧ k ≠ lullClass a ∧
      ((∀ r ∈ reqs, r.1 ≠ lullClass a → r.2 ∉ order) → ∀ r ∈ reqs, r.1 ≠ lullClass a → k ≤ r.1) := by
  unfold arbWinner
  simp only
  have hreal : ∀ r, r ∈ reqs.filter (fun r => r.1 != lullClass a) ↔ r ∈ reqs ∧ r.1 ≠ lullClass a := by simp
  generalize reqs.filter (fun r => r.1 != lullClass a) = real at *
  obtain ⟨r0, hr0, hl0⟩ := h
  have hr0' := (hreal r0).2 ⟨hr0, hl0⟩
  split
  · rename_i n hn
    have hp := List.find?_some hn
    simp only [List.any_eq_true, beq_iff_eq] at hp
    obtain ⟨r, hr, rfl⟩ := hp
    cases hf : real.find? (fun q => q.2 == r.2) with
    | none => simp at hf; exact absurd rfl (hf _ _ hr)
    | some q =>
      have hq := List.find?_some hf
      have hqm := List.mem_of_find?_eq_some hf
      simp only [beq_iff_eq] at hq
      refine ⟨q.1, r.2, true, rfl, ?_, ((hreal q).1 hqm).2, ?_⟩
      · rw [← hq]; exact ((hreal q).1 hqm).1
      · intro hno
        exact absurd (List.mem_of_find?_eq_some hn) (hno r ((hreal r).1 hr).1 ((hreal r).1 hr).2)
  · split
    · rename_i k hk
      have hp := List.find?_some hk
      simp only [List.any_eq_true, beq_iff_eq] at hp
      obtain ⟨r, hr, hrk⟩ := hp
      obtain ⟨n, hn, hm⟩ := roundRobin_mem (SMap.get x.lastWin k) ((real.filter fun r => r.1 == k).map Prod.snd) (by
        intro hc
        have : r ∈ real.filter fun r => r.1 == k := by simp [hr, hrk]
        simp at hc
        exact hc _ _ hr hrk)
      rw [hn]
      simp only [List.mem_map, List.mem_filter, beq_iff_eq] at hm
      obtain ⟨q, ⟨hq, hqk⟩, rfl⟩ := hm
      refine ⟨k, q.2, false, rfl, ?_, ?_, ?_⟩
      · rw [← hqk]; exact ((hreal q).1 hq).1
      · rw [← hqk]; exact ((hreal q).1 hq).2
      · intro _ r' hr' hl'
        refine find_range_le hk r'.1 ?_ (h8 _ hr')
        simp only [List.any_eq_true, beq_iff_eq]
        exact ⟨r', (hreal r').2 ⟨hr', hl'⟩, rfl⟩
    · rename_i hk
      simp only [List.find?_eq_none, List.mem_range, List.any_eq_true, beq_iff_eq, not_exists, not_and] at hk
      exact absurd rfl (hk r0.1 (h8 _ hr0) r0 hr0')

theorem fold_waits (lim : Nat) (l : List Nat) (w : SMap Nat) (hn : l.Nodup) (m : Nat) :
    SMap.get (l.foldl (fun w m => SMap.set w m (min lim (SMap.get w m + 1))) w) m = if m ∈ l then min lim (SMap.get w m + 1) else SMap.get w m := by
  induction l generalizing w with
  | nil => simp
  | cons y l ih =>
    simp only [List.foldl_cons, List.nodup_cons] at *
    rw [ih _ hn.2]
    by_cases h : m = y
    · subst h; simp [hn.1]
    · simp [h, SMap.get_set_ne _ _ h]

theorem order_not_mem (x : Arb) (lim : Nat) (real : List Nat) (m : Nat) (h : SMap.get x.waits m < lim) : m ∉ x.order lim real := by
  unfold Arb.order
  simp only [List.mem_append, List.mem_filter, mem_sorted, List.not_mem_nil, or_false, decide_eq_true_eq, Bool.and_eq_true]
  omega

theorem lostWaits_get (lim : Nat) (w : SMap Nat) (l : List Nat) (hn : l.Nodup) (m : Nat) :
    SMap.get (lostWaits lim w l) m = if m ∈ l then min lim (SMap.get w m + 1) else SMap.get w m := fold_waits lim l w hn m

theorem peak_reported {own : Nat → Prop} (c : Chip) (G : Fld) (v j f : Nat) (hg : own (G.key j f) ∨ G.id ∈ reportIds) : c.reported own (c.peak G v j f) := .wr _ _ _ _ _ hg

theorem reported_arbs {own : Nat → Prop} {c d : Chip} (h : c.reported own d) (z : SMap Arb) : ({ c with arbs := z } : Chip).reported own { d with arbs := z } := by
  obtain ⟨h1, h2, h3, h4, h5⟩ := h
  refine ⟨?_, h2, h3, h4, h5⟩
  conv => lhs; rw [h1]

end Sys2Proof.Laws
end

