-- ==== Sys2Proof/Laws/Parts.lean ====
section
/-! SUPPORT. Each part of the block beside the attributes: a command that leaves it alone keeps it, and one that sets it beside keeps the
rest. -/

namespace Sys2Proof.Machine

variable {own : Nat → Prop} {c d : Chip}

/-! ### Parts that a report leaves alone -/

theorem Chip.reported.free (h : c.reported own d) : d.free = c.free := (congrArg Chip.free h.1).trans rfl
theorem Chip.reported.serial (h : c.reported own d) : d.serial = c.serial := (congrArg Chip.serial h.1).trans rfl
theorem Chip.reported.orderCG (h : c.reported own d) : d.orderCG = c.orderCG := (congrArg Chip.orderCG h.1).trans rfl
theorem Chip.reported.keys (h : c.reported own d) : d.keys = c.keys := (congrArg Chip.keys h.1).trans rfl
theorem Chip.reported.cmdq (h : c.reported own d) : d.cmdq = c.cmdq := (congrArg Chip.cmdq h.1).trans rfl
theorem Chip.reported.parked (h : c.reported own d) : d.parked = c.parked := (congrArg Chip.parked h.1).trans rfl
theorem Chip.reported.txns (h : c.reported own d) : d.txns = c.txns := (congrArg Chip.txns h.1).trans rfl
theorem Chip.reported.ended (h : c.reported own d) : d.ended = c.ended := (congrArg Chip.ended h.1).trans rfl
theorem Chip.reported.txnCtr (h : c.reported own d) : d.txnCtr = c.txnCtr := (congrArg Chip.txnCtr h.1).trans rfl
theorem Chip.reported.schedCtr (h : c.reported own d) : d.schedCtr = c.schedCtr := (congrArg Chip.schedCtr h.1).trans rfl
theorem Chip.reported.time (h : c.reported own d) : d.time = c.time := (congrArg Chip.time h.1).trans rfl
theorem Chip.reported.cal (h : c.reported own d) : d.cal = c.cal := (congrArg Chip.cal h.1).trans rfl
theorem Chip.reported.lull (h : c.reported own d) : d.lull = c.lull := (congrArg Chip.lull h.1).trans rfl
theorem Chip.reported.diag (h : c.reported own d) : d.diag = c.diag := (congrArg Chip.diag h.1).trans rfl
theorem Chip.reported.stateKey (h : c.reported own d) : d.stateKey = c.stateKey := (congrArg Chip.stateKey h.1).trans rfl
theorem Chip.reported.arbs (h : c.reported own d) : d.arbs = c.arbs := (congrArg Chip.arbs h.1).trans rfl
theorem Chip.reported.baroClear (h : c.reported own d) : d.baroClear = c.baroClear := (congrArg Chip.baroClear h.1).trans rfl
theorem Chip.reported.baroLow (h : c.reported own d) : d.baroLow = c.baroLow := (congrArg Chip.baroLow h.1).trans rfl
theorem Chip.reported.baroAt (h : c.reported own d) : d.baroAt = c.baroAt := (congrArg Chip.baroAt h.1).trans rfl
theorem Chip.reported.tbl (h : c.reported own d) : d.tbl = c.tbl := (congrArg Chip.tbl h.1).trans rfl
theorem Chip.reported.mgtSpeed (h : c.reported own d) : d.mgtSpeed = c.mgtSpeed := (congrArg Chip.mgtSpeed h.1).trans rfl
theorem Chip.reported.gateP (h : c.reported own d) : d.gateP = c.gateP := (congrArg Chip.gateP h.1).trans rfl
theorem Chip.reported.fab (h : c.reported own d) : d.fab = c.fab := (congrArg Chip.fab h.1).trans rfl
theorem Chip.reported.loops (h : c.reported own d) : d.loops = c.loops := (congrArg Chip.loops h.1).trans rfl
theorem Chip.reported.opts (h : c.reported own d) : d.opts = c.opts := (congrArg Chip.opts h.1).trans rfl
theorem Chip.reported.tdc (h : c.reported own d) : d.tdc = c.tdc := (congrArg Chip.tdc h.1).trans rfl
theorem Chip.reported.phms (h : c.reported own d) : d.phms = c.phms := (congrArg Chip.phms h.1).trans rfl
theorem Chip.reported.evis (h : c.reported own d) : d.evis = c.evis := (congrArg Chip.evis h.1).trans rfl
theorem Chip.reported.ivls (h : c.reported own d) : d.ivls = c.ivls := (congrArg Chip.ivls h.1).trans rfl
theorem Chip.reported.evos (h : c.reported own d) : d.evos = c.evos := (congrArg Chip.evos h.1).trans rfl
theorem Chip.reported.dplls (h : c.reported own d) : d.dplls = c.dplls := (congrArg Chip.dplls h.1).trans rfl
theorem Chip.reported.ckos (h : c.reported own d) : d.ckos = c.ckos := (congrArg Chip.ckos h.1).trans rfl
theorem Chip.reported.car (h : c.reported own d) : d.car = c.car := (congrArg Chip.car h.1).trans rfl
theorem Chip.reported.drum (h : c.reported own d) : d.drum = c.drum := (congrArg Chip.drum h.1).trans rfl
theorem Chip.reported.fw (h : c.reported own d) : d.fw = c.fw := (congrArg Chip.fw h.1).trans rfl
theorem Chip.reported.pwr (h : c.reported own d) : d.pwr = c.pwr := (congrArg Chip.pwr h.1).trans rfl

/-! ### A part set beside a report -/

theorem Chip.reported.set_free (h : c.reported own d) (x : Nat) : Chip.reported own { c with free := x } { d with free := x } :=
  ⟨(congrArg (fun c : Chip => { c with free := x }) h.1).trans rfl, h.2⟩
theorem Chip.reported.set_serial (h : c.reported own d) (x : Nat) : Chip.reported own { c with serial := x } { d with serial := x } :=
  ⟨(congrArg (fun c : Chip => { c with serial := x }) h.1).trans rfl, h.2⟩
theorem Chip.reported.set_orderCG (h : c.reported own d) (x : Bool) : Chip.reported own { c with orderCG := x } { d with orderCG := x } :=
  ⟨(congrArg (fun c : Chip => { c with orderCG := x }) h.1).trans rfl, h.2⟩
theorem Chip.reported.set_keys (h : c.reported own d) (x : SMap Nat) : Chip.reported own { c with keys := x } { d with keys := x } :=
  ⟨(congrArg (fun c : Chip => { c with keys := x }) h.1).trans rfl, h.2⟩
theorem Chip.reported.set_cmdq (h : c.reported own d) (x : List Packet) : Chip.reported own { c with cmdq := x } { d with cmdq := x } :=
  ⟨(congrArg (fun c : Chip => { c with cmdq := x }) h.1).trans rfl, h.2⟩
theorem Chip.reported.set_parked (h : c.reported own d) (x : List Parked) : Chip.reported own { c with parked := x } { d with parked := x } :=
  ⟨(congrArg (fun c : Chip => { c with parked := x }) h.1).trans rfl, h.2⟩
theorem Chip.reported.set_txns (h : c.reported own d) (x : List Txn) : Chip.reported own { c with txns := x } { d with txns := x } :=
  ⟨(congrArg (fun c : Chip => { c with txns := x }) h.1).trans rfl, h.2⟩
theorem Chip.reported.set_ended (h : c.reported own d) (x : List TxnEnd) : Chip.reported own { c with ended := x } { d with ended := x } :=
  ⟨(congrArg (fun c : Chip => { c with ended := x }) h.1).trans rfl, h.2⟩
theorem Chip.reported.set_txnCtr (h : c.reported own d) (x : Nat) : Chip.reported own { c with txnCtr := x } { d with txnCtr := x } :=
  ⟨(congrArg (fun c : Chip => { c with txnCtr := x }) h.1).trans rfl, h.2⟩
theorem Chip.reported.set_schedCtr (h : c.reported own d) (x : Nat) : Chip.reported own { c with schedCtr := x } { d with schedCtr := x } :=
  ⟨(congrArg (fun c : Chip => { c with schedCtr := x }) h.1).trans rfl, h.2⟩
theorem Chip.reported.set_time (h : c.reported own d) (x : Time) : Chip.reported own { c with time := x } { d with time := x } :=
  ⟨(congrArg (fun c : Chip => { c with time := x }) h.1).trans rfl, h.2⟩
theorem Chip.reported.set_cal (h : c.reported own d) (x : Cal) : Chip.reported own { c with cal := x } { d with cal := x } :=
  ⟨(congrArg (fun c : Chip => { c with cal := x }) h.1).trans rfl, h.2⟩
theorem Chip.reported.set_lull (h : c.reported own d) (x : Lull) : Chip.reported own { c with lull := x } { d with lull := x } :=
  ⟨(congrArg (fun c : Chip => { c with lull := x }) h.1).trans rfl, h.2⟩
theorem Chip.reported.set_diag (h : c.reported own d) (x : Option (Req × Nat × Option (Nat × Nat))) : Chip.reported own { c with diag := x } { d with diag := x } :=
  ⟨(congrArg (fun c : Chip => { c with diag := x }) h.1).trans rfl, h.2⟩
theorem Chip.reported.set_stateKey (h : c.reported own d) (x : Nat) : Chip.reported own { c with stateKey := x } { d with stateKey := x } :=
  ⟨(congrArg (fun c : Chip => { c with stateKey := x }) h.1).trans rfl, h.2⟩
theorem Chip.reported.set_arbs (h : c.reported own d) (x : SMap Arb) : Chip.reported own { c with arbs := x } { d with arbs := x } :=
  ⟨(congrArg (fun c : Chip => { c with arbs := x }) h.1).trans rfl, h.2⟩
theorem Chip.reported.set_baroClear (h : c.reported own d) (x : Nat) : Chip.reported own { c with baroClear := x } { d with baroClear := x } :=
  ⟨(congrArg (fun c : Chip => { c with baroClear := x }) h.1).trans rfl, h.2⟩
theorem Chip.reported.set_baroLow (h : c.reported own d) (x : Bool) : Chip.reported own { c with baroLow := x } { d with baroLow := x } :=
  ⟨(congrArg (fun c : Chip => { c with baroLow := x }) h.1).trans rfl, h.2⟩
theorem Chip.reported.set_baroAt (h : c.reported own d) (x : Nat) : Chip.reported own { c with baroAt := x } { d with baroAt := x } :=
  ⟨(congrArg (fun c : Chip => { c with baroAt := x }) h.1).trans rfl, h.2⟩
theorem Chip.reported.set_tbl (h : c.reported own d) (x : Tables) : Chip.reported own { c with tbl := x } { d with tbl := x } :=
  ⟨(congrArg (fun c : Chip => { c with tbl := x }) h.1).trans rfl, h.2⟩
theorem Chip.reported.set_mgtSpeed (h : c.reported own d) (x : Nat) : Chip.reported own { c with mgtSpeed := x } { d with mgtSpeed := x } :=
  ⟨(congrArg (fun c : Chip => { c with mgtSpeed := x }) h.1).trans rfl, h.2⟩
theorem Chip.reported.set_gateP (h : c.reported own d) (x : SMap Nat) : Chip.reported own { c with gateP := x } { d with gateP := x } :=
  ⟨(congrArg (fun c : Chip => { c with gateP := x }) h.1).trans rfl, h.2⟩
theorem Chip.reported.set_fab (h : c.reported own d) (x : Fab) : Chip.reported own { c with fab := x } { d with fab := x } :=
  ⟨(congrArg (fun c : Chip => { c with fab := x }) h.1).trans rfl, h.2⟩
theorem Chip.reported.set_loops (h : c.reported own d) (x : SMap Nat) : Chip.reported own { c with loops := x } { d with loops := x } :=
  ⟨(congrArg (fun c : Chip => { c with loops := x }) h.1).trans rfl, h.2⟩
theorem Chip.reported.set_opts (h : c.reported own d) (x : SMap Opt) : Chip.reported own { c with opts := x } { d with opts := x } :=
  ⟨(congrArg (fun c : Chip => { c with opts := x }) h.1).trans rfl, h.2⟩
theorem Chip.reported.set_tdc (h : c.reported own d) (x : SMap Bool) : Chip.reported own { c with tdc := x } { d with tdc := x } :=
  ⟨(congrArg (fun c : Chip => { c with tdc := x }) h.1).trans rfl, h.2⟩
theorem Chip.reported.set_phms (h : c.reported own d) (x : SMap Phm) : Chip.reported own { c with phms := x } { d with phms := x } :=
  ⟨(congrArg (fun c : Chip => { c with phms := x }) h.1).trans rfl, h.2⟩
theorem Chip.reported.set_evis (h : c.reported own d) (x : SMap Evi) : Chip.reported own { c with evis := x } { d with evis := x } :=
  ⟨(congrArg (fun c : Chip => { c with evis := x }) h.1).trans rfl, h.2⟩
theorem Chip.reported.set_ivls (h : c.reported own d) (x : SMap Ivl) : Chip.reported own { c with ivls := x } { d with ivls := x } :=
  ⟨(congrArg (fun c : Chip => { c with ivls := x }) h.1).trans rfl, h.2⟩
theorem Chip.reported.set_evos (h : c.reported own d) (x : SMap Evo) : Chip.reported own { c with evos := x } { d with evos := x } :=
  ⟨(congrArg (fun c : Chip => { c with evos := x }) h.1).trans rfl, h.2⟩
theorem Chip.reported.set_dplls (h : c.reported own d) (x : SMap Dpll) : Chip.reported own { c with dplls := x } { d with dplls := x } :=
  ⟨(congrArg (fun c : Chip => { c with dplls := x }) h.1).trans rfl, h.2⟩
theorem Chip.reported.set_ckos (h : c.reported own d) (x : SMap Cko) : Chip.reported own { c with ckos := x } { d with ckos := x } :=
  ⟨(congrArg (fun c : Chip => { c with ckos := x }) h.1).trans rfl, h.2⟩
theorem Chip.reported.set_car (h : c.reported own d) (x : Car) : Chip.reported own { c with car := x } { d with car := x } :=
  ⟨(congrArg (fun c : Chip => { c with car := x }) h.1).trans rfl, h.2⟩
theorem Chip.reported.set_drum (h : c.reported own d) (x : Drum) : Chip.reported own { c with drum := x } { d with drum := x } :=
  ⟨(congrArg (fun c : Chip => { c with drum := x }) h.1).trans rfl, h.2⟩
theorem Chip.reported.set_fw (h : c.reported own d) (x : Fw) : Chip.reported own { c with fw := x } { d with fw := x } :=
  ⟨(congrArg (fun c : Chip => { c with fw := x }) h.1).trans rfl, h.2⟩
theorem Chip.reported.set_pwr (h : c.reported own d) (x : Pwr) : Chip.reported own { c with pwr := x } { d with pwr := x } :=
  ⟨(congrArg (fun c : Chip => { c with pwr := x }) h.1).trans rfl, h.2⟩

/-! ### Parts that writes leave alone, and a part set beside them -/

theorem Chip.wrote.outs (h : c.wrote own d) : d.outs = c.outs := (congrArg Chip.outs h.1).trans rfl
theorem Chip.wrote.set_outs (h : c.wrote own d) (x : List Out) : Chip.wrote own { c with outs := x } { d with outs := x } :=
  ⟨(congrArg (fun c : Chip => { c with outs := x }) h.1).trans rfl, h.2⟩
theorem Chip.wrote.free (h : c.wrote own d) : d.free = c.free := (congrArg Chip.free h.1).trans rfl
theorem Chip.wrote.set_free (h : c.wrote own d) (x : Nat) : Chip.wrote own { c with free := x } { d with free := x } :=
  ⟨(congrArg (fun c : Chip => { c with free := x }) h.1).trans rfl, h.2⟩
theorem Chip.wrote.serial (h : c.wrote own d) : d.serial = c.serial := (congrArg Chip.serial h.1).trans rfl
theorem Chip.wrote.set_serial (h : c.wrote own d) (x : Nat) : Chip.wrote own { c with serial := x } { d with serial := x } :=
  ⟨(congrArg (fun c : Chip => { c with serial := x }) h.1).trans rfl, h.2⟩
theorem Chip.wrote.orderCG (h : c.wrote own d) : d.orderCG = c.orderCG := (congrArg Chip.orderCG h.1).trans rfl
theorem Chip.wrote.set_orderCG (h : c.wrote own d) (x : Bool) : Chip.wrote own { c with orderCG := x } { d with orderCG := x } :=
  ⟨(congrArg (fun c : Chip => { c with orderCG := x }) h.1).trans rfl, h.2⟩
theorem Chip.wrote.keys (h : c.wrote own d) : d.keys = c.keys := (congrArg Chip.keys h.1).trans rfl
theorem Chip.wrote.set_keys (h : c.wrote own d) (x : SMap Nat) : Chip.wrote own { c with keys := x } { d with keys := x } :=
  ⟨(congrArg (fun c : Chip => { c with keys := x }) h.1).trans rfl, h.2⟩
theorem Chip.wrote.cmdq (h : c.wrote own d) : d.cmdq = c.cmdq := (congrArg Chip.cmdq h.1).trans rfl
theorem Chip.wrote.set_cmdq (h : c.wrote own d) (x : List Packet) : Chip.wrote own { c with cmdq := x } { d with cmdq := x } :=
  ⟨(congrArg (fun c : Chip => { c with cmdq := x }) h.1).trans rfl, h.2⟩
theorem Chip.wrote.parked (h : c.wrote own d) : d.parked = c.parked := (congrArg Chip.parked h.1).trans rfl
theorem Chip.wrote.set_parked (h : c.wrote own d) (x : List Parked) : Chip.wrote own { c with parked := x } { d with parked := x } :=
  ⟨(congrArg (fun c : Chip => { c with parked := x }) h.1).trans rfl, h.2⟩
theorem Chip.wrote.txns (h : c.wrote own d) : d.txns = c.txns := (congrArg Chip.txns h.1).trans rfl
theorem Chip.wrote.set_txns (h : c.wrote own d) (x : List Txn) : Chip.wrote own { c with txns := x } { d with txns := x } :=
  ⟨(congrArg (fun c : Chip => { c with txns := x }) h.1).trans rfl, h.2⟩
theorem Chip.wrote.ended (h : c.wrote own d) : d.ended = c.ended := (congrArg Chip.ended h.1).trans rfl
theorem Chip.wrote.set_ended (h : c.wrote own d) (x : List TxnEnd) : Chip.wrote own { c with ended := x } { d with ended := x } :=
  ⟨(congrArg (fun c : Chip => { c with ended := x }) h.1).trans rfl, h.2⟩
theorem Chip.wrote.txnCtr (h : c.wrote own d) : d.txnCtr = c.txnCtr := (congrArg Chip.txnCtr h.1).trans rfl
theorem Chip.wrote.set_txnCtr (h : c.wrote own d) (x : Nat) : Chip.wrote own { c with txnCtr := x } { d with txnCtr := x } :=
  ⟨(congrArg (fun c : Chip => { c with txnCtr := x }) h.1).trans rfl, h.2⟩
theorem Chip.wrote.schedCtr (h : c.wrote own d) : d.schedCtr = c.schedCtr := (congrArg Chip.schedCtr h.1).trans rfl
theorem Chip.wrote.set_schedCtr (h : c.wrote own d) (x : Nat) : Chip.wrote own { c with schedCtr := x } { d with schedCtr := x } :=
  ⟨(congrArg (fun c : Chip => { c with schedCtr := x }) h.1).trans rfl, h.2⟩
theorem Chip.wrote.jrn (h : c.wrote own d) : d.jrn = c.jrn := (congrArg Chip.jrn h.1).trans rfl
theorem Chip.wrote.set_jrn (h : c.wrote own d) (x : Jrn) : Chip.wrote own { c with jrn := x } { d with jrn := x } :=
  ⟨(congrArg (fun c : Chip => { c with jrn := x }) h.1).trans rfl, h.2⟩
theorem Chip.wrote.hif (h : c.wrote own d) : d.hif = c.hif := (congrArg Chip.hif h.1).trans rfl
theorem Chip.wrote.set_hif (h : c.wrote own d) (x : Hif) : Chip.wrote own { c with hif := x } { d with hif := x } :=
  ⟨(congrArg (fun c : Chip => { c with hif := x }) h.1).trans rfl, h.2⟩
theorem Chip.wrote.coal (h : c.wrote own d) : d.coal = c.coal := (congrArg Chip.coal h.1).trans rfl
theorem Chip.wrote.set_coal (h : c.wrote own d) (x : Coal) : Chip.wrote own { c with coal := x } { d with coal := x } :=
  ⟨(congrArg (fun c : Chip => { c with coal := x }) h.1).trans rfl, h.2⟩
theorem Chip.wrote.time (h : c.wrote own d) : d.time = c.time := (congrArg Chip.time h.1).trans rfl
theorem Chip.wrote.set_time (h : c.wrote own d) (x : Time) : Chip.wrote own { c with time := x } { d with time := x } :=
  ⟨(congrArg (fun c : Chip => { c with time := x }) h.1).trans rfl, h.2⟩
theorem Chip.wrote.cal (h : c.wrote own d) : d.cal = c.cal := (congrArg Chip.cal h.1).trans rfl
theorem Chip.wrote.set_cal (h : c.wrote own d) (x : Cal) : Chip.wrote own { c with cal := x } { d with cal := x } :=
  ⟨(congrArg (fun c : Chip => { c with cal := x }) h.1).trans rfl, h.2⟩
theorem Chip.wrote.lull (h : c.wrote own d) : d.lull = c.lull := (congrArg Chip.lull h.1).trans rfl
theorem Chip.wrote.set_lull (h : c.wrote own d) (x : Lull) : Chip.wrote own { c with lull := x } { d with lull := x } :=
  ⟨(congrArg (fun c : Chip => { c with lull := x }) h.1).trans rfl, h.2⟩
theorem Chip.wrote.diag (h : c.wrote own d) : d.diag = c.diag := (congrArg Chip.diag h.1).trans rfl
theorem Chip.wrote.set_diag (h : c.wrote own d) (x : Option (Req × Nat × Option (Nat × Nat))) : Chip.wrote own { c with diag := x } { d with diag := x } :=
  ⟨(congrArg (fun c : Chip => { c with diag := x }) h.1).trans rfl, h.2⟩
theorem Chip.wrote.stateKey (h : c.wrote own d) : d.stateKey = c.stateKey := (congrArg Chip.stateKey h.1).trans rfl
theorem Chip.wrote.set_stateKey (h : c.wrote own d) (x : Nat) : Chip.wrote own { c with stateKey := x } { d with stateKey := x } :=
  ⟨(congrArg (fun c : Chip => { c with stateKey := x }) h.1).trans rfl, h.2⟩
theorem Chip.wrote.arbs (h : c.wrote own d) : d.arbs = c.arbs := (congrArg Chip.arbs h.1).trans rfl
theorem Chip.wrote.set_arbs (h : c.wrote own d) (x : SMap Arb) : Chip.wrote own { c with arbs := x } { d with arbs := x } :=
  ⟨(congrArg (fun c : Chip => { c with arbs := x }) h.1).trans rfl, h.2⟩
theorem Chip.wrote.baroClear (h : c.wrote own d) : d.baroClear = c.baroClear := (congrArg Chip.baroClear h.1).trans rfl
theorem Chip.wrote.set_baroClear (h : c.wrote own d) (x : Nat) : Chip.wrote own { c with baroClear := x } { d with baroClear := x } :=
  ⟨(congrArg (fun c : Chip => { c with baroClear := x }) h.1).trans rfl, h.2⟩
theorem Chip.wrote.baroLow (h : c.wrote own d) : d.baroLow = c.baroLow := (congrArg Chip.baroLow h.1).trans rfl
theorem Chip.wrote.set_baroLow (h : c.wrote own d) (x : Bool) : Chip.wrote own { c with baroLow := x } { d with baroLow := x } :=
  ⟨(congrArg (fun c : Chip => { c with baroLow := x }) h.1).trans rfl, h.2⟩
theorem Chip.wrote.baroAt (h : c.wrote own d) : d.baroAt = c.baroAt := (congrArg Chip.baroAt h.1).trans rfl
theorem Chip.wrote.set_baroAt (h : c.wrote own d) (x : Nat) : Chip.wrote own { c with baroAt := x } { d with baroAt := x } :=
  ⟨(congrArg (fun c : Chip => { c with baroAt := x }) h.1).trans rfl, h.2⟩
theorem Chip.wrote.path (h : c.wrote own d) : d.path = c.path := (congrArg Chip.path h.1).trans rfl
theorem Chip.wrote.set_path (h : c.wrote own d) (x : Path) : Chip.wrote own { c with path := x } { d with path := x } :=
  ⟨(congrArg (fun c : Chip => { c with path := x }) h.1).trans rfl, h.2⟩
theorem Chip.wrote.tbl (h : c.wrote own d) : d.tbl = c.tbl := (congrArg Chip.tbl h.1).trans rfl
theorem Chip.wrote.set_tbl (h : c.wrote own d) (x : Tables) : Chip.wrote own { c with tbl := x } { d with tbl := x } :=
  ⟨(congrArg (fun c : Chip => { c with tbl := x }) h.1).trans rfl, h.2⟩
theorem Chip.wrote.mgtSpeed (h : c.wrote own d) : d.mgtSpeed = c.mgtSpeed := (congrArg Chip.mgtSpeed h.1).trans rfl
theorem Chip.wrote.set_mgtSpeed (h : c.wrote own d) (x : Nat) : Chip.wrote own { c with mgtSpeed := x } { d with mgtSpeed := x } :=
  ⟨(congrArg (fun c : Chip => { c with mgtSpeed := x }) h.1).trans rfl, h.2⟩
theorem Chip.wrote.gateP (h : c.wrote own d) : d.gateP = c.gateP := (congrArg Chip.gateP h.1).trans rfl
theorem Chip.wrote.set_gateP (h : c.wrote own d) (x : SMap Nat) : Chip.wrote own { c with gateP := x } { d with gateP := x } :=
  ⟨(congrArg (fun c : Chip => { c with gateP := x }) h.1).trans rfl, h.2⟩
theorem Chip.wrote.fab (h : c.wrote own d) : d.fab = c.fab := (congrArg Chip.fab h.1).trans rfl
theorem Chip.wrote.set_fab (h : c.wrote own d) (x : Fab) : Chip.wrote own { c with fab := x } { d with fab := x } :=
  ⟨(congrArg (fun c : Chip => { c with fab := x }) h.1).trans rfl, h.2⟩
theorem Chip.wrote.loops (h : c.wrote own d) : d.loops = c.loops := (congrArg Chip.loops h.1).trans rfl
theorem Chip.wrote.set_loops (h : c.wrote own d) (x : SMap Nat) : Chip.wrote own { c with loops := x } { d with loops := x } :=
  ⟨(congrArg (fun c : Chip => { c with loops := x }) h.1).trans rfl, h.2⟩
theorem Chip.wrote.opts (h : c.wrote own d) : d.opts = c.opts := (congrArg Chip.opts h.1).trans rfl
theorem Chip.wrote.set_opts (h : c.wrote own d) (x : SMap Opt) : Chip.wrote own { c with opts := x } { d with opts := x } :=
  ⟨(congrArg (fun c : Chip => { c with opts := x }) h.1).trans rfl, h.2⟩
theorem Chip.wrote.tdc (h : c.wrote own d) : d.tdc = c.tdc := (congrArg Chip.tdc h.1).trans rfl
theorem Chip.wrote.set_tdc (h : c.wrote own d) (x : SMap Bool) : Chip.wrote own { c with tdc := x } { d with tdc := x } :=
  ⟨(congrArg (fun c : Chip => { c with tdc := x }) h.1).trans rfl, h.2⟩
theorem Chip.wrote.phms (h : c.wrote own d) : d.phms = c.phms := (congrArg Chip.phms h.1).trans rfl
theorem Chip.wrote.set_phms (h : c.wrote own d) (x : SMap Phm) : Chip.wrote own { c with phms := x } { d with phms := x } :=
  ⟨(congrArg (fun c : Chip => { c with phms := x }) h.1).trans rfl, h.2⟩
theorem Chip.wrote.evis (h : c.wrote own d) : d.evis = c.evis := (congrArg Chip.evis h.1).trans rfl
theorem Chip.wrote.set_evis (h : c.wrote own d) (x : SMap Evi) : Chip.wrote own { c with evis := x } { d with evis := x } :=
  ⟨(congrArg (fun c : Chip => { c with evis := x }) h.1).trans rfl, h.2⟩
theorem Chip.wrote.ivls (h : c.wrote own d) : d.ivls = c.ivls := (congrArg Chip.ivls h.1).trans rfl
theorem Chip.wrote.set_ivls (h : c.wrote own d) (x : SMap Ivl) : Chip.wrote own { c with ivls := x } { d with ivls := x } :=
  ⟨(congrArg (fun c : Chip => { c with ivls := x }) h.1).trans rfl, h.2⟩
theorem Chip.wrote.evos (h : c.wrote own d) : d.evos = c.evos := (congrArg Chip.evos h.1).trans rfl
theorem Chip.wrote.set_evos (h : c.wrote own d) (x : SMap Evo) : Chip.wrote own { c with evos := x } { d with evos := x } :=
  ⟨(congrArg (fun c : Chip => { c with evos := x }) h.1).trans rfl, h.2⟩
theorem Chip.wrote.dplls (h : c.wrote own d) : d.dplls = c.dplls := (congrArg Chip.dplls h.1).trans rfl
theorem Chip.wrote.set_dplls (h : c.wrote own d) (x : SMap Dpll) : Chip.wrote own { c with dplls := x } { d with dplls := x } :=
  ⟨(congrArg (fun c : Chip => { c with dplls := x }) h.1).trans rfl, h.2⟩
theorem Chip.wrote.ckos (h : c.wrote own d) : d.ckos = c.ckos := (congrArg Chip.ckos h.1).trans rfl
theorem Chip.wrote.set_ckos (h : c.wrote own d) (x : SMap Cko) : Chip.wrote own { c with ckos := x } { d with ckos := x } :=
  ⟨(congrArg (fun c : Chip => { c with ckos := x }) h.1).trans rfl, h.2⟩
theorem Chip.wrote.car (h : c.wrote own d) : d.car = c.car := (congrArg Chip.car h.1).trans rfl
theorem Chip.wrote.set_car (h : c.wrote own d) (x : Car) : Chip.wrote own { c with car := x } { d with car := x } :=
  ⟨(congrArg (fun c : Chip => { c with car := x }) h.1).trans rfl, h.2⟩
theorem Chip.wrote.drum (h : c.wrote own d) : d.drum = c.drum := (congrArg Chip.drum h.1).trans rfl
theorem Chip.wrote.set_drum (h : c.wrote own d) (x : Drum) : Chip.wrote own { c with drum := x } { d with drum := x } :=
  ⟨(congrArg (fun c : Chip => { c with drum := x }) h.1).trans rfl, h.2⟩
theorem Chip.wrote.twin (h : c.wrote own d) : d.twin = c.twin := (congrArg Chip.twin h.1).trans rfl
theorem Chip.wrote.set_twin (h : c.wrote own d) (x : Twin) : Chip.wrote own { c with twin := x } { d with twin := x } :=
  ⟨(congrArg (fun c : Chip => { c with twin := x }) h.1).trans rfl, h.2⟩
theorem Chip.wrote.fw (h : c.wrote own d) : d.fw = c.fw := (congrArg Chip.fw h.1).trans rfl
theorem Chip.wrote.set_fw (h : c.wrote own d) (x : Fw) : Chip.wrote own { c with fw := x } { d with fw := x } :=
  ⟨(congrArg (fun c : Chip => { c with fw := x }) h.1).trans rfl, h.2⟩
theorem Chip.wrote.pwr (h : c.wrote own d) : d.pwr = c.pwr := (congrArg Chip.pwr h.1).trans rfl
theorem Chip.wrote.set_pwr (h : c.wrote own d) (x : Pwr) : Chip.wrote own { c with pwr := x } { d with pwr := x } :=
  ⟨(congrArg (fun c : Chip => { c with pwr := x }) h.1).trans rfl, h.2⟩

end Sys2Proof.Machine
end

