-- ==== Sys2Proof/Laws/Command.lean ====
section
/-! SUPPORT. What the frame of a packet command comes to when its command runs: a query answers, a change takes effect, leaves its record and
answers. -/

namespace Sys2Proof.Machine

variable {own : Nat → Prop}

/-- What was only written is reported. -/
theorem Chip.wrote.reported {own : Nat → Prop} {c d : Chip} (h : c.wrote own d) : c.reported own d :=
  ⟨by rw [h.1], fun F i e h1 _ h3 => h.2.1 F i e h1 h3, fun _ => h.2.2.1, fun _ => h.2.2.2.1, fun o ho => by rw [h.1]; exact ho⟩

theorem Chip.wrote.mono {own own' : Nat → Prop} {c d : Chip} (h : c.wrote own d) (hs : ∀ k, own k → own' k) : c.wrote own' d :=
  ⟨h.1, fun F i e h1 h3 => h.2.1 F i e (fun h => h1 (hs _ h)) h3, h.2.2⟩

/-- Steps that each write only at their own places do so together. -/
theorem Chip.wrote.each {α : Type} (l : List α) (f : α → Chip → Chip) (hf : ∀ (x : α) (c : Chip), c.wrote own (f x c)) (c : Chip) : c.wrote own (c.each l f) := by
  unfold Chip.each
  induction l generalizing c with
  | nil => exact .refl _ _
  | cons x l ih => exact (hf x c).trans (ih _)

/-- A command that is never staged, run: its body's outcome is replied to. -/
theorem Chip.direct_eq {c : Chip} {r : Req} {i : Instr} {body : Chip → Res} (h1 : c.mayRun r i = true) (h2 : r.txn = 0)
    (hf : fitsRoom ((body c).chip.replyRoom r.via) (body c).tlvs = true) :
    c.direct r i body = ((body c).done r (opOf i)).reply r (opOf i) (body c).status (body c).tlvs := by
  unfold Chip.direct Chip.finish
  simp [h1, h2, hf]

/-- A change that meets no obstacle. -/
theorem Chip.runChange_eq {c : Chip} {r : Req} {i : Instr} {body : Chip → Res} (h : c.ready r i) (hs : (body c).status = .ok)
    (hc : c.changeFail (body c).chip i = none) (hf : fitsRoom ((body c).chip.replyRoom r.via) (body c).tlvs = true) :
    c.runChange r i none body = ((body c).done r (opOf i)).reply r (opOf i) .ok (body c).tlvs := by
  obtain ⟨-, -, h3, h4, h5, h6⟩ := h
  unfold Chip.runChange Chip.finish
  simp [h3, h4, h5, h6, hs, hc, hf, badForm]

theorem Chip.change_eq {c : Chip} {r : Req} {i : Instr} {body : Chip → Res} {l : List Tlv} (h : c.ready r i) (hs : (body c).status = .ok)
    (hc : c.changeFail (body c).chip i = none) (hf : fitsRoom ((body c).chip.replyRoom r.via) (body c).tlvs = true) :
    c.change r i none body l = ((body c).done r (opOf i)).reply r (opOf i) .ok (body c).tlvs := by
  rw [← Chip.runChange_eq h hs hc hf]
  unfold Chip.change
  simp [h.1, h.2.1]

theorem Chip.changeDirect_eq {c : Chip} {r : Req} {i : Instr} {body : Chip → Res} (h : c.ready r i) (hs : (body c).status = .ok)
    (hc : c.changeFail (body c).chip i = none) (hf : fitsRoom ((body c).chip.replyRoom r.via) (body c).tlvs = true) :
    c.changeDirect r i none body = ((body c).done r (opOf i)).reply r (opOf i) .ok (body c).tlvs := by
  rw [← Chip.runChange_eq h hs hc hf]
  unfold Chip.changeDirect
  simp [h.1, h.2.1]

/-- A reply without TLVs always fits. -/
@[simp] theorem fitsRoom_nil (n : Nat) : fitsRoom n [] = true := rfl

/-- The limits of ADJ hold wherever the attributes are the same. -/
theorem Chip.adjOk_of_regs {c d : Chip} (h : d.regs = c.regs) (hc : (c.rdS Reg.ADJ).natAbs ≤ ppbUnits (c.rd Reg.SERVO_CTRL_MAX_ADJ)) :
    (d.rdS Reg.ADJ).natAbs ≤ ppbUnits (d.rd Reg.SERVO_CTRL_MAX_ADJ) := by
  unfold Chip.rdS Chip.rd at *
  rw [h]
  exact hc

/-- The limits of ADJ hold wherever only other attributes were written. -/
theorem Chip.adjOk_of_wrote {c d : Chip} (h : c.wrote own d) (hm : ¬ own (Reg.SERVO_CTRL_MAX_ADJ.key 0 0))
    (hc : (c.rdS Reg.ADJ).natAbs ≤ ppbUnits (c.rd Reg.SERVO_CTRL_MAX_ADJ)) :
    (d.rdS Reg.ADJ).natAbs ≤ ppbUnits (d.rd Reg.SERVO_CTRL_MAX_ADJ) := by
  unfold Chip.rdS at *
  rw [h.2.2.1, h.2.1 _ _ _ hm (by decide)]
  exact hc

/-- A reply after what reports do. -/
theorem Chip.answers.of_reported {c d : Chip} (h : c.reported (fun _ => False) d) (ha : (c.rdS Reg.ADJ).natAbs ≤ ppbUnits (c.rd Reg.SERVO_CTRL_MAX_ADJ))
    (r : Req) (op : Nat) (st : Status) (l : List Tlv) : c.answers (d.reply r op st l).steady r op st l := by
  have ht : d.tb16 = c.tb16 := by unfold Chip.tb16; rw [h.time]
  have hr : c.reported (fun _ => False) (d.reply r op st l) := h.trans (d.reply_reported r op st l).1
  refine ⟨?_, hr.trans (Chip.steady_reported _ (Chip.adjOk_of_reported hr id id ha))⟩
  rw [Chip.steady_outs, ← ht]
  exact (d.reply_reported (own := fun _ => False) r op st l).2

/-- A reply alone. -/
theorem Chip.answers.reply {c : Chip} (ha : (c.rdS Reg.ADJ).natAbs ≤ ppbUnits (c.rd Reg.SERVO_CTRL_MAX_ADJ)) (r : Req) (op : Nat) (st : Status)
    (l : List Tlv) : c.answers (c.reply r op st l).steady r op st l := .of_reported (.refl _ c) ha ..

/-- What a body leaves, its record written: a report. -/
theorem Res.done_reported (x : Res) (r : Req) (op : Nat) : x.chip.reported own (x.done r op) := by
  unfold Res.done
  split
  · exact .refl _ _
  · exact x.chip.jrnCmd_reported ..

/-- A reply after the command's record. -/
theorem Chip.answers.done {x : Res} {r : Req} {op : Nat} (ha : (x.chip.rdS Reg.ADJ).natAbs ≤ ppbUnits (x.chip.rd Reg.SERVO_CTRL_MAX_ADJ)) (st : Status)
    (l : List Tlv) : x.chip.answers (((x.done r op).reply r op st l).steady) r op st l := .of_reported (x.done_reported r op) ha ..

/-- A query that runs answers what it found. -/
theorem Chip.direct_answers {c : Chip} {r : Req} {i : Instr} {body : Chip → Res} {op : Nat} {l : List Tlv} (h1 : c.mayRun r i = true)
    (h2 : r.txn = 0) (hb : body c = { chip := c, tlvs := l }) (ho : opOf i = op) (hf : fitsRoom (c.replyRoom r.via) l = true)
    (ha : (c.rdS Reg.ADJ).natAbs ≤ ppbUnits (c.rd Reg.SERVO_CTRL_MAX_ADJ)) : c.answers (c.direct r i body).steady r op .ok l := by
  subst ho
  rw [Chip.direct_eq h1 h2 (by rw [hb]; exact hf), hb]
  exact Chip.answers.done (x := { chip := c, tlvs := l }) ha _ _

/-- A command that is never staged and runs: what it leaves, and its answer. -/
theorem Chip.direct_leaves {c : Chip} {r : Req} {i : Instr} {body : Chip → Res} {op : Nat} {x : Res} (h1 : c.mayRun r i = true)
    (h2 : r.txn = 0) (hb : body c = x) (ho : opOf i = op) (hf : fitsRoom (x.chip.replyRoom r.via) x.tlvs = true)
    (ha : (x.chip.rdS Reg.ADJ).natAbs ≤ ppbUnits (x.chip.rd Reg.SERVO_CTRL_MAX_ADJ)) :
    x.chip.answers (c.direct r i body).steady r op x.status x.tlvs := by
  subst ho hb
  rw [Chip.direct_eq h1 h2 hf]
  exact Chip.answers.done ha _ _

/-- A change that runs: what it leaves, and its answer. -/
theorem Chip.change_leaves {c : Chip} {r : Req} {i : Instr} {fail : Option (Status × List Tlv)} {body : Chip → Res} {q : List Tlv} {op : Nat} {x : Res}
    (h : c.ready r i) (hn : fail = none) (hb : body c = x) (hs : x.status = .ok) (ho : opOf i = op) (hc : c.changeFail x.chip i = none)
    (hf : fitsRoom (x.chip.replyRoom r.via) x.tlvs = true)
    (ha : (x.chip.rdS Reg.ADJ).natAbs ≤ ppbUnits (x.chip.rd Reg.SERVO_CTRL_MAX_ADJ)) :
    x.chip.answers (c.change r i fail body q).steady r op .ok x.tlvs := by
  subst ho hb hn
  rw [Chip.change_eq h hs hc hf]
  exact Chip.answers.done ha _ _

theorem Chip.changeDirect_leaves {c : Chip} {r : Req} {i : Instr} {fail : Option (Status × List Tlv)} {body : Chip → Res} {op : Nat} {x : Res}
    (h : c.ready r i) (hn : fail = none) (hb : body c = x) (hs : x.status = .ok) (ho : opOf i = op) (hc : c.changeFail x.chip i = none)
    (hf : fitsRoom (x.chip.replyRoom r.via) x.tlvs = true)
    (ha : (x.chip.rdS Reg.ADJ).natAbs ≤ ppbUnits (x.chip.rd Reg.SERVO_CTRL_MAX_ADJ)) :
    x.chip.answers (c.changeDirect r i fail body).steady r op .ok x.tlvs := by
  subst ho hb hn
  rw [Chip.changeDirect_eq h hs hc hf]
  exact Chip.answers.done ha _ _

/-- A reply after a record written apart. -/
theorem Chip.answers.jrn {c : Chip} (ha : (c.rdS Reg.ADJ).natAbs ≤ ppbUnits (c.rd Reg.SERVO_CTRL_MAX_ADJ)) (r : Req) (k o n z : Nat) (b : Bytes)
    (f : Bool) (op : Nat) (st : Status) (l : List Tlv) : c.answers ((c.jrnCmd r k o n z b f).reply r op st l).steady r op st l :=
  .of_reported (c.jrnCmd_reported ..) ha ..

/-! ### Without the limits of ADJ -/

theorem Chip.answered.of_reported {c d : Chip} (h : c.reported (fun _ => False) d) (r : Req) (op : Nat) (st : Status) (l : List Tlv) :
    c.answered (d.reply r op st l).steady r op st l := by
  have ht : d.tb16 = c.tb16 := by unfold Chip.tb16; rw [h.time]
  refine ⟨?_, _, h.trans (d.reply_reported r op st l).1, rfl⟩
  rw [Chip.steady_outs, ← ht]
  exact (d.reply_reported (own := fun _ => False) r op st l).2

theorem Chip.answered.reply (c : Chip) (r : Req) (op : Nat) (st : Status) (l : List Tlv) : c.answered (c.reply r op st l).steady r op st l :=
  .of_reported (.refl _ c) ..

theorem Chip.answered.done (x : Res) (r : Req) (op : Nat) (st : Status) (l : List Tlv) :
    x.chip.answered (((x.done r op).reply r op st l).steady) r op st l := .of_reported (x.done_reported r op) ..

/-- A field that no report moves reads after an answer as before it. -/
theorem Chip.answered.rd {c d : Chip} {r : Req} {op : Nat} {st : Status} {l : List Tlv} (h : c.answered d r op st l) (F : Fld) (i e : Nat)
    (h1 : F.id ∉ reportIds) (h2 : F.id ∉ steadyIds) : d.rd F i e = c.rd F i e := by
  obtain ⟨-, x, hx, rfl⟩ := h
  rw [Chip.steady_rd _ _ _ _ h2, hx.rd _ _ _ id h1 h2]

theorem Chip.answered.on {c d : Chip} {r : Req} {op : Nat} {st : Status} {l : List Tlv} (h : c.answered d r op st l) (F : Fld) (i e : Nat)
    (h1 : F.id ∉ reportIds) (h2 : F.id ∉ steadyIds) : d.on F i e = c.on F i e := by
  unfold Chip.on
  rw [h.rd F i e h1 h2]

/-- Queries, staged-never commands and changes that run, each with what it leaves and its answer. -/
theorem Chip.direct_done {c : Chip} {r : Req} {i : Instr} {body : Chip → Res} {op : Nat} {x : Res} (h1 : c.mayRun r i = true)
    (h2 : r.txn = 0) (hb : body c = x) (ho : opOf i = op) (hf : fitsRoom (x.chip.replyRoom r.via) x.tlvs = true) :
    x.chip.answered (c.direct r i body).steady r op x.status x.tlvs := by
  subst ho hb
  rw [Chip.direct_eq h1 h2 hf]
  exact .done ..

theorem Chip.change_done {c : Chip} {r : Req} {i : Instr} {fail : Option (Status × List Tlv)} {body : Chip → Res} {q : List Tlv} {op : Nat} {x : Res}
    (h : c.ready r i) (hn : fail = none) (hb : body c = x) (hs : x.status = .ok) (ho : opOf i = op) (hc : c.changeFail x.chip i = none)
    (hf : fitsRoom (x.chip.replyRoom r.via) x.tlvs = true) : x.chip.answered (c.change r i fail body q).steady r op .ok x.tlvs := by
  subst ho hb hn
  rw [Chip.change_eq h hs hc hf]
  exact .done ..

theorem Chip.changeDirect_done {c : Chip} {r : Req} {i : Instr} {fail : Option (Status × List Tlv)} {body : Chip → Res} {op : Nat} {x : Res}
    (h : c.ready r i) (hn : fail = none) (hb : body c = x) (hs : x.status = .ok) (ho : opOf i = op) (hc : c.changeFail x.chip i = none)
    (hf : fitsRoom (x.chip.replyRoom r.via) x.tlvs = true) : x.chip.answered (c.changeDirect r i fail body).steady r op .ok x.tlvs := by
  subst ho hb hn
  rw [Chip.changeDirect_eq h hs hc hf]
  exact .done ..

/-! ### Parts that no answer touches -/

section

variable {c d : Chip} {r : Req} {op : Nat} {st : Status} {l : List Tlv}

theorem Chip.answered.free (h : c.answered d r op st l) : d.free = c.free := by obtain ⟨-, e, he, rfl⟩ := h; rw [Chip.steady_free, he.free]
theorem Chip.answered.serial (h : c.answered d r op st l) : d.serial = c.serial := by obtain ⟨-, e, he, rfl⟩ := h; rw [Chip.steady_serial, he.serial]
theorem Chip.answered.orderCG (h : c.answered d r op st l) : d.orderCG = c.orderCG := by obtain ⟨-, e, he, rfl⟩ := h; rw [Chip.steady_orderCG, he.orderCG]
theorem Chip.answered.keys (h : c.answered d r op st l) : d.keys = c.keys := by obtain ⟨-, e, he, rfl⟩ := h; rw [Chip.steady_keys, he.keys]
theorem Chip.answered.cmdq (h : c.answered d r op st l) : d.cmdq = c.cmdq := by obtain ⟨-, e, he, rfl⟩ := h; rw [Chip.steady_cmdq, he.cmdq]
theorem Chip.answered.parked (h : c.answered d r op st l) : d.parked = c.parked := by obtain ⟨-, e, he, rfl⟩ := h; rw [Chip.steady_parked, he.parked]
theorem Chip.answered.txns (h : c.answered d r op st l) : d.txns = c.txns := by obtain ⟨-, e, he, rfl⟩ := h; rw [Chip.steady_txns, he.txns]
theorem Chip.answered.ended (h : c.answered d r op st l) : d.ended = c.ended := by obtain ⟨-, e, he, rfl⟩ := h; rw [Chip.steady_ended, he.ended]
theorem Chip.answered.txnCtr (h : c.answered d r op st l) : d.txnCtr = c.txnCtr := by obtain ⟨-, e, he, rfl⟩ := h; rw [Chip.steady_txnCtr, he.txnCtr]
theorem Chip.answered.schedCtr (h : c.answered d r op st l) : d.schedCtr = c.schedCtr := by obtain ⟨-, e, he, rfl⟩ := h; rw [Chip.steady_schedCtr, he.schedCtr]
theorem Chip.answered.time (h : c.answered d r op st l) : d.time = c.time := by obtain ⟨-, e, he, rfl⟩ := h; rw [Chip.steady_time, he.time]
theorem Chip.answered.cal (h : c.answered d r op st l) : d.cal = c.cal := by obtain ⟨-, e, he, rfl⟩ := h; rw [Chip.steady_cal, he.cal]
theorem Chip.answered.lull (h : c.answered d r op st l) : d.lull = c.lull := by obtain ⟨-, e, he, rfl⟩ := h; rw [Chip.steady_lull, he.lull]
theorem Chip.answered.diag (h : c.answered d r op st l) : d.diag = c.diag := by obtain ⟨-, e, he, rfl⟩ := h; rw [Chip.steady_diag, he.diag]
theorem Chip.answered.stateKey (h : c.answered d r op st l) : d.stateKey = c.stateKey := by obtain ⟨-, e, he, rfl⟩ := h; rw [Chip.steady_stateKey, he.stateKey]
theorem Chip.answered.arbs (h : c.answered d r op st l) : d.arbs = c.arbs := by obtain ⟨-, e, he, rfl⟩ := h; rw [Chip.steady_arbs, he.arbs]
theorem Chip.answered.baroClear (h : c.answered d r op st l) : d.baroClear = c.baroClear := by obtain ⟨-, e, he, rfl⟩ := h; rw [Chip.steady_baroClear, he.baroClear]
theorem Chip.answered.baroLow (h : c.answered d r op st l) : d.baroLow = c.baroLow := by obtain ⟨-, e, he, rfl⟩ := h; rw [Chip.steady_baroLow, he.baroLow]
theorem Chip.answered.baroAt (h : c.answered d r op st l) : d.baroAt = c.baroAt := by obtain ⟨-, e, he, rfl⟩ := h; rw [Chip.steady_baroAt, he.baroAt]
theorem Chip.answered.tbl (h : c.answered d r op st l) : d.tbl = c.tbl := by obtain ⟨-, e, he, rfl⟩ := h; rw [Chip.steady_tbl, he.tbl]
theorem Chip.answered.mgtSpeed (h : c.answered d r op st l) : d.mgtSpeed = c.mgtSpeed := by obtain ⟨-, e, he, rfl⟩ := h; rw [Chip.steady_mgtSpeed, he.mgtSpeed]
theorem Chip.answered.gateP (h : c.answered d r op st l) : d.gateP = c.gateP := by obtain ⟨-, e, he, rfl⟩ := h; rw [Chip.steady_gateP, he.gateP]
theorem Chip.answered.fab (h : c.answered d r op st l) : d.fab = c.fab := by obtain ⟨-, e, he, rfl⟩ := h; rw [Chip.steady_fab, he.fab]
theorem Chip.answered.loops (h : c.answered d r op st l) : d.loops = c.loops := by obtain ⟨-, e, he, rfl⟩ := h; rw [Chip.steady_loops, he.loops]
theorem Chip.answered.opts (h : c.answered d r op st l) : d.opts = c.opts := by obtain ⟨-, e, he, rfl⟩ := h; rw [Chip.steady_opts, he.opts]
theorem Chip.answered.tdc (h : c.answered d r op st l) : d.tdc = c.tdc := by obtain ⟨-, e, he, rfl⟩ := h; rw [Chip.steady_tdc, he.tdc]
theorem Chip.answered.phms (h : c.answered d r op st l) : d.phms = c.phms := by obtain ⟨-, e, he, rfl⟩ := h; rw [Chip.steady_phms, he.phms]
theorem Chip.answered.evis (h : c.answered d r op st l) : d.evis = c.evis := by obtain ⟨-, e, he, rfl⟩ := h; rw [Chip.steady_evis, he.evis]
theorem Chip.answered.ivls (h : c.answered d r op st l) : d.ivls = c.ivls := by obtain ⟨-, e, he, rfl⟩ := h; rw [Chip.steady_ivls, he.ivls]
theorem Chip.answered.evos (h : c.answered d r op st l) : d.evos = c.evos := by obtain ⟨-, e, he, rfl⟩ := h; rw [Chip.steady_evos, he.evos]
theorem Chip.answered.dplls (h : c.answered d r op st l) : d.dplls = c.dplls := by obtain ⟨-, e, he, rfl⟩ := h; rw [Chip.steady_dplls, he.dplls]
theorem Chip.answered.ckos (h : c.answered d r op st l) : d.ckos = c.ckos := by obtain ⟨-, e, he, rfl⟩ := h; rw [Chip.steady_ckos, he.ckos]
theorem Chip.answered.car (h : c.answered d r op st l) : d.car = c.car := by obtain ⟨-, e, he, rfl⟩ := h; rw [Chip.steady_car, he.car]
theorem Chip.answered.drum (h : c.answered d r op st l) : d.drum = c.drum := by obtain ⟨-, e, he, rfl⟩ := h; rw [Chip.steady_drum, he.drum]
theorem Chip.answered.fw (h : c.answered d r op st l) : d.fw = c.fw := by obtain ⟨-, e, he, rfl⟩ := h; rw [Chip.steady_fw, he.fw]
theorem Chip.answered.pwr (h : c.answered d r op st l) : d.pwr = c.pwr := by obtain ⟨-, e, he, rfl⟩ := h; rw [Chip.steady_pwr, he.pwr]

end

end Sys2Proof.Machine
end

