-- ==== Sys2Proof/Laws/Writes.lean ====
section
/-! SUPPORT. Numbers as byte strings and back, and the OBJ_WRITE of an attribute that acts (R168, R199, R217). -/

namespace Sys2Proof.Machine

theorem natOfBytes_cons (x : Byte) (b : Bytes) : natOfBytes (x :: b) = x.toNat * 256 ^ b.length + natOfBytes b := by
  have h : ∀ (b : Bytes) (a : Nat), b.foldl (fun a (x : Byte) => a * 256 + x.toNat) a =
      a * 256 ^ b.length + b.foldl (fun a (x : Byte) => a * 256 + x.toNat) 0 := by
    intro b
    induction b with
    | nil => intro a; simp
    | cons y b ih =>
      intro a
      simp only [List.foldl_cons]
      rw [ih, ih (0 * 256 + y.toNat)]
      simp [Nat.pow_succ]
      ring
  unfold natOfBytes
  simp only [List.foldl_cons]
  rw [h]
  simp

@[simp] theorem bytesOfNat_length (n v : Nat) : (bytesOfNat n v).length = n := by
  induction n with
  | zero => rfl
  | succ n ih => simp [bytesOfNat, ih]

theorem natOfBytes_bytesOfNat (n v : Nat) : natOfBytes (bytesOfNat n v) = v % 2 ^ (8 * n) := by
  induction n with
  | zero => simp [bytesOfNat, natOfBytes, Nat.mod_one]
  | succ n ih =>
    rw [bytesOfNat, natOfBytes_cons, ih, bytesOfNat_length]
    have h : (256 : Nat) ^ n = 2 ^ (8 * n) := by rw [Nat.pow_mul]
    rw [h, BitVec.toNat_ofNat, Nat.shiftRight_eq_div_pow, Nat.mul_succ, Nat.pow_add, Nat.mod_mul (x := v)]
    ring

@[simp] theorem natAt_bytes (n v : Nat) : natAt (bytesOfNat n v) 0 n = v % 2 ^ (8 * n) := by
  unfold natAt sliceBytes
  simp only
  rw [List.drop_zero, List.take_of_length_le (by simp), bytesOfNat_length, Nat.sub_self, List.replicate_zero, List.append_nil, natOfBytes_bytesOfNat]

/-- The definition a well-formed write names is its object's. -/
theorem Chip.parse_resolve {c : Chip} {w : ObjWrite} {a : AttrDef} {i : Nat} {es : List (Nat × Nat × Nat)} (h : c.parseWrite w = .ok (a, i, es)) :
    c.resolve w.obj = some (a, i) := by
  unfold Chip.parseWrite at h
  split at h
  · cases h
  · rename_i hr
    split at h
    · cases h
    · simp only at h
      split at h
      all_goals (split at h <;> simp only [Except.ok.injEq, Prod.mk.injEq, reduceCtorEq] at h; obtain ⟨rfl, rfl, -⟩ := h; exact hr)

theorem Chip.resolve_cls {c : Chip} {o i : Nat} {a : AttrDef} (h : c.resolve o = some (a, i)) (hn : objCls o ≠ Cls.REF) :
    a.cls = objCls o ∧ a.attr = objAttr o := by
  unfold Chip.resolve at h
  simp only at h
  split at h
  · cases h
  · rw [if_neg (fun h => hn h.1), Option.map_eq_some_iff] at h
    obtain ⟨x, hx, he⟩ := h
    cases he
    unfold findAttr at hx
    have := List.find?_some hx
    simp at this
    exact ⟨this.1.1.1.1, this.1.1.1.2⟩

/-- The write of HPI_OFFSET, EVO_REQ or SYN_VREQ, its form in order, does what the attribute does, and is answered. -/
theorem Chip.acting_write {c x : Chip} {r : Req} {w : ObjWrite} {l : List Tlv}
    (hk : (objCls w.obj = Cls.TIME ∧ objAttr w.obj = 0x0B) ∨ (objCls w.obj = Cls.EVT ∧ objAttr w.obj = 0x33) ∨
      (objCls w.obj = Cls.SYN ∧ objAttr w.obj = 0x10))
    (h : c.ready r (.objWrite r [w])) (hf : c.writesFail r [w] = none) (hx : c.actWrite w = (.ok, l, x))
    (hc : c.changeFail x (.objWrite r [w]) = none) : c.doObjWrite r [w] = x.reply r 0x0102 .ok [] := by
  have ha : actsOnly (objCls w.obj) (objAttr w.obj) = true := by
    rcases hk with ⟨h1, h2⟩ | ⟨h1, h2⟩ | ⟨h1, h2⟩ <;> (rw [h1, h2]; rfl)
  have e1 : c.rawWrites [w] = c := by unfold Chip.rawWrites Chip.each; simp [ha]
  have e2 : c.hookWrites c r [w] = c := by
    unfold Chip.hookWrites
    show (match c.parseWrite w with | .error _ => c | .ok (a, i, es) => _) = c
    split
    · rfl
    · rename_i a i es hp
      have hcl := resolve_cls (parse_resolve hp) (by rcases hk with ⟨h1, _⟩ | ⟨h1, _⟩ | ⟨h1, _⟩ <;> (rw [h1]; decide))
      have hw : ∀ (d : Chip) (a1 a2 a3 a4 : Nat), d.writeHook c r a.cls a.attr a1 a2 a3 a4 = d := by
        intro d a1 a2 a3 a4
        unfold Chip.writeHook
        rw [hcl.1, hcl.2]
        rcases hk with ⟨h1, h2⟩ | ⟨h1, h2⟩ | ⟨h1, h2⟩ <;> (rw [h1, h2]; rfl)
      unfold Chip.each
      simp only [hw]
      generalize c = y
      induction es generalizing y with
      | nil => rfl
      | cons z es ih => simp
  have hu : unjournalled [w] = true := by
    unfold unjournalled
    rcases hk with ⟨h1, h2⟩ | ⟨h1, h2⟩ | ⟨h1, h2⟩ <;> simp [h1, h2]
  unfold Chip.doObjWrite
  rw [hf, Chip.change_eq h]
  all_goals simp only [Chip.applyWrites, e1, e2, List.filter, ha, Chip.actWrites, hx, hu]
  · rfl
  · exact hc
  · rfl

/-- No attribute has a field twice. -/
theorem flds_nodup : ∀ a ∈ attrTable, (a.flds.map Fld.id).Nodup := by decide +kernel

/-- An element written: every writable field of it takes its new value, and nothing else changes. -/
theorem Chip.writeElem_rd (c : Chip) (a : AttrDef) (i e v m : Nat) (hn : (a.flds.map Fld.id).Nodup) :
    (∀ F ∈ a.flds, F.acc.writable = true → (c.writeElem a i e v m).rd F i e = fieldNew (c.rd F i e) v m F % 2 ^ F.width) ∧
    (∀ F j f, F.id ∉ a.flds.map Fld.id → (c.writeElem a i e v m).rd F j f = c.rd F j f) ∧ (c.writeElem a i e v m) = { c with regs := (c.writeElem a i e v m).regs } := by
  unfold Chip.writeElem Chip.each
  generalize a.flds = l at *
  induction l generalizing c with
  | nil => exact ⟨by simp, fun _ _ _ _ => rfl, rfl⟩
  | cons G l ih =>
    simp only [List.map_cons, List.nodup_cons] at hn
    have hG : ∀ F ∈ l, F.id ≠ G.id := fun F hF h => hn.1 (h ▸ List.mem_map_of_mem hF)
    by_cases hw : G.acc.writable = true
    · have hfl : (G :: l).filter (fun F => F.acc.writable) = G :: l.filter (fun F => F.acc.writable) := by simp [hw]
      rw [hfl]
      simp only [List.foldl_cons]
      simp only at ih
      obtain ⟨h1, h2, h3⟩ := ih (c.wr G (fieldNew (c.rd G i e) v m G) i e) hn.2
      refine ⟨?_, ?_, ?_⟩
      · intro F hF hFw
        rcases List.mem_cons.1 hF with rfl | hF
        · rw [h2 _ _ _ hn.1, Chip.rd_wr_same]
        · rw [h1 F hF hFw, Chip.rd_wr_id _ _ _ _ _ _ (hG F hF)]
      · intro F j f hF
        simp only [List.map_cons, List.mem_cons, not_or] at hF
        rw [h2 _ _ _ hF.2, Chip.rd_wr_id _ _ _ _ _ _ hF.1]
      · exact h3
    · have hfl : (G :: l).filter (fun F => F.acc.writable) = l.filter (fun F => F.acc.writable) := by simp [hw]
      rw [hfl]
      obtain ⟨h1, h2, h3⟩ := ih c hn.2
      refine ⟨?_, ?_, h3⟩
      · intro F hF hFw
        rcases List.mem_cons.1 hF with rfl | hF
        · exact absurd hFw hw
        · exact h1 F hF hFw
      · intro F j f hF
        simp only [List.map_cons, List.mem_cons, not_or] at hF
        exact h2 _ _ _ hF.2

/-- The definition a well-formed write names is one of the table. -/
theorem Chip.resolve_mem {c : Chip} {o i : Nat} {a : AttrDef} (h : c.resolve o = some (a, i)) (hn : objCls o ≠ Cls.REF) : a ∈ attrTable := by
  unfold Chip.resolve at h
  simp only at h
  split at h
  · cases h
  · rw [if_neg (fun h => hn h.1), Option.map_eq_some_iff] at h
    obtain ⟨x, hx, he⟩ := h
    cases he
    exact List.mem_of_find?_eq_some hx

/-- A write of one element: its fields, what the attribute sets off, its record, its answer. -/
theorem Chip.elem_write {c y : Chip} {r : Req} {w : ObjWrite} {a : AttrDef} {i e v m : Nat} (hn : objCls w.obj ≠ Cls.REF)
    (ha : actsOnly a.cls a.attr = false) (h : c.ready r (.objWrite r [w])) (hf : c.writesFail r [w] = none)
    (hp : c.parseWrite w = .ok (a, i, [(e, v, m)])) (hy : (c.writeElem a i e v m).writeHook c r a.cls a.attr i e v m = y)
    (hc : c.changeFail y (.objWrite r [w]) = none) :
    c.doObjWrite r [w] = (Res.done { chip := y, record := some (1, writesContent [w]) } r 0x0102).reply r 0x0102 .ok [] := by
  have hcl := resolve_cls (parse_resolve hp) hn
  rw [hcl.1, hcl.2] at ha
  have e1 : c.rawWrites [w] = c.writeElem a i e v m := by
    unfold Chip.rawWrites Chip.each
    simp only [List.filter, ha, Bool.not_false, List.foldl_cons, List.foldl_nil]
    unfold Chip.writeRaw
    rw [hp]
    rfl
  have e2 : (c.writeElem a i e v m).hookWrites c r [w] = y := by
    unfold Chip.hookWrites
    show (match c.parseWrite w with | .error _ => c.writeElem a i e v m | .ok (a', i, es) => _) = y
    rw [hp]
    exact hy
  have e3 : (List.filter (fun w => actsOnly (objCls w.obj) (objAttr w.obj)) [w]) = [] := by simp [ha]
  have e4 : unjournalled [w] = false := by
    unfold unjournalled
    unfold actsOnly at ha
    simp only [List.all_cons, List.all_nil, Bool.and_true, Bool.or_eq_false_iff] at *
    exact ⟨⟨ha.1.1.2, ha.1.2⟩, ha.1.1.1⟩
  unfold Chip.doObjWrite
  rw [hf, Chip.change_eq h]
  all_goals simp only [Chip.applyWrites, e1, e2, e3, e4, Chip.actWrites]
  · rfl
  · exact hc
  · rfl

end Sys2Proof.Machine
end

