-- ==== Sys2Proof/Laws/Control.lean ====
section
/-! SUPPORT. Transactions, keys, the pair and the firmware: what their shared operations leave. -/

namespace Sys2Proof.Laws
open Sys2Proof.Machine

theorem endTxn_gone (c : Chip) (t : Txn) (st : TxnState) (id : Nat) (h : t.id = id) : ∀ y ∈ (c.endTxn t st).txns, y.id ≠ id := by
  intro y hy
  unfold Chip.endTxn at hy
  simp only [List.mem_filter, bne_iff_ne] at hy
  rw [← h]
  exact hy.2

theorem answerParked_txns (c : Chip) (id : Nat) (st : Status) (l : List Tlv) : (c.answerParked id st l).txns = c.txns := by
  unfold Chip.answerParked
  split
  · rfl
  · split
    · refine (Chip.reply_reported (own := fun _ => False) _ _ _ _ _ _ _).1.txns.trans ?_
      rfl
    · rfl

/-- What a security command leaves. -/
theorem key_leaves {c : Chip} {r : Req} {i : Instr} {body : Chip → Res} {x : Res} (h1 : c.mayRun r i = true) (h2 : r.txn = 0)
    (h3 : c.on Reg.JRN_STATUS_COMMIT_HOLD = false) (hb : body c = x) (ht : x.chip.time = c.time) :
    x.chip.reported (fun _ => False) (c.keyCommand r i body) ∧ Out.reply r (opOf i) x.status 0 c.tb16 x.tlvs ∈ (c.keyCommand r i body).outs := by
  unfold Chip.keyCommand Chip.finishKey
  rw [if_neg (by simp [h1]), if_neg (by simp [h2]), if_neg (by simp [h3]), hb]
  have h := Chip.replyWith_reported (own := fun _ => False) (x.done r (opOf i)) (c.slotKey r.slot) r (opOf i) x.status 0 x.tlvs r.role.code none
  have hd := x.done_reported (own := fun _ => False) r (opOf i)
  refine ⟨hd.trans h.1, ?_⟩
  have ht2 : (x.done r (opOf i)).tb16 = c.tb16 := by unfold Chip.tb16; rw [hd.time, ht]
  rw [← ht2]
  exact h.2

theorem rollbackAll_none (c : Chip) (slot k : Nat) (h : ∀ y ∈ c.txns, y.req.slot ≠ slot) : c.rollbackAll (some slot) k = c := by
  unfold Chip.rollbackAll
  have hf : (c.txns.filter fun t => match some slot with | none => true | some s => t.req.slot == s) = [] := by
    rw [List.filter_eq_nil_iff]
    intro y hy
    simpa using h y hy
  rw [hf]
  rfl

theorem on_of_flag_regs (c : Chip) {F : Fld} (b : Bool) (h : F.width = 1) (d : Chip) (hd : d.regs = (c.flag F b).regs) : d.on F = b := by
  have : d.on F = (c.flag F b).on F := by unfold Chip.on Chip.rd; rw [hd]
  rw [this]
  exact Chip.on_flag_same _ _ _ _ h

theorem gateNow_no_ports (c : Chip) (h : c.path.ports = []) : c.gateNow = c := by
  unfold Chip.gateNow
  rw [h]
  rfl

theorem setHold_on (c : Chip) (b : Bool) : (c.setHold b).on Reg.TWIN_STATUS_HOLD_OUT = b := by
  unfold Chip.setHold
  split
  · assumption
  · show Chip.on (Chip.flag c Reg.TWIN_STATUS_HOLD_OUT b) _ _ _ = b
    exact Chip.on_flag_same _ _ _ _ rfl

theorem setHold_rd (c : Chip) (b : Bool) (F : Fld) (i e : Nat) (h : F.id ≠ Reg.TWIN_STATUS_HOLD_OUT.id) : (c.setHold b).rd F i e = c.rd F i e := by
  unfold Chip.setHold
  split
  · rfl
  · show Chip.rd (Chip.flag c Reg.TWIN_STATUS_HOLD_OUT b) _ _ _ = _
    exact Chip.rd_wr_id _ _ _ _ _ _ h

theorem setHold_on' (c : Chip) (b : Bool) (F : Fld) (i e : Nat) (h : F.id ≠ Reg.TWIN_STATUS_HOLD_OUT.id) : (c.setHold b).on F i e = c.on F i e := by
  unfold Chip.on; rw [setHold_rd _ _ _ _ _ h]

theorem fence_facts (c : Chip) (h : c.path.ports = []) : c.fenceUnit.steady.rd Reg.TWIN_STATUS_STATE = 6 ∧ c.fenceUnit.steady.on Reg.TWIN_STATUS_HOLD_OUT = false ∧
    c.fenceUnit.steady.on Reg.TWIN_STATUS_FENCE_SEEN = true ∧ c.fenceUnit.steady.twin.egress = false ∧ c.fenceUnit.steady.twin.claim = 0 ∧
    (∀ F : Fld, F.id ∉ reportIds → F.id ∉ steadyIds → F.id ∉ [Reg.TWIN_STATUS_STATE.id, Reg.TWIN_STATUS_HOLD_OUT.id, Reg.TWIN_STATUS_FENCE_SEEN.id] →
      c.fenceUnit.steady.on F = c.on F) := by
  have hg : (c.wr Reg.TWIN_STATUS_STATE 6).gateNow = c.wr Reg.TWIN_STATUS_STATE 6 := gateNow_no_ports _ h
  obtain ⟨d, hd⟩ : ∃ d : Chip, d = { (((c.wr Reg.TWIN_STATUS_STATE 6).setHold false).flag Reg.TWIN_STATUS_FENCE_SEEN true) with
      twin := { (((c.wr Reg.TWIN_STATUS_STATE 6).setHold false).flag Reg.TWIN_STATUS_FENCE_SEEN true).twin with claim := 0, egress := false } } := ⟨_, rfl⟩
  have hf : c.fenceUnit = d.jrnEvent 0 0 := by
    unfold Chip.fenceUnit
    rw [hg, hd]
  have hr := Chip.jrnEvent_reported (own := fun _ => False) d 0 0
  have hrd : ∀ F : Fld, F.id ∉ reportIds → F.id ∉ steadyIds → c.fenceUnit.steady.rd F = (((c.wr Reg.TWIN_STATUS_STATE 6).setHold false).flag Reg.TWIN_STATUS_FENCE_SEEN true).rd F := by
    intro F h1 h2
    rw [Chip.steady_rd _ _ _ _ h2, hf, hr.rd _ _ _ id h1 h2, hd]
    rfl
  have hon : ∀ F : Fld, F.id ∉ reportIds → F.id ∉ steadyIds → c.fenceUnit.steady.on F = (((c.wr Reg.TWIN_STATUS_STATE 6).setHold false).flag Reg.TWIN_STATUS_FENCE_SEEN true).on F := by
    intro F h1 h2
    unfold Chip.on
    rw [hrd F h1 h2]
  refine ⟨?_, ?_, ?_, ?_, ?_, ?_⟩
  · rw [hrd _ (by decide) (by decide), Chip.flag_id _ _ _ _ _ _ _ (by decide), setHold_rd _ _ _ _ _ (by decide), Chip.rd_wr_same]
    rfl
  · rw [hon _ (by decide) (by decide), Chip.on_id _ _ _ _ _ _ _ (by decide)]
    exact setHold_on ..
  · rw [hon _ (by decide) (by decide)]
    exact Chip.on_flag_same _ _ _ _ rfl
  · rw [Chip.steady_twin, hf]
    exact (congrArg (fun x => x.twin.egress) hr.1).trans (by rw [hd])
  · rw [Chip.steady_twin, hf]
    exact (congrArg (fun x => x.twin.claim) hr.1).trans (by rw [hd])
  · intro F h1 h2 h3
    simp only [List.mem_cons, List.not_mem_nil, or_false, not_or] at h3
    rw [hon F h1 h2, Chip.on_id _ _ _ _ _ _ _ h3.2.2, setHold_on' _ _ _ _ _ h3.2.1, Chip.on_wr_id _ _ _ _ _ _ h3.1]

theorem rd_regs {c d : Chip} (h : d.regs = c.regs) (F : Fld) (i e : Nat) : d.rd F i e = c.rd F i e := by unfold Chip.rd; rw [h]

theorem ckSend_fullDue (c : Chip) (k : Nat) (l : List CkRec) : (c.ckSend k l).twin.fullDue = c.twin.fullDue :=
  (congrArg (fun x => x.twin.fullDue) (Chip.ckSend_reported (own := fun _ => False) c k l).1).trans rfl

theorem ckNote_fullDue (c : Chip) (l : List CkRec) : (c.ckNote l).twin.fullDue = c.twin.fullDue := rfl

/-- What a step of the restart leaves as it is. -/
def kept (a b : Chip) : Prop := b.cmdq = a.cmdq ∧ b.parked = a.parked ∧ b.diag = a.diag ∧ b.fw.hand = a.fw.hand ∧ b.fw.flash = a.fw.flash ∧ b.txns = a.txns ∧
  b.on Reg.TWIN_CFG_PAIR_EN = a.on Reg.TWIN_CFG_PAIR_EN

theorem kept.refl (a : Chip) : kept a a := ⟨rfl, rfl, rfl, rfl, rfl, rfl, rfl⟩

theorem kept.trans {a b c : Chip} (h : kept a b) (g : kept b c) : kept a c :=
  ⟨g.1.trans h.1, g.2.1.trans h.2.1, g.2.2.1.trans h.2.2.1, g.2.2.2.1.trans h.2.2.2.1, g.2.2.2.2.1.trans h.2.2.2.2.1, g.2.2.2.2.2.1.trans h.2.2.2.2.2.1, g.2.2.2.2.2.2.trans h.2.2.2.2.2.2⟩

theorem kept.each {α : Type} (l : List α) (f : α → Chip → Chip) (hf : ∀ a c, kept c (f a c)) (c : Chip) : kept c (c.each l f) := by
  unfold Chip.each
  induction l generalizing c with
  | nil => exact .refl _
  | cons a l ih => exact (hf a c).trans (ih _)

theorem kept.wr (c : Chip) (F : Fld) (v i e : Nat) (h : Reg.TWIN_CFG_PAIR_EN.id ≠ F.id) : kept c (c.wr F v i e) :=
  ⟨rfl, rfl, rfl, rfl, rfl, rfl, Chip.on_wr_id _ _ _ _ _ _ h⟩

theorem kept.reported {c d : Chip} (h : c.reported (fun _ => False) d) : kept c d :=
  ⟨h.cmdq, h.parked, h.diag, by rw [h.fw], by rw [h.fw], h.txns, h.on _ _ _ id (by decide) (by decide)⟩

theorem kept.setFw (c : Chip) (t st err : Nat) : kept c (c.setFw t st err) := ⟨rfl, rfl, rfl, rfl, rfl, rfl, rfl⟩

theorem startRecord_reported (c : Chip) (k : Nat) : ∃ d : Chip, d = { c with pwr := { c.pwr with seqLost := false } } ∧ d.reported (fun _ => False) (c.startRecord k) := by
  refine ⟨_, rfl, ?_⟩
  unfold Chip.startRecord
  simp only
  refine Chip.reported.trans ?_ (Chip.jrnAppend_reported ..)
  split
  · exact Chip.reported.wr { c with pwr := { c.pwr with seqLost := false } } Reg.JRN_STATUS_NEXT_SEQ _ _ _ (.inr (by decide))
  · exact .refl _ _

end Sys2Proof.Laws
end

