-- ==== Sys2Proof/Laws/Dispatch.lean ====
section
/-! SUPPORT. What a command can do to the machine: change the block, never the queue. -/

namespace Sys2Proof.Machine

/-- Every meaning is a change of the block. -/
theorem exec_onChip (i : Instr) (s : State) : ∃ f : Chip → Chip, exec i s = onChip f s := by
  cases i with
  | nop r => exact ⟨_, show execNop r s = _ by delta execNop; rfl⟩
  | identify r => exact ⟨_, show execIdentify r s = _ by delta execIdentify; rfl⟩
  | objRead r objs => exact ⟨_, show execObjRead r objs s = _ by delta execObjRead; rfl⟩
  | objWrite r ws => exact ⟨_, show execObjWrite r ws s = _ by delta execObjWrite; rfl⟩
  | objReadBulk r obj last => exact ⟨_, show execObjReadBulk r obj last s = _ by delta execObjReadBulk; rfl⟩
  | txnBegin r => exact ⟨_, show execTxnBegin r s = _ by delta execTxnBegin; rfl⟩
  | txnCommit r mode allowLate domain time => exact ⟨_, show execTxnCommit r mode allowLate domain time s = _ by delta execTxnCommit; rfl⟩
  | txnRollback r => exact ⟨_, show execTxnRollback r s = _ by delta execTxnRollback; rfl⟩
  | txnStatus r => exact ⟨_, show execTxnStatus r s = _ by delta execTxnStatus; rfl⟩
  | tblInsert r tbl entry index => exact ⟨_, show execTblInsert r tbl entry index s = _ by delta execTblInsert; rfl⟩
  | tblDelete r tbl sel => exact ⟨_, show execTblDelete r tbl sel s = _ by delta execTblDelete; rfl⟩
  | tblLookup r tbl sel => exact ⟨_, show execTblLookup r tbl sel s = _ by delta execTblLookup; rfl⟩
  | tblDma r tbl host first count write stamps data => exact ⟨_, show execTblDma r tbl host first count write stamps data s = _ by delta execTblDma; rfl⟩
  | tblBarrier r timeout => exact ⟨_, show execTblBarrier r timeout s = _ by delta execTblBarrier; rfl⟩
  | queueFlush r all n => exact ⟨_, show execQueueFlush r all n s = _ by delta execQueueFlush; rfl⟩
  | timeGet r => exact ⟨_, show execTimeGet r s = _ by delta execTimeGet; rfl⟩
  | timeStep r a => exact ⟨_, show execTimeStep r a s = _ by delta execTimeStep; rfl⟩
  | timeIncr r adjNew duration adjAfter => exact ⟨_, show execTimeIncr r adjNew duration adjAfter s = _ by delta execTimeIncr; rfl⟩
  | refForce r time action ref => exact ⟨_, show execRefForce r time action ref s = _ by delta execRefForce; rfl⟩
  | jumpAccept r id action => exact ⟨_, show execJumpAccept r id action s = _ by delta execJumpAccept; rfl⟩
  | cycLoad r engines src => exact ⟨_, show execCycLoad r engines src s = _ by delta execCycLoad; rfl⟩
  | cycStart r d => exact ⟨_, show execCycStart r d s = _ by delta execCycStart; rfl⟩
  | cycStop r d => exact ⟨_, show execCycStop r d s = _ by delta execCycStop; rfl⟩
  | cycSwap r engines => exact ⟨_, show execCycSwap r engines s = _ by delta execCycSwap; rfl⟩
  | cntSnapshot r => exact ⟨_, show execCntSnapshot r s = _ by delta execCntSnapshot; rfl⟩
  | cntRead r sels => exact ⟨_, show execCntRead r sels s = _ by delta execCntRead; rfl⟩
  | jrnRead r fromSeq count => exact ⟨_, show execJrnRead r fromSeq count s = _ by delta execJrnRead; rfl⟩
  | jrnMark r value blob => exact ⟨_, show execJrnMark r value blob s = _ by delta execJrnMark; rfl⟩
  | twinStatus r => exact ⟨_, show execTwinStatus r s = _ by delta execTwinStatus; rfl⟩
  | twinPromote r lastHb twin => exact ⟨_, show execTwinPromote r lastHb twin s = _ by delta execTwinPromote; rfl⟩
  | twinDemote r => exact ⟨_, show execTwinDemote r s = _ by delta execTwinDemote; rfl⟩
  | twinCheckpoint r cls seq data => exact ⟨_, show execTwinCheckpoint r cls seq data s = _ by delta execTwinCheckpoint; rfl⟩
  | twinHeartbeat r unit => exact ⟨_, show execTwinHeartbeat r unit s = _ by delta execTwinHeartbeat; rfl⟩
  | fabStatus r => exact ⟨_, show execFabStatus r s = _ by delta execFabStatus; rfl⟩
  | fabAssign r dev => exact ⟨_, show execFabAssign r dev s = _ by delta execFabAssign; rfl⟩
  | fabRoute r inPort dev cls => exact ⟨_, show execFabRoute r inPort dev cls s = _ by delta execFabRoute; rfl⟩
  | fwStage r target src => exact ⟨_, show execFwStage r target src s = _ by delta execFwStage; rfl⟩
  | fwWrite r target => exact ⟨_, show execFwWrite r target s = _ by delta execFwWrite; rfl⟩
  | fwActivate r target => exact ⟨_, show execFwActivate r target s = _ by delta execFwActivate; rfl⟩
  | fwStatus r => exact ⟨_, show execFwStatus r s = _ by delta execFwStatus; rfl⟩
  | calRun r cal => exact ⟨_, show execCalRun r cal s = _ by delta execCalRun; rfl⟩
  | calCommit r cal => exact ⟨_, show execCalCommit r cal s = _ by delta execCalCommit; rfl⟩
  | lullCtrl r word => exact ⟨_, show execLullCtrl r word s = _ by delta execLullCtrl; rfl⟩
  | loopback r word => exact ⟨_, show execLoopback r word s = _ by delta execLoopback; rfl⟩
  | diagCapture r word host => exact ⟨_, show execDiagCapture r word host s = _ by delta execDiagCapture; rfl⟩
  | keyInstall r slot role transports key => exact ⟨_, show execKeyInstall r slot role transports key s = _ by delta execKeyInstall; rfl⟩
  | keyRetire r slot role transports => exact ⟨_, show execKeyRetire r slot role transports s = _ by delta execKeyRetire; rfl⟩
  | roleMap r slot role transports => exact ⟨_, show execRoleMap r slot role transports s = _ by delta execRoleMap; rfl⟩
  | cmdPacketRx via idle bytes => exact ⟨_, show execCmdPacketRx via idle bytes s = _ by delta execCmdPacketRx; rfl⟩
  | hifRegWrite off width value => exact ⟨_, show execHifRegWrite off width value s = _ by delta execHifRegWrite; rfl⟩
  | hifCmdTailWrite tail idle reqs => exact ⟨_, show execHifCmdTailWrite tail idle reqs s = _ by delta execHifCmdTailWrite; rfl⟩
  | hifInjTailWrite tail frames => exact ⟨_, show execHifInjTailWrite tail frames s = _ by delta execHifInjTailWrite; rfl⟩
  | injectFrame => exact ⟨_, show execInjectFrame s = _ by delta execInjectFrame; rfl⟩
  | hifRspTailWrite delivery tail rooms => exact ⟨_, show execHifRspTailWrite delivery tail rooms s = _ by delta execHifRspTailWrite; rfl⟩
  | rspRingTimeout => exact ⟨_, show execRspRingTimeout s = _ by delta execRspRingTimeout; rfl⟩
  | hostReset => exact ⟨_, show execHostReset s = _ by delta execHostReset; rfl⟩
  | hifMbxPost n => exact ⟨_, show execHifMbxPost n s = _ by delta execHifMbxPost; rfl⟩
  | mbxCommandTake n => exact ⟨_, show execMbxCommandTake n s = _ by delta execMbxCommandTake; rfl⟩
  | hifMbxAck mask => exact ⟨_, show execHifMbxAck mask s = _ by delta execHifMbxAck; rfl⟩
  | hifEmbxPost e => exact ⟨_, show execHifEmbxPost e s = _ by delta execHifEmbxPost; rfl⟩
  | hifDbSet bits => exact ⟨_, show execHifDbSet bits s = _ by delta execHifDbSet; rfl⟩
  | doorbellCommandStart b => exact ⟨_, show execDoorbellCommandStart b s = _ by delta execDoorbellCommandStart; rfl⟩
  | evoSetLow r n time => exact ⟨_, show execEvoSetLow r n time s = _ by delta execEvoSetLow; rfl⟩
  | evoSetHigh r n time => exact ⟨_, show execEvoSetHigh r n time s = _ by delta execEvoSetHigh; rfl⟩
  | evoToggle r n time => exact ⟨_, show execEvoToggle r n time s = _ by delta execEvoToggle; rfl⟩
  | evoPulse r n time width => exact ⟨_, show execEvoPulse r n time width s = _ by delta execEvoPulse; rfl⟩
  | synVreq r d v => exact ⟨_, show execSynVreq r d v s = _ by delta execSynVreq; rfl⟩
  | hpiOffset r theta => exact ⟨_, show execHpiOffset r theta s = _ by delta execHpiOffset; rfl⟩
  | optRaw r port write dev page off len data resp flat => exact ⟨_, show execOptRaw r port write dev page off len data resp flat s = _ by delta execOptRaw; rfl⟩
  | eviFifo r n => exact ⟨_, show execEviFifo r n s = _ by delta execEviFifo; rfl⟩
  | ivlSamples r n => exact ⟨_, show execIvlSamples r n s = _ by delta execIvlSamples; rfl⟩
  | arbFreezeSet r a => exact ⟨_, show execArbFreezeSet r a s = _ by delta execArbFreezeSet; rfl⟩
  | arbFreezeClear r a reqs => exact ⟨_, show execArbFreezeClear r a reqs s = _ by delta execArbFreezeClear; rfl⟩
  | tblLockSet r t seg => exact ⟨_, show execTblLockSet r t seg s = _ by delta execTblLockSet; rfl⟩
  | tblLockDrained t seg => exact ⟨_, show execTblLockDrained t seg s = _ by delta execTblLockDrained; rfl⟩
  | tblLockRelease r t seg => exact ⟨_, show execTblLockRelease r t seg s = _ by delta execTblLockRelease; rfl⟩
  | lockExpired t seg => exact ⟨_, show execLockExpired t seg s = _ by delta execLockExpired; rfl⟩
  | rxFrameStart port kind bytes edge deskew => exact ⟨_, show execRxFrameStart port kind bytes edge deskew s = _ by delta execRxFrameStart; rfl⟩
  | keyPoint f => exact ⟨_, show execKeyPoint f s = _ by delta execKeyPoint; rfl⟩
  | lookupPoint f taken retry => exact ⟨_, show execLookupPoint f taken retry s = _ by delta execLookupPoint; rfl⟩
  | gatherTap f => exact ⟨_, show execGatherTap f s = _ by delta execGatherTap; rfl⟩
  | rxOversizeCut f => exact ⟨_, show execRxOversizeCut f s = _ by delta execRxOversizeCut; rfl⟩
  | confirmation f codeErr fec fragErr => exact ⟨_, show execConfirmation f codeErr fec fragErr s = _ by delta execConfirmation; rfl⟩
  | pauseExpire port => exact ⟨_, show execPauseExpire port s = _ by delta execPauseExpire; rfl⟩
  | pfcRepeat port => exact ⟨_, show execPfcRepeat port s = _ by delta execPfcRepeat; rfl⟩
  | errorMarkerLateConfirm port => exact ⟨_, show execErrorMarkerLateConfirm port s = _ by delta execErrorMarkerLateConfirm; rfl⟩
  | egressStartOpportunity port unit edge => exact ⟨_, show execEgressStartOpportunity port unit edge s = _ by delta execEgressStartOpportunity; rfl⟩
  | releaseStageArrival q => exact ⟨_, show execReleaseStageArrival q s = _ by delta execReleaseStageArrival; rfl⟩
  | launchSent port b edge => exact ⟨_, show execLaunchSent port b edge s = _ by delta execLaunchSent; rfl⟩
  | txFrameEnd port => exact ⟨_, show execTxFrameEnd port s = _ by delta execTxFrameEnd; rfl⟩
  | shaperWake q => exact ⟨_, show execShaperWake q s = _ by delta execShaperWake; rfl⟩
  | redAvgUpdate => exact ⟨_, show execRedAvgUpdate s = _ by delta execRedAvgUpdate; rfl⟩
  | gateEntryChange port => exact ⟨_, show execGateEntryChange port s = _ by delta execGateEntryChange; rfl⟩
  | gateChangeTime list => exact ⟨_, show execGateChangeTime list s = _ by delta execGateChangeTime; rfl⟩
  | streamGateEntryChange g => exact ⟨_, show execStreamGateEntryChange g s = _ by delta execStreamGateEntryChange; rfl⟩
  | verifyTimer port => exact ⟨_, show execVerifyTimer port s = _ by delta execVerifyTimer; rfl⟩
  | lpiSleepDelay port => exact ⟨_, show execLpiSleepDelay port s = _ by delta execLpiSleepDelay; rfl⟩
  | eidleHoldoffExpire port => exact ⟨_, show execEidleHoldoffExpire port s = _ by delta execEidleHoldoffExpire; rfl⟩
  | eidleWakeDone port => exact ⟨_, show execEidleWakeDone port s = _ by delta execEidleWakeDone; rfl⟩
  | eidleWakeFail port => exact ⟨_, show execEidleWakeFail port s = _ by delta execEidleWakeFail; rfl⟩
  | eidleLldpSend port => exact ⟨_, show execEidleLldpSend port s = _ by delta execEidleLldpSend; rfl⟩
  | eidleReportExpire port => exact ⟨_, show execEidleReportExpire port s = _ by delta execEidleReportExpire; rfl⟩
  | linkStateChange port up an speed => exact ⟨_, show execLinkStateChange port up an speed s = _ by delta execLinkStateChange; rfl⟩
  | optPoll port flags resp => exact ⟨_, show execOptPoll port flags resp s = _ by delta execOptPoll; rfl⟩
  | optStretchTimeout port => exact ⟨_, show execOptStretchTimeout port s = _ by delta execOptStretchTimeout; rfl⟩
  | baroSample counts => exact ⟨_, show execBaroSample counts s = _ by delta execBaroSample; rfl⟩
  | arbPhase a reqs => exact ⟨_, show execArbPhase a reqs s = _ by delta execArbPhase; rfl⟩
  | arbDataPhaseEnd a => exact ⟨_, show execArbDataPhaseEnd a s = _ by delta execArbDataPhaseEnd; rfl⟩
  | arbWdExpired a => exact ⟨_, show execArbWdExpired a s = _ by delta execArbWdExpired; rfl⟩
  | learnRequestApply => exact ⟨_, show execLearnRequestApply s = _ by delta execLearnRequestApply; rfl⟩
  | ageVisit bucket => exact ⟨_, show execAgeVisit bucket s = _ by delta execAgeVisit; rfl⟩
  | seqHistoryReset stream => exact ⟨_, show execSeqHistoryReset stream s = _ by delta execSeqHistoryReset; rfl⟩
  | tblCleanup t => exact ⟨_, show execTblCleanup t s = _ by delta execTblCleanup; rfl⟩
  | tblBarrierDone => exact ⟨_, show execTblBarrierDone s = _ by delta execTblBarrierDone; rfl⟩
  | tblBarrierTimeout n => exact ⟨_, show execTblBarrierTimeout n s = _ by delta execTblBarrierTimeout; rfl⟩
  | timeIncrDurationEnd => exact ⟨_, show execTimeIncrDurationEnd s = _ by delta execTimeIncrDurationEnd; rfl⟩
  | tdcLockChange ch loops => exact ⟨_, show execTdcLockChange ch loops s = _ by delta execTdcLockChange; rfl⟩
  | phmLos m => exact ⟨_, show execPhmLos m s = _ by delta execPhmLos; rfl⟩
  | phmRestart m edge => exact ⟨_, show execPhmRestart m edge s = _ by delta execPhmRestart; rfl⟩
  | evtInEdge n rising hold edge => exact ⟨_, show execEvtInEdge n rising hold edge s = _ by delta execEvtInEdge; rfl⟩
  | ivlPairDecide u => exact ⟨_, show execIvlPairDecide u s = _ by delta execIvlPairDecide; rfl⟩
  | evoEdgePlace n pad => exact ⟨_, show execEvoEdgePlace n pad s = _ by delta execEvoEdgePlace; rfl⟩
  | evoPeriodicPulse n pad => exact ⟨_, show execEvoPeriodicPulse n pad s = _ by delta execEvoPeriodicPulse; rfl⟩
  | ppsOutPulse m pads => exact ⟨_, show execPpsOutPulse m pads s = _ by delta execPpsOutPulse; rfl⟩
  | dpllUpdate d e phases => exact ⟨_, show execDpllUpdate d e phases s = _ by delta execDpllUpdate; rfl⟩
  | dpllFreqCheck d off e => exact ⟨_, show execDpllFreqCheck d off e s = _ by delta execDpllFreqCheck; rfl⟩
  | dpllHopDone d => exact ⟨_, show execDpllHopDone d s = _ by delta execDpllHopDone; rfl⟩
  | rampProfileStart d => exact ⟨_, show execRampProfileStart d s = _ by delta execRampProfileStart; rfl⟩
  | rampHoldExpire d => exact ⟨_, show execRampHoldExpire d s = _ by delta execRampHoldExpire; rfl⟩
  | synTargetStart d => exact ⟨_, show execSynTargetStart d s = _ by delta execSynTargetStart; rfl⟩
  | encQuarterEdge d => exact ⟨_, show execEncQuarterEdge d s = _ by delta execEncQuarterEdge; rfl⟩
  | ckoAlignRestart o edge => exact ⟨_, show execCkoAlignRestart o edge s = _ by delta execCkoAlignRestart; rfl⟩
  | selEvaluate => exact ⟨_, show execSelEvaluate s = _ by delta execSelEvaluate; rfl⟩
  | suppressWindowEnd => exact ⟨_, show execSuppressWindowEnd s = _ by delta execSuppressWindowEnd; rfl⟩
  | refQualify n => exact ⟨_, show execRefQualify n s = _ by delta execRefQualify; rfl⟩
  | refDisqualified n => exact ⟨_, show execRefDisqualified n s = _ by delta execRefDisqualified; rfl⟩
  | refMeasWindow n => exact ⟨_, show execRefMeasWindow n s = _ by delta execRefMeasWindow; rfl⟩
  | selAcqTimeout time => exact ⟨_, show execSelAcqTimeout time s = _ by delta execSelAcqTimeout; rfl⟩
  | hoMaxExpire time => exact ⟨_, show execHoMaxExpire time s = _ by delta execHoMaxExpire; rfl⟩
  | hoHistoryRecord time => exact ⟨_, show execHoHistoryRecord time s = _ by delta execHoHistoryRecord; rfl⟩
  | ptpMsgProcess cls => exact ⟨_, show execPtpMsgProcess cls s = _ by delta execPtpMsgProcess; rfl⟩
  | ptpSyncSend port => exact ⟨_, show execPtpSyncSend port s = _ by delta execPtpSyncSend; rfl⟩
  | ptpAnnounceSend port => exact ⟨_, show execPtpAnnounceSend port s = _ by delta execPtpAnnounceSend; rfl⟩
  | ptpDelayReqSend port => exact ⟨_, show execPtpDelayReqSend port s = _ by delta execPtpDelayReqSend; rfl⟩
  | annTimeout port => exact ⟨_, show execAnnTimeout port s = _ by delta execAnnTimeout; rfl⟩
  | esmcPduRx cls => exact ⟨_, show execEsmcPduRx cls s = _ by delta execEsmcPduRx; rfl⟩
  | qlTimeout port => exact ⟨_, show execQlTimeout port s = _ by delta execQlTimeout; rfl⟩
  | esmcInfoSend port => exact ⟨_, show execEsmcInfoSend port s = _ by delta execEsmcInfoSend; rfl⟩
  | cycTrigger d => exact ⟨_, show execCycTrigger d s = _ by delta execCycTrigger; rfl⟩
  | gatherDeadline d => exact ⟨_, show execGatherDeadline d s = _ by delta execGatherDeadline; rfl⟩
  | engineWaitseqResume e => exact ⟨_, show execEngineWaitseqResume e s = _ by delta execEngineWaitseqResume; rfl⟩
  | engineProgramEnd e => exact ⟨_, show execEngineProgramEnd e s = _ by delta execEngineProgramEnd; rfl⟩
  | fenceOpen d => exact ⟨_, show execFenceOpen d s = _ by delta execFenceOpen; rfl⟩
  | scatterEnqueue sec => exact ⟨_, show execScatterEnqueue sec s = _ by delta execScatterEnqueue; rfl⟩
  | opNop e d => exact ⟨_, show execOpNop e d s = _ by delta execOpNop; rfl⟩
  | opLoad e d => exact ⟨_, show execOpLoad e d s = _ by delta execOpLoad; rfl⟩
  | opStore e d => exact ⟨_, show execOpStore e d s = _ by delta execOpStore; rfl⟩
  | opMovi e d => exact ⟨_, show execOpMovi e d s = _ by delta execOpMovi; rfl⟩
  | opShuf e d => exact ⟨_, show execOpShuf e d s = _ by delta execOpShuf; rfl⟩
  | opGather e d => exact ⟨_, show execOpGather e d s = _ by delta execOpGather; rfl⟩
  | opWaitseq e d => exact ⟨_, show execOpWaitseq e d s = _ by delta execOpWaitseq; rfl⟩
  | opTsub e d => exact ⟨_, show execOpTsub e d s = _ by delta execOpTsub; rfl⟩
  | opRecv e d => exact ⟨_, show execOpRecv e d s = _ by delta execOpRecv; rfl⟩
  | opCntrd e d => exact ⟨_, show execOpCntrd e d s = _ by delta execOpCntrd; rfl⟩
  | opAxflt e d => exact ⟨_, show execOpAxflt e d s = _ by delta execOpAxflt; rfl⟩
  | opAdd e d => exact ⟨_, show execOpAdd e d s = _ by delta execOpAdd; rfl⟩
  | opSub e d => exact ⟨_, show execOpSub e d s = _ by delta execOpSub; rfl⟩
  | opMul e d => exact ⟨_, show execOpMul e d s = _ by delta execOpMul; rfl⟩
  | opMac e d => exact ⟨_, show execOpMac e d s = _ by delta execOpMac; rfl⟩
  | opDiv e d => exact ⟨_, show execOpDiv e d s = _ by delta execOpDiv; rfl⟩
  | opNeg e d => exact ⟨_, show execOpNeg e d s = _ by delta execOpNeg; rfl⟩
  | opAbs e d => exact ⟨_, show execOpAbs e d s = _ by delta execOpAbs; rfl⟩
  | opMin e d => exact ⟨_, show execOpMin e d s = _ by delta execOpMin; rfl⟩
  | opMax e d => exact ⟨_, show execOpMax e d s = _ by delta execOpMax; rfl⟩
  | opClamp e d => exact ⟨_, show execOpClamp e d s = _ by delta execOpClamp; rfl⟩
  | opShift e d => exact ⟨_, show execOpShift e d s = _ by delta execOpShift; rfl⟩
  | opCvt e d => exact ⟨_, show execOpCvt e d s = _ by delta execOpCvt; rfl⟩
  | opSqrt e d => exact ⟨_, show execOpSqrt e d s = _ by delta execOpSqrt; rfl⟩
  | opCmp e d => exact ⟨_, show execOpCmp e d s = _ by delta execOpCmp; rfl⟩
  | opPlog e d => exact ⟨_, show execOpPlog e d s = _ by delta execOpPlog; rfl⟩
  | opVmaster e d => exact ⟨_, show execOpVmaster e d s = _ by delta execOpVmaster; rfl⟩
  | opGear e d => exact ⟨_, show execOpGear e d s = _ by delta execOpGear; rfl⟩
  | opCam e d => exact ⟨_, show execOpCam e d s = _ by delta execOpCam; rfl⟩
  | opRegist e d => exact ⟨_, show execOpRegist e d s = _ by delta execOpRegist; rfl⟩
  | opFilt e d => exact ⟨_, show execOpFilt e d s = _ by delta execOpFilt; rfl⟩
  | opPid e d => exact ⟨_, show execOpPid e d s = _ by delta execOpPid; rfl⟩
  | opField e d => exact ⟨_, show execOpField e d s = _ by delta execOpField; rfl⟩
  | opScatter e d => exact ⟨_, show execOpScatter e d s = _ by delta execOpScatter; rfl⟩
  | opEvtreq e d => exact ⟨_, show execOpEvtreq e d s = _ by delta execOpEvtreq; rfl⟩
  | opVreq e d => exact ⟨_, show execOpVreq e d s = _ by delta execOpVreq; rfl⟩
  | opPost e d => exact ⟨_, show execOpPost e d s = _ by delta execOpPost; rfl⟩
  | opSkip e d => exact ⟨_, show execOpSkip e d s = _ by delta execOpSkip; rfl⟩
  | opEnd e d => exact ⟨_, show execOpEnd e d s = _ by delta execOpEnd; rfl⟩
  | fabHelloSend port => exact ⟨_, show execFabHelloSend port s = _ by delta execFabHelloSend; rfl⟩
  | fabHelloRx port payload => exact ⟨_, show execFabHelloRx port payload s = _ by delta execFabHelloRx; rfl⟩
  | fabHelloTimeout port => exact ⟨_, show execFabHelloTimeout port s = _ by delta execFabHelloTimeout; rfl⟩
  | fabRecordSend => exact ⟨_, show execFabRecordSend s = _ by delta execFabRecordSend; rfl⟩
  | fabRecordRx port payload => exact ⟨_, show execFabRecordRx port payload s = _ by delta execFabRecordRx; rfl⟩
  | fabRecordExpire => exact ⟨_, show execFabRecordExpire s = _ by delta execFabRecordExpire; rfl⟩
  | fabRouteRecompute => exact ⟨_, show execFabRouteRecompute s = _ by delta execFabRouteRecompute; rfl⟩
  | fabCreditSend port => exact ⟨_, show execFabCreditSend port s = _ by delta execFabCreditSend; rfl⟩
  | fabCreditRx port payload => exact ⟨_, show execFabCreditRx port payload s = _ by delta execFabCreditRx; rfl⟩
  | fabCreditWdDrop q => exact ⟨_, show execFabCreditWdDrop q s = _ by delta execFabCreditWdDrop; rfl⟩
  | coalWindowEnd event cls => exact ⟨_, show execCoalWindowEnd event cls s = _ by delta execCoalWindowEnd; rfl⟩
  | twinPresentProbe low => exact ⟨_, show execTwinPresentProbe low s = _ by delta execTwinPresentProbe; rfl⟩
  | twinHoldInEdge => exact ⟨_, show execTwinHoldInEdge s = _ by delta execTwinHoldInEdge; rfl⟩
  | twinHoldReleased => exact ⟨_, show execTwinHoldReleased s = _ by delta execTwinHoldReleased; rfl⟩
  | twinClaimCheck => exact ⟨_, show execTwinClaimCheck s = _ by delta execTwinClaimCheck; rfl⟩
  | holdWdExp => exact ⟨_, show execHoldWdExp s = _ by delta execHoldWdExp; rfl⟩
  | tFenceExpire => exact ⟨_, show execTFenceExpire s = _ by delta execTFenceExpire; rfl⟩
  | thawEgressOpen => exact ⟨_, show execThawEgressOpen s = _ by delta execThawEgressOpen; rfl⟩
  | twinStateSave => exact ⟨_, show execTwinStateSave s = _ by delta execTwinStateSave; rfl⟩
  | takebackStart => exact ⟨_, show execTakebackStart s = _ by delta execTakebackStart; rfl⟩
  | preThawStart => exact ⟨_, show execPreThawStart s = _ by delta execPreThawStart; rfl⟩
  | txnIdleTimeout id => exact ⟨_, show execTxnIdleTimeout id s = _ by delta execTxnIdleTimeout; rfl⟩
  | txnScopeAcquired w => exact ⟨_, show execTxnScopeAcquired w s = _ by delta execTxnScopeAcquired; rfl⟩
  | txnLockWaitTimeout w => exact ⟨_, show execTxnLockWaitTimeout w s = _ by delta execTxnLockWaitTimeout; rfl⟩
  | txnPrepareDone id => exact ⟨_, show execTxnPrepareDone id s = _ by delta execTxnPrepareDone; rfl⟩
  | txnCommitPoint id => exact ⟨_, show execTxnCommitPoint id s = _ by delta execTxnCommitPoint; rfl⟩
  | jrnSpill ok => exact ⟨_, show execJrnSpill ok s = _ by delta execJrnSpill; rfl⟩
  | fwSwitchover => exact ⟨_, show execFwSwitchover s = _ by delta execFwSwitchover; rfl⟩
  | fwHandoverConfirm => exact ⟨_, show execFwHandoverConfirm s = _ by delta execFwHandoverConfirm; rfl⟩
  | fwHandoverRevert => exact ⟨_, show execFwHandoverRevert s = _ by delta execFwHandoverRevert; rfl⟩
  | fwRestart => exact ⟨_, show execFwRestart s = _ by delta execFwRestart; rfl⟩
  | mgmtWatchdogExpire => exact ⟨_, show execMgmtWatchdogExpire s = _ by delta execMgmtWatchdogExpire; rfl⟩
  | resetRelease ka ok => exact ⟨_, show execResetRelease ka ok s = _ by delta execResetRelease; rfl⟩
  | resetAssert => exact ⟨_, show execResetAssert s = _ by delta execResetAssert; rfl⟩
  | powerFail => exact ⟨_, show execPowerFail s = _ by delta execPowerFail; rfl⟩
  | vbakLost => exact ⟨_, show execVbakLost s = _ by delta execVbakLost; rfl⟩
  | xtalFail => exact ⟨_, show execXtalFail s = _ by delta execXtalFail; rfl⟩
  | kaTimeSet => exact ⟨_, show execKaTimeSet s = _ by delta execKaTimeSet; rfl⟩
  | thermSample n t => exact ⟨_, show execThermSample n t s = _ by delta execThermSample; rfl⟩
  | calRunDone ms => exact ⟨_, show execCalRunDone ms s = _ by delta execCalRunDone; rfl⟩
  | lullCellTest cell pass => exact ⟨_, show execLullCellTest cell pass s = _ by delta execLullCellTest; rfl⟩
  | lullScrub t index e => exact ⟨_, show execLullScrub t index e s = _ by delta execLullScrub; rfl⟩
  | lullTdcPulse ch dev => exact ⟨_, show execLullTdcPulse ch dev s = _ by delta execLullTdcPulse; rfl⟩
  | lullEngineTest e pass => exact ⟨_, show execLullEngineTest e pass s = _ by delta execLullEngineTest; rfl⟩
  | timebaseTick n => exact ⟨_, show execTimebaseTick n s = _ by delta execTimebaseTick; rfl⟩
  | phmSample m seen => exact ⟨_, show execPhmSample m seen s = _ by delta execPhmSample; rfl⟩
  | lpiRx port low => exact ⟨_, show execLpiRx port low s = _ by delta execLpiRx; rfl⟩
  | eidleRxEntry port => exact ⟨_, show execEidleRxEntry port s = _ by delta execEidleRxEntry; rfl⟩
  | eidleRxWake port => exact ⟨_, show execEidleRxWake port s = _ by delta execEidleRxWake; rfl⟩
  | trappedFrameHandle cls idle => exact ⟨_, show execTrappedFrameHandle cls idle s = _ by delta execTrappedFrameHandle; rfl⟩
  | fwWriteDone target ok => exact ⟨_, show execFwWriteDone target ok s = _ by delta execFwWriteDone; rfl⟩
  | tblDmaDone n data => exact ⟨_, show execTblDmaDone n data s = _ by delta execTblDmaDone; rfl⟩
  | diagCaptureDone sensed => exact ⟨_, show execDiagCaptureDone sensed s = _ by delta execDiagCaptureDone; rfl⟩
  | imageFetchDone n data => exact ⟨_, show execImageFetchDone n data s = _ by delta execImageFetchDone; rfl⟩
  | ckptLagExceeded => exact ⟨_, show execCkptLagExceeded s = _ by delta execCkptLagExceeded; rfl⟩
  | checkpointSend => exact ⟨_, show execCheckpointSend s = _ by delta execCheckpointSend; rfl⟩
  | factoryTestAccessOpen => exact ⟨_, show execFactoryTestAccessOpen s = _ by delta execFactoryTestAccessOpen; rfl⟩

end Sys2Proof.Machine
end

