-- ==== Sys2Proof/Laws/Update.lean ====
section
/-! SUPPORT. The parts of the block that a named update leaves and what it makes of its own part: one lemma each. -/

namespace Sys2Proof.Machine

theorem Chip.rdS_wr_id (c : Chip) {F G : Fld} (v i e j f : Nat) (h : F.id ≠ G.id) : (c.wr G v j f).rdS F i e = c.rdS F i e := by
  unfold Chip.rdS
  rw [Chip.rd_wr_id _ _ _ _ _ _ h]

theorem Chip.rd_flag_id (c : Chip) {F G : Fld} (b : Bool) (i e j f : Nat) (h : F.id ≠ G.id) : (c.flag G b j f).rd F i e = c.rd F i e :=
  Chip.rd_wr_id _ _ _ _ _ _ h

theorem Chip.rdS_flag_id (c : Chip) {F G : Fld} (b : Bool) (i e j f : Nat) (h : F.id ≠ G.id) : (c.flag G b j f).rdS F i e = c.rdS F i e :=
  Chip.rdS_wr_id _ _ _ _ _ _ h

@[simp] theorem Chip.updEvi_same (c : Chip) (n : Nat) (f : Evi → Evi) : SMap.get (c.updEvi n f).evis n = f (SMap.get c.evis n) := SMap.get_upd_same _ _ _

theorem Chip.updEvi_ne (c : Chip) {n m : Nat} (f : Evi → Evi) (h : m ≠ n) : SMap.get (c.updEvi n f).evis m = SMap.get c.evis m := SMap.get_upd_ne _ _ h

@[simp] theorem Chip.updEvi_rd (c : Chip) (n : Nat) (f : Evi → Evi) (F : Fld) (i e : Nat) : (c.updEvi n f).rd F i e = c.rd F i e := rfl

@[simp] theorem Chip.updEvi_rdS (c : Chip) (n : Nat) (f : Evi → Evi) (F : Fld) (i e : Nat) : (c.updEvi n f).rdS F i e = c.rdS F i e := rfl

@[simp] theorem Chip.updEvi_on (c : Chip) (n : Nat) (f : Evi → Evi) (F : Fld) (i e : Nat) : (c.updEvi n f).on F i e = c.on F i e := rfl

@[simp] theorem Chip.wr_evi (c : Chip) (F : Fld) (v i e : Nat) : (c.wr F v i e).evis = c.evis := rfl

@[simp] theorem Chip.updIvl_same (c : Chip) (n : Nat) (f : Ivl → Ivl) : SMap.get (c.updIvl n f).ivls n = f (SMap.get c.ivls n) := SMap.get_upd_same _ _ _

theorem Chip.updIvl_ne (c : Chip) {n m : Nat} (f : Ivl → Ivl) (h : m ≠ n) : SMap.get (c.updIvl n f).ivls m = SMap.get c.ivls m := SMap.get_upd_ne _ _ h

@[simp] theorem Chip.updIvl_rd (c : Chip) (n : Nat) (f : Ivl → Ivl) (F : Fld) (i e : Nat) : (c.updIvl n f).rd F i e = c.rd F i e := rfl

@[simp] theorem Chip.updIvl_rdS (c : Chip) (n : Nat) (f : Ivl → Ivl) (F : Fld) (i e : Nat) : (c.updIvl n f).rdS F i e = c.rdS F i e := rfl

@[simp] theorem Chip.updIvl_on (c : Chip) (n : Nat) (f : Ivl → Ivl) (F : Fld) (i e : Nat) : (c.updIvl n f).on F i e = c.on F i e := rfl

@[simp] theorem Chip.wr_ivl (c : Chip) (F : Fld) (v i e : Nat) : (c.wr F v i e).ivls = c.ivls := rfl

@[simp] theorem Chip.updEvo_same (c : Chip) (n : Nat) (f : Evo → Evo) : SMap.get (c.updEvo n f).evos n = f (SMap.get c.evos n) := SMap.get_upd_same _ _ _

theorem Chip.updEvo_ne (c : Chip) {n m : Nat} (f : Evo → Evo) (h : m ≠ n) : SMap.get (c.updEvo n f).evos m = SMap.get c.evos m := SMap.get_upd_ne _ _ h

@[simp] theorem Chip.updEvo_rd (c : Chip) (n : Nat) (f : Evo → Evo) (F : Fld) (i e : Nat) : (c.updEvo n f).rd F i e = c.rd F i e := rfl

@[simp] theorem Chip.updEvo_rdS (c : Chip) (n : Nat) (f : Evo → Evo) (F : Fld) (i e : Nat) : (c.updEvo n f).rdS F i e = c.rdS F i e := rfl

@[simp] theorem Chip.updEvo_on (c : Chip) (n : Nat) (f : Evo → Evo) (F : Fld) (i e : Nat) : (c.updEvo n f).on F i e = c.on F i e := rfl

@[simp] theorem Chip.wr_evo (c : Chip) (F : Fld) (v i e : Nat) : (c.wr F v i e).evos = c.evos := rfl

@[simp] theorem Chip.updDpll_same (c : Chip) (n : Nat) (f : Dpll → Dpll) : SMap.get (c.updDpll n f).dplls n = f (SMap.get c.dplls n) := SMap.get_upd_same _ _ _

theorem Chip.updDpll_ne (c : Chip) {n m : Nat} (f : Dpll → Dpll) (h : m ≠ n) : SMap.get (c.updDpll n f).dplls m = SMap.get c.dplls m := SMap.get_upd_ne _ _ h

@[simp] theorem Chip.updDpll_rd (c : Chip) (n : Nat) (f : Dpll → Dpll) (F : Fld) (i e : Nat) : (c.updDpll n f).rd F i e = c.rd F i e := rfl

@[simp] theorem Chip.updDpll_rdS (c : Chip) (n : Nat) (f : Dpll → Dpll) (F : Fld) (i e : Nat) : (c.updDpll n f).rdS F i e = c.rdS F i e := rfl

@[simp] theorem Chip.updDpll_on (c : Chip) (n : Nat) (f : Dpll → Dpll) (F : Fld) (i e : Nat) : (c.updDpll n f).on F i e = c.on F i e := rfl

@[simp] theorem Chip.wr_dpll (c : Chip) (F : Fld) (v i e : Nat) : (c.wr F v i e).dplls = c.dplls := rfl

@[simp] theorem Chip.updArb_same (c : Chip) (n : Nat) (f : Arb → Arb) : SMap.get (c.updArb n f).arbs n = f (SMap.get c.arbs n) := SMap.get_upd_same _ _ _

theorem Chip.updArb_ne (c : Chip) {n m : Nat} (f : Arb → Arb) (h : m ≠ n) : SMap.get (c.updArb n f).arbs m = SMap.get c.arbs m := SMap.get_upd_ne _ _ h

@[simp] theorem Chip.updArb_rd (c : Chip) (n : Nat) (f : Arb → Arb) (F : Fld) (i e : Nat) : (c.updArb n f).rd F i e = c.rd F i e := rfl

@[simp] theorem Chip.updArb_rdS (c : Chip) (n : Nat) (f : Arb → Arb) (F : Fld) (i e : Nat) : (c.updArb n f).rdS F i e = c.rdS F i e := rfl

@[simp] theorem Chip.updArb_on (c : Chip) (n : Nat) (f : Arb → Arb) (F : Fld) (i e : Nat) : (c.updArb n f).on F i e = c.on F i e := rfl

@[simp] theorem Chip.wr_arb (c : Chip) (F : Fld) (v i e : Nat) : (c.wr F v i e).arbs = c.arbs := rfl

@[simp] theorem Chip.updRef_same (c : Chip) (n : Nat) (f : Ref → Ref) : SMap.get (c.updRef n f).car.refs n = f (SMap.get c.car.refs n) := SMap.get_upd_same _ _ _

theorem Chip.updRef_ne (c : Chip) {n m : Nat} (f : Ref → Ref) (h : m ≠ n) : SMap.get (c.updRef n f).car.refs m = SMap.get c.car.refs m := SMap.get_upd_ne _ _ h

@[simp] theorem Chip.updRef_rd (c : Chip) (n : Nat) (f : Ref → Ref) (F : Fld) (i e : Nat) : (c.updRef n f).rd F i e = c.rd F i e := rfl

@[simp] theorem Chip.updRef_rdS (c : Chip) (n : Nat) (f : Ref → Ref) (F : Fld) (i e : Nat) : (c.updRef n f).rdS F i e = c.rdS F i e := rfl

@[simp] theorem Chip.updRef_on (c : Chip) (n : Nat) (f : Ref → Ref) (F : Fld) (i e : Nat) : (c.updRef n f).on F i e = c.on F i e := rfl

@[simp] theorem Chip.wr_ref (c : Chip) (F : Fld) (v i e : Nat) : (c.wr F v i e).car.refs = c.car.refs := rfl

@[simp] theorem Chip.updSel_same (c : Chip) (n : Nat) (f : Sel → Sel) : SMap.get (c.updSel n f).car.sels n = f (SMap.get c.car.sels n) := SMap.get_upd_same _ _ _

theorem Chip.updSel_ne (c : Chip) {n m : Nat} (f : Sel → Sel) (h : m ≠ n) : SMap.get (c.updSel n f).car.sels m = SMap.get c.car.sels m := SMap.get_upd_ne _ _ h

@[simp] theorem Chip.updSel_rd (c : Chip) (n : Nat) (f : Sel → Sel) (F : Fld) (i e : Nat) : (c.updSel n f).rd F i e = c.rd F i e := rfl

@[simp] theorem Chip.updSel_rdS (c : Chip) (n : Nat) (f : Sel → Sel) (F : Fld) (i e : Nat) : (c.updSel n f).rdS F i e = c.rdS F i e := rfl

@[simp] theorem Chip.updSel_on (c : Chip) (n : Nat) (f : Sel → Sel) (F : Fld) (i e : Nat) : (c.updSel n f).on F i e = c.on F i e := rfl

@[simp] theorem Chip.wr_sel (c : Chip) (F : Fld) (v i e : Nat) : (c.wr F v i e).car.sels = c.car.sels := rfl

@[simp] theorem Chip.updPtp_same (c : Chip) (n : Nat) (f : PtpPort → PtpPort) : SMap.get (c.updPtp n f).car.ports n = f (SMap.get c.car.ports n) := SMap.get_upd_same _ _ _

theorem Chip.updPtp_ne (c : Chip) {n m : Nat} (f : PtpPort → PtpPort) (h : m ≠ n) : SMap.get (c.updPtp n f).car.ports m = SMap.get c.car.ports m := SMap.get_upd_ne _ _ h

@[simp] theorem Chip.updPtp_rd (c : Chip) (n : Nat) (f : PtpPort → PtpPort) (F : Fld) (i e : Nat) : (c.updPtp n f).rd F i e = c.rd F i e := rfl

@[simp] theorem Chip.updPtp_rdS (c : Chip) (n : Nat) (f : PtpPort → PtpPort) (F : Fld) (i e : Nat) : (c.updPtp n f).rdS F i e = c.rdS F i e := rfl

@[simp] theorem Chip.updPtp_on (c : Chip) (n : Nat) (f : PtpPort → PtpPort) (F : Fld) (i e : Nat) : (c.updPtp n f).on F i e = c.on F i e := rfl

@[simp] theorem Chip.wr_ptp (c : Chip) (F : Fld) (v i e : Nat) : (c.wr F v i e).car.ports = c.car.ports := rfl

@[simp] theorem Chip.updEsmc_same (c : Chip) (n : Nat) (f : Esmc → Esmc) : SMap.get (c.updEsmc n f).car.esmc n = f (SMap.get c.car.esmc n) := SMap.get_upd_same _ _ _

theorem Chip.updEsmc_ne (c : Chip) {n m : Nat} (f : Esmc → Esmc) (h : m ≠ n) : SMap.get (c.updEsmc n f).car.esmc m = SMap.get c.car.esmc m := SMap.get_upd_ne _ _ h

@[simp] theorem Chip.updEsmc_rd (c : Chip) (n : Nat) (f : Esmc → Esmc) (F : Fld) (i e : Nat) : (c.updEsmc n f).rd F i e = c.rd F i e := rfl

@[simp] theorem Chip.updEsmc_rdS (c : Chip) (n : Nat) (f : Esmc → Esmc) (F : Fld) (i e : Nat) : (c.updEsmc n f).rdS F i e = c.rdS F i e := rfl

@[simp] theorem Chip.updEsmc_on (c : Chip) (n : Nat) (f : Esmc → Esmc) (F : Fld) (i e : Nat) : (c.updEsmc n f).on F i e = c.on F i e := rfl

@[simp] theorem Chip.wr_esmc (c : Chip) (F : Fld) (v i e : Nat) : (c.wr F v i e).car.esmc = c.car.esmc := rfl

@[simp] theorem Chip.updDom_same (c : Chip) (n : Nat) (f : Dom → Dom) : SMap.get (c.updDom n f).drum.dom n = f (SMap.get c.drum.dom n) := SMap.get_upd_same _ _ _

theorem Chip.updDom_ne (c : Chip) {n m : Nat} (f : Dom → Dom) (h : m ≠ n) : SMap.get (c.updDom n f).drum.dom m = SMap.get c.drum.dom m := SMap.get_upd_ne _ _ h

@[simp] theorem Chip.updDom_rd (c : Chip) (n : Nat) (f : Dom → Dom) (F : Fld) (i e : Nat) : (c.updDom n f).rd F i e = c.rd F i e := rfl

@[simp] theorem Chip.updDom_rdS (c : Chip) (n : Nat) (f : Dom → Dom) (F : Fld) (i e : Nat) : (c.updDom n f).rdS F i e = c.rdS F i e := rfl

@[simp] theorem Chip.updDom_on (c : Chip) (n : Nat) (f : Dom → Dom) (F : Fld) (i e : Nat) : (c.updDom n f).on F i e = c.on F i e := rfl

@[simp] theorem Chip.wr_dom (c : Chip) (F : Fld) (v i e : Nat) : (c.wr F v i e).drum.dom = c.drum.dom := rfl

@[simp] theorem Chip.updPort_same (c : Chip) (n : Nat) (f : PortSt → PortSt) : SMap.get (c.updPort n f).path.ports n = f (SMap.get c.path.ports n) := SMap.get_upd_same _ _ _

theorem Chip.updPort_ne (c : Chip) {n m : Nat} (f : PortSt → PortSt) (h : m ≠ n) : SMap.get (c.updPort n f).path.ports m = SMap.get c.path.ports m := SMap.get_upd_ne _ _ h

@[simp] theorem Chip.updPort_rd (c : Chip) (n : Nat) (f : PortSt → PortSt) (F : Fld) (i e : Nat) : (c.updPort n f).rd F i e = c.rd F i e := rfl

@[simp] theorem Chip.updPort_rdS (c : Chip) (n : Nat) (f : PortSt → PortSt) (F : Fld) (i e : Nat) : (c.updPort n f).rdS F i e = c.rdS F i e := rfl

@[simp] theorem Chip.updPort_on (c : Chip) (n : Nat) (f : PortSt → PortSt) (F : Fld) (i e : Nat) : (c.updPort n f).on F i e = c.on F i e := rfl

@[simp] theorem Chip.wr_port (c : Chip) (F : Fld) (v i e : Nat) : (c.wr F v i e).path.ports = c.path.ports := rfl

@[simp] theorem Chip.updHello_same (c : Chip) (n : Nat) (f : Hello → Hello) : SMap.get (c.updHello n f).fab.hello n = f (SMap.get c.fab.hello n) := SMap.get_upd_same _ _ _

theorem Chip.updHello_ne (c : Chip) {n m : Nat} (f : Hello → Hello) (h : m ≠ n) : SMap.get (c.updHello n f).fab.hello m = SMap.get c.fab.hello m := SMap.get_upd_ne _ _ h

@[simp] theorem Chip.updHello_rd (c : Chip) (n : Nat) (f : Hello → Hello) (F : Fld) (i e : Nat) : (c.updHello n f).rd F i e = c.rd F i e := rfl

@[simp] theorem Chip.updHello_rdS (c : Chip) (n : Nat) (f : Hello → Hello) (F : Fld) (i e : Nat) : (c.updHello n f).rdS F i e = c.rdS F i e := rfl

@[simp] theorem Chip.updHello_on (c : Chip) (n : Nat) (f : Hello → Hello) (F : Fld) (i e : Nat) : (c.updHello n f).on F i e = c.on F i e := rfl

@[simp] theorem Chip.wr_hello (c : Chip) (F : Fld) (v i e : Nat) : (c.wr F v i e).fab.hello = c.fab.hello := rfl

end Sys2Proof.Machine
end

