-- ==== Sys2Proof/Laws/Edges.lean ====
section
/-! SUPPORT. Ports, gate lists, monitors, loops, outputs and references: what their shared operations leave. -/

namespace Sys2Proof.Laws
open Sys2Proof.Machine

theorem lpShow_port (c : Chip) (p n : Nat) : (c.lpShow p).portSt n = c.portSt n := by
  unfold Chip.lpShow
  split <;> rfl

theorem lpShow_outs (c : Chip) (p : Nat) : (c.lpShow p).outs = c.outs := by
  unfold Chip.lpShow
  split <;> rfl

theorem lpShow_lp (c : Chip) (p : Fin 512) : (c.lpShow p).rd Reg.PORT_STATUS_LP_STATE p =
    (if (c.portSt p).lpTx = 4 then 4 else if (c.portSt p).lpTx = 5 ∨ (c.portSt p).lpTx = 6 then 5 else if (c.portSt p).lpTx = 1 then (if (c.portSt p).lpRx = 2 then 3 else 1)
      else if (c.portSt p).lpRx = 2 then 2 else 0) := by
  unfold Chip.lpShow
  simp only
  rw [if_pos p.isLt, Chip.rd_wr_same]
  refine Nat.mod_eq_of_lt ?_
  show _ < 8
  repeat' split
  all_goals omega

theorem updPort_port (c : Chip) (p : Nat) (f : PortSt → PortSt) : (c.updPort p f).portSt p = f (c.portSt p) := Chip.updPort_same c p f

theorem steady_portSt (c : Chip) (p : Nat) : c.steady.portSt p = c.portSt p := by
  unfold Chip.portSt
  rw [Chip.steady_path]

theorem each_rd (l : List Nat) (f : Nat → Chip → Chip) (F : Fld) (i e : Nat) (hf : ∀ n c, (f n c).rd F i e = c.rd F i e) (c : Chip) : (c.each l f).rd F i e = c.rd F i e := by
  induction l generalizing c with
  | nil => rfl
  | cons a l ih => exact (ih _).trans (hf a c)

theorem gateStatus_rd (c : Chip) (l : Nat) (F : Fld) (i e : Nat) (h1 : F.id ≠ Reg.GATE_STATUS_OPER_STATES.id) (h2 : F.id ≠ Reg.GATE_STATUS_ENTRY.id) (hl : l < 1024) :
    (c.gateStatus l).rd F i e = c.rd F i e := by
  unfold Chip.gateStatus
  simp only
  rw [if_pos hl, Chip.rd_wr_id _ _ _ _ _ _ h2, Chip.rd_wr_id _ _ _ _ _ _ h1]

theorem phmRegs_ids : ∀ m : Nat, (phmRegs m).los.id ∉ steadyIds ∧ (phmRegs m).losSeen.id ∉ steadyIds ∧ (phmRegs m).los.id ≠ (phmRegs m).losSeen.id ∧
    (phmRegs m).los.width = 1 ∧ (phmRegs m).losSeen.width = 1 := by
  intro m
  unfold phmRegs
  split
  · exact ⟨(by decide : Reg.PHM_STATUS_LOS.id ∉ steadyIds), (by decide : Reg.PHM_STATUS_LOS_SEEN.id ∉ steadyIds), (by decide : Reg.PHM_STATUS_LOS.id ≠ Reg.PHM_STATUS_LOS_SEEN.id), rfl, rfl⟩
  · exact ⟨(by decide : Reg.RPHM_STATUS_LOS.id ∉ steadyIds), (by decide : Reg.RPHM_STATUS_LOS_SEEN.id ∉ steadyIds), (by decide : Reg.RPHM_STATUS_LOS.id ≠ Reg.RPHM_STATUS_LOS_SEEN.id), rfl, rfl⟩

theorem notify_clear (c : Chip) (ev cls inst attr : Nat) (q : Option (Nat × Nat)) : (c.notify ev cls inst attr q).baroClear = c.baroClear :=
  (Chip.notify_reported (own := fun _ => False) ..).baroClear

theorem notify_slow (c : Chip) (ev cls inst attr : Nat) (q : Option (Nat × Nat)) : (c.notify ev cls inst attr q).on Reg.BARO_STATUS_CORE_SLOW = c.on Reg.BARO_STATUS_CORE_SLOW :=
  Chip.notify_on _ _ _ _ _ _ _ _ _ (by decide) (by decide)

theorem flag_slow (c : Chip) (F : Fld) (b : Bool) (h : Reg.BARO_STATUS_CORE_SLOW.id ≠ F.id) : (c.flag F b).on Reg.BARO_STATUS_CORE_SLOW = c.on Reg.BARO_STATUS_CORE_SLOW :=
  Chip.on_id _ _ _ _ _ _ _ h

theorem showGrid_phms (c : Chip) (m : Nat) (e : Int) : (c.showGrid m e).phms = c.phms := by
  unfold Chip.showGrid
  simp only
  split <;> rfl

theorem phmFirst_monitor (c : Chip) (m : Nat) (x : Fine) : SMap.get (c.phmFirst m x).phms m =
    { live := true, c0 := c.edgeCont (phmChannel m) x, g0 := c.gridTime (phmChannel m) x, got := 1, seenAt := c.now,
      stampC := (SMap.get c.phms m).stampC } := by
  unfold Chip.phmFirst
  simp only
  rw [showGrid_phms]
  have h : ∀ (p : Phm) (y : Chip), y.phms = SMap.set c.phms m p → SMap.get y.phms m = p := fun p y h => by rw [h, SMap.get_set_same]
  exact h _ _ rfl

theorem baroLow_on (c : Chip) (b : Bool) : ({ c with baroLow := b } : Chip).on Reg.BARO_STATUS_CORE_SLOW = c.on Reg.BARO_STATUS_CORE_SLOW := rfl

theorem range_one : List.range 1 = [0] := rfl

theorem ticks_once (c : Chip) (h : ¬(c.pwr.low = true ∨ c.pwr.failed = true)) : c.ticks 1 = c.tick := by
  unfold Chip.ticks
  rw [if_neg h, range_one]
  unfold Chip.each
  rw [List.foldl_cons, List.foldl_nil]

theorem tickAdd_without_duration (c : Chip) (h : c.time.durOn = false) : c.tickAdd = c.addIncr.incMod Reg.TICKS := by
  have e : ∀ y : Chip, y.time.durOn = false →
      ({ y with time := { y.time with durLeft := if y.time.durOn then y.time.durLeft - 1 else y.time.durLeft } } : Chip).endDuration = y := by
    intro y hy
    have e1 : ({ y with time := { y.time with durLeft := if y.time.durOn then y.time.durLeft - 1 else y.time.durLeft } } : Chip) = y := by
      rw [hy, if_neg (by decide)]
    rw [e1]
    unfold Chip.endDuration
    rw [hy]
    rfl
  exact e _ h

theorem tick_without_steps (c x : Chip) (hx : (c.addIncr).incMod Reg.TICKS = x) (hs : c.time.steps = []) (hd : c.time.durOn = false) :
    c.tick = ((((x.synTick).carTick).restStep).shelfDue).thawHeld := by
  have h1 : x.time.steps = [] := by rw [← hx]; exact hs
  unfold Chip.tick
  rw [tickAdd_without_duration c hd, hx]
  simp only [h1]

theorem showAligned_rd (c : Chip) (o i e : Nat) (F : Fld) (h : F.id ≠ Reg.CKO_STATUS_ALIGNED.id) : (c.showAligned o).rd F i e = c.rd F i e := by
  unfold Chip.showAligned
  exact Chip.rd_flag_id _ _ _ _ _ _ h

theorem showWave_rd (c : Chip) (o i e : Nat) (F : Fld) : (c.showWave o).rd F i e = c.rd F i e := by
  unfold Chip.showWave
  simp only
  repeat' split
  all_goals rfl

theorem showWave_dplls (c : Chip) (o : Nat) : (c.showWave o).dplls = c.dplls := by
  unfold Chip.showWave
  simp only
  repeat' split
  all_goals rfl

theorem showCko_rd (c : Chip) (o i e : Nat) (F : Fld) (h1 : F.id ≠ Reg.CKO_STATUS_ALIGNED.id) (h2 : F.id ≠ Reg.CKO_STATUS_RUNNING.id)
    (h3 : F.id ≠ Reg.CKO_STATUS_MUTED.id) : (c.showCko o).rd F i e = c.rd F i e := by
  unfold Chip.showCko
  simp only
  rw [showAligned_rd _ _ _ _ _ h1, showWave_rd, Chip.rd_flag_id _ _ _ _ _ _ h3, Chip.rd_flag_id _ _ _ _ _ _ h2]
  rfl

theorem showCko_dplls (c : Chip) (o : Nat) : (c.showCko o).dplls = c.dplls :=
  (showWave_dplls _ o).trans rfl

theorem each_keep {α β : Type} (g : Chip → β) (f : α → Chip → Chip) (h : ∀ a c, g (f a c) = g c) : ∀ (l : List α) (c : Chip), g (c.each l f) = g c
  | [], _ => rfl
  | a :: l, c => (each_keep g f h l (f a c)).trans (h a c)

theorem showOutputs_dplls (c : Chip) (d : Nat) : (c.showOutputs d).dplls = c.dplls := by
  unfold Chip.showOutputs
  refine each_keep (·.dplls) _ (fun a c => ?_) _ _
  show (if c.ckoLoop a = d then c.showCko a else c).dplls = c.dplls
  split
  · exact showCko_dplls c a
  · rfl

theorem showOutputs_state (c : Chip) (d i : Nat) : (c.showOutputs d).rd Reg.SYN_STATUS_STATE i = c.rd Reg.SYN_STATUS_STATE i := by
  unfold Chip.showOutputs
  refine each_keep (fun c => c.rd Reg.SYN_STATUS_STATE i) _ (fun a c => ?_) _ _
  show (if c.ckoLoop a = d then c.showCko a else c).rd _ _ _ = _
  split
  · exact showCko_rd _ _ _ _ _ (by decide) (by decide) (by decide)
  · rfl

theorem steady_syn (c : Chip) (d : Nat) : (Chip.steady c).synState d = c.synState d := Chip.steady_rd _ _ _ _ (by decide)

theorem dpll_of {c x : Chip} {d : Nat} {f : Dpll → Dpll} (h : x.dplls = (c.updDpll d f).dplls) : SMap.get x.dplls d = f (SMap.get c.dplls d) := by
  rw [h, Chip.updDpll_same]

theorem dpll_of2 {c x : Chip} {d : Nat} {f g : Dpll → Dpll} (h : x.dplls = ((c.updDpll d f).updDpll d g).dplls) : SMap.get x.dplls d = g (f (SMap.get c.dplls d)) := by
  rw [h, Chip.updDpll_same, Chip.updDpll_same]

theorem showRefs_refs (c : Chip) : c.showRefs.car.refs = c.car.refs := by
  unfold Chip.showRefs
  refine each_keep (·.car.refs) _ (fun a c => ?_) _ _
  show (if c.refKept a then c else c.wr Reg.REF_STATUS_QSTATE (c.qstate a) a).car.refs = c.car.refs
  split <;> rfl

theorem showRefs_rd (c : Chip) (F : Fld) (i e : Nat) (h1 : F.id ≠ Reg.REF_STATUS_QSTATE.id) (h2 : F.id ≠ Reg.REF_STATUS_QL.id) (h3 : F.id ≠ Reg.REF_STATUS_SEL_F.id)
    (h4 : F.id ≠ Reg.REF_STATUS_SEL_T.id) (h5 : F.id ≠ Reg.REF_STATUS_DISAGREE.id) : c.showRefs.rd F i e = c.rd F i e := by
  unfold Chip.showRefs
  refine each_keep (fun c => c.rd F i e) _ (fun a c => ?_) _ _
  show (Chip.flag _ _ _ _).rd F i e = _
  rw [Chip.rd_flag_id _ _ _ _ _ _ h5, Chip.rd_flag_id _ _ _ _ _ _ h4, Chip.rd_flag_id _ _ _ _ _ _ h3, Chip.rd_wr_id _ _ _ _ _ _ h2]
  split
  · rfl
  · exact Chip.rd_wr_id _ _ _ _ _ _ h1

theorem updRef_refs (c : Chip) (n : Nat) (f : Ref → Ref) : SMap.get (c.updRef n f).car.refs n = f (c.ref n) := Chip.updRef_same c n f

end Sys2Proof.Laws
end

