-- ==== Sys2Proof/Laws/Lanes.lean ====
section
/-! SUPPORT. Bit fields, and what the lane operations of a Drumline engine leave in its registers: one lemma each. -/

namespace Sys2Proof.Machine

/-! ### Bit fields -/

theorem testBit_bitsOf (v lo w j : Nat) : (bitsOf v lo w).testBit j = (decide (j < w) && v.testBit (lo + j)) := by
  unfold bitsOf
  rw [Nat.testBit_mod_two_pow, Nat.testBit_shiftRight]

theorem withBits_eq (v lo w x : Nat) : withBits v lo w x = 2 ^ lo * (2 ^ w * (v / 2 ^ (lo + w)) + x % 2 ^ w) + v % 2 ^ lo := by
  unfold withBits bitsOf
  rw [Nat.shiftRight_eq_div_pow, Nat.shiftLeft_eq, Nat.shiftLeft_eq]
  have h1 : v = 2 ^ lo * (v / 2 ^ lo) + v % 2 ^ lo := (Nat.div_add_mod v (2 ^ lo)).symm
  have h2 : v / 2 ^ lo = 2 ^ w * (v / 2 ^ (lo + w)) + v / 2 ^ lo % 2 ^ w := by
    rw [Nat.pow_add, ← Nat.div_div_eq_div_mul]
    exact (Nat.div_add_mod (v / 2 ^ lo) (2 ^ w)).symm
  generalize v / 2 ^ (lo + w) = a at *
  generalize v / 2 ^ lo % 2 ^ w = b at *
  generalize x % 2 ^ w = y
  rw [h2] at h1
  generalize v % 2 ^ lo = q at *
  subst h1
  rw [Nat.mul_add, Nat.mul_add, Nat.mul_comm b (2 ^ lo), Nat.mul_comm y (2 ^ lo)]
  omega

theorem testBit_withBits (v lo w x j : Nat) :
    (withBits v lo w x).testBit j = if lo ≤ j ∧ j < lo + w then x.testBit (j - lo) else v.testBit j := by
  rw [withBits_eq, Nat.testBit_two_pow_mul_add _ (Nat.mod_lt _ (Nat.two_pow_pos lo))]
  by_cases h : j < lo
  · rw [if_pos h, if_neg (by omega), Nat.testBit_mod_two_pow, decide_eq_true h, Bool.true_and]
  · rw [if_neg h, Nat.testBit_two_pow_mul_add _ (Nat.mod_lt _ (Nat.two_pow_pos w))]
    by_cases h2 : j - lo < w
    · rw [if_pos h2, if_pos (by omega), Nat.testBit_mod_two_pow, decide_eq_true h2, Bool.true_and]
    · rw [if_neg h2, if_neg (by omega), Nat.testBit_div_two_pow]
      congr 1
      omega

/-! ### Registers -/

theorem Eng.reg_setReg_same (x : Eng) (r v : Nat) : (x.setReg r v).reg r = v % 2 ^ 256 := SMap.get_set_same _ _ _

theorem Eng.reg_setReg_ne (x : Eng) {r q : Nat} (v : Nat) (h : q ≠ r) : (x.setReg r v).reg q = x.reg q := SMap.get_set_ne _ _ h

/-- Lane i of a register's word. -/
theorem bitsOf_withBits_same (v i x : Nat) (h : i < 8) : bitsOf (withBits v (32 * i) 32 x % 2 ^ 256) (32 * i) 32 = x % 2 ^ 32 := by
  apply Nat.eq_of_testBit_eq
  intro j
  rw [testBit_bitsOf, Nat.testBit_mod_two_pow, testBit_withBits, Nat.testBit_mod_two_pow]
  by_cases hj : j < 32
  · rw [if_pos (by omega), decide_eq_true (show 32 * i + j < 256 by omega), Nat.add_sub_cancel_left]
    simp
  · simp [hj]

theorem bitsOf_withBits_ne (v i k x : Nat) (h : i < 8) (hk : i ≠ k) : bitsOf (withBits v (32 * k) 32 x % 2 ^ 256) (32 * i) 32 = bitsOf v (32 * i) 32 := by
  apply Nat.eq_of_testBit_eq
  intro j
  rw [testBit_bitsOf, Nat.testBit_mod_two_pow, testBit_withBits, testBit_bitsOf]
  by_cases hj : j < 32
  · rw [if_neg (by omega), decide_eq_true (show 32 * i + j < 256 by omega), Bool.true_and]
  · simp [hj]

theorem Eng.lane_setLane_same (x : Eng) (t r i v : Nat) (h : i < 8) : (x.setLane t r i v).lane t r i = v % 2 ^ laneBits t := by
  unfold Eng.setLane Eng.lane laneBits
  by_cases ht : t = 3
  · simp only [ht, if_true]
    rw [Eng.reg_setReg_same, Eng.reg_setReg_ne _ _ (show r ≠ r + 1 by omega), Eng.reg_setReg_same, bitsOf_withBits_same _ _ _ h,
      bitsOf_withBits_same _ _ _ h]
    omega
  · simp only [ht, if_false]
    rw [Eng.reg_setReg_same, bitsOf_withBits_same _ _ _ h]

theorem Eng.lane_setLane_ne (x : Eng) (t r i k v : Nat) (h : i < 8) (hk : i ≠ k) : (x.setLane t r k v).lane t r i = x.lane t r i := by
  unfold Eng.setLane Eng.lane
  by_cases ht : t = 3
  · simp only [ht, if_true]
    rw [Eng.reg_setReg_same, Eng.reg_setReg_ne _ _ (show r ≠ r + 1 by omega), Eng.reg_setReg_same, Eng.reg_setReg_ne _ _ (show r + 1 ≠ r by omega),
      bitsOf_withBits_ne _ _ _ _ h hk, bitsOf_withBits_ne _ _ _ _ h hk]
  · simp only [ht, if_false]
    rw [Eng.reg_setReg_same, bitsOf_withBits_ne _ _ _ _ h hk]

theorem Eng.reg_setLane_ne (x : Eng) (t r i v q : Nat) (h1 : q ≠ r) (h2 : t = 3 → q ≠ r + 1) : (x.setLane t r i v).reg q = x.reg q := by
  unfold Eng.setLane
  by_cases ht : t = 3
  · simp only [ht, if_true]
    rw [Eng.reg_setReg_ne _ _ (h2 ht), Eng.reg_setReg_ne _ _ h1]
  · simp only [ht, if_false]
    rw [Eng.reg_setReg_ne _ _ h1]

/-- A lane write changes the registers alone. -/
theorem Eng.setLane_v (x : Eng) (t r i v : Nat) : ∃ w, x.setLane t r i v = { x with v := w } := by
  unfold Eng.setLane
  by_cases ht : t = 3
  · simp only [ht, if_true]
    exact ⟨_, rfl⟩
  · simp only [ht, if_false]
    exact ⟨_, rfl⟩

/-- What `putLanes` over a list of lanes makes: an active lane of the list takes its value, every other keeps its own. -/
theorem Eng.fold_lanes (m : Nat → Bool) (t r : Nat) (f : Nat → Nat) (l : List Nat) (hl : ∀ i ∈ l, i < 8) (x : Eng) :
    let y := l.foldl (fun y i => if m i then y.setLane t r i (f i) else y) x
    (∀ i < 8, y.lane t r i = if i ∈ l ∧ m i = true then f i % 2 ^ laneBits t else x.lane t r i) ∧
    (∀ q, q ≠ r → (t = 3 → q ≠ r + 1) → y.reg q = x.reg q) ∧ ∃ w, y = { x with v := w } := by
  induction l generalizing x with
  | nil => exact ⟨fun i _ => by simp, fun _ _ _ => rfl, ⟨x.v, rfl⟩⟩
  | cons a l ih =>
    obtain ⟨ih1, ih2, w, ih3⟩ := ih (fun i hi => hl i (List.mem_cons_of_mem _ hi)) (if m a then x.setLane t r a (f a) else x)
    have ha : a < 8 := hl a List.mem_cons_self
    refine ⟨fun i hi => ?_, fun q h1 h2 => ?_, ?_⟩
    · rw [List.foldl_cons, ih1 i hi]
      by_cases hm : i ∈ l ∧ m i = true
      · rw [if_pos hm, if_pos ⟨List.mem_cons_of_mem _ hm.1, hm.2⟩]
      · rw [if_neg hm]
        by_cases hia : i = a
        · subst hia
          by_cases hmi : m i = true
          · rw [if_pos hmi, if_pos ⟨List.mem_cons_self, hmi⟩, Eng.lane_setLane_same _ _ _ _ _ ha]
          · rw [if_neg hmi, if_neg (fun h => hmi h.2)]
        · rw [if_neg (c := i ∈ a :: l ∧ m i = true) (fun h => hm ⟨(List.mem_cons.1 h.1).resolve_left hia, h.2⟩)]
          split
          · exact Eng.lane_setLane_ne _ _ _ _ _ _ hi hia
          · rfl
    · rw [List.foldl_cons, ih2 q h1 h2]
      split
      · exact Eng.reg_setLane_ne _ _ _ _ _ _ h1 h2
      · rfl
    · rw [List.foldl_cons, ih3]
      split
      · obtain ⟨w', e⟩ := Eng.setLane_v x t r a (f a)
        exact ⟨w, by rw [e]⟩
      · exact ⟨w, rfl⟩

/-- `putLanes`: an active lane takes its value, every other lane and register keeps its own, and nothing but the registers changes. -/
theorem Eng.putLanes_spec (x : Eng) (d : Desc) (t r : Nat) (f : Nat → Nat) :
    (∀ i < 8, (x.putLanes d t r f).lane t r i = if x.active d i then f i % 2 ^ laneBits t else x.lane t r i) ∧
    (∀ q, q ≠ r → (t = 3 → q ≠ r + 1) → (x.putLanes d t r f).reg q = x.reg q) ∧ ∃ w, x.putLanes d t r f = { x with v := w } := by
  obtain ⟨h1, h2, h3⟩ := Eng.fold_lanes (x.active d) t r f (List.range 8) (fun i hi => List.mem_range.1 hi) x
  refine ⟨fun i hi => ?_, h2, h3⟩
  have e := h1 i hi
  rw [if_congr (show (i ∈ List.range 8 ∧ x.active d i = true) ↔ x.active d i = true from ⟨fun h => h.2, fun h => ⟨List.mem_range.2 hi, h⟩⟩) rfl rfl] at e
  exact e

/-! ### An operation of an engine -/

theorem Chip.eng_updEng_same (c : Chip) (e : Nat) (f : Eng → Eng) : (c.updEng e f).eng e = f (c.eng e) := SMap.get_set_same _ _ _

theorem Chip.eng_updEng_ne (c : Chip) {e g : Nat} (f : Eng → Eng) (h : g ≠ e) : (c.updEng e f).eng g = c.eng g := SMap.get_set_ne _ _ h

theorem Chip.updEng_updEng (c : Chip) (e : Nat) (f g : Eng → Eng) : (c.updEng e f).updEng e g = c.updEng e fun x => g (f x) := by
  unfold Chip.updEng Chip.setEng Chip.eng
  simp only [SMap.get_set_same, SMap.set_set]

theorem Eng.setPrd_pc (x : Eng) (p v m : Nat) : (x.setPrd p v m).pc = x.pc := by
  unfold Eng.setPrd
  split <;> rfl

theorem Eng.putLanes_pc (x : Eng) (d : Desc) (t r : Nat) (f : Nat → Nat) : (x.putLanes d t r f).pc = x.pc := by
  obtain ⟨-, -, w, h⟩ := Eng.putLanes_spec x d t r f
  rw [h]

theorem Eng.takeWord_pc (x : Eng) (d : Desc) (w : Nat) (a b : Bool) : (x.takeWord d w a b).pc = x.pc := by
  unfold Eng.takeWord Eng.setAll Eng.putBytes
  simp only [Eng.setPrd_pc, Eng.putLanes_pc]

/-- An operation that comes down to a change of its engine. -/
theorem Chip.engOp_reg (c : Chip) (e op : Nat) (d : Desc) (body : Chip → OpEnd) (f : Eng → Eng) (hs : c.engState e ≠ 6) (hd : descFault op d = none)
    (hb : body c = .next (c.updEng e f)) : c.engOp e op d body = c.engReg e op d f := by
  unfold Chip.engReg Chip.engOp
  simp only [if_neg hs, hd, hb]

/-- An operation that only changes its engine, run at an engine that has not stopped with a descriptor that passes its checks. -/
theorem Chip.engReg_done (c : Chip) (e op : Nat) (d : Desc) (f : Eng → Eng) (hs : c.engState e ≠ 6) (hd : descFault op d = none)
    (hp : (f (c.eng e)).pc = (c.eng e).pc) : c.engDone (c.engReg e op d f).steady e (f (c.eng e)) := by
  have h : c.engReg e op d f = (c.updEng e f).updEng e fun x => { x with pc := x.pc + 1 + 0, wait := none } := by
    unfold Chip.engReg Chip.engOp
    rw [if_neg hs, hd]
  unfold Chip.engDone Chip.engineOnly
  rw [h]
  refine ⟨?_, fun g hg => ?_, ?_, ?_, ?_, fun F i k hF => ?_, ?_⟩
  · show Chip.eng (Chip.steady _) e = _
    unfold Chip.eng
    rw [Chip.steady_drum]
    refine (Chip.eng_updEng_same (c.updEng e f) e _).trans ?_
    rw [Chip.eng_updEng_same, hp]
    rfl
  · show Chip.eng (Chip.steady _) g = _
    unfold Chip.eng
    rw [Chip.steady_drum]
    exact (Chip.eng_updEng_ne (c.updEng e f) _ hg).trans (Chip.eng_updEng_ne c f hg)
  · rw [Chip.steady_drum]; rfl
  · rw [Chip.steady_drum]; rfl
  · rw [Chip.steady_drum]; rfl
  · rw [Chip.steady_rd _ _ _ _ hF]; rfl
  · rw [Chip.steady_outs]; rfl

/-- A lane operation. -/
theorem Chip.engReg_lanes (c : Chip) (e op : Nat) (d : Desc) (typ : Nat) (f : Eng → Nat → Nat) (hs : c.engState e ≠ 6) (hd : descFault op d = none) :
    c.lanesDone (c.engReg e op d fun x => x.putLanes d typ d.dst (f x)).steady e d typ (f (c.eng e)) := by
  obtain ⟨h1, h2, w, h3⟩ := Eng.putLanes_spec (c.eng e) d typ d.dst (f (c.eng e))
  obtain ⟨a, b⟩ := c.engReg_done e op d (fun x => x.putLanes d typ d.dst (f x)) hs hd (by rw [h3])
  have lane : ∀ (x : Eng) (n : Nat) (i : Nat), ({ x with pc := n, wait := none } : Eng).lane typ d.dst i = x.lane typ d.dst i := fun _ _ _ => rfl
  have reg : ∀ (x : Eng) (n : Nat) (q : Nat), ({ x with pc := n, wait := none } : Eng).reg q = x.reg q := fun _ _ _ => rfl
  refine ⟨fun i hi => ?_, fun q hq hq2 => ?_, ?_, b⟩
  · rw [a, lane]
    exact h1 i hi
  · rw [a, reg]
    exact h2 q hq hq2
  · rw [a, h3]

end Sys2Proof.Machine
end

