-- ==== Sys2Proof/Laws/Engines.lean ====
section
/-! SUPPORT. Engines of Drumline: stops, stores, programs and lanes (R267, R276 to R299). -/

namespace Sys2Proof.Laws
open Sys2Proof.Machine

theorem opLoad_reg (c : Chip) (e : Nat) (d : Desc) (hs : c.engState e ≠ 6) (hd : descFault 0x01 d = none)
    (hb : c.operandHeld d.addr (if d.typ.val = 3 then 64 else 32) = false) : c.opLoad e d =
    c.engReg e 0x01 d fun x => x.putLanes d d.typ d.dst fun i => natOfBytesLE (sliceBytes (c.operandBytes e d.addr (if d.typ.val = 3 then 64 else 32))
        ((if d.typ.val = 3 then 8 else 4) * i) (if d.typ.val = 3 then 8 else 4)) := by
  unfold Chip.opLoad Chip.engReg Chip.engOp
  simp only [if_neg hs, hd, hb, Eng.putBytes, Bool.false_eq_true, if_false]

theorem fold_pc (x : Eng) (r : Nat) (f : Nat → Nat) (l : List Nat) : (l.foldl (fun y i => y.setLane 3 r i (f i)) x).pc = x.pc := by
  induction l generalizing x with
  | nil => rfl
  | cons a l ih =>
    rw [List.foldl_cons, ih]
    obtain ⟨w, h⟩ := Eng.setLane_v x 3 r a (f a)
    rw [h]

theorem putState_pc (x : Eng) (h w : Nat) (l : List (Nat → Nat)) : (x.putState h w l).pc = x.pc := rfl

theorem engReg_done_of (c : Chip) (e op : Nat) (d : Desc) (f : Eng → Eng) (y : Eng) (hs : c.engState e ≠ 6) (hd : descFault op d = none)
    (hp : y.pc = (c.eng e).pc) (hy : f (c.eng e) = y) : c.engDone (c.engReg e op d f).steady e y := by
  subst hy
  exact c.engReg_done e op d f hs hd hp

theorem steady_eng (c : Chip) (e : Nat) : (Chip.steady c).eng e = c.eng e := by unfold Chip.eng; rw [Chip.steady_drum]

theorem steady_tag (c : Chip) (a : Nat) : (Chip.steady c).cycTag a = c.cycTag a := by unfold Chip.cycTag; rw [Chip.steady_drum]

theorem emptyMbx_rd (c : Chip) (e i k : Nat) (F : Fld) (h1 : F.id ∉ reportIds) (h2 : F.id ∉ steadyIds) (h3 : F.id ≠ Reg.MBX_STAT_H2F_FULL.id) :
    (c.emptyMbx e).rd F i k = c.rd F i k := by
  unfold Chip.emptyMbx
  rw [Chip.rd_flag_id _ _ _ _ _ _ h3]
  show (c.each (c.eng e).mbx fun _ c => c.count Ev.MBX_LOST e).rd F i k = _
  exact each_keep (fun c => c.rd F i k) _ (fun a c => Chip.count_rd _ _ _ _ _ _ _ h1 h2) _ c

theorem engOp_stops (c : Chip) (e op : Nat) (d : Desc) (body : Chip → OpEnd) (cause : Nat) (hs : c.engState e ≠ 6) (hd : descFault op d = some cause) :
    c.engOp e op d body = c.stopEngine e cause := by
  unfold Chip.engOp
  rw [if_neg hs, hd]

theorem tagStore_cyc (c : Chip) (e : Nat) (d : Desc) (a : Nat) : (c.tagStore e d a).drum.cyc = c.drum.cyc := by
  unfold Chip.tagStore
  split <;> rfl

theorem tagStore_tag (c : Chip) (e : Nat) (d : Desc) (a : Nat) :
    (c.tagStore e d a).cycTag a = if d.flags.val % 2 = 1 then c.engK e % 65536 else 0xFFFF := by
  have key : ∀ (c : Chip) (v : Nat), (c.setTag a v).cycTag a = v := by
    intro c v
    unfold Chip.setTag Chip.cycTag
    simp only [SMap.get_set_same]
    rw [Nat.xor_assoc, Nat.xor_self, Nat.xor_zero]
  unfold Chip.tagStore
  split
  · exact key c _
  · exact key c _

theorem tagStore_eng (c : Chip) (e : Nat) (d : Desc) (a : Nat) : ((c.tagStore e d a).eng e).pc = (c.eng e).pc ∧ ((c.tagStore e d a).eng e).v = (c.eng e).v := by
  unfold Chip.tagStore
  split
  · rw [Chip.eng_updEng_same]
    exact ⟨rfl, rfl⟩
  · exact ⟨rfl, rfl⟩

theorem emptyMbx_eng (c : Chip) (e f : Nat) : (c.emptyMbx e).eng f = if f = e then { c.eng e with mbx := [] } else c.eng f := by
  have h : (c.each (c.eng e).mbx fun _ c => c.count Ev.MBX_LOST e).drum = c.drum :=
    each_keep (·.drum) _ (fun a c => (Chip.count_reported (own := fun _ => False) ..).drum) _ c
  unfold Chip.emptyMbx
  show ((c.each (c.eng e).mbx fun _ c => c.count Ev.MBX_LOST e).updEng e fun x => { x with mbx := [] }).eng f = _
  have g : ∀ k, (c.each (c.eng e).mbx fun _ c => c.count Ev.MBX_LOST e).eng k = c.eng k := fun k => congrArg (fun m : Drum => SMap.get m.eng k) h
  split
  · next hf =>
    subst hf
    rw [Chip.eng_updEng_same, g]
  · next hf =>
    rw [Chip.eng_updEng_ne _ _ hf, g]

theorem stopEngine_shows (c : Chip) (e cause : Nat) : (c.stopEngine e cause).engState e = 6 ∧ (c.stopEngine e cause).on Reg.ENG_STATUS_ENG_FAULT (256 + e) = true ∧
    (c.stopEngine e cause).rd Reg.ENG_STATUS_CAUSE (256 + e) = cause % 2 ^ Reg.ENG_STATUS_CAUSE.width ∧
    (c.stopEngine e cause).rd Reg.ENG_STATUS_DESC (256 + e) = (c.eng e).pc % 2 ^ Reg.ENG_STATUS_DESC.width ∧
    ((c.stopEngine e cause).eng e).outs = [] ∧ ((c.stopEngine e cause).eng e).wait = none ∧ ∀ f, f ≠ e → (c.stopEngine e cause).eng f = c.eng f := by
  obtain ⟨c1, hc1⟩ : ∃ c1 : Chip, c1 = (((c.setEngState e 6).flag Reg.ENG_STATUS_ENG_FAULT true (256 + e)).wr Reg.ENG_STATUS_CAUSE cause (256 + e)).wr
    Reg.ENG_STATUS_DESC (c.eng e).pc (256 + e) := ⟨_, rfl⟩
  have hst : c.stopEngine e cause = ((c1.updEng e fun x => { x with outs := [], wait := none, saves := [] }).emptyMbx e).notify Nt.ENG_FAULT Cls.CYC (256 + e) 2 := by
    rw [hc1]
    rfl
  have base : ∀ F : Fld, F.id ∉ reportIds → F.id ∉ steadyIds → F.id ≠ Reg.MBX_STAT_H2F_FULL.id → (c.stopEngine e cause).rd F (256 + e) = c1.rd F (256 + e) := by
    intro F h1 h2 h3
    rw [hst, Chip.notify_rd _ _ _ _ _ _ _ _ _ h1 h2, emptyMbx_rd _ _ _ _ _ h1 h2 h3]
    rfl
  have eng : ∀ f, (c.stopEngine e cause).eng f = ((c1.updEng e fun x => { x with outs := [], wait := none, saves := [] }).emptyMbx e).eng f := by
    intro f
    rw [hst]
    unfold Chip.eng
    rw [(Chip.notify_reported (own := fun _ => False) ..).drum]
  have e1 : ∀ f, c1.eng f = c.eng f := fun f => by rw [hc1]; rfl
  refine ⟨?_, ?_, ?_, ?_, ?_, ?_, fun f hf => ?_⟩
  · unfold Chip.engState
    rw [base _ (by decide) (by decide) (by decide), hc1, Chip.rd_wr_id _ _ _ _ _ _ (by decide), Chip.rd_wr_id _ _ _ _ _ _ (by decide), Chip.rd_flag_id _ _ _ _ _ _ (by decide)]
    exact Chip.rd_wr_same _ _ _ _ _
  · unfold Chip.on
    rw [base _ (by decide) (by decide) (by decide), hc1, Chip.rd_wr_id _ _ _ _ _ _ (by decide), Chip.rd_wr_id _ _ _ _ _ _ (by decide)]
    exact Chip.on_flag_same (c.setEngState e 6) true (256 + e) 0 rfl
  · rw [base _ (by decide) (by decide) (by decide), hc1, Chip.rd_wr_id _ _ _ _ _ _ (by decide), Chip.rd_wr_same]
  · rw [base _ (by decide) (by decide) (by decide), hc1, Chip.rd_wr_same]
  · rw [eng, emptyMbx_eng, if_pos rfl, Chip.eng_updEng_same]
  · rw [eng, emptyMbx_eng, if_pos rfl, Chip.eng_updEng_same]
  · rw [eng, emptyMbx_eng, if_neg hf, Chip.eng_updEng_ne _ _ hf, e1]

theorem engReg_stops (c : Chip) (e op : Nat) (d : Desc) (f : Eng → Eng) (cause : Nat) (hs : c.engState e ≠ 6) (hd : descFault op d = some cause) :
    c.engReg e op d f = c.stopEngine e cause := engOp_stops c e op d _ cause hs hd

theorem descFault_lt (op : Nat) (d : Desc) (cause : Nat) (h : descFault op d = some cause) : cause < 16 := by
  unfold descFault at h
  split at h
  · cases h; decide
  · split at h
    · cases h; decide
    · split at h
      · cases h; decide
      · cases h

theorem runProgram_step (e k w : Nat) (c : Chip) (h : c.engState e = 2) (hw : (c.eng e).prog.descs[(c.eng e).pc]? = some w) :
    Chip.runProgram e (k + 1) c = Chip.runProgram e k (c.runOp e (descOp w) (descOf w)) := by
  rw [Chip.runProgram, if_neg (by omega)]
  simp only [hw]

theorem runProgram_end (e k : Nat) (c : Chip) (h : c.engState e = 2) (hw : (c.eng e).prog.descs[(c.eng e).pc]? = none) :
    Chip.runProgram e (k + 1) c = c.setEngState e 5 := by
  rw [Chip.runProgram, if_neg (by omega)]
  simp only [hw]

theorem encS_lt (w : Nat) (z : Int) : encS w z < 2 ^ w := by
  unfold encS
  have : (0:Int) < ((2 ^ w : Nat) : Int) := by exact_mod_cast Nat.two_pow_pos _
  have := Int.emod_lt_of_pos z this
  have := Int.emod_nonneg z (show ((2 ^ w : Nat) : Int) ≠ 0 by omega)
  omega

theorem lane_lt (x : Eng) (d : Desc) (q : Fin 32) (i : Nat) : x.lane d.typ q i < 2 ^ (if d.typ.val = 3 then 64 else 32) := by
  unfold Eng.lane bitsOf
  split <;> omega

theorem signed_mod (w v : Nat) (h : v < 2 ^ w) (m : Nat) : encS w (signed w v * (m : Int)) = v * m % 2 ^ w := by
  unfold encS signed
  have e : ∀ k : Int, ((v:Int) - ((2 ^ w : Nat):Int)) * k % ((2 ^ w : Nat):Int) = (v : Int) * k % ((2 ^ w : Nat):Int) := by
    intro k
    rw [Int.sub_mul, Int.sub_emod, Int.mul_emod_right, Int.sub_zero, Int.emod_emod_of_dvd _ (dvd_refl _)]
  split
  · rw [← Int.natCast_mul, ← Int.natCast_emod, Int.toNat_natCast]
  · rw [e, ← Int.natCast_mul, ← Int.natCast_emod, Int.toNat_natCast]

end Sys2Proof.Laws
end

