-- ==== Sys2Proof/Laws/Entries.lean ====
section
/-! SUPPORT. Entries of the seven tables: what a write, an insert, a delete and ageing leave (R132 to R160). -/

namespace Sys2Proof.Laws
open Sys2Proof.Machine

theorem second_outside_txn (c : Chip) (r : Req) (f : Instr → Bool) (h : r.txn = 0) : c.second r f = false := by unfold Chip.second; simp [h]

theorem clearJump_rd (c : Chip) : c.clearJump.rd Reg.PENDING_JUMP_JUMP_ID = 0 ∧ c.clearJump.on Reg.TIME_STATUS_TIME_JUMP_REFUSED = false := by
  unfold Chip.clearJump
  refine ⟨?_, Chip.on_flag_same _ _ _ _ rfl⟩
  simp (disch := decide) only [Chip.flag_id, Chip.rd_wr_id, Chip.rd_wr_same]
  rfl

theorem ent_of_tbl {c d : Chip} (h : d.tbl.ent = c.tbl.ent) (t k i : Nat) : d.ent t k i = c.ent t k i := by unfold Chip.ent; rw [h]

theorem entryHook_ent (c : Chip) (t i e t' k j : Nat) : (c.entryHook t i e).ent t' k j = c.ent t' k j := by
  refine ent_of_tbl ?_ _ _ _
  have h1 : ∀ m, ({ c with tbl := { c.tbl with meters := m } } : Chip).tbl.ent = c.tbl.ent := fun _ => rfl
  have h2 : ∀ m, ({ c with tbl := { c.tbl with rcov := m } } : Chip).tbl.ent = c.tbl.ent := fun _ => rfl
  unfold Chip.entryHook
  by_cases h : t = 3 ∧ 4096 ≤ i
  · exact (congrArg (fun x => Tables.ent (Chip.tbl x)) (if_pos h)).trans (h1 _)
  · refine (congrArg (fun x => Tables.ent (Chip.tbl x)) (if_neg h)).trans ?_
    by_cases h : t = 4
    · exact (congrArg (fun x => Tables.ent (Chip.tbl x)) (if_pos h)).trans (h2 _)
    · rw [if_neg h]

theorem setEnt_same (c : Chip) (t k i v : Nat) : (c.setEnt t k i v).ent t k i = v := by
  unfold Chip.setEnt Chip.ent
  exact SMap.get_set_same ..

theorem putEntry_hi (c : Chip) {t : Nat} (i e : Nat) (h : 5 ≤ t) : (c.putEntry t i e).ent t 0 i = e ∧ (c.putEntry t i e).ent t 1 i = e := by
  unfold Chip.putEntry
  rw [if_neg (by omega)]
  have h0 : ((c.setEnt t 0 i e).setEnt t 1 i e).ent t 0 i = e := by
    unfold Chip.setEnt Chip.ent
    simp only
    rw [SMap.get_set_ne _ _ (by unfold entKey; omega)]
    exact SMap.get_set_same ..
  have h1 := setEnt_same (c.setEnt t 0 i e) t 1 i e
  simp only
  split
  · exact ⟨h0, h1⟩
  · have h2 : ∀ (d : Chip) m t k i, Chip.ent { d with tbl := { d.tbl with stamps := m } } t k i = d.ent t k i := fun _ _ _ _ _ => rfl
    exact ⟨(h2 _ _ _ _ _).trans h0, (h2 _ _ _ _ _).trans h1⟩

theorem putEntry_lo (c : Chip) {t : Nat} (i e : Nat) (h : t ≤ 4) : (c.putEntry t i e).ent t 0 i = if e = 0 then 0 else c.stored t i e 3 := by
  unfold Chip.putEntry
  rw [if_pos h, entryHook_ent, setEnt_same]

theorem deleteNow_ent (c : Chip) {t : Nat} (i : Nat) (h : t ≠ 1) : (c.deleteNow t i).ent t 0 i = 0 := by
  match t, h with
  | 0, _ =>
    show (c.emWrite i 0).ent 0 0 i = 0
    unfold Chip.emWrite
    exact (ent_of_tbl (c := c.setEnt 0 0 i 0) rfl _ _ _).trans (setEnt_same ..)
  | t + 2, _ =>
    show (c.putEntry (t + 2) i 0).ent (t + 2) 0 i = 0
    by_cases h : t + 2 ≤ 4
    · rw [putEntry_lo _ _ _ h]; rfl
    · exact (putEntry_hi _ _ _ (by omega)).1

theorem insertNow_high {c x : Chip} {t e i n : Nat} (h : c.insertNow t e i = .ok (n, x)) (h2 : 2 ≤ t) : x = c.putEntry t n e := by
  match t, h2 with
  | t + 2, _ =>
    have h' : (if c.locked (t + 2) i then Except.error true else Except.ok (i, c.putEntry (t + 2) i e)) = .ok (n, x) := h
    split at h'
    · cases h'
    · cases h'; rfl

theorem slice_all (d : Bytes) : sliceBytes d 0 d.length = d := by
  unfold sliceBytes
  simp

theorem entKey_inj0 {i j : Nat} (h : entKey 0 0 i = entKey 0 0 j) : i = j := by unfold entKey at h; omega

theorem setEnt_ent (c : Chip) (t k i v : Nat) : (c.setEnt t k i v).tbl.ent = SMap.set c.tbl.ent (entKey t k i) v := rfl

theorem emWrite_ent (c : Chip) (i e j : Nat) : (c.emWrite i e).ent 0 0 j = if j = i then e else c.ent 0 0 j := by
  have h : (c.emWrite i e).tbl.ent = SMap.set c.tbl.ent (entKey 0 0 i) e := rfl
  unfold Chip.ent
  rw [h]
  by_cases hj : j = i
  · rw [if_pos hj, hj, SMap.get_set_same]
  · rw [if_neg hj, SMap.get_set_ne _ _ (fun h => hj (entKey_inj0 h))]

theorem emWrite_learnQ (c : Chip) (i e : Nat) : (c.emWrite i e).tbl.learnQ = c.tbl.learnQ := rfl

theorem count_tbl (c : Chip) (ev u b : Nat) : (c.count ev u b).tbl = c.tbl := (Chip.count_reported (own := fun _ => False) c ev u b).tbl

theorem count_time (c : Chip) (ev u b : Nat) : (c.count ev u b).time = c.time := (Chip.count_reported (own := fun _ => False) c ev u b).time

theorem count_stamp (c : Chip) (ev u b : Nat) : (c.count ev u b).stampNow = c.stampNow := by
  unfold Chip.stampNow Chip.now
  rw [Chip.count_rd _ _ _ _ _ _ _ (by decide) (by decide)]
  rw [Chip.count_rd _ _ _ _ _ _ _ (by decide) (by decide)]

def aged (c : Chip) (i : Nat) : Prop := visOf 0 (c.ent 0 0 i) = 3 ∧ Lay.EM_TYPE.get (c.ent 0 0 i) = 1 ∧
  c.rd Reg.EM_CTRL_AGE_TIME 0 ≤ (c.stampNow + 65536 - Lay.EM_LAST_HIT.get (c.ent 0 0 i)) % 65536

open Classical in
theorem age_each (l : List Nat) (hl : l.Nodup) (c : Chip) (j : Nat) :
    (c.each l fun i c =>
    let e := c.ent 0 0 i
    let age := (c.stampNow + 65536 - Lay.EM_LAST_HIT.get e) % 65536
    if visOf 0 e = 3 ∧ Lay.EM_TYPE.get e = 1 ∧ c.rd Reg.EM_CTRL_AGE_TIME 0 ≤ age then (c.emWrite i 0).count Ev.AGE_DEL else c).ent 0 0 j =
    if j ∈ l ∧ aged c j then 0 else c.ent 0 0 j := by
  induction l generalizing c with
  | nil => simp [Chip.each]
  | cons i l ih =>
    rw [List.nodup_cons] at hl
    unfold Chip.each at ih ⊢
    rw [List.foldl_cons, ih hl.2]
    by_cases h : aged c i
    · simp only [if_pos (show _ ∧ _ ∧ _ from h)]
      have he : ∀ k, ((c.emWrite i 0).count Ev.AGE_DEL).ent 0 0 k = if k = i then 0 else c.ent 0 0 k := by
        intro k
        rw [ent_of_tbl (congrArg Tables.ent (count_tbl ..))]
        exact emWrite_ent ..
      have hs : ((c.emWrite i 0).count Ev.AGE_DEL).stampNow = c.stampNow := by rw [count_stamp]; rfl
      have hr : ((c.emWrite i 0).count Ev.AGE_DEL).rd Reg.EM_CTRL_AGE_TIME 0 = c.rd Reg.EM_CTRL_AGE_TIME 0 := by
        rw [Chip.count_rd _ _ _ _ _ _ _ (by decide) (by decide)]; rfl
      by_cases hj : j = i
      · subst hj
        rw [if_neg (fun h => hl.1 h.1), he, if_pos rfl, if_pos ⟨List.mem_cons_self, h⟩]
      · have ha : aged ((c.emWrite i 0).count Ev.AGE_DEL) j ↔ aged c j := by
          unfold aged
          rw [he, if_neg hj, hs, hr]
        simp only [ha, he, List.mem_cons, hj, false_or, if_false]
    · simp only [if_neg (show ¬ (_ ∧ _ ∧ _) from h)]
      by_cases hj : j = i
      · subst hj
        rw [if_neg (fun h => hl.1 h.1), if_neg (fun g => h g.2)]
      · simp only [List.mem_cons, hj, false_or]

theorem mem_emSlots (b i : Nat) : i ∈ emSlots b ↔ i / 4 = b := by
  unfold emSlots
  simp only [List.mem_cons, List.not_mem_nil, or_false]
  omega

theorem emSlots_nodup (b : Nat) : (emSlots b).Nodup := by
  unfold emSlots
  simp only [List.nodup_cons, List.mem_cons, List.not_mem_nil, or_false, not_or, List.nodup_nil, not_false_eq_true, and_true]
  omega

theorem setEnt2_preps (c : Chip) (t i v w : Nat) : ((c.setEnt t 0 i v).setEnt t 1 i w).tbl.preps = c.tbl.preps := rfl

theorem setEnt2_1 (c : Chip) (t i v w : Nat) : ((c.setEnt t 0 i v).setEnt t 1 i w).ent t 1 i = w := by
  unfold Chip.setEnt Chip.ent
  exact SMap.get_set_same ..

theorem setEnt2_0 (c : Chip) (t i v w : Nat) : ((c.setEnt t 0 i v).setEnt t 1 i w).ent t 0 i = v := by
  unfold Chip.setEnt Chip.ent
  simp only
  rw [SMap.get_set_ne _ _ (by unfold entKey; omega)]
  exact SMap.get_set_same ..

end Sys2Proof.Laws
end

