-- ==== Sys2Proof/Laws/Freezes.lean ====
section
/-! SUPPORT. Freezes of arbiters and locks of table segments (R47, R152). -/

namespace Sys2Proof.Laws
open Sys2Proof.Machine

theorem parse_freeze (c : Chip) (a : Fin 142) (b : Bool) (w : ObjWrite)
    (hw : w = { obj := objId Cls.DEV 0 0x28, elem := some (a.val, 1), value := bytesOfNat 4 (if b then 2 ^ 31 else 0), mask := some (bytesOfNat 4 (2 ^ 31)) }) :
    c.parseWrite w = .ok (Attr.ARB_CFG, 0, [(a.val, if b then 2 ^ 31 else 0, 2 ^ 31)]) := by
  have hr : c.resolve w.obj = some (Attr.ARB_CFG, 0) := by
    rw [hw]
    unfold Chip.resolve
    simp only
    rw [if_neg (fun h => absurd h.1 (by decide)), if_neg (fun h => absurd h.1 (by decide))]
    decide +kernel
  have he : Attr.ARB_CFG.elemRange w.elem = some (a.val, 1) := by
    rw [hw]
    unfold AttrDef.elemRange
    have := a.isLt
    simp [Attr.ARB_CFG]
  have hes : elemsOf Attr.ARB_CFG.elemBytes a.val 1 w.value w.mask = [(a.val, if b then 2 ^ 31 else 0, 2 ^ 31)] := by
    rw [hw]
    unfold elemsOf
    show [_] = _
    simp only [Nat.zero_mul, Nat.add_zero]
    have : Attr.ARB_CFG.elemBytes = 4 := by decide
    rw [this, natAt_bytes, natAt_bytes]
    cases b <;> rfl
  unfold Chip.parseWrite
  rw [hr]
  simp only
  rw [he]
  simp only [hes]
  rw [if_neg]
  rw [Bool.not_eq_true]
  have h1 : (w.value.length != Attr.ARB_CFG.elemBytes * 1) = false := by rw [hw]; simp; decide
  have h2 : w.mask = some (bytesOfNat 4 (2 ^ 31)) := by rw [hw]
  rw [h1, h2]
  simp only [bytesOfNat_length]
  cases b <;> simp [Attr.ARB_CFG, AttrDef.elemBytes, bitsOf, Acc.writable, AttrDef.reservedAt, AttrDef.reservedBits, Reg.ARB_CFG_FREEZE, Reg.ARB_CFG_WAIT_LIMIT, Reg.ARB_CFG_FREEZE_WD, Chk.ok]

theorem form_freeze (c : Chip) (r : Req) (a : Fin 142) (b : Bool) (w : ObjWrite)
    (hw : w = { obj := objId Cls.DEV 0 0x28, elem := some (a.val, 1), value := bytesOfNat 4 (if b then 2 ^ 31 else 0), mask := some (bytesOfNat 4 (2 ^ 31)) }) (h0 : r.txn = 0) :
    c.writesFail r [w] = none := by
  have ht : ∀ n v : Nat, touchesTx Attr.ARB_CFG [(n, v, 2 ^ 31)] = false := fun _ _ => rfl
  have hd : ∀ i n v m : Nat, c.writeRefused r Attr.ARB_CFG.cls Attr.ARB_CFG.attr i n v m = none := by
    intro i n v m
    unfold Chip.writeRefused
    repeat rw [if_neg (by decide)]
  unfold Chip.writesFail
  rw [if_neg (by simp)]
  simp only [List.findSome?, parse_freeze c a b w hw, ht, hd, h0]
  rfl

theorem freeze_elem (c : Chip) (a : Fin 142) (b : Bool) : c.writeElem Attr.ARB_CFG 0 a (if b then 2 ^ 31 else 0) (2 ^ 31) =
    ((c.wr Reg.ARB_CFG_FREEZE (if b then 1 else 0) 0 a).wr Reg.ARB_CFG_WAIT_LIMIT (c.rd Reg.ARB_CFG_WAIT_LIMIT 0 a) 0 a).wr Reg.ARB_CFG_FREEZE_WD (c.rd Reg.ARB_CFG_FREEZE_WD 0 a) 0 a := by
  have f1 : fieldNew (c.rd Reg.ARB_CFG_FREEZE 0 a) (if b then 2 ^ 31 else 0) (2 ^ 31) Reg.ARB_CFG_FREEZE = if b then 1 else 0 := by
    have h : c.rd Reg.ARB_CFG_FREEZE 0 a < 2 := c.rd_lt _ _ _
    unfold fieldNew
    generalize c.rd Reg.ARB_CFG_FREEZE 0 a = x at *
    have : x = 0 ∨ x = 1 := by omega
    rcases this with rfl | rfl <;> cases b <;> decide
  have f2 : ∀ x, fieldNew x (if b then 2 ^ 31 else 0) (2 ^ 31) Reg.ARB_CFG_WAIT_LIMIT = x := by
    intro x
    unfold fieldNew
    have : bitsOf (2 ^ 31) Reg.ARB_CFG_WAIT_LIMIT.lo Reg.ARB_CFG_WAIT_LIMIT.width = 0 := by decide
    simp only [this, Nat.and_zero]
    rfl
  have f3 : ∀ x, fieldNew x (if b then 2 ^ 31 else 0) (2 ^ 31) Reg.ARB_CFG_FREEZE_WD = x := by
    intro x
    unfold fieldNew
    have : bitsOf (2 ^ 31) Reg.ARB_CFG_FREEZE_WD.lo Reg.ARB_CFG_FREEZE_WD.width = 0 := by decide
    simp only [this, Nat.and_zero]
    rfl
  unfold Chip.writeElem Chip.each
  have hfl : Attr.ARB_CFG.flds.filter (fun F => F.acc.writable) = [Reg.ARB_CFG_FREEZE, Reg.ARB_CFG_WAIT_LIMIT, Reg.ARB_CFG_FREEZE_WD] := by decide
  rw [hfl]
  simp only [List.foldl_cons, List.foldl_nil, f1, f2, f3]
  rw [Chip.rd_wr_id _ _ _ _ _ _ (by decide), Chip.rd_wr_id _ _ _ _ _ _ (by decide), Chip.rd_wr_id _ _ _ _ _ _ (by decide)]

theorem freeze_wrote (c : Chip) (a : Fin 142) (b : Bool) : c.wrote (places [Reg.ARB_CFG_FREEZE.key 0 a, Reg.ARB_CFG_WAIT_LIMIT.key 0 a, Reg.ARB_CFG_FREEZE_WD.key 0 a]) (c.writeElem Attr.ARB_CFG 0 a (if b then 2 ^ 31 else 0) (2 ^ 31)) := by
  rw [freeze_elem]
  (repeat' (first | (with_reducible refine Chip.wrote.trans ?_ (Chip.wrote.wr _ _ _ _ _ ?_ ?_)) | (with_reducible refine Chip.wrote.trans ?_ (Chip.wrote.flag _ _ _ _ _ ?_ ?_)) | (with_reducible exact Chip.wrote.refl _ _) | decide | (first | (with_reducible refine (fields_iff _ _ _).2 ?_; decide) | (with_reducible refine mt (fields_iff _ _ _).1 ?_; decide) | (simp (decide := true) [places, Fld.key_eq_iff]; done))))

theorem status_wrote (c : Chip) (a : Nat) : c.wrote (places [Reg.ARB_STATUS_FROZEN.key 0 a, Reg.ARB_STATUS_INTERNAL.key 0 a, Reg.ARB_STATUS_DRAINED.key 0 a]) (c.arbStatus a) := by
  unfold Chip.arbStatus
  (repeat' (first | (with_reducible refine Chip.wrote.trans ?_ (Chip.wrote.wr _ _ _ _ _ ?_ ?_)) | (with_reducible refine Chip.wrote.trans ?_ (Chip.wrote.flag _ _ _ _ _ ?_ ?_)) | (with_reducible exact Chip.wrote.refl _ _) | decide | (first | (with_reducible refine (fields_iff _ _ _).2 ?_; decide) | (with_reducible refine mt (fields_iff _ _ _).1 ?_; decide) | (simp (decide := true) [places, Fld.key_eq_iff]; done))))

theorem arbPhase_nil (a : Nat) (c : Chip) : Chip.arbPhase a [] c = c := by
  have h : ∀ x order, arbWinner a x order [] = none := by
    intro x order
    unfold arbWinner
    have h1 : order.find? (fun n => (List.filter (fun r => r.1 != lullClass a) ([] : List (Nat × Nat))).any fun r => r.2 == n) = none := by simp
    have h2 : (List.range 8).find? (fun k => (List.filter (fun r => r.1 != lullClass a) ([] : List (Nat × Nat))).any fun r => r.1 == k) = none := by simp
    simp only [h1, h2]
    rfl
  unfold Chip.arbPhase
  simp only [List.filter_nil, List.map_nil, h]
  split <;> rfl

theorem parse_lock (c : Chip) (tb : Fin 7) (seg : Fin 64) (b : Bool) (w : ObjWrite)
    (hw : w = { obj := objId Cls.TBL tb 0x02, elem := none, value := bytesOfNat 8 (if b then 2 ^ seg.val else 0), mask := some (bytesOfNat 8 (2 ^ seg.val)) }) :
    c.parseWrite w = .ok (Attr.TBL_LOCK, tb, [(0, if b then 2 ^ seg.val else 0, 2 ^ seg.val)]) := by
  have hlt : (2 : Nat) ^ seg.val < 2 ^ 64 := Nat.pow_lt_pow_right (by decide) seg.isLt
  have hr : c.resolve w.obj = some (Attr.TBL_LOCK, tb.val) := by
    rw [hw]
    unfold Chip.resolve
    have hcls : ∀ tb : Fin 7, objCls (objId Cls.TBL tb 0x02) = Cls.TBL := by decide
    simp only [hcls]
    rw [if_neg (fun h => absurd h.1 (by decide)), if_neg (fun h => absurd h.1 (by decide))]
    clear hw
    revert tb
    decide +kernel
  have he : Attr.TBL_LOCK.elemRange w.elem = some (0, 1) := by rw [hw]; rfl
  have hes : elemsOf Attr.TBL_LOCK.elemBytes 0 1 w.value w.mask = [(0, if b then 2 ^ seg.val else 0, 2 ^ seg.val)] := by
    rw [hw]
    unfold elemsOf
    show [_] = _
    simp only [Nat.zero_mul, Nat.add_zero]
    have : Attr.TBL_LOCK.elemBytes = 8 := by decide
    rw [this, natAt_bytes, natAt_bytes, Nat.mod_eq_of_lt hlt]
    cases b
    · rfl
    · simp only [if_true]; rw [Nat.mod_eq_of_lt hlt]
  unfold Chip.parseWrite
  rw [hr]
  simp only
  rw [he]
  simp only [hes]
  rw [if_neg]
  rw [Bool.not_eq_true]
  have h1 : (w.value.length != Attr.TBL_LOCK.elemBytes * 1) = false := by rw [hw]; simp; decide
  have h2 : w.mask = some (bytesOfNat 8 (2 ^ seg.val)) := by rw [hw]
  rw [h1, h2]
  simp only [bytesOfNat_length]
  have hres : ∀ n, Attr.TBL_LOCK.reservedAt n = 0 := by
    intro n
    unfold AttrDef.reservedAt
    rw [if_neg (by decide), if_neg (by decide)]
    decide
  simp only [hres, Nat.and_zero]
  cases b <;> simp [Attr.TBL_LOCK, AttrDef.elemBytes, Acc.writable, Reg.TBL_LOCK, Chk.ok]
  exact decide_eq_false (Nat.not_le.2 hlt)

theorem freezeInternal_all (b : Bool) (l : List Nat) (hn : l.Nodup) (c : Chip) :
    (∀ a, SMap.get (c.each l fun a c => c.freezeInternal a b).arbs a = if a ∈ l then { SMap.get c.arbs a with internal := if b then (SMap.get c.arbs a).internal + 1 else (SMap.get c.arbs a).internal - 1 } else SMap.get c.arbs a) ∧
    ({ c with arbs := (c.each l fun a c => c.freezeInternal a b).arbs } : Chip).wrote (fields [Reg.ARB_STATUS_FROZEN.id, Reg.ARB_STATUS_INTERNAL.id, Reg.ARB_STATUS_DRAINED.id]) (c.each l fun a c => c.freezeInternal a b) := by
  have step : ∀ (x : Nat) (c : Chip), (c.freezeInternal x b).arbs = SMap.upd c.arbs x (fun y => { y with internal := if b then y.internal + 1 else y.internal - 1 }) ∧
      (c.updArb x fun y => { y with internal := if b then y.internal + 1 else y.internal - 1 }).wrote (fields [Reg.ARB_STATUS_FROZEN.id, Reg.ARB_STATUS_INTERNAL.id, Reg.ARB_STATUS_DRAINED.id]) (c.freezeInternal x b) := by
    intro x c
    unfold Chip.freezeInternal Chip.arbStatus
    exact ⟨rfl, by (repeat' (first | (with_reducible refine Chip.wrote.trans ?_ (Chip.wrote.wr _ _ _ _ _ ?_ ?_)) | (with_reducible refine Chip.wrote.trans ?_ (Chip.wrote.flag _ _ _ _ _ ?_ ?_)) | (with_reducible exact Chip.wrote.refl _ _) | decide | (first | (with_reducible refine (fields_iff _ _ _).2 ?_; decide) | (with_reducible refine mt (fields_iff _ _ _).1 ?_; decide) | (simp (decide := true) [places, Fld.key_eq_iff]; done))))⟩
  unfold Chip.each
  induction l generalizing c with
  | nil => exact ⟨fun a => by simp, .refl _ _⟩
  | cons x l ih =>
    simp only [List.nodup_cons] at hn
    simp only [List.foldl_cons]
    obtain ⟨h1, h2⟩ := ih hn.2 (c.freezeInternal x b)
    obtain ⟨s1, s2⟩ := step x c
    refine ⟨fun a => ?_, ?_⟩
    · rw [h1 a, s1]
      by_cases hax : a = x
      · subst hax
        rw [if_neg hn.1, if_pos (List.mem_cons_self ..)]
        exact SMap.get_upd_same _ _ _
      · rw [SMap.get_upd_ne _ _ hax]
        simp only [List.mem_cons, hax, false_or]
    · generalize List.foldl _ _ l = d at *
      have s3 : ({ c with arbs := d.arbs } : Chip).wrote (fields [Reg.ARB_STATUS_FROZEN.id, Reg.ARB_STATUS_INTERNAL.id, Reg.ARB_STATUS_DRAINED.id]) { c.freezeInternal x b with arbs := d.arbs } :=
        Chip.wrote.set_arbs s2 d.arbs
      exact s3.trans h2

theorem each_one (f : Nat → Chip → Chip) (k : Nat) (l : List Nat) (hn : l.Nodup) (hk : k ∈ l) (h : ∀ x c, x ≠ k → f x c = c) (c : Chip) : c.each l f = f k c := by
  have none : ∀ (l : List Nat) (c : Chip), k ∉ l → c.each l f = c := by
    intro l
    induction l with
    | nil => intro c _; rfl
    | cons x l ih =>
      intro c hm
      simp only [List.mem_cons, not_or] at hm
      show (f x c).each l f = c
      rw [h x c (Ne.symm hm.1)]
      exact ih c hm.2
  induction l generalizing c with
  | nil => cases hk
  | cons x l ih =>
    simp only [List.nodup_cons] at hn
    show (f x c).each l f = f k c
    by_cases hx : x = k
    · subst hx; exact none l _ hn.1
    · rw [h x c hx]
      exact ih hn.2 (by simpa [Ne.symm hx] using hk) c

theorem lock_hook (c d : Chip) (r : Req) (tb : Fin 7) (seg : Fin 64) (b : Bool) :
    d.writeHook c r Attr.TBL_LOCK.cls Attr.TBL_LOCK.attr tb 0 (if b then 2 ^ seg.val else 0) (2 ^ seg.val) =
      if b then (d.wr Reg.TBL_LOCK 0 tb).lockStart tb seg r.slot
      else if ((d.wr Reg.TBL_LOCK 0 tb).lock tb seg).slot = r.slot then (d.wr Reg.TBL_LOCK 0 tb).lockEnd tb seg else d.wr Reg.TBL_LOCK 0 tb := by
  unfold Chip.writeHook
  rw [if_neg (by decide), if_pos (by decide)]
  unfold Chip.lockWrite
  rw [each_one _ seg.val _ List.nodup_range (by simp)]
  · have : bitOf (2 ^ seg.val) seg.val = true := by unfold bitOf; simp
    simp only [this, Bool.not_true, Bool.false_eq_true, if_false]
    cases b
    · have : bitOf 0 seg.val = false := by unfold bitOf; simp
      simp only [Bool.false_eq_true, if_false, this]
    · simp only [if_true, this]
  · intro x c hx
    have : bitOf (2 ^ seg.val) x = false := by unfold bitOf; simp [Nat.testBit_two_pow]; omega
    simp [this]

theorem lock_elem_wrote (c : Chip) (tb : Nat) (v m : Nat) : c.wrote (fields [Reg.TBL_LOCK.id]) ((c.writeElem Attr.TBL_LOCK tb 0 v m).wr Reg.TBL_LOCK 0 tb) := by
  refine Chip.wrote.trans ?_ (.wr _ _ _ _ _ (by (first | (with_reducible refine (fields_iff _ _ _).2 ?_; decide) | (with_reducible refine mt (fields_iff _ _ _).1 ?_; decide) | (simp (decide := true) [places, Fld.key_eq_iff]; done))) (by decide))
  unfold Chip.writeElem Chip.each
  have hfl : Attr.TBL_LOCK.flds.filter (fun F => F.acc.writable) = [Reg.TBL_LOCK] := by decide
  rw [hfl]
  exact .wr _ _ _ _ _ (by (first | (with_reducible refine (fields_iff _ _ _).2 ?_; decide) | (with_reducible refine mt (fields_iff _ _ _).1 ?_; decide) | (simp (decide := true) [places, Fld.key_eq_iff]; done))) (by decide)

theorem no_parked_learning (c : Chip) (h : c.tbl.learnParked = []) : c.applyParkedLearning = c := by
  unfold Chip.applyParkedLearning
  rw [h]
  show ({ c with tbl := { c.tbl with learnParked := [] } } : Chip) = c
  rw [← h]

theorem arbs_nodup : ∀ tb : Fin 7, (tblArbs tb).Nodup := by decide

end Sys2Proof.Laws
end

