-- ==== Sys2Proof/Laws/Hosts.lean ====
section
/-! SUPPORT. The host interface and the record FIFOs: what their shared operations leave. -/

namespace Sys2Proof.Laws
open Sys2Proof.Machine

theorem drainQueue_one (c : Chip) (q : List Packet) (p : Packet) : Chip.drainQueue { c with cmdq := q ++ [p] } = Chip.runPacket (({ c with cmdq := [] } : Chip).each q fun p c => c.runPacket p) p := by
  unfold Chip.drainQueue Chip.each
  simp only [List.foldl_append, List.foldl_cons, List.foldl_nil]

theorem f2h_flags_cleared (l : List Nat) (c : Chip) (n : Nat) (hn : n < 16) (hl : ∀ m ∈ l, m < 16) (h : n ∈ l ∨ c.on Reg.MBX_STAT_F2H_FULL n = false) :
    (c.each l fun n c => if c.on Reg.MBX_STAT_F2H_FULL n then (c.flag Reg.MBX_STAT_F2H_FULL false n).incSat Reg.MBX_STAT_LOST 1 n else c).on Reg.MBX_STAT_F2H_FULL n = false := by
  induction l generalizing c with
  | nil => rcases h with h | h; cases h; exact h
  | cons m l ih =>
    refine ih _ (fun k hk => hl k (List.mem_cons_of_mem _ hk)) ?_
    have hm := hl m (List.mem_cons_self ..)
    have one : n = m → (if c.on Reg.MBX_STAT_F2H_FULL m then (c.flag Reg.MBX_STAT_F2H_FULL false m).incSat Reg.MBX_STAT_LOST 1 m else c).on Reg.MBX_STAT_F2H_FULL n = false := by
      rintro rfl
      split
      · unfold Chip.incSat
        rw [Chip.on_wr_id _ _ _ _ _ _ (by decide)]
        exact Chip.on_flag_same _ _ _ _ rfl
      · rename_i h; simpa using h
    by_cases e : n = m
    · exact .inr (one e)
    · rcases h with h | h
      · rcases List.mem_cons.1 h with h | h
        · exact absurd h e
        · exact .inl h
      · right
        simp only
        split
        · unfold Chip.incSat
          rw [Chip.on_wr_id _ _ _ _ _ _ (by decide)]
          unfold Chip.on Chip.flag
          rw [Chip.rd_wr_obj _ _ _ _ _ _ (by omega)]
          exact h
        · exact h

theorem f2h_flags_hif (l : List Nat) (c : Chip) :
    (c.each l fun n c => if c.on Reg.MBX_STAT_F2H_FULL n then (c.flag Reg.MBX_STAT_F2H_FULL false n).incSat Reg.MBX_STAT_LOST 1 n else c).hif = c.hif := by
  induction l generalizing c with
  | nil => rfl
  | cons m l ih =>
    refine (ih _).trans ?_
    simp only
    split
    · rfl
    · rfl

theorem ack_clears_flags (mask : Nat) (l : List Nat) (c : Chip) (n : Nat) (hn : n < 16) (hl : ∀ m ∈ l, m < 16) :
    (c.each l fun n c => if bitOf mask n then
      ({ c with hif := { c.hif with f2h := SMap.set c.hif.f2h n 0 } } : Chip).flag Reg.MBX_STAT_F2H_FULL false n else c).on Reg.MBX_STAT_F2H_FULL n =
      (c.on Reg.MBX_STAT_F2H_FULL n && !(decide (n ∈ l) && bitOf mask n)) := by
  induction l generalizing c with
  | nil => simp [Chip.each]
  | cons m l ih =>
    refine (ih _ (fun k hk => hl k (List.mem_cons_of_mem _ hk))).trans ?_
    have hm := hl m (List.mem_cons_self ..)
    simp only
    by_cases e : n = m
    · subst e
      by_cases hb : bitOf mask n = true
      · rw [if_pos hb]
        have : (({ c with hif := { c.hif with f2h := SMap.set c.hif.f2h n 0 } } : Chip).flag Reg.MBX_STAT_F2H_FULL false n).on Reg.MBX_STAT_F2H_FULL n = false := Chip.on_flag_same _ _ _ _ rfl
        rw [this]; simp [hb]
      · rw [if_neg hb]; simp [hb]
    · by_cases hb : bitOf mask m = true
      · rw [if_pos hb]
        have : (({ c with hif := { c.hif with f2h := SMap.set c.hif.f2h m 0 } } : Chip).flag Reg.MBX_STAT_F2H_FULL false m).on Reg.MBX_STAT_F2H_FULL n = c.on Reg.MBX_STAT_F2H_FULL n := by
          unfold Chip.on Chip.flag
          rw [Chip.rd_wr_obj _ _ _ _ _ _ (by omega)]
          rfl
        rw [this]; simp [e]
      · rw [if_neg hb]; simp [e]

theorem oneEngine_pow : ∀ e : Fin 64, oneEngine (2 ^ e.val) = some e.val := by decide +kernel

theorem fifo_objects : ∀ n : Fin 32, (objCls (objId Cls.EVT n 3) = Cls.EVT ∧ objInst (objId Cls.EVT n 3) = n.val ∧ objAttr (objId Cls.EVT n 3) = 3) ∧ findAttr Cls.EVT n 3 = some Attr.EVI_FIFO ∧
    (objCls (objId Cls.EVT n 0x12) = Cls.EVT ∧ objInst (objId Cls.EVT n 0x12) = n.val ∧ objAttr (objId Cls.EVT n 0x12) = 0x12) ∧ findAttr Cls.EVT n 0x12 = some Attr.IVL_SAMPLES := by decide +kernel

theorem resolve_evt (c : Chip) (o n k : Nat) (a : AttrDef) (h : objCls o = Cls.EVT ∧ objInst o = n ∧ objAttr o = k) (ha : findAttr Cls.EVT n k = some a) : c.resolve o = some (a, n) := by
  unfold Chip.resolve
  obtain ⟨h1, h2, h3⟩ := h
  simp only [h1, h2, h3]
  rw [if_neg (by rintro ⟨h, -⟩; exact absurd h (by decide)), if_neg (by rintro ⟨h, -⟩; exact absurd h (by decide)), ha]
  rfl

theorem evt_never_off (c : Chip) (o : Nat) (h : objCls o = Cls.EVT) : c.poweredOff o = false := by
  unfold Chip.poweredOff
  simp only [h]
  simp [Cls.EVT, Cls.PORT, Cls.LANE, Cls.QUEUE, Cls.SHAPER, Cls.GATE, Cls.TBL, Cls.CYC, Cls.MBX, Cls.DEV]

theorem fifo_read_answers (c x : Chip) (r : Req) (o : Nat) (l : List Tlv) (hm : c.mayRun r (.objRead r [{ obj := o, elem := none }]) = true) (h0 : r.txn = 0)
    (hd : c.domainOff (.objRead r [{ obj := o, elem := none }]) = false) (hr : c.readObj { obj := o, elem := none } = some (l, x)) (hf : fitsRoom (x.replyRoom r.via) l = true) :
    x.answered (Chip.steady (c.doFifoRead r o)) r 0x0101 .ok l := by
  have e : c.doFifoRead r o = c.finish r 0x0101 { chip := x, tlvs := l } := by
    unfold Chip.doFifoRead Chip.doObjRead
    simp only [hm, hd, h0, Bool.not_true, Bool.false_eq_true, if_false, List.length_singleton, ne_eq, not_true_eq_false]
    have ha : c.readAll [{ obj := o, elem := none }] = some (l, x) := by
      unfold Chip.readAll
      simp only [hr]
      unfold Chip.readAll
      simp only [List.append_nil]
    rw [if_neg (by rw [ha]; rintro (h | h | h); omega; cases h; cases h)]
    simp only [ha]
    rfl
  have e2 : c.finish r 0x0101 { chip := x, tlvs := l } = (Res.done { chip := x, tlvs := l } r 0x0101).reply r 0x0101 .ok l := by
    unfold Chip.finish
    simp only [hf, if_true]
  rw [e, e2]
  exact .done { chip := x, tlvs := l } ..

end Sys2Proof.Laws
end

