-- ==== Sys2Proof/Laws/Nodes.lean ====
section
/-! SUPPORT. The fabric: what its shared operations leave (R319 to R326). -/

namespace Sys2Proof.Laws
open Sys2Proof.Machine

theorem showNode_fab (c : Chip) (d : Nat) : (c.showNode d).fab = c.fab := rfl

theorem notify_fab (c : Chip) (ev cls inst attr : Nat) (q : Option (Nat × Nat)) : (c.notify ev cls inst attr q).fab = c.fab :=
  (Chip.notify_reported (own := fun _ => False) ..).fab

theorem count_fab (c : Chip) (ev u n : Nat) : (c.count ev u n).fab = c.fab := (Chip.count_reported (own := fun _ => False) ..).fab

theorem showCredit_path (c : Chip) (p k : Nat) : (c.showCredit p k).path = c.path := rfl

theorem credGot_each (p : Nat) (b : Bytes) (l : List Nat) (c : Chip) :
    ∀ k, SMap.get (c.each l fun k c =>
      ({ c with path := { c.path with credGot := SMap.set c.path.credGot (p * 8 + k) (natAt b (1 + 4 * k) 4) } } : Chip).showCredit p k).path.credGot (p * 8 + k) =
        if k ∈ l then natAt b (1 + 4 * k) 4 else SMap.get c.path.credGot (p * 8 + k) := by
  induction l generalizing c with
  | nil => intro k; simp [Chip.each]
  | cons a l ih =>
    intro k
    unfold Chip.each at ih ⊢
    rw [List.foldl_cons, ih]
    by_cases hk : k ∈ l
    · rw [if_pos hk, if_pos (List.mem_cons_of_mem _ hk)]
    · rw [if_neg hk, showCredit_path]
      by_cases ha : k = a
      · subst ha
        rw [if_pos List.mem_cons_self, SMap.get_set_same]
      · rw [if_neg (by simp [ha, hk]), SMap.get_set_ne _ _ (by omega)]

theorem ite_fab {x : Fab} (p : Prop) [Decidable p] (a b : Chip) (ha : a.fab = x) (hb : b.fab = x) : (if p then a else b).fab = x := by
  split
  · exact ha
  · exact hb

theorem fabSeen_fab (c : Chip) (F : Fld) (ev d : Nat) : (c.fabSeen F ev d).fab = c.fab := ite_fab _ _ _ rfl (notify_fab ..)

theorem showNodes_fab (c : Chip) : c.showNodes.fab = c.fab := by
  have h : (c.each (List.range 64) fun d c => c.showNode d).fab = c.fab := each_keep (·.fab) _ (fun a c => showNode_fab c a) _ c
  unfold Chip.showNodes
  generalize (c.each (List.range 64) fun d c => c.showNode d) = x at h
  exact h

theorem idConflict_fab (c : Chip) : c.idConflict.fab = c.fab := ite_fab _ _ _ (fabSeen_fab ..) rfl

theorem tooDeep_fab (c : Chip) : c.tooDeep.fab = c.fab := ite_fab _ _ _ rfl (fabSeen_fab ..)

theorem pinsIdle_fab (c : Chip) : c.pinsIdle.fab = c.fab := ite_fab _ _ _ rfl rfl

theorem showTree_fab (c : Chip) : c.showTree.fab = c.fab := by
  unfold Chip.showTree
  refine each_keep (·.fab) _ (fun a c => ?_) _ c
  rfl

theorem lostNodes_fab (o c : Chip) : (o.lostNodes c).fab = c.fab := each_keep (·.fab) _ (fun _ _ => ite_fab _ _ _ (notify_fab ..) (count_fab ..)) _ c

theorem rerouted_fab (o c : Chip) : (o.rerouted c).fab = { c.fab with routes := c.routeTable } := ite_fab _ _ _ (count_fab ..) rfl

end Sys2Proof.Laws
end

