-- ==== Sys2Proof/Laws/Reads.lean ====
section
/-! SUPPORT. Reads of attributes: what they clear and what they leave (R5, R400). -/

namespace Sys2Proof.Laws
open Sys2Proof.Machine

theorem rcIds_steady : ∀ x ∈ rcIds, x ∉ steadyIds := by decide +kernel

theorem rcIds_max : Reg.SERVO_CTRL_MAX_ADJ.id ∉ rcIds := by decide +kernel

theorem clearRc_wrote (c : Chip) (a : AttrDef) (i e : Nat) (ha : a ∈ attrTable) : c.wrote (fields rcIds) (c.clearRc a i e) := by
  unfold Chip.clearRc Chip.each
  have : ∀ (l : List Fld) (c : Chip), (∀ F ∈ l, F.id ∈ rcIds) → c.wrote (fields rcIds) (l.foldl (fun c F => c.wr F (c.rcRestart F i e) i e) c) := by
    intro l
    induction l with
    | nil => intro c _; exact .refl _ _
    | cons F l ih =>
      intro c h
      simp only [List.mem_cons, forall_eq_or_imp] at h
      exact (Chip.wrote.wr _ _ _ _ _ ((fields_iff _ _ _).2 h.1) (rcIds_steady _ h.1)).trans (ih _ h.2)
  refine this _ c fun F hF => ?_
  simp only [List.mem_filter] at hF
  unfold rcIds
  rw [List.mem_filterMap]
  exact ⟨F, List.mem_flatMap.2 ⟨a, ha, hF.1⟩, by simp [hF.2]⟩

theorem each_wrote {α : Type} (own : Nat → Prop) (f : α → Chip → Chip) (l : List α) (hf : ∀ (x : α) (c : Chip), c.wrote own (f x c)) (c : Chip) : c.wrote own (c.each l f) := by
  unfold Chip.each
  induction l generalizing c with
  | nil => exact .refl _ _
  | cons x l ih => exact (hf x c).trans (ih _)

theorem findAttr_mem {cls i a : Nat} {d : AttrDef} (h : findAttr cls i a = some d) : d ∈ attrTable ∧ d.cls = cls ∧ d.attr = a := by
  unfold findAttr at h
  have := List.find?_some h
  simp at this
  exact ⟨List.mem_of_find?_eq_some h, this.1.1.1.1, this.1.1.1.2⟩

theorem readObj_wrote {c d v : Chip} {o : ObjSel} {l : List Tlv} (h : c.readObj o v = some (l, d))
    (hn : ¬ (objCls o.obj = Cls.EVT ∧ (objAttr o.obj = 0x03 ∨ objAttr o.obj = 0x12))) : c.wrote (fields rcIds) d := by
  unfold Chip.readObj at h
  split at h
  · cases h
  rename_i a i hr
  have ha : a ∈ attrTable ∧ ¬ (a.cls = Cls.EVT ∧ (a.attr = 0x03 ∨ a.attr = 0x12)) := by
    unfold Chip.resolve at hr
    simp only at hr
    split at hr
    · cases hr
    · split at hr
      · rw [Option.map_eq_some_iff] at hr
        obtain ⟨x, hx, he⟩ := hr
        cases he
        have := findAttr_mem hx
        exact ⟨this.1, fun h => by rw [this.2.1] at h; exact absurd h.1 (by decide)⟩
      · rw [Option.map_eq_some_iff] at hr
        obtain ⟨x, hx, he⟩ := hr
        cases he
        have := findAttr_mem hx
        exact ⟨this.1, by rw [this.2.1, this.2.2]; exact hn⟩
  split at h
  · cases h
  · have hsp : ∀ j n, c.specialRead a.cls a.attr j n = none := by
      intro j n
      unfold Chip.specialRead
      rw [if_neg (fun h => ha.2 ⟨h.1, .inl h.2⟩), if_neg (fun h => ha.2 ⟨h.1, .inr h.2⟩)]
    simp only [hsp] at h
    cases h
    exact each_wrote _ _ _ (fun e c => clearRc_wrote c a i e ha.1) c

theorem readAll_wrote (objs : List ObjSel) {c d v : Chip} {l : List Tlv} (h : c.readAll objs v = some (l, d))
    (hn : ∀ o ∈ objs, ¬ (objCls o.obj = Cls.EVT ∧ (objAttr o.obj = 0x03 ∨ objAttr o.obj = 0x12))) : c.wrote (fields rcIds) d := by
  induction objs generalizing c l with
  | nil => cases h; exact .refl _ _
  | cons o objs ih =>
    simp only [List.mem_cons, forall_eq_or_imp] at hn
    unfold Chip.readAll at h
    split at h
    · cases h
    · rename_i h1
      split at h
      · cases h
      · rename_i h2
        cases h
        exact (readObj_wrote h1 hn.1).trans (ih h2 hn.2)

theorem wrote_adj {own : Nat → Prop} {c d : Chip} (h : c.wrote own d) (hm : ¬ own (Reg.SERVO_CTRL_MAX_ADJ.key 0 0)) (hc : (c.rdS Reg.ADJ).natAbs ≤ ppbUnits (c.rd Reg.SERVO_CTRL_MAX_ADJ)) :
    (d.rdS Reg.ADJ).natAbs ≤ ppbUnits (d.rd Reg.SERVO_CTRL_MAX_ADJ) := by
  unfold Chip.rdS at *
  rw [h.2.2.1, h.2.1 _ _ _ hm (by decide)]
  exact hc

end Sys2Proof.Laws
end

