-- ==== Sys2Proof/Laws/Starts.lean ====
section
/-! SUPPORT. Starts, resets and what survives them (R404, R406 to R409, R441). -/

namespace Sys2Proof.Laws
open Sys2Proof.Machine

theorem wrote_pwr {own : Nat → Prop} {c d : Chip} (h : c.wrote own d) (p : Pwr) : ({ c with pwr := p } : Chip).wrote own { d with pwr := p } := by
  obtain ⟨h1, h2⟩ := h
  refine ⟨?_, h2⟩
  conv => lhs; rw [h1]

theorem get_filter (m : SMap Nat) (p : Nat → Bool) (k : Nat) (h : p k = false) : SMap.get (m.filter fun x => p x.1) k = 0 := by
  induction m with
  | nil => rfl
  | cons x m ih =>
    obtain ⟨j, v⟩ := x
    rw [List.filter_cons]
    split
    · rename_i hp
      simp only [SMap.get]
      rw [if_neg (by intro e; subst e; simp_all)]
      exact ih
    · exact ih

theorem putCal_reported (c : Chip) (v : CalVal) : c.reported (fields [Reg.EVI_DELAY.id, Reg.EVO_DELAY.id, Reg.PPO_DELAY.id, Reg.CKO_DELAY.id, Reg.TS_DELAY_TX_DELAY.id, Reg.TS_DELAY_RX_DELAY.id]) (c.putCal v) := by
  unfold Chip.putCal
  simp only
  split <;> (repeat' (first | (with_reducible exact Chip.notify_reported ..) | (with_reducible exact Chip.count_reported ..) | (with_reducible exact Chip.jrnEvent_reported ..) | (with_reducible exact Chip.jrnCmd_reported ..) | (with_reducible exact Chip.jrnAppend_reported ..) | (with_reducible exact Chip.emit_reported ..) | (with_reducible exact (Chip.reply_reported ..).1) | (with_reducible refine Chip.reported.trans ?_ (Chip.notify_reported ..)) | (with_reducible refine Chip.reported.trans ?_ (Chip.count_reported ..)) | (with_reducible refine Chip.reported.trans ?_ (Chip.jrnEvent_reported ..)) | (with_reducible refine Chip.reported.trans ?_ (Chip.jrnCmd_reported ..)) | (with_reducible refine Chip.reported.trans ?_ (Chip.jrnAppend_reported ..)) | (with_reducible refine Chip.reported.trans ?_ (Chip.emit_reported ..)) | (with_reducible refine Chip.reported.trans ?_ (Chip.reply_reported ..).1) | (with_reducible refine Chip.reported.trans ?_ (Chip.reported.wr _ _ _ _ _ ?_)) | (with_reducible refine Chip.reported.trans ?_ (Chip.reported.flag _ _ _ _ _ ?_)) | (with_reducible exact Chip.reported.refl _ _) | (first | (with_reducible apply Or.inr; decide) | (with_reducible refine Or.inl ((fields_iff _ _ _).2 ?_); decide) | (with_reducible apply Or.inl; simp [places]; done))))

def calIds : List Nat := [Reg.EVI_DELAY.id, Reg.EVO_DELAY.id, Reg.PPO_DELAY.id, Reg.CKO_DELAY.id, Reg.TS_DELAY_TX_DELAY.id, Reg.TS_DELAY_RX_DELAY.id, Reg.CAL_STATUS_CAL_VALID.id, Reg.CAL_STATUS_CAL_COUNT.id, Reg.CAL_LAST.id]

theorem loadCal_reported (c : Chip) : c.reported (fields calIds) c.loadCal := by
  unfold Chip.loadCal
  split
  · exact .refl _ _
  · (repeat' (first | (with_reducible exact Chip.notify_reported ..) | (with_reducible exact Chip.count_reported ..) | (with_reducible exact Chip.jrnEvent_reported ..) | (with_reducible exact Chip.jrnCmd_reported ..) | (with_reducible exact Chip.jrnAppend_reported ..) | (with_reducible exact Chip.emit_reported ..) | (with_reducible exact (Chip.reply_reported ..).1) | (with_reducible refine Chip.reported.trans ?_ (Chip.notify_reported ..)) | (with_reducible refine Chip.reported.trans ?_ (Chip.count_reported ..)) | (with_reducible refine Chip.reported.trans ?_ (Chip.jrnEvent_reported ..)) | (with_reducible refine Chip.reported.trans ?_ (Chip.jrnCmd_reported ..)) | (with_reducible refine Chip.reported.trans ?_ (Chip.jrnAppend_reported ..)) | (with_reducible refine Chip.reported.trans ?_ (Chip.emit_reported ..)) | (with_reducible refine Chip.reported.trans ?_ (Chip.reply_reported ..).1) | (with_reducible refine Chip.reported.trans ?_ (Chip.reported.wr _ _ _ _ _ ?_)) | (with_reducible refine Chip.reported.trans ?_ (Chip.reported.flag _ _ _ _ _ ?_)) | (with_reducible exact Chip.reported.refl _ _) | (first | (with_reducible apply Or.inr; decide) | (with_reducible refine Or.inl ((fields_iff _ _ _).2 ?_); decide) | (with_reducible apply Or.inl; simp [places]; done))))
    refine .each _ _ (fun v c => (putCal_reported c v).mono ?_) c
    intro k; simp only [fields, calIds, List.mem_cons, List.not_mem_nil, or_false]; grind

theorem startRecord_fw (c : Chip) (n : Nat) : (c.startRecord n).fw = c.fw ∧ (c.startRecord n).pwr = { c.pwr with seqLost := false } ∧ (∀ F i e, F.id ∉ reportIds → F.id ∉ steadyIds → (c.startRecord n).rd F i e = c.rd F i e) := by
  unfold Chip.startRecord
  simp only
  generalize hq : (if c.pwr.seqLost = true then c.wr Reg.JRN_STATUS_NEXT_SEQ (c.rd Reg.JRN_SEAL_SEQ + 65537) else c) = q
  have h : c.wrote (places [Reg.JRN_STATUS_NEXT_SEQ.key 0 0]) q := by rw [← hq]; split <;> (repeat' (first | (with_reducible refine Chip.wrote.trans ?_ (Chip.wrote.wr _ _ _ _ _ ?_ ?_)) | (with_reducible refine Chip.wrote.trans ?_ (Chip.wrote.flag _ _ _ _ _ ?_ ?_)) | (with_reducible exact Chip.wrote.refl _ _) | decide | (first | (with_reducible refine (fields_iff _ _ _).2 ?_; decide) | (with_reducible refine mt (fields_iff _ _ _).1 ?_; decide) | (simp (decide := true) [places, Fld.key_eq_iff]; done))))
  refine ⟨?_, ?_, ?_⟩
  · exact (Chip.jrnAppend_reported (own := fun _ => True) ..).fw.trans h.fw
  · exact (Chip.jrnAppend_reported (own := fun _ => True) ..).pwr.trans (by show ({ q.pwr with seqLost := false } : Pwr) = _; rw [h.pwr])
  · intro F i e h1 h2
    rw [(Chip.jrnAppend_reported (own := fun _ => False) ..).rd F i e id h1 h2]
    show q.rd F i e = _
    refine h.2.1 F i e ?_ h2
    intro hm
    have : F.id = Reg.JRN_STATUS_NEXT_SEQ.id := by
      have := congrArg (· / 2 ^ 40) (List.mem_singleton.1 hm)
      simpa only [Fld.key_div] using this
    apply h1; rw [this]; decide

theorem startImages_fw (c : Chip) : c.startImages = { c with fw := c.startImages.fw } ∧ c.startImages.fw.recovery = c.fw.recovery ∧ c.startImages.fw.fails = c.fw.fails ∧ c.startImages.fw.staged = c.fw.staged := by
  unfold Chip.startImages
  generalize List.range 4 = l
  induction l generalizing c with
  | nil => exact ⟨rfl, rfl, rfl, rfl⟩
  | cons x l ih =>
    simp only [List.foldl_cons]
    refine ⟨(ih _).1.trans ?_, (ih _).2.1.trans ?_, (ih _).2.2.1.trans ?_, (ih _).2.2.2.trans ?_⟩
    all_goals split <;> rfl

theorem raiseSec_fw (l : List Nat) (c : Chip) : (c.each l fun t c => c.raiseSec t) = { c with fw := (c.each l fun t c => c.raiseSec t).fw } ∧ (c.each l fun t c => c.raiseSec t).fw.recovery = c.fw.recovery ∧ (c.each l fun t c => c.raiseSec t).fw.fails = c.fw.fails ∧ (c.each l fun t c => c.raiseSec t).fw.staged = c.fw.staged := by
  unfold Chip.each
  induction l generalizing c with
  | nil => exact ⟨rfl, rfl, rfl, rfl⟩
  | cons x l ih =>
    simp only [List.foldl_cons]
    exact ⟨(ih _).1.trans rfl, (ih _).2.1, (ih _).2.2.1, (ih _).2.2.2⟩

theorem startUp_spec (c : Chip) (n : Nat) (ok : Bool) (hb : c.on Reg.BOOT_CFG_BOOT_RUN = false) (hf : (SMap.get c.fw.flash 0).err = 0) (h3 : c.fw.fails < 3) :
    (c.startUp n ok).pwr.low = false ∧ (c.startUp n ok).pwr.failed = false ∧ (c.startUp n ok).fw.recovery = false ∧ (c.startUp n ok).fw.fails = (if ok then 0 else c.fw.fails + 1) ∧
    (c.startUp n ok).fw.staged = c.fw.staged ∧ (c.startUp n ok).rd Reg.PWR_STATUS_LAST_RESET = n % 8 := by
  have hbad : ((SMap.get c.fw.flash 0).err != 0 || decide (3 ≤ c.fw.fails)) = false := by simp [hf]; omega
  unfold Chip.startUp
  simp only [hbad, Bool.false_eq_true, if_false]
  generalize hc0 : ({ c with pwr := { c.pwr with low := false, failed := false }, fw := { c.fw with recovery := false, fails := if ok = true then 0 else c.fw.fails + 1 } } : Chip) = c0
  have p0 : c0.pwr.low = false ∧ c0.pwr.failed = false ∧ c0.fw.recovery = false ∧ c0.fw.fails = (if ok then 0 else c.fw.fails + 1) ∧ c0.fw.staged = c.fw.staged ∧ c0.on Reg.BOOT_CFG_BOOT_RUN = false := by
    subst hc0; exact ⟨rfl, rfl, rfl, rfl, rfl, hb⟩
  clear hc0
  generalize hc1 : Chip.takeId (Chip.startTime (c0.wr Reg.PWR_STATUS_LAST_RESET n).startImages) = c1
  have p1 : c1.pwr = c0.pwr ∧ c1.fw.recovery = false ∧ c1.fw.fails = c0.fw.fails ∧ c1.fw.staged = c0.fw.staged ∧ c1.rd Reg.PWR_STATUS_LAST_RESET = n % 8 ∧ c1.on Reg.BOOT_CFG_BOOT_RUN = false := by
    obtain ⟨i1, i2, i3, i4⟩ := startImages_fw (c0.wr Reg.PWR_STATUS_LAST_RESET n)
    have hw : ∀ d : Chip, d.wrote (fields [Reg.FAB_STATUS_ID_VALID.id, Reg.FAB_STATUS_DEV_ID.id]) d.takeId := by
      intro d
      unfold Chip.takeId
      split
      · exact (Chip.wrote.flag _ _ _ _ _ (by (first | (with_reducible refine (fields_iff _ _ _).2 ?_; decide) | (with_reducible refine mt (fields_iff _ _ _).1 ?_; decide) | (simp (decide := true) [places, Fld.key_eq_iff]; done))) (by decide)).trans (.wr _ _ _ _ _ (by (first | (with_reducible refine (fields_iff _ _ _).2 ?_; decide) | (with_reducible refine mt (fields_iff _ _ _).1 ?_; decide) | (simp (decide := true) [places, Fld.key_eq_iff]; done))) (by decide))
      · exact (Chip.wrote.flag _ _ _ _ _ (by (first | (with_reducible refine (fields_iff _ _ _).2 ?_; decide) | (with_reducible refine mt (fields_iff _ _ _).1 ?_; decide) | (simp (decide := true) [places, Fld.key_eq_iff]; done))) (by decide)).trans (.wr _ _ _ _ _ (by (first | (with_reducible refine (fields_iff _ _ _).2 ?_; decide) | (with_reducible refine mt (fields_iff _ _ _).1 ?_; decide) | (simp (decide := true) [places, Fld.key_eq_iff]; done))) (by decide))
    generalize hd : (c0.wr Reg.PWR_STATUS_LAST_RESET n).startImages = d at *
    have hr : ∀ F i e, d.rd F i e = (c0.wr Reg.PWR_STATUS_LAST_RESET n).rd F i e := fun F i e => by rw [i1]; rfl
    subst hc1
    have g := hw d.startTime
    refine ⟨g.pwr.trans (by show d.pwr = _; rw [i1]; rfl), ?_, ?_, ?_, ?_, ?_⟩
    · rw [g.fw]; exact i2.trans p0.2.2.1
    · rw [g.fw]; exact i3
    · rw [g.fw]; exact i4
    · rw [g.2.1 _ _ _ (by (first | (with_reducible refine (fields_iff _ _ _).2 ?_; decide) | (with_reducible refine mt (fields_iff _ _ _).1 ?_; decide) | (simp (decide := true) [places, Fld.key_eq_iff]; done))) (by decide)]
      show d.rd _ _ _ = _
      rw [hr, Chip.rd_wr_same]; rfl
    · unfold Chip.on
      rw [g.2.1 _ _ _ (by (first | (with_reducible refine (fields_iff _ _ _).2 ?_; decide) | (with_reducible refine mt (fields_iff _ _ _).1 ?_; decide) | (simp (decide := true) [places, Fld.key_eq_iff]; done))) (by decide)]
      show (d.rd _ _ _ == 1) = _
      rw [hr, Chip.rd_wr_id _ _ _ _ _ _ (by decide)]; exact p0.2.2.2.2.2
  clear hc1
  replace p1 : (c1.searchBand 0).pwr = c0.pwr ∧ (c1.searchBand 0).fw.recovery = false ∧ (c1.searchBand 0).fw.fails = c0.fw.fails ∧
      (c1.searchBand 0).fw.staged = c0.fw.staged ∧ (c1.searchBand 0).rd Reg.PWR_STATUS_LAST_RESET = n % 8 ∧
      (c1.searchBand 0).on Reg.BOOT_CFG_BOOT_RUN = false := p1
  generalize c1.searchBand 0 = c1 at p1 ⊢
  generalize hc2 : (if c1.stateKey = 0 then ({ c1.draw.2 with stateKey := (Config.entropy c1.draw.1).toNat } : Chip) else c1) = c2
  have p2 : c2.pwr = c1.pwr ∧ c2.fw = c1.fw ∧ c2.regs = c1.regs := by
    subst hc2; split <;> exact ⟨rfl, rfl, rfl⟩
  have hl := loadCal_reported c2
  obtain ⟨r1, r2, r3⟩ := startRecord_fw c2.loadCal n
  have hboot : (c2.loadCal.startRecord n).boot = c2.loadCal.startRecord n := by
    unfold Chip.boot
    rw [if_pos]
    unfold Chip.on
    rw [r3 _ _ _ (by decide) (by decide), hl.rd _ _ _ (by unfold calIds; (first | (with_reducible refine (fields_iff _ _ _).2 ?_; decide) | (with_reducible refine mt (fields_iff _ _ _).1 ?_; decide) | (simp (decide := true) [places, Fld.key_eq_iff]; done))) (by decide) (by decide)]
    have e : c2.rd Reg.BOOT_CFG_BOOT_RUN = c1.rd Reg.BOOT_CFG_BOOT_RUN := by unfold Chip.rd; rw [p2.2.2]
    rw [e]
    have h := p1.2.2.2.2.2
    unfold Chip.on at h
    rw [h]; rfl
  rw [hboot]
  have q : (c2.loadCal.startRecord n).pwr.low = false ∧ (c2.loadCal.startRecord n).pwr.failed = false ∧ (c2.loadCal.startRecord n).fw = c1.fw ∧ (c2.loadCal.startRecord n).rd Reg.PWR_STATUS_LAST_RESET = n % 8 := by
    refine ⟨?_, ?_, ?_, ?_⟩
    · rw [r2]; show c2.loadCal.pwr.low = _; rw [hl.pwr, p2.1, p1.1]; exact p0.1
    · rw [r2]; show c2.loadCal.pwr.failed = _; rw [hl.pwr, p2.1, p1.1]; exact p0.2.1
    · rw [r1, hl.fw, p2.2.1]
    · rw [r3 _ _ _ (by decide) (by decide), hl.rd _ _ _ (by unfold calIds; (first | (with_reducible refine (fields_iff _ _ _).2 ?_; decide) | (with_reducible refine mt (fields_iff _ _ _).1 ?_; decide) | (simp (decide := true) [places, Fld.key_eq_iff]; done))) (by decide) (by decide)]
      show Chip.rd c2 _ _ _ = _
      rw [← p1.2.2.2.2.1]
      unfold Chip.rd; rw [p2.2.2]
  obtain ⟨z1, z2, z3, z4⟩ := raiseSec_fw (List.range 4) (c2.loadCal.startRecord n)
  cases ok with
  | false => 
    simp only [Bool.false_eq_true, if_false] at *
    refine ⟨q.1, q.2.1, ?_, ?_, ?_, q.2.2.2⟩
    · rw [q.2.2.1, p1.2.1]
    · rw [q.2.2.1, p1.2.2.1]; exact p0.2.2.2.1
    · rw [q.2.2.1, p1.2.2.2.1]; exact p0.2.2.2.2.1
  | true => 
    simp only [if_true] at *
    refine ⟨?_, ?_, ?_, ?_, ?_, ?_⟩
    · rw [z1]; exact q.1
    · rw [z1]; exact q.2.1
    · rw [z2, q.2.2.1, p1.2.1]
    · rw [z3, q.2.2.1, p1.2.2.1]; exact p0.2.2.2.1
    · rw [z4, q.2.2.1, p1.2.2.2.1]; exact p0.2.2.2.2.1
    · have zr : ((c2.loadCal.startRecord n).each (List.range 4) fun t c => c.raiseSec t).regs = (c2.loadCal.startRecord n).regs := (congrArg Chip.regs z1).trans rfl
      have h := q.2.2.2
      unfold Chip.rd at h ⊢
      rw [zr]; exact h

theorem get_filter_keep (m : SMap Nat) (p : Nat → Bool) (k : Nat) (h : p k = true) : SMap.get (m.filter fun x => p x.1) k = SMap.get m k := by
  induction m with
  | nil => rfl
  | cons x m ih =>
    obtain ⟨j, v⟩ := x
    rw [List.filter_cons]
    split
    · simp only [SMap.get, ih]
    · rename_i hp
      simp only [SMap.get]
      rw [if_neg (by intro e; subst e; simp_all)]
      exact ih

theorem cutWrites_err (c : Chip) (h : c.fwWriting 0 = false) : (SMap.get c.cutWrites 0).err = (SMap.get c.fw.flash 0).err := by
  unfold Chip.cutWrites
  generalize c.fw.flash = m
  have : ∀ (l : List Nat) (m : SMap FwImg), SMap.get (l.foldl (fun m t => if c.fwWriting t then SMap.upd m t fun x => { x with err := 6 } else m) m) 0 = SMap.get m 0 := by
    intro l
    induction l with
    | nil => intro m; rfl
    | cons t l ih =>
      intro m
      simp only [List.foldl_cons]
      rw [ih]
      split
      · rename_i ht
        rw [SMap.get_upd_ne]
        rintro rfl
        rw [h] at ht; cases ht
      · rfl
  rw [this]

theorem zeroSlot_wrote (l : List Nat) (c : Chip) : c.wrote (fields [Reg.KEY_STATE_VALID.id, Reg.KEY_STATE_LAST_SEQ.id, Reg.KEY_STATE_ROLE.id, Reg.KEY_STATE_TRANSPORTS.id]) (c.each l Chip.zeroSlot) := by
  unfold Chip.each
  induction l generalizing c with
  | nil => exact .refl _ _
  | cons x l ih =>
    refine Chip.wrote.trans ?_ (ih _)
    unfold Chip.zeroSlot Chip.setRole
    refine (((Chip.wrote.flag _ _ _ _ _ ?_ (by decide)).trans (.wr _ _ _ _ _ ?_ (by decide))).trans (.wr _ _ _ _ _ ?_ (by decide))).trans (.wr _ _ _ _ _ ?_ (by decide)) <;> (first | (with_reducible refine (fields_iff _ _ _).2 ?_; decide) | (with_reducible refine mt (fields_iff _ _ _).1 ?_; decide) | (simp (decide := true) [places, Fld.key_eq_iff]; done))

theorem zeroSlot_val (l : List Nat) (c : Chip) (k : Nat) (hk : k ∈ l) : (c.each l Chip.zeroSlot).on Reg.KEY_STATE_VALID k = false ∧ (c.each l Chip.zeroSlot).rd Reg.KEY_STATE_LAST_SEQ k = 0 := by
  have step : ∀ (x : Nat) (c : Chip), (Chip.zeroSlot x c).on Reg.KEY_STATE_VALID x = false ∧ (Chip.zeroSlot x c).rd Reg.KEY_STATE_LAST_SEQ x = 0 := by
    intro x c
    unfold Chip.zeroSlot Chip.setRole
    refine ⟨by (simp (disch := decide) only [Chip.steady_on, Chip.steady_rd, Chip.notify_on, Chip.notify_rd, Chip.count_on, Chip.count_rd, Chip.on_id, Chip.flag_id, Chip.on_wr_id, Chip.rd_wr_id, Chip.wrS_id, Chip.on_flag_same, Chip.rd_wr_same]), by (simp (disch := decide) only [Chip.steady_on, Chip.steady_rd, Chip.notify_on, Chip.notify_rd, Chip.count_on, Chip.count_rd, Chip.on_id, Chip.flag_id, Chip.on_wr_id, Chip.rd_wr_id, Chip.wrS_id, Chip.on_flag_same, Chip.rd_wr_same]); rfl⟩
  have keep : ∀ (x : Nat) (c : Chip), c.on Reg.KEY_STATE_VALID k = false ∧ c.rd Reg.KEY_STATE_LAST_SEQ k = 0 → (Chip.zeroSlot x c).on Reg.KEY_STATE_VALID k = false ∧ (Chip.zeroSlot x c).rd Reg.KEY_STATE_LAST_SEQ k = 0 := by
    intro x c h
    by_cases he : k % 2 ^ 20 = x % 2 ^ 20
    · have h1 : ∀ (F : Fld) (d : Chip), F.exc = [] → d.rd F k = d.rd F x := by
        intro F d hx
        unfold Chip.rd regGet Fld.key Fld.reset
        rw [he, hx]; rfl
      unfold Chip.on at *
      rw [h1 _ _ rfl, h1 _ _ rfl]
      exact step x c
    · unfold Chip.zeroSlot Chip.setRole Chip.on
      refine ⟨?_, ?_⟩
      · (simp (disch := decide) only [Chip.steady_on, Chip.steady_rd, Chip.notify_on, Chip.notify_rd, Chip.count_on, Chip.count_rd, Chip.on_id, Chip.flag_id, Chip.on_wr_id, Chip.rd_wr_id, Chip.wrS_id, Chip.on_flag_same, Chip.rd_wr_same]); unfold Chip.flag; rw [Chip.rd_wr_obj _ _ _ _ _ _ he]; exact h.1
      · (simp (disch := decide) only [Chip.steady_on, Chip.steady_rd, Chip.notify_on, Chip.notify_rd, Chip.count_on, Chip.count_rd, Chip.on_id, Chip.flag_id, Chip.on_wr_id, Chip.rd_wr_id, Chip.wrS_id, Chip.on_flag_same, Chip.rd_wr_same]); rw [Chip.rd_wr_obj _ _ _ _ _ _ he]; (simp (disch := decide) only [Chip.steady_on, Chip.steady_rd, Chip.notify_on, Chip.notify_rd, Chip.count_on, Chip.count_rd, Chip.on_id, Chip.flag_id, Chip.on_wr_id, Chip.rd_wr_id, Chip.wrS_id, Chip.on_flag_same, Chip.rd_wr_same]); exact h.2
  unfold Chip.each
  induction l generalizing c with
  | nil => cases hk
  | cons x l ih =>
    simp only [List.foldl_cons]
    rcases List.mem_cons.1 hk with rfl | hm
    · clear ih
      have := step k c
      generalize Chip.zeroSlot k c = d at *
      clear hk
      induction l generalizing d with
      | nil => exact this
      | cons y l ih => exact ih _ (keep y d this)
    · exact ih _ hm

theorem zeroSeal_reported (c : Chip) : c.reported (fields [Reg.JRN_SEAL_SEQ.id, Reg.JRN_SEAL_DIGEST.id, Reg.JRN_SEAL_FLASH_INDEX.id, Reg.JRN_SEAL_CRC.id]) c.zeroSeal := by
  unfold Chip.zeroSeal
  (repeat' (first | (with_reducible exact Chip.notify_reported ..) | (with_reducible exact Chip.count_reported ..) | (with_reducible exact Chip.jrnEvent_reported ..) | (with_reducible exact Chip.jrnCmd_reported ..) | (with_reducible exact Chip.jrnAppend_reported ..) | (with_reducible exact Chip.emit_reported ..) | (with_reducible exact (Chip.reply_reported ..).1) | (with_reducible refine Chip.reported.trans ?_ (Chip.notify_reported ..)) | (with_reducible refine Chip.reported.trans ?_ (Chip.count_reported ..)) | (with_reducible refine Chip.reported.trans ?_ (Chip.jrnEvent_reported ..)) | (with_reducible refine Chip.reported.trans ?_ (Chip.jrnCmd_reported ..)) | (with_reducible refine Chip.reported.trans ?_ (Chip.jrnAppend_reported ..)) | (with_reducible refine Chip.reported.trans ?_ (Chip.emit_reported ..)) | (with_reducible refine Chip.reported.trans ?_ (Chip.reply_reported ..).1) | (with_reducible refine Chip.reported.trans ?_ (Chip.reported.wr _ _ _ _ _ ?_)) | (with_reducible refine Chip.reported.trans ?_ (Chip.reported.flag _ _ _ _ _ ?_)) | (with_reducible exact Chip.reported.refl _ _) | (first | (with_reducible apply Or.inr; decide) | (with_reducible refine Or.inl ((fields_iff _ _ _).2 ?_); decide) | (with_reducible apply Or.inl; simp [places]; done))))

end Sys2Proof.Laws
end

