-- ==== Sys2Proof/WellFormed.lean ====
section
/-! DEFINITION. Well-formed commands: operands within the widths that the spec gives them. A meaning cuts what it stores to its register's
width; these checks say which operands the outside world can send. -/

namespace Sys2Proof

/-- The request a packet command or a direct register command carries. -/
def Instr.req : Instr → Option Req
  | .nop r => some r
  | .identify r => some r
  | .objRead r _ => some r
  | .objWrite r _ => some r
  | .objReadBulk r _ _ => some r
  | .txnBegin r => some r
  | .txnCommit r _ _ _ _ => some r
  | .txnRollback r => some r
  | .txnStatus r => some r
  | .tblInsert r _ _ _ => some r
  | .tblDelete r _ _ => some r
  | .tblLookup r _ _ => some r
  | .tblDma r _ _ _ _ _ _ _ => some r
  | .tblBarrier r _ => some r
  | .queueFlush r _ _ => some r
  | .timeGet r => some r
  | .timeStep r _ => some r
  | .timeIncr r _ _ _ => some r
  | .refForce r _ _ _ => some r
  | .jumpAccept r _ _ => some r
  | .cycLoad r _ _ => some r
  | .cycStart r _ => some r
  | .cycStop r _ => some r
  | .cycSwap r _ => some r
  | .cntSnapshot r => some r
  | .cntRead r _ => some r
  | .jrnRead r _ _ => some r
  | .jrnMark r _ _ => some r
  | .twinStatus r => some r
  | .twinPromote r _ _ => some r
  | .twinDemote r => some r
  | .twinCheckpoint r _ _ _ => some r
  | .twinHeartbeat r _ => some r
  | .fabStatus r => some r
  | .fabAssign r _ => some r
  | .fabRoute r _ _ _ => some r
  | .fwStage r _ _ => some r
  | .fwWrite r _ => some r
  | .fwActivate r _ => some r
  | .fwStatus r => some r
  | .calRun r _ => some r
  | .calCommit r _ => some r
  | .lullCtrl r _ => some r
  | .loopback r _ => some r
  | .diagCapture r _ _ => some r
  | .keyInstall r _ _ _ _ => some r
  | .keyRetire r _ _ _ => some r
  | .roleMap r _ _ _ => some r
  | .evoSetLow r _ _ => some r
  | .evoSetHigh r _ _ => some r
  | .evoToggle r _ _ => some r
  | .evoPulse r _ _ _ => some r
  | .synVreq r _ _ => some r
  | .hpiOffset r _ => some r
  | .optRaw r _ _ _ _ _ _ _ _ _ => some r
  | .eviFifo r _ => some r
  | .ivlSamples r _ => some r
  | .arbFreezeSet r _ => some r
  | .arbFreezeClear r _ _ => some r
  | .tblLockSet r _ _ => some r
  | .tblLockRelease r _ _ => some r
  | .cmdPacketRx _ _ _ => none
  | .hifRegWrite _ _ _ => none
  | .hifCmdTailWrite _ _ _ => none
  | .hifInjTailWrite _ _ => none
  | .injectFrame => none
  | .hifRspTailWrite _ _ _ => none
  | .rspRingTimeout => none
  | .hostReset => none
  | .hifMbxPost _ => none
  | .mbxCommandTake _ => none
  | .hifMbxAck _ => none
  | .hifEmbxPost _ => none
  | .hifDbSet _ => none
  | .doorbellCommandStart _ => none
  | .tblLockDrained _ _ => none
  | .lockExpired _ _ => none
  | .rxFrameStart _ _ _ _ _ => none
  | .keyPoint _ => none
  | .lookupPoint _ _ _ => none
  | .gatherTap _ => none
  | .rxOversizeCut _ => none
  | .confirmation _ _ _ _ => none
  | .pauseExpire _ => none
  | .pfcRepeat _ => none
  | .errorMarkerLateConfirm _ => none
  | .egressStartOpportunity _ _ _ => none
  | .releaseStageArrival _ => none
  | .launchSent _ _ _ => none
  | .txFrameEnd _ => none
  | .shaperWake _ => none
  | .redAvgUpdate => none
  | .gateEntryChange _ => none
  | .gateChangeTime _ => none
  | .streamGateEntryChange _ => none
  | .verifyTimer _ => none
  | .lpiSleepDelay _ => none
  | .eidleHoldoffExpire _ => none
  | .eidleWakeDone _ => none
  | .eidleWakeFail _ => none
  | .eidleLldpSend _ => none
  | .eidleReportExpire _ => none
  | .linkStateChange _ _ _ _ => none
  | .optPoll _ _ _ => none
  | .optStretchTimeout _ => none
  | .baroSample _ => none
  | .arbPhase _ _ => none
  | .arbDataPhaseEnd _ => none
  | .arbWdExpired _ => none
  | .learnRequestApply => none
  | .ageVisit _ => none
  | .seqHistoryReset _ => none
  | .tblCleanup _ => none
  | .tblBarrierDone => none
  | .tblBarrierTimeout _ => none
  | .timeIncrDurationEnd => none
  | .tdcLockChange _ _ => none
  | .phmLos _ => none
  | .phmRestart _ _ => none
  | .evtInEdge _ _ _ _ => none
  | .ivlPairDecide _ => none
  | .evoEdgePlace _ _ => none
  | .evoPeriodicPulse _ _ => none
  | .ppsOutPulse _ _ => none
  | .dpllUpdate _ _ _ => none
  | .dpllFreqCheck _ _ _ => none
  | .dpllHopDone _ => none
  | .rampProfileStart _ => none
  | .rampHoldExpire _ => none
  | .synTargetStart _ => none
  | .encQuarterEdge _ => none
  | .ckoAlignRestart _ _ => none
  | .selEvaluate => none
  | .suppressWindowEnd => none
  | .refQualify _ => none
  | .refDisqualified _ => none
  | .refMeasWindow _ => none
  | .selAcqTimeout _ => none
  | .hoMaxExpire _ => none
  | .hoHistoryRecord _ => none
  | .ptpMsgProcess _ => none
  | .ptpSyncSend _ => none
  | .ptpAnnounceSend _ => none
  | .ptpDelayReqSend _ => none
  | .annTimeout _ => none
  | .esmcPduRx _ => none
  | .qlTimeout _ => none
  | .esmcInfoSend _ => none
  | .cycTrigger _ => none
  | .gatherDeadline _ => none
  | .engineWaitseqResume _ => none
  | .engineProgramEnd _ => none
  | .fenceOpen _ => none
  | .scatterEnqueue _ => none
  | .opNop _ _ => none
  | .opLoad _ _ => none
  | .opStore _ _ => none
  | .opMovi _ _ => none
  | .opShuf _ _ => none
  | .opGather _ _ => none
  | .opWaitseq _ _ => none
  | .opTsub _ _ => none
  | .opRecv _ _ => none
  | .opCntrd _ _ => none
  | .opAxflt _ _ => none
  | .opAdd _ _ => none
  | .opSub _ _ => none
  | .opMul _ _ => none
  | .opMac _ _ => none
  | .opDiv _ _ => none
  | .opNeg _ _ => none
  | .opAbs _ _ => none
  | .opMin _ _ => none
  | .opMax _ _ => none
  | .opClamp _ _ => none
  | .opShift _ _ => none
  | .opCvt _ _ => none
  | .opSqrt _ _ => none
  | .opCmp _ _ => none
  | .opPlog _ _ => none
  | .opVmaster _ _ => none
  | .opGear _ _ => none
  | .opCam _ _ => none
  | .opRegist _ _ => none
  | .opFilt _ _ => none
  | .opPid _ _ => none
  | .opField _ _ => none
  | .opScatter _ _ => none
  | .opEvtreq _ _ => none
  | .opVreq _ _ => none
  | .opPost _ _ => none
  | .opSkip _ _ => none
  | .opEnd _ _ => none
  | .fabHelloSend _ => none
  | .fabHelloRx _ _ => none
  | .fabHelloTimeout _ => none
  | .fabRecordSend => none
  | .fabRecordRx _ _ => none
  | .fabRecordExpire => none
  | .fabRouteRecompute => none
  | .fabCreditSend _ => none
  | .fabCreditRx _ _ => none
  | .fabCreditWdDrop _ => none
  | .coalWindowEnd _ _ => none
  | .twinPresentProbe _ => none
  | .twinHoldInEdge => none
  | .twinHoldReleased => none
  | .twinClaimCheck => none
  | .holdWdExp => none
  | .tFenceExpire => none
  | .thawEgressOpen => none
  | .twinStateSave => none
  | .takebackStart => none
  | .preThawStart => none
  | .txnIdleTimeout _ => none
  | .txnScopeAcquired _ => none
  | .txnLockWaitTimeout _ => none
  | .txnPrepareDone _ => none
  | .txnCommitPoint _ => none
  | .jrnSpill _ => none
  | .fwSwitchover => none
  | .fwHandoverConfirm => none
  | .fwHandoverRevert => none
  | .fwRestart => none
  | .mgmtWatchdogExpire => none
  | .resetRelease _ _ => none
  | .resetAssert => none
  | .powerFail => none
  | .vbakLost => none
  | .xtalFail => none
  | .kaTimeSet => none
  | .thermSample _ _ => none
  | .calRunDone _ => none
  | .lullCellTest _ _ => none
  | .lullScrub _ _ _ => none
  | .lullTdcPulse _ _ => none
  | .lullEngineTest _ _ => none
  | .timebaseTick _ => none
  | .phmSample _ _ => none
  | .lpiRx _ _ => none
  | .eidleRxEntry _ => none
  | .eidleRxWake _ => none
  | .trappedFrameHandle _ _ => none
  | .fwWriteDone _ _ => none
  | .tblDmaDone _ _ => none
  | .diagCaptureDone _ => none
  | .imageFetchDone _ _ => none
  | .ckptLagExceeded => none
  | .checkpointSend => none
  | .factoryTestAccessOpen => none

/-- A request's header fields: a key slot 0 to 31 or 255, TXN_ID and SEQUENCE of 32 bits (R350). -/
def Req.wf (r : Req) : Bool :=
  (decide (r.slot < 32) || r.slot == 255) && decide (r.txn < 2 ^ 32) && decide (r.seq < 2 ^ 32)

/-- The fields IMM, ADDR and AUX of a descriptor (R279). -/
def Desc.wf (d : Desc) : Bool := decide (d.imm < 2 ^ 24) && decide (d.addr < 2 ^ 32) && decide (d.aux < 2 ^ 32)

/-- A frame from its DA to its FCS, whole or cut: 1 to 65,535 bytes. Runts and oversize frames can arrive. -/
def frameBytesOk (b : Bytes) : Bool := decide (1 ≤ b.length) && decide (b.length < 65536)

/-- An aligned access of 1 to 8 bytes within BAR0 (R366). -/
def barAccessOk (off width : Nat) (value : Option Nat) : Bool :=
  [1, 2, 4, 8].contains width && off % width == 0 && decide (off + width ≤ 1048576) && value.all fun v => decide (v < 2 ^ (8 * width))

/-- Object, table and word operands: the widths of their TLVs (R396). -/
def Instr.operandsOk : Instr → Bool
  | .nop _ => true
  | .identify _ => true
  | .objRead _ l => l.all fun o => decide (o.obj < 2 ^ 32)
  | .objWrite _ l => l.all fun w => decide (w.obj < 2 ^ 32)
  | .objReadBulk _ o _ => decide (o < 2 ^ 32)
  | .txnBegin _ => true
  | .txnCommit _ m _ _ _ => decide (m < 256)
  | .txnRollback _ => true
  | .txnStatus _ => true
  | .tblInsert _ t e _ => decide (t < 256) && decide (e < 2 ^ 520)
  | .tblDelete _ t _ => decide (t < 256)
  | .tblLookup _ t _ => decide (t < 256)
  | .tblDma _ t h f n _ _ _ => decide (t < 256) && decide (h < 2 ^ 64) && decide (f < 2 ^ 32) && decide (n < 2 ^ 32)
  | .tblBarrier _ _ => true
  | .queueFlush _ _ n => decide (n < 8192)
  | .timeGet _ => true
  | .timeStep _ _ => true
  | .timeIncr _ a d b => decide (a.natAbs < 2 ^ 32) && decide (d < 2 ^ 32) && decide (b.natAbs < 2 ^ 32)
  | .refForce _ _ a n => decide (a < 8) && decide (n < 32)
  | .jumpAccept _ a b => decide (a < 65536) && decide (b < 256)
  | .cycLoad _ e _ => decide (e < 2 ^ 64)
  | .cycStart _ _ => true
  | .cycStop _ _ => true
  | .cycSwap _ e => decide (e < 2 ^ 64)
  | .cntSnapshot _ => true
  | .cntRead _ _ => true
  | .jrnRead _ a n => decide (a < 2 ^ 64) && decide (n < 256)
  | .jrnMark _ v _ => decide (v < 2 ^ 32)
  | .twinStatus _ => true
  | .twinPromote _ h _ => decide (h < 2 ^ 96)
  | .twinDemote _ => true
  | .twinCheckpoint _ k n _ => decide (k < 256) && decide (n < 2 ^ 32)
  | .twinHeartbeat _ _ => true
  | .fabStatus _ => true
  | .fabAssign _ _ => true
  | .fabRoute _ _ _ _ => true
  | .fwStage _ t _ => decide (t < 16)
  | .fwWrite _ t => decide (t < 16)
  | .fwActivate _ t => decide (t < 16)
  | .fwStatus _ => true
  | .calRun _ w => decide (w < 2 ^ 64)
  | .calCommit _ w => decide (w < 2 ^ 64)
  | .lullCtrl _ w => decide (w < 2 ^ 32)
  | .loopback _ w => decide (w < 2 ^ 32)
  | .diagCapture _ w _ => decide (w < 2 ^ 32)
  | .keyInstall _ a b d _ => decide (a < 256) && decide (b < 256) && decide (d < 32)
  | .keyRetire _ a b d => decide (a < 256) && decide (b < 256) && decide (d < 32)
  | .roleMap _ a b d => decide (a < 256) && decide (b < 256) && decide (d < 32)
  | .cmdPacketRx _ _ _ => true
  | .hifRegWrite o w v => barAccessOk o w v
  | .hifCmdTailWrite _ _ _ => true
  | .hifInjTailWrite _ _ => true
  | .injectFrame => true
  | .hifRspTailWrite _ _ _ => true
  | .rspRingTimeout => true
  | .hostReset => true
  | .hifMbxPost _ => true
  | .mbxCommandTake _ => true
  | .hifMbxAck m => decide (m < 2 ^ 32)
  | .hifEmbxPost _ => true
  | .hifDbSet _ => true
  | .doorbellCommandStart _ => true
  | .evoSetLow _ _ t => decide (t < 2 ^ 96)
  | .evoSetHigh _ _ t => decide (t < 2 ^ 96)
  | .evoToggle _ _ t => decide (t < 2 ^ 96)
  | .evoPulse _ _ t w => decide (t < 2 ^ 96) && decide (w < 2 ^ 30)
  | .synVreq _ _ v => decide (v < 2 ^ 128)
  | .hpiOffset _ _ => true
  | .optRaw _ _ _ _ _ _ _ _ _ _ => true
  | .eviFifo _ _ => true
  | .ivlSamples _ _ => true
  | .arbFreezeSet _ _ => true
  | .arbFreezeClear _ _ _ => true
  | .tblLockSet _ _ _ => true
  | .tblLockDrained _ _ => true
  | .tblLockRelease _ _ _ => true
  | .lockExpired _ _ => true
  | .rxFrameStart _ _ b _ _ => frameBytesOk b
  | .keyPoint _ => true
  | .lookupPoint _ _ _ => true
  | .gatherTap _ => true
  | .rxOversizeCut _ => true
  | .confirmation _ _ n _ => n.lanes.all fun l => decide (l.symCorr < 2 ^ 32) && decide (l.cwCorr < 2 ^ 32) && decide (l.cwUncorr < 2 ^ 32)
  | .pauseExpire _ => true
  | .pfcRepeat _ => true
  | .errorMarkerLateConfirm _ => true
  | .egressStartOpportunity _ _ _ => true
  | .releaseStageArrival _ => true
  | .launchSent _ _ _ => true
  | .txFrameEnd _ => true
  | .shaperWake _ => true
  | .redAvgUpdate => true
  | .gateEntryChange _ => true
  | .gateChangeTime l => decide (l < 512) || (decide (1024 ≤ l) && decide (l < 1536))
  | .streamGateEntryChange _ => true
  | .verifyTimer _ => true
  | .lpiSleepDelay _ => true
  | .eidleHoldoffExpire _ => true
  | .eidleWakeDone _ => true
  | .eidleWakeFail _ => true
  | .eidleLldpSend _ => true
  | .eidleReportExpire _ => true
  | .linkStateChange _ _ _ _ => true
  | .optPoll _ _ _ => true
  | .optStretchTimeout _ => true
  | .baroSample _ => true
  | .arbPhase _ _ => true
  | .arbDataPhaseEnd _ => true
  | .arbWdExpired _ => true
  | .learnRequestApply => true
  | .ageVisit _ => true
  | .seqHistoryReset _ => true
  | .tblCleanup _ => true
  | .tblBarrierDone => true
  | .tblBarrierTimeout _ => true
  | .timeIncrDurationEnd => true
  | .tdcLockChange _ _ => true
  | .phmLos _ => true
  | .phmRestart _ _ => true
  | .evtInEdge _ _ _ _ => true
  | .ivlPairDecide _ => true
  | .evoEdgePlace _ _ => true
  | .evoPeriodicPulse _ _ => true
  | .ppsOutPulse _ _ => true
  | .dpllUpdate _ _ _ => true
  | .dpllFreqCheck _ _ _ => true
  | .dpllHopDone _ => true
  | .rampProfileStart _ => true
  | .rampHoldExpire _ => true
  | .synTargetStart _ => true
  | .encQuarterEdge _ => true
  | .ckoAlignRestart _ _ => true
  | .selEvaluate => true
  | .suppressWindowEnd => true
  | .refQualify _ => true
  | .refDisqualified _ => true
  | .refMeasWindow _ => true
  | .selAcqTimeout _ => true
  | .hoMaxExpire _ => true
  | .hoHistoryRecord _ => true
  | .ptpMsgProcess _ => true
  | .ptpSyncSend _ => true
  | .ptpAnnounceSend _ => true
  | .ptpDelayReqSend _ => true
  | .annTimeout _ => true
  | .esmcPduRx _ => true
  | .qlTimeout _ => true
  | .esmcInfoSend _ => true
  | .cycTrigger _ => true
  | .gatherDeadline _ => true
  | .engineWaitseqResume _ => true
  | .engineProgramEnd _ => true
  | .fenceOpen _ => true
  | .scatterEnqueue _ => true
  | .opNop _ d => d.wf
  | .opLoad _ d => d.wf
  | .opStore _ d => d.wf
  | .opMovi _ d => d.wf
  | .opShuf _ d => d.wf
  | .opGather _ d => d.wf
  | .opWaitseq _ d => d.wf
  | .opTsub _ d => d.wf
  | .opRecv _ d => d.wf
  | .opCntrd _ d => d.wf
  | .opAxflt _ d => d.wf
  | .opAdd _ d => d.wf
  | .opSub _ d => d.wf
  | .opMul _ d => d.wf
  | .opMac _ d => d.wf
  | .opDiv _ d => d.wf
  | .opNeg _ d => d.wf
  | .opAbs _ d => d.wf
  | .opMin _ d => d.wf
  | .opMax _ d => d.wf
  | .opClamp _ d => d.wf
  | .opShift _ d => d.wf
  | .opCvt _ d => d.wf
  | .opSqrt _ d => d.wf
  | .opCmp _ d => d.wf
  | .opPlog _ d => d.wf
  | .opVmaster _ d => d.wf
  | .opGear _ d => d.wf
  | .opCam _ d => d.wf
  | .opRegist _ d => d.wf
  | .opFilt _ d => d.wf
  | .opPid _ d => d.wf
  | .opField _ d => d.wf
  | .opScatter _ d => d.wf
  | .opEvtreq _ d => d.wf
  | .opVreq _ d => d.wf
  | .opPost _ d => d.wf
  | .opSkip _ d => d.wf
  | .opEnd _ d => d.wf
  | .fabHelloSend _ => true
  | .fabHelloRx _ _ => true
  | .fabHelloTimeout _ => true
  | .fabRecordSend => true
  | .fabRecordRx _ _ => true
  | .fabRecordExpire => true
  | .fabRouteRecompute => true
  | .fabCreditSend _ => true
  | .fabCreditRx _ _ => true
  | .fabCreditWdDrop _ => true
  | .coalWindowEnd _ _ => true
  | .twinPresentProbe _ => true
  | .twinHoldInEdge => true
  | .twinHoldReleased => true
  | .twinClaimCheck => true
  | .holdWdExp => true
  | .tFenceExpire => true
  | .thawEgressOpen => true
  | .twinStateSave => true
  | .takebackStart => true
  | .preThawStart => true
  | .txnIdleTimeout _ => true
  | .txnScopeAcquired _ => true
  | .txnLockWaitTimeout _ => true
  | .txnPrepareDone _ => true
  | .txnCommitPoint _ => true
  | .jrnSpill _ => true
  | .fwSwitchover => true
  | .fwHandoverConfirm => true
  | .fwHandoverRevert => true
  | .fwRestart => true
  | .mgmtWatchdogExpire => true
  | .resetRelease _ _ => true
  | .resetAssert => true
  | .powerFail => true
  | .vbakLost => true
  | .xtalFail => true
  | .kaTimeSet => true
  | .thermSample _ _ => true
  | .calRunDone _ => true
  | .lullCellTest _ _ => true
  | .lullScrub _ _ _ => true
  | .lullTdcPulse _ _ => true
  | .lullEngineTest _ _ => true
  | .timebaseTick _ => true
  | .phmSample _ _ => true
  | .lpiRx _ _ => true
  | .eidleRxEntry _ => true
  | .eidleRxWake _ => true
  | .trappedFrameHandle _ _ => true
  | .fwWriteDone _ _ => true
  | .tblDmaDone _ _ => true
  | .diagCaptureDone _ => true
  | .imageFetchDone _ _ => true
  | .ckptLagExceeded => true
  | .checkpointSend => true
  | .factoryTestAccessOpen => true

/-- A well-formed command. -/
def Instr.wf (i : Instr) : Bool := (match i.req with | some r => r.wf | none => true) && i.operandsOk

end Sys2Proof
end

