-- ==== Sys2Proof/Tests/Slice0.lean ====
section
/-! SUPPORT. Tests: for every statement that has hypotheses a witness, with states and operands that meet them all, of each of its clauses; for each
check of WellFormed a term it refuses; a few known answers from the standards the spec names. -/

namespace Sys2Proof.Tests
open Sys2Proof.Machine

/- Many small kernel evaluations: one after the other, so that no thread waits on another with its stack held. -/
set_option Elab.async false
set_option maxRecDepth 100000
set_option linter.unusedVariables false

/-- The command block after reset. -/
def c0 : Chip := State.reset.chip

/-- A state that holds a block, with nothing waiting. -/
def st (c : Chip) : State := { chip := c, pending := [] }

/-- A request of an owner over the PCIe rings, outside a transaction and inside transaction 1. -/
def rq : Req := { slot := 0, role := .owner, via := .ring, txn := 0, seq := 1, sent := 0 }
def rt : Req := { rq with txn := 1 }

/-- Time passed: TICKS reads n. -/
def at_ (n : Nat) (c : Chip) : Chip := c.wr Reg.TICKS n

/-- The timebase at n, in 2^-16 ns. -/
def tm (n : Nat) (c : Chip) : Chip := { c with time := { c.time with tb := n * 2 ^ 24 } }

/-- The block powered for frames and Drumline (R418). -/
def run : Chip := c0.wr Reg.PWR_STATUS_STATE 2

theorem limits {s : State} (h : (decide ((s.chip.rdS Reg.ADJ).natAbs ≤ ppbUnits (s.chip.rd Reg.SERVO_CTRL_MAX_ADJ)) &&
    (s.chip.on Reg.JRN_STATUS_COMMIT_HOLD == decide (65280 ≤ s.chip.rd Reg.JRN_STATUS_UNSPILLED))) = true) : s.Limits := by
  simpa [State.Limits, Chip.Limits] using h

theorem ready {c : Chip} {r : Req} {i : Instr} (h : (c.mayRun r i && (r.txn == 0) && !(c.on Reg.JRN_STATUS_COMMIT_HOLD && leavesRecord i) &&
    !c.domainOff i && decide (c.firstBlocked 0 (allScopes [i]) = none) && !c.requestHeld i) = true) : c.ready r i := by
  simp only [Bool.and_eq_true, beq_iff_eq, decide_eq_true_eq, Bool.not_eq_true'] at h
  exact ⟨h.1.1.1.1.1, h.1.1.1.1.2, h.1.1.1.2, h.1.1.2, h.1.2, h.2⟩

/-- A trim is at most 32,768 units of 2^-10 ns, so an edge asked for 500 ns ahead or more is 20 ns ahead whatever the trim. -/
theorem lagged {c : Chip} {n t a : Nat} {act : Nat} (h : (decide (n < 32) && decide (c.rdS Reg.EVO_DELAY (32 + n) = 0) && decide (a + 500 * 65536 ≤ t)) = true) :
    ((a + 20 * 65536 : Nat) : Int) ≤ ({ adj := (t : Int) - c.outLag n, t := t, act := act } : EvoEdge).adj := by
  simp only [Bool.and_eq_true, decide_eq_true_eq] at h
  have b := BitVec.two_mul_toInt_lt (x := Config.trimOut n)
  have e : c.outLag n = (Config.trimOut n).toInt * 64 := by simp [Chip.outLag, h.1.1, h.1.2]
  simp only [e]
  omega

/-- A periodic output has a pulse by now whatever its trim, which is at most 2^21 units of 2^-16 ns. -/
theorem pulses {c : Chip} {n : Nat} {start : Int} {period : Nat} (h : (decide (0 < period) &&
    decide ((if n < 32 then c.rdS Reg.EVO_DELAY (32 + n) else c.rdS Reg.PPO_DELAY (32 + n)) = 0) &&
    decide (start + 4194304 ≤ c.tb16) && decide (period * 65536 + 4194304 ≤ c.tb16)) = true) : ∃ u, c.periodic start period (c.outLag n) = some u ∧ 0 ≤ u := by
  simp only [Bool.and_eq_true, decide_eq_true_eq] at h
  obtain ⟨⟨⟨hp, hd⟩, hs⟩, ht⟩ := h
  have b := BitVec.le_two_mul_toInt (x := Config.trimOut n)
  have e : c.outLag n = (Config.trimOut n).toInt * 64 := by simp [Chip.outLag, hd]
  have hq : (period : Int) * 65536 ≠ 0 := by omega
  have m := Int.emod_lt_of_pos (((c.tb16 + tick16 : Nat) : Int) + c.outLag n - 1 - start) (show 0 < (period : Int) * 65536 by omega)
  have g := Int.mul_ediv_add_emod (((c.tb16 + tick16 : Nat) : Int) + c.outLag n - 1 - start) ((period : Int) * 65536)
  rw [Int.mul_comm] at g
  refine ⟨start + (((c.tb16 + tick16 : Nat) : Int) + c.outLag n - 1 - start) / (period * 65536) * (period * 65536), ?_, ?_⟩
  · unfold Chip.periodic
    rw [if_neg]
    simp only [tick16, e]
    omega
  · simp only [tick16, e] at g m ⊢
    omega

/-- Every sleep delay has passed 42.95 ms after a port ran empty. -/
theorem slept {c : Chip} {p : Nat} (h : decide ((c.portSt p).emptySince + 2 ^ 32 ≤ c.now) = true) :
    (c.portSt p).emptySince + (Config.lpiSleep (c.mode p)).toNat ≤ c.now := by
  have b := (Config.lpiSleep (c.mode p)).isLt
  have a := of_decide_eq_true h
  omega

/-- Four conjuncts shown at once, before the others. -/
theorem all4 {a b c d e : Prop} (h : a ∧ b ∧ c ∧ d) (k : e) : a ∧ b ∧ c ∧ d ∧ e := ⟨h.1, h.2.1, h.2.2.1, h.2.2.2, k⟩

/-! ### A witness for each clause of each statement that has hypotheses -/

theorem witness_ResetValues :
    ∃ q, q ∈ [(Reg.BASE_INCR, 0, 0x28F5C28F5C3), (Reg.ADJ, 0, 0), (Reg.SERVO_CTRL_MAX_ADJ, 0, 200000), (Reg.TICKS, 0, 0), (Reg.BARO_CFG_SAMPLE_US, 0,
      10), (Reg.ARB_CFG_WAIT_LIMIT, 0, 16), (Reg.ARB_CFG_FREEZE_WD, 0, 100), (Reg.ARB_CFG_FREEZE, 0, 0), (Reg.PORT_CFG_MAX_FRAME, 0, 1522),
      (Reg.FP_CFG_PVID, 0, 1), (Reg.Q_BUF_Q_MAX, 0, 65535), (Reg.GATE_CTRL_ADMIN_STATES, 0, 255), (Reg.EM_CTRL_AGE_TIME, 0, 300),
      (Reg.EM_CTRL_MAX_KICKS, 0, 4), (Reg.L2_CFG_LEARN_EN, 0, 1), (Reg.EM_SEED0, 0, 0xFFFFFFFF), (Reg.SYN_CFG_BW, 0, 3000), (Reg.SYN_CFG_BW, 1,
      100000), (Reg.SYN_STATUS_STATE, 1, 1), (Reg.IVL_CFG_N, 0, 1024), (Reg.PTP_PORT_STATUS_PORT_STATE, 0, 3), (Reg.SEL_STATUS_FREF, 0, 31),
      (Reg.SEL_STATUS_TREF, 0, 31), (Reg.HO_CFG_HO_MAX_S, 0, 86400), (Reg.CD_CFG_PERIOD, 0, 1000000), (Reg.FAB_CFG_HELLO_MS, 0, 10),
      (Reg.TWIN_CFG_T_FENCE, 0, 30), (Reg.CMD_CFG_ETYPE, 0, 0x88B6), (Reg.TXN_CFG_LOCK_WAIT_MS, 0, 200), (Reg.TXN_CFG_IDLE_S, 0, 60),
      (Reg.JRN_STATUS_UNSPILLED, 0, 0), (Reg.LULL_CFG_PERIOD_S, 0, 3600), (Reg.CNT_CFG_SEL, 0, 0xFFFF), (Reg.THERM_CFG_WARN_C, 0, 110)] :=
  ⟨_, .head _⟩

theorem witness_StepRunsFront :
    ∃ (i : Instr) (l : List Instr) (s : State), s.pending = i :: l :=
  ⟨.resetAssert, [], { chip := c0, pending := [.resetAssert] }, by decide +kernel⟩

theorem witness_StepIdle :
    ∃ (s : State), s.pending = [] :=
  ⟨st c0, by decide +kernel⟩

theorem witness_StepKeepsLimits :
    ∃ (s : State) (t : State), s.Limits ∧ step s = .next t :=
  ⟨st c0, st c0, limits (by decide +kernel), rfl⟩

theorem witness_ArbiterWatchdogClearsFreeze :
    ∃ (a : Fin 142) (s : State), s.Limits ∧ s.chip.on Reg.ARB_CFG_FREEZE 0 a = true ∧ s.chip.rd Reg.ARB_CFG_FREEZE_WD 0 a ≠ 0 ∧
      (SMap.get s.chip.arbs a).frozenAt + unitsUs (s.chip.rd Reg.ARB_CFG_FREEZE_WD 0 a) ≤ s.chip.now :=
  ⟨0, st (at_ 100000 (c0.flag Reg.ARB_CFG_FREEZE true 0 0)), limits (by decide +kernel), by decide +kernel⟩

theorem witness_ArbiterDataPhaseEnds :
    (∃ (a : Fin 142) (s : State), s.Limits ∧ (SMap.get s.chip.arbs a).busy = true ∧ ∃ n, (SMap.get s.chip.arbs a).granted = some n ∧ n < 256) ∧
    (∃ (a : Fin 142) (s : State), s.Limits ∧ (SMap.get s.chip.arbs a).busy = true ∧ (SMap.get s.chip.arbs a).granted = none) :=
  ⟨⟨3, st { c0 with arbs := [(3, { busy := true, granted := some 7 })] }, limits (by decide +kernel), by decide +kernel, 7, by decide +kernel⟩,
   ⟨3, st { c0 with arbs := [(3, { busy := true, granted := none })] }, limits (by decide +kernel), by decide +kernel⟩⟩

theorem witness_ArbiterGrantsOne :
    ∃ (a : Fin 142) (reqs : List (Nat × Nat)) (s : State), s.Limits ∧ s.chip.arbFrozen a = false ∧ (SMap.get s.chip.arbs a).granted = none ∧
      (reqs.map Prod.snd).Nodup ∧ ((∀ r ∈ reqs, arbMay a r = true)) ∧ ((∃ r ∈ reqs, r.1 ≠ lullClass a)) :=
  ⟨0, [(1, 3), (2, 5)], st c0, limits (by decide +kernel), by decide +kernel⟩

theorem witness_KeepAliveFlags :
    (∃ (s : State), s.Limits) ∧
    (∃ (s : State), s.Limits) ∧
    (∃ (s : State), s.Limits ∧ s.chip.on Reg.TIME_STATUS_TB_VALID = true ∧ s.chip.pwr.failed = false) :=
  ⟨⟨st c0, limits (by decide +kernel)⟩,
   ⟨st c0, limits (by decide +kernel)⟩,
   ⟨st (c0.flag Reg.TIME_STATUS_TB_VALID true), limits (by decide +kernel), by decide +kernel⟩⟩

theorem witness_PowerFailLatchesTime :
    ∃ (s : State), s.Limits :=
  ⟨st c0, limits (by decide +kernel)⟩

theorem witness_LullFindings :
    (∃ (s : State), s.Limits ∧ s.chip.on Reg.LULL_CFG_EN = true ∧ ∃ (cell : Nat), s.chip.on Reg.LULL_CFG_CELLS = true ∧
      s.chip.cellTestable cell = true ∧ s.chip.lull.retired.length < 4096 ∧ cell < 2 ^ 32) ∧
    (∃ (s : State), s.Limits ∧ s.chip.on Reg.LULL_CFG_EN = true ∧ ∃ (tb : Fin 7) (i : Nat), s.chip.on Reg.LULL_CFG_SCRUB = true ∧
      s.chip.locked tb i = false ∧ s.chip.arbFrozen (tblArb tb i) = false ∧ i < 2 ^ 32) ∧
    (∃ (s : State), s.Limits ∧ s.chip.on Reg.LULL_CFG_EN = true ∧ ∃ (ch : Nat) (dev : Int), s.chip.on Reg.LULL_CFG_TDC = true ∧
      6 * 1024 < dev.natAbs * 1000 ∧ ch < 2 ^ 32) ∧
    (∃ (s : State), s.Limits ∧ s.chip.on Reg.LULL_CFG_EN = true ∧ ∃ (e : Fin 64), s.chip.on Reg.LULL_CFG_ENGINES = true ∧
      s.chip.on Reg.ENG_CFG_EN (256 + e) = false) :=
  ⟨⟨st ((c0.flag Reg.LULL_CFG_EN true).flag Reg.LULL_CFG_CELLS true), limits (by decide +kernel), by decide +kernel, 5, by decide +kernel⟩,
   ⟨st ((c0.flag Reg.LULL_CFG_EN true).flag Reg.LULL_CFG_SCRUB true), limits (by decide +kernel), by decide +kernel, 0, 5, by decide +kernel⟩,
   ⟨st ((c0.flag Reg.LULL_CFG_EN true).flag Reg.LULL_CFG_TDC true), limits (by decide +kernel), by decide +kernel, 3, 7, by decide +kernel⟩,
   ⟨st ((c0.flag Reg.LULL_CFG_EN true).flag Reg.LULL_CFG_ENGINES true), limits (by decide +kernel), by decide +kernel, 5, by decide +kernel⟩⟩

theorem witness_StartAfterReset :
    (∃ (s : State), s.chip.on Reg.BOOT_CFG_BOOT_RUN = false ∧ (SMap.get s.chip.fw.flash 0).err = 0 ∧ s.chip.fw.fails < 3 ∧ ∃ (ka : Nat) (ok : Bool),
      s.chip.pwr.low = true ∧ s.chip.pwr.failed = false) ∧
    (∃ (s : State), s.chip.on Reg.BOOT_CFG_BOOT_RUN = false ∧ (SMap.get s.chip.fw.flash 0).err = 0 ∧ s.chip.fw.fails < 3 ∧ ∃ (at_ : Nat),
      s.chip.fw.restartAt = some at_ ∧ at_ ≤ s.chip.now ∧ s.chip.fwWriting 0 = false ∧ s.chip.fw.recovery = false) :=
  ⟨⟨st { c0 with pwr := { low := true } }, by decide +kernel, by decide +kernel, by decide +kernel, 0, true, by decide +kernel⟩,
   ⟨st { c0 with fw := { restartAt := some 0 } }, by decide +kernel, by decide +kernel, by decide +kernel, 0, by decide +kernel⟩⟩

theorem witness_ThermSampleShown :
    ∃ (n : Fin 8) (z : Int) (s : State), s.Limits ∧ satS 16 z < 1000 :=
  ⟨7, 999, st c0, limits (by decide +kernel), by decide +kernel⟩

theorem witness_FactoryAccessZeroises :
    ∃ (s : State), s.Limits :=
  ⟨st c0, limits (by decide +kernel)⟩

theorem witness_JournalSpill :
    (∃ (s : State), s.Limits ∧ 64 ≤ s.chip.rd Reg.JRN_STATUS_UNSPILLED ∧ s.chip.rd Reg.JRN_STATUS_UNSPILLED ≤ s.chip.jrn.ring.length) ∧
    (∃ (s : State), s.Limits ∧ 64 ≤ s.chip.rd Reg.JRN_STATUS_UNSPILLED ∧ s.chip.rd Reg.JRN_STATUS_UNSPILLED ≤ s.chip.jrn.ring.length) :=
  ⟨⟨st ({ c0 with jrn := { ring := List.replicate 64 default } }.wr Reg.JRN_STATUS_UNSPILLED 64), limits (by decide +kernel), by decide +kernel⟩,
   ⟨st ({ c0 with jrn := { ring := List.replicate 64 default } }.wr Reg.JRN_STATUS_UNSPILLED 64), limits (by decide +kernel), by decide +kernel⟩⟩

theorem witness_QueriesAnswer :
    (∃ (r : Req) (s : State), s.Limits ∧ r.txn = 0 ∧ s.chip.mayRun r (.nop r) = true) ∧
    (∃ (r : Req) (s : State), s.Limits ∧ r.txn = 0 ∧ s.chip.mayRun r (.identify r) = true ∧
      fitsRoom (s.chip.replyRoom r.via) [tlvIdent s.chip.identBlock] = true) ∧
    (∃ (r : Req) (s : State), s.Limits ∧ r.txn = 0 ∧ ∃ l, s.chip.mayRun r (.timeGet r) = true ∧ l = [tlvTime (time96 (s.chip.nextTb / 2 ^ 24)),
      tlvTicks (s.chip.rd Reg.TICKS + 1), tlvTbState (s.chip.attrNow Attr.TIME_STATUS 0 0) (s.chip.attrNow Attr.SEL_STATUS 0 0)] ∧
      fitsRoom (s.chip.replyRoom r.via) l = true) ∧
    (∃ (r : Req) (s : State), s.Limits ∧ r.txn = 0 ∧ ∃ (sels : List Nat), s.chip.mayRun r (.cntRead r sels) = true ∧ sels ≠ [] ∧ sels.length ≤ 72 ∧
      ((∀ x ∈ sels, bitsOf x 8 7 ≤ 71 ∧ x &&& 0x7FFF8000 = 0)) ∧ fitsRoom (s.chip.replyRoom r.via) (sels.flatMap s.chip.cntRead1) = true) ∧
    (∃ (r : Req) (s : State), s.Limits ∧ r.txn = 0 ∧ ∃ first n l, s.chip.mayRun r (.jrnRead r first n) = true ∧ 0 < n ∧ n ≤ 128 ∧
      l = [tlvJseq s.chip.jrnOldest, tlvRecords (s.chip.jrnFrom first n).length (natOfBytes ((s.chip.jrnFrom first n).flatMap JRec.bytes))] ∧
      fitsRoom (s.chip.replyRoom r.via) l = true) :=
  ⟨⟨rq, st c0, limits (by decide +kernel), by decide +kernel⟩,
   ⟨rq, st c0, limits (by decide +kernel), by decide +kernel⟩,
   ⟨rq, st c0, limits (by decide +kernel), by decide +kernel, _, by decide +kernel, rfl, by decide +kernel⟩,
   ⟨rq, st c0, limits (by decide +kernel), by decide +kernel, [0x4702], by decide +kernel⟩,
   ⟨rq, st c0, limits (by decide +kernel), by decide +kernel, 0, 128, _, by decide +kernel, by decide +kernel, by decide +kernel, rfl,
     by decide +kernel⟩⟩

theorem witness_StatusQueriesAnswer :
    (∃ (r : Req) (s : State), s.Limits ∧ r.txn = 0 ∧ s.chip.mayRun r (.twinStatus r) = true ∧
      fitsRoom (s.chip.replyRoom r.via) (s.chip.twinObj 1 ++ s.chip.twinObj 2) = true) ∧
    (∃ (r : Req) (s : State), s.Limits ∧ r.txn = 0 ∧ ∃ l, s.chip.mayRun r (.fabStatus r) = true ∧
      (s.chip.readAll ({ obj := objId Cls.DEV 0 0x49, elem := none } :: (List.range 64).map fun n => { obj := objId Cls.FAB n 0x01, elem := none }) = some (l,
      s.chip)) ∧ fitsRoom (s.chip.replyRoom r.via) l = true) ∧
    (∃ (r : Req) (s : State), s.Limits ∧ r.txn = 0 ∧ ∃ (p : Nat) (dev : Fin 64) (cls : Fin 8) (u : Nat) (ps : List Nat),
      s.chip.mayRun r (.fabRoute r (some p) dev cls) = true ∧ p ≤ 511 ∧ s.chip.fabPort p = false ∧ s.chip.candidates dev false none = some (u, ps) ∧
      fitsRoom (s.chip.replyRoom r.via) [tlvPorts ps, tlvPorts (s.chip.chooseLink (s.chip.fabId.getD 0) dev cls p false none).toList] = true) ∧
    (∃ (r : Req) (s : State), s.Limits ∧ r.txn = 0 ∧ s.chip.mayRun r (.fwStatus r) = true ∧
      fitsRoom (s.chip.replyRoom r.via) [s.chip.fwInfos] = true) ∧
    (∃ (r : Req) (s : State), s.Limits ∧ r.txn = 0 ∧ ∃ tb sel l, s.chip.mayRun r (.tblLookup r tb sel) = true ∧ selOk tb sel = true ∧
      s.chip.domainOff (.tblLookup r tb sel) = false ∧ (l = (match s.chip.selIndex tb sel with | none => [] | some n => [tlvIndex n,
      s.chip.shownEntry tb n sel])) ∧ fitsRoom (s.chip.replyRoom r.via) l = true) :=
  ⟨⟨rq, st c0, limits (by decide +kernel), by decide +kernel⟩,
   ⟨rq, st c0, limits (by decide +kernel), by decide +kernel,
     (((c0.readAll ({ obj := objId Cls.DEV 0 0x49, elem := none } :: (List.range 64).map fun n => { obj := objId Cls.FAB n 0x01, elem := none })).map Prod.fst).getD []),
     by decide +kernel⟩,
   ⟨rq, st (((({ c0 with fab := { graph := [{ serial := 0, idValid := true, dev := 0, links := [(1, 8, 9)] }, { serial := 1, idValid := true, dev := 1, links := [(0, 9, 8)] }] } }.flag Reg.FAB_STATUS_ID_VALID true).flag Reg.FAB_CFG_FAB_EN true).flag Reg.FAB_PORT_CFG_FAB_EN true 8).wr Reg.FAB_PORT_STATUS_LINK 2 8),
     limits (by decide +kernel), by decide +kernel, 511, 1, 7, 1, [8], by decide +kernel⟩,
   ⟨rq, st c0, limits (by decide +kernel), by decide +kernel⟩,
   ⟨rq, st run, limits (by decide +kernel), by decide +kernel, 0, .index 5, _, by decide +kernel, by decide +kernel, by decide +kernel, rfl,
     by decide +kernel⟩⟩

theorem witness_ReadsClearRcOnly :
    (∃ (r : Req) (s : State) (l : List Tlv) (d : Chip), s.Limits ∧ r.txn = 0 ∧ fitsRoom (d.replyRoom r.via) l = true ∧ ∃ (objs : List ObjSel),
      s.chip.mayRun r (.objRead r objs) = true ∧ objs ≠ [] ∧ objs.length ≤ 64 ∧ s.chip.domainOff (.objRead r objs) = false ∧ ((∀ o ∈ objs,
      ¬ (objCls o.obj = Cls.EVT ∧ (objAttr o.obj = 0x03 ∨ objAttr o.obj = 0x12)))) ∧ s.chip.readAll objs = some (l, d)) ∧
    (∃ (r : Req) (s : State) (l : List Tlv) (d : Chip), s.Limits ∧ r.txn = 0 ∧ fitsRoom (d.replyRoom r.via) l = true ∧ ∃ (obj : Nat) (last : Nat),
      s.chip.mayRun r (.objReadBulk r obj (some last)) = true ∧ 1 ≤ objCls obj ∧ objCls obj ≤ 20 ∧ objInst obj ≤ last ∧
      attrDefined (objCls obj) (objAttr obj) = true ∧ (s.chip.bulkObjs obj last).length ≤ 4096 ∧ ((∀ o ∈ s.chip.bulkObjs obj last,
      ¬ (objCls o.obj = Cls.EVT ∧ (objAttr o.obj = 0x03 ∨ objAttr o.obj = 0x12)))) ∧ s.chip.readAll (s.chip.bulkObjs obj last) = some (l, d)) :=
  ⟨⟨rq, st c0, (((c0.readAll [{ obj := objId Cls.TIME 0 0x03, elem := none }]).map Prod.fst).getD []),
    (((c0.readAll [{ obj := objId Cls.TIME 0 0x03, elem := none }]).map Prod.snd).getD c0), limits (by decide +kernel), by decide +kernel,
    by decide +kernel, [{ obj := objId Cls.TIME 0 0x03, elem := none }], by decide +kernel⟩,
   ⟨rq, st c0, (((c0.readAll (c0.bulkObjs (objId Cls.TIME 0 0x03) 0)).map Prod.fst).getD []),
     (((c0.readAll (c0.bulkObjs (objId Cls.TIME 0 0x03) 0)).map Prod.snd).getD c0), limits (by decide +kernel), by decide +kernel, by decide +kernel,
     objId Cls.TIME 0 0x03, 0, by decide +kernel⟩⟩

theorem witness_DirectWritesAct :
    (∃ (r : Req) (s : State), s.Limits ∧ ∃ (z : Int) (w : ObjWrite),
      (w = { obj := objId Cls.TIME 0 0x0B, elem := none, value := bytesOfNat 8 (encS 64 z), mask := none }) ∧ s.chip.ready r (.objWrite r [w]) ∧
      s.chip.writesFail r [w] = none ∧ -(2 ^ 63 : Int) ≤ z ∧ z < 2 ^ 63 ∧ s.chip.rd Reg.SERVO_CTRL_SERVO_MODE = 2 ∧ s.chip.jumpRefused z = false ∧
      s.chip.changeFail (s.chip.hpiWrite z) (.objWrite r [w]) = none) ∧
    (∃ (r : Req) (s : State), s.Limits ∧ ∃ (d : Fin 5) (v : Nat) (w : ObjWrite) (l : List (Nat × Int × Nat)),
      (w = { obj := objId Cls.SYN d 0x10, elem := none, value := bytesOfNat 16 v, mask := none }) ∧ s.chip.ready r (.objWrite r [w]) ∧
      s.chip.writesFail r [w] = none ∧ v < 2 ^ 128 ∧ s.chip.targetOk d (signed 64 (v / 2 ^ 64)) = true ∧ v % 2 ^ 32 ≤ 65535000 ∧
      s.chip.rd Reg.SYN_OWNER_OWNER d = 0 ∧ (l = (s.chip.dpll d).gen.reqs.filter (fun x => decide (x.1 < s.chip.now + unitsNs (v % 2 ^ 32)))) ∧
      l.length < 4 ∧ ∃ x, (x = s.chip.updGen d fun g => { g with reqs := l ++ [(s.chip.now + unitsNs (v % 2 ^ 32), signed 64 (v / 2 ^ 64), v / 2 ^ 32 % 2 ^ 32)] }) ∧
      s.chip.changeFail x (.objWrite r [w]) = none) ∧
    (∃ (r : Req) (s : State), s.Limits ∧
      ∃ (n : Fin 32) (time : Nat) (width : Nat) (act : Nat) (i : Instr) (w : ObjWrite) (e1 : EvoEdge) (e2 : EvoEdge) (q : List EvoEdge), (i,
      act) ∈ [(.evoSetLow r n time, 0), (.evoSetHigh r n time, 1), (.evoToggle r n time, 2), (.evoPulse r n time width, 3)] ∧
      (w = { obj := objId Cls.EVT (32 + n) 0x33, elem := none, value := bytesOfNat 16 (time * 2 ^ 32 + act * 2 ^ 30 + if act = 3 then width else 0), mask := none }) ∧
      s.chip.ready r (.objWrite r [w]) ∧ s.chip.writesFail r [w] = none ∧ time < 2 ^ 96 ∧ time % 2 ^ 6 = 0 ∧ time / 2 ^ 16 % 2 ^ 32 < nsPerS ∧
      6 ≤ width ∧ width < 2 ^ 30 ∧ s.chip.rd Reg.EVO_CFG_OWNER (32 + n) = 1 ∧
      (e1 = { adj := (timeOf96 time : Int) - s.chip.outLag n, t := timeOf96 time, act := if act = 3 then 1 - s.chip.rd Reg.EVO_CFG_IDLE_LEVEL (32 + n) else act }) ∧
      (e2 = { adj := e1.adj + (width * 65536 : Nat), t := timeOf96 time + width * 65536, act := s.chip.rd Reg.EVO_CFG_IDLE_LEVEL (32 + n) }) ∧
      (q = (if act = 3 then [e1, e2] else [e1])) ∧ ((s.chip.tb16 + 20 * 65536 : Nat) : Int) ≤ e1.adj ∧
      timeOf96 time ≤ s.chip.tb16 + 1000000000 * 65536 ∧ (SMap.get s.chip.evos n).queue.length < 16 ∧ ((∀ e ∈ q,
      ∀ o ∈ (SMap.get s.chip.evos n).queue.flatten, 512 * 65536 < (e.adj - o.adj).natAbs * 100)) ∧ ∃ x,
      (x = (s.chip.updEvo n fun o => { o with queue := insertReq q o.queue }).showQueued n) ∧ s.chip.changeFail x (.objWrite r [w]) = none) :=
  ⟨⟨rq, st (c0.wr Reg.SERVO_CTRL_SERVO_MODE 2), limits (by decide +kernel), 1000, _, rfl, ready (by decide +kernel), by decide +kernel⟩,
   ⟨rq, st c0, limits (by decide +kernel), 1, 1000, _, _, rfl, ready (by decide +kernel), all4 (by decide +kernel) ⟨by decide +kernel, rfl,
     by decide +kernel, _, rfl, by decide +kernel⟩⟩,
   ⟨rq, st (c0.wr Reg.EVO_CFG_OWNER 1 32), limits (by decide +kernel), 0, 1000 * 65536, 6, 3, .evoPulse rq 0 (1000 * 65536) 6, _, _, _, _,
     .tail _ (.tail _ (.tail _ (.head _))), rfl, ready (by decide +kernel), all4 (by decide +kernel) ⟨by decide +kernel, by decide +kernel,
     by decide +kernel, rfl, rfl, rfl, lagged (by decide +kernel), by decide +kernel, by decide +kernel, by decide +kernel, _, rfl,
     by decide +kernel⟩⟩⟩

theorem witness_ObjWriteStores :
    ∃ (r : Req) (w : ObjWrite) (a : AttrDef) (i : Nat) (e : Nat) (v : Nat) (m : Nat) (s : State), s.chip.ready r (.objWrite r [w]) ∧
      s.chip.writesFail r [w] = none ∧ s.chip.parseWrite w = .ok (a, i, [(e, v, m)]) ∧ objCls w.obj ≠ Cls.REF ∧ actsOnly a.cls a.attr = false ∧
      (a.cls, a.attr) ∉ [(Cls.DEV, 0x28), (Cls.TBL, 0x02), (Cls.PORT, 0x52), (Cls.DEV, 0x7A)] ∧ s.chip.on Reg.THERM_STATUS_TRIP = false ∧
      s.chip.changeFail (s.chip.writeElem a i e v m) (.objWrite r [w]) = none :=
  ⟨rq, { obj := objId Cls.DEV 0 0x22, elem := none, value := bytesOfNat 4 0x01F4640B, mask := none }, Attr.BARO_CFG, 0, 0, 0x01F4640B, 2 ^ 32 - 1,
    st run, ready (by decide +kernel), by decide +kernel⟩

theorem witness_FreezeWrites :
    (∃ (r : Req) (a : Fin 142) (s : State) (w : Bool → ObjWrite), s.Limits ∧ ((∀ b,
      w b = { obj := objId Cls.DEV 0 0x28, elem := some (a.val, 1), value := bytesOfNat 4 (if b then 2 ^ 31 else 0), mask := some (bytesOfNat 4 (2 ^ 31)) })) ∧
      ∃ (x : Chip), s.chip.ready r (.objWrite r [w true]) ∧ s.chip.on Reg.ARB_CFG_FREEZE 0 a = false ∧
      x = Chip.arbFreezeHook s.chip (s.chip.writeElem Attr.ARB_CFG 0 a (2 ^ 31) (2 ^ 31)) a ∧ s.chip.changeFail x (.objWrite r [w true]) = none) ∧
    (∃ (r : Req) (a : Fin 142) (s : State) (w : Bool → ObjWrite), s.Limits ∧ ((∀ b,
      w b = { obj := objId Cls.DEV 0 0x28, elem := some (a.val, 1), value := bytesOfNat 4 (if b then 2 ^ 31 else 0), mask := some (bytesOfNat 4 (2 ^ 31)) })) ∧
      ∃ (x : Chip), s.chip.ready r (.objWrite r [w false]) ∧ x = Chip.arbFreezeHook s.chip (s.chip.writeElem Attr.ARB_CFG 0 a 0 (2 ^ 31)) a ∧
      s.chip.changeFail x (.objWrite r [w false]) = none) :=
  ⟨⟨rq, 0, st run, fun b => { obj := objId Cls.DEV 0 0x28, elem := some ((0 : Fin 142).val, 1), value := bytesOfNat 4 (if b then 2 ^ 31 else 0), mask := some (bytesOfNat 4 (2 ^ 31)) },
    limits (by decide +kernel), fun _ => rfl, _, ready (by decide +kernel), by decide +kernel, rfl, by decide +kernel⟩,
   ⟨rq, 0, st (run.flag Reg.ARB_CFG_FREEZE true 0 0),
     fun b => { obj := objId Cls.DEV 0 0x28, elem := some ((0 : Fin 142).val, 1), value := bytesOfNat 4 (if b then 2 ^ 31 else 0), mask := some (bytesOfNat 4 (2 ^ 31)) },
     limits (by decide +kernel), fun _ => rfl, _, ready (by decide +kernel), rfl, by decide +kernel⟩⟩

theorem witness_SegmentLocks :
    (∃ (tb : Fin 7) (seg : Fin 64) (s : State), s.Limits ∧ ∃ (r : Req) (w : ObjWrite) (x : Chip),
      (w = { obj := objId Cls.TBL tb 0x02, elem := none, value := bytesOfNat 8 (2 ^ seg.val), mask := some (bytesOfNat 8 (2 ^ seg.val)) }) ∧
      s.chip.ready r (.objWrite r [w]) ∧ s.chip.writesFail r [w] = none ∧ (s.chip.lock tb seg).state = 0 ∧
      x = ((s.chip.writeElem Attr.TBL_LOCK tb 0 (2 ^ seg.val) (2 ^ seg.val)).wr Reg.TBL_LOCK 0 tb).lockStart tb seg r.slot ∧
      s.chip.changeFail x (.objWrite r [w]) = none) ∧
    (∃ (tb : Fin 7) (seg : Fin 64) (s : State), s.Limits ∧ (s.chip.lock tb seg).state = 1) ∧
    (∃ (tb : Fin 7) (seg : Fin 64) (s : State), s.Limits ∧ ∃ (r : Req) (w : ObjWrite) (x : Chip),
      (w = { obj := objId Cls.TBL tb 0x02, elem := none, value := bytesOfNat 8 0, mask := some (bytesOfNat 8 (2 ^ seg.val)) }) ∧
      s.chip.ready r (.objWrite r [w]) ∧ s.chip.writesFail r [w] = none ∧ (s.chip.lock tb seg).state = 2 ∧ (s.chip.lock tb seg).slot = r.slot ∧
      s.chip.tbl.learnParked = [] ∧ x = ((s.chip.writeElem Attr.TBL_LOCK tb 0 0 (2 ^ seg.val)).wr Reg.TBL_LOCK 0 tb).lockEnd tb seg ∧
      s.chip.changeFail x (.objWrite r [w]) = none) ∧
    (∃ (tb : Fin 7) (seg : Fin 64) (s : State), s.Limits ∧ (s.chip.lock tb seg).state = 2 ∧
      (s.chip.lock tb seg).since + unitsMs (s.chip.rd Reg.LOCK_MS tb) ≤ s.chip.now ∧ s.chip.tbl.learnParked = []) :=
  ⟨⟨2, 63, st run, limits (by decide +kernel), rq, _, _, rfl, ready (by decide +kernel), by decide +kernel, by decide +kernel, rfl,
    by decide +kernel⟩,
   ⟨2, 5, st { run with tbl := { locks := [(lockKey 2 5, { state := 1, slot := 0, since := 0 })] } }, limits (by decide +kernel), by decide +kernel⟩,
   ⟨2, 5, st { run with tbl := { locks := [(lockKey 2 5, { state := 2, slot := 0, since := 0 })] } }, limits (by decide +kernel), rq, _, _, rfl,
     ready (by decide +kernel), all4 (by decide +kernel) ⟨rfl, by decide +kernel⟩⟩,
   ⟨2, 5, st (at_ 78125000 { run with tbl := { locks := [(lockKey 2 5, { state := 2, slot := 0, since := 0 })] } }), limits (by decide +kernel),
     by decide +kernel⟩⟩

theorem witness_TimeCommands :
    (∃ (r : Req) (s : State) (o : Int), s.chip.ready r (.timeStep r (.offset o)) ∧ -(2 ^ 63 : Int) ≤ o ∧ o < 2 ^ 63 ∧ s.chip.stepNegative o = false ∧
      s.chip.jumpRefused o = false ∧ ∃ x,
      (x = { s.chip with time := { s.chip.time with steps := s.chip.time.steps ++ [{ offset := o, source := 1, req := some r }] } }) ∧
      s.chip.changeFail x (.timeStep r (.offset o)) = none ∧ fitsRoom (x.replyRoom r.via) [tlvOffset o] = true) ∧
    (∃ (r : Req) (s : State) (a : Int) (b : Int) (n : Nat), s.chip.ready r (.timeIncr r a n b) ∧ s.chip.rd Reg.SERVO_CTRL_SERVO_MODE = 1 ∧
      a.natAbs ≤ ppbUnits (s.chip.rd Reg.SERVO_CTRL_MAX_ADJ) ∧ b.natAbs ≤ ppbUnits (s.chip.rd Reg.SERVO_CTRL_MAX_ADJ) ∧ n < 2 ^ 32 ∧ ∃ x,
      (x = { s.chip with time := { s.chip.time with durOn := decide (0 < n), durLeft := n, durAfter := b } }.wrS Reg.ADJ a) ∧
      s.chip.changeFail x (.timeIncr r a n b) = none) ∧
    (∃ (r : Req) (s : State) (time : Bool) (act : Nat) (ref : Nat), s.chip.ready r (.refForce r time act ref) ∧
      s.chip.forceBad (b2n time) act ref = false ∧ s.chip.changeFail (s.chip.forceSel (b2n time) act ref) (.refForce r time act ref) = none) ∧
    (∃ (r : Req) (s : State) (id : Nat) (act : Nat) (o : Int), s.chip.ready r (.jumpAccept r id act) ∧ id ≠ 0 ∧
      id = s.chip.rd Reg.PENDING_JUMP_JUMP_ID ∧ s.chip.rd Reg.PENDING_JUMP_SOURCE ≠ 4 ∧ o = s.chip.rdS Reg.PENDING_JUMP_OFFSET ∧ act = 1 ∧
      s.chip.changeFail s.chip.clearJump (.jumpAccept r id act) = none) ∧
    (∃ (r : Req) (s : State) (id : Nat) (act : Nat) (o : Int), s.chip.ready r (.jumpAccept r id act) ∧ id ≠ 0 ∧
      id = s.chip.rd Reg.PENDING_JUMP_JUMP_ID ∧ s.chip.rd Reg.PENDING_JUMP_SOURCE ≠ 4 ∧ o = s.chip.rdS Reg.PENDING_JUMP_OFFSET ∧ act = 0 ∧
      s.chip.stepNegative o = false ∧ ∃ x,
      (x = { s.chip.clearJump with time := { s.chip.time with steps := s.chip.time.steps ++ [{ offset := o, source := s.chip.rd Reg.PENDING_JUMP_SOURCE, req := some r, jump := true }] } }) ∧
      s.chip.changeFail x (.jumpAccept r id act) = none ∧ fitsRoom (x.replyRoom r.via) [tlvOffset o] = true) :=
  ⟨⟨rq, st c0, 65536, ready (by decide +kernel), all4 (by decide +kernel) ⟨_, rfl, by decide +kernel⟩⟩,
   ⟨rq, st (c0.wr Reg.SERVO_CTRL_SERVO_MODE 1), -5, 7, 100, ready (by decide +kernel), all4 (by decide +kernel) ⟨_, rfl, by decide +kernel⟩⟩,
   ⟨rq, st c0, true, 2, 31, ready (by decide +kernel), by decide +kernel⟩,
   ⟨rq, st ((c0.wr Reg.PENDING_JUMP_JUMP_ID 7).wr Reg.PENDING_JUMP_OFFSET 65536), 7, 1, _, ready (by decide +kernel), by decide +kernel,
     by decide +kernel, by decide +kernel, rfl, by decide +kernel⟩,
   ⟨rq, st ((c0.wr Reg.PENDING_JUMP_JUMP_ID 7).wr Reg.PENDING_JUMP_OFFSET 65536), 7, 0, _, ready (by decide +kernel), by decide +kernel,
     by decide +kernel, by decide +kernel, rfl, by decide +kernel, by decide +kernel, _, rfl, by decide +kernel⟩⟩

theorem witness_RecordAndTestCommands :
    (∃ (r : Req) (s : State), s.chip.mayRun r (.cntSnapshot r) = true ∧ r.txn = 0 ∧
      fitsRoom ((s.chip.snapshot (s.chip.nextTb / 2 ^ 24)).replyRoom r.via) [tlvTime (time96 (s.chip.nextTb / 2 ^ 24))] = true) ∧
    (∃ (r : Req) (s : State) (v : Nat) (b : Bytes), s.chip.mayRun r (.jrnMark r v b) = true ∧ r.txn = 0 ∧
      s.chip.on Reg.JRN_STATUS_COMMIT_HOLD = false ∧ b.length ≤ 256 ∧ v < 2 ^ 32 ∧
      fitsRoom ((s.chip.jrnCmd r 2 0x0702 0 v b).replyRoom r.via) [tlvJseq (s.chip.rd Reg.JRN_STATUS_NEXT_SEQ)] = true) ∧
    (∃ (r : Req) (s : State) (w : Nat), s.chip.ready r (.lullCtrl r w) ∧ bitsOf w 0 16 ≠ 0 ∧ w &&& 0x70FF0000 = 0 ∧ ∃ (x : Chip),
      x = ((((((s.chip.flag Reg.LULL_CFG_EN (bitOf w 31)).flag Reg.LULL_CFG_CELLS (bitOf w 27)).flag Reg.LULL_CFG_SCRUB (bitOf w 26)).flag Reg.LULL_CFG_TDC (bitOf w 25)).flag Reg.LULL_CFG_ENGINES (bitOf w 24)).wr Reg.LULL_CFG_PERIOD_S (bitsOf w 0 16)).flag Reg.LULL_STATUS_RUNNING (bitOf w 31) ∧
      s.chip.changeFail x (.lullCtrl r w) = none) ∧
    (∃ (r : Req) (s : State) (w : Nat) (n : Nat) (kind : Nat) (p : Nat) (x : Chip), s.chip.ready r (.loopback r w) ∧ s.chip.loopOk w = true ∧
      n = bitsOf w 0 10 ∧ kind = bitsOf w 28 2 ∧ (p = (if n = 512 then 512 else s.chip.laneToPort n)) ∧ ((kind = 0 ∨ s.chip.timingPort p = false)) ∧
      (x = s.chip.setLoop p kind (if bitOf w 31 then s.chip.portLanes p else [n])) ∧ s.chip.changeFail x (.loopback r w) = none) :=
  ⟨⟨rq, st c0, by decide +kernel⟩,
   ⟨rq, st c0, 5, [1, 2], by decide +kernel⟩,
   ⟨rq, st c0, 0x8F000E10, ready (by decide +kernel), by decide +kernel, by decide +kernel, _, rfl, by decide +kernel⟩,
   ⟨rq, st run, 0x10000005, _, _, _, _, ready (by decide +kernel), by decide +kernel, rfl, rfl, rfl, by decide +kernel, rfl, by decide +kernel⟩⟩

theorem witness_CalibrationAndCapture :
    (∃ (r : Req) (s : State) (cal : Nat) (x : Chip), s.chip.mayRun r (.calRun r cal) = true ∧ r.txn = 0 ∧ calRangeOk cal = true ∧
      calReservedOk cal = true ∧ s.chip.cal.run = none ∧ s.chip.parkedFull = false ∧ s.chip.rd Reg.SEL_STATUS_FSTATE = 2 ∧
      s.chip.rd Reg.SEL_STATUS_FREF = 0 ∧ s.chip.rd Reg.SEL_STATUS_TSTATE = 2 ∧ s.chip.rd Reg.SEL_STATUS_TREF = 4 ∧
      ((calProc cal = 1 → ∀ n ∈ calItems cal, 40 ≤ n → s.chip.rd Reg.CKO_ALIGN_ALIGN (n - 24) = 2)) ∧ s.chip.calTaken cal = none ∧
      (x = { s.chip.flag Reg.CAL_STATUS_RUNNING true with cal := { s.chip.cal with run := some (r, cal) }, parked := s.chip.parked ++ [{ cmd := .calRun r cal, deadline := 0, tag := 0 }] })) ∧
    (∃ (r : Req) (s : State) (q : Req) (cal : Nat) (ms : List CalMeas) (new : List CalVal) (x : Chip), s.chip.cal.run = some (q, cal) ∧
      (new = (((calItems cal).zip ms).filter fun y => (s.chip.calJudge (calProc cal) y.2).1 == 0 && calProc cal != 3).map (fun y => { obj := calObj (calProc cal) y.1, val := calAttr (calProc cal) (s.chip.calJudge (calProc cal) y.2).2.1, proc := calProc cal })) ∧
      (x = (({ s.chip with cal := { s.chip.cal with run := none, cands := (s.chip.cal.cands.filter fun (v : CalVal) => !(new.any fun (w : CalVal) => w.obj == v.obj)) ++ new } }.flag Reg.CAL_STATUS_RUNNING false).flag Reg.CAL_STATUS_CANDIDATES (!((s.chip.cal.cands.filter fun (v : CalVal) => !(new.any fun (w : CalVal) => w.obj == v.obj)) ++ new).isEmpty)).unpark 0x0B01 q)) ∧
    (∃ (r : Req) (s : State) (cal : Nat) (new : List CalVal) (n : CalSet) (x : Chip), s.chip.ready r (.calCommit r cal) ∧
      ((calProc cal ≤ 3 ∨ calProc cal = 255)) ∧ calReservedOk cal = true ∧
      (new = s.chip.cal.cands.filter (fun (v : CalVal) => calProc cal == 255 || v.proc == calProc cal)) ∧ new ≠ [] ∧
      (n = { valid := true, count := ((s.chip.cal.newest.getD {}).count + 1) % 2 ^ 32, lastTime := time96 (s.chip.nextTb / 2 ^ 24), recs := calMerge (s.chip.cal.newest.getD {}).recs new }) ∧
      (x = (((({ s.chip.each new (fun (v : CalVal) c => c.putCal v) with cal := { (s.chip.each new fun (v : CalVal) c => c.putCal v).cal.store n with cands := s.chip.cal.cands.filter fun (v : CalVal) => !(calProc cal == 255 || v.proc == calProc cal) } }.flag Reg.CAL_STATUS_CAL_VALID true).flag Reg.CAL_STATUS_CANDIDATES (!(s.chip.cal.cands.filter fun (v : CalVal) => !(calProc cal == 255 || v.proc == calProc cal)).isEmpty)).flag Reg.CAL_STATUS_OVERRIDE false).wr Reg.CAL_STATUS_CAL_COUNT n.count).wr Reg.CAL_LAST n.lastTime) ∧
      s.chip.changeFail x (.calCommit r cal) = none) ∧
    (∃ (r : Req) (s : State) (w : Nat) (host : Option (Nat × Nat)), s.chip.mayRun r (.diagCapture r w host) = true ∧ r.txn = 0 ∧ captureOk w = true ∧
      ((captureNeedsHost w = true → host ≠ none)) ∧ s.chip.diag = none ∧ s.chip.parkedFull = false ∧
      ((bitsOf w 24 8 = 1 → s.chip.captureBlocked (bitsOf w 18 6) (captureStart w) (captureLen w) = false)) ∧
      ((bitsOf w 24 8 = 2 → s.chip.rd Reg.ENG_STATUS_STATE (256 + bitsOf w 0 6) = 0 ∨ s.chip.rd Reg.ENG_STATUS_STATE (256 + bitsOf w 0 6) = 6))) ∧
    (∃ (r : Req) (s : State) (q : Req) (w : Nat) (sensed : Bytes), ((bitsOf w 24 8 = 1 → s.chip.captureHeld (bitsOf w 18 6) = false)) ∧
      s.chip.diag = some (q, w, none)) ∧
    (∃ (r : Req) (s : State) (q : Req) (w : Nat) (sensed : Bytes), ((bitsOf w 24 8 = 1 → s.chip.captureHeld (bitsOf w 18 6) = false)) ∧
      ∃ (addr : Nat) (len : Nat), s.chip.diag = some (q, w, some (addr, len))) :=
  ⟨⟨rq, st ((((c0.wr Reg.SEL_STATUS_FSTATE 2).wr Reg.SEL_STATUS_FREF 0).wr Reg.SEL_STATUS_TSTATE 2).wr Reg.SEL_STATUS_TREF 4), 3 * 65536, _,
    all4 (by decide +kernel) (all4 (by decide +kernel) (all4 (by decide +kernel) rfl))⟩,
   ⟨rq, st { c0 with cal := { run := some (rq, 3 * 65536) } }, rq, 3 * 65536, [], _, _, by decide +kernel, rfl, rfl⟩,
   ⟨rq, st { c0 with cal := { cands := [{ obj := objId Cls.EVT 0 4, val := 5, proc := 0 }] } }, 0, _, _, _, ready (by decide +kernel),
     by decide +kernel, by decide +kernel, rfl, by decide +kernel, rfl, rfl, by decide +kernel⟩,
   ⟨rq, st run, 3 * 2 ^ 24 + 5, none, by decide +kernel⟩,
   ⟨rq, st { run with diag := some (rq, 3 * 2 ^ 24 + 5, none) }, rq, 3 * 2 ^ 24 + 5, [1], by decide +kernel⟩,
   ⟨rq, st { run with diag := some (rq, 3 * 2 ^ 24 + 5, some (64, 8)) }, rq, 3 * 2 ^ 24 + 5, [1], by decide +kernel, 64, 8, by decide +kernel⟩⟩

theorem witness_CalibrationAndTestsComplete :
    (∃ (s : State) (go : Chip → State), (go = (fun c => { s with chip := c.steady })) ∧ ∃ (r : Req) (cal : Nat),
      s.chip.mayRun r (.calRun r cal) = true ∧ r.txn = 0 ∧ calRangeOk cal = true ∧ calReservedOk cal = true ∧ s.chip.cal.run = none ∧
      s.chip.parkedFull = false ∧ s.chip.rd Reg.SEL_STATUS_FSTATE = 2 ∧ s.chip.rd Reg.SEL_STATUS_FREF = 0 ∧ s.chip.rd Reg.SEL_STATUS_TSTATE = 2 ∧
      s.chip.rd Reg.SEL_STATUS_TREF = 4 ∧ ((calProc cal = 1 → ∀ n ∈ calItems cal, 40 ≤ n → s.chip.rd Reg.CKO_ALIGN_ALIGN (n - 24) = 2)) ∧
      s.chip.calTaken cal = none) ∧
    (∃ (s : State) (go : Chip → State), (go = (fun c => { s with chip := c.steady })) ∧ ∃ (q : Req) (cal : Nat) (ms : List CalMeas),
      s.chip.cal.run = some (q, cal)) ∧
    (∃ (s : State) (go : Chip → State), (go = (fun c => { s with chip := c.steady })) ∧ ∃ (r : Req) (cal : Nat) (v : CalVal) (x : Res),
      s.chip.ready r (.calCommit r cal) ∧ ((calProc cal ≤ 3 ∨ calProc cal = 255)) ∧ calReservedOk cal = true ∧ v ∈ s.chip.cal.cands ∧
      ((calProc cal = 255 ∨ v.proc = calProc cal)) ∧ x = s.chip.calBody cal ∧ s.chip.changeFail x.chip (.calCommit r cal) = none) ∧
    (∃ (s : State) (go : Chip → State), (go = (fun c => { s with chip := c.steady })) ∧ ∃ (r : Req) (w : Nat) (host : Option (Nat × Nat)),
      s.chip.mayRun r (.diagCapture r w host) = true ∧ r.txn = 0 ∧ captureOk w = true ∧ ((captureNeedsHost w = true → host ≠ none)) ∧
      s.chip.diag = none ∧ s.chip.parkedFull = false ∧
      ((bitsOf w 24 8 = 1 → s.chip.captureBlocked (bitsOf w 18 6) (captureStart w) (captureLen w) = false)) ∧
      ((bitsOf w 24 8 = 2 → s.chip.rd Reg.ENG_STATUS_STATE (256 + bitsOf w 0 6) = 0 ∨ s.chip.rd Reg.ENG_STATUS_STATE (256 + bitsOf w 0 6) = 6))) ∧
    (∃ (s : State) (go : Chip → State), (go = (fun c => { s with chip := c.steady })) ∧
      ∃ (q : Req) (w : Nat) (host : Option (Nat × Nat)) (sensed : Bytes), s.chip.diag = some (q, w, host) ∧
      ((bitsOf w 24 8 = 1 → s.chip.captureHeld (bitsOf w 18 6) = false))) ∧
    (∃ (s : State) (go : Chip → State), (go = (fun c => { s with chip := c.steady })) ∧ s.chip.on Reg.LULL_CFG_EN = true ∧ ∃ (cell : Nat),
      s.chip.on Reg.LULL_CFG_CELLS = true ∧ s.chip.cellTestable cell = true) ∧
    (∃ (s : State) (go : Chip → State), (go = (fun c => { s with chip := c.steady })) ∧ s.chip.on Reg.LULL_CFG_EN = true ∧ ∃ (cell : Nat),
      s.chip.on Reg.LULL_CFG_CELLS = true ∧ s.chip.cellTestable cell = true ∧ s.chip.lull.retired.length < 4096) ∧
    (∃ (s : State) (go : Chip → State), (go = (fun c => { s with chip := c.steady })) ∧ s.chip.on Reg.LULL_CFG_EN = true ∧ ∃ (cell : Nat),
      s.chip.on Reg.LULL_CFG_CELLS = true ∧ s.chip.cellTestable cell = true ∧ 4096 ≤ s.chip.lull.retired.length) ∧
    (∃ (s : State) (go : Chip → State), (go = (fun c => { s with chip := c.steady })) ∧ s.chip.on Reg.LULL_CFG_EN = true ∧ ∃ (tb : Fin 7) (i : Nat),
      s.chip.on Reg.LULL_CFG_SCRUB = true ∧ s.chip.locked tb i = false ∧ s.chip.arbFrozen (tblArb tb i) = false) ∧
    (∃ (s : State) (go : Chip → State), (go = (fun c => { s with chip := c.steady })) ∧ s.chip.on Reg.LULL_CFG_EN = true ∧ ∃ (tb : Fin 7) (i : Nat),
      s.chip.on Reg.LULL_CFG_SCRUB = true ∧ s.chip.locked tb i = false ∧ s.chip.arbFrozen (tblArb tb i) = false) ∧
    (∃ (s : State) (go : Chip → State), (go = (fun c => { s with chip := c.steady })) ∧ s.chip.on Reg.LULL_CFG_EN = true ∧ ∃ (tb : Fin 7) (i : Nat),
      s.chip.on Reg.LULL_CFG_SCRUB = true ∧ s.chip.locked tb i = false ∧ s.chip.arbFrozen (tblArb tb i) = false) ∧
    (∃ (s : State) (go : Chip → State), (go = (fun c => { s with chip := c.steady })) ∧ s.chip.on Reg.LULL_CFG_EN = true ∧ ∃ (ch : Nat) (dev : Int),
      s.chip.on Reg.LULL_CFG_TDC = true) ∧
    (∃ (s : State) (go : Chip → State), (go = (fun c => { s with chip := c.steady })) ∧ s.chip.on Reg.LULL_CFG_EN = true ∧
      ∃ (e : Fin 64) (pass : Bool), s.chip.on Reg.LULL_CFG_ENGINES = true ∧ s.chip.on Reg.ENG_CFG_EN (256 + e) = false) :=
  ⟨⟨st ((((c0.wr Reg.SEL_STATUS_FSTATE 2).wr Reg.SEL_STATUS_FREF 0).wr Reg.SEL_STATUS_TSTATE 2).wr Reg.SEL_STATUS_TREF 4), _, rfl, rq, 3 * 65536,
    by decide +kernel⟩,
   ⟨st { c0 with cal := { run := some (rq, 3 * 65536) } }, _, rfl, rq, 3 * 65536, [], by decide +kernel⟩,
   ⟨st { c0 with cal := { cands := [{ obj := objId Cls.EVT 0 4, val := 5, proc := 0 }] } }, _, rfl, rq, 0,
     { obj := objId Cls.EVT 0 4, val := 5, proc := 0 }, _, ready (by decide +kernel), all4 (by decide +kernel) ⟨rfl, by decide +kernel⟩⟩,
   ⟨st run, _, rfl, rq, 3 * 2 ^ 24 + 5, none, by decide +kernel⟩,
   ⟨st { run with diag := some (rq, 3 * 2 ^ 24 + 5, none) }, _, rfl, rq, 3 * 2 ^ 24 + 5, none, [1], by decide +kernel⟩,
   ⟨st ((c0.flag Reg.LULL_CFG_EN true).flag Reg.LULL_CFG_CELLS true), _, rfl, by decide +kernel, 5, by decide +kernel⟩,
   ⟨st ((c0.flag Reg.LULL_CFG_EN true).flag Reg.LULL_CFG_CELLS true), _, rfl, by decide +kernel, 5, by decide +kernel⟩,
   ⟨st { ((c0.flag Reg.LULL_CFG_EN true).flag Reg.LULL_CFG_CELLS true) with lull := { retired := List.replicate 4096 70000 } }, _, rfl,
     by decide +kernel, 5, by decide +kernel⟩,
   ⟨st ((c0.flag Reg.LULL_CFG_EN true).flag Reg.LULL_CFG_SCRUB true), _, rfl, by decide +kernel, 0, 5, by decide +kernel⟩,
   ⟨st ((c0.flag Reg.LULL_CFG_EN true).flag Reg.LULL_CFG_SCRUB true), _, rfl, by decide +kernel, 0, 5, by decide +kernel⟩,
   ⟨st ((c0.flag Reg.LULL_CFG_EN true).flag Reg.LULL_CFG_SCRUB true), _, rfl, by decide +kernel, 0, 5, by decide +kernel⟩,
   ⟨st ((c0.flag Reg.LULL_CFG_EN true).flag Reg.LULL_CFG_TDC true), _, rfl, by decide +kernel, 3, 7, by decide +kernel⟩,
   ⟨st ((c0.flag Reg.LULL_CFG_EN true).flag Reg.LULL_CFG_ENGINES true), _, rfl, by decide +kernel, 5, false, by decide +kernel⟩⟩

theorem witness_TableCommands :
    (∃ (r : Req) (s : State) (tb : Nat) (e : Nat) (n : Nat) (idx : Option Nat) (x : Chip), s.chip.ready r (.tblInsert r tb e idx) ∧
      s.chip.insertOk tb e idx = true ∧ (s.chip.learnFirst tb).insertNow tb e (idx.getD 0) = .ok (n, x) ∧
      s.chip.changeFail x (.tblInsert r tb e idx) = none ∧ fitsRoom (x.replyRoom r.via) [tlvIndex n] = true) ∧
    (∃ (r : Req) (s : State) (tb : Nat) (n : Nat) (sel : TblSel) (d : Chip), s.chip.ready r (.tblDelete r tb sel) ∧ selOk tb sel = true ∧
      s.chip.devTarget tb sel = false ∧ d = s.chip.learnFirst tb ∧ d.selIndex tb sel = some n ∧ d.locked tb n = false ∧
      s.chip.changeFail (d.deleteNow tb n) (.tblDelete r tb sel) = none ∧ fitsRoom ((d.deleteNow tb n).replyRoom r.via) [tlvIndex n] = true) ∧
    (∃ (r : Req) (s : State) (tb : Nat) (n : Nat) (sel : TblSel) (d : Chip), s.chip.ready r (.tblDelete r tb sel) ∧ selOk tb sel = true ∧
      s.chip.devTarget tb sel = false ∧ d = s.chip.learnFirst tb ∧ d.selIndex tb sel = none ∧ s.chip.changeFail d (.tblDelete r tb sel) = none) ∧
    (∃ (r : Req) (s : State) (tb : Nat) (first : Nat) (n : Nat) (stamps : Bool) (d : Bytes),
      s.chip.ready r (.tblDma r tb 0 first n true stamps (some d)) ∧ s.chip.dmaFail r tb 0 first n stamps (some d) true = none ∧
      s.chip.changeFail (s.chip.dmaWrite tb stamps (dmaItems tb 0 first n stamps d)) (.tblDma r tb 0 first n true stamps (some d)) = none) ∧
    (∃ (r : Req) (s : State) (tb : Nat) (first : Nat) (n : Nat) (stamps : Bool), s.chip.mayRun r (.tblDma r tb 0 first n false stamps none) = true ∧
      r.txn = 0 ∧ dmaOk r tb 0 first n false stamps none false = true ∧ s.chip.domainOff (.tblDma r tb 0 first n false stamps none) = false ∧
      s.chip.dmaLocked r tb first = true ∧
      fitsRoom (s.chip.replyRoom r.via) [tlvData (n * dmaSize tb stamps) (natOfBytes (s.chip.dmaRead tb 0 first n stamps)) (dmaSize tb stamps)] = true) ∧
    (∃ (r : Req) (s : State) (all : Bool) (n : Nat) (f : Nat) (m : Nat) (x : Chip), s.chip.ready r (.queueFlush r all n) ∧ flushOk all n = true ∧
      s.chip.flushNow all n = (f, m, x) ∧ s.chip.changeFail x (.queueFlush r all n) = none ∧ fitsRoom (x.replyRoom r.via) [tlvCounts f m] = true) :=
  ⟨⟨rq, st run, 5, 3, 9, some 9, ((run.insertNow 5 3 9).toOption.getD (0, c0)).2, ready (by decide +kernel), by decide +kernel, rfl,
    by decide +kernel⟩,
   ⟨rq, st { run with tbl := { ent := [(entKey 5 0 9, 3), (entKey 5 1 9, 3)] } }, 5, 9, .index 9, _, ready (by decide +kernel), by decide +kernel,
     by decide +kernel, rfl, by decide +kernel⟩,
   ⟨rq, st run, 5, 9, .index 9, _, ready (by decide +kernel), by decide +kernel, by decide +kernel, rfl, by decide +kernel⟩,
   ⟨rq, st { run with tbl := { locks := [(lockKey 5 0, { state := 2, slot := 0, since := 0 })] } }, 5, 0, 1, true, [1, 2], ready (by decide +kernel),
     by decide +kernel⟩,
   ⟨rq, st { run with tbl := { locks := [(lockKey 5 0, { state := 2, slot := 0, since := 0 })] } }, 5, 0, 1, true, by decide +kernel⟩,
   ⟨rq, st run, false, 5, 0, 0, (run.flushNow false 5).2.2, ready (by decide +kernel), by decide +kernel⟩⟩

theorem witness_TransfersAndBarriers :
    (∃ (r : Req) (s : State) (tb : Nat) (host : Nat) (first : Nat) (n : Nat) (write : Bool) (stamps : Bool),
      s.chip.mayRun r (.tblDma r tb host first n write stamps none) = true ∧ r.txn = 0 ∧ host ≠ 0 ∧
      dmaOk r tb host first n write stamps none false = true ∧ s.chip.domainOff (.tblDma r tb host first n write stamps none) = false ∧
      s.chip.dmaLocked r tb first = true ∧ s.chip.parkedFull = false) ∧
    (∃ (r : Req) (s : State) (tb : Nat) (host : Nat) (first : Nat) (n : Nat) (k : Nat) (dl : Nat) (stamps : Bool) (data : Bytes),
      (s.chip.parked[k]? = some { cmd := .tblDma r tb host first n false stamps none, deadline := dl, tag := transferTag }) ∧
      s.chip.dmaLocked r tb first = true ∧ ∃ x : Chip,
      (x = ({ s.chip with parked := s.chip.parked.eraseIdx k } : Chip).emit (.hostWrite host (s.chip.dmaRead tb host first n stamps)))) ∧
    (∃ (r : Req) (s : State) (tb : Nat) (host : Nat) (first : Nat) (n : Nat) (k : Nat) (dl : Nat) (stamps : Bool) (data : Bytes) (c : Chip) (x : Chip),
      (s.chip.parked[k]? = some { cmd := .tblDma r tb host first n true stamps none, deadline := dl, tag := transferTag }) ∧
      data.length = n * dmaSize tb stamps ∧ (c = { s.chip with parked := s.chip.parked.eraseIdx k }) ∧
      c.ready r (.tblDma r tb host first n true stamps (some data)) ∧ c.dmaFail r tb host first n stamps (some data) true = none ∧
      x = c.dmaWrite tb stamps (dmaItems tb host first n stamps data) ∧ c.changeFail x (.tblDma r tb host first n true stamps (some data)) = none) ∧
    (∃ (r : Req) (s : State) (timeout : Option Nat), s.chip.mayRun r (.tblBarrier r timeout) = true ∧ r.txn = 0 ∧ timeout.getD 1000 ≠ 0 ∧
      timeout.getD 1000 ≤ 60000 ∧ s.chip.tbl.barriers.length < 4 ∧ s.chip.parkedFull = false) ∧
    (∃ (r : Req) (s : State) (b : Barrier) (l : List Barrier), s.chip.tbl.barriers = b :: l ∧ ((∀ f ∈ s.chip.path.frames,
      f.origin = .received → 1 ≤ f.stage → f.keyNo = 0 ∨ b.keyNo < f.keyNo))) ∧
    (∃ (r : Req) (s : State) (n : Nat) (b : Barrier), s.chip.tbl.barriers[n]? = some b ∧ b.deadline ≤ s.chip.now ∧ s.chip.barrierHeld b ≠ 0) :=
  ⟨⟨rq, st { run with tbl := { locks := [(lockKey 5 0, { state := 2, slot := 0, since := 0 })] } }, 5, 4096, 0, 1, true, true, by decide +kernel⟩,
   ⟨rq, st { run with tbl := { locks := [(lockKey 5 0, { state := 2, slot := 0, since := 0 })] }, parked := [{ cmd := .tblDma rq 5 4096 0 1 false true none, deadline := 0, tag := transferTag }] },
     5, 4096, 0, 1, 0, 0, true, [], by decide +kernel, by decide +kernel, _, rfl⟩,
   ⟨rq, st { run with tbl := { locks := [(lockKey 5 0, { state := 2, slot := 0, since := 0 })] }, parked := [{ cmd := .tblDma rq 5 4096 0 1 true true none, deadline := 0, tag := transferTag }] },
     5, 4096, 0, 1, 0, 0, true, [1, 2], _, _, by decide +kernel, by decide +kernel, rfl, ready (by decide +kernel), by decide +kernel, rfl,
     by decide +kernel⟩,
   ⟨rq, st c0, some 60000, by decide +kernel⟩,
   ⟨rq, st { c0 with tbl := { barriers := [{ req := rq, keyNo := 4, deadline := 0 }] } }, { req := rq, keyNo := 4, deadline := 0 }, [],
     by decide +kernel⟩,
   ⟨rq, st { c0 with tbl := { barriers := [{ req := rq, keyNo := 4, deadline := 0 }] }, path := { frames := [{ stage := 1, keyNo := 4 }] } }, 0,
     { req := rq, keyNo := 4, deadline := 0 }, by decide +kernel⟩⟩

theorem witness_LearningAndAgeing :
    (∃ (s : State) (q : LearnReq) (l : List LearnReq) (d : Chip), s.chip.tbl.learnQ = q :: l ∧
      (d = { s.chip with tbl := { s.chip.tbl with learnQ := l } }) ∧ s.chip.keyTouched (0, q.sa, q.vid) = false ∧ s.chip.learnLocked q = false ∧
      s.chip.learnFrozen q = false ∧ ∃ (i : Nat) (c : Chip), d.emFind (d.gen 0) (0, q.sa, q.vid) = none ∧ d.emPlace (0, q.sa, q.vid) 1 = some (i,
      c)) ∧
    (∃ (s : State) (q : LearnReq) (l : List LearnReq) (d : Chip), s.chip.tbl.learnQ = q :: l ∧
      (d = { s.chip with tbl := { s.chip.tbl with learnQ := l } }) ∧ s.chip.keyTouched (0, q.sa, q.vid) = false ∧ s.chip.learnLocked q = false ∧
      s.chip.learnFrozen q = false ∧ ∃ (i : Nat), d.emFind (d.gen 0) (0, q.sa, q.vid) = some i ∧ emGrp.get (s.chip.ent 0 0 i) = b2n q.grp ∧
      emDest.get (s.chip.ent 0 0 i) = q.dest ∧ Lay.EM_LAST_HIT.get (s.chip.ent 0 0 i) ≠ s.chip.stampNow) ∧
    (∃ (s : State) (b : Fin 65536), s.chip.on Reg.EM_CTRL_AGE_EN = true ∧ s.chip.locked 0 (b * 4) = false ∧
      s.chip.arbFrozen (tblArb 0 (b * 4)) = false) ∧
    (∃ (s : State) (i : Fin 4096) (x : Rcov), x = SMap.get s.chip.tbl.rcov i ∧ x.live = true ∧
      x.lastAt + unitsMs (Lay.SEQR_RESET_MS.get (s.chip.entNow 4 i)) ≤ s.chip.now) ∧
    (∃ (s : State) (tb : Fin 7) (p : Prep), 2 ≤ tb.val ∧ tb.val ≤ 4 ∧ s.chip.tbl.preps = [p] ∧ p.tbl = tb ∧ p.done = true ∧
      p.flippedAt + unitsNs 200 ≤ s.chip.now) :=
  ⟨⟨st { run with tbl := { learnQ := [{ sa := 5, vid := 1, dest := 7 }] } }, { sa := 5, vid := 1, dest := 7 }, [], _, by decide +kernel, rfl,
    by decide +kernel, by decide +kernel, by decide +kernel, ((run.emPlace (0, 5, 1) 1).map Prod.fst).getD 0,
    { { run with tbl := { learnQ := [{ sa := 5, vid := 1, dest := 7 }] } } with tbl := {} }, by decide +kernel⟩,
   ⟨st ({ run with tbl := { learnQ := [{ sa := 5, vid := 1, dest := 7 }], ent := [(entKey 0 0 (((run.emPlace (0, 5, 1) 1).map Prod.fst).getD 0), Lay.EM_VIS.put 3 + Lay.EM_TYPE.put 1 + Lay.EM_MAC.put 5 + Lay.EM_VID.put 1 + emDest.put 7 + Lay.EM_LAST_HIT.put 9)] } }),
     { sa := 5, vid := 1, dest := 7 }, [], _, by decide +kernel, rfl, by decide +kernel, by decide +kernel, by decide +kernel, ((run.emPlace (0, 5,
     1) 1).map Prod.fst).getD 0, by decide +kernel⟩,
   ⟨st run, 65535, by decide +kernel⟩,
   ⟨st { run with tbl := { rcov := [(4095, { live := true, seq := 3 })] } }, 4095, _, rfl, by decide +kernel⟩,
   ⟨st (at_ 79 { run with tbl := { preps := [{ tbl := 3, index := 5, done := true }] } }), 3, { tbl := 3, index := 5, done := true },
     by decide +kernel⟩⟩

theorem witness_TransactionsOpen :
    (∃ (r : Req) (s : State), s.chip.mayRun r (.txnBegin r) = true ∧ r.txn = 0 ∧ s.chip.txns.length < 4) ∧
    (∃ (r : Req) (s : State) (x : Txn), s.chip.txnOf r = some x ∧ ∃ (i : Instr), i = .queueFlush r true 0 ∧ s.chip.mayRun r i = true ∧ r.txn ≠ 0 ∧
      x.state = .opened ∧ x.bytes + 32 + s.chip.stageBytes i ≤ stageLimit) ∧
    (∃ (r : Req) (s : State) (x : Txn), s.chip.txnOf r = some x ∧ s.chip.mayRun r (.txnStatus r) = true) ∧
    (∃ (r : Req) (s : State) (x : Txn), s.chip.txnOf r = some x ∧ s.chip.mayRun r (.txnRollback r) = true ∧ (x.checked && s.chip.pairOn) = false) ∧
    (∃ (r : Req) (s : State) (id : Nat) (x : Txn), (s.chip.txns.find? (fun y => y.id == id) = some x) ∧ x.state = .opened ∧
      x.lastNamed + s.chip.rd Reg.TXN_CFG_IDLE_S * 100000000000 ≤ s.chip.now) :=
  ⟨⟨rq, st c0, by decide +kernel⟩,
   ⟨rt, st { run with txns := [{ id := 1, req := rq }] }, { id := 1, req := rq }, by decide +kernel, _, rfl, by decide +kernel⟩,
   ⟨rt, st { run with txns := [{ id := 1, req := rq }] }, { id := 1, req := rq }, by decide +kernel⟩,
   ⟨rt, st { run with txns := [{ id := 1, req := rq }] }, { id := 1, req := rq }, by decide +kernel⟩,
   ⟨rq, st (at_ 23437500000 { run with txns := [{ id := 1, req := rq }] }), 1, { id := 1, req := rq }, by decide +kernel⟩⟩

theorem witness_TransactionsCommit :
    (∃ (s : State) (r : Req) (mode : Nat) (late : Bool) (d : Fin 4) (time : Option Nat) (x : Txn) (l : List Txn) (c : Chip) (held : List Scope) (wants : List Scope),
      s.chip.txnOf r = some x ∧ x.state = .opened ∧ s.chip.mayRun r (.txnCommit r mode late d time) = true ∧
      s.chip.commitBad mode late d time = false ∧ s.chip.on Reg.JRN_STATUS_COMMIT_HOLD = false ∧ s.chip.parkedFull = false ∧ s.chip.txns = x :: l ∧
      (c = ({ s.chip with parked := s.chip.parked ++ [{ cmd := .txnCommit r mode late d time, deadline := s.chip.now + s.chip.lockWait, tag := x.id }] } : Chip).updTxn x.id (fun y => { y with state := .waiting, mode := mode, allowLate := late, domain := d, time := (time.map timeOf96).getD 0, lastNamed := s.chip.now, waitFrom := s.chip.now, wants := allScopes y.staged, held := [], checked := false })) ∧
      takeScopes c x.id [] (allScopes x.staged) = (held, wants) ∧ wants ≠ []) ∧
    (∃ (s : State) (r : Req) (mode : Nat) (late : Bool) (d : Fin 4) (time : Option Nat) (x : Txn) (l : List Txn) (c : Chip) (held : List Scope) (wants : List Scope),
      s.chip.txnOf r = some x ∧ x.state = .opened ∧ s.chip.mayRun r (.txnCommit r mode late d time) = true ∧
      s.chip.commitBad mode late d time = false ∧ s.chip.on Reg.JRN_STATUS_COMMIT_HOLD = false ∧ s.chip.parkedFull = false ∧ s.chip.txns = x :: l ∧
      (c = ({ s.chip with parked := s.chip.parked ++ [{ cmd := .txnCommit r mode late d time, deadline := s.chip.now + s.chip.lockWait, tag := x.id }] } : Chip).updTxn x.id (fun y => { y with state := .waiting, mode := mode, allowLate := late, domain := d, time := (time.map timeOf96).getD 0, lastNamed := s.chip.now, waitFrom := s.chip.now, wants := allScopes y.staged, held := [], checked := false })) ∧
      takeScopes c x.id [] (allScopes x.staged) = (held, wants) ∧ wants = [] ∧
      ((mode = 1 → late = false → s.chip.tb16 ≤ (time.map timeOf96).getD 0)) ∧ ∃ (c1 : Chip),
      (c1 = c.updTxn x.id (fun y => { y with held := held, wants := [] })) ∧ ((∀ y ∈ c.txns.take 1, c1.commitFail y = none)) ∧ c1.pairOn = false ∧
      (((c1.prepareTables x.id x.staged).updTxn x.id fun y => { y with checked := true, readyAt := s.chip.now + prepareTime y }).pairOn = false)) ∧
    (∃ (s : State) (id : Nat) (x : Txn), (s.chip.txns.find? (fun y => y.id == id) = some x) ∧ x.state = .waiting ∧ x.checked = true ∧ x.wants = [] ∧
      s.chip.pairOn = false ∧ x.mode = 0) ∧
    (∃ (s : State) (id : Nat) (x : Txn), (s.chip.txns.find? (fun y => y.id == id) = some x) ∧ x.state = .waiting ∧ x.checked = true ∧ x.wants = [] ∧
      s.chip.pairOn = false ∧ x.mode = 1 ∧ s.chip.tb16 ≤ x.time) ∧
    (∃ (s : State) (id : Nat) (x : Txn), (s.chip.txns.find? (fun y => y.id == id) = some x) ∧ x.state = .scheduled ∧ x.p ≤ s.chip.tb16 ∧
      x.atTrigger = false ∧ x.late = false) ∧
    (∃ (s : State) (n : Nat) (p : Parked), s.chip.parked[n]? = some p ∧ p.tag = 0 ∧ allScopes [p.cmd] ≠ [] ∧
      s.chip.firstBlocked 0 (allScopes [p.cmd]) = none) ∧
    (∃ (s : State) (n : Nat) (d : Nat) (r : Req) (q : Bool) (k : Nat) (sc : Scope) (h : Nat),
      (s.chip.parked[n]? = some { cmd := .queueFlush r q k, deadline := d, tag := 0 }) ∧ d < s.chip.now ∧
      s.chip.firstBlocked 0 (allScopes [.queueFlush r q k]) = some (sc, h)) :=
  ⟨⟨st { run with txns := [{ id := 1, req := rq, staged := [.queueFlush rt false 5] }, { id := 2, req := rq, state := .waiting, held := [{ cls := Cls.QUEUE, inst := 5, unit := 0 }], wants := [{ cls := Cls.QUEUE, inst := 6, unit := 0 }] }] },
    rt, 0, false, 0, none, { id := 1, req := rq, staged := [.queueFlush rt false 5] },
    [{ id := 2, req := rq, state := .waiting, held := [{ cls := Cls.QUEUE, inst := 5, unit := 0 }], wants := [{ cls := Cls.QUEUE, inst := 6, unit := 0 }] }],
    _, [], [{ cls := Cls.QUEUE, inst := 5, unit := 0 }], all4 (by decide +kernel) ⟨by decide +kernel, by decide +kernel, by decide +kernel, rfl,
    by decide +kernel⟩⟩,
   ⟨st { run with txns := [{ id := 1, req := rq }] }, rt, 0, false, 0, none, { id := 1, req := rq }, [], _, [], [],
     all4 (by decide +kernel) ⟨by decide +kernel, by decide +kernel, by decide +kernel, rfl, by decide +kernel, by decide +kernel, by decide +kernel,
     _, rfl, by decide +kernel⟩⟩,
   ⟨st { run with txns := [{ id := 1, req := rq, state := .waiting, checked := true }] }, 1,
     { id := 1, req := rq, state := .waiting, checked := true }, by decide +kernel⟩,
   ⟨st { run with txns := [{ id := 1, req := rq, state := .waiting, checked := true, mode := 1, time := 5 }] }, 1,
     { id := 1, req := rq, state := .waiting, checked := true, mode := 1, time := 5 }, by decide +kernel⟩,
   ⟨st { run with txns := [{ id := 1, req := rq, state := .scheduled }] }, 1, { id := 1, req := rq, state := .scheduled }, by decide +kernel⟩,
   ⟨st { run with parked := [{ cmd := .queueFlush rq false 5, deadline := 0, tag := 0 }] }, 0,
     { cmd := .queueFlush rq false 5, deadline := 0, tag := 0 }, by decide +kernel⟩,
   ⟨st (at_ 1 { run with parked := [{ cmd := .queueFlush rq false 5, deadline := 0, tag := 0 }], txns := [{ id := 1, req := rq, held := [{ cls := Cls.QUEUE, inst := 5, unit := 0 }] }] }),
     0, 0, rq, false, 5, { cls := Cls.QUEUE, inst := 5, unit := 0 }, 1, by decide +kernel⟩⟩

theorem witness_KeysAndDeviceId :
    (∃ (r : Req) (s : State) (slot : Nat) (role : Nat) (tr : Nat) (k : Nat) (key : Bytes) (x : Chip),
      s.chip.mayRun r (.keyInstall r slot role tr key) = true ∧ r.txn = 0 ∧ s.chip.on Reg.JRN_STATUS_COMMIT_HOLD = false ∧ slot ≤ 31 ∧
      keyRoleOk role tr = true ∧ ((r.slot = 255 ∧ key.length = 32 ∧ role = 4 ∧ k = natOfBytes key ∨ r.slot ≠ 255 ∧ key.length = 40 ∧
      aesUnwrap (SMap.get s.chip.keys r.slot) (natOfBytes key) = some k)) ∧
      (x = (((({ s.chip with keys := SMap.set s.chip.keys slot k } : Chip).flag Reg.KEY_STATE_VALID true slot).wr Reg.KEY_STATE_LAST_SEQ 0 slot).wr Reg.KEY_STATE_ROLE role slot).wr Reg.KEY_STATE_TRANSPORTS tr slot)) ∧
    (∃ (r : Req) (s : State) (slot : Nat) (role : Nat) (tr : Nat) (x : Chip), s.chip.mayRun r (.keyRetire r slot role tr) = true ∧ r.txn = 0 ∧
      s.chip.on Reg.JRN_STATUS_COMMIT_HOLD = false ∧ slot ≤ 31 ∧ s.chip.ownerLeft (some slot) = true ∧ ((∀ y ∈ s.chip.txns, y.req.slot ≠ slot)) ∧
      (x = (((({ s.chip with keys := SMap.set s.chip.keys slot 0 } : Chip).flag Reg.KEY_STATE_VALID false slot).wr Reg.KEY_STATE_ROLE 0 slot).wr Reg.KEY_STATE_TRANSPORTS 0 slot))) ∧
    (∃ (r : Req) (s : State) (slot : Nat) (role : Nat) (tr : Nat) (x : Chip), s.chip.mayRun r (.roleMap r slot role tr) = true ∧ r.txn = 0 ∧
      s.chip.on Reg.JRN_STATUS_COMMIT_HOLD = false ∧ slot ≤ 31 ∧ keyRoleOk role tr = true ∧ s.chip.on Reg.KEY_STATE_VALID slot = true ∧
      ((role = 4 ∨ s.chip.ownerLeft (some slot) = true)) ∧ ((∀ y ∈ s.chip.txns, y.req.slot ≠ slot)) ∧
      x = (s.chip.wr Reg.KEY_STATE_ROLE role slot).wr Reg.KEY_STATE_TRANSPORTS tr slot) ∧
    (∃ (r : Req) (s : State) (d : Fin 64) (x : Chip), s.chip.ready r (.fabAssign r d) ∧
      (x = { s.chip with fab := { s.chip.fab with storedId := some d } }) ∧ s.chip.changeFail x (.fabAssign r d) = none) :=
  ⟨⟨{ rq with slot := 255 }, st c0, 1, 4, 2, 1, bytesOfNat 32 1, _, all4 (by decide +kernel) ⟨by decide +kernel, by decide +kernel, rfl⟩⟩,
   ⟨rq, st ((c0.flag Reg.KEY_STATE_VALID true 1).wr Reg.KEY_STATE_ROLE 4 1), 0, 0, 0, _, all4 (by decide +kernel) ⟨by decide +kernel,
     by decide +kernel, rfl⟩⟩,
   ⟨rq, st ((c0.flag Reg.KEY_STATE_VALID true 1).wr Reg.KEY_STATE_ROLE 4 1), 1, 4, 2, _, all4 (by decide +kernel) (all4 (by decide +kernel) rfl)⟩,
   ⟨rq, st run, 5, _, ready (by decide +kernel), rfl, by decide +kernel⟩⟩

theorem witness_TwinCommands :
    (∃ (r : Req) (s : State), r.txn = 0 ∧ ∃ (hb : Nat) (w : Option (Bool × Fin 2)) (force : Bool) (l : List Tlv),
      s.chip.mayRun r (.twinPromote r hb w) = true ∧ s.chip.on Reg.JRN_STATUS_COMMIT_HOLD = false ∧ timeOk hb = true ∧
      force = (w.map Prod.fst).getD false ∧ ((force = true ∨ s.chip.mayPromote hb = true)) ∧ l = [tlvTime s.chip.tb96] ∧ ∃ (x : Chip),
      s.chip.standby = true ∧ x = s.chip.promote ∧ fitsRoom (x.replyRoom r.via) l = true) ∧
    (∃ (r : Req) (s : State), r.txn = 0 ∧ ∃ (hb : Nat) (w : Option (Bool × Fin 2)) (force : Bool) (l : List Tlv),
      s.chip.mayRun r (.twinPromote r hb w) = true ∧ s.chip.on Reg.JRN_STATUS_COMMIT_HOLD = false ∧ timeOk hb = true ∧
      force = (w.map Prod.fst).getD false ∧ ((force = true ∨ s.chip.mayPromote hb = true)) ∧ l = [tlvTime s.chip.tb96] ∧ ∃ (x : Chip),
      s.chip.rd Reg.TWIN_STATUS_STATE = 6 ∧ s.chip.on Reg.TWIN_CFG_INTERLOCK = true ∧ (x = { s.chip with twin := { s.chip.twin with claim := 1 } }) ∧
      fitsRoom (x.replyRoom r.via) l = true) ∧
    (∃ (r : Req) (s : State), r.txn = 0 ∧ ∃ (x : Chip), s.chip.mayRun r (.twinDemote r) = true ∧ s.chip.on Reg.JRN_STATUS_COMMIT_HOLD = false ∧
      ((s.chip.rd Reg.TWIN_STATUS_STATE = 5 ∨ s.chip.rd Reg.TWIN_STATUS_STATE = 6)) ∧ x = (s.chip.jrnCmd r 1 0x0803 0 0 []).toStandby.settleWaits) ∧
    (∃ (r : Req) (s : State), r.txn = 0 ∧ ∃ (k : Nat) (n : Nat) (b : Bytes) (l : List CkRec) (x : Chip),
      s.chip.mayRun r (.twinCheckpoint r k n b) = true ∧ s.chip.standby = true ∧ readRecs b.length b = some l ∧
      (x = (l.foldl (fun c k => Chip.takeRec k c) s.chip).twinEval) ∧ fitsRoom (x.replyRoom r.via) [tlvCkpt k n] = true) ∧
    (∃ (r : Req) (s : State), r.txn = 0 ∧ ∃ (u : Fin 2) (h : Chip) (x : Chip), s.chip.mayRun r (.twinHeartbeat r u) = true ∧
      (s.chip.sentDiff r).natAbs ≤ 2000000 * 65536 ∧ (h = { s.chip with twin := { s.chip.twin with hbAt := some s.chip.now } }) ∧ ((x = h ∧
      s.chip.rd Reg.TWIN_STATUS_STATE ≠ 6 ∧
      (s.chip.rd Reg.TWIN_STATUS_STATE ≠ 5 ∨ u.val = s.chip.rd Reg.TWIN_CFG_UNIT ∨ s.chip.on Reg.TWIN_CFG_FENCE_ON_HB = false) ∨ x = h.fenceUnit ∧
      s.chip.rd Reg.TWIN_STATUS_STATE = 5 ∧ u.val ≠ s.chip.rd Reg.TWIN_CFG_UNIT ∧ s.chip.on Reg.TWIN_CFG_FENCE_ON_HB = true)) ∧
      fitsRoom (x.replyRoom r.via) (x.twinObj 2) = true) :=
  ⟨⟨rq, st (c0.wr Reg.TWIN_STATUS_STATE 1), by decide +kernel, 0, some (true, 0), true, _, all4 (by decide +kernel) ⟨by decide +kernel, rfl, _,
    by decide +kernel, rfl, by decide +kernel⟩⟩,
   ⟨rq, st ((c0.wr Reg.TWIN_STATUS_STATE 6).flag Reg.TWIN_CFG_INTERLOCK true), by decide +kernel, 0, some (true, 0), true, _,
     all4 (by decide +kernel) ⟨by decide +kernel, rfl, _, by decide +kernel, by decide +kernel, rfl, by decide +kernel⟩⟩,
   ⟨rq, st (c0.wr Reg.TWIN_STATUS_STATE 5), by decide +kernel, _, by decide +kernel, by decide +kernel, by decide +kernel, rfl⟩,
   ⟨{ rq with role := .twin }, st (c0.wr Reg.TWIN_STATUS_STATE 1), by decide +kernel, 3, 0, [], [], _, by decide +kernel, by decide +kernel,
     by decide +kernel, rfl, by decide +kernel⟩,
   ⟨{ rq with role := .referee }, st ((c0.wr Reg.TWIN_STATUS_STATE 5).flag Reg.TWIN_CFG_FENCE_ON_HB false), by decide +kernel, 1, _, _,
     by decide +kernel, by decide +kernel, rfl, .inl ⟨rfl, by decide +kernel, by decide +kernel⟩, by decide +kernel⟩⟩

theorem witness_PairPinsAndFence :
    (∃ (s : State), s.chip.on Reg.TWIN_CFG_PAIR_EN = true ∧ s.chip.twin.highs < 9) ∧
    (∃ (s : State), s.chip.on Reg.TWIN_STATUS_HOLD_IN = false) ∧
    (∃ (s : State), s.chip.twin.claim ≠ 3) ∧
    (∃ (s : State), s.chip.twin.claim = 1 ∧ s.chip.on Reg.TWIN_STATUS_HOLD_IN = false ∧ s.chip.twin.relAt + 100000 ≤ s.chip.now ∧
      s.chip.on Reg.TWIN_STATUS_HOLD_OUT = false) ∧
    (∃ (s : State), s.chip.twin.claim = 2 ∧ s.chip.twin.claimAt + 100000 ≤ s.chip.now ∧ s.chip.on Reg.TWIN_STATUS_HOLD_IN = true ∧
      s.chip.rd Reg.TWIN_CFG_UNIT = 0) ∧
    (∃ (s : State), s.chip.twin.claim = 2 ∧ s.chip.twin.claimAt + 100000 ≤ s.chip.now ∧ s.chip.on Reg.TWIN_STATUS_HOLD_IN = false ∧
      s.chip.rd Reg.TWIN_STATUS_STATE = 4 ∧ s.chip.thawWaits = true) ∧
    (∃ (s : State) (c : Chip), s.chip.on Reg.TWIN_CFG_PAIR_EN = true ∧ s.chip.on Reg.TWIN_CFG_INTERLOCK = true ∧ 3 ≤ s.chip.rd Reg.TWIN_STATUS_STATE ∧
      s.chip.path.ports = [] ∧ c = s.chip.flag Reg.TWIN_STATUS_HOLD_WD_EXP true) ∧
    (∃ (s : State) (h : Nat), s.chip.twin.hbAt = some h ∧ s.chip.rd Reg.TWIN_STATUS_STATE = 5 ∧ s.chip.on Reg.TWIN_CFG_FENCE_ON_HB = true ∧
      h + s.chip.rd Reg.TWIN_CFG_T_FENCE * 10000000 ≤ s.chip.now ∧ s.chip.path.ports = []) :=
  ⟨⟨st (c0.flag Reg.TWIN_CFG_PAIR_EN true), by decide +kernel⟩,
   ⟨st c0, by decide +kernel⟩,
   ⟨st c0, by decide +kernel⟩,
   ⟨st { at_ 391 c0 with twin := { claim := 1 } }, by decide +kernel⟩,
   ⟨st { at_ 391 (c0.flag Reg.TWIN_STATUS_HOLD_IN true) with twin := { claim := 2 } }, by decide +kernel⟩,
   ⟨st { at_ 391 ((c0.wr Reg.TWIN_STATUS_STATE 4).wr Reg.CD_STATUS_STATE 2 1) with twin := { claim := 2 } }, by decide +kernel⟩,
   ⟨st (((c0.wr Reg.TWIN_STATUS_STATE 5).flag Reg.TWIN_CFG_PAIR_EN true).flag Reg.TWIN_CFG_INTERLOCK true), _, all4 (by decide +kernel) rfl⟩,
   ⟨st { at_ 390625000 ((c0.wr Reg.TWIN_STATUS_STATE 5).flag Reg.TWIN_CFG_FENCE_ON_HB true) with twin := { hbAt := some 0 } }, 0, by decide +kernel⟩⟩

theorem witness_PairRuns :
    (∃ (s : State), s.chip.rd Reg.TWIN_STATUS_STATE = 1 ∧ s.chip.twinReady = true) ∧
    (∃ (s : State), s.chip.rd Reg.TWIN_STATUS_STATE = 2 ∧ s.chip.twinReady = false) ∧
    (∃ (s : State), s.chip.pairOn = true ∧ s.chip.twin.fullDue = true) ∧
    (∃ (s : State) (n : Nat), s.chip.standby = true ∧ n = s.chip.rd Reg.CKPT_CFG_SAVE_S ∧ n ≠ 0 ∧ s.chip.twin.full = true ∧
      s.chip.twin.savedAt + n * 100000000000 ≤ s.chip.now ∧ s.chip.newestSaved = s.chip.twin.slotA) ∧
    (∃ (s : State), s.chip.rd Reg.TWIN_STATUS_STATE = 4 ∧ s.chip.twin.claim = 0 ∧ s.chip.twin.egress = false ∧
      s.chip.twin.thawAt + 1000000000 ≤ s.chip.now) ∧
    (∃ (s : State) (h : Nat) (c : Chip), s.chip.rd Reg.TWIN_STATUS_STATE = 2 ∧ s.chip.on Reg.TWIN_CFG_HOME = true ∧ s.chip.twin.take = 0 ∧
      s.chip.twin.readyAt + s.chip.rd Reg.HANDOVER_CTRL_READY_HOLD_S * 100000000000 ≤ s.chip.now ∧ s.chip.nextHandover = some h ∧
      s.chip.cdPeriod (s.chip.rd Reg.HANDOVER_CTRL_DOMAIN) ≠ 0 ∧ s.chip.boundaryFrom (s.chip.rd Reg.HANDOVER_CTRL_DOMAIN) h = h ∧
      h ≤ s.chip.tb16 + 86400 * 1000000000 * 65536 ∧ s.chip.twinTry 0 0x0201 0 [] = some c) ∧
    (∃ (s : State), s.chip.twin.take = 3 ∧ s.chip.twin.takeH ≤ s.chip.tb16 + 100000000 * 65536 ∧ s.chip.rd Reg.TWIN_STATUS_STATE = 2 ∧
      s.chip.tb16 < s.chip.twin.takeH) ∧
    (∃ (s : State), s.chip.twin.take = 3 ∧ s.chip.twin.takeH ≤ s.chip.tb16 + 100000000 * 65536 ∧ s.chip.rd Reg.TWIN_STATUS_STATE = 1) :=
  ⟨⟨st { ((((((c0.wr Reg.TWIN_STATUS_STATE 1).flag Reg.TWIN_STATUS_LINK_UP true).wr Reg.SEL_STATUS_FSTATE 2).wr Reg.SEL_STATUS_TSTATE 2).flag Reg.SEL_STATUS_HO_READY_F true).flag Reg.SEL_STATUS_HO_READY_T true) with twin := { full := true } },
    by decide +kernel⟩,
   ⟨st (c0.wr Reg.TWIN_STATUS_STATE 2), by decide +kernel⟩,
   ⟨st { ((((((c0.wr Reg.TWIN_STATUS_STATE 5).flag Reg.KEY_STATE_VALID true 1).wr Reg.KEY_STATE_ROLE 5 1).wr Reg.KEY_STATE_TRANSPORTS 1 1).flag Reg.TWIN_CFG_PAIR_EN true).flag Reg.TWIN_STATUS_LINK_UP true) with twin := { fullDue := true } },
     by decide +kernel⟩,
   ⟨st { at_ 390625000 ((c0.wr Reg.TWIN_STATUS_STATE 1).wr Reg.CKPT_CFG_SAVE_S 1) with twin := { full := true, slotA := some {} } }, 1,
     by decide +kernel⟩,
   ⟨st (at_ 390625000 (c0.wr Reg.TWIN_STATUS_STATE 4)), by decide +kernel⟩,
   ⟨st ((((((((((at_ 390625000 run).wr Reg.TWIN_STATUS_STATE 2).flag Reg.KEY_STATE_VALID true 1).wr Reg.KEY_STATE_ROLE 5 1).wr Reg.KEY_STATE_TRANSPORTS 1 1).flag Reg.TWIN_CFG_HOME true).flag Reg.TWIN_STATUS_LINK_UP true).wr Reg.HANDOVER_CTRL_HANDOVER_PERIOD 10).wr Reg.HANDOVER_CTRL_READY_HOLD_S 1).wr Reg.CD_CFG_PERIOD 1000000),
     10 * 1000000000 * 65536,
     (((((((((((at_ 390625000 run).wr Reg.TWIN_STATUS_STATE 2).flag Reg.KEY_STATE_VALID true 1).wr Reg.KEY_STATE_ROLE 5 1).wr Reg.KEY_STATE_TRANSPORTS 1 1).flag Reg.TWIN_CFG_HOME true).flag Reg.TWIN_STATUS_LINK_UP true).wr Reg.HANDOVER_CTRL_HANDOVER_PERIOD 10).wr Reg.HANDOVER_CTRL_READY_HOLD_S 1).wr Reg.CD_CFG_PERIOD 1000000).twinTry 0 0x0201 0 []).getD c0,
     by decide +kernel⟩,
   ⟨st { (c0.wr Reg.TWIN_STATUS_STATE 2) with twin := { take := 3, takeH := 65536 } }, by decide +kernel⟩,
   ⟨st { (c0.wr Reg.TWIN_STATUS_STATE 1) with twin := { take := 3, takeH := 65536 } }, by decide +kernel⟩⟩

theorem witness_FirmwareCommands :
    (∃ (r : Req) (s : State) (tg : Nat) (data : Bytes) (x : FwImg) (c : Chip), s.chip.mayRun r (.fwStage r tg (.chunk 0 data.length data)) = true ∧
      r.txn = 0 ∧ tg ≤ 3 ∧ s.chip.fwWriting tg = false ∧ SMap.get s.chip.drum.part (64 + tg) = none ∧ data ≠ [] ∧ data.length ≤ 8388608 ∧
      x = fwImage s.chip.fw.roots (SMap.get s.chip.fw.minSec tg) tg data ∧
      (c = (let d := (s.chip.setPart (64 + tg) none).unstage tg; ({ d with fw := { d.fw with staged := SMap.set d.fw.staged tg (if x.err = 0 then some x else none) } } : Chip).setFw tg (if x.err = 0 then 2 else 4) x.err)) ∧
      fitsRoom (c.replyRoom r.via) [c.fwInfos] = true) ∧
    (∃ (r : Req) (s : State) (tg : Nat), s.chip.mayRun r (.fwWrite r tg) = true ∧ r.txn = 0 ∧ tg ≤ 3 ∧ ((∃ x,
      SMap.get s.chip.fw.staged tg = some x)) ∧ s.chip.fwWriting tg = false ∧ s.chip.parkedFull = false) ∧
    (∃ (r : Req) (s : State), s.chip.mayRun r (.fwActivate r 0) = true ∧ r.txn = 0 ∧ s.chip.fw.recovery = false ∧ s.chip.fwState 0 = 3 ∧
      s.chip.on Reg.JRN_STATUS_COMMIT_HOLD = false ∧ s.chip.fw.hand = 0 ∧ s.chip.parkedFull = false) ∧
    (∃ (r : Req) (s : State) (tg : Nat), s.chip.mayRun r (.fwActivate r tg) = true ∧ r.txn = 0 ∧ s.chip.fw.recovery = false ∧ 1 ≤ tg ∧ tg ≤ 3 ∧
      s.chip.fwState tg = 3 ∧ s.chip.on Reg.JRN_STATUS_COMMIT_HOLD = false ∧
      ((s.chip.rd Reg.TWIN_STATUS_STATE = 1 ∨ s.chip.rd Reg.TWIN_STATUS_STATE = 2 ∨ s.chip.on Reg.TWIN_CFG_PAIR_EN = false ∧
      s.chip.rd Reg.PWR_STATUS_STATE = 0))) ∧
    (∃ (r : Req) (s : State) (tg : Fin 4) (x : FwImg) (p : Parked) (c : Chip), s.chip.parked = [p] ∧ p.tag = 8589934592 + tg.val ∧
      p.cmd = .fwWrite r tg ∧ SMap.get s.chip.fw.staged tg = some x ∧ (SMap.get s.chip.fw.run tg).ver ≠ x.ver ∧
      (c = ({ s.chip with parked := [], fw := { s.chip.fw with flash := SMap.set s.chip.fw.flash tg x, staged := SMap.set s.chip.fw.staged tg none } } : Chip).setFw tg 3 0)) ∧
    (∃ (r : Req) (s : State) (n : Nat) (tg : Nat) (host : Nat) (len : Nat) (dl : Nat) (b : Bytes) (c : Chip),
      (s.chip.parked[n]? = some { cmd := .fwStage r tg (.host host len), deadline := dl, tag := transferTag }) ∧
      (c = (({ s.chip with parked := s.chip.parked.eraseIdx n } : Chip).stageImage tg b).chip) ∧ fitsRoom (c.replyRoom r.via) [c.fwInfos] = true) :=
  ⟨⟨rq, st c0, 1, [1, 2, 3], _, _, all4 (by decide +kernel) ⟨by decide +kernel, by decide +kernel, by decide +kernel, rfl, rfl, by decide +kernel⟩⟩,
   ⟨rq, st { c0 with fw := { staged := [(1, some { ver := 2 })] } }, 1, by decide +kernel, by decide +kernel, by decide +kernel, ⟨{ ver := 2 },
     by decide +kernel⟩, by decide +kernel⟩,
   ⟨rq, st { c0 with fw := { state := [(0, 3)] } }, by decide +kernel⟩,
   ⟨rq, st { (c0.wr Reg.TWIN_STATUS_STATE 1) with fw := { state := [(1, 3)] } }, 1, by decide +kernel⟩,
   ⟨rq, st {  c0 with fw := { staged := [(1, some { ver := 2 })] }, parked := [{ cmd := .fwWrite rq 1, deadline := 0, tag := 8589934593 }] }, 1,
     { ver := 2 }, { cmd := .fwWrite rq 1, deadline := 0, tag := 8589934593 }, _, all4 (by decide +kernel) ⟨by decide +kernel, rfl⟩⟩,
   ⟨rq, st { c0 with parked := [{ cmd := .fwStage rq 1 (.host 4096 2), deadline := 0, tag := transferTag }] }, 0, 1, 4096, 2, 0, [1, 2], _,
     by decide +kernel, rfl, by decide +kernel⟩⟩

theorem witness_FirmwareHandover :
    (∃ (s : State) (c : Chip), s.chip.fw.hand = 1 ∧ s.chip.now ≤ s.chip.fw.handA + 1000000000000 ∧ s.chip.commitNear = false ∧
      (c = { s.chip with fw := { s.chip.fw with hand := 2, handS := s.chip.now, prev := SMap.get s.chip.fw.run 0, run := SMap.set s.chip.fw.run 0 (SMap.get s.chip.fw.flash 0) } })) ∧
    (∃ (s : State) (r : Req) (p : Parked), s.chip.fw.hand = 2 ∧ s.chip.parked = [p] ∧ p.tag = 17179869184 ∧ p.cmd = .fwActivate r 0 ∧
      s.chip.now ≤ s.chip.fw.handS + 10000000000 ∧ ∃ (c : Chip),
      (c = { s.chip with parked := [], fw := { s.chip.fw with hand := 0, prev := {}, state := SMap.set s.chip.fw.state 0 0, err := SMap.set s.chip.fw.err 0 0, minSec := SMap.upd s.chip.fw.minSec 0 fun n => max n (SMap.get s.chip.fw.run 0).sec } })) ∧
    (∃ (s : State) (r : Req) (p : Parked), s.chip.fw.hand = 2 ∧ s.chip.parked = [p] ∧ p.tag = 17179869184 ∧ p.cmd = .fwActivate r 0 ∧
      s.chip.fw.handS + 10000000000 < s.chip.now ∧ ∃ (c : Chip),
      (c = { s.chip with parked := [], fw := { s.chip.fw with hand := 0, prev := {}, run := SMap.set s.chip.fw.run 0 s.chip.fw.prev, flash := SMap.set s.chip.fw.flash 0 s.chip.fw.prev, state := SMap.set s.chip.fw.state 0 5, err := SMap.set s.chip.fw.err 0 0 } })) ∧
    (∃ (s : State), s.chip.txns = [] ∧ s.chip.on Reg.TWIN_CFG_PAIR_EN = false) :=
  ⟨⟨st { c0 with fw := { hand := 1 } }, _, by decide +kernel, by decide +kernel, by decide +kernel, rfl⟩,
   ⟨st { c0 with fw := { hand := 2 }, parked := [{ cmd := .fwActivate rq 0, deadline := 0, tag := 17179869184 }] }, rq,
     { cmd := .fwActivate rq 0, deadline := 0, tag := 17179869184 }, all4 (by decide +kernel) ⟨by decide +kernel, _, rfl⟩⟩,
   ⟨st { at_ 390625000 c0 with fw := { hand := 2 }, parked := [{ cmd := .fwActivate rq 0, deadline := 0, tag := 17179869184 }] }, rq,
     { cmd := .fwActivate rq 0, deadline := 0, tag := 17179869184 }, all4 (by decide +kernel) ⟨by decide +kernel, _, rfl⟩⟩,
   ⟨st c0, by decide +kernel⟩⟩

theorem witness_RequestsAndRings :
    (∃ (s : State) (v : Via) (b : Bytes), s.chip.cmdq.length < 256) ∧
    (∃ (s : State) (v : Via) (b : Bytes) (h : Hdr), s.chip.cmdq = [] ∧ h = parseHdr b ∧ s.chip.served v = true ∧ ((v = .twinLink → h.flags < 64)) ∧
      formOk b = true ∧ s.chip.bootstrap v h b = false ∧ s.chip.slotOk h.slot v = true ∧ ∃ (role : Role),
      authCode (SMap.get s.chip.keys h.slot) (b.take (32 + h.len)) = natAt b (32 + h.len) 16 ∧ h.role = s.chip.rd Reg.KEY_STATE_ROLE h.slot ∧
      Role.ofCode h.role = some role ∧ s.chip.freshOk v h = true ∧ s.chip.staleBeat (reqOfHdr v h role s.chip.hif.era) h.op = false) ∧
    (∃ (s : State) (v : Via) (b : Bytes) (h : Hdr), s.chip.cmdq = [] ∧ h = parseHdr b ∧ s.chip.served v = true ∧ ((v = .twinLink → h.flags < 64)) ∧
      formOk b = true ∧ s.chip.bootstrap v h b = false ∧ s.chip.slotOk h.slot v = true ∧
      authCode (SMap.get s.chip.keys h.slot) (b.take (32 + h.len)) ≠ natAt b (32 + h.len) 16 ∧ v ≠ .ring) ∧
    (∃ (s : State) (tail : Nat) (b : Bytes), s.chip.hif.cmd.en = true ∧ 1 < s.chip.hif.cmd.size ∧ s.chip.cmdq.length < 256) ∧
    (∃ (s : State) (tail : Nat) (f : Nat × Bytes), s.chip.hif.inj.en = true ∧ s.chip.hif.injWait.length + 1 < s.chip.hif.inj.size) ∧
    (∃ (s : State) (d : Nat) (b : Bytes) (l : List (Option (Nat × Bytes))) (p : Nat) (n : Nat), s.chip.hif.injWait = some (d, b) :: l ∧
      p = Lay.IDESC_PORT.get d ∧ n = Lay.IDESC_LEN.get d ∧ ∃ (c : Chip), p ≤ 512 ∧ s.chip.twinPort p = false ∧ 60 ≤ n ∧ n + 4 ≤ s.chip.maxFrame p ∧
      ((p = 512 → Lay.IDESC_TIMED.get d ≠ 1)) ∧
      (s.chip.injectOwn p (Lay.IDESC_CLASS.get d) (sliceBytes b 0 n) (if Lay.IDESC_TIMED.get d = 1 then some (timeOf96 (Lay.IDESC_LAUNCH.get d)) else none) (if Lay.IDESC_STAMP.get d = 1 then some (Lay.IDESC_TAG.get d) else none) = some c)) ∧
    (∃ (s : State) (d : Nat) (b : Bytes) (l : List (Option (Nat × Bytes))) (p : Nat) (n : Nat), s.chip.hif.injWait = some (d, b) :: l ∧
      p = Lay.IDESC_PORT.get d ∧ n = Lay.IDESC_LEN.get d ∧ n < 60) ∧
    (∃ (s : State) (tail : Nat) (rooms : List Nat), s.chip.hif.dlv.en = true ∧ s.chip.hif.dlvRoom.length + rooms.length < s.chip.hif.dlv.size) ∧
    (∃ (s : State) (tail : Nat) (rooms : List Nat), s.chip.hif.rsp.en = true ∧ s.chip.hif.rspWait = [] ∧
      s.chip.hif.rspRoom.length + rooms.length < s.chip.hif.rsp.size) ∧
    (∃ (s : State) (w : Nat × Bytes) (l : List (Nat × Bytes)), s.chip.hif.rspWait = w :: l ∧ w.1 ≤ s.chip.now ∧ ((∀ y ∈ l, s.chip.now < y.1))) ∧
    (∃ (s : State) (k : Fin 8) (idle : Bool) (f : Frame) (n : Nat), (s.chip.trapFirst k (fun f => !f.trapKey.esmc && f.trapKey.ptp.isNone) = some (f,
      n)) ∧ ∃ (v : Via) (b : Bytes), s.chip.trapCommand f = some (v, b) ∧
      ((f.port = 512 ∨ v = .twinLink ∨ s.chip.on Reg.CMD_PORT_CMD_EN f.port = true)) ∧
      (s.chip.dropTgt f.id n).on Reg.CMD_PORT_CMD_EN f.port = s.chip.on Reg.CMD_PORT_CMD_EN f.port) ∧
    (∃ (s : State) (k : Fin 8) (idle : Bool) (f : Frame) (n : Nat), (s.chip.trapFirst k (fun f => !f.trapKey.esmc && f.trapKey.ptp.isNone) = some (f,
      n)) ∧ s.chip.trapCommand f = none ∧ f.trapKey.lldp = false ∧ f.port ≠ 512) :=
  ⟨⟨st c0, .ring, [], by decide +kernel⟩,
   ⟨st (((c0.flag Reg.KEY_STATE_VALID true 1).wr Reg.KEY_STATE_ROLE 4 1).wr Reg.KEY_STATE_TRANSPORTS 6 1), .ring,
     packetBytes (some 0) (headerBytes 0 0x0001 0 1 4 1 0 0 0) [], _, by decide +kernel, rfl, all4 (by decide +kernel) ⟨by decide +kernel, .owner,
     by decide +kernel⟩⟩,
   ⟨st (((c0.flag Reg.KEY_STATE_VALID true 1).wr Reg.KEY_STATE_ROLE 4 1).wr Reg.KEY_STATE_TRANSPORTS 6 1), .eth 512 0 none,
     packetBytes none (headerBytes 0 0x0001 0 1 4 1 0 0 0) [], _, by decide +kernel, rfl, by decide +kernel⟩,
   ⟨st { c0 with hif := { cmd := { en := true, size := 16 } } }, 1, [], by decide +kernel⟩,
   ⟨st { c0 with hif := { inj := { en := true, size := 16 } } }, 1, (0, []), by decide +kernel⟩,
   ⟨st { run with hif := { injWait := [some (Lay.IDESC_PORT.put 512 + Lay.IDESC_LEN.put 60, [])] } }, Lay.IDESC_PORT.put 512 + Lay.IDESC_LEN.put 60,
     [], [], _, _, by decide +kernel, rfl, rfl,
     ((st { run with hif := { injWait := [some (Lay.IDESC_PORT.put 512 + Lay.IDESC_LEN.put 60, [])] } }).chip.injectOwn 512 0 (List.replicate 60 0#8) none none).getD c0,
     by decide +kernel⟩,
   ⟨st { c0 with hif := { injWait := [some (Lay.IDESC_PORT.put 512 + Lay.IDESC_LEN.put 59, [])] } }, Lay.IDESC_PORT.put 512 + Lay.IDESC_LEN.put 59,
     [], [], _, _, by decide +kernel, rfl, rfl, by decide +kernel⟩,
   ⟨st { c0 with hif := { dlv := { en := true, size := 16 } } }, 1, [64], by decide +kernel⟩,
   ⟨st { c0 with hif := { rsp := { en := true, size := 16 } } }, 1, [64], by decide +kernel⟩,
   ⟨st { c0 with hif := { rspWait := [(0, [])] } }, (0, []), [], by decide +kernel⟩,
   ⟨st { c0 with path := { frames := [{ id := 1, port := 0, zid := some (Lay.ZID_TYPE.put 4), bytes := List.replicate 64 0#8 }], queues := [(8000, [(1, 0)])] } },
     0, true, { id := 1, port := 0, zid := some (Lay.ZID_TYPE.put 4), bytes := List.replicate 64 0#8 }, 0, by decide +kernel, .twinLink,
     List.replicate 44 0#8, by decide +kernel⟩,
   ⟨st { c0 with path := { frames := [{ id := 1, port := 0, bytes := List.replicate 64 1#8 }], queues := [(8000, [(1, 0)])] } }, 0, true,
     { id := 1, port := 0, bytes := List.replicate 64 1#8 }, 0, by decide +kernel⟩⟩

theorem witness_MailboxesAndDoorbells :
    (∃ (s : State) (width : Nat) (value : Nat), (width = 4 ∨ width = 8)) ∧
    (∃ (s : State) (off : Nat) (width : Nat) (value : Nat), 0x3040 ≤ off) ∧
    (∃ (s : State) (k : Nat), 4 ≤ k ∧ k ≤ 12 ∧ s.chip.hif.cmd.en = false) ∧
    (∃ (s : State) (n : Fin 16), s.chip.on Reg.MBX_STAT_H2F_FULL n = false) ∧
    (∃ (s : State) (n : Fin 16), s.chip.on Reg.MBX_STAT_H2F_FULL n = true) ∧
    (∃ (s : State) (n : Fin 16) (x : Chip), s.chip.on Reg.MBX_STAT_H2F_FULL n = true ∧ s.chip.fw.recovery = false ∧
      (x = ({ s.chip with hif := { s.chip.hif with h2f := SMap.set s.chip.hif.h2f n 0 } } : Chip).flag Reg.MBX_STAT_H2F_FULL false n)) ∧
    (∃ (s : State) (e : Fin 64), s.chip.rd Reg.PWR_STATUS_STATE ≠ 2) ∧
    (∃ (s : State) (e : Fin 64), s.chip.rd Reg.PWR_STATUS_STATE = 2 ∧ (s.chip.eng e).mbx.length < 3) ∧
    (∃ (s : State) (b : Fin 32) (x : Chip) (e : Nat), bitOf s.chip.hif.db b = true ∧ s.chip.fw.recovery = false ∧ e = s.chip.rd Reg.DB_CMD 16 b ∧
      (x = { s.chip with hif := { s.chip.hif with db := clrBit s.chip.hif.db b } })) :=
  ⟨⟨st c0, 4, 5, .inl rfl⟩,
   ⟨st c0, 0x3040, 4, 5, by decide +kernel⟩,
   ⟨st c0, 4, by decide +kernel⟩,
   ⟨st c0, 3, by decide +kernel⟩,
   ⟨st (c0.flag Reg.MBX_STAT_H2F_FULL true 3), 3, by decide +kernel⟩,
   ⟨st (c0.flag Reg.MBX_STAT_H2F_FULL true 3), 3, _, by decide +kernel, by decide +kernel, rfl⟩,
   ⟨st c0, 63, by decide +kernel⟩,
   ⟨st run, 63, by decide +kernel⟩,
   ⟨st { c0 with hif := { db := 1 } }, 0, _, _, by decide +kernel, by decide +kernel, rfl, rfl⟩⟩

theorem witness_DrumlineCommands :
    (∃ (r : Req) (s : State) (e : Fin 64) (data : Bytes) (total : Nat) (x : Chip), s.chip.ready r (.cycLoad r (2 ^ e.val) (.chunk 0 total data)) ∧
      s.chip.swapPending e = false ∧ SMap.get s.chip.drum.part e = none ∧ data ≠ [] ∧ total ≤ 1048576 ∧ data.length < total ∧
      (x = s.chip.setPart e (some { slot := r.slot, total := total, data := data })) ∧
      s.chip.changeFail x (.cycLoad r (2 ^ e.val) (.chunk 0 total data)) = none) ∧
    (∃ (r : Req) (s : State) (e : Fin 64) (data : Bytes) (total : Nat) (x : Chip), s.chip.ready r (.cycLoad r (2 ^ e.val) (.chunk 0 total data)) ∧
      s.chip.swapPending e = false ∧ SMap.get s.chip.drum.part e = none ∧ data ≠ [] ∧ total ≤ 1048576 ∧ ∃ (g : Img) (save : Nat → Bool),
      data.length = total ∧ readImage data = some g ∧
      (save = (fun a => match s.chip.entryAt (s.chip.rd Reg.ENG_CFG_DOMAIN (256 + e)) (cycAddr a) with | some i => s.chip.rd Reg.GATHER_LIST_SRC (s.chip.rd Reg.ENG_CFG_DOMAIN (256 + e)) i == 0 | none => true)) ∧
      badDesc save g.descs = none ∧ hazard save (initMem [] g.inits) g.descs = none ∧
      (x = ((s.chip.setPart e none).updEng e fun y => { y with next := g, loaded := true }).showImages e) ∧
      s.chip.changeFail x (.cycLoad r (2 ^ e.val) (.chunk 0 total data)) = none) ∧
    (∃ (r : Req) (s : State) (d : Fin 4) (x : Chip) (b : Int), s.chip.ready r (.cycStart r d) ∧ s.chip.domainLive d = false ∧
      b = s.chip.boundaryFrom d ((s.chip.tb16 + 10000 * 65536 : Nat)) ∧ s.chip.rd Reg.CD_STATUS_STATE d = 0 ∧ s.chip.cdStart d ≥ b ∧
      (x = (s.chip.wr Reg.CD_STATUS_STATE 1 d).updDom d (fun y => { y with next := b, floor := ((s.chip.tb16 + 10000 * 65536 : Nat) : Int), ran := false, back := false })) ∧
      s.chip.changeFail x (.cycStart r d) = none ∧ fitsRoom (x.replyRoom r.via) [tlvTime (time96 (x.dom d).next.toNat)] = true) ∧
    (∃ (r : Req) (s : State) (d : Fin 4) (x : Chip), s.chip.ready r (.cycStop r d) ∧ s.chip.domainLive d = true ∧
      (x = (if (s.chip.dom d).busy then s.chip.wr Reg.CD_STATUS_STATE 3 d else (s.chip.wr Reg.CD_STATUS_STATE 0 d).releaseEngines d)) ∧
      s.chip.changeFail x (.cycStop r d) = none) ∧
    (∃ (r : Req) (s : State) (engines : Nat) (tx : Txn) (n : Nat), s.chip.mayRun r (.cycSwap r engines) = true ∧ r.txn ≠ 0 ∧
      s.chip.txnOf r = some tx ∧ tx.state = .opened ∧ ((∀ e < 64, bitOf engines e = true → (s.chip.eng e).loaded = true)) ∧
      n = tx.bytes + 32 + s.chip.stageBytes (.cycSwap r engines) ∧ n ≤ stageLimit) :=
  ⟨⟨rq, st run, 5, [1, 2], 3, _, ready (by decide +kernel), all4 (by decide +kernel) ⟨by decide +kernel, rfl, by decide +kernel⟩⟩,
   ⟨rq, st run, 5, bytesOfNatLE 16 0xd7e501000001000000000000ecbb4b55 ++ List.replicate 16 0#8, 32, _, ready (by decide +kernel),
     all4 (by decide +kernel) ⟨(readImage (bytesOfNatLE 16 0xd7e501000001000000000000ecbb4b55 ++ List.replicate 16 0#8)).getD {}, _,
     by decide +kernel, by decide +kernel, rfl, by decide +kernel, by decide +kernel, rfl, by decide +kernel⟩⟩,
   ⟨rq, st ((run.wr Reg.CD_CFG_PERIOD 1000000).wr Reg.CD_START (time96 (1000000000 * 65536))), 0, _, _, ready (by decide +kernel), by decide +kernel,
     rfl, by decide +kernel, by decide +kernel, rfl, by decide +kernel⟩,
   ⟨rq, st (run.wr Reg.CD_STATUS_STATE 2), 0, _, ready (by decide +kernel), by decide +kernel, rfl, by decide +kernel⟩,
   ⟨rt, st { run with txns := [{ id := 1, req := rq }], drum := { eng := [(0, { loaded := true })] } }, 1, { id := 1, req := rq }, _,
     all4 (by decide +kernel) ⟨by decide +kernel, rfl, by decide +kernel⟩⟩⟩

theorem witness_EventInputsAndIntervals :
    (∃ (s : State) (r : Req) (n : Fin 32) (x : Chip) (l : List Tlv),
      (s.chip.mayRun r (.objRead r [{ obj := objId Cls.EVT n 0x03, elem := none }]) = true) ∧ r.txn = 0 ∧
      (x = (s.chip.updEvi n fun y => { y with fifo := (SMap.get s.chip.evis n).fifo.drop 64 }).wr Reg.EVI_STATUS_FILL ((SMap.get s.chip.evis n).fifo.drop 64).length n) ∧
      l = [tlvObj (objId Cls.EVT n 0x03),
      tlvValue (16 * ((SMap.get s.chip.evis n).fifo.take 64).length) (joinElems 16 ((SMap.get s.chip.evis n).fifo.take 64)) 0] ∧
      fitsRoom (x.replyRoom r.via) l = true) ∧
    (∃ (s : State) (r : Req) (u : Fin 32) (x : Chip) (l : List Tlv),
      (s.chip.mayRun r (.objRead r [{ obj := objId Cls.EVT u 0x12, elem := none }]) = true) ∧ r.txn = 0 ∧
      (x = (s.chip.updIvl u fun y => { y with fifo := [] })) ∧ l = [tlvObj (objId Cls.EVT u 0x12),
      tlvValue (16 * (SMap.get s.chip.ivls u).fifo.length) (joinElems 16 (SMap.get s.chip.ivls u).fifo) 0] ∧ fitsRoom (x.replyRoom r.via) l = true) ∧
    (∃ (s : State) (n : Fin 32) (rising : Bool) (held : Bool) (hold : Nat) (fine : Fine) (edge : Int) (cc : Int) (c1 : Chip),
      held = decide (s.chip.rd Reg.EVI_CFG_MIN_PULSE n * 100 ≤ hold * 256) ∧ edge = s.chip.edgeTime (1032 + n) fine ∧
      cc = s.chip.edgeCont (1032 + n) fine ∧ c1 = s.chip.flag Reg.EVI_STATUS_LEVEL (rising == held) n ∧ s.chip.rd Reg.EVI_CFG_EDGE n = 0) ∧
    (∃ (s : State) (n : Fin 32) (rising : Bool) (held : Bool) (hold : Nat) (fine : Fine) (edge : Int) (cc : Int) (c1 : Chip),
      held = decide (s.chip.rd Reg.EVI_CFG_MIN_PULSE n * 100 ≤ hold * 256) ∧ edge = s.chip.edgeTime (1032 + n) fine ∧
      cc = s.chip.edgeCont (1032 + n) fine ∧ c1 = s.chip.flag Reg.EVI_STATUS_LEVEL (rising == held) n ∧ ∃ (e : Int),
      s.chip.rd Reg.EVI_CFG_EDGE n = 3 ∧ held = true ∧ (SMap.get s.chip.evis n).edgeC = some e ∧ cc - e < (ns20 : Nat)) ∧
    (∃ (s : State) (n : Fin 32) (rising : Bool) (held : Bool) (hold : Nat) (fine : Fine) (edge : Int) (cc : Int) (c1 : Chip),
      held = decide (s.chip.rd Reg.EVI_CFG_MIN_PULSE n * 100 ≤ hold * 256) ∧ edge = s.chip.edgeTime (1032 + n) fine ∧
      cc = s.chip.edgeCont (1032 + n) fine ∧ c1 = s.chip.flag Reg.EVI_STATUS_LEVEL (rising == held) n ∧ ((∀ e,
      (SMap.get s.chip.evis n).edgeC = some e → (ns20 : Nat) ≤ cc - e)) ∧ s.chip.rd Reg.EVI_CFG_EDGE n = 3 ∧ held = false) ∧
    (∃ (s : State) (n : Fin 32) (rising : Bool) (held : Bool) (hold : Nat) (fine : Fine) (edge : Int) (cc : Int) (c1 : Chip),
      held = decide (s.chip.rd Reg.EVI_CFG_MIN_PULSE n * 100 ≤ hold * 256) ∧ edge = s.chip.edgeTime (1032 + n) fine ∧
      cc = s.chip.edgeCont (1032 + n) fine ∧ c1 = s.chip.flag Reg.EVI_STATUS_LEVEL (rising == held) n ∧ ∃ (t0 : Int) (rec_ : Nat) (x : Evi),
      s.chip.rd Reg.EVI_CFG_EDGE n = 3 ∧ held = true ∧ SMap.get s.chip.tdc (1032 + n) = true ∧ x = SMap.get s.chip.evis n ∧ ((∀ e,
      x.edgeC = some e → (ns20 : Nat) ≤ cc - e)) ∧ x.seen = false ∧ s.chip.rd Reg.EVI_CFG_OWNER n = 0 ∧ x.ovf = false ∧ x.fifo.length < 127 ∧
      t0 = (edge - (Config.trimIn n).toInt * 64 - s.chip.rdS Reg.EVI_DELAY n * 64) / 64 * 64 ∧
      rec_ = Lay.EVREC_TIME.put (time96 t0.toNat) + Lay.EVREC_EDGE.put (b2n (!rising)) + Lay.EVREC_INVALID.put (b2n (!true)) + Lay.EVREC_INPUT.put n + Lay.EVREC_STEP_COUNT.put ((s.chip.atEdge fine).rd Reg.TIME_STATUS_STEP_COUNT) + Lay.EVREC_SEQ.put ((x.seq + 1) % 256)) ∧
    (∃ (s : State) (u : Fin 32) (x : Ivl) (a : IvlEdge) (y : IvlEdge) (l : List IvlEdge) (v : Int), s.chip.on Reg.IVL_CFG_EN u = true ∧
      s.chip.on Reg.IVL_CFG_MODE u = false ∧ x = SMap.get s.chip.ivls u ∧ x.starts = a :: l ∧
      a.c + (s.chip.rd Reg.IVL_WIN u * 65536 : Nat) < s.chip.cont16 ∧ x.stops = [y] ∧ (y.c - a.c).natAbs ≤ s.chip.rd Reg.IVL_WIN u * 65536 ∧
      a.bad = false ∧ y.bad = false ∧ x.n + 1 < s.chip.rd Reg.IVL_CFG_N u ∧ x.fifo.length < 64 ∧ v = divRoundS (y.c - a.c) 64) :=
  ⟨⟨st { c0 with evis := [(5, { fifo := [1, 2] })] }, rq, 5, _, _, by decide +kernel, by decide +kernel, rfl, rfl, by decide +kernel⟩,
   ⟨st { c0 with ivls := [(5, { fifo := [1, 2] })] }, rq, 5, _, _, by decide +kernel, by decide +kernel, rfl, rfl, by decide +kernel⟩,
   ⟨st c0, 31, true, true, 0, {}, _, _, _, by decide +kernel, rfl, rfl, rfl, by decide +kernel⟩,
   ⟨st { c0.wr Reg.EVI_CFG_EDGE 3 31 with evis := [(31, { edgeC := some (c0.edgeCont 1063 {}) })] }, 31, true, true, 1, {}, _, _, _,
     by decide +kernel, rfl, rfl, rfl, (c0.edgeCont 1063 {}), by decide +kernel, by decide +kernel, rfl, by decide +kernel⟩,
   ⟨st ((c0.wr Reg.EVI_CFG_EDGE 3 31).wr Reg.EVI_CFG_MIN_PULSE 5 31), 31, true, false, 0, {}, _, _, _, by decide +kernel, rfl, rfl, rfl,
     (by intro e h; cases h), by decide +kernel, rfl⟩,
   ⟨st { c0.wr Reg.EVI_CFG_EDGE 3 31 with tdc := [(1063, true)] }, 31, true, true, 0, {}, _, _, _, by decide +kernel, rfl, rfl, rfl, _, _, {},
     by decide +kernel, rfl, by decide +kernel, by decide +kernel, (by intro e h; cases h), all4 (by decide +kernel) ⟨rfl, rfl⟩⟩,
   ⟨st { tm 1000000000000 ((c0.flag Reg.IVL_CFG_EN true 5).wr Reg.IVL_CFG_N 10 5) with ivls := [(5, { starts := [{ c := 5 }], stops := [{ c := 9 }] })] },
     5, _, { c := 5 }, { c := 9 }, [], _, by decide +kernel, by decide +kernel, rfl, all4 (by decide +kernel) (all4 (by decide +kernel) rfl)⟩⟩

theorem witness_ModulesAndOutputs :
    (∃ (s : State) (r : Req) (port : Fin 513) (dev : Nat) (page : Nat) (off : Nat) (len : Nat) (b : Bytes) (flat : Bool) (x : Chip) (l : List Tlv),
      r.txn = 0 ∧ (s.chip.resolve (objId Cls.PORT port 0x09)).isSome = true ∧ s.chip.poweredOff (objId Cls.PORT port 0x09) = false ∧
      ((dev = 0xA0 ∨ dev = 0xA2)) ∧ page < 256 ∧ 1 ≤ len ∧ len ≤ 128 ∧ off + len ≤ 256 ∧ x = s.chip.optWires port dev page off len (.done b) flat ∧
      l = [tlvObj (objId Cls.PORT port 0x09), tlvValue len (natOfBytes (sliceBytes b 0 len)) 0] ∧ fitsRoom (x.replyRoom r.via) l = true) ∧
    (∃ (s : State) (p : Fin 513) (flags : Nat) (set : Nat) (typ : Nat) (b : Bytes) (o : Opt) (y : Chip), typ = s.chip.rd Reg.OPT_MAP_TYPE p ∧
      typ ≠ 0 ∧ o = SMap.get s.chip.opts p ∧ y = s.chip.pollWires p ∧ set = optFlags typ flags b ∧
      o.polledAt + unitsMs (10 * s.chip.rd Reg.OPT_MAP_POLL p) ≤ s.chip.now ∧ set &&& (set ^^^ o.flags) = 0) ∧
    (∃ (s : State) (p : Fin 513) (flags : Nat) (set : Nat) (typ : Nat) (b : Bytes) (o : Opt) (y : Chip), typ = s.chip.rd Reg.OPT_MAP_TYPE p ∧
      typ ≠ 0 ∧ o = SMap.get s.chip.opts p ∧ y = s.chip.pollWires p ∧ set = optFlags typ flags b ∧
      o.polledAt + unitsMs (10 * s.chip.rd Reg.OPT_MAP_POLL p) ≤ s.chip.now ∧ set &&& (set ^^^ o.flags) ≠ 0) ∧
    (∃ (s : State) (p : Fin 513) (flags : Nat) (set : Nat) (typ : Nat) (b : Bytes) (o : Opt) (y : Chip), typ = s.chip.rd Reg.OPT_MAP_TYPE p ∧
      typ ≠ 0 ∧ o = SMap.get s.chip.opts p ∧ y = s.chip.pollWires p ∧ set = optFlags typ flags b ∧
      o.polledAt + unitsMs (10 * s.chip.rd Reg.OPT_MAP_POLL p) ≤ s.chip.now ∧ o.fails = 2) ∧
    (∃ (s : State) (p : Fin 513) (flags : Nat) (set : Nat) (typ : Nat) (b : Bytes) (o : Opt) (y : Chip), typ = s.chip.rd Reg.OPT_MAP_TYPE p ∧
      typ ≠ 0 ∧ o = SMap.get s.chip.opts p ∧ y = s.chip.pollWires p ∧ set = optFlags typ flags b ∧
      o.polledAt + unitsMs (10 * s.chip.rd Reg.OPT_MAP_POLL p) ≤ s.chip.now ∧ o.fails = 0) ∧
    (∃ (s : State) (p : Fin 513) (flags : Nat) (set : Nat) (typ : Nat) (b : Bytes) (o : Opt) (y : Chip), typ = s.chip.rd Reg.OPT_MAP_TYPE p ∧
      typ ≠ 0 ∧ o = SMap.get s.chip.opts p ∧ y = s.chip.pollWires p ∧ set = optFlags typ flags b ∧
      o.polledAt + unitsMs (10 * s.chip.rd Reg.OPT_MAP_POLL p) ≤ s.chip.now ∧ o.fails = 0) ∧
    (∃ (s : State) (n : Fin 32) (e : EvoEdge) (l : List (List EvoEdge)), (SMap.get s.chip.evos n).queue = [e] :: l ∧
      e.adj < (s.chip.tb16 + tick16 : Nat) ∧ e.act < 2 ∧ e.act ≠ s.chip.rd Reg.EVO_STATUS_LEVEL (32 + n) ∧ 2 ≤ s.chip.rd Reg.PWR_STATUS_STATE) ∧
    (∃ (s : State) (n : Fin 32) (u : Int) (idle : Nat) (w : Nat), s.chip.rd Reg.EVO_CFG_OWNER (32 + n) = 3 ∧
      w = s.chip.rd Reg.EVO_PER_CFG_WIDTH_NS (32 + n) * 65536 ∧ idle = s.chip.rd Reg.EVO_CFG_IDLE_LEVEL (32 + n) ∧
      s.chip.rd Reg.EVO_STATUS_LEVEL (32 + n) = idle ∧ (SMap.get s.chip.evos n).queue = [] ∧
      s.chip.periodic (timeOf96 (s.chip.rd Reg.EVO_PER_START (32 + n))) (s.chip.rd Reg.EVO_PER_CFG_PERIOD_NS (32 + n)) (s.chip.outLag n) = some u ∧
      (SMap.get s.chip.evos n).perFrom ≤ u ∧ 2 ≤ s.chip.rd Reg.PWR_STATUS_STATE) ∧
    (∃ (s : State) (m : Fin 8) (u : Int), s.chip.on Reg.PPO_CFG_EN (64 + m) = true ∧ 2 ≤ s.chip.rd Reg.PWR_STATUS_STATE ∧
      s.chip.on Reg.TIME_STATUS_TB_VALID = true ∧
      s.chip.periodic (s.chip.rdS Reg.PPO_OFFSET (64 + m) * 64 - (s.chip.rd Reg.PPO_PULSE_PERIOD_NS (64 + m) * 65536 : Nat)) (s.chip.rd Reg.PPO_PULSE_PERIOD_NS (64 + m)) (s.chip.outLag (32 + m)) = some u ∧
      (SMap.get s.chip.evos (32 + m)).perFrom ≤ u ∧ 0 ≤ u ∧ s.chip.on Reg.PPO_CFG_POLARITY (64 + m) = false) :=
  ⟨⟨st run, rq, 5, 0xA0, 0, 0, 2, [1, 2], true, _, _, all4 (by decide +kernel) (all4 (by decide +kernel) ⟨rfl, rfl, by decide +kernel⟩)⟩,
   ⟨st { (at_ 390625000000 c0).wr Reg.OPT_MAP_TYPE 1 5 with opts := [(5, { fails := 1 })] }, 5, 0, _, _, [], _, _, rfl, by decide +kernel, rfl, rfl,
     rfl, by decide +kernel⟩,
   ⟨st { (at_ 390625000000 c0).wr Reg.OPT_MAP_TYPE 1 5 with opts := [(5, { fails := 1 })] }, 5, 1, _, _, [], _, _, rfl, by decide +kernel, rfl, rfl,
     rfl, by decide +kernel⟩,
   ⟨st { (at_ 390625000000 c0).wr Reg.OPT_MAP_TYPE 1 5 with opts := [(5, { fails := 2 })] }, 5, 0, _, _, [], _, _, rfl, by decide +kernel, rfl, rfl,
     rfl, by decide +kernel⟩,
   ⟨st { (at_ 390625000000 c0).wr Reg.OPT_MAP_TYPE 1 5 with opts := [(5, { fails := 0, flags := 1 })] }, 5, 0, _, _, [], _, _, rfl, by decide +kernel,
     rfl, rfl, rfl, by decide +kernel⟩,
   ⟨st { (at_ 390625000000 c0).wr Reg.OPT_MAP_TYPE 1 5 with opts := [(5, { fails := 0, flags := 1 })] }, 5, 0, _, _, [], _, _, rfl, by decide +kernel,
     rfl, rfl, rfl, by decide +kernel⟩,
   ⟨st { run with evos := [(0, { queue := [[{ adj := 0, t := 0, act := 1 }]] })] }, 0, { adj := 0, t := 0, act := 1 }, [], by decide +kernel⟩,
   have ⟨u, h1, h2⟩ := pulses (c := tm (1000000000 * 65536) (((run.wr Reg.EVO_CFG_OWNER 3 32).wr Reg.EVO_PER_CFG_WIDTH_NS 100 32).wr Reg.EVO_PER_CFG_PERIOD_NS 1000000 32)) (n := 0) (start := 0) (period := 1000000) (by decide +kernel)
  ⟨st (tm (1000000000 * 65536) (((run.wr Reg.EVO_CFG_OWNER 3 32).wr Reg.EVO_PER_CFG_WIDTH_NS 100 32).wr Reg.EVO_PER_CFG_PERIOD_NS 1000000 32)), 0, u,
    _, _, by decide +kernel, rfl, rfl, by decide +kernel, by decide +kernel, h1, le_trans (by decide +kernel) h2, by decide +kernel⟩,
   have ⟨u, h1, h2⟩ := pulses (c := tm (1000000000 * 65536) (((run.flag Reg.PPO_CFG_EN true 64).flag Reg.TIME_STATUS_TB_VALID true).wr Reg.PPO_PULSE_PERIOD_NS 1000000 64)) (n := 32) (start := -(1000000 * 65536)) (period := 1000000) (by decide +kernel)
  ⟨st (tm (1000000000 * 65536) (((run.flag Reg.PPO_CFG_EN true 64).flag Reg.TIME_STATUS_TB_VALID true).wr Reg.PPO_PULSE_PERIOD_NS 1000000 64)), 0, u,
    by decide +kernel, by decide +kernel, by decide +kernel, h1, le_trans (by decide +kernel) h2, h2, by decide +kernel⟩⟩

theorem witness_LowPowerAndLinks :
    (∃ (p : Fin 512) (s : State) (q : PortSt), q = s.chip.portSt p ∧ s.chip.on Reg.PORT_CFG_LPI_EN p = true ∧ s.chip.mayRest p = true ∧
      q.emptySince + (Config.lpiSleep (s.chip.mode p)).toNat ≤ s.chip.now) ∧
    (∃ (p : Fin 512) (s : State) (q : PortSt), q = s.chip.portSt p ∧ ∃ (low : Bool), s.chip.timingPort p = false ∧
      s.chip.on Reg.PORT_CFG_LPI_EN p = true ∧ s.chip.linkUp p = true ∧ s.chip.looped p = false ∧ q.lpTx < 2) ∧
    (∃ (p : Fin 512) (s : State) (q : PortSt), q = s.chip.portSt p ∧ ∃ (low : Bool), s.chip.timingPort p = false ∧ s.chip.looped p = true) ∧
    (∃ (p : Fin 512) (s : State) (q : PortSt), q = s.chip.portSt p ∧ ∃ (low : Bool), s.chip.timingPort p = true) ∧
    (∃ (p : Fin 512) (s : State) (q : PortSt), q = s.chip.portSt p ∧ s.chip.on Reg.PORT_CFG_EIDLE_EN p = true ∧ s.chip.eidlePeer p = true ∧
      s.chip.mayRest p = true ∧ q.emptySince + unitsUs (s.chip.rd Reg.EIDLE_CFG_HOLDOFF_US p) ≤ s.chip.now) ∧
    (∃ (p : Fin 512) (s : State) (q : PortSt), q = s.chip.portSt p ∧ q.lpTx = 5 ∧ q.lpAt + 99840 ≤ s.chip.now ∧ q.idleArm = true) ∧
    (∃ (p : Fin 512) (s : State) (q : PortSt), q = s.chip.portSt p ∧ q.lpRx = 4) ∧
    (∃ (p : Fin 512) (s : State) (q : PortSt), q = s.chip.portSt p ∧ s.chip.on Reg.PORT_CFG_EIDLE_EN p = true ∧ s.chip.eidlePeer p = true ∧
      s.chip.linkUp p = true ∧ s.chip.timingPort p = false ∧ s.chip.looped p = false) ∧
    (∃ (p : Fin 512) (s : State) (q : PortSt), q = s.chip.portSt p ∧ q.lpRx = 4) ∧
    (∃ (p : Fin 512) (s : State) (q : PortSt), q = s.chip.portSt p ∧ s.chip.linkUp p = true ∧ s.chip.twinPort p = false ∧ q.lldpDue = true ∧
      s.chip.fabPort p = false) ∧
    (∃ (p : Fin 512) (s : State) (q : PortSt), q = s.chip.portSt p ∧ q.peerEidle = true ∧ s.chip.fabPort p = false ∧
      q.peerAt + unitsS 4 < s.chip.now) ∧
    (∃ (p : Fin 512) (s : State) (q : PortSt), q = s.chip.portSt p) :=
  ⟨⟨3, st { (at_ 33554432 ((run.flag Reg.PORT_STATUS_LINK_UP true 3).flag Reg.PORT_CFG_LPI_EN true 3)) with path := { ports := [(3, { idleArm := true })] } },
    _, rfl, by decide +kernel, by decide +kernel, slept (by decide +kernel)⟩,
   ⟨3, st { ((run.flag Reg.PORT_STATUS_LINK_UP true 3).flag Reg.PORT_CFG_LPI_EN true 3) with path := { ports := [(3, { lpTx := 1 })] } }, _, rfl,
     true, by decide +kernel⟩,
   ⟨3, st { (run.flag Reg.PORT_STATUS_LINK_UP true 3) with loops := [(3, 1)] }, _, rfl, true, by decide +kernel⟩,
   ⟨3, st ((run.flag Reg.PORT_STATUS_LINK_UP true 3).flag Reg.PORT_CFG_SYNCE_TX true 3), _, rfl, true, by decide +kernel⟩,
   ⟨3, st { at_ 390625000 (((run.flag Reg.PORT_STATUS_LINK_UP true 3).flag Reg.PORT_CFG_EIDLE_EN true 3).wr Reg.PORT_CFG_MODE 3 3) with path := { ports := [(3, { idleArm := true, peerEidle := true })] } },
     _, rfl, by decide +kernel⟩,
   ⟨3, st { at_ 390625000 (((run.flag Reg.PORT_STATUS_LINK_UP true 3).flag Reg.PORT_CFG_EIDLE_EN true 3).wr Reg.PORT_CFG_MODE 3 3) with path := { ports := [(3, { idleArm := true, lpTx := 5 })] } },
     _, rfl, by decide +kernel⟩,
   ⟨3, st { (run.flag Reg.PORT_STATUS_LINK_UP true 3) with path := { ports := [(3, { lpRx := 4 })] } }, _, rfl, by decide +kernel⟩,
   ⟨3, st { (((run.flag Reg.PORT_STATUS_LINK_UP true 3).flag Reg.PORT_CFG_EIDLE_EN true 3).wr Reg.PORT_CFG_MODE 3 3) with path := { ports := [(3, { peerEidle := true })] } },
     _, rfl, by decide +kernel⟩,
   ⟨3, st { (run.flag Reg.PORT_STATUS_LINK_UP true 3) with path := { ports := [(3, { lpRx := 4 })] } }, _, rfl, by decide +kernel⟩,
   ⟨3, st { (run.flag Reg.PORT_STATUS_LINK_UP true 3) with path := { ports := [(3, { lldpDue := true })] } }, _, rfl, by decide +kernel⟩,
   ⟨3, st { at_ 3906250000 (run.flag Reg.PORT_STATUS_LINK_UP true 3) with path := { ports := [(3, { peerEidle := true })] } }, _, rfl,
     by decide +kernel⟩,
   ⟨3, st (run.flag Reg.PORT_STATUS_LINK_UP true 3), _, rfl⟩⟩

theorem witness_FrameReception :
    (∃ (s : State) (port : Fin 513) (kind : RxKind) (b : Bytes) (edge : Edge) (deskew : Int) (y : Chip) (d : Chip) (f : Frame),
      s.chip.linkUp port = true ∧ s.chip.nearLoop port = false ∧ y = s.chip.atStamp false port edge ∧
      (d = (if s.chip.pma false port edge then s.chip.laneStamped (s.chip.edgeLane port edge) edge.at_ else s.chip)) ∧
      (f = { id := d.path.frameCtr, port := port, kind := kind, bytes := b.take (d.maxFrame port + 1), stamp := s.chip.rxStamp port edge deskew, cont := s.chip.rxStamp port edge deskew - y.rdS Reg.STEP_SUM, steps := y.rd Reg.TIME_STATUS_STEP_COUNT, pma := s.chip.pma false port edge, startAt := d.now, dropUnit := port }) ∧
      kind ≠ .express ∧ s.chip.merges port = false) ∧
    (∃ (s : State) (port : Fin 513) (kind : RxKind) (b : Bytes) (edge : Edge) (deskew : Int) (y : Chip) (d : Chip) (f : Frame),
      s.chip.linkUp port = true ∧ s.chip.nearLoop port = false ∧ y = s.chip.atStamp false port edge ∧
      (d = (if s.chip.pma false port edge then s.chip.laneStamped (s.chip.edgeLane port edge) edge.at_ else s.chip)) ∧
      (f = { id := d.path.frameCtr, port := port, kind := kind, bytes := b.take (d.maxFrame port + 1), stamp := s.chip.rxStamp port edge deskew, cont := s.chip.rxStamp port edge deskew - y.rdS Reg.STEP_SUM, steps := y.rd Reg.TIME_STATUS_STEP_COUNT, pma := s.chip.pma false port edge, startAt := d.now, dropUnit := port }) ∧
      ∃ (g : Frame), (kind = .express ∨ s.chip.merges port = true) ∧ ((port.val < 512 ∧ s.chip.belowZero = true ∧
      s.chip.crossFree port < s.chip.maxFrame port ∧
      g = { f with stage := 2, drop := Ev.RX_XOVF } ∨ (512 ≤ port.val ∨ s.chip.belowZero = false ∨ s.chip.maxFrame port ≤ s.chip.crossFree port) ∧
      (g = f ∧ (kind ≠ .verify ∧ kind ≠ .respond) ∨ g = { f with stage := 2, drop := 1 } ∧ (kind = .verify ∨ kind = .respond))))) ∧
    (∃ (s : State) (port : Fin 513) (kind : RxKind) (b : Bytes) (edge : Edge) (deskew : Int), s.chip.nearLoop port = true ∧
      (s.chip.portSt port).loopQ = []) ∧
    (∃ (s : State) (id : Nat) (f : Frame) (f1 : Frame) (g : Frame) (g1 : Frame) (x : Chip) (d : Chip), s.chip.frameOf id = some f ∧
      s.chip.inTurn f 0 = true ∧ (x = { s.chip with path := { s.chip.path with keyCtr := s.chip.path.keyCtr + 1 } }) ∧
      (f1 = { f with stage := 1, keyNo := s.chip.path.keyCtr + 1, keyTime := s.chip.tb16, defPcp := s.chip.rd Reg.FP_CFG_DEF_PCP f.port }) ∧
      ((f.port = 512 ∧ d = x ∧ g = { f1 with cls := 7, traps := [7] } ∨ f.port ≠ 512 ∧ s.chip.twinPort f.port = true ∧ d = x ∧
      g = x.mirrorIn (Chip.twinKey f1) ∨ f.port ≠ 512 ∧ s.chip.twinPort f.port = false ∧ s.chip.fabPort f.port = true ∧ x.fabricKey f1 = (g1, d) ∧
      g = d.mirrorIn g1 ∨ f.port ≠ 512 ∧ s.chip.twinPort f.port = false ∧ s.chip.fabPort f.port = false ∧ ((pauseOf (f.inner 0)).isSome = true ∧
      d = x ∧ g = x.mirrorIn (f1.headDrop 1) ∨ (pauseOf (f.inner 0)).isSome = false ∧ x.edgeKey f1 = (g, d))))) ∧
    (∃ (s : State) (id : Nat) (taken : Nat) (p : Nat) (f : Frame) (g : Frame) (h : Frame) (w : Chip) (x : Chip) (y : Chip),
      s.chip.frameOf id = some f ∧ s.chip.inTurn f 1 = true ∧ f.seqId = none ∧ f.drop = 0 ∧ f.mirs = [] ∧ f.traps = [] ∧ f.look.fab = 0 ∧
      f.look.many = false ∧ maskPorts f.look.mask = [p] ∧ w = s.chip.takeArrived ∧
      (g = { f with stage := 2, lossless := decide (f.port < 512) && bitOf (w.losslessMask f.port) f.cls }) ∧
      (x = (w.updFrame id fun _ => g).admitAll id [(w.updFrame id fun _ => g).portTgt g p]) ∧ x.frameOf id = some h ∧ h.tgts ≠ [] ∧ h.drop = 0 ∧
      (y = x.updFrame id (fun _ => h))) ∧
    (∃ (s : State) (id : Nat) (i : Nat) (d : Fin 4) (f : Frame) (x : Chip), s.chip.frameOf id = some f ∧ f.origin = .received ∧ f.stage = 2 ∧
      f.res = 0 ∧ f.tapped = false ∧
      ((s.chip.path.frames.filter fun g => g.origin == .received && g.stage == 2 && g.res == 0 && !g.tapped && g.port / 8 == f.port / 8 && decide (g.keyNo ≤ f.keyNo)) = [f]) ∧
      (s.chip.dom d).ran = true ∧ s.chip.bankHeld (s.chip.rd Reg.GATHER_LIST_ADDR d i * 64) = false ∧ (s.chip.gin d i).held = [] ∧
      (s.chip.dom d).tk ≤ f.keyTime ∧ (f.keyTime : Int) < (s.chip.dom d).tk + ((s.chip.dom d).dIn * 65536 : Nat) ∧ s.chip.frameInputs d = [i] ∧
      s.chip.rd Reg.GATHER_LIST_PORT d i = f.port ∧ s.chip.on Reg.GATHER_LIST_SH_EN d i = false ∧ (s.chip.gin d i).frame = none ∧
      (x = (if ((s.chip.takeFrame d i f none).dom d).busy then (s.chip.takeFrame d i f none).resumeInputs d else s.chip.takeFrame d i f none)) ∧
      ((∀ e < 4, e ≠ d.val → (s.chip.dom e).ran = false ∧ (x.dom e).ran = false))) ∧
    (∃ (s : State) (id : Nat) (f : Frame) (y : Chip), y = s.chip.gatherTap id ∧ y.frameOf id = some f ∧ f.stage = 2 ∧ f.res = 0 ∧
      f.origin = .received ∧ y.oldest f = true ∧ ∃ (cause : Nat), ((cause = 2 ∧ y.maxFrame f.port < f.len ∧
      (f.sdu = 0 ∨ y.maxFrame f.port ≤ f.sdu) ∨ cause = 5 ∧ f.drop = 0 ∧ f.sdu ≠ 0 ∧ f.sdu < f.len ∧ f.sdu < y.maxFrame f.port))) ∧
    (∃ (s : State) (id : Nat) (f : Frame) (y : Chip), y = s.chip.gatherTap id ∧ y.frameOf id = some f ∧ f.stage = 2 ∧ f.res = 0 ∧
      f.origin = .received ∧ y.oldest f = true ∧ ∃ (codeErr : Bool) (fragErr : Bool) (fec : FecCount) (c1 : Chip) (x : Chip) (g : Frame),
      y.portTurn f.port = true ∧ y.historyHeld f = false ∧ c1 = (y.takeRest id).countFec f.port fec ∧
      (x = { c1 with path := { c1.path with tailAt := y.now, tailPort := f.port } }) ∧ x.frameOf id = some g ∧
      x.tailCause g codeErr fec.err fragErr = 0) ∧
    (∃ (s : State) (id : Nat) (f : Frame) (y : Chip), y = s.chip.gatherTap id ∧ y.frameOf id = some f ∧ f.stage = 2 ∧ f.res = 0 ∧
      f.origin = .received ∧ y.oldest f = true ∧ ∃ (codeErr : Bool) (fragErr : Bool) (fec : FecCount) (c1 : Chip) (x : Chip) (g : Frame),
      y.portTurn f.port = true ∧ y.historyHeld f = false ∧ c1 = (y.takeRest id).countFec f.port fec ∧
      (x = { c1 with path := { c1.path with tailAt := y.now, tailPort := f.port } }) ∧ x.frameOf id = some g ∧ ∃ cause,
      x.tailCause g codeErr fec.err fragErr = cause ∧ cause ≠ 0) ∧
    (∃ (s : State) (p : Fin 513) (id : Nat) (k : Nat) (f : Frame) (u : Tgt), (s.chip.portSt p).tx = some (id, k) ∧ s.chip.frameOf id = some f ∧
      s.chip.tgtOf id k = some u ∧ f.res = 0 ∧ u.cut = true ∧ s.chip.on Reg.BARO_STATUS_CORE_SLOW_NOW = true) :=
  ⟨⟨st ((run.flag Reg.PORT_STATUS_LINK_UP true 0).flag Reg.PORT_STATUS_LINK_UP true 1), 0, .verify, [], {}, 0, _, _, _, by decide +kernel,
    by decide +kernel, rfl, rfl, rfl, by decide +kernel⟩,
   ⟨st ((run.flag Reg.PORT_STATUS_LINK_UP true 0).flag Reg.PORT_STATUS_LINK_UP true 1), 0, .express, [], {}, 0, _, _, _, by decide +kernel,
     by decide +kernel, rfl, rfl, rfl, _, by decide +kernel, .inr ⟨.inr (.inl (by decide +kernel)), .inl ⟨rfl, by decide⟩⟩⟩,
   ⟨st { c0 with loops := [(0, 1)] }, 0, .express, [], {}, 0, by decide +kernel⟩,
   ⟨st { ((run.flag Reg.PORT_STATUS_LINK_UP true 0).flag Reg.PORT_STATUS_LINK_UP true 1) with path := { frames := [{ id := 1, port := 512, bytes := List.replicate 64 0#8 }] } },
     1, { id := 1, port := 512, bytes := List.replicate 64 0#8 }, _, _, {}, _, _, by decide +kernel, by decide +kernel, rfl, rfl, .inl ⟨rfl, rfl,
     rfl⟩⟩,
   ⟨st { ((run.flag Reg.PORT_STATUS_LINK_UP true 0).flag Reg.PORT_STATUS_LINK_UP true 1) with path := { frames := [{ id := 1, port := 0, stage := 1, look := { mask := 2 }, bytes := List.replicate 60 0#8 ++ fcsBytes (List.replicate 60 0#8) }] } },
     1, 0, 1, { id := 1, port := 0, stage := 1, look := { mask := 2 }, bytes := List.replicate 60 0#8 ++ fcsBytes (List.replicate 60 0#8) }, _,
     (((((st { ((run.flag Reg.PORT_STATUS_LINK_UP true 0).flag Reg.PORT_STATUS_LINK_UP true 1) with path := { frames := [{ id := 1, port := 0, stage := 1, look := { mask := 2 }, bytes := List.replicate 60 0#8 ++ fcsBytes (List.replicate 60 0#8) }] } }).chip.takeArrived).updFrame 1 fun _ => { id := 1, port := 0, stage := 2, look := { mask := 2 }, bytes := List.replicate 60 0#8 ++ fcsBytes (List.replicate 60 0#8) }).admitAll 1 [(((st { ((run.flag Reg.PORT_STATUS_LINK_UP true 0).flag Reg.PORT_STATUS_LINK_UP true 1) with path := { frames := [{ id := 1, port := 0, stage := 1, look := { mask := 2 }, bytes := List.replicate 60 0#8 ++ fcsBytes (List.replicate 60 0#8) }] } }).chip.takeArrived).updFrame 1 fun _ => { id := 1, port := 0, stage := 2, look := { mask := 2 }, bytes := List.replicate 60 0#8 ++ fcsBytes (List.replicate 60 0#8) }).portTgt { id := 1, port := 0, stage := 2, look := { mask := 2 }, bytes := List.replicate 60 0#8 ++ fcsBytes (List.replicate 60 0#8) } 1]).frameOf 1).getD {},
     _, _, _, all4 (by decide +kernel) (all4 (by decide +kernel) ⟨by decide +kernel, rfl, rfl, rfl, by decide +kernel, by decide +kernel,
     by decide +kernel, rfl⟩)⟩,
   ⟨st { (((run.flag Reg.PORT_STATUS_LINK_UP true 0).flag Reg.PORT_STATUS_LINK_UP true 1).flag Reg.GATHER_LIST_VALID true 0 7) with drum := { dom := [(0, { ran := true, dIn := 1000 })] }, path := { frames := [{ id := 1, port := 0, stage := 2, bytes := List.replicate 60 0#8 ++ fcsBytes (List.replicate 60 0#8) }] } },
     1, 7, 0, { id := 1, port := 0, stage := 2, bytes := List.replicate 60 0#8 ++ fcsBytes (List.replicate 60 0#8) }, _,
     all4 (by decide +kernel) (all4 (by decide +kernel) (all4 (by decide +kernel) ⟨by decide +kernel, by decide +kernel, by decide +kernel, rfl,
     by decide +kernel⟩))⟩,
   ⟨st { ((run.flag Reg.PORT_STATUS_LINK_UP true 0).flag Reg.PORT_STATUS_LINK_UP true 1) with path := { frames := [{ id := 1, port := 0, stage := 2, tapped := true, bytes := List.replicate 9999 0#8 }] } },
     1, { id := 1, port := 0, stage := 2, tapped := true, bytes := List.replicate 9999 0#8 }, _, rfl, all4 (by decide +kernel) ⟨by decide +kernel, 2,
     by decide +kernel⟩⟩,
   ⟨st { ((run.flag Reg.PORT_STATUS_LINK_UP true 0).flag Reg.PORT_STATUS_LINK_UP true 1) with path := { frames := [{ id := 1, port := 0, stage := 2, tapped := true, bytes := List.replicate 60 0#8 ++ fcsBytes (List.replicate 60 0#8) }] } },
     1, { id := 1, port := 0, stage := 2, tapped := true, bytes := List.replicate 60 0#8 ++ fcsBytes (List.replicate 60 0#8) }, _, rfl,
     all4 (by decide +kernel) ⟨by decide +kernel, false, false, {}, _, _,
     { id := 1, port := 0, stage := 2, tapped := true, bytes := List.replicate 60 0#8 ++ fcsBytes (List.replicate 60 0#8) }, by decide +kernel,
     by decide +kernel, rfl, rfl, by decide +kernel⟩⟩,
   ⟨st { ((run.flag Reg.PORT_STATUS_LINK_UP true 0).flag Reg.PORT_STATUS_LINK_UP true 1) with path := { frames := [{ id := 1, port := 0, stage := 2, tapped := true, bytes := List.replicate 64 0#8 }] } },
     1, { id := 1, port := 0, stage := 2, tapped := true, bytes := List.replicate 64 0#8 }, _, rfl, all4 (by decide +kernel) ⟨by decide +kernel,
     false, false, {}, _, _, { id := 1, port := 0, stage := 2, tapped := true, bytes := List.replicate 64 0#8 }, by decide +kernel,
     by decide +kernel, rfl, rfl, by decide +kernel, 1, by decide +kernel⟩⟩,
   ⟨st { c0.flag Reg.BARO_STATUS_CORE_SLOW_NOW true with path := { ports := [(3, { tx := some (1, 0) })], frames := [{ id := 1, tgts := [{ cut := true }] }] } },
     3, 1, 0, { id := 1, tgts := [{ cut := true }] }, { cut := true }, by decide +kernel⟩⟩

theorem witness_FrameTransmission :
    (∃ (s : State) (p : Fin 513) (unit : Nat) (edge : Edge), s.chip.laneOpen p = true ∧ (s.chip.portSt p).ctl = false ∧ ∃ (y : Nat × Nat),
      (s.chip.portSt p).tx = some y ∧ s.chip.maySuspend p = false) ∧
    (∃ (s : State) (p : Fin 513) (unit : Nat) (edge : Edge), s.chip.laneOpen p = true ∧ (s.chip.portSt p).ctl = false ∧ ∃ (y : Nat × Nat),
      (s.chip.portSt p).tx = some y ∧ ∃ (z : Chip), s.chip.maySuspend p = true ∧ (s.chip.suspend p).controlFrame p unit edge = some z) ∧
    (∃ (s : State) (p : Fin 513) (unit : Nat) (edge : Edge), s.chip.laneOpen p = true ∧ (s.chip.portSt p).ctl = false ∧ ∃ m x b,
      (s.chip.portSt p).tx = none ∧ s.chip.gapOver p unit = true ∧ b = s.chip.flowFrame p m ∧ (s.chip.portSt p).fcDue = some m ∧
      s.chip.leavesBefore p (b.length + 4) unit = true ∧ (x = (s.chip.updPort p fun y => { y with fcDue := none, fcLast := s.chip.now }))) ∧
    (∃ (s : State) (p : Fin 513) (unit : Nat) (edge : Edge), s.chip.laneOpen p = true ∧ (s.chip.portSt p).ctl = false ∧
      ∃ (id : Nat) (k : Nat) (u : Tgt), (s.chip.portSt p).tx = none ∧ s.chip.gapOver p unit = true ∧ s.chip.controlFrame p unit edge = none ∧
      (s.chip.portSt p).susp = none ∧ s.chip.consider (queueOf p 7) unit false false = (true, false, s.chip) ∧ s.chip.head (queueOf p 7) = some (id,
      k) ∧ s.chip.tgtOf id k = some u) ∧
    (∃ (s : State) (q : Fin 4104) (id : Nat) (k : Nat) (l : Nat) (f : Frame) (u : Tgt), s.chip.head q = some (id, k) ∧ s.chip.frameOf id = some f ∧
      s.chip.tgtOf id k = some u ∧ u.launch = some l ∧ (f.res ≠ 1 ∨ 16 ≤ (s.chip.portSt u.port).slots.length ∨ s.chip.cellsOpen f = false)) ∧
    (∃ (s : State) (q : Fin 4104) (id : Nat) (k : Nat) (l : Nat) (f : Frame) (u : Tgt), s.chip.head q = some (id, k) ∧ s.chip.frameOf id = some f ∧
      s.chip.tgtOf id k = some u ∧ u.launch = some l ∧ f.res = 1 ∧ (s.chip.portSt u.port).slots.length < 16 ∧ s.chip.cellsOpen f = true ∧
      l < s.chip.tb16) ∧
    (∃ (s : State) (q : Fin 4104) (id : Nat) (k : Nat) (l : Nat) (f : Frame) (u : Tgt), s.chip.head q = some (id, k) ∧ s.chip.frameOf id = some f ∧
      s.chip.tgtOf id k = some u ∧ u.launch = some l ∧ f.res = 1 ∧ (s.chip.portSt u.port).slots.length < 16 ∧ s.chip.cellsOpen f = true ∧
      s.chip.tb16 ≤ l ∧ s.chip.tooFar l = true) ∧
    (∃ (s : State) (q : Fin 4104) (id : Nat) (k : Nat) (l : Nat) (f : Frame) (u : Tgt), s.chip.head q = some (id, k) ∧ s.chip.frameOf id = some f ∧
      s.chip.tgtOf id k = some u ∧ u.launch = some l ∧ f.res = 1 ∧ (s.chip.portSt u.port).slots.length < 16 ∧ s.chip.cellsOpen f = true ∧
      s.chip.tb16 ≤ l ∧ s.chip.tooFar l = false) ∧
    (∃ (s : State) (p : Fin 513) (b : Nat) (l : Nat) (id : Nat) (k : Nat) (edge : Edge) (f : Frame) (u : Tgt), s.chip.firstSlot p = some (l, id, k) ∧
      s.chip.frameOf id = some f ∧ s.chip.tgtOf id k = some u ∧ s.chip.boundaryPassed p l = true) ∧
    (∃ (s : State) (p : Fin 513) (b : Nat) (l : Nat) (id : Nat) (k : Nat) (edge : Edge) (f : Frame) (u : Tgt), s.chip.firstSlot p = some (l, id, k) ∧
      s.chip.frameOf id = some f ∧ s.chip.tgtOf id k = some u ∧ s.chip.boundaryPassed p l = false ∧
      (s.chip.isBoundary p l b = false ∨ s.chip.tb16 + tickUp16 ≤ b)) ∧
    (∃ (s : State) (p : Fin 513) (b : Nat) (l : Nat) (id : Nat) (k : Nat) (edge : Edge) (f : Frame) (u : Tgt), s.chip.firstSlot p = some (l, id, k) ∧
      s.chip.frameOf id = some f ∧ s.chip.tgtOf id k = some u ∧ s.chip.boundaryPassed p l = false ∧ s.chip.isBoundary p l b = true ∧
      b < s.chip.tb16 + tickUp16 ∧ ∃ (e : Nat), s.chip.cellsOpen f = true ∧
      ((s.chip.credited p (u.queue % 8) = true → cellsOf (u.body.length + 4) ≤ s.chip.credit p (u.queue % 8))) ∧ s.chip.laneOpen p = true ∧
      s.chip.laneFree p b = true ∧ bitOf (s.chip.rd Reg.SCHED_STAT_PAUSED p) (u.queue % 8) = false ∧
      (e = (if SMap.get s.chip.tdc (s.chip.edgeChannel true p edge) then b - l else s.chip.boundary p l - l) / 64)) ∧
    (∃ (s : State) (p : Fin 513) (b : Nat) (l : Nat) (id : Nat) (k : Nat) (edge : Edge) (f : Frame) (u : Tgt), s.chip.firstSlot p = some (l, id, k) ∧
      s.chip.frameOf id = some f ∧ s.chip.tgtOf id k = some u ∧ s.chip.boundaryPassed p l = false ∧ s.chip.isBoundary p l b = true ∧
      b < s.chip.tb16 + tickUp16 ∧
      (s.chip.laneOpen p = false ∨ s.chip.laneFree p b = false ∨ s.chip.cellsOpen f = false ∨ bitOf (s.chip.rd Reg.SCHED_STAT_PAUSED p) (u.queue % 8) = true ∨ s.chip.credited p (u.queue % 8) = true ∧
      s.chip.credit p (u.queue % 8) < cellsOf (u.body.length + 4))) ∧
    (∃ (s : State) (p : Fin 513) (id : Nat) (k : Nat) (f : Frame) (u : Tgt) (w : Chip) (x : Chip), (s.chip.portSt p).ctl = false ∧
      (s.chip.portSt p).tx = some (id, k) ∧ s.chip.frameOf id = some f ∧ s.chip.tgtOf id k = some u ∧ f.res = 1 ∧ w = s.chip.takeArrived ∧
      w.preemptable p (u.queue % 8) = false ∧ w.reports f u = false ∧
      (x = ((((((w.count Ev.TX_FRAMES p (u.body.length + 4)).count Ev.TX_Q_FRAMES u.queue (u.body.length + 4)).gapAfter p).updPort p fun y => { y with tx := none }).emit (.txEnd p)).dropTgt id k).idleCheck p)) ∧
    (∃ (s : State) (p : Fin 513) (l : List Nat),
      (l = (List.range 8).filter (fun k => bitOf (s.chip.rd Reg.SCHED_STAT_PAUSED p) k && decide (SMap.get (s.chip.portSt p).pausedTo k ≤ s.chip.now))) ∧
      l ≠ []) ∧
    (∃ (s : State) (p : Fin 512), s.chip.rd Reg.IN_STAT_XOFF p ≠ 0 ∧ s.chip.fabPort p = false ∧
      (s.chip.portSt p).fcLast + 32768 * (512 * 100000 / max 1 (s.chip.rate p)) ≤ s.chip.now) ∧
    (∃ (s : State) (q : Nat) (w : Nat) (d : Nat) (avg : Nat), (((List.range 4096).filter fun q => s.chip.rd Reg.Q_BUF_RED_PROF q != 0) = [q]) ∧
      s.chip.path.redN < s.chip.now / 65536 ∧ w = s.chip.rd Reg.RED_PROF_W 0 (3 * s.chip.rd Reg.Q_BUF_RED_PROF q) ∧ d = s.chip.depthShown q * 65536 ∧
      avg = SMap.get s.chip.path.redAvg q) :=
  ⟨⟨st { ((run.flag Reg.PORT_STATUS_LINK_UP true 0).flag Reg.PORT_STATUS_LINK_UP true 1) with path := { frames := [{ id := 1, port := 1, stage := 2, res := 1, bytes := List.replicate 60 0#8 ++ fcsBytes (List.replicate 60 0#8), tgts := [{ port := 0, queue := 7, body := List.replicate 60 0#8 }] }], queues := [(7, [(1, 0)])], ports := [(0, { tx := some (1, 0) })] } },
    0, 0, {}, by decide +kernel, by decide +kernel, (1, 0), by decide +kernel⟩,
   ⟨st { (((at_ 39 (((run.flag Reg.PORT_STATUS_LINK_UP true 0).flag Reg.PORT_STATUS_LINK_UP true 1).wr Reg.PORT_CFG_MODE 3 0)).flag Reg.SCHED_STAT_PREEMPT_ACTIVE true 0).wr Reg.SCHED_CFG_EXPRESS 0 0) with path := { frames := [{ id := 1, port := 1, stage := 2, res := 1, bytes := List.replicate 60 0#8 ++ fcsBytes (List.replicate 60 0#8), tgts := [{ port := 0, queue := 7, body := List.replicate 1500 0#8 }] }], ports := [(0, { tx := some (1, 0), fcDue := some 1 })] } },
     0, 0, {}, by decide +kernel, by decide +kernel, (1, 0), by decide +kernel,
     (((st { (((at_ 39 (((run.flag Reg.PORT_STATUS_LINK_UP true 0).flag Reg.PORT_STATUS_LINK_UP true 1).wr Reg.PORT_CFG_MODE 3 0)).flag Reg.SCHED_STAT_PREEMPT_ACTIVE true 0).wr Reg.SCHED_CFG_EXPRESS 0 0) with path := { frames := [{ id := 1, port := 1, stage := 2, res := 1, bytes := List.replicate 60 0#8 ++ fcsBytes (List.replicate 60 0#8), tgts := [{ port := 0, queue := 7, body := List.replicate 1500 0#8 }] }], ports := [(0, { tx := some (1, 0), fcDue := some 1 })] } }).chip.suspend 0).controlFrame 0 0 {}).getD c0,
     by decide +kernel, rfl⟩,
   ⟨st { ((run.flag Reg.PORT_STATUS_LINK_UP true 0).flag Reg.PORT_STATUS_LINK_UP true 1) with path := { ports := [(0, { fcDue := some 1 })] } }, 0, 0,
     {}, by decide +kernel, by decide +kernel, 1, _, _, by decide +kernel, by decide +kernel, rfl, by decide +kernel, by decide +kernel, rfl⟩,
   ⟨st { ((run.flag Reg.PORT_STATUS_LINK_UP true 0).flag Reg.PORT_STATUS_LINK_UP true 1) with path := { frames := [{ id := 1, port := 1, stage := 2, res := 1, bytes := List.replicate 60 0#8 ++ fcsBytes (List.replicate 60 0#8), tgts := [{ port := 0, queue := 7, body := List.replicate 60 0#8 }] }], queues := [(7, [(1, 0)])] } },
     0, 0, {}, by decide +kernel, by decide +kernel, 1, 0, { port := 0, queue := 7, body := List.replicate 60 0#8 }, by decide +kernel⟩,
   ⟨st { (tm 100 ((run.flag Reg.PORT_STATUS_LINK_UP true 0).flag Reg.PORT_STATUS_LINK_UP true 1)) with path := { frames := [{ id := 1, port := 1, stage := 2, res := 0, bytes := List.replicate 60 0#8 ++ fcsBytes (List.replicate 60 0#8), tgts := [{ port := 0, queue := 7, body := List.replicate 60 0#8, launch := some 5 }] }], queues := [(7, [(1, 0)])] } },
     7, 1, 0, 5, { id := 1, port := 1, stage := 2, res := 0, bytes := List.replicate 60 0#8 ++ fcsBytes (List.replicate 60 0#8), tgts := [{ port := 0, queue := 7, body := List.replicate 60 0#8, launch := some 5 }] },
     { port := 0, queue := 7, body := List.replicate 60 0#8, launch := some 5 }, all4 (by decide +kernel) (.inl (by decide))⟩,
   ⟨st { (tm 100 ((run.flag Reg.PORT_STATUS_LINK_UP true 0).flag Reg.PORT_STATUS_LINK_UP true 1)) with path := { frames := [{ id := 1, port := 1, stage := 2, res := 1, bytes := List.replicate 60 0#8 ++ fcsBytes (List.replicate 60 0#8), tgts := [{ port := 0, queue := 7, body := List.replicate 60 0#8, launch := some 5 }] }], queues := [(7, [(1, 0)])] } },
     7, 1, 0, 5, { id := 1, port := 1, stage := 2, res := 1, bytes := List.replicate 60 0#8 ++ fcsBytes (List.replicate 60 0#8), tgts := [{ port := 0, queue := 7, body := List.replicate 60 0#8, launch := some 5 }] },
     { port := 0, queue := 7, body := List.replicate 60 0#8, launch := some 5 }, by decide +kernel⟩,
   ⟨st { ((run.flag Reg.PORT_STATUS_LINK_UP true 0).flag Reg.PORT_STATUS_LINK_UP true 1) with path := { frames := [{ id := 1, port := 1, stage := 2, res := 1, bytes := List.replicate 60 0#8 ++ fcsBytes (List.replicate 60 0#8), tgts := [{ port := 0, queue := 7, body := List.replicate 60 0#8, launch := some (1000000000 * 65536 + 1) }] }], queues := [(7, [(1, 0)])] } },
     7, 1, 0, (1000000000 * 65536 + 1),
     { id := 1, port := 1, stage := 2, res := 1, bytes := List.replicate 60 0#8 ++ fcsBytes (List.replicate 60 0#8), tgts := [{ port := 0, queue := 7, body := List.replicate 60 0#8, launch := some (1000000000 * 65536 + 1) }] },
     { port := 0, queue := 7, body := List.replicate 60 0#8, launch := some (1000000000 * 65536 + 1) }, by decide +kernel⟩,
   ⟨st { ((run.flag Reg.PORT_STATUS_LINK_UP true 0).flag Reg.PORT_STATUS_LINK_UP true 1) with path := { frames := [{ id := 1, port := 1, stage := 2, res := 1, bytes := List.replicate 60 0#8 ++ fcsBytes (List.replicate 60 0#8), tgts := [{ port := 0, queue := 7, body := List.replicate 60 0#8, launch := some 5 }] }], queues := [(7, [(1, 0)])] } },
     7, 1, 0, 5, { id := 1, port := 1, stage := 2, res := 1, bytes := List.replicate 60 0#8 ++ fcsBytes (List.replicate 60 0#8), tgts := [{ port := 0, queue := 7, body := List.replicate 60 0#8, launch := some 5 }] },
     { port := 0, queue := 7, body := List.replicate 60 0#8, launch := some 5 }, by decide +kernel⟩,
   ⟨st { (tm 10000000 (((run.flag Reg.PORT_STATUS_LINK_UP true 0).flag Reg.PORT_STATUS_LINK_UP true 1).wr Reg.PORT_CFG_MODE 3 0)) with tdc := [(512, true)], path := { frames := [{ id := 1, port := 1, stage := 2, res := 1, bytes := List.replicate 60 0#8 ++ fcsBytes (List.replicate 60 0#8), tgts := [{ port := 0, queue := 7, body := List.replicate 60 0#8, launch := some 5 }] }], queues := [(7, [(1, 0)])], ports := [(0, { slots := [(1, 0)] })] } },
     0, 5, 5, 1, 0, {}, { id := 1, port := 1, stage := 2, res := 1, bytes := List.replicate 60 0#8 ++ fcsBytes (List.replicate 60 0#8), tgts := [{ port := 0, queue := 7, body := List.replicate 60 0#8, launch := some 5 }] },
     { port := 0, queue := 7, body := List.replicate 60 0#8, launch := some 5 }, by decide +kernel⟩,
   ⟨st { (((run.flag Reg.PORT_STATUS_LINK_UP true 0).flag Reg.PORT_STATUS_LINK_UP true 1).wr Reg.PORT_CFG_MODE 3 0) with tdc := [(512, true)], path := { frames := [{ id := 1, port := 1, stage := 2, res := 1, bytes := List.replicate 60 0#8 ++ fcsBytes (List.replicate 60 0#8), tgts := [{ port := 0, queue := 7, body := List.replicate 60 0#8, launch := some 5 }] }], queues := [(7, [(1, 0)])], ports := [(0, { slots := [(1, 0)] })] } },
     0, 3, 5, 1, 0, {}, { id := 1, port := 1, stage := 2, res := 1, bytes := List.replicate 60 0#8 ++ fcsBytes (List.replicate 60 0#8), tgts := [{ port := 0, queue := 7, body := List.replicate 60 0#8, launch := some 5 }] },
     { port := 0, queue := 7, body := List.replicate 60 0#8, launch := some 5 }, all4 (by decide +kernel) (.inl (by decide +kernel))⟩,
   ⟨st { (((run.flag Reg.PORT_STATUS_LINK_UP true 0).flag Reg.PORT_STATUS_LINK_UP true 1).wr Reg.PORT_CFG_MODE 3 0) with tdc := [(512, true)], path := { frames := [{ id := 1, port := 1, stage := 2, res := 1, bytes := List.replicate 60 0#8 ++ fcsBytes (List.replicate 60 0#8), tgts := [{ port := 0, queue := 7, body := List.replicate 60 0#8, launch := some 5 }] }], queues := [(7, [(1, 0)])], ports := [(0, { slots := [(1, 0)] })] } },
     0, 5, 5, 1, 0, {}, { id := 1, port := 1, stage := 2, res := 1, bytes := List.replicate 60 0#8 ++ fcsBytes (List.replicate 60 0#8), tgts := [{ port := 0, queue := 7, body := List.replicate 60 0#8, launch := some 5 }] },
     { port := 0, queue := 7, body := List.replicate 60 0#8, launch := some 5 }, all4 (by decide +kernel) ⟨by decide +kernel, by decide +kernel, _,
     by decide +kernel, fun h => absurd h (by decide +kernel), by decide +kernel, by decide +kernel, by decide +kernel, rfl⟩⟩,
   ⟨st { c0.wr Reg.PORT_CFG_MODE 3 0 with path := { frames := [{ id := 1, port := 1, stage := 2, res := 1, bytes := List.replicate 60 0#8 ++ fcsBytes (List.replicate 60 0#8), tgts := [{ port := 0, queue := 7, body := List.replicate 60 0#8, launch := some 5 }] }], queues := [(7, [(1, 0)])], ports := [(0, { slots := [(1, 0)] })] } },
     0, 5, 5, 1, 0, {}, { id := 1, port := 1, stage := 2, res := 1, bytes := List.replicate 60 0#8 ++ fcsBytes (List.replicate 60 0#8), tgts := [{ port := 0, queue := 7, body := List.replicate 60 0#8, launch := some 5 }] },
     { port := 0, queue := 7, body := List.replicate 60 0#8, launch := some 5 }, all4 (by decide +kernel) ⟨by decide +kernel, by decide +kernel,
     .inl (by decide +kernel)⟩⟩,
   ⟨st { ((run.flag Reg.PORT_STATUS_LINK_UP true 0).flag Reg.PORT_STATUS_LINK_UP true 1) with path := { frames := [{ id := 1, port := 1, stage := 2, res := 1, bytes := List.replicate 60 0#8 ++ fcsBytes (List.replicate 60 0#8), tgts := [{ port := 0, queue := 7, body := List.replicate 60 0#8 }] }], queues := [(7, [(1, 0)])], ports := [(0, { tx := some (1, 0) })] } },
     0, 1, 0, { id := 1, port := 1, stage := 2, res := 1, bytes := List.replicate 60 0#8 ++ fcsBytes (List.replicate 60 0#8), tgts := [{ port := 0, queue := 7, body := List.replicate 60 0#8 }] },
     { port := 0, queue := 7, body := List.replicate 60 0#8 }, _, _, all4 (by decide +kernel) ⟨by decide +kernel, rfl, by decide +kernel,
     by decide +kernel, rfl⟩⟩,
   ⟨st (c0.wr Reg.SCHED_STAT_PAUSED 129 512), 512, [0, 7], by decide +kernel⟩,
   ⟨st (at_ 39062500000 (c0.wr Reg.IN_STAT_XOFF 1 3)), 3, by decide +kernel⟩,
   ⟨st (at_ 300 (c0.wr Reg.Q_BUF_RED_PROF 1 5)), 5, _, _, _, by decide +kernel, by decide +kernel, rfl, rfl, rfl⟩⟩

theorem witness_GateListsAndVerification :
    (∃ (s : State) (p : Fin 512), s.chip.gatePending p = false) ∧
    (∃ (s : State) (l : Nat), l < 512 ∧ s.chip.gatePending l = true ∧ s.chip.gateCT l ≤ s.chip.tb16) ∧
    (∃ (s : State) (g : Fin 512), s.chip.gatePending (1024 + g) = false) ∧
    (∃ (s : State) (g : Fin 512), s.chip.gatePending (1024 + g) = true ∧ s.chip.gateCT (1024 + g) ≤ s.chip.tb16) ∧
    (∃ (s : State) (p : Fin 512), s.chip.linkUp p = true ∧ s.chip.rd Reg.SCHED_STAT_VERIFY_STATE p = 1 ∧ (s.chip.portSt p).verTries = 0) ∧
    (∃ (s : State) (p : Fin 512), s.chip.linkUp p = true ∧ s.chip.rd Reg.SCHED_STAT_VERIFY_STATE p = 2 ∧ (s.chip.portSt p).verTries = 3 ∧
      (s.chip.portSt p).verAt + unitsMs (s.chip.rd Reg.SCHED_CFG_VERIFY_MS p) ≤ s.chip.now) :=
  ⟨⟨st c0, 3, by decide +kernel⟩,
   ⟨st (c0.flag Reg.GATE_STATUS_PENDING true 3), 3, by decide +kernel⟩,
   ⟨st c0, 511, by decide +kernel⟩,
   ⟨st (c0.flag Reg.SG_STATUS_PENDING true 3 511), 511, by decide +kernel⟩,
   ⟨st ((c0.flag Reg.PORT_STATUS_LINK_UP true 3).wr Reg.SCHED_STAT_VERIFY_STATE 1 3), 3, by decide +kernel⟩,
   ⟨st { at_ 39062500000 ((c0.flag Reg.PORT_STATUS_LINK_UP true 3).wr Reg.SCHED_STAT_VERIFY_STATE 2 3) with path := { ports := [(3, { verTries := 3 })] } },
     3, by decide +kernel⟩⟩

theorem witness_TicksAndConverters :
    (∃ (s : State), s.chip.pwr.low = false ∧ s.chip.pwr.failed = false ∧ s.chip.time.steps = [] ∧ s.chip.time.durOn = false) ∧
    (∃ (s : State) (y : Chip), s.chip.pwr.low = false ∧ s.chip.pwr.failed = false ∧ s.chip.time.steps = [] ∧ s.chip.time.durOn = true ∧
      s.chip.time.durLeft = 1 ∧
      (y = ({ s.chip with time := { s.chip.time with tb := tbWrap (s.chip.time.tb + s.chip.tbIncr), durLeft := 0, durOn := false } } : Chip).wr Reg.TICKS (s.chip.rd Reg.TICKS + 1))) ∧
    (∃ (s : State) (n : Nat), s.chip.pwr.low = true) ∧
    (∃ (s : State) (m : Int), s.chip.time.durOn = true ∧ s.chip.time.durLeft = 0 ∧ m = ppbUnits (s.chip.rd Reg.SERVO_CTRL_MAX_ADJ)) ∧
    (∃ (s : State) (counts : List Nat), s.chip.baroAt ≤ s.chip.now ∧ counts.length = 32 ∧ s.chip.cal.baroRef.length = 32 ∧
      ((∃ q ∈ counts.zip s.chip.cal.baroRef, ((q.1 : Int) - q.2) * 20000 < -(q.2 : Int)))) ∧
    (∃ (s : State) (ch : Fin 1104) (a : Int) (b : Int) (x : Chip), (1 < a.natAbs ∨ 1 < b.natAbs) ∧ SMap.get s.chip.tdc ch = true ∧
      (x = ({ s.chip with time := { s.chip.time with tdcFrom := SMap.set s.chip.time.tdcFrom ch 0 }, tdc := SMap.set s.chip.tdc ch false } : Chip).showTdc ch)) ∧
    (∃ (s : State) (ch : Fin 1104) (a : Int) (b : Int), a.natAbs ≤ 1 ∧ b.natAbs ≤ 1 ∧ SMap.get s.chip.time.tdcFrom ch = 0) ∧
    (∃ (s : State) (ch : Fin 1104) (a : Int) (b : Int), a.natAbs ≤ 1 ∧ b.natAbs ≤ 1 ∧ SMap.get s.chip.time.tdcFrom ch ≠ 0 ∧
      SMap.get s.chip.time.tdcFrom ch + 4095 ≤ s.chip.rd Reg.TICKS) ∧
    (∃ (s : State) (m : Fin 520), s.chip.on (phmRegs m).en (phmRegs m).inst = true ∧ SMap.get s.chip.tdc (phmChannel m) = true ∧
      s.chip.on (phmRegs m).los (phmRegs m).inst = false ∧
      (SMap.get s.chip.phms m).seenAt + ceilDiv (2 * s.chip.phmHalves m * s.chip.phmEvery m * (s.chip.phmHz m).2 * unitsS 1) (max 1 (s.chip.phmHz m).1) ≤ s.chip.now) ∧
    (∃ (s : State) (m : Fin 520), s.chip.on (phmRegs m).en (phmRegs m).inst = true ∧ SMap.get s.chip.tdc (phmChannel m) = true ∧
      ∃ (edge : Fine) (y : Chip), s.chip.on (phmRegs m).los (phmRegs m).inst = true ∧
      y = (s.chip.flag (phmRegs m).los false (phmRegs m).inst).phmRestart m) ∧
    (∃ (s : State) (m : Fin 520), s.chip.on (phmRegs m).en (phmRegs m).inst = true ∧ SMap.get s.chip.tdc (phmChannel m) = true ∧
      ∃ (edges : Nat) (edge : Fine) (x : Chip) (n : Nat), s.chip.on (phmRegs m).los (phmRegs m).inst = false ∧
      (SMap.get s.chip.phms m).live = false ∧ edges ≠ 0 ∧ s.chip.phmClash m edge = false ∧ x = (s.chip.phmKeep m edge).phmFirst m edge ∧
      n = m.val - 512 ∧ m.val < 516) ∧
    (∃ (s : State) (m : Fin 520), s.chip.on (phmRegs m).en (phmRegs m).inst = true ∧ SMap.get s.chip.tdc (phmChannel m) = true ∧
      ∃ (edges : Nat) (edge : Fine) (x : Chip) (n : Nat), s.chip.on (phmRegs m).los (phmRegs m).inst = false ∧
      (SMap.get s.chip.phms m).live = false ∧ edges ≠ 0 ∧ s.chip.phmClash m edge = false ∧ x = (s.chip.phmKeep m edge).phmFirst m edge ∧
      n = m.val - 512 ∧ 516 ≤ m.val ∧ s.chip.on Reg.REF_CFG_TIME n = true) :=
  ⟨⟨st c0, by decide +kernel⟩,
   ⟨st { c0 with time := { durOn := true, durLeft := 1 } }, _, all4 (by decide +kernel) ⟨by decide +kernel, rfl⟩⟩,
   ⟨st { c0 with pwr := { low := true } }, 3, by decide +kernel⟩,
   ⟨st { c0 with time := { durOn := true } }, _, by decide +kernel, by decide +kernel, rfl⟩,
   ⟨st { c0 with cal := { baroRef := List.replicate 32 100 } }, 0 :: List.replicate 31 100, by decide +kernel, by decide +kernel, by decide +kernel,
     ⟨(0, 100), .head _, by decide⟩⟩,
   ⟨st { c0 with tdc := [(1103, true)] }, 1103, 2, 0, _, .inl (by decide), by decide +kernel, rfl⟩,
   ⟨st c0, 1103, 1, -1, by decide +kernel⟩,
   ⟨st { at_ 5000 c0 with time := { tdcFrom := [(1103, 1)] } }, 1103, 1, -1, by decide +kernel⟩,
   ⟨st { (at_ 39062500000 (c0.flag Reg.PHM_CFG_EN true 5)).flag Reg.PHM_STATUS_LOS false 5 with tdc := [(5, true)] }, 5, by decide +kernel⟩,
   ⟨st { (c0.flag Reg.PHM_CFG_EN true 5).flag Reg.PHM_STATUS_LOS true 5 with tdc := [(5, true)] }, 5, by decide +kernel, by decide +kernel, {}, _,
     by decide +kernel, rfl⟩,
   ⟨st { (at_ 39062500000 (c0.flag Reg.PHM_CFG_EN true 5)).flag Reg.PHM_STATUS_LOS false 5 with tdc := [(5, true)] }, 5, by decide +kernel,
     by decide +kernel, 1, {}, _, _, all4 (by decide +kernel) ⟨rfl, rfl, by decide +kernel⟩⟩,
   ⟨st { ((c0.flag Reg.RPHM_CFG_EN true 4).flag Reg.REF_CFG_TIME true 4).flag Reg.RPHM_STATUS_LOS false 4 with tdc := [(1028, true)] }, 516,
     by decide +kernel, by decide +kernel, 1, {}, _, _, all4 (by decide +kernel) ⟨rfl, rfl, by decide +kernel⟩⟩⟩

theorem witness_LoopsAndOutputs :
    (∃ (d : Fin 5) (s : State) (e0 : Int) (e : Int) (ph : List (Nat × Int)) (f : Nat × Nat), s.chip.fpd d = some f ∧ s.chip.detects d = true ∧
      e = s.chip.loopErr d e0 ∧ s.chip.synState d = 2 ∧ ph = []) ∧
    (∃ (d : Fin 5) (s : State) (e0 : Int) (e : Int) (ph : List (Nat × Int)) (f : Nat × Nat), s.chip.fpd d = some f ∧ s.chip.detects d = true ∧
      e = s.chip.loopErr d e0 ∧ ∃ (w : Chip) (e1 : Int), (s.chip.synState d = 3 ∨ s.chip.synState d = 4) ∧ w = s.chip.workOff d ∧
      e1 = e - divRoundS (w.dpll d).build (10 ^ 11)) ∧
    (∃ (d : Fin 5) (s : State) (count : Int) (off : Int) (e0 : Int) (e : Int),
      (s.chip.dpll d).chkAt + unitsMs (s.chip.rd Reg.SYN_LOCK_FCHK_MS d) ≤ s.chip.now ∧ off = count + divRoundS (s.chip.tgtRate d * 1000) freqUnit ∧
      e = s.chip.loopErr d e0 ∧ s.chip.synState d = 2 ∧ off.natAbs ≤ s.chip.rd Reg.SYN_LOCK_FCHK_TOL d * 1000) ∧
    (∃ (d : Fin 5) (s : State) (count : Int) (off : Int) (e0 : Int) (e : Int),
      (s.chip.dpll d).chkAt + unitsMs (s.chip.rd Reg.SYN_LOCK_FCHK_MS d) ≤ s.chip.now ∧ off = count + divRoundS (s.chip.tgtRate d * 1000) freqUnit ∧
      e = s.chip.loopErr d e0 ∧ ∃ (x : Chip), s.chip.synState d = 4 ∧ s.chip.rd Reg.SYN_LOCK_FCHK_TOL d * 1000 < off.natAbs ∧
      1 ≤ (s.chip.dpll d).fchkBad ∧
      (x = s.chip.updDpll d (fun y => { y with chkAt := s.chip.now, fchkBad := (s.chip.dpll d).fchkBad + 1, goal := y.y + divRoundS (off * freqUnit) 1000 }))) ∧
    (∃ (d : Fin 5) (s : State), 1 ≤ d.val ∧ s.chip.synState d = 6) ∧
    (∃ (d : Fin 5) (s : State), 1 ≤ d.val ∧ s.chip.on Reg.SYN_RAMP_CTRL_RUN d = true ∧ (s.chip.dpll d).gen.prof = none ∧
      timeOf96 (s.chip.rd Reg.RAMP_START d) ≤ s.chip.tb16) ∧
    (∃ (d : Fin 5) (s : State) (k : Nat) (h : Nat), (s.chip.dpll d).gen.prof = some k ∧ (s.chip.dpll d).gen.holdTo = some h ∧ h ≤ s.chip.now ∧
      s.chip.on Reg.SYN_RAMP_CTRL_RUN d = true) ∧
    (∃ (d : Fin 5) (s : State) (a : Nat) (g : Int) (w : Nat) (l : List (Nat × Int × Nat)), 1 ≤ d.val ∧ (s.chip.dpll d).gen.reqs = (a, g, w) :: l ∧
      a ≤ s.chip.now) ∧
    (∃ (d : Fin 5) (s : State) (q : Int) (a : Int) (l : List (Int × Int)), (s.chip.dpll d).gen.edges = (q, a) :: l) ∧
    (∃ (d : Fin 5) (s : State) (o : Fin 8) (edge : Int) (y : Cko), y = SMap.get s.chip.ckos o ∧ y.wait = true ∧ s.chip.ckoMay o = true ∧
      y.mutedAt + unitsUs 20 ≤ s.chip.now ∧ y.startAt ≤ s.chip.tb16 + tick16) :=
  ⟨⟨1, st { c0.wr Reg.SYN_STATUS_STATE 2 1 with dplls := [(1, {  })] }, 5, _, [], (390625000, 32), by decide +kernel, by decide +kernel, rfl,
    by decide +kernel⟩,
   ⟨1, st { c0.wr Reg.SYN_STATUS_STATE 3 1 with dplls := [(1, {  })] }, 5, _, [], (390625000, 32), by decide +kernel, by decide +kernel, rfl, _, _,
     .inl (by decide +kernel), rfl, rfl⟩,
   ⟨1, st { (at_ 39062500000 c0).wr Reg.SYN_STATUS_STATE 2 1 with dplls := [(1, {  })] }, 0, _, 0, _, by decide +kernel, rfl, rfl, by decide +kernel⟩,
   ⟨1, st { (at_ 39062500000 c0).wr Reg.SYN_STATUS_STATE 4 1 with dplls := [(1, { fchkBad := 1 })] }, 1000000000, _, 0, _, by decide +kernel, rfl,
     rfl, _, by decide +kernel, by decide +kernel, by decide +kernel, rfl⟩,
   ⟨4, st { c0.wr Reg.SYN_STATUS_STATE 6 4 with dplls := [(4, {  })] }, by decide +kernel⟩,
   ⟨1, st (c0.flag Reg.SYN_RAMP_CTRL_RUN true 1), by decide +kernel⟩,
   ⟨1, st { c0.flag Reg.SYN_RAMP_CTRL_RUN true 1 with dplls := [(1, { gen := { prof := some 0, holdTo := some 0 } })] }, 0, 0, by decide +kernel⟩,
   ⟨1, st { c0 with dplls := [(1, { gen := { reqs := [(0, 5, 7)] } })] }, 0, 5, 7, [], by decide +kernel⟩,
   ⟨1, st { c0 with dplls := [(1, { gen := { edges := [(2, 9)] } })] }, 2, 9, [], by decide +kernel⟩,
   ⟨1, st { ((at_ 39062500000 (run.flag Reg.CKO_CFG_EN true 16)).wr Reg.CKO_CFG_FORMAT 2 16).wr Reg.SYN_CFG_MODE 2 1 with ckos := [(0, { wait := true })] },
     0, 0, _, rfl, by decide +kernel⟩⟩

theorem witness_SelectorsAndReferences :
    (∃ (s : State), s.chip.coal.supOn = true ∧ s.chip.coal.supUntil ≤ s.chip.now) ∧
    (∃ (s : State) (n : Fin 24) (r : Ref), r = s.chip.ref n ∧ s.chip.rd Reg.REF_CFG_RANK n ≠ 0 ∧ s.chip.refKept n = false ∧ s.chip.refBase n = true ∧
      r.winOn = true ∧ r.hard = false ∧ r.healthy = true ∧ r.qual = false ∧ r.since + unitsS (s.chip.refWait n) ≤ s.chip.now) ∧
    (∃ (s : State) (n : Fin 24) (r : Ref), r = s.chip.ref n ∧ s.chip.rd Reg.REF_CFG_RANK n ≠ 0 ∧ s.chip.refKept n = false ∧ ∃ (x : Chip),
      s.chip.refBase n = false ∧ r.winOn = false ∧ r.healthy = true ∧ x = s.chip.refScan n) ∧
    (∃ (s : State) (n : Fin 24) (m : Nat) (ticks : Nat) (p : Phm) (r : Ref) (osc : Int) (x : Chip), x = s.chip.measTake n ∧ r = s.chip.ref n ∧
      m = s.chip.refMonitor n ∧ p = SMap.get s.chip.phms m ∧ r.winOn = true ∧ r.winAt + unitsS 10 ≤ s.chip.now ∧
      r.winR = s.chip.rd (phmRegs m).restarts (phmRegs m).inst ∧ ticks = (s.chip.now - r.winAt) / 256 ∧
      osc = phmFreq (p.phase - r.winPhase) (p.n - r.winN) (s.chip.phmPnom m) + (divRoundS ((s.chip.car.yInt - r.winY) * 1000) (ticks * freqUnit) + divRoundS ((s.chip.car.adjInt - r.winA) * 10 ^ 12) (ticks * max 1 (s.chip.rd Reg.BASE_INCR)))) ∧
    (∃ (s : State) (time : Bool) (k : Nat) (n : Nat), (k = (if time then 1 else 0)) ∧ n = s.chip.selRef k ∧ s.chip.selState k = 1 ∧ n < 24 ∧
      ((s.chip.sel k).switchAt + unitsS (if time then 600 else 60) ≤ s.chip.now) ∧ s.chip.lockHolds k = false) ∧
    (∃ (s : State) (time : Bool) (k : Nat), (k = (if time then 1 else 0)) ∧ s.chip.selState k = 3 ∧ s.chip.rd Reg.HO_CFG_HO_MAX_S ≠ 0 ∧
      s.chip.rd Reg.HO_CFG_HO_MAX_S ≤ s.chip.hoElapsed k) ∧
    (∃ (s : State) (time : Bool) (k : Nat) (v : Int) (ticks : Nat), (k = (if time then 1 else 0)) ∧ s.chip.selState k = 2 ∧
      (s.chip.sel k).secAt + unitsS 1 ≤ s.chip.now ∧ ticks = (s.chip.now - (s.chip.sel k).secAt) / 256 ∧
      (v = (if k = 0 then divRoundS (s.chip.selInt k - (s.chip.sel k).secInt) ticks else divRoundS ((s.chip.selInt k - (s.chip.sel k).secInt) * (5 ^ 22 : Nat)) (32 * ticks)))) :=
  ⟨⟨st { c0 with coal := { supOn := true } }, by decide +kernel⟩,
   ⟨st { (at_ 390625000000 (c0.wr Reg.REF_CFG_RANK 1 0)).flag Reg.RPHM_STATUS_LOS false 0 with tdc := [(1024, true)], car := { refs := [(0, { winOn := true, healthy := true })] } },
     0, _, rfl, by decide +kernel⟩,
   ⟨st { c0.wr Reg.REF_CFG_RANK 1 0 with car := { refs := [(0, { healthy := true })] } }, 0, _, rfl, by decide +kernel, by decide +kernel, _,
     by decide +kernel, by decide +kernel, by decide +kernel, rfl⟩,
   ⟨st { (at_ 39062500000 c0) with car := { refs := [(0, { winOn := true })] } }, 0, _, _, _, _, _, _, rfl, rfl, rfl, rfl, by decide +kernel,
     by decide +kernel, by decide +kernel, rfl, rfl⟩,
   ⟨st (((at_ 39062500000 c0).wr Reg.SEL_STATUS_FSTATE 1).wr Reg.SEL_STATUS_FREF 3), false, _, _, rfl, rfl, by decide +kernel⟩,
   ⟨st (((at_ 39062500000 c0).wr Reg.SEL_STATUS_TSTATE 3).wr Reg.HO_CFG_HO_MAX_S 1), true, _, rfl, by decide +kernel⟩,
   ⟨st (((at_ 39062500000 c0).wr Reg.SEL_STATUS_TSTATE 2).wr Reg.SEL_STATUS_TREF 3), true, _, _, _, rfl, by decide +kernel, by decide +kernel, rfl,
     rfl⟩⟩

theorem witness_SynchronisationMessages :
    (∃ (p : Fin 512) (s : State) (i : Nat) (x : PtpPort) (e : Esmc), i = s.chip.ptpInst p ∧ x = s.chip.ptpPort p ∧ e = SMap.get s.chip.car.esmc p ∧
      ∃ (cls : Fin 8) (f : Frame) (k : Nat) (b : Bytes), (s.chip.trapFirst cls (fun f => f.trapKey.ptp.isSome) = some (f, k)) ∧
      b = f.trapBody.drop f.trapKey.ptpAt ∧ f.port = p.val ∧ s.chip.ptpRole p ≠ 0 ∧
      (ptpKnown.contains (natAt b 0 1 % 16) = false ∨ natAt b 4 1 ≠ s.chip.msgDomain p (natAt b 0 1 % 16))) ∧
    (∃ (p : Fin 512) (s : State) (i : Nat) (x : PtpPort) (e : Esmc), i = s.chip.ptpInst p ∧ x = s.chip.ptpPort p ∧ e = SMap.get s.chip.car.esmc p ∧
      ∃ (cls : Fin 8) (f : Frame) (k : Nat) (b : Bytes), (s.chip.trapFirst cls (fun f => f.trapKey.ptp.isSome) = some (f, k)) ∧
      b = f.trapBody.drop f.trapKey.ptpAt ∧ f.port = p.val ∧ s.chip.ptpRole p ≠ 0 ∧ ptpKnown.contains (natAt b 0 1 % 16) = true ∧
      natAt b 4 1 = s.chip.msgDomain p (natAt b 0 1 % 16) ∧ s.chip.instOn i = true ∧ natAt b 2 2 ≤ b.length ∧ 44 ≤ natAt b 2 2) ∧
    (∃ (p : Fin 512) (s : State) (i : Nat) (x : PtpPort) (e : Esmc), i = s.chip.ptpInst p ∧ x = s.chip.ptpPort p ∧ e = SMap.get s.chip.car.esmc p ∧
      ∃ (two : Bool) (l : Int) (tlv : Bytes) (c1 : Chip) (c2 : Chip), s.chip.rd Reg.PTP_PORT_STATUS_PORT_STATE p = 6 ∧ s.chip.instOn i = true ∧
      s.chip.instMute i = false ∧ s.chip.hushed p x.askSync = false ∧ x.syncAt ≤ s.chip.now ∧
      two = (s.chip.on Reg.PTP_PORT_CFG_TWO_STEP p && !s.chip.twinPort p) ∧ l = s.chip.logSync p ∧
      (tlv = (if s.chip.profile i = 3 then followTlv (s.chip.followInfo i) else [])) ∧
      (c1 = s.chip.updPtp p (fun x => { x with syncAt := s.chip.now + logTime l, seqS := (x.seqS + 1) % 65536 })) ∧
      (c2 = c1.sendMsg p 0 (if two then 0x200 else 0) 0 x.seqS 0 l (bytesOfNat 10 0 ++ (if two then [] else tlv)))) ∧
    (∃ (p : Fin 512) (s : State) (i : Nat) (x : PtpPort) (e : Esmc), i = s.chip.ptpInst p ∧ x = s.chip.ptpPort p ∧ e = SMap.get s.chip.car.esmc p ∧
      ∃ (l : Int) (path : Bytes) (a : Ann) (c1 : Chip), s.chip.rd Reg.PTP_PORT_STATUS_PORT_STATE p = 6 ∧ s.chip.instOn i = true ∧
      s.chip.instMute i = false ∧ s.chip.hushed p x.askAnn = false ∧ x.annSendAt ≤ s.chip.now ∧ l = s.chip.logAnn p ∧ a = s.chip.instAnn i ∧
      (path = (if s.chip.profile i = 3 then bytesOfNat 2 8 ++ bytesOfNat 2 (8 * (a.path ++ [s.chip.clockId]).length) ++ (a.path ++ [s.chip.clockId]).flatMap (bytesOfNat 8) else [])) ∧
      (c1 = s.chip.updPtp p (fun x => { x with annSendAt := s.chip.now + logTime l }))) ∧
    (∃ (p : Fin 512) (s : State) (i : Nat) (x : PtpPort) (e : Esmc), i = s.chip.ptpInst p ∧ x = s.chip.ptpPort p ∧ e = SMap.get s.chip.car.esmc p ∧
      ∃ (l : Int), s.chip.ptpRole p ≠ 0 ∧ s.chip.instOn i = true ∧ s.chip.linkUp p = true ∧ s.chip.hushed p x.askDelay = false ∧
      x.delayAt ≤ s.chip.now ∧ l = s.chip.logDelay p ∧ s.chip.ptpDelay p = 0 ∧ s.chip.rd Reg.PTP_PORT_STATUS_PORT_STATE p = 9) ∧
    (∃ (p : Fin 512) (s : State) (i : Nat) (x : PtpPort) (e : Esmc), i = s.chip.ptpInst p ∧ x = s.chip.ptpPort p ∧ e = SMap.get s.chip.car.esmc p ∧
      ∃ (l : Int), s.chip.ptpRole p ≠ 0 ∧ s.chip.instOn i = true ∧ s.chip.linkUp p = true ∧ s.chip.hushed p x.askDelay = false ∧
      x.delayAt ≤ s.chip.now ∧ l = s.chip.logDelay p ∧ ∃ (c1 : Chip), s.chip.ptpDelay p ≠ 0 ∧ x.peer.state = 0 ∧
      (c1 = s.chip.updPtp p (fun y => { y with delayAt := s.chip.now + logTime l, seqD := (x.seqD + 1) % 65536, peer := { y.peer with seq := x.seqD, state := 1, lost := 0 } }))) ∧
    (∃ (p : Fin 512) (s : State) (i : Nat) (x : PtpPort) (e : Esmc), i = s.chip.ptpInst p ∧ x = s.chip.ptpPort p ∧ e = SMap.get s.chip.car.esmc p ∧
      ∃ (c1 : Chip), s.chip.ptpRole p ≠ 0 ∧ s.chip.rd Reg.PTP_PORT_STATUS_PORT_STATE p = 9 ∧ x.annAt + s.chip.annWait p ≤ s.chip.now ∧
      x.annLost = false ∧ (c1 = s.chip.updPtp p (fun x => { x with anns := x.anns.filter fun a => decide (s.chip.now < a.at_ + s.chip.annWait p), annLost := true, annOut := true }))) ∧
    (∃ (p : Fin 512) (s : State) (i : Nat) (x : PtpPort) (e : Esmc), i = s.chip.ptpInst p ∧ x = s.chip.ptpPort p ∧ e = SMap.get s.chip.car.esmc p ∧
      ∃ (cls : Fin 8) (f : Frame) (k : Nat) (q : Nat) (c1 : Chip), (s.chip.trapFirst cls (fun f => f.trapKey.esmc) = some (f, k)) ∧ f.port = p.val ∧
      c1 = (s.chip.dropTgt f.id k).hostCopy f cls ∧ (s.chip.portRef p).isSome = true ∧ natAt f.trapBody 18 2 = 1 ∧ natAt f.trapBody 24 1 = 1 ∧
      q = natAt f.trapBody 27 1 % 16) ∧
    (∃ (p : Fin 512) (s : State) (i : Nat) (x : PtpPort) (e : Esmc), i = s.chip.ptpInst p ∧ x = s.chip.ptpPort p ∧ e = SMap.get s.chip.car.esmc p ∧
      (s.chip.portRef p).isSome = true ∧ e.late = false ∧ e.rxAt + unitsS 5 ≤ s.chip.now) ∧
    (∃ (p : Fin 512) (s : State) (i : Nat) (x : PtpPort) (e : Esmc), i = s.chip.ptpInst p ∧ x = s.chip.ptpPort p ∧ e = SMap.get s.chip.car.esmc p ∧
      s.chip.on Reg.PORT_CFG_SYNCE_TX p = true ∧ s.chip.linkUp p = true ∧ (e.evDue = true ∨ e.txAt + unitsS 1 ≤ s.chip.now)) :=
  ⟨⟨3, st { (c0.wr Reg.PTP_PORT_CFG_ROLE 1 3) with path := { frames := [{ id := 1, port := 3, bytes := bytesOfNat 6 1 ++ bytesOfNat 6 2 ++ bytesOfNat 2 0x88F7 ++ bytesOfNat 4 0x0F02002C ++ List.replicate 44 0#8 }], queues := [(8000, [(1, 0)])] } },
    _, _, _, rfl, rfl, rfl, 0,
    { id := 1, port := 3, bytes := bytesOfNat 6 1 ++ bytesOfNat 6 2 ++ bytesOfNat 2 0x88F7 ++ bytesOfNat 4 0x0F02002C ++ List.replicate 44 0#8 }, 0,
    _, by decide +kernel, rfl, by decide +kernel⟩,
   ⟨3, st { ((c0.wr Reg.PTP_PORT_CFG_ROLE 1 3).flag Reg.PTP_INST_EN true 0 0) with path := { frames := [{ id := 1, port := 3, bytes := bytesOfNat 6 1 ++ bytesOfNat 6 2 ++ bytesOfNat 2 0x88F7 ++ bytesOfNat 4 0x0002002C ++ List.replicate 44 0#8 }], queues := [(8000, [(1, 0)])] } },
     _, _, _, rfl, rfl, rfl, 0,
     { id := 1, port := 3, bytes := bytesOfNat 6 1 ++ bytesOfNat 6 2 ++ bytesOfNat 2 0x88F7 ++ bytesOfNat 4 0x0002002C ++ List.replicate 44 0#8 }, 0,
     _, by decide +kernel, rfl, by decide +kernel⟩,
   ⟨3, st (((c0.wr Reg.PTP_PORT_CFG_ROLE 1 3).flag Reg.PTP_INST_EN true 0 0).wr Reg.PTP_PORT_STATUS_PORT_STATE 6 3), _, _, _, rfl, rfl, rfl, _, _, _,
     _, _, all4 (by decide +kernel) ⟨by decide +kernel, rfl, rfl, rfl, rfl, rfl⟩⟩,
   ⟨3, st (((c0.wr Reg.PTP_PORT_CFG_ROLE 1 3).flag Reg.PTP_INST_EN true 0 0).wr Reg.PTP_PORT_STATUS_PORT_STATE 6 3), _, _, _, rfl, rfl, rfl, _, _, _,
     _, all4 (by decide +kernel) ⟨by decide +kernel, rfl, rfl, rfl, rfl⟩⟩,
   ⟨3, st ((((c0.wr Reg.PTP_PORT_CFG_ROLE 1 3).flag Reg.PTP_INST_EN true 0 0).wr Reg.PTP_PORT_STATUS_PORT_STATE 9 3).flag Reg.PORT_STATUS_LINK_UP true 3),
     _, _, _, rfl, rfl, rfl, _, all4 (by decide +kernel) ⟨by decide +kernel, rfl, by decide +kernel⟩⟩,
   ⟨3, st (((((c0.wr Reg.PTP_PORT_CFG_ROLE 1 3).flag Reg.PTP_INST_EN true 0 0).wr Reg.PTP_PORT_STATUS_PORT_STATE 9 3).flag Reg.PORT_STATUS_LINK_UP true 3).wr Reg.PTP_PORT_CFG_DELAY 1 3),
     _, _, _, rfl, rfl, rfl, _, all4 (by decide +kernel) ⟨by decide +kernel, rfl, _, by decide +kernel, by decide +kernel, rfl⟩⟩,
   ⟨3, st (at_ 390625000000 (((c0.wr Reg.PTP_PORT_CFG_ROLE 1 3).flag Reg.PTP_INST_EN true 0 0).wr Reg.PTP_PORT_STATUS_PORT_STATE 9 3)), _, _, _, rfl,
     rfl, rfl, _, all4 (by decide +kernel) rfl⟩,
   ⟨3, st { ((c0.wr Reg.REF_CFG_RANK 1 8).wr Reg.REF_CFG_LANE 3 8) with path := { frames := [{ id := 1, port := 3, bytes := bytesOfNat 6 1 ++ bytesOfNat 6 2 ++ bytesOfNat 2 0x8809 ++ esmcPdu false 4 ++ List.replicate 22 0#8 }], queues := [(8000, [(1, 0)])] } },
     _, _, _, rfl, rfl, rfl, 0,
     { id := 1, port := 3, bytes := bytesOfNat 6 1 ++ bytesOfNat 6 2 ++ bytesOfNat 2 0x8809 ++ esmcPdu false 4 ++ List.replicate 22 0#8 }, 0, _, _,
     by decide +kernel, by decide +kernel, rfl, by decide +kernel, by decide +kernel, by decide +kernel, rfl⟩,
   ⟨3, st (at_ 390625000000 (((c0.wr Reg.REF_CFG_RANK 1 8).wr Reg.REF_CFG_LANE 3 8).flag Reg.PORT_STATUS_LINK_UP true 3)), _, _, _, rfl, rfl, rfl,
     by decide +kernel⟩,
   ⟨3, st (at_ 390625000000 ((c0.flag Reg.PORT_CFG_SYNCE_TX true 3).flag Reg.PORT_STATUS_LINK_UP true 3)), _, _, _, rfl, rfl, rfl, by decide +kernel⟩⟩

theorem witness_FabricAndCoalescer :
    (∃ (s : State) (p : Fin 512), s.chip.fabPort p = true ∧ s.chip.linkUp p = true ∧
      ((s.chip.hello p).sent = false ∨ (s.chip.hello p).sentAt + s.chip.helloTime ≤ s.chip.now)) ∧
    (∃ (s : State) (p : Fin 512), s.chip.fabPort p = true ∧ s.chip.linkUp p = true ∧
      ∃ (b : Bytes) (v : Nat) (g : Nat) (ok : Bool) (c1 : Chip) (c2 : Chip), v = natAt b 0 32 ∧
      ok = (Lay.HEL_FABRIC_ID.get v == s.chip.rd Reg.FAB_CFG_FABRIC_ID && Lay.HEL_HELLO_MS.get v == s.chip.rd Reg.FAB_CFG_HELLO_MS && Lay.HEL_HEARD.get v == 1 && Lay.HEL_HEARD_SERIAL.get v == s.chip.serial) ∧
      (c1 = (s.chip.updHello p fun h => { h with heard := true, heardAt := s.chip.now, good := (if ok then h.good + 1 else 0), serial := Lay.HEL_SERIAL.get v, credit := Lay.HEL_CREDIT.get v == 1 }).updPort p (fun y => { y with peerEidle := Lay.HEL_EIDLE_EN.get v == 1, peerAt := s.chip.now })) ∧
      s.chip.on Reg.PORT_CFG_EIDLE_EN p = false ∧
      c2 = (c1.wr Reg.FAB_PORT_STATUS_PEER_ID (Lay.HEL_DEV_ID.get v) p).wr Reg.FAB_PORT_STATUS_PEER_PORT (Lay.HEL_SEND_PORT.get v) p ∧
      g = (c2.hello p).good ∧ c2.isoCause v ≠ 0) ∧
    (∃ (s : State) (p : Fin 512), s.chip.fabPort p = true ∧ s.chip.linkUp p = true ∧
      ∃ (b : Bytes) (v : Nat) (g : Nat) (ok : Bool) (c1 : Chip) (c2 : Chip), v = natAt b 0 32 ∧
      ok = (Lay.HEL_FABRIC_ID.get v == s.chip.rd Reg.FAB_CFG_FABRIC_ID && Lay.HEL_HELLO_MS.get v == s.chip.rd Reg.FAB_CFG_HELLO_MS && Lay.HEL_HEARD.get v == 1 && Lay.HEL_HEARD_SERIAL.get v == s.chip.serial) ∧
      (c1 = (s.chip.updHello p fun h => { h with heard := true, heardAt := s.chip.now, good := (if ok then h.good + 1 else 0), serial := Lay.HEL_SERIAL.get v, credit := Lay.HEL_CREDIT.get v == 1 }).updPort p (fun y => { y with peerEidle := Lay.HEL_EIDLE_EN.get v == 1, peerAt := s.chip.now })) ∧
      s.chip.on Reg.PORT_CFG_EIDLE_EN p = false ∧
      c2 = (c1.wr Reg.FAB_PORT_STATUS_PEER_ID (Lay.HEL_DEV_ID.get v) p).wr Reg.FAB_PORT_STATUS_PEER_PORT (Lay.HEL_SEND_PORT.get v) p ∧
      g = (c2.hello p).good ∧ c2.isoCause v = 0 ∧ (c2.rd Reg.FAB_PORT_STATUS_LINK p = 3 ∨ c2.rd Reg.FAB_PORT_STATUS_LINK p = 0)) ∧
    (∃ (s : State) (p : Fin 512), s.chip.fabPort p = true ∧ s.chip.linkUp p = true ∧
      ∃ (b : Bytes) (v : Nat) (g : Nat) (ok : Bool) (c1 : Chip) (c2 : Chip), v = natAt b 0 32 ∧
      ok = (Lay.HEL_FABRIC_ID.get v == s.chip.rd Reg.FAB_CFG_FABRIC_ID && Lay.HEL_HELLO_MS.get v == s.chip.rd Reg.FAB_CFG_HELLO_MS && Lay.HEL_HEARD.get v == 1 && Lay.HEL_HEARD_SERIAL.get v == s.chip.serial) ∧
      (c1 = (s.chip.updHello p fun h => { h with heard := true, heardAt := s.chip.now, good := (if ok then h.good + 1 else 0), serial := Lay.HEL_SERIAL.get v, credit := Lay.HEL_CREDIT.get v == 1 }).updPort p (fun y => { y with peerEidle := Lay.HEL_EIDLE_EN.get v == 1, peerAt := s.chip.now })) ∧
      s.chip.on Reg.PORT_CFG_EIDLE_EN p = false ∧
      c2 = (c1.wr Reg.FAB_PORT_STATUS_PEER_ID (Lay.HEL_DEV_ID.get v) p).wr Reg.FAB_PORT_STATUS_PEER_PORT (Lay.HEL_SEND_PORT.get v) p ∧
      g = (c2.hello p).good ∧ c2.isoCause v = 0 ∧ c2.rd Reg.FAB_PORT_STATUS_LINK p = 1 ∧ 3 ≤ g) ∧
    (∃ (s : State) (p : Fin 512), s.chip.fabPort p = true ∧ s.chip.linkUp p = true ∧
      ∃ (b : Bytes) (v : Nat) (g : Nat) (ok : Bool) (c1 : Chip) (c2 : Chip), v = natAt b 0 32 ∧
      ok = (Lay.HEL_FABRIC_ID.get v == s.chip.rd Reg.FAB_CFG_FABRIC_ID && Lay.HEL_HELLO_MS.get v == s.chip.rd Reg.FAB_CFG_HELLO_MS && Lay.HEL_HEARD.get v == 1 && Lay.HEL_HEARD_SERIAL.get v == s.chip.serial) ∧
      (c1 = (s.chip.updHello p fun h => { h with heard := true, heardAt := s.chip.now, good := (if ok then h.good + 1 else 0), serial := Lay.HEL_SERIAL.get v, credit := Lay.HEL_CREDIT.get v == 1 }).updPort p (fun y => { y with peerEidle := Lay.HEL_EIDLE_EN.get v == 1, peerAt := s.chip.now })) ∧
      s.chip.on Reg.PORT_CFG_EIDLE_EN p = false ∧
      c2 = (c1.wr Reg.FAB_PORT_STATUS_PEER_ID (Lay.HEL_DEV_ID.get v) p).wr Reg.FAB_PORT_STATUS_PEER_PORT (Lay.HEL_SEND_PORT.get v) p ∧
      g = (c2.hello p).good ∧ c2.isoCause v = 0 ∧ (c2.rd Reg.FAB_PORT_STATUS_LINK p = 2 ∨ c2.rd Reg.FAB_PORT_STATUS_LINK p = 1 ∧ g < 3)) ∧
    (∃ (s : State) (p : Fin 512), s.chip.fabPort p = true ∧ s.chip.rd Reg.FAB_PORT_STATUS_LINK p ≠ 0 ∧
      (s.chip.hello p).heardAt + 3 * s.chip.helloTime ≤ s.chip.now) ∧
    (∃ (s : State) (n : Nat) (c1 : Chip), s.chip.fabOn = true ∧ s.chip.fab.sentAt + s.chip.helloTime ≤ s.chip.now ∧
      (n = (if s.chip.fab.sent = none then 0 else (s.chip.fab.seq + 1) % 2 ^ 32)) ∧
      (c1 = { s.chip with fab := { s.chip.fab with seq := n, sentAt := s.chip.now } })) ∧
    (∃ (s : State) (p : Fin 512) (b : Bytes) (r : FabRec), s.chip.fabUp p = true ∧ r = recOf b s.chip.now ∧ r.serial ≠ s.chip.serial ∧
      (s.chip.fab.recs.find? (fun x => x.serial == r.serial) = none) ∧ Lay.REC_FABRIC_ID.get (natAt b 0 32) = s.chip.rd Reg.FAB_CFG_FABRIC_ID) ∧
    (∃ (s : State) (y : Chip), s.chip.fabOn = true ∧
      (y = s.chip.lostNodes ((((({ s.chip with fab := { s.chip.fab with graph := s.chip.database } } : Chip).showNodes).idConflict).tooDeep).pinsIdle).showTree)) ∧
    (∃ (s : State) (p : Fin 512), s.chip.fabUp p = true ∧ s.chip.rd Reg.FC_CFG_FC_MODE p = 3 ∧
      SMap.get s.chip.path.credAt p + unitsMs 1 ≤ s.chip.now) ∧
    (∃ (s : State) (p : Fin 512), s.chip.fabUp p = true ∧ ∃ (b : Bytes), natAt b 0 1 = s.chip.rd Reg.FAB_PORT_STATUS_LINK_EPOCH p) ∧
    (∃ (s : State) (q : Fin 4096) (id : Nat) (k : Nat) (f : Frame) (y : Tgt), s.chip.head q = some (id, k) ∧ s.chip.frameOf id = some f ∧
      s.chip.tgtOf id k = some y ∧ s.chip.credited y.port (q % 8) = true ∧ f.res = 1 ∧ s.chip.credit y.port (q % 8) < cellsOf (y.body.length + 4) ∧
      y.headAt + unitsMs (s.chip.rd Reg.FAB_PORT_CFG_CREDIT_WD y.port) ≤ s.chip.now) ∧
    (∃ (s : State) (ev : Nat) (cls : Nat) (g : CoalSig), (s.chip.coal.sigs.find? (fun g => g.event == ev && g.cls == cls) = some g) ∧
      g.endsAt ≤ s.chip.now ∧ g.count = 0) ∧
    (∃ (s : State) (ev : Nat) (cls : Nat) (g : CoalSig), (s.chip.coal.sigs.find? (fun g => g.event == ev && g.cls == cls) = some g) ∧
      g.endsAt ≤ s.chip.now ∧ ∃ (w : Nat) (c1 : Chip), 0 < g.count ∧ (ev == Nt.COAL_FULL && cls == Cls.DEV) = false ∧ s.chip.takeWindow ev cls = (w,
      c1)) :=
  ⟨⟨st (((c0.flag Reg.FAB_CFG_FAB_EN true).flag Reg.FAB_PORT_CFG_FAB_EN true 3).flag Reg.PORT_STATUS_LINK_UP true 3), 3, by decide +kernel⟩,
   ⟨st (((c0.flag Reg.FAB_CFG_FAB_EN true).flag Reg.FAB_PORT_CFG_FAB_EN true 3).flag Reg.PORT_STATUS_LINK_UP true 3), 3, by decide +kernel,
     by decide +kernel, bytesOfNat 32 0, _, _, _, _, _, rfl, rfl, rfl, by decide +kernel, rfl, rfl, by decide +kernel⟩,
   ⟨st { (((c0.flag Reg.FAB_CFG_FAB_EN true).flag Reg.FAB_PORT_CFG_FAB_EN true 3).flag Reg.PORT_STATUS_LINK_UP true 3) with fab := { hello := [(3, { good := 2 })] } },
     3, by decide +kernel, by decide +kernel,
     bytesOfNat 32 (Lay.HEL_SERIAL.put 77 + Lay.HEL_ID_VALID.put 1 + Lay.HEL_FABRIC_ID.put (c0.rd Reg.FAB_CFG_FABRIC_ID) + Lay.HEL_HELLO_MS.put (c0.rd Reg.FAB_CFG_HELLO_MS) + Lay.HEL_HEARD.put 1 + Lay.HEL_HEARD_SERIAL.put c0.serial),
     _, _, _, _, _, rfl, rfl, rfl, by decide +kernel, rfl, rfl, by decide +kernel⟩,
   ⟨st { ((((c0.flag Reg.FAB_CFG_FAB_EN true).flag Reg.FAB_PORT_CFG_FAB_EN true 3).flag Reg.PORT_STATUS_LINK_UP true 3).wr Reg.FAB_PORT_STATUS_LINK 1 3) with fab := { hello := [(3, { good := 2 })] } },
     3, by decide +kernel, by decide +kernel,
     bytesOfNat 32 (Lay.HEL_SERIAL.put 77 + Lay.HEL_ID_VALID.put 1 + Lay.HEL_FABRIC_ID.put (c0.rd Reg.FAB_CFG_FABRIC_ID) + Lay.HEL_HELLO_MS.put (c0.rd Reg.FAB_CFG_HELLO_MS) + Lay.HEL_HEARD.put 1 + Lay.HEL_HEARD_SERIAL.put c0.serial),
     _, _, _, _, _, rfl, rfl, rfl, by decide +kernel, rfl, rfl, by decide +kernel⟩,
   ⟨st ((((c0.flag Reg.FAB_CFG_FAB_EN true).flag Reg.FAB_PORT_CFG_FAB_EN true 3).flag Reg.PORT_STATUS_LINK_UP true 3).wr Reg.FAB_PORT_STATUS_LINK 2 3),
     3, by decide +kernel, by decide +kernel,
     bytesOfNat 32 (Lay.HEL_SERIAL.put 77 + Lay.HEL_ID_VALID.put 1 + Lay.HEL_FABRIC_ID.put (c0.rd Reg.FAB_CFG_FABRIC_ID) + Lay.HEL_HELLO_MS.put (c0.rd Reg.FAB_CFG_HELLO_MS) + Lay.HEL_HEARD.put 1 + Lay.HEL_HEARD_SERIAL.put c0.serial),
     _, _, _, _, _, rfl, rfl, rfl, by decide +kernel, rfl, rfl, by decide +kernel⟩,
   ⟨st { at_ 39062500000 ((((c0.flag Reg.FAB_CFG_FAB_EN true).flag Reg.FAB_PORT_CFG_FAB_EN true 3).flag Reg.PORT_STATUS_LINK_UP true 3).wr Reg.FAB_PORT_STATUS_LINK 1 3) with fab := { hello := [(3, { heard := true })] } },
     3, by decide +kernel⟩,
   ⟨st (at_ 39062500000 (((c0.flag Reg.FAB_CFG_FAB_EN true).flag Reg.FAB_PORT_CFG_FAB_EN true 3).flag Reg.PORT_STATUS_LINK_UP true 3)), _, _,
     by decide +kernel, by decide +kernel, rfl, rfl⟩,
   ⟨st ((((c0.flag Reg.FAB_CFG_FAB_EN true).flag Reg.FAB_PORT_CFG_FAB_EN true 3).flag Reg.PORT_STATUS_LINK_UP true 3).wr Reg.FAB_PORT_STATUS_LINK 2 3),
     3, bytesOfNat 32 (Lay.REC_SERIAL.put 77 + Lay.REC_FABRIC_ID.put (c0.rd Reg.FAB_CFG_FABRIC_ID)), _, by decide +kernel, rfl, by decide +kernel⟩,
   ⟨st (((c0.flag Reg.FAB_CFG_FAB_EN true).flag Reg.FAB_PORT_CFG_FAB_EN true 3).flag Reg.PORT_STATUS_LINK_UP true 3), _, by decide +kernel, rfl⟩,
   ⟨st (at_ 39062500000 (((((c0.flag Reg.FAB_CFG_FAB_EN true).flag Reg.FAB_PORT_CFG_FAB_EN true 3).flag Reg.PORT_STATUS_LINK_UP true 3).wr Reg.FAB_PORT_STATUS_LINK 2 3).wr Reg.FC_CFG_FC_MODE 3 3)),
     3, by decide +kernel⟩,
   ⟨st ((((c0.flag Reg.FAB_CFG_FAB_EN true).flag Reg.FAB_PORT_CFG_FAB_EN true 3).flag Reg.PORT_STATUS_LINK_UP true 3).wr Reg.FAB_PORT_STATUS_LINK 2 3),
     3, by decide +kernel, [], by decide +kernel⟩,
   ⟨st { at_ 3906250000000 ((((((c0.flag Reg.FAB_CFG_FAB_EN true).flag Reg.FAB_PORT_CFG_FAB_EN true 3).flag Reg.PORT_STATUS_LINK_UP true 3).wr Reg.FAB_PORT_STATUS_LINK 2 3).wr Reg.FC_CFG_FC_MODE 3 3).wr Reg.FC_CFG_LOSSLESS 128 3) with path := { frames := [{ id := 1, port := 1, res := 1, tgts := [{ port := 3, queue := 31, body := List.replicate 60 0#8 }] }], queues := [(31, [(1, 0)])], credSent := [(31, 2147483647)] } },
     31, 1, 0, { id := 1, port := 1, res := 1, tgts := [{ port := 3, queue := 31, body := List.replicate 60 0#8 }] },
     { port := 3, queue := 31, body := List.replicate 60 0#8 }, by decide +kernel⟩,
   ⟨st { c0 with coal := { sigs := [{ event := 3, cls := 1, window := 0, endsAt := 0 }] } }, 3, 1, { event := 3, cls := 1, window := 0, endsAt := 0 },
     by decide +kernel⟩,
   ⟨st { c0 with coal := { sigs := [{ event := 3, cls := 1, window := 0, endsAt := 0, count := 2 }] } }, 3, 1,
     { event := 3, cls := 1, window := 0, endsAt := 0, count := 2 }, by decide +kernel, by decide +kernel, _, _, by decide +kernel,
     by decide +kernel, rfl⟩⟩

theorem witness_LaneOperations :
    (∃ (e : Fin 64) (d : Desc) (s : State) (x : Eng) (la : Nat → Nat) (lb : Nat → Nat) (lc : Nat → Nat), s.chip.engState e ≠ 6 ∧ x = s.chip.eng e ∧
      la = x.lane d.typ d.a ∧ lb = x.lane d.typ d.b ∧ lc = x.lane d.typ d.c ∧ descFault 0x01 d = none ∧
      (s.chip.operandHeld d.addr (if d.typ.val = 3 then 64 else 32) = false)) ∧
    (∃ (e : Fin 64) (d : Desc) (s : State) (x : Eng) (la : Nat → Nat) (lb : Nat → Nat) (lc : Nat → Nat), s.chip.engState e ≠ 6 ∧ x = s.chip.eng e ∧
      la = x.lane d.typ d.a ∧ lb = x.lane d.typ d.b ∧ lc = x.lane d.typ d.c ∧ descFault 0x01 d = none ∧
      (s.chip.operandHeld d.addr (if d.typ.val = 3 then 64 else 32) = true)) ∧
    (∃ (e : Fin 64) (d : Desc) (s : State) (x : Eng) (la : Nat → Nat) (lb : Nat → Nat) (lc : Nat → Nat), s.chip.engState e ≠ 6 ∧ x = s.chip.eng e ∧
      la = x.lane d.typ d.a ∧ lb = x.lane d.typ d.b ∧ lc = x.lane d.typ d.c ∧ descFault 0x03 d = none) ∧
    (∃ (e : Fin 64) (d : Desc) (s : State) (x : Eng) (la : Nat → Nat) (lb : Nat → Nat) (lc : Nat → Nat), s.chip.engState e ≠ 6 ∧ x = s.chip.eng e ∧
      la = x.lane d.typ d.a ∧ lb = x.lane d.typ d.b ∧ lc = x.lane d.typ d.c ∧ descFault 0x04 d = none) ∧
    (∃ (e : Fin 64) (d : Desc) (s : State) (x : Eng) (la : Nat → Nat) (lb : Nat → Nat) (lc : Nat → Nat), s.chip.engState e ≠ 6 ∧ x = s.chip.eng e ∧
      la = x.lane d.typ d.a ∧ lb = x.lane d.typ d.b ∧ lc = x.lane d.typ d.c ∧ ∃ q, q ∈ [(0x20, Instr.opAdd, laneAdd d.typ (satOf d)), (0x21,
      Instr.opSub, laneSub d.typ (satOf d)), (0x22, Instr.opMul, laneMul d.typ (satOf d)), (0x24, Instr.opDiv, laneDiv d.typ), (0x27, Instr.opMin,
      laneMin d.typ), (0x28, Instr.opMax, laneMax d.typ)] ∧ descFault q.1 d = none) ∧
    (∃ (e : Fin 64) (d : Desc) (s : State) (x : Eng) (la : Nat → Nat) (lb : Nat → Nat) (lc : Nat → Nat), s.chip.engState e ≠ 6 ∧ x = s.chip.eng e ∧
      la = x.lane d.typ d.a ∧ lb = x.lane d.typ d.b ∧ lc = x.lane d.typ d.c ∧ ∃ q, q ∈ [(0x25, Instr.opNeg, laneNeg d.typ (satOf d)), (0x26,
      Instr.opAbs, laneAbs d.typ (satOf d)), (0x2A, Instr.opShift, laneShift d.typ (satOf d) (bitOf d.imm 6) (d.imm % 64)), (0x2C, Instr.opSqrt,
      fpSqrt)] ∧ descFault q.1 d = none) ∧
    (∃ (e : Fin 64) (d : Desc) (s : State) (x : Eng) (la : Nat → Nat) (lb : Nat → Nat) (lc : Nat → Nat), s.chip.engState e ≠ 6 ∧ x = s.chip.eng e ∧
      la = x.lane d.typ d.a ∧ lb = x.lane d.typ d.b ∧ lc = x.lane d.typ d.c ∧ ∃ q, q ∈ [(0x23, Instr.opMac, laneMac d.typ (satOf d)), (0x29,
      Instr.opClamp, laneClamp d.typ)] ∧ descFault q.1 d = none) ∧
    (∃ (e : Fin 64) (d : Desc) (s : State) (x : Eng) (la : Nat → Nat) (lb : Nat → Nat) (lc : Nat → Nat), s.chip.engState e ≠ 6 ∧ x = s.chip.eng e ∧
      la = x.lane d.typ d.a ∧ lb = x.lane d.typ d.b ∧ lc = x.lane d.typ d.c ∧ descFault 0x2B d = none) :=
  ⟨⟨5, { addr := 0x1FFE0 }, st c0, _, _, _, _, by decide +kernel, rfl, rfl, rfl, rfl, by decide +kernel⟩,
   ⟨5, { addr := 2 ^ 31 }, st (c0.flag Reg.ARB_CFG_FREEZE true 0 64), _, _, _, _, by decide +kernel, rfl, rfl, rfl, rfl, by decide +kernel⟩,
   ⟨5, { aux := 7 }, st c0, _, _, _, _, by decide +kernel, rfl, rfl, rfl, rfl, by decide +kernel⟩,
   ⟨5, { imm := 2 ^ 24 - 1 }, st c0, _, _, _, _, by decide +kernel, rfl, rfl, rfl, rfl, by decide +kernel⟩,
   ⟨5, { dst := 31, flags := 1 }, st c0, _, _, _, _, by decide +kernel, rfl, rfl, rfl, rfl, _, .head _, by decide +kernel⟩,
   ⟨5, { a := 31, flags := 1 }, st c0, _, _, _, _, by decide +kernel, rfl, rfl, rfl, rfl, _, .head _, by decide +kernel⟩,
   ⟨5, { c := 31 }, st c0, _, _, _, _, by decide +kernel, rfl, rfl, rfl, rfl, _, .tail _ (.head _), by decide +kernel⟩,
   ⟨5, { imm := 32, typ := 3 }, st c0, _, _, _, _, by decide +kernel, rfl, rfl, rfl, rfl, by decide +kernel⟩⟩

theorem witness_PredicatesAndInputs :
    (∃ (e : Fin 64) (d : Desc) (s : State) (x : Eng) (dm : Nat), s.chip.engState e ≠ 6 ∧ x = s.chip.eng e ∧ dm = s.chip.engDom e ∧
      descFault 0x30 d = none) ∧
    (∃ (e : Fin 64) (d : Desc) (s : State) (x : Eng) (dm : Nat), s.chip.engState e ≠ 6 ∧ x = s.chip.eng e ∧ dm = s.chip.engDom e ∧ ∃ q, q ∈ [(0,
      x.prd d.a &&& x.prd d.b), (1, x.prd d.a ||| x.prd d.b), (2, x.prd d.a ^^^ x.prd d.b), (3, x.prd d.a &&& (255 ^^^ x.prd d.b))] ∧
      descFault 0x31 d = none ∧ d.imm = q.1) ∧
    (∃ (e : Fin 64) (d : Desc) (s : State) (x : Eng) (dm : Nat), s.chip.engState e ≠ 6 ∧ x = s.chip.eng e ∧ dm = s.chip.engDom e ∧ ∃ (v : Nat),
      descFault 0x15 d = none ∧ x.replayed = none ∧ v = bitsOf (s.chip.dom dm).axes d.imm 8) ∧
    (∃ (e : Fin 64) (d : Desc) (s : State) (x : Eng) (dm : Nat), s.chip.engState e ≠ 6 ∧ x = s.chip.eng e ∧ dm = s.chip.engDom e ∧
      ∃ (v : Nat) (m : Nat), descFault 0x15 d = none ∧ x.replayed = some (some v) ∧ m < 8 ∧ s.chip.gatheredAxis e (d.imm + m) = false ∧
      bitOf (x.mask d) m = true ∧ 0 < d.flags.val) ∧
    (∃ (e : Fin 64) (d : Desc) (s : State) (x : Eng) (dm : Nat), s.chip.engState e ≠ 6 ∧ x = s.chip.eng e ∧ dm = s.chip.engDom e ∧
      ∃ (a : Nat) (diff : Int), descFault 0x12 d = none ∧ a = bitsOf (x.reg d.a) 0 96 ∧ diff = ((timeOf96 a : Int) - s.chip.engTk e) * 65536) ∧
    (∃ (e : Fin 64) (d : Desc) (s : State) (x : Eng) (dm : Nat), s.chip.engState e ≠ 6 ∧ x = s.chip.eng e ∧ dm = s.chip.engDom e ∧
      ∃ (i : Nat) (a : Nat) (g : GIn), descFault 0x10 d = none ∧ a = cycAddr d.addr ∧ s.chip.bankHeld a = false ∧ s.chip.entryAt dm a = some i ∧
      g = s.chip.gin dm i ∧ s.chip.rd Reg.GATHER_LIST_SRC dm i = 0 ∧ g.st ≠ .none) ∧
    (∃ (e : Fin 64) (d : Desc) (s : State) (x : Eng) (dm : Nat), s.chip.engState e ≠ 6 ∧ x = s.chip.eng e ∧ dm = s.chip.engDom e ∧
      ∃ (i : Nat) (a : Nat) (g : GIn), descFault 0x10 d = none ∧ a = cycAddr d.addr ∧ s.chip.bankHeld a = false ∧ s.chip.entryAt dm a = some i ∧
      g = s.chip.gin dm i ∧ s.chip.rd Reg.GATHER_LIST_SRC dm i = 2) ∧
    (∃ (e : Fin 64) (d : Desc) (s : State) (x : Eng) (dm : Nat), s.chip.engState e ≠ 6 ∧ x = s.chip.eng e ∧ dm = s.chip.engDom e ∧ ∃ (a : Nat),
      descFault 0x11 d = none ∧ a = cycAddr d.addr ∧ s.chip.bankHeld a = false ∧ s.chip.seqReady e a = 1) ∧
    (∃ (e : Fin 64) (d : Desc) (s : State) (x : Eng) (dm : Nat), s.chip.engState e ≠ 6 ∧ x = s.chip.eng e ∧ dm = s.chip.engDom e ∧
      ∃ (m : Nat) (l : List Nat) (b : Bytes), descFault 0x13 d = none ∧ x.replayed = none ∧ x.mbx = m :: l ∧ b = bytesOfNat 64 m) ∧
    (∃ (e : Fin 64) (d : Desc) (s : State) (x : Eng) (dm : Nat), s.chip.engState e ≠ 6 ∧ x = s.chip.eng e ∧ dm = s.chip.engDom e ∧ ∃ (v : Nat),
      descFault 0x14 d = none ∧ x.replayed = none ∧ bitOf (s.chip.rd Reg.CNT_RIGHTS (256 + e.val)) (d.imm % 128) = true ∧
      (v = (if d.flags.val % 2 = 1 then s.chip.rd Reg.CNT_SNAP_VALUE (d.imm % 128) (d.imm / 128 % 8) else s.chip.rd Reg.CNT_VALUE_VALUE (d.imm % 128) (d.imm / 128 % 8)))) :=
  ⟨⟨5, { flags := 1 }, st c0, _, _, by decide +kernel, rfl, rfl, by decide +kernel⟩,
   ⟨5, { flags := 7, a := 7, b := 7 }, st c0, _, _, by decide +kernel, rfl, rfl, _, .head _, by decide +kernel⟩,
   ⟨5, { flags := 1, imm := 1016 }, st c0, _, _, by decide +kernel, rfl, rfl, _, by decide +kernel, by decide +kernel, rfl⟩,
   ⟨5, { flags := 1, imm := 1016 }, st { c0 with drum := { eng := [(5, { replay := [(0, some 3)] })] } }, _, _, by decide +kernel, rfl, rfl, 3, 7,
     by decide +kernel⟩,
   ⟨5, { typ := 3, flags := 1 }, st c0, _, _, by decide +kernel, rfl, rfl, _, _, by decide +kernel, rfl, rfl⟩,
   ⟨5, { addr := 2 ^ 31 },
     st { ((c0.flag Reg.GATHER_LIST_VALID true 0 7).wr Reg.GATHER_LIST_SRC 0 0 7) with drum := { dom := [(0, { ins := [(7, { st := .pending })] })] } },
     _, _, by decide +kernel, rfl, rfl, 7, _, _, by decide +kernel, rfl, by decide +kernel, by decide +kernel, rfl, by decide +kernel⟩,
   ⟨5, { addr := 2 ^ 31 }, st ((c0.flag Reg.GATHER_LIST_VALID true 0 7).wr Reg.GATHER_LIST_SRC 2 0 7), _, _, by decide +kernel, rfl, rfl, 7, _, _,
     by decide +kernel, rfl, by decide +kernel, by decide +kernel, rfl, by decide +kernel⟩,
   ⟨5, { addr := 2 ^ 31 }, st { c0 with drum := { tags := [(0, 65535)] } }, _, _, by decide +kernel, rfl, rfl, _, by decide +kernel, rfl,
     by decide +kernel⟩,
   ⟨5, { typ := 0 }, st { c0 with drum := { eng := [(5, { mbx := [9] })] } }, _, _, by decide +kernel, rfl, rfl, 9, [], _, by decide +kernel,
     by decide +kernel, by decide +kernel, rfl⟩,
   ⟨5, { typ := 3 }, st (c0.wr Reg.CNT_RIGHTS 1 261), _, _, by decide +kernel, rfl, rfl, _, by decide +kernel, by decide +kernel, by decide +kernel,
     rfl⟩⟩

theorem witness_MotionOperations :
    (∃ (e : Fin 64) (d : Desc) (s : State) (x : Eng) (k : Nat) (per : Nat) (pa : Nat) (pick : (Nat → Nat → Nat) → Nat → Nat → Nat → Nat),
      s.chip.engState e ≠ 6 ∧ x = s.chip.eng e ∧ k = s.chip.engK e ∧ per = s.chip.engPeriod e ∧ pa = locAddr d.aux ∧
      (pick = (fun old r i v => if x.active d i then v else old r i)) ∧ ∃ (o : Nat) (old : Nat → Nat → Nat) (new : Nat → Int × Int × Nat),
      descFault 0x40 d = none ∧ o = oldHalf k d.addr 192 ∧ (old = (fun r i => x.q (o + 64 * r + 8 * i))) ∧
      (new = (fun i => vmasterLane per (signed 64 (x.lane 3 d.a i)) (signed 64 (x.lane 3 d.b i)) (signed 64 (old 0 i)) (signed 64 (old 1 i)) (old 2 i)))) ∧
    (∃ (e : Fin 64) (d : Desc) (s : State) (x : Eng) (k : Nat) (per : Nat) (pa : Nat) (pick : (Nat → Nat → Nat) → Nat → Nat → Nat → Nat),
      s.chip.engState e ≠ 6 ∧ x = s.chip.eng e ∧ k = s.chip.engK e ∧ per = s.chip.engPeriod e ∧ pa = locAddr d.aux ∧
      (pick = (fun old r i v => if x.active d i then v else old r i)) ∧
      ∃ (o : Nat) (anch : Nat) (old : Nat → Nat → Nat) (new : Nat → Nat × Nat × Nat × Nat), descFault 0x41 d = none ∧ o = oldHalf k d.addr 256 ∧
      (anch = (if d.flags.val = 0 then 0 else x.prd d.flags)) ∧ (old = (fun r i => x.q (o + 64 * r + 8 * i))) ∧
      (new = (fun i => gearLane (anch.testBit i) (signed 32 (x.w (pa + 4 * i))) (x.w (pa + 32 + 4 * i)) (x.lane 3 d.a i) (old 0 i) (old 1 i) (old 2 i) (old 3 i)))) ∧
    (∃ (e : Fin 64) (d : Desc) (s : State) (x : Eng) (k : Nat) (per : Nat) (pa : Nat) (pick : (Nat → Nat → Nat) → Nat → Nat → Nat → Nat),
      s.chip.engState e ≠ 6 ∧ x = s.chip.eng e ∧ k = s.chip.engK e ∧ per = s.chip.engPeriod e ∧ pa = locAddr d.aux ∧
      (pick = (fun old r i v => if x.active d i then v else old r i)) ∧ ∃ (entry : Nat → Nat) (used : List Nat), descFault 0x42 d = none ∧
      (entry = (fun i => x.w (pa + 4 * i))) ∧ (used = (List.range 8).filter (fun i => x.active d i && entry i != 0)) ∧
      (used.findSome? (fun i => x.camFault (entry i)) = none)) ∧
    (∃ (e : Fin 64) (d : Desc) (s : State) (x : Eng) (k : Nat) (per : Nat) (pa : Nat) (pick : (Nat → Nat → Nat) → Nat → Nat → Nat → Nat),
      s.chip.engState e ≠ 6 ∧ x = s.chip.eng e ∧ k = s.chip.engK e ∧ per = s.chip.engPeriod e ∧ pa = locAddr d.aux ∧
      (pick = (fun old r i v => if x.active d i then v else old r i)) ∧
      ∃ (o : Nat) (old : Nat → Nat) (new : Nat → Nat) (tau : Int) (lim : Int) (on : Nat → Bool), descFault 0x43 d = none ∧ o = oldHalf k d.addr 64 ∧
      (old = (fun i => x.q (o + 8 * i))) ∧ tau = signed 64 (x.lane 3 d.a 0) ∧ lim = per * 2 ^ 32 ∧
      (on = (fun i => x.active d i && decide (-lim ≤ tau) && decide (tau ≤ lim))) ∧
      (new = (fun i => if on i then encS 64 (registLane per tau (signed 64 (x.lane 3 d.b i)) (signed 64 (x.lane 3 d.c i)) (signed 64 (x.q (pa + 32 * i))) (signed 64 (x.q (pa + 32 * i + 8))) (signed 32 (x.w (pa + 32 * i + 16))) (signed 64 (x.q (pa + 32 * i + 24))) (signed 64 (old i)) (Config.registZero s.chip.free).toInt) else old i))) ∧
    (∃ (e : Fin 64) (d : Desc) (s : State) (x : Eng) (k : Nat) (per : Nat) (pa : Nat) (pick : (Nat → Nat → Nat) → Nat → Nat → Nat → Nat),
      s.chip.engState e ≠ 6 ∧ x = s.chip.eng e ∧ k = s.chip.engK e ∧ per = s.chip.engPeriod e ∧ pa = locAddr d.aux ∧
      (pick = (fun old r i v => if x.active d i then v else old r i)) ∧ ∃ (o : Nat) (old : Nat → Nat → Nat) (co : Nat → Nat → Nat) (new : Nat → Nat),
      descFault 0x44 d = none ∧ o = oldHalf k d.addr 128 ∧ (old = (fun r i => x.w (o + 32 * r + 4 * i))) ∧
      (co = (fun r i => x.w (pa + 32 * r + 4 * i))) ∧
      (new = (fun i => filtLane d.typ (co 0 i) (co 1 i) (co 2 i) (co 3 i) (co 4 i) (x.lane 0 d.a i) (old 0 i) (old 1 i) (old 2 i) (old 3 i)))) ∧
    (∃ (e : Fin 64) (d : Desc) (s : State) (x : Eng) (k : Nat) (per : Nat) (pa : Nat) (pick : (Nat → Nat → Nat) → Nat → Nat → Nat → Nat),
      s.chip.engState e ≠ 6 ∧ x = s.chip.eng e ∧ k = s.chip.engK e ∧ per = s.chip.engPeriod e ∧ pa = locAddr d.aux ∧
      (pick = (fun old r i v => if x.active d i then v else old r i)) ∧
      ∃ (o : Nat) (old : Nat → Nat → Nat) (co : Nat → Nat → Nat) (new : Nat → Nat × Nat × Nat × Nat), descFault 0x45 d = none ∧
      o = oldHalf k d.addr 96 ∧ (old = (fun r i => x.w (o + 32 * r + 4 * i))) ∧ (co = (fun r i => x.w (pa + 32 * r + 4 * i))) ∧
      (new = (fun i => pidLane (co 0 i) (co 1 i) (co 2 i) (co 3 i) (co 4 i) (co 5 i) (x.lane 2 d.a i) (x.lane 2 d.b i) (old 0 i) (old 1 i) (old 2 i)))) :=
  ⟨⟨5, { typ := 3, addr := 0x8000 }, st c0, _, _, _, _, _, by decide +kernel, rfl, rfl, rfl, rfl, rfl, _, _, _, by decide +kernel, rfl, rfl, rfl⟩,
   ⟨5, { typ := 3, addr := 0x8000, aux := 0x8200 }, st c0, _, _, _, _, _, by decide +kernel, rfl, rfl, rfl, rfl, rfl, _, _, _, _, by decide +kernel,
     rfl, rfl, rfl, rfl⟩,
   ⟨5, { typ := 3, aux := 0x8000 }, st c0, _, _, _, _, _, by decide +kernel, rfl, rfl, rfl, rfl, rfl, _, _, by decide +kernel, rfl, rfl,
     by decide +kernel⟩,
   ⟨5, { typ := 3, addr := 0x8000, aux := 0x8080 }, st c0, _, _, _, _, _, by decide +kernel, rfl, rfl, rfl, rfl, rfl, _, _, _, _, _, _,
     by decide +kernel, rfl, rfl, rfl, rfl, rfl, rfl⟩,
   ⟨5, { typ := 1, addr := 0x8000, aux := 0x8100 }, st c0, _, _, _, _, _, by decide +kernel, rfl, rfl, rfl, rfl, rfl, _, _, _, _, by decide +kernel,
     rfl, rfl, rfl, rfl⟩,
   ⟨5, { typ := 2, addr := 0x8000, aux := 0x8100 }, st c0, _, _, _, _, _, by decide +kernel, rfl, rfl, rfl, rfl, rfl, _, _, _, _, by decide +kernel,
     rfl, rfl, rfl, rfl⟩⟩

theorem witness_OutputsAndControl :
    (∃ (e : Fin 64) (d : Desc) (s : State) (x : Eng) (w : Nat), s.chip.engState e ≠ 6 ∧ x = s.chip.eng e ∧ (w = (if d.typ.val = 3 then 8 else 4)) ∧
      descFault 0x02 d = none ∧ isCyc d.addr = false) ∧
    (∃ (e : Fin 64) (d : Desc) (s : State) (x : Eng) (w : Nat), s.chip.engState e ≠ 6 ∧ x = s.chip.eng e ∧ (w = (if d.typ.val = 3 then 8 else 4)) ∧
      descFault 0x02 d = none ∧ ∃ (a : Nat), isCyc d.addr = true ∧ a = cycAddr d.addr ∧ d.typ.val ≠ 3 ∧ x.active d 0 = true ∧
      s.chip.ownsWord e a = true ∧ s.chip.bankHeld a = true) ∧
    (∃ (e : Fin 64) (d : Desc) (s : State) (x : Eng) (w : Nat), s.chip.engState e ≠ 6 ∧ x = s.chip.eng e ∧ (w = (if d.typ.val = 3 then 8 else 4)) ∧
      descFault 0x02 d = none ∧ ∃ (a : Nat), isCyc d.addr = true ∧ a = cycAddr d.addr ∧ d.typ.val ≠ 3 ∧ x.active d 0 = true ∧
      s.chip.ownsWord e a = true ∧ s.chip.bankHeld a = false) ∧
    (∃ (e : Fin 64) (d : Desc) (s : State) (x : Eng) (w : Nat), s.chip.engState e ≠ 6 ∧ x = s.chip.eng e ∧ (w = (if d.typ.val = 3 then 8 else 4)) ∧
      descFault 0x02 d = none ∧ ∃ (a : Nat), isCyc d.addr = true ∧ a = cycAddr d.addr ∧ d.typ.val ≠ 3 ∧ x.active d 0 = true ∧
      s.chip.ownsWord e a = false) ∧
    (∃ (e : Fin 64) (d : Desc) (s : State) (x : Eng) (w : Nat), s.chip.engState e ≠ 6 ∧ x = s.chip.eng e ∧ (w = (if d.typ.val = 3 then 8 else 4)) ∧
      ∃ (b : Bytes) (b' : Bytes) (m : Mem), descFault 0x50 d = none ∧ b = (x.bytes d.typ d.a).take d.imm ∧
      (b' = (if d.flags.val = 1 then revEach 4 b else if d.flags.val = 2 then revEach 8 b else b)) ∧
      m = x.storeBytes d w x.mem (locAddr d.addr) b') ∧
    (∃ (e : Fin 64) (d : Desc) (s : State) (x : Eng) (w : Nat), s.chip.engState e ≠ 6 ∧ x = s.chip.eng e ∧ (w = (if d.typ.val = 3 then 8 else 4)) ∧
      ∃ q, q ∈ [(0x51, Instr.opScatter, s.chip.template e d), (0x52, Instr.opEvtreq,
      EOut.edge d.imm (d.flags.val % 4) (s.chip.engTk e + divRoundS (signed 64 (x.lane 3 d.a 0)) (2 ^ 22) * 64) d.aux), (0x53, Instr.opVreq,
      EOut.target d.imm (signed 64 (x.lane 3 d.a 0)) d.aux d.addr), (0x54, Instr.opPost,
      EOut.post d.imm (natOfBytes (x.bytes 0 d.a ++ x.bytes 0 (d.a.val + 1))))] ∧ descFault q.1 d = none ∧ x.active d 0 = true) ∧
    (∃ (e : Fin 64) (d : Desc) (s : State) (x : Eng) (w : Nat), s.chip.engState e ≠ 6 ∧ x = s.chip.eng e ∧ (w = (if d.typ.val = 3 then 8 else 4)) ∧
      descFault 0x60 d = none ∧ x.mask d = 255) ∧
    (∃ (e : Fin 64) (d : Desc) (s : State) (x : Eng) (w : Nat), s.chip.engState e ≠ 6 ∧ x = s.chip.eng e ∧ (w = (if d.typ.val = 3 then 8 else 4)) ∧
      descFault 0x61 d = none ∧ x.active d 0 = true) ∧
    (∃ (e : Fin 64) (d : Desc) (s : State) (x : Eng) (w : Nat), s.chip.engState e ≠ 6 ∧ x = s.chip.eng e ∧ (w = (if d.typ.val = 3 then 8 else 4)) ∧
      descFault 0x00 d = none) :=
  ⟨⟨5, { addr := 0x8000 }, st c0, _, _, by decide +kernel, rfl, rfl, by decide +kernel⟩,
   ⟨5, { addr := 2 ^ 31 }, st (c0.flag Reg.ARB_CFG_FREEZE true 0 64), _, _, by decide +kernel, rfl, rfl, by decide +kernel, _, by decide +kernel, rfl,
     by decide +kernel⟩,
   ⟨5, { addr := 2 ^ 31 }, st c0, _, _, by decide +kernel, rfl, rfl, by decide +kernel, _, by decide +kernel, rfl, by decide +kernel⟩,
   ⟨5, { addr := 2 ^ 31 }, st ((c0.flag Reg.GATHER_LIST_VALID true 0 7).wr Reg.GATHER_LIST_SRC 0 0 7), _, _, by decide +kernel, rfl, rfl,
     by decide +kernel, _, by decide +kernel, rfl, by decide +kernel⟩,
   ⟨5, { addr := 0x8000, imm := 4 }, st c0, _, _, by decide +kernel, rfl, rfl, _, _, _, by decide +kernel, rfl, rfl, rfl⟩,
   ⟨5, { addr := 0x8000 }, st c0, _, _, by decide +kernel, rfl, rfl, _, .head _, by decide +kernel⟩,
   ⟨5, { imm := 1 }, st c0, _, _, by decide +kernel, rfl, rfl, by decide +kernel⟩,
   ⟨5, { typ := 0 }, st c0, _, _, by decide +kernel, rfl, rfl, by decide +kernel⟩,
   ⟨5, { typ := 0 }, st c0, _, _, by decide +kernel, rfl, rfl, by decide +kernel⟩⟩

theorem witness_CycleOfADomain :
    (∃ (s : State) (d : Fin 4) (x : Chip), s.chip.cycDue d = true ∧ x = s.chip.commitDue d ∧ x.cycDue d = true ∧ (x.dom d).busy = false) ∧
    (∃ (s : State) (d : Fin 4) (x : Chip), s.chip.cycDue d = true ∧ x = s.chip.commitDue d ∧ x.cycDue d = true ∧ (x.dom d).busy = true) ∧
    (∃ (s : State) (d : Fin 4), (s.chip.dom d).ran = true ∧ (s.chip.dom d).late = false ∧
      (s.chip.dom d).tk + (((s.chip.dom d).dIn * 65536 : Nat) : Int) ≤ s.chip.tb16) ∧
    (∃ (s : State) (e : Fin 64) (d : Desc) (c1 : Chip) (a : Nat), s.chip.engState e = 4 ∧ (s.chip.eng e).wait = some (0x11, d) ∧
      descFault 0x11 d = none ∧ a = cycAddr d.addr ∧ c1 = s.chip.setEngState e 2 ∧ c1.bankHeld a = false ∧ c1.seqReady e a = 1) ∧
    (∃ (s : State) (e : Fin 64), s.chip.engState e = 2 ∧ (s.chip.eng e).prog.descs[(s.chip.eng e).pc]? = none) ∧
    (∃ (s : State) (e : Fin 64), s.chip.engState e = 2 ∧ ∃ (w : Nat), (s.chip.eng e).prog.descs[(s.chip.eng e).pc]? = some w) ∧
    (∃ (s : State) (d : Fin 4) (ns : Nat) (c1 : Chip) (c2 : Chip) (c3 : Chip) (z : Chip) (mine : List Nat), s.chip.fenceReady d = true ∧
      ns = (((s.chip.tb16 : Int) - (s.chip.dom d).tk) / 65536).toNat ∧
      (c1 = ((s.chip.wr Reg.CD_FENCE_LAST (satU 32 ns) d).peak Reg.CD_FENCE_MAX ns d).updDom d (fun x => { x with busy := false })) ∧
      (mine = (List.range 64).filter (fun e => (c1.eng e).dom == some d.val && c1.engState e != 6)) ∧
      (c2 = c1.each mine (fun e c => (c.eng e).outs.foldl (fun c o => c.release d e o.2) c)) ∧
      (c3 = c2.each mine (fun e c => (c.updEng e fun x => { x with outs := [], saves := [], wrote := [] }).setEngState e 1)) ∧
      (z = (if c3.cdState d = 3 then (c3.setCdState d 0).releaseEngines d else c3))) ∧
    (∃ (s : State) (k : Fin 8) (y : Scat) (l : List Scat) (x : Chip), SMap.get s.chip.drum.scat k = y :: l ∧
      (x = { s.chip with drum := { s.chip.drum with scat := SMap.set s.chip.drum.scat k l } })) :=
  ⟨⟨st (run.wr Reg.CD_STATUS_STATE 2 3), 3, _, by decide +kernel, rfl, by decide +kernel⟩,
   ⟨st { (run.wr Reg.CD_STATUS_STATE 2 3) with drum := { dom := [(3, { busy := true })] } }, 3, _, by decide +kernel, rfl, by decide +kernel⟩,
   ⟨st { c0 with drum := { dom := [(3, { ran := true })] } }, 3, by decide +kernel⟩,
   ⟨st { (c0.wr Reg.ENG_STATUS_STATE 4 261) with drum := { tags := [(0, 65535)], eng := [(5, { wait := some (0x11, { addr := 2 ^ 31 }) })] } }, 5,
     { addr := 2 ^ 31 }, _, _, by decide +kernel, by decide +kernel, by decide +kernel, rfl, rfl, by decide +kernel⟩,
   ⟨st (c0.wr Reg.ENG_STATUS_STATE 2 261), 5, by decide +kernel⟩,
   ⟨st { (c0.wr Reg.ENG_STATUS_STATE 2 261) with drum := { eng := [(5, { prog := { descs := [0] } })] } }, 5, by decide +kernel, 0,
     by decide +kernel⟩,
   ⟨st { c0 with drum := { dom := [(3, { busy := true })] } }, 3, _, _, _, _, _, _, by decide +kernel, rfl, rfl, rfl, rfl, rfl, rfl⟩,
   ⟨st { c0 with drum := { scat := [(7, [{ port := 3 }])] } }, 7, { port := 3 }, [], _, by decide +kernel, rfl⟩⟩

theorem witness_BadDescriptorStops :
    ∃ (e : Fin 64) (d : Desc) (s : State) (cause : Nat) (q : Nat × (Fin 64 → Desc → Instr)), s.chip.engState e ≠ 6 ∧ descFault q.1 d = some cause ∧
      (s.chip.eng e).pc < 1024 ∧ q ∈ [(0x00, Instr.opNop), (0x01, Instr.opLoad), (0x02, Instr.opStore), (0x03, Instr.opMovi), (0x04, Instr.opShuf),
      (0x10, Instr.opGather), (0x11, Instr.opWaitseq), (0x12, Instr.opTsub), (0x13, Instr.opRecv), (0x14, Instr.opCntrd), (0x15, Instr.opAxflt),
      (0x20, Instr.opAdd), (0x21, Instr.opSub), (0x22, Instr.opMul), (0x23, Instr.opMac), (0x24, Instr.opDiv), (0x25, Instr.opNeg), (0x26,
      Instr.opAbs), (0x27, Instr.opMin), (0x28, Instr.opMax), (0x29, Instr.opClamp), (0x2A, Instr.opShift), (0x2B, Instr.opCvt), (0x2C,
      Instr.opSqrt), (0x30, Instr.opCmp), (0x31, Instr.opPlog), (0x40, Instr.opVmaster), (0x41, Instr.opGear), (0x42, Instr.opCam), (0x43,
      Instr.opRegist), (0x44, Instr.opFilt), (0x45, Instr.opPid), (0x50, Instr.opField), (0x51, Instr.opScatter), (0x52, Instr.opEvtreq), (0x53,
      Instr.opVreq), (0x54, Instr.opPost), (0x60, Instr.opSkip), (0x61, Instr.opEnd)] :=
  ⟨5, { dst := 1 }, st c0, 1, _, by decide +kernel, by decide +kernel, by decide +kernel, .head _⟩

theorem witness_ShiftMovesLanes :
    (∃ (e : Fin 64) (d : Desc) (s : State) (x : Eng) (n : Nat) (w : Nat) (z : Nat → Int), s.chip.engState e ≠ 6 ∧ x = s.chip.eng e ∧ n = d.imm % 64 ∧
      (w = (if d.typ.val = 3 then 64 else 32)) ∧ (z = (fun i => signed w (x.lane d.typ d.a i))) ∧ w ≤ n) ∧
    (∃ (e : Fin 64) (d : Desc) (s : State) (x : Eng) (n : Nat) (w : Nat) (z : Nat → Int), s.chip.engState e ≠ 6 ∧ x = s.chip.eng e ∧ n = d.imm % 64 ∧
      (w = (if d.typ.val = 3 then 64 else 32)) ∧ (z = (fun i => signed w (x.lane d.typ d.a i))) ∧ descFault 0x2A d = none) :=
  ⟨⟨5, { imm := 32 }, st c0, _, _, _, _, by decide +kernel, rfl, rfl, rfl, rfl, by decide +kernel⟩,
   ⟨5, { imm := 31, flags := 1 }, st c0, _, _, _, _, by decide +kernel, rfl, rfl, rfl, rfl, by decide +kernel⟩⟩

/-! ### The checks of WellFormed each refuse a term -/

theorem test_wf_accepts : (Instr.nop rq).wf = true ∧ (Instr.tblInsert rq 6 (2 ^ 520 - 1) none).wf = true ∧
    (Instr.hifRegWrite 0x108 4 (some 1)).wf = true ∧ (Instr.opNop 0 {}).wf = true := by decide +kernel

/-- A key slot that is neither 0 to 31 nor 255, and a TXN_ID or SEQUENCE past 32 bits (R350). -/
theorem test_wf_request : (Instr.nop { rq with slot := 32 }).wf = false ∧ (Instr.nop { rq with txn := 2 ^ 32 }).wf = false ∧
    (Instr.nop { rq with seq := 2 ^ 32 }).wf = false ∧ (Instr.nop { rq with slot := 255 }).wf = true := by decide +kernel

/-- IMM, ADDR or AUX past its width (R279). -/
theorem test_wf_descriptor : (Instr.opShuf 0 { imm := 2 ^ 24 }).wf = false ∧ (Instr.opLoad 0 { addr := 2 ^ 32 }).wf = false ∧
    (Instr.opMovi 0 { aux := 2 ^ 32 }).wf = false := by decide +kernel

/-- A frame of no byte. -/
theorem test_wf_frame : (Instr.rxFrameStart 0 .express [] {} 0).wf = false := by decide +kernel

/-- An access of 3 bytes, an unaligned one, one past BAR0, a value wider than the access (R366). -/
theorem test_wf_access : ∀ i ∈ [Instr.hifRegWrite 0 3 none, .hifRegWrite 2 4 (some 0), .hifRegWrite 1048576 4 none, .hifRegWrite 0 1 (some 256)], i.wf = false := by
  decide +kernel

/-- An operand wider than its TLV field (R396), of every packet command that has one. -/
theorem test_wf_tlvs : ∀ i ∈ [Instr.objRead rq [{ obj := 2 ^ 32, elem := none }],
      .objWrite rq [{ obj := 2 ^ 32, elem := none, value := [], mask := none }], .objReadBulk rq (2 ^ 32) none,
      .txnCommit rq 256 false 0 none, .tblInsert rq 256 0 none, .tblInsert rq 0 (2 ^ 520) none, .tblDelete rq 256 (.index 0),
      .tblLookup rq 256 (.index 0), .tblDma rq 256 0 0 0 false false none, .tblDma rq 0 (2 ^ 64) 0 0 false false none,
      .tblDma rq 0 0 (2 ^ 32) 0 false false none, .tblDma rq 0 0 0 (2 ^ 32) false false none, .queueFlush rq false 8192,
      .timeIncr rq (2 ^ 32) 0 0, .timeIncr rq 0 (2 ^ 32) 0, .timeIncr rq 0 0 (2 ^ 32), .refForce rq false 8 0, .refForce rq false 0 32,
      .jumpAccept rq 65536 0, .jumpAccept rq 0 256, .cycSwap rq (2 ^ 64), .jrnRead rq (2 ^ 64) 0, .jrnRead rq 0 256,
      .jrnMark rq (2 ^ 32) [], .twinPromote rq (2 ^ 96) none, .twinCheckpoint rq 256 0 [], .twinCheckpoint rq 0 (2 ^ 32) []], i.wf = false := by
  decide +kernel

theorem test_wf_operands : ∀ i ∈ [Instr.fwWrite rq 16, .fwActivate rq 16, .calRun rq (2 ^ 64), .calCommit rq (2 ^ 64), .lullCtrl rq (2 ^ 32),
      .loopback rq (2 ^ 32), .diagCapture rq (2 ^ 32) none, .keyInstall rq 256 1 0 [], .keyRetire rq 0 256 0, .roleMap rq 0 0 32,
      .hifMbxAck (2 ^ 32), .evoSetLow rq 0 (2 ^ 96), .evoSetHigh rq 0 (2 ^ 96), .evoToggle rq 0 (2 ^ 96), .evoPulse rq 0 (2 ^ 96) 6,
      .evoPulse rq 0 0 (2 ^ 30), .synVreq rq 1 (2 ^ 128), .gateChangeTime 512, .gateChangeTime 1536], i.wf = false := by decide +kernel

/-! ### Known answers, from the standards the spec names -/

/-- CRC-32 of IEEE 802.3 over the nine digits. -/
theorem test_crc32 : crc32 (bytesOfNat 9 0x313233343536373839) = 0xCBF43926 := by decide +kernel

/-- SHA-256 of the three letters abc (FIPS 180-4). -/
theorem test_sha256 : sha256 (bytesOfNat 3 0x616263) = 0xba7816bf8f01cfea414140de5dae2223b00361a396177a9cb410ff61f20015ad := by decide +kernel

/-- 1 s 2 ns is 96 bits of seconds, nanoseconds and fraction (R11). -/
theorem test_time96 : time96 (1000000002 * 65536 + 3) = 2 ^ 48 + 2 * 2 ^ 16 + 3 := by decide +kernel

/-! ### One step each -/

/-- An empty queue idles. -/
theorem test_idle : step (st c0) = .next (st c0) := rfl

/-- The port of a lane reference, with an information PDU at the head of trap queue 0. -/
def esmcIn : Chip :=
  { (c0.wr Reg.REF_CFG_RANK 1 8).wr Reg.REF_CFG_LANE 3 8 with path := { queues := [(8000, [(1, 0)])], frames := [{ id := 1, port := 3, stage := 2, bytes := ethFrame 0x0180C2000002 2 none 0x8809 (esmcPdu false 4) ++ bytesOfNat 4 0 }] } }

/-- An information PDU as the block sends it is one that it takes: its QL TLV sets QL_RX (R247). -/
theorem test_esmc_taken : (match step { st esmcIn with pending := [.esmcPduRx 0] } with
    | .next t => some (t.chip.rd Reg.ESMC_STATUS_QL_RX 3)
    | _ => none) = some 4 := by decide +kernel

/-- INT32 wraps without SAT and stops at its end with it; Q1.31 always saturates (R285, R294). -/
theorem test_add_ends : laneAdd 0 false 0x7FFFFFFF 1 = 0x80000000 ∧ laneAdd 0 true 0x7FFFFFFF 1 = 0x7FFFFFFF ∧
    laneAdd 1 false 0x7FFFFFFF 1 = 0x7FFFFFFF := by decide +kernel

end Sys2Proof.Tests
end

section
/-! PROOFS. Cycle operations (13_cycle_operations.md): lane operations, SHIFT, predicates, inputs and exchange. -/

namespace Sys2Proof.CycleOps
open Sys2Proof.Machine Sys2Proof.Laws

/-! ### An operation of an engine -/

/-- An operation that goes on: its engine stands at its next descriptor. -/
theorem engOp_next (c : Chip) (e op : Nat) (d : Desc) (body : Chip → OpEnd) {c1 : Chip} (hs : c.engState e ≠ 6) (hd : descFault op d = none)
    (hb : body c = .next c1) : c.engOp e op d body = c1.updEng e fun x => { x with pc := x.pc + 1, wait := none } := by
  unfold Chip.engOp
  simp only [if_neg hs, hd, hb, Nat.add_zero]

/-- An operation that holds at a frozen bank changes nothing (R47). -/
theorem engOp_hold (c : Chip) (e op : Nat) (d : Desc) (body : Chip → OpEnd) (hs : c.engState e ≠ 6) (hd : descFault op d = none)
    (hb : body c = .hold) : c.engOp e op d body = c := by
  unfold Chip.engOp
  simp only [if_neg hs, hd, hb]

/-- An operation that changes only its engine, as a command: it completes, and the engine stands as `f` makes it, at its next descriptor. -/
theorem engineOp_completes {i : Instr} {s : State} {g : Chip → Chip} {e op : Nat} {d : Desc} {y : Eng} (f : Eng → Eng) (hi : exec i s = onChip g s)
    (hg : g s.chip = s.chip.engReg e op d f) (hs : s.chip.engState e ≠ 6) (hd : descFault op d = none)
    (hpc : y.pc = (s.chip.eng e).pc) (hy : f (s.chip.eng e) = y) :
    ∃ t, exec i s = .next t ∧ t.pending = s.pending ∧ s.chip.engDone t.chip e y := by
  refine ⟨_, hi.trans (onChip_eq g s), rfl, ?_⟩
  show s.chip.engDone (g s.chip).steady e y
  rw [hg]
  exact engReg_done_of s.chip e op d f y hs hd hpc hy

/-- A lane operation as a command: it completes, and each active lane of DST holds `f` of the engine as it stood. -/
theorem laneOp_completes {i : Instr} {s : State} {g : Chip → Chip} {e op typ : Nat} {d : Desc} (f : Eng → Nat → Nat) (hi : exec i s = onChip g s)
    (hg : g s.chip = s.chip.engReg e op d fun x => x.putLanes d typ d.dst (f x)) (hs : s.chip.engState e ≠ 6) (hd : descFault op d = none) :
    ∃ t, exec i s = .next t ∧ t.pending = s.pending ∧ s.chip.lanesDone t.chip e d typ (f (s.chip.eng e)) := by
  refine ⟨_, hi.trans (onChip_eq g s), rfl, ?_⟩
  show s.chip.lanesDone (g s.chip).steady e d typ _
  rw [hg]
  exact s.chip.engReg_lanes e op d typ f hs hd

section
variable {i : Instr} {s : State} {g : Chip → Chip} {e op : Nat} {d : Desc}

theorem lanes1_completes (f : Nat → Nat) (hi : exec i s = onChip g s) (hg : g s.chip = s.chip.engReg e op d fun x => x.lanes1 d f)
    (hs : s.chip.engState e ≠ 6) (hd : descFault op d = none) : ∃ t, exec i s = .next t ∧ t.pending = s.pending ∧
      s.chip.lanesDone t.chip e d d.typ fun k => f ((s.chip.eng e).lane d.typ d.a k) :=
  laneOp_completes (fun x k => f (x.lane d.typ d.a k)) hi hg hs hd

theorem lanes2_completes (f : Nat → Nat → Nat) (hi : exec i s = onChip g s) (hg : g s.chip = s.chip.engReg e op d fun x => x.lanes2 d f)
    (hs : s.chip.engState e ≠ 6) (hd : descFault op d = none) : ∃ t, exec i s = .next t ∧ t.pending = s.pending ∧
      s.chip.lanesDone t.chip e d d.typ fun k => f ((s.chip.eng e).lane d.typ d.a k) ((s.chip.eng e).lane d.typ d.b k) :=
  laneOp_completes (fun x k => f (x.lane d.typ d.a k) (x.lane d.typ d.b k)) hi hg hs hd

theorem lanes3_completes (f : Nat → Nat → Nat → Nat) (hi : exec i s = onChip g s) (hg : g s.chip = s.chip.engReg e op d fun x => x.lanes3 d f)
    (hs : s.chip.engState e ≠ 6) (hd : descFault op d = none) : ∃ t, exec i s = .next t ∧ t.pending = s.pending ∧
      s.chip.lanesDone t.chip e d d.typ fun k =>
        f ((s.chip.eng e).lane d.typ d.a k) ((s.chip.eng e).lane d.typ d.b k) ((s.chip.eng e).lane d.typ d.c k) :=
  laneOp_completes (fun x k => f (x.lane d.typ d.a k) (x.lane d.typ d.b k) (x.lane d.typ d.c k)) hi hg hs hd

end

/-! ### Lane operations (R290, R291, R298 to R300) -/

theorem opLoad_held (c : Chip) (e : Nat) (d : Desc) (hs : c.engState e ≠ 6) (hd : descFault 0x01 d = none)
    (hb : c.operandHeld d.addr (if d.typ.val = 3 then 64 else 32) = true) : c.opLoad e d = c :=
  engOp_hold c e 0x01 d _ hs hd (if_pos hb)

/-- Settles O53: each operation is a `putLanes` of its engine, LOAD once its bank is not frozen. -/
theorem laneOperations : Obligations.LaneOperations := by
  unfold Obligations.LaneOperations
  rintro e d s x la lb lc hs rfl rfl rfl rfl
  refine ⟨?load, ?loadHeld, ?movi, ?shuf, ?twoSources, ?oneSource, ?threeSources, ?cvt⟩
  case load => exact fun hd hb => laneOp_completes _ rfl (opLoad_reg s.chip e d hs hd hb) hs hd
  case loadHeld =>
    refine fun hd hb => ⟨_, rfl, rfl, ?_⟩
    show (s.chip.opLoad e d).steady = _
    rw [opLoad_held s.chip e d hs hd hb]
  case movi => exact fun hd => laneOp_completes (fun _ _ => _) rfl rfl hs hd
  case shuf => exact fun hd => laneOp_completes (fun x k => x.lane 0 d.a (bitsOf d.imm (3 * k) 3)) rfl rfl hs hd
  case twoSources =>
    simp only [List.forall_mem_cons]
    exact ⟨lanes2_completes _ rfl rfl hs, lanes2_completes _ rfl rfl hs, lanes2_completes _ rfl rfl hs, lanes2_completes _ rfl rfl hs,
      lanes2_completes _ rfl rfl hs, lanes2_completes _ rfl rfl hs, List.forall_mem_nil _⟩
  case oneSource =>
    simp only [List.forall_mem_cons]
    exact ⟨lanes1_completes _ rfl rfl hs, lanes1_completes _ rfl rfl hs, lanes1_completes _ rfl rfl hs, lanes1_completes _ rfl rfl hs, List.forall_mem_nil _⟩
  case threeSources =>
    simp only [List.forall_mem_cons]
    exact ⟨lanes3_completes _ rfl rfl hs, lanes3_completes _ rfl rfl hs, List.forall_mem_nil _⟩
  case cvt =>
    exact fun hd => laneOp_completes (fun x k => laneCvt (d.flags.val % 4) d.typ (d.imm % 64) (x.lane (d.flags.val % 4) d.a k)) rfl rfl hs hd

/-! ### SHIFT (R299) -/

/-- A count of the lane's width or more does not pass the checks. -/
theorem shiftCount_lt {d : Desc} (h : descFault 0x2A d = none) : d.imm % 64 < laneBits d.typ := by
  by_contra hn
  have hv : valuesOk 0x2A d = false := by simp only [valuesOk, decide_eq_false hn, Bool.false_and]
  simp [descFault, opForm, hv] at h

theorem laneBits_pos (t : Nat) : 0 < laneBits t := by
  unfold laneBits
  split <;> decide

/-- A right shift toward minus infinity stays within the lane. -/
theorem signed_shiftRight {w v : Nat} (n : Nat) (hw : 0 < w) (hv : v < 2 ^ w) :
    signed w (encS w (signed w v / (2 ^ n : Nat)) % 2 ^ w) = signed w v / (2 ^ n : Nat) := by
  obtain ⟨h1, h2⟩ := signed_bounds hw hv
  have hp : (1 : Int) ≤ (2 ^ n : Nat) := by exact_mod_cast Nat.one_le_two_pow
  refine signed_encS hw (Int.le_ediv_of_mul_le (by omega) ?_) (Int.ediv_lt_of_lt_mul (by omega) ?_)
  · nlinarith
  · nlinarith

/-- A saturated value lies within its width. -/
theorem signed_encS_satS {w : Nat} (z : Int) (hw : 0 < w) : signed w (encS w (satS w z) % 2 ^ w) = satS w z := by
  have hp : 0 < 2 ^ (w - 1) := Nat.two_pow_pos _
  exact signed_encS hw (le_max_left _ _) (by unfold satS; omega)

theorem laneInt_saturates {t : Nat} {sat : Bool} (h : t = 1 ∨ t = 0 ∧ sat = true) (z : Int) : laneInt t sat z = encS 32 (satS 32 z) := if_pos h

theorem laneInt_wraps {t : Nat} {sat : Bool} (h : t = 3 ∨ t = 0 ∧ sat = false) (z : Int) : laneInt t sat z = encS (laneBits t) z :=
  if_neg (by rcases h with rfl | ⟨rfl, rfl⟩ <;> simp)

/-- A lane operation told by the lanes that it leaves in DST. -/
theorem lanesDone_self {c t : Chip} {e typ : Nat} {d : Desc} {f : Nat → Nat} (h : c.lanesDone t e d typ f) :
    c.lanesDone t e d typ fun i => (t.eng e).lane typ d.dst i := by
  obtain ⟨hl, hrest⟩ := h
  refine ⟨fun i hi => ?_, hrest⟩
  have hli := hl i hi
  by_cases ha : (c.eng e).active d i = true
  · rw [if_pos ha] at hli ⊢
    show (t.eng e).lane typ d.dst i = (t.eng e).lane typ d.dst i % 2 ^ laneBits typ
    rw [hli, Nat.mod_mod]
  · rw [if_neg ha] at hli ⊢
    exact hli

theorem laneShift_right {t : Nat} (sat : Bool) (n : Nat) {x : Nat} (hx : x < 2 ^ laneBits t) :
    signed (laneBits t) (laneShift t sat true n x % 2 ^ laneBits t) = signed (laneBits t) x / (2 ^ n : Nat) :=
  signed_shiftRight n (laneBits_pos t) hx

theorem laneShift_left_saturates {t : Nat} {sat : Bool} (h : t = 1 ∨ t = 0 ∧ sat = true) (n x : Nat) :
    signed 32 (laneShift t sat false n x % 2 ^ laneBits t) = satS 32 (signed (laneBits t) x * (2 ^ n : Nat)) := by
  have hw : laneBits t = 32 := by rcases h with rfl | ⟨rfl, -⟩ <;> rfl
  have hl : laneShift t sat false n x = encS 32 (satS 32 (signed (laneBits t) x * (2 ^ n : Nat))) := laneInt_saturates h _
  rw [hl, hw]
  exact signed_encS_satS _ (by decide)

theorem laneShift_left_wraps {t : Nat} {sat : Bool} (h : t = 3 ∨ t = 0 ∧ sat = false) (n : Nat) {x : Nat} (hx : x < 2 ^ laneBits t) :
    laneShift t sat false n x % 2 ^ laneBits t = x * 2 ^ n % 2 ^ laneBits t := by
  have hl : laneShift t sat false n x = encS (laneBits t) (signed (laneBits t) x * (2 ^ n : Nat)) := laneInt_wraps h _
  rw [hl, signed_mod _ _ hx, Nat.mod_mod]

/-- Settles O59: the checks bound the count, and each form of the shift is an equation about one lane. -/
theorem shiftMovesLanes : Obligations.ShiftMovesLanes := by
  unfold Obligations.ShiftMovesLanes
  rintro e d s x n w z hs rfl rfl hw rfl
  obtain rfl : w = laneBits d.typ := hw
  refine ⟨fun hn hd => absurd (shiftCount_lt hd) (Nat.not_lt.2 hn), fun hd => ?_⟩
  obtain ⟨t, ht, hp, hl⟩ := lanes1_completes (i := .opShift e d) (laneShift d.typ (satOf d) (bitOf d.imm 6) (d.imm % 64)) rfl rfl hs hd
  refine ⟨t, _, ht, hp, rfl, lanesDone_self hl, fun i hi ha => ?_⟩
  have hx : (s.chip.eng e).lane d.typ d.a i < 2 ^ laneBits d.typ := lane_lt _ d d.a i
  have hv : (t.chip.eng e).lane d.typ d.dst i = _ := (hl.1 i hi).trans (if_pos ha)
  rw [hv]
  refine ⟨fun hr => ?_, fun hr h => ?_, fun hr h => ?_⟩
  · rw [hr]
    exact laneShift_right _ _ hx
  · rw [hr, laneShift_left_saturates (h.imp_right fun h => ⟨h.1, by simp [satOf, h.2]⟩)]
    rfl
  · rw [hr]
    exact laneShift_left_wraps (h.imp_right fun h => ⟨h.1, by simp [satOf, h.2]⟩) _ hx

/-! ### Predicates (R276, R285, R297, R301) -/

/-- A predicate read after a masked write: the mask's lanes take the value, the others keep theirs. -/
theorem bitOf_prd_setPrd (x : Eng) {p m : Nat} (v mask : Nat) (hp : 0 < p) (hm : m < 8) :
    bitOf ((x.setPrd p v mask).prd p) m = if bitOf mask m then bitOf v m else bitOf (x.prd p) m := by
  have hp0 : p ≠ 0 := by omega
  have hset : (x.setPrd p v mask).prd p = (x.prd p &&& (255 ^^^ mask)) ||| (v % 256 &&& mask) := by
    unfold Eng.setPrd
    rw [if_neg hp0]
    exact (if_neg hp0).trans (SMap.get_set_same _ _ _)
  have h255 : Nat.testBit 255 m = true := by
    rw [show 255 = 2 ^ 8 - 1 from rfl, Nat.testBit_two_pow_sub_one]
    exact decide_eq_true hm
  have hv : (v % 256).testBit m = v.testBit m := by
    rw [show 256 = 2 ^ 8 from rfl, Nat.testBit_mod_two_pow, decide_eq_true hm, Bool.true_and]
  unfold bitOf
  rw [hset, Nat.testBit_or, Nat.testBit_and, Nat.testBit_and, Nat.testBit_xor, h255, hv]
  cases mask.testBit m <;> simp

/-- Setting other bits leaves a bit alone. -/
theorem testBit_setBit_ne (v : Nat) {i m : Nat} (h : m ≠ i) : (setBit v i).testBit m = v.testBit m := by
  unfold setBit
  rw [Nat.testBit_or, Nat.one_shiftLeft, Nat.testBit_two_pow_of_ne (Ne.symm h), Bool.or_false]

/-- Bits set where a condition holds: a bit whose condition fails keeps what it held. -/
theorem testBit_foldl_setBit (q : Nat → Bool) {m : Nat} (hq : q m = false) (l : List Nat) (v : Nat) :
    (l.foldl (fun a i => if q i then setBit a i else a) v).testBit m = v.testBit m := by
  induction l generalizing v with
  | nil => rfl
  | cons i l ih =>
    rw [List.foldl_cons, ih]
    by_cases hi : q i = true
    · rw [if_pos hi]
      exact testBit_setBit_ne v (by rintro rfl; simp [hq] at hi)
    · rw [if_neg hi]

theorem setAll_pc (x : Eng) (p : Nat) (b : Bool) : (x.setAll p b).pc = x.pc := Eng.setPrd_pc x p _ _

/-- At its first execution AXFLT gives the bits of AXIS_FAULT as they stand, and keeps them. -/
theorem opAxflt_first (c : Chip) (e : Nat) (d : Desc) (h : (c.eng e).replayed = none) : c.opAxflt e d = c.engReg e 0x15 d fun x =>
    { x with replay := if x.replayed.isSome then x.replay else x.replay ++ [(x.pc, some (bitsOf (c.dom (c.engDom e)).axes d.imm 8))] }.setPrd
      d.flags (bitsOf (c.dom (c.engDom e)).axes d.imm 8) (x.mask d) := by
  unfold Chip.opAxflt
  rw [h]

/-- The value of AXFLT in a rerun: what it gave before (R285), with the bits of the axes gathered before it that fail now. -/
def axfltAgain (c : Chip) (e : Nat) (d : Desc) (v : Nat) : Nat :=
  (List.range 8).foldl (fun a i => if c.gatheredAxis e (d.imm + i) && bitOf (bitsOf (c.dom (c.engDom e)).axes d.imm 8) i then setBit a i else a) v

theorem opAxflt_again (c : Chip) (e : Nat) (d : Desc) (v : Nat) (h : (c.eng e).replayed = some (some v)) :
    c.opAxflt e d = c.engReg e 0x15 d fun x =>
      { x with replay := if x.replayed.isSome then x.replay else x.replay ++ [(x.pc, some (axfltAgain c e d v))] }.setPrd
        d.flags (axfltAgain c e d v) (x.mask d) := by
  unfold Chip.opAxflt
  rw [h]
  rfl

/-- An axis that is not gathered before AXFLT reads again as it read at first. -/
theorem bitOf_axfltAgain (c : Chip) (e : Nat) (d : Desc) (v : Nat) {m : Nat} (h : c.gatheredAxis e (d.imm + m) = false) :
    bitOf (axfltAgain c e d v) m = bitOf v m :=
  testBit_foldl_setBit _ (by rw [h, Bool.false_and]) _ v

/-! ### Inputs and exchange (R292 to R296) -/

/-- A gathered frame input: at a save point, word 1 of a pending frame, else word 0. -/
theorem opGather_frame (c : Chip) (e i : Nat) (d : Desc) (hs : c.engState e ≠ 6) (hd : descFault 0x10 d = none)
    (hb : c.bankHeld (cycAddr d.addr) = false) (hi : c.entryAt (c.engDom e) (cycAddr d.addr) = some i)
    (hsrc : c.rd Reg.GATHER_LIST_SRC (c.engDom e) i = 0) (hg : (c.gin (c.engDom e) i).st ≠ .none) :
    c.opGather e d = c.engReg e 0x10 d fun x => (x.save (some i) none).takeWord d
      (if (c.gin (c.engDom e) i).st = .pending then c.cycWord (cycAddr d.addr + 32) else c.cycWord (cycAddr d.addr))
      ((c.gin (c.engDom e) i).st != .faulted) ((c.gin (c.engDom e) i).st == .pending || (c.gin (c.engDom e) i).st == .confirmed) := by
  refine c.engOp_reg e 0x10 d _ _ hs hd ?_
  simp only [hi, hb, hsrc, if_neg hg, Bool.false_eq_true, if_false, if_true, Chip.updEng_updEng]

/-- A gathered position input: word 1. -/
theorem opGather_position (c : Chip) (e i : Nat) (d : Desc) (hs : c.engState e ≠ 6) (hd : descFault 0x10 d = none)
    (hb : c.bankHeld (cycAddr d.addr) = false) (hi : c.entryAt (c.engDom e) (cycAddr d.addr) = some i)
    (hsrc : c.rd Reg.GATHER_LIST_SRC (c.engDom e) i = 2) :
    c.opGather e d = c.engReg e 0x10 d fun x => x.takeWord d (c.cycWord (cycAddr d.addr + 32)) true true := by
  refine c.engOp_reg e 0x10 d _ _ hs hd ?_
  simp [hi, hb, hsrc]

/-- A word tagged for the cycle: loaded at a save point. -/
theorem opWaitseq_ready (c : Chip) (e : Nat) (d : Desc) (hs : c.engState e ≠ 6) (hd : descFault 0x11 d = none)
    (hb : c.bankHeld (cycAddr d.addr) = false) (hr : c.seqReady e (cycAddr d.addr) = 1) :
    c.opWaitseq e d = c.engReg e 0x11 d fun x => (x.save none (some (cycAddr d.addr))).takeWord d (c.cycWord (cycAddr d.addr)) true true := by
  refine c.engOp_reg e 0x11 d _ _ hs hd ?_
  simp [hb, hr, Chip.updEng_updEng]

/-- A counter read at its first execution, with the right to it: the live value, or with FLAGS[0] the snapshot's. -/
theorem opCntrd_first (c : Chip) (e : Nat) (d : Desc) (hs : c.engState e ≠ 6) (hd : descFault 0x14 d = none) (hr : (c.eng e).replayed = none)
    (hright : bitOf (c.rd Reg.CNT_RIGHTS (256 + e)) (d.imm % 128) = true) {v : Nat}
    (hv : v = if d.flags.val % 2 = 1 then c.rd Reg.CNT_SNAP_VALUE (d.imm % 128) (d.imm / 128 % 8) else c.rd Reg.CNT_VALUE_VALUE (d.imm % 128) (d.imm / 128 % 8)) :
    c.opCntrd e d = c.engReg e 0x14 d fun x =>
      ({ x with replay := x.replay ++ [(x.pc, some v)] } : Eng).putLanes d 3 d.dst fun i => if i = 0 then v else 0 := by
  refine c.engOp_reg e 0x14 d _ _ hs hd ?_
  simp only [hr, hright, Bool.not_true, Bool.false_eq_true, if_false, ← hv, Chip.updEng_updEng]

/-- RECV takes message m: it leaves the mailbox and is kept for a rerun (R285). -/
def recvTake (m : Nat) (x : Eng) : Eng := { x with mbx := x.mbx.drop 1, replay := x.replay ++ [(x.pc, some m)] }

/-- The message in the pair DST, and its predicate set (R295). -/
def recvPut (d : Desc) (m : Nat) (x : Eng) : Eng :=
  ((x.putBytes d 0 d.dst ((bytesOfNat 64 m).take 32)).putBytes d 0 (d.dst.val + 1) ((bytesOfNat 64 m).drop 32)).setAll d.flags true

theorem recvPut_pc (d : Desc) (m : Nat) (x : Eng) : (recvPut d m x).pc = x.pc := by
  unfold recvPut Eng.putBytes
  simp only [setAll_pc, Eng.putLanes_pc]

theorem flag_eng (c : Chip) (F : Fld) (b : Bool) (i k e : Nat) : (c.flag F b i k).eng e = c.eng e := by
  unfold Chip.eng
  rw [Chip.flag_drum]

/-- RECV at its first execution, with a message waiting: it takes the oldest, and the mailbox is not full. -/
theorem opRecv_first (c : Chip) (e : Nat) (d : Desc) {m : Nat} {l : List Nat} (hs : c.engState e ≠ 6) (hd : descFault 0x13 d = none)
    (hr : (c.eng e).replayed = none) (hm : (c.eng e).mbx = m :: l) :
    c.opRecv e d = (((c.updEng e (recvTake m)).flag Reg.MBX_STAT_H2F_FULL false (64 + e)).updEng e (recvPut d m)).updEng e
      fun x => { x with pc := x.pc + 1, wait := none } := by
  refine engOp_next c e 0x13 d _ hs hd ?_
  simp only [hr, hm, List.head?_cons, reduceCtorEq, if_false]
  rfl

/-- Settles O54: each operation is a change of its engine but RECV, which also clears its mailbox's FULL. -/
theorem predicatesAndInputs : Obligations.PredicatesAndInputs := by
  unfold Obligations.PredicatesAndInputs
  rintro e d s x dm hs rfl rfl
  refine ⟨?cmp, ?plog, ?axfltFirst, ?axfltAgain, ?tsub, ?gather, ?waitseq, ?recv, ?cntrd⟩
  case cmp => exact fun hd => engineOp_completes _ rfl rfl hs hd (Eng.setPrd_pc _ _ _ _) rfl
  case plog =>
    intro q hq hd himm
    refine engineOp_completes _ rfl rfl hs hd (Eng.setPrd_pc _ _ _ _) ?_
    simp only [List.mem_cons, List.not_mem_nil, or_false] at hq
    rcases hq with rfl | rfl | rfl | rfl <;> simp only [himm]
  case axfltFirst =>
    rintro v hd hr rfl
    exact engineOp_completes _ rfl (opAxflt_first s.chip e d hr) hs hd (Eng.setPrd_pc _ _ _ _) (by simp [hr])
  case axfltAgain =>
    intro v m hd hr hm hg ha hp
    obtain ⟨t, ht, hq, he, -⟩ := engineOp_completes (i := .opAxflt e d)
      (y := (s.chip.eng e).setPrd d.flags (axfltAgain s.chip e d v) ((s.chip.eng e).mask d)) _ rfl (opAxflt_again s.chip e d v hr) hs hd
      (Eng.setPrd_pc _ _ _ _) (by simp [hr])
    refine ⟨t, ht, hq, ?_⟩
    rw [he]
    refine (bitOf_prd_setPrd _ _ _ hp hm).trans ?_
    rw [if_pos ha, bitOf_axfltAgain s.chip e d v hg]
  case tsub =>
    rintro a diff hd rfl rfl
    exact engineOp_completes _ rfl rfl hs hd (by rw [setAll_pc, Eng.putLanes_pc]) rfl
  case gather =>
    rintro i a g hd rfl hb hi rfl
    refine ⟨fun hsrc hg => ?_, fun hsrc => ?_⟩
    · exact engineOp_completes _ rfl (opGather_frame s.chip e i d hs hd hb hi hsrc hg) hs hd (Eng.takeWord_pc _ _ _ _ _) rfl
    · exact engineOp_completes _ rfl (opGather_position s.chip e i d hs hd hb hi hsrc) hs hd (Eng.takeWord_pc _ _ _ _ _) rfl
  case waitseq =>
    rintro a hd rfl hb hr
    exact engineOp_completes _ rfl (opWaitseq_ready s.chip e d hs hd hb hr) hs hd (Eng.takeWord_pc _ _ _ _ _) rfl
  case recv =>
    rintro m l b hd hr hm rfl
    have hop := opRecv_first s.chip e d hs hd hr hm
    refine ⟨_, rfl, rfl, ?full, ?eng⟩
    case full =>
      show (s.chip.opRecv e d).steady.on _ _ = false
      unfold Chip.on
      rw [Chip.steady_rd _ _ _ _ (by decide), hop]
      exact Chip.on_flag_same _ false _ 0 rfl
    case eng =>
      show (s.chip.opRecv e d).steady.eng e = _
      rw [steady_eng, hop, Chip.eng_updEng_same, Chip.eng_updEng_same, flag_eng, Chip.eng_updEng_same, recvPut_pc]
      simp only [recvTake, recvPut, hm, List.drop_succ_cons, List.drop_zero]
  case cntrd =>
    intro v hd hr hright hv
    exact engineOp_completes _ rfl (opCntrd_first s.chip e d hs hd hr hright hv) hs hd (Eng.putLanes_pc _ _ _ _ _) rfl

end Sys2Proof.CycleOps
end

section
/-! PROOFS. Frames built write by write: `Chip.wrote` and `Chip.reported` after one more update of the command. -/

namespace Sys2Proof.Machine

variable {own : Nat → Prop} {c d : Chip}

/-- One more write at one of the command's own places. -/
theorem Chip.wrote.andWr (h : c.wrote own d) (G : Fld) (v j f : Nat) (hk : own (G.key j f)) (hs : G.id ∉ steadyIds) :
    c.wrote own (d.wr G v j f) := h.trans (.wr _ _ _ _ _ hk hs)

theorem Chip.wrote.andFlag (h : c.wrote own d) (G : Fld) (b : Bool) (j f : Nat) (hk : own (G.key j f)) (hs : G.id ∉ steadyIds) :
    c.wrote own (d.flag G b j f) := h.trans (.flag _ _ _ _ _ hk hs)

/-- One more write at one of the command's own places, or of a field that reports move. -/
theorem Chip.reported.andWr (h : c.reported own d) (G : Fld) (v j f : Nat) (hg : own (G.key j f) ∨ G.id ∈ reportIds) :
    c.reported own (d.wr G v j f) := h.trans (.wr _ _ _ _ _ hg)

theorem Chip.reported.andFlag (h : c.reported own d) (G : Fld) (b : Bool) (j f : Nat) (hg : own (G.key j f) ∨ G.id ∈ reportIds) :
    c.reported own (d.flag G b j f) := h.trans (.flag _ _ _ _ _ hg)

theorem Chip.reported.andNotify (h : c.reported own d) (ev cls inst attr : Nat) (q : Option (Nat × Nat)) :
    c.reported own (d.notify ev cls inst attr q) := h.trans (d.notify_reported ev cls inst attr q)

theorem Chip.reported.andCount (h : c.reported own d) (ev unit bytes : Nat) : c.reported own (d.count ev unit bytes) :=
  h.trans (d.count_reported ev unit bytes)

theorem fields_not {l : List Nat} (F : Fld) (i e : Nat) (h : F.id ∉ l) : ¬ fields l (F.key i e) := mt (fields_iff F i e).1 h

/-- Fewer fields are places of more. -/
theorem fields_mono {l m : List Nat} (h : ∀ x ∈ l, x ∈ m) (k : Nat) (hk : fields l k) : fields m k := h _ hk

theorem places_mono {l m : List Nat} (h : ∀ x ∈ l, x ∈ m) (k : Nat) (hk : places l k) : places m k := h _ hk

/-- Reports leave the journal in the flash as it is. -/
theorem Chip.reported.flash (h : c.reported own d) : d.jrn.flash = c.jrn.flash := by
  obtain ⟨h1, -⟩ := h
  exact (congrArg (fun x : Chip => x.jrn.flash) h1).trans rfl

/-- A field written in full reads as the number written, where that fits the field. -/
theorem Chip.rd_wr_fits (c : Chip) (F : Fld) {v : Nat} (i e : Nat) (h : v < 2 ^ F.width) : (c.wr F v i e).rd F i e = v :=
  (c.rd_wr_same F v i e).trans (Nat.mod_eq_of_lt h)

/-- The limits of ADJ hold where the limits of the block do. -/
theorem Chip.Limits.adj (h : c.Limits) : (c.rdS Reg.ADJ).natAbs ≤ ppbUnits (c.rd Reg.SERVO_CTRL_MAX_ADJ) := h.1

/-- What is answered differs from a block only where the command's body does and where reports do. -/
theorem Chip.answered.frame {b : Chip} {r : Req} {op : Nat} {st : Status} {l : List Tlv} (h : c.answered d r op st l) (hb : b.reported own c)
    (ha : ¬ own (Reg.ADJ.key 0 0)) (hm : ¬ own (Reg.SERVO_CTRL_MAX_ADJ.key 0 0)) (hl : b.Limits) : b.reported own d := by
  obtain ⟨-, e, he, rfl⟩ := h
  exact (hb.trans (he.mono fun _ hk => hk.elim)).steady ha hm hl

/-- The reply carries the time of the block before the command, which no body moves. -/
theorem Chip.answered.reply_mem {b : Chip} {r : Req} {op : Nat} {st : Status} {l : List Tlv} (h : c.answered d r op st l) (ht : c.time = b.time) :
    Out.reply r op st r.txn b.tb16 l ∈ d.outs := by
  have he : b.tb16 = c.tb16 := by unfold Chip.tb16; rw [ht]
  rw [he]
  exact h.1

/-- A command that makes d of the block: its next state. -/
theorem exec_next {i : Instr} {s : State} {g : Chip → Chip} {d : Chip} (hi : exec i s = onChip g s) (hg : g s.chip = d) :
    exec i s = .next { s with chip := d.steady } := by
  rw [hi, onChip_eq, hg]

end Sys2Proof.Machine
end

section
/-! PROOFS. The state after reset, the step, the queue, and the limits that every step keeps. -/

namespace Sys2Proof.Whole
open Sys2Proof.Machine

/-! ### The state after reset -/

/-- After reset the field store is empty, so each field reads its reset value. -/
theorem reset_rd (F : Fld) (i e : Nat) : State.reset.chip.rd F i e = F.reset i e % 2 ^ F.width := by
  show (0 ^^^ F.reset i e) % 2 ^ F.width = _
  rw [Nat.zero_xor]

/-- Settles O1: the store lists nothing after reset, and the values of the list are those of the register table. -/
theorem resetValues : Obligations.ResetValues := by
  unfold Obligations.ResetValues
  refine ⟨rfl, rfl, rfl, rfl, reset_rd, fun q hq => ?_⟩
  rw [reset_rd]
  revert q
  decide

/-! ### One step -/

theorem step_cons {s : State} {i : Instr} {l : List Instr} (h : s.pending = i :: l) : step s = exec i { s with pending := l } := by
  unfold step
  rw [h]

theorem step_nil {s : State} (h : s.pending = []) : step s = .next s := by
  unfold step
  rw [h]

/-- Settles O2: the second branch of `step`. -/
theorem stepRunsFront : Obligations.StepRunsFront := fun _ _ _ h => step_cons h

/-- Settles O3: the first branch of `step`. -/
theorem stepIdle : Obligations.StepIdle := fun _ h => step_nil h

theorem exec_completes (i : Instr) (s : State) : ∃ f : Chip → Chip, exec i s = .next { s with chip := (f s.chip).steady } := by
  obtain ⟨f, hf⟩ := exec_onChip i s
  exact ⟨f, hf.trans (onChip_eq f s)⟩

/-- Settles O4: each command is an update of the block, which leaves the queue alone. -/
theorem everyCommandCompletes : Obligations.EveryCommandCompletes := by
  intro i s
  obtain ⟨f, hf⟩ := exec_completes i s
  exact ⟨_, hf, rfl⟩

/-- Settles O6: a command ends with the rule that keeps the limits, and an idle step changes nothing. -/
theorem stepKeepsLimits : Obligations.StepKeepsLimits := by
  intro s t hs ht
  cases hp : s.pending with
  | nil =>
    rw [step_nil hp] at ht
    cases ht
    exact hs
  | cons i l =>
    obtain ⟨f, hf⟩ := exec_completes i { s with pending := l }
    rw [step_cons hp, hf] at ht
    cases ht
    exact Chip.steady_limits _

/-! ### A run through the queue -/

/-- The state after a completed command; the state itself where there is no next one. -/
def nextOf (s : State) : State :=
  match step s with
  | .next t => t
  | _ => s

/-- The run of the steps from `s`. -/
def runFrom (s : State) : Nat → State
  | 0 => s
  | n + 1 => nextOf (runFrom s n)

theorem step_nextOf (s : State) : step s = .next (nextOf s) := by
  have h : ∃ t, step s = .next t := by
    cases hp : s.pending with
    | nil => exact ⟨s, step_nil hp⟩
    | cons i l => exact (everyCommandCompletes i _).imp fun _ h => (step_cons hp).trans h.1
  obtain ⟨t, ht⟩ := h
  unfold nextOf
  rw [ht]

/-- A step takes exactly the front command from the queue. -/
theorem nextOf_pending (s : State) : (nextOf s).pending = s.pending.drop 1 := by
  have hn := step_nextOf s
  cases hp : s.pending with
  | nil =>
    have hs : nextOf s = s := Host.Outcome.next.inj (hn.symm.trans (step_nil hp))
    rw [hs, hp]
    rfl
  | cons i l =>
    obtain ⟨t, ht, hq⟩ := everyCommandCompletes i { s with pending := l }
    have hs : nextOf s = t := Host.Outcome.next.inj (hn.symm.trans ((step_cons hp).trans ht))
    rw [hs]
    exact hq

/-- After n steps the first n commands are taken. -/
theorem runFrom_pending (s : State) (n : Nat) : (runFrom s n).pending = s.pending.drop n := by
  induction n with
  | zero => rfl
  | succ n ih => rw [runFrom, nextOf_pending, ih, List.drop_drop]

/-- Settles O5: the run of the steps from the queue, of which each takes the front command. -/
theorem queueOrder : Obligations.QueueOrder := by
  intro l s
  refine ⟨runFrom { s with pending := l }, rfl, fun n _ => runFrom_pending _ n, fun n _ => step_nextOf _, fun n i hi => ?_⟩
  obtain ⟨hn, rfl⟩ := List.getElem?_eq_some_iff.1 hi
  have hp : (runFrom { s with pending := l } n).pending = l[n] :: l.drop (n + 1) :=
    (runFrom_pending _ n).trans (List.drop_eq_getElem_cons hn)
  exact (step_cons hp).symm.trans (step_nextOf _)

end Sys2Proof.Whole
end

section
/-! PROOFS. Arbiters: phases, the watchdog of a freeze, and the writes that freeze (R43 to R50). -/

namespace Sys2Proof.Arbiters
open Sys2Proof.Machine Sys2Proof.Laws

/-! ### What an arbiter shows -/

theorem arbStatus_arbs (c : Chip) (a : Nat) : (c.arbStatus a).arbs = c.arbs := rfl

theorem arbStatus_frozen (c : Chip) (a : Nat) : (c.arbStatus a).on Reg.ARB_STATUS_FROZEN 0 a = c.arbFrozen a := by
  unfold Chip.arbStatus
  rw [Chip.on_id _ _ _ _ _ _ _ (by decide), Chip.on_id _ _ _ _ _ _ _ (by decide), Chip.on_flag_same _ _ _ _ rfl]

theorem arbStatus_drained (c : Chip) (a : Nat) : (c.arbStatus a).on Reg.ARB_STATUS_DRAINED 0 a =
    (c.arbFrozen a && !(SMap.get c.arbs a).busy && (SMap.get c.arbs a).granted.isNone) := by
  unfold Chip.arbStatus
  exact Chip.on_flag_same _ _ _ _ rfl

theorem arbStatus_on (c : Chip) (a : Nat) (F : Fld) (i e : Nat)
    (h : F.id ∉ [Reg.ARB_STATUS_FROZEN.id, Reg.ARB_STATUS_INTERNAL.id, Reg.ARB_STATUS_DRAINED.id]) : (c.arbStatus a).on F i e = c.on F i e := by
  simp only [List.mem_cons, List.not_mem_nil, or_false, not_or] at h
  obtain ⟨h1, h2, h3⟩ := h
  unfold Chip.arbStatus
  rw [Chip.on_id _ _ _ _ _ _ _ h3, Chip.on_id _ _ _ _ _ _ _ h2, Chip.on_id _ _ _ _ _ _ _ h1]

/-- The writes of an expired freeze watchdog. -/
theorem arbWd_expired (c : Chip) (a : Nat) (hf : c.on Reg.ARB_CFG_FREEZE 0 a = true) (hwd : c.rd Reg.ARB_CFG_FREEZE_WD 0 a ≠ 0)
    (hat : (SMap.get c.arbs a).frozenAt + unitsUs (c.rd Reg.ARB_CFG_FREEZE_WD 0 a) ≤ c.now) :
    Chip.arbWd a c = (((c.flag Reg.ARB_CFG_FREEZE false 0 a).flag Reg.ARB_STATUS_WD_EXPIRED true 0 a).arbStatus a).notify
      Nt.ARB_WD_EXPIRED Cls.DEV 0 0x29 none := by
  unfold Chip.arbWd
  exact if_pos (by simp [hf, hwd, hat])

/-- Settles O7: FREEZE, WD_EXPIRED and the status are written, and the notification moves none of them. -/
theorem arbiterWatchdogClearsFreeze : Obligations.ArbiterWatchdogClearsFreeze := by
  intro a s hl hf hwd hat
  refine ⟨_, rfl, rfl, ?_⟩
  simp only
  rw [arbWd_expired s.chip a hf hwd hat]
  generalize hx : (s.chip.flag Reg.ARB_CFG_FREEZE false 0 a).flag Reg.ARB_STATUS_WD_EXPIRED true 0 a = x
  have hxf : x.on Reg.ARB_CFG_FREEZE 0 a = false := by
    rw [← hx, Chip.on_id _ _ _ _ _ _ _ (by decide), Chip.on_flag_same _ _ _ _ rfl]
  have hxw : x.on Reg.ARB_STATUS_WD_EXPIRED 0 a = true := by rw [← hx, Chip.on_flag_same _ _ _ _ rfl]
  have hxa : x.arbs = s.chip.arbs := by rw [← hx]; rfl
  refine ⟨?_, ?_, ?_, ?frame⟩
  case frame =>
    refine Chip.reported.steady ?_ (by simp (decide := true) [places, Fld.key_eq_iff]) (by simp (decide := true) [places, Fld.key_eq_iff]) hl
    refine Chip.reported.andNotify (Chip.reported.trans ?_ ((status_wrote x a).reported.mono (by simp +contextual [places]))) _ _ _ _ _
    rw [← hx]
    exact ((Chip.reported.refl _ _).andFlag _ _ _ _ (.inl (by simp [places]))).andFlag _ _ _ _ (.inl (by simp [places]))
  all_goals rw [Chip.steady_on _ _ _ _ (by decide), Chip.notify_on _ _ _ _ _ _ _ _ _ (by decide) (by decide)]
  · rw [arbStatus_on _ _ _ _ _ (by decide), hxf]
  · rw [arbStatus_on _ _ _ _ _ (by decide), hxw]
  · rw [arbStatus_frozen, Chip.arbFrozen, hxf, hxa, Bool.false_or]

/-- Settles O8: a waiting grant starts its data phase; without one the resource rests. -/
theorem arbiterDataPhaseEnds : Obligations.ArbiterDataPhaseEnds := by
  intro a s hl hb
  refine ⟨fun n hg hn => ⟨_, rfl, rfl, ?_⟩, fun hg => ⟨_, rfl, rfl, ?_⟩⟩
  · have hx : Chip.arbDataEnd a s.chip = s.chip.arbStart a n := by simp [Chip.arbDataEnd, hb, hg]
    simp only
    rw [hx]
    refine ⟨?_, ?_⟩
    · rw [Chip.steady_rd _ _ _ _ (by decide)]
      exact Chip.rd_wr_fits _ _ _ _ hn
    · exact Chip.wrote.steady (.wr _ _ _ _ _ (by simp [places]) (by decide)) (by simp (decide := true) [places, Fld.key_eq_iff])
        (by simp (decide := true) [places, Fld.key_eq_iff]) hl
  · have hx : Chip.arbDataEnd a s.chip = (s.chip.updArb a fun x => { x with busy := false }).arbStatus a := by simp [Chip.arbDataEnd, hb, hg]
    simp only
    rw [hx]
    refine ⟨?_, ?_⟩
    · rw [Chip.steady_on _ _ _ _ (by decide), arbStatus_drained, Chip.arbFrozen, Chip.updArb_same, Chip.updArb_on]
      simp [hg]
    · exact Chip.wrote.steady (status_wrote _ a) (by simp (decide := true) [places, Fld.key_eq_iff])
        (by simp (decide := true) [places, Fld.key_eq_iff]) hl

/-! ### A phase (R43 to R46) -/

/-- The classes of an arbiter are below 8 and its requesters below 256 (R43). -/
theorem arbMay_bounds {a : Nat} {r : Nat × Nat} (h : arbMay a r = true) : r.1 < 8 ∧ r.2 < 256 := by
  unfold arbMay arbClasses at h
  split at h
  · simp at h; omega
  · split at h
    · simp at h; omega
    · split at h <;> (simp at h; omega)

/-- Only an arbiter's own requesters take part. -/
theorem arbPhase_filter (a : Nat) (reqs : List (Nat × Nat)) (c : Chip) : Chip.arbPhase a (reqs.filter (arbMay a)) c = Chip.arbPhase a reqs c := by
  unfold Chip.arbPhase
  simp only [List.filter_filter, Bool.and_self]

/-- Those that a phase may grant: the requesters present other than the Lull test. -/
def realOf (a : Nat) (reqs : List (Nat × Nat)) : List Nat := (reqs.filter fun r => r.1 != lullClass a).map Prod.snd

theorem mem_realOf {a m : Nat} {reqs : List (Nat × Nat)} : m ∈ realOf a reqs ↔ ∃ r ∈ reqs, r.1 ≠ lullClass a ∧ r.2 = m := by
  simp [realOf, and_assoc]

theorem realOf_nodup {a : Nat} {reqs : List (Nat × Nat)} (h : (reqs.map Prod.snd).Nodup) : (realOf a reqs).Nodup :=
  h.sublist (List.filter_sublist.map _)

/-- A phase that is held by nothing and finds a requester grants the winner: its data phase starts, or is next where one runs. -/
theorem arbPhase_grants (a : Nat) (reqs : List (Nat × Nat)) (c : Chip) (hf : c.arbFrozen a = false) (hg : (SMap.get c.arbs a).granted = none)
    (hm : ∀ r ∈ reqs, arbMay a r = true) (hr : ∃ r ∈ reqs, r.1 ≠ lullClass a) :
    ∃ k n y d, y = (SMap.get c.arbs a).won a (c.rd Reg.ARB_CFG_WAIT_LIMIT 0 a) k n
        ((SMap.get c.arbs a).order (c.rd Reg.ARB_CFG_WAIT_LIMIT 0 a) (realOf a reqs)) ((realOf a reqs).filter fun m => m != n) ∧
      (k, n) ∈ reqs ∧ k ≠ lullClass a ∧
      ((∀ r ∈ reqs, r.1 ≠ lullClass a → SMap.get (SMap.get c.arbs a).waits r.2 < c.rd Reg.ARB_CFG_WAIT_LIMIT 0 a) →
        ∀ r ∈ reqs, r.1 ≠ lullClass a → k ≤ r.1) ∧
      (c.updArb a fun _ => y).reported (places [Reg.ARB_STATUS_MAX_WAIT.key 0 a]) d ∧
      Chip.arbPhase a reqs c = if (SMap.get c.arbs a).busy then d else (d.arbStart a n).arbStatus a := by
  have hfil : reqs.filter (arbMay a) = reqs := List.filter_eq_self.2 hm
  obtain ⟨k, n, f, hw, hkn, hk, hlow⟩ := arbWinner_spec a (SMap.get c.arbs a)
    ((SMap.get c.arbs a).order (c.rd Reg.ARB_CFG_WAIT_LIMIT 0 a) (realOf a reqs)) reqs (fun r h => (arbMay_bounds (hm r h)).1) hr
  refine ⟨k, n, _, ?d, rfl, hkn, hk, fun hlim => hlow fun r h1 h2 => order_not_mem _ _ _ _ (hlim r h1 h2), ?_, ?eq⟩
  case eq =>
    unfold Chip.arbPhase
    rw [hfil]
    unfold realOf at hw
    simp only [hf, hg, Option.isSome_none, Bool.or_self, Bool.false_eq_true, if_false, hw]
    rfl
  · refine .ite (Chip.reported.andCount ?_ _ _ _) ?_ <;>
    exact (peak_reported _ _ _ _ _ (.inl (by simp [places]))).andCount _ _ _

section
variable (x : Arb) {a lim k n : Nat} {order losers : List Nat}

/-- The wait counters after a phase that another than the Lull test has won (R46). -/
theorem won_waits (hk : k ≠ lullClass a) : (x.won a lim k n order losers).waits = SMap.set (lostWaits lim x.waits losers) n 0 := if_neg hk

theorem won_waits_winner (hk : k ≠ lullClass a) : SMap.get (x.won a lim k n order losers).waits n = 0 := by
  rw [won_waits x hk, SMap.get_set_same]

theorem won_waits_loser (hk : k ≠ lullClass a) (hn : losers.Nodup) {m : Nat} (hm : m ≠ n) (hl : m ∈ losers) :
    SMap.get (x.won a lim k n order losers).waits m = min lim (SMap.get x.waits m + 1) := by
  rw [won_waits x hk, SMap.get_set_ne _ _ hm, lostWaits_get _ _ _ hn, if_pos hl]

theorem won_waits_absent (hk : k ≠ lullClass a) (hn : losers.Nodup) {m : Nat} (hm : m ≠ n) (hl : m ∉ losers) :
    SMap.get (x.won a lim k n order losers).waits m = SMap.get x.waits m := by
  rw [won_waits x hk, SMap.get_set_ne _ _ hm, lostWaits_get _ _ _ hn, if_neg hl]

end

/-- Settles O9: the winner is granted by `arbPhase_grants`; its data phase starts at once or waits. -/
theorem arbiterGrantsOne : Obligations.ArbiterGrantsOne := by
  intro a reqs s
  refine ⟨congrArg Host.Outcome.next (by simp only [arbPhase_filter]), fun hl hf hg hn hm hr => ?_⟩
  obtain ⟨k, n, y, d, hy, hkn, hk, hlow, hd, he⟩ := arbPhase_grants a reqs s.chip hf hg hm hr
  have hnd : ((realOf a reqs).filter fun m => m != n).Nodup := (realOf_nodup hn).filter _
  have hwaits : SMap.get y.waits n = 0 ∧ (∀ r ∈ reqs, r.1 ≠ lullClass a → r.2 ≠ n → SMap.get y.waits r.2 =
        min (s.chip.rd Reg.ARB_CFG_WAIT_LIMIT 0 a) (SMap.get (SMap.get s.chip.arbs a).waits r.2 + 1)) ∧
      ∀ m, (∀ r ∈ reqs, r.2 ≠ m) → SMap.get y.waits m = SMap.get (SMap.get s.chip.arbs a).waits m := by
    rw [hy]
    refine ⟨won_waits_winner _ hk, fun r h1 h2 h3 => won_waits_loser _ hk hnd h3 ?_, fun m h => won_waits_absent _ hk hnd (h _ hkn).symm fun hm => ?_⟩
    · exact List.mem_filter.2 ⟨mem_realOf.2 ⟨r, h1, h2, rfl⟩, by simpa using h3⟩
    · obtain ⟨r, h1, -, h3⟩ := mem_realOf.1 (List.mem_filter.1 hm).1
      exact h r h1 h3
  have hown : ∀ k, places [Reg.ARB_STATUS_MAX_WAIT.key 0 a] k → places [Reg.ARB_STATUS_OWNER.key 0 a, Reg.ARB_STATUS_MAX_WAIT.key 0 a,
      Reg.ARB_STATUS_FROZEN.key 0 a, Reg.ARB_STATUS_INTERNAL.key 0 a, Reg.ARB_STATUS_DRAINED.key 0 a] k := by simp +contextual [places]
  have hda : d.arbs = SMap.upd s.chip.arbs a fun _ => y := hd.arbs
  have hex : exec (.arbPhase a reqs) s = .next { s with chip := (Chip.arbPhase a reqs s.chip).steady } := rfl
  rw [he] at hex
  cases hb : (SMap.get s.chip.arbs a).busy with
  | true =>
    rw [hb, if_pos rfl] at hex
    have hyb : y.busy = true := by rw [hy]; exact hb
    have hyg : y.granted = some n := by rw [hy]; rfl
    refine ⟨_, d.arbs, k, n, hex, rfl, hkn, hk, hlow, ?_⟩
    rw [hda, SMap.get_upd_same]
    refine ⟨hwaits.1, hwaits.2.1, hwaits.2.2, hyb, fun _ => ⟨hyg, ?_⟩, nofun, fun b h => SMap.get_upd_ne _ _ h, ?_⟩
    · show d.steady.rd _ _ _ = _
      rw [Chip.steady_rd _ _ _ _ (by decide), hd.rd _ _ _ (by simp (decide := true) [places, Fld.key_eq_iff]) (by decide) (by decide)]
      rfl
    · exact (hd.mono hown).steady (by simp (decide := true) [places, Fld.key_eq_iff]) (by simp (decide := true) [places, Fld.key_eq_iff]) hl
  | false =>
    rw [hb, if_neg Bool.false_ne_true] at hex
    have hza : ((d.arbStart a n).arbStatus a).arbs = SMap.upd d.arbs a fun z => { z with busy := true, granted := none } := rfl
    refine ⟨_, ((d.arbStart a n).arbStatus a).arbs, k, n, hex, rfl, hkn, hk, hlow, ?_⟩
    rw [hza, SMap.get_upd_same, hda, SMap.get_upd_same]
    refine ⟨hwaits.1, hwaits.2.1, hwaits.2.2, rfl, nofun, fun _ => ⟨rfl, ?_⟩, fun b h => ?_, ?_⟩
    · show ((d.arbStart a n).arbStatus a).steady.rd Reg.ARB_STATUS_OWNER 0 a = n
      rw [Chip.steady_rd _ _ _ _ (by decide), (status_wrote _ a).reported.rd _ _ _ (by simp (decide := true) [places, Fld.key_eq_iff]) (by decide) (by decide)]
      exact Chip.rd_wr_fits _ _ _ _ (arbMay_bounds (hm _ hkn)).2
    · rw [SMap.get_upd_ne _ _ h, SMap.get_upd_ne _ _ h]
    · have hs := (hd.mono hown).set_arbs (SMap.upd d.arbs a fun z => { z with busy := true, granted := none })
      rw [hda] at hs
      have ho : d.arbStart a n = ({ d with arbs := SMap.upd (SMap.upd s.chip.arbs a fun _ => y) a fun z => { z with busy := true, granted := none } } : Chip).wr
          Reg.ARB_STATUS_OWNER n 0 a := by rw [← hda]; rfl
      rw [ho]
      refine Chip.reported.steady ?_ (by simp (decide := true) [places, Fld.key_eq_iff]) (by simp (decide := true) [places, Fld.key_eq_iff]) hl
      exact (hs.andWr _ _ _ _ (.inl (by simp [places]))).trans ((status_wrote _ a).reported.mono (by simp +contextual [places]))

end Sys2Proof.Arbiters
end

section
/-! PROOFS. Freezes of arbiters and locks of table segments (R47, R152). -/

namespace Sys2Proof.Freezes
open Sys2Proof.Machine Sys2Proof.Laws Sys2Proof.Arbiters

/-! ### The write behind a freeze or a lock -/

/-- A write of one element that is answered: its reply, and what its register has made of the block. -/
theorem elem_write_answers {c y : Chip} {r : Req} {w : ObjWrite} {a : AttrDef} {i e v m : Nat} (hn : objCls w.obj ≠ Cls.REF)
    (ha : actsOnly a.cls a.attr = false) (h : c.ready r (.objWrite r [w])) (hf : c.writesFail r [w] = none)
    (hp : c.parseWrite w = .ok (a, i, [(e, v, m)])) (hy : (c.writeElem a i e v m).writeHook c r a.cls a.attr i e v m = y)
    (hc : c.changeFail y (.objWrite r [w]) = none) : y.answered (c.doObjWrite r [w]).steady r 0x0102 .ok [] := by
  rw [Chip.elem_write hn ha h hf hp hy hc]
  exact Chip.answered.done _ _ _ _ _

/-- The bits that ARB_FREEZE_SET and ARB_FREEZE_CLEAR write. -/
def freezeWrite (a : Fin 142) (b : Bool) : ObjWrite :=
  { obj := objId Cls.DEV 0 0x28, elem := some (a.val, 1), value := bytesOfNat 4 (if b then 2 ^ 31 else 0), mask := some (bytesOfNat 4 (2 ^ 31)) }

theorem freeze_answers (c : Chip) (r : Req) (a : Fin 142) (b : Bool) (h : c.ready r (.objWrite r [freezeWrite a b]))
    (hc : c.changeFail (Chip.arbFreezeHook c (c.writeElem Attr.ARB_CFG 0 a (if b then 2 ^ 31 else 0) (2 ^ 31)) a) (.objWrite r [freezeWrite a b]) = none) :
    (Chip.arbFreezeHook c (c.writeElem Attr.ARB_CFG 0 a (if b then 2 ^ 31 else 0) (2 ^ 31)) a).answered
      (c.doObjWrite r [freezeWrite a b]).steady r 0x0102 .ok [] :=
  elem_write_answers (by decide : objCls (objId Cls.DEV 0 0x28) ≠ Cls.REF) rfl h (form_freeze c r a b _ rfl h.2.1) (parse_freeze c a b _ rfl) rfl hc

section
variable (c : Chip) (a : Fin 142) (b : Bool)

/-- FREEZE after the write, the other fields of ARB_CFG as they were. -/
theorem freezeElem_freeze : (c.writeElem Attr.ARB_CFG 0 a (if b then 2 ^ 31 else 0) (2 ^ 31)).on Reg.ARB_CFG_FREEZE 0 a = b := by
  rw [freeze_elem, Chip.on_wr_id _ _ _ _ _ _ (by decide), Chip.on_wr_id _ _ _ _ _ _ (by decide)]
  cases b <;> exact Chip.on_flag_same _ _ _ _ rfl

theorem freezeElem_waitLimit : (c.writeElem Attr.ARB_CFG 0 a (if b then 2 ^ 31 else 0) (2 ^ 31)).rd Reg.ARB_CFG_WAIT_LIMIT 0 a =
    c.rd Reg.ARB_CFG_WAIT_LIMIT 0 a := by
  rw [freeze_elem, Chip.rd_wr_id _ _ _ _ _ _ (by decide)]
  exact Chip.rd_wr_fits _ _ _ _ (c.rd_lt _ _ _)

theorem freezeElem_watchdog : (c.writeElem Attr.ARB_CFG 0 a (if b then 2 ^ 31 else 0) (2 ^ 31)).rd Reg.ARB_CFG_FREEZE_WD 0 a =
    c.rd Reg.ARB_CFG_FREEZE_WD 0 a := by
  rw [freeze_elem]
  exact Chip.rd_wr_fits _ _ _ _ (c.rd_lt _ _ _)

end

/-- A freeze that begins notes its instant (R49). -/
theorem freezeHook_set (c : Chip) (a : Fin 142) (h : c.on Reg.ARB_CFG_FREEZE 0 a = false) :
    Chip.arbFreezeHook c (c.writeElem Attr.ARB_CFG 0 a (2 ^ 31) (2 ^ 31)) a =
      ((c.writeElem Attr.ARB_CFG 0 a (2 ^ 31) (2 ^ 31)).updArb a fun y => { y with frozenAt := c.now }).arbStatus a := by
  have hn : (c.writeElem Attr.ARB_CFG 0 a (2 ^ 31) (2 ^ 31)).now = c.now :=
    congrArg (· * 256) ((freeze_wrote c a true).2.1 Reg.TICKS 0 0 (by simp (decide := true) [places, Fld.key_eq_iff]) (by decide))
  have hf : (c.writeElem Attr.ARB_CFG 0 a (2 ^ 31) (2 ^ 31)).on Reg.ARB_CFG_FREEZE 0 a = true := freezeElem_freeze c a true
  simp only [Chip.arbFreezeHook, hf, h, hn, Bool.not_false, Bool.and_self, if_true]

/-- The end of a freeze notes nothing. -/
theorem freezeHook_clear (c : Chip) (a : Fin 142) :
    Chip.arbFreezeHook c (c.writeElem Attr.ARB_CFG 0 a 0 (2 ^ 31)) a = (c.writeElem Attr.ARB_CFG 0 a 0 (2 ^ 31)).arbStatus a := by
  have hf : (c.writeElem Attr.ARB_CFG 0 a 0 (2 ^ 31)).on Reg.ARB_CFG_FREEZE 0 a = false := freezeElem_freeze c a false
  simp only [Chip.arbFreezeHook, hf, Bool.false_and, Bool.false_eq_true, if_false]

/-- The places that the write of FREEZE and the status of its arbiter stand in. -/
def freezePlaces (a : Fin 142) : Nat → Prop :=
  places [Reg.ARB_CFG_FREEZE.key 0 a, Reg.ARB_CFG_WAIT_LIMIT.key 0 a, Reg.ARB_CFG_FREEZE_WD.key 0 a, Reg.ARB_STATUS_FROZEN.key 0 a,
    Reg.ARB_STATUS_INTERNAL.key 0 a, Reg.ARB_STATUS_DRAINED.key 0 a]

/-- What a block shows once FREEZE of an arbiter is written and answered, its arbiters being as m lists them. -/
theorem freeze_shows (c : Chip) (a : Fin 142) (b : Bool) (m : SMap Arb) {z t : Chip} {r : Req} {st : Status} {l : List Tlv} (hl : c.Limits)
    (hz : z = { c.writeElem Attr.ARB_CFG 0 a (if b then 2 ^ 31 else 0) (2 ^ 31) with arbs := m })
    (h : (z.arbStatus a).answered t r 0x0102 st l) :
    Out.reply r 0x0102 st r.txn c.tb16 l ∈ t.outs ∧ t.on Reg.ARB_CFG_FREEZE 0 a = b ∧
      t.on Reg.ARB_STATUS_FROZEN 0 a = (b || decide (0 < (SMap.get m a).internal)) ∧
      t.rd Reg.ARB_CFG_WAIT_LIMIT 0 a = c.rd Reg.ARB_CFG_WAIT_LIMIT 0 a ∧ t.rd Reg.ARB_CFG_FREEZE_WD 0 a = c.rd Reg.ARB_CFG_FREEZE_WD 0 a ∧
      ({ c with arbs := m } : Chip).reported (freezePlaces a) t := by
  have hon : z.on Reg.ARB_CFG_FREEZE 0 a = b := by rw [hz]; exact freezeElem_freeze c a b
  have hw : ({ c with arbs := m } : Chip).wrote (freezePlaces a) (z.arbStatus a) := by
    rw [hz]
    exact (((freeze_wrote c a b).set_arbs m).mono (by simp +contextual [places, freezePlaces])).trans
      ((status_wrote _ a).mono (by simp +contextual [places, freezePlaces]))
  have hrd : ∀ F : Fld, F.id ∉ reportIds → F.id ∉ steadyIds → ¬ places [Reg.ARB_STATUS_FROZEN.key 0 a, Reg.ARB_STATUS_INTERNAL.key 0 a,
      Reg.ARB_STATUS_DRAINED.key 0 a] (F.key 0 a) → t.rd F 0 a = z.rd F 0 a :=
    fun F h1 h2 h3 => (h.rd F 0 a h1 h2).trans ((status_wrote z a).reported.rd F 0 a h3 h1 h2)
  refine ⟨h.reply_mem hw.time, ?_, ?_, ?_, ?_,
    h.frame hw.reported (by simp (decide := true) [places, freezePlaces, Fld.key_eq_iff]) (by simp (decide := true) [places, freezePlaces, Fld.key_eq_iff]) hl⟩
  · rw [h.on _ _ _ (by decide) (by decide), arbStatus_on _ _ _ _ _ (by decide), hon]
  · rw [h.on _ _ _ (by decide) (by decide), arbStatus_frozen, Chip.arbFrozen, hon, hz]
  · rw [hrd _ (by decide) (by decide) (by simp (decide := true) [places, Fld.key_eq_iff]), hz]
    exact freezeElem_waitLimit c a b
  · rw [hrd _ (by decide) (by decide) (by simp (decide := true) [places, Fld.key_eq_iff]), hz]
    exact freezeElem_watchdog c a b

/-- Settles O23: a freeze that begins notes its instant, one that ends leaves the arbiters as they are. -/
theorem freezeWrites : Obligations.FreezeWrites := by
  intro r a s w hl hw
  obtain rfl : w = freezeWrite a := funext hw
  refine ⟨?set, ?clear⟩
  case set =>
    rintro x hr hoff rfl hc
    have h := freeze_answers s.chip r a true hr hc
    simp only [if_true, freezeHook_set s.chip a hoff] at h
    have ha : (s.chip.writeElem Attr.ARB_CFG 0 a (2 ^ 31) (2 ^ 31)).arbs = s.chip.arbs := (freeze_wrote s.chip a true).arbs
    obtain ⟨hrep, hon, hfr, hlim, hwd, hfrm⟩ := freeze_shows s.chip a true (SMap.upd s.chip.arbs a fun y => { y with frozenAt := s.chip.now }) hl
      (by rw [← ha]; rfl) h
    exact ⟨_, rfl, rfl, hrep, hon, hfr, hlim, hwd, hfrm⟩
  case clear =>
    rintro x hr rfl hc
    have h := freeze_answers s.chip r a false hr hc
    simp only [Bool.false_eq_true, if_false, freezeHook_clear s.chip a] at h
    have ha : (s.chip.writeElem Attr.ARB_CFG 0 a 0 (2 ^ 31)).arbs = s.chip.arbs := (freeze_wrote s.chip a false).arbs
    obtain ⟨hrep, hon, hfr, hlim, hwd, hfrm⟩ := freeze_shows s.chip a false s.chip.arbs hl (by rw [← ha]; rfl) h
    have he : Chip.doFreezeClear r a [] s.chip = s.chip.doObjWrite r [freezeWrite a false] := by
      unfold Chip.doFreezeClear
      simp only [arbPhase_nil, ite_self]
      rfl
    refine ⟨_, rfl, rfl, ?_⟩
    simp only [he]
    exact ⟨hrep, hon, hfr.trans (Bool.false_or _), hlim, hwd, hfrm⟩

/-! ### Segment locks (R152) -/

/-- The bit that TBL_LOCK_SET and TBL_LOCK_RELEASE write. -/
def lockBitWrite (tb : Fin 7) (seg : Fin 64) (b : Bool) : ObjWrite :=
  { obj := objId Cls.TBL tb 0x02, elem := none, value := bytesOfNat 8 (if b then 2 ^ seg.val else 0), mask := some (bytesOfNat 8 (2 ^ seg.val)) }

/-- The block with the bits of TBL_LOCK as the write of one leaves them. -/
def lockRaw (c : Chip) (tb : Fin 7) (seg : Fin 64) (b : Bool) : Chip :=
  (c.writeElem Attr.TBL_LOCK tb 0 (if b then 2 ^ seg.val else 0) (2 ^ seg.val)).wr Reg.TBL_LOCK 0 tb

theorem lockRaw_wrote (c : Chip) (tb : Fin 7) (seg : Fin 64) (b : Bool) : c.wrote (fields [Reg.TBL_LOCK.id]) (lockRaw c tb seg b) :=
  lock_elem_wrote _ _ _ _

theorem lockRaw_lock (c : Chip) (tb : Fin 7) (seg : Fin 64) (b : Bool) : (lockRaw c tb seg b).lock tb seg = c.lock tb seg :=
  congrArg (fun x : Tables => SMap.get x.locks (lockKey tb seg)) (lockRaw_wrote c tb seg b).tbl

theorem lockRaw_now (c : Chip) (tb : Fin 7) (seg : Fin 64) (b : Bool) : (lockRaw c tb seg b).now = c.now :=
  congrArg (· * 256) ((lockRaw_wrote c tb seg b).2.1 Reg.TICKS 0 0 (fields_not _ _ _ (by decide)) (by decide))

theorem lock_answers {c y : Chip} {r : Req} {tb : Fin 7} {seg : Fin 64} {b : Bool} (h : c.ready r (.objWrite r [lockBitWrite tb seg b]))
    (hf : c.writesFail r [lockBitWrite tb seg b] = none)
    (hy : (if b then (lockRaw c tb seg b).lockStart tb seg r.slot
      else if (c.lock tb seg).slot = r.slot then (lockRaw c tb seg b).lockEnd tb seg else lockRaw c tb seg b) = y)
    (hc : c.changeFail y (.objWrite r [lockBitWrite tb seg b]) = none) : y.answered (c.doObjWrite r [lockBitWrite tb seg b]).steady r 0x0102 .ok [] := by
  have hcls : ∀ tb : Fin 7, objCls (objId Cls.TBL tb 0x02) ≠ Cls.REF := by decide
  refine elem_write_answers (hcls tb) rfl h hf (parse_lock c tb seg b _ rfl) ?_ hc
  rw [lock_hook, ← hy, ← lockRaw_lock c tb seg b]
  rfl

theorem setLock_lock (c : Chip) (t s : Nat) (l : SegLock) : (c.setLock t s l).lock t s = l := SMap.get_set_same _ _ _

/-- The lock of a segment rewritten and the table's arbiters frozen, or no longer so: the arbiters, and what else moves. -/
theorem lockFreeze (c : Chip) (tb : Fin 7) (seg : Fin 64) (l : SegLock) (b : Bool) {y : Chip}
    (hy : y = (c.setLock tb seg l).each (tblArbs tb) fun a c => c.freezeInternal a b) :
    y.lock tb seg = l ∧
    (∀ a, SMap.get y.arbs a = if a ∈ tblArbs tb then { SMap.get c.arbs a with
        internal := if b then (SMap.get c.arbs a).internal + 1 else (SMap.get c.arbs a).internal - 1 } else SMap.get c.arbs a) ∧
    ({ c with arbs := y.arbs, tbl := { c.tbl with locks := SMap.set c.tbl.locks (lockKey tb seg) l } } : Chip).wrote
      (fields [Reg.ARB_STATUS_FROZEN.id, Reg.ARB_STATUS_INTERNAL.id, Reg.ARB_STATUS_DRAINED.id]) y := by
  obtain ⟨ha, hw⟩ := freezeInternal_all b (tblArbs tb) (arbs_nodup tb) (c.setLock tb seg l)
  rw [← hy] at ha hw
  exact ⟨(congrArg (fun x : Tables => SMap.get x.locks (lockKey tb seg)) hw.tbl).trans (setLock_lock c tb seg l), ha, hw⟩

theorem lockStart_free (c : Chip) (t s slot : Nat) (h : (c.lock t s).state = 0) : c.lockStart t s slot =
    (c.setLock t s { state := 1, slot := slot, since := c.now }).each (tblArbs t) fun a c => c.freezeInternal a true := if_neg (not_not_intro h)

theorem lockDrained_draining (c : Chip) (t s : Nat) (h : (c.lock t s).state = 1) : Chip.lockDrained t s c =
    (c.setLock t s { (c.lock t s) with state := 2, since := c.now }).each (tblArbs t) fun a c => c.freezeInternal a false := if_neg (not_not_intro h)

/-- A lock that stands ends with nothing but itself, where no learning waited for it. -/
theorem lockEnd_held (c : Chip) (t s : Nat) (h : (c.lock t s).state = 2) (hp : c.tbl.learnParked = []) : c.lockEnd t s = c.setLock t s default := by
  unfold Chip.lockEnd
  rw [h]
  exact no_parked_learning _ hp

/-- Settles O24: each stage of a lock rewrites its `SegLock`, and its drain freezes the table's arbiters. -/
theorem segmentLocks : Obligations.SegmentLocks := by
  intro tb seg s hl
  refine ⟨?set, ?drained, ?release, ?expired⟩
  case set =>
    rintro r w x rfl hr hf h0 rfl hc
    have hraw := lockRaw_wrote s.chip tb seg true
    have h := lock_answers (b := true) hr hf rfl hc
    simp only [if_true] at h
    rw [lockStart_free _ _ _ _ ((congrArg SegLock.state (lockRaw_lock s.chip tb seg true)).trans h0), lockRaw_now] at h
    obtain ⟨hlk, harb, hw⟩ := lockFreeze (lockRaw s.chip tb seg true) tb seg { state := 1, slot := r.slot, since := s.chip.now } true rfl
    generalize ((lockRaw s.chip tb seg true).setLock tb seg _).each _ _ = y at *
    rw [hraw.arbs] at harb
    rw [hraw.tbl] at hw
    have hb : ({ s.chip with arbs := y.arbs, tbl := { s.chip.tbl with locks := SMap.set s.chip.tbl.locks (lockKey tb seg) { state := 1, slot := r.slot, since := s.chip.now } } } : Chip).reported
        (fields [Reg.TBL_LOCK.id, Reg.ARB_STATUS_FROZEN.id, Reg.ARB_STATUS_INTERNAL.id, Reg.ARB_STATUS_DRAINED.id]) y := by
      have h1 := (hraw.set_arbs y.arbs).set_tbl { s.chip.tbl with locks := SMap.set s.chip.tbl.locks (lockKey tb seg) { state := 1, slot := r.slot, since := s.chip.now } }
      exact (h1.reported.mono (by simp +contextual [fields])).trans (hw.reported.mono (by simp +contextual [fields]))
    refine ⟨_, rfl, rfl, h.reply_mem hb.time, ?_, fun a => ?_, ?_⟩
    · exact (congrArg (fun x : Tables => SMap.get x.locks (lockKey tb seg)) h.tbl).trans hlk
    · exact (congrArg (SMap.get · a) h.arbs).trans (harb a)
    · have ht : (s.chip.doObjWrite r [lockBitWrite tb seg true]).steady.arbs = y.arbs := h.arbs
      show Chip.reported _ { s.chip with arbs := (s.chip.doObjWrite r [lockBitWrite tb seg true]).steady.arbs, tbl := _ } _
      rw [ht]
      exact h.frame hb (fields_not _ _ _ (by decide)) (fields_not _ _ _ (by decide)) hl
  case drained =>
    intro h1
    obtain ⟨hlk, harb, hw⟩ := lockFreeze s.chip tb seg { (s.chip.lock tb seg) with state := 2, since := s.chip.now } false (lockDrained_draining s.chip tb seg h1)
    generalize hy : Chip.lockDrained tb seg s.chip = y at *
    have hx : exec (.tblLockDrained tb seg) s = .next { s with chip := y.steady } := by
      rw [← hy]
      rfl
    have ha : y.steady.arbs = y.arbs := Chip.steady_arbs y
    refine ⟨_, hx, rfl, ?_, fun b => ?_, ?_⟩
    · exact (congrArg (fun x : Tables => SMap.get x.locks (lockKey tb seg)) (Chip.steady_tbl y)).trans hlk
    · exact (congrArg (SMap.get · b) ha).trans (harb b)
    · show Chip.wrote _ { s.chip with arbs := y.steady.arbs, tbl := _ } _
      rw [ha]
      exact hw.steady (fields_not _ _ _ (by decide)) (fields_not _ _ _ (by decide)) hl
  case release =>
    rintro r w x rfl hr hf h2 hs hp rfl hc
    have hraw := lockRaw_wrote s.chip tb seg false
    have h := lock_answers (b := false) hr hf (if_neg Bool.false_ne_true) (by rw [if_pos hs]; exact hc)
    rw [if_pos hs, lockEnd_held _ _ _ ((congrArg SegLock.state (lockRaw_lock s.chip tb seg false)).trans h2)
      ((congrArg Tables.learnParked hraw.tbl).trans hp), Chip.setLock, hraw.tbl] at h
    have hb := (hraw.set_tbl { s.chip.tbl with locks := SMap.set s.chip.tbl.locks (lockKey tb seg) default }).reported
    refine ⟨_, rfl, rfl, h.reply_mem hb.time, ?_, h.frame hb (fields_not _ _ _ (by decide)) (fields_not _ _ _ (by decide)) hl⟩
    exact (congrArg (fun x : Tables => SMap.get x.locks (lockKey tb seg)) h.tbl).trans
      (show SMap.get (SMap.set s.chip.tbl.locks (lockKey tb seg) default) (lockKey tb seg) = default from SMap.get_set_same _ _ _)
  case expired =>
    intro h2 hsince hp
    have hx : Chip.lockExpired tb seg s.chip = (s.chip.setLock tb seg default).notify Nt.LOCK_EXPIRED Cls.TBL tb 0x02 := by
      unfold Chip.lockExpired
      rw [← lockEnd_held s.chip tb seg h2 hp]
      exact if_pos ⟨h2, hsince⟩
    refine ⟨_, rfl, rfl, ?_⟩
    simp only [hx]
    have hb : (s.chip.setLock tb seg default).reported (fun _ => False) ((s.chip.setLock tb seg default).notify Nt.LOCK_EXPIRED Cls.TBL tb 0x02).steady :=
      Chip.reported.steady (Chip.notify_reported _ _ _ _ _ _) id id hl
    exact ⟨(congrArg (fun x : Tables => SMap.get x.locks (lockKey tb seg)) hb.tbl).trans (setLock_lock _ _ _ _), hb⟩

end Sys2Proof.Freezes
end

section
/-! PROOFS. Packet commands on attributes: queries, stored writes, and writes that act (R5, R164, R168, R199, R201, R217, R394 to R402). -/

namespace Sys2Proof.Packets
open Sys2Proof.Machine Sys2Proof.Laws Sys2Proof.Freezes

/-! ### Queries -/

/-- A query as a command: it completes with its answer, and only the reply moves anything. -/
theorem query_completes {s : State} {r : Req} {i : Instr} {op : Nat} {body : Chip → Res} {l : List Tlv} (hl : s.Limits) (h0 : r.txn = 0)
    (h1 : s.chip.mayRun r i = true) (hi : exec i s = onChip (fun c => c.direct r i body) s) (hb : body s.chip = { chip := s.chip, tlvs := l })
    (ho : opOf i = op) (hf : fitsRoom (s.chip.replyRoom r.via) l = true) :
    ∃ t, exec i s = .next t ∧ t.pending = s.pending ∧ s.chip.answers t.chip r op .ok l :=
  ⟨_, hi, rfl, Chip.direct_answers h1 h0 hb ho hf hl.adj⟩

/-- Settles O18: each query answers from the block as it stands. -/
theorem queriesAnswer : Obligations.QueriesAnswer := by
  intro r s hl h0
  refine ⟨?nop, ?identify, ?timeGet, ?cntRead, ?jrnRead⟩
  case nop => exact fun h1 => query_completes hl h0 h1 rfl rfl rfl (fitsRoom_nil _)
  case identify => exact fun h1 hf => query_completes hl h0 h1 rfl rfl rfl hf
  case timeGet =>
    rintro l h1 rfl hf
    exact query_completes hl h0 h1 rfl rfl rfl hf
  case cntRead =>
    intro sels h1 hne hlen hsel hf
    refine query_completes hl h0 h1 rfl (if_neg ?_) rfl hf
    simp only [not_or, List.any_eq_true, Bool.or_eq_true, decide_eq_true_eq, bne_iff_ne, not_exists, not_and]
    refine ⟨by omega, hne, fun x hx => ?_⟩
    obtain ⟨hg, hz⟩ := hsel x hx
    exact ⟨by omega, not_not_intro hz⟩
  case jrnRead =>
    rintro first n l h1 hpos hmax rfl hf
    exact query_completes hl h0 h1 rfl (if_neg (by omega)) rfl hf

/-- Settles O19: each status query answers from the block as it stands. -/
theorem statusQueriesAnswer : Obligations.StatusQueriesAnswer := by
  intro r s hl h0
  refine ⟨?twin, ?fab, ?route, ?fw, ?lookup⟩
  case twin => exact fun h1 hf => query_completes hl h0 h1 rfl rfl rfl hf
  case fab =>
    intro l h1 hr hf
    exact query_completes hl h0 h1 rfl (by simp only [hr]) rfl hf
  case route =>
    intro p dev cls u ps h1 hp hfp hc hf
    refine query_completes hl h0 h1 rfl ((if_neg (Nat.not_lt.2 hp)).trans ?_) rfl hf
    simp only [Option.getD_some, hfp, Bool.false_eq_true, if_false, hc]
  case fw => exact fun h1 hf => query_completes hl h0 h1 rfl rfl rfl hf
  case lookup =>
    rintro tb sel l h1 hs hd rfl hf
    refine query_completes hl h0 h1 rfl ?_ rfl hf
    simp only [hs, hd, Bool.not_true, Bool.false_eq_true, if_false]
    cases s.chip.selIndex tb sel <;> rfl

/-! ### A write that is stored (R400) -/

/-- Most attributes set nothing off when they are written. -/
theorem writeHook_plain (c old : Chip) (r : Req) {cls attr : Nat} (i e v m : Nat)
    (h : (cls, attr) ∉ [(Cls.DEV, 0x28), (Cls.TBL, 0x02), (Cls.PORT, 0x52), (Cls.DEV, 0x7A)]) : c.writeHook old r cls attr i e v m = c := by
  simp only [List.mem_cons, Prod.mk.injEq, List.not_mem_nil, or_false, not_or] at h
  obtain ⟨h1, h2, h3, h4⟩ := h
  unfold Chip.writeHook
  rw [if_neg h1, if_neg h2, if_neg h3, if_neg h4]

theorem tripCleared_untripped {old : Chip} (c : Chip) (h : old.on Reg.THERM_STATUS_TRIP = false) : Chip.tripCleared old c = c := by
  unfold Chip.tripCleared
  exact if_pos (.inl (by simp [h]))

/-- Settles O22: the element is written field by field, and the answer moves none of its fields but those that reports move. -/
theorem objWriteStores : Obligations.ObjWriteStores := by
  intro r w a i e v m s hr hf hp hn ha hplain htrip hc
  have hy := writeHook_plain (s.chip.writeElem a i e v m) s.chip r i e v m hplain
  have h := elem_write_answers hn ha hr hf hp hy hc
  obtain ⟨hin, hout, hrest⟩ := Chip.writeElem_rd s.chip a i e v m (flds_nodup a (Chip.resolve_mem (Chip.parse_resolve hp) hn))
  have hx := exec_next (i := .objWrite r [w]) (s := s) (g := fun c => c.tripCleared (c.doObjWrite r [w])) rfl
    (tripCleared_untripped (s.chip.doObjWrite r [w]) htrip)
  have ht : (s.chip.writeElem a i e v m).time = s.chip.time := (congrArg Chip.time hrest :)
  refine ⟨_, hx, rfl, h.reply_mem ht, fun F hF hw h1 h2 => ?_, fun F j f hF h1 h2 => ?_⟩
  · exact (h.rd F i e h1 h2).trans (hin F hF hw)
  · exact (h.rd F j f h1 h2).trans (hout F j f hF)

/-! ### Writes that act (R168, R199, R201, R217) -/

/-- The whole value of an acting write, no mask given. -/
theorem wholeValue (n v : Nat) : natOfBytes (bytesOfNat n v) &&& natOfBytes (bytesOfNat n v) = v % 2 ^ (8 * n) := by
  rw [Nat.and_self, natOfBytes_bytesOfNat]

/-- A write of ADJ, as a change of the command's own places. -/
theorem setAdj_reported {own : Nat → Prop} (c : Chip) (z : Int) (ha : own (Reg.ADJ.key 0 0)) (hc : own (Reg.TIME_STATUS_ADJ_CLIP.key 0 0)) :
    c.reported own (c.setAdj z) := by
  have h : ∀ y, c.reported own (c.wrS Reg.ADJ y) := fun y => .wr _ _ _ _ _ (.inl ha)
  unfold Chip.setAdj
  exact .ite (h _) ((h _).andFlag _ _ _ _ (.inl hc))

/-- An offset that the guard lets pass (R168). -/
theorem hpiWrite_accepted (c : Chip) (z : Int) (h : c.jumpRefused z = false) : c.hpiWrite z =
    (c.wrS Reg.HPI_INTEG (satS 32 (c.rdS Reg.HPI_INTEG + (c.rd Reg.HPI_GAIN_KI : Int) * z / 2 ^ 24))).setAdj
      ((c.rd Reg.HPI_GAIN_KP : Int) * z / 2 ^ 24 + satS 32 (c.rdS Reg.HPI_INTEG + (c.rd Reg.HPI_GAIN_KI : Int) * z / 2 ^ 24)) :=
  if_neg (by simp [h])

theorem actWrite_hpi (c : Chip) {z : Int} {w : ObjWrite}
    (hw : w = { obj := objId Cls.TIME 0 0x0B, elem := none, value := bytesOfNat 8 (encS 64 z), mask := none })
    (h1 : -(2 ^ 63 : Int) ≤ z) (h2 : z < 2 ^ 63) (hm : c.rd Reg.SERVO_CTRL_SERVO_MODE = 2) : c.actWrite w = (.ok, [], c.hpiWrite z) := by
  have hz : signed 64 (encS 64 z % 2 ^ (8 * 8)) = z := signed_encS (by decide) h1 h2
  unfold Chip.actWrite
  simp only [hw, wholeValue, hz, hm]
  rfl

theorem setAdj_integ (c : Chip) (n a : Int) (h1 : -(2 ^ 31 : Int) ≤ n) (h2 : n < 2 ^ 31) : ((c.wrS Reg.HPI_INTEG n).setAdj a).rdS Reg.HPI_INTEG = n := by
  unfold Chip.rdS
  rw [Chip.setAdj_rd _ _ _ _ _ (by decide) (by decide)]
  unfold Chip.wrS
  rw [Chip.rd_wr_same]
  exact signed_encS (by decide) h1 h2

theorem satS_bounds (w : Nat) (z : Int) : -((2 ^ (w - 1) : Nat) : Int) ≤ satS w z ∧ satS w z < ((2 ^ (w - 1) : Nat) : Int) := by
  have hp : 0 < 2 ^ (w - 1) := Nat.two_pow_pos _
  exact ⟨le_max_left _ _, by unfold satS; omega⟩

/-- ADJ and the fields that no report moves, after a report. -/
theorem reported_rdS {c d : Chip} (h : c.reported (fun _ => False) d) (F : Fld) (i e : Nat) (h1 : F.id ∉ reportIds) (h2 : F.id ∉ steadyIds) :
    d.rdS F i e = c.rdS F i e := congrArg (signed F.width) (h.rd F i e id h1 h2)

theorem reported_adj {c d : Chip} (h : c.reported (fun _ => False) d) : d.rdS Reg.ADJ = c.rdS Reg.ADJ := by
  obtain ⟨-, -, hadj, -⟩ := h
  exact congrArg (signed 32) (hadj id)

/-- The number of the object of an object ID. -/
theorem objId_syn : ∀ d : Fin 5, objCls (objId Cls.SYN d 0x10) = Cls.SYN ∧ objInst (objId Cls.SYN d 0x10) = d.val ∧ objAttr (objId Cls.SYN d 0x10) = 0x10 := by
  decide

theorem objId_evo : ∀ n : Fin 32, objCls (objId Cls.EVT (32 + n) 0x33) = Cls.EVT ∧ objInst (objId Cls.EVT (32 + n) 0x33) = 32 + n.val ∧
    objAttr (objId Cls.EVT (32 + n) 0x33) = 0x33 := by decide

theorem bitsOf_eq (v lo w : Nat) : bitsOf v lo w = v / 2 ^ lo % 2 ^ w := by
  unfold bitsOf
  rw [Nat.shiftRight_eq_div_pow]

/-- A target request with room in its queue (R217). -/
theorem actWrite_velocity (c : Chip) {d : Fin 5} {v : Nat} {l : List (Nat × Int × Nat)} {w : ObjWrite}
    (hw : w = { obj := objId Cls.SYN d 0x10, elem := none, value := bytesOfNat 16 v, mask := none }) (hv : v < 2 ^ 128)
    (ht : c.targetOk d (signed 64 (v / 2 ^ 64)) = true) (hs : v % 2 ^ 32 ≤ 65535000) (ho : c.rd Reg.SYN_OWNER_OWNER d = 0)
    (hq : l = (c.dpll d).gen.reqs.filter (fun x => decide (x.1 < c.now + unitsNs (v % 2 ^ 32)))) (hlen : l.length < 4) :
    c.actWrite w = (.ok, [], c.updGen d fun g => { g with reqs := l ++ [(c.now + unitsNs (v % 2 ^ 32), signed 64 (v / 2 ^ 64), v / 2 ^ 32 % 2 ^ 32)] }) := by
  obtain ⟨hcls, hinst, -⟩ := objId_syn d
  have h0 : bitsOf v 0 32 = v % 2 ^ 32 := by rw [bitsOf_eq, Nat.pow_zero, Nat.div_one]
  have h64 : bitsOf v 64 64 = v / 2 ^ 64 := by rw [bitsOf_eq]; omega
  have hvel : c.velRequest d (c.now + unitsNs (v % 2 ^ 32)) (signed 64 (v / 2 ^ 64)) (v / 2 ^ 32 % 2 ^ 32) =
      (.ok, c.updGen d fun g => { g with reqs := l ++ [(c.now + unitsNs (v % 2 ^ 32), signed 64 (v / 2 ^ 64), v / 2 ^ 32 % 2 ^ 32)] }) := by
    unfold Chip.velRequest
    rw [if_neg (by omega), ← hq, if_neg (by omega)]
  unfold Chip.actWrite
  simp only [hw, wholeValue, hcls, hinst, Nat.mod_eq_of_lt hv]
  rw [if_neg (by decide), if_neg (by decide), if_pos trivial]
  unfold Chip.velHost
  have hmod : v % 4294967296 ≤ 65535000 := hs
  simp only [h0, h64, bitsOf_eq v 32 32, ht, ho, hvel]
  simp [hmod]

/-- The value of EVO_REQ holds the time above the action above the width. -/
theorem evoValue_parts (time : Nat) {act width : Nat} (ha : act < 4) (hw : width < 2 ^ 30) (ht : time < 2 ^ 96) :
    let v := (time * 2 ^ 32 + act * 2 ^ 30 + width) % 2 ^ (8 * 16)
    bitsOf v 32 96 = time ∧ bitsOf v 30 2 = act ∧ bitsOf v 0 30 = width := by
  simp only [bitsOf_eq]
  omega

/-- An event request in form, of an output that the host owns, is the request itself. -/
theorem actWrite_event (c : Chip) {n : Fin 32} {time act width : Nat} {w : ObjWrite}
    (hw : w = { obj := objId Cls.EVT (32 + n) 0x33, elem := none, value := bytesOfNat 16 (time * 2 ^ 32 + act * 2 ^ 30 + width), mask := none })
    (ha : act < 4) (hwd : if act = 3 then 6 ≤ width ∧ width < 2 ^ 30 else width = 0) (ht : time < 2 ^ 96) (h6 : time % 2 ^ 6 = 0)
    (hns : time / 2 ^ 16 % 2 ^ 32 < nsPerS) (ho : c.rd Reg.EVO_CFG_OWNER (32 + n) = 1) :
    c.actWrite w = ((c.evoRequest n (timeOf96 time) act width).1, [], (c.evoRequest n (timeOf96 time) act width).2) := by
  obtain ⟨hcls, hinst, -⟩ := objId_evo n
  have hlt : width < 2 ^ 30 := by split at hwd <;> omega
  obtain ⟨hT, hA, hW⟩ := evoValue_parts time ha hlt ht
  have hform : ¬ (bitsOf time 0 6 ≠ 0 ∨ nsPerS ≤ bitsOf time 16 32 ∨ (act = 3 ∧ (width < 6 ∨ 1073741823 < width)) ∨ (act ≠ 3 ∧ width ≠ 0)) := by
    rw [bitsOf_eq, bitsOf_eq, Nat.pow_zero, Nat.div_one]
    split at hwd <;> omega
  unfold Chip.actWrite
  simp only [hw, wholeValue, hcls, hinst]
  rw [if_neg (by decide), if_pos trivial]
  simp only [show Reg.EVO_REQ_TIME.lo = 32 from rfl, show Reg.EVO_REQ_ACTION.lo = 30 from rfl, show Reg.EVO_REQ_ACTION.width = 2 from rfl,
    show Reg.EVO_REQ_WIDTH.lo = 0 from rfl, show Reg.EVO_REQ_WIDTH.width = 30 from rfl, hT, hA, hW]
  unfold Chip.evoHost
  rw [if_neg hform, if_neg (not_not_intro ho), Nat.add_sub_cancel_left]

/-- An event request that is neither late nor far, in a queue with room and far enough from every queued edge, is queued in order (R201). -/
theorem evoRequest_queued (c : Chip) {n t act width : Nat} {e1 e2 : EvoEdge} {q : List EvoEdge}
    (h1 : e1 = { adj := (t : Int) - c.outLag n, t := t, act := if act = 3 then 1 - c.rd Reg.EVO_CFG_IDLE_LEVEL (32 + n) else act })
    (h2 : act = 3 → e2 = { adj := e1.adj + (width * 65536 : Nat), t := t + width * 65536, act := c.rd Reg.EVO_CFG_IDLE_LEVEL (32 + n) })
    (hq : q = if act = 3 then [e1, e2] else [e1]) (hnear : ((c.tb16 + 20 * 65536 : Nat) : Int) ≤ e1.adj) (hfar : t ≤ c.tb16 + 1000000000 * 65536)
    (hlen : (SMap.get c.evos n).queue.length < 16)
    (hgap : ∀ e ∈ q, ∀ o ∈ (SMap.get c.evos n).queue.flatten, 512 * 65536 < (e.adj - o.adj).natAbs * 100) :
    c.evoRequest n t act width = (.ok, (c.updEvo n fun o => { o with queue := insertReq q o.queue }).showQueued n) := by
  have hc : q.any (fun e => (SMap.get c.evos n).queue.flatten.any fun x => decide ((e.adj - x.adj).natAbs * 100 ≤ 512 * 65536)) = false := by
    simp only [List.any_eq_false, decide_eq_true_eq, Bool.not_eq_true]
    exact fun e he => fun o ho => Nat.not_le.2 (hgap e he o ho)
  have hn20 : (ns20 : Nat) = 20 * 65536 := rfl
  unfold Chip.evoRequest
  extract_lets idle lag e r queued
  have he : e = e1 := h1.symm
  have hr : r = q := by
    rw [hq]
    by_cases h3 : act = 3
    · exact (if_pos h3).trans (by rw [if_pos h3, h2 h3, he])
    · exact (if_neg h3).trans (by rw [if_neg h3, he])
  rw [he, hr, if_neg (by omega), if_neg (by omega), if_neg (Nat.not_le.2 hlen), if_neg (by rw [hc]; exact Bool.false_ne_true)]

/-- The queue of an event output and its length are no part of the limits. -/
theorem queued_adj {c : Chip} (hl : c.Limits) (n : Nat) (f : Evo → Evo) :
    (((c.updEvo n f).showQueued n).rdS Reg.ADJ).natAbs ≤ ppbUnits (((c.updEvo n f).showQueued n).rd Reg.SERVO_CTRL_MAX_ADJ) := by
  have hu : ((c.updEvo n f).rdS Reg.ADJ).natAbs ≤ ppbUnits ((c.updEvo n f).rd Reg.SERVO_CTRL_MAX_ADJ) := Chip.adjOk_of_regs rfl hl.adj
  have h : (c.updEvo n f).reported (fields [Reg.EVO_STATUS_QUEUED.id]) ((c.updEvo n f).showQueued n) := by
    unfold Chip.showQueued
    exact .ite (.wr _ _ _ _ _ (.inl (by simp [fields_iff]))) (.refl _ _)
  exact Chip.adjOk_of_reported h (fields_not _ _ _ (by decide)) (fields_not _ _ _ (by decide)) hu

/-- Settles O21: each write acts as its register does, and is answered. -/
theorem directWritesAct : Obligations.DirectWritesAct := by
  intro r s hl
  refine ⟨?hpi, ?velocity, ?events⟩
  case hpi =>
    rintro z w rfl hr hf h1 h2 hm hj hc
    have he := Chip.acting_write (w := { obj := objId Cls.TIME 0 0x0B, elem := none, value := bytesOfNat 8 (encS 64 z), mask := none })
      (.inl ⟨show objCls (objId Cls.TIME 0 0x0B) = Cls.TIME by decide, show objAttr (objId Cls.TIME 0 0x0B) = 0x0B by decide⟩) hr hf (actWrite_hpi s.chip rfl h1 h2 hm) hc
    rw [hpiWrite_accepted s.chip z hj] at he
    refine ⟨_, _, _, exec_next (g := Chip.doHpiOffset r z) rfl he, rfl, rfl, rfl, ?_⟩
    obtain ⟨hlo, hhi⟩ := satS_bounds 32 (s.chip.rdS Reg.HPI_INTEG + (s.chip.rd Reg.HPI_GAIN_KI : Int) * z / 2 ^ 24)
    generalize satS 32 _ = n at *
    generalize (s.chip.rd Reg.HPI_GAIN_KP : Int) * z / 2 ^ 24 + n = a
    have hans := (Chip.answers.reply (Chip.setAdj_clip (s.chip.wrS Reg.HPI_INTEG n) a) r 0x0102 .ok []).2
    refine ⟨?_, ?_, ?_⟩
    · rw [reported_rdS hans _ _ _ (by decide) (by decide)]
      exact setAdj_integ s.chip n a hlo hhi
    · rw [reported_adj hans, Chip.setAdj_rdS, Chip.wrS_id _ _ _ _ _ _ _ (by decide)]
    · refine Chip.reported.trans ?_ (hans.mono fun _ hk => hk.elim)
      exact (Chip.reported.wr _ _ _ _ _ (.inl (by simp [places]))).trans (setAdj_reported _ _ (by simp [places]) (by simp [places]))
  case velocity =>
    rintro d v w l rfl hr hf hv ht hs ho hq hlen x hc
    obtain ⟨hcls, -, hattr⟩ := objId_syn d
    have he := Chip.acting_write (.inr (.inr ⟨hcls, hattr⟩)) hr hf (actWrite_velocity s.chip rfl hv ht hs ho hq hlen) hc
    have hd : s.chip.doSynVreq r d v = x.reply r 0x0102 .ok [] := he
    refine ⟨_, exec_next rfl hd, rfl, Chip.answers.reply (Chip.adjOk_of_regs (d := x) rfl hl.adj) _ _ _ _⟩
  case events =>
    rintro n time width act i w e1 e2 q hi rfl hr hf ht h6 hns hw1 hw2 ho h1 h2 hq hnear hfar hlen hgap x hc
    obtain ⟨hcls, -, hattr⟩ := objId_evo n
    have hact : act < 4 ∧ exec i s = onChip (Chip.doEvoReq r n time act (if act = 3 then width else 0)) s := by
      simp only [List.mem_cons, Prod.mk.injEq, List.not_mem_nil, or_false] at hi
      rcases hi with ⟨rfl, rfl⟩ | ⟨rfl, rfl⟩ | ⟨rfl, rfl⟩ | ⟨rfl, rfl⟩ <;> exact ⟨by decide, rfl⟩
    obtain ⟨ha, hex⟩ := hact
    have hwd : if act = 3 then 6 ≤ (if act = 3 then width else 0) ∧ (if act = 3 then width else 0) < 2 ^ 30 else (if act = 3 then width else 0) = 0 := by
      split
      · exact ⟨hw1, hw2⟩
      · rfl
    have hreq := evoRequest_queued (width := if act = 3 then width else 0) s.chip h1 (fun h3 => by rw [if_pos h3]; exact h2) hq hnear hfar hlen hgap
    have hx := actWrite_event s.chip rfl ha hwd ht h6 hns ho
    rw [hreq] at hx
    have he := Chip.acting_write (.inr (.inl ⟨hcls, hattr⟩)) hr hf hx hc
    have hd : s.chip.doEvoReq r n time act (if act = 3 then width else 0) = x.reply r 0x0102 .ok [] := by
      have hwm : (if act = 3 then width else 0) % 2 ^ 30 = if act = 3 then width else 0 := by
        split
        · exact Nat.mod_eq_of_lt hw2
        · rfl
      unfold Chip.doEvoReq Chip.writeOne
      rw [Nat.mod_eq_of_lt ha, hwm]
      exact he
    exact ⟨_, exec_next hex hd, rfl, Chip.answers.reply (queued_adj hl _ _) _ _ _ _⟩

end Sys2Proof.Packets
end

section
/-! PROOFS. Calibration, captures, the Lull test and records (R394, R425 to R439). -/

namespace Sys2Proof.Service
open Sys2Proof.Machine Sys2Proof.Laws Sys2Proof.Packets

/-! ### What the Lull test shows -/

/-- The fields of LULL_FAULT. -/
def lullFaultIds : List Nat :=
  [Reg.LULL_FAULT_KIND.id, Reg.LULL_FAULT_TABLE.id, Reg.LULL_FAULT_INDEX.id, Reg.LULL_FAULT_DETAIL.id, Reg.LULL_FAULT_SEC.id]

theorem lullFault_reported (c : Chip) (k t n : Nat) (z : Int) : c.reported (fields lullFaultIds) (c.lullFault k t n z) := by
  unfold Chip.lullFault Chip.wrS
  refine .andWr (.andWr (.andWr (.andWr (.wr _ _ _ _ _ ?_) _ _ _ _ ?_) _ _ _ _ ?_) _ _ _ _ ?_) _ _ _ _ ?_
  all_goals exact .inl ((fields_iff _ _ _).2 (by decide))

theorem lullFault_rd (c : Chip) (k t n : Nat) (z : Int) (F : Fld) (i e : Nat) (h : F.id ∉ lullFaultIds) :
    (c.lullFault k t n z).rd F i e = c.rd F i e := by
  simp only [lullFaultIds, List.mem_cons, List.not_mem_nil, or_false, not_or] at h
  obtain ⟨h1, h2, h3, h4, h5⟩ := h
  unfold Chip.lullFault
  rw [Chip.rd_wr_id _ _ _ _ _ _ h5, Chip.wrS_id _ _ _ _ _ _ _ h4, Chip.rd_wr_id _ _ _ _ _ _ h3, Chip.rd_wr_id _ _ _ _ _ _ h2,
    Chip.rd_wr_id _ _ _ _ _ _ h1]

theorem lullFault_on (c : Chip) (k t n : Nat) (z : Int) (F : Fld) (i e : Nat) (h : F.id ∉ lullFaultIds) :
    (c.lullFault k t n z).on F i e = c.on F i e := by
  unfold Chip.on
  rw [lullFault_rd _ _ _ _ _ _ _ _ h]

theorem lullFault_kind (c : Chip) {k : Nat} (t n : Nat) (z : Int) (h : k < 16) : (c.lullFault k t n z).rd Reg.LULL_FAULT_KIND = k := by
  unfold Chip.lullFault
  rw [Chip.rd_wr_id _ _ _ _ _ _ (by decide), Chip.wrS_id _ _ _ _ _ _ _ (by decide), Chip.rd_wr_id _ _ _ _ _ _ (by decide),
    Chip.rd_wr_id _ _ _ _ _ _ (by decide)]
  exact c.rd_wr_fits _ _ _ h

theorem lullFault_table (c : Chip) (k : Nat) {t : Nat} (n : Nat) (z : Int) (h : t < 16) : (c.lullFault k t n z).rd Reg.LULL_FAULT_TABLE = t := by
  unfold Chip.lullFault
  rw [Chip.rd_wr_id _ _ _ _ _ _ (by decide), Chip.wrS_id _ _ _ _ _ _ _ (by decide), Chip.rd_wr_id _ _ _ _ _ _ (by decide)]
  exact Chip.rd_wr_fits _ _ _ _ h

theorem lullFault_index (c : Chip) (k t : Nat) {n : Nat} (z : Int) (h : n < 2 ^ 32) : (c.lullFault k t n z).rd Reg.LULL_FAULT_INDEX = n := by
  unfold Chip.lullFault
  rw [Chip.rd_wr_id _ _ _ _ _ _ (by decide), Chip.wrS_id _ _ _ _ _ _ _ (by decide)]
  exact Chip.rd_wr_fits _ _ _ _ h

/-! ### Each test with each outcome (R433) -/

/-- The block with one more retired cell, shown. -/
def retire (c : Chip) (cell : Nat) : Chip :=
  ((({ (c.count Ev.LULL_CELL_BAD).lullFault 1 0 cell 0 with lull := { c.lull with retired := cell :: c.lull.retired } } : Chip).flag
    Reg.LULL_STATUS_CELL_FAULT true).wr Reg.LULL_STATUS_RETIRED (c.lull.retired.length + 1)).flag Reg.LULL_STATUS_RETIRE_FULL
      (decide (c.lull.retired.length + 1 = 4096))

/-- The block with an uncorrectable word noted and shown. -/
def noteBadWord (c : Chip) (tb i : Nat) : Chip :=
  ((({ c with lull := { c.lull with badWords := if c.lull.badWords.contains (tb, i) then c.lull.badWords else (tb, i) :: c.lull.badWords } } : Chip).count
    Ev.LULL_ECC_UNCORR).flag Reg.LULL_STATUS_ECC_UNCORR true).lullFault 2 tb i 0

theorem lullCell_pass (c : Chip) (cell : Nat) : c.lullCell cell true = c := if_pos (by simp)

theorem lullCell_full (c : Chip) {cell : Nat} (he : c.on Reg.LULL_CFG_EN = true) (hc : c.on Reg.LULL_CFG_CELLS = true)
    (ht : c.cellTestable cell = true) (hl : 4096 ≤ c.lull.retired.length) :
    c.lullCell cell false = ((c.count Ev.LULL_CELL_BAD).lullFault 1 0 cell 0).flag Reg.LULL_STATUS_RETIRE_FULL true :=
  (if_neg (by simp [he, hc, ht])).trans (if_pos hl)

theorem lullCell_retires (c : Chip) {cell : Nat} (he : c.on Reg.LULL_CFG_EN = true) (hc : c.on Reg.LULL_CFG_CELLS = true)
    (ht : c.cellTestable cell = true) (hl : c.lull.retired.length < 4096) : c.lullCell cell false = retire c cell := by
  have h : ((c.count Ev.LULL_CELL_BAD).lullFault 1 0 cell 0).lull = c.lull :=
    ((c.count_reported (own := fields lullFaultIds) ..).trans (lullFault_reported ..)).lull
  refine (if_neg (by simp [he, hc, ht])).trans ((if_neg (Nat.not_le.2 hl)).trans ?_)
  simp only [h]
  rfl

theorem lullScrub_runs (c : Chip) (tb i : Nat) (x : Ecc) (he : c.on Reg.LULL_CFG_EN = true) (hs : c.on Reg.LULL_CFG_SCRUB = true)
    (hl : c.locked tb i = false) (hf : c.arbFrozen (tblArb tb i) = false) :
    c.lullScrub tb i x = (match x with | .clean => c | .corrected => c.count Ev.LULL_ECC_CORR | .uncorrectable => noteBadWord c tb i) := by
  refine (if_neg (by simp [he, hs, hl, hf])).trans ?_
  cases x <;> rfl

theorem lullTdc_runs (c : Chip) (ch : Nat) (dev : Int) (he : c.on Reg.LULL_CFG_EN = true) (ht : c.on Reg.LULL_CFG_TDC = true) :
    c.lullTdc ch dev = if dev.natAbs * 1000 ≤ 6 * 1024 then c
      else ((c.count Ev.LULL_TDC_DEVIATE).flag Reg.LULL_STATUS_TDC_DEVIATE true).lullFault 3 0 ch dev := by
  unfold Chip.lullTdc
  simp only [he, ht, Bool.not_true, Bool.false_or, decide_eq_true_eq]

theorem lullEngine_runs (c : Chip) (e : Nat) (pass : Bool) (he : c.on Reg.LULL_CFG_EN = true) (ht : c.on Reg.LULL_CFG_ENGINES = true)
    (hn : c.on Reg.ENG_CFG_EN (256 + e) = false) :
    c.lullEngine e pass = if pass then c else ((c.count Ev.LULL_ENG_FAIL).flag Reg.LULL_STATUS_ENGINE_FAULT true).lullFault 4 0 e 0 := by
  unfold Chip.lullEngine
  simp only [he, ht, hn, Bool.not_true, Bool.false_or]

theorem mem_noteBadWord (c : Chip) (tb i : Nat) :
    (tb, i) ∈ (noteBadWord c tb i).lull.badWords ∧ ∀ w ∈ c.lull.badWords, w ∈ (noteBadWord c tb i).lull.badWords := by
  have h : (noteBadWord c tb i).lull.badWords = if c.lull.badWords.contains (tb, i) then c.lull.badWords else (tb, i) :: c.lull.badWords := by
    unfold noteBadWord
    rw [(lullFault_reported _ _ _ _ _).lull, Chip.flag_lull, (Chip.count_reported (own := fields lullFaultIds) _ _ _ _).lull]
  rw [h]
  split
  · next hc => exact ⟨List.elem_iff.1 hc, fun _ hw => hw⟩
  · exact ⟨List.mem_cons_self, fun _ hw => List.mem_cons_of_mem _ hw⟩

/-- The fields that a retired cell shows. -/
def retireIds : List Nat := lullFaultIds ++ [Reg.LULL_STATUS_CELL_FAULT.id, Reg.LULL_STATUS_RETIRED.id, Reg.LULL_STATUS_RETIRE_FULL.id]

theorem retire_reported (c : Chip) (cell : Nat) :
    ({ c with lull := { c.lull with retired := cell :: c.lull.retired } } : Chip).reported (fields retireIds) (retire c cell) := by
  have h : c.reported (fields retireIds) ((c.count Ev.LULL_CELL_BAD).lullFault 1 0 cell 0) :=
    (Chip.count_reported ..).trans ((lullFault_reported ..).mono (by simp +contextual [fields, retireIds]))
  refine (((h.set_lull _).andFlag _ _ _ _ (.inl ?_)).andWr _ _ _ _ (.inl ?_)).andFlag _ _ _ _ (.inl ?_)
  all_goals exact (fields_iff _ _ _).2 (by decide)

theorem retire_lull (c : Chip) (cell : Nat) : (retire c cell).lull = { c.lull with retired := cell :: c.lull.retired } := (retire_reported c cell).lull

/-- A channel or an engine found faulty: counted, its flag set, and shown. -/
theorem found_reported (c : Chip) (ev k n : Nat) (z : Int) (G : Fld) :
    c.reported (fields (lullFaultIds ++ [G.id])) (((c.count ev).flag G true).lullFault k 0 n z) := by
  refine Chip.reported.trans (b := (c.count ev).flag G true) (.andFlag (Chip.count_reported ..) _ _ _ _ (.inl ((fields_iff _ _ _).2 (by simp)))) ?_
  exact (lullFault_reported ..).mono (by simp +contextual [fields])

theorem found_on (c : Chip) (k t n : Nat) (z : Int) {G : Fld} (hG : G.id ∉ lullFaultIds) (h1 : G.width = 1) (hs : G.id ∉ steadyIds) :
    ((c.flag G true).lullFault k t n z).steady.on G = true := by
  rw [Chip.steady_on _ _ _ _ hs, lullFault_on _ _ _ _ _ _ _ _ hG, Chip.on_flag_same _ _ _ _ h1]

/-- Settles O12: each finding is noted, its flag stands and LULL_FAULT names it. -/
theorem lullFindings : Obligations.LullFindings := by
  intro s hl hen
  refine ⟨?cell, ?scrub, ?tdc, ?engine⟩
  case cell =>
    intro cell hc ht hlen hcell
    refine ⟨_, exec_next rfl (lullCell_retires s.chip hen hc ht hlen), rfl, ?_, ?_, ?_, ?_, ?_, ?_⟩
    · rw [Chip.steady_lull, retire_lull]
    · rw [Chip.steady_on _ _ _ _ (by decide), retire, Chip.on_id _ _ _ _ _ _ _ (by decide), Chip.on_wr_id _ _ _ _ _ _ (by decide),
        Chip.on_flag_same _ _ _ _ rfl]
    · rw [Chip.steady_rd _ _ _ _ (by decide), retire, Chip.rd_flag_id _ _ _ _ _ _ (by decide)]
      exact Chip.rd_wr_fits _ _ _ _ (Nat.lt_of_le_of_lt (Nat.succ_le_of_lt hlen) (by decide))
    · rw [Chip.steady_rd _ _ _ _ (by decide), retire, Chip.rd_flag_id _ _ _ _ _ _ (by decide), Chip.rd_wr_id _ _ _ _ _ _ (by decide),
        Chip.rd_flag_id _ _ _ _ _ _ (by decide)]
      exact lullFault_kind _ _ _ _ (by decide)
    · rw [Chip.steady_rd _ _ _ _ (by decide), retire, Chip.rd_flag_id _ _ _ _ _ _ (by decide), Chip.rd_wr_id _ _ _ _ _ _ (by decide),
        Chip.rd_flag_id _ _ _ _ _ _ (by decide)]
      exact lullFault_index _ _ _ _ hcell
    · exact (retire_reported s.chip cell).steady (fields_not _ _ _ (by decide)) (fields_not _ _ _ (by decide)) hl
  case scrub =>
    intro tb i hs hlk hf hi
    refine ⟨_, exec_next rfl (lullScrub_runs s.chip tb i .uncorrectable hen hs hlk hf), rfl, ?_, ?_, ?_, ?_, ?_⟩
    · rw [Chip.steady_lull]
      exact (mem_noteBadWord s.chip tb i).1
    · exact found_on _ _ _ _ _ (by decide) rfl (by decide)
    · rw [Chip.steady_rd _ _ _ _ (by decide)]
      exact lullFault_kind _ _ _ _ (by decide)
    · rw [Chip.steady_rd _ _ _ _ (by decide)]
      exact lullFault_table _ _ _ _ (by omega)
    · rw [Chip.steady_rd _ _ _ _ (by decide)]
      exact lullFault_index _ _ _ _ hi
  case tdc =>
    intro ch dev ht hd hch
    refine ⟨_, exec_next rfl ((lullTdc_runs s.chip ch dev hen ht).trans (if_neg (Nat.not_le.2 hd))), rfl, ?_, ?_, ?_, ?_⟩
    · exact found_on _ _ _ _ _ (by decide) rfl (by decide)
    · rw [Chip.steady_rd _ _ _ _ (by decide)]
      exact lullFault_kind _ _ _ _ (by decide)
    · rw [Chip.steady_rd _ _ _ _ (by decide)]
      exact lullFault_index _ _ _ _ hch
    · exact (found_reported ..).steady (fields_not _ _ _ (by decide)) (fields_not _ _ _ (by decide)) hl
  case engine =>
    intro e ht hn
    refine ⟨_, exec_next rfl (lullEngine_runs s.chip e false hen ht hn), rfl, ?_, ?_, ?_, ?_⟩
    · exact found_on _ _ _ _ _ (by decide) rfl (by decide)
    · rw [Chip.steady_rd _ _ _ _ (by decide)]
      exact lullFault_kind _ _ _ _ (by decide)
    · rw [Chip.steady_rd _ _ _ _ (by decide)]
      exact lullFault_index _ _ _ _ (by omega)
    · exact (found_reported ..).steady (fields_not _ _ _ (by decide)) (fields_not _ _ _ (by decide)) hl

/-! ### Calibration (R425 to R431) -/

/-- CAL_RUN as accepted: the run is noted and shown, and its request waits. -/
def startRun (c : Chip) (r : Req) (cal : Nat) : Chip :=
  (({ c with cal := { c.cal with run := some (r, cal) } } : Chip).flag Reg.CAL_STATUS_RUNNING true).park r (.calRun r cal) 0 0

/-- A request waits where there is room for one more. -/
theorem park_waits (c : Chip) (r : Req) (i : Instr) (dl tag : Nat) (h : c.parkedFull = false) :
    c.park r i dl tag = { c with parked := c.parked ++ [{ cmd := i, deadline := dl, tag := tag }] } := if_neg (by simp [h])

theorem startRun_waits {c : Chip} (r : Req) (cal : Nat) (h : c.parkedFull = false) : startRun c r cal =
    { c.flag Reg.CAL_STATUS_RUNNING true with
      cal := { c.cal with run := some (r, cal) }, parked := c.parked ++ [{ cmd := .calRun r cal, deadline := 0, tag := 0 }] } :=
  park_waits (({ c with cal := { c.cal with run := some (r, cal) } } : Chip).flag Reg.CAL_STATUS_RUNNING true) r (.calRun r cal) 0 0 h

theorem calRun_accepted {c : Chip} {r : Req} {cal : Nat} (hm : c.mayRun r (.calRun r cal) = true) (h0 : r.txn = 0) (hr : calRangeOk cal = true)
    (hv : calReservedOk cal = true) (hn : c.cal.run = none) (hp : c.parkedFull = false) (hfs : c.rd Reg.SEL_STATUS_FSTATE = 2)
    (hfr : c.rd Reg.SEL_STATUS_FREF = 0) (hts : c.rd Reg.SEL_STATUS_TSTATE = 2) (htr : c.rd Reg.SEL_STATUS_TREF = 4)
    (ha : calProc cal = 1 → ∀ n ∈ calItems cal, 40 ≤ n → c.rd Reg.CKO_ALIGN_ALIGN (n - 24) = 2) (ht : c.calTaken cal = none) :
    c.doCalRun r cal = startRun c r cal := by
  have hal : ¬ (calProc cal = 1 ∧ (calItems cal).any (fun n => decide (40 ≤ n) && c.rd Reg.CKO_ALIGN_ALIGN (n - 24) != 2) = true) := by
    rintro ⟨h1, h2⟩
    obtain ⟨n, hn, hx⟩ := List.any_eq_true.1 h2
    simp only [Bool.and_eq_true, decide_eq_true_eq, bne_iff_ne] at hx
    exact hx.2 (ha h1 n hn hx.1)
  unfold Chip.doCalRun
  simp only [hm, h0, hr, hv, hn, hp, hfs, hfr, hts, htr, ht]
  exact if_neg hal

/-- The candidates that the accepted items of a run give. -/
def newCands (c : Chip) (cal : Nat) (ms : List CalMeas) : List CalVal :=
  (((calItems cal).zip ms).filter fun y => (c.calJudge (calProc cal) y.2).1 == 0 && calProc cal != 3).map
    (fun y => { obj := calObj (calProc cal) y.1, val := calAttr (calProc cal) (c.calJudge (calProc cal) y.2).2.1, proc := calProc cal })

/-- Candidates with those of a run replaced or added. -/
def mergeCands (old new : List CalVal) : List CalVal := (old.filter fun v => !(new.any fun w => w.obj == v.obj)) ++ new

/-- A run at its end, before its reply. -/
def endRun (c : Chip) (q : Req) (cands : List CalVal) : Chip :=
  ((({ c with cal := { c.cal with run := none, cands := cands } } : Chip).flag Reg.CAL_STATUS_RUNNING false).flag Reg.CAL_STATUS_CANDIDATES
    (!cands.isEmpty)).unpark 0x0B01 q

theorem calRunDone_waiting {c : Chip} {q : Req} {cal : Nat} (ms : List CalMeas) (h : c.cal.run = some (q, cal)) :
    c.calRunDone ms = (endRun c q (mergeCands c.cal.cands (newCands c cal ms))).reply q 0x0B01 .ok
      [tlvData (32 * (((calItems cal).zip ms).map fun y => c.calRecord (calProc cal) y.1 y.2).length)
        (joinElems 32 (((calItems cal).zip ms).map fun y => c.calRecord (calProc cal) y.1 y.2)) 256] := by
  unfold Chip.calRunDone
  rw [h]
  rfl

theorem endRun_running (c : Chip) (q : Req) (l : List CalVal) : (endRun c q l).on Reg.CAL_STATUS_RUNNING = false :=
  (Chip.on_id _ _ _ _ _ _ _ (by decide)).trans (Chip.on_flag_same _ _ _ _ rfl)

theorem endRun_candidates (c : Chip) (q : Req) (l : List CalVal) : (endRun c q l).on Reg.CAL_STATUS_CANDIDATES = !l.isEmpty :=
  Chip.on_flag_same (({ c with cal := { c.cal with run := none, cands := l } } : Chip).flag Reg.CAL_STATUS_RUNNING false) _ _ _ rfl

/-- The fixed-latency procedure gives no candidates. -/
theorem newCands_of_proc3 (c : Chip) {cal : Nat} (ms : List CalMeas) (h : calProc cal = 3) : newCands c cal ms = [] := by
  simp [newCands, h]

/-- CAL_COMMIT with candidates `new` of its procedure: the attributes, the other copy, and what CAL_STATUS shows. -/
def commitCal (c : Chip) (new rest : List CalVal) : Chip :=
  let old := c.cal.newest.getD {}
  let t := time96 (c.nextTb / 2 ^ 24)
  let n : CalSet := { valid := true, count := (old.count + 1) % 2 ^ 32, lastTime := t, recs := calMerge old.recs new }
  let c1 := c.each new fun v c => c.putCal v
  ((((({ c1 with cal := { c1.cal.store n with cands := rest } } : Chip).flag Reg.CAL_STATUS_CAL_VALID true).flag Reg.CAL_STATUS_CANDIDATES
    (!rest.isEmpty)).flag Reg.CAL_STATUS_OVERRIDE false).wr Reg.CAL_STATUS_CAL_COUNT n.count).wr Reg.CAL_LAST t

/-- The candidates a commit takes, and those it leaves. -/
def picked (c : Chip) (cal : Nat) : List CalVal := c.cal.cands.filter fun v => calProc cal == 255 || v.proc == calProc cal
def unpicked (c : Chip) (cal : Nat) : List CalVal := c.cal.cands.filter fun v => !(calProc cal == 255 || v.proc == calProc cal)

theorem calBody_commits (c : Chip) (cal : Nat) (h : picked c cal ≠ []) : c.calBody cal =
    { chip := commitCal c (picked c cal) (unpicked c cal),
      record := some ((picked c cal).length, (picked c cal).flatMap fun v => bytesOfNat 4 v.obj ++ bytesOfNat 8 v.val) } :=
  if_neg h

theorem calCommit_done {c : Chip} {r : Req} {cal : Nat} (hr : c.ready r (.calCommit r cal)) (hp : calProc cal ≤ 3 ∨ calProc cal = 255)
    (hv : calReservedOk cal = true) (hne : picked c cal ≠ [])
    (hc : c.changeFail (commitCal c (picked c cal) (unpicked c cal)) (.calCommit r cal) = none) :
    (commitCal c (picked c cal) (unpicked c cal)).answered (c.doCalCommit r cal).steady r 0x0B02 .ok [] :=
  Chip.changeDirect_done hr (if_neg (by simp only [hv, Bool.true_eq_false, or_false]; omega)) (calBody_commits c cal hne) rfl rfl hc (fitsRoom_nil _)

theorem commitCal_valid (c : Chip) (new rest : List CalVal) : (commitCal c new rest).on Reg.CAL_STATUS_CAL_VALID = true := by
  unfold commitCal
  rw [Chip.on_wr_id _ _ _ _ _ _ (by decide), Chip.on_wr_id _ _ _ _ _ _ (by decide), Chip.on_id _ _ _ _ _ _ _ (by decide),
    Chip.on_id _ _ _ _ _ _ _ (by decide), Chip.on_flag_same _ _ _ _ rfl]

theorem commitCal_override (c : Chip) (new rest : List CalVal) : (commitCal c new rest).on Reg.CAL_STATUS_OVERRIDE = false := by
  unfold commitCal
  rw [Chip.on_wr_id _ _ _ _ _ _ (by decide), Chip.on_wr_id _ _ _ _ _ _ (by decide), Chip.on_flag_same _ _ _ _ rfl]

theorem commitCal_count (c : Chip) (new rest : List CalVal) :
    (commitCal c new rest).rd Reg.CAL_STATUS_CAL_COUNT = ((c.cal.newest.getD {}).count + 1) % 2 ^ 32 % 2 ^ Reg.CAL_STATUS_CAL_COUNT.width := by
  unfold commitCal
  rw [Chip.rd_wr_id _ _ _ _ _ _ (by decide), Chip.rd_wr_same]

/-! ### Captures (R439) -/

theorem diagCapture_accepted {c : Chip} {r : Req} {w : Nat} {host : Option (Nat × Nat)} (hm : c.mayRun r (.diagCapture r w host) = true)
    (h0 : r.txn = 0) (hk : captureOk w = true) (hh : captureNeedsHost w = true → host ≠ none) (hd : c.diag = none) (hp : c.parkedFull = false)
    (hb : bitsOf w 24 8 = 1 → c.captureBlocked (bitsOf w 18 6) (captureStart w) (captureLen w) = false)
    (he : bitsOf w 24 8 = 2 → c.rd Reg.ENG_STATUS_STATE (256 + bitsOf w 0 6) = 0 ∨ c.rd Reg.ENG_STATUS_STATE (256 + bitsOf w 0 6) = 6) :
    c.doDiagCapture r w host = ({ c with diag := some (r, w, host) } : Chip).park r (.diagCapture r w host) 0 0 := by
  have hhost : (captureNeedsHost w && host.isNone) = false := by
    cases hn : captureNeedsHost w
    · rfl
    · cases host
      · exact absurd rfl (hh hn)
      · rfl
  unfold Chip.doDiagCapture
  simp only [hm, h0, hk, hhost, hd, hp]
  rw [if_neg (by simp), if_neg (by simp), if_neg (by simp), if_neg (by simp), if_neg, if_neg]
  · rintro ⟨h1, h2⟩
    rw [hb h1] at h2
    exact Bool.false_ne_true h2
  · rintro ⟨h1, h2⟩
    rcases he h1 with h | h <;> simp [h] at h2

/-- A capture at its end, before its reply. -/
def endCapture (c : Chip) (q : Req) : Chip := ({ c with diag := none } : Chip).unpark 0x0B05 q

/-- What a finished capture gives: its bytes in the reply, or in the host's buffer. -/
def giveCapture (c : Chip) (q : Req) (b : Bytes) : Option (Nat × Nat) → Chip
  | none => c.reply q 0x0B05 .ok [tlvData b.length (natOfBytes b) 256]
  | some a => (c.emit (.hostWrite a.1 (b.take a.2))).reply q 0x0B05 .ok

theorem diagDone_waiting {c : Chip} {q : Req} {w : Nat} {host : Option (Nat × Nat)} (b : Bytes) (h : c.diag = some (q, w, host))
    (hh : bitsOf w 24 8 = 1 → c.captureHeld (bitsOf w 18 6) = false) : c.diagDone b = giveCapture (endCapture c q) q (c.captureBytes w b) host := by
  unfold Chip.diagDone
  rw [h]
  refine (if_neg ?_).trans ?_
  · rintro ⟨h1, h2⟩
    rw [hh h1] at h2
    exact Bool.false_ne_true h2
  · cases host <;> rfl

/-- Settles O27: a run and a capture wait, and at their end are answered; a commit is answered with the attributes set. -/
theorem calibrationAndCapture : Obligations.CalibrationAndCapture := by
  intro r s
  refine ⟨?run, ?runDone, ?commit, ?capture, ?captureDone⟩
  case run =>
    rintro cal x hm h0 hr hv hn hp hfs hfr hts htr ha ht rfl
    have he := calRun_accepted hm h0 hr hv hn hp hfs hfr hts htr ha ht
    refine ⟨_, exec_next rfl (he.trans (startRun_waits r cal hp)), rfl, rfl, ?_⟩
    rw [Chip.steady_on _ _ _ _ (by decide)]
    exact on_of_flag_regs s.chip true rfl _ rfl
  case runDone =>
    rintro q cal ms new x hrun rfl rfl
    have ha := Chip.answered.reply (endRun s.chip q (mergeCands s.chip.cal.cands (newCands s.chip cal ms))) q 0x0B01 .ok
    exact ⟨_, _, exec_next rfl (calRunDone_waiting ms hrun), rfl, ((ha _).on _ _ _ (by decide) (by decide)).trans (endRun_running ..), rfl, ha _⟩
  case commit =>
    rintro cal new n x hr hp hv rfl hne rfl rfl hc
    have h := calCommit_done hr hp hv hne hc
    exact ⟨_, rfl, rfl, (h.on _ _ _ (by decide) (by decide)).trans (commitCal_valid ..),
      (h.rd _ _ _ (by decide) (by decide)).trans (commitCal_count ..), h⟩
  case capture =>
    intro w host hm h0 hk hh hd hp hb he
    have hw := park_waits { s.chip with diag := some (r, w, host) } r (.diagCapture r w host) 0 0 hp
    exact ⟨_, exec_next rfl ((diagCapture_accepted hm h0 hk hh hd hp hb he).trans hw), rfl, rfl⟩
  case captureDone =>
    intro q w b hh
    refine ⟨fun hd => ?_, fun addr len hd => ?_⟩
    · exact ⟨_, exec_next rfl (diagDone_waiting b hd hh), rfl, Chip.answered.reply (endCapture s.chip q) q 0x0B05 .ok _⟩
    · exact ⟨_, exec_next rfl (diagDone_waiting b hd hh), rfl,
        Chip.answered.reply ((endCapture s.chip q).emit (.hostWrite addr ((s.chip.captureBytes w b).take len))) q 0x0B05 .ok _⟩

/-- Settles O60: each command of calibration, capture and the Lull test by the equation of its meaning. -/
theorem calibrationAndTestsComplete : Obligations.CalibrationAndTestsComplete := by
  rintro s go rfl
  refine ⟨?run, ?runDone, ?commit, ?capture, ?captureDone, fun hen => ⟨?cell, ?scrub, ?tdc, ?engine⟩⟩
  case run =>
    intro r cal hm h0 hr hv hn hp hfs hfr hts htr ha ht
    exact exec_next rfl (calRun_accepted hm h0 hr hv hn hp hfs hfr hts htr ha ht)
  case runDone =>
    intro q cal ms hrun
    have ha := Chip.answered.reply (endRun s.chip q (mergeCands s.chip.cal.cands (newCands s.chip cal ms))) q 0x0B01 .ok
    refine ⟨_, exec_next rfl (calRunDone_waiting ms hrun), rfl, ?_, ?_, ?_, ?_⟩
    · rw [(ha _).cal]
      rfl
    · exact ((ha _).on _ _ _ (by decide) (by decide)).trans (endRun_running ..)
    · rw [(ha _).cal]
      exact ((ha _).on _ _ _ (by decide) (by decide)).trans (endRun_candidates ..)
    · intro h3
      rw [(ha _).cal, newCands_of_proc3 _ _ h3]
      simp [endRun, mergeCands, Chip.unpark]
  case commit =>
    rintro r cal v x hr hp hv hmem hpick rfl hc
    have hne : picked s.chip cal ≠ [] := List.ne_nil_of_mem (List.mem_filter.2 ⟨hmem, by simpa using hpick⟩)
    rw [calBody_commits _ _ hne] at hc
    have h := calCommit_done hr hp hv hne hc
    refine ⟨_, rfl, rfl, (h.on _ _ _ (by decide) (by decide)).trans (commitCal_valid ..),
      (h.on _ _ _ (by decide) (by decide)).trans (commitCal_override ..), fun w hw => ?_⟩
    have hw' : w ∈ unpicked s.chip cal := by
      rw [show _ = _ from congrArg Cal.cands h.cal] at hw
      exact hw
    obtain ⟨hin, hnot⟩ := List.mem_filter.1 hw'
    simp only [Bool.not_eq_true', Bool.or_eq_false_iff, beq_eq_false_iff_ne] at hnot
    exact ⟨hnot.1, hnot.2, hin⟩
  case capture =>
    intro r w host hm h0 hk hh hd hp hb he
    exact exec_next rfl (diagCapture_accepted hm h0 hk hh hd hp hb he)
  case captureDone =>
    intro q w host b hd hh
    refine ⟨_, exec_next rfl (diagDone_waiting b hd hh), rfl, ?_⟩
    cases host with
    | none => exact (Chip.answered.reply (endCapture s.chip q) q 0x0B05 .ok _).diag
    | some a => exact (Chip.answered.reply ((endCapture s.chip q).emit (.hostWrite a.1 ((s.chip.captureBytes w b).take a.2))) q 0x0B05 .ok _).diag
  case cell =>
    intro cell hc ht
    refine ⟨exec_next rfl (lullCell_pass _ _), fun hlen => ?_, fun hlen => exec_next rfl (lullCell_full s.chip hen hc ht hlen)⟩
    refine ⟨_, exec_next rfl (lullCell_retires s.chip hen hc ht hlen), rfl, ?_, ?_⟩
    · rw [Chip.steady_lull, retire_lull]
    · rw [Chip.steady_on _ _ _ _ (by decide), retire, Chip.on_flag_same _ _ _ _ rfl]
      simp
  case scrub =>
    intro tb i hs hlk hf
    refine ⟨exec_next rfl (lullScrub_runs s.chip tb i .clean hen hs hlk hf), exec_next rfl (lullScrub_runs s.chip tb i .corrected hen hs hlk hf),
      _, exec_next rfl (lullScrub_runs s.chip tb i .uncorrectable hen hs hlk hf), rfl, ?_⟩
    rw [Chip.steady_lull]
    exact mem_noteBadWord s.chip tb i
  case tdc => exact fun ch dev ht => exec_next rfl (lullTdc_runs s.chip ch dev hen ht)
  case engine => exact fun e pass ht hn => exec_next rfl (lullEngine_runs s.chip e pass hen ht hn)

/-! ### Snapshots, marks, Lull control and loopback (R62, R69, R394, R434, R437) -/

/-- LULL_CTRL: the configuration as its word says. -/
def lullSet (c : Chip) (w : Nat) : Chip :=
  ((((((c.flag Reg.LULL_CFG_EN (bitOf w 31)).flag Reg.LULL_CFG_CELLS (bitOf w 27)).flag Reg.LULL_CFG_SCRUB (bitOf w 26)).flag
    Reg.LULL_CFG_TDC (bitOf w 25)).flag Reg.LULL_CFG_ENGINES (bitOf w 24)).wr Reg.LULL_CFG_PERIOD_S (bitsOf w 0 16)).flag Reg.LULL_STATUS_RUNNING (bitOf w 31)

theorem bitsOf_lt (v lo w : Nat) : bitsOf v lo w < 2 ^ w := by
  rw [bitsOf_eq]
  exact Nat.mod_lt _ (Nat.two_pow_pos w)

theorem lullSet_reads (c : Chip) (w : Nat) :
    (lullSet c w).on Reg.LULL_CFG_EN = bitOf w 31 ∧ (lullSet c w).on Reg.LULL_CFG_CELLS = bitOf w 27 ∧ (lullSet c w).on Reg.LULL_CFG_SCRUB = bitOf w 26 ∧
    (lullSet c w).on Reg.LULL_CFG_TDC = bitOf w 25 ∧ (lullSet c w).on Reg.LULL_CFG_ENGINES = bitOf w 24 ∧
    (lullSet c w).rd Reg.LULL_CFG_PERIOD_S = bitsOf w 0 16 ∧ (lullSet c w).on Reg.LULL_STATUS_RUNNING = bitOf w 31 := by
  unfold lullSet
  refine ⟨?_, ?_, ?_, ?_, ?_, ?_, Chip.on_flag_same _ _ _ _ rfl⟩
  case refine_6 =>
    rw [Chip.rd_flag_id _ _ _ _ _ _ (by decide)]
    exact Chip.rd_wr_fits _ _ _ _ (bitsOf_lt ..)
  all_goals rw [Chip.on_id _ _ _ _ _ _ _ (by decide), Chip.on_wr_id _ _ _ _ _ _ (by decide)]
  case refine_5 => exact Chip.on_flag_same _ _ _ _ rfl
  all_goals rw [Chip.on_id _ _ _ _ _ _ _ (by decide)]
  case refine_4 => exact Chip.on_flag_same _ _ _ _ rfl
  all_goals rw [Chip.on_id _ _ _ _ _ _ _ (by decide)]
  case refine_3 => exact Chip.on_flag_same _ _ _ _ rfl
  all_goals rw [Chip.on_id _ _ _ _ _ _ _ (by decide)]
  case refine_2 => exact Chip.on_flag_same _ _ _ _ rfl
  rw [Chip.on_id _ _ _ _ _ _ _ (by decide), Chip.on_flag_same _ _ _ _ rfl]

/-- Settles O26: each command's body is its own effect, and it is answered. -/
theorem recordAndTestCommands : Obligations.RecordAndTestCommands := by
  intro r s
  refine ⟨?snapshot, ?mark, ?lull, ?loopback⟩
  case snapshot =>
    intro hm h0 hf
    exact ⟨_, rfl, rfl, Chip.direct_done hm h0 rfl rfl hf⟩
  case mark =>
    intro v b hm h0 hh hb hv hf
    have hbody : (if s.chip.on Reg.JRN_STATUS_COMMIT_HOLD then s.chip.refuse .busy
        else if 256 < b.length ∨ 2 ^ 32 ≤ v then s.chip.refuse .badParam
        else { chip := s.chip.jrnCmd r 2 0x0702 0 v b, tlvs := [tlvJseq (s.chip.rd Reg.JRN_STATUS_NEXT_SEQ)] } : Res) =
        { chip := s.chip.jrnCmd r 2 0x0702 0 v b, tlvs := [tlvJseq (s.chip.rd Reg.JRN_STATUS_NEXT_SEQ)] } :=
      (if_neg (by simp [hh])).trans (if_neg (by omega))
    exact ⟨_, rfl, rfl, Chip.direct_done (x := { chip := s.chip.jrnCmd r 2 0x0702 0 v b, tlvs := [tlvJseq (s.chip.rd Reg.JRN_STATUS_NEXT_SEQ)] })
      hm h0 hbody rfl hf⟩
  case lull =>
    rintro w hr hp hz x rfl hc
    have h : (lullSet s.chip w).answered (s.chip.doLullCtrl r w).steady r 0x0B03 .ok [] :=
      Chip.changeDirect_done hr (if_neg (by rw [not_or]; exact ⟨hp, not_not_intro hz⟩)) rfl rfl rfl hc (fitsRoom_nil _)
    obtain ⟨h1, h2, h3, h4, h5, h6, h7⟩ := lullSet_reads s.chip w
    have hon := fun (F : Fld) => h.on F 0 0
    refine ⟨_, rfl, rfl, ?_, ?_, ?_, ?_, ?_, ?_, ?_, h⟩
    · exact (hon _ (by decide) (by decide)).trans h1
    · exact (hon _ (by decide) (by decide)).trans h2
    · exact (hon _ (by decide) (by decide)).trans h3
    · exact (hon _ (by decide) (by decide)).trans h4
    · exact (hon _ (by decide) (by decide)).trans h5
    · exact (h.rd _ _ _ (by decide) (by decide)).trans h6
    · exact (hon _ (by decide) (by decide)).trans h7
  case loopback =>
    rintro w n kind p x hr hok rfl rfl rfl hk rfl hc
    refine ⟨_, rfl, rfl, Chip.changeDirect_done hr ?_ rfl rfl rfl hc (fitsRoom_nil _)⟩
    refine (if_neg (by simp [hok])).trans (if_neg ?_)
    rintro ⟨h1, h2⟩
    rcases hk with h | h
    · exact h1 h
    · rw [h] at h2
      exact Bool.false_ne_true h2

end Sys2Proof.Service
end

section
/-! PROOFS. The keep-alive domain, reset and start, the temperature, the journal and factory test access (R391 to R393, R404 to R423, R441, R455). -/

namespace Sys2Proof.Upkeep
open Sys2Proof.Machine Sys2Proof.Laws Sys2Proof.Packets

/-! ### The keep-alive domain (R408, R423) -/

/-- Two fields of the keep-alive domain written: only they change. -/
theorem twoFlags_wrote (c : Chip) (F G : Fld) (a b : Bool) (hF : F.id ∉ steadyIds) (hG : G.id ∉ steadyIds) :
    c.wrote (places [F.key 0 0, G.key 0 0]) ((c.flag F a).flag G b) :=
  (Chip.wrote.flag _ _ _ _ _ (by simp [places]) hF).andFlag _ _ _ _ (by simp [places]) hG

theorem ka_steady {c d : Chip} {F G : Fld} (h : c.wrote (places [F.key 0 0, G.key 0 0]) d) (hl : c.Limits)
    (hm : Reg.SERVO_CTRL_MAX_ADJ.id ≠ F.id ∧ Reg.SERVO_CTRL_MAX_ADJ.id ≠ G.id)
    (hu : Reg.JRN_STATUS_UNSPILLED.id ≠ F.id ∧ Reg.JRN_STATUS_UNSPILLED.id ≠ G.id) : c.wrote (places [F.key 0 0, G.key 0 0]) d.steady :=
  h.steady (by simp [places, Fld.key_eq_iff, hm.1, hm.2]) (by simp [places, Fld.key_eq_iff, hu.1, hu.2]) hl

theorem flagPair_on (c : Chip) {F G : Fld} (a b : Bool) (hFG : F.id ≠ G.id) (hF : F.width = 1) (hG : G.width = 1) :
    ((c.flag F a).flag G b).on F = a ∧ ((c.flag F a).flag G b).on G = b :=
  ⟨(Chip.on_id _ _ _ _ _ _ _ hFG).trans (Chip.on_flag_same _ _ _ _ hF), Chip.on_flag_same _ _ _ _ hG⟩

/-- What the loss of VBAK leaves of the power state. -/
def lostPower (p : Pwr) : Pwr := { p with seqLost := p.seqLost || p.failed, pfOk := p.pfOk && !p.failed }

theorem lostPower_failed {p : Pwr} (h : p.failed = true) : lostPower p = { p with seqLost := true, pfOk := false } := by
  simp [lostPower, h]

theorem lostPower_up {p : Pwr} (h : p.failed = false) : lostPower p = p := by
  cases p
  simp_all [lostPower]

theorem vbakLost_eq (c : Chip) :
    c.vbakLost = { (c.flag Reg.KA_FLAGS_KA_VALID false).flag Reg.KA_FLAGS_VBAK_LOST true with pwr := lostPower c.pwr } := by
  unfold Chip.vbakLost
  by_cases h : c.pwr.failed = true
  · rw [lostPower_failed h]
    exact if_pos h
  · rw [lostPower_up (by simpa using h)]
    exact if_neg h

/-- The keep-alive time set to a second of the timebase, and valid. -/
def setKa (c : Chip) : Chip := ((c.wr Reg.KA_TIME_KA_SEC c.tbSec).wr Reg.KA_TIME_KA_TICK 0).flag Reg.KA_FLAGS_KA_VALID true

theorem kaSet_valid (c : Chip) (hv : c.on Reg.TIME_STATUS_TB_VALID = true) (hf : c.pwr.failed = false) :
    c.kaSet = { setKa c with pwr := { c.pwr with kaAt := c.now } } :=
  if_neg (by simp [hv, hf])

theorem setKa_sec (c : Chip) : (setKa c).rd Reg.KA_TIME_KA_SEC = c.tbSec % 2 ^ Reg.KA_TIME_KA_SEC.width := by
  rw [setKa, Chip.rd_flag_id _ _ _ _ _ _ (by decide), Chip.rd_wr_id _ _ _ _ _ _ (by decide), Chip.rd_wr_same]

theorem setKa_tick (c : Chip) : (setKa c).rd Reg.KA_TIME_KA_TICK = 0 := by
  rw [setKa, Chip.rd_flag_id _ _ _ _ _ _ (by decide), Chip.rd_wr_same, Nat.zero_mod]

theorem setKa_valid (c : Chip) : (setKa c).on Reg.KA_FLAGS_KA_VALID = true := by
  rw [setKa, Chip.on_flag_same _ _ _ _ rfl]

theorem setKa_wrote (c : Chip) :
    c.wrote (places [Reg.KA_TIME_KA_SEC.key 0 0, Reg.KA_TIME_KA_TICK.key 0 0, Reg.KA_FLAGS_KA_VALID.key 0 0]) (setKa c) :=
  ((Chip.wrote.wr _ _ _ _ _ (by simp [places]) (by decide)).andWr _ _ _ _ (by simp [places]) (by decide)).andFlag _ _ _ _ (by simp [places]) (by decide)

/-- The time of a power failure, latched. -/
def latchPf (c : Chip) : Chip := (c.wr Reg.KA_TIME_PF_SEC (c.kaNow / 32768)).wr Reg.KA_TIME_PF_TICK (c.kaNow % 32768)

theorem latchPf_sec (c : Chip) : (latchPf c).rd Reg.KA_TIME_PF_SEC = c.kaNow / 32768 % 2 ^ Reg.KA_TIME_PF_SEC.width := by
  rw [latchPf, Chip.rd_wr_id _ _ _ _ _ _ (by decide), Chip.rd_wr_same]

theorem latchPf_tick (c : Chip) : (latchPf c).rd Reg.KA_TIME_PF_TICK = c.kaNow % 32768 :=
  Chip.rd_wr_fits _ _ _ _ (Nat.lt_of_lt_of_le (Nat.mod_lt _ (by decide)) (by decide : 32768 ≤ 2 ^ Reg.KA_TIME_PF_TICK.width))

theorem latchPf_wrote (c : Chip) : c.wrote (places [Reg.KA_TIME_PF_SEC.key 0 0, Reg.KA_TIME_PF_TICK.key 0 0]) (latchPf c) :=
  (Chip.wrote.wr _ _ _ _ _ (by simp [places]) (by decide)).andWr _ _ _ _ (by simp [places]) (by decide)

/-- Settles O10: each event writes its own flags and time. -/
theorem keepAliveFlags : Obligations.KeepAliveFlags := by
  intro s hl
  refine ⟨?xtal, ?vbak, ?set⟩
  case xtal =>
    obtain ⟨h1, h2⟩ := flagPair_on s.chip (F := Reg.KA_FLAGS_KA_VALID) (G := Reg.KA_FLAGS_XTAL_FAIL) false true (by decide) rfl rfl
    refine ⟨_, rfl, rfl, (Chip.steady_on _ _ _ _ (by decide)).trans h1, (Chip.steady_on _ _ _ _ (by decide)).trans h2, ?_⟩
    exact ka_steady (twoFlags_wrote _ _ _ _ _ (by decide) (by decide)) hl (by decide) (by decide)
  case vbak =>
    obtain ⟨h1, h2⟩ := flagPair_on s.chip (F := Reg.KA_FLAGS_KA_VALID) (G := Reg.KA_FLAGS_VBAK_LOST) false true (by decide) rfl rfl
    refine ⟨_, exec_next rfl (vbakLost_eq s.chip), rfl, (Chip.steady_on _ _ _ _ (by decide)).trans h1, (Chip.steady_on _ _ _ _ (by decide)).trans h2, ?_⟩
    exact ka_steady (wrote_pwr (twoFlags_wrote _ _ _ _ _ (by decide) (by decide)) _) hl (by decide) (by decide)
  case set =>
    intro hv hf
    refine ⟨_, exec_next rfl (kaSet_valid s.chip hv hf), rfl, ?_, ?_, ?_, ?_⟩
    · exact (Chip.steady_rd _ _ _ _ (by decide)).trans (setKa_sec s.chip)
    · exact (Chip.steady_rd _ _ _ _ (by decide)).trans (setKa_tick s.chip)
    · exact (Chip.steady_on _ _ _ _ (by decide)).trans (setKa_valid s.chip)
    · exact (wrote_pwr (setKa_wrote s.chip) _).steady (by simp (decide := true) [places]) (by simp (decide := true) [places]) hl

/-- Settles O11: the time of the failure is latched, and that is all. -/
theorem powerFailLatchesTime : Obligations.PowerFailLatchesTime := by
  intro s hl
  refine ⟨_, rfl, rfl, ?_, ?_, ?_⟩
  · exact (Chip.steady_rd _ _ _ _ (by decide)).trans (latchPf_sec s.chip)
  · exact (Chip.steady_rd _ _ _ _ (by decide)).trans (latchPf_tick s.chip)
  · exact (wrote_pwr (latchPf_wrote s.chip) _).steady (by simp (decide := true) [places]) (by simp (decide := true) [places]) hl

/-! ### The temperature (R455) -/

/-- The number of the greatest of the sensors read so far. -/
def hottest (read : Nat → Int) (l : List Nat) (b : Nat) : Nat := l.foldl (fun b k => if read b < read k then k else b) b

theorem le_hottest (read : Nat → Int) (l : List Nat) (b : Nat) :
    read b ≤ read (hottest read l b) ∧ ∀ k ∈ l, read k ≤ read (hottest read l b) := by
  induction l generalizing b with
  | nil => exact ⟨le_refl _, fun _ h => absurd h List.not_mem_nil⟩
  | cons x l ih =>
    have hstep : hottest read (x :: l) b = hottest read l (if read b < read x then x else b) := rfl
    obtain ⟨h1, h2⟩ := ih (if read b < read x then x else b)
    rw [hstep]
    have hx : read b ≤ read (if read b < read x then x else b) ∧ read x ≤ read (if read b < read x then x else b) := by
      split <;> omega
    refine ⟨hx.1.trans h1, fun k hk => ?_⟩
    rcases List.mem_cons.1 hk with rfl | hk
    · exact hx.2.trans h1
    · exact h2 k hk

/-- The sample in its register. -/
def sampled (c : Chip) (n : Nat) (z : Int) : Chip := c.wrS Reg.THERM_TEMP (satS 16 z) 0 n

theorem sampled_temp (c : Chip) (n : Nat) (z : Int) : (sampled c n z).rdS Reg.THERM_TEMP 0 n = satS 16 z := by
  obtain ⟨h1, h2⟩ := satS_bounds 16 z
  unfold sampled Chip.rdS Chip.wrS
  rw [Chip.rd_wr_same]
  exact signed_encS (by decide) h1 h2

/-- The sensors shown after a sample: the hottest, its temperature, and the warning. -/
def shownTemps (c : Chip) (n : Nat) (z : Int) : Chip :=
  let c1 := sampled c n z
  let hot := hottest (fun k => c1.rdS Reg.THERM_TEMP 0 k) (List.range 8) 0
  let c2 := (c1.wr Reg.THERM_STATUS_HOTTEST hot).wrS Reg.THERM_STATUS_MAX_TEMP (c1.rdS Reg.THERM_TEMP 0 hot)
  if ((c.rd Reg.THERM_CFG_WARN_C * 8 : Nat) : Int) ≤ c1.rdS Reg.THERM_TEMP 0 hot then
    (c2.flag Reg.THERM_STATUS_WARN_NOW true).flag Reg.THERM_STATUS_WARN_SEEN true
  else if c1.rdS Reg.THERM_TEMP 0 hot < ((c.rd Reg.THERM_CFG_WARN_C * 8 : Nat) : Int) - (c.rd Reg.THERM_CFG_HYST * 8 : Nat) then
    c2.flag Reg.THERM_STATUS_WARN_NOW false
  else c2

theorem thermSample_below (c : Chip) (n : Nat) (z : Int) (h : satS 16 z < 1000) : c.thermSample n z = shownTemps c n z :=
  if_pos (.inl (by rw [← sampled_temp c n z] at h; exact h))

/-- The registers of temperature that a sample of sensor n writes. -/
def thermPlaces (n : Nat) : List Nat :=
  [Reg.THERM_TEMP.key 0 n, Reg.THERM_STATUS_HOTTEST.key 0 0, Reg.THERM_STATUS_MAX_TEMP.key 0 0, Reg.THERM_STATUS_WARN_NOW.key 0 0,
    Reg.THERM_STATUS_WARN_SEEN.key 0 0]

theorem shownTemps_wrote (c : Chip) (n : Nat) (z : Int) : c.wrote (places (thermPlaces n)) (shownTemps c n z) := by
  unfold shownTemps
  extract_lets c1 hot c2
  have h2 : c.wrote (places (thermPlaces n)) c2 :=
    ((Chip.wrote.wr _ _ _ _ _ (by simp [places, thermPlaces]) (by decide)).andWr _ _ _ _ (by simp [places, thermPlaces]) (by decide)).andWr _ _ _ _
      (by simp [places, thermPlaces]) (by decide)
  split
  · exact (h2.andFlag _ _ _ _ (by simp [places, thermPlaces]) (by decide)).andFlag _ _ _ _ (by simp [places, thermPlaces]) (by decide)
  split
  · exact h2.andFlag _ _ _ _ (by simp [places, thermPlaces]) (by decide)
  · exact h2

theorem shownTemps_temp (c : Chip) (n : Nat) (z : Int) : (shownTemps c n z).rdS Reg.THERM_TEMP 0 n = satS 16 z := by
  rw [← sampled_temp c n z]
  unfold shownTemps
  extract_lets c1 hot c2
  have h2 : c2.rdS Reg.THERM_TEMP 0 n = (sampled c n z).rdS Reg.THERM_TEMP 0 n :=
    (Chip.rdS_wr_id _ _ _ _ _ _ (by decide)).trans (Chip.rdS_wr_id _ _ _ _ _ _ (by decide))
  split
  · exact (Chip.rdS_flag_id _ _ _ _ _ _ (by decide)).trans ((Chip.rdS_flag_id _ _ _ _ _ _ (by decide)).trans h2)
  split
  · exact (Chip.rdS_flag_id _ _ _ _ _ _ (by decide)).trans h2
  · exact h2

theorem shownTemps_warns (c : Chip) {n : Nat} (z : Int) (hn : n < 8) (h : ((c.rd Reg.THERM_CFG_WARN_C * 8 : Nat) : Int) ≤ satS 16 z) :
    (shownTemps c n z).on Reg.THERM_STATUS_WARN_NOW = true ∧ (shownTemps c n z).on Reg.THERM_STATUS_WARN_SEEN = true := by
  have hhot := (le_hottest (fun k => (sampled c n z).rdS Reg.THERM_TEMP 0 k) (List.range 8) 0).2 n (List.mem_range.2 hn)
  rw [sampled_temp] at hhot
  unfold shownTemps
  simp only
  rw [if_pos (h.trans hhot)]
  exact ⟨(Chip.on_id _ _ _ _ _ _ _ (by decide)).trans (Chip.on_flag_same _ _ _ _ rfl), Chip.on_flag_same _ _ _ _ rfl⟩

/-- Settles O15: a sample below the trip level only shows the temperatures. -/
theorem thermSampleShown : Obligations.ThermSampleShown := by
  intro n z s hl hz
  refine ⟨_, exec_next rfl (thermSample_below s.chip n z hz), rfl, ?_, fun h => ?_, ?_⟩
  · exact (congrArg (signed 16) (Chip.steady_rd _ _ _ _ (by decide))).trans (shownTemps_temp s.chip n z)
  · obtain ⟨h1, h2⟩ := shownTemps_warns s.chip z n.isLt h
    exact ⟨(Chip.steady_on _ _ _ _ (by decide)).trans h1, (Chip.steady_on _ _ _ _ (by decide)).trans h2⟩
  · exact (shownTemps_wrote s.chip n z).steady (by simp (decide := true) [places, thermPlaces, Fld.key_eq_iff])
      (by simp (decide := true) [places, thermPlaces, Fld.key_eq_iff]) hl

/-! ### The journal (R391 to R393) and factory test access (R441) -/

/-- The 64 oldest unspilled records, oldest first. -/
def spilled (c : Chip) : List JRec := (c.jrn.ring.take (c.rd Reg.JRN_STATUS_UNSPILLED)).reverse.take 64

theorem spilled_last (c : Chip) (h1 : 64 ≤ c.rd Reg.JRN_STATUS_UNSPILLED) (h2 : c.rd Reg.JRN_STATUS_UNSPILLED ≤ c.jrn.ring.length) :
    ∃ j, (spilled c).getLast? = some j ∧ (c.jrn.ring.take (c.rd Reg.JRN_STATUS_UNSPILLED)).reverse[63]? = some j := by
  have hlen : (c.jrn.ring.take (c.rd Reg.JRN_STATUS_UNSPILLED)).reverse.length = c.rd Reg.JRN_STATUS_UNSPILLED := by
    rw [List.length_reverse, List.length_take, Nat.min_eq_left h2]
  have h63 : 63 < (c.jrn.ring.take (c.rd Reg.JRN_STATUS_UNSPILLED)).reverse.length := by omega
  refine ⟨_, ?_, List.getElem?_eq_getElem h63⟩
  rw [spilled, List.getLast?_eq_getElem?, List.length_take, Nat.min_eq_left (by omega), List.getElem?_take_of_lt (by decide),
    List.getElem?_eq_getElem h63]

/-- A spill of 64 records, the last of them j. -/
def spillTo (c : Chip) (j : JRec) : Chip :=
  let flash := ((spilled c).reverse ++ c.jrn.flash).take 1048576
  let idx := if c.jrn.flash = [] then 63 else (c.rd Reg.JRN_SEAL_FLASH_INDEX + 64) % 1048576
  let c1 : Chip := { c with jrn := { c.jrn with flash := flash, lastSpill := c.now } }
  let c2 := ((c1.wr Reg.JRN_SEAL_SEQ j.seq).wr Reg.JRN_SEAL_DIGEST j.digest).wr Reg.JRN_SEAL_FLASH_INDEX idx
  let c3 := c2.wr Reg.JRN_SEAL_CRC (crc32 (bytesOfNat 8 j.seq ++ bytesOfNat 16 j.digest ++ bytesOfNat 4 idx))
  ((c3.wr Reg.JRN_STATUS_OLDEST_FLASH (flash.getLastD j).seq).wr Reg.JRN_STATUS_UNSPILLED (c.rd Reg.JRN_STATUS_UNSPILLED - 64)).flag
    Reg.JRN_STATUS_COMMIT_HOLD (decide (jrnHoldAt ≤ c.rd Reg.JRN_STATUS_UNSPILLED - 64))

theorem jrnSpill_done (c : Chip) {j : JRec} (h1 : 64 ≤ c.rd Reg.JRN_STATUS_UNSPILLED) (hj : (spilled c).getLast? = some j) :
    c.jrnSpill true = spillTo c j := by
  have hmin : min 64 (c.rd Reg.JRN_STATUS_UNSPILLED) = 64 := Nat.min_eq_left h1
  unfold Chip.jrnSpill
  refine (if_neg (by omega)).trans ((if_neg (by simp)).trans ?_)
  simp only [hmin]
  unfold spilled at hj
  rw [hj]
  rfl

theorem spillTo_unspilled (c : Chip) (j : JRec) : (spillTo c j).rd Reg.JRN_STATUS_UNSPILLED = c.rd Reg.JRN_STATUS_UNSPILLED - 64 := by
  unfold spillTo
  rw [Chip.rd_flag_id _ _ _ _ _ _ (by decide)]
  exact Chip.rd_wr_fits _ _ _ _ (Nat.lt_of_le_of_lt (Nat.sub_le ..) (c.rd_lt ..))

theorem spillTo_seal (c : Chip) (j : JRec) : (spillTo c j).rd Reg.JRN_SEAL_SEQ = j.seq % 2 ^ Reg.JRN_SEAL_SEQ.width := by
  unfold spillTo
  rw [Chip.rd_flag_id _ _ _ _ _ _ (by decide), Chip.rd_wr_id _ _ _ _ _ _ (by decide), Chip.rd_wr_id _ _ _ _ _ _ (by decide),
    Chip.rd_wr_id _ _ _ _ _ _ (by decide), Chip.rd_wr_id _ _ _ _ _ _ (by decide), Chip.rd_wr_id _ _ _ _ _ _ (by decide), Chip.rd_wr_same]

/-- After every command COMMIT_HOLD tells whether 65,280 records are unspilled (R393). -/
theorem steady_hold (c : Chip) : c.steady.on Reg.JRN_STATUS_COMMIT_HOLD = decide (65280 ≤ c.rd Reg.JRN_STATUS_UNSPILLED) := by
  obtain ⟨-, h⟩ := c.steady_limits
  rw [h, Chip.steady_rd _ _ _ _ (by decide)]

/-- Settles O17: a spill done moves the records and the seal; a spill failed shows it. -/
theorem journalSpill : Obligations.JournalSpill := by
  intro s hl h1 h2
  obtain ⟨j, hlast, hj⟩ := spilled_last s.chip h1 h2
  refine ⟨⟨_, j, exec_next rfl (jrnSpill_done s.chip h1 hlast), rfl, hj, ?_, ?_, ?_, ?_, ?_⟩, ?failed⟩
  · exact (Chip.steady_rd _ _ _ _ (by decide)).trans (spillTo_unspilled ..)
  · exact (Chip.steady_rd _ _ _ _ (by decide)).trans (spillTo_seal ..)
  · exact (steady_hold _).trans (by rw [spillTo_unspilled])
  · exact (congrArg Jrn.ring (Chip.steady_jrn _)).trans rfl
  · exact (congrArg Jrn.flash (Chip.steady_jrn _)).trans rfl
  case failed =>
    have hx : s.chip.jrnSpill false = { s.chip.flag Reg.JRN_STATUS_SPILL_FAIL true with jrn := { s.chip.jrn with lastSpill := s.chip.now } } :=
      (if_neg (by omega)).trans (if_pos rfl)
    refine ⟨_, exec_next rfl hx, rfl, ?_, ?_⟩
    · exact (Chip.steady_on _ _ _ _ (by decide)).trans (on_of_flag_regs s.chip true rfl _ rfl)
    · have hw : s.chip.wrote (places [Reg.JRN_STATUS_SPILL_FAIL.key 0 0]) (s.chip.flag Reg.JRN_STATUS_SPILL_FAIL true) :=
        .flag _ _ _ _ _ (by simp [places]) (by decide)
      exact (hw.set_jrn _).steady (by simp (decide := true) [places]) (by simp (decide := true) [places]) hl

/-- The fields that factory test access zeroises. -/
def zeroIds : List Nat :=
  [Reg.KEY_STATE_VALID.id, Reg.KEY_STATE_LAST_SEQ.id, Reg.KEY_STATE_ROLE.id, Reg.KEY_STATE_TRANSPORTS.id, Reg.JRN_SEAL_SEQ.id, Reg.JRN_SEAL_DIGEST.id,
    Reg.JRN_SEAL_FLASH_INDEX.id, Reg.JRN_SEAL_CRC.id]

/-- The attributes zeroised. -/
def zeroAttrs (c : Chip) : Chip := (c.each (List.range 32) Chip.zeroSlot).zeroSeal

theorem zeroAttrs_reported (c : Chip) : c.reported (fields zeroIds) (zeroAttrs c) :=
  ((zeroSlot_wrote (List.range 32) c).reported.mono (fields_mono (by decide))).trans ((zeroSeal_reported _).mono (fields_mono (by decide)))

theorem zeroSeal_seq (c : Chip) : c.zeroSeal.rd Reg.JRN_SEAL_SEQ = 0 := by
  unfold Chip.zeroSeal
  rw [Chip.rd_flag_id _ _ _ _ _ _ (by decide), Chip.rd_wr_id _ _ _ _ _ _ (by decide), Chip.rd_wr_id _ _ _ _ _ _ (by decide),
    Chip.rd_wr_id _ _ _ _ _ _ (by decide), Chip.rd_wr_id _ _ _ _ _ _ (by decide), Chip.rd_wr_id _ _ _ _ _ _ (by decide), Chip.rd_wr_same, Nat.zero_mod]

theorem zeroAttrs_slot (c : Chip) {k : Nat} (hk : k < 32) :
    (zeroAttrs c).on Reg.KEY_STATE_VALID k = false ∧ (zeroAttrs c).rd Reg.KEY_STATE_LAST_SEQ k = 0 := by
  obtain ⟨h1, h2⟩ := zeroSlot_val (List.range 32) c k (List.mem_range.2 hk)
  have h := zeroSeal_reported (c.each (List.range 32) Chip.zeroSlot)
  exact ⟨(h.on _ _ _ (fields_not _ _ _ (by decide)) (by decide) (by decide)).trans h1,
    (h.rd _ _ _ (fields_not _ _ _ (by decide)) (by decide) (by decide)).trans h2⟩

/-- The block with its secrets erased, its attributes those of z, before the record of it. -/
def erased (c z : Chip) : Chip :=
  { z with
    keys := [], jrn := { ring := [], flash := [], digest := 0, lastSpill := c.now, keepSeq := 0 }, stateKey := 0
    twin := { z.twin with slotA := none, slotB := none } }

theorem factoryOpen_eq (c : Chip) : c.factoryOpen = (erased c (zeroAttrs c)).jrnEvent 0 0 := by
  unfold Chip.factoryOpen erased zeroAttrs
  rfl

/-- Settles O16: the secrets are erased, and the record of it moves only what records move. -/
theorem factoryAccessZeroises : Obligations.FactoryAccessZeroises := by
  intro s hl
  have hfo := factoryOpen_eq s.chip
  have hz := zeroAttrs_reported s.chip
  have hslot := fun (k : Nat) (hk : k < 32) => zeroAttrs_slot s.chip hk
  have hseq : (zeroAttrs s.chip).rd Reg.JRN_SEAL_SEQ = 0 := zeroSeal_seq _
  generalize zeroAttrs s.chip = z at *
  obtain ⟨d, hd⟩ : ∃ d, (erased s.chip z).jrnEvent 0 0 = d := ⟨_, rfl⟩
  have hx : (erased s.chip z).reported (fun _ => False) d := hd ▸ Chip.jrnEvent_reported ..
  have hrd : ∀ (F : Fld) i e, F.id ∉ reportIds → F.id ∉ steadyIds → d.steady.rd F i e = z.rd F i e :=
    fun F i e h1 h2 => (Chip.steady_rd _ _ _ _ h2).trans (hx.rd F i e id h1 h2)
  have hon : ∀ (F : Fld) i e, F.id ∉ reportIds → F.id ∉ steadyIds → d.steady.on F i e = z.on F i e :=
    fun F i e h1 h2 => congrArg (· == 1) (hrd F i e h1 h2)
  refine ⟨_, exec_next (g := Chip.factoryOpen) rfl (hfo.trans hd), rfl, ?_, ?_, ?_, ?_, ?_, ?_, fun k hk => ?_, ?_, fun F i e h0 h1 h2 => ?_⟩
  · exact (Chip.steady_keys _).trans hx.keys
  · exact (Chip.steady_stateKey _).trans hx.stateKey
  · exact (congrArg Jrn.flash (Chip.steady_jrn d)).trans hx.flash
  · exact (Chip.steady_cal _).trans (hx.cal.trans hz.cal)
  · exact (Chip.steady_lull _).trans (hx.lull.trans hz.lull)
  · exact (Chip.steady_fw _).trans (hx.fw.trans hz.fw)
  · obtain ⟨h1, h2⟩ := hslot k hk
    exact ⟨(hon _ _ _ (by decide) (by decide)).trans h1, (hrd _ _ _ (by decide) (by decide)).trans h2⟩
  · exact (hrd _ _ _ (by decide) (by decide)).trans hseq
  · exact (hrd F i e h1 h2).trans (hz.rd F i e (fields_not _ _ _ h0) h1 h2)

/-! ### Reset and start (R404 to R417) -/

/-- The attributes a reset keeps, as fields. -/
def keptFieldIds : List Nat := (keptAttrs.flatMap fun a => a.flds).map Fld.id

/-- The fields a reset writes anew. -/
def resetWritten : List Nat :=
  [Reg.KA_TIME_KA_SEC.id, Reg.KA_TIME_KA_TICK.id, Reg.JRN_STATUS_NEXT_SEQ.id, Reg.JRN_STATUS_OLDEST_FLASH.id, Reg.LULL_STATUS_RETIRED.id,
    Reg.LULL_STATUS_RETIRE_FULL.id]

/-- After a reset a field it does not write reads from what was kept of the store. -/
theorem afterReset_rd (c : Chip) (F : Fld) (i e : Nat) (h : F.id ∉ resetWritten) :
    c.afterReset.rd F i e = regGet (c.regs.filter fun x => keptFieldIds.contains (x.1 / 2 ^ 40)) F i e := by
  simp only [resetWritten, List.mem_cons, List.not_mem_nil, or_false, not_or] at h
  obtain ⟨h1, h2, h3, h4, h5, h6⟩ := h
  unfold Chip.afterReset
  rw [Chip.rd_flag_id _ _ _ _ _ _ h6, Chip.rd_wr_id _ _ _ _ _ _ h5, Chip.rd_wr_id _ _ _ _ _ _ h4, Chip.rd_wr_id _ _ _ _ _ _ h3,
    Chip.rd_wr_id _ _ _ _ _ _ h2, Chip.rd_wr_id _ _ _ _ _ _ h1]
  rfl

theorem afterReset_cleared (c : Chip) (F : Fld) (i e : Nat) (h : F.id ∉ resetWritten) (hk : F.id ∉ keptFieldIds) :
    c.afterReset.rd F i e = F.reset i e % 2 ^ F.width := by
  rw [afterReset_rd c F i e h, regGet, get_filter c.regs (fun k => keptFieldIds.contains (k / 2 ^ 40)), Nat.zero_xor]
  rw [F.key_div]
  simpa using hk

theorem afterReset_kept (c : Chip) (F : Fld) (i e : Nat) (h : F.id ∉ resetWritten) (hk : F.id ∈ keptFieldIds) :
    c.afterReset.rd F i e = c.rd F i e := by
  rw [afterReset_rd c F i e h, regGet, get_filter_keep c.regs (fun k => keptFieldIds.contains (k / 2 ^ 40))]
  · rfl
  · rw [F.key_div]
    simpa using hk

/-- Settles O13: a reset makes the block anew but for what it keeps. -/
theorem resetAssertClears : Obligations.ResetAssertClears := by
  intro s
  refine ⟨_, rfl, rfl, ?_, ?_, ?_, ?_, ?_, ?_, ?_, ?_, ?_, ?_, ?_, ?_, ?_, ?_, ?_, ?_, ?_, ?_, fun F i e hk hs h4 => ?attrs⟩
  case attrs =>
    have hka : Reg.KA_TIME_KA_SEC.id ∈ keptFieldIds ∧ Reg.KA_TIME_KA_TICK.id ∈ keptFieldIds := by decide
    have hw : F.id ∉ resetWritten := by
      simp only [resetWritten, List.mem_cons, List.not_mem_nil, or_false, not_or] at h4 ⊢
      exact ⟨(ne_of_mem_of_not_mem hka.1 hk).symm, (ne_of_mem_of_not_mem hka.2 hk).symm, h4⟩
    exact (Chip.steady_rd _ _ _ _ hs).trans (afterReset_cleared s.chip F i e hw hk)
  · exact Chip.steady_keys _
  · exact Chip.steady_stateKey _
  · exact (congrArg Jrn.flash (Chip.steady_jrn _)).trans rfl
  · exact (congrArg Fw.minSec (Chip.steady_fw _)).trans rfl
  · exact (congrArg Cal.setA (Chip.steady_cal _)).trans rfl
  · exact (congrArg Cal.setB (Chip.steady_cal _)).trans rfl
  · exact (congrArg Lull.retired (Chip.steady_lull _)).trans rfl
  · exact (congrArg Jrn.ring (Chip.steady_jrn _)).trans rfl
  · exact Chip.steady_cmdq _
  · exact Chip.steady_parked _
  · exact Chip.steady_txns _
  · exact Chip.steady_hif _
  · exact Chip.steady_time _
  · exact Chip.steady_path _
  · exact Chip.steady_tbl _
  · exact Chip.steady_drum _
  · exact Chip.steady_car _
  · exact (congrArg Pwr.low (Chip.steady_pwr _)).trans rfl

/-- Settles O14: from RST_N or from an activation's restart, the start sequence runs with its preconditions kept. -/
theorem startAfterReset : Obligations.StartAfterReset := by
  intro s hb hf h3
  refine ⟨fun ka ok hlow hfail => ?release, fun at_ hat hle hw hrec => ?restart⟩
  case release =>
    obtain ⟨x, hx⟩ : ∃ x, (s.chip.wr Reg.KA_TIME_KA_SEC ((s.chip.rd Reg.KA_TIME_KA_SEC * 32768 + s.chip.rd Reg.KA_TIME_KA_TICK + ka) / 32768)).wr
        Reg.KA_TIME_KA_TICK ((s.chip.rd Reg.KA_TIME_KA_SEC * 32768 + s.chip.rd Reg.KA_TIME_KA_TICK + ka) % 32768) = x := ⟨_, rfl⟩
    have hr : s.chip.resetRelease ka ok = x.startUp 1 ok := by
      unfold Chip.resetRelease
      rw [if_neg (by simp [hlow])]
      simp only [hlow, hfail, if_true, Bool.false_eq_true, if_false, hx]
    have hxb : x.on Reg.BOOT_CFG_BOOT_RUN = false := by
      rw [← hx, Chip.on_wr_id _ _ _ _ _ _ (by decide), Chip.on_wr_id _ _ _ _ _ _ (by decide), hb]
    have hxf : x.fw = s.chip.fw := by rw [← hx]; rfl
    obtain ⟨h1, h2, h4, h5, -, h7⟩ := startUp_spec x 1 ok hxb (by rw [hxf]; exact hf) (by rw [hxf]; exact h3)
    rw [hxf] at h5
    refine ⟨_, exec_next (g := Chip.resetRelease ka ok) rfl hr, rfl, ?_, ?_, ?_, ?_, ?_⟩
    · exact (congrArg Pwr.low (Chip.steady_pwr _)).trans h1
    · exact (congrArg Pwr.failed (Chip.steady_pwr _)).trans h2
    · exact (congrArg Fw.recovery (Chip.steady_fw _)).trans h4
    · exact (congrArg Fw.fails (Chip.steady_fw _)).trans h5
    · exact (Chip.steady_rd _ _ _ _ (by decide)).trans h7
  case restart =>
    have hr : s.chip.fwRestart = s.chip.afterReset.startUp 3 true := by
      unfold Chip.fwRestart
      rw [hat]
      exact (if_neg (Nat.not_lt.2 hle)).trans (by rw [hrec]; rfl)
    have hxb : s.chip.afterReset.on Reg.BOOT_CFG_BOOT_RUN = false := (congrArg (· == 1) (afterReset_kept _ _ _ _ (by decide) (by decide))).trans hb
    have hfw : s.chip.afterReset.fw =
        { flash := s.chip.cutWrites, minSec := s.chip.fw.minSec, roots := s.chip.fw.roots, fails := s.chip.fw.fails, recovery := s.chip.fw.recovery } := rfl
    obtain ⟨h1, -, h4, -, h6, h7⟩ := startUp_spec s.chip.afterReset 3 true hxb (by rw [hfw]; exact (cutWrites_err _ hw).trans hf) (by rw [hfw]; exact h3)
    refine ⟨_, exec_next (g := Chip.fwRestart) rfl hr, rfl, ?_, ?_, ?_, ?_⟩
    · exact (congrArg Pwr.low (Chip.steady_pwr _)).trans h1
    · exact (congrArg Fw.recovery (Chip.steady_fw _)).trans h4
    · exact (congrArg Fw.staged (Chip.steady_fw _)).trans (h6.trans (by rw [hfw]))
    · exact (Chip.steady_rd _ _ _ _ (by decide)).trans h7

end Sys2Proof.Upkeep
end

section
/-! PROOFS. The tables: learning and ageing (R136, R150, R153, R156 to R159), and entries written, deleted and transferred (R106, R135, R154, R160). -/

namespace Sys2Proof.TableProofs
open Sys2Proof.Machine Sys2Proof.Laws Sys2Proof.Packets

/-! ### Learning and ageing -/

theorem learnStep_applies {c : Chip} {q : LearnReq} {l : List LearnReq} (hq : c.tbl.learnQ = q :: l) (hk : c.keyTouched (0, q.sa, q.vid) = false)
    (hl : c.learnLocked q = false) (hf : c.learnFrozen q = false) : c.learnStep = Chip.learnApply { c with tbl := { c.tbl with learnQ := l } } q := by
  unfold Chip.learnStep
  rw [hq]
  simp only [hk, hl, hf, Bool.false_eq_true, if_false]

/-- A station not known, with a place found for it (R156). -/
theorem learnApply_new {c d : Chip} {q : LearnReq} {i : Nat} (hn : c.emFind (c.gen 0) (0, q.sa, q.vid) = none)
    (hp : c.emPlace (0, q.sa, q.vid) 1 = some (i, d)) : c.learnApply q =
      (d.emWrite i (Lay.EM_VIS.put 3 + Lay.EM_TYPE.put 1 + Lay.EM_MAC.put q.sa + Lay.EM_VID.put q.vid + emGrp.put (b2n q.grp) + emDest.put q.dest +
        Lay.EM_LAST_HIT.put c.stampNow)).count Ev.LEARN_NEW := by
  unfold Chip.learnApply
  rw [hn]
  unfold Chip.learnInsert
  simp only [hp]

/-- A known station at its place: only its stamp moves. -/
theorem learnApply_known {c : Chip} {q : LearnReq} {i : Nat} (hi : c.emFind (c.gen 0) (0, q.sa, q.vid) = some i)
    (hg : emGrp.get (c.ent 0 0 i) = b2n q.grp) (hd : emDest.get (c.ent 0 0 i) = q.dest) (hs : Lay.EM_LAST_HIT.get (c.ent 0 0 i) ≠ c.stampNow) :
    c.learnApply q = c.emWrite i (Lay.EM_LAST_HIT.set (c.ent 0 0 i) c.stampNow) := by
  unfold Chip.learnApply
  rw [hi]
  simp only [LearnReq.where_, hg, hd, beq_self_eq_true, Bool.and_self, if_true]
  exact if_neg hs

theorem steady_ent (c : Chip) (t k i : Nat) : c.steady.ent t k i = c.ent t k i := ent_of_tbl (congrArg Tables.ent (Chip.steady_tbl c)) t k i

theorem count_ent (c : Chip) (ev u b t k i : Nat) : (c.count ev u b).ent t k i = c.ent t k i := ent_of_tbl (congrArg Tables.ent (count_tbl c ev u b)) t k i

theorem ageVisit_ent (c : Chip) (b i : Nat) (he : c.on Reg.EM_CTRL_AGE_EN = true) (hl : c.locked 0 (b * 4) = false)
    (hf : c.arbFrozen (tblArb 0 (b * 4)) = false) : (c.ageVisit b).ent 0 0 i =
      if i / 4 = b ∧ visOf 0 (c.ent 0 0 i) = 3 ∧ Lay.EM_TYPE.get (c.ent 0 0 i) = 1 ∧
        c.rd Reg.EM_CTRL_AGE_TIME ≤ (c.stampNow + 65536 - Lay.EM_LAST_HIT.get (c.ent 0 0 i)) % 65536 then 0 else c.ent 0 0 i := by
  have h := age_each (emSlots b) (emSlots_nodup b) c i
  have hv : c.ageVisit b = _ := if_neg (by simp [he, hl, hf])
  rw [hv, h]
  by_cases ha : i / 4 = b ∧ aged c i
  · rw [if_pos ⟨(mem_emSlots b i).2 ha.1, ha.2⟩]
    exact (if_pos ha).symm
  · rw [if_neg (fun g => ha ⟨(mem_emSlots b i).1 g.1, g.2⟩)]
    exact (if_neg ha).symm

/-- A flipped change of tables 2 to 4, due for clean-up, becomes ordinary (R136 phase 3). -/
theorem tblCleanup_one {c : Chip} {tb : Nat} {p : Prep} (h2 : 2 ≤ tb) (h4 : tb ≤ 4) (hp : c.tbl.preps = [p]) (ht : p.tbl = tb) (hd : p.done = true)
    (hat : p.flippedAt + unitsNs 200 ≤ c.now) : c.tblCleanup tb =
      ((({ c with tbl := { c.tbl with preps := [] } } : Chip).setEnt tb 0 p.index
        (if c.ent tb 1 p.index = 0 then 0 else setVis tb (c.ent tb 1 p.index) 3)).setEnt tb 1 p.index 0) := by
  have hpart : ([p].partition fun q => q.tbl == tb && q.done && decide (q.flippedAt + unitsNs 200 ≤ c.now)) = ([p], []) := by
    simp [List.partition, List.partition.loop, ht, hd, hat]
  unfold Chip.tblCleanup Chip.cleanTable
  rw [hp, hpart]
  simp only [List.cons_ne_nil, if_false, if_neg (Nat.not_le.2 h2)]
  simp only [Chip.each, List.foldl_cons, List.foldl_nil, if_pos h4]
  rfl

/-- Settles O30: learning by what the request finds, ageing slot by slot, and the rest by the equation of each meaning. -/
theorem learningAndAgeing : Obligations.LearningAndAgeing := by
  intro s
  refine ⟨?learn, ?age, ?history, ?cleanup⟩
  case learn =>
    rintro q l d hq rfl hk hl hf
    have hstep := learnStep_applies hq hk hl hf
    refine ⟨fun i c hn hp => ?_, fun i hi hg hd hs => ?_⟩
    · have h := hstep.trans (learnApply_new hn hp)
      refine ⟨_, exec_next (g := Chip.learnStep) rfl h, rfl, ?_, ?_, fun j hj => ?_⟩
      · rw [steady_ent, count_ent, emWrite_ent, if_pos rfl]
        rfl
      · rw [Chip.steady_tbl, count_tbl, emWrite_learnQ]
      · rw [steady_ent, count_ent, emWrite_ent, if_neg hj]
    · have h := hstep.trans (learnApply_known hi hg hd hs)
      refine ⟨_, exec_next (g := Chip.learnStep) rfl h, rfl, ?_, ?_, fun j hj => ?_⟩
      · rw [Chip.steady_tbl, emWrite_learnQ]
      · rw [steady_ent, emWrite_ent, if_pos rfl]
        rfl
      · rw [steady_ent, emWrite_ent, if_neg hj]
        rfl
  case age =>
    intro b he hl hf
    exact ⟨_, rfl, rfl, fun i => (steady_ent ..).trans (ageVisit_ent s.chip b i he hl hf)⟩
  case history =>
    rintro i x rfl hlive hat
    have h : s.chip.seqReset i = _ := if_pos ⟨hlive, hat⟩
    refine ⟨_, exec_next (g := Chip.seqReset i) rfl h, rfl, rfl, ?_⟩
    rw [Chip.steady_tbl, count_tbl]
    exact SMap.get_set_same ..
  case cleanup =>
    intro tb p h2 h4 hp ht hd hat
    refine ⟨_, exec_next (g := Chip.tblCleanup tb) rfl (tblCleanup_one h2 h4 hp ht hd hat), rfl, ?_, ?_, ?_⟩
    · rw [Chip.steady_tbl, setEnt2_preps]
    · rw [steady_ent, setEnt2_1]
    · rw [steady_ent, setEnt2_0]

/-! ### A frozen arbiter holds a transfer (R47) -/

/-- A request of an owner over the rings, outside a transaction. -/
def ownerReq : Req := { slot := 0, role := .owner, via := .ring, txn := 0, seq := 1, sent := 0 }

/-- A block that runs, with segment 0 of table 5 locked for the owner's slot and the table's arbiter frozen internally. -/
def frozenTable : Chip :=
  { State.reset.chip.wr Reg.PWR_STATUS_STATE 2 with
    tbl := { locks := [(lockKey 5 0, { state := 2, slot := 0, since := 0 })] }, arbs := [(140, { internal := 1 })] }

/-- The transfer that a frozen arbiter holds. -/
def heldDma (host : Nat) : Instr := .tblDma ownerReq 5 host 0 1 false true none

/-- Refutes O28: under a lock of its segment, a read of a table whose arbiter is frozen is parked until the freeze is lifted, not answered. -/
theorem not_tableCommands : ¬ Obligations.TableCommands := by
  intro h
  obtain ⟨-, -, -, hread, -⟩ := h ownerReq { chip := frozenTable, pending := [] }
  obtain ⟨t, hx, -, ha⟩ := hread 5 0 1 true (by decide +kernel) rfl (by decide +kernel) (by decide +kernel) (by decide +kernel) (by decide +kernel)
  have ht : t = { chip := (frozenTable.doTblDma ownerReq 5 0 0 1 false true none).steady, pending := [] } := (Host.Outcome.next.inj hx).symm
  have hp : t.chip.parked.length = 0 := congrArg List.length ha.parked
  rw [ht, Chip.steady_parked] at hp
  exact absurd hp (by decide +kernel)

/-- Refutes O29: a transfer to the host that ends while the table's arbiter is frozen stays parked, and writes nothing. -/
theorem not_transfersAndBarriers : ¬ Obligations.TransfersAndBarriers := by
  intro h
  obtain ⟨c, hc⟩ : ∃ c : Chip, c = { frozenTable with parked := [{ cmd := heldDma 4096, deadline := 0, tag := transferTag }] } := ⟨_, rfl⟩
  obtain ⟨-, hdone, -⟩ := h ownerReq { chip := c, pending := [] }
  obtain ⟨t, hx, -, hm, -⟩ := hdone 5 4096 0 1 0 0 true [] (by rw [hc]; rfl) (by rw [hc]; decide +kernel)
  have ht : t = { chip := (c.tblDmaDone 0 []).steady, pending := [] } := (Host.Outcome.next.inj hx).symm
  rw [ht, Chip.steady_outs] at hm
  have ho : (c.tblDmaDone 0 []).outs.length = 0 := by rw [hc]; decide +kernel
  rw [List.length_eq_zero_iff.1 ho] at hm
  exact List.not_mem_nil hm

end Sys2Proof.TableProofs
end

section
/-! PROOFS. Drumline: descriptors that fail their checks, motion operations, stores, outputs and control, cycles, images and domains
(12_drumline.md, 13_cycle_operations.md). -/

namespace Sys2Proof.Drumline
open Sys2Proof.Machine Sys2Proof.Laws Sys2Proof.CycleOps

/-! ### Descriptors that fail their checks (R267, R279 to R281) -/

/-- What a command that stops engine e with a cause leaves. -/
def Stops (s : State) (e cause : Nat) (i : Instr) : Prop :=
  ∃ t, exec i s = .next t ∧ t.pending = s.pending ∧ t.chip.engState e = 6 ∧ t.chip.on Reg.ENG_STATUS_ENG_FAULT (256 + e) = true ∧
    t.chip.rd Reg.ENG_STATUS_CAUSE (256 + e) = cause ∧ t.chip.rd Reg.ENG_STATUS_DESC (256 + e) = (s.chip.eng e).pc ∧
    (t.chip.eng e).outs = [] ∧ (t.chip.eng e).wait = none ∧ ∀ f, f ≠ e → t.chip.eng f = s.chip.eng f

/-- An operation whose descriptor fails its checks, as a command: its body does not run. -/
theorem badDesc_stops {i : Instr} {s : State} {g : Chip → Chip} {e op cause : Nat} {d : Desc} {body : Chip → OpEnd} (hs : s.chip.engState e ≠ 6)
    (hpc : (s.chip.eng e).pc < 1024) (hi : exec i s = onChip g s) (hg : g s.chip = s.chip.engOp e op d body) (hd : descFault op d = some cause) :
    Stops s e cause i := by
  obtain ⟨h1, h2, h3, h4, h5, h6, h7⟩ := stopEngine_shows s.chip e cause
  have hx : g s.chip = s.chip.stopEngine e cause := hg.trans (engOp_stops s.chip e op d body cause hs hd)
  refine ⟨_, exec_next hi hx, rfl, ?_, ?_, ?_, ?_, ?_, ?_, fun f hf => ?_⟩
  · exact (Chip.steady_rd _ _ _ _ (by decide)).trans h1
  · exact (Chip.steady_on _ _ _ _ (by decide)).trans h2
  · rw [Chip.steady_rd _ _ _ _ (by decide), h3]
    exact Nat.mod_eq_of_lt (descFault_lt op d cause hd)
  · rw [Chip.steady_rd _ _ _ _ (by decide), h4]
    exact Nat.mod_eq_of_lt hpc
  · rw [steady_eng, h5]
  · rw [steady_eng, h6]
  · rw [steady_eng, h7 f hf]

/-- The operations with their opcodes (R281). -/
def cycleOps : List (Nat × (Fin 64 → Desc → Instr)) :=
      [(0x00, Instr.opNop), (0x01, Instr.opLoad), (0x02, Instr.opStore), (0x03, Instr.opMovi), (0x04, Instr.opShuf), (0x10, Instr.opGather),
       (0x11, Instr.opWaitseq), (0x12, Instr.opTsub), (0x13, Instr.opRecv), (0x14, Instr.opCntrd), (0x15, Instr.opAxflt), (0x20, Instr.opAdd),
       (0x21, Instr.opSub), (0x22, Instr.opMul), (0x23, Instr.opMac), (0x24, Instr.opDiv), (0x25, Instr.opNeg), (0x26, Instr.opAbs),
       (0x27, Instr.opMin), (0x28, Instr.opMax), (0x29, Instr.opClamp), (0x2A, Instr.opShift), (0x2B, Instr.opCvt), (0x2C, Instr.opSqrt),
       (0x30, Instr.opCmp), (0x31, Instr.opPlog), (0x40, Instr.opVmaster), (0x41, Instr.opGear), (0x42, Instr.opCam), (0x43, Instr.opRegist),
       (0x44, Instr.opFilt), (0x45, Instr.opPid), (0x50, Instr.opField), (0x51, Instr.opScatter), (0x52, Instr.opEvtreq), (0x53, Instr.opVreq),
       (0x54, Instr.opPost), (0x60, Instr.opSkip), (0x61, Instr.opEnd)]

/-- A change of the engine's registers is an `engOp`. -/
theorem engReg_engOp (c : Chip) (e op : Nat) (d : Desc) (f : Eng → Eng) : ∃ body, c.engReg e op d f = c.engOp e op d body := ⟨_, rfl⟩

/-- Every operation is an `engOp` under its own opcode. -/
theorem cycleOps_stop {s : State} {e : Fin 64} {d : Desc} {cause : Nat} (hs : s.chip.engState e ≠ 6) (hpc : (s.chip.eng e).pc < 1024) :
    ∀ q ∈ cycleOps, descFault q.1 d = some cause → Stops s e cause (q.2 e d) := by
  have h : ∀ {i : Instr} {g : Chip → Chip} {op : Nat} {body : Chip → OpEnd}, exec i s = onChip g s → g s.chip = s.chip.engOp e op d body →
      descFault op d = some cause → Stops s e cause i := badDesc_stops hs hpc
  have hr : ∀ {i : Instr} {g : Chip → Chip} {op : Nat} {f : Eng → Eng}, exec i s = onChip g s → g s.chip = s.chip.engReg e op d f →
      descFault op d = some cause → Stops s e cause i := by
    intro i g op f hi hg
    obtain ⟨body, hb⟩ := engReg_engOp s.chip e op d f
    exact h hi (hg.trans hb)
  simp only [cycleOps, List.forall_mem_cons]
  exact ⟨h rfl rfl, h rfl rfl, h rfl rfl, hr rfl rfl, hr rfl rfl, h rfl rfl, h rfl rfl, hr rfl rfl, h rfl rfl, h rfl rfl,
    hr rfl rfl, hr rfl rfl, hr rfl rfl, hr rfl rfl, hr rfl rfl, hr rfl rfl, hr rfl rfl, hr rfl rfl, hr rfl rfl, hr rfl rfl,
    hr rfl rfl, hr rfl rfl, hr rfl rfl, hr rfl rfl, hr rfl rfl, hr rfl rfl, hr rfl rfl, hr rfl rfl, h rfl rfl, h rfl rfl,
    hr rfl rfl, hr rfl rfl, hr rfl rfl, h rfl rfl, hr rfl rfl, hr rfl rfl, hr rfl rfl, h rfl rfl, h rfl rfl, List.forall_mem_nil _⟩

/-- Settles O58: every operation stops at its checks. -/
theorem badDescriptorStops : Obligations.BadDescriptorStops :=
  fun _ _ _ _ q hs hd hpc hq => cycleOps_stop hs hpc q hq hd

/-! ### Motion operations (R302 to R307) -/

/-- CAM whose named tables are sound. -/
theorem opCam_sound (c : Chip) (e : Nat) (d : Desc) (hs : c.engState e ≠ 6) (hd : descFault 0x42 d = none)
    (hu : ((List.range 8).filter fun i => (c.eng e).active d i && (c.eng e).w (locAddr d.aux + 4 * i) != 0).findSome?
      (fun i => (c.eng e).camFault ((c.eng e).w (locAddr d.aux + 4 * i))) = none) :
    c.opCam e d = c.engReg e 0x42 d fun x =>
      ((List.range 8).filter fun i => (c.eng e).active d i && (c.eng e).w (locAddr d.aux + 4 * i) != 0).foldl
        (fun y i => y.setLane 3 d.dst i (x.cam ((c.eng e).w (locAddr d.aux + 4 * i)) (x.lane 3 d.a i))) x := by
  refine c.engOp_reg e 0x42 d _ _ hs hd ?_
  simp only [hu]

/-- What REGIST makes of its engine, with the free value e0 for an error where REPEAT is not above 0. -/
def registEng (d : Desc) (k per : Nat) (e0 : Int) (x : Eng) : Eng :=
  let tau := signed 64 (x.lane 3 d.a 0)
  let lim : Int := per * 2 ^ 32
  let on := fun (i : Nat) => x.active d i && decide (-lim ≤ tau) && decide (tau ≤ lim)
  let old := fun (i : Nat) => x.q (oldHalf k d.addr 64 + 8 * i)
  let new := fun (i : Nat) =>
    let a := locAddr d.aux + 32 * i
    if on i then
      encS 64 (registLane per tau (signed 64 (x.lane 3 d.b i)) (signed 64 (x.lane 3 d.c i)) (signed 64 (x.q a)) (signed 64 (x.q (a + 8)))
        (signed 32 (x.w (a + 16))) (signed 64 (x.q (a + 24))) (signed 64 (old i)) e0)
    else old i
  ((x.putLanes d 3 d.dst new).setPrd d.flags (laneMask on)).putState (newHalf k d.addr 64) 8 [new]

theorem registEng_pc (d : Desc) (k per : Nat) (e0 : Int) (x : Eng) : (registEng d k per e0 x).pc = x.pc := by
  unfold registEng
  rw [putState_pc, Eng.setPrd_pc, Eng.putLanes_pc]

/-- REGIST is a change of its engine in the block that has drawn one free value. -/
theorem opRegist_drawn (c : Chip) (e : Nat) (d : Desc) (hs : c.engState e ≠ 6) (hd : descFault 0x43 d = none) :
    c.opRegist e d = Chip.engReg e 0x43 d (fun _ => registEng d (c.engK e) (c.engPeriod e) (Config.registZero c.free).toInt (c.eng e))
      { c with free := c.free + 1 } := by
  have hs' : ({ c with free := c.free + 1 } : Chip).engState e ≠ 6 := hs
  unfold Chip.opRegist Chip.engReg Chip.engOp
  rw [if_neg hs, if_neg hs', hd]
  simp only [Chip.draw, Chip.updEng_updEng]
  rfl

/-- Settles O55: each operation is a change of its engine alone. -/
theorem motionOperations : Obligations.MotionOperations := by
  rintro e d s x k per pa pick hs rfl rfl rfl rfl rfl
  refine ⟨?vmaster, ?gear, ?cam, ?regist, ?filt, ?pid⟩
  case vmaster =>
    rintro o old new hd rfl rfl rfl
    exact engineOp_completes _ rfl rfl hs hd (by rw [putState_pc, Eng.putLanes_pc, Eng.putLanes_pc]) rfl
  case gear =>
    rintro o anch old new hd rfl rfl rfl rfl
    exact engineOp_completes _ rfl rfl hs hd (by rw [putState_pc, Eng.putLanes_pc]) rfl
  case cam =>
    rintro entry used hd rfl rfl hu
    exact engineOp_completes _ rfl (opCam_sound s.chip e d hs hd hu) hs hd (fold_pc _ _ _ _) rfl
  case regist =>
    rintro o old new tau lim on hd rfl rfl rfl rfl rfl rfl
    refine ⟨_, exec_next rfl (opRegist_drawn s.chip e d hs hd), rfl, ?_⟩
    exact engReg_done_of { s.chip with free := s.chip.free + 1 } e 0x43 d _ _ hs hd (registEng_pc _ _ _ _ _) rfl
  case filt =>
    rintro o old co new hd rfl rfl rfl rfl
    exact engineOp_completes _ rfl rfl hs hd (by rw [putState_pc, Eng.putLanes_pc]) rfl
  case pid =>
    rintro o old co new hd rfl rfl rfl rfl
    exact engineOp_completes _ rfl rfl hs hd (by rw [putState_pc, Eng.putLanes_pc]) rfl

/-! ### FIELD (R308) -/

/-- A FIELD of all 64 bytes, which IMM = 0 stands for (log entry 60). -/
def wholeField : Desc := { typ := 3, addr := 0x10000 }

/-- A block whose engine 0 holds 1 in its register 0. -/
def oneInV0 : Chip := State.reset.chip.updEng 0 fun x => x.setReg 0 1

/-- Refutes O56: a FIELD with IMM = 0 writes 64 bytes, where the statement has it write none. -/
theorem not_outputsAndControl : ¬ Obligations.OutputsAndControl := by
  intro h
  obtain ⟨-, hfield, -⟩ := h 0 wholeField { chip := oneInV0, pending := [] } _ _ (by decide +kernel) rfl rfl
  obtain ⟨t, hx, -, he, -⟩ := hfield [] [] (oneInV0.eng 0).mem (by decide +kernel) rfl rfl rfl
  have ht : t = { chip := (oneInV0.opField 0 wholeField).steady, pending := [] } := (Host.Outcome.next.inj hx).symm
  have hm : ((oneInV0.opField 0 wholeField).eng 0).mem = (oneInV0.eng 0).mem := by
    have hmem := congrArg Eng.mem he
    rw [ht] at hmem
    exact (congrArg Eng.mem (steady_eng _ 0)).symm.trans hmem
  exact absurd (congrArg (memNat · 0x10000 8) hm) (by decide +kernel)

end Sys2Proof.Drumline
end

section
/-! PROOFS. Twin pairs: pins, interlock, fencing (15_twins.md). -/

namespace Sys2Proof.Pairs
open Sys2Proof.Machine Sys2Proof.Laws

/-! ### What a change of the PTP port states leaves alone -/

/-- Fields that PTP port states and parents are shown in. -/
def ptpIds : List Nat :=
  [Reg.PTP_PORT_STATUS_PORT_STATE.id, Reg.PTP_PORT_STATUS_L1_SYNC.id, Reg.PTP_PARENT_PARENT_ID.id, Reg.PTP_PARENT_GM_CLASS.id,
   Reg.PTP_PARENT_STEPS_REMOVED.id, Reg.PTP_PARENT_SLAVE_PORT.id]

/-- A field that neither PTP states nor reports move. -/
def NoPtp (F : Fld) : Prop := F.id ∉ ptpIds ∧ F.id ∉ reportIds ∧ F.id ∉ steadyIds

section
variable {F : Fld}

theorem setPtp_rd (hF : NoPtp F) (c : Chip) (p st n i e : Nat) : (c.setPtp p st n).rd F i e = c.rd F i e := by
  obtain ⟨hp, hr, hs⟩ := hF
  simp only [ptpIds, List.mem_cons, List.not_mem_nil, or_false, not_or] at hp
  obtain ⟨h1, h2, -⟩ := hp
  unfold Chip.setPtp
  dsimp only
  split
  · rfl
  · rw [Chip.notify_rd _ _ _ _ _ _ _ _ _ hr hs]
    split
    · exact Chip.rd_wr_id _ _ _ _ _ _ h1
    · exact (Chip.rd_flag_id _ _ _ _ _ _ h2).trans (Chip.rd_wr_id _ _ _ _ _ _ h1)

theorem setParent_rd (hF : NoPtp F) (c : Chip) (n : Nat) (best : Option (Nat × Ann)) (i e : Nat) : (c.setParent n best).rd F i e = c.rd F i e := by
  obtain ⟨hp, -, -⟩ := hF
  simp only [ptpIds, List.mem_cons, List.not_mem_nil, or_false, not_or] at hp
  obtain ⟨-, -, h3, h4, h5, h6⟩ := hp
  have hw : ∀ v v' v'', (((c.wr Reg.PTP_PARENT_PARENT_ID v 0 n).wr Reg.PTP_PARENT_GM_CLASS v' 0 n).wr Reg.PTP_PARENT_STEPS_REMOVED v'' 0 n).rd F i e
      = c.rd F i e := by
    intro v v' v''
    rw [Chip.rd_wr_id _ _ _ _ _ _ h5, Chip.rd_wr_id _ _ _ _ _ _ h4, Chip.rd_wr_id _ _ _ _ _ _ h3]
  unfold Chip.setParent
  split
  · rfl
  · cases best with
    | none => exact hw _ _ _
    | some x =>
      dsimp only
      split
      · rfl
      · split
        · exact (Chip.rd_wr_id _ _ _ _ _ _ h6).trans (hw _ _ _)
        · exact (Chip.rd_wr_id _ _ _ _ _ _ h6).trans (hw _ _ _)

theorem runBmca_rd (hF : NoPtp F) (c : Chip) (n i e : Nat) : (c.runBmca n).rd F i e = c.rd F i e := by
  have h : ∀ (d : Chip) (p : Nat) (b : Bool), (if b then d.setPtp p 8 0 else d).rd F i e = d.rd F i e := by
    intro d p b
    cases b
    · rfl
    · exact setPtp_rd hF _ _ _ _ _ _
  unfold Chip.runBmca
  refine (setParent_rd hF _ _ _ _ _).trans (each_rd _ _ _ _ _ (fun p d => (setPtp_rd hF _ _ _ _ _ _).trans (h d p _)) _)

theorem ptpRefresh_rd (hF : NoPtp F) (c : Chip) (i e : Nat) : c.ptpRefresh.rd F i e = c.rd F i e := by
  unfold Chip.ptpRefresh
  refine (each_rd [0, 1, 2, 3, 4] (fun n d => d.runBmca n) _ _ _ (fun n d => runBmca_rd hF d n i e) _).trans
    (each_rd _ _ _ _ _ (fun p d => ?_) _)
  split
  · exact setPtp_rd hF _ _ _ _ _ _
  · rfl

end

/-! ### The hold watchdog (R336) -/

/-- An ACTIVE unit of an interlocked pair whose blocks are not powered. -/
def activeUnpowered : Chip :=
  (((State.reset.chip.flag Reg.TWIN_CFG_PAIR_EN true).flag Reg.TWIN_CFG_INTERLOCK true).wr Reg.TWIN_STATUS_STATE 5).wr Reg.PWR_STATUS_STATE 1

/-- The unit fenced by its hold watchdog. -/
def fencedUnpowered : Chip := (activeUnpowered.flag Reg.TWIN_STATUS_HOLD_WD_EXP true).fenceUnit

theorem fencedUnpowered_powerUp : fencedUnpowered.powerUp.rd Reg.PWR_STATUS_STATE = 2 := by decide +kernel

theorem activeUnpowered_holdWd : activeUnpowered.holdWd.steady.rd Reg.PWR_STATUS_STATE = 2 := by
  have h : activeUnpowered.holdWd = fencedUnpowered.powerUp.ptpRefresh :=
    (if_pos (by decide +kernel)).trans (if_pos (c := fencedUnpowered.rd Reg.PWR_STATUS_STATE = 1 ∧ fencedUnpowered.mayPower) (by decide +kernel))
  rw [h, Chip.steady_rd _ _ _ _ (by decide), ptpRefresh_rd ⟨by decide, by decide, by decide⟩]
  exact fencedUnpowered_powerUp

theorem activeUnpowered_fenceUnit : fencedUnpowered.steady.rd Reg.PWR_STATUS_STATE = 1 := by
  decide +kernel

/-- Refutes O35: a unit in the power state of a standby (PWR_STATUS.STATE 1) whose hold watchdog expires is fenced and powered up with it
(log entry 108), where the statement has it fenced only; it does not ask which power state the unit is in. -/
theorem not_pairPinsAndFence : ¬ Obligations.PairPinsAndFence := by
  intro h
  obtain ⟨-, -, -, -, -, -, hwd, -⟩ := h { chip := activeUnpowered, pending := [] }
  obtain ⟨t, hx, -, ht, -⟩ := hwd _ (by decide +kernel) (by decide +kernel) (by decide +kernel) (by decide +kernel) rfl
  have hs : t = { chip := activeUnpowered.holdWd.steady, pending := [] } := (Host.Outcome.next.inj hx).symm
  rw [hs] at ht
  have hrd : activeUnpowered.holdWd.steady.rd Reg.PWR_STATUS_STATE = 1 :=
    (congrArg (Chip.rd · Reg.PWR_STATUS_STATE) ht).trans activeUnpowered_fenceUnit
  exact absurd (hrd.symm.trans activeUnpowered_holdWd) (by decide)

end Sys2Proof.Pairs
end

section
/-! PROOFS. Handover and restart of the management firmware (R416, R420). -/

namespace Sys2Proof.Firmware
open Sys2Proof.Machine Sys2Proof.Laws

/-! ### Requests that wait for the loader or the handover -/

/-- The one parked activation, taken by its tag. -/
theorem takeTagged_activate (c : Chip) {p : Parked} {tag t : Nat} {r : Req} (hp : c.parked = [p]) (ht : p.tag = tag) (hc : p.cmd = .fwActivate r t) :
    c.takeTagged tag = some (r, .fwActivate r t, { c with parked := [] }) := by
  unfold Chip.takeTagged
  simp only [hp, ht, hc, beq_self_eq_true, List.find?_cons_of_pos, List.eraseP_cons_of_pos]

/-! ### Handover (R416) -/

/-- The new firmware runs, the old one at hand. -/
def switched (c : Chip) : Chip :=
  { c with fw := { c.fw with hand := 2, handS := c.now, prev := SMap.get c.fw.run 0, run := SMap.set c.fw.run 0 (SMap.get c.fw.flash 0) } }

theorem fwSwitch_takes (c : Chip) (h1 : c.fw.hand = 1) (h2 : c.now ≤ c.fw.handA + unitsS 10) (h3 : c.commitNear = false) :
    c.fwSwitch = (switched c).jrnEvent 0 0 := by
  unfold Chip.fwSwitch
  rw [if_neg (not_not.2 h1), if_neg (Nat.not_lt.2 h2), if_neg (by simp [h3])]
  rfl

/-- The new firmware confirmed. -/
def confirmed (c : Chip) : Chip :=
  { c with parked := [], fw := { c.fw with
      hand := 0, prev := {}, state := SMap.set c.fw.state 0 0, err := SMap.set c.fw.err 0 0
      minSec := SMap.upd c.fw.minSec 0 fun n => max n (SMap.get c.fw.run 0).sec } }

/-- The old firmware back, its image rewritten. -/
def reverted (c : Chip) : Chip :=
  { c with parked := [], fw := { c.fw with
      hand := 0, prev := {}, run := SMap.set c.fw.run 0 c.fw.prev, flash := SMap.set c.fw.flash 0 c.fw.prev
      state := SMap.set c.fw.state 0 5, err := SMap.set c.fw.err 0 0 } }

section
variable {c : Chip} {p : Parked} {r : Req} (hh : c.fw.hand = 2) (hp : c.parked = [p]) (ht : p.tag = fwHandTag) (hc : p.cmd = .fwActivate r 0)
include hh hp ht hc

theorem fwConfirm_answers (hn : c.now ≤ c.fw.handS + unitsMs 100) :
    c.fwConfirm = ((confirmed c).jrnCmd r 1 0x0A03 0 0 (bytesOfNat 4 0)).reply r 0x0A03 .ok := by
  unfold Chip.fwConfirm
  rw [if_neg (by simp [hh, hn])]
  have h := takeTagged_activate ((({ c with fw := { c.fw with hand := 0, prev := {} } } : Chip).setFw 0 0 0).raiseSec 0) hp ht hc
  simp only [h]
  rfl

theorem fwRevert_answers (hn : c.fw.handS + unitsMs 100 < c.now) : c.fwRevert = (reverted c).reply r 0x0A03 .internal := by
  unfold Chip.fwRevert
  rw [if_neg (by simp [hh, hn])]
  have h := takeTagged_activate (({ c with fw := { c.fw with
    hand := 0, prev := {}, run := SMap.set c.fw.run 0 c.fw.prev, flash := SMap.set c.fw.flash 0 c.fw.prev } } : Chip).setFw 0 5 0) hp ht hc
  simp only [h]
  rfl

end

/-! ### The watchdog's restart (R420) -/

/-- What the management processor held for others, gone. -/
def dropHeld (c : Chip) : Chip :=
  { c with
    cmdq := [], parked := [], diag := none, cal := { c.cal with run := none }
    tbl := { c.tbl with barriers := [] }
    twin := { c.twin with waits := [] }
    drum := { c.drum with part := [] }
    fw := { c.fw with staged := [], hand := 0, prev := {}, restartAt := none }
    hif := { c.hif with h2f := [], db := c.hif.db / 2 ^ 32 * 2 ^ 32 } }

/-- Mailboxes to the firmware emptied, their messages counted as lost. -/
def dropMessages (c : Chip) : Chip :=
  c.each (List.range 16) fun n c =>
    if c.on Reg.MBX_STAT_H2F_FULL n then (c.flag Reg.MBX_STAT_H2F_FULL false n).incSat Reg.MBX_STAT_LOST 1 n else c

/-- Images being staged are staged no longer. -/
def dropStages (c : Chip) : Chip :=
  c.each (List.range 4) fun t c => if c.fwState t = 1 ∨ c.fwState t = 2 then
    c.setFw t (if (SMap.get c.fw.run t).ver = (SMap.get c.fw.flash t).ver then 0 else 3) 0 else c

/-- The restart shown with its cause, and the image of the flash run where it is without fault. -/
def showRestart (c : Chip) : Chip :=
  let x : FwImg := SMap.get c.fw.flash 0
  { c.wr Reg.PWR_STATUS_LAST_RESET 2 with fw := { c.fw with recovery := x.err != 0, run := if x.err = 0 then SMap.set c.fw.run 0 x else c.fw.run } }

/-- The start record, where the journal takes records. -/
def recordRestart (c : Chip) : Chip := if c.jrnMuted then c else c.startRecord 2

/-- An image that waited for its activation runs. -/
def takeImage (ok : Bool) (c : Chip) : Chip := if ok && c.fwState 0 == 3 then c.setFw 0 0 0 else c

/-- The block as the watchdog finds it, with what it held dropped. -/
def dropped (c : Chip) : Chip := (dropStages (dropMessages (dropHeld c))).flag Reg.CAL_STATUS_RUNNING false

theorem dropMessages_kept (c : Chip) : kept c (dropMessages c) := by
  refine kept.each _ _ (fun n c => ?_) c
  split
  · exact (kept.wr c _ _ _ _ (by decide)).trans (kept.wr _ _ _ _ _ (by decide))
  · exact kept.refl c

theorem dropStages_kept (c : Chip) : kept c (dropStages c) := by
  refine kept.each _ _ (fun t c => ?_) c
  split
  · exact kept.setFw c _ _ _
  · exact kept.refl c

theorem dropped_kept (c : Chip) : kept (dropHeld c) (dropped c) :=
  ((dropMessages_kept _).trans (dropStages_kept _)).trans (kept.wr _ _ _ _ _ (by decide))

theorem showRestart_kept (c : Chip) : kept c (showRestart c) := by
  have h := kept.wr c Reg.PWR_STATUS_LAST_RESET 2 0 0 (by decide)
  obtain ⟨h1, h2, h3, -, -, h6, h7⟩ := h
  exact ⟨h1, h2, h3, rfl, rfl, h6, h7⟩

/-- The start record is a report, apart from a note that the sequence is known again. -/
theorem recordRestart_facts (c : Chip) : kept c (recordRestart c) ∧ (recordRestart c).fw = c.fw ∧
    ∀ F : Fld, F.id ∉ reportIds → F.id ∉ steadyIds → (recordRestart c).rd F = c.rd F := by
  unfold recordRestart
  split
  · exact ⟨.refl c, rfl, fun _ _ _ => rfl⟩
  · obtain ⟨d, hd, hr⟩ := startRecord_reported c 2
    have hk : kept c d := by rw [hd]; exact kept.refl c
    refine ⟨hk.trans (kept.reported hr), hr.fw.trans (by rw [hd]), fun F h1 h2 => ?_⟩
    exact (hr.rd F 0 0 id h1 h2).trans (rd_regs (by rw [hd]) F 0 0)

theorem takeImage_facts (b : Bool) (c : Chip) :
    kept c (takeImage b c) ∧ (takeImage b c).fw.recovery = c.fw.recovery ∧ ∀ F : Fld, (takeImage b c).rd F = c.rd F := by
  unfold takeImage
  split
  · exact ⟨kept.setFw c _ _ _, rfl, fun _ => rfl⟩
  · exact ⟨.refl c, rfl, fun _ => rfl⟩

/-- The processor's own restart. -/
def restarted (c : Chip) : Chip := takeImage ((SMap.get c.fw.flash 0).err == 0) (recordRestart (showRestart c))

theorem restarted_kept (c : Chip) : kept c (restarted c) :=
  ((showRestart_kept c).trans (recordRestart_facts _).1).trans (takeImage_facts _ _).1

theorem restarted_rd (c : Chip) (F : Fld) (h1 : F.id ∉ reportIds) (h2 : F.id ∉ steadyIds) :
    (restarted c).steady.rd F = (showRestart c).rd F :=
  ((Chip.steady_rd _ _ _ _ h2).trans ((takeImage_facts _ _).2.2 F)).trans ((recordRestart_facts _).2.2 F h1 h2)

theorem restarted_lastReset (c : Chip) : (restarted c).steady.rd Reg.PWR_STATUS_LAST_RESET = 2 :=
  (restarted_rd c _ (by decide) (by decide)).trans (c.rd_wr_fits Reg.PWR_STATUS_LAST_RESET (v := 2) 0 0 (by decide))

theorem restarted_running (c : Chip) : (restarted c).steady.on Reg.CAL_STATUS_RUNNING = c.on Reg.CAL_STATUS_RUNNING := by
  unfold Chip.on
  rw [restarted_rd c _ (by decide) (by decide)]
  exact congrArg (· == 1) (c.rd_wr_id (F := Reg.CAL_STATUS_RUNNING) (G := Reg.PWR_STATUS_LAST_RESET) 2 0 0 0 0 (by decide))

theorem restarted_recovery (c : Chip) : (restarted c).fw.recovery = ((SMap.get c.fw.flash 0).err != 0) :=
  (takeImage_facts _ _).2.1.trans (congrArg Fw.recovery (recordRestart_facts (showRestart c)).2.1)

/-- Without transactions and outside a pair. -/
theorem watchdog_eq (c : Chip) (ht : c.txns = []) (hp : c.on Reg.TWIN_CFG_PAIR_EN = false) :
    c.watchdog = restarted (dropped c) := by
  obtain ⟨-, -, -, -, -, htx, hpair⟩ := dropped_kept c
  have hr : (dropped c).rollbackAll none 2 = dropped c := by
    unfold Chip.rollbackAll
    rw [htx.trans ht]
    rfl
  have hw : (dropped c).holdWd = dropped c := if_neg (by rw [hpair]; exact Bool.not_eq_true _ ▸ hp)
  have h : c.watchdog = restarted ((dropped c).rollbackAll none 2).holdWd := rfl
  rw [h, hr, hw]

theorem dropped_notRunning (c : Chip) : (dropped c).on Reg.CAL_STATUS_RUNNING = false := by
  unfold dropped
  exact on_of_flag_regs _ false rfl _ rfl

/-- Settles O38. -/
theorem firmwareHandover : Obligations.FirmwareHandover := by
  intro s
  refine ⟨?switch, fun r p hh hp ht hc => ⟨?confirm, ?revert⟩, ?watchdog⟩
  case switch =>
    rintro c h1 h2 h3 rfl
    have hr := Chip.jrnEvent_reported (own := fun _ => False) (switched s.chip) 0 0
    refine ⟨_, _, exec_next rfl (fwSwitch_takes s.chip h1 h2 h3), rfl, hr, rfl, ?_, ?_, ?_⟩
    · rw [Chip.steady_fw, hr.fw]; rfl
    · rw [Chip.steady_fw, hr.fw]; exact SMap.get_set_same _ _ _
    · rw [Chip.steady_fw, hr.fw]; rfl
  case confirm =>
    rintro hn c rfl
    exact ⟨_, exec_next rfl (fwConfirm_answers hh hp ht hc hn), rfl, .of_reported (Chip.jrnCmd_reported ..) ..⟩
  case revert =>
    rintro hn c rfl
    exact ⟨_, exec_next rfl (fwRevert_answers hh hp ht hc hn), rfl, .reply ..⟩
  case watchdog =>
    intro ht hp
    have hr := dropped_notRunning s.chip
    have hx := exec_next (i := .mgmtWatchdogExpire) rfl (watchdog_eq s.chip ht hp)
    have hkept := dropped_kept s.chip
    generalize dropped s.chip = d at hr hx hkept
    obtain ⟨hq, hk, hd, hh, -⟩ := hkept.trans (restarted_kept d)
    obtain ⟨-, -, -, -, hfl, -⟩ := hkept
    refine ⟨_, hx, rfl, restarted_lastReset d, ?_, ?_, ?_, ?_, (restarted_running d).trans hr, ?_⟩
    · exact (Chip.steady_cmdq _).trans hq
    · exact (Chip.steady_parked _).trans hk
    · exact (Chip.steady_diag _).trans hd
    · exact (congrArg Fw.hand (Chip.steady_fw _)).trans hh
    · exact (congrArg Fw.recovery (Chip.steady_fw _)).trans ((restarted_recovery d).trans (by rw [hfl]; rfl))

end Sys2Proof.Firmware
end

section
/-! PROOFS. Low power and link state (R53, R63 to R67). -/

namespace Sys2Proof.LowPower
open Sys2Proof.Machine Sys2Proof.Laws

/-- A change of a port's state alone. -/
theorem updPort_outs (c : Chip) (p : Nat) (f : PortSt → PortSt) : (c.updPort p f).outs = c.outs := rfl

theorem emit_portSt (c : Chip) (o : Out) (p : Nat) : (c.emit o).portSt p = c.portSt p := rfl

theorem wakeParts_span (c : Chip) {p : Nat} (h1 : (c.portSt p).lpTx = 5) (h2 : (c.portSt p).lpAt + 99840 ≤ c.now) :
    (c.wakeParts p).portSt p = { c.portSt p with lpSent := max (c.portSt p).lpSent 2 } ∧
    (c.wakeParts p).outs = (if (c.portSt p).lpSent ≤ 1 then [.line p (.idleBlocks (if c.mode p = 3 ∨ c.mode p = 5 then 16 else 40))] else []) ++
      (if (c.portSt p).lpSent = 0 then [.line p (.prbs7 89600)] else []) ++ c.outs := by
  have ha : (c.portSt p).lpAt ≤ c.now := by omega
  have hb : (c.portSt p).lpAt + 89600 ≤ c.now := by omega
  have h5 : ¬ (c.portSt p).lpTx ≠ 5 := not_not.2 h1
  rcases hn : (c.portSt p).lpSent with _ | _ | n
  · have hs : (((c.updPort p fun s => { s with lpSent := 1 }).emit (.line p (.prbs7 89600))).portSt p).lpSent = 1 :=
      congrArg PortSt.lpSent (updPort_port ..)
    unfold Chip.wakeParts
    simp only [if_neg h5, hn, ha, hb, and_self, if_true, hs]
    refine ⟨?_, rfl⟩
    rw [emit_portSt, updPort_port, emit_portSt, updPort_port]
    rfl
  · unfold Chip.wakeParts
    simp only [if_neg h5, hn, ha, hb, and_true, zero_add, one_ne_zero, if_false, if_true]
    exact ⟨updPort_port .., rfl⟩
  · unfold Chip.wakeParts
    have hmax : max (n + 1 + 1) 2 = n + 1 + 1 := by omega
    have h0 : ¬ n + 1 + 1 = 0 := by omega
    have h1 : ¬ n + 1 + 1 = 1 := by omega
    have h2 : ¬ n + 1 + 1 ≤ 1 := by omega
    simp only [if_neg h5, hn, h0, h1, h2, false_and, if_false, hmax]
    exact ⟨by rw [← hn], rfl⟩

/-- A port whose idle timer runs. -/
theorem idleCheck_armed (c : Chip) {p : Nat} (h : (c.portSt p).idleArm = true) : c.idleCheck p = c :=
  if_neg (by simp [h])

theorem laneAwake_armed (c : Chip) {p : Nat} (h : (c.portSt p).idleArm = true) :
    c.laneAwake p = (c.updPort p fun s => { s with lpTx := 0 }).lpShow p := by
  refine idleCheck_armed _ ?_
  rw [lpShow_port, updPort_port]
  exact h

/-- LP_STATE of a port that has changed. -/
theorem lpShow_updPort (c : Chip) (p : Fin 512) (f : PortSt → PortSt) {x : PortSt} (hx : f (c.portSt p) = x) :
    ((c.updPort p f).lpShow p).rd Reg.PORT_STATUS_LP_STATE p =
      if x.lpTx = 4 then 4 else if x.lpTx = 5 ∨ x.lpTx = 6 then 5 else if x.lpTx = 1 then (if x.lpRx = 2 then 3 else 1)
      else if x.lpRx = 2 then 2 else 0 := by
  rw [lpShow_lp, updPort_port, hx]

theorem eidleAwake_runs (c : Chip) {p : Nat} (h1 : (c.portSt p).lpTx = 5) (h2 : (c.portSt p).lpAt + 99840 ≤ c.now)
    (h3 : (c.portSt p).idleArm = true) : c.eidleAwake p = ((c.wakeParts p).updPort p fun s => { s with lpTx := 0 }).lpShow p := by
  obtain ⟨hp, -⟩ := wakeParts_span c h1 h2
  have hw : c.wakeSpan p = 99840 := if_pos h1
  refine (if_pos ⟨.inl h1, by rw [hw]; exact h2⟩).trans (laneAwake_armed _ ?_)
  rw [hp]
  exact h3

theorem linkStateChange_down (c : Chip) (n : Nat) (an : Bool) (speed : Nat) :
    c.linkStateChange n false an speed = ((((c.portDown n).ptpRefresh).showTwinLink).twinEval).settleWaits := by
  have h : c.linkChange n false an speed = c.portDown n := if_pos rfl
  unfold Chip.linkStateChange
  simp only [h, Bool.false_and, Bool.false_eq_true, if_false]

/-- Settles O44. -/
theorem lowPowerAndLinks : Obligations.LowPowerAndLinks := by
  rintro p s q rfl
  refine ⟨?sleep, fun low => ⟨?rx, ?rxLooped, ?rxTiming⟩, ?holdoff, ?awake, ?fail, ?entry, ?rxWake, ?lldp, ?report, ?down⟩
  case sleep =>
    intro h1 h2 h3
    refine ⟨_, exec_next rfl (if_pos (by simp [h1, h2, h3])), rfl, ?_, ?_, ?_⟩
    · rw [steady_portSt, emit_portSt, lpShow_port, updPort_port]
    · exact (Chip.steady_outs _).trans (congrArg (Out.pin 0 p 1 :: ·) (lpShow_outs _ _))
    · rw [Chip.steady_rd _ _ _ _ (by decide)]
      exact (lpShow_updPort _ _ _ rfl).trans rfl
  case rx =>
    intro h1 h2 h3 h4 h5
    refine ⟨_, exec_next rfl ((if_neg (by simp [h1])).trans (if_pos (by simp [h2, h3, h4]))), rfl, ?_, ?_⟩
    · rw [steady_portSt, lpShow_port, updPort_port]
    · rw [Chip.steady_rd _ _ _ _ (by decide), lpShow_updPort _ _ _ rfl]
      have h5' : (s.chip.portSt p).lpTx = 0 ∨ (s.chip.portSt p).lpTx = 1 := by omega
      rcases h5' with hx | hx <;> cases low <;> simp [hx]
  case rxLooped =>
    intro h1 h2
    exact ⟨_, exec_next rfl ((if_neg (by simp [h1])).trans (if_neg (by simp [h2]))), rfl, rfl⟩
  case rxTiming =>
    intro h1
    exact ⟨_, exec_next rfl ((if_pos h1).trans (if_pos rfl)), rfl, rfl⟩
  case holdoff =>
    intro h1 h2 h3 h4
    refine ⟨_, exec_next rfl (if_pos (by simp [h1, h2, h3, h4])), rfl, ?_, Chip.steady_outs _⟩
    rw [steady_portSt, emit_portSt, updPort_port]
  case awake =>
    intro h1 h2 h3
    obtain ⟨hp, ho⟩ := wakeParts_span s.chip h1 h2
    refine ⟨_, exec_next rfl (eidleAwake_runs s.chip h1 h2 h3), rfl, ?_, ?_, ?_⟩
    · rw [steady_portSt, lpShow_port, updPort_port, hp]
    · exact ((Chip.steady_outs _).trans (lpShow_outs _ _)).trans ho
    · rw [Chip.steady_rd _ _ _ _ (by decide), lpShow_updPort _ _ _ rfl, hp]
      rfl
  case fail =>
    intro h1
    exact ⟨_, exec_next rfl (if_pos h1), rfl, rfl⟩
  case entry =>
    intro h1 h2 h3 h4 h5
    refine ⟨_, exec_next rfl (if_pos (by simp [h1, h2, h3, h4, h5])), rfl, ?_, ?_⟩
    · rw [steady_portSt, lpShow_port, updPort_port]
    · have hr := Chip.lpShow_reported (own := fun _ => False) (s.chip.updPort p fun x => { x with lpRx := 4 }) p
      exact (Chip.steady_on _ _ _ _ (by decide)).trans ((hr.on Reg.PORT_STATUS_LINK_UP p 0 id (by decide) (by decide)).trans h3)
  case rxWake =>
    intro h1
    refine ⟨_, exec_next rfl (if_pos h1), rfl, ?_⟩
    rw [steady_portSt, lpShow_port, updPort_port]
  case lldp =>
    intro h1 h2 h3 h4
    exact ⟨_, exec_next rfl ((if_pos ⟨h1, by simp [h2], .inl h3⟩).trans (if_neg (by simp [h4]))), rfl, rfl⟩
  case report =>
    intro h1 h2 h3
    have hn : (s.chip.updPort p fun x => { x with peerEidle := false }).eidlePeer p = false := by
      unfold Chip.eidlePeer
      rw [updPort_port, Bool.and_false]
    refine ⟨_, exec_next rfl (if_pos (by simp [h1, h2, h3])), rfl, ?_, ?_⟩
    · exact (steady_portSt _ _).trans (updPort_port ..)
    · refine (Chip.steady_on _ _ _ _ (by decide)).trans ((Chip.on_flag_same (F := Reg.PORT_STATUS_EIDLE_NOPEER) _ _ _ _ rfl).trans ?_)
      rw [hn, Bool.not_false, Bool.and_true]
      rfl
  case down =>
    intro n an speed
    exact ⟨_, exec_next rfl (linkStateChange_down ..), rfl, rfl⟩

end Sys2Proof.LowPower
end

section
/-! PROOFS. Steps, increments, forced references and jumps (R165, R166, R169 to R171, R238). -/

namespace Sys2Proof.TimeCmds
open Sys2Proof.Machine Sys2Proof.Laws Sys2Proof.Packets

theorem second_outside (c : Chip) {r : Req} (h : r.txn = 0) (same : Instr → Bool) : c.second r same = false := by
  unfold Chip.second
  rw [h]
  rfl

theorem stepNow_queues (c : Chip) (r : Req) {o : Int} (h1 : c.stepNegative o = false) (h2 : c.jumpRefused o = false) :
    c.stepNow r o = { chip := c.queueStep { offset := o, source := 1, req := some r }, tlvs := [tlvOffset o] } :=
  (if_neg (by simp [h1])).trans (if_neg (by simp [h2]))

/-- The block with ADJ_NEW taken and its duration running. -/
def incremented (c : Chip) (a : Int) (n : Nat) (b : Int) : Chip :=
  { c with time := { c.time with durOn := decide (0 < n), durLeft := n, durAfter := b } }.wrS Reg.ADJ a

theorem applyIncr_within (c : Chip) {a : Int} (n : Nat) (b : Int) (h : a.natAbs ≤ ppbUnits (c.rd Reg.SERVO_CTRL_MAX_ADJ)) :
    c.applyIncr a n b = incremented c a n b := Chip.setAdj_of_le _ h

theorem incremented_rdS (c : Chip) {a : Int} (n : Nat) (b : Int) (h : a.natAbs ≤ ppbUnits (c.rd Reg.SERVO_CTRL_MAX_ADJ)) :
    (incremented c a n b).rdS Reg.ADJ = a := by
  have hm : ((incremented c a n b).rdS Reg.ADJ) = (c.applyIncr a n b).rdS Reg.ADJ := by rw [applyIncr_within c n b h]
  have hr : (c.applyIncr a n b).rdS Reg.ADJ = max (-(ppbUnits (c.rd Reg.SERVO_CTRL_MAX_ADJ) : Int)) (min (ppbUnits (c.rd Reg.SERVO_CTRL_MAX_ADJ) : Int) a) :=
    Chip.setAdj_rdS _ a
  rw [hm, hr]
  omega

theorem incremented_max (c : Chip) (a : Int) (n : Nat) (b : Int) :
    (incremented c a n b).rd Reg.SERVO_CTRL_MAX_ADJ = c.rd Reg.SERVO_CTRL_MAX_ADJ := Chip.rd_wr_id _ _ _ _ _ _ (by decide)

/-- Why an increment is refused. -/
def incrFail (c : Chip) (r : Req) (a : Int) (n : Nat) (b : Int) : Option (Status × List Tlv) :=
  let m : Int := ppbUnits (c.rd Reg.SERVO_CTRL_MAX_ADJ)
  if decide (m < a.natAbs) || decide (m < b.natAbs) || decide (2 ^ 32 ≤ n) || c.second r isIncr then some (.badParam, [])
  else if r.txn = 0 ∧ c.rd Reg.SERVO_CTRL_SERVO_MODE ≠ 1 then some (.resourceConflict, adjClaim)
  else none

/-- What JUMP_ACCEPT makes of the pending jump. -/
def acceptJump (c : Chip) (r : Req) (id act : Nat) : Res :=
  let src := c.rd Reg.PENDING_JUMP_SOURCE
  let off := if src = 4 then c.refOffset16 (c.rd Reg.PENDING_JUMP_REF) else c.rdS Reg.PENDING_JUMP_OFFSET
  let took := fun (c : Chip) => if src = 4 then c.jumpTaken (c.rd Reg.PENDING_JUMP_REF) (act == 0) else c
  if act = 1 then { chip := (took c).clearJump, record := some (0, bytesOfNat 4 (id * 65536 + 256)) }
  else if c.stepNegative off then c.refuse .badParam
  else { chip := (took c).clearJump.queueStep { offset := off, source := src, req := some r, jump := true }, tlvs := [tlvOffset off] }

/-- A jump of a source that is no reference. -/
theorem clearJump_answered {c d : Chip} {r : Req} {st : Status} {l : List Tlv} {x : List PendStep}
    (h : ({ c.clearJump with time := { c.clearJump.time with steps := x } } : Chip).answered d r 0x0405 st l) :
    d.rd Reg.PENDING_JUMP_JUMP_ID = 0 ∧ d.on Reg.TIME_STATUS_TIME_JUMP_REFUSED = false := by
  obtain ⟨h1, h2⟩ := clearJump_rd c
  exact ⟨(h.rd _ _ _ (by decide) (by decide)).trans h1, (h.on _ _ _ (by decide) (by decide)).trans h2⟩

/-- Settles O25. -/
theorem timeCommands : Obligations.TimeCommands := by
  intro r s
  refine ⟨?step, ?incr, ?force, ?jump⟩
  case step =>
    intro o h h1 h2 h3 h4 x hc hf
    obtain ⟨-, htxn, -⟩ := id h
    refine ⟨_, exec_next rfl rfl, rfl, Chip.change_done (x := { chip := x, tlvs := [tlvOffset o] }) h ?_ (stepNow_queues s.chip r h3 h4) rfl rfl hc hf⟩
    refine if_neg ?_
    rw [second_outside s.chip htxn, Bool.or_false, Bool.or_eq_true, decide_eq_true_eq, decide_eq_true_eq]
    omega
  case incr =>
    intro a b n h hm ha hb hn x hc
    obtain ⟨-, htxn, -⟩ := id h
    have hx : ({ chip := s.chip.applyIncr a n b } : Res) = { chip := x } :=
      congrArg (fun d => ({ chip := d } : Res)) (applyIncr_within s.chip n b ha)
    have hfit : (x.rdS Reg.ADJ).natAbs ≤ ppbUnits (x.rd Reg.SERVO_CTRL_MAX_ADJ) := by
      have hxe : x = incremented s.chip a n b := rfl
      rw [hxe, incremented_rdS s.chip n b ha, incremented_max]
      exact ha
    have hfail : incrFail s.chip r a n b = none := by
      refine (if_neg ?_).trans (if_neg ?_)
      · rw [second_outside s.chip htxn]
        simp only [Bool.or_false, Bool.or_eq_true, decide_eq_true_eq]
        omega
      · exact fun hne => hne.2 hm
    refine ⟨_, exec_next rfl rfl, rfl, ?_, Chip.change_done (x := { chip := x }) h hfail hx rfl rfl hc rfl⟩
    have hans := Chip.change_leaves (q := []) (body := fun c => { chip := c.applyIncr a n b }) h hfail hx rfl rfl hc rfl hfit
    exact (reported_adj hans.2).trans (incremented_rdS s.chip n b ha)
  case force =>
    intro time act ref h hbad hc
    exact ⟨_, exec_next rfl rfl, rfl, Chip.changeDirect_done (x := { chip := s.chip.forceSel (b2n time) act ref, record := some _ })
      h (if_neg (by simp [hbad])) rfl rfl rfl hc rfl⟩
  case jump =>
    intro id act o h h0 hid hsrc ho
    have hfail : act ≤ 1 → (if id = 0 ∨ id ≠ s.chip.rd Reg.PENDING_JUMP_JUMP_ID ∨ 1 < act then some (Status.badParam, ([] : List Tlv)) else none) = none :=
      fun ha => if_neg (by omega)
    refine ⟨?drop, ?take⟩
    · intro ha hc
      have hb : acceptJump s.chip r id act = { chip := s.chip.clearJump, record := some (0, bytesOfNat 4 (id * 65536 + 256)) } := by
        unfold acceptJump
        simp only [if_pos ha, if_neg hsrc]
      have hans := Chip.changeDirect_done (i := .jumpAccept r id act) (body := fun c => acceptJump c r id act) h (hfail (by omega)) hb rfl rfl hc rfl
      obtain ⟨h1, h2⟩ := clearJump_answered hans
      exact ⟨_, exec_next rfl rfl, rfl, h1, h2, hans⟩
    · intro ha hn x hc hf
      have hb : acceptJump s.chip r id act = { chip := x, tlvs := [tlvOffset o] } := by
        unfold acceptJump
        simp only [ha, if_neg hsrc, ← ho, hn, zero_ne_one, if_false, Bool.false_eq_true]
        rfl
      have hans := Chip.changeDirect_done (i := .jumpAccept r id act) (body := fun c => acceptJump c r id act) h (hfail (by omega)) hb rfl rfl hc hf
      obtain ⟨h1, h2⟩ := clearJump_answered hans
      exact ⟨_, exec_next rfl rfl, rfl, h1, h2, hans⟩

end Sys2Proof.TimeCmds
end

section
/-! PROOFS. Keys, roles and the device ID (R321, R358, R359, R404). -/

namespace Sys2Proof.Keys
open Sys2Proof.Machine Sys2Proof.Laws

/-- The slot with its new key. -/
def keyInstalled (c : Chip) (slot role tr k : Nat) : Chip :=
  (((({ c with keys := SMap.set c.keys slot k } : Chip).flag Reg.KEY_STATE_VALID true slot).wr Reg.KEY_STATE_LAST_SEQ 0 slot).wr Reg.KEY_STATE_ROLE role slot).wr
    Reg.KEY_STATE_TRANSPORTS tr slot

/-- The slot without its key. -/
def keyRetired (c : Chip) (slot : Nat) : Chip :=
  ((({ c with keys := SMap.set c.keys slot 0 } : Chip).flag Reg.KEY_STATE_VALID false slot).wr Reg.KEY_STATE_ROLE 0 slot).wr Reg.KEY_STATE_TRANSPORTS 0 slot

/-- A role and a transport mask that fit together fit their fields. -/
theorem keyRoleOk_lt {role tr : Nat} (h : keyRoleOk role tr = true) : role < 8 ∧ tr < 32 := by
  unfold keyRoleOk at h
  simp only [Bool.and_eq_true, decide_eq_true_eq] at h
  obtain ⟨⟨⟨-, hr⟩, ht⟩, -⟩ := h
  omega

theorem setRole_rd (c : Chip) {slot role tr : Nat} (h : keyRoleOk role tr = true) :
    ((c.wr Reg.KEY_STATE_ROLE role slot).wr Reg.KEY_STATE_TRANSPORTS tr slot).rd Reg.KEY_STATE_ROLE slot = role ∧
    ((c.wr Reg.KEY_STATE_ROLE role slot).wr Reg.KEY_STATE_TRANSPORTS tr slot).rd Reg.KEY_STATE_TRANSPORTS slot = tr := by
  obtain ⟨hr, ht⟩ := keyRoleOk_lt h
  exact ⟨(Chip.rd_wr_id _ _ _ _ _ _ (by decide)).trans (Chip.rd_wr_fits _ _ _ _ hr), Chip.rd_wr_fits _ _ _ _ ht⟩

/-- A field that no report moves, after what a security command leaves. -/
theorem leaves_rd {x e : Chip} (h : x.reported (fun _ => False) e) (F : Fld) (i : Nat) (h1 : F.id ∉ reportIds) (h2 : F.id ∉ steadyIds) :
    e.steady.rd F i = x.rd F i := (Chip.steady_rd _ _ _ _ h2).trans (h.rd F i 0 id h1 h2)

theorem leaves_on {x e : Chip} (h : x.reported (fun _ => False) e) (F : Fld) (i : Nat) (h1 : F.id ∉ reportIds) (h2 : F.id ∉ steadyIds) :
    e.steady.on F i = x.on F i := congrArg (· == 1) (leaves_rd h F i h1 h2)

theorem leaves_keys {x e : Chip} (h : x.reported (fun _ => False) e) : e.steady.keys = x.keys := (Chip.steady_keys _).trans h.keys

theorem leaves_outs {e : Chip} {o : Out} (h : o ∈ e.outs) : o ∈ e.steady.outs := by rwa [Chip.steady_outs]

/-- The key as sent while no owner key exists, or unwrapped under the sender's (R359). -/
theorem unwrapped {c : Chip} {r : Req} {role k : Nat} {key : Bytes}
    (h : r.slot = 255 ∧ key.length = 32 ∧ role = 4 ∧ k = natOfBytes key ∨
      r.slot ≠ 255 ∧ key.length = 40 ∧ aesUnwrap (SMap.get c.keys r.slot) (natOfBytes key) = some k) :
    (if r.slot = 255 then (if key.length = 32 ∧ role = 4 then some (natOfBytes key) else none)
      else if key.length = 40 then aesUnwrap (SMap.get c.keys r.slot) (natOfBytes key) else none) = some k := by
  rcases h with ⟨h1, h2, h3, rfl⟩ | ⟨h1, h2, h3⟩
  · rw [if_pos h1, if_pos ⟨h2, h3⟩]
  · rw [if_neg h1, if_pos h2, h3]

theorem finOf64_val (d : Fin 64) : Chip.doFabAssign.finOf64 d = d := Fin.ext (Nat.mod_eq_of_lt d.isLt)

/-- What KEY_INSTALL makes of the block. -/
def installBody (r : Req) (slot role tr : Nat) (key : Bytes) (c : Chip) : Res :=
  let k : Option Nat :=
    if r.slot = 255 then (if key.length = 32 ∧ role = 4 then some (natOfBytes key) else none)
    else if key.length = 40 then aesUnwrap (SMap.get c.keys r.slot) (natOfBytes key) else none
  if 31 < slot ∨ !keyRoleOk role tr then c.refuse .badParam
  else match k with
    | none => c.refuse .badParam
    | some k => { chip := keyInstalled c slot role tr k, record := some (1, keyContent slot role tr) }

theorem installBody_ok {c : Chip} {r : Req} {slot role tr k : Nat} {key : Bytes} (hs : slot ≤ 31) (hr : keyRoleOk role tr = true)
    (hk : r.slot = 255 ∧ key.length = 32 ∧ role = 4 ∧ k = natOfBytes key ∨
      r.slot ≠ 255 ∧ key.length = 40 ∧ aesUnwrap (SMap.get c.keys r.slot) (natOfBytes key) = some k) :
    installBody r slot role tr key c = { chip := keyInstalled c slot role tr k, record := some (1, keyContent slot role tr) } := by
  refine (if_neg ?_).trans ?_
  · simp only [hr, Bool.not_true, Bool.false_eq_true, or_false]
    omega
  · rw [unwrapped hk]

/-- What KEY_RETIRE makes of the block. -/
def retireBody (slot role tr : Nat) (c : Chip) : Res :=
  if 31 < slot then c.refuse .badParam
  else if !c.ownerLeft (some slot) then c.refuse .roleState
  else { chip := (keyRetired c slot).rollbackAll (some slot) 1, record := some (1, keyContent slot role tr) }

theorem retireBody_ok {c : Chip} {slot : Nat} (role tr : Nat) (hs : slot ≤ 31) (ho : c.ownerLeft (some slot) = true)
    (hn : ∀ y ∈ c.txns, y.req.slot ≠ slot) :
    retireBody slot role tr c = { chip := keyRetired c slot, record := some (1, keyContent slot role tr) } := by
  have hr : (keyRetired c slot).rollbackAll (some slot) 1 = keyRetired c slot := rollbackAll_none _ _ _ hn
  unfold retireBody
  rw [if_neg (Nat.not_lt.2 hs), if_neg (by simp [ho]), hr]

/-- What ROLE_MAP makes of the block. -/
def mapBody (slot role tr : Nat) (c : Chip) : Res :=
  if 31 < slot ∨ !keyRoleOk role tr ∨ !c.on Reg.KEY_STATE_VALID slot then c.refuse .badParam
  else if role ≠ 4 ∧ !c.ownerLeft (some slot) then c.refuse .roleState
  else { chip := (c.setRole slot role tr).rollbackAll (some slot) 1, record := some (1, keyContent slot role tr) }

theorem mapBody_ok {c : Chip} {slot role tr : Nat} (hs : slot ≤ 31) (hr : keyRoleOk role tr = true) (hv : c.on Reg.KEY_STATE_VALID slot = true)
    (ho : role = 4 ∨ c.ownerLeft (some slot) = true) (hn : ∀ y ∈ c.txns, y.req.slot ≠ slot) :
    mapBody slot role tr c = { chip := c.setRole slot role tr, record := some (1, keyContent slot role tr) } := by
  have hroll : (c.setRole slot role tr).rollbackAll (some slot) 1 = c.setRole slot role tr := rollbackAll_none _ _ _ hn
  unfold mapBody
  rw [if_neg, if_neg, hroll]
  · rintro ⟨h1, h2⟩
    rcases ho with h | h
    · exact h1 h
    · simp [h] at h2
  · simp only [hr, hv, Bool.not_true, Bool.false_eq_true, or_false]
    omega

theorem keyInstalled_valid (c : Chip) (slot role tr k : Nat) : (keyInstalled c slot role tr k).on Reg.KEY_STATE_VALID slot = true := by
  refine (congrArg (· == 1) ?_).trans (Chip.on_flag_same (F := Reg.KEY_STATE_VALID) { c with keys := SMap.set c.keys slot k } true slot 0 rfl)
  exact ((Chip.rd_wr_id _ _ _ _ _ _ (by decide)).trans (Chip.rd_wr_id _ _ _ _ _ _ (by decide))).trans (Chip.rd_wr_id _ _ _ _ _ _ (by decide))

theorem keyInstalled_lastSeq (c : Chip) (slot role tr k : Nat) : (keyInstalled c slot role tr k).rd Reg.KEY_STATE_LAST_SEQ slot = 0 :=
  ((Chip.rd_wr_id _ _ _ _ _ _ (by decide)).trans (Chip.rd_wr_id _ _ _ _ _ _ (by decide))).trans (Chip.rd_wr_fits _ _ _ _ (by decide))

theorem keyRetired_invalid (c : Chip) (slot : Nat) : (keyRetired c slot).on Reg.KEY_STATE_VALID slot = false := by
  refine (congrArg (· == 1) ?_).trans (Chip.on_flag_same (F := Reg.KEY_STATE_VALID) { c with keys := SMap.set c.keys slot 0 } false slot 0 rfl)
  exact (Chip.rd_wr_id _ _ _ _ _ _ (by decide)).trans (Chip.rd_wr_id _ _ _ _ _ _ (by decide))

/-- Settles O33. -/
theorem keysAndDeviceId : Obligations.KeysAndDeviceId := by
  intro r s
  refine ⟨?install, ?retire, ?map, ?assign⟩
  case install =>
    rintro slot role tr k key x h1 h2 h3 hs hr hk rfl
    obtain ⟨he, ho⟩ := key_leaves (i := .keyInstall r slot role tr key) h1 h2 h3 (installBody_ok hs hr hk) rfl
    obtain ⟨hrole, htr⟩ := setRole_rd ((({ s.chip with keys := SMap.set s.chip.keys slot k } : Chip).flag Reg.KEY_STATE_VALID true slot).wr
      Reg.KEY_STATE_LAST_SEQ 0 slot) (slot := slot) hr
    refine ⟨_, _, exec_next rfl rfl, rfl, he, rfl, leaves_outs ho, ?_, ?_, ?_, ?_, ?_⟩
    · exact (congrArg (SMap.get · slot) (leaves_keys he)).trans (SMap.get_set_same _ _ _)
    · exact (leaves_on he _ _ (by decide) (by decide)).trans (keyInstalled_valid ..)
    · exact (leaves_rd he _ _ (by decide) (by decide)).trans (keyInstalled_lastSeq ..)
    · exact (leaves_rd he _ _ (by decide) (by decide)).trans hrole
    · exact (leaves_rd he _ _ (by decide) (by decide)).trans htr
  case retire =>
    rintro slot role tr x h1 h2 h3 hs ho hn rfl
    obtain ⟨he, hrep⟩ := key_leaves (i := .keyRetire r slot role tr) h1 h2 h3 (retireBody_ok role tr hs ho hn) rfl
    refine ⟨_, _, exec_next rfl rfl, rfl, he, rfl, leaves_outs hrep, ?_, ?_⟩
    · exact (congrArg (SMap.get · slot) (leaves_keys he)).trans (SMap.get_set_same s.chip.keys slot 0)
    · exact (leaves_on he _ _ (by decide) (by decide)).trans (keyRetired_invalid ..)
  case map =>
    rintro slot role tr x h1 h2 h3 hs hr hv ho hn rfl
    obtain ⟨he, hrep⟩ := key_leaves (i := .roleMap r slot role tr) h1 h2 h3 (mapBody_ok hs hr hv ho hn) rfl
    obtain ⟨hrole, htr⟩ := setRole_rd s.chip (slot := slot) hr
    refine ⟨_, _, exec_next rfl rfl, rfl, he, rfl, leaves_outs hrep, ?_, ?_⟩
    · exact (leaves_rd he _ _ (by decide) (by decide)).trans hrole
    · exact (leaves_rd he _ _ (by decide) (by decide)).trans htr
  case assign =>
    rintro d x h rfl hc
    have hi : s.chip.doFabAssign r d = s.chip.changeDirect r (.fabAssign r d) none fun c =>
        { chip := { c with fab := { c.fab with storedId := some d.val } }, record := some (0, bytesOfNat 4 d) } := by
      unfold Chip.doFabAssign
      rw [finOf64_val]
    have hans := Chip.changeDirect_done (fail := none) (x := { chip := { s.chip with fab := { s.chip.fab with storedId := some d.val } }, record := some _ })
      (body := fun c => { chip := { c with fab := { c.fab with storedId := some d.val } }, record := some (0, bytesOfNat 4 d) }) h rfl rfl rfl rfl hc rfl
    exact ⟨_, exec_next rfl hi, rfl, congrArg Fab.storedId hans.fab, hans⟩

end Sys2Proof.Keys
end

section
/-! PROOFS. Images staged, written and activated (R403, R414 to R417). -/

namespace Sys2Proof.Firmware
open Sys2Proof.Machine Sys2Proof.Laws Sys2Proof.Service

/-! ### Staging (R403, R415) -/

/-- An image of one chunk with nothing begun before it. -/
theorem takeChunk_whole (c : Chip) (r : Req) {k limit : Nat} {data : Bytes} (hk : SMap.get c.drum.part k = none) (hd : data ≠ [])
    (hl : data.length ≤ limit) : c.takeChunk r k limit 0 data.length data = (.inl data, c.setPart k none) := by
  unfold Chip.takeChunk
  simp [hk, hd, Nat.not_lt.2 hl]

/-- The image of a target verified: its state and error, and the image where it is without fault. -/
def imageStaged (c : Chip) (t : Nat) (x : FwImg) : Chip :=
  ({ c with fw := { c.fw with staged := SMap.set c.fw.staged t (if x.err = 0 then some x else none) } } : Chip).setFw t (if x.err = 0 then 2 else 4) x.err

theorem stageImage_eq (c : Chip) (t : Nat) (b : Bytes) {x : FwImg} {d : Chip} (hr : c.fw.roots = d.fw.roots) (hm : c.fw.minSec = d.fw.minSec)
    (hx : x = fwImage d.fw.roots (SMap.get d.fw.minSec t) t b) :
    c.stageImage t b = { chip := imageStaged c t x, tlvs := [(imageStaged c t x).fwInfos] } := by
  have h : (if x.err = 0 then
        ({ c with fw := { c.fw with staged := SMap.set c.fw.staged t (if x.err = 0 then some x else none) } } : Chip).setFw t 2 0
      else ({ c with fw := { c.fw with staged := SMap.set c.fw.staged t (if x.err = 0 then some x else none) } } : Chip).setFw t 4 x.err) =
      imageStaged c t x := by
    unfold imageStaged
    split
    · next h0 => rw [h0]
    · rfl
  unfold Chip.stageImage
  have hx' : fwImage c.fw.roots (SMap.get c.fw.minSec t) t b = x := by rw [hr, hm, hx]
  simp only [hx', h]

/-- What FW_STAGE makes of a whole image in one chunk. -/
def stageBody (r : Req) (tg off total : Nat) (data : Bytes) (c : Chip) : Res :=
  if 3 < tg then c.refuse .badParam
  else if c.fwWriting tg then c.refuse .busy
  else
    match c.takeChunk r (64 + tg) 8388608 off total data with
    | (.inl b, c1) => (c1.unstage tg).stageImage tg b
    | (.inr x, _) => if x.status = .ok then { x with chip := x.chip.unstage tg } else x

theorem stageBody_whole {c : Chip} (r : Req) {tg : Nat} {data : Bytes} (ht : tg ≤ 3) (hw : c.fwWriting tg = false)
    (hk : SMap.get c.drum.part (64 + tg) = none) (hd : data ≠ []) (hl : data.length ≤ 8388608) :
    stageBody r tg 0 data.length data c = ((c.setPart (64 + tg) none).unstage tg).stageImage tg data := by
  unfold stageBody
  rw [if_neg (Nat.not_lt.2 ht), if_neg (by simp [hw]), takeChunk_whole c r hk hd hl]

/-- A result that fits one packet. -/
theorem finish_fits (c : Chip) {r : Req} {op : Nat} {x : Res} (h : fitsRoom (x.chip.replyRoom r.via) x.tlvs = true) :
    c.finish r op x = (x.done r op).reply r op x.status x.tlvs := if_pos h

theorem imageFetched_stages {c : Chip} {n : Nat} (r : Req) (tg host len dl : Nat) (b : Bytes)
    (h : c.parked[n]? = some { cmd := .fwStage r tg (.host host len), deadline := dl, tag := transferTag }) :
    c.imageFetched n b = ({ c with parked := c.parked.eraseIdx n } : Chip).finish r 0x0A01 (({ c with parked := c.parked.eraseIdx n } : Chip).stageImage tg b) := by
  unfold Chip.imageFetched Chip.takeTransfer
  rw [h]
  rfl

/-! ### Writing (R415) -/

theorem doFwWrite_parks {c : Chip} {r : Req} {tg : Nat} (h1 : c.mayRun r (.fwWrite r tg) = true) (h2 : r.txn = 0) (ht : tg ≤ 3)
    {x : FwImg} (hx : SMap.get c.fw.staged tg = some x) (hw : c.fwWriting tg = false) :
    c.doFwWrite r tg = c.park r (.fwWrite r tg) 0 (fwWriteTag tg) := by
  unfold Chip.doFwWrite
  simp only [h1, h2, Nat.not_lt.2 ht, hx, hw]
  rfl

/-- The region written. -/
def imageWritten (c : Chip) (tg : Nat) (x : FwImg) : Chip :=
  ({ c with parked := [], fw := { c.fw with flash := SMap.set c.fw.flash tg x, staged := SMap.set c.fw.staged tg none } } : Chip).setFw tg 3 0

/-- The one parked write, taken by its tag. -/
theorem takeTagged_write (c : Chip) {p : Parked} {tag t : Nat} {r : Req} (hp : c.parked = [p]) (ht : p.tag = tag) (hc : p.cmd = .fwWrite r t) :
    c.takeTagged tag = some (r, .fwWrite r t, { c with parked := [] }) := by
  unfold Chip.takeTagged
  simp only [hp, ht, hc, beq_self_eq_true, List.find?_cons_of_pos, List.eraseP_cons_of_pos]

theorem fwWriteDone_ok {c : Chip} {p : Parked} {t : Nat} {r : Req} {x : FwImg} (hp : c.parked = [p]) (ht : p.tag = fwWriteTag t)
    (hc : p.cmd = .fwWrite r t) (hs : SMap.get c.fw.staged t = some x) (hv : (SMap.get c.fw.run t).ver ≠ x.ver) :
    c.fwWriteDone t true = (imageWritten c t x).reply r 0x0A02 .ok := by
  unfold Chip.fwWriteDone
  rw [takeTagged_write c hp ht hc, hs]
  simp only [if_true, if_neg hv]
  rfl

/-! ### Activation (R416, R417) -/

theorem doFwActivate_handover {c : Chip} {r : Req} (h1 : c.mayRun r (.fwActivate r 0) = true) (h2 : r.txn = 0) (h3 : c.fw.recovery = false)
    (h4 : c.fwState 0 = 3) (h5 : c.on Reg.JRN_STATUS_COMMIT_HOLD = false) (h6 : c.fw.hand = 0) (h7 : c.parkedFull = false) :
    c.doFwActivate r 0 = { c with
      parked := c.parked ++ [{ cmd := .fwActivate r 0, deadline := c.now + unitsS 10, tag := fwHandTag }]
      fw := { c.fw with hand := 1, handA := c.now } } := by
  unfold Chip.doFwActivate
  simp only [h1, h2, h3, h4, h5, h6, h7, park_waits c r (.fwActivate r 0) (c.now + unitsS 10) fwHandTag h7]
  rfl

/-- What FW_ACTIVATE makes of a unit that restarts. -/
def restartBody (tg : Nat) (c : Chip) : Res :=
  if 3 < tg then c.refuse .badParam
  else if c.fw.recovery then { chip := { c with fw := { c.fw with restartAt := some (c.now + unitsMs 10) } } }
  else if c.fwState tg ≠ 3 then c.refuse .roleState
  else
    let st := c.rd Reg.TWIN_STATUS_STATE
    let may := st == 1 || st == 2 || (!c.on Reg.TWIN_CFG_PAIR_EN && c.rd Reg.PWR_STATUS_STATE == 0)
    if !may then c.refuse .roleState
    else if c.on Reg.JRN_STATUS_COMMIT_HOLD then c.refuse .busy
    else { chip := { c with fw := { c.fw with restartAt := some (c.now + unitsMs 10) } }, record := some (0, bytesOfNat 4 tg) }

theorem doFwActivate_direct (c : Chip) (r : Req) {tg : Nat} (h : 1 ≤ tg) : c.doFwActivate r tg = c.direct r (.fwActivate r tg) (restartBody tg) :=
  if_neg (by omega)

theorem restartBody_ok {c : Chip} {tg : Nat} (h3 : c.fw.recovery = false) (ht : tg ≤ 3) (h4 : c.fwState tg = 3)
    (h5 : c.on Reg.JRN_STATUS_COMMIT_HOLD = false)
    (hm : c.rd Reg.TWIN_STATUS_STATE = 1 ∨ c.rd Reg.TWIN_STATUS_STATE = 2 ∨ c.on Reg.TWIN_CFG_PAIR_EN = false ∧ c.rd Reg.PWR_STATUS_STATE = 0) :
    restartBody tg c = { chip := { c with fw := { c.fw with restartAt := some (c.now + unitsMs 10) } }, record := some (0, bytesOfNat 4 tg) } := by
  have hmay : (c.rd Reg.TWIN_STATUS_STATE == 1 || c.rd Reg.TWIN_STATUS_STATE == 2 ||
      (!c.on Reg.TWIN_CFG_PAIR_EN && c.rd Reg.PWR_STATUS_STATE == 0)) = true := by
    simp only [Bool.or_eq_true, Bool.and_eq_true, beq_iff_eq, Bool.not_eq_true']
    exact or_assoc.2 hm
  unfold restartBody
  rw [if_neg (Nat.not_lt.2 ht), if_neg (by simp [h3]), if_neg (not_not.2 h4)]
  simp only [hmay, h5]
  rfl

/-- Settles O37. -/
theorem firmwareCommands : Obligations.FirmwareCommands := by
  intro r s
  refine ⟨?stage, ?write, ?handover, ?restart, ?written, ?fetched⟩
  case stage =>
    rintro tg data x c h1 h2 ht hw hk hd hl hx rfl hf
    have hb := (stageBody_whole r ht hw hk hd hl).trans (stageImage_eq ((s.chip.setPart (64 + tg) none).unstage tg) tg data rfl rfl hx)
    have hans := Chip.direct_done (i := .fwStage r tg (.chunk 0 data.length data)) (op := 0x0A01) h1 h2 hb rfl hf
    exact ⟨_, exec_next rfl rfl, rfl, hans⟩
  case write =>
    rintro tg h1 h2 ht ⟨x, hx⟩ hw hp
    exact ⟨_, exec_next rfl ((doFwWrite_parks h1 h2 ht hx hw).trans (park_waits _ _ _ _ _ hp)), rfl, rfl⟩
  case handover =>
    intro h1 h2 h3 h4 h5 h6 h7
    exact ⟨_, exec_next rfl (doFwActivate_handover h1 h2 h3 h4 h5 h6 h7), rfl, rfl⟩
  case restart =>
    intro tg h1 h2 h3 h0 ht h4 h5 hm
    have hans := Chip.direct_done (op := 0x0A03) h1 h2 (restartBody_ok h3 ht h4 h5 hm) rfl rfl
    exact ⟨_, exec_next rfl (doFwActivate_direct s.chip r h0), rfl, congrArg Fw.restartAt hans.fw, hans⟩
  case written =>
    rintro tg x p c hp ht hc hs hv rfl
    have hans := Chip.answered.reply (imageWritten s.chip tg x) r 0x0A02 .ok []
    refine ⟨_, exec_next rfl (fwWriteDone_ok hp ht hc hs hv), rfl, ?_, ?_, hans⟩
    · exact (congrArg (fun f : Fw => SMap.get f.flash tg) hans.fw).trans (SMap.get_set_same _ _ _)
    · exact (congrArg (fun f : Fw => SMap.get f.state tg) hans.fw).trans (SMap.get_set_same s.chip.fw.state tg 3)
  case fetched =>
    rintro n tg host len dl b c hp rfl hf
    exact ⟨_, exec_next rfl ((imageFetched_stages r tg host len dl b hp).trans (finish_fits _ hf)), rfl, .done ..⟩

end Sys2Proof.Firmware
end

section
/-! PROOFS. Twin pairs: promotion, demotion, checkpoints, heartbeats, and the runs of a pair (R339 to R349). -/

namespace Sys2Proof.Pairs
open Sys2Proof.Machine Sys2Proof.Laws

/-! ### Commands (R340, R342 to R344) -/

/-- FORCE of a promotion. -/
def forced (w : Option (Bool × Fin 2)) : Bool := match w with | some w => w.1 | none => false

theorem forced_eq (w : Option (Bool × Fin 2)) : forced w = (w.map Prod.fst).getD false := by
  cases w <;> rfl

/-- What TWIN_PROMOTE makes of the block. -/
def promoteBody (hb : Nat) (w : Option (Bool × Fin 2)) (c : Chip) : Res :=
  let force := forced w
  if c.on Reg.JRN_STATUS_COMMIT_HOLD then c.refuse .busy
  else if !timeOk hb then c.refuse .badParam
  else if !force && !c.mayPromote hb then c.refuse .roleState
  else
    let st := c.twinState
    let c1 := if c.standby then c.promote else if st = 6 then c.claimEgress else c
    { chip := c1, tlvs := [tlvTime c.tb96], record := some (0, bytesOfNat 12 hb), force := force }

theorem doTwinPromote_eq (c : Chip) (r : Req) (hb : Nat) (w : Option (Bool × Fin 2)) :
    c.doTwinPromote r hb w = c.direct r (.twinPromote r hb w) (promoteBody hb w) := by
  cases w <;> rfl

/-- What a promotion that may go on makes of the pair's state. -/
def promoted (c : Chip) : Chip := if c.standby then c.promote else if c.twinState = 6 then c.claimEgress else c

theorem promoteBody_ok {c : Chip} {hb : Nat} {w : Option (Bool × Fin 2)} {force : Bool} (h1 : c.on Reg.JRN_STATUS_COMMIT_HOLD = false)
    (h2 : timeOk hb = true) (hw : force = (w.map Prod.fst).getD false) (h3 : force = true ∨ c.mayPromote hb = true) {x : Chip} (hx : x = promoted c) :
    promoteBody hb w c = { chip := x, tlvs := [tlvTime c.tb96], record := some (0, bytesOfNat 12 hb), force := force } := by
  have hgo : (!force && !c.mayPromote hb) = false := by
    rcases h3 with h | h <;> simp [h]
  rw [← forced_eq] at hw
  unfold promoteBody
  rw [if_neg (by simp [h1]), if_neg (by simp [h2])]
  simp only [← hw, hgo, hx]
  rfl

theorem promoted_standby {c : Chip} (h : c.standby = true) : promoted c = c.promote := if_pos h

theorem promoted_fenced {c : Chip} (h : c.rd Reg.TWIN_STATUS_STATE = 6) (hi : c.on Reg.TWIN_CFG_INTERLOCK = true) :
    promoted c = { c with twin := { c.twin with claim := 1 } } := by
  have hs : c.standby = false := by
    unfold Chip.standby
    rw [h]
    rfl
  unfold promoted
  rw [if_neg (by simp [hs])]
  exact (if_pos h).trans (if_pos hi)

/-- What TWIN_DEMOTE makes of the block. -/
def demoteBody (r : Req) (c : Chip) : Res :=
  if c.on Reg.JRN_STATUS_COMMIT_HOLD then c.refuse .busy
  else if c.twinState = 5 ∨ c.twinState = 6 then { chip := (c.jrnCmd r 1 0x0803 0 0 []).toStandby.settleWaits }
  else c.refuse .roleState

theorem demoteBody_ok {c : Chip} (r : Req) (h : c.on Reg.JRN_STATUS_COMMIT_HOLD = false)
    (hs : c.rd Reg.TWIN_STATUS_STATE = 5 ∨ c.rd Reg.TWIN_STATUS_STATE = 6) :
    demoteBody r c = { chip := (c.jrnCmd r 1 0x0803 0 0 []).toStandby.settleWaits } :=
  (if_neg (by simp [h])).trans (if_pos hs)

/-- What TWIN_CHECKPOINT makes of the block. -/
def checkpointBody (k n : Nat) (b : Bytes) (c : Chip) : Res :=
  if !c.standby then c.refuse .roleState
  else match readRecs b.length b with
    | none => c.refuse .badParam
    | some l => { chip := (c.each l fun k c => c.takeRec k).twinEval, tlvs := [tlvCkpt k n] }

theorem checkpointBody_ok {c : Chip} (k n : Nat) {b : Bytes} {l : List CkRec} (hs : c.standby = true) (hl : readRecs b.length b = some l) :
    checkpointBody k n b c = { chip := (l.foldl (fun c k => Chip.takeRec k c) c).twinEval, tlvs := [tlvCkpt k n] } := by
  unfold checkpointBody
  rw [if_neg (by simp [hs]), hl]
  rfl

/-- The block with a heartbeat noted. -/
def beaten (c : Chip) : Chip := { c with twin := { c.twin with hbAt := some c.now } }

/-- What an accepted heartbeat of a unit does to the pair's state (R343). -/
def heard (u : Fin 2) (c : Chip) : Chip :=
  let own := decide (u.val = c.rd Reg.TWIN_CFG_UNIT)
  if c.twinState = 5 ∧ !own ∧ c.on Reg.TWIN_CFG_FENCE_ON_HB then (beaten c).fenceUnit
  else if c.twinState = 6 then (if own then (beaten c).claimEgress else (beaten c).toStandby.settleWaits) else beaten c

/-- What TWIN_HEARTBEAT makes of the block. -/
def heartbeatBody (r : Req) (u : Fin 2) (c : Chip) : Res :=
  if 2000000 * 65536 < (c.sentDiff r).natAbs then
    { chip := c.count Ev.HB_STALE, status := .replay, tlvs := [tlvLastSeq (c.rd Reg.KEY_STATE_LAST_SEQ r.slot)] }
  else { chip := heard u c, tlvs := (heard u c).twinObj 2 }

theorem doTwinHeartbeat_eq (c : Chip) (r : Req) (u : Fin 2) :
    c.doTwinHeartbeat r u = c.direct r (.twinHeartbeat r u) (heartbeatBody r u) := rfl

theorem heard_noted {u : Fin 2} {c : Chip} (h6 : c.rd Reg.TWIN_STATUS_STATE ≠ 6)
    (h : c.rd Reg.TWIN_STATUS_STATE ≠ 5 ∨ u.val = c.rd Reg.TWIN_CFG_UNIT ∨ c.on Reg.TWIN_CFG_FENCE_ON_HB = false) : heard u c = beaten c := by
  refine (if_neg ?_).trans (if_neg h6)
  rintro ⟨h5, hu, hf⟩
  rcases h with h | h | h
  · exact h h5
  · simp [h] at hu
  · simp [h] at hf

theorem heard_fences {u : Fin 2} {c : Chip} (h5 : c.rd Reg.TWIN_STATUS_STATE = 5) (hu : u.val ≠ c.rd Reg.TWIN_CFG_UNIT)
    (hf : c.on Reg.TWIN_CFG_FENCE_ON_HB = true) : heard u c = (beaten c).fenceUnit := if_pos ⟨h5, by simp [hu], hf⟩

theorem heartbeatBody_ok {r : Req} (u : Fin 2) {c : Chip} (h : (c.sentDiff r).natAbs ≤ 2000000 * 65536) :
    heartbeatBody r u c = { chip := heard u c, tlvs := (heard u c).twinObj 2 } := if_neg (Nat.not_lt.2 h)

/-- Settles O34. -/
theorem twinCommands : Obligations.TwinCommands := by
  intro r s h0
  refine ⟨?promote, ?demote, ?checkpoint, ?heartbeat⟩
  case promote =>
    rintro hb w force l h1 h2 h3 hw h4 rfl
    refine ⟨?standby, ?fenced⟩
    · rintro x hs rfl hf
      have hb' := promoteBody_ok h2 h3 hw h4 (promoted_standby hs).symm
      exact ⟨_, exec_next rfl (doTwinPromote_eq ..), rfl, Chip.direct_done (i := .twinPromote r hb w) (op := 0x0802) h1 h0 hb' rfl hf⟩
    · rintro x h6 hi rfl hf
      have hb' := promoteBody_ok h2 h3 hw h4 (promoted_fenced h6 hi).symm
      exact ⟨_, exec_next rfl (doTwinPromote_eq ..), rfl, Chip.direct_done (i := .twinPromote r hb w) (op := 0x0802) h1 h0 hb' rfl hf⟩
  case demote =>
    rintro x h1 h2 hs rfl
    exact ⟨_, exec_next rfl rfl, rfl, Chip.direct_done (i := .twinDemote r) (op := 0x0803) h1 h0 (demoteBody_ok r h2 hs) rfl rfl⟩
  case checkpoint =>
    rintro k n b l x h1 hs hl rfl hf
    exact ⟨_, exec_next rfl rfl, rfl, Chip.direct_done (i := .twinCheckpoint r k n b) (op := 0x0804) h1 h0 (checkpointBody_ok k n hs hl) rfl hf⟩
  case heartbeat =>
    rintro u h x h1 hd rfl hx hf
    have hh : heard u s.chip = x := by
      rcases hx with ⟨rfl, h6, h⟩ | ⟨rfl, h5, hu, hfe⟩
      · exact heard_noted h6 h
      · exact heard_fences h5 hu hfe
    have hb' := heartbeatBody_ok u hd
    rw [hh] at hb'
    exact ⟨_, exec_next rfl (doTwinHeartbeat_eq ..), rfl, Chip.direct_done (i := .twinHeartbeat r u) (op := 0x0805) h1 h0 hb' rfl hf⟩

/-! ### The runs of a pair (R339, R340, R346, R349) -/

theorem standby_of_state {c : Chip} {n : Nat} (h : c.rd Reg.TWIN_STATUS_STATE = n) (h1 : 1 ≤ n) (h3 : n ≤ 3) : c.standby = true := by
  unfold Chip.standby
  simp [h, h1, h3]

theorem twinEval_ready {c : Chip} (h1 : c.rd Reg.TWIN_STATUS_STATE = 1) (h : c.twinReady = true) :
    c.twinEval = { c.wr Reg.TWIN_STATUS_STATE 2 with twin := { c.twin with readyAt := c.now } } := by
  have hs := standby_of_state h1 (by decide) (by decide)
  unfold Chip.twinEval Chip.twinState
  simp only [hs, h1, h]
  rfl

theorem twinEval_unready {c : Chip} (h2 : c.rd Reg.TWIN_STATUS_STATE = 2) (h : c.twinReady = false) :
    c.twinEval = c.wr Reg.TWIN_STATUS_STATE 1 := by
  have hs := standby_of_state h2 (by decide) (by decide)
  unfold Chip.twinEval Chip.twinState
  simp only [hs, h2, h]
  rfl

theorem sendFull_done (c : Chip) : c.sendFull.twin.fullDue = false := by
  unfold Chip.sendFull
  simp only [ckNote_fullDue, ckSend_fullDue]

/-- The store as saved with a count. -/
def savedOf (c : Chip) (n : Nat) : Saved := { count := n, key := c.stateKey, recs := c.storeRecs }

section
variable {c : Chip} (hs : c.standby = true) (hn : c.rd Reg.CKPT_CFG_SAVE_S ≠ 0) (hf : c.twin.full = true)
  (ht : c.twin.savedAt + c.rd Reg.CKPT_CFG_SAVE_S * 100000000000 ≤ c.now) (hw : c.newestSaved = c.twin.slotA)
include hs hn hf ht hw

theorem twinSave_toB {a : Saved} (ha : c.twin.slotA = some a) :
    c.twinSave = { c with twin := { c.twin with savedAt := c.now, slotB := some (savedOf c (a.count + 1)) } } := by
  have hdue : ¬ (c.standby = false ∨ c.rd Reg.CKPT_CFG_SAVE_S = 0 ∨ c.twin.full = false ∨ c.now < c.twin.savedAt + unitsS (c.rd Reg.CKPT_CFG_SAVE_S)) := by
    simp [hs, hn, hf, unitsS, ht]
  unfold Chip.twinSave
  simp only [Bool.not_eq_true', if_neg hdue, hw, ha, decide_true, if_true]
  rfl

theorem twinSave_toA (ha : c.twin.slotA = none) :
    c.twinSave = { c with twin := { c.twin with savedAt := c.now, slotA := some (savedOf c 1) } } := by
  have hdue : ¬ (c.standby = false ∨ c.rd Reg.CKPT_CFG_SAVE_S = 0 ∨ c.twin.full = false ∨ c.now < c.twin.savedAt + unitsS (c.rd Reg.CKPT_CFG_SAVE_S)) := by
    simp [hs, hn, hf, unitsS, ht]
  unfold Chip.twinSave
  simp only [Bool.not_eq_true', if_neg hdue, hw, ha]
  rfl

end

theorem takeback_begins {c d : Chip} {h : Nat} (h2 : c.rd Reg.TWIN_STATUS_STATE = 2) (hh : c.on Reg.TWIN_CFG_HOME = true) (h0 : c.twin.take = 0)
    (hr : c.twin.readyAt + unitsS (c.rd Reg.HANDOVER_CTRL_READY_HOLD_S) ≤ c.now) (hn : c.nextHandover = some h)
    (hp : c.cdPeriod (c.rd Reg.HANDOVER_CTRL_DOMAIN) ≠ 0) (hb : c.boundaryFrom (c.rd Reg.HANDOVER_CTRL_DOMAIN) h = h)
    (hl : h ≤ c.tb16 + 86400 * nsPerS * 65536) (hs : c.twinTry 0 0x0201 0 [] = some d) :
    c.takeback = { d with twin := { d.twin with take := 1, takeH := h } } := by
  have hgo : ¬ (c.twinState ≠ 2 ∨ (!c.on Reg.TWIN_CFG_HOME) = true ∨ c.twin.take ≠ 0 ∨
      c.now < c.twin.readyAt + unitsS (c.rd Reg.HANDOVER_CTRL_READY_HOLD_S)) := by
    have h2' : c.twinState = 2 := h2
    simp [h2', hh, h0, hr]
  have hok : ¬ (c.cdPeriod (c.rd Reg.HANDOVER_CTRL_DOMAIN) = 0 ∨ c.boundaryFrom (c.rd Reg.HANDOVER_CTRL_DOMAIN) h ≠ h ∨
      c.tb16 + 86400 * nsPerS * 65536 < h) := by
    simp [hp, hb, hl]
  unfold Chip.takeback
  simp only [if_neg hgo, hn, if_neg hok, hs]

/-- Settles O36. -/
theorem pairRuns : Obligations.PairRuns := by
  intro s
  refine ⟨?ready, ?unready, ?send, ?save, ?thaw, ?takeback, ?preThaw⟩
  case ready =>
    intro h1 h
    refine ⟨_, exec_next rfl (twinEval_ready h1 h), rfl, ?_, rfl⟩
    exact (Chip.steady_rd _ _ _ _ (by decide)).trans (s.chip.rd_wr_fits Reg.TWIN_STATUS_STATE (v := 2) 0 0 (by decide))
  case unready =>
    intro h2 h
    refine ⟨_, exec_next rfl (twinEval_unready h2 h), rfl, ?_, rfl⟩
    exact (Chip.steady_rd _ _ _ _ (by decide)).trans (s.chip.rd_wr_fits Reg.TWIN_STATUS_STATE (v := 1) 0 0 (by decide))
  case send =>
    intro h1 h2
    exact ⟨_, exec_next rfl ((if_neg (by simp [h1])).trans (if_pos h2)), rfl, rfl, (congrArg Twin.fullDue (Chip.steady_twin _)).trans (sendFull_done _)⟩
  case save =>
    rintro n hs rfl hn hf ht hw
    refine ⟨_, exec_next rfl rfl, rfl, fun a ha => ?_, fun ha => ?_⟩
    · exact congrArg Chip.steady (twinSave_toB hs hn hf ht hw ha)
    · exact congrArg Chip.steady (twinSave_toA hs hn hf ht hw ha)
  case thaw =>
    intro h4 hc he ht
    exact ⟨_, exec_next rfl (if_pos ⟨h4, hc, by simp [he], ht⟩), rfl, rfl⟩
  case takeback =>
    intro h c h2 hh h0 hr hn hp hb hl hs
    exact ⟨_, exec_next rfl (takeback_begins h2 hh h0 hr hn hp hb hl hs), rfl, rfl⟩
  case preThaw =>
    intro h3 hh
    refine ⟨fun h2 ht => ?_, fun h1 => ?_⟩
    · have hgo : ¬ (s.chip.twin.take ≠ 3 ∨ s.chip.tb16 + 100000000 * 65536 < s.chip.twin.takeH ∨ s.chip.twinState = 3) := by
        have h2' : s.chip.twinState = 2 := h2
        omega
      exact ⟨_, exec_next rfl ((if_neg hgo).trans (if_pos ⟨h2, ht⟩)), rfl, rfl⟩
    · have h1' : s.chip.twinState = 1 := h1
      exact ⟨_, exec_next rfl ((if_neg (by omega)).trans (if_neg (by omega))), rfl, rfl⟩

end Sys2Proof.Pairs
end

section
/-! PROOFS. Transactions (R375 to R388, R401). -/

namespace Sys2Proof.Transactions
open Sys2Proof.Machine Sys2Proof.Laws Sys2Proof.TableProofs

/-! ### Transactions opened, staged into, queried, rolled back (R375 to R379, R386, R387) -/

/-- The block with a new transaction open. -/
def begun (c : Chip) (r : Req) : Chip :=
  { c with txns := c.txns ++ [{ id := nextTxnId c.txnCtr, req := r, lastNamed := c.now }], txnCtr := nextTxnId c.txnCtr }

theorem doTxnBegin_opens {c : Chip} {r : Req} (h1 : c.mayRun r (.txnBegin r) = true) (h2 : r.txn = 0) (hl : c.txns.length < 4) :
    c.doTxnBegin r = (begun c r).replyWith (c.slotKey r.slot) r 0x0201 .ok (nextTxnId c.txnCtr) [] :=
  (if_neg (by simp [h1])).trans ((if_neg (not_not.2 h2)).trans (if_neg (Nat.not_le.2 hl)))

/-- A transaction named by a command now. -/
def named (c : Chip) (x : Txn) : Chip := c.updTxn x.id fun y => { y with lastNamed := c.now }

theorem stage_adds {c : Chip} {r : Req} {i : Instr} {x : Txn} (l : List Tlv) (hx : c.txnOf r = some x) (ho : x.state = .opened)
    (hb : x.bytes + 32 + c.stageBytes i ≤ stageLimit) :
    c.stage r i none l = ((named c x).updTxn x.id fun y => { y with staged := y.staged ++ [i], bytes := x.bytes + 32 + c.stageBytes i }).reply r (opOf i) .ok l := by
  unfold Chip.stage
  rw [hx]
  exact (if_neg (not_not.2 ho)).trans (if_neg (Nat.not_lt.2 hb))

theorem change_stages {c : Chip} {r : Req} {i : Instr} {fail : Option (Status × List Tlv)} {body : Chip → Res} {l : List Tlv}
    (h1 : c.mayRun r i = true) (h2 : r.txn ≠ 0) : c.change r i fail body l = c.stage r i fail l :=
  (if_neg (by simp [h1])).trans (if_pos h2)

theorem doTxnStatus_open {c : Chip} {r : Req} {x : Txn} (h1 : c.mayRun r (.txnStatus r) = true) (hx : c.txnOf r = some x) :
    c.doTxnStatus r = (named c x).reply r 0x0204 .ok [x.info] := by
  unfold Chip.doTxnStatus
  simp only [h1, hx]
  rfl

/-- The transaction gone, its parked commit answered. -/
def rolledBack (c : Chip) (x : Txn) : Chip := ((c.undoPrepare x.id).endTxn x .rolledBack).answerParked x.id .txnNone []

theorem doTxnRollback_answers {c : Chip} {r : Req} {x : Txn} (h1 : c.mayRun r (.txnRollback r) = true) (hx : c.txnOf r = some x)
    (hp : (x.checked && c.pairOn) = false) : c.doTxnRollback r = (rolledBack c x).reply r 0x0203 .ok := by
  unfold Chip.doTxnRollback
  simp only [h1, hx, hp]
  rfl

theorem rolledBack_gone (c : Chip) (x : Txn) : ∀ y ∈ (rolledBack c x).txns, y.id ≠ x.id := by
  unfold rolledBack
  rw [answerParked_txns]
  exact endTxn_gone _ _ _ _ rfl

/-- The same by the device. -/
def timedOut (c : Chip) (x : Txn) (id : Nat) : Chip :=
  (((c.configDrop x.id).undoPrepare x.id).endTxn x .rolledBackByDevice).answerParked id .txnNone []

theorem timedOut_gone (c : Chip) {x : Txn} {id : Nat} (h : x.id = id) : ∀ y ∈ (timedOut c x id).txns, y.id ≠ id := by
  unfold timedOut
  rw [answerParked_txns]
  exact endTxn_gone _ _ _ _ h

theorem txnIdle_ends {c : Chip} {id : Nat} {x : Txn} (hx : c.txns.find? (fun y => y.id == id) = some x) (ho : x.state = .opened)
    (ht : x.lastNamed + unitsS (c.rd Reg.TXN_CFG_IDLE_S) ≤ c.now) :
    c.txnIdle id = ((timedOut c x id).notify Nt.TXN_ROLLED_BACK Cls.DEV 0 0 (some (id, 0))).jrnEvent Nt.TXN_ROLLED_BACK 0 := by
  have hr : c.rollbackByDevice id 0 = ((timedOut c x id).notify Nt.TXN_ROLLED_BACK Cls.DEV 0 0 (some (id, 0))).jrnEvent Nt.TXN_ROLLED_BACK 0 := by
    unfold Chip.rollbackByDevice
    rw [hx]
    rfl
  unfold Chip.txnIdle
  simp only [hx]
  exact (if_pos ⟨ho, ht⟩).trans hr

/-- Settles O31. -/
theorem transactionsOpen : Obligations.TransactionsOpen := by
  intro r s
  refine ⟨?begin, fun x hx => ⟨?stage, ?status, ?rollback⟩, ?idle⟩
  case begin =>
    intro h1 h2 hl
    obtain ⟨hr, ho⟩ := Chip.replyWith_reported (own := fun _ => False) (begun s.chip r) (s.chip.slotKey r.slot) r 0x0201 .ok (nextTxnId s.chip.txnCtr) [] r.role.code none
    refine ⟨_, exec_next rfl (doTxnBegin_opens h1 h2 hl), rfl, ?_, ?_, ?_⟩
    · exact (Chip.steady_outs _).symm ▸ ho
    · exact (Chip.steady_txnCtr _).trans hr.txnCtr
    · exact (Chip.steady_txns _).trans hr.txns
  case stage =>
    rintro i rfl h1 h2 ho hb
    exact ⟨_, exec_next rfl ((change_stages h1 h2).trans (stage_adds _ hx ho hb)), rfl, .reply ..⟩
  case status =>
    intro h1
    exact ⟨_, exec_next rfl (doTxnStatus_open h1 hx), rfl, .reply ..⟩
  case rollback =>
    intro h1 hp
    have hans := Chip.answered.reply (rolledBack s.chip x) r 0x0203 .ok []
    refine ⟨_, exec_next rfl (doTxnRollback_answers h1 hx hp), rfl, fun y hy => rolledBack_gone s.chip x y ?_, hans⟩
    exact hans.txns ▸ hy
  case idle =>
    intro id x hx ho ht
    have hid : x.id = id := by simpa using List.find?_some hx
    have he : (timedOut s.chip x id).reported (fun _ => False)
        (((timedOut s.chip x id).notify Nt.TXN_ROLLED_BACK Cls.DEV 0 0 (some (id, 0))).jrnEvent Nt.TXN_ROLLED_BACK 0) :=
      (Chip.notify_reported ..).trans (Chip.jrnEvent_reported ..)
    refine ⟨_, _, exec_next rfl (txnIdle_ends hx ho ht), rfl, fun y hy => timedOut_gone s.chip hid y ?_, he, rfl⟩
    exact ((Chip.steady_txns _).trans he.txns) ▸ hy

/-! ### Commits (R382, R383) -/

/-- A transaction prepared for a commit at time 0 that transfers an entry of table 5. -/
def preparedTxn : Txn :=
  { id := 1, req := ownerReq, lastNamed := 0, state := .waiting, checked := true, mode := 1, time := 0, staged := [heldDma 0] }

/-- The block with that transaction, the table's arbiter frozen. -/
def frozenCommit : Chip := { frozenTable with txns := [preparedTxn] }

/-- The transaction scheduled, as the statement has it. -/
def scheduledCommit : Chip :=
  ((({ frozenCommit with schedCtr := frozenCommit.schedCtr + 1 } : Chip).updTxn 1 fun _ =>
    { preparedTxn with p := 0, state := .scheduled, order := frozenCommit.schedCtr }).answerParked 1 .ok
      [tlvTime (time96 0), tlvTxnInfo 2 0 preparedTxn.bytes (time96 0)]).settleWaits

/-- Refutes O32: a prepared commit whose staged transfer a frozen arbiter holds (R47) waits on, where the statement has it scheduled: it does not
ask that no freeze holds what is staged. -/
theorem not_transactionsCommit : ¬ Obligations.TransactionsCommit := by
  intro h
  obtain ⟨-, hprep, -⟩ := h { chip := frozenCommit, pending := [] }
  obtain ⟨-, htime⟩ := hprep 1 preparedTxn (by decide +kernel) rfl rfl rfl (by decide +kernel)
  obtain ⟨t, hx, -, hc⟩ := htime rfl (by decide +kernel)
  have ht : t = { chip := (frozenCommit.prepared 1).steady, pending := [] } := (Host.Outcome.next.inj hx).symm
  rw [ht] at hc
  have hs : (frozenCommit.prepared 1).schedCtr = scheduledCommit.schedCtr :=
    ((Chip.steady_schedCtr _).symm.trans (congrArg Chip.schedCtr hc)).trans (Chip.steady_schedCtr _)
  exact absurd hs (by decide +kernel)

end Sys2Proof.Transactions
end

section
/-! PROOFS. The host interface: requests, rings, injection, host reset (16_command_interface.md). -/

namespace Sys2Proof.Hosts
open Sys2Proof.Machine Sys2Proof.Laws

/-! ### Packets (R354, R355, R364) -/

/-- A packet as the queue holds it. -/
def queued (c : Chip) (v : Via) (b : Bytes) : Packet := { via := v, bytes := b, era := c.hif.era }

theorem queuePacket_fits (c : Chip) (v : Via) (b : Bytes) (h : c.cmdq.length < 256) :
    c.queuePacket { via := v, bytes := b } = { c with cmdq := c.cmdq ++ [queued c v b] } := if_neg (Nat.not_le.2 h)

/-- A packet that finds the interpreter idle and the queue empty runs at once. -/
theorem packetRx_idle (c : Chip) (v : Via) (b : Bytes) (h : c.cmdq = []) : c.packetRx v true b = c.runPacket (queued c v b) := by
  have hc : ({ c with cmdq := [] } : Chip) = c := by rw [← h]
  have hq : c.queuePacket { via := v, bytes := b } = { c with cmdq := [] ++ [queued c v b] } := by
    rw [queuePacket_fits c v b (by rw [h]; decide), h]
  have hd := drainQueue_one c [] (queued c v b)
  rw [hc] at hd
  exact (congrArg Chip.drainQueue hq).trans hd

section
variable {c : Chip} {v : Via} {b : Bytes} {h : Hdr} (hh : h = parseHdr b) (hs : c.served v = true) (hp : v = .twinLink → h.flags < 64) (hf : formOk b = true)
  (hb : c.bootstrap v h b = false) (hk : c.slotOk h.slot v = true)
include hh hs hp hf hb hk

theorem runPacket_passes {role : Role} (ha : authCode (SMap.get c.keys h.slot) (b.take (32 + h.len)) = natAt b (32 + h.len) 16)
    (hr : h.role = c.rd Reg.KEY_STATE_ROLE h.slot) (ho : Role.ofCode h.role = some role) (hfr : c.freshOk v h = true)
    (hst : c.staleBeat (reqOfHdr v h role c.hif.era) h.op = false) :
    c.runPacket (queued c v b) = (c.wr Reg.KEY_STATE_LAST_SEQ h.seq h.slot).runChecked (reqOfHdr v h role c.hif.era) h ((b.drop 32).take h.len) := by
  have hp' : ¬ (v = .twinLink ∧ 64 ≤ h.flags) := fun ⟨h1, h2⟩ => absurd (hp h1) (Nat.not_lt.2 h2)
  have hrole : (Role.ofCode (c.rd Reg.KEY_STATE_ROLE h.slot)).getD .observer = role := by rw [← hr, ho]; rfl
  unfold Chip.runPacket queued
  simp only [← hh, hs, if_neg hp', hf, hb, hrole, hk, if_neg (not_not.2 ha), if_neg (not_not.2 hr), hfr, hst]
  rfl

theorem runPacket_fails (ha : authCode (SMap.get c.keys h.slot) (b.take (32 + h.len)) ≠ natAt b (32 + h.len) 16) (hv : v ≠ .ring) :
    c.runPacket (queued c v b) = (c.count Ev.CMD_AUTH_FAIL).notify Nt.AUTH_FAIL Cls.SEC h.slot 1 := by
  have hp' : ¬ (v = .twinLink ∧ 64 ≤ h.flags) := fun ⟨h1, h2⟩ => absurd (hp h1) (Nat.not_lt.2 h2)
  unfold Chip.runPacket queued
  simp only [← hh, hs, if_neg hp', hf, hb, hk, if_pos ha]
  exact if_neg hv

end

/-! ### Rings (R368) -/

theorem ringOverrun_fits (c : Chip) (g : Ring) {waiting offered : Nat} (h : waiting + offered < max 1 g.size) : c.ringOverrun g waiting offered = c :=
  if_neg (by simp [Nat.not_le.2 h])

theorem setTail_on {g : Ring} (tail : Nat) (h : g.en = true) : g.setTail tail = { g with tail := tail % max 1 g.size } := by
  unfold Ring.setTail
  rw [if_pos h]

/-- The command ring with its tail written and one request fetched. -/
def fetched (c : Chip) (tail : Nat) : Chip :=
  ({ c with hif := { c.hif with cmd := ({ c.hif.cmd with tail := tail % max 1 c.hif.cmd.size } : Ring).next } } : Chip).emit (.ringDone 0 c.hif.cmd.head)

/-- The command ring worked off. -/
def headToTail (c : Chip) : Chip := { c with hif := { c.hif with cmd := { c.hif.cmd with head := c.hif.cmd.tail } } }

theorem cmdTail_takes {c : Chip} (tail : Nat) (b : Bytes) (he : c.hif.cmd.en = true) (hs : 1 < c.hif.cmd.size) (hq : c.cmdq.length < 256) :
    c.cmdTail tail false [some b] = { c with
      cmdq := c.cmdq ++ [queued c .ring b]
      outs := .ringDone 0 c.hif.cmd.head :: c.outs
      hif := { c.hif with cmd := { c.hif.cmd with tail := tail % max 1 c.hif.cmd.size, head := tail % max 1 c.hif.cmd.size } } } := by
  have ho : ∀ d : Chip, d.ringOverrun c.hif.cmd 0 ([some b] : List (Option Bytes)).length = d := fun d => ringOverrun_fits d _ (lt_max_of_lt_right hs)
  have h : c.cmdTail tail false [some b] = headToTail ((fetched c tail).queuePacket { via := .ring, bytes := b }) := by
    unfold Chip.cmdTail
    simp only [he, ho, setTail_on tail he, Chip.each, List.foldl_cons, List.foldl_nil, Bool.not_true, Bool.false_eq_true, if_false, fetched, headToTail]
  rw [h, queuePacket_fits (fetched c tail) .ring b hq]
  rfl

theorem injTail_takes {c : Chip} (tail : Nat) (f : Nat × Bytes) (he : c.hif.inj.en = true) (hs : c.hif.injWait.length + 1 < c.hif.inj.size) :
    c.injTail tail [some f] = { c with hif := { c.hif with
      inj := { c.hif.inj with tail := tail % max 1 c.hif.inj.size }, injWait := c.hif.injWait ++ [some f] } } := by
  have ho : ∀ d : Chip, d.ringOverrun c.hif.inj c.hif.injWait.length ([some f] : List (Option (Nat × Bytes))).length = d :=
    fun d => ringOverrun_fits d _ (lt_max_of_lt_right hs)
  unfold Chip.injTail
  simp only [he, ho, setTail_on tail he, Chip.each, List.foldl_cons, List.foldl_nil, Bool.not_true, Bool.false_eq_true, if_false]
  rfl

theorem injectFrame_sends {c d : Chip} {x : Nat} {b : Bytes} {l : List (Option (Nat × Bytes))} (hw : c.hif.injWait = some (x, b) :: l)
    (hok : ¬ (512 < Lay.IDESC_PORT.get x ∨ c.twinPort (Lay.IDESC_PORT.get x) ∨ Lay.IDESC_LEN.get x < 60 ∨
      c.maxFrame (Lay.IDESC_PORT.get x) < Lay.IDESC_LEN.get x + 4 ∨ (Lay.IDESC_PORT.get x = 512 ∧ Lay.IDESC_TIMED.get x = 1)))
    (hi : c.injectOwn (Lay.IDESC_PORT.get x) (Lay.IDESC_CLASS.get x) (sliceBytes b 0 (Lay.IDESC_LEN.get x))
      (if Lay.IDESC_TIMED.get x = 1 then some (timeOf96 (Lay.IDESC_LAUNCH.get x)) else none)
      (if Lay.IDESC_STAMP.get x = 1 then some (Lay.IDESC_TAG.get x) else none) = some d) :
    c.injectFrame = (d.injDone.emit (.ringDone 3 c.hif.inj.head)).emit (.msix 2) := by
  unfold Chip.injectFrame
  simp only [hw, if_neg hok, hi]

theorem injectFrame_short {c : Chip} {x : Nat} {b : Bytes} {l : List (Option (Nat × Bytes))} (hw : c.hif.injWait = some (x, b) :: l)
    (hn : Lay.IDESC_LEN.get x < 60) : c.injectFrame = c.injDone.hifErr 0 := by
  unfold Chip.injectFrame
  simp only [hw]
  exact if_pos (.inr (.inr (.inl hn)))

theorem rspTail_delivery {c : Chip} (tail : Nat) (rooms : List Nat) (he : c.hif.dlv.en = true) (hs : c.hif.dlvRoom.length + rooms.length < c.hif.dlv.size) :
    c.rspTail true tail rooms = { c with hif := { c.hif with
      dlv := { c.hif.dlv with tail := tail % max 1 c.hif.dlv.size }, dlvRoom := c.hif.dlvRoom ++ rooms } } := by
  refine (ringOverrun_fits _ _ (lt_max_of_lt_right hs)).trans ?_
  rw [setTail_on tail he, if_pos he]

theorem rspTail_reply {c : Chip} (tail : Nat) (rooms : List Nat) (he : c.hif.rsp.en = true) (hw : c.hif.rspWait = [])
    (hs : c.hif.rspRoom.length + rooms.length < c.hif.rsp.size) :
    c.rspTail false tail rooms = { c with hif := { c.hif with
      rsp := { c.hif.rsp with tail := tail % max 1 c.hif.rsp.size }, rspRoom := c.hif.rspRoom ++ rooms } } := by
  have ho : ∀ d : Chip, d.ringOverrun c.hif.rsp c.hif.rspRoom.length rooms.length = d := fun d => ringOverrun_fits d _ (lt_max_of_lt_right hs)
  unfold Chip.rspTail
  simp only [he, ho, setTail_on tail he, ← hw, Chip.each, Bool.not_true, Bool.false_eq_true, if_false]
  rw [hw]
  rfl

/-- The first waiting reply late, no other. -/
theorem rspTimeout_first {c : Chip} {w : Nat × Bytes} {l : List (Nat × Bytes)} (hw : c.hif.rspWait = w :: l) (h1 : w.1 ≤ c.now) (h2 : ∀ y ∈ l, c.now < y.1) :
    c.rspTimeout = Chip.count { c with hif := { c.hif with rspWait := l } } Ev.CMD_RSP_DROP := by
  have hl : l.filter (fun w => decide (w.1 ≤ c.now)) = [] := List.filter_eq_nil_iff.2 fun y hy => by simpa using h2 y hy
  have hk : l.filter (fun w => !decide (w.1 ≤ c.now)) = l := List.filter_eq_self.2 fun y hy => by simpa using h2 y hy
  unfold Chip.rspTimeout
  simp only [hw, List.filter_cons, h1, hl, hk, decide_true, Bool.not_true, if_true, Bool.false_eq_true, if_false]
  rfl

/-! ### Trapped frames (R364) -/

theorem trapHandle_command {c : Chip} {k : Nat} (idle : Bool) {f : Frame} {n : Nat} {v : Via} {b : Bytes}
    (hf : c.trapFirst k (fun f => !f.trapKey.esmc && f.trapKey.ptp.isNone) = some (f, n)) (hc : c.trapCommand f = some (v, b))
    (hen : f.port = 512 ∨ v = .twinLink ∨ (c.dropTgt f.id n).on Reg.CMD_PORT_CMD_EN f.port = true) :
    c.trapHandle k idle = (c.dropTgt f.id n).packetRx v idle b := by
  unfold Chip.trapHandle
  simp only [hf, hc]
  refine if_neg ?_
  rintro ⟨h1, h2, h3⟩
  rcases hen with h | h | h
  · exact h1 h
  · exact h2 h
  · simp [h] at h3

theorem trapHandle_other {c : Chip} {k : Nat} (idle : Bool) {f : Frame} {n : Nat}
    (hf : c.trapFirst k (fun f => !f.trapKey.esmc && f.trapKey.ptp.isNone) = some (f, n)) (hc : c.trapCommand f = none)
    (hl : f.trapKey.lldp = false) (hp : f.port ≠ 512) :
    c.trapHandle k idle = ((c.dropTgt f.id n).addressAnswer f f.trapKey).hostCopy f k := by
  unfold Chip.trapHandle
  simp only [hf, hc, hl, if_neg hp, Bool.false_eq_true, if_false]

/-- Settles O39. -/
theorem requestsAndRings : Obligations.RequestsAndRings := by
  intro s
  refine ⟨?packet, ?checks, ?cmdTail, ?injTail, ?inject, fun tail rooms => ⟨?delivery, ?reply⟩, ?timeout, ?reset, fun k idle f n hf => ⟨?command, ?other⟩⟩
  case packet =>
    intro v b h
    exact ⟨_, exec_next rfl (queuePacket_fits _ v b h), rfl, rfl⟩
  case checks =>
    intro v b h hq hh hs hp hf hb hk
    refine ⟨fun role ha hr ho hfr hst => ?_, fun ha hv => ?_⟩
    · exact ⟨_, exec_next rfl ((packetRx_idle _ v b hq).trans (runPacket_passes hh hs hp hf hb hk ha hr ho hfr hst)), rfl, rfl⟩
    · exact ⟨_, _, exec_next rfl ((packetRx_idle _ v b hq).trans (runPacket_fails hh hs hp hf hb hk ha hv)), rfl,
        (Chip.count_reported ..).trans (Chip.notify_reported ..), rfl, rfl⟩
  case cmdTail =>
    intro tail b he hs hq
    exact ⟨_, exec_next rfl (cmdTail_takes tail b he hs hq), rfl, rfl⟩
  case injTail =>
    intro tail f he hs
    exact ⟨_, exec_next rfl (injTail_takes tail f he hs), rfl, rfl⟩
  case inject =>
    rintro d b l p n hw rfl rfl
    refine ⟨fun c h1 h2 h3 h4 h5 hi => ?_, fun hn => ?_⟩
    · have hok : ¬ (512 < Lay.IDESC_PORT.get d ∨ s.chip.twinPort (Lay.IDESC_PORT.get d) ∨ Lay.IDESC_LEN.get d < 60 ∨
          s.chip.maxFrame (Lay.IDESC_PORT.get d) < Lay.IDESC_LEN.get d + 4 ∨ (Lay.IDESC_PORT.get d = 512 ∧ Lay.IDESC_TIMED.get d = 1)) := by
        rintro (h | h | h | h | ⟨h, h'⟩)
        · omega
        · simp [h2] at h
        · omega
        · omega
        · exact h5 h h'
      exact ⟨_, exec_next rfl (injectFrame_sends hw hok hi), rfl, rfl⟩
    · refine ⟨_, exec_next rfl (injectFrame_short hw hn), rfl, ?_, ?_, ?_⟩
      · exact (congrArg Hif.injWait (Chip.steady_hif _)).trans (congrArg (List.drop 1) hw)
      · exact congrArg Hif.err (Chip.steady_hif _)
      · exact congrArg (fun h : Hif => h.inj.head) (Chip.steady_hif _)
  case delivery =>
    intro he hs
    exact ⟨_, exec_next rfl (rspTail_delivery tail rooms he hs), rfl, rfl⟩
  case reply =>
    intro he hw hs
    exact ⟨_, exec_next rfl (rspTail_reply tail rooms he hw hs), rfl, rfl⟩
  case timeout =>
    intro w l hw h1 h2
    exact ⟨_, exec_next rfl (rspTimeout_first hw h1 h2), rfl, rfl⟩
  case reset =>
    have hh : s.chip.hostReset.steady.hif = _ := (Chip.steady_hif _).trans (f2h_flags_hif _ _)
    refine ⟨_, exec_next rfl rfl, rfl, ?_, ?_, ?_, ?_, ?_, ?_, ?_, ?_, ?_, fun n hn => ?_⟩
    · exact congrArg (fun h : Hif => h.cmd.en) hh
    · exact congrArg (fun h : Hif => h.rsp.en) hh
    · exact congrArg (fun h : Hif => h.inj.en) hh
    · exact congrArg (fun h : Hif => h.dlv.en) hh
    · exact congrArg Hif.rspRoom hh
    · exact congrArg Hif.dlvRoom hh
    · exact congrArg Hif.rspWait hh
    · exact congrArg Hif.injWait hh
    · exact congrArg Hif.db hh
    · refine (Chip.steady_on _ _ _ _ (by decide)).trans (f2h_flags_cleared _ _ n hn (fun m hm => List.mem_range.1 hm) (.inl (List.mem_range.2 hn)))
  case command =>
    intro v b hc hen hsame
    refine ⟨_, exec_next rfl (trapHandle_command idle hf hc ?_), rfl, rfl⟩
    rwa [hsame]
  case other =>
    intro hc hl hp
    exact ⟨_, exec_next rfl (trapHandle_other idle hf hc hl hp), rfl, rfl⟩

end Sys2Proof.Hosts
end

section
/-! PROOFS. The host interface: BAR0, mailboxes, doorbells (16_command_interface.md). -/

namespace Sys2Proof.Hosts
open Sys2Proof.Machine Sys2Proof.Laws

/-! ### BAR0 (R366, R368) -/

/-- HIF_ERR with the bits written 1 cleared. -/
def errCleared (c : Chip) (v : Nat) : Chip := { c with hif := { c.hif with err := c.hif.err - (c.hif.err &&& (v % 8)) } }

theorem writeWord_err (c : Chip) (v : Nat) : c.writeWord 0x10 v = errCleared c v := rfl

theorem writeWord_high (c : Chip) {off : Nat} (v : Nat) (h : 0x3040 ≤ off) : c.writeWord off v = c := by
  unfold Chip.writeWord
  dsimp only
  rw [if_neg (by omega), if_neg (by omega), if_neg (by omega), if_neg (by omega), if_neg (by omega), if_neg (by omega), if_neg (by omega),
    if_neg (by omega), if_neg (by omega)]

/-- An aligned write outside the windows. -/
theorem hifWrite_word (c : Chip) {off : Nat} (v : Nat) (ha : off % 4 = 0) (h1 : off < 0x1400 ∨ 0x1800 ≤ off) (h2 : off < 0x3000 ∨ 0x3040 ≤ off) :
    c.hifWrite off 4 v = c.writeWord off (v % 2 ^ 32) := by
  unfold Chip.hifWrite
  dsimp only
  rw [if_neg (not_not.2 ha), if_neg (by omega), if_neg (by omega), if_pos rfl]

theorem hifWrite_err (c : Chip) {width : Nat} (v : Nat) (h : width = 4 ∨ width = 8) : c.hifWrite 0x10 width v = errCleared c v := by
  have hv : ∀ d : Chip, errCleared d (v % 2 ^ 32) = errCleared d v := by
    intro d
    unfold errCleared
    rw [Nat.mod_mod_of_dvd v (by decide : 8 ∣ 2 ^ 32)]
  rcases h with rfl | rfl
  · rw [hifWrite_word c v (by decide) (by decide) (by decide), writeWord_err, hv]
  · have h8 : c.hifWrite 0x10 8 v = (c.writeWord 0x10 (v % 2 ^ 32)).writeWord 0x14 (v / 2 ^ 32 % 2 ^ 32) := rfl
    rw [h8, writeWord_err, hv]
    rfl

theorem hifWrite_high (c : Chip) {off : Nat} (width v : Nat) (h : 0x3040 ≤ off) : c.hifWrite off width v = c := by
  unfold Chip.hifWrite
  dsimp only
  split
  · rfl
  · rw [if_neg (by omega), if_neg (by omega), writeWord_high c _ h, writeWord_high c _ (by omega)]
    simp only [ite_self]

/-- A ring of 2^k entries enabled by the write of its SIZE. -/
theorem write_size_enables (g : Ring) {k : Nat} (h4 : 4 ≤ k) (h12 : k ≤ 12) (he : g.en = false) :
    g.write 8 ((2 ^ 31 + 2 ^ k) % 2 ^ 32) = { g with size := 2 ^ k, en := true, head := g.head % 2 ^ k, tail := g.tail % 2 ^ k } := by
  have hw : g.write 8 ((2 ^ 31 + 2 ^ k) % 2 ^ 32) =
      { g with
        size := bitsOf ((2 ^ 31 + 2 ^ k) % 2 ^ 32) 0 13
        en := bitOf ((2 ^ 31 + 2 ^ k) % 2 ^ 32) 31 && [16, 32, 64, 128, 256, 512, 1024, 2048, 4096].contains (bitsOf ((2 ^ 31 + 2 ^ k) % 2 ^ 32) 0 13)
        head := g.head % max 1 (bitsOf ((2 ^ 31 + 2 ^ k) % 2 ^ 32) 0 13), tail := g.tail % max 1 (bitsOf ((2 ^ 31 + 2 ^ k) % 2 ^ 32) 0 13) } := by
    unfold Ring.write
    simp only [he]
    rfl
  have hsize : ∀ j ≤ 12, 4 ≤ j → bitsOf ((2 ^ 31 + 2 ^ j) % 2 ^ 32) 0 13 = 2 ^ j ∧ bitOf ((2 ^ 31 + 2 ^ j) % 2 ^ 32) 31 = true ∧
      [16, 32, 64, 128, 256, 512, 1024, 2048, 4096].contains (2 ^ j) = true ∧ max 1 (2 ^ j) = 2 ^ j := by decide
  obtain ⟨hs, hb, hc, hm⟩ := hsize k h12 h4
  rw [hw, hs, hb, hc, hm]
  rfl

/-! ### Mailboxes and doorbells (R369 to R373) -/

/-- The staged message posted to its free mailbox. -/
def posted (c : Chip) (n : Nat) : Chip :=
  ({ c with hif := { c.hif with h2f := SMap.set c.hif.h2f n (SMap.get c.hif.h2fStage n) } } : Chip).flag Reg.MBX_STAT_H2F_FULL true n

theorem mbxPost_free (c : Chip) {n : Nat} (h : c.on Reg.MBX_STAT_H2F_FULL n = false) : c.mbxPost n = (posted c n).emit (.hostRead 0) := by
  have hr : c.mbxRead n = (0, posted c n) := if_neg (by simp [h])
  unfold Chip.mbxPost
  rw [hr]

theorem mbxPost_full (c : Chip) {n : Nat} (h : c.on Reg.MBX_STAT_H2F_FULL n = true) :
    c.mbxPost n = (c.incSat Reg.MBX_STAT_DROP 1 n).emit (.hostRead 1) := by
  have hr : c.mbxRead n = (1, c.incSat Reg.MBX_STAT_DROP 1 n) := if_pos h
  unfold Chip.mbxPost
  rw [hr]

/-- The mailbox freed. -/
def freed (c : Chip) (n : Nat) : Chip :=
  ({ c with hif := { c.hif with h2f := SMap.set c.hif.h2f n 0 } } : Chip).flag Reg.MBX_STAT_H2F_FULL false n

/-- The message acted on as the mailbox's role has it. -/
def actedOn (c : Chip) (n : Fin 16) (msg : Nat) : Nat → Chip
  | 1 => c.mailboxCommand (.mbx n) .observer msg
  | 2 => c.mailboxCommand (.mbx n) .operator msg
  | _ => c.incSat Reg.MBX_STAT_DROP 1 n

theorem mbxTake_acts (c : Chip) {n : Fin 16} (h : c.on Reg.MBX_STAT_H2F_FULL n = true) (hr : c.fw.recovery = false) :
    c.mbxTake n = actedOn (freed c n) n (SMap.get c.hif.h2f n) (c.rd Reg.MBX_CFG_ROLE n) := by
  refine (if_neg (by simp [h, hr])).trans ?_
  unfold actedOn freed
  rfl

theorem embxPost_takes (c : Chip) {e : Nat} (hp : c.rd Reg.PWR_STATUS_STATE = 2) (hl : (c.eng e).mbx.length < 3) :
    c.embxPost e = (c.updEng e fun x => { x with mbx := (c.eng e).mbx ++ [c.hif.embx] }).emit (.hostRead 0) := by
  have h4 : ¬ 4 ≤ (c.eng e).mbx.length := by omega
  have h3 : ¬ (c.eng e).mbx.length = 3 := by omega
  have hm : c.postEngine e c.hif.embx = (true, c.updEng e fun x => { x with mbx := (c.eng e).mbx ++ [c.hif.embx] }) := by
    unfold Chip.postEngine Chip.mbxEngine
    simp only [if_neg h4, if_neg h3]
  have hr : c.embxRead e = (0, c.updEng e fun x => { x with mbx := (c.eng e).mbx ++ [c.hif.embx] }) := by
    unfold Chip.embxRead
    rw [hm]
    rfl
  unfold Chip.embxPost
  rw [if_neg (not_not.2 hp), hr]

/-- A doorbell's command, as its DB_CMD element has it. -/
def rung (c : Chip) (b : Fin 32) (e : Nat) : Nat → Chip
  | 1 => c.mailboxCommand (.door b) .observer (e / 2 ^ 128)
  | 2 => c.mailboxCommand (.door b) .operator (e / 2 ^ 128)
  | _ => c

theorem dbStart_rings (c : Chip) {b : Fin 32} (h : bitOf c.hif.db b = true) (hr : c.fw.recovery = false) :
    c.dbStart b = rung { c with hif := { c.hif with db := clrBit c.hif.db b } } b (c.rd Reg.DB_CMD 16 b) (bitsOf (c.rd Reg.DB_CMD 16 b) 120 8) := by
  refine (if_neg (by simp [h, hr])).trans ?_
  unfold rung
  rfl

theorem satU_lt (w v : Nat) : satU w v < 2 ^ w := by
  have hp : 0 < 2 ^ w := Nat.two_pow_pos w
  unfold satU
  omega

/-- Settles O40. -/
theorem mailboxesAndDoorbells : Obligations.MailboxesAndDoorbells := by
  intro s
  refine ⟨?err, ?unlisted, ?enable, fun n => ⟨?post, ?drop⟩, ?take, ?ack, fun e => ⟨?abort, ?engine⟩, ?set, ?ring⟩
  case err =>
    intro width value h
    exact ⟨_, exec_next rfl (hifWrite_err s.chip value h), rfl, rfl⟩
  case unlisted =>
    intro off width value h
    exact ⟨_, exec_next rfl (hifWrite_high s.chip width value h), rfl, rfl⟩
  case enable =>
    intro k h4 h12 he
    refine ⟨_, exec_next rfl (hifWrite_word s.chip (off := 0x108) (2 ^ 31 + 2 ^ k) (by decide) (by decide) (by decide)), rfl, (Chip.steady_hif _).trans ?_⟩
    exact congrArg (fun g => { s.chip.hif with cmd := g }) (write_size_enables s.chip.hif.cmd h4 h12 he)
  case post =>
    intro h
    refine ⟨_, exec_next rfl (mbxPost_free s.chip h), rfl, ?_, ?_, Chip.steady_outs _⟩
    · exact (congrArg (fun h : Hif => SMap.get h.h2f n) (Chip.steady_hif _)).trans (SMap.get_set_same _ _ _)
    · exact (Chip.steady_on _ _ _ _ (by decide)).trans (Chip.on_flag_same (F := Reg.MBX_STAT_H2F_FULL) _ _ _ _ rfl)
  case drop =>
    intro h
    refine ⟨_, exec_next rfl (mbxPost_full s.chip h), rfl, Chip.steady_hif _, ?_, Chip.steady_outs _⟩
    exact (Chip.steady_rd _ _ _ _ (by decide)).trans (Chip.rd_wr_fits _ Reg.MBX_STAT_DROP _ _ (satU_lt 8 _))
  case take =>
    rintro n x h hr rfl
    refine ⟨_, exec_next rfl (mbxTake_acts s.chip h hr), rfl, fun h1 => ?_, fun h2 => ?_, fun h0 => ?_⟩
    · rw [h1]; rfl
    · rw [h2]; rfl
    · rw [h0]; rfl
  case ack =>
    intro mask
    refine ⟨_, exec_next rfl rfl, rfl, fun n hn => ?_⟩
    have hm : n ∈ List.range 16 := List.mem_range.2 hn
    refine (Chip.steady_on _ _ _ _ (by decide)).trans ((ack_clears_flags mask _ _ n hn (fun m hm => List.mem_range.1 hm)).trans ?_)
    rw [decide_eq_true hm, Bool.true_and]
  case abort =>
    intro h
    exact ⟨_, exec_next rfl (if_pos h), rfl, rfl⟩
  case engine =>
    intro hp hl
    exact ⟨_, exec_next rfl (embxPost_takes s.chip hp hl), rfl, rfl⟩
  case set =>
    intro bits
    exact ⟨_, exec_next rfl rfl, rfl, rfl⟩
  case ring =>
    rintro b x e h hr rfl rfl
    refine ⟨_, exec_next rfl (dbStart_rings s.chip h hr), rfl, fun h1 => ?_, fun h2 => ?_, fun h0 => ?_⟩
    · rw [h1]; rfl
    · rw [h2]; rfl
    · rw [h0]; rfl

end Sys2Proof.Hosts
end

section
/-! PROOFS. Images and domains of Drumline (R254, R272). -/

namespace Sys2Proof.Drumline
open Sys2Proof.Machine Sys2Proof.Laws Sys2Proof.TableProofs

/-- A powered block whose domain 0 is to start at one second. -/
def toStart : Chip := (State.reset.chip.wr Reg.PWR_STATUS_STATE 2).wr Reg.CD_START (2 ^ 48) 0

/-- Its domain armed as the statement has it. -/
def startedAsStated : Chip :=
  (toStart.wr Reg.CD_STATUS_STATE 1 0).updDom 0 fun y =>
    { y with next := toStart.boundaryFrom 0 ((toStart.tb16 + 10000 * 65536 : Nat)), floor := ((toStart.tb16 + 10000 * 65536 : Nat) : Int), ran := false, back := false }

theorem startedAsStated_unarmed : (startedAsStated.dom 0).armed = false := by decide +kernel

theorem toStart_armed : ((toStart.doCycStart ownerReq 0).dom 0).armed = true := by decide +kernel

theorem toStart_ready : toStart.ready ownerReq (.cycStart ownerReq 0) := by
  unfold Chip.ready
  decide +kernel

theorem startedAsStated_passes : toStart.changeFail startedAsStated (.cycStart ownerReq 0) = none := by decide +kernel

/-- Refutes O41: a start also notes that the domain is armed (`Dom.armed`), where the statement has nothing but its next boundary, its floor and two
marks change. -/
theorem not_drumlineCommands : ¬ Obligations.DrumlineCommands := by
  intro h
  obtain ⟨-, hstart, -⟩ := h ownerReq { chip := toStart, pending := [] }
  obtain ⟨t, hx, -, ha⟩ := hstart 0 startedAsStated _ toStart_ready (by decide +kernel) rfl (by decide +kernel) (by decide +kernel) rfl
    startedAsStated_passes (by decide +kernel)
  have ht : t = { chip := (toStart.doCycStart ownerReq 0).steady, pending := [] } := (Host.Outcome.next.inj hx).symm
  have hd : (toStart.doCycStart ownerReq 0).drum = startedAsStated.drum := by
    rw [← ha.drum, ht]
    exact (Chip.steady_drum _).symm
  have harm : ((toStart.doCycStart ownerReq 0).dom 0).armed = (startedAsStated.dom 0).armed :=
    congrArg (fun x : Drum => (SMap.get x.dom 0).armed) hd
  rw [toStart_armed, startedAsStated_unarmed] at harm
  cases harm

end Sys2Proof.Drumline
end

section
/-! PROOFS. Event inputs and intervals (R192 to R197). -/

namespace Sys2Proof.Events
open Sys2Proof.Machine Sys2Proof.Laws

theorem updEvi_evi (c : Chip) (n : Nat) (f : Evi → Evi) : SMap.get (c.updEvi n f).evis n = f (SMap.get c.evis n) := SMap.get_upd_same _ _ _

theorem updIvl_ivl (c : Chip) (u : Nat) (f : Ivl → Ivl) : SMap.get (c.updIvl u f).ivls u = f (SMap.get c.ivls u) := SMap.get_upd_same _ _ _

/-! ### Record FIFOs read -/

/-- A record FIFO read through the object interface. -/
theorem readObj_fifo {c : Chip} {o n k : Nat} {a : AttrDef} {l : List Nat} {x : Chip} (ho : objCls o = Cls.EVT ∧ objInst o = n ∧ objAttr o = k)
    (hf : findAttr Cls.EVT n k = some a) (ha : a = Attr.EVI_FIFO ∨ a = Attr.IVL_SAMPLES) (hs : c.specialRead a.cls a.attr n 1 = some (l, x)) :
    c.readObj { obj := o, elem := none } = some ([tlvObj o, tlvValue (16 * l.length) (joinElems 16 l) 0], x) := by
  have hr : (if a.flds.any (fun F => F.acc == .raw) then none else a.elemRange none) = some (0, 1) := by
    rcases ha with rfl | rfl <;> rfl
  have hb : a.elemBytes = 16 := by
    rcases ha with rfl | rfl <;> rfl
  unfold Chip.readObj
  simp only [resolve_evt c o n k a ho hf, hr, hs, hb]

theorem fifo_powered (c : Chip) (r : Req) {o : Nat} (h : objCls o = Cls.EVT) : c.domainOff (.objRead r [{ obj := o, elem := none }]) = false := by
  have ht : targetObjs (.objRead r [{ obj := o, elem := none }]) = [o] := rfl
  unfold Chip.domainOff
  rw [ht, List.any_cons, evt_never_off c o h]
  rfl

/-! ### Edges at an input (R192 to R195) -/

/-- The level of an input after an edge. -/
def leveled (c : Chip) (n : Nat) (rising held : Bool) : Chip := c.flag Reg.EVI_STATUS_LEVEL (rising == held) n

theorem atEdge_none {c d : Chip} (n : Nat) (rising : Bool) (hold : Nat) (x : Fine) (h : c.eviEdge n rising hold x = (none, d)) :
    c.evtInEdge n rising hold x = d := by
  unfold Chip.evtInEdge
  rw [h]

theorem eviEdge_unselected (c : Chip) {n : Nat} (rising : Bool) (hold : Nat) (x : Fine) (h : c.rd Reg.EVI_CFG_EDGE n = 0) :
    c.eviEdge n rising hold x = (none, leveled c n rising (c.eviHeld n hold)) := by
  unfold Chip.eviEdge
  simp only [h, true_or, if_true]
  rfl

/-- The input's block after an edge that the channel took. -/
def edgeTaken (c : Chip) (n : Nat) (rising held : Bool) (x : Fine) : Chip :=
  (leveled c n rising held).updEvi n fun y => { y with edgeC := some (c.edgeCont (1032 + n) x) }

/-- The record of an accepted edge. -/
def edgeRecord (c : Chip) (n : Nat) (rising : Bool) (x : Fine) : Nat :=
  Lay.EVREC_TIME.put (time96 (c.eviTime n (c.edgeTime (1032 + n) x)).toNat) + Lay.EVREC_EDGE.put (b2n (!rising)) + Lay.EVREC_INVALID.put (b2n (!true)) +
    Lay.EVREC_INPUT.put n + Lay.EVREC_STEP_COUNT.put ((c.atEdge x).rd Reg.TIME_STATUS_STEP_COUNT) + Lay.EVREC_SEQ.put (((SMap.get c.evis n).seq + 1) % 256)

/-- The input after an accepted edge. -/
def edgeStamped (c : Chip) (n : Nat) (rising : Bool) (x : Fine) : Chip :=
  (edgeTaken c n rising true x).updEvi n fun y => { y with
    seq := ((SMap.get c.evis n).seq + 1) % 256, seen := true, lastC := c.edgeCont (1032 + n) x
    stampC := c.eviTime n (c.edgeTime (1032 + n) x) - (c.atEdge x).rdS Reg.STEP_SUM }

section
variable {c : Chip} {n hold : Nat} {x : Fine} (rising : Bool) (hs : c.rd Reg.EVI_CFG_EDGE n = 3)
include hs

/-- An edge too near to the last one the channel took. -/
theorem eviEdge_dead {e : Int} (hh : c.eviHeld n hold = true) (he : (SMap.get c.evis n).edgeC = some e) (hn : c.edgeCont (1032 + n) x - e < (ns20 : Nat)) :
    c.eviEdge n rising hold x = (none, (leveled c n rising true).count Ev.EVI_DEAD n) := by
  unfold Chip.eviEdge
  simp only [hs, he, hn, hh, decide_true, Bool.not_true, Bool.false_eq_true, if_false, or_true, true_or, if_true]
  rfl

/-- A short pulse. -/
theorem eviEdge_glitch (hh : c.eviHeld n hold = false) (hf : ∀ e, (SMap.get c.evis n).edgeC = some e → (ns20 : Nat) ≤ c.edgeCont (1032 + n) x - e) :
    c.eviEdge n rising hold x = (none, (edgeTaken c n rising false x).count Ev.EVI_GLITCH n) := by
  unfold Chip.eviEdge
  rcases he : (SMap.get c.evis n).edgeC with _ | e
  · simp only [hs, hh]
    rfl
  · simp only [hs, hh, decide_eq_false (Int.not_lt.2 (hf e he))]
    rfl

/-- An edge accepted while the channel is locked: its stamp, and the record for its owner. -/
theorem eviEdge_accepted (hh : c.eviHeld n hold = true) (hf : ∀ e, (SMap.get c.evis n).edgeC = some e → (ns20 : Nat) ≤ c.edgeCont (1032 + n) x - e)
    (hl : SMap.get c.tdc (1032 + n) = true) (hseen : (SMap.get c.evis n).seen = false) :
    c.eviEdge n rising hold x = (some (edgeRecord c n rising x), edgeStamped c n rising x) := by
  have hlev : ∀ z, (leveled c n rising true).eviTime n z = c.eviTime n z := fun z => by
    unfold Chip.eviTime
    rw [show (leveled c n rising true).rdS Reg.EVI_DELAY n = c.rdS Reg.EVI_DELAY n from Chip.rdS_wr_id _ _ _ _ _ _ (by decide)]
  have hget : SMap.get (edgeTaken c n rising true x).evis n = { SMap.get c.evis n with edgeC := some (c.edgeCont (1032 + n) x) } := updEvi_evi ..
  have hstamp : (edgeTaken c n rising true x).eviStamp n (c.edgeTime (1032 + n) x) = (c.eviTime n (c.edgeTime (1032 + n) x), edgeTaken c n rising true x) :=
    (if_pos hl).trans (congrArg (·, _) (hlev _))
  have hl' : SMap.get (edgeTaken c n rising true x).tdc (1032 + n) = true := hl
  unfold edgeStamped edgeRecord
  unfold edgeTaken leveled at *
  unfold Chip.eviEdge
  rcases he : (SMap.get c.evis n).edgeC with _ | e
  · simp only [hs, hh, hstamp, hget, hseen, hl', hlev, OfNat.ofNat_ne_zero, OfNat.ofNat_ne_one, Nat.reduceEqDiff, Bool.false_eq_true, Bool.not_true,
      false_and, or_self, if_false]
  · simp only [hs, hh, decide_eq_false (Int.not_lt.2 (hf e he)), hstamp, hget, hseen, hl', hlev, OfNat.ofNat_ne_zero, OfNat.ofNat_ne_one,
      Nat.reduceEqDiff, Bool.false_eq_true, Bool.not_true, false_and, or_self, if_false]

end

/-- A record of a host-owned input with room for more than its half. -/
theorem eviStore_room (c : Chip) {n : Nat} (r : Nat) (ho : (SMap.get c.evis n).ovf = false) (hl : (SMap.get c.evis n).fifo.length < 127) :
    c.eviStore n r = (c.updEvi n fun y => { y with fifo := y.fifo ++ [r], ovf := false }).wr Reg.EVI_STATUS_FILL ((SMap.get c.evis n).fifo.length + 1) n := by
  have h1 : ¬ 256 ≤ (SMap.get c.evis n).fifo.length := by omega
  have h2 : ¬ ((SMap.get c.evis n).fifo.length + 1 = 128 ∧ c.on Reg.EVI_CFG_NOTIFY n = true) := by omega
  unfold Chip.eviStore
  simp only [if_neg h1, ho, if_neg h2, Bool.false_eq_true, if_false]

/-- The block with an accepted edge of a host-owned input stored. -/
def edgeStored (c : Chip) (n : Nat) (rising : Bool) (x : Fine) : Chip := (edgeStamped c n rising x).eviStore n (edgeRecord c n rising x)

theorem edgeStamped_evi (c : Chip) (n : Nat) (rising : Bool) (x : Fine) :
    SMap.get (edgeStamped c n rising x).evis n = { SMap.get c.evis n with
      seq := ((SMap.get c.evis n).seq + 1) % 256, seen := true, lastC := c.edgeCont (1032 + n) x, edgeC := some (c.edgeCont (1032 + n) x)
      stampC := c.eviTime n (c.edgeTime (1032 + n) x) - (c.atEdge x).rdS Reg.STEP_SUM } := by
  unfold edgeStamped edgeTaken
  rw [updEvi_evi, updEvi_evi]
  rfl

theorem edgeStamped_owner (c : Chip) (n : Nat) (rising : Bool) (x : Fine) :
    (edgeStamped c n rising x).rd Reg.EVI_CFG_OWNER n = c.rd Reg.EVI_CFG_OWNER n := Chip.rd_wr_id c (F := Reg.EVI_CFG_OWNER) _ _ _ _ _ (by decide)

theorem evtInEdge_stores {c : Chip} {n hold : Nat} {x : Fine} {rising : Bool}
    (he : c.eviEdge n rising hold x = (some (edgeRecord c n rising x), edgeStamped c n rising x)) (ho : c.rd Reg.EVI_CFG_OWNER n = 0) :
    c.evtInEdge n rising hold x = edgeStored c n rising x := by
  unfold Chip.evtInEdge
  rw [he]
  simp only [edgeStamped_owner, ho]
  rfl

theorem edgeStored_shows (c : Chip) {n : Nat} (rising : Bool) (x : Fine) (ho : (SMap.get c.evis n).ovf = false) (hl : (SMap.get c.evis n).fifo.length < 127) :
    SMap.get (edgeStored c n rising x).evis n = { SMap.get c.evis n with
      seq := ((SMap.get c.evis n).seq + 1) % 256, seen := true, lastC := c.edgeCont (1032 + n) x, edgeC := some (c.edgeCont (1032 + n) x)
      stampC := c.eviTime n (c.edgeTime (1032 + n) x) - (c.atEdge x).rdS Reg.STEP_SUM
      fifo := (SMap.get c.evis n).fifo ++ [edgeRecord c n rising x] } ∧
    (edgeStored c n rising x).rd Reg.EVI_STATUS_FILL n = (SMap.get c.evis n).fifo.length + 1 := by
  have he := edgeStamped_evi c n rising x
  have hst : edgeStored c n rising x = _ := eviStore_room (edgeStamped c n rising x) (n := n) (edgeRecord c n rising x) (by rw [he]; exact ho) (by rw [he]; exact hl)
  rw [hst]
  refine ⟨(updEvi_evi (edgeStamped c n rising x) n fun y => { y with fifo := y.fifo ++ [edgeRecord c n rising x], ovf := false }).trans ?_, ?_⟩
  · rw [he, ← ho]
  · rw [he]
    exact Chip.rd_wr_fits _ _ _ _ (Nat.lt_of_lt_of_le (Nat.succ_lt_succ hl) (by decide))

/-! ### Intervals (R196, R197) -/

/-- The one stop edge inside the window. -/
theorem nearestStop_one {win : Nat} {a y : IvlEdge} (h : (y.c - a.c).natAbs ≤ win) : nearestStop win a [y] = some y := by
  unfold nearestStop
  simp [h]

/-- An interval unit with one sample more and its edges taken. -/
def sampled (x : Ivl) (l : List IvlEdge) (a y : IvlEdge) : Ivl :=
  let v := divRoundS (y.c - a.c) 64
  { x with
    starts := l, stops := [], seq := (x.seq + 1) % 65536
    fifo := x.fifo ++ [Lay.IVREC_VALUE.put (encS 64 v) + Lay.IVREC_START_NS.put (a.t / 65536 % nsPerS) + Lay.IVREC_COINCIDENT.put (b2n (v == 0)) +
      Lay.IVREC_ORDER.put (b2n (decide (v < 0))) + Lay.IVREC_SEQ.put ((x.seq + 1) % 65536)]
    n := x.n + 1, coin := x.coin + b2n (v == 0), ord := x.ord + b2n (decide (v < 0)), sum := x.sum + v, sq := x.sq + (v * v).toNat
    mn := if x.n = 0 then v else min x.mn v, mx := if x.n = 0 then v else max x.mx v }

/-- A sample that neither fills the FIFO nor ends the block. -/
theorem ivlSample_adds {c : Chip} {u : Nat} {l : List IvlEdge} {a y : IvlEdge} {x : Ivl} (hx : SMap.get c.ivls u = { x with starts := l, stops := [] }) (ha : a.bad = false)
    (hy : y.bad = false) (hn : x.n + 1 < c.rd Reg.IVL_CFG_N u) (hf : x.fifo.length < 64) :
    SMap.get (c.ivlSample u a y a).ivls u = sampled x l a y := by
  have hf' : ¬ 64 ≤ x.fifo.length := Nat.not_le.2 hf
  have hn' : ¬ c.rd Reg.IVL_CFG_N u ≤ x.n + 1 := Nat.not_le.2 hn
  unfold Chip.ivlSample
  simp only [ha, hy, hx, if_neg hn', Bool.false_eq_true, or_self, if_false]
  rw [updIvl_ivl, hx]
  simp only [if_neg hf']
  rfl

/-- No stop edge is left to drop. -/
theorem ivlDropStops_none {c : Chip} {u : Nat} {x : Ivl} (hx : SMap.get c.ivls u = x) (hs : x.stops = []) :
    SMap.get (c.ivlDropStops u).ivls u = x := by
  have hp : x.stops.partition (fun t => decide (c.cont16 ≤ t.c + (c.rd Reg.IVL_WIN u * 65536 : Nat)) ||
      x.starts.any fun s => decide ((t.c - s.c).natAbs ≤ c.rd Reg.IVL_WIN u * 65536)) = ([], []) := by rw [hs]; rfl
  unfold Chip.ivlDropStops
  simp only [hx, hp]
  refine (updIvl_ivl c u _).trans ?_
  rw [hx, ← hs]

theorem ivlDecide_samples {c : Chip} {u : Nat} {x : Ivl} {a y : IvlEdge} {l : List IvlEdge} (he : c.on Reg.IVL_CFG_EN u = true)
    (hm : c.on Reg.IVL_CFG_MODE u = false) (hx : x = SMap.get c.ivls u) (hst : x.starts = a :: l)
    (hw : a.c + (c.rd Reg.IVL_WIN u * 65536 : Nat) < c.cont16) (hsp : x.stops = [y]) (hd : (y.c - a.c).natAbs ≤ c.rd Reg.IVL_WIN u * 65536)
    (ha : a.bad = false) (hy : y.bad = false) (hn : x.n + 1 < c.rd Reg.IVL_CFG_N u) (hf : x.fifo.length < 64) :
    SMap.get (c.ivlDecide u).ivls u = sampled x l a y := by
  have h1 : SMap.get (c.updIvl u fun x => { x with starts := l }).ivls u = { x with starts := l } := by rw [updIvl_ivl, hx]
  have h2 : SMap.get ((c.updIvl u fun x => { x with starts := l }).updIvl u fun x => { x with stops := x.stops.erase y }).ivls u =
      { x with starts := l, stops := [] } := by
    rw [updIvl_ivl, h1]
    simp only [hsp, List.erase_cons_head]
  have hdec : c.ivlDecide u =
      ((((c.updIvl u fun x => { x with starts := l }).updIvl u fun x => { x with stops := x.stops.erase y }).ivlSample u a y a).ivlDropStops u) := by
    unfold Chip.ivlDecide
    simp only [he, hm, ← hx, hst, if_neg (Int.not_le.2 hw), h1, hsp, nearestStop_one hd]
    rfl
  rw [hdec]
  exact ivlDropStops_none (ivlSample_adds h2 ha hy hn hf) rfl

/-- Settles O42. -/
theorem eventInputsAndIntervals : Obligations.EventInputsAndIntervals := by
  intro s
  refine ⟨?evi, ?ivl, fun n rising held hold fine edge cc c1 hheld hedge hcc hc1 => ?edges, ?decide⟩
  case evi =>
    rintro r n x l hm h0 rfl rfl hf
    obtain ⟨ho, hfind, -⟩ := fifo_objects n
    have hr := readObj_fifo ho hfind (.inl rfl) (c := s.chip) rfl
    obtain ⟨hcls, -⟩ := id ho
    have hans := fifo_read_answers s.chip _ r _ _ hm h0 (fifo_powered s.chip r hcls) hr hf
    refine ⟨_, exec_next rfl rfl, rfl, hans, ?_⟩
    exact (congrArg (fun m => (SMap.get m n).fifo) hans.evis).trans (congrArg Evi.fifo (updEvi_evi s.chip n fun y => { y with fifo := (SMap.get s.chip.evis n).fifo.drop 64 }))
  case ivl =>
    rintro r n x l hm h0 rfl rfl hf
    obtain ⟨-, -, ho, hfind⟩ := fifo_objects n
    have hr := readObj_fifo ho hfind (.inr rfl) (c := s.chip) rfl
    obtain ⟨hcls, -⟩ := id ho
    have hans := fifo_read_answers s.chip _ r _ _ hm h0 (fifo_powered s.chip r hcls) hr hf
    refine ⟨_, exec_next rfl rfl, rfl, hans, ?_⟩
    exact (congrArg (fun m => (SMap.get m n).fifo) hans.ivls).trans (congrArg Ivl.fifo (updIvl_ivl s.chip n fun y => { y with fifo := [] }))
  case edges =>
    have hh : s.chip.eviHeld n hold = held := hheld.symm
    subst hedge hcc hc1
    refine ⟨fun hs => ?_, fun e hs ht he hn => ?_, fun hf hs ht => ?_, fun t0 rec_ x hs ht hl hx hf hseen ho hov hlen ht0 hrec => ?_⟩
    · refine ⟨_, exec_next rfl (atEdge_none _ _ _ _ (eviEdge_unselected s.chip rising hold fine hs)), rfl, ?_⟩
      rw [hh]
      rfl
    · subst ht
      exact ⟨_, exec_next rfl (atEdge_none _ _ _ _ (eviEdge_dead rising hs hh he hn)), rfl, rfl⟩
    · subst ht
      exact ⟨_, exec_next rfl (atEdge_none _ _ _ _ (eviEdge_glitch rising hs hh hf)), rfl, rfl⟩
    · subst ht hx
      have hev := evtInEdge_stores (eviEdge_accepted rising hs hh hf hl hseen) ho
      obtain ⟨hevi, hfill⟩ := edgeStored_shows s.chip rising fine hov hlen
      refine ⟨_, exec_next rfl hev, rfl, ?_, ?_⟩
      · rw [hrec, ht0]
        exact (congrArg (SMap.get · n.val) (Chip.steady_evis _)).trans hevi
      · exact (Chip.steady_rd _ _ _ _ (by decide)).trans hfill
  case decide =>
    rintro u x a y l v he hm hx hst hw hsp hd ha hy hn hf rfl
    refine ⟨_, exec_next rfl rfl, rfl, ?_⟩
    exact (congrArg (SMap.get · u) (Chip.steady_ivls _)).trans (ivlDecide_samples he hm hx hst hw hsp hd ha hy hn hf)

end Sys2Proof.Events
end

section
/-! PROOFS. Optical modules and event outputs (R70 to R72, R199, R200, R203, R224). -/

namespace Sys2Proof.Modules
open Sys2Proof.Machine Sys2Proof.Laws

/-! ### Raw accesses and polls of a module (R70 to R72) -/

/-- A read that may be made is answered with the bytes read. -/
theorem optRaw_reads {c x : Chip} {r : Req} {port dev page off len : Nat} {b : Bytes} {flat : Bool} {l : List Tlv} (ht : r.txn = 0)
    (hr : (c.resolve (objId Cls.PORT port 0x09)).isSome = true) (hp : c.poweredOff (objId Cls.PORT port 0x09) = false)
    (hok : optOk false dev page off len [] = true) (hx : x = c.optWires port dev page off len (.done b) flat)
    (hl : l = [tlvObj (objId Cls.PORT port 0x09), tlvValue len (natOfBytes (sliceBytes b 0 len)) 0]) (hf : fitsRoom (x.replyRoom r.via) l = true) :
    c.doOptRaw r port false dev page off len [] (.done b) flat = x.reply r 0x0101 .ok l := by
  obtain ⟨a, ha⟩ := Option.isSome_iff_exists.1 hr
  subst hx hl
  unfold Chip.doOptRaw
  simp only [ht, hok, ha, hp, Bool.false_eq_true, false_and, if_false, ne_eq, not_true, Bool.not_true, Option.isNone_some, Bool.or_self]
  exact if_pos hf

theorem optWires_access (c : Chip) (port dev page off len : Nat) (b : Bytes) (flat : Bool) :
    Out.pin 2 (c.rd Reg.OPT_MAP_MASTER port) ((dev * 256 + off) * 256 + len) ∈ (c.optWires port dev page off len (.done b) flat).outs := by
  unfold Chip.optWires
  rw [if_neg (by simp : ¬ (OptResp.done b = .stretch))]
  exact List.mem_cons_self

/-- The reads of a poll only leave at the pins. -/
theorem pollWires_eq (c : Chip) (p : Nat) : c.pollWires p = { c with outs := (c.pollWires p).outs } := by
  have h : ({ c.pollWires p with outs := [] } : Chip) = { c with outs := [] } := by
    unfold Chip.pollWires
    exact each_keep (fun d : Chip => ({ d with outs := [] } : Chip))
      (fun (x : Nat × Nat × Nat) c => c.emit (.pin 2 (c.rd Reg.OPT_MAP_MASTER p) ((x.1 * 256 + x.2.1) * 256 + x.2.2))) (fun _ _ => rfl) _ c
  exact congrArg (fun d : Chip => { d with outs := (c.pollWires p).outs }) h

section
variable {c : Chip} {p : Nat} (ht : c.rd Reg.OPT_MAP_TYPE p ≠ 0) (hd : (SMap.get c.opts p).polledAt + unitsMs (10 * c.rd Reg.OPT_MAP_POLL p) ≤ c.now)
include ht hd

theorem poll_due : ¬ (c.rd Reg.OPT_MAP_TYPE p = 0 ∨ (!c.pollDue p) = true) := by
  rintro (h | h)
  · exact ht h
  · exact absurd (decide_eq_true hd : c.pollDue p = true) (Bool.eq_false_iff.1 (Bool.not_eq_true' _ ▸ h))

theorem optPoll_nack (flags : Nat) : c.optPoll p flags .nack = (c.pollWires p).optFail p := if_neg (poll_due ht hd)

theorem optPoll_stretch (flags : Nat) : c.optPoll p flags .stretch = (c.pollWires p).optFree p := if_neg (poll_due ht hd)

theorem optStretch_due : c.optStretch p = (c.pollWires p).optFree p := if_neg (poll_due ht hd)

end

/-- The block with a module's diagnostics and flags as a poll has read them. -/
def polled (c y : Chip) (p set : Nat) (b : Bytes) : Chip :=
  ({ y with opts := SMap.set c.opts p { fails := 0, flags := set, polledAt := c.now } } : Chip).wr Reg.OPT_DIAG
    (optDiagCode true c.tb96 (optTaken (c.rd Reg.OPT_MAP_TYPE p) b)) p

theorem optPoll_done {c : Chip} {p : Nat} (ht : c.rd Reg.OPT_MAP_TYPE p ≠ 0)
    (hd : (SMap.get c.opts p).polledAt + unitsMs (10 * c.rd Reg.OPT_MAP_POLL p) ≤ c.now) (flags : Nat) (b : Bytes) :
    c.optPoll p flags (.done b) =
      if optFlags (c.rd Reg.OPT_MAP_TYPE p) flags b &&& (optFlags (c.rd Reg.OPT_MAP_TYPE p) flags b ^^^ (SMap.get c.opts p).flags) ≠ 0 then
        (polled c (c.pollWires p) p (optFlags (c.rd Reg.OPT_MAP_TYPE p) flags b) b).notify Nt.OPT_FLAG Cls.PORT p 0x0A
      else polled c (c.pollWires p) p (optFlags (c.rd Reg.OPT_MAP_TYPE p) flags b) b := by
  refine (if_neg (poll_due ht hd)).trans ?_
  rw [pollWires_eq]
  rfl

/-- A failed poll that is not the third in a row. -/
theorem optFree_first {c : Chip} {p : Nat} (h : (SMap.get c.opts p).fails = 0) :
    (SMap.get ((c.pollWires p).optFree p).opts p).fails = 1 ∧
      ((c.pollWires p).optFree p).outs = .pin 2 (c.rd Reg.OPT_MAP_MASTER p) 9 :: (c.pollWires p).outs := by
  rw [pollWires_eq]
  generalize (c.pollWires p).outs = o
  have hn : ¬ ((SMap.get c.opts p).fails + 1 = 3) := by omega
  have he : ({ c with outs := o } : Chip).optFree p = { c with
      outs := .pin 2 (c.rd Reg.OPT_MAP_MASTER p) 9 :: o
      opts := SMap.set c.opts p { SMap.get c.opts p with fails := (SMap.get c.opts p).fails + 1, polledAt := c.now } } := if_neg hn
  rw [he]
  refine ⟨?_, rfl⟩
  rw [SMap.get_set_same]
  exact congrArg (· + 1) h

/-- The third failed poll in a row. -/
theorem optFail_third {c : Chip} {p : Nat} (h : (SMap.get c.opts p).fails = 2) :
    (c.pollWires p).optFail p = (({ c.pollWires p with opts := SMap.set c.opts p { SMap.get c.opts p with fails := 3, polledAt := c.now } } : Chip).wr
      Reg.OPT_DIAG (clrBit (c.rd Reg.OPT_DIAG p) 1023) p).notify Nt.OPT_INVALID Cls.PORT p 0x0A := by
  rw [pollWires_eq]
  have h3 : (SMap.get c.opts p).fails + 1 = 3 := congrArg (· + 1) h
  unfold Chip.optFail
  simp only [h, if_true]
  rfl

/-! ### Edges at event outputs (R199, R200, R203) -/

theorem outs_run {c : Chip} (h : 2 ≤ c.rd Reg.PWR_STATUS_STATE) : c.outsOff = false := decide_eq_false (by omega)

theorem updEvo_congr {c : Chip} {n : Nat} {f g : Evo → Evo} (h : f (SMap.get c.evos n) = g (SMap.get c.evos n)) : c.updEvo n f = c.updEvo n g :=
  congrArg (fun e => ({ c with evos := SMap.set c.evos n e } : Chip)) h

/-- An edge that changes the level of an output that runs. -/
theorem placeEdge_changes {c : Chip} {n : Nat} {e : EvoEdge} (ha : e.act < 2) (hl : e.act ≠ c.rd Reg.EVO_STATUS_LEVEL (32 + n))
    (hp : 2 ≤ c.rd Reg.PWR_STATUS_STATE) : c.placeEdge n e none = c.driveEvo n e.act e.adj := by
  have hact : (if e.act = 2 then 1 - c.rd Reg.EVO_STATUS_LEVEL (32 + n) else e.act) = e.act := if_neg (by omega)
  unfold Chip.placeEdge
  simp only [hact]
  exact if_neg (by rintro (h | h); exacts [hl h, absurd ((outs_run hp).symm.trans h) Bool.false_ne_true])

theorem showQueued_input {c : Chip} {n : Nat} (h : n < 32) :
    c.showQueued n = c.wr Reg.EVO_STATUS_QUEUED (SMap.get c.evos n).queue.length (32 + n) := if_pos h

/-- The block with the first edge of an output's queue placed. -/
def placed (c : Chip) (n : Nat) (e : EvoEdge) (l : List (List EvoEdge)) : Chip :=
  ((c.updEvo n fun x => { x with queue := l }).wr Reg.EVO_STATUS_QUEUED l.length (32 + n)).driveEvo n e.act e.adj

theorem evoPlace_first {c : Chip} {n : Nat} {e : EvoEdge} {l : List (List EvoEdge)} (hn : n < 32) (hq : (SMap.get c.evos n).queue = [e] :: l)
    (hd : e.adj < (c.tb16 + tick16 : Nat)) (ha : e.act < 2) (hl : e.act ≠ c.rd Reg.EVO_STATUS_LEVEL (32 + n)) (hp : 2 ≤ c.rd Reg.PWR_STATUS_STATE) :
    c.evoPlace n none = placed c n e l := by
  have hpop : popEdge (SMap.get c.evos n).queue = some (e, l) := by rw [hq]; rfl
  unfold Chip.evoPlace placed
  simp only [hpop, if_neg (Int.not_le.2 hd), showQueued_input hn, Chip.updEvo_same]
  refine placeEdge_changes ha ?_ ?_
  · rwa [Chip.rd_wr_id _ _ _ _ _ _ (by decide), Chip.updEvo_rd]
  · rwa [Chip.rd_wr_id _ _ _ _ _ _ (by decide), Chip.updEvo_rd]

theorem placed_shows (c : Chip) (n : Nat) {e : EvoEdge} (l : List (List EvoEdge)) (ha : e.act < 2) :
    (SMap.get (placed c n e l).evos n).queue = l ∧ (placed c n e l).rd Reg.EVO_STATUS_LEVEL (32 + n) = e.act ∧
    (placed c n e l).rd Reg.EVO_STATUS_QUEUED (32 + n) = l.length % 2 ^ Reg.EVO_STATUS_QUEUED.width ∧
    (placed c n e l).outs = .pin 3 n (e.adj * 2 + e.act) :: c.outs := by
  have hl : (placed c n e l).rd Reg.EVO_STATUS_LEVEL (32 + n) = e.act := Chip.rd_wr_fits _ Reg.EVO_STATUS_LEVEL (32 + n) 0 ha
  have hq : (placed c n e l).rd Reg.EVO_STATUS_QUEUED (32 + n) = l.length % 2 ^ Reg.EVO_STATUS_QUEUED.width :=
    (Chip.rd_wr_id _ (F := Reg.EVO_STATUS_QUEUED) (G := Reg.EVO_STATUS_LEVEL) _ _ _ _ _ (by decide)).trans (Chip.rd_wr_same _ Reg.EVO_STATUS_QUEUED _ _ _)
  exact ⟨congrArg Evo.queue (Chip.updEvo_same c n fun x => { x with queue := l }), hl, hq, rfl⟩

/-- The block with the pulse due at u begun at an output, its end queued. -/
def pulsed (c : Chip) (n idle w : Nat) (u : Int) : Chip :=
  ((c.driveEvo n (1 - idle) (u - c.outLag n)).updEvo n fun x =>
    { x with perFrom := (u + 1).toNat, queue := [[{ adj := u - c.outLag n + w, t := (u + w).toNat, act := idle }]] }).wr Reg.EVO_STATUS_QUEUED 1 (32 + n)

theorem evoPeriodic_due {c : Chip} {n idle w : Nat} {u : Int} (hn : n < 32) (ho : c.rd Reg.EVO_CFG_OWNER (32 + n) = 3)
    (hw : w = c.rd Reg.EVO_PER_CFG_WIDTH_NS (32 + n) * 65536) (hi : idle = c.rd Reg.EVO_CFG_IDLE_LEVEL (32 + n))
    (hl : c.rd Reg.EVO_STATUS_LEVEL (32 + n) = idle) (hq : (SMap.get c.evos n).queue = [])
    (hu : c.periodic (timeOf96 (c.rd Reg.EVO_PER_START (32 + n))) (c.rd Reg.EVO_PER_CFG_PERIOD_NS (32 + n)) (c.outLag n) = some u)
    (hf : (SMap.get c.evos n).perFrom ≤ u) (hp : 2 ≤ c.rd Reg.PWR_STATUS_STATE) : c.evoPeriodic n none = pulsed c n idle w u := by
  have hidle : idle < 2 := hi ▸ c.rd_lt Reg.EVO_CFG_IDLE_LEVEL (32 + n) 0
  have hpl : c.placeEdge n { adj := u - c.outLag n, t := u.toNat, act := 1 - idle } none = c.driveEvo n (1 - idle) (u - c.outLag n) :=
    placeEdge_changes (by show 1 - idle < 2; omega) (by rw [hl]; show 1 - idle ≠ idle; omega) hp
  have hget : SMap.get (c.driveEvo n (1 - idle) (u - c.outLag n)).evos n = SMap.get c.evos n := rfl
  unfold Chip.evoPeriodic
  simp only [ho, ne_eq, not_true, if_false, hu, if_neg (Int.not_lt.2 hf), ← hi, ← hw, hpl, showQueued_input hn, Chip.updEvo_same, hget, hq]
  refine congrArg (fun d : Chip => d.wr Reg.EVO_STATUS_QUEUED 1 (32 + n)) (updEvo_congr ?_)
  rw [hget, hq]
  rfl

theorem pulsed_shows (c : Chip) (n idle w : Nat) (u : Int) :
    (pulsed c n idle w u).rd Reg.EVO_STATUS_LEVEL (32 + n) = 1 - idle ∧
    (pulsed c n idle w u).outs = .pin 3 n ((u - c.outLag n) * 2 + (1 - idle : Nat)) :: c.outs ∧
    (SMap.get (pulsed c n idle w u).evos n).perFrom = (u + 1).toNat ∧
    (SMap.get (pulsed c n idle w u).evos n).queue = [[{ adj := u - c.outLag n + w, t := (u + w).toNat, act := idle }]] := by
  have hl : (pulsed c n idle w u).rd Reg.EVO_STATUS_LEVEL (32 + n) = 1 - idle :=
    (Chip.rd_wr_id _ (F := Reg.EVO_STATUS_LEVEL) (G := Reg.EVO_STATUS_QUEUED) _ _ _ _ _ (by decide)).trans
      (Chip.rd_wr_fits c Reg.EVO_STATUS_LEVEL (32 + n) 0 (Nat.lt_of_le_of_lt (Nat.sub_le 1 idle) (by decide)))
  have he : SMap.get (pulsed c n idle w u).evos n = { SMap.get c.evos n with
      perFrom := (u + 1).toNat, queue := [[{ adj := u - c.outLag n + w, t := (u + w).toNat, act := idle }]] } :=
    SMap.get_upd_same c.evos n fun x =>
      { x with perFrom := (u + 1).toNat, queue := [[{ adj := u - c.outLag n + w, t := (u + w).toNat, act := idle }]] }
  exact ⟨hl, rfl, congrArg Evo.perFrom he, congrArg Evo.queue he⟩

/-! ### Pulse outputs (R224) -/

/-- The block with both edges of the pulse due at u shown at a pulse output. -/
def ppsPulsed (c : Chip) (m : Nat) (u w : Int) : Chip :=
  ((c.emit (.pin 4 m ((u - c.outLag (32 + m)) * 2 + 1))).emit (.pin 4 m ((u - c.outLag (32 + m) + w) * 2 + (1 - 1)))).updEvo (32 + m) fun x =>
    { x with perFrom := (u + 1).toNat, ends := u - c.outLag (32 + m) + w }

theorem ppsPulse_due {c : Chip} {m : Nat} {u : Int} (he : c.on Reg.PPO_CFG_EN (64 + m) = true) (hp : 2 ≤ c.rd Reg.PWR_STATUS_STATE)
    (hv : c.on Reg.TIME_STATUS_TB_VALID = true)
    (hu : c.periodic (c.rdS Reg.PPO_OFFSET (64 + m) * 64 - (c.rd Reg.PPO_PULSE_PERIOD_NS (64 + m) * 65536 : Nat)) (c.rd Reg.PPO_PULSE_PERIOD_NS (64 + m))
      (c.outLag (32 + m)) = some u)
    (hf : (SMap.get c.evos (32 + m)).perFrom ≤ u) (h0 : 0 ≤ u) (hn : c.on Reg.PPO_CFG_POLARITY (64 + m) = false) :
    c.ppsPulse m none none = ppsPulsed c m u ((c.rd Reg.PPO_PULSE_WIDTH_NS (64 + m) : Int) * 65536) := by
  have ho : c.ppsOff m = false := by
    unfold Chip.ppsOff
    rw [he, outs_run hp, hv, Bool.not_true, Bool.and_false]
    rfl
  have hd : ¬ (u < (SMap.get c.evos (32 + m)).perFrom ∨ u < 0) := by omega
  unfold Chip.ppsPulse
  simp only [ho, hu, if_neg hd, hn, Bool.false_eq_true, if_false]
  rfl

theorem ppsPulsed_shows (c : Chip) (m : Nat) (u w : Int) :
    (SMap.get (ppsPulsed c m u w).evos (32 + m)).perFrom = (u + 1).toNat ∧
    (ppsPulsed c m u w).outs = .pin 4 m ((u - c.outLag (32 + m) + w) * 2 + (1 - 1)) :: .pin 4 m ((u - c.outLag (32 + m)) * 2 + 1) :: c.outs :=
  ⟨congrArg Evo.perFrom (SMap.get_upd_same c.evos (32 + m) fun x => { x with perFrom := (u + 1).toNat, ends := u - c.outLag (32 + m) + w }), rfl⟩

/-! ### The obligation -/

theorem optOk_read {dev page off len : Nat} (hd : dev = 0xA0 ∨ dev = 0xA2) (hp : page < 256) (h1 : 1 ≤ len) (h2 : len ≤ 128) (h3 : off + len ≤ 256) :
    optOk false dev page off len [] = true := by
  have hdev : (dev == 0xA0 || dev == 0xA2) = true := by
    rcases hd with rfl | rfl <;> rfl
  unfold optOk
  rw [hdev, decide_eq_true hp, decide_eq_true h1, decide_eq_true h2, decide_eq_true h3]
  rfl

theorem steady_evo (c : Chip) (n : Nat) : SMap.get c.steady.evos n = SMap.get c.evos n := congrArg (fun m => SMap.get m n) c.steady_evos

/-- A failed poll leaves its pulses and its count after the step. -/
theorem optFree_steady {c : Chip} {p : Nat} (h : (SMap.get c.opts p).fails = 0) :
    (SMap.get ((c.pollWires p).optFree p).steady.opts p).fails = 1 ∧
      ((c.pollWires p).optFree p).steady.outs = .pin 2 (c.rd Reg.OPT_MAP_MASTER p) 9 :: (c.pollWires p).outs := by
  rw [Chip.steady_opts, Chip.steady_outs]
  exact optFree_first h

/-- Settles O43: each access, poll and pulse by the equation of its meaning where the conditions hold. -/
theorem modulesAndOutputs : Obligations.ModulesAndOutputs := by
  unfold Obligations.ModulesAndOutputs
  intro s
  refine ⟨?_, ?_, ?_, ?_, ?_⟩
  · intro r port dev page off len b flat x l ht hr hp hd hpage h1 h2 h3 hx hl hf
    have h := optRaw_reads ht hr hp (optOk_read hd hpage h1 h2 h3) hx hl hf
    refine ⟨_, exec_next (g := Chip.doOptRaw r port false dev page off len [] (.done b) flat) rfl h, rfl, .reply .., ?_⟩
    refine Keys.leaves_outs ((x.reply_reported (own := fun _ => False) r 0x0101 .ok l).1.2.2.2.2 _ ?_)
    rw [hx]
    exact optWires_access ..
  · intro p flags set typ b o y htyp ht ho hy hset hd
    subst htyp ho hy hset
    have hdone := optPoll_done ht hd flags b
    refine ⟨fun h => ?_, fun h => ?_, fun h => ?_, fun h => ⟨?_, ?_⟩⟩
    · exact ⟨_, exec_next (g := Chip.optPoll p flags (.done b)) rfl (hdone.trans (if_neg (not_not.2 h))), rfl, rfl⟩
    · exact ⟨_, exec_next (g := Chip.optPoll p flags (.done b)) rfl (hdone.trans (if_pos h)), rfl, rfl⟩
    · exact ⟨_, exec_next (g := Chip.optPoll p flags .nack) rfl ((optPoll_nack ht hd flags).trans (optFail_third h)), rfl, rfl⟩
    · exact ⟨_, exec_next (g := Chip.optStretch p) rfl (optStretch_due ht hd), rfl, optFree_steady h⟩
    · exact ⟨_, exec_next (g := Chip.optPoll p flags .stretch) rfl (optPoll_stretch ht hd flags), rfl, optFree_steady h⟩
  · intro n e l hq hd ha hl hp
    obtain ⟨hqueue, hlev, hn, houts⟩ := placed_shows s.chip n l ha
    exact ⟨_, exec_next (g := Chip.evoPlace n none) rfl (evoPlace_first n.2 hq hd ha hl hp), rfl, (congrArg Evo.queue (steady_evo _ n)).trans hqueue,
      (Chip.steady_rd _ _ _ _ (by decide)).trans hlev, (Chip.steady_rd _ _ _ _ (by decide)).trans hn, (Chip.steady_outs _).trans houts⟩
  · intro n u idle w ho hw hi hl hq hu hf hp
    obtain ⟨hlev, houts, hper, hqueue⟩ := pulsed_shows s.chip n idle w u
    exact ⟨_, exec_next (g := Chip.evoPeriodic n none) rfl (evoPeriodic_due n.2 ho hw hi hl hq hu hf hp), rfl,
      (Chip.steady_rd _ _ _ _ (by decide)).trans hlev, (Chip.steady_outs _).trans houts, (congrArg Evo.perFrom (steady_evo _ n)).trans hper,
      (congrArg Evo.queue (steady_evo _ n)).trans hqueue⟩
  · intro m u he hp hv hu hf h0 hn
    obtain ⟨hper, houts⟩ := ppsPulsed_shows s.chip m u ((s.chip.rd Reg.PPO_PULSE_WIDTH_NS (64 + m) : Int) * 65536)
    exact ⟨_, exec_next (g := Chip.ppsPulse m none none) rfl (ppsPulse_due he hp hv hu hf h0 hn), rfl,
      (congrArg Evo.perFrom (steady_evo _ (32 + m))).trans hper, (Chip.steady_outs _).trans houts⟩

end Sys2Proof.Modules
end

section
/-! PROOFS. Gate lists and preemption verification (R117, R118, R121, R123, R149). -/

namespace Sys2Proof.Gates
open Sys2Proof.Machine Sys2Proof.Laws

/-! ### Where a list stands -/

/-- A list whose change time has not come. -/
theorem gateChange_waits {c : Chip} {l : Nat} (h : c.gatePending l = false) : c.gateChange l = c := by
  unfold Chip.gateChange
  rw [h]
  rfl

theorem gateChange_due {c : Chip} {l : Nat} (h : c.gatePending l = true) (ht : c.gateCT l ≤ c.tb16) : c.gateChange l = c.gateSwap l := by
  unfold Chip.gateChange
  rw [h, decide_eq_true ht]
  rfl

/-- The status of a port's list. -/
theorem gateStatus_port (c : Chip) {l : Nat} (h : l < 1024) :
    (c.gateStatus l).rd Reg.GATE_STATUS_OPER_STATES l = (c.gateAt l c.tb16).1 % 2 ^ Reg.GATE_STATUS_OPER_STATES.width ∧
    (c.gateStatus l).rd Reg.GATE_STATUS_ENTRY l = (c.gateAt l c.tb16).2.1 % 2 ^ Reg.GATE_STATUS_ENTRY.width := by
  have he : c.gateStatus l = (c.wr Reg.GATE_STATUS_OPER_STATES (c.gateAt l c.tb16).1 l).wr Reg.GATE_STATUS_ENTRY (c.gateAt l c.tb16).2.1 l := if_pos h
  rw [he]
  exact ⟨(Chip.rd_wr_id _ _ _ _ _ _ (by decide)).trans (Chip.rd_wr_same ..), Chip.rd_wr_same ..⟩

/-- The status of a stream gate's list. -/
theorem gateStatus_stream (c : Chip) (g : Nat) :
    (c.gateStatus (1024 + g)).on Reg.SG_STATUS_OPEN 3 g = bitOf (c.gateAt (1024 + g) c.tb16).1 7 ∧
    (c.gateStatus (1024 + g)).rd Reg.SG_STATUS_ENTRY 3 g = (c.gateAt (1024 + g) c.tb16).2.1 % 2 ^ Reg.SG_STATUS_ENTRY.width := by
  have hg : 1024 + g - 1024 = g := Nat.add_sub_cancel_left ..
  have he : c.gateStatus (1024 + g) = (c.flag Reg.SG_STATUS_OPEN (bitOf (c.gateAt (1024 + g) c.tb16).1 7) 3 g).wr Reg.SG_STATUS_ENTRY
      (c.gateAt (1024 + g) c.tb16).2.1 3 g := by
    unfold Chip.gateStatus
    rcases c.gateAt (1024 + g) c.tb16 with ⟨a, n, e⟩
    simp only [if_neg (Nat.not_lt.2 (Nat.le_add_right 1024 g)), hg]
  rw [he]
  exact ⟨(Chip.on_wr_id _ _ _ _ _ _ (by decide)).trans (Chip.on_flag_same (F := Reg.SG_STATUS_OPEN) _ _ _ _ rfl), Chip.rd_wr_same ..⟩

/-! ### A list that takes its administrative values (R121) -/

/-- The lengths and states of a port's list after the swap. -/
def swapHead (c d : Chip) (l : Nat) : Chip :=
  (((((d.wr Reg.OPER_LEN (c.rd Reg.ADMIN_LEN l) l).wr Reg.OPER_BASE (c.rd Reg.ADMIN_BASE l) l).wr Reg.OPER_CYCLE
    (c.rd Reg.ADMIN_CYCLE l) l).wr Reg.OPER_EXT (c.rd Reg.ADMIN_EXT l) l).flag Reg.GATE_STATUS_PENDING false l).flag Reg.GATE_STATUS_RUNNING true l

theorem gateSwap_port (c : Chip) {l : Nat} (h : l < 1024) : ∃ d, c.gateSwap l = (swapHead c d l).gateStatus l := ⟨_, if_pos h⟩

theorem swapHead_flags (c d : Chip) (l : Nat) :
    (swapHead c d l).on Reg.GATE_STATUS_PENDING l = false ∧ (swapHead c d l).on Reg.GATE_STATUS_RUNNING l = true :=
  ⟨(Chip.on_wr_id _ _ _ _ _ _ (by decide)).trans (Chip.on_flag_same (F := Reg.GATE_STATUS_PENDING) _ _ _ _ rfl),
    Chip.on_flag_same (F := Reg.GATE_STATUS_RUNNING) _ _ _ _ rfl⟩

/-- The operational length, base, cycle and extension are the administrative ones. -/
theorem swapHead_takes (c d : Chip) (l : Nat) :
    (swapHead c d l).rd Reg.OPER_LEN l = c.rd Reg.ADMIN_LEN l ∧ (swapHead c d l).rd Reg.OPER_BASE l = c.rd Reg.ADMIN_BASE l ∧
    (swapHead c d l).rd Reg.OPER_CYCLE l = c.rd Reg.ADMIN_CYCLE l ∧ (swapHead c d l).rd Reg.OPER_EXT l = c.rd Reg.ADMIN_EXT l := by
  have hw : ∀ (x : Chip) (F G : Fld) (_ : F.width = G.width), (x.wr F (c.rd G l) l).rd F l = c.rd G l := fun x F G h =>
    Chip.rd_wr_fits x F l 0 (h ▸ c.rd_lt G l 0)
  unfold swapHead Chip.flag
  refine ⟨?_, ?_, ?_, ?_⟩
  · rw [Chip.rd_wr_id _ _ _ _ _ _ (by decide), Chip.rd_wr_id _ _ _ _ _ _ (by decide), Chip.rd_wr_id _ _ _ _ _ _ (by decide),
      Chip.rd_wr_id _ _ _ _ _ _ (by decide), Chip.rd_wr_id _ _ _ _ _ _ (by decide)]
    exact hw d Reg.OPER_LEN Reg.ADMIN_LEN rfl
  · rw [Chip.rd_wr_id _ _ _ _ _ _ (by decide), Chip.rd_wr_id _ _ _ _ _ _ (by decide), Chip.rd_wr_id _ _ _ _ _ _ (by decide),
      Chip.rd_wr_id _ _ _ _ _ _ (by decide)]
    exact hw _ Reg.OPER_BASE Reg.ADMIN_BASE rfl
  · rw [Chip.rd_wr_id _ _ _ _ _ _ (by decide), Chip.rd_wr_id _ _ _ _ _ _ (by decide), Chip.rd_wr_id _ _ _ _ _ _ (by decide)]
    exact hw _ Reg.OPER_CYCLE Reg.ADMIN_CYCLE rfl
  · rw [Chip.rd_wr_id _ _ _ _ _ _ (by decide), Chip.rd_wr_id _ _ _ _ _ _ (by decide)]
    exact hw _ Reg.OPER_EXT Reg.ADMIN_EXT rfl

/-- A field that the status of a list does not move, after the swap and the step. -/
theorem swapped_rd (c d : Chip) {l : Nat} (h : l < 1024) (F : Fld) (i : Nat) (h1 : F.id ≠ Reg.GATE_STATUS_OPER_STATES.id) (h2 : F.id ≠ Reg.GATE_STATUS_ENTRY.id)
    (h3 : F.id ∉ steadyIds) : ((swapHead c d l).gateStatus l).steady.rd F i = (swapHead c d l).rd F i :=
  (Chip.steady_rd _ _ _ _ h3).trans (gateStatus_rd _ _ _ _ _ h1 h2 h)

theorem swapped_on (c d : Chip) {l : Nat} (h : l < 1024) (F : Fld) (i : Nat) (h1 : F.id ≠ Reg.GATE_STATUS_OPER_STATES.id) (h2 : F.id ≠ Reg.GATE_STATUS_ENTRY.id)
    (h3 : F.id ∉ steadyIds) : ((swapHead c d l).gateStatus l).steady.on F i = (swapHead c d l).on F i := by
  unfold Chip.on
  rw [swapped_rd c d h F i h1 h2 h3]

/-! ### Verification of preemption (R123) -/

theorem updPort_congr {c : Chip} {p : Nat} {f g : PortSt → PortSt} (h : f (c.portSt p) = g (c.portSt p)) : c.updPort p f = c.updPort p g :=
  congrArg (fun x => ({ c with path := { c.path with ports := SMap.set c.path.ports p x } } : Chip)) h

/-- The block with a verify frame due at a port. -/
def verifying (c : Chip) (p : Nat) : Chip :=
  (c.wr Reg.SCHED_STAT_VERIFY_STATE 2 p).updPort p fun y => { y with verTries := 1, verAt := c.now, verDue := true }

theorem verifyTimer_starts {c : Chip} {p : Nat} (hl : c.linkUp p = true) (h : c.rd Reg.SCHED_STAT_VERIFY_STATE p = 1) (ht : (c.portSt p).verTries = 0) :
    c.verifyTimer p = (verifying c p).wakePort p := by
  unfold Chip.verifyTimer
  simp only [h, hl, ht, ne_eq, not_true, false_and, BEq.rfl, Bool.true_or, Bool.not_true, Bool.false_eq_true, or_self, if_false, Nat.zero_lt_succ, if_true]
  exact congrArg (fun d : Chip => d.wakePort p) (updPort_congr (congrArg (fun n : Nat =>
    { c.portSt p with verTries := n + 1, verAt := c.now, verDue := true }) ht))

theorem verifyTimer_fails {c : Chip} {p : Nat} (hl : c.linkUp p = true) (h : c.rd Reg.SCHED_STAT_VERIFY_STATE p = 2) (ht : (c.portSt p).verTries = 3)
    (hd : (c.portSt p).verAt + unitsMs (c.rd Reg.SCHED_CFG_VERIFY_MS p) ≤ c.now) :
    c.verifyTimer p = (c.wr Reg.SCHED_STAT_VERIFY_STATE 4 p).count Ev.VERIFY_FAIL p := by
  unfold Chip.verifyTimer
  simp only [h, hl, ht, hd, ne_eq, not_true, and_false, decide_true, Bool.or_true, Bool.not_true, Bool.false_eq_true, or_self, if_false, Nat.lt_irrefl]

/-- What a wake leaves of a port's state and of the fields. -/
theorem wakePort_ver (c : Chip) (p : Nat) :
    ((c.wakePort p).portSt p).verTries = (c.portSt p).verTries ∧ ((c.wakePort p).portSt p).verAt = (c.portSt p).verAt ∧
    ((c.wakePort p).portSt p).verDue = (c.portSt p).verDue := by
  unfold Chip.wakePort
  dsimp only
  split
  · rw [LowPower.emit_portSt, lpShow_port, updPort_port]
    exact ⟨rfl, rfl, rfl⟩
  · rw [LowPower.emit_portSt, lpShow_port, updPort_port]
    exact ⟨rfl, rfl, rfl⟩
  · rw [LowPower.emit_portSt, updPort_port]
    exact ⟨rfl, rfl, rfl⟩
  · rw [updPort_port]
    exact ⟨rfl, rfl, rfl⟩

theorem lpShow_rd (c : Chip) (p : Nat) (F : Fld) (i e : Nat) (h : F.id ≠ Reg.PORT_STATUS_LP_STATE.id) : (c.lpShow p).rd F i e = c.rd F i e := by
  unfold Chip.lpShow
  dsimp only
  split
  · exact Chip.rd_wr_id _ _ _ _ _ _ h
  · rfl

theorem wakePort_rd (c : Chip) (p : Nat) (F : Fld) (i e : Nat) (h : F.id ≠ Reg.PORT_STATUS_LP_STATE.id) : (c.wakePort p).rd F i e = c.rd F i e := by
  unfold Chip.wakePort
  dsimp only
  split
  · exact lpShow_rd _ _ _ _ _ h
  · exact lpShow_rd _ _ _ _ _ h
  · rfl
  · rfl

theorem verifying_shows (c : Chip) (p : Nat) :
    (verifying c p).rd Reg.SCHED_STAT_VERIFY_STATE p = 2 ∧ ((verifying c p).portSt p).verTries = 1 ∧ ((verifying c p).portSt p).verAt = c.now ∧
    ((verifying c p).portSt p).verDue = true := by
  have hp : (verifying c p).portSt p = { c.portSt p with verTries := 1, verAt := c.now, verDue := true } := updPort_port (c.wr Reg.SCHED_STAT_VERIFY_STATE 2 p) p _
  rw [hp]
  exact ⟨Chip.rd_wr_fits c Reg.SCHED_STAT_VERIFY_STATE p 0 (by decide), rfl, rfl, rfl⟩

theorem count_rd (c : Chip) (ev unit : Nat) (F : Fld) (i e : Nat) (h1 : F.id ∉ reportIds) (h2 : F.id ∉ steadyIds) : (c.count ev unit).rd F i e = c.rd F i e :=
  (c.count_reported (own := fun _ => False) ev unit _).2.1 F i e not_false h1 h2

/-! ### The obligation -/

/-- Settles O47: each list by the equation of its swap or status, each port by what its verification does. -/
theorem gateListsAndVerification : Obligations.GateListsAndVerification := by
  unfold Obligations.GateListsAndVerification
  intro s
  refine ⟨?_, ?_, ?_, ?_⟩
  · intro p h
    obtain ⟨hg, hn⟩ := gateStatus_port s.chip (l := p) (by omega)
    exact ⟨_, exec_next (g := Chip.gateEntryChange p) rfl (congrArg (fun d => d.gateStatus p) (gateChange_waits h)), rfl,
      (Chip.steady_rd _ _ _ _ (by decide)).trans hg, (Chip.steady_rd _ _ _ _ (by decide)).trans hn⟩
  · intro l hl h ht
    have hl' : l < 1024 := by omega
    obtain ⟨d, hd⟩ := gateSwap_port s.chip hl'
    obtain ⟨h1, h2⟩ := swapHead_flags s.chip d l
    obtain ⟨h3, h4, h5, h6⟩ := swapHead_takes s.chip d l
    refine ⟨_, exec_next (g := Chip.gateChange l) rfl (gateChange_due h ht), rfl, ?_, ?_, ?_, ?_, ?_, ?_, rfl⟩ <;> dsimp only <;> rw [hd]
    · exact (swapped_on _ _ hl' _ _ (by decide) (by decide) (by decide)).trans h1
    · exact (swapped_on _ _ hl' _ _ (by decide) (by decide) (by decide)).trans h2
    · exact (swapped_rd _ _ hl' _ _ (by decide) (by decide) (by decide)).trans h3
    · exact (swapped_rd _ _ hl' _ _ (by decide) (by decide) (by decide)).trans h4
    · exact (swapped_rd _ _ hl' _ _ (by decide) (by decide) (by decide)).trans h5
    · exact (swapped_rd _ _ hl' _ _ (by decide) (by decide) (by decide)).trans h6
  · intro g
    refine ⟨fun h => ?_, fun h ht => ?_⟩
    · obtain ⟨ho, hn⟩ := gateStatus_stream s.chip g
      exact ⟨_, exec_next (g := Chip.streamGateEntry g) rfl (congrArg (fun d => d.gateStatus (1024 + g)) (gateChange_waits h)), rfl,
        (Chip.steady_on _ _ _ _ (by decide)).trans ho, (Chip.steady_rd _ _ _ _ (by decide)).trans hn⟩
    · exact ⟨_, exec_next (g := Chip.streamGateEntry g) rfl (congrArg (fun d => d.gateStatus (1024 + g)) (gateChange_due h ht)), rfl, rfl⟩
  · intro p hl
    refine ⟨fun h ht => ?_, fun h ht hd => ?_⟩
    · obtain ⟨h1, h2, h3, h4⟩ := verifying_shows s.chip p
      obtain ⟨hw2, hw3, hw4⟩ := wakePort_ver (verifying s.chip p) p
      refine ⟨_, exec_next (g := Chip.verifyTimer p) rfl (verifyTimer_starts hl h ht), rfl, ?_, ?_, ?_, ?_, rfl⟩
      · exact ((Chip.steady_rd _ _ _ _ (by decide)).trans (wakePort_rd _ _ _ _ _ (by decide))).trans h1
      · exact (congrArg PortSt.verTries (steady_portSt _ _)).trans (hw2.trans h2)
      · exact (congrArg PortSt.verAt (steady_portSt _ _)).trans (hw3.trans h3)
      · exact (congrArg PortSt.verDue (steady_portSt _ _)).trans (hw4.trans h4)
    · refine ⟨_, exec_next (g := Chip.verifyTimer p) rfl (verifyTimer_fails hl h ht hd), rfl, ?_, rfl⟩
      exact (Chip.steady_rd _ _ _ _ (by decide)).trans ((count_rd _ _ _ _ _ _ (by decide) (by decide)).trans
        (Chip.rd_wr_fits _ Reg.SCHED_STAT_VERIFY_STATE _ _ (by decide)))

end Sys2Proof.Gates
end

section
/-! PROOFS. Ticks, core speed and converters (R38 to R42, R161, R162, R166, R187, R190, R191). -/

namespace Sys2Proof.Ticks
open Sys2Proof.Machine Sys2Proof.Laws

/-! ### Ticks (R161, R162, R166) -/

/-- A tick added to the timebase and to TICKS. -/
def advanced (c : Chip) : Chip :=
  ({ c with time := { c.time with tb := tbWrap (c.time.tb + c.tbIncr) } } : Chip).wr Reg.TICKS (c.rd Reg.TICKS + 1)

/-- The block is powered and not in reset. -/
theorem power_up {c : Chip} (hl : c.pwr.low = false) (hf : c.pwr.failed = false) : ¬ (c.pwr.low = true ∨ c.pwr.failed = true) := by
  rw [hl, hf]
  decide

/-- What moves with each tick, in its order. -/
def moved (c : Chip) : Chip := (((c.synTick).carTick).restStep).shelfDue.thawHeld

theorem ticks_off {c : Chip} (n : Nat) (hl : c.pwr.low = true) : c.ticks n = c := if_pos (.inl hl)

/-- A tick with no step waiting. -/
theorem tick_quiet {c d : Chip} (hd : c.tickAdd = d) (hs : d.time.steps = []) : c.tick = moved d := by
  unfold Chip.tick
  rw [hd]
  dsimp only
  rw [hs]
  rfl

theorem endDuration_over {c : Chip} (h : c.time.durOn = true) (hl : c.time.durLeft = 0) :
    c.endDuration = ({ c with time := { c.time with durOn := false } } : Chip).setAdj c.time.durAfter := by
  unfold Chip.endDuration
  rw [h, hl]
  rfl

/-- The last tick of a duration. -/
def lastTick (c : Chip) : Chip :=
  ({ c with time := { c.time with tb := tbWrap (c.time.tb + c.tbIncr), durLeft := 0, durOn := false } } : Chip).wr Reg.TICKS (c.rd Reg.TICKS + 1)

theorem tickAdd_last {c : Chip} (h : c.time.durOn = true) (hl : c.time.durLeft = 1) : c.tickAdd = (lastTick c).setAdj c.time.durAfter := by
  have hd : (if c.time.durOn then c.time.durLeft - 1 else c.time.durLeft) = 0 := (if_pos h).trans (by rw [hl])
  refine (congrArg (fun n => ({ advanced c with time := { (advanced c).time with durLeft := n } } : Chip).endDuration) hd).trans ?_
  exact endDuration_over h rfl

/-- ADJ set, after the step's own limit. -/
theorem setAdj_steady (c : Chip) (z : Int) : (c.setAdj z).steady.rdS Reg.ADJ =
    max (-((ppbUnits (c.rd Reg.SERVO_CTRL_MAX_ADJ) : Nat) : Int)) (min ((ppbUnits (c.rd Reg.SERVO_CTRL_MAX_ADJ) : Nat) : Int) z) := by
  have h : (c.setAdj z).steady.rdS Reg.ADJ = ((c.setAdj z).setAdj ((c.setAdj z).rdS Reg.ADJ)).rdS Reg.ADJ := Chip.rdS_wr_id _ _ _ _ _ _ (by decide)
  rw [h, Chip.setAdj_rdS, Chip.setAdj_rd _ _ _ _ _ (by decide) (by decide), Chip.setAdj_rdS]
  omega

/-! ### The Barometer (R38 to R42) -/

/-- A count below its cell's worst-corner count by more than half a unit of the margin. -/
theorem baroMargin_slow {count ref : Nat} (h : ((count : Int) - ref) * 20000 < -(ref : Int)) : baroMargin count ref < 0 := by
  have hr : 1 ≤ ref := by omega
  have hm : max 1 ref = ref := by omega
  have hneg : ¬ (0 ≤ ((count : Int) - ref) * 10000) := by omega
  unfold baroMargin divRoundS
  rw [hm, if_neg hneg]
  have hd : 0 < divRound (((count : Int) - ref) * 10000).natAbs ref := Nat.div_pos (by omega) (by omega)
  omega

theorem baroMargin_mem {counts refs : List Nat} (h : ∃ q ∈ counts.zip refs, ((q.1 : Int) - q.2) * 20000 < -(q.2 : Int)) :
    ∃ m ∈ counts.zipWith baroMargin refs, m < 0 := by
  obtain ⟨q, hq, hs⟩ := h
  refine ⟨baroMargin q.1 q.2, ?_, baroMargin_slow hs⟩
  rw [← List.map_uncurry_zip_eq_zipWith]
  exact List.mem_map.2 ⟨q, hq, rfl⟩

/-- CORE_SLOW set and no cell run counted as clear. -/
def Slow (c : Chip) : Prop := c.on Reg.BARO_STATUS_CORE_SLOW = true ∧ c.baroClear = 0

theorem Slow.flag {c : Chip} (h : Slow c) (F : Fld) (b : Bool) (hF : Reg.BARO_STATUS_CORE_SLOW.id ≠ F.id) : Slow (c.flag F b) :=
  ⟨(flag_slow c F b hF).trans h.1, h.2⟩

theorem Slow.notify {c : Chip} (h : Slow c) (ev cls inst attr : Nat) : Slow (c.notify ev cls inst attr none) :=
  ⟨(notify_slow ..).trans h.1, (notify_clear ..).trans h.2⟩

theorem Slow.ite {c d : Chip} {p : Prop} [Decidable p] (hc : Slow c) (hd : Slow d) : Slow (if p then c else d) := by
  split
  · exact hc
  · exact hd

/-- A margin below 0 sets CORE_SLOW and no cell run counts as clear. -/
theorem baroTake_slow {c : Chip} {l : List Int} (hn : l.length = 32) (h : ∃ m ∈ l, m < 0) :
    Slow (c.baroTake l) := by
  have ht : (l ++ List.replicate 32 0).take 32 = l := by
    rw [← hn]
    exact List.take_left
  obtain ⟨m, hm, h0⟩ := h
  have hslow : l.any (fun m => decide (m < 0)) = true := List.any_eq_true.2 ⟨m, hm, decide_eq_true h0⟩
  have hclear : l.all (fun m => decide ((c.rd Reg.BARO_CFG_CLEAR_HYST : Int) ≤ m)) = false :=
    List.all_eq_false.2 ⟨m, hm, by rw [decide_eq_true_eq]; omega⟩
  unfold Chip.baroTake
  simp only [ht, hslow, hclear, Bool.false_eq_true, if_false, if_true]
  generalize c.each l.zipIdx _ = c0
  have h3 : Slow (({ c0.wr Reg.BARO_STATUS_WORST_CELL (worstCell l) with baroClear := 0 } : Chip).flag Reg.BARO_STATUS_CORE_SLOW true) :=
    ⟨Chip.on_flag_same (F := Reg.BARO_STATUS_CORE_SLOW) _ _ _ _ rfl, rfl⟩
  have h4 := Slow.ite (p := (true && !c.on Reg.BARO_STATUS_CORE_SLOW_NOW) = true) ((h3.flag Reg.BARO_STATUS_CORE_SLOW_NOW true (by decide)).notify Nt.CORE_SLOW Cls.DEV 0 0x23)
    (Slow.ite (p := (c.on Reg.BARO_STATUS_CORE_SLOW_NOW && (0 == 100)) = true) (h3.flag Reg.BARO_STATUS_CORE_SLOW_NOW false (by decide)) h3)
  have h5 := fun w : Bool => Slow.ite (p := w = true) (h4.flag Reg.BARO_STATUS_MARGIN_WARN true (by decide)) h4
  exact Slow.ite ((h5 _).notify Nt.MARGIN_WARN Cls.DEV 0 0x23) (h5 _)

/-! ### Converters' channels (R187) -/

/-- A channel one of whose loops has left its step. -/
theorem tdcChange_leaves {c : Chip} {ch : Nat} {a b : Int} (hch : ch < 1104) (h : 1 < a.natAbs ∨ 1 < b.natAbs) (hl : SMap.get c.tdc ch = true) :
    c.tdcChange ch a b = ((({ c with time := { c.time with tdcFrom := SMap.set c.time.tdcFrom ch 0 }, tdc := SMap.set c.tdc ch false } : Chip).showTdc
      ch).flag Reg.TDC_STATUS_UNLOCK_SEEN true).notify Nt.TDC_UNLOCK Cls.DEV 0 0x40 := by
  have h1 : ¬ (a.natAbs ≤ 1 ∧ b.natAbs ≤ 1) := by omega
  have h2 : ¬ (tdcCount ≤ ch ∨ SMap.get c.tdc ch = false) := by
    rw [hl]
    exact not_or.2 ⟨Nat.not_le.2 hch, by decide⟩
  exact (if_neg h1).trans (if_neg h2)

theorem tdcChange_first {c : Chip} {ch : Nat} {a b : Int} (ha : a.natAbs ≤ 1) (hb : b.natAbs ≤ 1) (hf : SMap.get c.time.tdcFrom ch = 0) :
    c.tdcChange ch a b = { c with time := { c.time with tdcFrom := SMap.set c.time.tdcFrom ch (c.rd Reg.TICKS + 1) } } :=
  (if_pos ⟨ha, hb⟩).trans (if_pos hf)

theorem tdcChange_locks {c : Chip} {ch : Nat} {a b : Int} (ha : a.natAbs ≤ 1) (hb : b.natAbs ≤ 1) (hf : SMap.get c.time.tdcFrom ch ≠ 0)
    (ht : SMap.get c.time.tdcFrom ch + 4095 ≤ c.rd Reg.TICKS) : c.tdcChange ch a b = c.tdcSet ch true :=
  (if_pos ⟨ha, hb⟩).trans ((if_neg hf).trans (if_pos ht))

theorem showTdc_tdc (c : Chip) (ch : Nat) : (c.showTdc ch).tdc = c.tdc := by
  unfold Chip.showTdc
  dsimp only
  split_ifs <;> rfl

theorem tdcSet_locked (c : Chip) {ch : Nat} (hch : ch < 1104) : SMap.get (c.tdcSet ch true).tdc ch = true := by
  unfold Chip.tdcSet
  by_cases h : SMap.get c.tdc ch = true
  · rw [if_pos (.inr h)]
    exact h
  · rw [if_neg (not_or.2 ⟨(Nat.not_le.2 hch : ¬ tdcCount ≤ ch), h⟩)]
    have hs : SMap.get (({ c with tdc := SMap.set c.tdc ch true } : Chip).showTdc ch).tdc ch = true := by
      rw [showTdc_tdc]
      exact SMap.get_set_same c.tdc ch true
    dsimp only
    rw [if_pos rfl]
    split
    · exact hs
    · exact hs

/-! ### Phase monitors (R190, R191) -/

theorem phmRuns_iff (c : Chip) (m : Fin 520) : c.phmRuns m = true ↔ c.on (phmRegs m).en (phmRegs m).inst = true ∧ c.on (phmRegs m).los (phmRegs m).inst = false := by
  unfold Chip.phmRuns
  simp [m.2]

section
variable {c : Chip} {m : Fin 520} (he : c.on (phmRegs m).en (phmRegs m).inst = true) (hk : SMap.get c.tdc (phmChannel m) = true)
include he hk

theorem phmLos_late (hl : c.on (phmRegs m).los (phmRegs m).inst = false)
    (ht : (SMap.get c.phms m).seenAt + c.phmWait m ≤ c.now) :
    c.phmLos m = (c.flag (phmRegs m).los true (phmRegs m).inst).flag (phmRegs m).losSeen true (phmRegs m).inst := by
  have hr := (phmRuns_iff c m).2 ⟨he, hl⟩
  refine if_neg ?_
  rw [hr, hk]
  simp only [Bool.not_true, Bool.false_eq_true, false_or]
  omega

theorem phmAgain_starts (edge : Fine) (hl : c.on (phmRegs m).los (phmRegs m).inst = true) :
    c.phmAgain m edge = if ((c.flag (phmRegs m).los false (phmRegs m).inst).phmRestart m).phmClash m edge then
      (c.flag (phmRegs m).los false (phmRegs m).inst).phmRestart m
    else (((c.flag (phmRegs m).los false (phmRegs m).inst).phmRestart m).phmKeep m edge).phmFirst m edge := by
  refine if_neg ?_
  rw [he, hl, hk]
  simp only [Bool.not_true, Bool.false_eq_true, or_false]
  omega

/-- The first edge a running monitor may sample. -/
theorem phmTakes_first {edges : Nat} {edge : Fine} (hl : c.on (phmRegs m).los (phmRegs m).inst = false) (hv : (SMap.get c.phms m).live = false)
    (hn : edges ≠ 0) (hc : c.phmClash m edge = false) :
    c.phmTakes m edges edge = true ∧ c.phmSample m edges edge = (c.phmKeep m edge).phmFirst m edge := by
  have hr := (phmRuns_iff c m).2 ⟨he, hl⟩
  have ht : c.phmTakes m edges edge = true := by
    unfold Chip.phmTakes
    simp [hr, hn, hk, hv, hc]
  refine ⟨ht, ?_⟩
  unfold Chip.phmSample
  simp [hr, hn, ht, hv]

end

/-- The sample that a monitor keeps aside. -/
def aside (c : Chip) (o : SMap PhmOld) : Chip := { c with phmOld := o }

theorem aside_ite (o : SMap PhmOld) {p : Prop} [Decidable p] {a b x y : Chip} (ha : x = aside a o) (hb : y = aside b o) :
    (if p then x else y) = aside (if p then a else b) o := by
  split
  · exact ha
  · exact hb

theorem aside_setAdj (c : Chip) (o : SMap PhmOld) (z : Int) : (aside c o).setAdj z = aside (c.setAdj z) o := aside_ite o rfl rfl

theorem aside_endDuration (c : Chip) (o : SMap PhmOld) : (aside c o).endDuration = aside c.endDuration o :=
  aside_ite o (aside_setAdj { c with time := { c.time with durOn := false } } o c.time.durAfter) rfl

theorem aside_tickAdd (c : Chip) (o : SMap PhmOld) : (aside c o).tickAdd = aside c.tickAdd o :=
  aside_endDuration { advanced c with time := { (advanced c).time with durLeft := if c.time.durOn then c.time.durLeft - 1 else c.time.durLeft } } o

theorem aside_tickCount (c : Chip) (o : SMap PhmOld) : (aside c o).tickCount = aside c.tickCount o := by
  have hs : (aside c.tickAdd o).time.steps = c.tickAdd.time.steps := rfl
  unfold Chip.tickCount
  rw [aside_tickAdd]
  rcases h : c.tickAdd.time.steps with _ | ⟨p, l⟩
  · simp only [hs, h]
  · simp only [hs, h]
    exact aside_ite o rfl rfl

/-- The count of time reads no sample kept aside. -/
theorem aside_countAfter (o : SMap PhmOld) (n : Nat) : ∀ c : Chip, (aside c o).countAfter n = aside (c.countAfter n) o := by
  induction n with
  | zero => exact fun _ => rfl
  | succ n ih => exact fun c => (congrArg (fun d => d.countAfter n) (aside_tickCount c o)).trans (ih _)

theorem aside_edgeCont (c : Chip) (o : SMap PhmOld) (ch : Nat) (x : Fine) : (aside c o).edgeCont ch x = c.edgeCont ch x := by
  unfold Chip.edgeCont Chip.edgeTime Chip.tickEnd Chip.atEdge
  rw [aside_countAfter]
  rfl

theorem phmKeep_aside (c : Chip) (m : Nat) (x : Fine) : ∃ o, c.phmKeep m x = aside c o := by
  unfold Chip.phmKeep
  split
  · exact ⟨_, rfl⟩
  · exact ⟨c.phmOld, rfl⟩

/-- A kept sample moves nothing that a monitor's stamps read. -/
theorem phmKeep_monitor (c : Chip) (m : Nat) (x : Fine) : SMap.get ((c.phmKeep m x).phmFirst m x).phms m =
    { live := true, c0 := c.edgeCont (phmChannel m) x, g0 := c.gridTime (phmChannel m) x, got := 1, seenAt := c.now,
      stampC := (SMap.get c.phms m).stampC } := by
  obtain ⟨o, ho⟩ := phmKeep_aside c m x
  rw [ho, phmFirst_monitor, aside_edgeCont]
  rfl

theorem phmSampled_plain {c : Chip} {m edges : Nat} {edge : Fine} (h : m < 516) : c.phmSampled m edges edge = c.phmSample m edges edge :=
  if_neg (by omega)

theorem phmSampled_time {c x : Chip} {m edges n : Nat} {edge : Fine} (h : 516 ≤ m) (hm : m < 520) (hn : n = m - 512) (hr : c.on Reg.REF_CFG_TIME n = true)
    (ht : c.phmTakes m edges edge = true) (hx : c.phmSample m edges edge = x) :
    c.phmSampled m edges edge = (x.wrS Reg.REF_TOFF (x.toff n) n).servoOffset n (x.toff n) (1, 1) := by
  unfold Chip.phmSampled
  simp only [← hn, hx, h, hm, hr, ht, and_self, if_true]

/-! ### The obligation -/

/-- Settles O48: each event by the equation of its meaning where the conditions hold. -/
theorem ticksAndConverters : Obligations.TicksAndConverters := by
  unfold Obligations.TicksAndConverters
  intro s
  refine ⟨?_, ?_, ?_, ?_, ?_, ?_, ?_⟩
  · intro hl hf hs hd
    exact ⟨_, exec_next (g := Chip.ticks 1) rfl ((ticks_once _ (power_up hl hf)).trans (tick_without_steps s.chip (advanced s.chip) rfl hs hd)), rfl, rfl⟩
  · intro y hl hf hs hd hleft hy
    subst hy
    have hsteps : ((lastTick s.chip).setAdj s.chip.time.durAfter).time.steps = [] := by
      rw [Chip.setAdj_time]
      exact hs
    exact ⟨_, exec_next (g := Chip.ticks 1) rfl ((ticks_once _ (power_up hl hf)).trans (tick_quiet (tickAdd_last hd hleft) hsteps)), rfl, rfl⟩
  · intro n hl
    exact ⟨_, exec_next (g := Chip.ticks n) rfl (ticks_off n hl), rfl, rfl⟩
  · intro m hd hl hm
    subst hm
    refine ⟨_, exec_next (g := Chip.endDuration) rfl (endDuration_over hd hl), rfl, ?_, setAdj_steady _ _⟩
    exact (Chip.steady_time _).trans (Chip.setAdj_time _ _)
  · intro counts hat hn hr hq
    obtain ⟨hslow, hclear⟩ := baroTake_slow (c := s.chip) (l := counts.zipWith baroMargin s.chip.cal.baroRef) (by rw [List.length_zipWith, hn, hr]; rfl)
      (baroMargin_mem hq)
    refine ⟨_, exec_next (g := Chip.baroSample counts) rfl (if_neg (Nat.not_lt.2 hat)), rfl, ?_, Chip.steady_baroAt _, ?_⟩
    · exact (Chip.steady_on _ _ _ _ (by decide)).trans hslow
    · exact (Chip.steady_baroClear _).trans hclear
  · intro ch a b
    refine ⟨fun x h hl hx => ?_, fun ha hb hf => ?_, fun ha hb hf ht => ?_⟩
    · subst hx
      refine ⟨_, exec_next (g := Chip.tdcChange ch a b) rfl (tdcChange_leaves ch.2 h hl), rfl, ?_, rfl⟩
      dsimp only
      rw [Chip.steady_tdc, (Chip.notify_reported (own := fun _ => False) ..).tdc]
      exact (congrArg (fun t => SMap.get t ch.val) (showTdc_tdc _ ch)).trans (SMap.get_set_same s.chip.tdc ch false)
    · exact ⟨_, exec_next (g := Chip.tdcChange ch a b) rfl (tdcChange_first ha hb hf), rfl, rfl⟩
    · refine ⟨_, exec_next (g := Chip.tdcChange ch a b) rfl (tdcChange_locks ha hb hf ht), rfl, ?_⟩
      dsimp only
      rw [Chip.steady_tdc]
      exact tdcSet_locked _ ch.2
  · intro m he hk
    obtain ⟨hs1, hs2, hne, hw1, hw2⟩ := phmRegs_ids m
    refine ⟨fun hl ht => ?_, fun edge y hl hy => ?_, fun edges edge x n hl hv hn hc hx hnum => ?_⟩
    · refine ⟨_, exec_next (g := Chip.phmLos m) rfl (phmLos_late he hk hl ht), rfl, ?_, ?_⟩
      · exact (Chip.steady_on _ _ _ _ hs1).trans ((Chip.on_wr_id _ _ _ _ _ _ hne).trans (Chip.on_flag_same _ _ _ _ hw1))
      · exact (Chip.steady_on _ _ _ _ hs2).trans (Chip.on_flag_same _ _ _ _ hw2)
    · subst hy
      exact ⟨_, exec_next (g := Chip.phmAgain m edge) rfl (phmAgain_starts he hk edge hl), rfl, rfl⟩
    · obtain ⟨ht, hfirst⟩ := phmTakes_first he hk hl hv hn hc
      subst hx
      refine ⟨fun h => ?_, fun h hr => ?_⟩
      · refine ⟨_, exec_next (g := Chip.phmSampled m edges edge) rfl ((phmSampled_plain h).trans hfirst), rfl, rfl, ?_⟩
        dsimp only
        rw [Chip.steady_phms]
        exact phmKeep_monitor ..
      · exact ⟨_, exec_next (g := Chip.phmSampled m edges edge) rfl (phmSampled_time h m.2 hnum hr ht hfirst), rfl, rfl⟩

end Sys2Proof.Ticks
end

section
/-! PROOFS. Loops, profiles and clock outputs (R207, R210, R212 to R217, R220, R222). -/

namespace Sys2Proof.Loops
open Sys2Proof.Machine Sys2Proof.Laws

theorem steady_dpll (c : Chip) (d : Nat) : SMap.get c.steady.dplls d = SMap.get c.dplls d := congrArg (fun m => SMap.get m d) c.steady_dplls

/-! ### Updates of a loop (R207, R210, R212, R213) -/

theorem takePhases_none (c : Chip) (d : Nat) : c.takePhases d [] = c := rfl

theorem dpllUpdate_freq {c : Chip} {d : Nat} {f : Nat × Nat} (e0 : Int) (ph : List (Nat × Int)) (hd : d < 5) (hf : c.fpd d = some f) (hx : c.detects d = true)
    (hs : c.synState d = 2) : c.dpllUpdate d e0 ph = ((c.freqUpdate d (c.loopErr d e0)).usedSamples d).takePhases d ph := by
  have h4 : ¬ 4 < d := by omega
  unfold Chip.dpllUpdate
  simp only [hf, hs, hx, h4, BEq.rfl, Bool.true_or, Bool.not_true, Bool.false_eq_true, or_self, if_false, if_true]

theorem dpllUpdate_phase {c : Chip} {d : Nat} {f : Nat × Nat} (e0 : Int) (ph : List (Nat × Int)) (hd : d < 5) (hf : c.fpd d = some f) (hx : c.detects d = true)
    (hs : c.synState d = 3 ∨ c.synState d = 4) : c.dpllUpdate d e0 ph =
      (((((c.workOff d).wrS Reg.SYN_PHERR (divRoundS (c.loopErr d e0 - divRoundS ((c.workOff d).dpll d).build (10 ^ 11)) 64) d).phaseUpdate d
        (c.loopErr d e0 - divRoundS ((c.workOff d).dpll d).build (10 ^ 11)) f).usedSamples d).takePhases d ph) := by
  have h4 : ¬ 4 < d := by omega
  have h2 : ¬ c.synState d = 2 := by omega
  have hrun : (c.synState d == 2 || c.synState d == 3 || c.synState d == 4) = true := by
    rcases hs with h | h <;> rw [h] <;> rfl
  unfold Chip.dpllUpdate
  simp only [hf, hx, h4, h2, hrun, Bool.not_true, Bool.false_eq_true, or_self, if_false]

theorem usedSamples_dplls (c : Chip) (d : Nat) : (c.usedSamples d).dplls = c.dplls := by
  unfold Chip.usedSamples
  split <;> rfl

theorem usedSamples_rd (c : Chip) (d : Nat) (F : Fld) (i e : Nat) : (c.usedSamples d).rd F i e = c.rd F i e := by
  unfold Chip.usedSamples
  split <;> rfl

theorem showBand_dplls (c : Chip) (d : Nat) (a y : Int) : (c.showBand d a y).dplls = c.dplls := by
  unfold Chip.showBand Chip.showCeil
  dsimp only
  split_ifs <;> rfl

theorem freqUpdate_dpll (c : Chip) (d : Nat) (e : Int) :
    SMap.get (c.freqUpdate d e).dplls d = { c.dpll d with y := c.synLimit d (c.dpll d).goal, updAt := c.now } :=
  dpll_of (f := fun x => { x with y := c.synLimit d (c.dpll d).goal, updAt := c.now }) (showBand_dplls _ _ _ _)

theorem freqUpdate_pherr (c : Chip) (d : Nat) (e : Int) :
    (c.freqUpdate d e).rd Reg.SYN_PHERR d = encS Reg.SYN_PHERR.width (divRoundS e 64) % 2 ^ Reg.SYN_PHERR.width := Chip.rd_wr_same _ _ _ _ _

/-! ### Frequency checks (R213) -/

/-- A loop after a check, `bad` failures in a row. -/
def checked (c : Chip) (d bad : Nat) (off : Int) : Chip :=
  c.updDpll d fun x => { x with chkAt := c.now, fchkBad := bad, goal := x.y + divRoundS (off * freqUnit) 1000 }

/-- A loop whose frequency stage has ended. -/
def phaseStage (c : Chip) (d : Nat) (e : Int) : Chip :=
  ((c.setSynState d 3).updDpll d fun x => { x with fchkOk := true, build := e * 10 ^ 11, i := x.y, inWin := 0, outWin := 0 }).wrS Reg.SYN_BUILDOUT e d

section
variable {c : Chip} {d : Nat} {off : Int} (count : Int) (hd : d < 5) (hw : (c.dpll d).chkAt + unitsMs (c.rd Reg.SYN_LOCK_FCHK_MS d) ≤ c.now)
  (ho : off = count + divRoundS (c.tgtRate d * 1000) freqUnit)
include hd hw ho

theorem freqCheck_passes (e0 : Int) (hs : c.synState d = 2) (hp : off.natAbs ≤ c.rd Reg.SYN_LOCK_FCHK_TOL d * 1000) :
    c.dpllFreqCheck d count e0 = if d = 0 ∧ c.rd Reg.SEL_STATUS_FREF < 24 ∧ (!(SMap.get c.car.sels 0).slew) = true then
      (phaseStage (checked c d 0 off) d (c.loopErr d e0)).wrS Reg.REF_OFFSET (c.loopErr d e0) (c.rd Reg.SEL_STATUS_FREF)
    else phaseStage (checked c d 0 off) d (c.loopErr d e0) := by
  have h4 : ¬ 4 < d := by omega
  have hn : ¬ c.now < (c.dpll d).chkAt + unitsMs (c.rd Reg.SYN_LOCK_FCHK_MS d) := Nat.not_lt.2 hw
  have hp' := decide_eq_true hp
  subst ho
  unfold Chip.dpllFreqCheck
  simp only [hs, h4, hn, hp', BEq.rfl, Bool.true_or, Bool.not_true, Bool.false_eq_true, or_self, if_false, if_true]
  rfl

theorem freqCheck_fails_again (e0 : Int) (hs : c.synState d = 4) (hp : c.rd Reg.SYN_LOCK_FCHK_TOL d * 1000 < off.natAbs) (hb : 1 ≤ (c.dpll d).fchkBad) :
    c.dpllFreqCheck d count e0 = (checked c d ((c.dpll d).fchkBad + 1) off).loseLock d := by
  have h4 : ¬ 4 < d := by omega
  have hn : ¬ c.now < (c.dpll d).chkAt + unitsMs (c.rd Reg.SYN_LOCK_FCHK_MS d) := Nat.not_lt.2 hw
  have hp' : decide (off.natAbs ≤ c.rd Reg.SYN_LOCK_FCHK_TOL d * 1000) = false := decide_eq_false (Nat.not_le.2 hp)
  have h2 : 2 ≤ (c.dpll d).fchkBad + 1 := by omega
  subst ho
  unfold Chip.dpllFreqCheck
  simp only [hs, h4, hn, hp', h2, BEq.rfl, Bool.or_true, Bool.not_true, Bool.false_eq_true, or_self, if_false, if_true, Nat.reduceEqDiff]
  rfl

end

theorem phaseStage_shows (c : Chip) (d : Nat) (e : Int) :
    (phaseStage c d e).synState d = 3 ∧
    SMap.get (phaseStage c d e).dplls d = { c.dpll d with fchkOk := true, build := e * 10 ^ 11, i := (c.dpll d).y, inWin := 0, outWin := 0 } :=
  ⟨(Chip.wrS_id _ _ _ _ _ _ _ (by decide)).trans (Chip.rd_wr_fits c Reg.SYN_STATUS_STATE d 0 (by decide)),
    Chip.updDpll_same (c.setSynState d 3) d fun x => { x with fchkOk := true, build := e * 10 ^ 11, i := x.y, inWin := 0, outWin := 0 }⟩

/-! ### A loop that acquires (R214) -/

theorem ckoRealign_dplls (c : Chip) (o : Nat) : (c.ckoRealign o).dplls = c.dplls := by
  unfold Chip.ckoRealign
  dsimp only
  split
  · rfl
  · split
    · exact showWave_dplls _ o
    · rfl

theorem ckoRealign_state (c : Chip) (o d : Nat) : (c.ckoRealign o).synState d = c.synState d := by
  unfold Chip.ckoRealign
  dsimp only
  split
  · rfl
  · split
    · exact (showWave_rd _ _ _ _ _).trans ((Chip.rd_wr_id _ _ _ _ _ _ (by decide)).trans (Chip.rd_wr_id _ _ _ _ _ _ (by decide)))
    · rfl

/-- The outputs of a loop, realigned where they ask for it. -/
def realigned (c : Chip) (d : Nat) : Chip :=
  c.each (List.range 8) fun o c => if c.ckoLoop o = d ∧ c.rd Reg.CKO_ALIGN_ALIGN (16 + o) = 1 then c.ckoRealign o else c

theorem realigned_dplls (c : Chip) (d : Nat) : (realigned c d).dplls = c.dplls := by
  refine each_keep (·.dplls) _ (fun o c => ?_) _ _
  show (if c.ckoLoop o = d ∧ c.rd Reg.CKO_ALIGN_ALIGN (16 + o) = 1 then c.ckoRealign o else c).dplls = c.dplls
  split
  · exact ckoRealign_dplls c o
  · rfl

theorem realigned_state (c : Chip) (d i : Nat) : (realigned c d).synState i = c.synState i := by
  refine each_keep (fun c => c.synState i) _ (fun o c => ?_) _ _
  show (if c.ckoLoop o = d ∧ c.rd Reg.CKO_ALIGN_ALIGN (16 + o) = 1 then c.ckoRealign o else c).synState i = c.synState i
  split
  · exact ckoRealign_state c o i
  · rfl

/-- A loop that acquires: its state, and the offset it starts from. -/
theorem acquire_shows (c : Chip) (d : Nat) :
    (c.acquire d).synState d = (if c.on Reg.SYN_CFG_FREQ_FIRST d then 2 else 3) ∧ (SMap.get (c.acquire d).dplls d).goal = (c.dpll d).y ∧
    (SMap.get (c.acquire d).dplls d).fchkOk = false := by
  have hget : SMap.get (c.acquire d).dplls d = { c.dpll d with
      goal := (c.dpll d).y, build := 0, inWin := 0, outWin := 0, fchkOk := false, fchkBad := 0, chkAt := c.now, tgt := 0, rem := 0, vel := 0
      updAt := if 2 ≤ c.synState d ∧ c.synState d ≤ 4 then (c.dpll d).updAt else c.now } :=
    dpll_of (f := fun x => { x with
      goal := x.y, build := 0, inWin := 0, outWin := 0, fchkOk := false, fchkBad := 0, chkAt := c.now, tgt := 0, rem := 0, vel := 0
      updAt := if 2 ≤ c.synState d ∧ c.synState d ≤ 4 then x.updAt else c.now }) ((showOutputs_dplls _ d).trans (realigned_dplls _ d))
  have hfit : (if c.on Reg.SYN_CFG_FREQ_FIRST d then 2 else 3) < 2 ^ Reg.SYN_STATUS_STATE.width := by
    split <;> decide
  refine ⟨?_, by rw [hget], by rw [hget]⟩
  refine (showOutputs_state _ d d).trans ((realigned_state _ d d).trans ?_)
  exact (Chip.wrS_id _ _ _ _ _ _ _ (by decide)).trans (Chip.rd_wr_fits c Reg.SYN_STATUS_STATE d 0 hfit)

/-! ### Targets and profiles (R215 to R217) -/

theorem updGen_dpll (c : Chip) (d : Nat) (f : Gen → Gen) : (SMap.get (c.updGen d f).dplls d).gen = f (c.dpll d).gen :=
  congrArg Dpll.gen (Chip.updDpll_same c d fun x => { x with gen := f x.gen })

/-- A generator that runs entry k of its profile. -/
def entryOf (c : Chip) (d k : Nat) (g : Gen) : Gen :=
  ({ g with prof := some k }).aim (c.rdS Reg.SYN_RAMP_PROF_TARGET d k) (c.rd Reg.SYN_RAMP_PROF_SLEW d k)

theorem rampEntry_gen (c : Chip) (d k : Nat) : (SMap.get (c.rampEntry d k).dplls d).gen = entryOf c d k (c.dpll d).gen := updGen_dpll c d (entryOf c d k)

theorem rampNext_over {c : Chip} {d k h : Nat} (hd : d < 5) (hp : (c.dpll d).gen.prof = some k) (hh : (c.dpll d).gen.holdTo = some h) (ht : h ≤ c.now)
    (hr : c.on Reg.SYN_RAMP_CTRL_RUN d = true) : c.rampNext d =
      if k + 1 < c.rd Reg.SYN_RAMP_CTRL_LEN d then c.rampEntry d (k + 1) else if c.on Reg.SYN_RAMP_CTRL_LOOP d then c.rampEntry d 0
      else c.updGen d fun g => { g with holdTo := none } := by
  have h4 : ¬ 4 < d := by omega
  have hn : ¬ c.now < h := Nat.not_lt.2 ht
  unfold Chip.rampNext
  simp only [hp, hh, hr, h4, hn, Bool.not_true, Bool.false_eq_true, or_self, if_false]

theorem targetStart_due {c : Chip} {d a w : Nat} {g : Int} {l : List (Nat × Int × Nat)} (h1 : 1 ≤ d) (hd : d < 5) (hr : (c.dpll d).gen.reqs = (a, g, w) :: l)
    (ha : a ≤ c.now) : c.targetStart d = c.updGen d fun x => ({ x with reqs := l }).aim g w := by
  unfold Chip.targetStart
  rw [hr]
  exact if_pos ⟨h1, Nat.le_of_lt_succ hd, ha⟩

/-! ### Encoder edges and clock outputs (R218, R220, R222) -/

/-- What a quarter's edge does at one output. -/
def driveOne (d format level : Nat) (t : Int) (o : Nat) (c : Chip) : Chip :=
  if (!c.on Reg.CKO_STATUS_RUNNING (16 + o) ∧ !(SMap.get c.ckos o).stopping) ∨ c.ckoLoop o ≠ d ∨ c.rd Reg.CKO_CFG_FORMAT (16 + o) ≠ format ∨
    level = (SMap.get c.ckos o).level then c
  else if (SMap.get c.ckos o).stopping then
    (({ c with ckos := SMap.set c.ckos o { SMap.get c.ckos o with level := level } } : Chip).emit (.pin 5 o (t * 2 + level))).showWave o
  else ({ c with ckos := SMap.set c.ckos o { SMap.get c.ckos o with level := level } } : Chip).emit (.pin 5 o (t * 2 + level))

theorem encDrive_each (c : Chip) (d format level : Nat) (t : Int) : c.encDrive d format level t = c.each (List.range 8) (driveOne d format level t) := rfl

/-- A waveform shown leaves the fields, every other output and what has left the block. -/
theorem showWave_keeps (c : Chip) (o : Nat) :
    (c.showWave o).regs = c.regs ∧ (∀ p, p ≠ o → SMap.get (c.showWave o).ckos p = SMap.get c.ckos p) ∧ ∀ x ∈ c.outs, x ∈ (c.showWave o).outs := by
  have hc : ∀ (y : Cko) (p : Nat), p ≠ o → SMap.get (SMap.set c.ckos o y) p = SMap.get c.ckos p := fun y p h => SMap.get_set_ne _ _ h
  unfold Chip.showWave
  dsimp only
  split
  · exact ⟨rfl, fun p h => hc _ p h, fun x hx => List.mem_cons_of_mem _ hx⟩
  · split
    · exact ⟨rfl, fun p h => hc _ p h, fun x hx => List.mem_cons_of_mem _ hx⟩
    · exact ⟨rfl, fun p h => hc _ p h, fun x hx => hx⟩

theorem driveOne_keeps (d format level : Nat) (t : Int) (o : Nat) (c : Chip) :
    (driveOne d format level t o c).regs = c.regs ∧ (∀ p, p ≠ o → SMap.get (driveOne d format level t o c).ckos p = SMap.get c.ckos p) ∧
    ∀ x ∈ c.outs, x ∈ (driveOne d format level t o c).outs := by
  have hc : ∀ (y : Cko) (p : Nat), p ≠ o → SMap.get (SMap.set c.ckos o y) p = SMap.get c.ckos p := fun y p h => SMap.get_set_ne _ _ h
  unfold driveOne
  split_ifs
  · exact ⟨rfl, fun _ _ => rfl, fun _ hx => hx⟩
  · obtain ⟨h1, h2, h3⟩ := showWave_keeps (({ c with ckos := SMap.set c.ckos o { SMap.get c.ckos o with level := level } } : Chip).emit
      (.pin 5 o (t * 2 + level))) o
    exact ⟨h1, fun p h => (h2 p h).trans (hc _ p h), fun x hx => h3 x (List.mem_cons_of_mem _ hx)⟩
  · exact ⟨rfl, fun p h => hc _ p h, fun x hx => List.mem_cons_of_mem _ hx⟩

/-- Outputs other than o leave o's state and what has left the block. -/
theorem driveOthers_keep (d format level : Nat) (t : Int) (o : Nat) (l : List Nat) : ∀ c : Chip,
    (o ∉ l → (c.each l (driveOne d format level t)).regs = c.regs ∧ SMap.get (c.each l (driveOne d format level t)).ckos o = SMap.get c.ckos o) ∧
    ∀ x ∈ c.outs, x ∈ (c.each l (driveOne d format level t)).outs := by
  induction l with
  | nil => exact fun c => ⟨fun _ => ⟨rfl, rfl⟩, fun _ hx => hx⟩
  | cons a l ih =>
    intro c
    obtain ⟨h1, h2, h3⟩ := driveOne_keeps d format level t a c
    obtain ⟨h4, h5⟩ := ih (driveOne d format level t a c)
    refine ⟨fun ho => ?_, fun x hx => h5 x (h3 x hx)⟩
    obtain ⟨hne, hmem⟩ := not_or.1 (mt List.mem_cons.2 ho)
    obtain ⟨h6, h7⟩ := h4 hmem
    exact ⟨h6.trans h1, h7.trans (h2 o hne)⟩

/-- An output of the pair whose level the edge changes shows it at its pin. -/
theorem encDrive_pin {c : Chip} {d format level o : Nat} (t : Int) (ho : o < 8)
    (hr : c.on Reg.CKO_STATUS_RUNNING (16 + o) = true ∨ (SMap.get c.ckos o).stopping = true) (hl : c.ckoLoop o = d)
    (hf : c.rd Reg.CKO_CFG_FORMAT (16 + o) = format) (hv : level ≠ (SMap.get c.ckos o).level) :
    Out.pin 5 o (t * 2 + level) ∈ (c.encDrive d format level t).outs := by
  obtain ⟨l1, l2, hsplit⟩ := List.append_of_mem (List.mem_range.2 ho)
  have hnd : (l1 ++ o :: l2).Nodup := hsplit ▸ List.nodup_range
  have hn1 : o ∉ l1 := fun h => (List.nodup_append.1 hnd).2.2 o h o List.mem_cons_self rfl
  rw [encDrive_each, hsplit]
  have happ : c.each (l1 ++ o :: l2) (driveOne d format level t) =
      (driveOne d format level t o (c.each l1 (driveOne d format level t))).each l2 (driveOne d format level t) := by
    unfold Chip.each
    rw [List.foldl_append, List.foldl_cons]
  rw [happ]
  obtain ⟨hregs, hcko⟩ := (driveOthers_keep d format level t o l1 c).1 hn1
  refine (driveOthers_keep d format level t o l2 _).2 _ ?_
  generalize c.each l1 (driveOne d format level t) = b at hregs hcko
  have hrd : ∀ (F : Fld) (i : Nat), b.rd F i = c.rd F i := fun F i => congrArg (fun r => regGet r F i 0) hregs
  have hon : ∀ (F : Fld) (i : Nat), b.on F i = c.on F i := fun F i => by
    unfold Chip.on
    rw [hrd]
  have hmoves : ¬ ((!b.on Reg.CKO_STATUS_RUNNING (16 + o) ∧ !(SMap.get b.ckos o).stopping) ∨ b.ckoLoop o ≠ d ∨ b.rd Reg.CKO_CFG_FORMAT (16 + o) ≠ format ∨
      level = (SMap.get b.ckos o).level) := by
    have hloop : b.ckoLoop o = c.ckoLoop o := hrd _ _
    rw [hon, hcko, hloop, hrd]
    rintro (⟨h1, h2⟩ | h | h | h)
    · rcases hr with h' | h'
      · rw [h'] at h1
        exact absurd h1 (by decide)
      · rw [h'] at h2
        exact absurd h2 (by decide)
    · exact h hl
    · exact h hf
    · exact hv h
  unfold driveOne
  rw [if_neg hmoves]
  split
  · exact (showWave_keeps _ o).2.2 _ List.mem_cons_self
  · exact List.mem_cons_self

/-- The crossing's level and the line it moves. -/
theorem encEdge_oldest {c : Chip} {d : Nat} {q a : Int} {l : List (Int × Int)} (h : (c.dpll d).gen.edges = (q, a) :: l) :
    c.encEdge d = (c.updGen d fun g => { g with edges := l }).encDrive d (if (q / 2) % 2 = q % 2 then 2 else 3)
      (if (q / 2) % 2 = q % 2 then (encLevels (q / 2)).1 else (encLevels (q / 2)).2) a := by
  unfold Chip.encEdge
  rw [h]
  by_cases hq : (q / 2) % 2 = q % 2
  · simp only [hq, decide_true, if_true]
  · simp only [hq, decide_false, Bool.false_eq_true, if_false]

theorem driveOne_dplls (d format level : Nat) (t : Int) (o : Nat) (c : Chip) : (driveOne d format level t o c).dplls = c.dplls := by
  unfold driveOne
  split
  · rfl
  · split
    · exact showWave_dplls _ o
    · rfl

theorem encDrive_dplls (c : Chip) (d format level : Nat) (t : Int) : (c.encDrive d format level t).dplls = c.dplls :=
  each_keep (·.dplls) (driveOne d format level t) (driveOne_dplls d format level t) _ c

theorem ckoRestart_due {c : Chip} {o : Nat} (edge : Int) (hw : (SMap.get c.ckos o).wait = true) (hm : c.ckoMay o = true)
    (ht : (SMap.get c.ckos o).mutedAt + unitsUs 20 ≤ c.now) (hs : (SMap.get c.ckos o).startAt ≤ c.tb16 + tick16) :
    c.ckoRestart o edge = ((({ c with ckos := SMap.set c.ckos o { SMap.get c.ckos o with wait := false } } : Chip).wrS Reg.CKO_PHASE
      (divRoundS (c.ckoPhase o edge) 64) (16 + o)).showCko o) := by
  have h1 : ¬ c.now < (SMap.get c.ckos o).mutedAt + unitsUs 20 := Nat.not_lt.2 ht
  have h2 : ¬ c.tb16 + tick16 < (SMap.get c.ckos o).startAt := Nat.not_lt.2 hs
  unfold Chip.ckoRestart
  simp only [hw, hm, h1, h2, Bool.not_true, Bool.false_eq_true, or_self, if_false]

/-! ### The obligation -/

/-- Settles O49: each event by the equation of its meaning where the conditions hold. -/
theorem loopsAndOutputs : Obligations.LoopsAndOutputs := by
  unfold Obligations.LoopsAndOutputs
  intro d s
  refine ⟨?_, ?_, ?_, ?_, ?_, ?_, ?_, ?_⟩
  · intro e0 e ph f hf hx he
    subst he
    refine ⟨fun hs hph => ?_, fun w e1 hs hw he1 => ?_⟩
    · subst hph
      have hu := dpllUpdate_freq e0 [] d.2 hf hx hs
      rw [takePhases_none] at hu
      refine ⟨_, exec_next (g := Chip.dpllUpdate d e0 []) rfl hu, rfl, ?_, ?_⟩
      · dsimp only
        rw [steady_dpll, usedSamples_dplls, freqUpdate_dpll]
      · exact (Chip.steady_rd _ _ _ _ (by decide)).trans ((usedSamples_rd _ _ _ _ _).trans (freqUpdate_pherr _ _ _))
    · subst hw he1
      exact ⟨_, exec_next (g := Chip.dpllUpdate d e0 ph) rfl (dpllUpdate_phase e0 ph d.2 hf hx hs), rfl, rfl⟩
  · intro count off e0 e hw ho he
    subst he
    refine ⟨fun hs hp => ?_, fun x hs hp hb hx => ?_⟩
    · have hc := freqCheck_passes count d.2 hw ho e0 hs hp
      obtain ⟨hst, hget⟩ := phaseStage_shows (checked s.chip d 0 off) d (s.chip.loopErr d e0)
      have hstate : (s.chip.dpllFreqCheck d count e0).synState d = 3 := by
        rw [hc]
        split
        · exact (Chip.wrS_id _ _ _ _ _ _ _ (by decide)).trans hst
        · exact hst
      have hdpll : (s.chip.dpllFreqCheck d count e0).dplls = (phaseStage (checked s.chip d 0 off) d (s.chip.loopErr d e0)).dplls := by
        rw [hc]
        split <;> rfl
      have hchk : (checked s.chip d 0 off).dpll d = _ := Chip.updDpll_same s.chip d _
      refine ⟨_, exec_next (g := Chip.dpllFreqCheck d count e0) rfl rfl, rfl, (steady_syn _ _).trans hstate, ?_, ?_, ?_⟩
      all_goals dsimp only
      all_goals rw [steady_dpll, hdpll, hget]
      rw [hchk]
      rfl
    · subst hx
      exact ⟨_, exec_next (g := Chip.dpllFreqCheck d count e0) rfl (freqCheck_fails_again count d.2 hw ho e0 hs hp hb), rfl, rfl⟩
  · intro h1 hs
    obtain ⟨hst, hg, hk⟩ := acquire_shows s.chip d
    refine ⟨_, exec_next (g := Chip.dpllHopDone d) rfl (if_pos ⟨h1, Nat.le_of_lt_succ d.2, hs⟩), rfl, (steady_syn _ _).trans hst, ?_, ?_⟩
    · exact (congrArg Dpll.goal (steady_dpll _ _)).trans hg
    · exact (congrArg Dpll.fchkOk (steady_dpll _ _)).trans hk
  · intro h1 hr hp ht
    have hg : (SMap.get (s.chip.rampEntry d 0).steady.dplls d).gen = entryOf s.chip d 0 (s.chip.dpll d).gen :=
      (congrArg Dpll.gen (steady_dpll _ _)).trans (rampEntry_gen _ _ _)
    exact ⟨_, exec_next (g := Chip.rampStart d) rfl (if_pos ⟨h1, Nat.le_of_lt_succ d.2, hr, hp, ht⟩), rfl, congrArg Gen.prof hg, congrArg Gen.target hg,
      congrArg Gen.reached hg⟩
  · intro k h hp hh ht hr
    have hn := rampNext_over d.2 hp hh ht hr
    have hg : ∀ n, (SMap.get (s.chip.rampEntry d n).steady.dplls d).gen = entryOf s.chip d n (s.chip.dpll d).gen := fun n =>
      (congrArg Dpll.gen (steady_dpll _ _)).trans (rampEntry_gen _ _ _)
    refine ⟨_, exec_next (g := Chip.rampNext d) rfl hn, rfl, fun hk => ?_, fun hk hl => ?_, fun hk hl => ?_⟩
    · dsimp only
      rw [if_pos hk, hg]
      exact ⟨rfl, rfl⟩
    · dsimp only
      rw [if_neg (Nat.not_lt.2 hk), if_pos hl, hg]
      exact ⟨rfl, rfl⟩
    · dsimp only
      rw [if_neg (Nat.not_lt.2 hk), if_neg (by rw [hl]; decide), steady_dpll, updGen_dpll]
      exact ⟨rfl, rfl⟩
  · intro a g w l h1 hr ha
    have hg : (SMap.get (s.chip.updGen d fun x => ({ x with reqs := l }).aim g w).steady.dplls d).gen = ({ (s.chip.dpll d).gen with reqs := l }).aim g w :=
      (congrArg Dpll.gen (steady_dpll _ _)).trans (updGen_dpll _ _ _)
    exact ⟨_, exec_next (g := Chip.targetStart d) rfl (targetStart_due h1 d.2 hr ha), rfl, congrArg Gen.target hg, congrArg Gen.slew hg, congrArg Gen.reqs hg⟩
  · intro q a l hq
    refine ⟨_, exec_next (g := Chip.encEdge d) rfl (encEdge_oldest hq), rfl, ?_, rfl, fun o ho hr hl hf hv => ?_⟩
    · dsimp only
      rw [steady_dpll, encDrive_dplls, updGen_dpll]
    · dsimp only
      rw [Chip.steady_outs]
      exact encDrive_pin a ho hr hl hf hv
  · intro o edge y hy hw hm ht hs
    subst hy
    exact ⟨_, exec_next (g := Chip.ckoRestart o edge) rfl (ckoRestart_due edge hw hm ht hs), rfl, rfl⟩

end Sys2Proof.Loops
end

section
/-! PROOFS. References and selectors (R235, R244). -/

namespace Sys2Proof.References
open Sys2Proof.Machine Sys2Proof.Laws

/-- A reference input with its signal and its window open, noted as healthy since reset, held after a refused jump. -/
def heldReference : Chip :=
  let c := ((State.reset.chip.wr Reg.REF_CFG_RANK 1 0).flag Reg.RPHM_STATUS_LOS false 0).wr Reg.TICKS (2 ^ 50)
  ({ c with tdc := SMap.set c.tdc 1024 true } : Chip).updRef 0 fun r => { r with healthy := true, winOn := true, jump := true }

theorem heldReference_scan : ((heldReference.refScan 0).ref 0).qual = false := by decide +kernel

/-- Refutes O50: a reference held under R244 (`Ref.jump`) is not healthy and is disqualified at its next look, where the statement has it qualified once its
wait has passed; it asks only that its signal be sound and that it lie within the hard limits. -/
theorem not_selectorsAndReferences : ¬ Obligations.SelectorsAndReferences := by
  intro h
  obtain ⟨-, -, href, -⟩ := h { chip := heldReference, pending := [] }
  obtain ⟨hq, -⟩ := href 0 _ rfl (by decide +kernel) (by decide +kernel)
  obtain ⟨t, hx, -, ht⟩ := hq (by decide +kernel) (by decide +kernel) (by decide +kernel) (by decide +kernel) (by decide +kernel) (by decide +kernel)
  have hs : t = { chip := (heldReference.refScan 0).showRefs.steady, pending := [] } := (Host.Outcome.next.inj hx).symm
  have hqual : (SMap.get (heldReference.refScan 0).showRefs.steady.car.refs 0).qual = true := by
    rw [hs] at ht
    exact congrArg Ref.qual ht
  rw [Chip.steady_car, showRefs_refs] at hqual
  exact absurd (hqual.symm.trans heldReference_scan) (by decide)

end Sys2Proof.References
end

section
/-! PROOFS. PTP and ESMC messages (R228 to R232, R247). -/

namespace Sys2Proof.Synchronisation
open Sys2Proof.Machine Sys2Proof.Laws

theorem port_small (p : Fin 512) : ¬ 512 ≤ p.val := Nat.not_le.2 p.2

/-! ### Messages taken (R227, R228) -/

section
variable {c : Chip} {cls : Nat} {f : Frame} {k : Nat} {p : Fin 512} (ht : c.trapFirst cls (fun f => f.trapKey.ptp.isSome) = some (f, k)) (hp : f.port = p.val)
  (hr : c.ptpRole p ≠ 0)
include ht hp hr

theorem ptpProcess_foreign
    (hb : ptpKnown.contains (natAt (f.trapBody.drop f.trapKey.ptpAt) 0 1 % 16) = false ∨
      natAt (f.trapBody.drop f.trapKey.ptpAt) 4 1 ≠ c.msgDomain p (natAt (f.trapBody.drop f.trapKey.ptpAt) 0 1 % 16)) :
    c.ptpProcess cls = (c.dropTgt f.id k).incSat Reg.PTP_PORT_STATUS_FOREIGN 1 p := by
  have h512 : ¬ p.val = 512 := by omega
  unfold Chip.ptpProcess
  rw [ht]
  dsimp only
  rw [hp, if_neg h512, if_neg hr]
  refine if_pos (hb.imp (fun h => ?_) id)
  rw [h]
  rfl

theorem ptpProcess_accepted (hk : ptpKnown.contains (natAt (f.trapBody.drop f.trapKey.ptpAt) 0 1 % 16) = true)
    (hd : natAt (f.trapBody.drop f.trapKey.ptpAt) 4 1 = c.msgDomain p (natAt (f.trapBody.drop f.trapKey.ptpAt) 0 1 % 16))
    (hi : c.instOn (c.ptpInst p) = true) (hlen : natAt (f.trapBody.drop f.trapKey.ptpAt) 2 2 ≤ (f.trapBody.drop f.trapKey.ptpAt).length)
    (h44 : 44 ≤ natAt (f.trapBody.drop f.trapKey.ptpAt) 2 2) :
    c.ptpProcess cls = (c.dropTgt f.id k).ptpMsg p (f.trapBody.drop f.trapKey.ptpAt) f.stamp f.cont := by
  have h512 : ¬ p.val = 512 := by omega
  unfold Chip.ptpProcess
  rw [ht]
  dsimp only
  rw [hp, if_neg h512, if_neg hr, hk, hi]
  refine (if_neg ?_).trans (if_neg ?_)
  · rintro (h | h)
    · exact absurd h (by decide)
    · exact h hd
  · rintro (h | h | h)
    · exact absurd h (by decide)
    · exact absurd hlen (Nat.not_le.2 h)
    · exact absurd h44 (Nat.not_le.2 h)

end

/-! ### Messages sent (R228 to R232) -/

section
variable {c : Chip} {p : Fin 512} {i : Nat} {x : PtpPort} (hi : i = c.ptpInst p) (hx : x = c.ptpPort p) (hon : c.instOn i = true)
include hi hx hon

theorem syncSend_due (hs : c.rd Reg.PTP_PORT_STATUS_PORT_STATE p = 6) (hm : c.instMute i = false) (hh : c.hushed p x.askSync = false) (ht : x.syncAt ≤ c.now) :
    c.syncSend p =
      let two := c.on Reg.PTP_PORT_CFG_TWO_STEP p && !c.twinPort p
      let tlv := if c.profile i = 3 then followTlv (c.followInfo i) else []
      let c2 := (c.updPtp p fun x => { x with syncAt := c.now + logTime (c.logSync p), seqS := (x.seqS + 1) % 65536 }).sendMsg p 0
        (if two then 0x200 else 0) 0 x.seqS 0 (c.logSync p) (bytesOfNat 10 0 ++ (if two then [] else tlv))
      if two then c2.sendMsg p 8 0 0 x.seqS 2 (c.logSync p) (bytesOfNat 10 0 ++ tlv) else c2 := by
  subst hi hx
  refine if_neg ?_
  rw [hs, hon, hm, hh]
  simp only [port_small p, Nat.not_lt.2 ht, ne_eq, not_true, Bool.not_true, Bool.false_eq_true, or_self, not_false_eq_true]

/-- The body of an Announce: what its clock announces. -/
def announceBody (c : Chip) (i : Nat) : Bytes :=
  bytesOfNat 10 0 ++ bytesOfNat 2 (bitsOf (c.instAnn i).props 8 16) ++ bytesOfNat 1 0 ++ bytesOfNat 1 (bitsOf (c.instAnn i).gm 104 8) ++
    bytesOfNat 4 (bitsOf (c.instAnn i).gm 72 32) ++ bytesOfNat 1 (bitsOf (c.instAnn i).gm 64 8) ++ bytesOfNat 8 (c.instAnn i).gm ++
    bytesOfNat 2 (c.instAnn i).steps ++ bytesOfNat 1 (bitsOf (c.instAnn i).props 0 8) ++
    (if c.profile i = 3 then
      bytesOfNat 2 8 ++ bytesOfNat 2 (8 * ((c.instAnn i).path ++ [c.clockId]).length) ++ ((c.instAnn i).path ++ [c.clockId]).flatMap (bytesOfNat 8) else [])

theorem announceSend_due (hs : c.rd Reg.PTP_PORT_STATUS_PORT_STATE p = 6) (hm : c.instMute i = false) (hh : c.hushed p x.askAnn = false)
    (ht : x.annSendAt ≤ c.now) :
    c.announceSend p = ((c.updPtp p fun x => { x with annSendAt := c.now + logTime (c.logAnn p) }).updPtp p fun x =>
      { x with seqA := (x.seqA + 1) % 65536 }).sendWith p 11 (bitsOf (c.instAnn i).props 24 8) 0 x.seqA 5 (c.logAnn p) (announceBody c i) := by
  subst hi hx
  unfold Chip.announceSend
  simp only [hs, hon, hm, hh, port_small p, Nat.not_lt.2 ht, BEq.rfl, Bool.or_true, Bool.not_true, Bool.false_eq_true, and_false, or_self, if_false,
    Nat.reduceEqDiff]
  rfl

section
variable (hr : c.ptpRole p ≠ 0) (hl : c.linkUp p = true) (hh : c.hushed p x.askDelay = false) (ht : x.delayAt ≤ c.now)
include hr hl hh ht

theorem delaySend_end (hd : c.ptpDelay p = 0) (hs : c.rd Reg.PTP_PORT_STATUS_PORT_STATE p = 9) :
    c.delaySend p = (c.updPtp p fun y => { y with delayAt := c.now + logTime (c.logDelay p), seqD := (x.seqD + 1) % 65536, dseq := some x.seqD }).sendMsg
      p 1 0 0 x.seqD 1 (c.logDelay p) (bytesOfNat 10 0) := by
  subst hi hx
  unfold Chip.delaySend
  simp only [hs, hon, hl, hh, hr, hd, port_small p, Nat.not_lt.2 ht, Bool.not_true, Bool.false_eq_true, ne_eq, not_true, and_false, or_self, if_false, if_true]

theorem delaySend_peer (hd : c.ptpDelay p ≠ 0) (hs : x.peer.state = 0) :
    c.delaySend p = (c.updPtp p fun y => { y with
        delayAt := c.now + logTime (c.logDelay p), seqD := (x.seqD + 1) % 65536, peer := { y.peer with seq := x.seqD, state := 1, lost := 0 } }).sendMsg
      p 2 0 0 x.seqD 5 (c.logDelay p) (bytesOfNat 20 0) := by
  subst hi hx
  unfold Chip.delaySend
  simp only [hon, hl, hh, hr, hd, hs, port_small p, Nat.not_lt.2 ht, Bool.not_true, Bool.false_eq_true, or_self, if_false, if_true]
  rfl

end
end

/-! ### Announce timeouts (R230, R231) -/

theorem annTimeout_due {c : Chip} {p : Fin 512} (hr : c.ptpRole p ≠ 0) (hs : c.rd Reg.PTP_PORT_STATUS_PORT_STATE p = 9)
    (ht : (c.ptpPort p).annAt + c.annWait p ≤ c.now) (hl : (c.ptpPort p).annLost = false) :
    c.annTimeout p = (((c.updPtp p fun x => { x with
        anns := x.anns.filter fun a => decide (c.now < a.at_ + c.annWait p), annLost := true, annOut := true }).flag
      Reg.PTP_PORT_STATUS_ANN_TIMEOUT true p).notify Nt.ANN_TIMEOUT Cls.PORT p 0x55).runBmca (c.ptpInst p) := by
  unfold Chip.annTimeout
  simp only [hs, hr, hl, port_small p, Nat.not_lt.2 ht, BEq.rfl, Bool.or_true, Bool.not_true, Bool.false_eq_true, or_self, if_false, Nat.reduceEqDiff]
  rfl

/-! ### ESMC (R247) -/

theorem updEsmc_esmc (c : Chip) (p : Nat) (f : Esmc → Esmc) : SMap.get (c.updEsmc p f).car.esmc p = f (SMap.get c.car.esmc p) := SMap.get_upd_same _ _ _

/-- The quality level of a PDU shown at its port. -/
def qlShown (c x : Chip) (p q : Nat) : Chip :=
  ((x.wr Reg.ESMC_STATUS_QL_RX q p).flag Reg.ESMC_STATUS_ESMC_SEEN true p).updEsmc p fun e => { e with rxAt := c.now, late := false }

theorem esmcRx_taken {c : Chip} {cls : Nat} {f : Frame} {k : Nat} {p : Fin 512} (ht : c.trapFirst cls (fun f => f.trapKey.esmc) = some (f, k)) (hp : f.port = p.val)
    (hr : (c.portRef p).isSome = true) (h1 : natAt f.trapBody 18 2 = 1) (h2 : natAt f.trapBody 24 1 = 1) :
    c.esmcRx cls = if c.rd Reg.ESMC_STATUS_QL_RX p = natAt f.trapBody 27 1 % 16 then qlShown c ((c.dropTgt f.id k).hostCopy f cls) p (natAt f.trapBody 27 1 % 16)
      else (qlShown c ((c.dropTgt f.id k).hostCopy f cls) p (natAt f.trapBody 27 1 % 16)).notify Nt.QL_CHANGE Cls.PORT p 0x56 := by
  obtain ⟨n, hn⟩ := Option.isSome_iff_exists.1 hr
  have h512 : ¬ p.val = 512 := by omega
  unfold Chip.esmcRx
  rw [ht]
  simp only [hp, hn, h1, h2, h512, Option.isNone_some, Bool.false_eq_true, ne_eq, not_true, or_self, if_false]
  rfl

/-- The quality level stands whether or not its change is notified. -/
theorem qlShown_steady (c x : Chip) (p q : Nat) (hq : q < 16) (b : Prop) [Decidable b] :
    let d := (if b then qlShown c x p q else (qlShown c x p q).notify Nt.QL_CHANGE Cls.PORT p 0x56).steady
    d.rd Reg.ESMC_STATUS_QL_RX p = q ∧ d.on Reg.ESMC_STATUS_ESMC_SEEN p = true ∧ (SMap.get d.car.esmc p).late = false := by
  have hrd : (qlShown c x p q).rd Reg.ESMC_STATUS_QL_RX p = q :=
    (Chip.rd_flag_id (x.wr Reg.ESMC_STATUS_QL_RX q p) _ _ _ _ _ (by decide)).trans (Chip.rd_wr_fits x Reg.ESMC_STATUS_QL_RX p 0 hq)
  have hon : (qlShown c x p q).on Reg.ESMC_STATUS_ESMC_SEEN p = true := Chip.on_flag_same (F := Reg.ESMC_STATUS_ESMC_SEEN) (x.wr Reg.ESMC_STATUS_QL_RX q p) _ _ _ rfl
  have he : SMap.get (qlShown c x p q).car.esmc p = _ := updEsmc_esmc ((x.wr Reg.ESMC_STATUS_QL_RX q p).flag Reg.ESMC_STATUS_ESMC_SEEN true p) p _
  dsimp only
  rw [Chip.steady_rd _ _ _ _ (by decide), Chip.steady_on _ _ _ _ (by decide), Chip.steady_car]
  split
  · exact ⟨hrd, hon, by rw [he]⟩
  · rw [Chip.notify_rd _ _ _ _ _ _ _ _ _ (by decide) (by decide), Chip.notify_on _ _ _ _ _ _ _ _ _ (by decide) (by decide),
      (Chip.notify_reported (own := fun _ => False) ..).car]
    exact ⟨hrd, hon, by rw [he]⟩

theorem qlTimeout_late {c : Chip} {p : Fin 512} (hr : (c.portRef p).isSome = true) (hl : (SMap.get c.car.esmc p).late = false)
    (ht : (SMap.get c.car.esmc p).rxAt + unitsS 5 ≤ c.now) :
    c.qlTimeout p = ((c.flag Reg.ESMC_STATUS_QL_TIMEOUT true p).updEsmc p fun e => { e with late := true }).notify Nt.QL_CHANGE Cls.PORT p 0x56 := by
  obtain ⟨n, hn⟩ := Option.isSome_iff_exists.1 hr
  unfold Chip.qlTimeout
  simp only [hn, hl, port_small p, Nat.not_lt.2 ht, Option.isNone_some, Bool.false_eq_true, or_self, if_false]

theorem esmcSend_due {c : Chip} {p : Fin 512} {e : Esmc} (he : e = SMap.get c.car.esmc p) (ho : c.on Reg.PORT_CFG_SYNCE_TX p = true) (hl : c.linkUp p = true)
    (ht : e.evDue = true ∨ e.txAt + unitsS 1 ≤ c.now) :
    c.esmcSend p = (c.updEsmc p fun e => { e with evDue := false, txAt := if e.evDue then e.txAt else c.now }).ownFrame p 7
      (c.wrapOwn p (ethFrame 0x0180C2000002 (c.rd Reg.DEV_MAC) none 0x8809 (esmcPdu e.evDue (c.rd Reg.ESMC_STATUS_QL_TX p)))) := by
  subst he
  refine if_neg ?_
  rw [ho, hl]
  rintro (h | h | h | ⟨h1, h2⟩)
  · exact port_small p h
  · exact absurd h (by decide)
  · exact absurd h (by decide)
  · rcases ht with h | h
    · rw [h] at h1
      exact absurd h1 (by decide)
    · exact absurd h2 (Nat.not_lt.2 h)

/-! ### The obligation -/

/-- Settles O51: each message by the equation of its meaning where the conditions hold. -/
theorem synchronisationMessages : Obligations.SynchronisationMessages := by
  unfold Obligations.SynchronisationMessages
  intro p s i x e hi hx he
  refine ⟨?_, ?_, ?_, ?_, ?_, ?_, ?_, ?_⟩
  · intro cls f k b ht hb hp hr
    subst hb
    refine ⟨fun h => ?_, fun hk hd hon hlen h44 => ?_⟩
    · exact ⟨_, exec_next (g := Chip.ptpProcess cls) rfl (ptpProcess_foreign ht hp hr h), rfl, rfl⟩
    · subst hi
      exact ⟨_, exec_next (g := Chip.ptpProcess cls) rfl (ptpProcess_accepted ht hp hr hk hd hon hlen h44), rfl, rfl⟩
  · intro two l tlv c1 c2 hs hon hm hh ht htwo hl htlv h1 h2
    subst htwo hl htlv h1 h2
    exact ⟨_, exec_next (g := Chip.syncSend p) rfl (syncSend_due hi hx hon hs hm hh ht), rfl, rfl⟩
  · intro l path a c1 hs hon hm hh ht hl ha hpath h1
    refine ⟨_, exec_next (g := Chip.announceSend p) rfl (announceSend_due hi hx hon hs hm hh ht), rfl, ?_⟩
    rw [h1, hpath, ha, hl]
    rfl
  · intro l hr hon hlink hh ht hl
    subst hl
    refine ⟨fun hd hs => ?_, fun c1 hd hs h1 => ?_⟩
    · exact ⟨_, exec_next (g := Chip.delaySend p) rfl (delaySend_end hi hx hon hr hlink hh ht hd hs), rfl, rfl⟩
    · subst h1
      exact ⟨_, exec_next (g := Chip.delaySend p) rfl (delaySend_peer hi hx hon hr hlink hh ht hd hs), rfl, rfl⟩
  · intro c1 hr hs ht hl h1
    subst h1 hi hx
    exact ⟨_, exec_next (g := Chip.annTimeout p) rfl (annTimeout_due hr hs ht hl), rfl, rfl⟩
  · intro cls f k q c1 ht hp h1 hr h18 h24 hq
    subst h1 hq
    obtain ⟨hrd, hon, hlate⟩ := qlShown_steady s.chip ((s.chip.dropTgt f.id k).hostCopy f cls) p (natAt f.trapBody 27 1 % 16) (Nat.mod_lt _ (by decide))
      (s.chip.rd Reg.ESMC_STATUS_QL_RX p = natAt f.trapBody 27 1 % 16)
    exact ⟨_, exec_next (g := Chip.esmcRx cls) rfl (esmcRx_taken ht hp hr h18 h24), rfl, hrd, hon, hlate⟩
  · intro hr hl ht
    subst he
    refine ⟨_, exec_next (g := Chip.qlTimeout p) rfl (qlTimeout_late hr hl ht), rfl, ?_, ?_⟩
    · exact (Chip.steady_on _ _ _ _ (by decide)).trans ((Chip.notify_on _ _ _ _ _ _ _ _ _ (by decide) (by decide)).trans
        (Chip.on_flag_same (F := Reg.ESMC_STATUS_QL_TIMEOUT) s.chip _ _ _ rfl))
    · dsimp only
      rw [Chip.steady_car, (Chip.notify_reported (own := fun _ => False) ..).car, updEsmc_esmc]
  · intro ho hl ht
    exact ⟨_, exec_next (g := Chip.esmcSend p) rfl (esmcSend_due he ho hl ht), rfl, rfl⟩

end Sys2Proof.Synchronisation
end

section
/-! PROOFS. A cycle from its trigger to its fence (R256 to R258, R262 to R264, R266, R277, R293, R341). -/

namespace Sys2Proof.Cycles
open Sys2Proof.Machine Sys2Proof.Laws

/-! ### Triggers, overruns and deadlines (R256, R258, R262) -/

section
variable {c x : Chip} {d : Nat} (hc : c.cycDue d = true) (hx : x = c.commitDue d) (hd : x.cycDue d = true)
include hc hx hd

theorem cycTrigger_due : c.cycTrigger d = ((if (x.dom d).busy then x.overrun d else x.takeTrigger d).thawEnd).settleWaits := by
  subst hx
  unfold Chip.cycTrigger Chip.trigger
  rw [hc, hd]
  rfl

theorem cycTrigger_takes (hb : (x.dom d).busy = false) : c.cycTrigger d = ((x.takeTrigger d).thawEnd).settleWaits := by
  rw [cycTrigger_due hc hx hd, hb]
  rfl

theorem cycTrigger_overruns (hb : (x.dom d).busy = true) : c.cycTrigger d = ((x.overrun d).thawEnd).settleWaits := by
  rw [cycTrigger_due hc hx hd, hb]
  rfl

end

theorem gatherDeadline_come {c : Chip} {d : Nat} (hr : (c.dom d).ran = true) (hl : (c.dom d).late = false)
    (ht : (c.dom d).tk + (((c.dom d).dIn * 65536 : Nat) : Int) ≤ c.tb16) : c.gatherDeadline d = c.closeInputs d := by
  unfold Chip.gatherDeadline
  simp only [hr, hl, decide_eq_false (Int.not_lt.2 ht), Bool.not_true, Bool.or_self, Bool.false_eq_true, if_false]

/-! ### Waits and the end of a program (R256, R277, R293) -/

/-- The engine once the word it waits for is tagged. -/
def wordTaken (c : Chip) (d : Desc) (a : Nat) (x : Eng) : Eng := (x.save none (some a)).takeWord d (c.cycWord a) true true

theorem setEngState_state (c : Chip) (e : Nat) {n : Nat} (h : n < 8) : (c.setEngState e n).engState e = n :=
  Chip.rd_wr_fits c Reg.ENG_STATUS_STATE (256 + e) 0 h

/-- A waiting engine that runs again. -/
theorem runs_again (c : Chip) (e : Nat) : (c.setEngState e 2).engState e ≠ 6 := by
  rw [setEngState_state c e (by decide)]
  decide

theorem resume_tagged {c : Chip} {e : Nat} {d : Desc} {a : Nat} (hf : descFault 0x11 d = none) (ha : a = cycAddr d.addr)
    (hw : (c.eng e).wait = some (0x11, d)) (hh : (c.setEngState e 2).bankHeld a = false) (hr : (c.setEngState e 2).seqReady e a = 1) :
    c.resume e = (c.setEngState e 2).engReg e 0x11 d (wordTaken c d a) := by
  have hres : c.resume e = (c.setEngState e 2).opWaitseq e d := by
    unfold Chip.resume
    rw [hw]
    rfl
  refine hres.trans (Chip.engOp_reg _ _ _ _ _ _ (runs_again c e) hf ?_)
  dsimp only
  rw [← ha, hh, hr, Chip.updEng_updEng]
  rfl

theorem wordTaken_pc (c : Chip) (d : Desc) (a : Nat) (x : Eng) : (wordTaken c d a x).pc = x.pc := Eng.takeWord_pc (x.save none (some a)) _ _ _ _

/-! ### The fence (R264, R341) -/

/-- The domain's registers at its fence. -/
def fenced (c : Chip) (d ns : Nat) : Chip :=
  ((c.wr Reg.CD_FENCE_LAST (satU 32 ns) d).peak Reg.CD_FENCE_MAX ns d).updDom d fun x => { x with busy := false }

/-- The outputs of a domain's engines sent, and the engines idle. -/
def released (c : Chip) (d : Nat) : Chip :=
  let mine := (List.range 64).filter fun e => (c.eng e).dom == some d && c.engState e != 6
  (c.each mine fun e c => (c.eng e).outs.foldl (fun c o => c.release d e o.2) c).each mine
    fun e c => (c.updEng e fun x => { x with outs := [], saves := [], wrote := [] }).setEngState e 1

/-- The block with its fence open. -/
def fenceOpened (c : Chip) (d ns : Nat) : Chip :=
  if (released (fenced c d ns) d).cdState d = 3 then ((released (fenced c d ns) d).setCdState d 0).releaseEngines d else released (fenced c d ns) d

theorem fence_ready {c : Chip} {d : Nat} (h : c.fenceReady d = true) :
    c.fence d = fenceOpened c d (((c.tb16 : Int) - (c.dom d).tk) / 65536).toNat := by
  unfold Chip.fence
  rw [h]
  rfl

theorem fenceOpen_ready {c z : Chip} {d : Nat} (h : c.fenceReady d = true) (hz : c.fence d = z) :
    c.fenceOpen d = if z.pairOn ∧ ((c.dom d).snapAt + unitsMs (c.rd Reg.CKPT_CFG_CKPT_MS) ≤ c.now ∨ z.handoverNear) then
      (z.ckSend 5 (z.snapRecs d)).updDom d fun x => { x with snapAt := c.now } else z := by
  unfold Chip.fenceOpen
  rw [h, hz]
  rfl

theorem scatterEnqueue_next {c : Chip} {k : Nat} {y : Scat} {l : List Scat} (h : SMap.get c.drum.scat k = y :: l) :
    c.scatterEnqueue k = (({ c with drum := { c.drum with scat := SMap.set c.drum.scat k l } } : Chip).sendOwn .scatter .scatter (66 + k) y.port y.cls y.body
      y.launch y.tag).getD (({ c with drum := { c.drum with scat := SMap.set c.drum.scat k l } } : Chip).count Ev.SCATTER_NOCELL y.dom) := by
  unfold Chip.scatterEnqueue
  rw [h]

/-! ### The obligation -/

/-- Settles O57: each event by the equation of its meaning where the conditions hold. -/
theorem cycleOfADomain : Obligations.CycleOfADomain := by
  unfold Obligations.CycleOfADomain
  intro s
  refine ⟨?_, ?_, ?_, ?_, ?_, ?_⟩
  · intro d x hc hx hd
    refine ⟨fun hb => ?_, fun hb => ?_⟩
    · exact ⟨_, exec_next (g := Chip.cycTrigger d) rfl (cycTrigger_takes hc hx hd hb), rfl, rfl⟩
    · exact ⟨_, exec_next (g := Chip.cycTrigger d) rfl (cycTrigger_overruns hc hx hd hb), rfl, rfl⟩
  · intro d hr hl ht
    exact ⟨_, exec_next (g := Chip.gatherDeadline d) rfl (gatherDeadline_come hr hl ht), rfl, rfl⟩
  · intro e d c1 a hs hw hf ha h1 hh hr
    subst h1
    have hrun : s.chip.waitseqResume e = (s.chip.setEngState e 2).engReg e 0x11 d (wordTaken s.chip d a) :=
      (if_pos hs).trans (resume_tagged hf ha hw hh hr)
    obtain ⟨heng, -, -, -, -, hrd, -⟩ := Chip.engReg_done (s.chip.setEngState e 2) e 0x11 d (wordTaken s.chip d a) (runs_again s.chip e) hf (wordTaken_pc _ _ _ _)
    have hstate : ((s.chip.setEngState e 2).engReg e 0x11 d (wordTaken s.chip d a)).steady.engState e = (s.chip.setEngState e 2).engState e :=
      hrd Reg.ENG_STATUS_STATE (256 + e) 0 (by decide)
    refine ⟨_, exec_next (g := Chip.waitseqResume e) rfl hrun, rfl, ?_, ?_⟩
    · exact hstate.trans (setEngState_state s.chip e (by decide))
    · exact heng
  · intro e hs
    refine ⟨fun hp => ?_, fun w hw => ?_⟩
    · refine ⟨_, exec_next (g := Chip.programEnd e) rfl (runProgram_end e 1024 s.chip hs hp), rfl, ?_, steady_eng _ _⟩
      exact (Chip.steady_rd _ _ _ _ (by decide)).trans (setEngState_state s.chip e (by decide))
    · exact ⟨_, exec_next (g := Chip.programEnd e) rfl (runProgram_step e 1024 w s.chip hs hw), rfl, rfl⟩
  · intro d ns c1 c2 c3 z mine hr hns h1 hm h2 h3 hz
    have hf : s.chip.fence d = z := by
      rw [fence_ready hr, hz, h3, h2, hm, h1, hns]
      rfl
    exact ⟨_, exec_next (g := Chip.fenceOpen d) rfl (fenceOpen_ready hr hf), rfl, rfl⟩
  · intro k y l x hk hx
    subst hx
    exact ⟨_, exec_next (g := Chip.scatterEnqueue k) rfl (scatterEnqueue_next hk), rfl, rfl⟩

end Sys2Proof.Cycles
end

section
/-! PROOFS. Fabric links, records, routes, credit and coalescing (R319 to R323, R325, R326, R329). -/

namespace Sys2Proof.Fabric
open Sys2Proof.Machine Sys2Proof.Laws

/-! ### Hellos (R319) -/

theorem fabHelloSend_due {c : Chip} {p : Nat} (hp : c.fabPort p = true) (hl : c.linkUp p = true)
    (ht : (c.hello p).sent = false ∨ (c.hello p).sentAt + c.helloTime ≤ c.now) :
    c.fabHelloSend p = (c.updHello p fun h => { h with sent := true, sentAt := c.now }).ownFrame p 7 (zidFrame (zidOwn 1 1 7) (c.helloPayload p)) := by
  refine if_pos ?_
  rw [hp, hl]
  rcases ht with h | h
  · rw [h]
    rfl
  · rw [decide_eq_true h, Bool.or_true]
    rfl

/-- Whether a hello qualifies its port (R319). -/
def qualifies (c : Chip) (v : Nat) : Bool :=
  Lay.HEL_FABRIC_ID.get v == c.rd Reg.FAB_CFG_FABRIC_ID && Lay.HEL_HELLO_MS.get v == c.rd Reg.FAB_CFG_HELLO_MS && Lay.HEL_HEARD.get v == 1 &&
    Lay.HEL_HEARD_SERIAL.get v == c.serial

/-- The block with a hello's content taken over, its port without electrical idle. -/
def helloTaken (c : Chip) (p v : Nat) : Chip :=
  ((((c.updHello p fun h => { h with
      heard := true, heardAt := c.now, good := (if qualifies c v then h.good + 1 else 0), serial := Lay.HEL_SERIAL.get v, credit := Lay.HEL_CREDIT.get v == 1 }).updPort p
    fun y => { y with peerEidle := Lay.HEL_EIDLE_EN.get v == 1, peerAt := c.now }).wr Reg.FAB_PORT_STATUS_PEER_ID (Lay.HEL_DEV_ID.get v) p).wr
    Reg.FAB_PORT_STATUS_PEER_PORT (Lay.HEL_SEND_PORT.get v) p)

theorem fabHelloRx_taken {c : Chip} {p : Nat} {b : Bytes} (hp : c.fabPort p = true) (hl : c.linkUp p = true) (he : c.on Reg.PORT_CFG_EIDLE_EN p = false) :
    c.fabHelloRx p b =
      let v := natAt b 0 32
      let c2 := helloTaken c p v
      if c2.isoCause v ≠ 0 then c2.setFabLink p 3 (c2.isoCause v)
      else if c2.rd Reg.FAB_PORT_STATUS_LINK p = 3 ∨ c2.rd Reg.FAB_PORT_STATUS_LINK p = 0 then
        (c2.updHello p fun h => { h with good := if qualifies c v then 1 else 0 }).setFabLink p 1 0
      else if c2.rd Reg.FAB_PORT_STATUS_LINK p ≠ 2 ∧ 3 ≤ (c2.hello p).good then c2.setFabLink p 2 0
      else c2 := by
  have he' : ((c.updHello p fun h => { h with
      heard := true, heardAt := c.now, good := (if qualifies c (natAt b 0 32) then h.good + 1 else 0), serial := Lay.HEL_SERIAL.get (natAt b 0 32)
      credit := Lay.HEL_CREDIT.get (natAt b 0 32) == 1 }).updPort p
    fun y => { y with peerEidle := Lay.HEL_EIDLE_EN.get (natAt b 0 32) == 1, peerAt := c.now }).on Reg.PORT_CFG_EIDLE_EN p = false := he
  unfold qualifies at he'
  unfold Chip.fabHelloRx helloTaken qualifies
  simp only [hp, hl, he', Bool.and_self, Bool.not_true, Bool.false_eq_true, if_false]

theorem fabHelloTimeout_silent {c : Chip} {p : Nat} (hp : c.fabPort p = true) (hl : c.rd Reg.FAB_PORT_STATUS_LINK p ≠ 0)
    (ht : (c.hello p).heardAt + 3 * c.helloTime ≤ c.now) :
    c.fabHelloTimeout p = (c.updHello p fun h => { h with heard := false, good := 0 }).setFabLink p 0 0 := by
  refine if_pos ?_
  rw [hp, decide_eq_true ht, bne_iff_ne.2 hl]
  rfl

/-- The registers of a port whose link is put down. -/
def linkCleared (c : Chip) (p : Nat) : Chip :=
  (((c.wr Reg.FAB_PORT_STATUS_LINK 0 p).wr Reg.FAB_PORT_STATUS_ISO_CAUSE 0 p).wr Reg.FAB_PORT_STATUS_PEER_ID 0 p).wr Reg.FAB_PORT_STATUS_PEER_PORT 0 p

theorem coal_rd (c : Chip) (x : Coal) (F : Fld) (i e : Nat) : ({ c with coal := x } : Chip).rd F i e = c.rd F i e := rfl

/-- A link put down shows no partner, whether or not it had been UP. -/
theorem setFabLink_down (c : Chip) (p : Nat) (F : Fld) (h1 : F.id ∉ reportIds) (h2 : F.id ∉ steadyIds) :
    (c.setFabLink p 0 0).rd F p = (linkCleared c p).rd F p := by
  have hv : ¬ ((0 : Nat) = 2 ∧ c.rd Reg.FAB_PORT_STATUS_LINK p ≠ 2) := by omega
  have h3 : ¬ ((0 : Nat) = 3) := by omega
  unfold Chip.setFabLink linkCleared
  dsimp only
  rw [if_neg hv, if_pos rfl, if_neg h3]
  generalize ((c.wr Reg.FAB_PORT_STATUS_LINK 0 p).wr Reg.FAB_PORT_STATUS_ISO_CAUSE 0 p).wr Reg.FAB_PORT_STATUS_PEER_ID 0 p = d
  generalize d.wr Reg.FAB_PORT_STATUS_PEER_PORT 0 p = x
  split
  · rw [coal_rd]
    exact Chip.notify_rd x _ _ _ _ _ F p 0 h1 h2
  · rfl

theorem linkCleared_shows (c : Chip) (p : Nat) :
    (linkCleared c p).rd Reg.FAB_PORT_STATUS_LINK p = 0 ∧ (linkCleared c p).rd Reg.FAB_PORT_STATUS_PEER_ID p = 0 ∧
    (linkCleared c p).rd Reg.FAB_PORT_STATUS_PEER_PORT p = 0 := by
  unfold linkCleared
  refine ⟨?_, ?_, Chip.rd_wr_same _ _ _ _ _⟩
  · rw [Chip.rd_wr_id _ _ _ _ _ _ (by decide), Chip.rd_wr_id _ _ _ _ _ _ (by decide), Chip.rd_wr_id _ _ _ _ _ _ (by decide)]
    exact Chip.rd_wr_same _ _ _ _ _
  · rw [Chip.rd_wr_id _ _ _ _ _ _ (by decide)]
    exact Chip.rd_wr_same _ _ _ _ _

/-! ### Records and routes (R320 to R323) -/

/-- The record a device sends next. -/
def recordNext (c : Chip) : Chip :=
  { c with fab := { c.fab with seq := if c.fab.sent = none then 0 else (c.fab.seq + 1) % 2 ^ 32, sentAt := c.now } }

theorem fabRecordSend_due {c : Chip} (ho : c.fabOn = true) (ht : c.fab.sentAt + c.helloTime ≤ c.now) :
    c.fabRecordSend = ({ recordNext c with fab := { (recordNext c).fab with sent := some (recordNext c).ownRec } } : Chip).sendRec (recordNext c).ownRec none := by
  have hn : ¬ ((c.fab.sent.map FabRec.content) = some c.ownRec.content ∧ c.now < c.fab.sentAt + c.helloTime) := fun h => absurd ht (Nat.not_le.2 h.2)
  unfold Chip.fabRecordSend
  rw [ho, if_neg hn]
  rfl

theorem fabRecordRx_new {c : Chip} {p : Nat} {b : Bytes} (hu : c.fabUp p = true) (hs : (recOf b c.now).serial ≠ c.serial)
    (hf : c.fab.recs.find? (fun x => x.serial == (recOf b c.now).serial) = none) (hi : Lay.REC_FABRIC_ID.get (natAt b 0 32) = c.rd Reg.FAB_CFG_FABRIC_ID) :
    c.fabRecordRx p b = ({ c with fab := { c.fab with recs := (c.fab.recs.filter fun x => x.serial < (recOf b c.now).serial) ++ recOf b c.now ::
      (c.fab.recs.filter fun x => (recOf b c.now).serial < x.serial) } } : Chip).sendRec (recOf b c.now) (some p) := by
  unfold Chip.fabRecordRx
  simp only [hu, hs, hf, hi, Bool.not_true, Bool.false_eq_true, ne_eq, not_true, or_self, if_false]

/-- The block with its nodes and tree shown from a fresh graph. -/
def regraphed (c : Chip) : Chip :=
  c.lostNodes ((((({ c with fab := { c.fab with graph := c.database } } : Chip).showNodes).idConflict).tooDeep).pinsIdle).showTree

theorem regraphed_fab (c : Chip) : (regraphed c).fab = { c.fab with graph := c.database } := by
  unfold regraphed
  rw [lostNodes_fab, showTree_fab, pinsIdle_fab, tooDeep_fab, idConflict_fab, showNodes_fab]

theorem fabRecompute_on {c : Chip} (h : c.fabOn = true) : c.fabRecompute = c.rerouted (regraphed c) := by
  unfold Chip.fabRecompute
  rw [h]
  rfl

/-! ### Credit (R325, R326) -/

theorem fabCreditSend_due {c : Chip} {p : Nat} (hu : c.fabUp p = true) (hm : c.rd Reg.FC_CFG_FC_MODE p = 3) (ht : SMap.get c.path.credAt p + unitsMs 1 ≤ c.now) :
    c.fabCreditSend p = (c.updPort p fun y => { y with credDue := true }).wakePort p := if_pos ⟨hu, hm, .inr ht⟩

/-- A partner's return of one class taken over. -/
def returned (p : Nat) (b : Bytes) (k : Nat) (c : Chip) : Chip :=
  Chip.creditWait c ({ c with path := { c.path with credGot := SMap.set c.path.credGot (p * 8 + k) (natAt b (1 + 4 * k) 4) } }.showCredit p k) p k

theorem fabCreditRx_epoch {c : Chip} {p : Nat} {b : Bytes} (hu : c.fabUp p = true) (he : natAt b 0 1 = c.rd Reg.FAB_PORT_STATUS_LINK_EPOCH p) :
    c.fabCreditRx p b = c.each (List.range 8) (returned p b) := by
  unfold Chip.fabCreditRx
  rw [hu, he]
  exact if_neg (by simp)

theorem creditWait_got (o c : Chip) (p k : Nat) : (Chip.creditWait o c p k).path.credGot = c.path.credGot := by
  unfold Chip.creditWait
  split
  · split <;> rfl
  · rfl

theorem returned_got (p : Nat) (b : Bytes) (k : Nat) (c : Chip) :
    (returned p b k c).path.credGot = SMap.set c.path.credGot (p * 8 + k) (natAt b (1 + 4 * k) 4) := (creditWait_got _ _ _ _).trans rfl

/-- Each class among those taken over has the partner's count. -/
theorem returned_each (p : Nat) (b : Bytes) (l : List Nat) : ∀ (c : Chip) (k : Nat), SMap.get (c.each l (returned p b)).path.credGot (p * 8 + k) =
    if k ∈ l then natAt b (1 + 4 * k) 4 else SMap.get c.path.credGot (p * 8 + k) := by
  induction l with
  | nil => exact fun _ _ => rfl
  | cons a l ih =>
    intro c k
    refine (ih (returned p b a c) k).trans ?_
    rw [returned_got]
    by_cases hk : k ∈ l
    · rw [if_pos hk, if_pos (List.mem_cons_of_mem _ hk)]
    · rw [if_neg hk]
      by_cases ha : k = a
      · rw [ha, if_pos List.mem_cons_self, SMap.get_set_same]
      · rw [if_neg (by simp [ha, hk]), SMap.get_set_ne _ _ (by omega)]

theorem creditWatchdog_drops {c : Chip} {q id k : Nat} {f : Frame} {y : Tgt} (hh : c.head q = some (id, k)) (hf : c.frameOf id = some f) (hy : c.tgtOf id k = some y)
    (hc : c.credited y.port (q % 8) = true) (hr : f.res = 1) (hl : c.credit y.port (q % 8) < cellsOf (y.body.length + 4))
    (ht : y.headAt + unitsMs (c.rd Reg.FAB_PORT_CFG_CREDIT_WD y.port) ≤ c.now) :
    c.creditWatchdog q = (c.takeArrived.count Ev.FAB_CREDIT_WD_DROP y.port).dropTgt id k := by
  unfold Chip.creditWatchdog
  rw [hh]
  dsimp only
  rw [hf, hy]
  dsimp only
  rw [hc, hr, decide_eq_true hl, decide_eq_true ht]
  rfl

/-! ### Coalescing windows (R329) -/

section
variable {c : Chip} {ev cls : Nat} {g : CoalSig} (hg : c.coal.sigs.find? (fun g => g.event == ev && g.cls == cls) = some g) (ht : g.endsAt ≤ c.now)
include hg ht

theorem coalWindowEnd_empty (h : g.count = 0) : c.coalWindowEnd ev cls =
    { c with coal := { c.coal with sigs := c.coal.sigs.filter fun g => !(g.event == ev && g.cls == cls) } } := by
  unfold Chip.coalWindowEnd
  rw [hg]
  dsimp only
  rw [if_neg (Nat.not_lt.2 ht), if_pos h]

theorem coalWindowEnd_counts {w : Nat} {c1 : Chip} (h : 0 < g.count) (hf : (ev == Nt.COAL_FULL && cls == Cls.DEV) = false) (hw : c.takeWindow ev cls = (w, c1)) :
    c.coalWindowEnd ev cls = ({ c1 with coal := { c1.coal with
      sigs := (c.coal.sigs.filter fun g => !(g.event == ev && g.cls == cls)) ++ [{ event := ev, cls := cls, window := w, endsAt := g.endsAt + c.coalWindow }]
      merged := c.coal.merged } } : Chip).sendNotify ev cls g.firstObj g.count g.insts.length g.lastNs w g.cause := by
  unfold Chip.coalWindowEnd
  rw [hg]
  dsimp only
  rw [if_neg (Nat.not_lt.2 ht), if_neg (Nat.ne_of_gt h), hw, hf]
  rfl

end

/-! ### The obligation -/

/-- Settles O52: each event by the equation of its meaning where the conditions hold. -/
theorem fabricAndCoalescer : Obligations.FabricAndCoalescer := by
  unfold Obligations.FabricAndCoalescer
  intro s
  refine ⟨?_, ?_, ?_, ?_, ?_, ?_, ?_, ?_, ?_⟩
  · intro p hp hl
    refine ⟨fun ht => ?_, ?_⟩
    · exact ⟨_, exec_next (g := Chip.fabHelloSend p) rfl (fabHelloSend_due hp hl ht), rfl, rfl⟩
    · intro b v g ok c1 c2 hv hok h1 he h2 hg
      subst hv hok h1 hg
      have hrx := fabHelloRx_taken (b := b) hp hl he
      have h2' : helloTaken s.chip p (natAt b 0 32) = c2 := h2.symm
      dsimp only at hrx
      rw [h2'] at hrx
      refine ⟨fun hc => ?_, fun hc hk => ?_, fun hc hk h3 => ?_, fun hc hk => ?_⟩
      · exact ⟨_, exec_next (g := Chip.fabHelloRx p b) rfl (hrx.trans (if_pos hc)), rfl, rfl⟩
      · exact ⟨_, exec_next (g := Chip.fabHelloRx p b) rfl (hrx.trans ((if_neg (not_not.2 hc)).trans (if_pos hk))), rfl, rfl⟩
      · have hn : ¬ (c2.rd Reg.FAB_PORT_STATUS_LINK p = 3 ∨ c2.rd Reg.FAB_PORT_STATUS_LINK p = 0) := by omega
        have hy : c2.rd Reg.FAB_PORT_STATUS_LINK p ≠ 2 ∧ 3 ≤ (c2.hello p).good := ⟨by omega, h3⟩
        exact ⟨_, exec_next (g := Chip.fabHelloRx p b) rfl (hrx.trans ((if_neg (not_not.2 hc)).trans ((if_neg hn).trans (if_pos hy)))), rfl, rfl⟩
      · have hn : ¬ (c2.rd Reg.FAB_PORT_STATUS_LINK p = 3 ∨ c2.rd Reg.FAB_PORT_STATUS_LINK p = 0) := by omega
        have hy : ¬ (c2.rd Reg.FAB_PORT_STATUS_LINK p ≠ 2 ∧ 3 ≤ (c2.hello p).good) := by omega
        exact ⟨_, exec_next (g := Chip.fabHelloRx p b) rfl (hrx.trans ((if_neg (not_not.2 hc)).trans ((if_neg hn).trans (if_neg hy)))), rfl, rfl⟩
  · intro p hp hl ht
    obtain ⟨h0, hid, hport⟩ := linkCleared_shows (s.chip.updHello p fun h => { h with heard := false, good := 0 }) p
    refine ⟨_, exec_next (g := Chip.fabHelloTimeout p) rfl (fabHelloTimeout_silent hp hl ht), rfl, ?_, ?_, ?_⟩
    · exact ((Chip.steady_rd _ _ _ _ (by decide)).trans (setFabLink_down _ _ _ (by decide) (by decide))).trans h0
    · exact ((Chip.steady_rd _ _ _ _ (by decide)).trans (setFabLink_down _ _ _ (by decide) (by decide))).trans hid
    · exact ((Chip.steady_rd _ _ _ _ (by decide)).trans (setFabLink_down _ _ _ (by decide) (by decide))).trans hport
  · intro n c1 ho ht hn h1
    subst hn h1
    exact ⟨_, exec_next (g := Chip.fabRecordSend) rfl (fabRecordSend_due ho ht), rfl, rfl⟩
  · intro p b r hu hr hs hf hi
    subst hr
    exact ⟨_, exec_next (g := Chip.fabRecordRx p b) rfl (fabRecordRx_new hu hs hf hi), rfl, rfl⟩
  · exact ⟨_, exec_next (g := Chip.fabRecordExpire) rfl rfl, rfl, congrArg Fab.recs (Chip.steady_fab _)⟩
  · intro y ho hy
    refine ⟨_, exec_next (g := Chip.fabRecompute) rfl (fabRecompute_on ho), rfl, ?_⟩
    have hy' : regraphed s.chip = y := hy.symm
    dsimp only
    rw [Chip.steady_fab, rerouted_fab, regraphed_fab, hy']
  · intro p hu
    refine ⟨fun hm ht => ?_, fun b he => ?_⟩
    · exact ⟨_, exec_next (g := Chip.fabCreditSend p) rfl (fabCreditSend_due hu hm ht), rfl, rfl⟩
    · refine ⟨_, exec_next (g := Chip.fabCreditRx p b) rfl (fabCreditRx_epoch hu he), rfl, fun k hk => ?_⟩
      dsimp only
      rw [Chip.steady_path, returned_each, if_pos (List.mem_range.2 hk)]
  · intro q id k f y hh hf hy hc hr hl ht
    exact ⟨_, exec_next (g := Chip.creditWatchdog q) rfl (creditWatchdog_drops hh hf hy hc hr hl ht), rfl, rfl⟩
  · intro ev cls g hg ht
    refine ⟨fun h => ?_, fun w c1 h hf hw => ?_⟩
    · exact ⟨_, exec_next (g := Chip.coalWindowEnd ev cls) rfl (coalWindowEnd_empty hg ht h), rfl, congrArg (·.sigs) (Chip.steady_coal _)⟩
    · exact ⟨_, exec_next (g := Chip.coalWindowEnd ev cls) rfl (coalWindowEnd_counts hg ht h hf hw), rfl, rfl⟩

end Sys2Proof.Fabric
end

section
/-! PROOFS. A frame from its queue to its end (R101 to R103, R110 to R114, R126 to R130). -/

namespace Sys2Proof.Transmission
open Sys2Proof.Machine Sys2Proof.Laws

/-! ### A start opportunity (R110, R124) -/

section
variable {c : Chip} {p unit : Nat} {edge : Edge} (hl : c.laneOpen p = true) (hc : (c.portSt p).ctl = false)
include hl hc

theorem egressStart_sending {y : Nat × Nat} (ht : (c.portSt p).tx = some y) (hm : c.maySuspend p = false) : c.egressStart p unit edge = c := by
  unfold Chip.egressStart
  simp only [hc, hl, ht, hm, Bool.false_eq_true, Bool.not_true, Bool.not_false, if_false, if_true]

theorem egressStart_suspends {y : Nat × Nat} {z : Chip} (ht : (c.portSt p).tx = some y) (hm : c.maySuspend p = true)
    (hz : (c.suspend p).controlFrame p unit edge = some z) : c.egressStart p unit edge = c.suspend p := by
  unfold Chip.egressStart
  simp only [hc, hl, ht, hm, hz, Bool.false_eq_true, Bool.not_true, if_false, Option.isSome_some, if_true]

section
variable (ht : (c.portSt p).tx = none) (hg : c.gapOver p unit = true)
include ht hg

theorem egressStart_control {z : Chip} (hz : c.controlFrame p unit edge = some z) : c.egressStart p unit edge = z := by
  unfold Chip.egressStart
  simp only [hc, hl, ht, hg, hz, Bool.false_eq_true, Bool.not_true, if_false]

theorem egressStart_head {id k : Nat} {u : Tgt} (hz : c.controlFrame p unit edge = none) (hs : (c.portSt p).susp = none)
    (hq : c.consider (queueOf p 7) unit false false = (true, false, c)) (hh : c.head (queueOf p 7) = some (id, k)) (hu : c.tgtOf id k = some u) :
    c.egressStart p unit edge = (c.shape (queueOf p 7) (u.body.length + 4) id k).startTgt p id k edge 0 := by
  have hpick : c.pickQueue p unit false false classesDown = (some (queueOf p 7), c) := by
    unfold classesDown Chip.pickQueue
    simp only [hq, if_true]
  unfold Chip.egressStart
  simp only [hc, hl, ht, hg, hz, hs, hpick, Bool.false_eq_true, Bool.not_true, if_false, Option.isSome_none]
  unfold Chip.startHead
  simp only [hh, hu]

end
end

/-- A flow-control frame due that leaves before the earliest launch held. -/
theorem controlFrame_flow {c : Chip} {p unit m : Nat} {edge : Edge} (hm : (c.portSt p).fcDue = some m)
    (hb : c.leavesBefore p ((c.flowFrame p m).length + 4) unit = true) :
    c.controlFrame p unit edge = some (((((c.updPort p fun y => { y with fcDue := none, fcLast := c.now }).updPort p fun y => { y with ctl := true }).emit
      (.txStart p 7 (c.flowFrame p m) ((c.updPort p fun y => { y with fcDue := none, fcLast := c.now }).txStamp p edge))).feedBack p .express
      (c.flowFrame p m ++ fcsBytes (c.flowFrame p m)))) := by
  unfold Chip.controlFrame
  simp only [hm, hb, if_true]

/-! ### Timed frames (R126 to R129) -/

section
variable {c : Chip} {q id k l : Nat} {f : Frame} {u : Tgt} (hh : c.head q = some (id, k)) (hf : c.frameOf id = some f) (hu : c.tgtOf id k = some u)
  (hl : u.launch = some l)
include hh hf hu hl

theorem releaseArrival_eq : c.releaseArrival q =
    if f.res ≠ 1 ∨ 16 ≤ (c.portSt u.port).slots.length ∨ (!c.cellsOpen f) = true then c
    else if l < c.tb16 then c.dropTimed Ev.LATE_DROP id k
    else if c.tooFar l then c.dropTimed Ev.LAUNCH_FAR id k
    else (((c.unqueue q (id, k)).updTgt id k fun y => { y with st := .slot }).updPort u.port fun y => { y with slots := y.slots ++ [(id, k)] }).showSlots u.port := by
  unfold Chip.releaseArrival
  simp only [hh, hf, hu, hl]

theorem releaseArrival_waits (h : f.res ≠ 1 ∨ 16 ≤ (c.portSt u.port).slots.length ∨ c.cellsOpen f = false) : c.releaseArrival q = c := by
  refine (releaseArrival_eq hh hf hu hl).trans (if_pos (h.imp_right (Or.imp_right fun ho => ?_)))
  rw [ho]
  rfl

theorem releaseArrival_goes (hr : f.res = 1) (hs : (c.portSt u.port).slots.length < 16) (ho : c.cellsOpen f = true) : c.releaseArrival q =
    if l < c.tb16 then c.dropTimed Ev.LATE_DROP id k
    else if c.tooFar l then c.dropTimed Ev.LAUNCH_FAR id k
    else (((c.unqueue q (id, k)).updTgt id k fun y => { y with st := .slot }).updPort u.port fun y => { y with slots := y.slots ++ [(id, k)] }).showSlots u.port := by
  refine (releaseArrival_eq hh hf hu hl).trans (if_neg ?_)
  rw [ho]
  rintro (h | h | h)
  · exact h hr
  · exact absurd hs (Nat.not_lt.2 h)
  · exact absurd h (by decide)

end

section
variable {c : Chip} {p b l id k : Nat} {edge : Edge} {f : Frame} {u : Tgt} (hs : c.firstSlot p = some (l, id, k)) (hu : c.tgtOf id k = some u)
include hs hu

/-- What keeps a launch at its boundary from its lane (R48, R112, R129, R325). -/
def barred (c : Chip) (p b : Nat) (f : Frame) (u : Tgt) : Prop :=
  (!c.cellsOpen f) = true ∨ (c.credited p (u.queue % 8) && decide (c.credit p (u.queue % 8) < cellsOf (u.body.length + 4))) = true ∨
    (!c.laneOpen p) = true ∨ (!c.laneFree p b) = true ∨ bitOf (c.rd Reg.SCHED_STAT_PAUSED p) (u.queue % 8) = true

theorem launchSent_passed (hp : c.boundaryPassed p l = true) : c.launchSent p b edge = c.dropTimed Ev.LATE_DROP id k := by
  unfold Chip.launchSent
  simp only [hs, hu, hp, if_true]

theorem launchSent_early (hp : c.boundaryPassed p l = false) (h : c.isBoundary p l b = false ∨ c.tb16 + tickUp16 ≤ b) : c.launchSent p b edge = c := by
  unfold Chip.launchSent
  simp only [hs, hu, hp, Bool.false_eq_true, if_false]
  refine if_pos (h.imp (fun hb => ?_) fun hb => hb)
  rw [hb]
  rfl

section
variable (hf : c.frameOf id = some f) (hp : c.boundaryPassed p l = false) (hb : c.isBoundary p l b = true) (ht : b < c.tb16 + tickUp16)
include hf hp hb ht

theorem launchSent_barred (h : barred c p b f u) : c.launchSent p b edge = c.dropTimed Ev.LATE_DROP id k := by
  unfold Chip.launchSent
  simp only [hs, hf, hu, hp, hb, Nat.not_le.2 ht, Bool.false_eq_true, Bool.not_true, or_self, if_false, Option.any_some]
  exact if_pos h

theorem launchSent_goes (h : ¬ barred c p b f u) :
    c.launchSent p b edge = ((c.count Ev.LAUNCH_SENT u.queue).startTgt p id k edge (c.boundaryError p l b edge)).showSlots p := by
  unfold Chip.launchSent
  simp only [hs, hf, hu, hp, hb, Nat.not_le.2 ht, Bool.false_eq_true, Bool.not_true, or_self, if_false, Option.any_some]
  exact if_neg h

end
end

theorem boundaryError_eq (c : Chip) (p l b : Nat) (edge : Edge) :
    c.boundaryError p l b edge = (if SMap.get c.tdc (c.edgeChannel true p edge) then b - l else c.boundary p l - l) / 64 :=
  (apply_ite (· / 64) _ _ _).symm

/-! ### The end of a frame, pauses and flow control (R101, R112, R130) -/

theorem txFrameEnd_done {c w : Chip} {p id k : Nat} {f : Frame} {u : Tgt} (hc : (c.portSt p).ctl = false) (ht : (c.portSt p).tx = some (id, k))
    (hf : c.frameOf id = some f) (hu : c.tgtOf id k = some u) (hr : f.res = 1) (hw : w = c.takeArrived) (hp : w.preemptable p (u.queue % 8) = false)
    (hn : w.reports f u = false) :
    c.txFrameEnd p = ((((((w.count Ev.TX_FRAMES p (u.body.length + 4)).count Ev.TX_Q_FRAMES u.queue (u.body.length + 4)).gapAfter p).updPort p fun y =>
      { y with tx := none }).emit (.txEnd p)).dropTgt id k).idleCheck p := by
  subst hw
  unfold Chip.txFrameEnd
  simp only [hc, ht, hf, hu, hr, hp, hn, ne_eq, not_true, Bool.false_and, Bool.false_eq_true, if_false]

theorem pauseExpire_ends {c : Chip} {p : Nat} {l : List Nat}
    (hl : l = (List.range 8).filter (fun k => bitOf (c.rd Reg.SCHED_STAT_PAUSED p) k && decide (SMap.get (c.portSt p).pausedTo k ≤ c.now))) (hn : l ≠ []) :
    c.pauseExpire p = c.wr Reg.SCHED_STAT_PAUSED (l.foldl clrBit (c.rd Reg.SCHED_STAT_PAUSED p)) p := by
  subst hl
  exact if_neg hn

theorem wakePort_fcDue (c : Chip) (p : Nat) : ((c.wakePort p).portSt p).fcDue = (c.portSt p).fcDue := by
  unfold Chip.wakePort
  dsimp only
  split
  · rw [LowPower.emit_portSt, lpShow_port, updPort_port]
  · rw [LowPower.emit_portSt, lpShow_port, updPort_port]
  · rw [LowPower.emit_portSt, updPort_port]
  · rw [updPort_port]

theorem pfcRepeat_due {c : Chip} {p : Nat} (hx : c.rd Reg.IN_STAT_XOFF p ≠ 0) (hp : c.fabPort p = false)
    (ht : (c.portSt p).fcLast + 32768 * (512 * 100000 / max 1 (c.rate p)) ≤ c.now) :
    c.pfcRepeat p = (c.updPort p fun y => { y with fcDue := some (y.fcDue.getD 0 ||| c.rd Reg.IN_STAT_XOFF p) }).wakePort p := by
  refine if_pos ⟨hx, ?_, ht⟩
  rw [hp]
  rfl

/-! ### Shapers and averages (R103, R114) -/

/-- A queue's shaper once the calendar has looked at it. -/
theorem calEnter_shaperOk (c : Chip) (q : Nat) :
    (c.calEnter q).shaperOk q = (c.rd Reg.SHP_RATE_RATE q == 0 || decide (c.shTe q ≤ c.vTime)) := by
  have hcal : SMap.get (c.calEnter q).path.cal q = (c.rd Reg.SHP_RATE_RATE q != 0 && decide (c.vTime < c.shTe q)) := SMap.get_set_same _ _ _
  have he : (c.calEnter q).shaperOk q = (c.rd Reg.SHP_RATE_RATE q == 0 ||
      (decide (c.shTe q ≤ c.vTime) && (!SMap.get (c.calEnter q).path.cal q || decide (c.shTe q + calSlot ≤ c.vTime)))) := rfl
  rw [he, hcal]
  by_cases h : c.shTe q ≤ c.vTime
  · rw [decide_eq_true h, decide_eq_false (Nat.not_lt.2 h), Bool.and_false]
    rfl
  · rw [decide_eq_false h, Bool.false_and]

theorem steady_shaperOk (c : Chip) (q : Nat) : c.steady.shaperOk q = c.shaperOk q := by
  unfold Chip.shaperOk Chip.shTe Chip.vTime Chip.now
  rw [Chip.steady_rd _ _ _ _ (by decide), Chip.steady_rd _ _ _ _ (by decide), Chip.steady_path]

/-- The average of the only queue with a profile. -/
theorem redUpdate_one {c : Chip} {q w d avg : Nat} (hq : ((List.range 4096).filter fun q => c.rd Reg.Q_BUF_RED_PROF q != 0) = [q])
    (hn : c.path.redN < c.now / 65536) (hw : w = c.rd Reg.RED_PROF_W 0 (3 * c.rd Reg.Q_BUF_RED_PROF q)) (hd : d = c.depthShown q * 65536)
    (ha : avg = SMap.get c.path.redAvg q) :
    SMap.get c.redUpdate.path.redAvg q = if avg ≤ d then avg + (d - avg) / 2 ^ w else avg - (avg - d) / 2 ^ w := by
  subst hw hd ha
  unfold Chip.redUpdate Chip.each
  rw [if_neg (Nat.not_le.2 hn), hq, List.foldl_cons, List.foldl_nil]
  exact SMap.get_set_same _ _ _

/-! ### The obligation -/

/-- Settles O46: each event by the equation of its meaning where the conditions hold. -/
theorem frameTransmission : Obligations.FrameTransmission := by
  unfold Obligations.FrameTransmission
  intro s
  refine ⟨?_, ?_, ?_, ?_, ?_, ?_, ?_, ?_⟩
  · intro p unit edge hl hc
    refine ⟨fun y ht => ⟨fun hm => ?_, fun z hm hz => ?_⟩, fun m x b ht hg hb hm hlb hx => ?_, fun id k u ht hg hz hs hq hh hu => ?_⟩
    · exact ⟨_, exec_next (g := Chip.egressStart p unit edge) rfl (egressStart_sending hl hc ht hm), rfl, rfl⟩
    · exact ⟨_, exec_next (g := Chip.egressStart p unit edge) rfl (egressStart_suspends hl hc ht hm hz), rfl, rfl⟩
    · subst hb hx
      exact ⟨_, exec_next (g := Chip.egressStart p unit edge) rfl (egressStart_control hl hc ht hg (controlFrame_flow hm hlb)), rfl, rfl⟩
    · exact ⟨_, exec_next (g := Chip.egressStart p unit edge) rfl (egressStart_head hl hc ht hg hz hs hq hh hu), rfl, rfl⟩
  · intro q id k l f u hh hf hu hl
    refine ⟨fun h => ?_, fun hr hs ho => ?_⟩
    · exact ⟨_, exec_next (g := Chip.releaseArrival q) rfl (releaseArrival_waits hh hf hu hl h), rfl, rfl⟩
    · have hgo := releaseArrival_goes hh hf hu hl hr hs ho
      refine ⟨fun ht => ?_, fun ht hfar => ?_, fun ht hfar => ?_⟩
      · exact ⟨_, exec_next (g := Chip.releaseArrival q) rfl (hgo.trans (if_pos ht)), rfl, rfl⟩
      · exact ⟨_, exec_next (g := Chip.releaseArrival q) rfl (hgo.trans ((if_neg (Nat.not_lt.2 ht)).trans (if_pos hfar))), rfl, rfl⟩
      · have hn : ¬ s.chip.tooFar l = true := by rw [hfar]; decide
        exact ⟨_, exec_next (g := Chip.releaseArrival q) rfl (hgo.trans ((if_neg (Nat.not_lt.2 ht)).trans (if_neg hn))), rfl, rfl⟩
  · intro p b l id k edge f u hs hf hu
    refine ⟨fun hp => ?_, fun hp h => ?_, fun hp hb ht => ⟨fun e ho hcr hl hfree hpause he => ?_, fun h => ?_⟩⟩
    · exact ⟨_, exec_next (g := Chip.launchSent p b edge) rfl (launchSent_passed hs hu hp), rfl, rfl⟩
    · exact ⟨_, exec_next (g := Chip.launchSent p b edge) rfl (launchSent_early hs hu hp h), rfl, rfl⟩
    · have hopen : ¬ barred s.chip p b f u := by
        unfold barred
        rw [ho, hl, hfree, hpause]
        rintro (h | h | h | h | h)
        · exact absurd h (by decide)
        · obtain ⟨h1, h2⟩ := Bool.and_eq_true_iff.1 h
          exact absurd (hcr h1) (Nat.not_le.2 (of_decide_eq_true h2))
        · exact absurd h (by decide)
        · exact absurd h (by decide)
        · exact absurd h (by decide)
      refine ⟨_, exec_next (g := Chip.launchSent p b edge) rfl (launchSent_goes hs hu hf hp hb ht hopen), rfl, ?_⟩
      rw [he, boundaryError_eq]
    · have hbar : barred s.chip p b f u := by
        unfold barred
        rcases h with h | h | h | h | ⟨h1, h2⟩
        · exact .inr (.inr (.inl (by rw [h]; rfl)))
        · exact .inr (.inr (.inr (.inl (by rw [h]; rfl))))
        · exact .inl (by rw [h]; rfl)
        · exact .inr (.inr (.inr (.inr h)))
        · exact .inr (.inl (by rw [h1, decide_eq_true h2]; rfl))
      exact ⟨_, exec_next (g := Chip.launchSent p b edge) rfl (launchSent_barred hs hu hf hp hb ht hbar), rfl, rfl⟩
  · intro p id k f u w x hc ht hf hu hr hw hp hn hx
    have hend : s.chip.txFrameEnd p = x := (txFrameEnd_done hc ht hf hu hr hw hp hn).trans hx.symm
    refine ⟨_, exec_next (g := Chip.txFrameEnded p) (d := if x.twinPort p && x.pairOn then x.ckDrain else x) rfl ?_, rfl, rfl⟩
    unfold Chip.txFrameEnded
    rw [hend]
  · intro p l hl hn
    refine ⟨_, exec_next (g := Chip.pauseExpire p) rfl (pauseExpire_ends hl hn), rfl, ?_⟩
    exact (Chip.steady_rd _ _ _ _ (by decide)).trans (Chip.rd_wr_same _ _ _ _ _)
  · intro p hx hp ht
    refine ⟨_, exec_next (g := Chip.pfcRepeat p) rfl (pfcRepeat_due hx hp ht), rfl, ?_⟩
    refine (congrArg PortSt.fcDue (steady_portSt _ _)).trans ((wakePort_fcDue _ _).trans ?_)
    rw [updPort_port]
  · intro q
    exact ⟨_, exec_next (g := Chip.shaperWake q) rfl rfl, rfl, (steady_shaperOk _ _).trans (calEnter_shaperOk _ _), rfl⟩
  · intro q w d avg hq hn hw hd ha
    refine ⟨_, exec_next (g := Chip.redUpdate) rfl rfl, rfl, ?_⟩
    dsimp only
    rw [Chip.steady_path]
    exact redUpdate_one hq hn hw hd ha

end Sys2Proof.Transmission
end

section
/-! PROOFS. A frame from its start to its confirmation (R21, R23, R25, R33, R34, R74, R80, R82 to R87, R92, R176, R259). -/

namespace Sys2Proof.Reception
open Sys2Proof.Machine Sys2Proof.Laws

theorem frameOf_id {c : Chip} {id : Nat} {f : Frame} (h : c.frameOf id = some f) : f.id = id := by
  have h' := List.find?_some h
  simpa using h'

/-! ### The start of a frame (R33, R34, R123) -/

/-- A frame the crossing buffer has no room for (R34). -/
def crossFull (c : Chip) (port : Nat) : Bool := decide (port < 512) && c.belowZero && decide (c.crossFree port < c.maxFrame port)

/-- A verify or respond packet. -/
def plainKind (kind : RxKind) : Bool := kind == .verify || kind == .respond

/-- The block once a stamp has taken the edge's lane. -/
def stampTaken (c : Chip) (port : Nat) (edge : Edge) : Chip :=
  if c.pma false port edge then c.laneStamped (c.edgeLane port edge) edge.at_ else c

/-- The record of a frame that begins. -/
def begun (c : Chip) (port : Nat) (kind : RxKind) (b : Bytes) (edge : Edge) (deskew : Int) (stage drop : Nat) : Frame :=
  { id := (stampTaken c port edge).path.frameCtr, port := port, kind := kind, bytes := b.take ((stampTaken c port edge).maxFrame port + 1)
    stamp := c.rxStamp port edge deskew, cont := c.rxStamp port edge deskew - (c.atStamp false port edge).rdS Reg.STEP_SUM
    steps := (c.atStamp false port edge).rd Reg.TIME_STATUS_STEP_COUNT, pma := c.pma false port edge, startAt := (stampTaken c port edge).now
    stage := stage, drop := drop, dropUnit := port }

/-- The block with a frame record added. -/
def framed (d : Chip) (g : Frame) : Chip := { d with path := { d.path with frameCtr := d.path.frameCtr + 1, frames := d.path.frames ++ [g] } }

section
variable {c : Chip} {port : Nat} {kind : RxKind} {b : Bytes} {edge : Edge} {deskew : Int}

theorem rxFrameStart_loop (hl : c.nearLoop port = true) (hq : (c.portSt port).loopQ = []) : c.rxFrameStart port kind b edge deskew = c := by
  have hd : c.delivered port kind b = none := (if_pos hl).trans (by rw [hq]; rfl)
  unfold Chip.rxFrameStart
  simp only [hd]

section
variable (hu : c.linkUp port = true) (hn : c.nearLoop port = false)
include hu hn

theorem rxFrameStart_line : c.rxFrameStart port kind b edge deskew =
    if kind ≠ .express ∧ (!c.merges port) = true then c
    else framed (stampTaken c port edge) (begun c port kind b edge deskew (if crossFull c port = true ∨ plainKind kind = true then 2 else 0)
      (if crossFull c port then Ev.RX_XOVF else if plainKind kind then 1 else 0)) := by
  have hd : c.delivered port kind b = some (kind, b) := if_neg (by rw [hn]; decide)
  unfold Chip.rxFrameStart
  simp only [hd, hn, hu, Bool.false_eq_true, Bool.not_true, if_false, false_or]
  rfl

/-- A frame is dropped at its start where the crossing buffer has no room for it (R34), or it is a packet of the verification (R123). -/
theorem rxFrameStart_dropped {drop : Nat} (hm : kind = .express ∨ c.merges port = true)
    (h : crossFull c port = true ∧ drop = Ev.RX_XOVF ∨ crossFull c port = false ∧ plainKind kind = true ∧ drop = 1) :
    c.rxFrameStart port kind b edge deskew = framed (stampTaken c port edge) (begun c port kind b edge deskew 2 drop) := by
  rw [rxFrameStart_line hu hn, if_neg (by rcases hm with rfl | hm <;> simp [*])]
  obtain ⟨hx, rfl⟩ | ⟨hx, hk, rfl⟩ := h
  · simp [hx]
  · simp [hx, hk]

theorem rxFrameStart_taken (hm : kind = .express ∨ c.merges port = true) (hx : crossFull c port = false) (hk : plainKind kind = false) :
    c.rxFrameStart port kind b edge deskew = framed (stampTaken c port edge) (begun c port kind b edge deskew 0 0) := by
  rw [rxFrameStart_line hu hn, if_neg (by rcases hm with rfl | hm <;> simp [*])]
  simp [hx, hk]

theorem rxFrameStart_unmerged (hk : kind ≠ .express) (hm : c.merges port = false) : c.rxFrameStart port kind b edge deskew = c := by
  rw [rxFrameStart_line hu hn, if_pos ⟨hk, by simp [hm]⟩]

end
end

theorem crossFull_true {c : Chip} {port : Nat} (hp : port < 512) (hz : c.belowZero = true) (hr : c.crossFree port < c.maxFrame port) : crossFull c port = true := by
  simp [crossFull, hp, hz, hr]

theorem crossFull_false {c : Chip} {port : Nat} (h : 512 ≤ port ∨ c.belowZero = false ∨ c.maxFrame port ≤ c.crossFree port) : crossFull c port = false := by
  obtain h | h | h := h <;> simp [crossFull, h]

theorem plainKind_true {kind : RxKind} (h : kind = .verify ∨ kind = .respond) : plainKind kind = true := by
  obtain rfl | rfl := h <;> rfl

theorem plainKind_false {kind : RxKind} (h : kind ≠ .verify ∧ kind ≠ .respond) : plainKind kind = false := by
  simp [plainKind, h.1, h.2]

/-! ### The key point (R33, R74) -/

/-- The block once a key is counted. -/
def keyCounted (c : Chip) : Chip := { c with path := { c.path with keyCtr := c.path.keyCtr + 1 } }

/-- A frame whose key is handed over. -/
def keyed (c : Chip) (f : Frame) : Frame :=
  { f with stage := 1, keyNo := c.path.keyCtr + 1, keyTime := c.tb16, defPcp := c.rd Reg.FP_CFG_DEF_PCP f.port }

section
variable {c d : Chip} {id : Nat} {f g g1 : Frame} (hf : c.frameOf id = some f) (ht : c.inTurn f 0 = true)
include hf ht

/-- A frame in turn gets its key, as its port's kind says. -/
theorem keyPoint_inTurn (h : (if f.port = 512 then ({ keyed c f with cls := 7, traps := [7] }, keyCounted c)
      else if c.twinPort f.port then ((keyCounted c).mirrorIn (Chip.twinKey (keyed c f)), keyCounted c)
      else if c.fabPort f.port then (((keyCounted c).fabricKey (keyed c f)).2.mirrorIn ((keyCounted c).fabricKey (keyed c f)).1, ((keyCounted c).fabricKey (keyed c f)).2)
      else if (pauseOf (f.inner 0)).isSome then ((keyCounted c).mirrorIn ((keyed c f).headDrop 1), keyCounted c)
      else (keyCounted c).edgeKey (keyed c f)) = (g, d)) :
    c.keyPoint id = d.updFrame id fun _ => d.keyEntries g := by
  unfold Chip.keyPoint
  simp only [hf, ht, Bool.not_true, Bool.false_eq_true, if_false]
  exact congrArg (fun p : Frame × Chip => p.2.updFrame id fun _ => p.2.keyEntries p.1) h

theorem keyPoint_mgt (hp : f.port = 512) :
    c.keyPoint id = (keyCounted c).updFrame id fun _ => (keyCounted c).keyEntries { keyed c f with cls := 7, traps := [7] } :=
  keyPoint_inTurn hf ht (if_pos hp)

section
variable (hp : f.port ≠ 512)
include hp

theorem keyPoint_twin (hw : c.twinPort f.port = true) :
    c.keyPoint id = (keyCounted c).updFrame id fun _ => (keyCounted c).keyEntries ((keyCounted c).mirrorIn (Chip.twinKey (keyed c f))) :=
  keyPoint_inTurn hf ht ((if_neg hp).trans (if_pos hw))

variable (hw : c.twinPort f.port = false)
include hw

theorem keyPoint_fabric (hb : c.fabPort f.port = true) (hk : (keyCounted c).fabricKey (keyed c f) = (g1, d)) :
    c.keyPoint id = d.updFrame id fun _ => d.keyEntries (d.mirrorIn g1) :=
  keyPoint_inTurn hf ht ((if_neg hp).trans ((if_neg (by simp [hw])).trans ((if_pos hb).trans (by rw [hk]))))

variable (hb : c.fabPort f.port = false)
include hb

theorem keyPoint_pause (hq : (pauseOf (f.inner 0)).isSome = true) :
    c.keyPoint id = (keyCounted c).updFrame id fun _ => (keyCounted c).keyEntries ((keyCounted c).mirrorIn ((keyed c f).headDrop 1)) :=
  keyPoint_inTurn hf ht ((if_neg hp).trans ((if_neg (by simp [hw])).trans ((if_neg (by simp [hb])).trans (if_pos hq))))

theorem keyPoint_edge (hq : (pauseOf (f.inner 0)).isSome = false) (hk : (keyCounted c).edgeKey (keyed c f) = (g, d)) :
    c.keyPoint id = d.updFrame id fun _ => d.keyEntries g :=
  keyPoint_inTurn hf ht ((if_neg hp).trans ((if_neg (by simp [hw])).trans ((if_neg (by simp [hb])).trans ((if_neg (by simp [hq])).trans hk))))

end
end

/-! ### The lookup point (R86, R87, R92) -/

/-- The frame as it stands at its lookup point. -/
def lookedUp (w : Chip) (f : Frame) : Frame := { f with stage := 2, lossless := decide (f.port < 512) && bitOf (w.losslessMask f.port) f.cls }

/-- A frame with one target that is admitted gets the cells that have arrived and starts where it may. -/
theorem lookupPoint_one {c x : Chip} {id taken p : Nat} {f h : Frame} (hf : c.frameOf id = some f) (ht : c.inTurn f 1 = true) (hq : f.seqId = none)
    (hd : f.drop = 0) (hm : f.mirs = []) (hr : f.traps = []) (hb : f.look.fab = 0) (hy : f.look.many = false) (hp : maskPorts f.look.mask = [p])
    (hx : x = (c.takeArrived.updFrame id fun _ => lookedUp c.takeArrived f).admitAll id
      [(c.takeArrived.updFrame id fun _ => lookedUp c.takeArrived f).portTgt (lookedUp c.takeArrived f) p])
    (hh : x.frameOf id = some h) (hg : h.tgts ≠ []) :
    c.lookupPoint id taken false =
      (Chip.chargeTo (max (min taken (cellsOf h.len)) ((x.updFrame id fun _ => h).cellsHere h)) id h.writer ((x.updFrame id fun _ => h).sourceOrder h)
        (x.updFrame id fun _ => h)).startCandidates id := by
  have hseq : c.takeArrived.seqCheck f = (f, c.takeArrived) := by unfold Chip.seqCheck; rw [hq]
  have hfab : c.takeArrived.fabTargets (lookedUp c.takeArrived f) = ([], [], false) := by
    unfold Chip.fabTargets
    simp only [lookedUp, hb]
  have hlive : (f.drop == 0) = true := by simp [hd]
  have hports : (maskPorts f.look.mask).filter (fun q => !f.look.many || c.takeArrived.mode q != 0) = [p] := by simp [hy, hp]
  have hmirs (F : Nat × Nat → Tgt) : f.mirs.map F = [] := by rw [hm]; rfl
  have htraps : f.traps.eraseDups = [] := by rw [hr]; rfl
  have hL : ({ f with stage := 2, lossless := decide (f.port < 512) && bitOf (c.takeArrived.losslessMask f.port) f.cls } : Frame) = lookedUp c.takeArrived f := rfl
  unfold Chip.lookupPoint
  simp only [hf, ht, hseq, hL, hfab, hlive, hports, hmirs, htraps, Bool.not_true, Bool.false_eq_true, if_false, if_true, false_and, List.map_nil, List.map_cons,
    List.append_nil, ← hx, hh, hg, reduceCtorEq, false_or, and_false]

/-! ### The taps (R259) -/

/-- Effects in turn that each leave a block as it is. -/
theorem each_idle {α : Type} {f : α → Chip → Chip} {c : Chip} : ∀ {l : List α}, (∀ x ∈ l, f x c = c) → c.each l f = c
  | [], _ => rfl
  | a :: l, h => by
    have ha : c.each (a :: l) f = (f a c).each l f := rfl
    rw [ha, h a (by simp)]
    exact each_idle fun x hx => h x (by simp [hx])

/-- Effects in turn of which one acts: the others leave the block as it is, before that one and after it. -/
theorem each_only {α : Type} {f : α → Chip → Chip} {k : α} {l : List α} {c d : Chip} (hn : l.Nodup) (hk : k ∈ l) (hc : ∀ x ∈ l, x ≠ k → f x c = c)
    (hkd : f k c = d) (hd : ∀ x ∈ l, x ≠ k → f x d = d) : c.each l f = d := by
  obtain ⟨m, r, rfl⟩ := List.append_of_mem hk
  obtain ⟨hm, hr⟩ : k ∉ m ∧ k ∉ r := by
    have h := (List.nodup_cons.1 (List.nodup_middle.1 hn)).1
    simpa [not_or] using h
  calc c.each (m ++ k :: r) f = (f k (c.each m f)).each r f := by simp [Chip.each]
    _ = d.each r f := by rw [each_idle fun x hx => hc x (by simp [hx]) (ne_of_mem_of_not_mem hx hm), hkd]
    _ = d := each_idle fun x hx => hd x (by simp [hx]) (ne_of_mem_of_not_mem hx hr)

/-- A frame at the taps of one domain. -/
def tapDomain (f : Frame) (d : Nat) (c : Chip) : Chip :=
  if !(c.dom d).ran || decide ((f.keyTime : Int) < (c.dom d).tk) || decide ((c.dom d).tk + ((c.dom d).dIn * 65536 : Nat) ≤ (f.keyTime : Int)) then c
  else
    c.each (c.frameInputs d) fun i c =>
      if c.rd Reg.GATHER_LIST_PORT d i ≠ f.port ∨ (c.on Reg.GATHER_LIST_SH_EN d i ∧ f.look.handle ≠ some (c.rd Reg.GATHER_LIST_SH d i)) then c
      else if (c.gin d i).held ≠ [] ∨ c.bankHeld (c.rd Reg.GATHER_LIST_ADDR d i * 64) then c.updGin d i fun g => { g with held := g.held ++ [(f, none)] }
      else c.tapEntry d i f none

theorem tapFrame_eq (c : Chip) (f : Frame) : c.tapFrame f = (c.each (List.range 4) (tapDomain f)).updFrame f.id fun y => { y with tapped := true } := rfl

theorem tapDomain_idle {c : Chip} {f : Frame} {d : Nat} (h : (c.dom d).ran = false) : tapDomain f d c = c := if_pos (by simp [h])

/-- A frame that passes its octet's taps alone, for one input of one domain that runs. -/
theorem gatherTap_one {c x : Chip} {id i : Nat} {d : Fin 4} {f : Frame} (hf : c.frameOf id = some f) (ho : f.origin = .received) (hs : f.stage = 2) (hr : f.res = 0)
    (ht : f.tapped = false)
    (hl : (c.path.frames.filter fun g => g.origin == .received && g.stage == 2 && g.res == 0 && !g.tapped && g.port / 8 == f.port / 8 && decide (g.keyNo ≤ f.keyNo)) = [f])
    (hrun : (c.dom d).ran = true) (hbank : c.bankHeld (c.rd Reg.GATHER_LIST_ADDR d i * 64) = false) (hheld : (c.gin d i).held = []) (hfrom : (c.dom d).tk ≤ f.keyTime)
    (hto : (f.keyTime : Int) < (c.dom d).tk + ((c.dom d).dIn * 65536 : Nat)) (hin : c.frameInputs d = [i]) (hp : c.rd Reg.GATHER_LIST_PORT d i = f.port)
    (hsh : c.on Reg.GATHER_LIST_SH_EN d i = false) (hg : (c.gin d i).frame = none)
    (hx : x = (if ((c.takeFrame d i f none).dom d).busy then (c.takeFrame d i f none).resumeInputs d else c.takeFrame d i f none))
    (hother : ∀ e < 4, e ≠ d.val → (c.dom e).ran = false ∧ (x.dom e).ran = false) :
    c.gatherTap id = x.updFrame id fun y => { y with tapped := true } := by
  have htap : c.tapEntry d i f none = x := by unfold Chip.tapEntry; simp only [hg]; exact hx.symm
  have hdoms : c.each (List.range 4) (tapDomain f) = x := by
    refine each_only List.nodup_range (List.mem_range.2 d.isLt) ?_ ?_ ?_
    · intro e he hne
      exact tapDomain_idle (hother e (List.mem_range.1 he) hne).1
    · rw [tapDomain, if_neg (by simpa [hrun, hfrom] using hto), hin]
      refine (if_neg (by simp [hp, hsh])).trans ((if_neg (by simp [hheld, hbank])).trans htap)
    · intro e he hne
      exact tapDomain_idle (hother e (List.mem_range.1 he) hne).2
  have hframe : c.tapFrame f = x.updFrame id fun y => { y with tapped := true } := by
    rw [tapFrame_eq, hdoms, frameOf_id hf]
  unfold Chip.gatherTap
  simp only [hf]
  rw [if_neg (by simp [ho, hs, hr, ht]), hl]
  exact hframe

/-! ### The cut and the tail check (R21, R82, R85) -/

section
variable {c y : Chip} {id : Nat} {f : Frame} (hy : y = c.gatherTap id) (hf : y.frameOf id = some f) (hs : f.stage = 2) (hr : f.res = 0) (ho : f.origin = .received)
  (hold : y.oldest f = true)
include hy hf hs hr ho hold

theorem rxOversizeCut_cut {cause : Nat} (hc : y.overCause f = cause) (h0 : cause ≠ 0) :
    c.rxOversizeCut id = (y.takeArrived.failFrame id cause).resolveGather id false := by
  have hcut : y.oversizeCut id = some (y.takeArrived.failFrame id cause) := by
    unfold Chip.oversizeCut
    simp only [hf, hc]
    exact if_neg (by simp [hs, hr, ho, hold, h0])
  unfold Chip.rxOversizeCut
  rw [← hy, hcut]

section
variable {codeErr fecErr fragErr : Bool} {fec : FecCount} {c1 x : Chip} {g : Frame} (hp : y.portTurn f.port = true) (hh : y.historyHeld f = false)
  (hc1 : c1 = (y.takeRest id).countFec f.port fec) (hx : x = { c1 with path := { c1.path with tailAt := y.now, tailPort := f.port } }) (hg : x.frameOf id = some g)
include hp hh hc1 hx hg

omit hy in
theorem tailCheck_due : y.tailCheck id codeErr fecErr fragErr fec =
    if x.tailCause g codeErr fecErr fragErr = 0 then some (true, x.passFrame id) else some (false, x.failFrame id (x.tailCause g codeErr fecErr fragErr)) := by
  unfold Chip.tailCheck
  simp only [hf]
  rw [if_neg (by simp [hs, hr, ho, hold, hp, hh]), ← hc1, ← hx, hg]

theorem confirmation_pass (h0 : x.tailCause g codeErr fecErr fragErr = 0) :
    c.confirmation id codeErr fecErr fragErr fec = (x.passFrame id).resolveGather id true := by
  unfold Chip.confirmation
  rw [← hy, tailCheck_due hf hs hr ho hold hp hh hc1 hx hg, if_pos h0]

theorem confirmation_fail (h0 : x.tailCause g codeErr fecErr fragErr ≠ 0) :
    c.confirmation id codeErr fecErr fragErr fec = (x.failFrame id (x.tailCause g codeErr fecErr fragErr)).resolveGather id false := by
  unfold Chip.confirmation
  rw [← hy, tailCheck_due hf hs hr ho hold hp hh hc1 hx hg, if_neg h0]

end
end

theorem overCause_of {c : Chip} {f : Frame} {cause : Nat}
    (h : cause = 2 ∧ c.maxFrame f.port < f.len ∧ (f.sdu = 0 ∨ c.maxFrame f.port ≤ f.sdu) ∨
      cause = 5 ∧ f.drop = 0 ∧ f.sdu ≠ 0 ∧ f.sdu < f.len ∧ f.sdu < c.maxFrame f.port) : c.overCause f = cause ∧ cause ≠ 0 := by
  obtain ⟨rfl, hlen, hsdu⟩ | ⟨rfl, h⟩ := h
  · exact ⟨(if_neg (by omega)).trans (if_pos hlen), by decide⟩
  · exact ⟨if_pos h, by decide⟩

/-- A cut-through frame not confirmed at its last byte ends with a marker of cause 7. -/
theorem lateConfirm_marks {c : Chip} {p id k : Nat} {f : Frame} {u : Tgt} (ht : (c.portSt p).tx = some (id, k)) (hf : c.frameOf id = some f) (hu : c.tgtOf id k = some u)
    (hr : f.res = 0) (hc : u.cut = true) (hb : c.on Reg.BARO_STATUS_CORE_SLOW_NOW = true) : c.lateConfirm p = (c.markEnd p id k 7).endCopies id k 7 := by
  unfold Chip.lateConfirm
  simp only [ht, hf, hu]
  exact if_pos ⟨hr, hc, hb⟩

/-- Settles O45: a frame's start, key point, lookup point, taps, tail check and late confirmation. -/
theorem frameReception : Obligations.FrameReception := by
  unfold Obligations.FrameReception
  intro s
  refine ⟨?_, ?_, ?_, ?_, ?_, ?_, ?_⟩
  · intro port kind b edge deskew y d f hu hn hy hd hf
    rw [hy] at hf
    have hd' : d = stampTaken s.chip port edge := hd
    rw [hd'] at hf ⊢
    refine ⟨fun hk hm => ⟨_, exec_next (g := Chip.rxFrameStart port kind b edge deskew) rfl (rxFrameStart_unmerged hu hn hk hm), rfl, rfl⟩, fun g hm h => ?_⟩
    rw [hf] at h
    obtain ⟨hp, hz, hr, rfl⟩ | ⟨hx, ⟨rfl, hk⟩ | ⟨rfl, hk⟩⟩ := h
    · exact ⟨_, exec_next (g := Chip.rxFrameStart port kind b edge deskew) rfl (rxFrameStart_dropped hu hn hm (.inl ⟨crossFull_true hp hz hr, rfl⟩)), rfl, rfl⟩
    · exact ⟨_, exec_next (g := Chip.rxFrameStart port kind b edge deskew) rfl (rxFrameStart_taken hu hn hm (crossFull_false hx) (plainKind_false hk)), rfl, rfl⟩
    · exact ⟨_, exec_next (g := Chip.rxFrameStart port kind b edge deskew) rfl (rxFrameStart_dropped hu hn hm (.inr ⟨crossFull_false hx, plainKind_true hk, rfl⟩)), rfl, rfl⟩
  · intro port kind b edge deskew hl hq
    exact ⟨_, exec_next (g := Chip.rxFrameStart port kind b edge deskew) rfl (rxFrameStart_loop hl hq), rfl, rfl⟩
  · intro id f f1 g g1 x d hf ht hx hf1 h
    have hx' : x = keyCounted s.chip := hx
    have hf1' : f1 = keyed s.chip f := hf1
    rw [hx', hf1'] at h
    obtain ⟨hp, rfl, rfl⟩ | ⟨hp, hw, rfl, rfl⟩ | ⟨hp, hw, hb, hk, rfl⟩ | ⟨hp, hw, hb, ⟨hq, rfl, rfl⟩ | ⟨hq, hk⟩⟩ := h
    · exact ⟨_, exec_next (g := Chip.keyPoint id) rfl (keyPoint_mgt hf ht hp), rfl, rfl⟩
    · exact ⟨_, exec_next (g := Chip.keyPoint id) rfl (keyPoint_twin hf ht hp hw), rfl, rfl⟩
    · exact ⟨_, exec_next (g := Chip.keyPoint id) rfl (keyPoint_fabric hf ht hp hw hb hk), rfl, rfl⟩
    · exact ⟨_, exec_next (g := Chip.keyPoint id) rfl (keyPoint_pause hf ht hp hw hb hq), rfl, rfl⟩
    · exact ⟨_, exec_next (g := Chip.keyPoint id) rfl (keyPoint_edge hf ht hp hw hb hq hk), rfl, rfl⟩
  · intro id taken p f g h w x y hf ht hq hd hm hr hb hy hp hw hg hx hh ht' _ hy'
    rw [hy']
    rw [hg, hw] at hx
    exact ⟨_, exec_next (g := Chip.lookupPoint id taken false) rfl (lookupPoint_one hf ht hq hd hm hr hb hy hp hx hh ht'), rfl, rfl⟩
  · intro id i d f x hf ho hs hr ht hl hrun hbank hheld hfrom hto hin hp hsh hg hx hother
    exact ⟨_, exec_next (g := Chip.gatherTap id) rfl (gatherTap_one hf ho hs hr ht hl hrun hbank hheld hfrom hto hin hp hsh hg hx hother), rfl, rfl⟩
  · intro id f y hy hf hs hr ho hold
    refine ⟨fun cause h => ?_, fun codeErr fragErr fec c1 x g hp hh hc1 hx hg => ⟨fun h0 => ?_, fun cause hcause h0 => ?_⟩⟩
    · obtain ⟨hc, h0⟩ := overCause_of h
      exact ⟨_, exec_next (g := Chip.rxOversizeCut id) rfl (rxOversizeCut_cut hy hf hs hr ho hold hc h0), rfl, rfl⟩
    · exact ⟨_, exec_next (g := Chip.confirmation id codeErr fec.err fragErr fec) rfl (confirmation_pass hy hf hs hr ho hold hp hh hc1 hx hg h0), rfl, rfl⟩
    · rw [← hcause] at h0 ⊢
      exact ⟨_, exec_next (g := Chip.confirmation id codeErr fec.err fragErr fec) rfl (confirmation_fail hy hf hs hr ho hold hp hh hc1 hx hg h0), rfl, rfl⟩
  · intro p id k f u ht hf hu hr hc hb
    exact ⟨_, exec_next (g := Chip.lateConfirm p) rfl (lateConfirm_marks ht hf hu hr hc hb), rfl, rfl⟩

end Sys2Proof.Reception
end
